-- ==== Sys2Proof/Word.lean ====
section
/-! DEFINITION. The word types of the T32: bytes, 32-bit and 64-bit values, lane masks, PCs, log-memory lines. -/

namespace Sys2Proof

/-- One byte of any memory (R4: little-endian, byte addressed). -/
abbrev Byte := BitVec 8
/-- One 32-bit register value: v-registers, x-registers, queue words (R38). -/
abbrev Word := BitVec 32
/-- One 64-bit value: g-registers, s-registers, rejoin masks (R38). -/
abbrev Dword := BitVec 64
/-- A set of lanes: bit l is lane l (R9, R160). -/
abbrev Lanes := BitVec 64
/-- A program counter: a 48-bit virtual byte address (R36). -/
abbrev Pc := BitVec 48
/-- One instruction word of a group or sequencer stream (R35). -/
abbrev IWord := BitVec 96
/-- One 256-byte logical line; byte i is bits [8i+7:8i] (R193). -/
abbrev Line := BitVec 2048
/-- A byte mask over one line (R207). -/
abbrev LineMask := BitVec 256

end Sys2Proof
end

