-- ==== Sys2Proof/Syntax.lean ====
section
/-! DEFINITION. The steps of the T32 as syntax: one constructor of Instr per row of spec/opcode_table.json.
Instructions of 96-bit streams carry the fields of their layout (R35, R45); micro-ops of the piccolo slot carry the
fields of Table 8-2; command packets those of Tables 16-2 to 16-5; every other row is a step of an engine or of the
outside world and carries the names of the agents it concerns. -/

namespace Sys2Proof

/-- Guard and hints of a word (R48 to R50, Table 2-1). -/
structure Hdr where
  neg : Bool
  k : BitVec 3
  land : Bool
  yld : Bool
  dly : BitVec 3
  ru : Bool
  deriving DecidableEq, Repr

/-- The default guard and no hint (R48: GRD 0b0111). -/
def Hdr.plain : Hdr := { neg := false, k := 7, land := false, yld := false, dly := 0, ru := false }

/-- An operand field (R38, Table 2-2). -/
inductive Opnd where
  | v (n : BitVec 7)
  | x (n : BitVec 4)
  | g (n : BitVec 6)
  | sp (n : BitVec 8)
  | imm (b : BitVec 8)
  deriving DecidableEq, Repr

/-- The field value 0x000 that an unused operand field must hold (R41). -/
def Opnd.none : Opnd := .v 0

/-- Table 2-6. -/
inductive Ty where
  | b8 | s8 | b16 | s16 | b32 | s32 | b64 | s64 | f32 | f16 | bf16 | e4m3 | e5m2 | e2m1
  deriving DecidableEq, Repr

/-- Table 2-7. -/
inductive Rnd where
  | rne | rtz | rdn | rup
  deriving DecidableEq, Repr

/-- Table 2-8, SPACE. -/
inductive Space where
  | ln | cr | cm | ds | gl
  deriving DecidableEq, Repr

/-- Table 2-8, WIDTH. -/
inductive Width where
  | byte | half | word | dword | qword
  deriving DecidableEq, Repr

/-- Table 2-9. -/
inductive Order where
  | rlx | acq | rel | ar | sc
  deriving DecidableEq, Repr

/-- Table 1-3. -/
inductive Scope where
  | ln | co | qd | cl | di | pk | pd
  deriving DecidableEq, Repr

/-- The relations of R144. -/
inductive Rel where
  | eq | ne | lt | le | gt | ge | un | ord
  deriving DecidableEq, Repr

/-- A word of the ALU layout (Table 2-5). -/
structure Alu where
  hdr : Hdr
  ty : Ty
  rnd : Rnd
  sat : Bool
  fn : BitVec 5
  d : Opnd
  a : Opnd
  b : Opnd
  imm : BitVec 32
  deriving DecidableEq, Repr

/-- A word of the MEM layout (Table 2-5). -/
structure Mem where
  hdr : Hdr
  space : Space
  width : Width
  order : Order
  scope : Scope
  d : Opnd
  a : Opnd
  b : Opnd
  imm : BitVec 32
  deriving DecidableEq, Repr

/-- A word of the CTL layout: its MOD field has the meaning its instruction gives it (Table 2-5). -/
structure Ctl where
  hdr : Hdr
  mod : BitVec 12
  d : Opnd
  a : Opnd
  b : Opnd
  imm : BitVec 32
  deriving DecidableEq, Repr

/-- The operations of Table 5-10. -/
inductive LoopOp where
  | copy | add | sub | mul | min | max | mac | abs | neg | rsum | rmax | rmin | rdot
  deriving DecidableEq, Repr

/-- A LOOPN operand space (Table 2-11, DSP). -/
inductive PadSpace where
  | cr | cm | ds
  deriving DecidableEq, Repr

/-- One level of a loop nest: extent minus 1 and the three signed strides (Table 2-11). -/
structure Level where
  ext : BitVec 10
  sd : BitVec 9
  sa : BitVec 9
  sb : BitVec 9
  deriving DecidableEq, Repr

/-- LOOPN: the first word and its two extension words (R60, R61). -/
structure Loop where
  hdr : Hdr
  d : Opnd
  a : Opnd
  b : Opnd
  op : LoopOp
  ty : Ty
  rnd : Rnd
  nlev : BitVec 3
  dsp : PadSpace
  asp : PadSpace
  bsp : PadSpace
  l0 : Level
  l1 : Level
  l2 : Level
  l3 : Level
  l4 : Level
  deriving DecidableEq, Repr

/-- A piccolo SLD's space (Table 8-2, SPC). -/
inductive PicSpace where
  | gl | cr | cm
  deriving DecidableEq, Repr

/-- The LAUNCH packet's fields (Table 16-3). -/
structure LaunchPkt where
  nbuf : BitVec 16
  kdesc : BitVec 64
  nblk : BitVec 32
  argp : BitVec 64
  bufl : BitVec 64
  cmbase : BitVec 32
  dsbase : BitVec 32
  doneAt : BitVec 64
  doneval : BitVec 32
  deriving DecidableEq, Repr

/-- Who writes or reads a register of the module window: a host master over the port (R401), or a program through a DEV page (R107). -/
inductive Writer where
  | host (m : BitVec 3)
  | prog
  deriving DecidableEq, Repr

/-- One step of the module: one constructor per row of spec/opcode_table.json. -/
inductive Instr where
  /-- IADD (R140): Per-lane integer add, wrapping or saturating. -/
  | iadd (w : Alu)
  /-- ISUB (R140): Per-lane integer subtract, wrapping or saturating. -/
  | isub (w : Alu)
  /-- IADDS (R141): Per-lane add with carry chained through a c-bit. -/
  | iadds (w : Alu)
  /-- ISUBS (R141): Per-lane subtract with borrow chained through a c-bit. -/
  | isubs (w : Alu)
  /-- IMUL (R140): Per-lane integer multiply, low N bits. -/
  | imul (w : Alu)
  /-- IMULHI (R140): Per-lane high half of the exact integer product. -/
  | imulhi (w : Alu)
  /-- IMAD (R140): Per-lane integer multiply-add, formed exactly then wrapped or saturated. -/
  | imad (w : Alu)
  /-- INEG (R140): Per-lane signed negate. -/
  | ineg (w : Alu)
  /-- IABS (R140): Per-lane signed absolute value. -/
  | iabs (w : Alu)
  /-- IMIN (R140): Per-lane integer minimum. -/
  | imin (w : Alu)
  /-- IMAX (R140): Per-lane integer maximum. -/
  | imax (w : Alu)
  /-- ISHL (R142): Per-lane logical shift left. -/
  | ishl (w : Alu)
  /-- ISHR (R142): Per-lane logical shift right. -/
  | ishr (w : Alu)
  /-- ISAR (R142): Per-lane arithmetic shift right. -/
  | isar (w : Alu)
  /-- IROL (R142): Per-lane rotate left. -/
  | irol (w : Alu)
  /-- IBFX (R142): Per-lane bit-field extract with extension. -/
  | ibfx (w : Alu)
  /-- IBFI (R142): Per-lane bit-field insert. -/
  | ibfi (w : Alu)
  /-- POPC (R140): Per-lane population count. -/
  | popc (w : Alu)
  /-- CLZ (R140): Per-lane count of leading zeros. -/
  | clz (w : Alu)
  /-- BREV (R140): Per-lane bit reversal. -/
  | brev (w : Alu)
  /-- AND (R143): Per-lane bitwise AND. -/
  | andB (w : Alu)
  /-- OR (R143): Per-lane bitwise OR. -/
  | orB (w : Alu)
  /-- XOR (R143): Per-lane bitwise XOR. -/
  | xorB (w : Alu)
  /-- NOT (R143): Per-lane bitwise NOT. -/
  | notB (w : Alu)
  /-- ANDN (R143): Per-lane A AND NOT B. -/
  | andn (w : Alu)
  /-- BFN3 (R143): Per-lane three-input bitwise function from an 8-bit table. -/
  | bfn3 (w : Alu)
  /-- ICMP (R144): Per-lane integer compare into a c-bit. -/
  | icmp (w : Alu)
  /-- FCMP (R144): Per-lane floating-point compare into a c-bit. -/
  | fcmp (w : Alu)
  /-- SEL (R144): Per-lane select by a c-bit. -/
  | sel (w : Alu)
  /-- CLOP (R144): Per-lane logical function of c-bits. -/
  | clop (w : Alu)
  /-- MOV (R144): Per-lane register move. -/
  | mov (w : Alu)
  /-- MOVI (R144): Per-lane move of a 32-bit immediate. -/
  | movi (w : Alu)
  /-- MOVC (R144): Per-lane move between a c-bit and a register. -/
  | movc (w : Alu)
  /-- FADD (R145): Per-lane floating-point add, rounded once. -/
  | fadd (w : Alu)
  /-- FSUB (R145): Per-lane floating-point subtract. -/
  | fsub (w : Alu)
  /-- FMUL (R145): Per-lane floating-point multiply. -/
  | fmul (w : Alu)
  /-- FFMA (R145): Per-lane fused multiply-add with optional negations. -/
  | ffma (w : Alu)
  /-- FMIN (R145): Per-lane minimumNumber. -/
  | fmin (w : Alu)
  /-- FMAX (R145): Per-lane maximumNumber. -/
  | fmax (w : Alu)
  /-- FABS (R145): Per-lane sign-bit clear. -/
  | fabs (w : Alu)
  /-- FNEG (R145): Per-lane sign-bit invert. -/
  | fneg (w : Alu)
  /-- FCLASS (R145): Per-lane floating-point class mask. -/
  | fclass (w : Alu)
  /-- FRND (R145): Per-lane round to an integral value in the same format. -/
  | frnd (w : Alu)
  /-- PKADD (R146): Packed half-precision add of two elements. -/
  | pkadd (w : Alu)
  /-- PKSUB (R146): Packed half-precision subtract. -/
  | pksub (w : Alu)
  /-- PKMUL (R146): Packed half-precision multiply. -/
  | pkmul (w : Alu)
  /-- PKFMA (R146): Packed half-precision fused multiply-add. -/
  | pkfma (w : Alu)
  /-- PKMIN (R146): Packed minimumNumber. -/
  | pkmin (w : Alu)
  /-- PKMAX (R146): Packed maximumNumber. -/
  | pkmax (w : Alu)
  /-- PKDOT (R146): Packed two-element dot product plus FP32 addend, one rounding. -/
  | pkdot (w : Alu)
  /-- CVT (R147): Per-lane conversion between Table 2-6 types. -/
  | cvt (w : Alu)
  /-- PACK2 (R148): Pack two FP32 values into a half-precision pair. -/
  | pack2 (w : Alu)
  /-- UNPK2 (R148): Unpack a half-precision pair into two FP32 registers. -/
  | unpk2 (w : Alu)
  /-- SHFL (R149): Lane exchange by per-lane index. -/
  | shfl (w : Alu)
  /-- SHFLX (R149): Lane exchange by XOR mask. -/
  | shflx (w : Alu)
  /-- SHFLUP (R149): Lane exchange from lower lanes. -/
  | shflup (w : Alu)
  /-- SHFLDN (R149): Lane exchange from higher lanes. -/
  | shfldn (w : Alu)
  /-- BCAST (R149): Broadcast one lane's value. -/
  | bcast (w : Alu)
  /-- VALL (R150): Vote AND of a c-bit into a k-bit. -/
  | vall (w : Alu)
  /-- VANY (R150): Vote OR of a c-bit into a k-bit. -/
  | vany (w : Alu)
  /-- VBAL (R150): Ballot of a c-bit into a g-register. -/
  | vbal (w : Alu)
  /-- VFIRST (R150): Lowest lane with a c-bit set into a g-register. -/
  | vfirst (w : Alu)
  /-- RSQS (R152): Reciprocal square-root seed. -/
  | rsqs (w : Alu)
  /-- RCPS (R152): Reciprocal seed. -/
  | rcps (w : Alu)
  /-- EX2S (R152): Base-2 exponential seed. -/
  | ex2s (w : Alu)
  /-- LG2S (R152): Base-2 logarithm seed. -/
  | lg2s (w : Alu)
  /-- SINS (R152): Sine seed. -/
  | sins (w : Alu)
  /-- COSS (R152): Cosine seed. -/
  | coss (w : Alu)
  /-- GADD (R151): Uniform 64-bit add into a g-register. -/
  | gadd (w : Alu)
  /-- GSUB (R151): Uniform 64-bit subtract. -/
  | gsub (w : Alu)
  /-- GMUL (R151): Uniform 64-bit multiply, low half. -/
  | gmul (w : Alu)
  /-- GAND (R151): Uniform bitwise AND. -/
  | gand (w : Alu)
  /-- GOR (R151): Uniform bitwise OR. -/
  | gor (w : Alu)
  /-- GXOR (R151): Uniform bitwise XOR. -/
  | gxor (w : Alu)
  /-- GSHL (R151): Uniform shift left. -/
  | gshl (w : Alu)
  /-- GSHR (R151): Uniform logical or arithmetic shift right. -/
  | gshr (w : Alu)
  /-- GMOV (R151): Uniform g-register move. -/
  | gmov (w : Alu)
  /-- GMOVI (R151): Uniform move of an extended immediate. -/
  | gmovi (w : Alu)
  /-- GCMP (R151): Uniform compare into a k-bit. -/
  | gcmp (w : Alu)
  /-- KLOP (R151): Uniform logical function of k-bits. -/
  | klop (w : Alu)
  /-- V2G (R151): Copy one lane's register value into a g-register. -/
  | v2g (w : Alu)
  /-- G2V (R151): Write bit l of a g-register into each lane's register. -/
  | g2v (w : Alu)
  /-- LOOPN (R155): Checks and hands a loop-nest element-wise or reduction operation to the core's loop unit. -/
  | loopn (w : Loop)
  /-- LD (R113): Per-lane load with zero extension from any space. -/
  | ld (w : Mem)
  /-- LDX (R113): Per-lane load with sign extension. -/
  | ldx (w : Mem)
  /-- LDS (R114): Uniform load into a g-register. -/
  | lds (w : Mem)
  /-- ST (R115): Per-lane store, highest lane winning on shared bytes. -/
  | st (w : Mem)
  /-- SEND (R117): Posted write to cluster memory or die scratchpad of any cluster or module. -/
  | send (w : Mem)
  /-- PREF (R119): Prefetch of global lines toward L1 or L2. -/
  | pref (w : Mem)
  /-- FENCE (R127): Acquire, release or sequentially consistent fence at a scope. -/
  | fence (w : Mem)
  /-- AADD (R121): Atomic add. -/
  | aadd (w : Mem)
  /-- AMIN (R121): Atomic minimum. -/
  | amin (w : Mem)
  /-- AMAX (R121): Atomic maximum. -/
  | amax (w : Mem)
  /-- AAND (R121): Atomic AND. -/
  | aand (w : Mem)
  /-- AOR (R121): Atomic OR. -/
  | aor (w : Mem)
  /-- AXOR (R121): Atomic XOR. -/
  | axor (w : Mem)
  /-- AXCHG (R121): Atomic exchange. -/
  | axchg (w : Mem)
  /-- ACAS (R121): Atomic compare-and-swap. -/
  | acas (w : Mem)
  /-- AFADD (R121): Atomic FP32 add, round to nearest even. -/
  | afadd (w : Mem)
  /-- RUNEND (R55): Ends a run: escape holds, wait mask, re-forming of PC entries and run boundary. -/
  | runend (w : Ctl)
  /-- WAIT (R57): Holds the run until each outstanding-operation class is within its count. -/
  | wait (w : Ctl)
  /-- NOP (R59): No effect. -/
  | nop (w : Ctl)
  /-- BR (R174): Per-thread conditional branch on a c-bit. -/
  | br (w : Ctl)
  /-- BRU (R174): Uniform conditional branch on a k-bit. -/
  | bru (w : Ctl)
  /-- JMPI (R175): Per-lane indirect jump with target checks. -/
  | jmpi (w : Ctl)
  /-- CALL (R176): Writes the link and branches to the target. -/
  | call (w : Ctl)
  /-- RET (R176): Per-lane return to the address in a register pair. -/
  | ret (w : Ctl)
  /-- SPAWN (R179): Creates a new group on the same core when resources allow. -/
  | spawn (w : Ctl)
  /-- PAUSE (R172): Yields the entry for n cycles and optionally blocks on a handle. -/
  | pause (w : Ctl)
  /-- BAR (R182): Release then one arrival at a barrier of a scope; the entry is held. -/
  | bar (w : Ctl)
  /-- SSTEP (R183): Barrier arrival after every earlier SEND of the group has performed. -/
  | sstep (w : Ctl)
  /-- FTEST (R180): Non-blocking read of a handle's state. -/
  | ftest (w : Ctl)
  /-- FCANCEL (R181): Cancels the operation of a live PENDING handle. -/
  | fcancel (w : Ctl)
  /-- FMOVG (R181): Copies a handle to a g-register. -/
  | fmovg (w : Ctl)
  /-- GMOVF (R181): Copies a g-register into an f-register without check. -/
  | gmovf (w : Ctl)
  /-- RJOIN (R326): Begins a run that waits until no lane is parked under the rejoin mask. -/
  | rjoin (w : Ctl)
  /-- EXIT (R177): Removes the issuing lanes from the group at the run boundary. -/
  | exit (w : Ctl)
  /-- TRAP (R190): Traps with a program code. -/
  | trapOp (w : Ctl)
  /-- BKPT (R190): Traps BKPT. -/
  | bkpt (w : Ctl)
  /-- CSRR (R192): Copies a CSR to a register. -/
  | csrr (w : Ctl)
  /-- CSRW (R192): Writes a CSR from a g-register or immediate. -/
  | csrw (w : Ctl)
  /-- TRACE_FLUSH (R418): A CSRW of TRACECTL with FLUSH set allocates a flush handle and starts writing the context's bins. -/
  | traceFlush (w : Ctl)
  /-- TRET (R189): Ends handler mode, thawing frozen entries and resuming at a checked address. -/
  | tret (w : Ctl)
  /-- SQPOST_GROUP (R287): Group form: reserves a mailbox place and posts a message with release at cluster scope. -/
  | sqpostGroup (w : Ctl)
  /-- SQWAIT_GROUP (R287): Group form: takes a mailbox message with acquire, or tries to. -/
  | sqwaitGroup (w : Ctl)
  /-- PUB (R229): Requests a publication of the cluster's whole open batch. -/
  | pub (w : Mem)
  /-- PUBR (R230): Publishes open-batch lines meeting a range and returns a handle. -/
  | pubr (w : Mem)
  /-- INVR (R231): Discards non-owned L1 lines and LIB entries for a range. -/
  | invr (w : Mem)
  /-- ZLINE (R232): Declares whole lines zero in the write-combining buffer. -/
  | zline (w : Mem)
  /-- TLOCK (R367): Locks the LIB leaves of a range if capacity allows and starts their fills. -/
  | tlock (w : Ctl)
  /-- TUNLOCK (R368): Removes a matching lock record. -/
  | tunlock (w : Ctl)
  /-- TPROBE (R377): Reads a page's translation into cluster memory without faulting. -/
  | tprobe (w : Ctl)
  /-- MIGR (R376): Moves the pages of a range to a named tier, page by page. -/
  | migr (w : Ctl)
  /-- SNAP (R361): Publishes the open batch and takes a snapshot of the context into a slot. -/
  | snap (w : Ctl)
  /-- SNAPDROP (R361): Drops a HELD snapshot slot. -/
  | snapdrop (w : Ctl)
  /-- ROOTSW (R361): Rolls a quiesced context back to a snapshot slot. -/
  | rootsw (w : Ctl)
  /-- LIBSD (R361): Shoots down a segment without freeing it. -/
  | libsd (w : Ctl)
  /-- XCOPY (R261): Starts a byte copy between spaces. -/
  | xcopy (w : Ctl)
  /-- XCONV (R262): Starts an element conversion between formats. -/
  | xconv (w : Ctl)
  /-- XQA8 (R264): Starts A8 quantisation, optionally after walsh32. -/
  | xqa8 (w : Ctl)
  /-- XWHT (R265): Starts a 32-point Walsh-Hadamard transform. -/
  | xwht (w : Ctl)
  /-- TPREP (R266): Starts preparation of Parts-engine weight slots from Q4. -/
  | tprep (w : Ctl)
  /-- PLOAD (R247): Starts loading micro-ops into the piccolo shadow store. -/
  | pload (w : Ctl)
  /-- PSTART (R248): Binds the slot, copies the shadow store and starts the microprogram. -/
  | pstart (w : Ctl)
  /-- PSTOP (R249): Stops the slot and optionally empties the queues. -/
  | pstop (w : Ctl)
  /-- QPOP (R251): Removes the head queue entry into the lanes. -/
  | qpop (w : Ctl)
  /-- QPEEK (R251): Reads the head queue entry without removing it. -/
  | qpeek (w : Ctl)
  /-- QSTAT (R252): Reads a queue's and the slot's state. -/
  | qstat (w : Ctl)
  /-- CNTSET (R239): Sets counter extents and clears indices. -/
  | cntset (e3 e2 e1 e0 : BitVec 14)
  /-- AGSET (R240): Sets an address generator's base and strides. -/
  | agset (n p : BitVec 2) (s3 s2 s1 s0 : BitVec 13)
  /-- PICCOLO_SLD (R242): Starts a stream load into a row. -/
  | piccoloSld (r : BitVec 3) (n : BitVec 2) (sp : PicSpace) (sz : BitVec 2)
  /-- DQ (R243): Widens and dequantises a row's elements exactly. -/
  | dq (d s fmt : BitVec 3)
  /-- TRN (R240): Transposes rows in 8x8 blocks. -/
  | trn
  /-- PUSH (R245): Appends a row copy to a queue when it has room. -/
  | push (q r : BitVec 3)
  /-- NEXT (R241): Advances counters as an odometer and branches. -/
  | nextOp (top lo : BitVec 2) (target : BitVec 7)
  /-- END (R239): Stops the slot; its handle becomes DONE. -/
  | endOp
  /-- SADD (R279): Sequencer 64-bit add. -/
  | sadd (w : Ctl)
  /-- SSUB (R279): Sequencer subtract. -/
  | ssub (w : Ctl)
  /-- SMUL (R279): Sequencer multiply. -/
  | smul (w : Ctl)
  /-- SAND (R279): Sequencer AND. -/
  | sand (w : Ctl)
  /-- SOR (R279): Sequencer OR. -/
  | sor (w : Ctl)
  /-- SXOR (R279): Sequencer XOR. -/
  | sxor (w : Ctl)
  /-- SSHL (R279): Sequencer shift left. -/
  | sshl (w : Ctl)
  /-- SSHR (R279): Sequencer logical or arithmetic shift right. -/
  | sshr (w : Ctl)
  /-- SMOV (R279): Sequencer move. -/
  | smov (w : Ctl)
  /-- SMOVI (R279): Sequencer move immediate, low or high half. -/
  | smovi (w : Ctl)
  /-- SCMP (R279): Sequencer compare into 0 or 1. -/
  | scmp (w : Ctl)
  /-- SBR (R280): Sequencer conditional branch. -/
  | sbr (w : Ctl)
  /-- SJMP (R280): Sequencer jump, direct or indirect, with optional link. -/
  | sjmp (w : Ctl)
  /-- SLD (R281): Sequencer load into an s-register. -/
  | sld (w : Ctl)
  /-- SST (R281): Sequencer store to cluster memory or die scratchpad. -/
  | sst (w : Ctl)
  /-- SQPOST_SEQ (R288): Sequencer form: posts a message to a mailbox. -/
  | sqpostSeq (w : Ctl)
  /-- SQWAIT_SEQ (R288): Sequencer form: takes a takeable mailbox message. -/
  | sqwaitSeq (w : Ctl)
  /-- SWAITPX (R284): Holds sequencer issue until at most n PX operations remain. -/
  | swaitpx (w : Ctl)
  /-- SEXIT (R282): Ends the sequencer stream. -/
  | sexit (w : Ctl)
  /-- SCSRR (R282): Reads PCC into an s-register. -/
  | scsrr (w : Ctl)
  /-- PXLDW (R301): Queues a load of a weight slot image. -/
  | pxldw (w : Ctl)
  /-- PXGA (R302): Queues a gathered activation-stage fill. -/
  | pxga (w : Ctl)
  /-- PXLDA (R302): Queues a contiguous activation-stage fill. -/
  | pxlda (w : Ctl)
  /-- PXMM (R295): Queues summation-by-parts accumulation into z registers. -/
  | pxmm (w : Ctl)
  /-- PXDM (R297): Queues direct-mode FP8 or BF16 accumulation. -/
  | pxdm (w : Ctl)
  /-- PXZERO (R304): Queues clearing of z registers with a new Eref. -/
  | pxzero (w : Ctl)
  /-- PXDRN (R305): Queues a drain of a z register to memory. -/
  | pxdrn (w : Ctl)
  /-- PXBYP (R306): Queues a drain of half a z register into an activation block. -/
  | pxbyp (w : Ctl)
  /-- PXSAVE (R307): Queues a write of the whole engine image. -/
  | pxsave (w : Ctl)
  /-- PXREST (R307): Queues a load of an engine image. -/
  | pxrest (w : Ctl)
  /-- PXSTAT (R308): Waits for the PX queue to empty and reads engine status. -/
  | pxstat (w : Ctl)
  /-- TLOAD (R320): Checks and starts loading a lookup table into frames. -/
  | tload (w : Ctl)
  /-- TQ (R322): Sends a table query packet and parks the calling lanes. -/
  | tq (w : Ctl)
  /-- TQ2 (R322): Sends a two-operand table query packet and parks the calling lanes. -/
  | tq2 (w : Ctl)
  /-- TMAP (R328): Checks and starts applying a table in place to a global range. -/
  | tmap (w : Ctl)
  /-- TFREE (R321): Starts releasing a table. -/
  | tfree (w : Ctl)
  /-- LANDR (R347): Starts a reduction of source arrays into a destination. -/
  | landr (w : Ctl)
  /-- LANDC_ARM (R342): Arms a collective landing at the receiving engine. -/
  | landcArm (w : Ctl)
  /-- LANDC_PUT (R342): Sends one contribution of a collective. -/
  | landcPut (w : Ctl)
  /-- QUIESCE (R397): Stops placing and pre-empts a context, publishing its batch and waiting on its futures. -/
  | quiesce (w : Ctl)
  /-- RESUME (R397): Makes a quiesced context's saved blocks placeable again. -/
  | resume (w : Ctl)
  /-- CTXLD (R396): Creates a context from a descriptor. -/
  | ctxld (w : Ctl)
  /-- CTXSV (R396): Writes back a context's index and publishes its descriptor. -/
  | ctxsv (w : Ctl)
  /-- HALT (R398): Destroys a context, cancelling its futures and launches. -/
  | halt (w : Ctl)
  /-- LAUNCH (R386): Starts a launch, or refuses it. -/
  | launch (p : LaunchPkt)
  /-- BARRIER (R385): Holds later packets of the queue until earlier launches complete. -/
  | barrier
  /-- SIGNAL (R385): After earlier packets complete, publishes a value with release. -/
  | signal (val addr : BitVec 64)
  /-- CANCEL (R388): Selects parked waiters of the context for cancellation. -/
  | cancel (byLaunch byRange : Bool) (launch : BitVec 16) (base len : BitVec 64)
  /-- PREEMPT (R394): Saves every resident block of a launch, optionally holding them. -/
  | preempt (launch : BitVec 16) (hold : Bool)
  /-- BUFFER (R389): Defines or frees a buffer handle. -/
  | buffer (h : BitVec 12) (free hostw : Bool) (base len : BitVec 64)
  /-- LOOPN_START (R157): The loop unit starts a queued LOOPN once earlier LOOPNs and the group's earlier accesses are done. -/
  | loopnStart (core : Nat)
  /-- LOOPN_COMPLETE (R158): A LOOPN writes its last element, merges its flags and leaves the tiles counter. -/
  | loopnComplete (core : Nat)
  /-- ATOMIC_PERFORM (R123): A global atomic performs indivisibly at the line's home, publishing its write before returning. -/
  | atomicPerform (op : Nat)
  /-- LOAD_RETURN (R24): A load's value is written to its destination and the loads counter is decremented. -/
  | loadReturn (op : Nat)
  /-- STORE_PERFORM (R129): A store is performed at its level and the stores counter is decremented. -/
  | storePerform (op : Nat)
  /-- SEND_ARRIVE (R118): A SEND write reaches its target die and is accepted or refused against the granted windows. -/
  | sendArrive (op lane : Nat)
  /-- BARRIER_RELEASE (R182): A barrier phase completes and every held entry is released with an acquire. -/
  | barrierRelease (bar : Nat)
  /-- TRACE_FLUSH_DONE (R418): Every bin record of a flush has been accepted by the host port and its entry becomes DONE. -/
  | traceFlushDone (op : Nat)
  /-- RUN_ARBITRATION (R162): The issue engine picks a ready group and candidate entry, fetches and decodes the whole run and starts it. -/
  | runArbitration (core : Nat)
  /-- RUN_RESUME (R166): A run waiting inside on a fence, park or log-space wait resumes with precedence. -/
  | runResume (gid : Nat)
  /-- YIELD_EXPIRE (R171): An entry's yield count reaches zero. -/
  | yieldExpire (gid idx : Nat)
  /-- STALL (R185): The group's stall count reaches STALLWD and the group traps STALL. -/
  | stall (gid : Nat)
  /-- TRAP_TAKE (R187): After counters and replies drain, the trap record is published and the handler entered or the group stopped. -/
  | trapTake (gid : Nat)
  /-- PREEMPT_REQUEST (R191): The command processor asks for a group's pre-emption, acted on at its next run boundary. -/
  | preemptRequest (gid : Nat)
  /-- GROUP_SAVE (R191): After loads and stores drain, a group's context is written to its save area and published. -/
  | groupSave (gid : Nat)
  /-- GROUP_RESTORE (R191): A saved group is restored from its save area on a chosen core. -/
  | groupRestore (gid core : Nat)
  /-- GROUP_END (R177): A group with no live or parked lane frees its context once its counters are zero. -/
  | groupEnd (gid : Nat)
  /-- WCB_WINDOW_EXPIRE (R207): A write-combining entry's WCWIN expires and it leaves as a FRAG record. -/
  | wcbWindowExpire (cluster line : Nat)
  /-- PUBLICATION_START (R210): A log's publication slot serves waiting requests: reserve, flush and send prepares. -/
  | publicationStart (log : Nat)
  /-- HOME_PREPARE (R213): A home receives a prepare and grants, queues or asks the holder to revoke. -/
  | homePrepare (pub idx : Nat)
  /-- PREPARE_ACK (R212): A writer receives a prepare acknowledgement, appending merge or image records after the last. -/
  | prepareAck (pub idx : Nat)
  /-- REVOKE_REQUEST (R213): A holder is asked to revoke and releases and retries or answers that it is committing. -/
  | revokeRequest (pub : Nat)
  /-- HOLD_TIMER_EXPIRE (R213): A prepare hold reaches 16,384 cycles and the holder is asked to revoke. -/
  | holdTimerExpire (line : Nat)
  /-- HOME_COMMIT (R215): A home applies a commit to an entry and serves queued loads, fills and prepares. -/
  | homeCommit (pub idx : Nat)
  /-- HOME_RELEASE (R213): A home receives a release of a prepare and ends the hold. -/
  | homeRelease (pub idx : Nat)
  /-- PUBLICATION_COMMIT (R212): Every home has acknowledged its commit and the publication is committed. -/
  | publicationCommit (pub : Nat)
  /-- LIB_FILL (R205): A home serves a log index buffer fill with the leaf's 16 entries and page header. -/
  | libFill (cluster leaf : Nat)
  /-- LOAD_SERVE_HOME (R126): A global load is served at a home, sampling the line's bytes in that cycle. -/
  | loadServeHome (op lane : Nat)
  /-- TRANSLATION_WALK (R364): The die's walk unit resolves a LIB miss through IXROOT, interior nodes and page home. -/
  | translationWalk (cluster leaf : Nat)
  /-- LEAF_WRITEBACK (R353): A home appends a leaf image on eviction, cut or before rollback. -/
  | leafWriteback (leaf : Nat)
  /-- LOGSTALL_EXPIRE (R234): A log-space wait reaches LOGSTALL and traps LOGFULL or fails the PUBR. -/
  | logstallExpire (gid : Nat)
  /-- TLOCK_FILL_LAND (R367): The last fill of a TLOCK lands and the loads counter is decremented. -/
  | tlockFillLand (op : Nat)
  /-- PAGE_REQUEST (R371): A fault unit sends a capacity-tier page request to the HOME die's fault unit. -/
  | pageRequest (die page : Nat)
  /-- PAGE_PROMOTE (R371): The migration path moves a page to the fast tier in one migration publication. -/
  | pagePromote (page : Nat)
  /-- MIGRATION_COMMIT_NOTICE (R372): A requesting fault unit is notified of a migration's commit or failure and replays its waiters. -/
  | migrationCommitNotice (die page : Nat)
  /-- PAGE_DEMOTE (R375): With the free pool low, the migration path demotes cold fast-tier pages. -/
  | pageDemote (stack page : Nat)
  /-- FAULT_CANCEL (R373): A CANCEL reaches a fault unit and cancels matching waiters not yet replayed. -/
  | faultCancel (die waiter : Nat)
  /-- FORWARDED_ACCESS (R378): An access to a page owned by a peer is served at the owner module's home. -/
  | forwardedAccess (msg : Nat)
  /-- COUNTER_EPOCH_TICK (R379): At each epoch tick page counters are halved and transfer candidates reported. -/
  | counterEpochTick
  /-- PAGE_TRANSFER (R380): Ownership of a page moves from one module to another in five steps. -/
  | pageTransfer (page : Nat) (peer : BitVec 12)
  /-- SNAPSHOT_CUT (R357): Homes stop granting prepares, capture dirty leaves in one cycle and the slot becomes HELD. -/
  | snapshotCut (op : Nat)
  /-- ROLLBACK (R358): Homes discard the context's leaves, caches are shot down and IXROOT takes the slot's root. -/
  | rollback (op : Nat)
  /-- CLEAN_SEGMENT (R352): With the free pool below LOWAT, the cleaner relocates a segment's live records. -/
  | cleanSegment (stack seg : Nat)
  /-- SHOOTDOWN (R355): A shootdown completes once no cache or access refers to the segment, and it may be freed. -/
  | shootdown (op : Nat)
  /-- SEGMENT_SHIP (R359): A sealed segment of a replicated context is shipped to each replica. -/
  | segmentShip (seg : Nat)
  /-- REPLICA_SEGMENT_RECEIVE (R359): A replica verifies a segment, replays committed records and acknowledges. -/
  | replicaSegmentReceive (msg : Nat)
  /-- COPY_OP_START (R255): The copy engine starts a queued operation in acceptance order. -/
  | copyOpStart (cluster : Nat)
  /-- COPY_OP_COMPLETE (R268): A copy operation finishes, publishes any global destination and resolves its future. -/
  | copyOpComplete (op : Nat)
  /-- PLOAD_DATA_RETURN (R247): Micro-op bytes arrive and are written in index order. -/
  | ploadDataReturn (op : Nat)
  /-- PICCOLO_RUN_BEGIN (R248): After the group's accesses perform and an acquire, the slot executes its first micro-op. -/
  | piccoloRunBegin (core : Nat)
  /-- PICCOLO_SLD_RETURN (R242): A stream load's data is written into its row, or it faults or parks. -/
  | piccoloSldReturn (core r : Nat)
  /-- BINDING_END (R236): The slot's binding ends when it is IDLE with empty, unheld queues. -/
  | bindingEnd (core : Nat)
  /-- STREAM_START (R275): A sequencer stream starts with its block, opening mailboxes and allocating its handle. -/
  | streamStart (cluster : Nat)
  /-- STREAM_HANDLE_RESOLVE (R276): After a stream ends and outstanding PX work and SSTs complete, its handle resolves. -/
  | streamHandleResolve (cluster : Nat)
  /-- SEQ_SLD_RETURN (R277): A sequencer load's value is written to its s-register. -/
  | seqSldReturn (cluster reg : Nat)
  /-- SEQ_STALL (R289): The sequencer stall count reaches 2^32 and it traps STALL. -/
  | seqStall (cluster : Nat)
  /-- SEQ_TRAP (R289): A sequencer trap stops issue, publishes its record and fails the stream handle. -/
  | seqTrap (cluster : Nat)
  /-- SEQ_SAVE (R290): On pre-emption the sequencer drains and its state is saved and published. -/
  | seqSave (cluster : Nat)
  /-- SEQ_RESTORE (R290): A saved sequencer and Parts-engine image are restored in the same cluster. -/
  | seqRestore (cluster blk : Nat)
  /-- PX_OP_START (R310): The Parts engine starts the next queued operation once its path and registers are free. -/
  | pxOpStart (cluster : Nat)
  /-- PX_OP_COMPLETE (R311): A Parts-engine operation completes, or fails and traps the sequencer deferred. -/
  | pxOpComplete (cluster idx : Nat)
  /-- TLOAD_COMPLETE (R320): Table image written into every copy; the table becomes READY and the future resolves. -/
  | tloadComplete (op : Nat)
  /-- TQ_PACKET_SERVE (R330): A pseudo-channel accepts a request packet and answers with a reply packet. -/
  | tqPacketServe (pkt : Nat)
  /-- TQ_REPLY (R324): A reply packet writes each lane's destination and sets rejoin bits. -/
  | tqReply (pkt : Nat)
  /-- LANES_RETURN (R325): Lanes parked under a completed rejoin mask return to the PC table. -/
  | lanesReturn (gid : Nat) (j : BitVec 3)
  /-- TMAP_COMPLETE (R328): The table-map writer finishes the range and publishes it in one publication. -/
  | tmapComplete (op : Nat)
  /-- TFREE_COMPLETE (R321): Once earlier packets are answered, frames are returned and the table becomes FREE. -/
  | tfreeComplete (op : Nat)
  /-- LAND_OP_START (R347): After the group's accesses perform, the engine reads and checks the parameter block. -/
  | landOpStart (op : Nat)
  /-- ARM_RESERVE (R343): An arm's chunk buffers are reserved once the engine can supply them. -/
  | armReserve (stack : Nat)
  /-- CHUNK_ACCEPT (R343): A put chunk arrives and is accepted into the receiver's buffers. -/
  | chunkAccept (op : Nat)
  /-- PUT_RETRY (R344): A put with no matching arm is retried every 1 us. -/
  | putRetry (op : Nat)
  /-- LAND_PUBLISH (R339): A reduced result is published, then the flag applied and the future resolved. -/
  | landPublish (op : Nat)
  /-- QUIESCE_COMPLETE (R397): Once the context is quiesced, 1 is published to the flag. -/
  | quiesceComplete (ctx : Nat)
  /-- QUEUE_KICK (R384): A write of QTAIL makes new packets available to the command processor. -/
  | queueKick (by_ : Writer) (q : BitVec 6) (tail : BitVec 32)
  /-- QUEUE_RESET (R382): A write of QCTL.RST stops the queue and zeroes HEAD and TAIL. -/
  | queueReset (by_ : Writer) (q : BitVec 6)
  /-- PACKET_READ (R383): The command processor reads a slot whole and accepts it if current. -/
  | packetRead (q : BitVec 6)
  /-- PACKET_REREAD (R384): A non-current packet's back-off expires; it is re-read or the queue goes QUEUE_TORN. -/
  | packetReread (q : BitVec 6)
  /-- BLOCK_PLACE (R391): The distributor places a waiting block in a fitting cluster and its die agent loads it. -/
  | blockPlace (launch cluster : Nat)
  /-- GROUP_MOVE (R392): The distributor pre-empts a group and restores it on another core of its cluster. -/
  | groupMove (gid core : Nat)
  /-- PRIORITY_PREEMPT (R393): Lower-priority blocks are pre-empted to fit a higher-priority block. -/
  | priorityPreempt (launch cluster : Nat)
  /-- LAUNCH_COMPLETE (R387): All blocks ended and futures resolved; slots are stopped and the completion record published. -/
  | launchComplete (launch : Nat)
  /-- HOST_ADMIT (R399): A new host master's first request is admitted with the next index, or refused. -/
  | hostAdmit (requester : BitVec 16)
  /-- OWNERSHIP_SWAP (R400): A 64-bit OWNERSHIP write compares and swaps the owner. -/
  | ownershipSwap (by_ : Writer) (val : BitVec 64)
  /-- FROZEN_CLEAR (R401): The owner clears a master's FROZEN bit. -/
  | frozenClear (by_ : Writer) (bits : BitVec 8)
  /-- HOST_READ (R426): A host read through the HDM window is translated and served. -/
  | hostRead (m : BitVec 3) (addr : BitVec 64) (n : Nat)
  /-- HOST_WRITE (R426): A host write enters the master's write-combining buffer. -/
  | hostWrite (m : BitVec 3) (addr : BitVec 64) (bytes : List Byte)
  /-- HOST_WCB_WINDOW_EXPIRE (R426): A host buffer entry's HWCWIN expires and it leaves as a record. -/
  | hostWcbWindowExpire (m : BitVec 3) (line : Nat)
  /-- HOST_RELEASE (R427): A write of HRELm.GO publishes the master's open batch. -/
  | hostRelease (by_ : Writer) (m : BitVec 3)
  /-- HOSTMAP_WRITE (R433): A HOSTMAPm write opens, closes or moves a master's window after its batch publishes. -/
  | hostmapWrite (by_ : Writer) (m : BitVec 3) (val : BitVec 64)
  /-- CKREQ (R402): A CKREQ write reads a request block and accepts or refuses the checkpoint operation. -/
  | ckreq (by_ : Writer) (val : BitVec 64)
  /-- CK_OP_START (R403): The checkpoint engine starts a waiting WRITE or RESTORE and checks it. -/
  | ckOpStart (op : Nat)
  /-- SHARD_RECEIVE (R405): A member module stores a shard unit and acknowledges it when durable. -/
  | shardReceive (msg : Nat)
  /-- MANIFEST_WRITE (R406): After every shard is acknowledged, the signed manifest is written on every member. -/
  | manifestWrite (op : Nat)
  /-- CK_COMMIT (R407): The first manifest copy is durable; COMMITTED is published. -/
  | ckCommit (op : Nat)
  /-- CK_RESTORE (R409): A RESTORE verifies and rebuilds stripes, builds a new tree and switches IXROOT. -/
  | ckRestore (op : Nat)
  /-- REFUSED_CLEAR (R411): A write of 1 clears CKSTAT.REFUSED. -/
  | refusedClear (by_ : Writer)
  /-- HIST_SAMPLE (R415): Every 2^SP cycles each sampled group's reason is counted in its bin. -/
  | histSample (die : Nat)
  /-- TIMESERIES_TICK (R417): At each 2^K tick every die latches and clears its counters and writes a record. -/
  | timeseriesTick
  /-- K_SWITCH (R417): A new K takes effect at the next multiple of 2^24. -/
  | kSwitch
  /-- DUMP (R416): A write of TRCCFG.DUMP writes and clears every bin that fits. -/
  | dump (by_ : Writer)
  /-- TRCTAIL_WRITE (R422): System software advances TRCTAIL, freeing sink room. -/
  | trctailWrite (by_ : Writer) (val : BitVec 64)
  /-- TRCLOST_READ (R422): A read of TRCLOST returns and clears RECS. -/
  | trclostRead (by_ : Writer)
  /-- FLIT_REPLAY (R429): A flit fails its check and is replayed from the replay buffer. -/
  | flitReplay (link : BitVec 6)
  /-- LINK_DOWN (R431): A link exhausts replays or loses training and unacknowledged messages reroute. -/
  | linkDown (link : BitVec 6)
  /-- NO_ROUTE (R431): A message finds no route within 1 ms and fails with HWERR. -/
  | noRoute (msg : Nat)
  /-- LINK_TRAIN (R432): A link trains and exchanges format advertisements. -/
  | linkTrain (link : BitVec 6) (padv : BitVec 4)
  /-- RETRAIN (R433): A LNKCTLn write of RETRAIN retrains the link at once. -/
  | retrain (by_ : Writer) (link : BitVec 6)
  /-- HEARTBEAT (R430): Every 1 ms a heartbeat is sent on every link that is up. -/
  | heartbeat
  /-- PEER_FAILURE (R410): No heartbeat on any link for 200 ms declares a peer failed. -/
  | peerFailure (peer : BitVec 12)
  /-- QF_MESSAGE_RECEIVE (R430): A message arrives in order within its class and link and is delivered to its engine. -/
  | qfMessageReceive (link : BitVec 6) (cls : BitVec 2)
  /-- HOST_ERRCOUNT_READ (R433): A read of LNKSTAT0.HOST returns and clears the host error count. -/
  | hostErrcountRead (by_ : Writer)
  /-- POWER_DOWN_ENTRY (R436): A channel idle for PDIDLE cycles enters POWER-DOWN. -/
  | powerDownEntry (ch : Nat)
  /-- SELF_REFRESH_ENTRY (R436): A powered-down channel idle for 64 x SRIDLE more cycles enters SELF-REFRESH. -/
  | selfRefreshEntry (ch : Nat)
  /-- CHANNEL_WAKE (R436): A request wakes a sleeping channel and waits its exit latency. -/
  | channelWake (ch : Nat)
  /-- FORCESR (R436): PCCFG.FORCESR requests self-refresh of idle channels, deferred while busy or live. -/
  | forcesr (by_ : Writer) (stack : BitVec 4) (val : BitVec 64)
  /-- GATECTL_WRITE (R437): A GATECTL write gates or re-enables L2 ways and scratchpad halves, or is refused. -/
  | gatectlWrite (by_ : Writer) (die : BitVec 5) (val : BitVec 64)
  /-- GATE_WAKE (R437): A re-enabled structure finishes its 64-cycle wake-up. -/
  | gateWake (die : BitVec 5)
  /-- GATE_ERROR_CLEAR (R444): A write of 1 clears ERRSTAT.GATE. -/
  | gateErrorClear (by_ : Writer)
  /-- COLD_RESET (R439): Cold reset clears PCC, registers and all memory contents. -/
  | coldReset
  /-- WARM_RESET (R439): A write of BOOTSTAT.WARM resets all but PCC and the checkpoint store. -/
  | warmReset (by_ : Writer)
  /-- BOOT (R440): The boot ROM reads and verifies the firmware and enters RUNNING or RECOVERY. -/
  | boot (image : List Byte) (sig : BitVec 512) (version : BitVec 16)
  /-- ATTREQ (R442): A write of ATTREQ makes the module write a signed attestation report. -/
  | attreq (by_ : Writer) (val : BitVec 64)
  /-- SOFT_ERROR (R443): An ECC error is corrected and counted, or counted and raised as uncorrectable. -/
  | softError (correctable : Bool) (victim id : Nat)
  /-- REGISTER_WRITE (R438): A write to a register with no behaviour of its own, taking effect at the engine's next operation. -/
  | registerWrite (by_ : Writer) (off : BitVec 16) (val : BitVec 64)
  /-- SEQ_SST_PERFORM (R288): A sequencer SST is performed at its bank, which can make a waiting SQPOST message takeable and lets later PX reads and the stream handle proceed. -/
  | seqSstPerform (cluster idx : Nat)
  /-- TPROBE_RESULT (R377): A TPROBE's translation read at the page home returns, its 16-byte result is performed in cluster memory and its future becomes DONE. -/
  | tprobeResult (op : Nat)
  /-- NEW_IMAGE (R440): In RECOVERY the module accepts a new firmware image, which is verified and can bring STATE to RUNNING. -/
  | newImage (image : List Byte) (sig : BitVec 512) (version : BitVec 16)
  deriving DecidableEq, Repr

/-- A turn of the module: an agent issues its next word, one cycle of PCC passes, or a step of an engine or of the outside
happens. -/
inductive Turn where
  | clock
  | group (gid : Nat)
  | seq (cluster : Nat)
  | slot (core : Nat)
  | queue (q : Nat)
  | event (i : Instr)
  deriving DecidableEq, Repr, Inhabited

end Sys2Proof
end

