-- ==== Sys2Proof/Machine/Forms.lean ====
section
/-! DEFINITION. The accepted form of every instruction word: one row per opcode, giving what each field may hold (R41, R45)
and which registers the word reads and writes. Well-formedness, decode checks and the scoreboard all read these rows. -/

namespace Sys2Proof.Machine

/-- What an operand field may hold (Table 2-2, Table 2-3). `src` is v, x, g or immediate (R136); `base` v, x or g (R109);
`vc` a v-register or c7 (Table 4-4); `g k` a g-register numbered at most k (the first of several). -/
inductive Kind where
  | zero | src | base | vx | v | vc | vxc | srcc | c | k | g (last : Nat) | gimm | kg | f | fz | q | j | s | simm | sz | w | a | z
  | csrR | csrW | esc | any
  deriving DecidableEq, Repr

/-- The use of one operand field: its kind, how many consecutive 32-bit registers it names in class 00 (or g-registers in
class 01), whether the word reads or writes them, and the field itself (none: no operand has that code). -/
structure Use where
  kind : Kind
  n : Nat
  rd : Bool
  wr : Bool
  o : Option Opnd
  deriving DecidableEq, Repr

/-- R38: the operand that a 10-bit field holds, where the field names one. -/
def opndOf (b : BitVec 10) : Option Opnd :=
  if b.extractLsb' 8 2 = 0#2 then
    if b.toNat < 128 then some (.v (b.setWidth 7)) else if b.toNat < 144 then some (.x (b.setWidth 4)) else none
  else if b.extractLsb' 8 2 = 1#2 then
    if b.toNat < 320 then some (.g (b.setWidth 6)) else none
  else if b.extractLsb' 8 2 = 2#2 then some (.sp (b.setWidth 8))
  else some (.imm (b.setWidth 8))

/-- R38: the field value of an operand, 256 × class + number. -/
def opndBits : Opnd → BitVec 10
  | .v n => n.setWidth 10
  | .x n => 0x080#10 ||| n.setWidth 10
  | .g n => 0x100#10 ||| n.setWidth 10
  | .sp n => 0x200#10 ||| n.setWidth 10
  | .imm n => 0x300#10 ||| n.setWidth 10

/-- The special operand number of an operand (Table 2-3). -/
def spOf : Opnd → Option Nat
  | .sp n => some n.toNat
  | _ => none

def spIn (lo hi : Nat) (o : Opnd) : Bool :=
  match o with
  | .sp n => decide (lo ≤ n.toNat) && decide (n.toNat ≤ hi)
  | _ => false

/-- A class 00 operand whose number is a multiple of the registers it names (R43, R110). -/
def vxOk (n : Nat) : Opnd → Bool
  | .v r => decide (r.toNat % n = 0)
  | .x r => decide (r.toNat % n = 0)
  | _ => false

def isV : Opnd → Bool
  | .v _ => true
  | _ => false

def isG : Opnd → Bool
  | .g _ => true
  | _ => false

def isImm : Opnd → Bool
  | .imm _ => true
  | _ => false

/-- The number of a class 01 operand, or 64 for any other. -/
def gNum : Opnd → Nat
  | .g n => n.toNat
  | _ => 64

/-- A class 00 operand numbered below 32 (R62): s0 to s31. -/
def sOk : Opnd → Bool
  | .v n => decide (n.toNat < 32)
  | _ => false

/-- Whether an operand suits a kind, naming n registers (R41). -/
def kindOk (kd : Kind) (n : Nat) (o : Opnd) : Bool :=
  match kd with
  | .zero => o == Opnd.none
  | .src => vxOk n o || isG o || isImm o
  | .base => vxOk n o || isG o
  | .vx => vxOk n o
  | .v => isV o && vxOk n o
  | .vc => (isV o && vxOk n o) || spIn 7 7 o
  | .vxc => vxOk n o || spIn 0 7 o
  | .srcc => vxOk n o || isG o || isImm o || spIn 0 7 o
  | .c => spIn 0 7 o
  | .k => spIn 8 15 o
  | .g last => decide (gNum o ≤ last)
  | .gimm => isG o || isImm o
  | .kg => spIn 8 15 o || isG o
  | .f => spIn 16 31 o
  | .fz => spIn 16 31 o || o == Opnd.none
  | .q => spIn 32 39 o
  | .j => spIn 40 47 o
  | .s => sOk o
  | .simm => sOk o || isImm o
  | .sz => sOk o
  | .w => spIn 48 51 o
  | .a => spIn 52 53 o
  | .z => spIn 54 61 o
  | .csrR => spIn 0x40 0x4A o || spIn 0x80 0x83 o
  | .csrW => spIn 0x41 0x42 o || spIn 0x81 0x83 o
  | .esc => isV o
  | .any => true

def Use.ok (u : Use) : Bool :=
  match u.o with
  | some o => kindOk u.kind u.n o
  | none => false

/-- The register ids of a use: v0 to v127 are 0 to 127, x0 to x15 128 to 143, g0 to g63 144 to 207. -/
def Use.regs (u : Use) : List Nat :=
  if u.kind = .zero ∨ u.kind = .fz ∨ u.kind = .any then [] else
  match u.o with
  | some (.v n) => (List.range u.n).map (fun i => n.toNat + i)
  | some (.x n) => (List.range u.n).map (fun i => 128 + n.toNat + i)
  | some (.g n) => match u.kind with
    | .g last => (List.range (64 - last)).map (fun i => 144 + n.toNat + i)
    | _ => [144 + n.toNat]
  | _ => []

/-- The form of a word: whether its modifier and immediate fields are accepted, and the use of each operand field. -/
structure Shape where
  ok : Bool
  uses : List Use
  deriving DecidableEq, Repr

/-- Every check of the word's own fields passes (R41, R46). -/
def Shape.good (sh : Shape) : Bool := sh.ok && sh.uses.all Use.ok

def Shape.bad : Shape := { ok := false, uses := [] }

/-- The registers a word reads, and those it writes. -/
def Shape.reads (sh : Shape) : List Nat := (sh.uses.filter (·.rd)).flatMap Use.regs
def Shape.writes (sh : Shape) : List Nat := (sh.uses.filter (·.wr)).flatMap Use.regs

/-- A type of 64 bits names pairs (R43). -/
def is64 : Ty → Bool
  | .b64 => true
  | .s64 => true
  | _ => false

def tyRegs (t : Ty) : Nat := if is64 t then 2 else 1

/-- Table 2-6. -/
def tyCode : Ty → BitVec 4
  | .b8 => 0 | .s8 => 1 | .b16 => 2 | .s16 => 3 | .b32 => 4 | .s32 => 5 | .b64 => 6 | .s64 => 7
  | .f32 => 8 | .f16 => 9 | .bf16 => 10 | .e4m3 => 11 | .e5m2 => 12 | .e2m1 => 13

def tyOf (b : BitVec 4) : Option Ty :=
  [Ty.b8, .s8, .b16, .s16, .b32, .s32, .b64, .s64, .f32, .f16, .bf16, .e4m3, .e5m2, .e2m1][b.toNat]?

/-! ALU layout. -/

/-- What the IMM field of an ALU word holds (R37): zero, operand field C of a kind, any immediate, a bit field (R142), or BFN3's C and table (R143). -/
inductive ImmForm where
  | zero | c (kd : Kind) | any | field | bfn
  deriving DecidableEq, Repr

/-- One row of Tables 5-1 to 5-8: opcode, types, whether RND and SAT are accepted, the number of FN values, operand kinds (each with its
register count, 0 for the count of the type) and the IMM form. -/
structure AluRow where
  opc : Nat
  tys : List Ty
  rnd : Bool
  sat : Bool
  fns : Nat
  d : Kind × Nat
  a : Kind × Nat
  b : Kind × Nat
  imm : ImmForm

def tyI4 : List Ty := [.b32, .s32, .b64, .s64]
def tyB2 : List Ty := [.b32, .b64]
def tyS2 : List Ty := [.s32, .s64]
def tyF3 : List Ty := [.f32, .f16, .bf16]
def tyH2 : List Ty := [.f16, .bf16]
def tyM5 : List Ty := [.b32, .b64, .f32, .f16, .bf16]
def tyAll : List Ty := [.b8, .s8, .b16, .s16, .b32, .s32, .b64, .s64, .f32, .f16, .bf16, .e4m3, .e5m2, .e2m1]
def tyNo : List Ty := [.b8]

def kD : Kind × Nat := (.vx, 0)
def kS : Kind × Nat := (.src, 0)
def kZ : Kind × Nat := (.zero, 1)
def kG : Kind × Nat := (.g 63, 1)
def kGi : Kind × Nat := (.gimm, 1)
def kC : Kind × Nat := (.c, 1)
def kK : Kind × Nat := (.k, 1)

/-- Tables 5-1 and 5-2. -/
def aluRowsInt : List AluRow :=
  [⟨0x000, tyI4, false, true, 1, kD, kS, kS, .zero⟩, ⟨0x001, tyI4, false, true, 1, kD, kS, kS, .zero⟩,
   ⟨0x002, tyI4, false, false, 1, kD, kS, kS, .c .c⟩, ⟨0x003, tyI4, false, false, 1, kD, kS, kS, .c .c⟩,
   ⟨0x004, tyI4, false, true, 1, kD, kS, kS, .zero⟩, ⟨0x005, tyI4, false, false, 1, kD, kS, kS, .zero⟩,
   ⟨0x006, tyI4, false, true, 1, kD, kS, kS, .c .src⟩, ⟨0x007, tyS2, false, true, 1, kD, kS, kZ, .zero⟩,
   ⟨0x008, tyS2, false, true, 1, kD, kS, kZ, .zero⟩, ⟨0x009, tyI4, false, false, 1, kD, kS, kS, .zero⟩,
   ⟨0x00A, tyI4, false, false, 1, kD, kS, kS, .zero⟩, ⟨0x00B, tyB2, false, false, 1, kD, kS, kS, .zero⟩,
   ⟨0x00C, tyB2, false, false, 1, kD, kS, kS, .zero⟩, ⟨0x00D, tyS2, false, false, 1, kD, kS, kS, .zero⟩,
   ⟨0x00E, tyB2, false, false, 1, kD, kS, kS, .zero⟩, ⟨0x00F, tyI4, false, false, 1, kD, kS, kZ, .field⟩,
   ⟨0x010, tyB2, false, false, 1, kD, kS, kS, .field⟩, ⟨0x011, tyB2, false, false, 1, (.vx, 1), kS, kZ, .zero⟩,
   ⟨0x012, tyB2, false, false, 1, (.vx, 1), kS, kZ, .zero⟩, ⟨0x013, tyB2, false, false, 1, kD, kS, kZ, .zero⟩,
   ⟨0x020, tyB2, false, false, 1, kD, kS, kS, .zero⟩, ⟨0x021, tyB2, false, false, 1, kD, kS, kS, .zero⟩,
   ⟨0x022, tyB2, false, false, 1, kD, kS, kS, .zero⟩, ⟨0x023, tyB2, false, false, 1, kD, kS, kZ, .zero⟩,
   ⟨0x024, tyB2, false, false, 1, kD, kS, kS, .zero⟩, ⟨0x025, tyB2, false, false, 1, kD, kS, kS, .bfn⟩]

/-- Tables 5-3 and 5-4. -/
def aluRowsFlt : List AluRow :=
  [⟨0x030, tyI4, false, false, 6, kC, kS, kS, .zero⟩, ⟨0x031, tyF3, false, false, 8, kC, kS, kS, .zero⟩,
   ⟨0x032, tyM5, false, false, 1, kD, kS, kS, .c .c⟩, ⟨0x033, tyNo, false, false, 5, kC, kC, (.any, 1), .zero⟩,
   ⟨0x034, tyM5, false, false, 1, kD, kS, kZ, .zero⟩, ⟨0x035, [.b32, .s32, .f32, .b64, .s64], false, false, 1, kD, kZ, kZ, .any⟩,
   ⟨0x036, tyNo, false, false, 1, (.vxc, 1), (.srcc, 1), kZ, .zero⟩,
   ⟨0x040, tyF3, true, true, 1, kD, kS, kS, .zero⟩, ⟨0x041, tyF3, true, true, 1, kD, kS, kS, .zero⟩,
   ⟨0x042, tyF3, true, true, 1, kD, kS, kS, .zero⟩, ⟨0x043, tyF3, true, true, 4, kD, kS, kS, .c .src⟩,
   ⟨0x044, tyF3, false, false, 1, kD, kS, kS, .zero⟩, ⟨0x045, tyF3, false, false, 1, kD, kS, kS, .zero⟩,
   ⟨0x046, tyF3, false, false, 1, kD, kS, kZ, .zero⟩, ⟨0x047, tyF3, false, false, 1, kD, kS, kZ, .zero⟩,
   ⟨0x048, tyF3, false, false, 1, kD, kS, kZ, .zero⟩, ⟨0x049, tyF3, true, false, 1, kD, kS, kZ, .zero⟩]

/-- Table 5-5, R147 to R149. CVT's FN holds its source type. A register B of a `.b64` SHFL or SHFLX is a pair of the word's type, as its A is: its number is even and both
registers count as read, although R149 uses B[31:0] alone (log entry 74). -/
def aluRowsPk : List AluRow :=
  [⟨0x060, tyH2, true, true, 1, kD, kS, kS, .zero⟩, ⟨0x061, tyH2, true, true, 1, kD, kS, kS, .zero⟩,
   ⟨0x062, tyH2, true, true, 1, kD, kS, kS, .zero⟩, ⟨0x063, tyH2, true, true, 1, kD, kS, kS, .c .src⟩,
   ⟨0x064, tyH2, false, false, 1, kD, kS, kS, .zero⟩, ⟨0x065, tyH2, false, false, 1, kD, kS, kS, .zero⟩,
   ⟨0x066, tyH2, true, true, 1, kD, kS, kS, .c .src⟩,
   ⟨0x070, tyAll, true, true, 14, kD, (.src, 1), kZ, .zero⟩, ⟨0x071, tyH2, true, true, 1, kD, kS, kS, .zero⟩,
   ⟨0x072, tyH2, false, false, 1, (.vx, 2), kS, kZ, .zero⟩,
   ⟨0x080, tyB2, false, false, 1, kD, kS, kS, .zero⟩, ⟨0x081, tyB2, false, false, 1, kD, kS, kS, .zero⟩,
   ⟨0x082, tyB2, false, false, 1, kD, kS, kGi, .zero⟩, ⟨0x083, tyB2, false, false, 1, kD, kS, kGi, .zero⟩,
   ⟨0x084, tyB2, false, false, 1, kD, kS, kGi, .zero⟩]

/-- Tables 5-7 and 5-8, R152. -/
def aluRowsUni : List AluRow :=
  [⟨0x090, tyNo, false, false, 1, kK, kC, kZ, .zero⟩, ⟨0x091, tyNo, false, false, 1, kK, kC, kZ, .zero⟩,
   ⟨0x092, tyNo, false, false, 1, kG, kC, kZ, .zero⟩, ⟨0x093, tyNo, false, false, 1, kG, kC, kZ, .zero⟩,
   ⟨0x0A0, [.f32], false, false, 1, kD, kS, kZ, .zero⟩, ⟨0x0A1, [.f32], false, false, 1, kD, kS, kZ, .zero⟩,
   ⟨0x0A2, [.f32], false, false, 1, kD, kS, kZ, .zero⟩, ⟨0x0A3, [.f32], false, false, 1, kD, kS, kZ, .zero⟩,
   ⟨0x0A4, [.f32], false, false, 1, kD, kS, kZ, .zero⟩, ⟨0x0A5, [.f32], false, false, 1, kD, kS, kZ, .zero⟩,
   ⟨0x0B0, [.b64, .s64], false, false, 1, kG, kGi, kGi, .zero⟩, ⟨0x0B1, [.b64, .s64], false, false, 1, kG, kGi, kGi, .zero⟩,
   ⟨0x0B2, [.b64, .s64], false, false, 1, kG, kGi, kGi, .zero⟩, ⟨0x0B3, [.b64, .s64], false, false, 1, kG, kGi, kGi, .zero⟩,
   ⟨0x0B4, [.b64, .s64], false, false, 1, kG, kGi, kGi, .zero⟩, ⟨0x0B5, [.b64, .s64], false, false, 1, kG, kGi, kGi, .zero⟩,
   ⟨0x0B6, [.b64, .s64], false, false, 1, kG, kGi, kGi, .zero⟩, ⟨0x0B7, [.b64, .s64], false, false, 1, kG, kGi, kGi, .zero⟩,
   ⟨0x0B8, [.b64, .s64], false, false, 1, kG, kGi, kZ, .zero⟩, ⟨0x0B9, [.b64, .s64], false, false, 1, kG, kZ, kZ, .any⟩,
   ⟨0x0BA, [.b64, .s64], false, false, 6, kK, kGi, kGi, .zero⟩, ⟨0x0BB, tyNo, false, false, 5, kK, kK, (.any, 1), .zero⟩,
   ⟨0x0BC, tyB2, false, false, 1, kG, (.v, 0), kGi, .zero⟩, ⟨0x0BD, tyNo, false, false, 1, (.vx, 1), kG, kZ, .zero⟩]

def aluRows : List AluRow := aluRowsInt ++ aluRowsFlt ++ aluRowsPk ++ aluRowsUni

def aluRow (opc : Nat) : Option AluRow := aluRows.find? (fun r => r.opc == opc)

/-- Operand field C of a word (R37). -/
def immC (imm : BitVec 32) : Option Opnd := opndOf (imm.setWidth 10)

/-- Checks beyond the row: the FN-dependent B of CLOP and KLOP (R144), the source type and register of CVT (R147), the one c-bit
of MOVC (Table 5-3), the immediate lane number of V2G (R151). -/
def aluExtra (opc : Nat) (w : Alu) : Bool :=
  if opc = 0x033 then if w.fn = 4 then kindOk .zero 1 w.b else kindOk .c 1 w.b
  else if opc = 0x0BB then if w.fn = 4 then kindOk .zero 1 w.b else kindOk .k 1 w.b
  else if opc = 0x070 then
    match tyOf (w.fn.setWidth 4) with
    | some t => !(t == w.ty)
    | none => false
  else if opc = 0x036 then spIn 0 7 w.d != spIn 0 7 w.a
  else if opc = 0x0BC then match w.b with
    | .imm b => decide (b.toNat ≤ 63)
    | _ => true
  else true

/-- The IMM field suits its form, by a word of N-bit type. -/
def immFormOk (f : ImmForm) (n : Nat) (imm : BitVec 32) : Bool :=
  match f with
  | .zero => imm == 0
  | .c _ => imm.extractLsb' 10 22 == 0
  | .any => true
  | .field => imm.extractLsb' 16 16 == 0 && decide ((imm.extractLsb' 0 8).toNat + (imm.extractLsb' 8 8).toNat ≤ n)
  | .bfn => imm.extractLsb' 18 14 == 0

def tyBits (t : Ty) : Nat :=
  match t with
  | .b8 => 8 | .s8 => 8 | .b16 => 16 | .s16 => 16 | .b32 => 32 | .s32 => 32 | .b64 => 64 | .s64 => 64
  | .f32 => 32 | .f16 => 16 | .bf16 => 16 | .e4m3 => 8 | .e5m2 => 8 | .e2m1 => 4

/-- The registers CVT's source names: those of its source type. -/
def aluAregs (opc : Nat) (w : Alu) (n : Nat) : Nat :=
  if opc = 0x070 then match tyOf (w.fn.setWidth 4) with
    | some t => tyRegs t
    | none => 1
  else n

def typedN (w : Alu) (n : Nat) : Nat := if n = 0 then tyRegs w.ty else n

def aluUses (opc : Nat) (r : AluRow) (w : Alu) : List Use :=
  [⟨r.d.1, typedN w r.d.2, false, true, some w.d⟩, ⟨r.a.1, aluAregs opc w (typedN w r.a.2), true, false, some w.a⟩,
   ⟨r.b.1, typedN w r.b.2, true, false, some w.b⟩] ++
  match r.imm with
  | .c kd => [⟨kd, tyRegs w.ty, true, false, immC w.imm⟩]
  | .bfn => [⟨.src, tyRegs w.ty, true, false, immC w.imm⟩]
  | _ => []

/-- The form of an ALU word. An operand field that must be 0x000 is read as no register. -/
def aluShape (opc : Nat) (w : Alu) : Shape :=
  match aluRow opc with
  | none => Shape.bad
  | some r =>
    { ok := decide (w.ty ∈ r.tys) && (r.rnd || w.rnd == .rne) && (r.sat || !w.sat) && decide (w.fn.toNat < r.fns) &&
        immFormOk r.imm (tyBits w.ty) w.imm && aluExtra opc w
      uses := aluUses opc r w }

/-! MEM layout. -/

/-- Access width in bytes (Table 2-8). -/
def widthBytes : Width → Nat
  | .byte => 1 | .half => 2 | .word => 4 | .dword => 8 | .qword => 16

/-- Registers of 32 bits that hold one element (R110). -/
def widthRegs (w : Width) : Nat := (widthBytes w + 3) / 4

/-- Registers a class 00 base names (R109). -/
def baseRegs : Space → Nat
  | .gl => 2
  | _ => 1

/-- R47, R112: `.rlx` carries scope 0; any other order a scope from `.co` to `.pd`, and never on `.ln`. -/
def orderOk (os : List Order) (w : Mem) : Bool :=
  decide (w.order ∈ os) && (if w.order = .rlx then w.scope == .ln else w.scope != .ln && w.space != .ln)

/-- Fields of the atomic IMM layout (Table 4-8). -/
def atomSgn (w : Mem) : Bool := w.imm.getLsbD 10
def atomC (w : Mem) : Option Opnd := immC w.imm
def atomOfs (w : Mem) : BitVec 32 := (w.imm.extractLsb' 12 20).signExtend 32

/-- Tables 4-4 and 4-5: loads, stores, SEND, PREF, FENCE (R127). -/
def memShapeLs (opc : Nat) (w : Mem) : Shape :=
  let n := widthRegs w.width
  let base : Use := ⟨.base, baseRegs w.space, true, false, some w.a⟩
  let mask : Use := ⟨.c, 1, true, false, some w.b⟩
  if opc = 0x100 then { ok := orderOk [.rlx, .acq] w, uses := [⟨.v, n, false, true, some w.d⟩, base, mask] }
  else if opc = 0x106 then
    { ok := orderOk [.rlx, .acq] w && (w.width == .byte || w.width == .half), uses := [⟨.v, 1, false, true, some w.d⟩, base, mask] }
  else if opc = 0x101 then
    { ok := orderOk [.rlx, .acq] w && w.space != .ln && w.width != .qword,
      uses := [⟨.g 63, 1, false, true, some w.d⟩, ⟨.g 63, 1, true, false, some w.a⟩, ⟨.zero, 1, false, false, some w.b⟩] }
  else if opc = 0x102 then { ok := orderOk [.rlx, .rel] w, uses := [⟨.vx, n, true, false, some w.d⟩, base, mask] }
  else if opc = 0x103 then
    { ok := orderOk [.rlx] w && (w.space == .cm || w.space == .ds) && w.imm.extractLsb' 10 22 == 0,
      uses := [⟨.vx, n, true, false, some w.d⟩, base, mask, ⟨.g 63, 1, true, false, immC w.imm⟩] }
  else if opc = 0x104 then
    { ok := orderOk [.rlx] w && w.space == .gl && (w.width == .byte || w.width == .half),
      uses := [⟨.zero, 1, false, false, some w.d⟩, base, mask] }
  else if opc = 0x105 then
    { ok := decide (w.order ∈ [Order.acq, .rel, .ar, .sc]) && w.scope != .ln && w.space == .ln && w.width == .byte && w.imm == 0,
      uses := [⟨.zero, 1, false, false, some w.d⟩, ⟨.zero, 1, false, false, some w.a⟩, ⟨.zero, 1, false, false, some w.b⟩] }
  else Shape.bad

/-- R120: the atomics. ACAS names the compare value followed by the new value. -/
def memShapeAt (opc : Nat) (w : Mem) : Shape :=
  let n := widthRegs w.width
  if 0x110 ≤ opc ∧ opc ≤ 0x118 then
    { ok := orderOk [.rlx, .acq, .rel, .ar] w && w.space != .ln && (w.width == .word || (w.width == .dword && opc != 0x118)) &&
        !w.imm.getLsbD 11 && (!atomSgn w || opc == 0x111 || opc == 0x112)
      uses := [⟨.vc, n, false, true, some w.d⟩, ⟨.base, baseRegs w.space, true, false, some w.a⟩, ⟨.c, 1, true, false, some w.b⟩,
        ⟨.v, if opc = 0x117 then 2 * n else n, true, false, atomC w⟩] }
  else Shape.bad

/-- R228: PUB, PUBR, INVR, ZLINE carry MOD 0x800. -/
def memShapeLog (opc : Nat) (w : Mem) : Shape :=
  let modOk := w.space == .gl && w.width == .byte && w.order == .rlx && w.scope == .ln
  let z (o : Opnd) : Use := ⟨.zero, 1, false, false, some o⟩
  let g (o : Opnd) : Use := ⟨.g 63, 1, true, false, some o⟩
  if opc = 0x200 then { ok := modOk && w.imm == 0, uses := [z w.d, z w.a, z w.b] }
  else if opc = 0x201 then { ok := modOk && w.imm == 0, uses := [⟨.f, 1, false, true, some w.d⟩, g w.a, g w.b] }
  else if opc = 0x202 then { ok := modOk && w.imm == 0, uses := [z w.d, g w.a, g w.b] }
  else if opc = 0x203 then
    { ok := modOk && decide (1 ≤ w.imm.toNat) && decide (w.imm.toNat ≤ 65536), uses := [z w.d, g w.a, z w.b] }
  else Shape.bad

def memShape (opc : Nat) (w : Mem) : Shape :=
  if opc < 0x110 then memShapeLs opc w else if opc < 0x180 then memShapeAt opc w else memShapeLog opc w

/-! CTL layout. -/

/-- One row of the CTL tables: opcode, operand kinds, the MOD bits and the IMM bits that must be zero, and further checks. -/
structure CtlRow where
  opc : Nat
  d : Kind
  a : Kind
  b : Kind
  modZ : BitVec 12
  immZ : BitVec 32
  extra : Ctl → Bool

def noExtra : Ctl → Bool := fun _ => true

/-- BAR (R182): scope `.co` to `.pd`; an immediate count is not 0. -/
def barExtra (w : Ctl) : Bool :=
  let sc := (w.mod.extractLsb' 0 3).toNat
  decide (1 ≤ sc) && decide (sc ≤ 6) && (w.a != .imm 0)

/-- SSTEP (R183): scope `.cl` to `.pd`. -/
def sstepExtra (w : Ctl) : Bool := barExtra w && decide (3 ≤ (w.mod.extractLsb' 0 3).toNat)

/-- SQWAIT (Table 10-4): B is a k-register under TRY and 0 otherwise. -/
def tryExtra (w : Ctl) : Bool := if w.mod.getLsbD 0 then kindOk .k 1 w.b else kindOk .zero 1 w.b

/-- Table 6-3, Table 2-10, R57, R59. -/
def ctlRowsIssue : List CtlRow :=
  [⟨0x182, .zero, .c, .zero, 0xFFE, 0, noExtra⟩, ⟨0x183, .zero, .k, .zero, 0xFFE, 0, noExtra⟩,
   ⟨0x184, .zero, .v, .zero, 0xFFF, 0xFFFFFFFF, noExtra⟩, ⟨0x185, .v, .zero, .zero, 0xFFF, 0, noExtra⟩,
   ⟨0x186, .zero, .v, .zero, 0xFFF, 0xFFFFFFFF, noExtra⟩, ⟨0x187, .k, .zero, .zero, 0xFFF, 0, noExtra⟩,
   ⟨0x188, .zero, .fz, .zero, 0xFFF, 0xFFFF0000, fun w => !(w.imm == 0 && w.a == Opnd.none)⟩,
   ⟨0x189, .zero, .gimm, .zero, 0xFF8, 0xFFFFFFF0, barExtra⟩, ⟨0x18A, .zero, .gimm, .zero, 0xFF8, 0xFFFFFFF0, sstepExtra⟩,
   ⟨0x18B, .kg, .f, .zero, 0xFFF, 0xFFFFFFFF, noExtra⟩, ⟨0x18C, .zero, .f, .zero, 0xFFF, 0xFFFFFFFF, noExtra⟩,
   ⟨0x18D, .g 63, .f, .zero, 0xFFF, 0xFFFFFFFF, noExtra⟩, ⟨0x18E, .f, .g 63, .zero, 0xFFF, 0xFFFFFFFF, noExtra⟩,
   ⟨0x18F, .zero, .j, .zero, 0xFFF, 0xFFFFFFFF, noExtra⟩, ⟨0x190, .zero, .zero, .zero, 0xFFF, 0xFFFFFFFF, noExtra⟩,
   ⟨0x191, .zero, .zero, .zero, 0xFFF, 0xFFFFFF00, fun w => w.imm.getLsbD 7⟩,
   ⟨0x192, .zero, .zero, .zero, 0xFFF, 0xFFFFFFFF, noExtra⟩, ⟨0x193, .base, .csrR, .zero, 0xFFF, 0xFFFFFFFF, fun w => !(spIn 0x43 0x44 w.a && isG w.d)⟩,
   ⟨0x194, .csrW, .gimm, .zero, 0xFFF, 0xFFFFFFFF, noExtra⟩,
   ⟨0x195, .zero, .gimm, .zero, 0xFFF, 0xFFFFFFF0, noExtra⟩, ⟨0x196, .g 63, .zero, .any, 0xFFE, 0xFFFFFFF0, tryExtra⟩,
   ⟨0x197, .zero, .zero, .zero, 0xFFF, 0xFFFFFFFF, noExtra⟩, ⟨0x198, .zero, .g 63, .zero, 0xFFF, 0xFFFFFFFF, noExtra⟩]

/-- WAIT (R57): a count is 255 or at most its class's limit. -/
def waitExtra (w : Ctl) : Bool :=
  let n (i : Nat) := (w.imm.extractLsb' i 8).toNat
  let le (i m : Nat) := decide (n i = 255) || decide (n i ≤ m)
  le 24 64 && le 16 64 && le 8 16 && le 0 16

/-- The number of escape slots a RUNEND uses, and its slots (Table 2-10). -/
def escCount (w : Ctl) : Nat := (w.mod.extractLsb' 5 3).toNat
def escSlots (w : Ctl) : List (Option Opnd) := [some w.d, some w.a, some w.b, immC w.imm]

def slotOk (used : Bool) (o : Option Opnd) : Bool :=
  match o with
  | some o => if used then isV o else o == Opnd.none
  | none => false

/-- RUNEND (R55). -/
def runendExtra (w : Ctl) : Bool :=
  let used (i : Nat) := decide (i < escCount w)
  decide (escCount w ≤ 4) && !w.hdr.neg && w.hdr.k == 7 && !w.hdr.land && w.hdr.dly == 0 && !w.hdr.ru &&
    slotOk (used 0) (some w.d) && slotOk (used 1) (some w.a) && slotOk (used 2) (some w.b) && slotOk (used 3) (immC w.imm)

/-- Table 15-1, Table 14-2, Table 16-6, and RUNEND and WAIT. -/
def ctlRowsSys : List CtlRow :=
  [⟨0x180, .any, .any, .any, 0x01F, 0xFFFFFC00, runendExtra⟩, ⟨0x181, .zero, .zero, .zero, 0xFFF, 0, waitExtra⟩,
   ⟨0x204, .k, .g 63, .g 63, 0xFFF, 0xFFFFFFFF, noExtra⟩, ⟨0x205, .zero, .g 63, .g 63, 0xFFF, 0xFFFFFFFF, noExtra⟩,
   ⟨0x206, .f, .g 63, .g 63, 0xFFF, 0xFFFFFFFF, noExtra⟩, ⟨0x207, .f, .g 63, .g 63, 0xFFE, 0xFFFFFFFF, noExtra⟩,
   ⟨0x208, .f, .zero, .zero, 0xFFF, 0xFFFFFFC0, noExtra⟩, ⟨0x209, .f, .zero, .zero, 0xFFF, 0xFFFFFFC0, noExtra⟩,
   ⟨0x300, .f, .g 63, .zero, 0xFFF, 0xFFFFFFC0, noExtra⟩, ⟨0x301, .zero, .g 63, .g 63, 0xFFF, 0xFFFFFFFF, noExtra⟩,
   ⟨0x302, .zero, .g 63, .zero, 0xFFF, 0xFFFFFFFF, noExtra⟩, ⟨0x303, .f, .g 63, .zero, 0xFFF, 0xFFFFFFFF, noExtra⟩,
   ⟨0x304, .g 63, .g 63, .zero, 0xFFF, 0xFFFFFFFF, noExtra⟩, ⟨0x305, .zero, .g 63, .g 63, 0xFFF, 0xFFFFFFFF, noExtra⟩,
   ⟨0x306, .zero, .g 63, .zero, 0xFFF, 0xFFFFFFFF, noExtra⟩]

/-- Table 9-2: SSP and DSP at most 3. -/
def copySpaces (w : Ctl) : Bool := decide ((w.mod.extractLsb' 9 3).toNat ≤ 3) && decide ((w.mod.extractLsb' 6 3).toNat ≤ 3)

/-- XCONV (Table 9-4): SRC any code, DST at most 0xD, not equal. -/
def xconvExtra (w : Ctl) : Bool :=
  copySpaces w && decide ((w.imm.extractLsb' 4 4).toNat ≤ 0xD) && w.imm.extractLsb' 4 4 != w.imm.extractLsb' 0 4

def fltCode (b : BitVec 4) : Bool := decide (b ∈ [0x8#4, 0x9#4, 0xA#4])

/-- XQA8 (Table 9-5): SRC a float code; CANON only into a scratchpad. -/
def xqa8Extra (w : Ctl) : Bool :=
  copySpaces w && fltCode (w.imm.extractLsb' 0 4) && (!w.imm.getLsbD 5 || w.mod.extractLsb' 6 3 != 0)

def xwhtExtra (w : Ctl) : Bool := copySpaces w && fltCode (w.imm.extractLsb' 0 4) && fltCode (w.imm.extractLsb' 4 4)

/-- PLOAD (R247): first + count at most 128. -/
def ploadExtra (w : Ctl) : Bool := decide ((w.imm.extractLsb' 0 7).toNat + (w.imm.extractLsb' 8 7).toNat + 1 ≤ 128)

/-- TQ2 (Table 12-1): SH from 1 to 11. -/
def tq2Extra (w : Ctl) : Bool :=
  let sh := (w.mod.extractLsb' 8 4).toNat
  decide (1 ≤ sh) && decide (sh ≤ 11)

/-- TMAP (Table 12-1): RSH at most 7 with byte elements. -/
def tmapExtra (w : Ctl) : Bool := w.mod.getLsbD 0 || decide ((w.mod.extractLsb' 1 4).toNat ≤ 7)

/-- Tables 9-1, 8-4, 12-1, 13-4. -/
def ctlRowsAsync : List CtlRow :=
  [⟨0x240, .f, .g 58, .zero, 0x01F, 0xFFFFFFFF, copySpaces⟩, ⟨0x241, .f, .g 58, .zero, 0x01F, 0xFFFFF800, xconvExtra⟩,
   ⟨0x242, .f, .g 58, .zero, 0x01F, 0xFFFFFFC0, xqa8Extra⟩, ⟨0x243, .f, .g 58, .zero, 0x01F, 0xFFFFFF00, xwhtExtra⟩,
   ⟨0x244, .f, .g 58, .zero, 0x01F, 0xFFFFFFFF, copySpaces⟩,
   ⟨0x250, .zero, .g 63, .zero, 0xFFE, 0xFFFF8080, ploadExtra⟩, ⟨0x251, .f, .g 60, .zero, 0xFFF, 0xFFFFFF80, noExtra⟩,
   ⟨0x252, .zero, .zero, .zero, 0xFFE, 0xFFFFFFFF, noExtra⟩, ⟨0x253, .vx, .q, .zero, 0xFFF, 0xFFFFFFFF, noExtra⟩,
   ⟨0x254, .vx, .q, .zero, 0xFFF, 0xFFFFFFFF, noExtra⟩, ⟨0x255, .g 63, .q, .zero, 0xFFF, 0xFFFFFFFF, noExtra⟩,
   ⟨0x260, .f, .g 63, .g 63, 0xFF8, 0xFFFFFF00, noExtra⟩, ⟨0x261, .v, .src, .zero, 0xF0F, 0xFFFFF800, noExtra⟩,
   ⟨0x262, .v, .src, .src, 0x00F, 0xFFFFF800, tq2Extra⟩, ⟨0x263, .f, .g 63, .g 63, 0xFE0, 0xFFFFFF00, tmapExtra⟩,
   ⟨0x264, .f, .zero, .zero, 0xFFF, 0xFFFFFF00, noExtra⟩,
   ⟨0x270, .f, .g 63, .zero, 0xFFE, 0xFFFFFFFF, noExtra⟩, ⟨0x271, .f, .g 63, .zero, 0xFFC, 0xFFFFFFFF, noExtra⟩]

/-- SJMP (Table 10-3): D is an s-register if LINK, A if IND; no offset under IND. -/
def sjmpExtra (w : Ctl) : Bool :=
  (if w.mod.getLsbD 1 then sOk w.d else w.d == Opnd.none) &&
  (if w.mod.getLsbD 0 then sOk w.a && w.imm == 0 else w.a == Opnd.none)

def seqWidthOk (w : Ctl) : Bool := decide ((w.mod.extractLsb' 6 3).toNat ≤ 3)

def sldExtra (w : Ctl) : Bool :=
  seqWidthOk w && decide ((w.mod.extractLsb' 9 3).toNat ∈ [2, 3, 4])
def sstExtra (w : Ctl) : Bool :=
  seqWidthOk w && decide ((w.mod.extractLsb' 9 3).toNat ∈ [2, 3])

/-- Table 10-3. -/
def ctlRowsSeq : List CtlRow :=
  [⟨0x280, .s, .simm, .simm, 0xFFF, 0xFFFFFFFF, noExtra⟩, ⟨0x281, .s, .simm, .simm, 0xFFF, 0xFFFFFFFF, noExtra⟩,
   ⟨0x282, .s, .simm, .simm, 0xFFF, 0xFFFFFFFF, noExtra⟩, ⟨0x283, .s, .simm, .simm, 0xFFF, 0xFFFFFFFF, noExtra⟩,
   ⟨0x284, .s, .simm, .simm, 0xFFF, 0xFFFFFFFF, noExtra⟩, ⟨0x285, .s, .simm, .simm, 0xFFF, 0xFFFFFFFF, noExtra⟩,
   ⟨0x286, .s, .simm, .simm, 0xFFF, 0xFFFFFFFF, noExtra⟩, ⟨0x287, .s, .simm, .simm, 0xFFE, 0xFFFFFFFF, noExtra⟩,
   ⟨0x288, .s, .simm, .zero, 0xFFF, 0xFFFFFFFF, noExtra⟩, ⟨0x289, .s, .zero, .zero, 0xFFE, 0, noExtra⟩,
   ⟨0x28A, .s, .simm, .simm, 0xFF0, 0xFFFFFFFF, fun w => decide ((w.mod.extractLsb' 0 3).toNat ≤ 5)⟩,
   ⟨0x28B, .zero, .s, .zero, 0xFFE, 0, noExtra⟩, ⟨0x28C, .any, .any, .zero, 0xFFC, 0, sjmpExtra⟩,
   ⟨0x28D, .s, .s, .zero, 0x01F, 0, sldExtra⟩, ⟨0x28E, .s, .s, .zero, 0x03F, 0, sstExtra⟩,
   ⟨0x28F, .zero, .simm, .zero, 0xFFF, 0xFFFFFFF0, noExtra⟩, ⟨0x290, .s, .zero, .zero, 0xFFF, 0xFFFFFFF0, noExtra⟩,
   ⟨0x291, .zero, .zero, .zero, 0xFFF, 0xFFFFFFE0, noExtra⟩, ⟨0x292, .zero, .zero, .zero, 0xFFF, 0xFFFFFFFF, noExtra⟩,
   ⟨0x293, .s, .any, .zero, 0xFFF, 0xFFFFFFFF, fun w => w.a == .sp 0x40⟩]

/-- PXGA and PXLDA (Table 11-3, R300): TS at least 1, J below KB. -/
def gatherExtra (w : Ctl) : Bool :=
  decide (1 ≤ (w.imm.extractLsb' 20 12).toNat) && decide ((w.imm.extractLsb' 4 8).toNat ≤ (w.imm.extractLsb' 12 8).toNat)

def zIdx (o : Opnd) : Nat := ((spOf o).getD 54) - 54

/-- PXMM and PXDM (R300): SB + NB at most 8, and the z index plus NB at most 8. -/
def mmExtra (w : Ctl) : Bool :=
  let nb := (w.imm.extractLsb' 0 3).toNat + 1
  decide ((w.imm.extractLsb' 3 3).toNat + nb ≤ 8) && decide (zIdx w.d + nb ≤ 8)

/-- PXDRN (R300): FMT 0 or 1; STR a multiple of 16, at least 64 elements. -/
def drnExtra (w : Ctl) : Bool :=
  let str := (w.imm.extractLsb' 8 24).toNat
  !w.imm.getLsbD 1 && decide (str % 16 = 0) && decide ((if w.imm.getLsbD 0 then 128 else 256) ≤ str)

/-- PXLDW (R300): FMT 3 needs an even slot. -/
def ldwExtra (w : Ctl) : Bool := w.imm.extractLsb' 0 2 != 3 || decide ((spOf w.d).getD 1 % 2 = 0)

/-- Table 11-2. -/
def ctlRowsPx : List CtlRow :=
  [⟨0x2A0, .w, .s, .zero, 0xFFE, 0xFFFFFFFC, ldwExtra⟩, ⟨0x2A1, .a, .s, .s, 0xFFF, 0x00000008, gatherExtra⟩,
   ⟨0x2A2, .a, .s, .zero, 0xFFF, 0x00000008, gatherExtra⟩, ⟨0x2A3, .z, .w, .a, 0xFFF, 0xFFFFFFC0, mmExtra⟩,
   ⟨0x2A4, .z, .w, .a, 0xFFF, 0xFFFFFFC0, mmExtra⟩,
   ⟨0x2A5, .zero, .zero, .zero, 0xFFF, 0xFFFE0000, fun w => w.imm.extractLsb' 0 8 != 0⟩,
   ⟨0x2A6, .zero, .z, .s, 0xFFE, 0x000000FC, drnExtra⟩, ⟨0x2A7, .a, .z, .zero, 0xFFF, 0xFFFFFFF0, noExtra⟩,
   ⟨0x2A8, .zero, .s, .zero, 0xFFE, 0xFFFFFFFF, noExtra⟩, ⟨0x2A9, .zero, .s, .zero, 0xFFE, 0xFFFFFFFF, noExtra⟩,
   ⟨0x2AA, .s, .z, .zero, 0xFFF, 0xFFFFFFFE, noExtra⟩]

def ctlRows : List CtlRow := ctlRowsIssue ++ ctlRowsSys ++ ctlRowsAsync ++ ctlRowsSeq ++ ctlRowsPx

def ctlRow (opc : Nat) : Option CtlRow := ctlRows.find? (fun r => r.opc == opc)

/-- Registers of 32 bits each operand names: the 64-bit pairs of JMPI, CALL and RET (R175, R176), otherwise one. -/
def ctlRegs (opc : Nat) : Nat := if opc = 0x184 ∨ opc = 0x185 ∨ opc = 0x186 then 2 else 1

/-- SPAWN copies v0 to v7 and every g-register (R179), so it reads them. -/
def spawnUses : List Use :=
  [⟨.vx, 8, true, false, some (.v 0)⟩, ⟨.g 0, 1, true, false, some (.g 0)⟩]

/-- SJMP reads the s-register in A under IND and writes the one in D under LINK (Table 10-3). -/
def sjmpUses (w : Ctl) : List Use :=
  (if w.mod.getLsbD 0 then [⟨.s, 1, true, false, some w.a⟩] else []) ++
  (if w.mod.getLsbD 1 then [⟨.s, 1, false, true, some w.d⟩] else [])

/-- A RUNEND reads and writes no register, an SST reads the register in D. -/
def ctlUses (opc : Nat) (r : CtlRow) (w : Ctl) : List Use :=
  let rw := opc != 0x180
  [⟨r.d, ctlRegs opc, rw && opc == 0x28E, rw && opc != 0x28E, some w.d⟩, ⟨r.a, ctlRegs opc, rw, false, some w.a⟩,
   ⟨r.b, 1, rw, false, some w.b⟩] ++ (if opc = 0x187 then spawnUses else if opc = 0x28C then sjmpUses w else [])

def ctlShape (opc : Nat) (w : Ctl) : Shape :=
  match ctlRow opc with
  | none => Shape.bad
  | some r => { ok := (w.mod &&& r.modZ == 0) && (w.imm &&& r.immZ == 0) && r.extra w, uses := ctlUses opc r w }

/-! LOOP layout. -/

/-- Table 5-10. -/
def loopOpCode : LoopOp → BitVec 6
  | .copy => 0x00 | .add => 0x01 | .sub => 0x02 | .mul => 0x03 | .min => 0x04 | .max => 0x05 | .mac => 0x06 | .abs => 0x07 | .neg => 0x08
  | .rsum => 0x10 | .rmax => 0x11 | .rmin => 0x12 | .rdot => 0x13

def loopOpOf (b : BitVec 6) : Option LoopOp :=
  [LoopOp.copy, .add, .sub, .mul, .min, .max, .mac, .abs, .neg, .rsum, .rmax, .rmin, .rdot].find? (fun o => loopOpCode o == b)

/-- One-source operations (Table 5-10). -/
def loopOne : LoopOp → Bool
  | .copy => true | .abs => true | .neg => true | .rsum => true | .rmax => true | .rmin => true
  | .add => false | .sub => false | .mul => false | .min => false | .max => false | .mac => false | .rdot => false

/-- Reductions over level 0 (R155). -/
def loopRed : LoopOp → Bool
  | .rsum => true | .rmax => true | .rmin => true | .rdot => true
  | .copy => false | .add => false | .sub => false | .mul => false | .min => false | .max => false | .mac => false | .abs => false | .neg => false

/-- Element types of a LOOPN (R154). -/
def loopTys : List Ty := [.b8, .s8, .b16, .s16, .b32, .s32, .f32, .f16, .bf16]

def loopLevels (w : Loop) : List Level := [w.l0, w.l1, w.l2, w.l3, w.l4]

/-- A level at or above NLEV has every field zero (R61). -/
def levelZero (l : Level) : Bool := l.ext == 0 && l.sd == 0 && l.sa == 0 && l.sb == 0

def loopShape (w : Loop) : Shape :=
  let one := loopOne w.op
  { ok := decide (1 ≤ w.nlev.toNat) && decide (w.nlev.toNat ≤ 5) && decide (w.ty ∈ loopTys) &&
      ((loopLevels w).drop w.nlev.toNat).all levelZero &&
      (!one || (w.b == Opnd.none && w.bsp == .cr && (loopLevels w).all (fun l => l.sb == 0))) &&
      (!loopRed w.op || w.l0.sd == 0)
    uses := [⟨.g 63, 1, true, false, some w.d⟩, ⟨.g 63, 1, true, false, some w.a⟩,
      ⟨if one then .zero else .g 63, 1, true, false, some w.b⟩] }

/-! Micro-ops and packets. -/

/-- A CTL word's guard and hints in a sequencer stream (R62). -/
def seqOpc (opc : Nat) : Bool := decide (0x280 ≤ opc) && decide (opc ≤ 0x2FF)

/-- Guards and hints (R48, R62): the complement of k7 is no guard; a sequencer word carries the plain ones. -/
def hdrOk (opc : Nat) (h : Hdr) : Bool :=
  if seqOpc opc then h == Hdr.plain else !(h.neg && h.k == 7)

/-! The body of an instruction: its opcode and layout, for the rows that are words of a stream. -/

inductive Body where
  | alu (opc : Nat) (w : Alu)
  | mem (opc : Nat) (w : Mem)
  | ctl (opc : Nat) (w : Ctl)
  | loop (w : Loop)
  | step
  deriving DecidableEq, Repr

/-- Tables 2-13 to 2-19: the opcode and layout of every instruction of a 96-bit stream. LANDC's two roles share 0x271 (Table 13-4);
TRACE_FLUSH is the CSRW of TRACECTL (R418). Every other row is a micro-op, a packet or a step of an engine. -/
def bodyOf : Instr → Body
  | .iadd w => .alu 0x000 w
  | .isub w => .alu 0x001 w
  | .iadds w => .alu 0x002 w
  | .isubs w => .alu 0x003 w
  | .imul w => .alu 0x004 w
  | .imulhi w => .alu 0x005 w
  | .imad w => .alu 0x006 w
  | .ineg w => .alu 0x007 w
  | .iabs w => .alu 0x008 w
  | .imin w => .alu 0x009 w
  | .imax w => .alu 0x00A w
  | .ishl w => .alu 0x00B w
  | .ishr w => .alu 0x00C w
  | .isar w => .alu 0x00D w
  | .irol w => .alu 0x00E w
  | .ibfx w => .alu 0x00F w
  | .ibfi w => .alu 0x010 w
  | .popc w => .alu 0x011 w
  | .clz w => .alu 0x012 w
  | .brev w => .alu 0x013 w
  | .andB w => .alu 0x020 w
  | .orB w => .alu 0x021 w
  | .xorB w => .alu 0x022 w
  | .notB w => .alu 0x023 w
  | .andn w => .alu 0x024 w
  | .bfn3 w => .alu 0x025 w
  | .icmp w => .alu 0x030 w
  | .fcmp w => .alu 0x031 w
  | .sel w => .alu 0x032 w
  | .clop w => .alu 0x033 w
  | .mov w => .alu 0x034 w
  | .movi w => .alu 0x035 w
  | .movc w => .alu 0x036 w
  | .fadd w => .alu 0x040 w
  | .fsub w => .alu 0x041 w
  | .fmul w => .alu 0x042 w
  | .ffma w => .alu 0x043 w
  | .fmin w => .alu 0x044 w
  | .fmax w => .alu 0x045 w
  | .fabs w => .alu 0x046 w
  | .fneg w => .alu 0x047 w
  | .fclass w => .alu 0x048 w
  | .frnd w => .alu 0x049 w
  | .pkadd w => .alu 0x060 w
  | .pksub w => .alu 0x061 w
  | .pkmul w => .alu 0x062 w
  | .pkfma w => .alu 0x063 w
  | .pkmin w => .alu 0x064 w
  | .pkmax w => .alu 0x065 w
  | .pkdot w => .alu 0x066 w
  | .cvt w => .alu 0x070 w
  | .pack2 w => .alu 0x071 w
  | .unpk2 w => .alu 0x072 w
  | .shfl w => .alu 0x080 w
  | .shflx w => .alu 0x081 w
  | .shflup w => .alu 0x082 w
  | .shfldn w => .alu 0x083 w
  | .bcast w => .alu 0x084 w
  | .vall w => .alu 0x090 w
  | .vany w => .alu 0x091 w
  | .vbal w => .alu 0x092 w
  | .vfirst w => .alu 0x093 w
  | .rsqs w => .alu 0x0A0 w
  | .rcps w => .alu 0x0A1 w
  | .ex2s w => .alu 0x0A2 w
  | .lg2s w => .alu 0x0A3 w
  | .sins w => .alu 0x0A4 w
  | .coss w => .alu 0x0A5 w
  | .gadd w => .alu 0x0B0 w
  | .gsub w => .alu 0x0B1 w
  | .gmul w => .alu 0x0B2 w
  | .gand w => .alu 0x0B3 w
  | .gor w => .alu 0x0B4 w
  | .gxor w => .alu 0x0B5 w
  | .gshl w => .alu 0x0B6 w
  | .gshr w => .alu 0x0B7 w
  | .gmov w => .alu 0x0B8 w
  | .gmovi w => .alu 0x0B9 w
  | .gcmp w => .alu 0x0BA w
  | .klop w => .alu 0x0BB w
  | .v2g w => .alu 0x0BC w
  | .g2v w => .alu 0x0BD w
  | .loopn w => .loop w
  | .ld w => .mem 0x100 w
  | .ldx w => .mem 0x106 w
  | .lds w => .mem 0x101 w
  | .st w => .mem 0x102 w
  | .send w => .mem 0x103 w
  | .pref w => .mem 0x104 w
  | .fence w => .mem 0x105 w
  | .aadd w => .mem 0x110 w
  | .amin w => .mem 0x111 w
  | .amax w => .mem 0x112 w
  | .aand w => .mem 0x113 w
  | .aor w => .mem 0x114 w
  | .axor w => .mem 0x115 w
  | .axchg w => .mem 0x116 w
  | .acas w => .mem 0x117 w
  | .afadd w => .mem 0x118 w
  | .runend w => .ctl 0x180 w
  | .wait w => .ctl 0x181 w
  | .nop w => .ctl 0x197 w
  | .br w => .ctl 0x182 w
  | .bru w => .ctl 0x183 w
  | .jmpi w => .ctl 0x184 w
  | .call w => .ctl 0x185 w
  | .ret w => .ctl 0x186 w
  | .spawn w => .ctl 0x187 w
  | .pause w => .ctl 0x188 w
  | .bar w => .ctl 0x189 w
  | .sstep w => .ctl 0x18A w
  | .ftest w => .ctl 0x18B w
  | .fcancel w => .ctl 0x18C w
  | .fmovg w => .ctl 0x18D w
  | .gmovf w => .ctl 0x18E w
  | .rjoin w => .ctl 0x18F w
  | .exit w => .ctl 0x190 w
  | .trapOp w => .ctl 0x191 w
  | .bkpt w => .ctl 0x192 w
  | .csrr w => .ctl 0x193 w
  | .csrw w => .ctl 0x194 w
  | .traceFlush w => .ctl 0x194 w
  | .tret w => .ctl 0x198 w
  | .sqpostGroup w => .ctl 0x195 w
  | .sqwaitGroup w => .ctl 0x196 w
  | .pub w => .mem 0x200 w
  | .pubr w => .mem 0x201 w
  | .invr w => .mem 0x202 w
  | .zline w => .mem 0x203 w
  | .tlock w => .ctl 0x204 w
  | .tunlock w => .ctl 0x205 w
  | .tprobe w => .ctl 0x206 w
  | .migr w => .ctl 0x207 w
  | .snap w => .ctl 0x208 w
  | .snapdrop w => .ctl 0x209 w
  | .rootsw w => .ctl 0x300 w
  | .libsd w => .ctl 0x303 w
  | .xcopy w => .ctl 0x240 w
  | .xconv w => .ctl 0x241 w
  | .xqa8 w => .ctl 0x242 w
  | .xwht w => .ctl 0x243 w
  | .tprep w => .ctl 0x244 w
  | .pload w => .ctl 0x250 w
  | .pstart w => .ctl 0x251 w
  | .pstop w => .ctl 0x252 w
  | .qpop w => .ctl 0x253 w
  | .qpeek w => .ctl 0x254 w
  | .qstat w => .ctl 0x255 w
  | .cntset _ _ _ _ => .step
  | .agset _ _ _ _ _ _ => .step
  | .piccoloSld _ _ _ _ => .step
  | .dq _ _ _ => .step
  | .trn => .step
  | .push _ _ => .step
  | .nextOp _ _ _ => .step
  | .endOp => .step
  | .sadd w => .ctl 0x280 w
  | .ssub w => .ctl 0x281 w
  | .smul w => .ctl 0x282 w
  | .sand w => .ctl 0x283 w
  | .sor w => .ctl 0x284 w
  | .sxor w => .ctl 0x285 w
  | .sshl w => .ctl 0x286 w
  | .sshr w => .ctl 0x287 w
  | .smov w => .ctl 0x288 w
  | .smovi w => .ctl 0x289 w
  | .scmp w => .ctl 0x28A w
  | .sbr w => .ctl 0x28B w
  | .sjmp w => .ctl 0x28C w
  | .sld w => .ctl 0x28D w
  | .sst w => .ctl 0x28E w
  | .sqpostSeq w => .ctl 0x28F w
  | .sqwaitSeq w => .ctl 0x290 w
  | .swaitpx w => .ctl 0x291 w
  | .sexit w => .ctl 0x292 w
  | .scsrr w => .ctl 0x293 w
  | .pxldw w => .ctl 0x2A0 w
  | .pxga w => .ctl 0x2A1 w
  | .pxlda w => .ctl 0x2A2 w
  | .pxmm w => .ctl 0x2A3 w
  | .pxdm w => .ctl 0x2A4 w
  | .pxzero w => .ctl 0x2A5 w
  | .pxdrn w => .ctl 0x2A6 w
  | .pxbyp w => .ctl 0x2A7 w
  | .pxsave w => .ctl 0x2A8 w
  | .pxrest w => .ctl 0x2A9 w
  | .pxstat w => .ctl 0x2AA w
  | .tload w => .ctl 0x260 w
  | .tq w => .ctl 0x261 w
  | .tq2 w => .ctl 0x262 w
  | .tmap w => .ctl 0x263 w
  | .tfree w => .ctl 0x264 w
  | .landr w => .ctl 0x270 w
  | .landcArm w => .ctl 0x271 w
  | .landcPut w => .ctl 0x271 w
  | .quiesce w => .ctl 0x301 w
  | .resume w => .ctl 0x302 w
  | .ctxld w => .ctl 0x304 w
  | .ctxsv w => .ctl 0x305 w
  | .halt w => .ctl 0x306 w
  | .launch _ => .step
  | .barrier => .step
  | .signal _ _ => .step
  | .cancel _ _ _ _ _ => .step
  | .preempt _ _ => .step
  | .buffer _ _ _ _ _ => .step
  | .loopnStart _ => .step
  | .loopnComplete _ => .step
  | .atomicPerform _ => .step
  | .loadReturn _ => .step
  | .storePerform _ => .step
  | .sendArrive _ _ => .step
  | .barrierRelease _ => .step
  | .traceFlushDone _ => .step
  | .runArbitration _ => .step
  | .runResume _ => .step
  | .yieldExpire _ _ => .step
  | .stall _ => .step
  | .trapTake _ => .step
  | .preemptRequest _ => .step
  | .groupSave _ => .step
  | .groupRestore _ _ => .step
  | .groupEnd _ => .step
  | .wcbWindowExpire _ _ => .step
  | .publicationStart _ => .step
  | .homePrepare _ _ => .step
  | .prepareAck _ _ => .step
  | .revokeRequest _ => .step
  | .holdTimerExpire _ => .step
  | .homeCommit _ _ => .step
  | .homeRelease _ _ => .step
  | .publicationCommit _ => .step
  | .libFill _ _ => .step
  | .loadServeHome _ _ => .step
  | .translationWalk _ _ => .step
  | .leafWriteback _ => .step
  | .logstallExpire _ => .step
  | .tlockFillLand _ => .step
  | .pageRequest _ _ => .step
  | .pagePromote _ => .step
  | .migrationCommitNotice _ _ => .step
  | .pageDemote _ _ => .step
  | .faultCancel _ _ => .step
  | .forwardedAccess _ => .step
  | .counterEpochTick => .step
  | .pageTransfer _ _ => .step
  | .snapshotCut _ => .step
  | .rollback _ => .step
  | .cleanSegment _ _ => .step
  | .shootdown _ => .step
  | .segmentShip _ => .step
  | .replicaSegmentReceive _ => .step
  | .copyOpStart _ => .step
  | .copyOpComplete _ => .step
  | .ploadDataReturn _ => .step
  | .piccoloRunBegin _ => .step
  | .piccoloSldReturn _ _ => .step
  | .bindingEnd _ => .step
  | .streamStart _ => .step
  | .streamHandleResolve _ => .step
  | .seqSldReturn _ _ => .step
  | .seqStall _ => .step
  | .seqTrap _ => .step
  | .seqSave _ => .step
  | .seqRestore _ _ => .step
  | .pxOpStart _ => .step
  | .pxOpComplete _ _ => .step
  | .tloadComplete _ => .step
  | .tqPacketServe _ => .step
  | .tqReply _ => .step
  | .lanesReturn _ _ => .step
  | .tmapComplete _ => .step
  | .tfreeComplete _ => .step
  | .landOpStart _ => .step
  | .armReserve _ => .step
  | .chunkAccept _ => .step
  | .putRetry _ => .step
  | .landPublish _ => .step
  | .quiesceComplete _ => .step
  | .queueKick _ _ _ => .step
  | .queueReset _ _ => .step
  | .packetRead _ => .step
  | .packetReread _ => .step
  | .blockPlace _ _ => .step
  | .groupMove _ _ => .step
  | .priorityPreempt _ _ => .step
  | .launchComplete _ => .step
  | .hostAdmit _ => .step
  | .ownershipSwap _ _ => .step
  | .frozenClear _ _ => .step
  | .hostRead _ _ _ => .step
  | .hostWrite _ _ _ => .step
  | .hostWcbWindowExpire _ _ => .step
  | .hostRelease _ _ => .step
  | .hostmapWrite _ _ _ => .step
  | .ckreq _ _ => .step
  | .ckOpStart _ => .step
  | .shardReceive _ => .step
  | .manifestWrite _ => .step
  | .ckCommit _ => .step
  | .ckRestore _ => .step
  | .refusedClear _ => .step
  | .histSample _ => .step
  | .timeseriesTick => .step
  | .kSwitch => .step
  | .dump _ => .step
  | .trctailWrite _ _ => .step
  | .trclostRead _ => .step
  | .flitReplay _ => .step
  | .linkDown _ => .step
  | .noRoute _ => .step
  | .linkTrain _ _ => .step
  | .retrain _ _ => .step
  | .heartbeat => .step
  | .peerFailure _ => .step
  | .qfMessageReceive _ _ => .step
  | .hostErrcountRead _ => .step
  | .powerDownEntry _ => .step
  | .selfRefreshEntry _ => .step
  | .channelWake _ => .step
  | .forcesr _ _ _ => .step
  | .gatectlWrite _ _ _ => .step
  | .gateWake _ => .step
  | .gateErrorClear _ => .step
  | .coldReset => .step
  | .warmReset _ => .step
  | .boot _ _ _ => .step
  | .attreq _ _ => .step
  | .softError _ _ _ => .step
  | .registerWrite _ _ _ => .step
  | .seqSstPerform _ _ => .step
  | .tprobeResult _ => .step
  | .newImage _ _ _ => .step

def Body.hdr : Body → Hdr
  | .alu _ w => w.hdr
  | .mem _ w => w.hdr
  | .ctl _ w => w.hdr
  | .loop w => w.hdr
  | .step => Hdr.plain

def Body.opc : Body → Nat
  | .alu o _ => o
  | .mem o _ => o
  | .ctl o _ => o
  | .loop _ => 0x0C0
  | .step => 0x3FF

/-- The form of a body's fields. -/
def Body.shape : Body → Shape
  | .alu o w => aluShape o w
  | .mem o w => memShape o w
  | .ctl o w => ctlShape o w
  | .loop w => loopShape w
  | .step => { ok := true, uses := [] }

/-- The guard, the hints and every field of a body are accepted. -/
def Body.good (b : Body) : Bool := hdrOk b.opc b.hdr && b.shape.good

/-- The constructor picks the word: the two roles of LANDC, the TRACECTL write of TRACE_FLUSH. -/
def roleOk : Instr → Bool
  | .landcArm w => !w.mod.getLsbD 1
  | .landcPut w => w.mod.getLsbD 1
  | .traceFlush w => w.d == .sp 0x83 && isG w.a
  | .nextOp top lo _ => decide (lo ≤ top)
  | .launch p => decide (p.nbuf.toNat ≤ 4095)
  | _ => true

end Sys2Proof.Machine
end

