-- ==== Sys2Proof/WellFormed.lean ====
section
/-! DEFINITION. Which instructions are well formed: their fields hold what their row of the encoding tables accepts (R41, R45, R69). -/

namespace Sys2Proof

/-- An instruction is well formed when its guard, hints, modifiers, operands and immediate are those its row accepts.
A row that is no word of a stream is well formed for every parameter, but for the fields of micro-ops and packets that a
table restricts (R241, Table 16-3). -/
def Instr.wf (i : Instr) : Bool := (Machine.bodyOf i).good && Machine.roleOk i

/-- Well-formedness as a proposition. -/
abbrev Instr.WellFormed (i : Instr) : Prop := i.wf = true

end Sys2Proof
end

