-- ==== Sys2Proof/Decode.lean ====
section
/-! DEFINITION. The decoder, total on any words and rejecting by name, and the encoder, from the encoding tables of the spec
(R35 to R69, Table 8-2, Tables 16-2 to 16-5). -/

namespace Sys2Proof

open Sys2Proof.Machine (opndOf opndBits tyOf tyCode loopOpOf loopOpCode seqOpc)

/-- Why words are no instruction (Table 2-20, R69): an opcode no row allocates; an opcode of the other stream; an
extension word outside a LOOPN; a LOOPN without its two extension words; a reserved header bit; a field code no operand, type or
mode has; a form its row does not accept; no word at all. -/
inductive DecErr where
  | opcode | stream | extension | incomplete | header | field | form | empty
  deriving DecidableEq, Repr

/-- The fields of Table 2-1. -/
structure Raw where
  opc : BitVec 10
  neg : BitVec 1
  k : BitVec 3
  land : BitVec 1
  yld : BitVec 1
  dly : BitVec 3
  ru : BitVec 1
  res : BitVec 2
  d : BitVec 10
  a : BitVec 10
  b : BitVec 10
  mod : BitVec 12
  imm : BitVec 32
  deriving DecidableEq, Repr

/-- The fields of a word (R35). -/
def Raw.ofWord (w : IWord) : Raw :=
  { opc := w.extractLsb' 86 10, neg := w.extractLsb' 85 1, k := w.extractLsb' 82 3, land := w.extractLsb' 81 1,
    yld := w.extractLsb' 80 1, dly := w.extractLsb' 77 3, ru := w.extractLsb' 76 1, res := w.extractLsb' 74 2,
    d := w.extractLsb' 64 10, a := w.extractLsb' 54 10, b := w.extractLsb' 44 10, mod := w.extractLsb' 32 12,
    imm := w.extractLsb' 0 32 }

/-- The word of its fields (R35). -/
def Raw.toWord (r : Raw) : IWord :=
  r.opc ++ r.neg ++ r.k ++ r.land ++ r.yld ++ r.dly ++ r.ru ++ r.res ++ r.d ++ r.a ++ r.b ++ r.mod ++ r.imm

/-- Guard and hints (R48 to R50). -/
def Raw.hdr (r : Raw) : Hdr :=
  { neg := r.neg == 1, k := r.k, land := r.land == 1, yld := r.yld == 1, dly := r.dly, ru := r.ru == 1 }

def bit1 (b : Bool) : BitVec 1 := if b then 1 else 0

/-- A word from its opcode, header and fields. -/
def rawOf (opc : Nat) (h : Hdr) (d a b : BitVec 10) (mod : BitVec 12) (imm : BitVec 32) : Raw :=
  { opc := BitVec.ofNat 10 opc, neg := bit1 h.neg, k := h.k, land := bit1 h.land, yld := bit1 h.yld, dly := h.dly, ru := bit1 h.ru,
    res := 0, d := d, a := a, b := b, mod := mod, imm := imm }

/-! Modifier codes (Tables 2-7 to 2-9, Table 1-3). -/

def rndOf (b : BitVec 2) : Rnd :=
  if b = 0 then .rne else if b = 1 then .rtz else if b = 2 then .rdn else .rup
def rndCode : Rnd → BitVec 2
  | .rne => 0 | .rtz => 1 | .rdn => 2 | .rup => 3
def spaceOf (b : BitVec 3) : Option Space := [Space.ln, .cr, .cm, .ds, .gl][b.toNat]?
def spaceCode : Space → BitVec 3
  | .ln => 0 | .cr => 1 | .cm => 2 | .ds => 3 | .gl => 4
def widthOf (b : BitVec 3) : Option Width := [Width.byte, .half, .word, .dword, .qword][b.toNat]?
def widthCode : Width → BitVec 3
  | .byte => 0 | .half => 1 | .word => 2 | .dword => 3 | .qword => 4
def orderOf (b : BitVec 3) : Option Order := [Order.rlx, .acq, .rel, .ar, .sc][b.toNat]?
def orderCode : Order → BitVec 3
  | .rlx => 0 | .acq => 1 | .rel => 2 | .ar => 3 | .sc => 4
def scopeOf (b : BitVec 3) : Option Scope := [Scope.ln, .co, .qd, .cl, .di, .pk, .pd][b.toNat]?
def scopeCode : Scope → BitVec 3
  | .ln => 0 | .co => 1 | .qd => 2 | .cl => 3 | .di => 4 | .pk => 5 | .pd => 6

/-! The opcode map (Tables 2-13 to 2-19): the constructor of each opcode. LANDC is told apart by its ROLE bit below. -/

def aluTable0 : List (Nat × (Alu → Instr)) :=
  [(0x000, .iadd), (0x001, .isub), (0x002, .iadds), (0x003, .isubs), (0x004, .imul), (0x005, .imulhi),
   (0x006, .imad), (0x007, .ineg), (0x008, .iabs), (0x009, .imin), (0x00A, .imax), (0x00B, .ishl),
   (0x00C, .ishr), (0x00D, .isar), (0x00E, .irol), (0x00F, .ibfx), (0x010, .ibfi), (0x011, .popc),
   (0x012, .clz), (0x013, .brev), (0x020, .andB), (0x021, .orB), (0x022, .xorB), (0x023, .notB),
   (0x024, .andn), (0x025, .bfn3), (0x030, .icmp), (0x031, .fcmp), (0x032, .sel), (0x033, .clop),
   (0x034, .mov), (0x035, .movi), (0x036, .movc), (0x040, .fadd), (0x041, .fsub), (0x042, .fmul),
   (0x043, .ffma), (0x044, .fmin), (0x045, .fmax), (0x046, .fabs), (0x047, .fneg), (0x048, .fclass)]
def aluTable1 : List (Nat × (Alu → Instr)) :=
  [(0x049, .frnd), (0x060, .pkadd), (0x061, .pksub), (0x062, .pkmul), (0x063, .pkfma), (0x064, .pkmin),
   (0x065, .pkmax), (0x066, .pkdot), (0x070, .cvt), (0x071, .pack2), (0x072, .unpk2), (0x080, .shfl),
   (0x081, .shflx), (0x082, .shflup), (0x083, .shfldn), (0x084, .bcast), (0x090, .vall), (0x091, .vany),
   (0x092, .vbal), (0x093, .vfirst), (0x0A0, .rsqs), (0x0A1, .rcps), (0x0A2, .ex2s), (0x0A3, .lg2s),
   (0x0A4, .sins), (0x0A5, .coss), (0x0B0, .gadd), (0x0B1, .gsub), (0x0B2, .gmul), (0x0B3, .gand),
   (0x0B4, .gor), (0x0B5, .gxor), (0x0B6, .gshl), (0x0B7, .gshr), (0x0B8, .gmov), (0x0B9, .gmovi),
   (0x0BA, .gcmp), (0x0BB, .klop), (0x0BC, .v2g), (0x0BD, .g2v)]
def aluTable : List (Nat × (Alu → Instr)) := aluTable0 ++ aluTable1

def memTable0 : List (Nat × (Mem → Instr)) :=
  [(0x100, .ld), (0x101, .lds), (0x102, .st), (0x103, .send), (0x104, .pref), (0x105, .fence),
   (0x106, .ldx), (0x110, .aadd), (0x111, .amin), (0x112, .amax), (0x113, .aand), (0x114, .aor),
   (0x115, .axor), (0x116, .axchg), (0x117, .acas), (0x118, .afadd), (0x200, .pub), (0x201, .pubr),
   (0x202, .invr), (0x203, .zline)]
def memTable : List (Nat × (Mem → Instr)) := memTable0

def ctlTable0 : List (Nat × (Ctl → Instr)) :=
  [(0x180, .runend), (0x181, .wait), (0x182, .br), (0x183, .bru), (0x184, .jmpi), (0x185, .call),
   (0x186, .ret), (0x187, .spawn), (0x188, .pause), (0x189, .bar), (0x18A, .sstep), (0x18B, .ftest),
   (0x18C, .fcancel), (0x18D, .fmovg), (0x18E, .gmovf), (0x18F, .rjoin), (0x190, .exit), (0x191, .trapOp),
   (0x192, .bkpt), (0x193, .csrr), (0x194, .csrw), (0x195, .sqpostGroup), (0x196, .sqwaitGroup), (0x197, .nop),
   (0x198, .tret), (0x204, .tlock), (0x205, .tunlock), (0x206, .tprobe), (0x207, .migr), (0x208, .snap),
   (0x209, .snapdrop), (0x240, .xcopy), (0x241, .xconv), (0x242, .xqa8), (0x243, .xwht), (0x244, .tprep),
   (0x250, .pload), (0x251, .pstart), (0x252, .pstop), (0x253, .qpop), (0x254, .qpeek), (0x255, .qstat)]
def ctlTable1 : List (Nat × (Ctl → Instr)) :=
  [(0x260, .tload), (0x261, .tq), (0x262, .tq2), (0x263, .tmap), (0x264, .tfree), (0x270, .landr),
   (0x271, .landcArm), (0x280, .sadd), (0x281, .ssub), (0x282, .smul), (0x283, .sand), (0x284, .sor),
   (0x285, .sxor), (0x286, .sshl), (0x287, .sshr), (0x288, .smov), (0x289, .smovi), (0x28A, .scmp),
   (0x28B, .sbr), (0x28C, .sjmp), (0x28D, .sld), (0x28E, .sst), (0x28F, .sqpostSeq), (0x290, .sqwaitSeq),
   (0x291, .swaitpx), (0x292, .sexit), (0x293, .scsrr), (0x2A0, .pxldw), (0x2A1, .pxga), (0x2A2, .pxlda),
   (0x2A3, .pxmm), (0x2A4, .pxdm), (0x2A5, .pxzero), (0x2A6, .pxdrn), (0x2A7, .pxbyp), (0x2A8, .pxsave),
   (0x2A9, .pxrest), (0x2AA, .pxstat), (0x300, .rootsw), (0x301, .quiesce), (0x302, .resume), (0x303, .libsd)]
def ctlTable2 : List (Nat × (Ctl → Instr)) :=
  [(0x304, .ctxld), (0x305, .ctxsv), (0x306, .halt)]
def ctlTable : List (Nat × (Ctl → Instr)) := ctlTable0 ++ ctlTable1 ++ ctlTable2

def lookupOpc {α : Type} (t : List (Nat × α)) (opc : Nat) : Option α := (t.find? (fun r => r.1 == opc)).map (·.2)

/-- Every allocated opcode but the extension word's. -/
def allocated (opc : Nat) : Bool :=
  opc == 0x0C0 || aluTable.any (fun r => r.1 == opc) || memTable.any (fun r => r.1 == opc) || ctlTable.any (fun r => r.1 == opc)

/-! The layouts of Table 2-5. -/

def aluOfRaw (r : Raw) : Option Alu := do
  let ty ← tyOf (r.mod.extractLsb' 8 4)
  let d ← opndOf r.d
  let a ← opndOf r.a
  let b ← opndOf r.b
  return { hdr := r.hdr, ty := ty, rnd := rndOf (r.mod.extractLsb' 6 2), sat := r.mod.getLsbD 5, fn := r.mod.extractLsb' 0 5,
           d := d, a := a, b := b, imm := r.imm }

def aluToRaw (opc : Nat) (w : Alu) : Raw :=
  rawOf opc w.hdr (opndBits w.d) (opndBits w.a) (opndBits w.b) (tyCode w.ty ++ rndCode w.rnd ++ bit1 w.sat ++ w.fn) w.imm

def memOfRaw (r : Raw) : Option Mem := do
  let sp ← spaceOf (r.mod.extractLsb' 9 3)
  let wd ← widthOf (r.mod.extractLsb' 6 3)
  let od ← orderOf (r.mod.extractLsb' 3 3)
  let sc ← scopeOf (r.mod.extractLsb' 0 3)
  let d ← opndOf r.d
  let a ← opndOf r.a
  let b ← opndOf r.b
  return { hdr := r.hdr, space := sp, width := wd, order := od, scope := sc, d := d, a := a, b := b, imm := r.imm }

def memToRaw (opc : Nat) (w : Mem) : Raw :=
  rawOf opc w.hdr (opndBits w.d) (opndBits w.a) (opndBits w.b)
    (spaceCode w.space ++ widthCode w.width ++ orderCode w.order ++ scopeCode w.scope) w.imm

def ctlOfRaw (r : Raw) : Option Ctl := do
  let d ← opndOf r.d
  let a ← opndOf r.a
  let b ← opndOf r.b
  return { hdr := r.hdr, mod := r.mod, d := d, a := a, b := b, imm := r.imm }

def ctlToRaw (opc : Nat) (w : Ctl) : Raw :=
  rawOf opc w.hdr (opndBits w.d) (opndBits w.a) (opndBits w.b) w.mod w.imm

/-! LOOPN (R60, Table 2-11). -/

def padOf (b : BitVec 2) : Option PadSpace := [PadSpace.cr, .cm, .ds][b.toNat]?
def padCode : PadSpace → BitVec 2
  | .cr => 0 | .cm => 1 | .ds => 2

/-- OPC of an extension word. -/
def isExt (w : IWord) : Bool := w.extractLsb' 86 10 == 0x3FF#10

/-- The loop descriptor of three words; fields marked zero must be zero. -/
def loopOfRaw (r : Raw) (w2 w3 : IWord) : Option Loop := do
  let d ← opndOf r.d
  let a ← opndOf r.a
  let b ← opndOf r.b
  let op ← loopOpOf (r.mod.extractLsb' 6 6)
  let ty ← tyOf (r.mod.extractLsb' 2 4)
  let dsp ← padOf (r.imm.extractLsb' 27 2)
  let asp ← padOf (r.imm.extractLsb' 25 2)
  let bsp ← padOf (r.imm.extractLsb' 23 2)
  if r.imm.extractLsb' 20 3 = 0 ∧ w2.extractLsb' 0 2 = 0 ∧ w3.extractLsb' 0 5 = 0 then
    return { hdr := r.hdr, d := d, a := a, b := b, op := op, ty := ty, rnd := rndOf (r.mod.extractLsb' 0 2),
             nlev := r.imm.extractLsb' 29 3, dsp := dsp, asp := asp, bsp := bsp,
             l0 := ⟨r.imm.extractLsb' 10 10, w2.extractLsb' 47 9, w2.extractLsb' 38 9, w2.extractLsb' 29 9⟩,
             l1 := ⟨r.imm.extractLsb' 0 10, w2.extractLsb' 20 9, w2.extractLsb' 11 9, w2.extractLsb' 2 9⟩,
             l2 := ⟨w2.extractLsb' 76 10, w3.extractLsb' 77 9, w3.extractLsb' 68 9, w3.extractLsb' 59 9⟩,
             l3 := ⟨w2.extractLsb' 66 10, w3.extractLsb' 50 9, w3.extractLsb' 41 9, w3.extractLsb' 32 9⟩,
             l4 := ⟨w2.extractLsb' 56 10, w3.extractLsb' 23 9, w3.extractLsb' 14 9, w3.extractLsb' 5 9⟩ }
  else none

def loopToRaw (w : Loop) : Raw :=
  rawOf 0x0C0 w.hdr (opndBits w.d) (opndBits w.a) (opndBits w.b) (loopOpCode w.op ++ tyCode w.ty ++ rndCode w.rnd)
    (w.nlev ++ padCode w.dsp ++ padCode w.asp ++ padCode w.bsp ++ 0#3 ++ w.l0.ext ++ w.l1.ext)

def loopWord2 (w : Loop) : IWord :=
  0x3FF#10 ++ w.l2.ext ++ w.l3.ext ++ w.l4.ext ++ w.l0.sd ++ w.l0.sa ++ w.l0.sb ++ w.l1.sd ++ w.l1.sa ++ w.l1.sb ++ 0#2

def loopWord3 (w : Loop) : IWord :=
  0x3FF#10 ++ w.l2.sd ++ w.l2.sa ++ w.l2.sb ++ w.l3.sd ++ w.l3.sa ++ w.l3.sb ++ w.l4.sd ++ w.l4.sa ++ w.l4.sb ++ 0#5

/-! The decoder of the 96-bit streams. -/

/-- The instruction of a row and its fields, if its row accepts them. -/
def accept (i : Option Instr) : Except DecErr Instr :=
  match i with
  | none => .error .field
  | some i => if i.wf then .ok i else .error .form

/-- LANDC's two roles (Table 13-4). -/
def landcOf (w : Ctl) : Instr := if w.mod.getLsbD 1 then .landcPut w else .landcArm w

/-- The instruction of one word other than LOOPN. -/
def decodeRaw (r : Raw) : Except DecErr Instr :=
  let opc := r.opc.toNat
  if r.res ≠ 0 then .error .header
  else match lookupOpc aluTable opc with
    | some mk => accept ((aluOfRaw r).map mk)
    | none => match lookupOpc memTable opc with
      | some mk => accept ((memOfRaw r).map mk)
      | none => if opc = 0x271 then accept ((ctlOfRaw r).map landcOf)
        else match lookupOpc ctlTable opc with
          | some mk => accept ((ctlOfRaw r).map mk)
          | none => .error .opcode

/-- The first instruction of a stream's words, and how many words it takes (R60, R62, R69). -/
def decodeWords (seqStream : Bool) : List IWord → Except DecErr (Instr × Nat)
  | [] => .error .empty
  | w :: rest =>
    let r := Raw.ofWord w
    let opc := r.opc.toNat
    if opc = 0x3FF then .error .extension
    else if !allocated opc then .error .opcode
    else if seqOpc opc != seqStream then .error .stream
    else if opc = 0x0C0 then
      match rest with
      | w2 :: w3 :: _ =>
        if !(isExt w2 && isExt w3) then .error .incomplete
        else if r.res ≠ 0 then .error .header
        else (accept ((loopOfRaw r w2 w3).map .loopn)).map (fun i => (i, 3))
      | _ => .error .incomplete
    else (decodeRaw r).map (fun i => (i, 1))

/-- The words of an instruction of a 96-bit stream (none for every other row). -/
def encode (i : Instr) : List IWord :=
  match Machine.bodyOf i with
  | .alu o w => [(aluToRaw o w).toWord]
  | .mem o w => [(memToRaw o w).toWord]
  | .ctl o w => [(ctlToRaw o w).toWord]
  | .loop w => [(loopToRaw w).toWord, loopWord2 w, loopWord3 w]
  | .step => []

/-! Micro-ops (Table 8-2). -/

def picOf (b : BitVec 2) : Option PicSpace := [PicSpace.gl, .cr, .cm][b.toNat]?
def picCode : PicSpace → BitVec 2
  | .gl => 0 | .cr => 1 | .cm => 2

/-- The instruction of a micro-op (R239, R241). -/
def decodeUop (u : BitVec 64) : Except DecErr Instr :=
  let uop := (u.extractLsb' 58 6).toNat
  if uop = 0x01 then
    if u.extractLsb' 56 2 = 0 then
      .ok (.cntset (u.extractLsb' 42 14) (u.extractLsb' 28 14) (u.extractLsb' 14 14) (u.extractLsb' 0 14))
    else .error .form
  else if uop = 0x02 then
    if u.extractLsb' 52 2 = 0 then
      .ok (.agset (u.extractLsb' 56 2) (u.extractLsb' 54 2) (u.extractLsb' 39 13) (u.extractLsb' 26 13) (u.extractLsb' 13 13)
        (u.extractLsb' 0 13))
    else .error .form
  else if uop = 0x03 then
    match picOf (u.extractLsb' 51 2) with
    | none => .error .field
    | some sp =>
      if u.extractLsb' 0 49 = 0 then .ok (.piccoloSld (u.extractLsb' 55 3) (u.extractLsb' 53 2) sp (u.extractLsb' 49 2))
      else .error .form
  else if uop = 0x04 then
    if u.extractLsb' 51 1 = 0 ∧ u.extractLsb' 0 48 = 0 then
      .ok (.dq (u.extractLsb' 55 3) (u.extractLsb' 52 3) (u.extractLsb' 48 3))
    else .error .form
  else if uop = 0x05 then if u.extractLsb' 0 58 = 0 then .ok .trn else .error .form
  else if uop = 0x06 then
    if u.extractLsb' 0 52 = 0 then .ok (.push (u.extractLsb' 55 3) (u.extractLsb' 52 3)) else .error .form
  else if uop = 0x07 then
    if u.extractLsb' 7 47 = 0 then accept (some (.nextOp (u.extractLsb' 56 2) (u.extractLsb' 54 2) (u.extractLsb' 0 7)))
    else .error .form
  else if uop = 0x08 then if u.extractLsb' 0 58 = 0 then .ok .endOp else .error .form
  else .error .opcode

/-- The 64 bits of a micro-op (none for every other row). -/
def encodeUop : Instr → Option (BitVec 64)
  | .cntset e3 e2 e1 e0 => some (0x01#6 ++ 0#2 ++ e3 ++ e2 ++ e1 ++ e0)
  | .agset n p s3 s2 s1 s0 => some (0x02#6 ++ n ++ p ++ 0#2 ++ s3 ++ s2 ++ s1 ++ s0)
  | .piccoloSld r n sp sz => some (0x03#6 ++ r ++ n ++ picCode sp ++ sz ++ 0#49)
  | .dq d s fmt => some (0x04#6 ++ d ++ s ++ 0#1 ++ fmt ++ 0#48)
  | .trn => some (0x05#6 ++ 0#58)
  | .push q r => some (0x06#6 ++ q ++ r ++ 0#52)
  | .nextOp top lo target => some (0x07#6 ++ top ++ lo ++ 0#47 ++ target)
  | .endOp => some (0x08#6 ++ 0#58)
  | _ => none

/-! Command packets (Tables 16-2 to 16-5). A packet is 64 bytes; dword n is its bits [64n+63:64n]. -/

/-- SEQ, in bits [63:32] of the last dword (R383). -/
def packetSeq (b : BitVec 512) : BitVec 32 := b.extractLsb' 480 32

/-- The instruction of a packet; every byte that its type does not use must be zero (R385). -/
def decodePacket (b : BitVec 512) : Except DecErr Instr :=
  let ty := (b.extractLsb' 0 8).toNat
  let z (lo n : Nat) : Bool := b.extractLsb' lo n == 0
  if ty = 0x01 then
    if z 8 8 && z 32 32 && z 160 32 then
      accept (some (.launch
        { nbuf := b.extractLsb' 16 16, kdesc := b.extractLsb' 64 64, nblk := b.extractLsb' 128 32
          argp := b.extractLsb' 192 64, bufl := b.extractLsb' 256 64, cmbase := b.extractLsb' 320 32, dsbase := b.extractLsb' 352 32
          doneAt := b.extractLsb' 384 64, doneval := b.extractLsb' 448 32 }))
    else .error .form
  else if ty = 0x02 then if z 8 472 then .ok .barrier else .error .form
  else if ty = 0x03 then
    if z 8 56 && z 192 288 then .ok (.signal (b.extractLsb' 64 64) (b.extractLsb' 128 64)) else .error .form
  else if ty = 0x04 then
    if z 10 54 && z 80 48 && z 256 224 then
      .ok (.cancel (b.getLsbD 8) (b.getLsbD 9) (b.extractLsb' 64 16) (b.extractLsb' 128 64) (b.extractLsb' 192 64))
    else .error .form
  else if ty = 0x05 then
    if z 9 55 && z 80 400 then .ok (.preempt (b.extractLsb' 64 16) (b.getLsbD 8)) else .error .form
  else if ty = 0x06 then
    if z 8 56 && z 78 50 && z 256 224 then
      .ok (.buffer (b.extractLsb' 64 12) (b.getLsbD 76) (b.getLsbD 77) (b.extractLsb' 128 64) (b.extractLsb' 192 64))
    else .error .form
  else .error .opcode

/-- The 64 bytes of a packet with its SEQ (none for every other row). -/
def encodePacket (seq : BitVec 32) : Instr → Option (BitVec 512)
  | .launch p => some (seq ++ p.doneval ++ p.doneAt ++ p.dsbase ++ p.cmbase ++ p.bufl ++ p.argp ++ 0#32 ++ p.nblk ++ p.kdesc ++ 0#32 ++
      p.nbuf ++ 0#8 ++ 0x01#8)
  | .barrier => some (seq ++ 0#472 ++ 0x02#8)
  | .signal val addr => some (seq ++ 0#288 ++ addr ++ val ++ 0#56 ++ 0x03#8)
  | .cancel l r id base len => some (seq ++ 0#224 ++ len ++ base ++ 0#48 ++ id ++ 0#54 ++ bit1 r ++ bit1 l ++ 0x04#8)
  | .preempt id hold => some (seq ++ 0#400 ++ id ++ 0#55 ++ bit1 hold ++ 0x05#8)
  | .buffer h free hw base len => some (seq ++ 0#224 ++ len ++ base ++ 0#50 ++ bit1 hw ++ bit1 free ++ h ++ 0#56 ++ 0x06#8)
  | _ => none

/-- The instruction whose bits are w, numbered from the least significant bit of its first word: a word or the three words of a LOOPN
(96 or 288 bits), a micro-op (64) or a packet (512). Bits above nbits are 0. -/
def decodeTableWord (nbits w : Nat) : Option Instr :=
  if nbits = 64 then (decodeUop (BitVec.ofNat 64 w)).toOption
  else if nbits = 512 then (decodePacket (BitVec.ofNat 512 w)).toOption
  else
    let ws := [BitVec.ofNat 96 w, BitVec.ofNat 96 (w / 2 ^ 96), BitVec.ofNat 96 (w / 2 ^ 192)]
    ((decodeWords (seqOpc (w / 2 ^ 86 % 1024)) ws).toOption).map (·.1)

end Sys2Proof
end

