-- ==== Sys2Proof/Config.lean ====
section
/-! DEFINITION. What the spec leaves to the device or the outside: free values, uninterpreted, and fixed choices. -/

namespace Sys2Proof.Config

/-- The order in which lanes of one atomic that hit the same address are applied (R121: unspecified): the places at which
the lanes of an atomic are put, one after another, into the order. -/
opaque atomOrder : Nat → Nat
/-- The order in which a bank serves requests of different instructions that arrive in one cycle (R447: not fixed), as places too. -/
opaque bankOrder : Nat → Nat
/-- The index, among the free segments of a stack, of the segment a log takes next (R233: not stated). -/
opaque segPick : Nat → Nat
/-- The live fraction, in units of its record area, that the cleaner estimates for a segment at a PCC (R351: an estimate, and not how it is made). -/
opaque liveEst : Nat → Nat → Nat
/-- The chunk buffer from which the search for an arm's free buffers begins (R343: not stated). -/
opaque bufPick : Nat → Nat
/-- The id from which the search for a new context's id begins (R396 does not say which id it is). -/
opaque ctxPick : Nat → Nat
/-- Whether a core's L1 line or held code line is dropped before an access (R101: the L1's geometry and replacement are not stated). -/
opaque l1Drop : Nat → Bool
/-- Where a DEV or SO page leads (R107 does not say how a page names its window): true for host memory, false for the register window. -/
opaque devIsHost : Nat → Nat → Bool
/-- The base address, in host memory or in the register window, that a DEV or SO page maps (R107: not stated). -/
opaque devBase : Nat → Nat → Nat
/-- What an 8-bit immediate reads as in a narrow float type that cannot hold its value (R44 converts exactly, and says nothing more). -/
opaque immFloat : Ty → BitVec 8 → Word
/-- SHA-512 (R349, R405, R440: named, not defined by the spec). -/
opaque sha512 : List Byte → BitVec 512
/-- Ed25519 signing with a 32-byte key (R406, R442: named, not defined). -/
opaque edSign : BitVec 256 → List Byte → BitVec 512
/-- Ed25519 verification under a public key (R408, R440). -/
opaque edVerify : BitVec 256 → List Byte → BitVec 512 → Bool
/-- The identity key pair derived from fuses at boot (R441). -/
opaque identityPublic : BitVec 256
opaque identityKey : BitVec 256
/-- The vendor key held as fuses, and the fused anti-rollback counter (R440). -/
opaque vendorKey : BitVec 256
opaque antiRollback : Nat
/-- Whether the boot ROM accepts an image's digest (R440 computes it and does not say what it is held against). -/
opaque digestOk : BitVec 512 → Bool
/-- The digest of fuses, anti-rollback counter and BOOTSTAT in the attestation report (R442). -/
opaque fuseDigest : BitVec 64 → BitVec 512
/-- The fixed hash of a message's line or operation that picks one link of a route mask (R434: the hash is not given). -/
opaque routeHash : Nat → Nat
/-- The module's own index in its pod partition and the partition's size (R117: set by the job, not by the device). -/
opaque moduleIndex : BitVec 12
opaque partitionSize : Nat
/-- Host memory beside the device's own writes: what the host has placed there (outside the device, R424). -/
opaque hostByte : Nat → Nat → Byte
/-- The base that the host programs into each HDM decoder (R425), outside the device's own registers. -/
opaque hdmBase : Nat → BitVec 64
/-- The turn that is taken next when the agenda names none, the n-th such turn: which agent issues, that a cycle passes, or which step
of an engine or of the outside happens, with its parameters (R161 to R167 fix only part of the order). -/
opaque nextTurn : Nat → Turn

end Sys2Proof.Config
end

