-- ==== Sys2Proof/Machine/Num.lean ====
section
/-! DEFINITION. Number formats and arithmetic: integers, floating-point values, rounding, conversions, seeds, quantised blocks, Z96 sums
(R70 to R97, R152, R153). Every floating-point result is formed exactly as a dyadic number and rounded once. -/

namespace Sys2Proof.Machine

/-- Flags in the bit layout of FPSTAT (Table 3-7). -/
abbrev Flags := BitVec 7
def fNX : Flags := 0x01
def fUF : Flags := 0x02
def fOF : Flags := 0x04
def fDZ : Flags := 0x08
def fNV : Flags := 0x10
def fSAT : Flags := 0x20
def fDN : Flags := 0x40

/-- Flag f when the condition holds. -/
def flagIf (c : Bool) (f : Flags) : Flags := if c then f else 0

/-! Integers (R70, R71). -/

def intMin (n : Nat) (sgn : Bool) : Int := if sgn then -(2 ^ (n - 1) : Int) else 0
def intMax (n : Nat) (sgn : Bool) : Int := if sgn then 2 ^ (n - 1) - 1 else 2 ^ n - 1

/-- sat_sN and sat_bN. -/
def clampInt (n : Nat) (sgn : Bool) (v : Int) : Int := max (intMin n sgn) (min v (intMax n sgn))

/-- The signedness of a type (Table 2-6). -/
def isS : Ty → Bool
  | .s8 => true | .s16 => true | .s32 => true | .s64 => true
  | _ => false

def isFloat : Ty → Bool
  | .f32 => true | .f16 => true | .bf16 => true | .e4m3 => true | .e5m2 => true | .e2m1 => true
  | _ => false

/-- The integer that the low n bits of b hold. -/
def intOf (n : Nat) (sgn : Bool) (b : BitVec 64) : Int :=
  let u := b.toNat % 2 ^ n
  if sgn && decide (2 ^ (n - 1) ≤ u) then (u : Int) - 2 ^ n else u

/-- The exact result v as n bits: wrapped, or clamped with the SAT flag (R71). -/
def intRes (n : Nat) (sgn sat : Bool) (v : Int) : BitVec 64 × Flags :=
  if sat then (BitVec.ofNat 64 ((clampInt n sgn v) % 2 ^ n).toNat, flagIf (clampInt n sgn v != v) fSAT)
  else (BitVec.ofNat 64 (v % 2 ^ n).toNat, 0)

/-- A narrow result in its register (R72): signed types are sign-extended to 32 bits, every other is zero-extended. -/
def extRes (t : Ty) (b : BitVec 64) : BitVec 64 :=
  let n := tyBits t
  if n ≥ 32 then b
  else if isS t then BitVec.ofNat 64 ((intOf n true b) % 2 ^ 32).toNat
  else BitVec.ofNat 64 (b.toNat % 2 ^ n)

/-! Floating-point formats (R73, Tables 3-2 and 3-3). -/

/-- A format: exponent and mantissa widths, bias, the largest finite value as maxSig × 2^maxExp, whether it has infinities and NaNs. -/
structure Fmt where
  ebits : Nat
  mbits : Nat
  bias : Int
  maxSig : Nat
  maxExp : Int
  hasInf : Bool
  hasNan : Bool
  deriving DecidableEq, Repr

def fmtF32 : Fmt := { ebits := 8, mbits := 23, bias := 127, maxSig := 2 ^ 24 - 1, maxExp := 104, hasInf := true, hasNan := true }
def fmtF16 : Fmt := { ebits := 5, mbits := 10, bias := 15, maxSig := 2 ^ 11 - 1, maxExp := 5, hasInf := true, hasNan := true }
def fmtBf16 : Fmt := { ebits := 8, mbits := 7, bias := 127, maxSig := 2 ^ 8 - 1, maxExp := 120, hasInf := true, hasNan := true }
def fmtE4m3 : Fmt := { ebits := 4, mbits := 3, bias := 7, maxSig := 14, maxExp := 5, hasInf := false, hasNan := true }
def fmtE5m2 : Fmt := { ebits := 5, mbits := 2, bias := 15, maxSig := 7, maxExp := 13, hasInf := true, hasNan := true }
def fmtE2m1 : Fmt := { ebits := 2, mbits := 1, bias := 1, maxSig := 3, maxExp := 1, hasInf := false, hasNan := false }

/-- The format of a floating-point type; integer types are given FP32's. -/
def fmtOf : Ty → Fmt
  | .f16 => fmtF16 | .bf16 => fmtBf16 | .e4m3 => fmtE4m3 | .e5m2 => fmtE5m2 | .e2m1 => fmtE2m1
  | _ => fmtF32

def Fmt.width (F : Fmt) : Nat := 1 + F.ebits + F.mbits
def Fmt.emin (F : Fmt) : Int := 1 - F.bias
/-- The exponent of the least significant bit of a subnormal. -/
def Fmt.qmin (F : Fmt) : Int := F.emin - F.mbits

/-- A floating-point value: NaN (signalling or quiet), infinity, or the finite number (−1)^neg × m × 2^e. -/
inductive FVal where
  | nan (signalling : Bool)
  | inf (neg : Bool)
  | fin (neg : Bool) (m : Nat) (e : Int)
  deriving DecidableEq, Repr

/-- The value of an encoding (R73). -/
def fDec (F : Fmt) (b : Nat) : FVal :=
  let m := b % 2 ^ F.mbits
  let ex := b / 2 ^ F.mbits % 2 ^ F.ebits
  let neg := b / 2 ^ (F.mbits + F.ebits) % 2 == 1
  let top := 2 ^ F.ebits - 1
  if ex = 0 then .fin neg m F.qmin
  else if F.hasInf && ex == top then
    if m = 0 then .inf neg else .nan (decide (m < 2 ^ (F.mbits - 1)))
  else if F.hasNan && !F.hasInf && ex == top && m == 2 ^ F.mbits - 1 then .nan false
  else .fin neg (2 ^ F.mbits + m) (F.qmin + (ex - 1))

/-- Whether an encoding is a non-zero subnormal (R139). -/
def fSub (F : Fmt) (b : Nat) : Bool :=
  b / 2 ^ F.mbits % 2 ^ F.ebits == 0 && b % 2 ^ F.mbits != 0

def signBit (F : Fmt) (neg : Bool) : Nat := if neg then 2 ^ (F.mbits + F.ebits) else 0

/-- The canonical NaN (Table 3-5): exponent all ones, the top mantissa bit set; E4M3's only NaN is 0x7F. -/
def fNaN (F : Fmt) : Nat :=
  if F.hasInf then (2 ^ F.ebits - 1) * 2 ^ F.mbits + 2 ^ (F.mbits - 1) else 2 ^ (F.mbits + F.ebits) - 1

def fInf (F : Fmt) (neg : Bool) : Nat := signBit F neg + (2 ^ F.ebits - 1) * 2 ^ F.mbits

/-- The encoding of (−1)^neg × k × 2^q, where q is at least qmin and k below 2^(mbits + 1), or equal to it. -/
def fPack (F : Fmt) (neg : Bool) (k : Nat) (q : Int) : Nat :=
  signBit F neg + (if k = 0 then 0 else (q - F.qmin).toNat * 2 ^ F.mbits + k)

def fMax (F : Fmt) (neg : Bool) : Nat :=
  fPack F neg F.maxSig F.maxExp

/-- The integer that m × 2^(−sh) rounds to in mode md, and whether it is exact (R86). -/
def roundShift (md : Rnd) (neg : Bool) (m sh : Nat) : Nat × Bool :=
  let k := m / 2 ^ sh
  let r := m % 2 ^ sh
  let up := match md with
    | .rne => decide (2 * r > 2 ^ sh) || (decide (2 * r = 2 ^ sh) && k % 2 == 1)
    | .rtz => false
    | .rdn => neg && r != 0
    | .rup => !neg && r != 0
  (if up then k + 1 else k, r == 0)

/-- m × 2^e rounded to a multiple of 2^q. -/
def roundTo (md : Rnd) (neg : Bool) (m : Nat) (e q : Int) : Nat × Bool :=
  if q ≤ e then (m * 2 ^ (e - q).toNat, true) else roundShift md neg m (q - e).toNat

/-- round_fp (R86) of the exact number (−1)^neg × m × 2^e. -/
def roundFp (F : Fmt) (md : Rnd) (sat : Bool) (neg : Bool) (m : Nat) (e : Int) : Nat × Flags :=
  if m = 0 then (signBit F neg, 0)
  else
    let lg := (Nat.log2 m : Int) + e
    let q := max lg F.emin - F.mbits
    let (k, exact) := roundTo md neg m e q
    let tiny := decide (lg < F.emin)
    let fl := flagIf (!exact) fNX ||| flagIf (tiny && !exact) fUF
    let ovf := if q ≥ F.maxExp then decide (k * 2 ^ (q - F.maxExp).toNat > F.maxSig) else false
    if ovf then
      let away := md == .rne || (md == .rup && !neg) || (md == .rdn && neg)
      (if F.hasInf && !sat && away then fInf F neg else fMax F neg, fl ||| fOF ||| fNX)
    else (fPack F neg k q, fl)

/-- A sum of two exact numbers; an exact zero sum of unlike signs is −0 under RDN and +0 otherwise (R87). -/
def addEx (md : Rnd) (n1 : Bool) (m1 : Nat) (e1 : Int) (n2 : Bool) (m2 : Nat) (e2 : Int) : Bool × Nat × Int :=
  let e := min e1 e2
  let a := m1 * 2 ^ (e1 - e).toNat
  let b := m2 * 2 ^ (e2 - e).toNat
  if n1 = n2 then (n1, a + b, e)
  else if a = b then (md == .rdn, 0, e)
  else if a > b then (n1, a - b, e) else (n2, b - a, e)

def isNaN : FVal → Bool
  | .nan _ => true
  | _ => false
def isSNaN : FVal → Bool
  | .nan s => s
  | _ => false

/-- A result with flags; `canon` is the canonical NaN, with NV where it is invalid. -/
abbrev FRes := Nat × Flags
def canon (F : Fmt) (nv : Bool) : FRes := (fNaN F, flagIf nv fNV)

/-- Some operand is NaN: the canonical NaN, NV when one is signalling (R89). -/
def nanRes (F : Fmt) (xs : List FVal) : FRes := canon F (xs.any isSNaN)

/-- A product as an exact value, with infinities; 0 × ∞ is invalid. -/
def mulEx (x y : FVal) : FVal :=
  match x, y with
  | .fin n1 m1 e1, .fin n2 m2 e2 => .fin (xor n1 n2) (m1 * m2) (e1 + e2)
  | .inf n1, .inf n2 => .inf (xor n1 n2)
  | .inf n1, .fin n2 m2 _ => if m2 = 0 then .nan true else .inf (xor n1 n2)
  | .fin n1 m1 _, .inf n2 => if m1 = 0 then .nan true else .inf (xor n1 n2)
  | .nan s, _ => .nan s
  | _, .nan s => .nan s

def negV : FVal → FVal
  | .nan s => .nan s
  | .inf n => .inf !n
  | .fin n m e => .fin (!n) m e

/-- An exact value rounded to a format. -/
def packV (F : Fmt) (md : Rnd) (sat : Bool) : FVal → FRes
  | .nan s => canon F s
  | .inf n => (fInf F n, 0)
  | .fin n m e => roundFp F md sat n m e

/-- x + y, exact: ∞ − ∞ is invalid. -/
def addV (md : Rnd) (x y : FVal) : FVal :=
  match x, y with
  | .nan s, .nan t => .nan (s || t)
  | .nan s, _ => .nan s
  | _, .nan s => .nan s
  | .inf n, .inf n' => if n = n' then .inf n else .nan true
  | .inf n, .fin _ _ _ => .inf n
  | .fin _ _ _, .inf n => .inf n
  | .fin n1 m1 e1, .fin n2 m2 e2 => let (n, m, e) := addEx md n1 m1 e1 n2 m2 e2; .fin n m e

def fAdd (F : Fmt) (md : Rnd) (sat : Bool) (x y : FVal) : FRes :=
  if isNaN x || isNaN y then nanRes F [x, y] else packV F md sat (addV md x y)
def fMul (F : Fmt) (md : Rnd) (sat : Bool) (x y : FVal) : FRes :=
  if isNaN x || isNaN y then nanRes F [x, y] else packV F md sat (mulEx x y)
/-- ±(x × y) ± z with one rounding (R145); a product of 0 × ∞ is invalid even beside a quiet NaN addend (R89). -/
def fFma (F : Fmt) (md : Rnd) (sat np na : Bool) (x y z : FVal) : FRes :=
  if isNaN x || isNaN y then nanRes F [x, y, z]
  else
    let p := mulEx x y
    if isNaN p then canon F true
    else if isNaN z then nanRes F [z]
    else packV F md sat (addV md (if np then negV p else p) (if na then negV z else z))

/-- x < y as numbers, −0 equal to +0. -/
def ltV (x y : FVal) : Bool :=
  match x, y with
  | .inf n, .inf n' => n && !n'
  | .inf n, .fin _ _ _ => n
  | .fin _ _ _, .inf n => !n
  | .fin n1 m1 e1, .fin n2 m2 e2 =>
    let (n, m, _) := addEx .rne n1 m1 e1 (!n2) m2 e2
    n && m != 0
  | .nan _, _ => false
  | _, .nan _ => false

def eqV (x y : FVal) : Bool := !isNaN x && !isNaN y && !ltV x y && !ltV y x

def isNeg : FVal → Bool
  | .nan _ => false
  | .inf n => n
  | .fin n _ _ => n

/-- minimumNumber and maximumNumber (R90), choosing between the encodings bx and by of x and y. -/
def fMinMax (F : Fmt) (mx : Bool) (bx by_ : Nat) : FRes :=
  let x := fDec F bx
  let y := fDec F by_
  let fl := flagIf (isSNaN x || isSNaN y) fNV
  if isNaN x && isNaN y then (fNaN F, fl)
  else if isNaN x then (by_, fl)
  else if isNaN y then (bx, fl)
  else
    let less := ltV x y || (eqV x y && isNeg x && !isNeg y)
    (if less != mx then bx else by_, fl)

/-- The relations of R144 on numbers; unordered operands satisfy only ne and un (R90). -/
def relV (r : Nat) (x y : FVal) : Bool :=
  let un := isNaN x || isNaN y
  match r with
  | 0 => eqV x y
  | 1 => !eqV x y
  | 2 => ltV x y
  | 3 => !un && !ltV y x
  | 4 => ltV y x
  | 5 => !un && !ltV x y
  | 6 => un
  | _ => !un

/-- The integer relations of R144. -/
def relInt (r : Nat) (x y : Int) : Bool :=
  match r with
  | 0 => x == y
  | 1 => x != y
  | 2 => decide (x < y)
  | 3 => decide (x ≤ y)
  | 4 => decide (x > y)
  | _ => decide (x ≥ y)

/-- FCLASS (R145). -/
def fClass (F : Fmt) (b : Nat) : Nat :=
  match fDec F b with
  | .inf true => 1
  | .inf false => 2 ^ 7
  | .nan true => 2 ^ 8
  | .nan false => 2 ^ 9
  | .fin n m _ =>
    if m = 0 then (if n then 2 ^ 3 else 2 ^ 4)
    else if fSub F b then (if n then 2 ^ 2 else 2 ^ 5)
    else (if n then 2 ^ 1 else 2 ^ 6)

/-- FRND (R145). -/
def fRnd (F : Fmt) (md : Rnd) (b : Nat) : FRes :=
  match fDec F b with
  | .nan s => canon F s
  | .inf _ => (b, 0)
  | .fin n m e =>
    if e ≥ 0 ∨ m = 0 then (b, 0)
    else
      let (k, exact) := roundTo md n m e 0
      ((roundFp F .rne false n k 0).1, flagIf (!exact) fNX)

/-! Conversions (R91, Table 3-6). -/

/-- A conversion between floating-point formats is widening when the destination holds every value of the source. -/
def widening (s d : Ty) : Bool :=
  match s, d with
  | .f16, .f32 => true | .bf16, .f32 => true | .e4m3, .f32 => true | .e5m2, .f32 => true | .e2m1, .f32 => true
  | .e4m3, .f16 => true | .e5m2, .f16 => true | .e2m1, .f16 => true
  | .e4m3, .bf16 => true | .e5m2, .bf16 => true | .e2m1, .bf16 => true
  | .e2m1, .e4m3 => true | .e2m1, .e5m2 => true
  | _, _ => false

/-- A floating-point value into a floating-point format; `wide` marks a widening conversion. -/
def cvtFF (D : Fmt) (wide : Bool) (md : Rnd) (sat : Bool) (v : FVal) : FRes :=
  match v with
  | .nan s => if D.hasNan then canon D s else (0, fNV)
  | .inf n => if wide then (fInf D n, 0) else if D.hasInf && !sat then (fInf D n, 0) else (fMax D n, fOF)
  | .fin n m e => roundFp D md sat n m e

/-- A floating-point value into an integer type; it always saturates. -/
def cvtFI (n : Nat) (sgn : Bool) (md : Rnd) (v : FVal) : BitVec 64 × Flags :=
  match v with
  | .nan _ => (0, fNV)
  | .inf neg => ((intRes n sgn false (if neg then intMin n sgn else intMax n sgn)).1, fNV)
  | .fin neg m e =>
    let (k, exact) := roundTo md neg m e 0
    let z : Int := if neg then -(k : Int) else k
    let c := clampInt n sgn z
    ((intRes n sgn false c).1, if c != z then fNV else flagIf (!exact) fNX)

/-- An integer into a floating-point format. -/
def cvtIF (D : Fmt) (md : Rnd) (sat : Bool) (z : Int) : FRes := roundFp D md sat (decide (z < 0)) z.natAbs 0

/-- An integer of type s into the integer type d: wider extends; narrower or of the other signedness wraps or clamps. -/
def cvtII (s d : Ty) (sat : Bool) (z : Int) : BitVec 64 × Flags :=
  if tyBits s < tyBits d then intRes (tyBits d) (isS d) false z else intRes (tyBits d) (isS d) sat z

/-- CVT of the low bits of b from type s to type d: the result bits and the flags. -/
def cvt (s d : Ty) (md : Rnd) (sat : Bool) (b : BitVec 64) : BitVec 64 × Flags :=
  if isFloat s then
    let F := fmtOf s
    let v := fDec F (b.toNat % 2 ^ F.width)
    let dn := flagIf (fSub F (b.toNat % 2 ^ F.width)) fDN
    if isFloat d then let r := cvtFF (fmtOf d) (widening s d) md sat v; (BitVec.ofNat 64 r.1, r.2 ||| dn)
    else let r := cvtFI (tyBits d) (isS d) md v; (r.1, r.2 ||| dn)
  else
    let z := intOf (tyBits s) (isS s) b
    if isFloat d then let r := cvtIF (fmtOf d) md sat z; (BitVec.ofNat 64 r.1, r.2)
    else cvtII s d sat z

/-- R44: the 8-bit immediate as an operand of a type, 64 bits wide. A float type that cannot hold the integer exactly (R44 does not
say what it reads then) gives a free value. -/
def immOp (t : Ty) (b : BitVec 8) : BitVec 64 :=
  if isFloat t then
    let z := intOf 8 true (b.setWidth 64)
    let r := cvtIF (fmtOf t) .rtz false z
    if r.2 = 0 then BitVec.ofNat 64 r.1 else (Config.immFloat t b).setWidth 64
  else if isS t then b.signExtend 64
  else b.setWidth 64

/-! Special-function seeds (R152, R153). Every irrational value is formed to far more bits than the seed keeps, with a sticky last bit. -/

/-- The floor of the square root of n, by bits from 2^i down. -/
def isqrtGo (n : Nat) : Nat → Nat → Nat
  | 0, r => if (r + 1) * (r + 1) ≤ n then r + 1 else r
  | i + 1, r => isqrtGo n i (if (r + 2 ^ (i + 1)) * (r + 2 ^ (i + 1)) ≤ n then r + 2 ^ (i + 1) else r)
def isqrt (n : Nat) : Nat := isqrtGo n (Nat.log2 n / 2 + 1) 0

/-- FP32 with a significand of p bits (F' of R152). -/
def fmtSeed (p : Nat) : Fmt :=
  { ebits := 8, mbits := p - 1, bias := 127, maxSig := 2 ^ p - 1, maxExp := 128 - p, hasInf := true, hasNan := true }

/-- seed_p of (−1)^neg × m × 2^e, as an FP32 encoding: RNE, no flag. The significand sits in the top bits of FP32's. -/
def seedOf (p : Nat) (neg : Bool) (m : Nat) (e : Int) : Nat :=
  let F := fmtSeed p
  match fDec F (roundFp F .rne false neg m e).1 with
  | .fin n k q => (roundFp fmtF32 .rne false n k q).1
  | .inf n => fInf fmtF32 n
  | .nan _ => fNaN fmtF32

/-- A number with a last bit that stands for a non-zero rest. -/
def sticky (m : Nat) (rest : Bool) : Nat := 2 * m + (if rest then 1 else 0)

/-- 1 / (m × 2^e). -/
def recipEx (m : Nat) (e : Int) : Nat × Int := (sticky (2 ^ 80 / m) (2 ^ 80 % m != 0), -e - 81)

/-- 1 / sqrt(m × 2^e). -/
def rsqrtEx (m : Nat) (e : Int) : Nat × Int :=
  let odd := e % 2 != 0
  let m' := if odd then 2 * m else m
  let e' := if odd then e - 1 else e
  let s := isqrt (2 ^ 120 / m')
  (sticky s (s * s * m' != 2 ^ 120), -(e' / 2) - 61)

/-- Bits of the fixed-point numbers below. -/
def fxBits : Nat := 192
/-- ln 2 × 2^192, rounded down. -/
def fxLn2 : Nat := 0xb17217f7d1cf79abc9e3b39803f2f6af40f343267298b62d
/-- π × 2^384, rounded down. -/
def bigPi : Nat := 0x3243f6a8885a308d313198a2e03707344a4093822299f31d0082efa98ec4e6c89452821e638d01377be5466cf34e90c6c

/-- exp(t / 2^192) × 2^192 for 0 ≤ t < 2^192, by its power series. -/
def fxExpGo (t : Nat) : Nat → Nat → Nat → Nat → Nat
  | 0, _, _, acc => acc
  | fuel + 1, k, term, acc => let nx := term * t / 2 ^ fxBits / k; fxExpGo t fuel (k + 1) nx (acc + nx)
def fxExp (t : Nat) : Nat := fxExpGo t 48 1 (2 ^ fxBits) (2 ^ fxBits)

/-- 2^f × 2^192 for the fraction f / 2^192. -/
def fxExp2 (f : Nat) : Nat := fxExp (f * fxLn2 / 2 ^ fxBits)

/-- ln(m / 2^192) × 2^192 for 1 ≤ m / 2^192 < 2, by the series of artanh. -/
def fxLnGo (z2 : Nat) : Nat → Nat → Nat → Nat → Nat
  | 0, _, _, acc => acc
  | fuel + 1, k, term, acc => fxLnGo z2 fuel (k + 2) (term * z2 / 2 ^ fxBits) (acc + term / k)
def fxLn (m : Nat) : Nat :=
  let one := 2 ^ fxBits
  let z := (m - one) * one / (m + one)
  2 * fxLnGo (z * z / one) 64 1 z 0

/-- sin and cos of t / 2^192 for 0 ≤ t ≤ 1.6 × 2^192, by their alternating series. -/
def fxTrigGo (t2 : Nat) : Nat → Nat → Int → Int → Int
  | 0, _, _, acc => acc
  | fuel + 1, k, term, acc =>
    let nx := -(term * t2 / 2 ^ fxBits / ((k + 1) * (k + 2)))
    fxTrigGo t2 fuel (k + 2) nx (acc + nx)
def fxSin (t : Nat) : Int := fxTrigGo (t * t / 2 ^ fxBits) 30 1 t t
def fxCos (t : Nat) : Int := fxTrigGo (t * t / 2 ^ fxBits) 30 0 (2 ^ fxBits) (2 ^ fxBits)

/-- The quadrant of m × 2^e in units of π/2 and its rest × 2^192 in [0, π/2). -/
def reduceArg (m : Nat) (e : Int) : Nat × Nat :=
  let x := m * 2 ^ (e + 384).toNat
  let half := bigPi / 2
  let q := x / half
  (q % 4, (x % half) / 2 ^ 192)

/-- sin or cos of (−1)^neg × m × 2^e, × 2^192. With π to 384 bits the residue of the largest FP32 number is still right to 250 bits. -/
def sinCos (cos : Bool) (neg : Bool) (m : Nat) (e : Int) : Int :=
  let (q, r) := reduceArg m e
  let q := if cos then q + 1 else q
  let v : Int := match q % 4 with
    | 0 => fxSin r
    | 1 => fxCos r
    | 2 => -fxSin r
    | _ => -fxCos r
  if neg && !cos then -v else v

/-- The nearest multiple of 2^-12 to v / 2^192, ties to even, as FP32; a zero takes the sign given. -/
def nearest12 (v : Int) (zeroNeg : Bool) : Nat :=
  let neg := decide (v < 0)
  let (k, _) := roundShift .rne neg v.natAbs (fxBits - 12)
  if k = 0 then signBit fmtF32 (if v = 0 then zeroNeg else neg) else (roundFp fmtF32 .rne false neg k (-12)).1

/-- The six seeds, in opcode order (R152): RSQS, RCPS, EX2S, LG2S, SINS, COSS. -/
inductive Seed where
  | rsq | rcp | ex2 | lg2 | sin | cos
  deriving DecidableEq, Repr

/-- 2^((−1)^neg × m × 2^e) as an FP32 seed. -/
def ex2Seed (neg : Bool) (m : Nat) (e : Int) : Nat :=
  -- an exponent of 2^9 or more is beyond every finite result
  if (Nat.log2 m : Int) + e ≥ 9 then (if neg then 0 else fInf fmtF32 false)
  else
    let t := if e ≥ -192 then m * 2 ^ (e + 192).toNat else m / 2 ^ (-e - 192).toNat
    let t : Int := if neg then -(t : Int) else t
    let i := t.fdiv (2 ^ fxBits)
    let f := (t.fmod (2 ^ fxBits)).toNat
    if f = 0 then seedOf 14 false 1 i else seedOf 14 false (sticky (fxExp2 f) true) (i - fxBits - 1)

/-- log2(m × 2^e) as an FP32 seed. -/
def lg2Seed (m : Nat) (e : Int) : Nat :=
  let lg := Nat.log2 m
  let i : Int := (lg : Int) + e
  if m = 2 ^ lg then seedOf 14 (decide (i < 0)) i.natAbs 0
  else
    let f := fxLn (m * 2 ^ (fxBits - lg)) * 2 ^ fxBits / fxLn2
    let v : Int := i * 2 ^ fxBits + f
    seedOf 14 (decide (v < 0)) (sticky v.natAbs true) (-(fxBits : Int) - 1)

/-- A seed of an FP32 encoding, with its flags (R152, Table 5-9). -/
def seed (k : Seed) (b : Nat) : FRes :=
  let nanV := canon fmtF32 true
  let dn := flagIf (fSub fmtF32 b) fDN
  match fDec fmtF32 b with
  | .nan s => canon fmtF32 s
  | .inf neg => match k with
    | .rsq => if neg then nanV else (0, 0)
    | .rcp => (signBit fmtF32 neg, 0)
    | .ex2 => if neg then (0, 0) else (fInf fmtF32 false, 0)
    | .lg2 => if neg then nanV else (fInf fmtF32 false, 0)
    | .sin => nanV
    | .cos => nanV
  | .fin neg m e =>
    if m = 0 then match k with
      | .rsq => (fInf fmtF32 neg, 0)
      | .rcp => (fInf fmtF32 neg, fDZ)
      | .ex2 => (0x3F800000, 0)
      | .lg2 => (fInf fmtF32 true, fDZ)
      | .sin => (signBit fmtF32 neg, 0)
      | .cos => (0x3F800000, 0)
    else match k with
      | .rsq => if neg then (fNaN fmtF32, fNV ||| dn) else let (m', e') := rsqrtEx m e; (seedOf 11 false m' e', dn)
      | .rcp => let (m', e') := recipEx m e; (seedOf 12 neg m' e', dn)
      | .ex2 => (ex2Seed neg m e, dn)
      | .lg2 => if neg then (fNaN fmtF32, fNV ||| dn) else (lg2Seed m e, dn)
      | .sin => (if (Nat.log2 m : Int) + e < -16 then signBit fmtF32 neg else nearest12 (sinCos false neg m e) neg, dn)
      | .cos => (nearest12 (sinCos true neg m e) false, dn)

/-! FP32 sums whose order the device fixes (R96, R97). -/

/-- round_ne(x + y) on FP32 encodings. -/
def add32 (x y : Nat) : FRes := fAdd fmtF32 .rne false (fDec fmtF32 x) (fDec fmtF32 y)
def sub32 (x y : Nat) : FRes := fAdd fmtF32 .rne false (fDec fmtF32 x) (negV (fDec fmtF32 y))

/-- One level of sum_pairwise: neighbours are added, a last odd value passes. -/
def pairUp : List Nat → List Nat
  | x :: y :: xs => (add32 x y).1 :: pairUp xs
  | xs => xs

def sumGo : Nat → List Nat → Nat
  | 0, xs => xs.headD 0
  | _, [x] => x
  | fuel + 1, xs => sumGo fuel (pairUp xs)

/-- sum_pairwise (R96) of 1 to 64 FP32 encodings. -/
def sumPairwise (xs : List Nat) : Nat := sumGo 7 xs

/-- One stage of walsh32 with butterflies at distance h (R97). -/
def whtStage (h : Nat) (x : List Nat) : List Nat × Flags :=
  (List.range 32).foldl (fun (acc : List Nat × Flags) i =>
    let a := x.getD i 0
    if i &&& h = 0 then
      let r := add32 a (x.getD (i + h) 0)
      (acc.1 ++ [r.1], acc.2 ||| r.2)
    else
      let r := sub32 (x.getD (i - h) 0) a
      (acc.1 ++ [r.1], acc.2 ||| r.2)) ([], 0)

/-- Whether one of some values is subnormal (R139). -/
def dnOf (x : List Nat) : Flags := flagIf (x.any (fSub fmtF32)) fDN

/-- walsh32 (R97), with the flags its butterflies raise. DN is not among them: R263 sets it for subnormal source elements, which `widenElem` sees, and the values
between two stages, and those that a final rounding or quantisation takes, are no source elements (log entry 66). -/
def walsh32 (x : List Nat) : List Nat × Flags :=
  [1, 2, 4, 8, 16].foldl (fun (acc : List Nat × Flags) h =>
    let r := whtStage h acc.1
    (r.1, acc.2 ||| r.2)) (x, 0)

/-! Scales and blocks (R74, R77 to R80). -/

/-- The half-unit integer of an E2M1 code (R74). -/
def halfUnit (c : Nat) : Int :=
  let h : Int := [0, 1, 2, 3, 4, 6, 8, 12].getD (c % 8) 0
  if c / 8 % 2 = 1 then -h else h

/-- E3M5: the 6-bit significand S6 and the exponent e (R77). -/
def e3m5Sig (c : Nat) : Nat := 32 + c % 32
def e3m5Exp (c : Nat) : Nat := c / 32 % 8

/-- The exact value z × 2^e. -/
def intV (z : Int) (e : Int) : FVal := .fin (decide (z < 0)) z.natAbs e

/-- A Q4 element without its band scale: (h/2) × S6 × 2^(e − 9) (R80). -/
def q4V (code scale : Nat) : FVal := intV (halfUnit code * e3m5Sig scale) ((e3m5Exp scale : Int) - 10)

/-- An A8 element (R79): NaN in a NaN block. -/
def a8V (elem : Nat) (ea : Nat) : FVal :=
  if ea = 255 then .nan false else intV (intOf 8 true (BitVec.ofNat 64 elem)) ((ea : Int) - 127)

/-! The Z96 running sum (R83, R84). -/

/-- z96_acc: the new sum, and whether bits were lost or the sum saturated. -/
def z96Acc (z : Int) (p : Int) (s6 e ea : Nat) (eref : Int) : Int × Bool × Bool :=
  let q := p * s6
  let sh := ((e : Int) + ea - 137) - (eref - 64)
  let c := if sh ≥ 0 then q * 2 ^ sh.toNat else q.fdiv (2 ^ (-sh).toNat)
  let loss := if sh ≥ 0 then false else c * 2 ^ (-sh).toNat != q
  let w := z + c
  (max (-(2 ^ 95)) (min w (2 ^ 95 - 1)), loss, decide (w > 2 ^ 95 - 1) || decide (w < -(2 ^ 95)))

end Sys2Proof.Machine
end

