-- ==== Sys2Proof/Machine/Map.lean ====
section
/-! DEFINITION. Finite maps as plain data: lists of (key, value) with keys strictly rising, and byte memories in canonical form. -/

namespace Sys2Proof.Machine

/-- A finite map from Nat: a list of pairs, keys strictly rising. -/
abbrev FMap (α : Type) := List (Nat × α)

/-- The value at key k, if one is listed. -/
def FMap.get? {α : Type} : FMap α → Nat → Option α
  | [], _ => none
  | (k', a) :: m, k => if k = k' then some a else FMap.get? m k

/-- The value at key k, or d where none is listed. -/
def FMap.getD {α : Type} (m : FMap α) (d : α) (k : Nat) : α := (FMap.get? m k).getD d

/-- m with a at key k. -/
def FMap.set {α : Type} : FMap α → Nat → α → FMap α
  | [], k, a => [(k, a)]
  | (k', a') :: m, k, a =>
    if k = k' then (k, a) :: m else if k < k' then (k, a) :: (k', a') :: m else (k', a') :: FMap.set m k a

/-- m with nothing at key k. -/
def FMap.erase {α : Type} (m : FMap α) (k : Nat) : FMap α := m.filter (fun c => c.1 != k)

/-- m with a at key k, where an unlisted key reads as d: writing d removes the entry. -/
def FMap.put {α : Type} [DecidableEq α] (m : FMap α) (d : α) (k : Nat) (a : α) : FMap α :=
  if a = d then FMap.erase m k else FMap.set m k a

/-- m with f applied at key k, where an entry is listed. -/
def FMap.modify {α : Type} (m : FMap α) (k : Nat) (f : α → α) : FMap α :=
  match FMap.get? m k with
  | some a => FMap.set m k (f a)
  | none => m

/-- The keys of m, rising. -/
def FMap.keys {α : Type} (m : FMap α) : List Nat := m.map (·.1)

/-- Keys strictly rising. -/
def FMap.sorted {α : Type} : FMap α → Bool
  | [] => true
  | [_] => true
  | (k, _) :: (k', a') :: m => decide (k < k') && FMap.sorted ((k', a') :: m)

/-- A byte memory: cells at strictly rising addresses, none of them 0; an unlisted address reads 0
(R446: scratchpads and lane memory hold zero; R202: `.gl` bytes never written read zero). -/
abbrev Memory := List (Nat × Byte)

/-- The byte at address a. -/
def Memory.read (m : Memory) (a : Nat) : Byte := FMap.getD m 0 a

/-- m with byte b at address a. -/
def Memory.write (m : Memory) (a : Nat) (b : Byte) : Memory := FMap.put m 0 a b

/-- The canonical form: addresses strictly rising and no cell that reads as an unlisted one. -/
def Memory.wf (m : Memory) : Bool := FMap.sorted m && m.all (fun c => c.2 != 0)

/-- The n bytes from address a, little-endian, as a number (R4). -/
def Memory.readLE (m : Memory) (a : Nat) : Nat → Nat
  | 0 => 0
  | n + 1 => (Memory.read m a).toNat + 256 * Memory.readLE m (a + 1) n

/-- m with the n low bytes of v at a onward, little-endian (R4). -/
def Memory.writeLE (m : Memory) (a : Nat) : Nat → Nat → Memory
  | 0, _ => m
  | n + 1, v => Memory.writeLE (Memory.write m a (BitVec.ofNat 8 v)) (a + 1) n (v / 256)

/-- m with the bytes of bs at a onward. -/
def Memory.writeBytes (m : Memory) (a : Nat) : List Byte → Memory
  | [] => m
  | b :: bs => Memory.writeBytes (Memory.write m a b) (a + 1) bs

/-- The n bytes from address a. -/
def Memory.readBytes (m : Memory) (a n : Nat) : List Byte := (List.range n).map (fun i => Memory.read m (a + i))

/-- m with the n bytes from a cleared (R446), removing the listed cells of the range. -/
def Memory.clear (m : Memory) (a n : Nat) : Memory := m.filter (fun c => !(decide (a ≤ c.1) && decide (c.1 < a + n)))

end Sys2Proof.Machine
end

