-- ==== Sys2Proof/Machine/State.lean ====
section
/-! DEFINITION. The state of the module as plain data, its reset value, and the reasons a step can stop. -/

namespace Sys2Proof.Machine

/-- The cause codes of Table 6-13; TRAP supplies codes 0x80 to 0xFF itself (R188, R190). -/
inductive Cause where
  | none | illop | runtmp | runlen | jmpbad | futdead | stall | align | access | lockmiss | nomap | logfull | cancelled
  | space | priv | qerr | tqbad | seqerr | pxerr | bkpt | hwerr | queueTorn | mixedStep | prog (code : BitVec 8)
  deriving DecidableEq, Repr

/-- The state of a future-table entry (R18). -/
inductive FutSt where
  | unused | pending | ok | failed (c : Cause) | cancelled
  deriving DecidableEq, Repr

/-- A future-table entry (R18). `gid` is the group whose copies counter the operation counts in, if it counts (R24);
`launch` the launch whose completion waits for it (R387); `op` the operation it belongs to. -/
structure Fut where
  cls : BitVec 4
  gen : BitVec 16
  st : FutSt
  gid : Option Nat
  launch : Nat
  op : Nat
  deriving DecidableEq, Repr

/-- The state of a table directory entry (R317). -/
inductive TabSt where
  | free | loading | ready | freeing
  deriving DecidableEq, Repr

/-- A table directory entry (R317). `seen` holds the dies whose directory cache shows `st`; the others show `old`. -/
structure Table where
  st : TabSt
  old : TabSt
  seen : BitVec 32
  wide : Bool
  count : Nat
  loc : Option Nat
  frame : Nat
  deriving DecidableEq, Repr

/-- The state of a snapshot slot (R356). -/
inductive SnapSt where
  | free | taking | held | dropping
  deriving DecidableEq, Repr

/-- A snapshot slot (R356). `tell` are the replica modules that have still to take the slot once they have replayed the segments `segs` (R359). -/
structure Snap where
  st : SnapSt
  root : BitVec 44
  cut : BitVec 64
  tell : List Nat
  segs : List Nat
  deriving DecidableEq, Repr

/-- The last writer of a buffer handle (R389). -/
inductive BufWriter where
  | none | launch (id : Nat) | host (m : BitVec 3)
  deriving DecidableEq, Repr

/-- A buffer handle (R389). -/
structure BufH where
  base : BitVec 64
  len : BitVec 64
  writer : BufWriter
  readers : List Nat
  freeing : Bool
  deriving DecidableEq, Repr

/-- Whether the context is being or has been quiesced (R397), by a group of which context, and the address of its flag. -/
inductive Quiet where
  | running | quiescing (by_ : Nat) (flag : BitVec 64) | quiesced
  deriving DecidableEq, Repr

/-- A context: an address space with its future table, table directory, snapshot table and buffer handles (R18, R317, R356, R389, R396).
`replayed` is the last PUBID replayed here for each log of a source module (key module × 512 + log id), `replaying` the request that replays it, `replStopped` whether a bad digest stopped that (R359). -/
structure Ctx where
  priv : Bool
  ixroot : BitVec 44
  logstall : BitVec 32
  replicas : List (BitVec 16)
  replStopped : Bool
  replayed : FMap (BitVec 32)
  replaying : FMap Nat
  futs : FMap Fut
  nextTag : Nat
  tables : FMap Table
  snaps : FMap Snap
  bufs : FMap BufH
  hen : Bool
  ben : Bool
  fh : BitVec 32
  quiet : Quiet
  stopped : Bool
  halted : Bool
  saveNext : Nat
  deriving DecidableEq, Repr

/-- An entry of a group's PC table (R160). `yield` is the PCC at which a running yield count ends; `held` the barrier phases that hold its lanes, each
with the lanes that arrived at it (the hold bit is set while there is one); `noAge` marks an entry released during the run that goes on (R169);
`fresh` the first run after TRET (R420). -/
structure Entry where
  pc : Pc
  mask : Lanes
  age : Nat
  yield : Option (BitVec 64)
  held : List (Nat × Lanes)
  noAge : Bool
  frozen : Bool
  fresh : Bool
  deriving DecidableEq, Repr

/-- A barrier arrival a run will make at its end (R182, R183). -/
structure Arrive where
  scope : Scope
  id : Nat
  count : Nat
  sends : Bool
  deriving DecidableEq, Repr

/-- Why a started run has released the ports (R166): a fence (`so` marks those of an SO access, 1 before it and 2 after it, Table 4-3); a parked word; a word
that waits for log space until the PCC `till` at which its wait has lasted LOGSTALL (R234, R235); a release of operation `op` that waits for its publication's
log space (R131, R234). `stay` holds the ports: the word cannot issue before a code line of a peer module (R175), or else a future-table entry (R18), is there. -/
inductive RunWait where
  | none
  | fence (scope : Scope) (upto : Nat) (req : Option Nat) (acq : Bool) (so : Nat)
  | park (page : Nat)
  | logSpace (till : BitVec 64)
  | release (op : Nat)
  | stay (code : Bool)
  deriving DecidableEq, Repr

/-- A run in progress (R51, R164). `words` are the fetched words from its first one; `idx` the word that issues next;
`goto` the next PCs that a control transfer gave its lanes; `exits` the lanes that EXIT removes; `released` whether the release
before its barrier arrivals is complete (R182); `tret` whether a TRET ends handler mode at its end (R189); `startAt` its first cycle; `soDone` that the fence before the SO access at its word is over (Table 4-3). -/
structure Run where
  pc : Pc
  words : List IWord
  idx : Nat
  mask : Lanes
  goto : FMap Pc
  exits : Lanes
  link : Option Nat
  yieldReq : Nat
  caller : Lanes
  callMask : BitVec 3
  arrive : List Arrive
  heldQ : BitVec 8
  heldM : BitVec 16
  released : Bool
  tret : Bool
  startAt : BitVec 64
  soDone : Bool
  wait : RunWait
  deriving DecidableEq, Repr

/-- A lane parked in the waiting pool (R29, R323): its rejoin mask and resume PC; the packets in flight that hold it are its outstanding replies. -/
structure Parked where
  lane : Nat
  j : BitVec 3
  pc : Pc
  deriving DecidableEq, Repr

/-- A trap on its way through the steps of R187; `req` is the publication of its record, `stamp` the record's PCC. -/
structure Trap where
  cause : Cause
  deferred : Bool
  ofs : Nat
  wpc : Pc
  mask : Lanes
  lanes : Lanes
  detail0 : BitVec 64
  detail1 : BitVec 64
  detail2 : BitVec 64
  req : Option Nat
  stamp : BitVec 64 := 0
  deriving DecidableEq, Repr

/-- Where a group is (R159, R191). -/
inductive Place where
  | resident (core slot : Nat)
  | saving (core slot : Nat)
  | saved
  | ended
  deriving DecidableEq, Repr

/-- The registers of a group (Table 6-1). Keys: v and x by 64 × register + lane, c by c-bit number (a lane mask each), g, f and j by number. -/
structure Regs where
  v : FMap Word
  x : FMap Word
  c : FMap Lanes
  g : FMap Dword
  k : BitVec 8
  f : FMap Word
  j : FMap Dword
  deriving DecidableEq, Repr

/-- A group of threads (R11, R12, Table 6-1). `deferred` the deferred traps still to be taken, oldest first (R187); `tqErrs` those that await the return of the lanes parked under a mask (R327); `escapes` are the registers earlier RUNEND trailers named (R56);
`wmask` the wait mask of the last RUNEND (R55); `stallFrom` the PCC at which the stall count last was zero (R185), or, while the group is saved, the count itself;
`tileFl` the flags that LOOPNs merged in the cycle `tileFlAt` (R94); `joined` the PCC at which it became resident (R167); `issuedAt` the cycle in which it last issued a word (R414); `moveTo` the core that a move takes it to (R392), `lastCore` the core it was last resident on (R253). -/
structure Group where
  launch : Nat
  block : Nat
  index : Nat
  ctx : Nat
  priv : Bool
  prio : BitVec 2
  lanes : Nat
  nregs : Nat
  place : Place
  pcs : List Entry
  regs : Regs
  fpstat : BitVec 7
  tileFl : BitVec 7
  tileFlAt : BitVec 64
  stallwd : BitVec 48
  loads : Nat
  stores : Nat
  copies : Nat
  tiles : Nat
  tcause : BitVec 32
  tpc : Pc
  tlmask : Dword
  trec : Dword
  handler : Bool
  run : Option Run
  run2 : Option Run
  escapes : List Nat
  wmask : BitVec 4
  parked : List Parked
  deferred : List Trap
  tqErrs : List (BitVec 3 × Trap)
  trap : Option Trap
  stopReq : Bool
  saveReq : Bool
  saveOp : Option Nat
  moveTo : Option Nat
  lastCore : Nat
  stopped : Bool
  stallFrom : BitVec 64
  served : Nat
  joined : Nat
  movedAt : BitVec 64
  issuedAt : Option (BitVec 64)
  deriving DecidableEq, Repr

/-- The operation of an atomic (Table 2-14). -/
inductive AtomOp where
  | add | min | max | and | or | xor | xchg | cas | fadd
  deriving DecidableEq, Repr

/-- The kinds of outstanding memory operation (Table 1-7). -/
inductive MKind where
  | ld (sx : Bool) | lds | st | send (target : BitVec 64) | atom (op : AtomOp) (sgn ret : Bool) | zline
  | pload (first : Nat) | tlock | fence | inv (base len : Nat)
  deriving DecidableEq, Repr

/-- One lane's part of a memory operation; lane 64 stands for a uniform access. `val` is the sampled or old value, `served` whether it has
been sampled or written at its level, `servedAt` the PCC of its bank's service, `fin` whether the part has performed, `mt` its page's memory type
(Table 4-3), `remote` whether a peer module owns the page, `refused` whether no window covered a SEND's write (R118), `asked` whether the peer has been
asked (a load's `val` and `data` then hold the cluster's own bytes and their mask), `put` whether the lane's value has been written to its destination (R56). -/
structure Part where
  lane : Nat
  addr : Nat
  mt : BitVec 2
  remote : Bool
  data : BitVec 256
  val : BitVec 128
  served : Bool
  servedAt : BitVec 64
  fin : Bool
  refused : Bool
  asked : Bool
  put : Bool
  deriving DecidableEq, Repr

/-- An outstanding memory operation of a group. Its key in State.ops is its number in program order; `dest` a v-register or g-register
number; `arriveAt` the PCC at which it left the core's memory queue (R447); `req` the publication request it waits for; `sync` whether its release half is
complete; `queued` whether it is still in the memory queue (R105). -/
structure MemOp where
  gid : Nat
  pc : Pc
  ofs : Nat
  kind : MKind
  space : Space
  width : Nat
  order : Order
  scope : Scope
  parts : List Part
  dest : Nat
  arriveAt : BitVec 64
  req : Option Nat
  sync : Bool
  queued : Bool
  deriving DecidableEq, Repr

/-- A copy-and-convert operation as accepted (R255 to R266). -/
structure CopyOp where
  opc : BitVec 10
  imm : BitVec 32
  ssp : Space
  dsp : Space
  stat : Bool
  src : Nat
  dst : Nat
  cols : Nat
  rows : Nat
  dstr : Nat
  sstr : Nat
  aux : Nat
  stw : Nat
  deriving DecidableEq, Repr

/-- A parameter block of the landing engine (Table 13-1). -/
structure LandBlk where
  nsrc : Nat
  order : BitVec 2
  sat : Bool
  fmt : BitVec 4
  op : BitVec 8
  nelem : Nat
  src : Nat
  dst : Nat
  flag : Nat
  fval : BitVec 64
  stw : Nat
  self : Bool
  modn : BitVec 12
  rank : Nat
  tag : BitVec 16
  deriving DecidableEq, Repr

/-- A checkpoint request block as read (Table 17-2). -/
structure CkBlk where
  op : BitVec 8
  slot : Nat
  g : Nat
  step : BitVec 64
  group : Nat
  srcmod : BitVec 12
  srcctx : BitVec 16
  key : Nat
  bad : Bool
  deriving DecidableEq, Repr

/-- What an asynchronous engine operation does. -/
inductive AKind where
  | copy (c : CopyOp)
  | tload (table : Nat) (image : Nat) (cm : Bool)
  | tfree (table : Nat)
  | tmap (table : Nat) (base len : Nat) (half : Bool) (rsh : Nat)
  | landr (addr : Nat) (cm : Bool) (blk : Option LandBlk)
  | arm (addr : Nat) (cm : Bool) (blk : Option LandBlk)
  | put (addr : Nat) (cm : Bool) (blk : Option LandBlk)
  | pubr
  | migr (base len : Nat) (cap : Bool) (next : Nat)
  | tprobe (addr res : Nat)
  | snap (slot : Nat)
  | snapdrop (slot : Nat)
  | rootsw (target slot : Nat)
  | libsd (seg : Nat)
  | ckpt (addr : Nat) (blk : CkBlk)
  | flush
  | stream
  | slot (core : Nat)
  deriving DecidableEq, Repr

/-- How far an asynchronous operation has come: queued behind its group's earlier accesses or in its engine's queue; waiting for
a publication made on its behalf before it begins; running; parked on a page; publishing its result; publishing the flag. -/
inductive AStage where
  | queued | prePub (req : Nat) | running | parked (page : Nat) | publishing (req : Nat) | flagging (req : Nat) | holding
  deriving DecidableEq, Repr

/-- A scratchpad access of an engine: it reaches its bank at `arriveAt` and is served, whole, at `servedAt` (R104, R447); `data` is what it writes, or what it
read there. -/
structure Piece where
  space : Space
  addr : Nat
  width : Nat
  write : Bool
  data : Nat
  arriveAt : BitVec 64
  servedAt : Option (BitVec 64)
  deriving DecidableEq, Repr

/-- A line appended to a log and not yet published (R208): its newest bytes, their mask, and its records' positions. -/
structure AppLine where
  mask : LineMask
  data : Line
  recs : List Nat
  deriving DecidableEq, Repr

/-- An asynchronous operation of an engine (R16). Its key in State.aops is its number in acceptance order; memory operations of
the group with a smaller number come before it. `outs` are results on their way to their place, `pieces` its scratchpad accesses in flight, `shadow` the lines
of its unpublished records (R268), `starved` the PCC at which its wait for log space will have lasted LOGSTALL. -/
structure AOp where
  ctx : Nat
  gid : Option Nat
  launch : Nat
  cluster : Nat
  tag : Nat
  kind : AKind
  stage : AStage
  cancelled : Bool
  chunk : Nat
  bufs : List (Nat × List Byte)
  outs : List (Nat × List Byte)
  pieces : List Piece
  shadow : FMap AppLine
  starved : Option (BitVec 64)
  since : BitVec 64
  deriving DecidableEq, Repr

def AOp.new (ctx : Nat) (gid : Option Nat) (launch cluster tag : Nat) (kind : AKind) (stage : AStage) (since : BitVec 64) : AOp :=
  { ctx := ctx, gid := gid, launch := launch, cluster := cluster, tag := tag, kind := kind, stage := stage, cancelled := false, chunk := 0, bufs := []
    outs := [], pieces := [], shadow := [], starved := none, since := since }

/-- A line in a write-combining buffer (R207): the bytes written, their mask, the PCC of the first write and the window in force then (R235, R433). -/
structure BufLine where
  mask : LineMask
  data : Line
  first : BitVec 64
  win : BitVec 12
  order : Nat
  deriving DecidableEq, Repr

/-- An index entry (Table 7-6). -/
structure IxEntry where
  f0pos : BitVec 44
  f0msk : BitVec 8
  f1pos : BitVec 44
  f1msk : BitVec 8
  fmt : BitVec 4
  z : Bool
  tier : Bool
  ownr : Bool
  prep : Bool
  deriving DecidableEq, Repr

/-- A level-1 node header (Table 7-5). -/
structure PageHdr where
  perm : BitVec 3
  mtype : BitVec 2
  tier : Bool
  valid : Bool
  home : BitVec 5
  owner : BitVec 12
  remote : Bool
  lcnt : BitVec 32
  rcnt : BitVec 32
  deriving DecidableEq, Repr

/-- A leaf cached in a log index buffer (R204): its entries as filled, its page header, its lock count, whether its fill has landed, the line
whose access caused the fill, and when it was last used. -/
structure LibLeaf where
  ents : FMap IxEntry
  hdr : PageHdr
  locks : Nat
  landed : Bool
  miss : Option Nat
  used : Nat
  deriving DecidableEq, Repr

/-- A leaf at its home (R203): its entries, and whether it differs from its last image (R353). -/
structure HomeLeaf where
  ents : FMap IxEntry
  dirty : Bool
  deriving DecidableEq, Repr

/-- A record of a log (Table 7-2). -/
structure Rec where
  ctx : Nat
  line : BitVec 40
  kind : BitVec 2
  fmt : BitVec 4
  smask : BitVec 8
  pmask : BitVec 8
  logid : BitVec 9
  pubid : BitVec 32
  bms : List (BitVec 32)
  payload : List (BitVec 256)
  deriving DecidableEq, Repr

/-- A segment of a log (R193, R349). `commits` are the positions of its records that a commit has named; `shipped` and `acked` the replicas, as context × 4,096 + module (R359). -/
structure Seg where
  logid : Nat
  used : Nat
  isSealed : Bool
  sealedAt : BitVec 64
  lowPub : BitVec 32
  highPub : BitVec 32
  digest : BitVec 512
  commits : List Nat
  shipped : List Nat
  acked : List Nat
  deriving DecidableEq, Repr

/-- A log: its open segment, its last PUBID, its publication in flight and the requests waiting for its slot (R210, R211); the units promised to accepted
atomics and the segments taken from the pool for them (R134); whether an episode of log-space waits has been reported (R234). -/
structure Log where
  seg : Option Nat
  pubid : BitVec 32
  pub : Option Nat
  queue : List Nat
  promised : Nat
  spare : Nat
  told : Bool
  deriving DecidableEq, Repr

/-- How far a line of a publication has come (R212, R213). -/
inductive PSt where
  | sent | queued | granted | acked | committing | committed | releasing | released
  deriving DecidableEq, Repr

/-- A line of a publication (R212): its new bytes; the mask; the old bytes its home acknowledged; its records in the log; the record its commit names;
the entry a relocation or migration expects (R219); a page header it carries (R363); the token of its prepare at a peer module (R378). -/
structure PLine where
  ctx : Nat
  line : Nat
  mask : LineMask
  data : Line
  old : Line
  full : Bool
  recs : List Nat
  pos : Nat
  msk : BitVec 8
  fmt : BitVec 4
  expect : Option IxEntry
  hdr : Option PageHdr
  tok : Nat
  st : PSt
  deriving DecidableEq, Repr

/-- What a publication request asks for (R210); `atomic` is the turn of an atomic's own publication (R123). -/
inductive ReqKind where
  | batch | range (base len : Nat) | ctxBatch | solo | atomic
  deriving DecidableEq, Repr

/-- How far a request has come: asked for, while earlier stores of its group are still to be accepted (R210); lodged and waiting; in a publication. -/
inductive ReqSt where
  | asked | waiting | inPub (pub : Nat) | complete | failed (c : Cause)
  deriving DecidableEq, Repr

/-- A publication request lodged at a log (R210). `starved` is the PCC at which a wait for log space that has begun will have lasted LOGSTALL (R234, R235); `upto` bounds the operations of
`gid` whose stores must be accepted before it is lodged (R210). -/
structure Req where
  log : Nat
  ctx : Nat
  gid : Option Nat
  kind : ReqKind
  lines : List PLine
  rkind : BitVec 2
  since : BitVec 64
  starved : Option (BitVec 64)
  upto : Nat
  st : ReqSt
  deriving DecidableEq, Repr

/-- A publication in flight (R211, R212). `batch` marks lines of the open batch; `runits` and `rsegs` are the reserved units of the open
segment and the reserved segments (R216). `peer` names the module, publication and line for which this one holds a forwarded prepare (R378). -/
structure Pub where
  log : Nat
  batch : Bool
  runits : Nat
  rsegs : Nat
  key : BitVec 64
  pubid : BitVec 32
  rkind : BitVec 2
  lines : List PLine
  reqs : List Nat
  peer : Option (BitVec 12 × Nat × Nat)
  granted : Bool
  committing : Bool
  revoked : Bool
  askedAt : BitVec 64
  deriving DecidableEq, Repr

/-- A read that waits at a PREP entry (R217): of a group's operation, an LIB fill, a piccolo SLD, a sequencer SLD, an engine operation, a peer's request. -/
inductive Reader where
  | op (n : Nat) | fill (cluster leaf : Nat) | slot (core row : Nat) | seq (cluster : Nat) | aop (n : Nat) | peer (msg : Nat)
  deriving DecidableEq, Repr

/-- The prepare state of an entry at its home (R213): the holder, or none once its hold has ended and the reads that waited are still to be served; the grant time,
the queued prepares and the reads that wait. -/
structure Prep where
  holder : Option Nat
  since : BitVec 64
  queue : List Nat
  readers : List Reader
  deriving DecidableEq, Repr

/-- A place of a mailbox (R30, R288), in order of reservation; a place is takeable once `ready`, or once the operations before `upto` have performed; `lost` marks
one that waits for the memory writes of a discarded Parts-engine operation, which never perform. -/
structure MailPlace where
  msg : BitVec 64
  ready : Bool
  lost : Bool
  byGroup : Option Nat
  upto : Nat
  deriving DecidableEq, Repr

/-- A sequencer SST or SLD in progress (R277, R447): its register, and its access; for an SLD of `.gl`, whether a peer has been asked for it, and the cluster's own
bytes at that moment with their mask (R101). -/
structure SeqAcc where
  reg : Nat
  sgn : Bool
  acc : Piece
  asked : Bool
  ownMask : LineMask
  own : Line
  deriving DecidableEq, Repr

/-- The run state of a matrix sequencer (R274 to R276). -/
inductive SeqSt where
  | free | ready | running | ended | saved
  deriving DecidableEq, Repr

/-- A word of the PX queue, or an operation in progress (R283, R310): its addresses, the PCCs at which it frees its path and, uncontended, completes; the
pieces of its index vector and its other pieces, once they have left (R311, R313); whether a token of its gather lies outside the window; the number of the
next operation when it was issued. -/
structure PxOp where
  word : IWord
  pc : Pc
  addr : Nat
  addr2 : Nat
  started : Bool
  startAt : BitVec 64
  freeAt : BitVec 64
  due : BitVec 64
  idx : List Piece
  accs : List Piece
  gone : Bool
  outside : Bool
  after : Nat
  deriving DecidableEq, Repr

/-- A matrix sequencer (Table 10-1). -/
structure Seq where
  st : SeqSt
  launch : Nat
  block : Nat
  ctx : Nat
  spc : Pc
  s : FMap Dword
  accs : FMap SeqAcc
  pxq : List PxOp
  handle : Option Nat
  stallFrom : BitVec 64
  trap : Option Trap
  cause : Cause
  trec : Nat
  saveReq : Bool
  saveOp : Option Nat
  stopReq : Bool
  deriving DecidableEq, Repr

/-- A weight slot of the Parts engine (R291 to R294). -/
structure WSlot where
  valid : Bool
  fmt : BitVec 2
  image : Memory
  deriving DecidableEq, Repr

/-- An activation stage (R291): VALID bits and the bytes of its 8 blocks (1,056 each, Table 11-6). -/
structure AStageReg where
  valid : BitVec 8
  bytes : Memory
  deriving DecidableEq, Repr

/-- A running-sum register (R83, R291). Elements by 32 × row + token; BETA by row. -/
structure ZReg where
  eref : BitVec 9
  zloss : Bool
  zovf : Bool
  elems : FMap (BitVec 96)
  beta : FMap (BitVec 16)
  deriving DecidableEq, Repr

/-- The Parts engine (Table 11-1). -/
structure Parts where
  w : FMap WSlot
  a : FMap AStageReg
  z : FMap ZReg
  dflags : BitVec 4
  deriving DecidableEq, Repr

/-- An element operation of a LOOPN in flight (R155, R447): its number in visiting order, the PCC at which its beat left, the accesses of its sources, and the order
in which the loop unit saw them served (0 before). -/
structure LoopElem where
  ord : Nat
  leave : BitVec 64
  srcs : List Piece
  seen : List Nat
  deriving DecidableEq, Repr

/-- A result of a LOOPN: its write, and when among the loop unit's accesses it was served (0 before). -/
structure LoopOut where
  acc : Piece
  seen : Nat
  deriving DecidableEq, Repr

/-- One queued or running LOOPN of a core (R157): the operand bases, whether it has started, the next beat and the PCC at which it leaves; the elements whose
sources are being read, and the results; the next element to be computed, its tuple's accumulator, the accesses served so far; the cycles that other agents' use
of the banks has cost, the PCC of the last write; the flags raised. -/
structure LoopJob where
  gid : Nat
  op : Nat
  w : Loop
  d : Nat
  a : Nat
  b : Nat
  started : Bool
  beat : Nat
  leaveAt : BitVec 64
  elems : List LoopElem
  outs : List LoopOut
  next : Nat
  acc : Nat
  seq : Nat
  late : Nat
  putAt : BitVec 64
  fl : BitVec 7
  deriving DecidableEq, Repr

/-- The state of the piccolo slot's run control (Table 8-1). -/
inductive SlotSt where
  | idle | running | parked
  deriving DecidableEq, Repr

/-- A piccolo SLD in flight (R242): row, address, size, space; the 16-byte pieces of one of `.cr` or `.cm`; for one of `.gl`, whether a peer has been asked for
it, and the cluster's own bytes at that moment with their mask (R101). -/
structure SlotLoad where
  row : Nat
  addr : Nat
  size : Nat
  sp : PicSpace
  pieces : List Piece
  asked : Bool
  ownMask : LineMask
  own : Line
  deriving DecidableEq, Repr

/-- The piccolo slot of a core (Table 8-1). Rows are keyed by 64 × row + word; each queue is a list of entries, oldest first, an entry a map of its 64 words. -/
structure Slot where
  active : FMap (BitVec 64)
  shadow : FMap (BitVec 64)
  st : SlotSt
  upc : Nat
  cidx : FMap Nat
  cext : FMap Nat
  agP : FMap (BitVec 2)
  agS : FMap (BitVec 13)
  params : FMap Dword
  rows : FMap Word
  queues : FMap (List (FMap Word))
  flush : BitVec 8
  handle : Option Nat
  bound : Option Nat
  ctx : Nat
  block : Nat
  begun : Bool
  upto : Nat
  loads : List SlotLoad
  deriving DecidableEq, Repr

/-- A core (R9): its L1 lines and held code lines (keyed by ctx × 2^40 + line), its piccolo slot and loop unit. -/
structure Core where
  l1 : FMap Line
  code : FMap Line
  slot : Slot
  loops : List LoopJob
  deriving DecidableEq, Repr

/-- A lock record of a block (R367). -/
structure LockRec where
  base : Nat
  len : Nat
  leaves : List Nat
  deriving DecidableEq, Repr

/-- A saved stream (Table 10-5): the sequencer, its Parts-engine image, the mailboxes and whether they are open. -/
structure SeqSave where
  seq : Seq
  parts : Parts
  mail : FMap (List MailPlace)
  isOpen : Bool
  deriving DecidableEq, Repr

/-- A cluster (R9): write-combining buffer and appended lines (keyed by ctx × 2^40 + line), LIB (keyed by ctx × 2^36 + leaf), mailboxes, sequencer, Parts engine, and the saved
streams of its blocks with their Parts-engine image and mailboxes (Table 10-5), keyed by launch × 2^32 + block. -/
structure Cluster where
  wcwin : BitVec 12
  buf : FMap BufLine
  app : FMap AppLine
  lib : FMap LibLeaf
  mail : FMap (List MailPlace)
  mailOpen : Bool
  seq : Seq
  parts : Parts
  saves : FMap SeqSave
  deriving DecidableEq, Repr

/-- A block of a launch (R11, R391). `ask` marks that its pre-emption has been decided (R393, R394, R397), `held` that it is not to be placed again (R394). -/
structure Block where
  launch : Nat
  index : Nat
  cluster : Nat
  resident : Bool
  ask : Bool
  held : Bool
  ended : Bool
  placedAt : Nat
  locks : List LockRec
  deriving DecidableEq, Repr

/-- A live launch (R386): its kernel descriptor, packet fields and progress; `accepted` numbers it, `deps` are the numbers of the launches it waits for (R390). -/
structure Launch where
  ctx : Nat
  prio : BitVec 2
  queue : Nat
  codeBase : Nat
  entry : Nat
  trapOfs : Option Nat
  seqOfs : Option Nat
  nregs : Nat
  nargs : Nat
  ngroups : Nat
  lanes : Nat
  cm : Nat
  ds : Nat
  cr : Bool
  nblk : Nat
  largs : List Dword
  cmbase : Nat
  dsbase : Nat
  doneAt : Nat
  doneval : BitVec 32
  bufl : List (BitVec 32)
  nextBlk : Nat
  endedBlks : Nat
  failure : Option (Nat × Nat × Cause)
  slotsStopped : Bool
  accepted : Nat
  deps : List Nat
  doneReq : Option Nat
  deriving DecidableEq, Repr

/-- What a command queue waits for before its next packet (R385). -/
inductive CqWait where
  | none | barrier | torn (n : Nat) (at_ : BitVec 64)
  deriving DecidableEq, Repr

/-- A SIGNAL that waits for the earlier packets of its queue, those numbered below `after`, and then for its publication (R385). -/
structure Signal where
  after : Nat
  val : BitVec 64
  addr : BitVec 64
  req : Option Nat
  deriving DecidableEq, Repr

/-- The registers of a command queue (Table 16-1); `cur` is the accepted packet that is executed next (R383). -/
structure CQueue where
  cur : Option (BitVec 512)
  addr : BitVec 58
  loc : Bool
  ctx : BitVec 16
  log2n : BitVec 4
  prio : BitVec 2
  en : Bool
  tail : BitVec 32
  head : BitVec 32
  seqf : BitVec 32
  cause : BitVec 8
  st : BitVec 2
  wait : CqWait
  sigs : List Signal
  deriving DecidableEq, Repr

/-- An instance of a barrier (R182): its scope instance and id are its key; the phase, its count and the arrivals made; the held groups. -/
structure Bar where
  phase : Nat
  count : Nat
  arrivals : Nat
  scope : Scope
  complete : List Nat
  deriving DecidableEq, Repr

/-- An agent waiting at a fault unit for a page (R370): an agent of this module; a peer's forwarded access, a message of `inbox`; an agent whose forwarded access is
parked at its page's owner, as far as CANCEL goes (R374). -/
inductive WaiterWho where
  | group (gid : Nat) | aop (op : Nat) | slot (core : Nat) | seq (cluster : Nat) | host (m : BitVec 3) | peer (msg : Nat) | fwd (op lane : Nat)
  deriving DecidableEq, Repr

/-- A waiter of a die's fault unit (R370); `requested` whether its page request has left, `cancel` whether a CANCEL is on its way (R373). -/
structure Waiter where
  die : Nat
  page : Nat
  who : WaiterWho
  launch : Nat
  ctx : Nat
  requested : Bool
  cancel : Bool
  deriving DecidableEq, Repr

/-- A migration of a page at its HOME die (R371): direction, publication request, dies to notify, the MIGR it belongs to, its failure, the PCC at which a wait of its
for log space will have lasted LOGSTALL;
`xfer` is the module that a transfer of ownership goes to (R380). -/
structure Mig where
  toCap : Bool
  req : Option Nat
  dies : List Nat
  op : Option Nat
  failed : Option Cause
  till : Option (BitVec 64)
  xfer : Option (BitVec 12)
  deriving DecidableEq, Repr

/-- A query packet in flight (R329): the group, table frame, per-lane indices and destination, and the state of its journey. -/
structure TqPkt where
  gid : Nat
  pc : Pc
  ofs : Nat
  ctx : Nat
  table : Nat
  stack : Nat
  die : Nat
  dest : Nat
  req : List Byte
  chan : Option Nat
  reply : Option (List Byte)
  err : Lanes
  deriving DecidableEq, Repr

/-- The power state of a pseudo-channel (R436). -/
inductive ChSt where
  | active | powerDown | selfRefresh
  deriving DecidableEq, Repr

/-- A pseudo-channel (R316, R436). `idleFrom` is the PCC of its last request, or of its entry into the state it is in; `wakeAt` that at which a started exit
ends; `forced` marks a self-refresh that system software asked for and that is deferred. -/
structure Chan where
  st : ChSt
  idleFrom : BitVec 64
  wakeAt : Option (BitVec 64)
  forced : Bool
  deriving DecidableEq, Repr

/-- A stack base die (R316, R332, R351, R362): pool and reserve counts, cleaner registers, table frames in use, the numbers of the chunk buffers that are live;
whether the cleaner is running, and the segment that it is cleaning (R351, R352). -/
structure Stack where
  pool : Nat
  rsv : Nat
  hiwat : BitVec 14
  lowat : BitVec 14
  clnEn : Bool
  freed : BitVec 32
  frames : List Nat
  srIdle : BitVec 16
  pdIdle : BitVec 16
  forceSr : Bool
  live : List Nat
  cleaning : Bool
  target : Option Nat
  deriving DecidableEq, Repr

/-- A die: its gating register, a write of it whose ways cannot be gated yet, and FAULTSTAT count (R381, R437), and its trace counters and bins with the last
cycle of a sample and of a latch (R415, R417), and the channel that its agent used last for a query (R330). Bins are keyed by (context × 2^16 + launch) × 2^64 + RPC. -/
structure Die where
  sph : BitVec 8
  ways : BitVec 16
  gateWakeAt : Option (BitVec 64)
  gateWant : Option (BitVec 64)
  migrated : BitVec 32
  lastChan : Nat
  bins : FMap (FMap (BitVec 32))
  counters : FMap (BitVec 32)
  sampledAt : Option (BitVec 64)
  latchedAt : Option (BitVec 64)
  deriving DecidableEq, Repr

/-- A host master (R399, R425, R426): its requester id, HDM window, write-combining buffer and open batch, release counts. -/
structure HostMaster where
  requester : BitVec 16
  frozen : Bool
  hbase : BitVec 64
  mapCtx : BitVec 16
  mapEn : Bool
  mapOfs : BitVec 40
  mapNext : Option (BitVec 64)
  buf : FMap BufLine
  app : FMap AppLine
  commits : BitVec 32
  fails : BitVec 16
  deriving DecidableEq, Repr

/-- A QF link (Table 19-2). -/
structure Link where
  alt : BitVec 6
  adv : BitVec 4
  en : Bool
  retry : BitVec 32
  padv : BitVec 4
  up : Bool
  nextAdv : Option (BitVec 4)
  deriving DecidableEq, Repr

/-- What a message between modules carries (R430). -/
inductive QfBody where
  | load (op lane : Nat) (ctx addr width : Nat)
  | atom (op lane : Nat) (ctx addr width : Nat) (fn : AtomOp) (sgn : Bool) (d cmp : BitVec 64)
  | reply (op lane : Nat) (val : BitVec 2048)
  | prep (pub idx : Nat) (key : BitVec 64) (ctx line : Nat) (mask : LineMask)
  | prepAck (pub idx : Nat) (old : Line) (full : Bool)
  | revoke (pub : Nat)
  | release (pub idx : Nat)
  | commit (pub idx : Nat) (ctx line : Nat) (data : Line) (msk : BitVec 8)
  | commitAck (pub idx : Nat)
  | send (op lane : Nat) (space : Space) (cluster die : Nat) (addr width : Nat) (data : BitVec 128) (launch : Nat)
  | sendAck (op lane : Nat) (ok : Bool)
  | chunk (op c : Nat) (tag : BitVec 16) (rank : Nat) (blk : LandBlk) (bytes : List Byte)
  | chunkAck (op c : Nat) (bad : Option Cause)
  | segment (seg : Nat) (ctx : Nat) (recs : List (Nat × Rec)) (commit : List Nat) (digest : BitVec 512) (more : List (Nat × Nat))
  | snapSlot (ctx slot : Nat)
  | segAck (seg ctx : Nat)
  | ckQuery (op ctx need : Nat)
  | ckAnswer (op : Nat) (ok : Bool) (seq : BitVec 64)
  | shard (op idx : Nat) (bytes : List Byte)
  | shardAck (op idx unit : Nat)
  | ckFree (op ctx : Nat) (seq : BitVec 64) (older : Bool)
  | ckList (op srcmod srcctx : Nat)
  | ckFound (op : Nat) (manifests : List (List Byte))
  | ckFetch (op idx unit : Nat)
  | ckUnit (op idx : Nat) (bytes : List Byte)
  | page (ctx page : Nat) (lines : List (Nat × Line)) (hdr : PageHdr)
  | pageAck (page : Nat)
  | passed (op lane : Nat) (owner : BitVec 12)
  | parked (op lane page : Nat)
  | replayed (op lane : Nat)
  | unpark (op lane : Nat)
  | fwdBad (op lane : Nat) (c : Cause)
  | heartbeat
  | barrier (bar : Nat)
  deriving DecidableEq, Repr

/-- A message on its way to or from a peer module (R430); `link` is the link it leaves on, if it has a route (R434). -/
structure QfMsg where
  peer : BitVec 12
  cls : BitVec 2
  link : Option (BitVec 6)
  body : QfBody
  since : BitVec 64
  deriving DecidableEq, Repr

/-- The trace sink and module trace registers (Table 18-5). -/
structure Trace where
  tsen : Bool
  k : BitVec 5
  kNext : Option (BitVec 5)
  sp : BitVec 5
  base : BitVec 36
  size : BitVec 5
  head : BitVec 64
  tail : BitVec 64
  recs : BitVec 32
  lostSeen : Bool
  bp : FMap (BitVec 64)
  bpsel : FMap (BitVec 64)
  deriving DecidableEq, Repr

/-- Checkpoint engine registers (Table 17-1), the units in use, those set aside for a module's attempt (key module × 2^64 + operation), the waiting and
the running operations, and the request whose acceptance waits (R402). -/
structure Ckpt where
  units : BitVec 16
  base : BitVec 16
  used : List Nat
  resv : FMap Nat
  refused : Bool
  waiting : List Nat
  active : List Nat
  accepting : Option (Nat × Nat)
  deriving DecidableEq, Repr

/-- A report of a die agent to the command processor: a log whose writers began to wait for space (R234); a segment whose digest a replica refused (R359); a page that
is a candidate for a transfer to a peer, in the epoch that ends at a PCC multiple (R379). -/
inductive Report where
  | logSpace (log : Nat) | badDigest (seg ctx : Nat) | transfer (page epoch : Nat)
  deriving DecidableEq, Repr

/-- Module-level power, boot and error registers (Table 20-3) and link errors. `hostMaps` are the HOSTMAPm values written before master m was admitted (Table 19-1). `readData` is what the last host read or register read returned, `readBad` whether
it was refused or returned poisoned; `reports` what die agents have reported, oldest first. -/
structure Sys where
  bootSt : BitVec 8
  bootCause : BitVec 8
  fwver : BitVec 16
  fwHash : BitVec 512
  corr : BitVec 32
  uncorr : BitVec 16
  gateErr : Bool
  owner : BitVec 8
  epoch : BitVec 24
  hwcwin : BitVec 12
  hostMaps : FMap (BitVec 64)
  lnkHost : BitVec 16
  epochLog : BitVec 8
  demlo : BitVec 16
  rsh : BitVec 4
  rthr : BitVec 24
  demen : Bool
  epochAt : BitVec 64
  beatAt : BitVec 64
  msix : List Nat
  reports : List Report
  readData : BitVec 64
  readBad : Bool
  deriving DecidableEq, Repr

/-- Which agent executes the stream word that exec is asked for: a group on its primary or second port, a sequencer, a piccolo slot, a command queue. -/
inductive Issuer where
  | none | group (gid : Nat) (second : Bool) | seq (cluster : Nat) | slot (core : Nat) | queue (q : Nat)
  deriving DecidableEq, Repr

/-- Fixed-size parts of the module that hold memory bytes. Keys: lane memory by (group id × 64 + lane) × 1,024 + address;
cluster memory by cluster × 6 MiB + address; die scratchpad by die × 16 MiB + address; table frames by (stack × 256 + frame) × 8,192 + byte;
host memory by host address (what the device has written); capacity-tier checkpoint store by byte address. -/
structure Mems where
  ln : Memory
  cm : Memory
  ds : Memory
  frame : Memory
  host : FMap Byte
  ckstore : Memory
  deriving DecidableEq, Repr

/-- The log store and the index (R193 to R203, R363). -/
structure Store where
  recs : FMap Rec
  segs : FMap Seg
  logs : FMap Log
  leaves : FMap HomeLeaf
  pages : FMap PageHdr
  preps : FMap Prep
  reqs : FMap Req
  pubs : FMap Pub
  deriving DecidableEq, Repr

/-- The module. `held` are lines of peers' pages that have arrived for the command processor or the checkpoint engine, and under (master + 1) × 2^64 + line for a host master;
`heard` the last heartbeat of each peer, `lost` the peers declared failed (R410). -/
structure State where
  pcc : BitVec 64
  issuer : Issuer
  agenda : List Turn
  turns : Nat
  fresh : Nat
  free : Nat
  mems : Mems
  store : Store
  ctxs : FMap Ctx
  groups : FMap Group
  blocks : FMap Block
  launches : FMap Launch
  lastLaunch : Nat
  cores : FMap Core
  clusters : FMap Cluster
  dies : FMap Die
  stks : FMap Stack
  chans : FMap Chan
  ops : FMap MemOp
  aops : FMap AOp
  bars : FMap Bar
  pkts : FMap TqPkt
  waiters : FMap Waiter
  migs : FMap Mig
  cqs : FMap CQueue
  hosts : FMap HostMaster
  links : FMap Link
  routes : FMap (BitVec 64)
  outbox : FMap QfMsg
  inbox : FMap QfMsg
  held : FMap Line
  heard : FMap (BitVec 64)
  lost : List Nat
  trace : Trace
  ckpt : Ckpt
  sys : Sys
  deriving DecidableEq, Repr

/-! Reset values. -/

/-- A context with nothing in it. LOGSTALL resets to 0x0010_0000 (Table 7-12). -/
def Ctx.empty : Ctx :=
  { priv := false, ixroot := 0, logstall := 0x100000, replicas := [], replStopped := false, replayed := [], replaying := [], futs := [], nextTag := 0, tables := [],
    snaps := [], bufs := [], hen := false, ben := false, fh := 0, quiet := .running, stopped := false, halted := false, saveNext := 0 }

def Regs.reset : Regs := { v := [], x := [], c := [], g := [], k := 0, f := [], j := [] }

def Seq.reset : Seq :=
  { st := .free, launch := 0, block := 0, ctx := 0, spc := 0, s := [], accs := [], pxq := [], handle := none, stallFrom := 0,
    trap := none, cause := .none, trec := 0, saveReq := false, saveOp := none, stopReq := false }

def WSlot.reset : WSlot := { valid := false, fmt := 0, image := [] }
def AStageReg.reset : AStageReg := { valid := 0, bytes := [] }
/-- R292: every element 0, Eref 0, flags clear, every BETA 1.0. -/
def ZReg.reset : ZReg := { eref := 0, zloss := false, zovf := false, elems := [], beta := [] }
/-- R292. -/
def Parts.reset : Parts := { w := [], a := [], z := [], dflags := 0 }

/-- Table 8-1. -/
def Slot.reset : Slot :=
  { active := [], shadow := [], st := .idle, upc := 0, cidx := [], cext := [], agP := [], agS := [], params := [], rows := [],
    queues := [], flush := 0, handle := none, bound := none, ctx := 0, block := 0, begun := false, upto := 0, loads := [] }

def Core.reset : Core := { l1 := [], code := [], slot := Slot.reset, loops := [] }

/-- WCWIN resets to 0x040 (Table 7-11). -/
def Cluster.reset : Cluster :=
  { wcwin := 0x040, buf := [], app := [], lib := [], mail := [], mailOpen := false, seq := Seq.reset, parts := Parts.reset,
    saves := [] }

/-- Table 16-1. -/
def CQueue.reset : CQueue :=
  { cur := none, addr := 0, loc := false, ctx := 0, log2n := 4, prio := 0, en := false, tail := 0, head := 0, seqf := 0, cause := 0, st := 0, wait := .none, sigs := [] }

/-- Tables 14-3, 14-4 and 20-3: pool 0x3E98, reserve 0x148, HIWAT 0x0800, LOWAT 0x0400, EN 1, SRIDLE 0x0400, PDIDLE 0x0100. -/
def Stack.reset : Stack :=
  { pool := 0x3E98, rsv := 0x148, hiwat := 0x800, lowat := 0x400, clnEn := true, freed := 0, frames := [],
    srIdle := 0x400, pdIdle := 0x100, forceSr := false, live := [], cleaning := false, target := none }

def Chan.reset : Chan := { st := .active, idleFrom := 0, wakeAt := none, forced := false }

def Die.reset : Die :=
  { sph := 0, ways := 0, gateWakeAt := none, gateWant := none, migrated := 0, lastChan := 63, bins := [], counters := [], sampledAt := none, latchedAt := none }

/-- Table 19-2: ALT resets to the link's own number (filled in by `linkReset`), ADV 0xF, EN 1. -/
def linkReset (n : Nat) : Link :=
  { alt := BitVec.ofNat 6 n, adv := 0xF, en := true, retry := 0, padv := 0, up := false, nextAdv := none }

/-- Table 18-5: K 0x14, SP 0x0C, SZ 0x10. -/
def Trace.reset : Trace :=
  { tsen := false, k := 0x14, kNext := none, sp := 0x0C, base := 0, size := 0x10, head := 0, tail := 0, recs := 0, lostSeen := false,
    bp := [], bpsel := [] }

def Ckpt.reset : Ckpt := { units := 0, base := 0, used := [], resv := [], refused := false, waiting := [], active := [], accepting := none }

/-- Tables 15-3, 16-7, 19-1 and 20-3: OWNER 0xFF, HWCWIN 0x040, EPOCH (log) 0x20, DEMLO 0x0200, RSH 2, RTHR 0x1000, DEMEN 1. -/
def Sys.reset : Sys :=
  { bootSt := 0, bootCause := 0, fwver := 0, fwHash := 0, corr := 0, uncorr := 0, gateErr := false, owner := 0xFF, epoch := 0,
    hwcwin := 0x040, hostMaps := [], lnkHost := 0, epochLog := 0x20, demlo := 0x200, rsh := 2, rthr := 0x1000, demen := true, epochAt := 0, beatAt := 0,
    msix := [], reports := [], readData := 0, readBad := false }

def Mems.reset : Mems := { ln := [], cm := [], ds := [], frame := [], host := [], ckstore := [] }
def Store.reset : Store := { recs := [], segs := [], logs := [], leaves := [], pages := [], preps := [], reqs := [], pubs := [] }

/-- The module right after cold reset (R439): PCC 0, every register at its Reset value, every memory lost or cleared,
STATE ROM, no context, no launch, nothing placed. -/
def State.reset : State :=
  { pcc := 0, issuer := .none, agenda := [], turns := 0, fresh := 1, free := 0, mems := Mems.reset, store := Store.reset, ctxs := [],
    groups := [], blocks := [], launches := [], lastLaunch := 0, cores := [], clusters := [], dies := [], stks := [], chans := [],
    ops := [], aops := [], bars := [], pkts := [], waiters := [], migs := [], cqs := [], hosts := [], links := [], routes := [],
    outbox := [], inbox := [], held := [], heard := [], lost := [], trace := Trace.reset, ckpt := Ckpt.reset, sys := Sys.reset }

/-- Reasons a step stops the machine. -/
inductive Fault where
  /-- Raised by exec for a stream word, micro-op or packet when the state names no agent that is issuing one. Safe: step
  never asks for it, and the machine goes no further. -/
  | noIssuer
  deriving DecidableEq, Repr

/-- Reasons a step gives no meaning. -/
inductive Refusal where
  /-- Raised by exec's own arm for an instruction that has no meaning yet. Safe: the machine goes no further. -/
  | notModelled (mnemonic : String)
  deriving DecidableEq, Repr

end Sys2Proof.Machine
end

