-- ==== Sys2Proof/Machine/Ops.lean ====
section
/-! DEFINITION. The named operations every meaning is written from: keys and places, registers, counters, futures (R16 to R23), scratchpad
windows (R98 to R100), taking a trap (R187) and the return from a handler (R189), and the frame of executing one word. -/

namespace Sys2Proof.Machine

abbrev Out := Host.Outcome State Fault Refusal

/-! Keys and places (R8 to R12). -/

def gidOf (launch block index : Nat) : Nat := launch * 2 ^ 48 + block * 2 ^ 16 + index
def blockKey (launch block : Nat) : Nat := launch * 2 ^ 32 + block
def Group.blockKey (g : Group) : Nat := Machine.blockKey g.launch g.block
def lineKey (ctx addr : Nat) : Nat := ctx * 2 ^ 40 + addr / 256
def leafKey (ctx addr : Nat) : Nat := ctx * 2 ^ 36 + addr / 4096
def pageKey (ctx addr : Nat) : Nat := ctx * 2 ^ 31 + addr / 131072
def keyCtxLine (k : Nat) : Nat := k / 2 ^ 40
/-- The address of a line key. -/
def lineAddr (k : Nat) : Nat := k % 2 ^ 40 * 256
def leafOfLine (k : Nat) : Nat := k / 2 ^ 40 * 2 ^ 36 + k % 2 ^ 40 / 16
def pageOfLine (k : Nat) : Nat := k / 2 ^ 40 * 2 ^ 31 + k % 2 ^ 40 / 512
def pageOfLeaf (k : Nat) : Nat := k / 2 ^ 36 * 2 ^ 31 + k % 2 ^ 36 / 32
def leafCtx (k : Nat) : Nat := k / 2 ^ 36
def pageCtx (k : Nat) : Nat := k / 2 ^ 31
def pageAddr (k : Nat) : Nat := k % 2 ^ 31 * 131072
def leafAddr (k : Nat) : Nat := k % 2 ^ 36 * 4096

def coreCluster (core : Nat) : Nat := core / 24
def coreQuad (core : Nat) : Nat := core % 24 / 4
def clusterDie (cl : Nat) : Nat := cl / 8
def dieStack (die : Nat) : Nat := die / 2
def clusterStack (cl : Nat) : Nat := dieStack (clusterDie cl)

/-- The stack that gives a log its segments (R10, R193); the host logs are counted to die 0 (R218). -/
def logStack (log : Nat) : Nat := if log < 256 then clusterStack log else if log < 320 then (log - 256) / 4 else 0

/-- The die of a log's writer; a stack's engines count at its lower die, the host port at die 0. -/
def logDie (log : Nat) : Nat := if log < 256 then clusterDie log else 2 * logStack log

/-! Parts of the state. An unlisted part stands at its reset value. -/

def State.grp (s : State) (gid : Nat) : Option Group := s.groups.get? gid
def State.setGrp (s : State) (gid : Nat) (g : Group) : State := { s with groups := s.groups.set gid g }
def State.modGrp (s : State) (gid : Nat) (f : Group → Group) : State := { s with groups := s.groups.modify gid f }
def State.ctx? (s : State) (c : Nat) : Option Ctx := s.ctxs.get? c
def State.modCtx (s : State) (c : Nat) (f : Ctx → Ctx) : State := { s with ctxs := s.ctxs.modify c f }
def State.cl (s : State) (c : Nat) : Cluster := s.clusters.getD Cluster.reset c
def State.setCl (s : State) (c : Nat) (x : Cluster) : State := { s with clusters := s.clusters.put Cluster.reset c x }
def State.modCl (s : State) (c : Nat) (f : Cluster → Cluster) : State := s.setCl c (f (s.cl c))
def State.core (s : State) (c : Nat) : Core := s.cores.getD Core.reset c
def State.setCore (s : State) (c : Nat) (x : Core) : State := { s with cores := s.cores.put Core.reset c x }
def State.modCore (s : State) (c : Nat) (f : Core → Core) : State := s.setCore c (f (s.core c))
def State.slot (s : State) (c : Nat) : Slot := (s.core c).slot
def State.setSlot (s : State) (c : Nat) (x : Slot) : State := s.modCore c (fun k => { k with slot := x })
def State.seqOf (s : State) (c : Nat) : Seq := (s.cl c).seq
def State.setSeq (s : State) (c : Nat) (x : Seq) : State := s.modCl c (fun k => { k with seq := x })
def State.modSeq (s : State) (c : Nat) (f : Seq → Seq) : State := s.modCl c (fun k => { k with seq := f k.seq })
def State.die (s : State) (d : Nat) : Die := s.dies.getD Die.reset d
def State.modDie (s : State) (d : Nat) (f : Die → Die) : State := { s with dies := s.dies.put Die.reset d (f (s.die d)) }
def State.stack (s : State) (k : Nat) : Stack := s.stks.getD Stack.reset k
/-- One more in an interval counter of a die; it saturates (R417). Keys: 16 × cluster + reason; 128 + 4 × cluster + (0 Parts engine, 1 copy engine, 2 sequencer,
3 LIB misses); 160 publications, 161 table packets, 162 chunks, 163 parks. -/
def State.tally (s : State) (d k : Nat) : State :=
  s.modDie d (fun x =>
    let n := x.counters.getD 0 k
    { x with counters := FMap.put x.counters 0 k (if n = BitVec.allOnes 32 then n else n + 1) })
def State.modStack (s : State) (k : Nat) (f : Stack → Stack) : State :=
  { s with stks := s.stks.put Stack.reset k (f (s.stack k)) }
def State.chan (s : State) (k : Nat) : Chan := s.chans.getD Chan.reset k
def State.modChan (s : State) (k : Nat) (f : Chan → Chan) : State := { s with chans := s.chans.put Chan.reset k (f (s.chan k)) }
def State.cq (s : State) (q : Nat) : CQueue := s.cqs.getD CQueue.reset q
def State.modCq (s : State) (q : Nat) (f : CQueue → CQueue) : State := { s with cqs := s.cqs.put CQueue.reset q (f (s.cq q)) }
def State.link (s : State) (n : Nat) : Link := s.links.getD (linkReset n) n
def State.modLink (s : State) (n : Nat) (f : Link → Link) : State := { s with links := s.links.put (linkReset n) n (f (s.link n)) }
def State.modBlock (s : State) (k : Nat) (f : Block → Block) : State := { s with blocks := s.blocks.modify k f }
def State.modLaunch (s : State) (k : Nat) (f : Launch → Launch) : State := { s with launches := s.launches.modify k f }
def State.modOp (s : State) (n : Nat) (f : MemOp → MemOp) : State := { s with ops := s.ops.modify n f }
def State.modAop (s : State) (n : Nat) (f : AOp → AOp) : State := { s with aops := s.aops.modify n f }
/-- What an operation keeps under a key. -/
def AOp.buf (o : AOp) (k : Nat) : Option (List Byte) := (o.bufs.find? (fun p => p.1 == k)).map (·.2)
def AOp.putBuf (o : AOp) (k : Nat) (bs : List Byte) : AOp := { o with bufs := o.bufs.filter (fun p => p.1 != k) ++ [(k, bs)] }
def State.setMems (s : State) (m : Mems) : State := { s with mems := m }
def State.setStore (s : State) (m : Store) : State := { s with store := m }

/-- A new operation number, and the state with the counter moved on. -/
def State.newNum (s : State) : Nat × State := (s.fresh, { s with fresh := s.fresh + 1 })

/-- The next free value index, and the state with the counter moved on. -/
def State.newFree (s : State) : Nat × State := (s.free, { s with free := s.free + 1 })

/-- A list in a free order: each element stands at a place that a free value gives (R121, R447). -/
def shuffle {α : Type} (f : Nat → Nat) : Nat → List α → List α
  | _, [] => []
  | i, x :: xs => let ys := shuffle f (i + 1) xs; ys.insertIdx (f i % (ys.length + 1)) x

/-- PCC as a natural number. -/
def State.now (s : State) : Nat := s.pcc.toNat

/-- Whether PCC has reached a stamp. -/
def State.due (s : State) (t : BitVec 64) : Bool := decide (t.toNat ≤ s.pcc.toNat)

/-! Messages to peer modules (R430, R434). -/

/-- The links that may carry a message to a module: those of its route table entry that are up (R434). -/
def State.routeLinks (s : State) (peer : BitVec 12) : List (BitVec 6) :=
  let e := s.routes.getD 0 peer.toNat
  if e.getLsbD 63 then
    ((List.range 36).filter (fun n => e.getLsbD n && (s.link n).up)).map (fun n => BitVec.ofNat 6 n)
  else []
/-- The link of a message with hash key h, if it has a route. -/
def State.routeOf (s : State) (peer : BitVec 12) (h : Nat) : Option (BitVec 6) :=
  let ls := s.routeLinks peer
  ls[Config.routeHash h % ls.length]?
/-- Send a message; one with no route waits for one (R431). -/
def State.sendMsg (s : State) (peer : BitVec 12) (cls : BitVec 2) (h : Nat) (body : QfBody) : State :=
  let (n, s) := s.newNum
  { s with outbox := s.outbox.set n { peer := peer, cls := cls, link := s.routeOf peer h, body := body, since := s.pcc } }

/-! Residence (R159). -/

def Group.core? (g : Group) : Option Nat :=
  match g.place with
  | .resident c _ => some c
  | .saving c _ => some c
  | _ => none
def Group.slotNo (g : Group) : Nat :=
  match g.place with
  | .resident _ k => k
  | .saving _ k => k
  | _ => 0
/-- The cluster of a group's block; every block stays in one cluster (R11). -/
def State.grpCluster (s : State) (g : Group) : Nat :=
  match s.blocks.get? g.blockKey with
  | some b => b.cluster
  | none => match g.core? with
    | some c => coreCluster c
    | none => 0
def State.grpCore (s : State) (g : Group) : Nat := g.core?.getD (24 * s.grpCluster g)

/-- The groups on a core. -/
def State.coreGroups (s : State) (core : Nat) : List (Nat × Group) :=
  s.groups.filter (fun p => p.2.core? == some core)

/-! Registers. c7 and k7 read 1 and discard writes (R42). -/

def Regs.vreg (r : Regs) (n l : Nat) : Word := r.v.getD 0 (64 * n + l)
def Regs.setV (r : Regs) (n l : Nat) (x : Word) : Regs := { r with v := r.v.put 0 (64 * n + l) x }
def Regs.xreg (r : Regs) (n l : Nat) : Word := r.x.getD 0 (64 * n + l)
def Regs.setX (r : Regs) (n l : Nat) (x : Word) : Regs := { r with x := r.x.put 0 (64 * n + l) x }
def Regs.creg (r : Regs) (n : Nat) : Lanes := if n = 7 then BitVec.allOnes 64 else r.c.getD 0 n
def Regs.setC (r : Regs) (n : Nat) (m : Lanes) : Regs := if n = 7 then r else { r with c := r.c.put 0 n m }
def Regs.greg (r : Regs) (n : Nat) : Dword := r.g.getD 0 n
def Regs.setG (r : Regs) (n : Nat) (x : Dword) : Regs := { r with g := r.g.put 0 n x }
def Regs.kreg (r : Regs) (n : Nat) : Bool := if n = 7 then true else r.k.getLsbD n
def Regs.setK (r : Regs) (n : Nat) (b : Bool) : Regs :=
  if n = 7 then r
  else { r with k := (r.k &&& ~~~((1#8) <<< n)) ||| (if b then (1#8) <<< n else 0) }
def Regs.freg (r : Regs) (n : Nat) : Word := r.f.getD 0 n
def Regs.setF (r : Regs) (n : Nat) (x : Word) : Regs := { r with f := r.f.put 0 n x }
/-- j0 to j7 start all ones (Table 6-1). -/
def Regs.jreg (r : Regs) (n : Nat) : Dword := r.j.getD (BitVec.allOnes 64) n
def Regs.setJ (r : Regs) (n : Nat) (x : Dword) : Regs := { r with j := r.j.put (BitVec.allOnes 64) n x }

/-- The lanes of a mask, rising. -/
def lanesOf (m : Lanes) : List Nat := (List.range 64).filter (fun l => m.getLsbD l)
/-- The mask of a list of lanes. -/
def maskOf (ls : List Nat) : Lanes := ls.foldl (fun m l => m ||| ((1#64) <<< l)) 0
def laneBit (l : Nat) : Lanes := (1#64) <<< l
/-- x put at place i of a list, modulo its places. -/
def insertPlace {α : Type} (i : Nat) (x : α) (xs : List α) : List α := let k := i % (xs.length + 1); xs.take k ++ x :: xs.drop k
/-- A list in an order that the places f give; every order is one of some f. -/
def permute {α : Type} (f : Nat → Nat) : List α → List α
  | [] => []
  | [x] => [x]
  | x :: xs => insertPlace (f xs.length) x (permute f xs)

/-! Cause codes (Table 6-13). -/

def Cause.code : Cause → BitVec 8
  | .none => 0x00 | .illop => 0x01 | .runtmp => 0x02 | .runlen => 0x03 | .jmpbad => 0x04 | .futdead => 0x05 | .stall => 0x06
  | .align => 0x07 | .access => 0x08 | .lockmiss => 0x09 | .nomap => 0x0A | .logfull => 0x0B | .cancelled => 0x0C | .space => 0x0D
  | .priv => 0x0E | .qerr => 0x0F | .tqbad => 0x10 | .seqerr => 0x11 | .pxerr => 0x12 | .bkpt => 0x13 | .hwerr => 0x14
  | .queueTorn => 0x15 | .mixedStep => 0x16 | .prog c => c

/-! Futures (R16 to R23). -/

/-- A handle (Table 1-5). -/
def mkHandle (cls : BitVec 4) (tag : Nat) (gen : BitVec 16) : Word := cls ++ BitVec.ofNat 12 tag ++ gen
def hCls (h : Word) : BitVec 4 := h.extractLsb' 28 4
def hTag (h : Word) : Nat := (h.extractLsb' 16 12).toNat
def hGen (h : Word) : BitVec 16 := h.extractLsb' 0 16

/-- R17: the classes of live handles are 1 to 0xA. -/
def liveClass (c : BitVec 4) : Bool := decide (1 ≤ c.toNat) && decide (c.toNat ≤ 10)

def Fut.unused : Fut := { cls := 0, gen := 0, st := .unused, gid := none, launch := 0, op := 0 }
def Ctx.fut (c : Ctx) (tag : Nat) : Fut := c.futs.getD Fut.unused tag

/-- R19: the entry of a live handle. A handle whose CLASS is not its entry's is of another operation only if GEN differs, so CLASS
is checked by R17 alone. -/
def Ctx.live? (c : Ctx) (h : Word) : Option Fut :=
  let e := c.fut (hTag h)
  if liveClass (hCls h) && e.gen == hGen h && e.st != .cancelled && e.st != .unused then some e else none

/-- R18: allocate the next entry in round-robin order; none while that entry is PENDING. -/
def State.allocFut (s : State) (c : Nat) (cls : BitVec 4) (gid : Option Nat) (launch op : Nat) : Option (State × Word) :=
  match s.ctx? c with
  | none => none
  | some x =>
    let e := x.fut x.nextTag
    if e.st = .pending then none
    else
      let gen := e.gen + 1
      let f : Fut := { cls := cls, gen := gen, st := .pending, gid := gid, launch := launch, op := op }
      some (s.modCtx c (fun x => { x with futs := x.futs.set x.nextTag f, nextTag := (x.nextTag + 1) % 4096 }),
        mkHandle cls x.nextTag gen)

/-- R24: one less in the copies class of the group that counts the operation, wherever it is (R26). -/
def State.decCopies (s : State) (gid : Option Nat) : State :=
  match gid with
  | some g => s.modGrp g (fun x => { x with copies := x.copies - 1 })
  | none => s

/-- An entry leaves PENDING (R18, R23, R24). -/
def State.resolve (s : State) (c tag : Nat) (st : FutSt) : State :=
  match s.ctx? c with
  | none => s
  | some x =>
    let e := x.fut tag
    if e.st = .pending then
      (s.modCtx c (fun x => { x with futs := x.futs.set tag { e with st := st } })).decCopies e.gid
    else s

/-- Whether an operation's entry is still PENDING. -/
def State.futPending (s : State) (c tag : Nat) : Bool :=
  match s.ctx? c with
  | none => false
  | some x => (x.fut tag).st == .pending

/-- The state code of FTEST (R180). -/
def futCode (c : Ctx) (h : Word) : Dword :=
  match c.live? h with
  | some e => match e.st with
    | .pending => 0
    | .ok => 1
    | .failed k => (k.code.setWidth 64) <<< 8 ||| 2
    | .cancelled => 3
    | .unused => 4
  | none =>
    let e := c.fut (hTag h)
    if liveClass (hCls h) && e.gen == hGen h && e.st == .cancelled then 3 else 4

/-! Scratchpads (R98 to R100). -/

def cmBytes : Nat := 6 * 2 ^ 20
def crBytes : Nat := 256 * 1024
def dsBytes : Nat := 16 * 2 ^ 20
def lnBytes : Nat := 1024

/-- The size of a space other than `.gl`. -/
def spaceSize : Space → Nat
  | .ln => lnBytes | .cr => crBytes | .cm => cmBytes | .ds => dsBytes | .gl => 2 ^ 48

/-- R100: a 33-bit signed sum of a 32-bit base and an offset. -/
def sum33 (base ofs : BitVec 32) : Int := (base.toNat : Int) + ofs.toInt

/-- Whether [a, a + n) lies in [lo, lo + len). -/
def inRange (a n lo len : Nat) : Bool := decide (lo ≤ a) && decide (a + n ≤ lo + len)

/-- The windows of a launch: `.cm` from CMBASE, `.ds` from DSBASE (R99, R391). -/
def State.launchOf (s : State) (id : Nat) : Option Launch := s.launches.get? id

/-- R99, R100: the bytes [a, a + n) of a scratchpad space, addressed by core `core` for a launch, lie in the space and the windows. -/
def State.padOk (s : State) (launch core : Nat) (sp : Space) (a : Int) (n : Nat) : Bool :=
  if a < 0 then false
  else
    let x := a.toNat
    decide (x + n ≤ spaceSize sp) &&
    match sp with
    | .ln => true
    | .gl => true
    | .cr => match s.launchOf launch with
      | some l => inRange (core % 24 * crBytes + x) n l.cmbase l.cm
      | none => false
    | .cm => match s.launchOf launch with
      | some l => inRange x n l.cmbase l.cm
      | none => false
    | .ds => match s.launchOf launch with
      | some l => inRange x n l.dsbase l.ds
      | none => false

/-- The key in State.mems of byte a of a scratchpad space, as core `core` (and lane l of group `gid`) reaches it. -/
def padKey (core gid l : Nat) (sp : Space) (a : Nat) : Nat :=
  match sp with
  | .ln => (gid * 64 + l) * 1024 + a
  | .cr => coreCluster core * cmBytes + core % 24 * crBytes + a
  | .cm => coreCluster core * cmBytes + a
  | .ds => clusterDie (coreCluster core) * dsBytes + a
  | .gl => a

def Mems.of (m : Mems) : Space → Memory
  | .ln => m.ln | .ds => m.ds | .cr => m.cm | .cm => m.cm | .gl => []

def Mems.put (m : Mems) (sp : Space) (x : Memory) : Mems :=
  match sp with
  | .ln => { m with ln := x } | .ds => { m with ds := x } | .cr => { m with cm := x } | .cm => { m with cm := x } | .gl => m

/-- Read n bytes of a scratchpad space from key `key`. -/
def State.padRead (s : State) (sp : Space) (key n : Nat) : Nat := (s.mems.of sp).readLE key n
/-- Write the n low bytes of v. -/
def State.padWrite (s : State) (sp : Space) (key n v : Nat) : State :=
  s.setMems (s.mems.put sp ((s.mems.of sp).writeLE key n v))
/-- Write bytes. -/
def State.padWriteBytes (s : State) (sp : Space) (key : Nat) (bs : List Byte) : State :=
  s.setMems (s.mems.put sp ((s.mems.of sp).writeBytes key bs))
def State.padReadBytes (s : State) (sp : Space) (key n : Nat) : List Byte := (s.mems.of sp).readBytes key n

/-! Latencies (Table 4-2, R102, R103). -/

def quadDist (p q : Nat) : Nat := let d := max p q - min p q; min d (6 - d)
def absDiff (a b : Nat) : Nat := max a b - min a b
/-- The mesh distance of a cluster (0 to 7 on its die) from a die-scratchpad block. -/
def meshDist (c b : Nat) : Nat := absDiff (b % 16) (5 * (c % 4)) + absDiff (b / 16) (15 * (c / 4))

/-- The (bank, row) pairs of `bank`-byte rows that accesses of w bytes at the addresses need. -/
def rowsOf (rowBytes : Nat) (as_ : List Nat) (w : Nat) : List Nat :=
  (as_.flatMap (fun a => (List.range ((a % rowBytes + w + rowBytes - 1) / rowBytes)).map (fun i => a / rowBytes + i))).dedup

/-- The largest number of distinct rows in one bank: banks of 8 bytes, bank by [7:3], row by [17:8] (R102). -/
def padDegree (as_ : List Nat) (w : Nat) : Nat :=
  let rows := rowsOf 8 as_ w
  ((List.range 32).map (fun b => (rows.filter (fun r => r % 32 == b)).length)).foldl max 1

/-- The degree at a die-scratchpad block: its distinct 32-byte rows (R103). -/
def dsDegree (as_ : List Nat) (w : Nat) : Nat := max 1 (rowsOf 32 as_ w).length

/-- The uncontended latency of one instruction's accesses of w bytes at addresses `as_` of a space, from core `core`: that of its last lane. -/
def padLatency (core : Nat) (sp : Space) (as_ : List Nat) (w : Nat) : Nat :=
  match sp with
  | .ln => 3
  | .cr => 4 + (padDegree as_ w - 1)
  | .cm => ((List.range 24).map (fun t =>
      let here := as_.filter (fun a => a / crBytes == t)
      if here.isEmpty then 0 else 18 + 4 * quadDist (coreQuad core) (t / 4) + (padDegree here w - 1))).foldl max 0
  | .ds => ((List.range 256).map (fun b =>
      let here := as_.filter (fun a => a / 65536 % 256 == b)
      if here.isEmpty then 0 else 60 + 2 * meshDist (coreCluster core % 8) b + (dsDegree here w - 1))).foldl max 0
  | .gl => 0

/-! Banks (R102 to R104, R447). -/

/-- The cycles from a core's memory queue, or a sequencer at quad 0 of its cluster, to a bank. -/
def padDist (core : Nat) (sp : Space) (a : Nat) : Nat :=
  match sp with
  | .cm => 4 * quadDist (coreQuad core) (a / crBytes / 4)
  | .ds => 2 * meshDist (coreCluster core % 8) (a / 65536 % 256)
  | _ => 0
/-- The fixed term that follows a request's service. -/
def padFixed : Space → Nat
  | .ln => 3 | .cr => 4 | .cm => 18 | .ds => 60 | .gl => 0

/-- The core scratchpad, or the block, that a request for an address goes to. -/
def padTarget (sp : Space) (a : Nat) : Nat :=
  match sp with
  | .cm => a / crBytes
  | .ds => a / 65536 % 256
  | _ => 0

/-- The banks and the rows of n bytes from a key: banks of 8 bytes, blocks of 32-byte rows; lane memory has none. -/
def bankRows (sp : Space) (key n : Nat) : List (Nat × Nat) :=
  match sp with
  | .ln => []
  | .gl => []
  | .ds => (List.range ((key % 32 + n + 31) / 32)).map (fun i => (2 ^ 40 + key / 65536, key / 32 + i))
  | _ => (List.range ((key % 8 + n + 7) / 8)).map (fun i => (key / crBytes * 32 + (key / 8 + i) % 32, key / 8 + i))

/-- A row of a bank in this cycle: `on`, served, or else asked for and still to be served; for the instruction or operation `owner`, and for its operand `part`. -/
structure RowUse where
  bank : Nat
  owner : Nat
  part : Nat
  row : Nat
  on : Bool
  deriving DecidableEq, Repr

/-- Whether banks can serve rows in this cycle: a bank serves one row, for one instruction, after those that came earlier; the operands of one beat do not
meet (R158). -/
def rowsFree (t : List RowUse) (owner part : Nat) (rs : List (Nat × Nat)) : Bool :=
  rs.all (fun r => t.all (fun u => u.bank != r.1 || (u.owner == owner && (!u.on || u.part != part || u.row == r.2))))
/-- The rows take their banks; rows that cannot be served yet keep later arrivals out too. -/
def takeRows (t : List RowUse) (owner part : Nat) (on : Bool) (rs : List (Nat × Nat)) : List RowUse :=
  rs.map (fun r => ({ bank := r.1, owner := owner, part := part, row := r.2, on := on } : RowUse)) ++ t

/-- The 16-byte pieces, aligned, of n bytes at an address (R313). -/
def pieceSpans (a n : Nat) : List (Nat × Nat) :=
  (List.range ((a % 16 + n + 15) / 16)).map (fun i =>
    let lo := max a ((a / 16 + i) * 16)
    (lo, min (a + n) ((a / 16 + i + 1) * 16) - lo))

/-- An access of an engine that leaves at a PCC for the bank of an address. -/
def Piece.of (core : Nat) (sp : Space) (leave : BitVec 64) (write : Bool) (a n data : Nat) : Piece :=
  { space := sp, addr := a, width := n, write := write, data := data, arriveAt := leave + BitVec.ofNat 64 (padDist core sp a), servedAt := none }
/-- The reads of n bytes by pieces. -/
def readPieces (core : Nat) (sp : Space) (leave : BitVec 64) (a n : Nat) : List Piece :=
  (pieceSpans a n).map (fun x => Piece.of core sp leave false x.1 x.2 0)
/-- The writes of bytes by pieces. -/
def writePieces (core : Nat) (sp : Space) (leave : BitVec 64) (a : Nat) (bs : List Byte) : List Piece :=
  (pieceSpans a bs.length).map (fun x => Piece.of core sp leave true x.1 x.2 (((bs.drop (x.1 - a)).take x.2).foldr (fun b acc => b.toNat + 256 * acc) 0))
/-- The bytes that pieces hold, in order. -/
def pieceBytes (ps : List Piece) : List Byte := ps.flatMap (fun x => (List.range x.width).map (fun i => BitVec.ofNat 8 (x.data / 256 ^ i)))

/-- The last cycle in which one of some pieces was served; none while one still waits. -/
def piecesServed : List Piece → Option Nat
  | [] => some 0
  | x :: xs => x.servedAt.bind (fun t => (piecesServed xs).map (fun u => max t.toNat u))
/-- Whether every piece has been served and the fixed term, and `more` cycles after it, are over (R447). -/
def State.piecesDone (s : State) (ps : List Piece) (more : Nat) : Bool :=
  match piecesServed ps with
  | none => false
  | some t => ps.isEmpty || decide (t + padFixed ((ps.head?.map (·.space)).getD .cm) + more ≤ s.now)

/-- A bank's service of a piece, if it has a free row for it: the bytes are sampled or written. -/
def State.servePiece (s : State) (core owner part : Nat) (t : List RowUse) (x : Piece) : State × List RowUse × Piece :=
  let key := padKey core 0 0 x.space x.addr
  let rs := bankRows x.space key x.width
  let on := rowsFree t owner part rs
  let u := takeRows t owner part on rs
  if !on then (s, u, x)
  else if x.write then (s.padWrite x.space key x.width x.data, u, { x with servedAt := some s.pcc })
  else (s, u, { x with servedAt := some s.pcc, data := s.padRead x.space key x.width })

/-- Whether a piece arrived at a PCC and waits. -/
def Piece.waits (x : Piece) (arr : Nat) : Bool := x.servedAt.isNone && x.arriveAt.toNat == arr

/-- The pieces of an operation that arrived in one cycle, in order. -/
def State.servePieces (s : State) (core owner arr : Nat) (t : List RowUse) : List Piece → State × List RowUse × List Piece
  | [] => (s, t, [])
  | x :: xs =>
    let (s, t, y) := if x.waits arr then s.servePiece core owner 0 t x else (s, t, x)
    let (s, t, ys) := s.servePieces core owner arr t xs
    (s, t, y :: ys)

/-! Traps (R187 to R190). -/

/-- The PC of word i of a run. -/
def wordPc (pc : Pc) (i : Nat) : Pc := pc + BitVec.ofNat 48 (12 * i)

/-- The first step of taking a trap (R187): the run stops at the trapping word; what follows waits in `trap`. The entry's lanes, the lanes
that failed and the record's details are kept. -/
def trapOf (r : Run) (c : Cause) (lanes : Lanes) (d0 d1 d2 : Dword) : Trap :=
  { cause := c, deferred := false, ofs := r.idx, wpc := wordPc r.pc r.idx, mask := r.mask, lanes := lanes, detail0 := d0, detail1 := d1,
    detail2 := d2, req := none }

/-- A precise trap of the run on the primary port. -/
def State.trapRun (s : State) (gid : Nat) (r : Run) (c : Cause) (lanes : Lanes) (d0 d1 d2 : Dword) : State :=
  s.modGrp gid (fun g => { g with trap := some (trapOf r c lanes d0 d1 d2), run := none })

/-- The lowest lane of a mask. -/
def lowLane (m : Lanes) : Nat := (lanesOf m).headD 64
/-- One more deferred trap: one of the same word and cause takes its lanes in, and the address of the lowest of them (Table 6-5). -/
def addTrap (t : Trap) : List Trap → List Trap
  | [] => [t]
  | x :: xs =>
    if x.cause == t.cause && x.wpc == t.wpc then
      { x with lanes := x.lanes ||| t.lanes, detail0 := if lowLane t.lanes < lowLane x.lanes then t.detail0 else x.detail0 } :: xs
    else x :: addTrap t xs

/-- A trap with no details, failing in every lane of the run. -/
def State.trapPlain (s : State) (gid : Nat) (r : Run) (c : Cause) : State := s.trapRun gid r c r.mask 0 0 0

/-- The trap record of Table 6-5, as bytes. -/
def le (n v : Nat) : List Byte := (List.range n).map (fun i => BitVec.ofNat 8 (v / 256 ^ i))
def trapRecord (g : Group) (t : Trap) (stamp : BitVec 64) : List Byte :=
  le 8 (t.cause.code.toNat + (if t.deferred then 256 else 0) + t.ofs * 2 ^ 16 + g.launch * 2 ^ 32 + g.index * 2 ^ 48) ++
  le 8 g.block ++ le 8 t.wpc.toNat ++ le 8 (wordPc t.wpc 0 - BitVec.ofNat 48 (12 * t.ofs)).toNat ++ le 8 t.lanes.toNat ++
  le 8 stamp.toNat ++ le 8 t.detail0.toNat ++ le 8 t.detail1.toNat ++ le 8 t.detail2.toNat ++ List.replicate 56 0

/-- TCAUSE, TPC, TLMASK (Table 6-9). -/
def setTrapCsrs (g : Group) (t : Trap) : Group :=
  { g with
    tcause := BitVec.ofNat 32 (t.cause.code.toNat + (if t.deferred then 256 else 0) + t.ofs * 2 ^ 16), tpc := t.wpc, tlmask := t.lanes }

/-- The lanes that an entry's barrier phases hold (R182). -/
def heldLanes (h : List (Nat × Lanes)) : Lanes := h.foldl (fun m p => m ||| p.2) 0
/-- The hold bit. -/
def Entry.isHeld (e : Entry) : Bool := !e.held.isEmpty
/-- The holds of some of an entry's lanes. -/
def holdsOf (m : Lanes) (h : List (Nat × Lanes)) : List (Nat × Lanes) := (h.map (fun p => (p.1, p.2 &&& m))).filter (fun p => p.2 != 0)

/-- R160, R161: entries in ascending order of PC; among entries at one PC the one that is neither held nor frozen stands first. Entries
with equal PC, hold bit and frozen state merge: the larger age, the smaller yield count. -/
def sameEntry (a b : Entry) : Bool := a.pc == b.pc && a.isHeld == b.isHeld && a.frozen == b.frozen
def minYield : Option (BitVec 64) → Option (BitVec 64) → Option (BitVec 64)
  | some a, some b => some (if a.toNat ≤ b.toNat then a else b)
  | _, _ => none
def mergeEntry (a b : Entry) : Entry :=
  { pc := a.pc, mask := a.mask ||| b.mask, age := max a.age b.age, yield := minYield a.yield b.yield, held := a.held ++ b.held
    noAge := a.noAge && b.noAge, frozen := a.frozen, fresh := a.fresh || b.fresh }
def entryBefore (a b : Entry) : Bool :=
  decide (a.pc.toNat < b.pc.toNat) || (a.pc == b.pc && !a.isHeld && !a.frozen)
def insertEntry (e : Entry) : List Entry → List Entry
  | [] => [e]
  | x :: xs =>
    if sameEntry e x then mergeEntry x e :: xs
    else if entryBefore e x && !(x.pc == e.pc && !x.isHeld && !x.frozen) then
      if xs.any (sameEntry e) then x :: insertEntry e xs else e :: x :: xs
    else x :: insertEntry e xs
/-- A table from entries in any order; entries with no lane drop out. -/
def formTable (es : List Entry) : List Entry := (es.filter (fun e => e.mask != 0)).foldl (fun t e => insertEntry e t) []

/-- The lanes of a mask taken out of every entry. -/
def dropLanes (m : Lanes) (es : List Entry) : List Entry := es.map (fun e => { e with mask := e.mask &&& ~~~m, held := holdsOf (~~~m) e.held })

/-- Entering handler mode (R187): the trapping entry's lanes form one entry at the handler, every other entry is frozen. -/
def enterHandler (g : Group) (t : Trap) (handler : Pc) (now : BitVec 64) : Group :=
  let rest := (dropLanes t.mask g.pcs).map (fun e => { e with frozen := true })
  { g with
    handler := true, trap := none, stallFrom := now
    pcs := formTable ({ pc := handler, mask := t.mask, age := 0, yield := none, held := [], noAge := false, frozen := false, fresh := false } :: rest) }

/-- Leaving handler mode (R189): every frozen entry thaws, and entries that now agree merge. `fresh` marks the first run after TRET. -/
def leaveHandler (g : Group) (now : BitVec 64) : Group :=
  { g with
    handler := false, stallFrom := now
    pcs := formTable (g.pcs.map (fun e => { e with frozen := false })) }

/-! Executing one word of a group (R48, R53). -/

def Group.runOn (g : Group) (second : Bool) : Option Run := if second then g.run2 else g.run
def Group.setRun (g : Group) (second : Bool) (r : Option Run) : Group :=
  if second then { g with run2 := r } else { g with run := r }

/-- The guard of a word (R48). -/
def guardTrue (h : Hdr) (g : Group) : Bool := xor h.neg (g.regs.kreg h.k.toNat)

/-- The issue moves on by n words. -/
def bumpRun (n : Nat) (r : Run) : Run := { r with idx := r.idx + n }
def State.advance (s : State) (gid : Nat) (second : Bool) (n : Nat) : State :=
  s.modGrp gid (fun g => g.setRun second ((g.runOn second).map (bumpRun n)))

def csrPriv : Opnd → Bool
  | .sp n => decide (128 ≤ n.toNat)
  | _ => false

/-- R68: the words that execute only in a privileged context. -/
def privBody (b : Body) : Bool :=
  (decide (0x300 ≤ b.opc) && decide (b.opc ≤ 0x37F)) ||
  match b with
  | .ctl o w => (o == 0x193 && csrPriv w.a) || (o == 0x194 && csrPriv w.d)
  | _ => false

/-- One word of a group's run. A privileged word in an unprivileged context traps PRIV (R68); a word whose fields its row does not accept traps ILLOP (R41); a false guard makes it a no-op
(R48); otherwise it has its effect. The run moves on unless the effect stopped it (a trap, or a wait inside the run). -/
def groupWord (b : Body) (n : Nat) (s : State) (eff : Nat → Bool → Group → Run → State → State) : Out :=
  match s.issuer with
  | .group gid second =>
    match s.grp gid with
    | none => .fault .noIssuer
    | some g =>
      match g.runOn second with
      | none => .fault .noIssuer
      | some r =>
        if privBody b && !g.priv then .next (s.trapPlain gid r .priv)
        else if b.good then
          if guardTrue b.hdr g then
            let s' := eff gid second g r s
            match s'.grp gid with
            | none => .next s'
            | some g' => match g'.runOn second with
                | none => .next s'
                | some r' => if r'.wait = .none then .next (s'.advance gid second n) else .next s'
          else .next (s.advance gid second n)
        else .next (s.trapPlain gid r .illop)
  | _ => .fault .noIssuer

/-- A word that changes only its own group: the group, the run and the state give the new group. -/
def groupOnly (b : Body) (n : Nat) (s : State) (f : Group → Run → State → Group) : Out :=
  groupWord b n s (fun gid _ g r s => s.setGrp gid (f g r s))

/-- Change the run a word belongs to. -/
def State.modRun (s : State) (gid : Nat) (second : Bool) (f : Run → Run) : State :=
  s.modGrp gid (fun g => g.setRun second ((g.runOn second).map f))

end Sys2Proof.Machine
end

