-- ==== Sys2Proof/Machine/Sink.lean ====
section
/-! DEFINITION. The trace sink (R421, R422), host memory as the device writes it, and breakpoints (R419, R420). -/

namespace Sys2Proof.Machine

/-! Host memory (R424): the device's writes stand in `mems.host`; a read of host memory gives free bytes, since the host may write them at any time. -/

/-- The device writes bytes to host memory. -/
def hostPut (m : FMap Byte) (a : Nat) : List Byte → FMap Byte
  | [] => m
  | b :: bs => hostPut (FMap.set m a b) (a + 1) bs
def State.hostWrite (s : State) (a : Nat) (bs : List Byte) : State := s.setMems { s.mems with host := hostPut s.mems.host a bs }

/-- The device reads n bytes of host memory. -/
def State.hostRead (s : State) (a n : Nat) : List Byte × State :=
  ((List.range n).map (fun i => Config.hostByte s.free (a + i)), { s with free := s.free + 1 })

/-! Records (Table 18-4). -/

/-- A record of a type, made now on a die: its header, then its body, zero to its length. -/
def traceRec (typ die len : Nat) (stamp : BitVec 64) (body : List Byte) : List Byte :=
  let h := le 8 (typ + 256 * die + 65536 * (len / 64)) ++ le 8 stamp.toNat ++ body
  h ++ List.replicate (len - h.length) 0

/-- Where a record of a length goes in the ring and the pad before it; none where it does not fit (R421). -/
def sinkPlace (t : Trace) (len : Nat) : Option (Nat × Nat) :=
  let size := 2 ^ t.size.toNat
  let off := t.head.toNat % size
  let pad := if off + len > size then size - off else 0
  if t.head.toNat + pad + len ≤ size + t.tail.toNat then some (off, pad) else none

/-- Write one record whole at the head, after a pad record where it would cross the end of the ring. -/
def State.sinkPut (s : State) (die len : Nat) (bs : List Byte) : Option State :=
  match sinkPlace s.trace len with
  | none => none
  | some (off, pad) =>
    let base := s.trace.base.toNat * 4096
    let s := if pad = 0 then s else s.hostWrite (base + off) (traceRec 4 die pad s.pcc (le 8 0))
    let s := s.hostWrite (base + (off + pad) % 2 ^ s.trace.size.toNat) bs
    some { s with trace := { s.trace with head := s.trace.head + BitVec.ofNat 64 (pad + len) } }

/-- The lost marker, once room appears after a loss (R421). -/
def State.lostMarker (s : State) (die : Nat) : State :=
  if s.trace.lostSeen then
    match s.sinkPut die 64 (traceRec 4 die 64 s.pcc (le 8 s.trace.recs.toNat)) with
    | none => s
    | some s => { s with trace := { s.trace with lostSeen := false } }
  else s

/-- A record that is lost where it does not fit (types 1 and 3). -/
def State.sinkOrLose (s : State) (typ die len : Nat) (body : List Byte) : State :=
  let s := s.lostMarker die
  let lost : State := { s with trace := { s.trace with recs := s.trace.recs + 1, lostSeen := true } }
  if s.trace.lostSeen then lost
  else match s.sinkPut die len (traceRec typ die len s.pcc body) with
    | none => lost
    | some s => s

/-- A record that stays where it does not fit (type 2). -/
def State.sinkOrKeep (s : State) (typ die len : Nat) (body : List Byte) : Option State :=
  let s := s.lostMarker die
  if s.trace.lostSeen then none else s.sinkPut die len (traceRec typ die len s.pcc body)

/-! Breakpoints (R419). -/

/-- Whether breakpoint n matches a run of a launch at a PC (Table 18-5). -/
def Trace.matches (t : Trace) (n launch : Nat) (pc : Pc) : Bool :=
  let b := t.bp.getD 0 n
  let k := t.bpsel.getD 0 n
  b.getLsbD 63 && (k.getLsbD 16 || (k.extractLsb' 0 16).toNat == launch) && (k.getLsbD 17 || b.extractLsb' 0 48 == pc)

/-- The breakpoint that stops a group's run at a PC, if any (R419, R420). -/
def State.breakAt (s : State) (g : Group) (pc : Pc) (fresh : Bool) : Option Nat :=
  let ben := ((s.ctx? g.ctx).map (·.ben)).getD false
  if ben && !g.handler && !fresh then (List.range 4).find? (fun n => s.trace.matches n g.launch pc) else none

/-- The record of a stop (Table 18-3, type 3). -/
def stopBody (g : Group) (bp : Nat) (pc : Pc) (lane : Nat) : List Byte :=
  le 8 (g.launch + g.index * 2 ^ 16 + bp * 2 ^ 32) ++ le 8 g.block ++ le 8 pc.toNat ++ le 8 (64 * g.index + lane)

end Sys2Proof.Machine
end

