-- ==== Sys2Proof/Machine/Gl.lean ====
section
/-! DEFINITION. Log memory: lines, records and their formats, the index and its homes, log space, the write-combining buffer and the open
batch, the caches of a cluster, translation, self-invalidation (R193 to R209, R215, R220, R233, R363 to R365). -/

namespace Sys2Proof.Machine

/-! Lines and sectors (R193). -/

def Line.byte (d : Line) (i : Nat) : Byte := d.extractLsb' (8 * i) 8
def Line.sector (d : Line) (j : Nat) : BitVec 256 := d.extractLsb' (256 * j) 256
/-- n bytes of a line from offset o, little-endian. -/
def Line.field (d : Line) (o n : Nat) : Nat := d.toNat / 2 ^ (8 * o) % 2 ^ (8 * n)
def bytesOfNat (n v : Nat) : List Byte := le n v
def natOfBytes (bs : List Byte) : Nat := bs.foldr (fun b acc => b.toNat + 256 * acc) 0
def Line.ofBytes (bs : List Byte) : Line := BitVec.ofNat 2048 (natOfBytes bs)
def Line.bytes (d : Line) : List Byte := le 256 d.toNat

/-- The bits of the bytes of a mask. -/
def byteBits (m : LineMask) : Line :=
  BitVec.ofNat 2048 ((List.range 256).foldr (fun i acc => (if m.getLsbD i then 255 else 0) + 256 * acc) 0)
/-- The bytes of `new` where the mask is set, of `old` elsewhere. -/
def mergeLine (m : LineMask) (new old : Line) : Line := (new &&& byteBits m) ||| (old &&& ~~~(byteBits m))
/-- The mask of n bytes from offset o. -/
def maskBytes (o n : Nat) : LineMask := BitVec.ofNat 256 ((2 ^ n - 1) * 2 ^ o)
def fullMask : LineMask := BitVec.allOnes 256
/-- Sectors of which the mask holds some byte, and of which it holds every byte. -/
def someSectors (m : LineMask) : BitVec 8 :=
  BitVec.ofNat 8 ((List.range 8).foldr (fun j acc => (if m.extractLsb' (32 * j) 32 != 0 then 1 else 0) + 2 * acc) 0)
def fullSectors (m : LineMask) : BitVec 8 :=
  BitVec.ofNat 8 ((List.range 8).foldr (fun j acc => (if m.extractLsb' (32 * j) 32 == BitVec.allOnes 32 then 1 else 0) + 2 * acc) 0)
/-- The byte mask of a sector mask. -/
def sectorBytes (m : BitVec 8) : LineMask :=
  BitVec.ofNat 256 ((List.range 8).foldr (fun j acc => (if m.getLsbD j then 2 ^ 32 - 1 else 0) + 2 ^ 32 * acc) 0)
def sectorList (m : BitVec 8) : List Nat := (List.range 8).filter (fun j => m.getLsbD j)

/-! Line formats (R197). -/

def lineWord (d : Line) (k : Nat) : BitVec 32 := d.extractLsb' (32 * k) 32
def lineDelta (d : Line) (k : Nat) : Int := (lineWord d k - lineWord d 0).toInt
def deltasFit (d : Line) (lo hi : Int) : Bool :=
  (List.range 64).all (fun k => decide (lo ≤ lineDelta d k) && decide (lineDelta d k ≤ hi))
/-- The distinct upper bytes of the 16-bit elements, in order of first appearance. -/
def expKeys (d : Line) : List Nat :=
  (List.range 128).foldl (fun ks i => let u := (d.extractLsb' (16 * i + 8) 8).toNat; if u ∈ ks then ks else ks ++ [u]) []
/-- Bytes as sectors of 32, zero to the end. -/
def sectorsOf (n : Nat) (bs : List Byte) : List (BitVec 256) :=
  (List.range n).map (fun j => BitVec.ofNat 256 (natOfBytes ((bs.drop (32 * j)).take 32)))
def low8 (z : Int) : Byte := BitVec.ofInt 8 z

/-- The format and payload of a whole line: the first format whose test it passes (R197). -/
def packLine (d : Line) : BitVec 4 × List (BitVec 256) :=
  let w0 := le 4 (lineWord d 0).toNat
  let ks := expKeys d
  if d = 0 then (5, [])
  else if deltasFit d (-128) 127 then
    (2, sectorsOf 3 (w0 ++ (List.range 63).map (fun k => low8 (lineDelta d (k + 1)))))
  else if deltasFit d (-32768) 32767 then
    (3, sectorsOf 5 (w0 ++ (List.range 63).flatMap (fun k => le 2 ((lineDelta d (k + 1)) % 65536).toNat)))
  else if ks.length ≤ 4 then
    let idx (i : Nat) : Nat := ks.findIdx (fun u => u == (d.extractLsb' (16 * i + 8) 8).toNat)
    (4, sectorsOf 6 ((List.range 4).map (fun i => BitVec.ofNat 8 (ks.getD i 0)) ++
      (List.range 32).map (fun b => BitVec.ofNat 8 (idx (4 * b) + 4 * idx (4 * b + 1) + 16 * idx (4 * b + 2) + 64 * idx (4 * b + 3))) ++
      (List.range 128).map (fun i => d.extractLsb' (16 * i) 8)))
  else (0, (List.range 8).map (Line.sector d))

/-- The payload as bytes. -/
def payBytes (p : List (BitVec 256)) : List Byte := p.flatMap (fun x => le 32 x.toNat)

/-- The line of a whole-line record (Table 7-3). -/
def expandLine (fmt : BitVec 4) (p : List (BitVec 256)) : Line :=
  let bs := payBytes p
  let b (i : Nat) : Nat := (bs.getD i 0).toNat
  let w0 := b 0 + 256 * b 1 + 65536 * b 2 + 16777216 * b 3
  match fmt.toNat with
  | 5 => 0
  | 2 => Line.ofBytes ((List.range 64).flatMap (fun k =>
      le 4 (if k = 0 then w0 else (((w0 : Int) + (BitVec.ofNat 8 (b (3 + k))).toInt) % 2 ^ 32).toNat)))
  | 3 => Line.ofBytes ((List.range 64).flatMap (fun k =>
      le 4 (if k = 0 then w0 else (((w0 : Int) + (BitVec.ofNat 16 (b (2 * k + 2) + 256 * b (2 * k + 3))).toInt) % 2 ^ 32).toNat)))
  | 4 => Line.ofBytes ((List.range 128).flatMap (fun i =>
      [BitVec.ofNat 8 (b (36 + i)), BitVec.ofNat 8 (b (b (4 + i / 4) / 4 ^ (i % 4) % 4))]))
  | _ => Line.ofBytes bs

/-! Records and entries (R195, R201, R202, R215). -/

def fmtFrag : BitVec 4 := 1

/-- Sector j of a record that carries it. -/
def Rec.sector (r : Rec) (j : Nat) : BitVec 256 :=
  if r.fmt = fmtFrag then r.payload.getD (((List.range j).filter (fun i => r.smask.getLsbD i)).length) 0
  else Line.sector (expandLine r.fmt r.payload) j

def IxEntry.empty : IxEntry :=
  { f0pos := 0, f0msk := 0, f1pos := 0, f1msk := 0, fmt := 0, z := false, tier := false, ownr := false, prep := false }

/-- read_sector (R202). -/
def readSector (recs : FMap Rec) (e : IxEntry) (j : Nat) : BitVec 256 :=
  if e.z then 0
  else
    let at_ (p : BitVec 44) : BitVec 256 := match recs.get? p.toNat with
      | some r => r.sector j
      | none => 0
    if e.f1msk.getLsbD j then at_ e.f1pos else if e.f0msk.getLsbD j then at_ e.f0pos else 0

/-- The whole line an entry names. -/
def readEntry (recs : FMap Rec) (e : IxEntry) : Line :=
  BitVec.ofNat 2048 ((List.range 8).foldr (fun j acc => (readSector recs e j).toNat + 2 ^ 256 * acc) 0)

/-- The tier bit of a position (Table 7-1). -/
def posTier (p : BitVec 44) : Bool := p.getLsbD 37

/-- commit_line (R215). With Z both masks are zero, as Table 7-6 has them; the F0MSK 0xFF that R215 writes for every whole-line record is read as that of the
other formats (log entry 61). -/
def commitEntry (e : IxEntry) (p : BitVec 44) (m : BitVec 8) (fmt : BitVec 4) : IxEntry :=
  if m = 0xFF then
    { f0pos := p, f0msk := if fmt = 5 then 0 else 0xFF, f1pos := 0, f1msk := 0, fmt := fmt, z := fmt == 5, tier := posTier p,
      ownr := false, prep := e.prep }
  else
    let e0m := e.f0msk &&& ~~~m
    let e1m := e.f1msk &&& ~~~m
    if e0m = 0 ∧ e1m = 0 then
      { f0pos := p, f0msk := m, f1pos := 0, f1msk := 0, fmt := fmtFrag, z := false, tier := posTier p, ownr := false, prep := e.prep }
    else if e0m = 0 then
      { f0pos := e.f1pos, f0msk := e1m, f1pos := p, f1msk := m, fmt := fmtFrag, z := false, tier := posTier p, ownr := false, prep := e.prep }
    else
      { f0pos := e.f0pos, f0msk := e0m, f1pos := p, f1msk := m, fmt := e.fmt, z := false, tier := posTier p, ownr := false, prep := e.prep }

/-- A commit of mask m would need a third fragment: two fragments both keep sectors outside m (R215). -/
def needsImage (e : IxEntry) (m : BitVec 8) : Bool :=
  m != 0xFF && (e.f0msk &&& ~~~m) != 0 && (e.f1msk &&& ~~~m) != 0

/-! The homes (R203, R363). -/

def State.homeEntry (s : State) (lk : Nat) : IxEntry :=
  match s.store.leaves.get? (leafOfLine lk) with
  | some lf => lf.ents.getD IxEntry.empty (lk % 16)
  | none => IxEntry.empty

def State.setHomeEntry (s : State) (lk : Nat) (e : IxEntry) : State :=
  let lf := s.store.leaves.getD { ents := [], dirty := false } (leafOfLine lk)
  s.setStore { s.store with
    leaves := s.store.leaves.set (leafOfLine lk) { ents := lf.ents.put IxEntry.empty (lk % 16) e, dirty := true } }

/-- The committed bytes of a line at its home. -/
def State.homeLine (s : State) (lk : Nat) : Line := readEntry s.store.recs (s.homeEntry lk)

def State.pageHdr (s : State) (pk : Nat) : Option PageHdr :=
  match s.store.pages.get? pk with
  | some h => if h.valid then some h else none
  | none => none

/-- An access served at a home counts at the page (R379). -/
def satInc (x : BitVec 32) : BitVec 32 := if x = BitVec.allOnes 32 then x else x + 1
def State.countLocal (s : State) (pk : Nat) : State :=
  s.setStore { s.store with pages := s.store.pages.modify pk (fun h => { h with lcnt := satInc h.lcnt }) }
/-- A page that peers use more than this module is reported, once per epoch, as a candidate for a transfer (R379). -/
def State.tellTransfer (s : State) (pk : Nat) : State :=
  match s.store.pages.get? pk with
  | none => s
  | some h =>
    let e : Report := .transfer pk (s.now / 2 ^ s.sys.epochLog.toNat)
    if decide (s.sys.rthr.toNat ≤ h.rcnt.toNat) && decide (h.lcnt.toNat * 2 ^ s.sys.rsh.toNat < h.rcnt.toNat) && !decide (e ∈ s.sys.reports) then
      { s with sys := { s.sys with reports := s.sys.reports ++ [e] } }
    else s
def State.countRemote (s : State) (pk : Nat) : State :=
  (s.setStore { s.store with pages := s.store.pages.modify pk (fun h => { h with rcnt := satInc h.rcnt }) }).tellTransfer pk

/-! Log space (R193, R233). -/

/-- Record units of a segment: the first 4,032 KiB. -/
def segUnits : Nat := 129024
/-- A segment's first position; the segment of a position. -/
def segPos (seg : Nat) : Nat := seg * 2 ^ 17
def posSeg (p : Nat) : Nat := p / 2 ^ 17
/-- The stack that gave a fast segment. -/
def segStack (seg : Nat) : Nat := seg / 16384
/-- A segment of a capacity controller (Table 7-1). -/
def segIsCap (seg : Nat) : Bool := decide (2 ^ 20 ≤ seg)

def Log.reset : Log := { seg := none, pubid := 0, pub := none, queue := [], promised := 0, spare := 0, told := false }
def State.log (s : State) (n : Nat) : Log := s.store.logs.getD Log.reset n
def State.setLog (s : State) (n : Nat) (l : Log) : State := s.setStore { s.store with logs := s.store.logs.put Log.reset n l }
def State.modLog (s : State) (n : Nat) (f : Log → Log) : State := s.setLog n (f (s.log n))

/-- Whether a capacity segment lies in the checkpoint store, which no log is given (R411): its headers' 64 MiB and one unit's payload for each unit. -/
def State.inStore (s : State) (seg : Nat) : Bool :=
  let c := s.ckpt
  decide (0 < c.units.toNat) && inRange (seg - 2 ^ 20) 1 (16 * c.base.toNat) (16 * (c.units.toNat + 1))

/-- The first segment, from a free choice, that no log holds and `skip` does not keep back. Table frames take the first 32 of a stack's 16,384 (R233), so position 0 holds no record. -/
def findSeg (segs : FMap Seg) (skip : Nat → Bool) (base count : Nat) : Nat → Nat → Option Nat
  | 0, _ => none
  | fuel + 1, i =>
    let k := base + i % count
    match segs.get? k with
    | none => if skip k then findSeg segs skip base count fuel (i + 1) else some k
    | some _ => findSeg segs skip base count fuel (i + 1)

def Seg.new (log : Nat) (pubid : BitVec 32) : Seg :=
  { logid := log, used := 0, isSealed := false, sealedAt := 0, lowPub := pubid, highPub := pubid, digest := 0, commits := [], shipped := [], acked := [] }

/-- The header sector of a record (Table 7-2). -/
def Rec.header (r : Rec) : BitVec 256 :=
  let bm (i : Nat) : Nat := (r.bms.getD i 0).toNat
  BitVec.ofNat 256 (r.line.toNat + r.ctx % 2 ^ 16 * 2 ^ 40 + r.kind.toNat * 2 ^ 56 + r.fmt.toNat * 2 ^ 58 + r.smask.toNat * 2 ^ 64 + r.pmask.toNat * 2 ^ 72 +
    r.payload.length * 2 ^ 80 + r.logid.toNat * 2 ^ 84 + r.pubid.toNat * 2 ^ 96 + bm 0 * 2 ^ 128 + bm 1 * 2 ^ 160 + bm 2 * 2 ^ 192 + bm 3 * 2 ^ 224)
/-- The record area of a segment (R193, Table 14-1): its records in order, zero to its end. -/
def recArea (rs : List (Nat × Rec)) : List Byte :=
  let bs := rs.flatMap (fun p => payBytes (p.2.header :: p.2.payload))
  bs ++ List.replicate (32 * segUnits - bs.length) 0
def segRecs (recs : FMap Rec) (seg : Nat) : List (Nat × Rec) := recs.filter (fun p => posSeg p.1 == seg)

/-- Seal a log's open segment (R193); its trailer takes the PCC and the digest of its records (Table 14-1). -/
def State.sealLog (s : State) (log : Nat) : State :=
  match (s.log log).seg with
  | none => s
  | some k =>
    (s.setStore { s.store with segs := s.store.segs.modify k (fun g =>
      { g with isSealed := true, sealedAt := s.pcc, digest := Config.sha512 (recArea (segRecs s.store.recs k)) }) }).modLog log
      (fun l => { l with seg := none })

/-- A log takes a new segment: a fast one from its stack's free pool (R233), or one of a capacity controller (R375). `useRsv` lets the
cleaner take from the reserve. -/
def State.takeSeg (s : State) (log : Nat) (useRsv : Bool) : Option State :=
  let st := logStack log
  let k := s.stack st
  if useRsv && k.rsv = 0 then none
  else if !useRsv && k.pool = 0 then none
  else
    match findSeg s.store.segs (fun _ => false) (st * 16384 + 32) 16352 16352 (Config.segPick s.free) with
    | none => none
    | some seg =>
      let s := (s.modStack st (fun k => if useRsv then { k with rsv := k.rsv - 1 } else { k with pool := k.pool - 1 })).newFree.2
      some ((s.setStore { s.store with segs := s.store.segs.set seg (Seg.new log ((s.log log).pubid + 1)) }).modLog log
        (fun l => { l with seg := some seg }))

/-- A segment of a capacity controller for migration and demotion logs. -/
def State.takeCapSeg (s : State) (log die : Nat) : Option State :=
  match findSeg s.store.segs s.inStore (2 ^ 20 + die * 2 ^ 15) (2 ^ 15) (2 ^ 15) (Config.segPick s.free) with
  | none => none
  | some seg =>
    some (((s.newFree.2).setStore { s.store with segs := s.store.segs.set seg (Seg.new log ((s.log log).pubid + 1)) }).modLog log
      (fun l => { l with seg := some seg }))

/-- The units of a log's open segment that its publication in flight has reserved (R216). -/
def State.heldUnits (s : State) (log : Nat) : Nat :=
  match (s.log log).pub with
  | none => 0
  | some p => match s.store.pubs.get? p with
    | some q => q.runits
    | none => 0

/-- The free units of a log's open segment. -/
def State.freeUnits (s : State) (log : Nat) : Nat :=
  match (s.log log).seg with
  | none => 0
  | some k => match s.store.segs.get? k with
    | none => 0
    | some g => segUnits - g.used

/-- The units of the open segment that an ordinary record must leave: those reserved, and those promised to atomics that no spare segment covers. -/
def State.keepUnits (s : State) (log : Nat) : Nat :=
  s.heldUnits log + ((s.log log).promised - (s.log log).spare * (segUnits - 9))

/-- Promise n units to an accepted atomic (R134): from the open segment, or from a spare one that the stack's pool gives. None where there is no room. -/
def State.promise (s : State) (log n : Nat) : Option State :=
  let l := s.log log
  let s1 := s.modLog log (fun l => { l with promised := l.promised + n })
  if n = 0 then some s
  else if l.promised + n + s.heldUnits log ≤ s.freeUnits log + l.spare * (segUnits - 9) then some s1
  else if (s.stack (logStack log)).pool = 0 then none
  else some ((s1.modStack (logStack log) (fun k => { k with pool := k.pool - 1 })).modLog log (fun l => { l with spare := l.spare + 1 }))

/-- n promised units are no longer needed; a spare segment that covers nothing goes back to the pool. -/
def State.unpromise (s : State) (log n : Nat) : State :=
  let s := s.modLog log (fun l => { l with promised := l.promised - n })
  let l := s.log log
  if 0 < l.spare ∧ l.promised + s.heldUnits log ≤ s.freeUnits log + (l.spare - 1) * (segUnits - 9) then
    (s.modStack (logStack log) (fun k => { k with pool := k.pool + 1 })).modLog log (fun l => { l with spare := l.spare - 1 })
  else s

/-- The smaller and the larger of two PUBIDs. -/
def minId (a b : BitVec 32) : BitVec 32 := if a.toNat ≤ b.toNat then a else b
def maxId (a b : BitVec 32) : BitVec 32 := if a.toNat ≤ b.toNat then b else a

/-- Append a record to the open segment of a log, if it fits there and leaves `keep` units. The trailer's lowest and highest PUBID follow (R349). -/
def State.appendHere (s : State) (log : Nat) (r : Rec) (keep : Nat) : Option (State × Nat) :=
  match (s.log log).seg with
  | none => none
  | some k =>
    match s.store.segs.get? k with
    | none => none
    | some g =>
      let n := 1 + r.payload.length
      if g.used + n + keep ≤ segUnits then
        let p := segPos k + g.used
        some (s.setStore { s.store with
          recs := s.store.recs.set p r, segs := s.store.segs.set k { g with
            used := g.used + n, lowPub := if g.used = 0 then r.pubid else minId g.lowPub r.pubid
            highPub := if g.used = 0 then r.pubid else maxId g.highPub r.pubid } }, p)
      else none

/-- Append a record to a log; a segment it does not fit is sealed and a new one taken (R193). None where the pool is empty (R234). -/
def State.append (s : State) (log : Nat) (r : Rec) : Option (State × Nat) :=
  match s.appendHere log r (s.keepUnits log) with
  | some x => some x
  | none =>
    match (s.sealLog log).takeSeg log false with
    | some s => s.appendHere log r (s.keepUnits log)
    | none => none

/-- Append a record for which space has been promised: in the open segment, or in a spare one. -/
def State.appendPromised (s : State) (log : Nat) (r : Rec) : Option (State × Nat) :=
  match s.appendHere log r (s.heldUnits log) with
  | some x => some x
  | none =>
    if (s.log log).spare = 0 then s.append log r
    else
      let s := (s.modLog log (fun l => { l with spare := l.spare - 1 })).modStack (logStack log) (fun k => { k with pool := k.pool + 1 })
      match (s.sealLog log).takeSeg log false with
      | some s => s.appendHere log r (s.heldUnits log)
      | none => none

/-- The record units a log can still append without waiting. -/
def State.logRoom (s : State) (log : Nat) : Nat :=
  (s.freeUnits log - s.keepUnits log) + (s.stack (logStack log)).pool * segUnits

/-! Records that leave a buffer (R195, R207). -/

def mkRec (s : State) (log ctx line : Nat) (kind : BitVec 2) (fmt : BitVec 4) (smask pmask : BitVec 8) (bms : List (BitVec 32))
    (payload : List (BitVec 256)) : Rec :=
  { ctx := ctx, line := BitVec.ofNat 40 line, kind := kind, fmt := fmt, smask := smask, pmask := pmask, logid := BitVec.ofNat 9 log,
    pubid := (s.log log).pubid + (if (s.log log).pub.isSome then 2 else 1), bms := bms, payload := payload }

/-- The FRAG record of the sectors of a mask, with byte masks for those written in part. -/
def fragRec (s : State) (log ctx line : Nat) (kind : BitVec 2) (sectors : BitVec 8) (m : LineMask) (d : Line) : Rec :=
  let part := sectors &&& ~~~(fullSectors m)
  mkRec s log ctx line kind fmtFrag sectors part ((sectorList part).map (fun j => m.extractLsb' (32 * j) 32))
    ((sectorList sectors).map (Line.sector d))

/-- A whole-line record, formatted by R197. -/
def wholeRec (s : State) (log ctx line : Nat) (kind : BitVec 2) (d : Line) : Rec :=
  let p := packLine d
  mkRec s log ctx line kind p.1 0xFF 0 [] p.2

/-- The sectors of a line's first record when more than four are written in part: up to the fourth such sector (R195). -/
def firstSectors (m : LineMask) : BitVec 8 :=
  let some_ := someSectors m
  let full := fullSectors m
  let part (j : Nat) : Nat := ((List.range (j + 1)).filter (fun i => some_.getLsbD i && !full.getLsbD i)).length
  BitVec.ofNat 8 ((List.range 8).foldr (fun j acc => (if some_.getLsbD j && decide (part j ≤ 4) then 1 else 0) + 2 * acc) 0)

/-- The records of bytes m of data d of a line. -/
def lineRecs (s : State) (log ctx line : Nat) (kind : BitVec 2) (m : LineMask) (d : Line) : List Rec :=
  if m = fullMask then [wholeRec s log ctx line kind d]
  else
    let a := firstSectors m
    let b := someSectors m &&& ~~~a
    fragRec s log ctx line kind a m d :: (if b = 0 then [] else [fragRec s log ctx line kind b m d])

/-- Append records in order; none where space runs out. -/
def State.appendAll (s : State) (log : Nat) : List Rec → Option (State × List Nat)
  | [] => some (s, [])
  | r :: rs =>
    match s.append log r with
    | none => none
    | some (s, p) =>
      match s.appendAll log rs with
      | none => none
      | some (s, ps) => some (s, p :: ps)

/-! The buffer and the open batch of a cluster or a host master (R207 to R209, R426). -/

/-- The buffer and the appended lines of a log's writer. -/
def State.bufOf (s : State) (log : Nat) : FMap BufLine :=
  if log < 256 then (s.cl log).buf else match s.hosts.get? (log - 320) with
    | some h => h.buf
    | none => []
def State.appOf (s : State) (log : Nat) : FMap AppLine :=
  if log < 256 then (s.cl log).app else match s.hosts.get? (log - 320) with
    | some h => h.app
    | none => []
def State.setBatch (s : State) (log : Nat) (b : FMap BufLine) (a : FMap AppLine) : State :=
  if log < 256 then s.modCl log (fun c => { c with buf := b, app := a })
  else { s with hosts := s.hosts.modify (log - 320) (fun h => { h with buf := b, app := a }) }

/-- The lines of a log's publication in flight that come from its open batch and have not committed. -/
def State.flightLines (s : State) (log : Nat) : List PLine :=
  match (s.log log).pub with
  | none => []
  | some p => match s.store.pubs.get? p with
    | some q => if q.batch then q.lines.filter (fun x => x.st != .committed) else []
    | none => []
def PLine.key (x : PLine) : Nat := x.ctx * 2 ^ 40 + x.line

/-- The lines of the open batch: written and not yet published (R208). -/
def State.openLines (s : State) (log : Nat) : List Nat :=
  ((s.bufOf log).keys ++ (s.appOf log).keys ++ (s.flightLines log).map PLine.key).dedup

def AppLine.none : AppLine := { mask := 0, data := 0, recs := [] }
def BufLine.none (now : BitVec 64) (win : BitVec 12) (order : Nat) : BufLine := { mask := 0, data := 0, first := now, win := win, order := order }
/-- The window of the lines that a log's writer begins now. -/
def State.winOf (s : State) (log : Nat) : BitVec 12 := if log < 256 then (s.cl log).wcwin else s.sys.hwcwin

/-- The bytes written into every L1 of a cluster that holds the line (R209). -/
def patchL1 (lk : Nat) (m : LineMask) (d : Line) (k : Core) : Core :=
  { k with l1 := k.l1.modify lk (fun old => mergeLine m d old) }
def State.patchCores (s : State) (cl : Nat) (f : Core → Core) : State :=
  { s with cores := s.cores.map (fun p => if coreCluster p.1 = cl then (p.1, f p.2) else p) }

/-- A line leaves the buffer (R207): its bytes become records and join the appended lines of the open batch. None where the log has no room. -/
def State.flushLine (s : State) (log lk : Nat) : Option State :=
  match (s.bufOf log).get? lk with
  | none => some s
  | some b =>
    match s.appendAll log (lineRecs s log (keyCtxLine lk) (lk % 2 ^ 40) 0 b.mask b.data) with
    | none => none
    | some (s, ps) =>
      let a := (s.appOf log).getD AppLine.none lk
      let a' : AppLine := { mask := a.mask ||| b.mask, data := mergeLine b.mask b.data a.data, recs := a.recs ++ ps }
      let s := s.setBatch log ((s.bufOf log).erase lk) ((s.appOf log).set lk a')
      some (if log < 256 then s.patchCores log (patchL1 lk b.mask b.data) else s)

/-- The oldest entry of a buffer. -/
def oldestBuf (b : FMap BufLine) : Option Nat :=
  (b.foldl (fun (best : Option (Nat × Nat)) p =>
    match best with
    | none => some (p.2.order, p.1)
    | some (o, _) => if p.2.order < o then some (p.2.order, p.1) else best) none).map (·.2)

/-- A buffer that takes a new line makes room first: the oldest entry leaves (R207). -/
def State.makeRoom (s : State) (log lk limit : Nat) : Option State :=
  let b := s.bufOf log
  match b.get? lk with
  | some _ => some s
  | none =>
    if b.length < limit then some s
    else match oldestBuf b with
      | none => some s
      | some k => s.flushLine log k

/-- Entries of a cluster's buffer (R207) and of a host master's (R426). -/
def bufLimit : Nat := 512
/-- Lines of the open batch (R208). -/
def batchLimit : Nat := 262144

/-- Bytes m of d written to a buffer's line; a line whose 256 bytes are all written leaves at once. -/
def State.bufWrite (s : State) (log lk : Nat) (m : LineMask) (d : Line) : Option State :=
  match s.makeRoom log lk (bufLimit) with
  | none => none
  | some s =>
    let (n, s) := s.newNum
    let b := (s.bufOf log).getD (BufLine.none s.pcc (s.winOf log) n) lk
    let b' : BufLine := { b with mask := b.mask ||| m, data := mergeLine m d b.data }
    let s := s.setBatch log ((s.bufOf log).set lk b') (s.appOf log)
    if b'.mask = fullMask then
      match s.flushLine log lk with
      | some s => some s
      | none => some s
    else some s

/-- A store of bytes at an address, line by line. -/
def State.bufStore (s : State) (log ctx addr n v : Nat) : Option State :=
  let o := addr % 256
  s.bufWrite log (lineKey ctx addr) (maskBytes o n) (BitVec.ofNat 2048 (v % 2 ^ (8 * n) * 2 ^ (8 * o)))

/-- Whether the open batch has room for lines: those that a word would add, beside those that accepted accesses will still add (R208). -/
def State.batchRoom (s : State) (log : Nat) (lks pending : List Nat) : Bool :=
  let now := s.openLines log
  decide (now.length + ((lks ++ pending).dedup.filter (fun k => !decide (k ∈ now))).length ≤ batchLimit)
/-- Whether the buffer can take lines now, or their records can be appended, and the batch has room for them (R134, R208). `pending` are the
lines that accepted accesses will still write. -/
def State.canAccept (s : State) (log : Nat) (lks pending : List Nat) : Bool :=
  let new := (lks ++ pending).dedup.filter (fun k => !((s.bufOf log).get? k).isSome)
  s.batchRoom log lks pending && (decide ((s.bufOf log).length + new.length ≤ bufLimit) || decide (18 * (new.length + 1) ≤ s.logRoom log))

/-! The LIB (R204, R205, R364). -/

def libSet (leaf : Nat) : Nat := (leaf % 128) ^^^ (leafCtx leaf % 128)

/-- Room for a leaf: the least recently used unlocked way of its set leaves when the set is full (R204). -/
def libRoom (lib : FMap LibLeaf) (leaf : Nat) : FMap LibLeaf :=
  let inSet := lib.filter (fun p => libSet p.1 == libSet leaf && p.1 != leaf)
  if inSet.length < 16 then lib
  else
    let lru := inSet.foldl (fun (best : Option (Nat × Nat)) p =>
      if p.2.locks > 0 then best
      else match best with
        | none => some (p.2.used, p.1)
        | some (u, _) => if p.2.used < u then some (p.2.used, p.1) else best) none
    match lru with
    | some (_, k) => lib.erase k
    | none => lib

/-- The entries of a leaf as they stand at its home (R205). -/
def State.homeLeafEnts (s : State) (leaf : Nat) : FMap IxEntry :=
  match s.store.leaves.get? leaf with
  | some lf => lf.ents
  | none => []

/-- A fill of a leaf into a cluster's LIB: its 16 entries and its page's header at one instant (R205, R363). -/
def State.libFillNow (s : State) (cl leaf : Nat) : State :=
  match s.pageHdr (pageOfLeaf leaf) with
  | none => s
  | some h =>
    let (n, s) := s.newNum
    let old := (s.cl cl).lib.get? leaf
    let locks := match old with
      | some l => l.locks
      | none => 0
    (s.modCl cl (fun c => { c with
      lib := (libRoom c.lib leaf).set leaf { ents := s.homeLeafEnts leaf, hdr := h, locks := locks, landed := true, miss := none, used := n } })).countLocal
      (pageOfLeaf leaf)

/-- The walks in progress in a die's walk unit: the leaves of its clusters whose fill has not landed. One walk unit serves 64 at once (R364). -/
def State.walksOf (s : State) (die : Nat) : Nat :=
  ((List.range 8).map (fun i => ((s.cl (8 * die + i)).lib.filter (fun p => !p.2.landed)).length)).sum

/-- The walk of a leaf that is not in the LIB, for an access to the line `lk` (R364): its header is known, its entries are on their way. A further miss waits while
64 walks are in progress. -/
def State.libWalk (s : State) (cl leaf : Nat) (lk : Option Nat) : State :=
  match (s.cl cl).lib.get? leaf, s.pageHdr (pageOfLeaf leaf) with
  | none, some h =>
    if 64 ≤ s.walksOf (clusterDie cl) then s
    else
      let (n, s) := s.newNum
      (s.modCl cl (fun c => { c with
        lib := (libRoom c.lib leaf).set leaf { ents := [], hdr := h, locks := 0, landed := false, miss := lk, used := n } })).tally
        (clusterDie cl) (128 + 4 * (cl % 8) + 3)
  | _, _ => s

/-- Accesses through the LIB's ways make them the most recently used (R204). -/
def State.libTouch (s : State) (cl : Nat) (leaves : List Nat) : State :=
  let (n, s) := s.newNum
  s.modCl cl (fun c => { c with lib := leaves.foldl (fun (l : FMap LibLeaf) k => l.modify k (fun lf => { lf with used := n })) c.lib })

/-- Whether an access to a locked leaf waits for its fill (R367). -/
def State.leafWaits (s : State) (cl leaf : Nat) : Bool :=
  match (s.cl cl).lib.get? leaf with
  | some w => decide (w.locks > 0) && !w.landed
  | none => false

/-! Reading through a cluster (R101, R126, R206, R209). -/

/-- The committed bytes of a line as the cluster sees them without asking the home: through the core's L1, or through a landed LIB entry that
is not PREP and not remote. -/
def State.cachedLine (s : State) (core ctx addr : Nat) : Option Line :=
  let lk := lineKey ctx addr
  match (s.core core).l1.get? lk with
  | some d => some d
  | none =>
    match (s.cl (coreCluster core)).lib.get? (leafOfLine lk) with
    | none => none
    | some lf =>
      let e := lf.ents.getD IxEntry.empty (lk % 16)
      if lf.landed && !e.prep && !e.ownr && !lf.hdr.remote then some (readEntry s.store.recs e) else none

/-- The cluster's own unpublished bytes of a line: the buffer over the appended lines over those being published. -/
def State.ownBytes (s : State) (log lk : Nat) : LineMask × Line :=
  let f : LineMask × Line := match (s.flightLines log).find? (fun x => x.key == lk) with
    | some x => (x.mask, x.data)
    | none => (0, 0)
  let a := (s.appOf log).getD AppLine.none lk
  let b := (s.bufOf log).getD (BufLine.none 0 0 0) lk
  (f.1 ||| a.mask ||| b.mask, mergeLine b.mask b.data (mergeLine a.mask a.data f.2))

/-- n bytes at an address of one line as a load of the core sees them, if no home need be asked. -/
def State.loadBytes (s : State) (core ctx addr n : Nat) : Option Nat :=
  let own := s.ownBytes (coreCluster core) (lineKey ctx addr)
  let need := maskBytes (addr % 256) n
  if need &&& ~~~own.1 = 0 then some (Line.field own.2 (addr % 256) n)
  else match s.cachedLine core ctx addr with
    | none => none
    | some d => some (Line.field (mergeLine own.1 own.2 d) (addr % 256) n)

/-- n bytes of one line as its home holds them, under the cluster's own bytes (R126, R205). -/
def State.loadHome (s : State) (cl ctx addr n : Nat) : Nat :=
  let own := s.ownBytes cl (lineKey ctx addr)
  Line.field (mergeLine own.1 own.2 (s.homeLine (lineKey ctx addr))) (addr % 256) n

/-- An L1 takes a line (NRM pages only, R106). -/
def State.l1Fill (s : State) (core ctx addr : Nat) (d : Line) : State :=
  s.modCore core (fun k => { k with l1 := k.l1.set (lineKey ctx addr) d })

/-! Self-invalidation (R220, R231). -/

/-- Whether a leaf holds a line of the open batch. -/
def State.leafOwned (s : State) (log leaf : Nat) : Bool := (s.openLines log).any (fun lk => leafOfLine lk == leaf)

/-- A locked way takes its home's entries and header as they stand; on a page that is no longer mapped its header is not VALID and its entries are gone. -/
def State.refillWay (s : State) (leaf : Nat) (w : LibLeaf) : LibLeaf :=
  match s.pageHdr (pageOfLeaf leaf) with
  | some h => { w with ents := s.homeLeafEnts leaf, hdr := h }
  | none => { w with ents := [], hdr := { w.hdr with valid := false } }

/-- The LIB without the ways that p picks; locked ones among them are refilled in place (R220, R355, R369). -/
def State.libDrop (s : State) (cl : Nat) (p : Nat → LibLeaf → Bool) : State :=
  s.modCl cl (fun c => { c with lib := c.lib.filterMap (fun q =>
    if !p q.1 q.2 then some q else if q.2.locks > 0 then some (q.1, s.refillWay q.1 q.2) else none) })

/-- Self-invalidation of the leaves that p picks: those that hold a line of the open batch stay, but for locked ways, which are refilled (R220). -/
def State.libDiscard (s : State) (cl : Nat) (p : Nat → Bool) : State :=
  s.libDrop cl (fun leaf w => p leaf && (decide (w.locks > 0) || !s.leafOwned cl leaf))

/-- The core drops the L1 lines that p picks and its cluster does not own, and its held code words. -/
def State.coreDiscard (s : State) (core : Nat) (p : Nat → Bool) : State :=
  let own := s.openLines (coreCluster core)
  s.modCore core (fun k => { k with
    l1 := k.l1.filter (fun q => !p q.1 || decide (q.1 ∈ own)), code := k.code.filter (fun q => !p q.1) })

/-- The core drops the L1 lines that p picks, whether or not its cluster owns them (R355). -/
def State.coreDrop (s : State) (core : Nat) (p : Nat → Bool) : State :=
  s.modCore core (fun k => { k with l1 := k.l1.filter (fun q => !p q.1), code := k.code.filter (fun q => !p q.1) })

/-- An acquire at `.di` or wider by a group of a core (Table 4-9, R220), a blocking read of a DONE handle (R21). -/
def State.acquire (s : State) (core ctx : Nat) : State :=
  (s.coreDiscard core (fun _ => true)).libDiscard (coreCluster core) (fun leaf => leafCtx leaf == ctx)

/-- An acquire at a scope; below `.di` nothing is invalidated. -/
def scopeWide : Scope → Bool
  | .di => true | .pk => true | .pd => true
  | .ln => false | .co => false | .qd => false | .cl => false
def State.acquireAt (s : State) (core ctx : Nat) (sc : Scope) : State := if scopeWide sc then s.acquire core ctx else s

/-- INVR of a range (R231). -/
def State.invRange (s : State) (core ctx base len : Nat) : State :=
  if len = 0 then s
  else if len > 64 * 2 ^ 20 then s.acquire core ctx
  else
    let hit (a n : Nat) : Bool := decide (a < base + len) && decide (base < a + n)
    (s.coreDiscard core (fun lk => keyCtxLine lk == ctx && hit (lineAddr lk) 256)).libDiscard (coreCluster core)
      (fun leaf => leafCtx leaf == ctx && hit (leafAddr leaf) 4096)

/-! Translation and access checks (R130, R365). -/

/-- What an access needs of its page. -/
structure Need where
  rd : Bool
  wr : Bool
  ex : Bool
  atom : Bool
  width : Nat
  deriving DecidableEq, Repr

def needLoad (w : Nat) : Need := { rd := true, wr := false, ex := false, atom := false, width := w }
def needStore (w : Nat) : Need := { rd := false, wr := true, ex := false, atom := false, width := w }
def needAtom (w : Nat) : Need := { rd := true, wr := true, ex := false, atom := true, width := w }
def needFetch : Need := { rd := false, wr := false, ex := true, atom := false, width := 4 }

/-- The outcome of a translation: the header, a failure, or a page to park on. -/
inductive Tr where
  | ok (h : PageHdr)
  | bad (c : Cause)
  | park (page : Nat)
  deriving DecidableEq, Repr

/-- The header a cluster's access is checked against: that of its LIB entry, or the page home's when the leaf is not there (R364). -/
def State.hdrFor (s : State) (cl ctx addr : Nat) : Option PageHdr :=
  match (s.cl cl).lib.get? (leafKey ctx addr) with
  | some lf => if lf.hdr.valid then some lf.hdr else none
  | none => s.pageHdr (pageKey ctx addr)

/-- PERM and MTYPE (Tables 4-3 and 7-5): DEV and SO forbid atomics and 16-byte accesses, WC forbids atomics. -/
def hdrAllows (h : PageHdr) (n : Need) : Bool :=
  (!n.rd || h.perm.getLsbD 2) && (!n.wr || h.perm.getLsbD 1) && (!n.ex || h.perm.getLsbD 0) &&
  !(n.atom && h.mtype != 0) && !(decide (n.width > 8) && decide (h.mtype.toNat ≥ 2))

/-- The save region of a context (R448): the range of root way 63. -/
def saveRegion : Nat := 0xFC0000000000

/-- R365: NOMAP, then ACCESS, then LOCKMISS in a locked leaf, then a park on a capacity-tier page. The save region is read only
for programs (R448). -/
def State.translate (s : State) (cl ctx addr : Nat) (n : Need) : Tr :=
  if addr ≥ 2 ^ 48 then .bad .nomap
  else if n.wr && decide (saveRegion ≤ addr) then .bad .access
  else match s.hdrFor cl ctx addr with
    | none => .bad .nomap
    | some h =>
      if !hdrAllows h n then .bad .access
      else
        let locked := match (s.cl cl).lib.get? (leafKey ctx addr) with
          | some lf => decide (lf.locks > 0)
          | none => false
        if locked && (h.tier || h.remote) then .bad .lockmiss
        else if h.tier && !h.remote then .park (pageKey ctx addr)
        else .ok h

/-- The first address of each leaf that a range meets. -/
def leafSteps (addr len : Nat) : List Nat :=
  (List.range ((addr % 4096 + len + 4095) / 4096)).map (fun i => if i = 0 then addr else (addr / 4096 + i) * 4096)

/-- The causes of an access's translation in the order of R130. -/
def trCauses : List Cause := [.nomap, .access, .lockmiss]

/-- The outcome of the translations of one access: the earliest cause at which any of them failed, else the first page to park on (R130, R365). -/
def joinTr (ts : List Tr) : Tr :=
  match trCauses.find? (fun c => ts.any (fun t => t == .bad c)) with
  | some c => .bad c
  | none => match ts.find? (fun t => match t with
      | .park _ => true
      | _ => false) with
    | some t => t
    | none => ts.head?.getD (.bad .nomap)

/-- The translation of an engine's access of a range: every leaf of it is checked against its own header (R365, R369). -/
def State.translateRange (s : State) (cl ctx addr len : Nat) (n : Need) : Tr :=
  if addr + len > 2 ^ 48 then .bad .nomap
  else joinTr (s.translate cl ctx addr n :: (leafSteps addr len).map (fun a => s.translate cl ctx a n))

/-- Bytes of `.gl` memory as committed at their homes, as an engine reads them. -/
def State.glBytes (s : State) (ctx addr n : Nat) : List Byte :=
  (List.range n).map (fun i => Line.byte (s.homeLine (lineKey ctx (addr + i))) ((addr + i) % 256))
def State.glNat (s : State) (ctx addr n : Nat) : Nat := natOfBytes (s.glBytes ctx addr n)

end Sys2Proof.Machine
end

