-- ==== Sys2Proof/Machine/Publish.lean ====
section
/-! DEFINITION. Publications: requests and their turns, prepares, acknowledgements, revocation, commits, and the buffer's window
(R207, R210 to R219, R234). -/

namespace Sys2Proof.Machine

/-! Lines of a publication. -/

def PLine.of (ctx line : Nat) (m : LineMask) (d : Line) : PLine :=
  { ctx := ctx, line := line, mask := m, data := d, old := 0, full := false, recs := [], pos := 0, msk := 0, fmt := 0, expect := none, hdr := none, tok := 0,
    st := .sent }

/-- Bytes at an address as publication lines, one for each line they touch. -/
def plinesOf (ctx addr : Nat) (bs : List Byte) : List PLine :=
  let lo := addr / 256
  let n := (addr % 256 + bs.length + 255) / 256
  (List.range n).map (fun i =>
    let a := (lo + i) * 256
    let here := (List.range 256).filter (fun k => decide (addr ≤ a + k) && decide (a + k < addr + bs.length))
    PLine.of ctx (lo + i) (BitVec.ofNat 256 (here.foldl (fun acc k => acc + 2 ^ k) 0))
      (BitVec.ofNat 2048 (here.foldl (fun acc k => acc + (bs.getD (a + k - addr) 0).toNat * 2 ^ (8 * k)) 0)))

def State.pub? (s : State) (p : Nat) : Option Pub := s.store.pubs.get? p
def State.modPub (s : State) (p : Nat) (f : Pub → Pub) : State := s.setStore { s.store with pubs := s.store.pubs.modify p f }
def State.modReq (s : State) (r : Nat) (f : Req → Req) : State := s.setStore { s.store with reqs := s.store.reqs.modify r f }
def setLine (ls : List PLine) (i : Nat) (f : PLine → PLine) : List PLine := ls.modify i f
def State.modPLine (s : State) (p i : Nat) (f : PLine → PLine) : State := s.modPub p (fun q => { q with lines := setLine q.lines i f })

/-- How a request stands; one that is no longer listed is complete. -/
def State.reqSt (s : State) (r : Nat) : ReqSt :=
  match s.store.reqs.get? r with
  | some q => q.st
  | none => .complete

/-! Requests (R210). -/

/-- Lodge a request at a log; its number and the new state. -/
def State.lodge (s : State) (log ctx : Nat) (gid : Option Nat) (kind : ReqKind) (lines : List PLine) (rkind : BitVec 2) : Nat × State :=
  let (n, s) := s.newNum
  let q : Req := { log := log, ctx := ctx, gid := gid, kind := kind, lines := lines, rkind := rkind, since := s.pcc, starved := none, upto := 0,
                   st := .waiting }
  (n, (s.setStore { s.store with reqs := s.store.reqs.set n q }).modLog log (fun l => { l with queue := l.queue ++ [n] }))

/-- Whether a group's operation is a store that its buffer has still to accept. -/
def storeDone (op : MemOp) : Bool :=
  match op.kind with
  | .st => op.space != .gl || op.parts.all (fun p => p.served || decide (2 ≤ p.mt.toNat))
  | .zline => op.parts.all (fun p => p.served)
  | _ => true
/-- Whether every earlier store of a request's group has been accepted (R210). -/
def State.eligible (s : State) (q : Req) : Bool :=
  match q.gid with
  | none => true
  | some gid => (s.ops.filter (fun p => decide (p.1 < q.upto) && p.2.gid == gid)).all (fun p => storeDone p.2)

/-- The requests asked for whose groups' earlier stores have all been accepted are lodged now: each takes its place in its log's queue (R210). -/
def State.lodgeReady (s : State) : State :=
  (s.store.reqs.filter (fun p => p.2.st == .asked && s.eligible p.2)).foldl (fun (s : State) p =>
    (s.modReq p.1 (fun q => { q with st := .waiting, since := s.pcc })).modLog p.2.log (fun l => { l with queue := l.queue ++ [p.1] })) s

/-- Ask for a request that is lodged once the group's earlier stores are accepted (R210). -/
def State.lodgeAfter (s : State) (log ctx gid : Nat) (kind : ReqKind) : Nat × State :=
  let (n, s) := s.newNum
  let q : Req := { log := log, ctx := ctx, gid := some gid, kind := kind, lines := [], rkind := 0, since := s.pcc, starved := none, upto := n, st := .asked }
  (n, (s.setStore { s.store with reqs := s.store.reqs.set n q }).lodgeReady)

/-- A record of bytes that a die agent, an engine or the command processor publishes as a publication of its own (Table 1-8). -/
def State.lodgeBytes (s : State) (log ctx : Nat) (gid : Option Nat) (addr : Nat) (bs : List Byte) : Nat × State :=
  s.lodge log ctx gid .solo (plinesOf ctx addr bs) 0

/-- A request is withdrawn before its turn. -/
def State.withdraw (s : State) (r : Nat) : State :=
  match s.store.reqs.get? r with
  | none => s
  | some q =>
    (s.setStore { s.store with reqs := s.store.reqs.erase r }).modLog q.log (fun l => { l with queue := l.queue.filter (· != r) })

/-- The keys of the open batch that a request covers, taken when its publication starts. -/
def reqCovers (q : Req) (lk : Nat) : Bool :=
  match q.kind with
  | .batch => true
  | .ctxBatch => keyCtxLine lk == q.ctx
  | .range base len => keyCtxLine lk == q.ctx && decide (lineAddr lk < base + len) && decide (base < lineAddr lk + 256)
  | .solo => false
  | .atomic => false

/-- The lines of the open batch that are not already in flight. -/
def State.batchKeys (s : State) (log : Nat) : List Nat := ((s.bufOf log).keys ++ (s.appOf log).keys).dedup

/-! Starting a publication (R210, R212, R216). -/

/-- Flush the buffer entries of lines (R207); none where the log has no room. -/
def State.flushAll (s : State) (log : Nat) : List Nat → Option State
  | [] => some s
  | k :: ks => match s.flushLine log k with
    | none => none
    | some s => s.flushAll log ks

/-- The record that already covers every new byte of a line, if its newest one does: its commit needs no merge record. -/
def coverRec (recs : FMap Rec) (m : LineMask) (ps : List Nat) : Option (Nat × Rec) :=
  match ps.getLast? with
  | none => none
  | some p => match recs.get? p with
    | none => none
    | some r => if r.pmask = 0 ∧ someSectors m &&& ~~~r.smask = 0 then some (p, r) else none

/-- An appended line as a line of a publication. -/
def State.plineOf (s : State) (lk : Nat) (a : AppLine) : PLine :=
  let x := { PLine.of (keyCtxLine lk) (lk % 2 ^ 40) a.mask a.data with recs := a.recs }
  match coverRec s.store.recs a.mask a.recs with
  | some (p, r) => { x with pos := p, msk := r.smask, fmt := r.fmt }
  | none => x

/-- A line that carries a page header and no bytes. -/
def PLine.bare (x : PLine) : Bool := x.mask == 0 && x.msk == 0 && x.hdr.isSome

/-- R216: units reserved, 9 for each line that a merge record or a full image may need. -/
def resvUnits (ls : List PLine) : Nat := 9 * (ls.filter (fun x => !(x.msk == 0xFF) && x.expect.isNone && !x.bare)).length

/-- Reserve units in the open segment of a log, or else as whole segments of its stack's pool; the units and segments reserved. -/
def State.reserve (s : State) (log units : Nat) : Option (State × Nat × Nat) :=
  if units ≤ s.freeUnits log - s.keepUnits log then some (s, units, 0)
  else
    let n := units / (segUnits - 9) + 1
    if (s.stack (logStack log)).pool < n then none
    else some (s.modStack (logStack log) (fun k => { k with pool := k.pool - n }), 0, n)

/-- A publication takes its log's slot (R211). -/
def State.openPub (s : State) (log : Nat) (batch : Bool) (lines : List PLine) (reqs : List Nat) (rkind : BitVec 2) (runits rsegs : Nat) :
    Nat × State :=
  let (n, s) := s.newNum
  let q : Pub := { log := log, batch := batch, runits := runits, rsegs := rsegs, key := s.pcc, pubid := (s.log log).pubid + 1, rkind := rkind,
                   lines := lines, reqs := reqs, peer := none, granted := false, committing := false, revoked := false, askedAt := 0 }
  let s := (s.setStore { s.store with pubs := s.store.pubs.set n q }).modLog log (fun l =>
    { l with pub := some n, queue := l.queue.filter (fun r => !decide (r ∈ reqs)) })
  (n, reqs.foldl (fun s r => s.modReq r (fun q => { q with st := .inPub n, starved := none })) s)

/-- The PCC at which a wait of a context that begins now will have lasted LOGSTALL (R235: the limit in force when the wait begins). -/
def State.logLimit (s : State) (ctx : Nat) : BitVec 64 :=
  s.pcc + match s.ctx? ctx with
    | some c => c.logstall.setWidth 64
    | none => 0

/-- A log's writers wait for space: the die agent reports the log once for each episode (R234). -/
def State.tellSpace (s : State) (log : Nat) : State :=
  if (s.log log).told then s
  else { (s.modLog log (fun l => { l with told := true })) with sys := { s.sys with reports := s.sys.reports ++ [.logSpace log] } }

/-- An episode ends when the pool exceeds 64 segments. -/
def State.endEpisode (s : State) (log : Nat) : State :=
  if (s.log log).told && decide (64 < (s.stack (logStack log)).pool) then s.modLog log (fun l => { l with told := false }) else s

/-- A wait for log space begins for requests whose reservation cannot be met (R216, R234). -/
def State.starve (s : State) (log : Nat) (rs : List Nat) : State :=
  rs.foldl (fun (s : State) r => s.modReq r (fun q => { q with starved := some (q.starved.getD (s.logLimit q.ctx)) })) (s.tellSpace log)

/-- The PUBR operations that wait for a request resolve DONE (R230). -/
def State.donePubr (s : State) (r : Nat) : State :=
  (s.aops.filter (fun p => p.2.kind == .pubr && p.2.stage == .publishing r)).foldl
    (fun s p => ({ s with aops := s.aops.erase p.1 }).resolve p.2.ctx p.2.tag .ok) s

/-- A request is complete, without a publication or with one, and is listed no more. -/
def State.endReq (s : State) (r : Nat) : State :=
  match s.store.reqs.get? r with
  | none => s
  | some q =>
    ((s.setStore { s.store with reqs := s.store.reqs.erase r }).modLog q.log (fun l => { l with queue := l.queue.filter (· != r) })).donePubr r

/-- A publication that stands for one operation or record (R210). Its lines' records may already stand in the log. -/
def State.startSolo (s : State) (log r : Nat) (q : Req) : State :=
  if q.lines.isEmpty then s.endReq r
  else match s.reserve log (resvUnits q.lines) with
    | none => s.starve log [r]
    | some (s, u, k) => (s.openPub log false q.lines [r] q.rkind u k).2

/-- The combined publication of every waiting request that names lines of the open batch (R210). -/
def State.startBatch (s : State) (log : Nat) (rs : List (Nat × Req)) : State :=
  let keys := s.batchKeys log
  let mine (q : Req) : List Nat := keys.filter (reqCovers q)
  let idle := rs.filter (fun p => (mine p.2).isEmpty)
  let s1 := idle.foldl (fun s p => s.endReq p.1) s
  let busy := rs.filter (fun p => !(mine p.2).isEmpty)
  let ks := keys.filter (fun k => busy.any (fun p => reqCovers p.2 k))
  if busy.isEmpty then s1
  else
    let ids := busy.map (·.1)
    match s1.flushAll log ks with
    | none => s1.starve log ids
    | some s2 =>
      let app := s2.appOf log
      let ls := ks.filterMap (fun k => (app.get? k).map (s2.plineOf k))
      match s2.reserve log (resvUnits ls) with
      | none => s1.starve log ids
      | some (s3, u, n) =>
        let s4 := s3.setBatch log (s3.bufOf log) (app.filter (fun p => !decide (p.1 ∈ ks)))
        (s4.openPub log true ls ids 0 u n).2

/-- PUBLICATION_START (R210): a log's free slot serves the oldest waiting request. -/
def State.startPub (s0 : State) (log : Nat) : State :=
  let s := (s0.endEpisode log).lodgeReady
  let l := s.log log
  let wait := l.queue.filterMap (fun r => (s.store.reqs.get? r).map (fun q => (r, q)))
  match l.pub, wait with
  | none, (r, q) :: _ =>
    match q.kind with
    | .solo => s.startSolo log r q
    | .atomic => s
    | _ => s.startBatch log (wait.filter (fun p => p.2.kind != .solo && p.2.kind != .atomic))
  | _, _ => s

def execPublicationStart (log : Nat) (s : State) : Out := .next (s.startPub log)

/-! Atomics at the home (R123). -/

/-- Whether the home of a line may grant prepares: not during a snapshot's stop (R357), nor during its page's transfer (R380), but for the transfer's own publication
(`mig`). -/
def State.mayGrantAt (s : State) (lk : Nat) (mig : Bool) : Bool :=
  (match s.ctx? (keyCtxLine lk) with
  | some c => !c.stopped
  | none => true) &&
  match s.migs.get? (pageOfLine lk) with
  | some m => m.xfer.isNone || mig
  | none => true


/-- Whether a log's free slot has come to a request: the oldest one. -/
def State.isTurn (s : State) (log r : Nat) : Bool :=
  let l := s.log log
  l.pub.isNone && (l.queue.find? (fun k => (s.store.reqs.get? k).isSome)) == some r

/-! Reads that wait at a PREP entry (R213, R217). -/

/-- Whether a read that waits is still wanted. -/
def State.readerLive (s : State) (r : Reader) : Bool :=
  match r with
  | .op n => (s.ops.get? n).any (fun o => o.parts.any (fun x => !x.served))
  | .fill cl leaf => ((s.cl cl).lib.get? leaf).any (fun w => !w.landed)
  | .slot core row => (s.slot core).loads.any (fun x => x.row == row)
  | .seq cl => (s.seqOf cl).accs.any (fun p => !p.2.acc.write && p.2.acc.servedAt.isNone)
  | .aop n => (s.aops.get? n).isSome
  | .peer n => (s.inbox.get? n).isSome

def State.setPrep (s : State) (lk : Nat) (h : Prep) : State := s.setStore { s.store with preps := s.store.preps.set lk h }
def State.dropPrep (s : State) (lk : Nat) : State := s.setStore { s.store with preps := s.store.preps.erase lk }

/-- Whether a read of a line must wait at its home: the entry is PREP. -/
def State.prepAt (s : State) (lk : Nat) : Bool := (s.homeEntry lk).prep

/-- A read waits at a PREP entry until the hold ends. -/
def State.waitRead (s : State) (lk : Nat) (r : Reader) : State :=
  match s.store.preps.get? lk with
  | none => s
  | some h => if r ∈ h.readers then s else s.setPrep lk { h with readers := h.readers ++ [r] }

/-- Whether an atomic may take a line's entry: no prepare of it waits for a hold's end, unless the atomic waited through that hold too. -/
def State.entryFree (s : State) (lk : Nat) (r : Reader) : Bool :=
  !s.prepAt lk && match s.store.preps.get? lk with
    | none => true
    | some h => h.queue.isEmpty || decide (r ∈ h.readers)

/-- The sector record of an atomic's write, or the full image that consolidation needs (R215). -/
def State.atomRec (s : State) (log ctx lk j : Nat) (d : Line) : Rec :=
  let m : BitVec 8 := BitVec.ofNat 8 (2 ^ j)
  if needsImage (s.homeEntry lk) m then wholeRec s log ctx (lk % 2 ^ 40) 0 d
  else fragRec s log ctx (lk % 2 ^ 40) 0 m (sectorBytes m) d

/-! Prepares at the homes (R213). -/

def pubOlder (a b : Pub) : Bool := decide (a.key.toNat < b.key.toNat) || (a.key == b.key && decide (a.log < b.log))

/-- The bytes an acknowledgement carries, and whether the commit needs a full image (R213 to R215). -/
def State.ackLine (s : State) (x : PLine) : PLine :=
  let m := if x.msk = 0 then someSectors x.mask else x.msk
  { x with old := s.homeLine x.key, full := x.expect.isNone && needsImage (s.homeEntry x.key) m, st := .granted }

/-- grant(P): PREP is set, the hold timer starts, the acknowledgement leaves. -/
def State.grantLine (s : State) (p i : Nat) (x : PLine) : State :=
  let s := s.setHomeEntry x.key { s.homeEntry x.key with prep := true }
  let h := (s.store.preps.get? x.key).getD { holder := none, since := 0, queue := [], readers := [] }
  let s := s.setPrep x.key { h with holder := some p, since := s.pcc }
  (s.modPLine p i s.ackLine).modPub p (fun q => { q with granted := true })

/-- Whether a line's page is owned by a peer module (R378). -/
def State.isRemote (s : State) (lk : Nat) : Bool :=
  match s.pageHdr (pageOfLine lk) with
  | some h => h.remote
  | none => false

def State.ownerOf (s : State) (lk : Nat) : BitVec 12 :=
  match s.pageHdr (pageOfLine lk) with
  | some h => h.owner
  | none => 0

/-- A migration publication (KIND 2) changes a page's header, and with it who owns the page; its lines are homed here (R371, R380). -/
def Pub.isMig (q : Pub) : Bool := q.rkind == 2
/-- Whether a line of a publication is prepared and committed at a peer module (R378). -/
def State.goesAway (s : State) (q : Pub) (x : PLine) : Bool := !q.isMig && s.isRemote x.key

/-- The line of a publication that waits in a home's queue. -/
def queuedLine (q : Pub) (lk : Nat) : Option (Nat × PLine) :=
  let i := q.lines.findIdx (fun x => x.key == lk && x.st == .queued)
  (q.lines[i]?).map (fun x => (i, x))

/-- The first of the queued prepares that still stands is granted; while its home may grant none, they wait (R213, R357). -/
def State.grantFirst (s : State) (lk : Nat) : List Nat → State
  | [] => s.dropPrep lk
  | p :: rest =>
    match (s.pub? p).bind (fun q => (queuedLine q lk).map (fun y => (q, y))) with
    | none => s.grantFirst lk rest
    | some (q, i, x) =>
      let h : Prep := { holder := none, since := s.pcc, queue := p :: rest, readers := [] }
      if s.mayGrantAt lk q.isMig then (s.setPrep lk { h with queue := rest }).grantLine p i x else s.setPrep lk h

/-- Once a hold has ended and every load and fill that waited is served, the first queued prepare is granted (R213). -/
def State.serveQueue (s : State) (lk : Nat) : State :=
  match s.store.preps.get? lk with
  | none => s
  | some h => if h.holder.isSome || h.readers.any s.readerLive then s else s.grantFirst lk h.queue

/-- A read that waited has been served, or waits no more. -/
def State.doneRead (s : State) (lk : Nat) (r : Reader) : State :=
  match s.store.preps.get? lk with
  | none => s
  | some h => (s.setPrep lk { h with readers := h.readers.filter (· != r) }).serveQueue lk

/-- The end of a hold (R213): PREP clears; the reads that waited are served by their own steps, before the next prepare is granted. -/
def State.endHold (s : State) (lk : Nat) : State :=
  match s.store.preps.get? lk with
  | none => s
  | some h => ((s.setHomeEntry lk { s.homeEntry lk with prep := false }).setPrep lk { h with holder := none }).serveQueue lk

/-- HOME_PREPARE (R213): a prepare reaches its home; one that waits there is granted once it may be. A prepare of a page that a peer owns is granted by the owner
module. -/
def State.prepare (s : State) (p i : Nat) : State :=
  match s.pub? p with
  | none => s
  | some q => match q.lines[i]? with
    | none => s
    | some x =>
      if q.revoked || q.committing then s
      else if s.goesAway q x then
        if x.st != .sent then s
        else
          let (t, s) := s.newNum
          (s.sendMsg (s.ownerOf x.key) 0 x.key (.prep p t q.key x.ctx x.line x.mask)).modPLine p i (fun x => { x with st := .queued, tok := t })
      else if x.st == .queued then s.serveQueue x.key
      else if x.st != .sent || !s.mayGrantAt x.key q.isMig then s
      else
        let s := if q.peer.isSome then s.countRemote (pageOfLine x.key) else s.countLocal (pageOfLine x.key)
        match s.store.preps.get? x.key with
        | none => s.grantLine p i x
        | some h =>
          let s1 := s.modPLine p i (fun x => { x with st := .queued })
          match h.holder, h.holder.bind s.pub? with
          | some hp, some hq =>
            let front := pubOlder q hq
            let s2 := s1.setPrep x.key { h with queue := if front then p :: h.queue else h.queue ++ [p] }
            if front then s2.modPub hp (fun y => { y with revoked := true, askedAt := s.pcc }) else s2
          | _, _ => (s1.setPrep x.key { h with holder := none, queue := h.queue ++ [p] }).serveQueue x.key

def execHomePrepare (pub idx : Nat) (s : State) : Out := .next (s.prepare pub idx)

/-! Loads of a cluster that pass its L1s (R101, R126, R217). -/

/-- A line of the owner under the cluster's own bytes. -/
def underOwn (own : LineMask × Line) (d : Line) (addr n : Nat) : Nat := Line.field (mergeLine own.1 own.2 d) (addr % 256) n

/-- n bytes of one line for a load of a cluster that does not use an L1: its own bytes; else through a landed LIB entry; an entry that the LIB holds marked PREP
sends it to the home, where it waits while the entry is PREP. A leaf that is not there yet makes it wait for the fill. -/
def State.clusterLoad (s : State) (cl ctx addr n : Nat) (who : Reader) : Option Nat × State :=
  let lk := lineKey ctx addr
  let own := s.ownBytes cl lk
  if maskBytes (addr % 256) n &&& ~~~own.1 = 0 then (some (underOwn own 0 addr n), s.doneRead lk who)
  else match (s.cl cl).lib.get? (leafOfLine lk) with
  | none => (none, s)
  | some w =>
    let e := w.ents.getD IxEntry.empty (lk % 16)
    if !w.landed then (none, s)
    else if !e.prep && !e.ownr && !w.hdr.remote then (some (underOwn own (readEntry s.store.recs e) addr n), (s.countLocal (pageOfLine lk)).doneRead lk who)
    else if s.prepAt lk then (none, s.waitRead lk who)
    else (some (underOwn own (s.homeLine lk) addr n), (s.countLocal (pageOfLine lk)).doneRead lk who)

/-! An atomic's step (R123). -/

/-- One indivisible step on n bytes at their home (R123): the old value when it is taken. `who` waits at a PREP entry as a load does; `prom` are the units of log
space promised to it. `f` gives the new value, or none for a failing ACAS, which ends
the request with the step. A write takes the entry with a prepare that is past its last acknowledgement and publishes one record. -/
def State.atomicAt (s : State) (log r ctx addr n : Nat) (who : Reader) (prom : Nat) (f : Nat → Option Nat) : Option Nat × State :=
  let lk := lineKey ctx addr
  if !s.isTurn log r then (none, s)
  else if s.prepAt lk then (none, s.waitRead lk who)
  else if !s.entryFree lk who || !s.mayGrantAt lk false then (none, s)
  else
    let o := addr % 256
    let old := Line.field (s.homeLine lk) o n
    match f old with
    | none => (some old, ((s.endReq r).unpromise log prom).doneRead lk who)
    | some v =>
      let d := mergeLine (maskBytes o n) (BitVec.ofNat 2048 (v % 2 ^ (8 * n) * 2 ^ (8 * o))) (s.homeLine lk)
      let rc := s.atomRec log ctx lk (o / 32) d
      match (if prom = 0 then s.append log rc else s.appendPromised log rc) with
      | none => (none, s.starve log [r])
      | some (s, pos) =>
        let s := s.unpromise log prom
        let x := PLine.of ctx (lk % 2 ^ 40) (sectorBytes rc.smask) d
        let (p, s) := s.openPub log false [{ x with pos := pos, msk := rc.smask, fmt := rc.fmt, st := .acked }] [r] 0 0 0
        let s := s.setHomeEntry lk { s.homeEntry lk with prep := true }
        let h := (s.store.preps.get? lk).getD { holder := none, since := 0, queue := [], readers := [] }
        let s := s.setPrep lk { h with holder := some p, since := s.pcc, readers := h.readers.filter (· != who) }
        (some old, s.modPub p (fun q => { q with granted := true, committing := true }))

/-! Acknowledgements and the records they call for (R212, R214, R215). -/

/-- Append a record of a publication: from its reservation, or as any record. -/
def State.pubAppend (s : State) (p : Nat) (r : Rec) : Option (State × Nat) :=
  match s.pub? p with
  | none => none
  | some q =>
    let n := 1 + r.payload.length
    match s.appendHere q.log r 0 with
    | some (s, pos) => some (s.modPub p (fun q => { q with runits := q.runits - n }), pos)
    | none =>
      if q.rsegs = 0 then s.append q.log r
      else
        let s := s.modPub p (fun q => { q with rsegs := q.rsegs - 1 })
        let s := s.modStack (logStack q.log) (fun k => { k with pool := k.pool + 1 })
        match (s.sealLog q.log).takeSeg q.log false with
        | none => none
        | some s => s.appendHere q.log r 0

/-- The record that a line's commit names: the one appended already, a merge record (R214), or a full image (R215); the owner of a peer's page appends
its records itself (R378). -/
def State.formLine (s : State) (p : Nat) (q : Pub) (x : PLine) : Option (State × PLine) :=
  if x.bare then some (s, x)
  else if s.goesAway q x then some (s, { x with msk := if x.msk = 0 then someSectors x.mask else x.msk })
  else if x.msk != 0 && !x.full then some (s, x)
  else
    let d := mergeLine x.mask x.data x.old
    let m := someSectors x.mask
    let r := if x.full || m == 0xFF then wholeRec s q.log x.ctx x.line q.rkind d
      else fragRec s q.log x.ctx x.line q.rkind m (sectorBytes m) d
    match s.pubAppend p { r with pubid := q.pubid } with
    | none => none
    | some (s, pos) => some (s, { x with pos := pos, msk := r.smask, fmt := r.fmt, recs := x.recs ++ [pos] })

/-- Every line's record, in order; none where space runs out, and then the publication waits as it stands. -/
def State.formLines (s : State) (p : Nat) (q : Pub) : List PLine → Option (State × List PLine)
  | [] => some (s, [])
  | x :: xs =>
    match s.formLine p q x with
    | none => none
    | some (s, y) => match s.formLines p q xs with
      | none => none
      | some (s, ys) => some (s, y :: ys)

/-- PREPARE_ACK (R212): an acknowledgement reaches the writer; after the last one the merge records and images are appended, and the
publication can no longer be revoked. -/
def State.ackArrive (s : State) (p i : Nat) : State :=
  match s.pub? p with
  | none => s
  | some q => match q.lines[i]? with
    | none => s
    | some x =>
      if x.st != .granted || q.revoked then s
      else match q.peer with
      | some (m, tp, ti) => (s.modPLine p i (fun x => { x with st := .acked })).sendMsg m 0 x.key (.prepAck tp ti x.old x.full)
      | none =>
        let s1 := s.modPLine p i (fun x => { x with st := .acked })
        match s1.pub? p with
        | none => s1
        | some q1 =>
          if q1.lines.all (fun x => x.st == .acked) then
            match s1.formLines p q1 q1.lines with
            | none => s
            | some (s2, ls) => s2.modPub p (fun q => { q with lines := ls, committing := true })
          else s1

def execPrepareAck (pub idx : Nat) (s : State) : Out := .next (s.ackArrive pub idx)

/-! Revocation (R213). -/

/-- REVOKE_REQUEST: a holder that is committing answers so; otherwise it releases every prepare and retries with its key. A holder on a peer module is asked
there. -/
def State.revoke (s : State) (p : Nat) : State :=
  match s.pub? p with
  | none => s
  | some q =>
    if !q.revoked then s
    else match q.peer with
    | some (m, tp, _) => (s.modPub p (fun q => { q with revoked := false })).sendMsg m 0 tp (.revoke tp)
    | none =>
    if q.committing then s.modPub p (fun q => { q with revoked := false })
    else
      let unq := q.lines.foldl (fun (s : State) x =>
        if x.st == .queued then s.setStore { s.store with preps := s.store.preps.modify x.key (fun h => { h with queue := h.queue.filter (· != p) }) }
        else s) s
      unq.modPub p (fun q => { q with
        revoked := false
        lines := q.lines.map (fun x => match x.st with
          | .granted => { x with st := .releasing }
          | .acked => { x with st := .releasing }
          | .queued => { x with st := if s.goesAway q x then .releasing else .sent }
          | _ => x) })

def execRevokeRequest (pub : Nat) (s : State) : Out := .next (s.revoke pub)

/-- HOLD_TIMER_EXPIRE (R213). -/
def execHoldTimerExpire (line : Nat) (s : State) : Out :=
  match s.store.preps.get? line with
  | none => .next s
  | some h =>
    match h.holder with
    | none => .next s
    | some p => if s.due (h.since + 16384) then .next (s.modPub p (fun q => { q with revoked := true, askedAt := s.pcc })) else .next s

/-- HOME_RELEASE (R213): a release reaches its home and the hold ends; the line is prepared again. -/
def State.releaseLine (s : State) (p i : Nat) : State :=
  match s.pub? p with
  | none => s
  | some q => match q.lines[i]? with
    | none => s
    | some x =>
      if x.st != .releasing then s
      else if s.goesAway q x then
        (s.modPLine p i (fun x => { x with st := .sent })).sendMsg (s.ownerOf x.key) 0 x.key (.release p x.tok)
      else (s.modPLine p i (fun x => { x with st := .sent })).endHold x.key

def execHomeRelease (pub idx : Nat) (s : State) : Out := .next (s.releaseLine pub idx)

/-! Commits (R212, R215, R219). -/

/-- The entry after a commit of a line; a relocation or a migration changes only an entry that still has the expected positions (R219). -/
def commitLine (e : IxEntry) (x : PLine) : IxEntry :=
  match x.expect with
  | none => if x.bare then e else commitEntry e (BitVec.ofNat 44 x.pos) x.msk x.fmt
  | some o =>
    if e.f0pos = o.f0pos ∧ e.f0msk = o.f0msk ∧ e.f1pos = o.f1pos ∧ e.f1msk = o.f1msk ∧ e.z = o.z then
      let p := BitVec.ofNat 44 x.pos
      if x.msk = 0xFF then commitEntry e p 0xFF x.fmt
      else if x.msk = e.f1msk then { e with f1pos := p, tier := posTier p }
      else { e with f0pos := p, fmt := x.fmt, tier := posTier p }
    else e

/-- A cluster's LIB entry for a line takes its home's entry (R209); it stays as it is where the leaf is not held. -/
def State.libTake (s : State) (cl lk : Nat) : State :=
  let e := s.homeEntry lk
  s.modCl cl (fun c => { c with
    lib := c.lib.modify (leafOfLine lk) (fun lf => if lf.landed then { lf with ents := lf.ents.put IxEntry.empty (lk % 16) e } else lf) })

/-- A line that its cluster's atomic or engine has committed leaves the cluster's L1s, so that no lane reads backward (R222). -/
def dropL1 (lk : Nat) (k : Core) : Core := { k with l1 := k.l1.erase lk }

/-- The first line key of a page. -/
def pageFirst (pk : Nat) : Nat := pageCtx pk * 2 ^ 40 + pk % 2 ^ 31 * 512

/-- The entries of a page that changes hands (R380): OWNR markers where a peer owns it from now on; a marker that stands for no line is gone where this module does. -/
def State.turnMarks (s : State) (pk : Nat) (old new : Bool) : State :=
  (List.range 512).foldl (fun (s : State) i =>
    let lk := pageFirst pk + i
    if !old && new then s.setHomeEntry lk { IxEntry.empty with ownr := true }
    else if old && !new && (s.homeEntry lk).ownr then s.setHomeEntry lk IxEntry.empty
    else s) s

/-- A page header that a commit carries (R363). -/
def State.putHdr (s : State) (pk : Nat) (h : Option PageHdr) : State :=
  match h with
  | none => s
  | some h =>
    let old := ((s.store.pages.get? pk).map (·.remote)).getD false
    let t := s.setStore { s.store with pages := s.store.pages.set pk h }
    if old == h.remote then t else t.turnMarks pk old h.remote

/-- The trailer of a segment that ships counts a record that a commit has named (R359). -/
def State.markCommit (s : State) (pos : Nat) : State :=
  s.setStore { s.store with segs := s.store.segs.modify (posSeg pos) (fun g => { g with commits := g.commits ++ [pos] }) }

/-- One line of a publication commits at its home here. -/
def State.commitHere (s : State) (p i : Nat) (q : Pub) (x : PLine) : State :=
  let s := s.setHomeEntry x.key { commitLine (s.homeEntry x.key) x with prep := false }
  let s := if x.bare then s else s.markCommit x.pos
  let s := s.putHdr (pageOfLine x.key) x.hdr
  let s := if q.log < 256 then s.libTake q.log x.key else s
  let s := if q.log < 256 && !q.batch then s.patchCores q.log (dropL1 x.key) else s
  (s.modPLine p i (fun x => { x with st := .committed })).endHold x.key

/-- HOME_COMMIT (R215): a commit reaches its home. The lines of a publication that carries a page header commit together with it (R363, R371). -/
def State.commitAt (s : State) (p i : Nat) : State :=
  match s.pub? p with
  | none => s
  | some q => match q.lines[i]? with
    | none => s
    | some x =>
      if !q.committing || x.st != .acked then s
      else if s.goesAway q x then
        (s.modPLine p i (fun x => { x with st := .committing })).sendMsg (s.ownerOf x.key) 0 x.key
          (.commit p x.tok x.ctx x.line (mergeLine x.mask x.data x.old) x.msk)
      else if q.lines.any (fun y => y.hdr.isSome) then
        (q.lines.zip (List.range q.lines.length)).foldl (fun (s : State) y => if y.1.st == .acked then s.commitHere p y.2 q y.1 else s) s
      else s.commitHere p i q x

def execHomeCommit (pub idx : Nat) (s : State) : Out := .next (s.commitAt pub idx)

/-- A host master's release has committed: COMMITS counts it once (R427). A batch that only an owner change published is not a release. -/
def State.countCommit (s : State) (q : Pub) : State :=
  let asked := q.reqs.any (fun r => match s.store.reqs.get? r with
    | some x => x.rkind == 0
    | none => false)
  if 320 ≤ q.log && asked then { s with hosts := s.hosts.modify (q.log - 320) (fun h => { h with commits := h.commits + 1 }) } else s

/-- PUBLICATION_COMMIT (R212): every home has acknowledged its commit. The slot frees, the requests complete, unused space returns (R216). -/
def State.finishPub (s : State) (p : Nat) : State :=
  match s.pub? p with
  | none => s
  | some q =>
    if q.lines.all (fun x => x.st == .committed) then
      let s := s.countCommit q
      let s := q.reqs.foldl (fun (s : State) r => s.endReq r) s
      let s := s.modStack (logStack q.log) (fun k => { k with pool := k.pool + q.rsegs })
      let s := s.setStore { s.store with pubs := s.store.pubs.erase p }
      ((s.modLog q.log (fun l => { l with pub := none, pubid := q.pubid })).endEpisode q.log).tally (logDie q.log) 160
    else s

def execPublicationCommit (pub : Nat) (s : State) : Out := .next (s.finishPub pub)

/-- PUBR's cancel before the first grant (R230): its lines that no other request covers go back to the open batch. -/
def State.cancelReq (s : State) (r : Nat) : Option State :=
  match s.store.reqs.get? r with
  | none => none
  | some q => match q.st with
    | .asked => some (s.withdraw r)
    | .waiting => some (s.withdraw r)
    | .inPub p => match s.pub? p with
      | none => none
      | some b =>
        if b.granted then none
        else
          let others := (b.reqs.filter (· != r)).filterMap s.store.reqs.get?
          let keep := b.lines.filter (fun x => others.any (fun o => reqCovers o x.key))
          let back := b.lines.filter (fun x => !others.any (fun o => reqCovers o x.key))
          let giveBack (s : State) (x : PLine) : State :=
            let a := (s.appOf b.log).getD AppLine.none x.key
            let m : AppLine :=
              { mask := x.mask ||| a.mask, data := mergeLine a.mask a.data x.data, recs := x.recs ++ a.recs }
            s.setBatch b.log (s.bufOf b.log) ((s.appOf b.log).set x.key m)
          let unsend (s : State) (x : PLine) : State :=
            if x.st != .queued then s
            else if s.goesAway b x then s.sendMsg (s.ownerOf x.key) 0 x.key (.release p x.tok)
            else match s.store.preps.get? x.key with
              | none => s
              | some h => (s.setPrep x.key { h with queue := h.queue.filter (· != p) }).serveQueue x.key
          let s := back.foldl unsend (if b.batch then back.foldl giveBack s else s)
          let s := s.setStore { s.store with reqs := s.store.reqs.erase r }
          let s := s.modPub p (fun b => { b with lines := keep, reqs := b.reqs.filter (· != r) })
          some (if keep.isEmpty then s.finishPub p else s)
    | _ => none

/-! The buffer's window (R207). -/

/-- WCB_WINDOW_EXPIRE (R207): WCWIN cycles after its first write an entry leaves as a FRAG record; without log space it stays. -/
def execWcbWindowExpire (cluster line : Nat) (s : State) : Out :=
  match (s.cl cluster).buf.get? line with
  | none => .next s
  | some b =>
    if s.due (b.first + b.win.setWidth 64) then
      match s.flushLine cluster line with
      | some s => .next s
      | none => .next s
    else .next s

end Sys2Proof.Machine
end

