-- ==== Sys2Proof/Machine/Fetch.lean ====
section
/-! DEFINITION. Instruction fetch and the decode of whole runs: fetched code words, the decode checks of R53 in their order, and what the run
needs before it starts (R36, R41, R49 to R54, R58, R60, R163, R168, R174, R319). -/

namespace Sys2Proof.Machine

/-! Code lines (R36). -/

/-- The line that holds code, as the core sees it: its held copy, its cluster's LIB entry, or the home. None for a line of a page that a peer
owns and that has not arrived, and while its entry at the home is PREP (R217). -/
def State.codeLine (s : State) (core ctx addr : Nat) : Option Line :=
  let lk := lineKey ctx addr
  match (s.core core).code.get? lk with
  | some d => some d
  | none =>
    match (s.cl (coreCluster core)).lib.get? (leafOfLine lk) with
    | some lf =>
      let e := lf.ents.getD IxEntry.empty (lk % 16)
      if lf.hdr.remote then none
      else if lf.landed && !e.prep then some (readEntry s.store.recs e)
      else if s.prepAt lk then none else some (s.homeLine lk)
    | none => match s.pageHdr (pageOfLine lk) with
      | some h => if h.remote || s.prepAt lk then none else some (s.homeLine lk)
      | none => some 0

/-- The outcome of fetching a word. -/
inductive Fe where
  | ok (w : IWord)
  | bad (c : Cause)
  | wait
  deriving DecidableEq, Repr

/-- Whether one byte's page may be executed from: its failure, if any. -/
def State.fetchCheck (s : State) (cl ctx addr : Nat) : Option Cause :=
  if addr ≥ 2 ^ 48 then some .nomap
  else match s.hdrFor cl ctx addr with
    | none => some .nomap
    | some h => if h.perm.getLsbD 0 then none else some .access

/-- The word at an address (R35, R36): little-endian in 12 bytes. -/
def State.fetchWord (s : State) (core ctx addr : Nat) : Fe :=
  match s.fetchCheck (coreCluster core) ctx addr with
  | some c => .bad c
  | none => match s.fetchCheck (coreCluster core) ctx (addr + 11) with
    | some c => .bad c
    | none =>
      let o := addr % 256
      let n := min 12 (256 - o)
      match s.codeLine core ctx addr, s.codeLine core ctx (addr + 11) with
      | some d, some e => .ok (BitVec.ofNat 96 (Line.field d o n + 2 ^ (8 * n) * Line.field e 0 (12 - n)))
      | _, _ => .wait

/-- The code lines of a word that a core waits for, if a peer owns their pages, are asked for, once: a load of a line, answered to the core (R374). -/
def State.askCode (s : State) (core ctx addr : Nat) : State :=
  [addr, addr + 11].foldl (fun s a =>
    let lk := lineKey ctx a
    let body : QfBody := .load lk (4096 + core) ctx (a / 256 * 256) 256
    if s.isRemote lk && ((s.core core).code.get? lk).isNone && !s.outbox.any (fun p => p.2.body == body) then
      s.sendMsg (s.ownerOf lk) 0 lk body
    else s) s

/-- The core holds the lines it fetched (R36). -/
def State.holdCode (s : State) (core ctx addr n : Nat) : State :=
  let ks := (List.range (n / 256 + 2)).map (fun i => addr / 256 * 256 + 256 * i)
  ks.foldl (fun s a =>
    if a < addr + n then match s.codeLine core ctx a with
      | some d => s.modCore core (fun k => { k with code := k.code.set (lineKey ctx a) d })
      | none => s
    else s) s

/-! The target of a control transfer (R49, R174, R175). -/

/-- The words of the group stream that are control transfers (R52, R189). -/
def isTransfer (opc : Nat) : Bool := decide (opc ∈ [0x182, 0x183, 0x184, 0x185, 0x186, 0x190, 0x198])

/-- The target of a signed word offset (R174). -/
def targetOf (pc : Nat) (imm : BitVec 32) : Int := (pc : Int) + 12 * imm.toInt

/-- The target check of BR, BRU, CALL and SPAWN: NOMAP, ACCESS, then ILLOP without LAND. None while a remote line is on its way. -/
def State.targetCheck (s : State) (core ctx : Nat) (t : Int) : Option (Option Cause) :=
  if t < 0 ∨ t ≥ 2 ^ 48 then some (some .nomap)
  else match s.fetchWord core ctx t.toNat with
    | .bad c => some (some c)
    | .wait => none
    | .ok w => if (Raw.ofWord w).land = 1 then some none else some (some .illop)

/-! Decoding a run (R53). -/

/-- The outcome of decoding a run: its words with the instruction at each offset, a trap at an offset, or the address of a word that has not arrived. -/
inductive RunRes where
  | ok (words : List IWord) (is : List (Nat × Instr))
  | trap (c : Cause) (ofs : Nat)
  | wait (addr : Nat)
  deriving DecidableEq, Repr

/-- What the words before the current one leave for its checks: the budget used, the x-registers written, the destinations of long-latency
writes (R168), the rejoin mask of the run's queries (R319). -/
structure Scan where
  budget : Nat
  xs : List Nat
  pend : List Nat
  mask : Option (BitVec 3)

/-- The registers a RUNEND's slots name. -/
def escRegs (w : Ctl) : List Nat :=
  ((escSlots w).take (escCount w)).filterMap (fun o => match o with
    | some (.v n) => some n.toNat
    | _ => none)

/-- The v-register numbers a word names (R41). -/
def vNames (b : Body) : List Nat :=
  match b with
  | .ctl 0x180 w => escRegs w
  | b => (b.shape.uses.flatMap Use.regs).filter (fun r => decide (r < 128))

/-- Long-latency writes (R56, R168): loads, returning atomics, TQ and TQ2, with the destination of LDS. -/
def isLongWrite (b : Body) : Bool :=
  match b with
  | .mem o _ => decide (o ∈ [0x100, 0x101, 0x106]) || (decide (0x110 ≤ o) && decide (o ≤ 0x118))
  | .ctl o _ => o == 0x261 || o == 0x262
  | _ => false

def longDests (b : Body) : List Nat := if isLongWrite b then b.shape.writes else []

/-- The rejoin mask a TQ or TQ2 names. -/
def tqMask (b : Body) : Option (BitVec 3) :=
  match b with
  | .ctl 0x261 w => some (w.imm.extractLsb' 8 3)
  | .ctl 0x262 w => some (w.imm.extractLsb' 8 3)
  | _ => none

/-- The opcodes that only the first word of a run may carry (R58, R319). -/
def firstOnly (opc : Nat) : Bool := opc == 0x181 || opc == 0x18F

/-- The opcode of a fetched word, if it was fetched. -/
def feOpc : Fe → Option Nat
  | .ok w => some (Raw.ofWord w).opc.toNat
  | _ => none

/-- R68 on the fields as they stand, before they are checked (R53). -/
def privRaw (r : Raw) : Bool :=
  let csr (f : BitVec 10) : Bool := decide (0x280 ≤ f.toNat) && decide (f.toNat < 0x300)
  (decide (0x300 ≤ r.opc.toNat) && decide (r.opc.toNat ≤ 0x37F)) || (r.opc.toNat == 0x193 && csr r.a) || (r.opc.toNat == 0x194 && csr r.d)

/-- The outcome of one word's checks: the instruction and the number of words it takes, a cause at one of its words, or that one of them has not arrived. -/
inductive WordRes where
  | ok (i : Instr) (n : Nat)
  | bad (c : Cause) (k : Nat)
  | wait (k : Nat)
  deriving DecidableEq, Repr

/-- An extension word with an empty payload. -/
def emptyExt : IWord := 0x3FF#10 ++ 0#86

/-- A LOOPN's three words, each checked at its own offset (R53, R60, R61): the first with empty extension words, then each extension word as it is fetched. -/
def loopChecks (w : IWord) (next : List Fe) : WordRes :=
  let dec (a b : IWord) : Option (Instr × Nat) := (decodeWords false [w, a, b]).toOption
  let word (k : Nat) (go : IWord → WordRes) : WordRes := match next[k]? with
    | some (.ok x) => go x
    | some (.bad c) => .bad c (k + 1)
    | some .wait => .wait (k + 1)
    | none => .bad .illop 0
  if (dec emptyExt emptyExt).isNone then .bad .illop 0
  else word 0 (fun w2 =>
    if !isExt w2 then .bad .illop 0
    else if (dec w2 emptyExt).isNone then .bad .illop 1
    else word 1 (fun w3 =>
      if !isExt w3 then .bad .illop 0
      else match dec w2 w3 with
        | some (i, n) => .ok i n
        | none => .bad .illop 2))

/-- The checks of one word in the order of R53, items 2 to 4. `next` are the words that follow. -/
def wordChecks (priv : Bool) (nregs ofs : Nat) (sc : Scan) (w : IWord) (next : List Fe) : WordRes :=
  let r := Raw.ofWord w
  let opc := r.opc.toNat
  if !allocated opc || seqOpc opc then .bad .illop 0
  else if privRaw r && !priv then .bad .priv 0
  else
    let dec : WordRes := if opc = 0x0C0 then loopChecks w next else match decodeWords false [w] with
      | .error _ => .bad .illop 0
      | .ok (i, n) => .ok i n
    match dec with
    | .ok i n =>
      let b := bodyOf i
      let regs := b.shape.reads ++ b.shape.writes
      if b.hdr.land && ofs != 0 then .bad .illop 0
      else if firstOnly opc && ofs != 0 then .bad .illop 0
      else if isTransfer opc && (match next.head? with
          | some f => match feOpc f with
            | some o => o != 0x180
            | none => false
          | none => false) then .bad .illop 0
      else if (vNames b).any (fun v => decide (nregs ≤ v)) then .bad .illop 0
      else if opc != 0x180 && regs.any (fun x => decide (x ∈ sc.pend)) then .bad .illop 0
      else if (match tqMask b, sc.mask with
          | some j, some k => j != k
          | _, _ => false) then .bad .illop 0
      else .ok i n
    | x => x

/-- RUNTMP (R54): a read of an x-register that no earlier word of the run names as a destination. -/
def runtmp (b : Body) (sc : Scan) : Bool :=
  b.shape.reads.any (fun r => decide (128 ≤ r) && decide (r < 144) && !decide (r ∈ sc.xs))

/-- The budget of a word: 1 + DLY, for LOOPN 3 + DLY (R51). -/
def wordBudget (b : Body) (n : Nat) : Nat := if b.opc = 0x180 then 0 else n + b.hdr.dly.toNat

/-- The word at which an instruction takes the budget above 24 (R53): LOOPN's extension words add one each after the first word's 1 + DLY. -/
def overBudget (sc : Scan) (b : Body) (n : Nat) : Option Nat :=
  if sc.budget + wordBudget b n ≤ 24 then none
  else (List.range n).find? (fun k => decide (24 < sc.budget + wordBudget b (k + 1)))

def Scan.step (sc : Scan) (b : Body) (n : Nat) : Scan :=
  { budget := sc.budget + wordBudget b n, xs := b.shape.writes.filter (fun r => decide (128 ≤ r) && decide (r < 144)) ++ sc.xs,
    pend := longDests b ++ sc.pend, mask := (tqMask b).or sc.mask }

/-- The target of a word that has one (R174, R176, R179). -/
def wordTarget (i : Instr) (pc : Nat) : Option Int :=
  match i with
  | .br w => some (targetOf pc w.imm)
  | .bru w => some (targetOf pc w.imm)
  | .call w => some (targetOf pc w.imm)
  | .spawn w => some (targetOf pc w.imm)
  | _ => none

/-- Decode a run from its first PC, word by word: the lowest failing offset reports (R53). -/
def State.decodeFrom (s : State) (core ctx nregs : Nat) (priv : Bool) (pc : Nat) : Nat → Nat → Scan → List IWord → List (Nat × Instr) → RunRes
  | 0, _, _, _, _ => .wait pc
  | fuel + 1, ofs, sc, ws, is =>
    let at_ (k : Nat) : Fe := s.fetchWord core ctx (pc + 12 * k)
    match at_ ofs with
    | .bad c => .trap c ofs
    | .wait => .wait (pc + 12 * ofs)
    | .ok w =>
      match wordChecks priv nregs ofs sc w [at_ (ofs + 1), at_ (ofs + 2)] with
      | .bad c k => .trap c (ofs + k)
      | .wait k => .wait (pc + 12 * (ofs + k))
      | .ok i n =>
        let b := bodyOf i
        let tgt := match wordTarget i (pc + 12 * ofs) with
          | none => some none
          | some t => s.targetCheck core ctx t
        match tgt with
        | none => .wait (((wordTarget i (pc + 12 * ofs)).getD 0).toNat)
        | some (some c) => .trap c ofs
        | some none =>
          if runtmp b sc then .trap .runtmp ofs
          else match overBudget sc b n with
          | some k => .trap .runlen (ofs + k)
          | none =>
            let more := (List.range n).filterMap (fun k => match at_ (ofs + k) with
              | .ok w => some w
              | _ => none)
            let ws' := ws ++ more
            let is' := is ++ [(ofs, i)]
            if b.opc = 0x180 then .ok ws' is'
            else s.decodeFrom core ctx nregs priv pc fuel (ofs + n) (sc.step b n) ws' is'

/-- Decode the run at a PC. -/
def State.decodeRun (s : State) (core ctx nregs : Nat) (priv : Bool) (pc : Nat) : RunRes :=
  s.decodeFrom core ctx nregs priv pc 26 0 { budget := 0, xs := [], pend := [], mask := none } [] []

end Sys2Proof.Machine
end

