-- ==== Sys2Proof/Machine/Operands.lean ====
section
/-! DEFINITION. Every operand form: reading and writing per-thread, uniform and special operands (R38 to R44, R72, R136). -/

namespace Sys2Proof.Machine

/-- The value of a source operand in lane l, as an operand of type t (R43, R44): a 64-bit type names a pair; a g-register gives its low
32 bits to a narrower type; an immediate is converted to the type. -/
def readLane (rg : Regs) (t : Ty) (o : Opnd) (l : Nat) : BitVec 64 :=
  match o with
  | .v n => if is64 t then rg.vreg (n.toNat + 1) l ++ rg.vreg n.toNat l else (rg.vreg n.toNat l).setWidth 64
  | .x n => if is64 t then rg.xreg (n.toNat + 1) l ++ rg.xreg n.toNat l else (rg.xreg n.toNat l).setWidth 64
  | .g n => if is64 t then rg.greg n.toNat else ((rg.greg n.toNat).setWidth 32).setWidth 64
  | .imm b => immOp t b
  | .sp _ => 0

/-- Write x to a class 00 destination in lane l: a pair when `wide`, otherwise the low 32 bits. -/
def writeLane (rg : Regs) (wide : Bool) (o : Opnd) (l : Nat) (x : BitVec 64) : Regs :=
  match o with
  | .v n => if wide then (rg.setV n.toNat l (x.setWidth 32)).setV (n.toNat + 1) l (x.extractLsb' 32 32) else rg.setV n.toNat l (x.setWidth 32)
  | .x n => if wide then (rg.setX n.toNat l (x.setWidth 32)).setX (n.toNat + 1) l (x.extractLsb' 32 32) else rg.setX n.toNat l (x.setWidth 32)
  | _ => rg

/-- Write f l in every lane l of a mask. -/
def writeLanes (rg : Regs) (m : Lanes) (wide : Bool) (o : Opnd) (f : Nat → BitVec 64) : Regs :=
  (lanesOf m).foldl (fun r l => writeLane r wide o l (f l)) rg

/-- A value of a type in its register (R72): the low bits, sign- or zero-extended. -/
def narrow (t : Ty) (x : BitVec 64) : BitVec 64 := extRes t x

/-- The number of a special operand from base `lo` (Table 2-3); 0 for any other operand. -/
def spNum (lo : Nat) (o : Opnd) : Nat := (spOf o).getD lo - lo
def cNum (o : Opnd) : Nat := spNum 0 o
def kNum (o : Opnd) : Nat := spNum 8 o
def fNum (o : Opnd) : Nat := spNum 16 o
def qNum (o : Opnd) : Nat := spNum 32 o
def jNum (o : Opnd) : Nat := spNum 40 o

/-- A c-bit of a lane; a k-bit. -/
def readC (rg : Regs) (o : Opnd) (l : Nat) : Bool := (rg.creg (cNum o)).getLsbD l
def readK (rg : Regs) (o : Opnd) : Bool := rg.kreg (kNum o)

/-- A c-bit written in the lanes of a mask: 1 where p holds, 0 elsewhere in the mask, unchanged outside it. -/
def writeC (rg : Regs) (m : Lanes) (n : Nat) (p : Nat → Bool) : Regs :=
  rg.setC n ((rg.creg n &&& ~~~m) ||| maskOf ((lanesOf m).filter p))

/-- A uniform source (R151): a g-register whole, or an immediate extended by the type. -/
def readG (rg : Regs) (t : Ty) (o : Opnd) : Dword :=
  match o with
  | .g n => rg.greg n.toNat
  | .imm b => immOp t b
  | _ => 0
/-- A uniform source whose immediate is zero-extended (R149, R182, R192, Table 10-4). -/
def readGz (rg : Regs) (o : Opnd) : Dword := readG rg .b64 o
def gReg (o : Opnd) : Nat :=
  match o with
  | .g n => n.toNat
  | _ => 0
/-- The g-register an operand names. -/
def readGr (rg : Regs) (o : Opnd) : Dword := rg.greg (gReg o)

/-- The class 00 register number of an operand. -/
def vReg (o : Opnd) : Nat :=
  match o with
  | .v n => n.toNat
  | .x n => n.toNat
  | _ => 0

/-- The w bytes of the data registers from operand o, in lane l, lowest register first (R110). -/
def readData (rg : Regs) (o : Opnd) (w l : Nat) : Nat :=
  let rd (i : Nat) : Nat := match o with
    | .v n => (rg.vreg (n.toNat + i) l).toNat
    | .x n => (rg.xreg (n.toNat + i) l).toNat
    | _ => 0
  let all := rd 0 + rd 1 * 2 ^ 32 + rd 2 * 2 ^ 64 + rd 3 * 2 ^ 96
  all % 2 ^ (8 * w)

/-- A loaded element of w bytes written to v-registers from n (R110, R113): a narrow one extended, a wide one little-endian. -/
def writeData (rg : Regs) (n w : Nat) (sx : Bool) (l : Nat) (x : Nat) : Regs :=
  if w ≤ 4 then
    let v := if sx then BitVec.ofNat 32 ((intOf (8 * w) true (BitVec.ofNat 64 x)) % 2 ^ 32).toNat else BitVec.ofNat 32 x
    rg.setV n l v
  else (List.range (w / 4)).foldl (fun r i => r.setV (n + i) l (BitVec.ofNat 32 (x / 2 ^ (32 * i)))) rg

end Sys2Proof.Machine
end

