-- ==== Sys2Proof/Machine/Flags.lean ====
section
/-! DEFINITION. Flag computations: what per-lane results merge into FPSTAT (R93, R94, R139) and the result of a per-lane word. -/

namespace Sys2Proof.Machine

/-- A per-lane result: its bits and the flags it raises. -/
abbrev LaneRes := BitVec 64 × Flags

/-- The flags of every lane of a mask together (R93). -/
def laneFlags (m : Lanes) (f : Nat → LaneRes) : Flags := (lanesOf m).foldl (fun acc l => acc ||| (f l).2) 0

/-- Flags are sticky (R93). -/
def mergeFlags (g : Group) (fl : Flags) : Group := { g with fpstat := g.fpstat ||| fl }

/-- The group after a per-lane word writes f l to destination d in every lane l of the mask, flags merged (R136, R137, R139). -/
def setLanes (g : Group) (m : Lanes) (d : Opnd) (wide : Bool) (f : Nat → LaneRes) : Group :=
  mergeFlags { g with regs := writeLanes g.regs m wide d (fun l => (f l).1) } (laneFlags m f)

/-- The group after a per-lane word writes c-bit d in the lanes of the mask. -/
def setCond (g : Group) (m : Lanes) (d : Opnd) (p : Nat → Bool) (fl : Flags) : Group :=
  mergeFlags { g with regs := writeC g.regs m (cNum d) p } fl

/-- DN where an encoding of a floating-point operand is subnormal (R139). -/
def dnFlag (F : Fmt) (b : Nat) : Flags := flagIf (fSub F b) fDN

/-- Writing FPSTAT replaces its seven flags; those that a LOOPN merged in the same cycle are ORed into the written value (R93, R94). -/
def setFpstat (g : Group) (now : BitVec 64) (x : Dword) : Group :=
  { g with fpstat := x.setWidth 7 ||| (if g.tileFlAt = now then g.tileFl else 0) }

/-- A LOOPN that ends merges its flags; they are kept with the cycle for a CSRW of the same one (R94, R157). -/
def mergeTile (g : Group) (now : BitVec 64) (fl : Flags) : Group :=
  { mergeFlags g fl with tileFl := (if g.tileFlAt = now then g.tileFl else 0) ||| fl, tileFlAt := now }

end Sys2Proof.Machine
end

