-- ==== Sys2Proof/Machine/Mem.lean ====
section
/-! DEFINITION. The load-store engine: the issue of loads, stores, SEND, PREF, FENCE, atomics and the log-memory words
(R98 to R135, R228 to R232). Their accesses perform in the steps of Perform.lean. -/

namespace Sys2Proof.Machine

/-! Addresses and checks (R100, R109, R111, R130). -/

/-- The base of a lane: 64 bits in `.gl`, 32 bits elsewhere (R109). -/
def laneBase (rg : Regs) (sp : Space) (a : Opnd) (l : Nat) : BitVec 64 := readLane rg (if sp = .gl then .b64 else .b32) a l

/-- form_address (R100): modulo 2^64 in `.gl`, a 33-bit signed sum elsewhere. -/
def formAddr (sp : Space) (base : BitVec 64) (ofs : BitVec 32) : Int :=
  if sp = .gl then ((base + ofs.signExtend 64).toNat : Int) else sum33 (base.setWidth 32) ofs

def laneAddr (rg : Regs) (sp : Space) (a : Opnd) (ofs : BitVec 32) (l : Nat) : Int := formAddr sp (laneBase rg sp a l) ofs

/-- The outcome of one lane's checks. -/
inductive Chk where
  | ok (mt : BitVec 2) (remote : Bool)
  | bad (c : Cause)
  | park (page : Nat)
  deriving DecidableEq, Repr

/-- check_lane: ALIGN, SPACE, then the translation's failures in the order of R130. -/
def State.checkLane (s : State) (launch core ctx : Nat) (sp : Space) (n : Need) (a : Int) : Chk :=
  if a % (n.width : Int) ≠ 0 then .bad .align
  else if sp = .gl then
    match s.translate (coreCluster core) ctx a.toNat n with
    | .ok h => .ok h.mtype h.remote
    | .bad c => .bad c
    | .park p => .park p
  else if s.padOk launch core sp a n.width then .ok 0 false else .bad .space

/-- A lane, its address and its checks' outcome. -/
structure Probe where
  lane : Nat
  addr : Int
  chk : Chk
  deriving DecidableEq, Repr

/-- The causes of memory words in the order of R130. -/
def memCauses : List Cause := [.align, .space, .nomap, .access, .lockmiss]

/-- The earliest cause at which any lane failed, the lanes that failed with it, and the address of the lowest. -/
def firstFailure (ps : List Probe) : Option (Cause × Lanes × Int) :=
  match memCauses.find? (fun c => ps.any (fun p => p.chk == .bad c)) with
  | none => none
  | some c =>
    let bad := ps.filter (fun p => p.chk == .bad c)
    some (c, maskOf (bad.map (·.lane)), (bad.head?.map (·.addr)).getD 0)

/-- The first page that a lane parks on: where the lanes of a word meet several pages of the capacity tier, the group is recorded for that of the lowest lane
alone, and for the next one at the replay (log entry 62). -/
def firstPark (ps : List Probe) : Option Nat :=
  ps.findSome? (fun p => match p.chk with
    | .park pg => some pg
    | _ => none)

/-- A group parks at its word (R133): the run waits and its die's fault unit records the waiter (R370). -/
def State.addWaiter (s : State) (die page : Nat) (who : WaiterWho) (launch ctx : Nat) : State :=
  let (n, s) := s.newNum
  { s with waiters := s.waiters.set n { die := die, page := page, who := who, launch := launch, ctx := ctx, requested := false, cancel := false } }.tally die 163

/-- A waiter whose access is parked at the owner of its page: this module requests no migration for it (R374). -/
def isFwd : WaiterWho → Bool
  | .fwd _ _ => true | _ => false

def State.parkRun (s : State) (gid : Nat) (second : Bool) (g : Group) (page : Nat) : State :=
  (s.modRun gid second (fun r => { r with wait := .park page })).addWaiter (clusterDie (s.grpCluster g)) page (.group gid) g.launch g.ctx

/-- What a checked word does: trap with the earliest cause (R130, R131), park (R133), or go on. -/
def State.guardMem (s : State) (gid : Nat) (second : Bool) (g : Group) (r : Run) (ps : List Probe) (go : State → State) : State :=
  match firstFailure ps with
  | some (c, ls, a) => s.trapRun gid r c ls (BitVec.ofInt 64 a) 0 0
  | none => match firstPark ps with
    | some pg => s.parkRun gid second g pg
    | none => go s

/-! Outstanding operations (R24, R129). -/

/-- The effective lanes of a word (R111). -/
def effLanes (g : Group) (r : Run) (b : Opnd) : List Nat := lanesOf (r.mask &&& g.regs.creg (cNum b))

def partOf (p : Probe) (data : Nat) : Part :=
  let (mt, rm) := match p.chk with
    | .ok mt rm => (mt, rm)
    | _ => (0, false)
  { lane := p.lane, addr := p.addr.toNat, mt := mt, remote := rm, data := BitVec.ofNat 256 data, val := 0, served := false, servedAt := 0, fin := false,
    refused := false, asked := false, put := false }

/-- Whether a kind counts in the loads class, and in the stores class (Table 1-7). -/
def isLoadKind : MKind → Bool
  | .ld _ => true | .lds => true | .atom _ _ ret => ret | .pload _ => true | .tlock => true
  | .st => false | .send _ => false | .zline => false | .fence => false | .inv _ _ => false
def isStoreKind : MKind → Bool
  | .st => true | .send _ => true | .zline => true | .atom _ _ ret => !ret
  | .ld _ => false | .lds => false | .pload _ => false | .tlock => false | .fence => false | .inv _ _ => false

/-- A PLOAD is no memory word (R105). -/
def isPload : MKind → Bool
  | .pload _ => true | _ => false

/-- An operation enters the engine: it is numbered in program order and counts in its class; its translations use the LIB's ways. -/
def State.pushOp (s : State) (gid : Nat) (op : MemOp) : State :=
  let (n, s) := s.newNum
  let s := { s with ops := s.ops.set n op }
  let s := if op.space = .gl then match s.grp gid with
      | some g => s.libTouch (s.grpCluster g) ((op.parts.map (fun x => leafKey g.ctx x.addr)).dedup)
      | none => s
    else s
  s.modGrp gid (fun g => { g with
    loads := g.loads + (if isLoadKind op.kind then 1 else 0), stores := g.stores + (if isStoreKind op.kind then 1 else 0) })

/-- Whether some access of a word is to an SO page (Table 4-3). -/
def hasSo (ps : List Part) : Bool := ps.any (fun p => p.mt == 3)

/-- A memory operation of a word, in its core's memory queue (R105). -/
def State.newOp (s : State) (gid : Nat) (r : Run) (k : MKind) (w : Mem) (dest : Nat) (ps : List Part) : MemOp :=
  { gid := gid, pc := wordPc r.pc r.idx, ofs := r.idx, kind := k, space := w.space, width := widthBytes w.width
    order := w.order, scope := w.scope, parts := ps, dest := dest
    arriveAt := s.pcc, req := none, sync := false, queued := true }

/-! Orders (R125, R127). -/

def isAcq : Order → Bool
  | .acq => true | .ar => true | .sc => true | .rlx => false | .rel => false
def isRel : Order → Bool
  | .rel => true | .ar => true | .sc => true | .rlx => false | .acq => false

/-- Whether an access carries a release at `.di` or wider. -/
def relWide (op : MemOp) : Bool := isRel op.order && scopeWide op.scope

/-- Whether an operation holds back a release (Table 4-9): it has not performed, or, for a `.gl` store, is not accepted. A PLOAD's read is a load (R247). -/
def holdsRelease (o : MemOp) : Bool :=
  match o.kind with
  | .ld _ => true | .lds => true | .atom _ _ _ => true
  | .st => if o.space = .gl then !o.parts.all (·.served) else true
  | .zline => !o.parts.all (·.served)
  | .pload _ => true
  | .send _ => false | .tlock => false | .fence => false | .inv _ _ => false

/-- A word's operation is pushed. One that carries a release at `.di` or wider holds the run at its word until its publication has its log space, so that a
LOGFULL has the outcome of R131 (R234). -/
def State.pushWord (s : State) (gid : Nat) (second : Bool) (op : MemOp) : State :=
  let t := s.pushOp gid op
  if relWide op then t.modRun gid second (fun r => { r with wait := .release s.fresh }) else t

/-- The word of an SO access: a FENCE.sc.pk stands before it and another after it (Table 4-3); the run waits for each. -/
def State.soWord (s : State) (gid : Nat) (second : Bool) (r : Run) (ps : List Part) (go : State → State) : State :=
  let hold (s : State) (k : Nat) : State := s.modRun gid second (fun r => { r with wait := .fence .pk s.fresh none true k })
  if !hasSo ps then go s else if r.soDone then hold (go s) 2 else hold s 1

/-- The acquire of a fence waits among the group's operations until it performs (R127). -/
def State.pushAcquire (s : State) (gid : Nat) (r : Run) (sc : Scope) : State :=
  s.pushOp gid { gid := gid, pc := wordPc r.pc r.idx, ofs := r.idx, kind := .fence, space := .ln, width := 1, order := .acq, scope := sc,
                 parts := [], dest := 0, arriveAt := s.pcc, req := none, sync := false, queued := false }

/-- FENCE (R127): a release holds the run at its word; an acquire alone only orders later accesses. -/
def State.fence (s : State) (gid : Nat) (second : Bool) (r : Run) (od : Order) (sc : Scope) : State :=
  if isRel od then s.modRun gid second (fun r => { r with wait := .fence sc s.fresh none (isAcq od) 0 })
  else if isAcq od then s.pushAcquire gid r sc
  else s

/-! Loads (R113, R114). -/

/-- The probes of a per-lane word. -/
def State.probes (s : State) (g : Group) (r : Run) (w : Mem) (ofs : BitVec 32) (n : Need) : List Probe :=
  (effLanes g r w.b).map (fun l =>
    let a := laneAddr g.regs w.space w.a ofs l
    { lane := l, addr := a, chk := s.checkLane g.launch (s.grpCore g) g.ctx w.space n a })

/-- A per-lane load. A word with no effective lane accesses nothing, but its order takes effect (R111). -/
def loadWord (opc : Nat) (sx : Bool) (w : Mem) (s : State) : Out :=
  groupWord (.mem opc w) 1 s (fun gid second g r s =>
    let ps := s.probes g r w w.imm (needLoad (widthBytes w.width))
    if ps.isEmpty then s.fence gid second r w.order w.scope
    else s.guardMem gid second g r ps (fun s =>
      let parts := ps.map (fun p => partOf p 0)
      s.soWord gid second r parts (fun s => s.pushWord gid second (s.newOp gid r (.ld sx) w (vReg w.d) parts))))

def execLd (w : Mem) (s : State) : Out := loadWord 0x100 false w s
def execLdx (w : Mem) (s : State) : Out := loadWord 0x106 true w s

/-- LDS (R114): one access, whatever the lanes. -/
def execLds (w : Mem) (s : State) : Out :=
  groupWord (.mem 0x101 w) 1 s (fun gid second g r s =>
    let a := formAddr w.space (readGr g.regs w.a) w.imm
    let p : Probe := { lane := 64, addr := a, chk := s.checkLane g.launch (s.grpCore g) g.ctx w.space (needLoad (widthBytes w.width)) a }
    match p.chk with
    | .bad c => s.trapRun gid r c r.mask (BitVec.ofInt 64 a) 0 0
    | .park pg => s.parkRun gid second g pg
    | .ok _ _ => s.soWord gid second r [partOf p 0] (fun s => s.pushWord gid second (s.newOp gid r .lds w (gReg w.d) [partOf p 0])))

/-! Stores (R115, R116, R134). -/

/-- The lines of a ZLINE. -/
def zeroLines (ctx a n : Nat) : List Nat := (List.range n).map (fun k => lineKey ctx (a + 256 * k))
/-- Lines that accepted `.gl` words of a cluster's groups will still write in its buffer. -/
def State.pendingLines (s : State) (cl : Nat) : List Nat :=
  s.ops.flatMap (fun p => match s.grp p.2.gid with
    | none => []
    | some g =>
      if p.2.space = .gl ∧ s.grpCluster g = cl then
        match p.2.kind with
        | .st => (p.2.parts.filter (fun x => !x.served && decide (x.mt.toNat < 2))).map (fun x => lineKey g.ctx x.addr)
        | .zline => (p.2.parts.filter (fun x => !x.served)).flatMap (fun x => zeroLines g.ctx x.addr x.data.toNat)
        | _ => []
      else [])

/-- The line keys of parts that go through the write-combining buffer (Table 4-3). -/
def bufKeys (ctx : Nat) (ps : List Part) : List Nat :=
  ((ps.filter (fun p => p.mt.toNat < 2)).map (fun p => lineKey ctx p.addr)).dedup

/-- A `.gl` store waits at its word while its cluster's log has no room (R134, R208). -/
def State.logGuard (s : State) (gid : Nat) (second : Bool) (g : Group) (lks : List Nat) (go : State → State) : State :=
  let cl := s.grpCluster g
  if s.canAccept cl lks (s.pendingLines cl) then go s
  else (s.tellSpace cl).modRun gid second (fun r => { r with wait := .logSpace (s.logLimit g.ctx) })

/-- A `.gl` atomic waits at its word until the open batch has room (R208) and the log can promise a record for each of its lanes (R134): 9 units each, for one that
must be a full image. A line of a peer's page takes no space here (R378). -/
def State.atomGuard (s : State) (gid : Nat) (second : Bool) (g : Group) (ps : List Part) (go : State → State) : State :=
  let cl := s.grpCluster g
  let room := if s.batchRoom cl (bufKeys g.ctx ps) (s.pendingLines cl) then s.promise cl (9 * (ps.filter (fun x => !x.remote)).length) else none
  match room with
  | some s => go s
  | none => (s.tellSpace cl).modRun gid second (fun r => { r with wait := .logSpace (s.logLimit g.ctx) })

/-- ST. -/
def execSt (w : Mem) (s : State) : Out :=
  groupWord (.mem 0x102 w) 1 s (fun gid second g r s =>
    let n := widthBytes w.width
    let ps := s.probes g r w w.imm (needStore n)
    if ps.isEmpty then s.fence gid second r w.order w.scope
    else s.guardMem gid second g r ps (fun s =>
      let parts := ps.map (fun p => partOf p (readData g.regs w.d n p.lane))
      let go (s : State) : State := s.pushWord gid second (s.newOp gid r .st w 0 parts)
      if w.space = .gl then s.logGuard gid second g (bufKeys g.ctx parts) (fun s => s.soWord gid second r parts go) else go s))

/-! SEND (R117, R118). -/

/-- Table 4-7: the fields of a SEND target. -/
def sendOk (sp : Space) (t : Dword) : Bool :=
  t.extractLsb' 24 40 == 0 && t.extractLsb' 12 3 == 0 && (sp == .cm || t.extractLsb' 21 3 == 0) &&
  (if t.getLsbD 15 then t.extractLsb' 0 12 == 0 else decide ((t.extractLsb' 0 12).toNat < Config.partitionSize))

/-- The checks of a SEND lane: alignment, then the space's size and the target. -/
def sendChk (sp : Space) (n : Nat) (t : Dword) (a : Int) : Chk :=
  if a % (n : Int) ≠ 0 then .bad .align
  else if a < 0 ∨ a + n > spaceSize sp ∨ !sendOk sp t then .bad .space else .ok 0 false

/-- The latency of a SEND's write within its die; the fabric's is not fixed. -/
def execSend (w : Mem) (s : State) : Out :=
  groupWord (.mem 0x103 w) 1 s (fun gid second g r s =>
    let n := widthBytes w.width
    let t := match immC w.imm with
      | some o => readGr g.regs o
      | none => 0
    let ps := (effLanes g r w.b).map (fun l =>
      let a := laneAddr g.regs w.space w.a 0 l
      { lane := l, addr := a, chk := sendChk w.space n t a : Probe })
    if ps.isEmpty then s
    else s.guardMem gid second g r ps (fun s =>
      s.pushOp gid (s.newOp gid r (.send t) w 0 (ps.map (fun p => partOf p (readData g.regs w.d n p.lane))))))

/-! PREF (R119). -/

/-- PREF changes no architectural state. -/
def execPref (w : Mem) (s : State) : Out := groupWord (.mem 0x104 w) 1 s (fun _ _ _ _ s => s)

/-! FENCE (R127). -/

def execFence (w : Mem) (s : State) : Out :=
  groupWord (.mem 0x105 w) 1 s (fun gid second _ r s => s.fence gid second r w.order w.scope)

/-! Atomics (R120 to R123). -/

/-- The value v[C] of a lane, of n bytes, and for ACAS the new value after it. -/
def atomData (g : Group) (w : Mem) (n l : Nat) : Nat :=
  match atomC w with
  | some o => readData g.regs o (2 * n) l % 2 ^ (16 * n)
  | none => 0

def isC7 (o : Opnd) : Bool := o == .sp 7

def atomWord (opc : Nat) (fn : AtomOp) (w : Mem) (s : State) : Out :=
  groupWord (.mem opc w) 1 s (fun gid second g r s =>
    let n := widthBytes w.width
    let ps := s.probes g r w (atomOfs w) (needAtom n)
    if ps.isEmpty then s.fence gid second r w.order w.scope
    else s.guardMem gid second g r ps (fun s =>
      let parts := ps.map (fun p => partOf p (atomData g w n p.lane))
      let go (s : State) : State := s.pushWord gid second (s.newOp gid r (.atom fn (atomSgn w) (!isC7 w.d)) w (vReg w.d) parts)
      if w.space = .gl then s.atomGuard gid second g parts go else go s))

def execAadd (w : Mem) (s : State) : Out := atomWord 0x110 .add w s
def execAmin (w : Mem) (s : State) : Out := atomWord 0x111 .min w s
def execAmax (w : Mem) (s : State) : Out := atomWord 0x112 .max w s
def execAand (w : Mem) (s : State) : Out := atomWord 0x113 .and w s
def execAor (w : Mem) (s : State) : Out := atomWord 0x114 .or w s
def execAxor (w : Mem) (s : State) : Out := atomWord 0x115 .xor w s
def execAxchg (w : Mem) (s : State) : Out := atomWord 0x116 .xchg w s
def execAcas (w : Mem) (s : State) : Out := atomWord 0x117 .cas w s
def execAfadd (w : Mem) (s : State) : Out := atomWord 0x118 .fadd w s

/-! Log-memory words (R229 to R232). -/

/-- The last write of a handle's operation: a group's copies counter and its f-register (R16, R24). -/
def State.setHandle (s : State) (gid : Nat) (f : Nat) (h : Word) (counts : Bool) : State :=
  s.modGrp gid (fun g => { g with regs := g.regs.setF f h, copies := g.copies + (if counts then 1 else 0) })

/-- An asynchronous operation is accepted: its entry, its handle, its place among the engines' operations. None while the next entry of the
future table is PENDING (R18); then the issuing word waits. -/
def State.startAop (s : State) (gid : Nat) (g : Group) (f : Nat) (cls : BitVec 4) (counts : Bool) (kind : AKind) (stage : AStage) :
    Option (State × Nat × Nat) :=
  let n := s.fresh
  match s.allocFut g.ctx cls (if counts then some gid else none) g.launch n with
  | none => none
  | some (s, h) =>
    let s := (s.newNum).2
    let op : AOp := AOp.new g.ctx (some gid) g.launch (s.grpCluster g) (hTag h) kind stage s.pcc
    some ({ (s.setHandle gid f h counts) with aops := s.aops.set n op }, n, hTag h)

/-- The word stalls until a future-table entry is there (R18); the run keeps the ports. -/
def State.waitFuture (s : State) (gid : Nat) (second : Bool) : State := s.modRun gid second (fun r => { r with wait := .stay false })

/-- An operation accepted for a group, or its word's wait. -/
def State.asyncWord (s : State) (gid : Nat) (second : Bool) (g : Group) (f : Nat) (cls : BitVec 4) (counts : Bool) (kind : AKind) (stage : AStage) :
    State :=
  match s.startAop gid g f cls counts kind stage with
  | some (s, _) => s
  | none => s.waitFuture gid second

/-- An operation whose entry is made DONE, or FAILED, at once. -/
def State.asyncNow (s : State) (gid : Nat) (second : Bool) (g : Group) (f : Nat) (cls : BitVec 4) (counts : Bool) (st : FutSt) : State :=
  match s.startAop gid g f cls counts .stream .holding with
  | some (s, n, tag) => ({ s with aops := s.aops.erase n }).resolve g.ctx tag st
  | none => s.waitFuture gid second

/-- PUB (R229): a request for the whole open batch, and nothing to wait for. -/
def execPub (w : Mem) (s : State) : Out :=
  groupWord (.mem 0x200 w) 1 s (fun gid _ g _ s => (s.lodgeAfter (s.grpCluster g) g.ctx gid .batch).2)

/-- gA + gB, exact (R230). -/
def rangeEnd (a b : Dword) : Nat := a.toNat + b.toNat

/-- PUBR (R230): the request's turn comes once the group's earlier stores are accepted (R210). -/
def execPubr (w : Mem) (s : State) : Out :=
  groupWord (.mem 0x201 w) 1 s (fun gid second g r s =>
    let a := readGr g.regs w.a
    let b := readGr g.regs w.b
    if b = 0 then s.asyncNow gid second g (fNum w.d) 4 true .ok
    else if rangeEnd a b > 2 ^ 48 then s.trapPlain gid r .nomap
    else match s.startAop gid g (fNum w.d) 4 true .pubr .queued with
      | none => s.waitFuture gid second
      | some (s, n, _) =>
        let (q, s) := s.lodgeAfter (s.grpCluster g) g.ctx gid (.range a.toNat b.toNat)
        s.modAop n (fun o => { o with stage := .publishing q }))

/-- Whether an acquire of the group has still to perform. -/
def State.acquires (s : State) (gid upto : Nat) : Bool := s.ops.any (fun p => decide (p.1 < upto) && p.2.gid == gid && isAcq p.2.order)

/-- INVR (R231): at once, or as an operation that takes effect once the group's earlier acquires have performed. -/
def execInvr (w : Mem) (s : State) : Out :=
  groupWord (.mem 0x202 w) 1 s (fun gid _ g r s =>
    let a := (readGr g.regs w.a).toNat
    let n := (readGr g.regs w.b).toNat
    if s.acquires gid s.fresh then
      s.pushOp gid { gid := gid, pc := wordPc r.pc r.idx, ofs := r.idx, kind := .inv a n, space := .ln, width := 1, order := .rlx, scope := .co, parts := []
                     dest := 0, arriveAt := s.pcc, req := none, sync := false, queued := false }
    else s.invRange (s.grpCore g) g.ctx a n)

/-- The first failing or parking line of ZLINE: ALIGN, then each line as a store, every leaf against its own header; DEV and SO pages trap ACCESS (R232, R365). -/
def State.zlineChk (s : State) (core ctx a n : Nat) : Chk :=
  let one (p : Nat) : Tr := match s.translate (coreCluster core) ctx p (needStore 8) with
    | .ok h => if h.mtype.toNat ≥ 2 then .bad .access else .ok h
    | t => t
  if a % 256 ≠ 0 then .bad .align
  else match joinTr (one a :: (leafSteps a (256 * n)).map one) with
    | .ok h => .ok h.mtype h.remote
    | .bad c => .bad c
    | .park pg => .park pg

/-- ZLINE (R232): one part, whose data is the number of lines. -/
def execZline (w : Mem) (s : State) : Out :=
  groupWord (.mem 0x203 w) 1 s (fun gid second g r s =>
    let a := readGr g.regs w.a
    let n := w.imm.toNat
    match s.zlineChk (s.grpCore g) g.ctx a.toNat n with
    | .bad c => s.trapRun gid r c r.mask a 0 0
    | .park pg => s.parkRun gid second g pg
    | .ok _ _ =>
      s.logGuard gid second g (zeroLines g.ctx a.toNat n) (fun s =>
        s.pushWord gid second { s.newOp gid r .zline w 0 [partOf { lane := 64, addr := a.toNat, chk := .ok 0 false } n] with
                       width := 256 }))

end Sys2Proof.Machine
end

