-- ==== Sys2Proof/Machine/Control.lean ====
section
/-! DEFINITION. The issue engine's instructions: transfers of control, spawns, pauses, barriers, handles, traps, CSRs and mailboxes
(R57 to R59, R172 to R183, R189, R190, R192, R286 to R288, R418). -/

namespace Sys2Proof.Machine

/-- A control word of a group. -/
def ctlWord (opc : Nat) (w : Ctl) (s : State) (eff : Nat → Bool → Group → Run → State → State) : Out := groupWord (.ctl opc w) 1 s eff

/-- A control word that changes only its own group. -/
def ctlOnly (opc : Nat) (w : Ctl) (s : State) (f : Group → Run → State → Group) : Out := groupOnly (.ctl opc w) 1 s f

/-! No effect of their own at issue (R57 to R59, R326). -/

/-- NOP (R59). -/
def execNop (w : Ctl) (s : State) : Out := ctlOnly 0x197 w s (fun g _ _ => g)
/-- WAIT (R57): its condition was met when its run started. -/
def execWait (w : Ctl) (s : State) : Out := ctlOnly 0x181 w s (fun g _ _ => g)
/-- RJOIN (R326): its condition was met when its run started. -/
def execRjoin (w : Ctl) (s : State) : Out := ctlOnly 0x18F w s (fun g _ _ => g)

/-! Transfers of control (R174 to R177): they take effect at the run's end. -/

/-- Next PCs for some lanes of the run. -/
def setGoto (t : Pc) (ls : List Nat) (r : Run) : Run := { r with goto := ls.foldl (fun m l => m.set l t) r.goto }

def brTarget (r : Run) (w : Ctl) : Pc := BitVec.ofInt 48 (targetOf (wordPc r.pc r.idx).toNat w.imm)

/-- BR: the lanes whose c-bit is the one asked for. -/
def execBr (w : Ctl) (s : State) : Out :=
  ctlWord 0x182 w s (fun gid second g r s =>
    s.modRun gid second (fun x => setGoto (brTarget r w) ((lanesOf r.mask).filter (fun l => xor (readC g.regs w.a l) (w.mod.getLsbD 0))) x))

/-- BRU: every lane, or none. -/
def execBru (w : Ctl) (s : State) : Out :=
  ctlWord 0x183 w s (fun gid second g r s =>
    s.modRun gid second (fun x => setGoto (brTarget r w) (if xor (readK g.regs w.a) (w.mod.getLsbD 0) then lanesOf r.mask else []) x))

/-- CALL: the link is written at the run boundary (R176). -/
def execCall (w : Ctl) (s : State) : Out :=
  ctlWord 0x185 w s (fun gid second _ r s =>
    s.modRun gid second (fun x => { setGoto (brTarget r w) (lanesOf r.mask) x with link := some (vReg w.d) }))

/-- The first check of R175 that a target fails, 1 to 3; 0 when it passes. None while the target's word is on its way. -/
def State.landCheck (s : State) (core ctx base : Nat) (t : Dword) : Option Nat :=
  if t.toNat ≥ 2 ^ 48 then some 1
  else match s.fetchWord core ctx t.toNat with
    | .bad _ => some 1
    | .wait => if ((t.toNat : Int) - base) % 12 ≠ 0 then some 2 else none
    | .ok w =>
      if ((t.toNat : Int) - base) % 12 ≠ 0 then some 2 else if (Raw.ofWord w).land = 1 then some 0 else some 3

/-- The word stalls until the code it must see has arrived; the run keeps the ports. -/
def State.waitCode (s : State) (gid : Nat) (second : Bool) (g : Group) (ts : List Dword) : State :=
  (ts.foldl (fun s t => s.askCode (s.grpCore g) g.ctx t.toNat) s).modRun gid second (fun r => { r with wait := .stay true })

/-- JMPBAD with its three masks (R175, Table 6-5). -/
def State.jumpBad (s : State) (gid : Nat) (r : Run) (f : Nat → Nat) : State :=
  let m (k : Nat) : Lanes := maskOf ((lanesOf r.mask).filter (fun l => f l == k))
  s.trapRun gid r .jmpbad (m 1 ||| m 2 ||| m 3) (m 1) (m 2) (m 3)

def State.codeBase (s : State) (g : Group) : Nat := ((s.launchOf g.launch).map (·.codeBase)).getD 0

/-- JMPI and RET: each lane to the address in its pair, all or none. -/
def jumpWord (opc : Nat) (w : Ctl) (s : State) : Out :=
  ctlWord opc w s (fun gid second g r s =>
    let tgt (l : Nat) : Dword := readLane g.regs .b64 w.a l
    let chk? (l : Nat) : Option Nat := s.landCheck (s.grpCore g) g.ctx (s.codeBase g) (tgt l)
    let chk (l : Nat) : Nat := (chk? l).getD 0
    let late := (lanesOf r.mask).filter (fun l => (chk? l).isNone)
    if !late.isEmpty then s.waitCode gid second g (late.map tgt)
    else if (lanesOf r.mask).all (fun l => chk l == 0) then
      s.modRun gid second (fun x => (lanesOf r.mask).foldl (fun x l => setGoto ((tgt l).setWidth 48) [l] x) x)
    else s.jumpBad gid r chk)
def execJmpi (w : Ctl) (s : State) : Out := jumpWord 0x184 w s
def execRet (w : Ctl) (s : State) : Out := jumpWord 0x186 w s

/-- EXIT (R177). -/
def execExit (w : Ctl) (s : State) : Out :=
  ctlWord 0x190 w s (fun gid second _ r s => s.modRun gid second (fun x => { x with exits := r.mask }))

/-- TRET (R189): outside handler mode it traps ILLOP; the target passes the checks of R175. -/
def execTret (w : Ctl) (s : State) : Out :=
  ctlWord 0x198 w s (fun gid second g r s =>
    let t := readGr g.regs w.a
    if !g.handler then s.trapPlain gid r .illop
    else match s.landCheck (s.grpCore g) g.ctx (s.codeBase g) t with
      | none => s.waitCode gid second g [t]
      | some 0 => s.modRun gid second (fun x => { setGoto (t.setWidth 48) (lanesOf r.mask) x with tret := true })
      | some k => s.jumpBad gid r (fun _ => k))

/-! SPAWN (R179). -/

/-- The size of a group's and of a stream's save area (R448). -/
def groupArea : Nat := 65536
def streamArea : Nat := 262144

/-- A page of a save area: NRM, in the fast tier, read only (R448). -/
def savePage (die : Nat) : PageHdr :=
  { perm := 4, mtype := 0, tier := false, valid := true, home := BitVec.ofNat 5 die, owner := 0, remote := false, lcnt := 0, rcnt := 0 }

/-- The pages of an area are mapped: the command processor publishes their headers through the log of cluster 0, as every change to a header is (R363, R448). -/
def State.mapSave (s : State) (ctx addr len die : Nat) : State :=
  let pks := (List.range ((addr % 131072 + len + 131071) / 131072)).map (fun i => pageKey ctx (addr + 131072 * i))
  pks.foldl (fun s pk =>
    match s.pageHdr pk with
    | some _ => s
    | none => (s.lodge 0 ctx none .solo [{ PLine.of ctx (pk % 2 ^ 31 * 512) 0 0 with hdr := some (savePage die) }] 2).2) s

/-- Assign an area of a context's save region, aligned to its size. -/
def State.saveArea (s : State) (ctx size die : Nat) : Nat × State :=
  match s.ctx? ctx with
  | none => (saveRegion, s)
  | some c =>
    let ofs := (c.saveNext + size - 1) / size * size
    (saveRegion + ofs, (s.modCtx ctx (fun c => { c with saveNext := ofs + size })).mapSave ctx (saveRegion + ofs) size die)

/-- A free context of a core, 0 to 30 (R159). -/
def State.freeSlot (s : State) (core : Nat) : Option Nat :=
  let used := (s.coreGroups core).map (fun p => p.2.slotNo)
  (List.range 31).find? (fun k => !decide (k ∈ used))
/-- Registers in use on a core (R65). -/
def State.regsUsed (s : State) (core : Nat) : Nat := ((s.coreGroups core).map (fun p => p.2.nregs)).sum

/-- The lowest free group index of a block at or above the `.groups` count and below 1,024. -/
def State.freeIndex (s : State) (launch block lo : Nat) : Option Nat :=
  ((List.range 1024).drop lo).find? (fun i => (s.grp (gidOf launch block i)).isNone)

/-- A group as it starts (Table 6-1). -/
def Group.start (launch block index ctx : Nat) (priv : Bool) (prio : BitVec 2) (lanes nregs : Nat) (place : Place) (pc : Pc) (mask : Lanes)
    (regs : Regs) (trec now : BitVec 64) : Group :=
  { launch := launch, block := block, index := index, ctx := ctx, priv := priv, prio := prio, lanes := lanes, nregs := nregs, place := place
    pcs := formTable [{ pc := pc, mask := mask, age := 0, yield := none, held := [], noAge := false, frozen := false, fresh := false }]
    regs := regs, fpstat := 0, tileFl := 0, tileFlAt := 0, stallwd := 0x100000000, loads := 0, stores := 0, copies := 0, tiles := 0, tcause := 0, tpc := 0, tlmask := 0
    trec := trec, handler := false, run := none, run2 := none, escapes := [], wmask := 0, parked := [], deferred := [], tqErrs := [], trap := none
    stopReq := false, saveReq := false, saveOp := none, moveTo := none, lastCore := 0, stopped := false, stallFrom := now, served := 0, joined := now.toNat, movedAt := 0,
    issuedAt := none }

/-- A group joins its core, behind those that are there (R167), with its lane-private memory zero (R446). -/
def State.addGroup (s : State) (gid : Nat) (g : Group) : State :=
  (s.setMems { s.mems with ln := s.mems.ln.clear (gid * 65536) 65536 }).setGrp gid { g with joined := s.now, lastCore := g.core?.getD 0 }

/-- v0 to v7 of the issuing lanes and every g-register (R179). -/
def spawnRegs (g : Group) (m : Lanes) : Regs :=
  (lanesOf m).foldl (fun rg l => (List.range 8).foldl (fun rg i => rg.setV i l (g.regs.vreg i l)) rg) { Regs.reset with g := g.regs.g }

def execSpawn (w : Ctl) (s : State) : Out :=
  ctlWord 0x187 w s (fun gid _ g r s =>
    let core := s.grpCore g
    let n := ((s.launchOf g.launch).map (·.ngroups)).getD 0
    let fail := s.modGrp gid (fun g => { g with regs := g.regs.setK (kNum w.d) false })
    match s.freeSlot core, s.freeIndex g.launch g.block n with
    | some k, some i =>
      if s.regsUsed core + g.nregs ≤ 1024 then
        let (a, s) := s.saveArea g.ctx groupArea (clusterDie (coreCluster core))
        let new := Group.start g.launch g.block i g.ctx g.priv g.prio g.lanes g.nregs (.resident core k) (brTarget r w) r.mask (spawnRegs g r.mask)
          (BitVec.ofNat 64 a) s.pcc
        (s.addGroup (gidOf g.launch g.block i) new).modGrp gid (fun g => { g with regs := g.regs.setK (kNum w.d) true })
      else fail
    | _, _ => fail)

/-! PAUSE, barriers (R171, R172, R182, R183). -/

/-- PAUSE: the largest request of the run counts. -/
def execPause (w : Ctl) (s : State) : Out :=
  ctlWord 0x188 w s (fun gid second _ _ s =>
    s.modRun gid second (fun x => { x with yieldReq := max x.yieldReq (w.imm.extractLsb' 0 16).toNat }))

def scopeOfMod (w : Ctl) : Scope := (scopeOf (w.mod.extractLsb' 0 3)).getD .ln

/-- BAR and SSTEP: one arrival, made at the end of the run; a count of 0 or above 2^24 in a g-register traps ILLOP. -/
def barWord (opc : Nat) (sends : Bool) (w : Ctl) (s : State) : Out :=
  ctlWord opc w s (fun gid second g r s =>
    let n := (readGz g.regs w.a).toNat
    if n = 0 ∨ n > 2 ^ 24 then s.trapPlain gid r .illop
    else s.modRun gid second (fun x => { x with
      arrive := x.arrive ++ [{ scope := scopeOfMod w, id := (w.imm.extractLsb' 0 4).toNat, count := n, sends := sends }] }))
def execBar (w : Ctl) (s : State) : Out := barWord 0x189 false w s
def execSstep (w : Ctl) (s : State) : Out := barWord 0x18A true w s

/-! Handles (R180, R181). -/

/-- Whether a blocking read would not wait: every handle but a live PENDING one. -/
def notPending (c : Ctx) (h : Word) : Bool :=
  match c.live? h with
  | some e => e.st != .pending
  | none => true

/-- FTEST. -/
def execFtest (w : Ctl) (s : State) : Out :=
  ctlOnly 0x18B w s (fun g _ s =>
    let h := g.regs.freg (fNum w.a)
    match s.ctx? g.ctx with
    | none => g
    | some c =>
      if isG w.d then { g with regs := g.regs.setG (gReg w.d) (futCode c h) }
      else { g with regs := g.regs.setK (kNum w.d) (notPending c h) })

/-- FMOVG. -/
def execFmovg (w : Ctl) (s : State) : Out :=
  ctlOnly 0x18D w s (fun g _ _ => { g with regs := g.regs.setG (gReg w.d) ((g.regs.freg (fNum w.a)).setWidth 64) })
/-- GMOVF: no check. -/
def execGmovf (w : Ctl) (s : State) : Out :=
  ctlOnly 0x18E w s (fun g _ _ => { g with regs := g.regs.setF (fNum w.d) ((readGr g.regs w.a).setWidth 32) })

/-! TRAP, BKPT (R190). -/

def execTrapOp (w : Ctl) (s : State) : Out :=
  ctlWord 0x191 w s (fun gid _ _ r s => s.trapPlain gid r (.prog (w.imm.extractLsb' 0 8)))
def execBkpt (w : Ctl) (s : State) : Out := ctlWord 0x192 w s (fun gid _ _ r s => s.trapPlain gid r .bkpt)

/-! CSRs (R192, Tables 3-7, 6-7 to 6-9, 7-10 to 7-12, 18-2). -/

/-- The value of a CSR in lane l of a group. -/
def State.csrValue (s : State) (g : Group) (n l : Nat) : Dword :=
  let c := (s.ctx? g.ctx).getD Ctx.empty
  match n with
  | 0x40 => s.pcc
  | 0x41 => g.fpstat.setWidth 64
  | 0x42 => g.stallwd.setWidth 64
  | 0x43 => BitVec.ofNat 64 l
  | 0x44 => BitVec.ofNat 64 ((64 * g.index + l) % 65536)
  | 0x45 => BitVec.ofNat 64 (g.block % 2 ^ 32)
  | 0x46 => BitVec.ofNat 64 (g.launch % 65536)
  | 0x47 => g.tcause.setWidth 64
  | 0x48 => g.tpc.setWidth 64
  | 0x49 => g.tlmask
  | 0x4A => g.trec
  | 0x80 => c.ixroot.setWidth 64
  | 0x81 => (s.cl (s.grpCluster g)).wcwin.setWidth 64
  | 0x82 => c.logstall.setWidth 64
  | 0x83 => (if c.ben then 0x200000000 else 0) ||| (if c.hen then 0x100000000 else 0) ||| c.fh.setWidth 64
  | _ => 0

/-- CSRR: a g-register takes the whole value, a v- or x-register its low 32 bits in every lane of the mask. -/
def execCsrr (w : Ctl) (s : State) : Out :=
  ctlOnly 0x193 w s (fun g r s =>
    if isG w.d then { g with regs := g.regs.setG (gReg w.d) (s.csrValue g (spNum 0 w.a) 0) }
    else { g with regs := writeLanes g.regs r.mask false w.d (fun l => s.csrValue g (spNum 0 w.a) l) })

/-- STALLWD and LOGSTALL store at least 1,024. -/
def atLeast1024 (x : Nat) : Nat := max 1024 x

/-- TRACE_FLUSH (R418): a flush handle is allocated, and stands in TRACECTL.FH. -/
def State.startFlush (s : State) (g : Group) : Option State :=
  let n := s.fresh
  match s.allocFut g.ctx 0xA none g.launch n with
  | none => none
  | some (s, h) =>
    let s := (s.newNum).2
    let op : AOp := AOp.new g.ctx none g.launch (s.grpCluster g) (hTag h) .flush .running s.pcc
    some ({ (s.modCtx g.ctx (fun c => { c with fh := h })) with aops := s.aops.set n op })

/-- The effect of writing x to CSR n. -/
def State.csrWrite (s : State) (gid : Nat) (second : Bool) (g : Group) (n : Nat) (x : Dword) : State :=
  match n with
  | 0x41 => s.modGrp gid (fun g => setFpstat g s.pcc x)
  | 0x42 => s.modGrp gid (fun g => { g with stallwd := BitVec.ofNat 48 (atLeast1024 (x.extractLsb' 0 48).toNat) })
  | 0x81 => s.modCl (s.grpCluster g) (fun c => { c with wcwin := x.setWidth 12 })
  | 0x82 => s.modCtx g.ctx (fun c => { c with logstall := BitVec.ofNat 32 (atLeast1024 (x.extractLsb' 0 32).toNat) })
  | 0x83 =>
    let s1 := s.modCtx g.ctx (fun c => { c with hen := x.getLsbD 32, ben := x.getLsbD 33 })
    if x.getLsbD 40 then match s1.startFlush g with
      | some s2 => s2
      | none => s.waitFuture gid second
    else s1
  | _ => s

/-- CSRW. -/
def execCsrw (w : Ctl) (s : State) : Out :=
  ctlWord 0x194 w s (fun gid second g _ s => s.csrWrite gid second g (spNum 0 w.d) (readGz g.regs w.a))

/-- TRACE_FLUSH: the CSRW of TRACECTL (R418). -/
def execTraceFlush (w : Ctl) (s : State) : Out :=
  ctlWord 0x194 w s (fun gid second g _ s => s.csrWrite gid second g 0x83 (readGr g.regs w.a))

/-! Mailboxes (R30, R286 to R288). -/

def mailBox (w : Ctl) : Nat := (w.imm.extractLsb' 0 4).toNat
def Cluster.box (c : Cluster) (m : Nat) : List MailPlace := c.mail.getD [] m
def Cluster.setBox (c : Cluster) (m : Nat) (ps : List MailPlace) : Cluster := { c with mail := c.mail.put [] m ps }

/-- The Parts-engine operations that write memory: PXDRN and PXSAVE. -/
def pxWrites (o : PxOp) : Bool := let c := (o.word.extractLsb' 86 10).toNat; c == 0x2A6 || c == 0x2A8

/-- A place is takeable once its poster's release at `.cl` is complete: the poster's earlier accesses have performed (R30, R288). -/
def State.takeable (s : State) (cl : Nat) (p : MailPlace) : Bool :=
  p.ready || !p.lost &&
  match p.byGroup with
  | some gid => !s.ops.any (fun q => decide (q.1 < p.upto) && q.2.gid == gid && holdsRelease q.2)
  | none =>
    let q := (s.cl cl).seq
    (q.accs.filter (fun a => decide (a.1 < p.upto) && a.2.acc.write)).isEmpty && (q.pxq.filter (fun o => decide (o.after < p.upto) && pxWrites o)).isEmpty

/-- The messages that can be taken: the takeable places at the head (R288). -/
def State.takeCount (s : State) (cl m : Nat) : Nat := (((s.cl cl).box m).takeWhile (s.takeable cl)).length

/-- SQPOST of a group. -/
def execSqpostGroup (w : Ctl) (s : State) : Out :=
  ctlWord 0x195 w s (fun gid _ g _ s =>
    let p : MailPlace := { msg := readGz g.regs w.a, ready := false, lost := false, byGroup := some gid, upto := s.fresh }
    s.modCl (s.grpCluster g) (fun c => c.setBox (mailBox w) (c.box (mailBox w) ++ [p])))

/-- SQWAIT of a group: the head message, or under TRY whether there is one. -/
def execSqwaitGroup (w : Ctl) (s : State) : Out :=
  ctlWord 0x196 w s (fun gid _ g _ s =>
    let cl := s.grpCluster g
    let try_ := w.mod.getLsbD 0
    match (s.cl cl).box (mailBox w) with
    | p :: ps =>
      if s.takeable cl p then
        (s.modCl cl (fun c => c.setBox (mailBox w) ps)).modGrp gid (fun g =>
          let rg := g.regs.setG (gReg w.d) p.msg
          { g with regs := if try_ then rg.setK (kNum w.b) true else rg })
      else s.modGrp gid (fun g => { g with regs := if try_ then g.regs.setK (kNum w.b) false else g.regs })
    | [] => s.modGrp gid (fun g => { g with regs := if try_ then g.regs.setK (kNum w.b) false else g.regs }))

end Sys2Proof.Machine
end

