-- ==== Sys2Proof/Machine/Translate.lean ====
section
/-! DEFINITION. Translation and migration: walks and fills, locked leaves, the fault units, promotion, demotion, probes, page counters and
transfers (R205, R363 to R381). -/

namespace Sys2Proof.Machine

/-! Walks and fills (R205, R364). -/

/-- The lines that loads of a cluster's slots and of its sequencer wait for. -/
def State.engineLines (s : State) (cl : Nat) : List Nat :=
  (List.range 24).flatMap (fun i => let k := s.slot (24 * cl + i)
    (k.loads.filter (fun x => x.sp == .gl)).map (fun x => lineKey k.ctx x.addr)) ++
  let q := s.seqOf cl
  (q.accs.filter (fun a => a.2.acc.space == .gl)).map (fun a => lineKey q.ctx a.2.acc.addr)

/-- The line of a leaf that some access of the cluster waits for, if any: the line that causes the leaf's fill (R205). -/
def State.missLine (s : State) (cl leaf : Nat) : Option Nat :=
  (s.ops.findSome? (fun p => match s.grp p.2.gid with
    | none => none
    | some g =>
      if p.2.space = .gl ∧ s.grpCluster g = cl then
        (p.2.parts.find? (fun x => !x.served && leafKey g.ctx x.addr == leaf)).map (fun x => lineKey g.ctx x.addr)
      else none)).or ((s.engineLines cl).find? (fun lk => leafOfLine lk == leaf))

/-- TRANSLATION_WALK (R364): the header of a leaf that misses is found and its fill is on the way. -/
def execTranslationWalk (cluster leaf : Nat) (s : State) : Out := .next (s.libWalk cluster leaf (s.missLine cluster leaf))

/-- LIB_FILL (R205): a leaf whose fill is on the way takes its 16 entries and its page's header as they stand; the fill waits at the home while the entry of the
line that caused the miss is PREP. -/
def execLibFill (cluster leaf : Nat) (s : State) : Out :=
  match (s.cl cluster).lib.get? leaf with
  | none => .next s
  | some lf =>
    if lf.landed then .next s
    else match lf.miss with
      | none => .next (s.libFillNow cluster leaf)
      | some lk => if s.prepAt lk then .next (s.waitRead lk (.fill cluster leaf)) else .next ((s.libFillNow cluster leaf).doneRead lk (.fill cluster leaf))

/-! Locked leaves (R366 to R369). -/

def leavesOf (ctx base len : Nat) : List Nat :=
  if len = 0 then [] else (List.range ((base + len - 1) / 4096 - base / 4096 + 1)).map (fun i => leafKey ctx (base + 4096 * i))

def lockedWays (lib : FMap LibLeaf) : FMap LibLeaf := lib.filter (fun p => decide (p.2.locks > 0))

/-- Whether the LIB can lock leaves besides those it holds locked (R204, R367). -/
def lockFits (lib : FMap LibLeaf) (ls : List Nat) : Bool :=
  let held := lockedWays lib
  let new := ls.filter (fun l => (held.get? l).isNone)
  decide (held.length + new.length ≤ 1024) &&
  (List.range 128).all (fun set =>
    decide ((held.filter (fun p => libSet p.1 == set)).length + (new.filter (fun l => libSet l == set)).length ≤ 8)) &&
  ls.all (fun l => match lib.get? l with
    | some lf => decide (lf.locks < 255)
    | none => true)

/-- One more lock of a leaf. A newly locked way is filled anew, whether or not the leaf was there; until that fill has landed an access to the leaf waits (R367). -/
def State.lockLeaf (s : State) (cl leaf : Nat) : State :=
  match (s.cl cl).lib.get? leaf, s.pageHdr (pageOfLeaf leaf) with
  | some lf, _ => s.modCl cl (fun c => { c with
      lib := c.lib.set leaf { lf with locks := lf.locks + 1, landed := decide (0 < lf.locks) && lf.landed, miss := if 0 < lf.locks then lf.miss else none } })
  | none, h =>
    let (n, s) := s.newNum
    let hdr := h.getD { perm := 0, mtype := 0, tier := false, valid := false, home := 0, owner := 0, remote := false, lcnt := 0, rcnt := 0 }
    s.modCl cl (fun c => { c with lib := (libRoom c.lib leaf).set leaf { ents := [], hdr := hdr, locks := 1, landed := false, miss := none, used := n } })

/-- One lock fewer; a way whose count reaches 0 is an ordinary way (R368). -/
def State.unlockLeaf (s : State) (cl leaf : Nat) : State :=
  s.modCl cl (fun c => { c with lib := c.lib.modify leaf (fun lf => { lf with locks := lf.locks - 1 }) })

/-- TLOCK (R367). -/
def execTlock (w : Ctl) (s : State) : Out :=
  ctlWord 0x204 w s (fun gid _ g r s =>
    let a := readGr g.regs w.a
    let b := readGr g.regs w.b
    let setK (v : Bool) (s : State) : State := s.modGrp gid (fun g => { g with regs := g.regs.setK (kNum w.d) v })
    if b = 0 then setK true s
    else if rangeEnd a b > 2 ^ 48 then s.trapPlain gid r .nomap
    else
      let cl := s.grpCluster g
      let recs := ((s.blocks.get? g.blockKey).map (·.locks)).getD []
      let count := (a.toNat + b.toNat - 1) / 4096 - a.toNat / 4096 + 1
      let ls := if count ≤ 1024 then leavesOf g.ctx a.toNat b.toNat else []
      if count ≤ 1024 ∧ recs.length < 64 ∧ lockFits (s.cl cl).lib ls = true then
        let fresh := ls.filter (fun l => match (s.cl cl).lib.get? l with
          | some lf => lf.locks == 0
          | none => true)
        let s := ls.foldl (fun s l => s.lockLeaf cl l) (setK true s)
        let s := s.modBlock g.blockKey (fun x => { x with locks := x.locks ++ [{ base := a.toNat, len := b.toNat, leaves := ls }] })
        let parts := fresh.map (fun l => partOf { lane := 64, addr := (leafAddr l : Int), chk := .ok 0 false } 0)
        s.pushOp gid { gid := gid, pc := wordPc r.pc r.idx, ofs := r.idx, kind := .tlock, space := .gl, width := 1, order := .rlx, scope := .ln,
                       parts := parts, dest := 0, arriveAt := s.pcc, req := none, sync := false, queued := false }
      else setK false s)

/-- TLOCK_FILL_LAND (R367): when every newly locked way is filled the loads counter falls. -/
def execTlockFillLand (op : Nat) (s : State) : Out :=
  match s.ops.get? op with
  | none => .next s
  | some o =>
    match o.kind, s.grp o.gid with
    | .tlock, some g =>
      let landed (p : Part) : Bool := match (s.cl (s.grpCluster g)).lib.get? (leafKey g.ctx p.addr) with
        | some lf => lf.landed
        | none => true
      if o.parts.all landed then
        .next (({ s with ops := s.ops.erase op }).modGrp o.gid (fun g => { g with loads := g.loads - 1 }))
      else .next s
    | _, _ => .next s

/-- Remove the first lock record of a base and length. -/
def State.dropLock (s : State) (bk base len : Nat) : State :=
  match s.blocks.get? bk with
  | none => s
  | some b =>
    match b.locks.find? (fun x => x.base == base && x.len == len) with
    | none => s
    | some x =>
      x.leaves.foldl (fun s l => s.unlockLeaf b.cluster l) (s.modBlock bk (fun b => { b with locks := b.locks.erase x }))

/-- TUNLOCK (R368). -/
def execTunlock (w : Ctl) (s : State) : Out :=
  ctlWord 0x205 w s (fun _ _ g _ s => s.dropLock g.blockKey (readGr g.regs w.a).toNat (readGr g.regs w.b).toNat)

/-- Every lock record of a block, removed as TUNLOCK would (R368). -/
def State.dropLocks (s : State) (bk : Nat) : State :=
  match s.blocks.get? bk with
  | none => s
  | some b => b.locks.foldl (fun s x => s.dropLock bk x.base x.len) s

/-! TPROBE (R377). -/

def execTprobe (w : Ctl) (s : State) : Out :=
  ctlWord 0x206 w s (fun gid second g r s =>
    let a := readGr g.regs w.a
    let b := readGr g.regs w.b
    if b.toNat % 16 ≠ 0 then s.trapRun gid r .align r.mask b 0 0
    else if !s.padOk g.launch (s.grpCore g) .cm b.toNat 16 then s.trapRun gid r .space r.mask b 0 0
    else s.asyncWord gid second g (fNum w.d) 5 false (.tprobe a.toNat b.toNat) .running)

/-- The header as 128 bits (Table 7-5). -/
def hdrBits (h : PageHdr) : BitVec 128 :=
  h.rcnt ++ h.lcnt ++ 0#39 ++ BitVec.ofBool h.remote ++ h.owner ++ h.home ++ BitVec.ofBool h.valid ++ BitVec.ofBool h.tier ++ h.mtype ++ h.perm

/-- The result of a probe (Table 15-2). -/
def State.probeBytes (s : State) (cl ctx addr : Nat) : List Byte :=
  if addr ≥ 2 ^ 48 then le 8 (2 ^ 60) ++ le 8 0
  else
    let h := match s.pageHdr (pageKey ctx addr) with
      | some h => (hdrBits h).toNat
      | none => 0
    let lf := (s.cl cl).lib.get? (leafKey ctx addr)
    let locked := match lf with
      | some l => decide (l.locks > 0)
      | none => false
    let migr := (s.migs.get? (pageKey ctx addr)).isSome
    le 8 ((if locked then 2 ^ 63 else 0) + (if lf.isSome then 2 ^ 62 else 0) + (if migr then 2 ^ 61 else 0) + h % 2 ^ 25) ++ le 8 (h / 2 ^ 64)

/-- The stacks that hold a copy of a table (R316). -/
def Table.stacks (t : Table) : List Nat := match t.loc with
  | some k => [k]
  | none => List.range 16

/-- A table's frame index returns to its stacks (R320, R321). -/
def State.freeFrames (s : State) (t : Table) : State :=
  t.stacks.foldl (fun s k => s.modStack k (fun x => { x with frames := x.frames.filter (· != t.frame) })) s

/-- A table of a context becomes FREE and its frames return. -/
def State.dropTable (s : State) (c n : Nat) : State :=
  match (s.ctx? c).bind (fun x => x.tables.get? n) with
  | none => s
  | some t => (s.freeFrames t).modCtx c (fun x => { x with tables := x.tables.erase n })

/-- The stack of an arm, the chunk buffers of 4 KiB that it reserves, the keys under which it keeps their numbers and the put of a rank (R343). -/
def LandBlk.stack (b : LandBlk) : Nat := b.tag.toNat % 16
def LandBlk.slots (b : LandBlk) : Nat := 2 * (b.nsrc + 1)
def slotsKey : Nat := 2 ^ 52 + 2
def rankKey (r : Nat) : Nat := 2 ^ 53 + r
/-- Who sent a put: an operation of this module, or of a peer. -/
def putId (peer : Option (BitVec 12)) (op : Nat) : List Byte := le 8 op ++ le 8 (match peer with
  | some m => m.toNat + 1
  | none => 0)

/-- The numbers of the chunk buffers that an arm holds. -/
def AOp.chunkBufs (o : AOp) : List Nat := match o.buf slotsKey with
  | none => []
  | some bs => (List.range (bs.length / 2)).map (fun i => ((bs.drop (2 * i)).take 2).foldr (fun b acc => b.toNat + 256 * acc) 0)
/-- The buffers of an arm return (R343). -/
def State.freeChunks (s : State) (o : AOp) (b : LandBlk) : State :=
  s.modStack b.stack (fun k => { k with live := k.live.filter (fun x => !decide (x ∈ o.chunkBufs)) })

/-- The puts that an arm has begun to accept fail with CANCELLED; a peer's is told (Table 13-3). -/
def State.failPuts (s : State) (o : AOp) : State :=
  (o.bufs.filter (fun p => decide (rankKey 0 ≤ p.1))).foldl (fun s p =>
    let op := natOfBytes (p.2.take 8)
    match natOfBytes (p.2.drop 8) with
    | 0 => match s.aops.get? op with
      | some x => ({ s with aops := s.aops.erase op }).resolve x.ctx x.tag (.failed .cancelled)
      | none => s
    | m + 1 => s.sendMsg (BitVec.ofNat 12 m) 1 op (.chunkAck op 0 (some .cancelled))) s

/-- What an operation that did not succeed gives back: a loading table becomes FREE (R320), a slot being taken becomes FREE (R361), the chunk buffers of
an arm return (R343). -/
def State.undoAop (s : State) (o : AOp) : State :=
  match o.kind, o.stage with
  | .tload n _ _, _ => s.dropTable o.ctx n
  | .arm _ _ (some b), _ => (s.freeChunks o b).failPuts o
  | .snap k, .running => s.modCtx o.ctx (fun x => { x with stopped := false, snaps := x.snaps.erase k })
  | _, _ => s

/-- An operation ends: its entry takes a state, if it is still the entry's operation, and it leaves the engine. -/
def State.endAop (s : State) (n : Nat) (st : FutSt) : State :=
  match s.aops.get? n with
  | none => s
  | some o =>
    let mine := match s.ctx? o.ctx with
      | some c => (c.fut o.tag).op == n
      | none => false
    let s := { s with aops := s.aops.erase n, waiters := s.waiters.filter (fun p => p.2.who != WaiterWho.aop n) }
    let s := if mine then s.resolve o.ctx o.tag st else s
    if st = .ok then s else s.undoAop o

/-- TPROBE_RESULT (R377): the result's bytes are performed in cluster memory, then the entry is DONE. -/
def execTprobeResult (op : Nat) (s : State) : Out :=
  match s.aops.get? op with
  | none => .next s
  | some o =>
    match o.kind with
    | .tprobe a res =>
      .next ((s.padWriteBytes .cm (o.cluster * cmBytes + res) (s.probeBytes o.cluster o.ctx a)).endAop op .ok)
    | _ => .next s

/-! Fault units (R370 to R373). -/

/-- The migration of a page, as its HOME die's fault unit holds it. -/
def Mig.new (toCap : Bool) : Mig :=
  { toCap := toCap, req := none, dies := [], op := none, failed := none, till := none, xfer := none }

/-- Pages that a die's fault unit has requested (R370: 256 entries). -/
def State.pageEntries (s : State) (die : Nat) : List Nat :=
  ((s.waiters.filter (fun p => p.2.die == die && p.2.requested && !isFwd p.2.who)).map (fun p => p.2.page)).dedup

/-- PAGE_REQUEST (R371): a die's fault unit sends a page's request, once, to the fault unit of its HOME die, which joins it to a migration. -/
def execPageRequest (die page : Nat) (s : State) : Out :=
  let mine (w : Waiter) : Bool := w.die == die && w.page == page && !isFwd w.who
  let es := s.pageEntries die
  if s.waiters.any (fun p => mine p.2 && !p.2.requested) && (decide (page ∈ es) || decide (es.length < 256)) then
    let m := (s.migs.get? page).getD (Mig.new false)
    let m' := if decide (die ∈ m.dies) then m else { m with dies := m.dies ++ [die] }
    .next { s with
      migs := s.migs.set page m', waiters := s.waiters.map (fun p => if mine p.2 then (p.1, { p.2 with requested := true }) else p) }
  else .next s

/-- The migration log of a page's home (R10, R371). -/
def migLog (h : PageHdr) : Nat := 259 + 4 * (h.home.toNat / 2)

/-- Append a record to a log in a segment of one tier, sealing an open segment of the other; `useRsv` lets the cleaner take a fast segment from its reserve. -/
def State.appendTier (s : State) (log die : Nat) (cap useRsv : Bool) (r : Rec) : Option (State × Nat) :=
  let right := match (s.log log).seg with
    | some k => segIsCap k == cap
    | none => false
  let here := if right then s.appendHere log r (s.heldUnits log) else none
  match here with
  | some x => some x
  | none =>
    let s := s.sealLog log
    match (if cap then s.takeCapSeg log die else s.takeSeg log useRsv) with
    | none => none
    | some s => s.appendHere log r 0

/-- The lines of a page that hold an entry, and always its first. -/
def State.pageLines (s : State) (pk : Nat) : List Nat :=
  let first := pageCtx pk * 2 ^ 40 + pk % 2 ^ 31 * 512
  (List.range 512).filterMap (fun i =>
    let lk := first + i
    if i = 0 || s.homeEntry lk != IxEntry.empty then some lk else none)

/-- The moved copies of lines, appended in order, as lines of a publication that expects the old positions (R219, R371). -/
def State.copyLines (s : State) (log die : Nat) (cap : Bool) (kind : BitVec 2) : List Nat → Option (State × List PLine)
  | [] => some (s, [])
  | lk :: rest =>
    let e := s.homeEntry lk
    let d := readEntry s.store.recs e
    let r := wholeRec s log (keyCtxLine lk) (lk % 2 ^ 40) kind d
    match s.appendTier log die cap false r with
    | none => none
    | some (s, p) => match s.copyLines log die cap kind rest with
      | none => none
      | some (s, xs) =>
        let x := PLine.of (keyCtxLine lk) (lk % 2 ^ 40) fullMask d
        some (s, { x with pos := p, msk := 0xFF, fmt := r.fmt, expect := some e } :: xs)

/-- The last line carries the header. -/
def withHdr (h : PageHdr) : List PLine → List PLine
  | [] => []
  | [x] => [{ x with hdr := some h }]
  | x :: xs => x :: withHdr h xs

/-- promote or demote (R371, R375): the copies are appended and one migration publication is requested. A shortage of space that lasts
LOGSTALL of the page's context fails the migration with LOGFULL (R372). -/
def State.startMig (s : State) (pk : Nat) (m : Mig) : State :=
  match s.pageHdr pk with
  | none => s
  | some h =>
    let log := migLog h
    match s.copyLines log h.home.toNat m.toCap 2 (s.pageLines pk) with
    | none =>
      let till := m.till.getD (s.logLimit (pageCtx pk))
      let s := s.tellSpace log
      if s.due till then { s with migs := s.migs.set pk { m with failed := some .logfull } }
      else { s with migs := s.migs.set pk { m with till := some till } }
    | some (s, ls) =>
      let (r, s) := s.lodge log (pageCtx pk) none .solo (withHdr { h with tier := m.toCap, lcnt := 0, rcnt := 0 } ls) 2
      { s with migs := s.migs.set pk { m with req := some r } }

/-! Explicit migration (R376). -/

/-- MIGR. -/
def execMigr (w : Ctl) (s : State) : Out :=
  ctlWord 0x207 w s (fun gid second g r s =>
    let a := readGr g.regs w.a
    let b := readGr g.regs w.b
    if rangeEnd a b > 2 ^ 48 then s.trapPlain gid r .nomap
    else if b = 0 then s.asyncNow gid second g (fNum w.d) 5 false .ok
    else s.asyncWord gid second g (fNum w.d) 5 false (.migr a.toNat b.toNat (w.mod.getLsbD 0) (a.toNat / 131072)) .running)

/-- Whether any cluster holds a leaf of the page locked (R369). -/
def State.pageLocked (s : State) (pk : Nat) : Bool :=
  s.clusters.any (fun c => c.2.lib.any (fun p => decide (p.2.locks > 0) && pageOfLeaf p.1 == pk))

/-- The MIGR operation whose next page this is. -/
def State.migrAt (s : State) (cap : Bool) (pk : Nat) : Option Nat :=
  (s.aops.find? (fun p => p.2.stage == .running && match p.2.kind with
    | .migr _ _ c next => c == cap && pageKey p.2.ctx (next * 131072) == pk
    | _ => false)).map (·.1)

/-- MIGR goes on to its next page, or is DONE after its last. -/
def State.migrAdvance (s : State) (op : Nat) : State :=
  match s.aops.get? op with
  | none => s
  | some o => match o.kind with
    | .migr base len cap next =>
      if (next + 1) * 131072 ≥ base + len then s.endAop op .ok
      else s.modAop op (fun o => { o with kind := .migr base len cap (next + 1), stage := .running })
    | _ => s

/-- One page of a MIGR: its failures, a page already in place, or a migration begun (R376). -/
def State.migrPage (s : State) (op pk : Nat) (cap : Bool) : State :=
  if saveRegion ≤ pageAddr pk then s.endAop op (.failed .access)
  else match s.pageHdr pk with
  | none => s.endAop op (.failed .nomap)
  | some h =>
    if h.remote || (cap && s.pageLocked pk) then s.endAop op (.failed .access)
    else if h.tier == cap then s.migrAdvance op
    else match s.migs.get? pk with
      | some m => if m.op.isNone && m.toCap == cap then { s with migs := s.migs.set pk { m with op := some op } } else s
      | none => (s.startMig pk { Mig.new cap with op := some op }).modAop op (fun o => { o with stage := .holding })

/-- PAGE_PROMOTE (R371): a requested page, or the next page of a MIGR, is read, appended and published in the fast tier. -/
def execPagePromote (page : Nat) (s : State) : Out :=
  match s.migrAt false page with
  | some op => .next (s.migrPage op page false)
  | none =>
    match s.migs.get? page with
    | none => .next s
    | some m => if m.req.isNone && !m.toCap && m.failed.isNone && m.xfer.isNone then .next (s.startMig page m) else .next s

/-- The pages that hardware demotion may take at a stack (R375): fast, local, not locked, homed on its dies. -/
def State.demotable (s : State) (stack pk : Nat) (h : PageHdr) : Bool :=
  h.valid && !h.tier && !h.remote && h.home.toNat / 2 == stack && !s.pageLocked pk && (s.migs.get? pk).isNone &&
  decide (pageAddr pk < saveRegion)
/-- The lower count goes first, ties by lower address. -/
def demoteRank (pk : Nat) (h : PageHdr) : Nat := (h.lcnt.toNat + h.rcnt.toNat) * 2 ^ 48 + pageAddr pk

/-- PAGE_DEMOTE (R375, R376): with the pool low the coldest page goes to the capacity tier; so does the next page of a MIGR. -/
def execPageDemote (stack page : Nat) (s : State) : Out :=
  match s.migrAt true page with
  | some op => .next (s.migrPage op page true)
  | none =>
    match s.store.pages.get? page with
    | none => .next s
    | some h =>
      let least := s.store.pages.all (fun p => !s.demotable stack p.1 p.2 || decide (demoteRank page h ≤ demoteRank p.1 p.2))
      if s.sys.demen && decide ((s.stack stack).pool < s.sys.demlo.toNat) && s.demotable stack page h && least then
        .next (s.startMig page (Mig.new true))
      else .next s

/-! Notices and cancellation (R372, R373). -/

/-- The places that a sequencer posted behind a Parts-engine operation that is discarded: its writes never perform, so they are never takeable (R283, R288). -/
def losePlaces (gone : List PxOp) (ps : List MailPlace) : List MailPlace :=
  ps.map (fun p => if p.byGroup.isNone && !p.ready && gone.any (fun o => pxWrites o && decide (o.after < p.upto)) then { p with lost := true } else p)

/-- The sequencer's stream ends (R276, R288): queued operations that have not started are discarded, the mailboxes close. -/
def State.seqEnd (s : State) (cl : Nat) (c : Cause) (t : Option Trap) : State :=
  let q := s.seqOf cl
  let gone := if c = .none then [] else q.pxq.filter (fun o => !o.started)
  let s := s.modCl cl (fun k => { k with
    mailOpen := false, mail := k.mail.map (fun b => (b.1, losePlaces gone b.2))
    seq := { q with st := .ended, cause := c, trap := t, pxq := if c = .none then q.pxq else q.pxq.filter (·.started)
                    accs := if c = .none then q.accs else q.accs.filter (fun a => a.2.acc.write) } })
  { s with waiters := s.waiters.filter (fun p => p.2.who != .seq cl) }

/-- A sequencer trap (R289): issue stops at once; its record follows. A trap after the first is none. -/
def State.seqTrapAt (s : State) (cl : Nat) (c : Cause) (deferred : Bool) (wpc : Pc) (d0 : Dword) : State :=
  let q := s.seqOf cl
  if q.trap.isSome || (q.st == .ended && q.cause != .none) then s
  else s.seqEnd cl c (some { cause := c, deferred := deferred, ofs := 0, wpc := wpc, mask := 0, lanes := 0, detail0 := d0, detail1 := 0, detail2 := 0,
                             req := none })

/-- The owner relays to a parked access's module that it replays, or that it has ended (R374). A peer's prepare goes on waiting. -/
def State.tellPeer (s : State) (n : Nat) (m : QfMsg) (bad : Option Cause) : State :=
  let tell (op lane : Nat) : State := match bad with
    | none => s.sendMsg m.peer 0 op (.replayed op lane)
    | some c => ({ s with inbox := s.inbox.erase n }).sendMsg m.peer 0 op (.fwdBad op lane c)
  match m.body with
  | .load op lane _ _ _ => tell op lane
  | .atom op lane _ _ _ _ _ _ _ => tell op lane
  | _ => s

/-- A waiter learns that its page has arrived, or of a failure: a group's word replays or traps, an engine's operation goes on or fails, the
slot and the sequencer go on or stop. -/
def State.wake (s : State) (w : Waiter) (bad : Option Cause) : State :=
  match w.who, bad with
  | .group _, none => s
  | .group gid, some c => match s.grp gid with
    | none => s
    | some g => match g.run with
      | none => s
      | some r => s.trapPlain gid r c
  | .aop n, none => s.modAop n (fun o => { o with stage := .running })
  | .aop n, some c => s.endAop n (.failed c)
  | .slot core, none => s.setSlot core { s.slot core with st := .running }
  | .slot core, some c =>
    let k := s.slot core
    let s := match k.handle with
      | some op => s.endAop op (.failed c)
      | none => s
    s.setSlot core { k with st := .idle, handle := none, loads := [] }
  | .seq _, none => s
  | .seq cl, some c => s.seqTrapAt cl c false (s.seqOf cl).spc 0
  | .host _, _ => s
  | .peer n, bad => match s.inbox.get? n with
    | none => s
    | some m => s.tellPeer n m bad
  | .fwd _ _, none => s
  | .fwd op lane, some _ => s.sendMsg (s.ownerOf (pageFirst w.page)) 0 op (.unpark op lane)

/-- Discard the unlocked LIB entries of a page in the clusters of a die (R372). -/
def State.dropPageLib (s : State) (die pk : Nat) : State :=
  (List.range 8).foldl (fun s i =>
    s.modCl (8 * die + i) (fun c => { c with lib := c.lib.filter (fun p => decide (p.2.locks > 0) || pageOfLeaf p.1 != pk) })) s

/-- MIGRATION_COMMIT_NOTICE (R372): a requesting fault unit learns that the migration has committed or failed, and replays its waiters. -/
def State.migNotice (s : State) (die pk : Nat) (m : Mig) : State :=
  let done := match m.req with
    | some r => s.reqSt r == .complete
    | none => false
  if (!done && m.failed.isNone) || m.xfer.isSome then s
  else
    let mine (w : Waiter) : Bool := w.die == die && w.page == pk && !isFwd w.who
    let ws := s.waiters.filter (fun p => mine p.2)
    let s := if done then s.dropPageLib die pk else s
    let s := ws.foldl (fun s p => s.wake p.2 m.failed) { s with waiters := s.waiters.filter (fun p => !mine p.2) }
    let rest := m.dies.filter (· != die)
    if rest.isEmpty then
      let s := { s with migs := s.migs.erase pk }
      let home := ((s.store.pages.get? pk).map (·.home.toNat)).getD 0
      let s := if done then s.modDie home (fun d => { d with migrated := d.migrated + 1 }) else s
      match m.op with
      | none => s
      | some op => match m.failed with
        | some c => s.endAop op (.failed c)
        | none => s.migrAdvance op
    else { s with migs := s.migs.set pk { m with dies := rest } }

def execMigrationCommitNotice (die page : Nat) (s : State) : Out :=
  match s.migs.get? page with
  | none => .next s
  | some m => if decide (die ∈ m.dies) || m.dies.isEmpty then .next (s.migNotice die page m) else .next s

/-- FAULT_CANCEL (R373): a CANCEL reaches a waiter that no commit notice has reached. -/
def execFaultCancel (die waiter : Nat) (s : State) : Out :=
  match s.waiters.get? waiter with
  | none => .next s
  | some w =>
    if w.die == die && w.cancel then .next (({ s with waiters := s.waiters.erase waiter }).wake w (some .cancelled)) else .next s

/-! Counters and transfers (R379, R380). -/

/-- COUNTER_EPOCH_TICK (R379): at a tick that is a multiple of 2^EPOCH every counter is halved. -/
def execCounterEpochTick (s : State) : Out :=
  let e := 2 ^ s.sys.epochLog.toNat
  if s.now / e > s.sys.epochAt.toNat / e then
    let half (h : PageHdr) : PageHdr := { h with lcnt := h.lcnt >>> 1, rcnt := h.rcnt >>> 1 }
    .next { s.setStore { s.store with pages := s.store.pages.map (fun p => (p.1, half p.2)) } with sys := { s.sys with epochAt := s.pcc } }
  else .next s

/-- The LIBs take another header of a page: unlocked ways go, locked ones are refreshed. -/
def State.freshPage (s : State) (pk : Nat) : State :=
  let s := (List.range 32).foldl (fun (s : State) d => s.dropPageLib d pk) s
  match s.store.pages.get? pk with
  | none => s
  | some h => { s with clusters := s.clusters.map (fun (c : Nat × Cluster) =>
      (c.1, { c.2 with lib := c.2.lib.map (fun (p : Nat × LibLeaf) => if pageOfLeaf p.1 = pk then (p.1, { p.2 with hdr := h }) else p) })) }

/-- The lines of a page that a transfer brings, appended in its home's migration log as lines of one migration publication; none while space is wanting. -/
def State.bringLines (s : State) (h : PageHdr) (ctx : Nat) : List (Nat × Line) → Option (State × List PLine)
  | [] => some (s, [])
  | (ln, d) :: rest =>
    let r := wholeRec s (migLog h) ctx ln 2 d
    match s.appendTier (migLog h) h.home.toNat h.tier false r with
    | none => none
    | some (s, p) => match s.bringLines h ctx rest with
      | none => none
      | some (s, xs) => some (s, { PLine.of ctx ln fullMask d with pos := p, msk := 0xFF, fmt := r.fmt } :: xs)

/-- Step 3 of a transfer, at the new owner: the lines are appended and one migration publication of them and the header, REMOTE = 0, is lodged; once it has
committed, the old owner is told. -/
def State.takePage (s : State) (msg : Nat) (m : QfMsg) (ctx page : Nat) (lines : List (Nat × Line)) (h : PageHdr) : State :=
  match s.migs.get? page with
  | none =>
    (match s.bringLines h ctx lines with
    | none => s.tellSpace (migLog h)
    | some (s, ls) =>
      let (r, s) := s.lodge (migLog h) ctx none .solo (withHdr { h with remote := false, owner := 0, lcnt := 0, rcnt := 0 } ls) 2
      { s with migs := s.migs.set page { Mig.new false with req := some r, xfer := some m.peer } })
  | some g => match g.req with
    | none => s
    | some r =>
      if s.reqSt r == .complete then
        ({ (s.freshPage page) with inbox := s.inbox.erase msg, migs := s.migs.erase page }).sendMsg m.peer 0 page (.pageAck page)
      else s

/-- Step 4, at the old owner: the header becomes REMOTE, and the entries OWNR markers, by a publication of the header. -/
def State.givePage (s : State) (peer : BitVec 12) (page : Nat) : State :=
  match s.migs.get? page, s.store.pages.get? page with
  | some m, some h =>
    if m.xfer = some peer then
      let x := { PLine.of (pageCtx page) (page % 2 ^ 31 * 512) 0 0 with hdr := some { h with remote := true, owner := peer } }
      let (r, s) := s.lodge (migLog h) (pageCtx page) none .solo [x] 2
      { s with migs := s.migs.set page { m with req := some r } }
    else s
  | _, _ => s

/-- The page message of a peer that a new owner has still to take in. -/
def State.pageMsg (s : State) (peer : BitVec 12) (page : Nat) : Option (Nat × QfMsg) :=
  s.inbox.find? (fun p => p.2.peer == peer && match p.2.body with
    | .page _ pk _ _ => pk == page
    | _ => false)

/-- PAGE_TRANSFER (R380), at the owner: grants stop, and once no line is prepared the page's committed lines leave for the new owner; there they are
taken in. The end of the old owner's header publication ends the transfer. -/
def execPageTransfer (page : Nat) (peer : BitVec 12) (s : State) : Out :=
  match s.pageHdr page, s.pageMsg peer page with
  | none, _ => .next s
  | some _, some (msg, m) => match m.body with
    | .page ctx _ ls h' => .next (s.takePage msg m ctx page ls h')
    | _ => .next s
  | some h, none => match s.migs.get? page with
    | none => if h.remote then .next s else .next { s with migs := s.migs.set page { Mig.new false with xfer := some peer } }
    | some m =>
      if m.xfer != some peer then .next s
      else if h.remote then
        (match m.req with
        | some r => if s.reqSt r == .complete then .next { (s.freshPage page) with migs := s.migs.erase page } else .next s
        | none => .next s)
      else
        let busy := s.store.preps.any (fun p => pageOfLine p.1 == page && p.2.holder.isSome)
        if !busy && m.req.isNone then
          let ls := (s.pageLines page).map (fun lk => (lk % 2 ^ 40, s.homeLine lk))
          let s := { s with migs := s.migs.set page { m with req := some 0 } }
          .next (s.sendMsg peer 0 page (.page (pageCtx page) page ls h))
        else .next s

end Sys2Proof.Machine
end

