-- ==== Sys2Proof/Machine/Issue.lean ====
section
/-! DEFINITION. The issue engine's own steps: the end of a run and its boundary, arbitration and the start of runs, waits inside a run, barriers,
stalls, traps, pre-emption, save and restore, the end of a group (R55, R56, R159 to R172, R182 to R191, R323 to R327, R419, R420). -/

namespace Sys2Proof.Machine

/-! The run boundary (R161, R169, R171, R176, R177, R182, R323). -/

/-- The word after the RUNEND, and the next PC of a lane. -/
def Run.after (r : Run) : Pc := wordPc r.pc r.words.length
def Run.nextPc (r : Run) (l : Nat) : Pc := r.goto.getD r.after l
/-- Every word of the run has issued; only its RUNEND is left. -/
def Run.finished (r : Run) : Bool := decide (r.words.length ≤ r.idx)
def Run.atEnd (r : Run) : Bool := decide (r.words.length ≤ r.idx + 1)

/-- Scope codes (Table 1-3), and the wider of two scopes. -/
def scopeNo (sc : Scope) : Nat := (scopeCode sc).toNat
def widerScope (a b : Scope) : Scope := if scopeNo a < scopeNo b then b else a

/-- The instance of a scope that a core belongs to. -/
def scopeInst (sc : Scope) (core : Nat) : Nat :=
  match sc with
  | .ln => core | .co => core
  | .qd => coreCluster core * 6 + coreQuad core
  | .cl => coreCluster core
  | .di => clusterDie (coreCluster core)
  | .pk => 0 | .pd => 0
def barKey (sc : Scope) (inst id : Nat) : Nat := (scopeNo sc * 65536 + inst) * 16 + id

/-- One arrival at a barrier: its phase's token. The count of a phase's first arrival decides the phase; the arrival that makes the count
completes it, and the next phase begins (R182). -/
def State.arriveAt (s : State) (key : Nat) (sc : Scope) (count : Nat) : Nat × State :=
  let (n, s) := s.newNum
  let b := (s.bars.get? key).getD { phase := n, count := 0, arrivals := 0, scope := sc, complete := [] }
  let c := if b.arrivals = 0 then count else b.count
  if b.arrivals + 1 = c then
    (b.phase, { s with bars := s.bars.set key { b with phase := n + 1, count := 0, arrivals := 0, complete := b.complete ++ [b.phase] }, fresh := s.fresh + 1 })
  else (b.phase, { s with bars := s.bars.set key { b with count := c, arrivals := b.arrivals + 1 } })

/-- A `.pd` arrival is told to every other module of the partition (R14). -/
def State.tellPeers (s : State) (key count : Nat) : State :=
  (List.range Config.partitionSize).foldl (fun s m =>
    if BitVec.ofNat 12 m = Config.moduleIndex then s else s.sendMsg (BitVec.ofNat 12 m) 0 key (.barrier (key + count * 2 ^ 64))) s

/-- The arrivals that a run makes at its end, in order, and their phases' tokens: each holds the run's lanes until its phase is complete (R182, R184). -/
def State.arriveAll (s : State) (core : Nat) (as_ : List Arrive) : List Nat × State :=
  as_.foldl (fun (p : List Nat × State) a =>
    let key := barKey a.scope (scopeInst a.scope core) a.id
    let (t, s) := p.2.arriveAt key a.scope a.count
    (p.1 ++ [t], if a.scope = .pd then s.tellPeers key a.count else s)) ([], s)

/-- The entries that the lanes of a run form. -/
def Run.entries (r : Run) (now : BitVec 64) (toks : List Nat) : List Entry :=
  let m := r.mask &&& ~~~r.exits &&& ~~~r.caller
  (lanesOf m).map (fun l =>
    { pc := r.nextPc l, mask := laneBit l, age := 0, yield := if r.yieldReq = 0 then none else some (now + BitVec.ofNat 64 r.yieldReq)
      held := toks.map (fun t => (t, laneBit l)), noAge := false, frozen := false, fresh := r.tret })

/-- The lanes that called leave the table for the waiting pool, with the next PC that R161 gives them; a lane that exits has none and is gone (R323). -/
def Run.parks (r : Run) : List Parked := (lanesOf (r.caller &&& ~~~r.exits)).map (fun l => { lane := l, j := r.callMask, pc := r.nextPc l })

/-- The age of an entry that took no part grows, unless it was yielded or held when the run started or is frozen (R169, R187). The lanes that the
second port left out keep their age (R165). -/
def ageEntry (lanes : Lanes) (start : BitVec 64) (e : Entry) : Entry :=
  let yielded := match e.yield with
    | some y => decide (start.toNat < y.toNat)
    | none => false
  if e.mask &&& lanes != 0 || e.frozen || e.isHeld || e.noAge || yielded then { e with noAge := false }
  else { e with age := min 64 (e.age + 1) }

/-- The link of a CALL (R176). -/
def Run.writeLink (r : Run) (rg : Regs) : Regs :=
  match r.link with
  | none => rg
  | some d => (lanesOf r.mask).foldl (fun rg l =>
      (rg.setV d l (r.after.setWidth 32)).setV (d + 1) l ((r.after.extractLsb' 32 16).setWidth 32)) rg

/-- The oldest deferred trap is taken next. -/
def nextDeferred (g : Group) : Group :=
  match g.trap, g.deferred with
  | none, t :: ts => { g with trap := some t, deferred := ts }
  | _, _ => g

/-- The boundary of a group whose runs have ended: entries re-form, links are written, callers park, arrivals are made, a TRET ends handler mode,
a deferred trap is taken next. -/
def State.boundary (s : State) (gid : Nat) : State :=
  match s.grp gid with
  | none => s
  | some g =>
    let rs := g.run.toList ++ g.run2.toList
    let as_ := (g.run.map (·.arrive)).getD []
    let refused := g.deferred.any (fun t => t.cause == .space)
    let (toks, s) := s.arriveAll (s.grpCore g) (as_.filter (fun a => !(a.sends && refused)))
    let lanes := rs.foldl (fun m r => m ||| r.mask) 0
    let start := (rs.head?.map (·.startAt)).getD s.pcc
    let old := dropLanes lanes (g.pcs.map (ageEntry lanes start))
    let new := (g.run.toList.flatMap (fun r => r.entries s.pcc toks)) ++ (g.run2.toList.flatMap (fun r => r.entries s.pcc []))
    let g1 : Group := { g with
      pcs := formTable (old ++ new), regs := rs.foldl (fun rg r => r.writeLink rg) g.regs, parked := g.parked ++ rs.flatMap Run.parks
      run := none, run2 := none, stallFrom := s.pcc
      escapes := g.escapes.filter (fun e => (s.ops.get? (e / 256)).isSome) }
    let g2 := if rs.any (·.tret) then leaveHandler g1 s.pcc else g1
    s.setGrp gid (nextDeferred g2)

/-! RUNEND (R55, R56). -/

/-- The v-registers that an outstanding operation will write. -/
def MemOp.dests (o : MemOp) : List Nat :=
  match o.kind with
  | .ld _ => (List.range ((o.width + 3) / 4)).map (o.dest + ·)
  | .atom _ _ true => (List.range ((o.width + 3) / 4)).map (o.dest + ·)
  | _ => []

/-- The scoreboard holds that a RUNEND records: operation × 256 + register. A slot that names the first register of a destination holds all of it. -/
def State.escHolds (s : State) (gid : Nat) (w : Ctl) : List Nat :=
  let slots := escRegs w
  (s.ops.filter (fun p => p.2.gid == gid)).flatMap (fun p =>
    let ds := p.2.dests
    (ds.filter (fun d => decide (d ∈ slots) || (decide (p.2.dest ∈ slots) && !ds.isEmpty))).map (fun d => p.1 * 256 + d))

/-- The widest scope of a run's arrivals. -/
def Run.relScope (r : Run) : Scope := r.arrive.foldl (fun sc a => widerScope sc a.scope) .co

/-- RUNEND: a run with barrier arrivals first completes their release; then its escapes and wait mask are recorded, and once both ports' runs have
ended the boundary follows. -/
def execRunend (w : Ctl) (s : State) : Out :=
  groupWord (.ctl 0x180 w) 1 s (fun gid second g r s =>
    if !r.arrive.isEmpty && !r.released then
      s.modRun gid second (fun r => { r with wait := .fence r.relScope s.fresh none false 0 })
    else
      let holds := s.escHolds gid w
      let s := s.modGrp gid (fun g => { g with escapes := (g.escapes ++ holds).dedup, wmask := g.wmask ||| w.mod.extractLsb' 8 4 })
      match g.runOn (!second) with
      | some x => if x.finished then s.boundary gid else s
      | none => s.boundary gid)

/-! Candidates and readiness (R162, R163). -/

def Entry.yielded (e : Entry) (now : BitVec 64) : Bool :=
  match e.yield with
  | some y => decide (now.toNat < y.toNat)
  | none => false

/-- The candidate entry (R162). -/
def candidate (now : BitVec 64) (es : List Entry) : Option Entry :=
  match es.find? (fun e => !e.frozen && decide (64 ≤ e.age)) with
  | some e => some e
  | none => es.find? (fun e => !e.frozen && !e.isHeld && !e.yielded now)

/-- The instructions of a decoded run. -/
abbrev Words := List (Nat × Instr)

def wordsIn (is : Words) (f : Body → Bool) : Nat := (is.filter (fun p => f (bodyOf p.2))).length
def isC7Dest (w : Mem) : Bool := w.d == .sp 7
/-- Table 1-7: the words that add to a class. -/
def addsLoad : Body → Bool
  | .mem o w => decide (o ∈ [0x100, 0x101, 0x106]) || (decide (0x110 ≤ o) && decide (o ≤ 0x118) && !isC7Dest w)
  | .ctl o _ => decide (o ∈ [0x204, 0x250])
  | _ => false
def addsStore : Body → Bool
  | .mem o w => decide (o ∈ [0x102, 0x103, 0x203]) || (decide (0x110 ≤ o) && decide (o ≤ 0x118) && isC7Dest w)
  | _ => false
def addsCopy : Body → Bool
  | .mem o _ => o == 0x201
  | .ctl o _ => decide (o ∈ [0x240, 0x241, 0x242, 0x243, 0x244, 0x260, 0x263, 0x264, 0x270, 0x271])
  | _ => false
def addsTile : Body → Bool
  | .loop _ => true
  | _ => false

/-- R24: no class would exceed its limit. -/
def limitsOk (g : Group) (is : Words) : Bool :=
  decide (g.loads + wordsIn is addsLoad ≤ 64) && decide (g.stores + wordsIn is addsStore ≤ 64) &&
  decide (g.copies + wordsIn is addsCopy ≤ 16) && decide (g.tiles + wordsIn is addsTile ≤ 16)

/-- R255: the copy engine's queue of 64 entries holds the run's operations. -/
def isCopyKind : AKind → Bool
  | .copy _ => true
  | _ => false
def isCopyWord : Body → Bool
  | .ctl o _ => decide (o ∈ [0x240, 0x241, 0x242, 0x243, 0x244])
  | _ => false
/-- The words that a started run has still to issue, of those whose opcode f picks. -/
def Run.left (r : Run) (f : Nat → Bool) : Nat := ((r.words.drop r.idx).filter (fun w => f (Raw.ofWord w).opc.toNat)).length
def Group.left (g : Group) (f : Nat → Bool) : Nat := ((g.run.toList ++ g.run2.toList).map (fun r => r.left f)).sum
def copyOpc (o : Nat) : Bool := decide (0x240 ≤ o) && decide (o ≤ 0x244)
/-- Room for the run's copy words beside the queued operations and the entries that started runs of the cluster have still to fill. -/
def State.copyRoom (s : State) (cl : Nat) (is : Words) : Bool :=
  let need := wordsIn is isCopyWord
  let promised := ((s.groups.filter (fun p => s.grpCluster p.2 == cl)).map (fun p => p.2.left copyOpc)).sum
  need == 0 || decide ((s.aops.filter (fun p => p.2.cluster == cl && p.2.stage == .queued && isCopyKind p.2.kind)).length + promised + need ≤ 64)

/-- R105: the memory words, and the entries of a core's memory queue that are taken: by words not yet in progress, and by those that started runs have still to issue. -/
def memOpc (o : Nat) : Bool := (decide (0x100 ≤ o) && decide (o ≤ 0x106) && o != 0x105) || (decide (0x110 ≤ o) && decide (o ≤ 0x118)) || o == 0x203
def State.queueUsed (s : State) (core : Nat) : Nat :=
  (s.ops.filter (fun p => p.2.queued && !isPload p.2.kind && ((s.grp p.2.gid).bind Group.core?) == some core)).length +
  ((s.coreGroups core).map (fun p => p.2.left memOpc)).sum
def State.queueRoom (s : State) (core : Nat) (is : Words) : Bool :=
  let need := wordsIn is (fun b => memOpc b.opc)
  need == 0 || decide (s.queueUsed core + need ≤ 32)

/-- The f-register that a word reads blocking (R20, R172). -/
def blockingF : Body → Option Nat
  | .ctl 0x188 w => match w.a with
    | .sp _ => some (fNum w.a)
    | _ => none
  | _ => none
/-- The handles a run reads blocking, with the offsets of their words. -/
def blockers (g : Group) (is : Words) : List (Nat × Word) :=
  is.filterMap (fun p => (blockingF (bodyOf p.2)).map (fun f => (p.1, g.regs.freg f)))

/-- WAIT's counts (R57): 255 places no bound. -/
def waitMet (g : Group) (w : Ctl) : Bool :=
  let n (i : Nat) := (w.imm.extractLsb' i 8).toNat
  let le (i c : Nat) := decide (n i = 255) || decide (c ≤ n i)
  le 24 g.loads && le 16 g.stores && le 8 g.copies && le 0 g.tiles
/-- A WAIT whose guard is true, or an RJOIN, at the start of a run (R57, R326). -/
def firstMet (g : Group) (is : Words) : Bool :=
  match is.head?.map (fun p => bodyOf p.2) with
  | some (.ctl 0x181 w) => !guardTrue w.hdr g || waitMet g w
  | some (.ctl 0x18F w) => !g.parked.any (fun p => p.j.toNat == jNum w.a)
  | _ => true

/-- The wait mask of the last RUNEND (R55). -/
def wmaskMet (g : Group) : Bool :=
  (!g.wmask.getLsbD 3 || g.loads == 0) && (!g.wmask.getLsbD 2 || g.stores == 0) && (!g.wmask.getLsbD 1 || g.copies == 0) &&
  (!g.wmask.getLsbD 0 || g.tiles == 0)

/-- The registers a run reads or writes. -/
def runRegs (is : Words) : List Nat := is.flatMap (fun p => let b := bodyOf p.2; b.shape.reads ++ b.shape.writes)

/-- The escape scoreboard, which is kept per lane (R56), and the interlock of LDS (R114) hold no register of the run. -/
def State.scoreFree (s : State) (gid : Nat) (g : Group) (mask : Lanes) (is : Words) : Bool :=
  let rs := runRegs is
  g.escapes.all (fun e => match s.ops.get? (e / 256) with
    | some o => !(decide (e % 256 ∈ rs) && o.parts.any (fun p => !p.put && mask.getLsbD p.lane))
    | none => true) &&
  s.ops.all (fun p => !(p.2.gid == gid && p.2.kind == .lds && decide (144 + p.2.dest ∈ rs)))

/-! Queues and mailboxes that runs hold (R250, R287). -/

def State.heldQ (s : State) (core : Nat) : BitVec 8 :=
  (s.coreGroups core).foldl (fun m p => match p.2.run with
    | some r => m ||| r.heldQ
    | none => m) 0
/-- A queue that PSTOP emptied while a run held it is empty once that run has ended (R249). -/
def State.settleQueues (s : State) (core : Nat) : State :=
  let k := s.slot core
  if k.flush = 0 then s
  else
    let held := s.heldQ core
    s.setSlot core { k with
      queues := k.queues.filter (fun p => !k.flush.getLsbD p.1 || held.getLsbD p.1), flush := k.flush &&& held }
def State.heldM (s : State) (cl : Nat) : BitVec 16 :=
  s.groups.foldl (fun m p => match p.2.run, p.2.core? with
    | some r, some c => if coreCluster c = cl then m ||| r.heldM else m
    | _, _ => m) 0

/-- The queue words of a run: whether it is a QPOP, and the queue. -/
def queueWord : Body → Option (Bool × Nat)
  | .ctl 0x253 w => some (true, qNum w.a)
  | .ctl 0x254 w => some (false, qNum w.a)
  | _ => none
def queueUse (is : Words) (q : Nat) : List Bool := is.filterMap (fun p => match queueWord (bodyOf p.2) with
  | some (b, k) => if k = q then some b else none
  | none => none)
/-- n(Q): the pops, and one more if a peek stands after every pop. -/
def queueNeed (us : List Bool) : Nat := (us.filter id).length + (if us.getLast? = some false then 1 else 0)
def queuesOf (is : Words) : List Nat := (List.range 8).filter (fun q => !(queueUse is q).isEmpty)

def boxWord : Body → Option (Nat × Nat)
  | .ctl 0x195 w => some (0, mailBox w)
  | .ctl 0x196 w => some (if w.mod.getLsbD 0 then 2 else 1, mailBox w)
  | _ => none
/-- The mailbox words of a run that name M: 0 a post, 1 a wait, 2 a try. -/
def boxUse (is : Words) (m : Nat) : List Nat := is.filterMap (fun p => match boxWord (bodyOf p.2) with
  | some (k, b) => if b = m then some k else none
  | none => none)
def boxPosts (us : List Nat) : Nat := (us.filter (· == 0)).length
/-- w(M): the waits that stand no later than the last wait without TRY. -/
def boxWaits (us : List Nat) : Nat :=
  let ws := us.filter (· != 0)
  (ws.reverse.dropWhile (· == 2)).length
def boxesOf (is : Words) : List Nat := (List.range 16).filter (fun m => !(boxUse is m).isEmpty)

def offsetOf (is : Words) (f : Body → Bool) : Nat := ((is.find? (fun p => f (bodyOf p.2))).map (·.1)).getD 0
def setOf (n : Nat) (ks : List Nat) : BitVec n := BitVec.ofNat n (ks.foldl (fun a k => a ||| 2 ^ k) 0)

/-- Whether the group's block owns its cluster's sequencer (R274). -/
def State.ownsSeq (s : State) (g : Group) : Bool :=
  let q := s.seqOf (s.grpCluster g)
  q.st != .free && q.launch == g.launch && q.block == g.block

/-- A queue that a run names: held by another run or short while the slot works (not ready), usable, or a QERR. -/
inductive Gate where
  | go | stay | bad
  deriving DecidableEq, Repr

def State.queueGate (s : State) (core : Nat) (g : Group) (us : List Bool) (q : Nat) : Gate :=
  let k := s.slot core
  if (match k.bound with
    | some l => l != g.launch
    | none => false) then .bad
  else if (s.heldQ core).getLsbD q then .stay
  else if queueNeed us ≤ (k.queues.getD [] q).length then .go
  else if k.st = .idle then .bad else .stay

def State.boxGate (s : State) (cl : Nat) (g : Group) (us : List Nat) (m : Nat) : Gate :=
  if !s.ownsSeq g then .bad
  else
    let c := s.cl cl
    let n := s.takeCount cl m
    if !c.mailOpen && (boxPosts us != 0 || decide (n < boxWaits us)) then .bad
    else if (s.heldM cl).getLsbD m then .stay
    else if (c.box m).length + boxPosts us ≤ 4 ∧ boxWaits us ≤ n then .go else .stay

/-! Starting a run (R163 to R165, R250, R287, R419). -/

/-- What an entry's run would do at arbitration; one that waits may wait for the word at an address. -/
inductive Plan where
  | wait (addr : Option Nat)
  | trap (t : Trap) (bp : Option Nat)
  | start (ws : List IWord) (is : Words)
  deriving DecidableEq, Repr

/-- A trap of an entry whose run does not start. -/
def entryTrap (e : Entry) (c : Cause) (ofs : Nat) (d0 : Dword) : Trap :=
  { cause := c, deferred := false, ofs := ofs, wpc := wordPc e.pc ofs, mask := e.mask, lanes := e.mask, detail0 := d0, detail1 := 0, detail2 := 0,
    req := none }

/-- The traps of a ready run at its start: a breakpoint, then a handle, then a queue, then a mailbox (R20, R250, R286 to R288, R419). -/
def State.startTrap (s : State) (core : Nat) (g : Group) (e : Entry) (is : Words) : Option (Trap × Option Nat) :=
  match s.breakAt g e.pc e.fresh with
  | some n => some (entryTrap e .bkpt 0 0, some n)
  | none =>
    let badF := (blockers g is).findSome? (fun p => match s.ctx? g.ctx with
      | none => some (entryTrap e .futdead p.1 (p.2.setWidth 64))
      | some c => match c.live? p.2 with
        | none => some (entryTrap e .futdead p.1 (p.2.setWidth 64))
        | some f => match f.st with
          | .failed k => some (entryTrap e k p.1 (p.2.setWidth 64))
          | _ => none)
    match badF with
    | some t => some (t, none)
    | none =>
      match (queuesOf is).find? (fun q => s.queueGate core g (queueUse is q) q == .bad) with
      | some q => some (entryTrap e .qerr (offsetOf is (fun b => (queueWord b).map (·.2) == some q)) 0, none)
      | none =>
        match (boxesOf is).find? (fun m => s.boxGate (coreCluster core) g (boxUse is m) m == .bad) with
        | some m => some (entryTrap e .seqerr (offsetOf is (fun b => (boxWord b).map (·.2) == some m)) 0, none)
        | none => none

/-- R163: readiness of a decoded run. -/
def State.runReady (s : State) (core gid : Nat) (g : Group) (e : Entry) (is : Words) : Bool :=
  s.scoreFree gid g e.mask is && limitsOk g is && firstMet g is && s.copyRoom (s.grpCluster g) is && s.queueRoom core is &&
  (blockers g is).all (fun p => match s.ctx? g.ctx with
    | some c => notPending c p.2
    | none => true) &&
  (queuesOf is).all (fun q => s.queueGate core g (queueUse is q) q != .stay) &&
  (boxesOf is).all (fun m => s.boxGate (coreCluster core) g (boxUse is m) m != .stay)

/-- The plan for an entry. -/
def State.plan (s : State) (core gid : Nat) (g : Group) (e : Entry) : Plan :=
  match s.decodeRun core g.ctx g.nregs g.priv e.pc.toNat with
  | .wait a => .wait (some a)
  | .trap c ofs => .trap (entryTrap e c ofs 0) none
  | .ok ws is =>
    if s.runReady core gid g e is then
      match s.startTrap core g e is with
      | some (t, bp) => .trap t bp
      | none => .start ws is
    else .wait none

/-- A group that may win arbitration (R163, R187, R191). -/
def Group.mayRun (g : Group) : Bool :=
  (match g.place with
  | .resident _ _ => true
  | _ => false) &&
  g.trap.isNone && g.deferred.isEmpty && !g.stopReq && !g.saveReq && !g.stopped && g.run.isNone && g.run2.isNone && wmaskMet g

/-- Whether the stream of a group's block has still to start: the group issues no earlier than it does (R275). -/
def State.streamWaits (s : State) (g : Group) : Bool :=
  let q := s.seqOf (s.grpCluster g)
  q.st == .ready && q.launch == g.launch && q.block == g.block

def State.planOf (s : State) (core gid : Nat) (g : Group) : Option (Entry × Plan) :=
  if g.mayRun && !s.streamWaits g then (candidate s.pcc g.pcs).map (fun e => (e, s.plan core gid g e)) else none

/-- Whether a run carries the YLD hint on a word before its RUNEND (R171). -/
def runYld (is : Words) : Bool := is.any (fun p => let b := bodyOf p.2; b.opc != 0x180 && b.hdr.yld)

/-- A run as it starts (R54, R250, R287). -/
def Run.start (pc : Pc) (ws : List IWord) (is : Words) (mask : Lanes) (now : BitVec 64) : Run :=
  { pc := pc, words := ws, idx := 0, mask := mask, goto := [], exits := 0, link := none, yieldReq := if runYld is then 16 else 0, caller := 0,
    callMask := 0, arrive := [], heldQ := setOf 8 (queuesOf is), heldM := setOf 16 (boxesOf is), released := false, tret := false, startAt := now
    soDone := false, wait := .none }

/-- R165: the words that the second port takes. -/
def secondWord (last : Bool) (b : Body) : Bool :=
  let o := b.opc
  b.hdr.k == 7 && !b.hdr.neg &&
  (o == 0x180 || o == 0x197 || (last && o == 0x182) || (match b with
    | .alu _ _ => decide (o ≤ 0x084) || (decide (0x0A0 ≤ o) && decide (o ≤ 0x0A5))
    | _ => false))
def qualifies (is : Words) : Bool :=
  let n := is.length
  (is.zip (List.range n)).all (fun p => secondWord (p.2 + 2 == n) (bodyOf p.1.2))

/-- The lanes of an entry whose 4-lane slices hold no lane of the candidate. -/
def sliceLanes (cand mask : Lanes) : Lanes :=
  maskOf ((lanesOf mask).filter (fun l => (cand >>> (l / 4 * 4)).extractLsb' 0 4 == 0#4))

/-- The run of the second port (R165): the next entry that is ready, neither yielded nor held, if its run qualifies. -/
def State.secondRun (s : State) (core gid : Nat) (g : Group) (e : Entry) : Option Run :=
  let others := g.pcs.filter (fun x => x != e && !x.frozen && !x.isHeld && !x.yielded s.pcc)
  let plans := others.map (fun x => (x, s.decodeRun core g.ctx g.nregs g.priv x.pc.toNat))
  let next := plans.find? (fun p => match p.2 with
    | .ok _ is => s.runReady core gid g p.1 is
    | .trap _ _ => true
    | .wait _ => false)
  match next with
  | some (x, .ok ws is) =>
    let m := sliceLanes e.mask x.mask
    if qualifies is && m != 0 && (s.breakAt g x.pc x.fresh).isNone then some (Run.start x.pc ws is m s.pcc) else none
  | _ => none

/-- An entry as its run starts: its age becomes 0 with its first lane's issue; one that the second port serves in part keeps its age for the lanes left out, until they
are an entry of their own (R165, R169). -/
def startEntry (m m2 : Lanes) (x : Entry) : Entry :=
  if x.mask &&& m != 0 then { x with fresh := false, age := 0 }
  else if x.mask &&& m2 != 0 then { x with fresh := false, age := if x.mask &&& ~~~m2 = 0 then 0 else x.age }
  else x

/-- Start a group's runs. -/
def State.startRuns (s : State) (core gid : Nat) (g : Group) (e : Entry) (ws : List IWord) (is : Words) : State :=
  let r := Run.start e.pc ws is e.mask s.pcc
  let r2 := s.secondRun core gid g e
  let (n, s) := s.newNum
  let s := if (blockers g is).isEmpty then s else s.acquire core g.ctx
  let s := s.holdCode core g.ctx e.pc.toNat (12 * ws.length)
  let s := match r2 with
    | some x => s.holdCode core g.ctx x.pc.toNat (12 * x.words.length)
    | none => s
  s.modGrp gid (fun g => { g with
    run := some r, run2 := r2, regs := { g.regs with x := [] }, wmask := 0, served := n
    pcs := g.pcs.map (fun x => startEntry r.mask ((r2.map (·.mask)).getD 0) x) })

/-- An entry's run does not start: the group traps; a breakpoint leaves its record (R419). -/
def State.startTrapNow (s : State) (core gid : Nat) (g : Group) (e : Entry) (t : Trap) (bp : Option Nat) : State :=
  let (n, s) := s.newNum
  let s := s.modGrp gid (fun g => { g with trap := some t, served := n })
  match bp with
  | none => s
  | some k => s.sinkOrLose 3 (clusterDie (coreCluster core)) 64 (stopBody g k e.pc ((lanesOf e.mask).headD 0))

/-! Lanes that return (R325, R327). -/

/-- The lanes parked under a mask return together once each has its bit; in handler mode they form frozen entries. An uncorrectable error that a reply told of
traps now, deferred (R327). -/
def returnMask (j : BitVec 3) (g : Group) : Group :=
  let mine := g.parked.filter (fun p => p.j == j)
  let bits := g.regs.jreg j.toNat
  if !mine.isEmpty && mine.all (fun p => bits.getLsbD p.lane) then
    let es := mine.map (fun p => ({ pc := p.pc, mask := laneBit p.lane, age := 0, yield := none, held := [], noAge := false, frozen := g.handler, fresh := false } : Entry))
    { g with
      parked := g.parked.filter (fun p => p.j != j), pcs := formTable (g.pcs ++ es), tqErrs := g.tqErrs.filter (fun p => p.1 != j)
      deferred := (g.tqErrs.filter (fun p => p.1 == j)).foldl (fun (ts : List Trap) p => addTrap p.2 ts) g.deferred }
  else g
def returnAll (g : Group) : Group := (List.range 8).foldl (fun g j => returnMask (BitVec.ofNat 3 j) g) g

/-- LANES_RETURN (R325). -/
def execLanesReturn (gid : Nat) (j : BitVec 3) (s : State) : Out :=
  match s.grp gid with
  | none => .next s
  | some g => if g.run.isSome || g.run2.isSome then .next s else .next (s.setGrp gid (returnMask j g))

/-! Waits inside a run (R127, R133, R134, R166, R183). -/

def State.relHeld (s : State) (gid upto : Nat) : Bool := s.ops.any (fun p => decide (p.1 < upto) && p.2.gid == gid && holdsRelease p.2)
def State.sendsOpen (s : State) (gid upto : Nat) : Bool := s.ops.any (fun p => decide (p.1 < upto) && p.2.gid == gid && match p.2.kind with
  | .send _ => true
  | _ => false)

/-- The instruction at which a run stands. -/
def Run.here (r : Run) : Option Instr :=
  match decodeWords false (r.words.drop r.idx) with
  | .ok (i, _) => some i
  | .error _ => none

/-- The lines that the `.gl` store, atomic or ZLINE at which a run stands would add to the buffer, with the lanes it serves and their lowest
address. -/
def State.logLines (s : State) (g : Group) (r : Run) : List Nat × Lanes × Nat :=
  match r.here.map bodyOf with
  | some (.mem 0x203 w) =>
    let a := (readGr g.regs w.a).toNat
    ((List.range w.imm.toNat).map (fun k => lineKey g.ctx (a + 256 * k)), r.mask, a)
  | some (.mem o w) =>
    let ps := s.probes g r w (if o = 0x102 then w.imm else atomOfs w) (if o = 0x102 then needStore (widthBytes w.width) else needAtom (widthBytes w.width))
    (bufKeys g.ctx (ps.map (fun p => partOf p 0)), maskOf (ps.map (·.lane)), (ps.head?.map (fun p => p.addr.toNat)).getD 0)
  | _ => ([], r.mask, 0)

/-- Whether the log has room for the word at which a run stands (R134, R208). -/
def State.logOk (s : State) (g : Group) (r : Run) : Bool :=
  let cl := s.grpCluster g
  match r.here.map bodyOf with
  | some (.mem o w) =>
    if 0x110 ≤ o ∧ o ≤ 0x118 then
      let ps := (s.probes g r w (atomOfs w) (needAtom (widthBytes w.width))).map (fun p => partOf p 0)
      s.batchRoom cl (bufKeys g.ctx ps) (s.pendingLines cl) && (s.promise cl (9 * (ps.filter (fun x => !x.remote)).length)).isSome
    else s.canAccept cl (s.logLines g r).1 (s.pendingLines cl)
  | _ => true

/-- Whether a release's publication has its log space: the operation is gone, or its request has come to its turn. -/
def State.spaceMet (s : State) (op : Nat) : Bool :=
  match s.ops.get? op with
  | none => true
  | some o => o.sync || match o.req with
    | none => false
    | some q => match s.reqSt q with
      | .asked => false
      | .waiting => false
      | .inPub _ => true
      | .complete => true
      | .failed _ => true

/-- Whether the condition that a waiting run waits for is met. A run that stalls at a word tries it again in its turn. -/
def State.resumeOk (s : State) (gid : Nat) (g : Group) (r : Run) : Bool :=
  match r.wait with
  | .none => false
  | .fence sc upto req _ _ =>
    !s.relHeld gid upto && !(r.atEnd && r.arrive.any (·.sends) && s.sendsOpen gid upto) &&
    (!scopeWide sc || (match req with
      | some q => s.reqSt q == .complete
      | none => false))
  | .park _ => !s.waiters.any (fun p => p.2.who == .group gid)
  | .logSpace _ => s.logOk g r
  | .release op => s.spaceMet op
  | .stay _ => false

/-- A run that issues, or stalls at a word, or has issued its last word while the other port goes on, holds its core's ports (R164, R166). -/
def Group.holdsPorts (g : Group) : Bool :=
  (match g.run with
  | some r => r.wait == .none || r.wait == .stay true || r.wait == .stay false
  | none => false) ||
  (match g.run2 with
  | some r => !r.finished
  | none => false)

def State.portsBusy (s : State) (core : Nat) : Bool := (s.coreGroups core).any (fun p => p.2.holdsPorts)

/-- The groups of a core whose waiting runs can resume. -/
def State.resumers (s : State) (core : Nat) : List (Nat × Group) :=
  (s.coreGroups core).filter (fun p => match p.2.run with
    | some r => s.resumeOk p.1 p.2 r
    | none => false)

/-- The groups of a core that could win, with their candidates' plans. -/
def State.contenders (s : State) (core : Nat) : List (Nat × Group × Entry × Plan) :=
  (s.coreGroups core).filterMap (fun p => match s.planOf core p.1 p.2 with
    | some (_, .wait _) => none
    | some (e, pl) => some (p.1, p.2, e, pl)
    | none => none)

/-- The run goes on at its word, or after it (R127, R166, R182). The word of an SO access executes after its first fence, and is left after its second (Table 4-3). -/
def State.resumeRun (s : State) (gid : Nat) (r : Run) : State :=
  match r.wait with
  | .fence sc _ _ acq so =>
    let s' := if acq then s.pushAcquire gid r sc else s
    if so = 1 then s'.modRun gid false (fun r => { r with wait := .none, soDone := true })
    else if so = 2 then s'.modRun gid false (fun r => bumpRun 1 { r with wait := .none, soDone := false })
    else if r.atEnd then s.modRun gid false (fun r => { r with wait := .none, released := true })
    else s'.modRun gid false (fun r => bumpRun 1 { r with wait := .none })
  | .release _ => s.modRun gid false (fun r => bumpRun 1 { r with wait := .none })
  | _ => s.modRun gid false (fun r => { r with wait := .none })

/-- RUN_RESUME: a release at `.di` or wider asks for its publication once the earlier accesses have performed; a run whose condition is met takes
the ports, after every ready group and waiting run of higher priority (R166). -/
def execRunResume (gid : Nat) (s : State) : Out :=
  match s.grp gid with
  | none => .next s
  | some g => match g.run with
    | none => .next s
    | some r =>
      let core := s.grpCore g
      let above := (s.resumers core).any (fun p => decide (g.prio.toNat < p.2.prio.toNat)) ||
        (s.contenders core).any (fun p => decide (g.prio.toNat < p.2.1.prio.toNat))
      let go := if s.resumeOk gid g r && !s.portsBusy core && !above then s.resumeRun gid r else s
      match r.wait with
      | .fence sc upto none acq so =>
        if scopeWide sc then
          if s.relHeld gid upto then .next s
          else
            let (q, s) := s.lodgeAfter (s.grpCluster g) g.ctx gid .batch
            .next (s.modRun gid false (fun r => { r with wait := .fence sc upto (some q) acq so }))
        else .next go
      | _ => .next go

/-! Arbitration (R162 to R167). -/

/-- R167: the higher priority first; then groups not served since they became resident, in that order, and in one cycle in ascending context number; then
the least recently served. -/
def servesBefore (a b : Group) : Bool :=
  if a.prio != b.prio then decide (b.prio.toNat < a.prio.toNat)
  else if a.served = 0 then (b.served != 0 || decide (a.joined < b.joined) || (a.joined == b.joined && decide (a.slotNo < b.slotNo)))
  else b.served != 0 && decide (a.served < b.served)

def bestOf (cs : List (Nat × Group × Entry × Plan)) : Option (Nat × Group × Entry × Plan) :=
  cs.foldl (fun best c => match best with
    | none => some c
    | some b => if servesBefore c.2.1 b.2.1 then some c else some b) none

/-- RUN_ARBITRATION. -/
def State.arbitrate (s0 : State) (core : Nat) : State :=
  if s0.portsBusy core then s0
  else
    let s0 := s0.settleQueues core
    let s := (s0.coreGroups core).foldl (fun s p => if p.2.run.isNone && p.2.run2.isNone then s.modGrp p.1 returnAll else s) s0
    let s := (s.coreGroups core).foldl (fun s p => match s.planOf core p.1 p.2 with
      | some (_, .wait (some a)) => s.askCode core p.2.ctx a
      | _ => s) s
    match bestOf (s.contenders core) with
    | none => s
    | some (gid, g, e, pl) =>
      if (s.resumers core).any (fun p => decide (g.prio.toNat ≤ p.2.prio.toNat)) then s
      else match pl with
        | .start ws is => s.startRuns core gid g e ws is
        | .trap t bp => s.startTrapNow core gid g e t bp
        | .wait _ => s

def execRunArbitration (core : Nat) (s : State) : Out := .next (s.arbitrate core)

/-- YIELD_EXPIRE (R171): a yield count that has reached zero; the count a run started with stays until the run ends (R169). -/
def execYieldExpire (gid idx : Nat) (s : State) : Out :=
  match s.grp gid with
  | none => .next s
  | some g =>
    if g.run.isSome || g.run2.isSome then .next s
    else .next (s.setGrp gid { g with pcs := g.pcs.modify idx (fun e => if e.yielded s.pcc then e else { e with yield := none }) })

/-! Barriers (R182 to R184). -/

/-- The lanes that the complete phases of a barrier held alone are released; those that another phase holds too stay held (R182). -/
def releaseEntry (toks : List Nat) (running : Bool) (e : Entry) : List Entry :=
  let rest := e.held.filter (fun p => !decide (p.1 ∈ toks))
  let still := heldLanes rest
  if rest.length = e.held.length then [e]
  else [{ e with mask := e.mask &&& ~~~still, held := [], noAge := running }, { e with mask := e.mask &&& still, held := rest }]
/-- The releaser's entries; what now agrees merges (R161). An entry held when the run that goes on started does not age at its end (R169). -/
def releaseEntries (toks : List Nat) (g : Group) : Group :=
  { g with pcs := formTable (g.pcs.flatMap (releaseEntry toks (g.run.isSome || g.run2.isSome))) }
def groupHeld (toks : List Nat) (g : Group) : Bool := g.pcs.any (fun e => e.held.any (fun p => decide (p.1 ∈ toks)))

/-- BARRIER_RELEASE. -/
def execBarrierRelease (bar : Nat) (s : State) : Out :=
  match s.bars.get? bar with
  | none => .next s
  | some b =>
    if b.complete.isEmpty then .next s
    else
      let hit := s.groups.filter (fun p => groupHeld b.complete p.2)
      let s := hit.foldl (fun s p =>
        let s := s.modGrp p.1 (releaseEntries b.complete)
        match p.2.place with
        | .resident c _ => s.acquireAt c p.2.ctx b.scope
        | _ => s) s
      .next { s with bars := s.bars.set bar { b with complete := [] } }

/-! Watchdogs (R185, R234). -/

/-- A group leaves the fault unit's waiters when it stops waiting for its page. -/
def State.dropWaiter (s : State) (gid : Nat) : State := { s with waiters := s.waiters.filter (fun p => p.2.who != .group gid) }

/-- STALL: the entry that the trap names is chosen after step 2 of R187. A run of the second port that has issued all its words reaches the boundary first. -/
def execStall (gid : Nat) (s : State) : Out :=
  match s.grp gid with
  | none => .next s
  | some g =>
    let waiting := match g.run with
      | some r => r.wait != .none
      | none => true
    let resident := match g.place with
      | .resident _ _ => true
      | _ => false
    if resident && waiting && g.run2.all (·.finished) && g.trap.isNone && !g.stopped && !(g.pcs.isEmpty && g.parked.isEmpty) &&
        s.due (g.stallFrom + g.stallwd.setWidth 64) then
      let t : Trap := { cause := .stall, deferred := false, ofs := 0, wpc := 0, mask := 0, lanes := 0, detail0 := 0, detail1 := 0, detail2 := 0, req := none }
      .next ((s.setGrp gid { g with run := none, trap := some t }).dropWaiter gid)
    else .next s

/-- The operations that wait for a request fail with LOGFULL (R234, Table 9-9). -/
def State.failPubr (s : State) (q : Nat) : State :=
  (s.aops.filter (fun p => p.2.stage == .publishing q || p.2.stage == .prePub q || p.2.stage == .flagging q)).foldl (fun s p =>
    s.endAop p.1 (.failed .logfull)) s

/-- Whether a request's wait for log space has lasted LOGSTALL (R234). -/
def State.reqDue (s : State) (q : Req) : Bool :=
  match q.starved with
  | some t => s.due t
  | none => false

/-- An operation whose release found no log space leaves the engine with what it was promised. -/
def State.dropOp (s : State) (n : Nat) (o : MemOp) : State :=
  let cl : Nat := match s.grp o.gid with
    | some g => s.grpCluster g
    | none => 0
  let s : State := match o.kind with
    | .atom _ _ _ => if o.space = .gl then s.unpromise cl (9 * (o.parts.filter (fun (x : Part) => !x.remote && !x.served)).length) else s
    | _ => s
  ({ s with ops := s.ops.erase n }).modGrp o.gid (fun g => { g with
    loads := g.loads - (if isLoadKind o.kind then 1 else 0), stores := g.stores - (if isStoreKind o.kind then 1 else 0) })

/-- The waiting run's own word, when its wait for log space has lasted LOGSTALL: it traps LOGFULL with the outcome of R131. -/
def State.starvedRun (s : State) (gid : Nat) (g : Group) (r : Run) : State :=
  match r.wait with
  | .logSpace till =>
    if s.due till then
      let (_, ls, a) := s.logLines g r
      s.trapRun gid r .logfull ls (BitVec.ofNat 64 a) 0 0
    else s
  | .fence _ _ (some q) _ _ => match s.store.reqs.get? q with
    | some x => if s.reqDue x then (s.withdraw q).trapPlain gid r .logfull else s
    | none => s
  | .release n => match s.ops.get? n with
    | none => s
    | some o => match o.req.bind (fun q => (s.store.reqs.get? q).map (fun x => (q, x))) with
      | none => s
      | some (q, x) =>
        if s.reqDue x then
          ((s.withdraw q).dropOp n o).trapRun gid r .logfull (maskOf (o.parts.map (·.lane))) (BitVec.ofNat 64 ((o.parts.head?.map (·.addr)).getD 0)) 0 0
        else s
  | _ => s

/-- The PUBR operations, and the engine operations that publish the open batch first, fail when their request's wait has lasted LOGSTALL; a PUB's request stays pending
(R229, R234). -/
def State.starvedReq (s : State) (gid : Nat) : State :=
  let waits (q : Nat) : Bool := s.aops.any (fun p => p.2.stage == .publishing q || p.2.stage == .prePub q || p.2.stage == .flagging q)
  let mine (o : AOp) : Bool := o.gid == some gid
  let owned (p : Nat × Req) : Bool := p.2.gid == some gid ||
    s.aops.any (fun o => mine o.2 && (o.2.stage == .publishing p.1 || o.2.stage == .prePub p.1 || o.2.stage == .flagging p.1))
  (s.store.reqs.filter (fun p => s.reqDue p.2 && owned p && waits p.1)).foldl (fun (s : State) p => (s.withdraw p.1).failPubr p.1) s

/-- The engine operations of a group whose own records have waited LOGSTALL for log space fail (R234, R271, Table 13-3). -/
def State.starvedAops (s : State) (gid : Nat) : State :=
  (s.aops.filter (fun p => p.2.gid == some gid && p.2.starved.any s.due)).foldl (fun (s : State) p => s.endAop p.1 (.failed .logfull)) s

/-- A starved request of a host master's log: the release is withdrawn and counted as failed (R427). -/
def State.starvedHosts (s : State) : State :=
  (s.store.reqs.filter (fun p => decide (320 ≤ p.2.log) && s.reqDue p.2)).foldl (fun (s : State) p =>
    let s := s.withdraw p.1
    { s with hosts := s.hosts.modify (p.2.log - 320) (fun h => { h with fails := h.fails + 1 }) }) s

/-- LOGSTALL_EXPIRE (R234). -/
def execLogstallExpire (gid : Nat) (s : State) : Out :=
  let s := s.starvedHosts.starvedAops gid
  match s.grp gid with
  | none => .next (s.starvedReq gid)
  | some g => match g.run with
    | none => .next (s.starvedReq gid)
    | some r => .next ((s.starvedRun gid g r).starvedReq gid)

/-! Taking a trap (R187 to R189, R387). -/

/-- A launch fails: the cause with the smallest stamp counts, ties to the lower block; every other group and stream of it is asked to stop. -/
def State.failLaunch (s : State) (launch block : Nat) (c : Cause) (stamp : Nat) : State :=
  let s := s.modLaunch launch (fun l => match l.failure with
    | none => { l with failure := some (stamp, block, c) }
    | some (t, b, _) => if stamp < t ∨ (stamp = t ∧ block < b) then { l with failure := some (stamp, block, c) } else l)
  let s := { s with groups := s.groups.map (fun (p : Nat × Group) => if p.2.launch = launch then (p.1, { p.2 with stopReq := true }) else p) }
  let stopS (p : Nat × SeqSave) : Nat × SeqSave := if p.2.seq.launch = launch then (p.1, { p.2 with seq := { p.2.seq with stopReq := true } }) else p
  let stop (p : Nat × Cluster) : Nat × Cluster :=
    let c := { p.2 with saves := p.2.saves.map stopS }
    if p.2.seq.launch = launch ∧ p.2.seq.st != .free then (p.1, { c with seq := { c.seq with stopReq := true } }) else (p.1, c)
  { s with clusters := s.clusters.map stop }

/-- The entry that a STALL or a deferred trap names (R185): the candidate, or else the head. -/
def trapEntry (now : BitVec 64) (g : Group) (t : Trap) : Trap :=
  if t.mask != 0 then t
  else match (candidate now g.pcs).or g.pcs.head? with
    | none => t
    | some e => if t.deferred then { t with mask := e.mask } else { t with mask := e.mask, wpc := e.pc, lanes := e.mask }

/-- Every outstanding access of the group has performed and every packet of it is answered (R187, R327). -/
def State.drained (s : State) (gid : Nat) (g : Group) : Bool := g.loads == 0 && g.stores == 0 && !s.pkts.any (fun p => p.2.gid == gid)

/-- The group stops and reports (R187). -/
def State.stopGroup (s : State) (gid : Nat) (g : Group) (c : Cause) (stamp : Nat) : State :=
  (s.setGrp gid { g with trap := none, stopped := true, stopReq := true }).failLaunch g.launch g.block c stamp

/-- TRAP_TAKE, once the group has drained: the record is published, or a double trap stops the group. -/
def State.trapRecordOut (s : State) (gid : Nat) (g : Group) (t : Trap) : State :=
  let g := returnAll g
  let t := trapEntry s.pcc g t
  if g.handler then (s.setGrp gid (setTrapCsrs g t)).stopGroup gid (setTrapCsrs g t) t.cause s.now
  else
    let (q, s) := s.lodgeBytes (s.grpCluster g) g.ctx none g.trec.toNat (trapRecord g t s.pcc)
    s.setGrp gid { g with trap := some { t with req := some q, stamp := s.pcc } }

/-- The handler's address, if the kernel declares one (R187, Table 16-4). -/
def State.handlerPc (s : State) (g : Group) : Option Pc :=
  match s.launchOf g.launch with
  | some l => l.trapOfs.map (fun o => BitVec.ofNat 48 (l.codeBase + o))
  | none => none

/-- TRAP_TAKE (R187). -/
def execTrapTake (gid : Nat) (s : State) : Out :=
  match s.grp gid with
  | none => .next s
  | some g0 =>
    if g0.run.isSome || g0.run2.isSome || g0.stopped then .next s
    else
      let g := nextDeferred g0
      match g.trap with
      | none => .next s
      | some t => match t.req with
        | none => if s.drained gid g then .next (s.trapRecordOut gid g t) else .next s
        | some q =>
          if s.reqSt q == .complete then
            let g1 := setTrapCsrs g t
            match s.handlerPc g with
            | some h => .next (s.setGrp gid (enterHandler g1 t h s.pcc))
            | none => .next (s.stopGroup gid g1 t.cause t.stamp.toNat)
          else .next s

/-! Pre-emption (R191, R392 to R394, R448). -/

/-- PREEMPT_REQUEST: the request reaches a resident group whose block, or which itself, is to be pre-empted. -/
def execPreemptRequest (gid : Nat) (s : State) : Out :=
  match s.grp gid with
  | none => .next s
  | some g =>
    let ask := ((s.blocks.get? g.blockKey).map (·.ask)).getD false || g.moveTo.isSome
    match g.place with
    | .resident _ _ => if ask then .next (s.setGrp gid { g with saveReq := true }) else .next s
    | _ => .next s

/-- Table 6-6 from offset 0x80: identity and counters, PC table, g, f, j, c and k, v-registers. The spec gives the identity block no layout: its items
stand in the order listed, 8 bytes each. -/
def saveImage (s : State) (g : Group) : List Byte :=
  let ident := [g.launch, g.block, g.index, g.prio.toNat, if g.priv then 1 else 0, g.loads, g.stores, g.copies, g.tiles, g.fpstat.toNat,
                g.stallwd.toNat, (s.pcc - g.stallFrom).toNat, if g.handler then 1 else 0, g.pcs.length]
  let entry (e : Entry) : List Byte :=
    le 8 (e.pc.toNat + e.age * 2 ^ 48 + (if e.isHeld then 2 ^ 55 else 0) + (if e.frozen then 2 ^ 56 else 0) + 2 ^ 57) ++ le 8 e.mask.toNat
  let tab := g.pcs.flatMap entry
  let cbyte (l : Nat) : Byte := BitVec.ofNat 8 ((List.range 8).foldl (fun a n => a + (if (g.regs.creg n).getLsbD l then 2 ^ n else 0)) 0)
  let kbyte : Byte := BitVec.ofNat 8 ((List.range 8).foldl (fun a n => a + (if g.regs.kreg n then 2 ^ n else 0)) 0)
  ident.flatMap (le 8) ++ List.replicate 16 0 ++ tab ++ List.replicate (1024 - tab.length) 0 ++
  (List.range 64).flatMap (fun n => le 8 (g.regs.greg n).toNat) ++ (List.range 16).flatMap (fun n => le 4 (g.regs.freg n).toNat) ++
  (List.range 8).flatMap (fun n => le 8 (g.regs.jreg n).toNat) ++ (List.range 64).map cbyte ++ [kbyte] ++ List.replicate 63 0 ++
  (List.range g.nregs).flatMap (fun n => (List.range 64).flatMap (fun l => le 4 (g.regs.vreg n l).toNat))

/-- A block is saved once every group of it is, and its stream does not run. -/
def State.blockSaved (s : State) (bk : Nat) : State :=
  match s.blocks.get? bk with
  | none => s
  | some b =>
    let q := (s.cl b.cluster).seq
    let streams := (q.st == .ready || q.st == .running) && q.launch == b.launch && q.block == b.index
    let here := s.groups.any (fun p => p.2.blockKey == bk && p.2.place != .saved)
    if streams || here then s else s.modBlock bk (fun b => { b with resident := false, ask := false })

/-- GROUP_SAVE: at a run boundary and drained, the image is published; then the context leaves its core. -/
def execGroupSave (gid : Nat) (s : State) : Out :=
  match s.grp gid with
  | none => .next s
  | some g => match g.place with
    | .resident c k =>
      if g.saveReq && g.run.isNone && g.run2.isNone && g.trap.isNone && g.deferred.isEmpty && !g.stopped && s.drained gid g then
        let g := returnAll g
        if !g.deferred.isEmpty then .next (s.setGrp gid g)
        else
          let (q, s) := s.lodgeBytes (s.grpCluster g) g.ctx none (g.trec.toNat + 0x80) (saveImage s g)
          .next (s.setGrp gid { g with place := .saving c k, saveOp := some q, stallFrom := s.pcc - g.stallFrom })
      else .next s
    | .saving _ _ => match g.saveOp with
      | some q =>
        if s.reqSt q == .complete then .next ((s.setGrp gid { g with place := .saved, saveOp := none, saveReq := false }).blockSaved g.blockKey)
        else .next s
      | none => .next s
    | _ => .next s

/-- R184, R253: the cores a group may be restored on. -/
def restoreCore (s : State) (g : Group) (core : Nat) : Bool :=
  let pend (b : Nat × Bar) : Bool := groupHeld (b.2.phase :: b.2.complete) g
  let bars := s.bars.filter pend
  bars.all (fun b => match b.2.scope with
    | .co => b.1 / 16 % 65536 == core
    | .qd => b.1 / 16 % 65536 == coreCluster core * 6 + coreQuad core
    | _ => true) &&
  (core == g.lastCore || !(List.range 24).any (fun i => (s.slot (24 * coreCluster core + i)).bound == some g.launch))

/-- Restore order (R393): highest priority first, then oldest placement. -/
def restoreFirst (s : State) (b : Block) (prio : BitVec 2) : Bool :=
  s.blocks.all (fun p =>
    let x := p.2
    if x.cluster = b.cluster ∧ x.resident = false ∧ x.ended = false ∧ x.held = false then
      let pr := ((s.launchOf x.launch).map (·.prio)).getD 0
      !(decide (prio.toNat < pr.toNat) || (pr == prio && decide (x.placedAt < b.placedAt)))
    else true)

/-- GROUP_RESTORE: a saved group whose block may be placed takes a free context of a core of its cluster; yields are zero, a hold and ages stay. -/
def execGroupRestore (gid core : Nat) (s : State) : Out :=
  match s.grp gid with
  | none => .next s
  | some g => match s.blocks.get? g.blockKey, g.place, s.freeSlot core with
    | some b, .saved, some k =>
      let quiet := match s.ctx? g.ctx with
        | some c => c.quiet == .running
        | none => false
      let moved := match g.moveTo with
        | some c => c == core
        | none => true
      if b.cluster = coreCluster core && !b.held && !b.ask && quiet && moved && s.regsUsed core + g.nregs ≤ 1024 && restoreCore s g core &&
          (b.resident || restoreFirst s b g.prio) &&
          ((s.cl b.cluster).saves.get? g.blockKey).isNone then
        let es := formTable (g.pcs.map (fun e => { e with yield := none }))
        let s := s.setGrp gid { g with
          place := .resident core k, pcs := es, served := 0, joined := s.now, lastCore := core, moveTo := none, stallFrom := s.pcc - g.stallFrom
          movedAt := if g.moveTo.isSome then s.pcc else g.movedAt }
        .next ((s.modBlock g.blockKey (fun b => { b with resident := true })).acquire core g.ctx)
      else .next s
    | _, _, _ => .next s

/-! The end of a group and of a block (R177, R368, R387). -/

/-- A block ends when its last group has ended and its stream has no handle left: its lock records go, its sequencer is free, its launch counts it. -/
def State.endBlock (s : State) (bk : Nat) : State :=
  match s.blocks.get? bk with
  | none => s
  | some b =>
    let q := (s.cl b.cluster).seq
    let mine := q.st != .free && q.launch == b.launch && q.block == b.index
    let open_ := (mine && (q.st == .ready || q.st == .running || q.handle.isSome)) || ((s.cl b.cluster).saves.get? bk).isSome
    if b.ended || open_ || s.groups.any (fun p => p.2.blockKey == bk) then s
    else
      let s := s.dropLocks bk
      let s := if mine then s.modCl b.cluster (fun c => { c with seq := Seq.reset, mail := [], mailOpen := false }) else s
      let s := { s with blocks := s.blocks.erase bk }
      s.modLaunch b.launch (fun l => { l with endedBlks := l.endedBlks + 1 })

/-- GROUP_END: no lane is live or parked, or the group is stopped at a boundary; with its counters zero its context is free. -/
def execGroupEnd (gid : Nat) (s : State) : Out :=
  match s.grp gid with
  | none => .next s
  | some g =>
    let idle := g.run.isNone && g.run2.isNone && g.trap.isNone && g.saveOp.isNone
    let over_ := (g.pcs.isEmpty && g.parked.isEmpty && g.deferred.isEmpty) || g.stopped || g.stopReq
    if idle && over_ && g.loads == 0 && g.stores == 0 && g.copies == 0 && g.tiles == 0 && !s.pkts.any (fun p => p.2.gid == gid) then
      .next (({ s with groups := s.groups.erase gid }).endBlock g.blockKey)
    else .next s

end Sys2Proof.Machine
end

