-- ==== Sys2Proof/Machine/Tree.lean ====
section
/-! DEFINITION. The written-back index: node images, index write-back, and a tree read back from its root (R198 to R201, R353). -/

namespace Sys2Proof.Machine

/-! Node images (R199, R201). -/

/-- An index entry as its 128 bits (Table 7-6). -/
def entNat (e : IxEntry) : Nat :=
  e.f0pos.toNat + e.f0msk.toNat * 2 ^ 44 + e.f1pos.toNat * 2 ^ 52 + e.f1msk.toNat * 2 ^ 96 + e.fmt.toNat * 2 ^ 104 + e.z.toNat * 2 ^ 108 +
    e.tier.toNat * 2 ^ 109 + e.ownr.toNat * 2 ^ 110 + e.prep.toNat * 2 ^ 111
def entOf (n : Nat) : IxEntry :=
  { f0pos := BitVec.ofNat 44 n, f0msk := BitVec.ofNat 8 (n / 2 ^ 44), f1pos := BitVec.ofNat 44 (n / 2 ^ 52), f1msk := BitVec.ofNat 8 (n / 2 ^ 96),
    fmt := BitVec.ofNat 4 (n / 2 ^ 104), z := (n / 2 ^ 108) % 2 == 1, tier := (n / 2 ^ 109) % 2 == 1, ownr := (n / 2 ^ 110) % 2 == 1,
    prep := (n / 2 ^ 111) % 2 == 1 }

/-- The header of a level-1 node from its low 128 bits (Table 7-5). -/
def hdrOf (n : Nat) : PageHdr :=
  { perm := BitVec.ofNat 3 n, mtype := BitVec.ofNat 2 (n / 2 ^ 3), tier := (n / 2 ^ 5) % 2 == 1, valid := (n / 2 ^ 6) % 2 == 1,
    home := BitVec.ofNat 5 (n / 2 ^ 7), owner := BitVec.ofNat 12 (n / 2 ^ 12), remote := (n / 2 ^ 24) % 2 == 1,
    lcnt := BitVec.ofNat 32 (n / 2 ^ 64), rcnt := BitVec.ofNat 32 (n / 2 ^ 96) }

/-- The image of a leaf; the lines of a page that a peer owns stand as OWNR markers only (R357). -/
def leafImage (ents : FMap IxEntry) (remote : Bool) : Line :=
  BitVec.ofNat 2048 ((List.range 16).foldl (fun acc i =>
    let e := ents.getD IxEntry.empty i
    acc + entNat (if remote then { IxEntry.empty with ownr := true } else e) * 2 ^ (128 * i)) 0)

/-- The image of an interior node or a root half: its header and the positions of its valid ways. -/
def nodeImage (hdr : Nat) (ways : List (Option Nat)) : Line :=
  BitVec.ofNat 2048 (hdr + (List.range 32).foldl (fun acc i => match ways.getD i none with
    | some p => acc + (p % 2 ^ 44 + 2 ^ 44) * 2 ^ (8 * (64 + 6 * i))
    | none => acc) 0)

/-- Way i of a node image. -/
def nodeWay (d : Line) (i : Nat) : Option Nat :=
  let w := Line.field d (64 + 6 * i) 6
  if w / 2 ^ 44 % 2 = 1 then some (w % 2 ^ 44) else none

/-- The node image at a position, if the record there is one. -/
def nodeAt (recs : FMap Rec) (p : Nat) : Option Line :=
  match recs.get? p with
  | some r => if r.kind = 3 then some (expandLine r.fmt r.payload) else none
  | none => none

/-- Bytes spanned by one child of a node of level l + 1, that is by a node of level l. -/
def nodeSpan (l : Nat) : Nat := 2 ^ (12 + 5 * l)

/-- The LINE field of a node image (R200). -/
def nodeLineKey (l addr : Nat) : Nat := l * 2 ^ 37 + addr / 4096

/-- The log that takes the images of a leaf: that of cluster 8 × d + (slice mod 8) of its home die d (R200, R203). -/
def leafLog (h : PageHdr) (addr : Nat) : Nat := 8 * h.home.toNat + (addr / 4096 % 256 ^^^ addr / 2 ^ 20 % 256) % 8

/-- The record of a node image. -/
def State.nodeRec (s : State) (log c l addr : Nat) (d : Line) : Rec :=
  mkRec s log c (nodeLineKey l addr) 3 0 0xFF 0 [] ((List.range 8).map (Line.sector d))

/-! Index write-back (R353). -/

/-- Whether a page of the context lies in [base, base + n). -/
def State.anyPage (s : State) (c base n : Nat) : Bool :=
  s.store.pages.any (fun p => pageCtx p.1 == c && decide (base ≤ pageAddr p.1) && decide (pageAddr p.1 < base + n))

/-- The node of level l at an address, written back where it differs from its old image: the state and the image's position, none where the log
has no room. Nodes that `touch` does not pick keep their old image. -/
def State.buildNode (s : State) (c : Nat) (touch : Nat → Nat → Bool) : Nat → Nat → Option Nat → Option (State × Option Nat)
  | 0, addr, old =>
    let k := leafKey c addr
    match s.store.leaves.get? k with
    | none => some (s, none)
    | some lf =>
      if lf.dirty && touch 0 addr then
        let h := (s.store.pages.get? (pageOfLeaf k)).getD (hdrOf 0)
        let log := leafLog h addr
        match s.append log (s.nodeRec log c 0 addr (leafImage lf.ents h.remote)) with
        | none => none
        | some (s, p) => some (s.setStore { s.store with leaves := s.store.leaves.set k { lf with dirty := false } }, some p)
      else some (s, old)
  | l + 1, addr, old =>
    if !touch (l + 1) addr then some (s, old)
    else if !s.anyPage c addr (nodeSpan (l + 1)) then some (s, none)
    else
      let od := old.bind (nodeAt s.store.recs)
      let step (acc : Option (State × List (Option Nat))) (i : Nat) : Option (State × List (Option Nat)) :=
        match acc with
        | none => none
        | some (s, ws) => match s.buildNode c touch l (addr + i * nodeSpan l) (od.bind (fun d => nodeWay d i)) with
          | none => none
          | some (s, w) => some (s, ws ++ [w])
      match (List.range 32).foldl step (some (s, [])) with
      | none => none
      | some (s, ws) =>
        let hdr := if l = 0 then ((s.store.pages.get? (pageKey c addr)).map (fun h => (hdrBits h).toNat)).getD 0 else l + 1
        let d := nodeImage hdr ws
        if od == some d then some (s, old)
        else match s.append 0 (s.nodeRec 0 c (l + 1) addr d) with
          | none => none
          | some (s, p) => some (s, some p)

/-- The two root halves, appended as consecutive records (R200). -/
def State.appendRoot (s : State) (c : Nat) (d0 d1 : Line) : Option (State × Nat) :=
  let r0 := s.nodeRec 0 c 7 0 d0
  let r1 := s.nodeRec 0 c 7 (2 ^ 47) d1
  let both (s : State) : Option (State × Nat) :=
    match s.appendHere 0 r0 (s.heldUnits 0 + 9) with
    | none => none
    | some (s, p) => (s.appendHere 0 r1 (s.heldUnits 0)).map (fun q => (q.1, p))
  match both s with
  | some x => some x
  | none => ((s.sealLog 0).takeSeg 0 false).bind both

/-- The ways of a root half, its children written back. -/
def State.buildHalf (s : State) (c : Nat) (touch : Nat → Nat → Bool) (base : Nat) (od : Option Line) : Option (State × List (Option Nat)) :=
  (List.range 32).foldl (fun acc i => match acc with
    | none => none
    | some (s, ws) => match s.buildNode c touch 6 (base + i * nodeSpan 6) (od.bind (fun d => nodeWay d i)) with
      | none => none
      | some (s, w) => some (s, ws ++ [w])) (some (s, []))

/-- Index write-back of a context (R353): the leaves and nodes that `touch` picks take new images where they differ, and IXROOT takes the new root.
None where a log has no room. -/
def State.syncTree (s : State) (c : Nat) (touch : Nat → Nat → Bool) : Option State :=
  match s.ctx? c with
  | none => none
  | some x =>
    let root := x.ixroot.toNat
    let o0 := if root = 0 then none else nodeAt s.store.recs root
    let o1 := if root = 0 then none else nodeAt s.store.recs (root + 9)
    match s.buildHalf c touch 0 o0 with
    | none => none
    | some (s, w0) => match s.buildHalf c touch (2 ^ 47) o1 with
      | none => none
      | some (s, w1) =>
        let d0 := nodeImage 7 w0
        let d1 := nodeImage 7 w1
        if o0 == some d0 && o1 == some d1 then some s
        else (s.appendRoot c d0 d1).map (fun q => q.1.modCtx c (fun x => { x with ixroot := BitVec.ofNat 44 q.2 }))

/-- Every node of the context. -/
def touchAll (_ _ : Nat) : Bool := true
/-- The path to one leaf. -/
def touchLeaf (addr : Nat) (l a : Nat) : Bool := decide (a ≤ addr) && decide (addr < a + nodeSpan l)

/-- LEAF_WRITEBACK (R353): a home evicts a leaf; its image, and new images on its path, are appended. -/
def execLeafWriteback (leaf : Nat) (s : State) : Out :=
  match s.store.leaves.get? leaf with
  | none => .next s
  | some lf => if lf.dirty then .next ((s.syncTree (leafCtx leaf) (touchLeaf (leafAddr leaf))).getD s) else .next s

/-! A tree read back (R198, R199). -/

/-- The leaves and the pages below a node. -/
def loadNode (recs : FMap Rec) (c : Nat) : Nat → Nat → Nat → FMap HomeLeaf × FMap PageHdr → FMap HomeLeaf × FMap PageHdr
  | 0, addr, p, (ls, ps) => match nodeAt recs p with
    | none => (ls, ps)
    | some d =>
      let ents := (List.range 16).foldl (fun (m : FMap IxEntry) i =>
        FMap.put m IxEntry.empty i { entOf (Line.field d (16 * i) 16) with prep := false }) []
      (ls.set (leafKey c addr) { ents := ents, dirty := false }, ps)
  | l + 1, addr, p, (ls, ps) => match nodeAt recs p with
    | none => (ls, ps)
    | some d =>
      let ps := if l = 0 then ps.set (pageKey c addr) (hdrOf (Line.field d 0 16)) else ps
      (List.range 32).foldl (fun acc i => match nodeWay d i with
        | none => acc
        | some q => loadNode recs c l (addr + i * nodeSpan l) q acc) (ls, ps)

/-- The homes of a context take the tree at a root, but for root way 63, the save region, which stays as it is (R448); a root of 0 gives an empty tree
(R396). -/
def State.loadTree (s : State) (c root : Nat) : State :=
  let stays (a : Nat) : Bool := decide (saveRegion ≤ a)
  let ls := s.store.leaves.filter (fun p => leafCtx p.1 != c || stays (leafAddr p.1))
  let ps := s.store.pages.filter (fun p => pageCtx p.1 != c || stays (pageAddr p.1))
  let r := loadNode s.store.recs c 7 (2 ^ 47) (root + 9) (loadNode s.store.recs c 7 0 root ([], []))
  let fresh := if root = 0 then ([], []) else r
  let nls := fresh.1.filter (fun p => !stays (leafAddr p.1))
  let nps := fresh.2.filter (fun p => !stays (pageAddr p.1))
  s.setStore { s.store with
    leaves := nls.foldl (fun m p => m.set p.1 p.2) ls, pages := nps.foldl (fun m p => m.set p.1 p.2) ps }

/-- A root half with another way 31. -/
def withWay31 (d : Line) (w : Option Nat) : Line :=
  nodeImage (Line.field d 0 64) ((List.range 32).map (fun i => if i = 31 then w else nodeWay d i))

/-- The root at a position without root way 63: a snapshot leaves the save region out (R448). -/
def State.rootWithout63 (s : State) (c root : Nat) : Option (State × Nat) :=
  match nodeAt s.store.recs root, nodeAt s.store.recs (root + 9) with
  | some d0, some d1 => match nodeWay d1 31 with
    | none => some (s, root)
    | some _ => s.appendRoot c d0 (withWay31 d1 none)
  | _, _ => some (s, root)

/-- The root at a position, root way 63 carried over from the current root (R448). -/
def State.rootCarry63 (s : State) (c cur root : Nat) : Option (State × Nat) :=
  match nodeAt s.store.recs root, nodeAt s.store.recs (root + 9), (nodeAt s.store.recs (cur + 9)).bind (fun d => nodeWay d 31) with
  | some d0, some d1, some w => s.appendRoot c d0 (withWay31 d1 (some w))
  | _, _, _ => some (s, root)

end Sys2Proof.Machine
end

