-- ==== Sys2Proof/Machine/Cleaner.lean ====
section
/-! DEFINITION. The cleaner and snapshot engine: snapshots, rollback, shootdown, cleaning, replication (R349 to R362). -/

namespace Sys2Proof.Machine

/-! Segments and what they hold (R349 to R351, R359). -/

/-- Whether a fragment of an entry lies in a segment. -/
def frag0In (seg : Nat) (e : IxEntry) : Bool := e.f0msk != 0 && posSeg e.f0pos.toNat == seg
def frag1In (seg : Nat) (e : IxEntry) : Bool := e.f1msk != 0 && posSeg e.f1pos.toNat == seg
def entIn (seg : Nat) (e : IxEntry) : Bool := frag0In seg e || frag1In seg e

/-- Whether a line of a publication names a record of a segment, or expects one to be moved out of it. -/
def plineIn (seg : Nat) (x : PLine) : Bool :=
  (x.msk != 0 && posSeg x.pos == seg) || x.recs.any (fun r => posSeg r == seg) || (match x.expect with
    | some e => entIn seg e
    | none => false)

/-- Every publication with records in the segment has committed or been abandoned, and neither an open batch nor an operation in progress holds one of them
(R350). -/
def State.segResolved (s : State) (seg : Nat) : Bool :=
  let appIn (a : FMap AppLine) : Bool := a.any (fun p => p.2.recs.any (fun r => posSeg r == seg))
  !s.store.reqs.any (fun p => p.2.lines.any (plineIn seg)) && !s.store.pubs.any (fun p => p.2.lines.any (plineIn seg)) &&
  !s.clusters.any (fun c => appIn c.2.app) && !s.hosts.any (fun h => appIn h.2.app) && !s.aops.any (fun p => appIn p.2.shadow)

/-- The modules that replicate a context (R396). -/
def Ctx.peers (c : Ctx) : List Nat := (c.replicas.filter (fun r => r.getLsbD 15)).map (fun r => r.toNat % 4096)
def shipKey (c m : Nat) : Nat := c * 4096 + m

/-- Whether a segment of a log goes to the replicas of a context (R359). -/
def shipsFor (recs : FMap Rec) (log seg c : Nat) : Bool :=
  let mine := (segRecs recs seg).filter (fun p => p.2.ctx == c)
  if 256 ≤ log ∧ log < 320 then
    if log % 4 = 0 then false else if log % 4 = 3 then mine.any (fun p => p.2.kind == 0) else !mine.isEmpty
  else !mine.isEmpty

/-- Every replica of every context with records in the segment has acknowledged it. -/
def State.segAcked (s : State) (seg : Nat) (g : Seg) : Bool :=
  s.ctxs.all (fun c => !shipsFor s.store.recs g.logid seg c.1 || c.2.peers.all (fun m => decide (shipKey c.1 m ∈ g.acked)))

/-! LIB shootdown (R355). -/

/-- The shootdown of a segment: every cluster's LIB drops its entries that hold a position in it, a locked way being refilled in place, and every L1 its lines, owned
ones too. The accesses of this model translate and read in one step, so none is left behind. -/
def State.shootdown (s : State) (seg : Nat) : State :=
  let s := (FMap.keys s.clusters).foldl (fun (s : State) c => s.libDrop c (fun _ w => w.ents.any (fun e => entIn seg e.2))) s
  (FMap.keys s.cores).foldl (fun (s : State) k => s.coreDrop k (fun _ => true)) s

/-- The shootdown of a context's LIB entries and L1 lines (R358). -/
def State.shootCtx (s : State) (c : Nat) : State :=
  let s := (FMap.keys s.clusters).foldl (fun (s : State) k => s.libDrop k (fun leaf _ => leafCtx leaf == c)) s
  (FMap.keys s.cores).foldl (fun (s : State) k => s.coreDrop k (fun lk => keyCtxLine lk == c)) s

/-- A segment position of Table 7-1 (R361). -/
def segPosOk (p : Nat) : Bool := decide (p < 2 ^ 44) && p % 2 ^ 17 == 0 && (decide (p < 2 ^ 35) || p / 2 ^ 37 == 1)

/-- LIBSD (R361). -/
def execLibsd (w : Ctl) (s : State) : Out :=
  ctlWord 0x303 w s (fun gid second g r s =>
    let a := (readGr g.regs w.a).toNat
    if segPosOk a then s.asyncWord gid second g (fNum w.d) 7 false (.libsd (a / 2 ^ 17)) .running else s.trapPlain gid r .illop)

/-- SHOOTDOWN: that of a LIBSD; its future is then DONE. -/
def execShootdown (op : Nat) (s : State) : Out :=
  match s.aops.get? op with
  | none => .next s
  | some o => match o.kind with
    | .libsd seg => .next ((s.shootdown seg).endAop op .ok)
    | _ => .next s

/-! Snapshots (R356, R357, R361). -/

def Snap.free : Snap := { st := .free, root := 0, cut := 0, tell := [], segs := [] }
def State.snap (s : State) (c n : Nat) : Snap := match s.ctx? c with
  | some x => x.snaps.getD Snap.free n
  | none => Snap.free
def State.setSnap (s : State) (c n : Nat) (x : Snap) : State := s.modCtx c (fun k => { k with snaps := k.snaps.put Snap.free n x })
def slotNo (w : Ctl) : Nat := (w.imm.extractLsb' 0 6).toNat

/-- SNAP: a slot that is not FREE fails it; otherwise the cluster's open batch is published first. -/
def execSnap (w : Ctl) (s : State) : Out :=
  ctlWord 0x208 w s (fun gid second g _ s =>
    let n := slotNo w
    if (s.snap g.ctx n).st != .free then s.asyncNow gid second g (fNum w.d) 7 false (.failed .access)
    else match s.startAop gid g (fNum w.d) 7 false (.snap n) .queued with
      | none => s.waitFuture gid second
      | some (s, k, _) =>
        let (q, s) := s.lodgeAfter (s.grpCluster g) g.ctx gid .batch
        s.modAop k (fun o => { o with stage := .prePub q }))

/-- Holders of a context's lines that are not past their last acknowledgement are asked to revoke (R357). -/
def State.askRevoke (s : State) (c : Nat) : State :=
  let holders := ((s.store.preps.filter (fun p => keyCtxLine p.1 == c)).filterMap (fun p => p.2.holder)).dedup
  holders.foldl (fun (s : State) p => s.modPub p (fun q => if q.committing || q.revoked then q else { q with revoked := true, askedAt := s.pcc })) s

/-- The logs whose open segment holds a record of a context. -/
def State.openLogsOf (s : State) (c : Nat) : List Nat :=
  FMap.keys (s.store.logs.filter (fun l => match l.2.seg with
    | some k => (segRecs s.store.recs k).any (fun p => p.2.ctx == c)
    | none => false))

/-- The sealed segments that a context's replicas have still to replay for a cut (R359). -/
def State.cutSegs (s : State) (c : Nat) : List Nat :=
  FMap.keys (s.store.segs.filter (fun p => p.2.isSealed && shipsFor s.store.recs p.2.logid p.1 c))

/-- The replicas of a slot that have replayed every segment of its cut are told to take it. -/
def State.tellSlots (s : State) (c : Nat) : State :=
  match s.ctx? c with
  | none => s
  | some x => x.snaps.foldl (fun (s : State) p =>
      let ready (m : Nat) : Bool := p.2.segs.all (fun k => match s.store.segs.get? k with
        | some g => decide (shipKey c m ∈ g.acked)
        | none => true)
      let go := p.2.tell.filter ready
      let s := go.foldl (fun (s : State) m => s.sendMsg (BitVec.ofNat 12 m) 2 c (.snapSlot c p.1)) s
      if go.isEmpty then s else s.setSnap c p.1 { p.2 with tell := p.2.tell.filter (fun m => !ready m) }) s

/-- A log's open segment is sealed for a cut; what is reserved or promised in it is kept in the segment that follows (R216, R359). None where there is none. -/
def State.sealKeep (s : State) (log : Nat) : Option State :=
  if s.keepUnits log = 0 then some (s.sealLog log) else (s.sealLog log).takeSeg log false

/-- The cut: every dirty leaf and every changed node is captured, the slot is HELD with the root and the cut's PCC, grants resume. -/
def State.takeCut (s : State) (op : Nat) (o : AOp) (n : Nat) : State :=
  let made := (s.syncTree o.ctx touchAll).bind (fun s => s.rootWithout63 o.ctx (((s.ctx? o.ctx).map (fun c => c.ixroot.toNat)).getD 0))
  let sealed := made.bind (fun q =>
    let peers := ((q.1.ctx? o.ctx).map Ctx.peers).getD []
    if peers.isEmpty then some (q.1, q.2, peers)
    else ((q.1.openLogsOf o.ctx).foldl (fun (acc : Option State) l => acc.bind (fun s => s.sealKeep l)) (some q.1)).map (fun s => (s, q.2, peers)))
  match sealed with
  | none => s
  | some (s2, root, peers) =>
    let x : Snap := { st := .held, root := BitVec.ofNat 44 root, cut := s2.pcc, tell := peers, segs := if peers.isEmpty then [] else s2.cutSegs o.ctx }
    (((s2.setSnap o.ctx n x).modCtx o.ctx (fun c => { c with stopped := false })).endAop op .ok).tellSlots o.ctx

/-- SNAPSHOT_CUT (R357): grants stop and holders are asked to revoke; once no line of the context is prepared, the cut is taken. -/
def execSnapshotCut (op : Nat) (s : State) : Out :=
  match s.aops.get? op with
  | none => .next s
  | some o => match o.kind, o.stage with
    | .snap n, .prePub q =>
      if s.reqSt q != .complete then .next s
      else if (s.snap o.ctx n).st != .free then .next (s.endAop op (.failed .access))
      else
        let s := (s.setSnap o.ctx n { Snap.free with st := .taking }).modCtx o.ctx (fun c => { c with stopped := true })
        .next ((s.askRevoke o.ctx).modAop op (fun o => { o with stage := .running }))
    | .snap n, .running =>
      let s := (s.modCtx o.ctx (fun c => { c with stopped := true })).askRevoke o.ctx
      if s.store.preps.any (fun p => keyCtxLine p.1 == o.ctx && p.2.holder.isSome) then .next s else .next (s.takeCut op o n)
    | _, _ => .next s

/-- Whether a checkpoint in progress holds a slot (R404). -/
def State.ckHolds (s : State) (c n : Nat) : Bool :=
  s.ckpt.active.any (fun k => match s.aops.get? k with
    | some o => o.ctx == c && (match o.kind with
      | .ckpt _ b => b.op == 1 && b.slot == n
      | _ => false)
    | none => false)

/-- A DROPPING slot that no checkpoint holds becomes FREE, and the SNAPDROP that waits for it is DONE. -/
def State.dropSlot (s : State) (c n op : Nat) : State :=
  if (s.snap c n).st == .dropping && !s.ckHolds c n then (s.setSnap c n Snap.free).endAop op .ok else s

/-- The SNAPDROPs of a context that wait. -/
def State.dropSlots (s : State) (c : Nat) : State :=
  s.aops.foldl (fun (s : State) p => match p.2.kind with
    | .snapdrop n => if p.2.ctx = c then s.dropSlot c n p.1 else s
    | _ => s) s

/-- SNAPDROP. -/
def execSnapdrop (w : Ctl) (s : State) : Out :=
  ctlWord 0x209 w s (fun gid second g _ s =>
    let n := slotNo w
    if (s.snap g.ctx n).st != .held then s.asyncNow gid second g (fNum w.d) 7 false (.failed .access)
    else match s.startAop gid g (fNum w.d) 7 false (.snapdrop n) .running with
      | none => s.waitFuture gid second
      | some (s, k, _) => (s.setSnap g.ctx n { s.snap g.ctx n with st := .dropping }).dropSlot g.ctx n k)

/-! Rollback (R358, R361). -/

/-- Whether a line of a context is in some open batch or in a publication that has not ended. -/
def State.openOf (s : State) (c : Nat) : Bool :=
  let inBuf (b : FMap BufLine) (a : FMap AppLine) : Bool := b.any (fun p => keyCtxLine p.1 == c) || a.any (fun p => keyCtxLine p.1 == c)
  s.clusters.any (fun k => inBuf k.2.buf k.2.app) || s.hosts.any (fun h => inBuf h.2.buf h.2.app) ||
  s.store.pubs.any (fun p => p.2.lines.any (fun x => x.ctx == c))

/-- Whether a group or a sequencer stream of a context is resident. -/
def State.residentOf (s : State) (c : Nat) : Bool :=
  s.groups.any (fun p => p.2.ctx == c && p.2.core?.isSome) ||
  s.clusters.any (fun k => k.2.seq.ctx == c && (k.2.seq.st == .ready || k.2.seq.st == .running))

/-- Whether a future of a context is PENDING. -/
def Ctx.anyPending (c : Ctx) : Bool := c.futs.any (fun f => f.2.st == .pending)

/-- R358: the context is quiesced. -/
def State.quiesced (s : State) (c : Nat) : Bool :=
  match s.ctx? c with
  | some x => x.quiet == .quiesced && !s.residentOf c && !x.anyPending && !s.openOf c
  | none => false

/-- A context named by a g-register: one that exists, and nothing above its 16 bits. -/
def State.ctxArg (s : State) (a : Dword) : Option Nat := if a.toNat < 65536 ∧ (s.ctx? a.toNat).isSome then some a.toNat else none

/-- ROOTSW. -/
def execRootsw (w : Ctl) (s : State) : Out :=
  ctlWord 0x300 w s (fun gid second g r s =>
    match s.ctxArg (readGr g.regs w.a) with
    | none => s.trapPlain gid r .illop
    | some c => s.asyncWord gid second g (fNum w.d) 7 false (.rootsw c (slotNo w)) .running)

/-- ROLLBACK (R358): the leaves are written back and discarded, LIB entries and L1 lines shot down, IXROOT takes the slot's root. -/
def execRollback (op : Nat) (s : State) : Out :=
  match s.aops.get? op with
  | none => .next s
  | some o => match o.kind with
    | .rootsw c n =>
      let x := s.snap c n
      if !s.quiesced c || x.st != .held then .next (s.endAop op (.failed .access))
      else match (s.syncTree c touchAll).bind (fun s => s.rootCarry63 c (((s.ctx? c).map (fun k => k.ixroot.toNat)).getD 0) x.root.toNat) with
        | none => .next s
        | some (s, root) =>
          .next ((((s.loadTree c x.root.toNat).shootCtx c).modCtx c (fun k => { k with ixroot := BitVec.ofNat 44 root })).endAop op .ok)
    | _ => .next s

/-! Trees and segments (R350, R354). -/

/-- Whether a node, or with `data` a record that a leaf below it names, lies in a segment. -/
def nodeIn (recs : FMap Rec) (seg : Nat) (data : Bool) : Nat → Nat → Bool
  | 0, p => posSeg p == seg || (data && match nodeAt recs p with
    | some d => (List.range 16).any (fun i => entIn seg (entOf (Line.field d (16 * i) 16)))
    | none => false)
  | l + 1, p => posSeg p == seg || match nodeAt recs p with
    | some d => (List.range 32).any (fun i => match nodeWay d i with
      | some q => nodeIn recs seg data l q
      | none => false)
    | none => false
def rootIn (recs : FMap Rec) (seg : Nat) (data : Bool) (root : Nat) : Bool :=
  root != 0 && (nodeIn recs seg data 7 root || nodeIn recs seg data 7 (root + 9))

/-- The cleaner's log of a stack. -/
def cleanLog (stack : Nat) : Nat := 256 + 4 * stack
/-- The stack whose cleaner cleans a segment: its own, or that of its controller's die (R351, R375). -/
def segCleaner (seg : Nat) : Nat := if segIsCap seg then seg / 2 ^ 15 % 32 / 2 else segStack seg
/-- Append to the cleaner's log in the tier of the segment it cleans, from the reserve (R352). -/
def State.cleanAppend (s : State) (seg : Nat) (r : Rec) : Option (State × Nat) :=
  s.appendTier (cleanLog (segCleaner seg)) (seg / 2 ^ 15 % 32) (segIsCap seg) true r

/-- The copy of a record's sectors m: a whole record unchanged, or a FRAG record (R352). -/
def State.moveRec (s : State) (seg : Nat) (r : Rec) (m : BitVec 8) : Rec :=
  let log := cleanLog (segCleaner seg)
  if m = 0xFF && r.fmt != fmtFrag then mkRec s log r.ctx r.line.toNat 1 r.fmt 0xFF 0 [] r.payload
  else mkRec s log r.ctx r.line.toNat 1 fmtFrag m 0 [] ((sectorList m).map r.sector)

/-- Copy the sectors m of the record at a position: the new state, position and format. -/
def State.moveFrag (s : State) (seg pos : Nat) (m : BitVec 8) : Option (State × Nat × BitVec 4) :=
  match s.store.recs.get? pos with
  | none => none
  | some r =>
    let r' := s.moveRec seg r m
    (s.cleanAppend seg r').map (fun q => (q.1, q.2, r'.fmt))

/-- An entry of a retained leaf with its fragments moved out of a segment. -/
def State.moveEntry (s : State) (seg : Nat) (e : IxEntry) : Option (State × IxEntry) :=
  let a : Option (State × IxEntry) := if frag0In seg e then
      (s.moveFrag seg e.f0pos.toNat e.f0msk).map (fun q => (q.1, { e with f0pos := BitVec.ofNat 44 q.2.1, fmt := q.2.2 }))
    else some (s, e)
  match a with
  | none => none
  | some (s, e) => if frag1In seg e then
      (s.moveFrag seg e.f1pos.toNat e.f1msk).map (fun q => (q.1, { e with f1pos := BitVec.ofNat 44 q.2.1 }))
    else some (s, e)

/-- The node image of new contents, appended in the cleaner's log. -/
def State.moveNodeRec (s : State) (seg pos : Nat) (d : Line) : Option (State × Nat) :=
  match s.store.recs.get? pos with
  | none => none
  | some r => s.cleanAppend seg { r with
      logid := BitVec.ofNat 9 (cleanLog (segCleaner seg)), fmt := 0, payload := (List.range 8).map (Line.sector d)
      pubid := (s.log (cleanLog (segCleaner seg))).pubid + 1 }

/-- A node re-pointed away from a segment: new images along each path that meets it (R354). -/
def State.moveNode (s : State) (seg : Nat) (data : Bool) : Nat → Nat → Option (State × Nat)
  | 0, p => match nodeAt s.store.recs p with
    | none => some (s, p)
    | some d =>
      if !nodeIn s.store.recs seg data 0 p then some (s, p)
      else
        let step (acc : Option (State × List IxEntry)) (i : Nat) : Option (State × List IxEntry) :=
          let e := entOf (Line.field d (16 * i) 16)
          acc.bind (fun q => if data then (q.1.moveEntry seg e).map (fun z => (z.1, q.2 ++ [z.2])) else some (q.1, q.2 ++ [e]))
        match (List.range 16).foldl step (some (s, [])) with
        | none => none
        | some (s, es) => s.moveNodeRec seg p (leafImage ((List.range 16).map (fun i => (i, es.getD i IxEntry.empty))) false)
  | l + 1, p => match nodeAt s.store.recs p with
    | none => some (s, p)
    | some d =>
      if !nodeIn s.store.recs seg data (l + 1) p then some (s, p)
      else
        let step (acc : Option (State × List (Option Nat))) (i : Nat) : Option (State × List (Option Nat)) :=
          acc.bind (fun q => match nodeWay d i with
            | none => some (q.1, q.2 ++ [none])
            | some w => (q.1.moveNode seg data l w).map (fun z => (z.1, q.2 ++ [some z.2])))
        match (List.range 32).foldl step (some (s, [])) with
        | none => none
        | some (s, ws) => s.moveNodeRec seg p (nodeImage (Line.field d 0 64) ws)

/-- The two halves of a root re-pointed away from a segment, again consecutive: the new root. -/
def State.moveRoot (s : State) (seg : Nat) (data : Bool) (root : Nat) : Option (State × Nat) :=
  let half (s : State) (p : Nat) : Option (State × Line) := match nodeAt s.store.recs p with
    | none => none
    | some d =>
      ((List.range 32).foldl (fun (acc : Option (State × List (Option Nat))) i => acc.bind (fun q => match nodeWay d i with
        | none => some (q.1, q.2 ++ [none])
        | some w => (q.1.moveNode seg data 6 w).map (fun z => (z.1, q.2 ++ [some z.2])))) (some (s, []))).map
        (fun q => (q.1, nodeImage (Line.field d 0 64) q.2))
  match half s root with
  | none => none
  | some (s, d0) => match half s (root + 9) with
    | none => none
    | some (s, d1) =>
      let both (s : State) : Option (State × Nat) := (s.moveNodeRec seg root d0).bind (fun a =>
        (a.1.moveNodeRec seg (root + 9) d1).bind (fun b => if b.2 = a.2 + 9 then some (b.1, a.2) else none))
      match both s with
      | some x => some x
      | none => both (s.sealLog (cleanLog (segCleaner seg)))

/-! Cleaning (R350 to R352). -/

/-- Whether some checkpoint in progress holds a snapshot that reaches a segment. -/
def State.ckReaches (s : State) (seg : Nat) : Bool :=
  s.ckpt.active.any (fun k => match s.aops.get? k with
    | some o => match o.kind with
      | .ckpt _ b => b.op == 1 && rootIn s.store.recs seg true (s.snap o.ctx b.slot).root.toNat
      | _ => false
    | none => false)

/-- R351: a segment that the cleaner of a stack may select. -/
def State.cleanable (s : State) (stack seg : Nat) (g : Seg) : Bool :=
  g.isSealed && segCleaner seg == stack && s.segResolved seg && s.segAcked seg g && !s.ckReaches seg

/-- The live fragments of a segment that the homes name, in position order: position, line, sectors (R350, R352). -/
def State.liveFrags (s : State) (seg : Nat) : List (Nat × Nat × BitVec 8) :=
  (segRecs s.store.recs seg).filterMap (fun p =>
    let lk := p.2.ctx * 2 ^ 40 + p.2.line.toNat
    let e := s.homeEntry lk
    if e.f0msk != 0 && e.f0pos.toNat == p.1 then some (p.1, lk, e.f0msk)
    else if e.f1msk != 0 && e.f1pos.toNat == p.1 then some (p.1, lk, e.f1msk)
    else none)

/-- The first fragments, of distinct lines, that one relocation publication moves: a commit replaces one fragment of a line (R219). -/
def fragBatch : List Nat → Nat → List (Nat × Nat × BitVec 8) → List (Nat × Nat × BitVec 8)
  | _, 0, _ => []
  | _, _, [] => []
  | seen, n + 1, x :: xs => if x.2.1 ∈ seen then [] else x :: fragBatch (x.2.1 :: seen) n xs

/-- The moved copies of fragments, as lines of a relocation publication (R219, R352). -/
def State.moveLines (s : State) (seg : Nat) : List (Nat × Nat × BitVec 8) → Option (State × List PLine)
  | [] => some (s, [])
  | (pos, lk, m) :: rest =>
    match s.moveFrag seg pos m with
    | none => none
    | some (s1, p, fmt) => match s1.moveLines seg rest with
      | none => none
      | some (s2, xs) =>
        let x := PLine.of (keyCtxLine lk) (lk % 2 ^ 40) (sectorBytes m) (s.homeLine lk)
        some (s2, { x with pos := p, msk := m, fmt := fmt, expect := some (s.homeEntry lk) } :: xs)

/-- A live root that reaches the segment, newest first: its context, its slot, or none for IXROOT (R352). -/
def State.rootsIn (s : State) (seg : Nat) : List (Nat × Option Nat × Nat) :=
  s.ctxs.flatMap (fun c =>
    let held := c.2.snaps.filter (fun n => (n.2.st == .held || n.2.st == .dropping) && rootIn s.store.recs seg true n.2.root.toNat)
    let order := held.foldl (fun (acc : List (Nat × Snap)) n =>
      acc.takeWhile (fun m => n.2.cut.toNat < m.2.cut.toNat) ++ [n] ++ acc.dropWhile (fun m => n.2.cut.toNat < m.2.cut.toNat)) []
    (if rootIn s.store.recs seg false c.2.ixroot.toNat then [(c.1, none, c.2.ixroot.toNat)] else []) ++
    order.map (fun n => (c.1, some n.1, n.2.root.toNat)))

/-- A live root moved out of the segment. Roots that are equal move together. -/
def State.repoint (s : State) (seg c : Nat) (slot : Option Nat) (root : Nat) : Option State :=
  (s.moveRoot seg slot.isSome root).map (fun q =>
    let new := BitVec.ofNat 44 q.2
    match slot with
    | none => q.1.modCtx c (fun x => { x with ixroot := new })
    | some n => q.1.setSnap c n { q.1.snap c n with root := new })

/-- The segment holds no live record: it is shot down and returns to the reserve while that holds fewer than 328, otherwise to the pool. -/
def State.freeSeg (s : State) (stack seg : Nat) : State :=
  let s := s.shootdown seg
  let s := s.setStore { s.store with recs := s.store.recs.filter (fun p => posSeg p.1 != seg), segs := s.store.segs.erase seg }
  s.modStack stack (fun k =>
    let k := { k with freed := k.freed + 1 }
    if segIsCap seg then k else if k.rsv < 328 then { k with rsv := k.rsv + 1 } else { k with pool := k.pool + 1 })

/-- Whether the cleaner runs: it starts when the pool holds fewer than LOWAT segments and stops when it holds HIWAT; a LOWAT above HIWAT acts as HIWAT
(R351, Table 14-3). -/
def Stack.cleanFlag (k : Stack) : Bool := if k.hiwat.toNat ≤ k.pool then false else k.cleaning || decide (k.pool < min k.lowat.toNat k.hiwat.toNat)

/-- R351: whether a candidate's score (1 − u) × a / (1 + u) is above another's; u is estimated. -/
def State.scoreAbove (s : State) (x y : Nat × Seg) : Bool :=
  let u (p : Nat × Seg) : Nat := Config.liveEst p.1 s.now % (segUnits + 1)
  let a (p : Nat × Seg) : Nat := (s.pcc - p.2.sealedAt).toNat
  decide ((segUnits - u y) * a y * (segUnits + u x) < (segUnits - u x) * a x * (segUnits + u y))
/-- The candidate of highest score, ties to the lower position. -/
def State.bestSeg (s : State) (stack : Nat) : Option Nat :=
  ((s.store.segs.filter (fun p => s.cleanable stack p.1 p.2)).foldl (fun (best : Option (Nat × Seg)) p => match best with
    | none => some p
    | some q => if s.scoreAbove p q then some p else best) none).map (·.1)

/-- A cleaner that is idle selects a segment, while it runs and its register lets it (R351, R362). -/
def State.selectSeg (s : State) (stack seg : Nat) : State :=
  let run := (s.stack stack).cleanFlag
  let go := run && (s.stack stack).clnEn && s.bestSeg stack == some seg
  s.modStack stack (fun k => { k with cleaning := run, target := if go then some seg else none })

/-- CLEAN_SEGMENT (R352): a segment is selected, or the next round of its cleaning is made: live lines, then live roots, then the segment's return. A round waits while
relocations of the one before are under way. -/
def execCleanSegment (stack seg : Nat) (s : State) : Out :=
  match (s.stack stack).target with
  | none => .next (s.selectSeg stack seg)
  | some t =>
    if t ≠ seg ∨ s.segResolved seg = false then .next s
    else match fragBatch [] 4096 (s.liveFrags seg) with
    | x :: rest => match s.moveLines seg (x :: rest) with
      | none => .next s
      | some (s, xs) => .next (s.lodge (cleanLog stack) (keyCtxLine x.2.1) none .solo xs 1).2
    | [] => match s.rootsIn seg with
      | (c, slot, root) :: _ => .next ((s.repoint seg c slot root).getD s)
      | [] => .next ((s.freeSeg stack seg).modStack stack (fun k => { k with target := none }))

/-! Replication (R359, R432). -/

/-- A record as it crosses a link whose far end advertises some formats: others are expanded first (R432). -/
def fmtHeld (padv : BitVec 4) (fmt : BitVec 4) : Bool :=
  match fmt.toNat with
  | 2 => padv.getLsbD 0 | 3 => padv.getLsbD 1 | 4 => padv.getLsbD 2 | 5 => padv.getLsbD 3 | _ => true
def Rec.forLink (padv : BitVec 4) (r : Rec) : Rec :=
  if fmtHeld padv r.fmt then r else { r with fmt := 0, payload := (List.range 8).map (Line.sector (expandLine r.fmt r.payload)) }
/-- The record as its writer formed it: a whole line takes the first format that it passes (R197). -/
def Rec.repack (r : Rec) : Rec :=
  if r.fmt = fmtFrag then r
  else
    let p := packLine (expandLine r.fmt r.payload)
    if r.kind = 3 then r else { r with fmt := p.1, payload := p.2 }

/-- The other segments of a log that hold records of the PUBIDs of a segment, each with the PUBID that it shares. -/
def State.pubidSegs (s : State) (seg : Nat) (g : Seg) : List (Nat × Nat) :=
  let ids := (segRecs s.store.recs seg).map (fun p => p.2.pubid)
  ((s.store.recs.filter (fun p => p.2.logid.toNat == g.logid && decide (p.2.pubid ∈ ids) && posSeg p.1 != seg)).map
    (fun p => (p.2.pubid.toNat, posSeg p.1))).dedup

/-- A sealed and resolved segment goes to a replica that has not had it. -/
def State.shipTo (s : State) (seg c m : Nat) (g : Seg) : State :=
  let peer := BitVec.ofNat 12 m
  let padv : BitVec 4 := match s.routeOf peer seg with
    | some n => (s.link n.toNat).padv
    | none => 0
  let recs := (segRecs s.store.recs seg).map (fun p => (p.1 % 2 ^ 17, p.2.forLink padv))
  let s := s.setStore { s.store with segs := s.store.segs.modify seg (fun g => { g with shipped := g.shipped ++ [shipKey c m] }) }
  s.sendMsg peer 2 seg (.segment seg c recs (g.commits.map (· % 2 ^ 17)) g.digest (s.pubidSegs seg g))

/-- Whether every segment that a log sealed before one has gone to a replica: a log's segments go in order, so that its PUBIDs can be replayed in order. -/
def State.shipsNext (s : State) (g : Seg) (c m : Nat) : Bool :=
  s.store.segs.all (fun p => p.2.logid != g.logid || !p.2.isSealed || decide (g.lowPub.toNat ≤ p.2.lowPub.toNat) || decide (shipKey c m ∈ p.2.shipped) ||
    !shipsFor s.store.recs p.2.logid p.1 c)

/-- SEGMENT_SHIP (R359). -/
def execSegmentShip (seg : Nat) (s : State) : Out :=
  match s.store.segs.get? seg with
  | none => .next s
  | some g =>
    if g.isSealed && s.segResolved seg then
      .next (s.ctxs.foldl (fun (s : State) c =>
        if shipsFor s.store.recs g.logid seg c.1 then
          (c.2.peers.filter (fun m => !decide (shipKey c.1 m ∈ g.shipped) && s.shipsNext g c.1 m)).foldl (fun (s : State) m => s.shipTo seg c.1 m g) s
        else s) s)
    else .next s

/-- A segment message in the inbox, of one peer and one log. -/
def segMsg (m : QfMsg) : Option (Nat × Nat × List (Nat × Rec) × List Nat) :=
  match m.body with
  | .segment seg c rs cm _ _ => some (seg, c, rs, cm)
  | _ => none
def srcKey (m : QfMsg) (rs : List (Nat × Rec)) : Nat := m.peer.toNat * 512 + ((rs.head?.map (fun p => p.2.logid.toNat)).getD 0)

/-- The messages of a peer's log for a context that stand in the inbox, as (segment, its least PUBID). -/
def State.segsFrom (s : State) (peer : BitVec 12) (key c : Nat) : List (Nat × QfMsg) :=
  s.inbox.filter (fun p => p.2.peer == peer && match segMsg p.2 with
    | some (_, c', rs, _) => c' == c && srcKey p.2 rs == key
    | none => false)
def leastPub (m : QfMsg) : Nat := match segMsg m with
  | some (_, _, rs, _) => rs.foldl (fun a p => min a p.2.pubid.toNat) (2 ^ 32)
  | none => 2 ^ 32

/-- The committed data records of a PUBID of a context, in the messages at hand. -/
def replayRecs (ms : List (Nat × QfMsg)) (c : Nat) (id : BitVec 32) : List Rec :=
  ms.flatMap (fun p => match segMsg p.2 with
    | some (_, _, rs, cm) => (rs.filter (fun r => r.2.ctx == c && r.2.kind == 0 && r.2.pubid == id && decide (r.1 ∈ cm))).map (·.2)
    | none => [])

/-- Records as lines of one publication, a later record of a line over an earlier one. -/
def replayLines (rs : List Rec) : List PLine :=
  (rs.foldl (fun (m : FMap PLine) r =>
    let lk := r.ctx * 2 ^ 40 + r.line.toNat
    let d : Line := BitVec.ofNat 2048 ((sectorList r.smask).foldl (fun a j => a + (r.sector j).toNat * 2 ^ (256 * j)) 0)
    let o := (m.get? lk).getD (PLine.of r.ctx r.line.toNat 0 0)
    m.set lk { o with mask := o.mask ||| sectorBytes r.smask, data := mergeLine (sectorBytes r.smask) d o.data }) []).map (·.2)

/-- The migration log that replays a line: that of its page's home. -/
def State.replayLog (s : State) (xs : List PLine) : Nat :=
  match xs.head? with
  | some x => match s.pageHdr (pageOfLine x.key) with
    | some h => migLog h
    | none => 259
  | none => 259

/-- Distinct PUBIDs, ascending. -/
def sortIds (ids : List (BitVec 32)) : List (BitVec 32) :=
  ids.foldl (fun acc i => if i ∈ acc then acc else acc.takeWhile (fun j => j.toNat < i.toNat) ++ [i] ++ acc.dropWhile (fun j => j.toNat < i.toNat)) []

/-- A replica stops a context's replication: a segment's digest does not match, and the die agent reports it (R359). -/
def State.refuseSeg (s : State) (msg seg c : Nat) : State :=
  ({ s with inbox := s.inbox.erase msg, sys := { s.sys with reports := s.sys.reports ++ [Report.badDigest seg c] } }).modCtx c
    (fun x => { x with replStopped := true })

/-- The next PUBID of a segment is replayed: one publication of a migration log. -/
def State.replayPub (s : State) (ms : List (Nat × QfMsg)) (c key : Nat) (id : BitVec 32) : State :=
  let xs := replayLines (replayRecs ms c id)
  let s := s.modCtx c (fun x => { x with replayed := x.replayed.set key id })
  if xs.isEmpty then s
  else
    let (q, s) := s.lodge (s.replayLog xs) c none .solo xs 0
    s.modCtx c (fun x => { x with replaying := x.replaying.set key q })

/-- REPLICA_SEGMENT_RECEIVE (R359): a bad digest stops the context's replication; the PUBIDs of a segment are replayed one after another in ascending order, each once
every segment with records of it has arrived; after the last the segment is acknowledged. -/
def execReplicaSegmentReceive (msg : Nat) (s : State) : Out :=
  match s.inbox.get? msg with
  | none => .next s
  | some m => match m.body with
    | .segment seg c rs _ digest more =>
      match s.ctx? c with
      | none => .next { s with inbox := s.inbox.erase msg }
      | some x =>
        if x.replStopped then .next { s with inbox := s.inbox.erase msg }
        else if Config.sha512 (recArea (rs.map (fun p => (p.1, p.2.repack)))) != digest then .next (s.refuseSeg msg seg c)
        else
          let key := srcKey m rs
          let last := x.replayed.getD 0 key
          let ms := s.segsFrom m.peer key c
          let here (k : Nat) : Bool := ms.any (fun p => match segMsg p.2 with
            | some (k', _, _, _) => k' == k
            | none => false)
          let first := ms.all (fun p => decide (leastPub m ≤ leastPub p.2))
          let busy := (x.replaying.get? key).any (fun q => s.reqSt q != .complete)
          if busy || !first then .next s
          else match sortIds ((rs.map (fun p => p.2.pubid)).filter (fun i => decide (last.toNat < i.toNat))) with
          | [] => .next (({ s with inbox := s.inbox.erase msg }).sendMsg m.peer 2 seg (.segAck seg c))
          | id :: _ =>
            if more.all (fun p => p.1 != id.toNat || here p.2) then .next (s.replayPub ms c key id) else .next s
    | _ => .next s

/-- A replica has replayed a segment (R359). -/
def State.segAckIn (s : State) (peer : BitVec 12) (seg c : Nat) : State :=
  (s.setStore { s.store with segs := s.store.segs.modify seg (fun g => { g with acked := g.acked ++ [shipKey c peer.toNat] }) }).tellSlots c

/-- The replica takes the slot that the primary has cut (R359). -/
def State.snapSlotIn (s : State) (c n : Nat) : State :=
  let (k, s) := s.newNum
  let (q, s) := s.lodge 0 c none .solo [] 0
  { s with aops := s.aops.set k (AOp.new c none 0 0 4096 (.snap n) (.prePub q) s.pcc) }

end Sys2Proof.Machine
end

