-- ==== Sys2Proof/Machine/Vector.lean ====
section
/-! DEFINITION. The vector engine's per-thread, uniform, exchange and vote instructions (R136 to R153). -/

namespace Sys2Proof.Machine

/-! Shared forms. -/

/-- Source operands of a word in lane l, as operands of its type. -/
def srcA (w : Alu) (g : Group) (l : Nat) : BitVec 64 := readLane g.regs w.ty w.a l
def srcB (w : Alu) (g : Group) (l : Nat) : BitVec 64 := readLane g.regs w.ty w.b l
def cOp (w : Alu) : Opnd := (immC w.imm).getD Opnd.none
def srcC (w : Alu) (g : Group) (l : Nat) : BitVec 64 := readLane g.regs w.ty (cOp w) l

/-- A per-lane word that writes one result per lane. -/
def laneWord (opc : Nat) (w : Alu) (s : State) (f : Group → Nat → LaneRes) : Out :=
  groupOnly (.alu opc w) 1 s (fun g r _ => setLanes g r.mask w.d (is64 w.ty) (f g))

/-- A per-lane word whose result is one 32-bit register whatever its type. -/
def laneWord32 (opc : Nat) (w : Alu) (s : State) (f : Group → Nat → LaneRes) : Out :=
  groupOnly (.alu opc w) 1 s (fun g r _ => setLanes g r.mask w.d false (f g))

/-- A uniform word. -/
def uniWord (opc : Nat) (w : Alu) (s : State) (f : Group → Lanes → Regs) : Out :=
  groupOnly (.alu opc w) 1 s (fun g r _ => { g with regs := f g r.mask })

/-- The type's width and signedness; its operands as integers. -/
def tyN (w : Alu) : Nat := tyBits w.ty
def intA (w : Alu) (g : Group) (l : Nat) : Int := intOf (tyN w) (isS w.ty) (srcA w g l)
def intB (w : Alu) (g : Group) (l : Nat) : Int := intOf (tyN w) (isS w.ty) (srcB w g l)
def intC (w : Alu) (g : Group) (l : Nat) : Int := intOf (tyN w) (isS w.ty) (srcC w g l)

/-- An exact integer result, wrapped or clamped by SAT (R71, R140). -/
def intWord (opc : Nat) (w : Alu) (s : State) (f : Group → Nat → Int) : Out :=
  laneWord opc w s (fun g l => intRes (tyN w) (isS w.ty) w.sat (f g l))

/-- Bits of a result, of the type's width. -/
def bitsWord (opc : Nat) (w : Alu) (s : State) (f : Group → Nat → Nat) : Out :=
  laneWord opc w s (fun g l => (BitVec.ofNat 64 (f g l % 2 ^ tyN w), 0))

/-! Integer instructions (Table 5-1). -/

/-- IADD. -/
def execIadd (w : Alu) (s : State) : Out := intWord 0x000 w s (fun g l => intA w g l + intB w g l)
/-- ISUB. -/
def execIsub (w : Alu) (s : State) : Out := intWord 0x001 w s (fun g l => intA w g l - intB w g l)

/-- The exact sum or difference with the carry in of a lane (R141). -/
def carryExact (sub : Bool) (w : Alu) (g : Group) (l : Nat) : Int :=
  let cin : Int := if readC g.regs (cOp w) l then 1 else 0
  if sub then intA w g l - intB w g l - (1 - cin) else intA w g l + intB w g l + cin
/-- The carry, no-borrow or signed-overflow bit out (R141). -/
def carryOut (sub : Bool) (w : Alu) (g : Group) (l : Nat) : Bool :=
  let x := carryExact sub w g l
  if isS w.ty then decide (x < intMin (tyN w) true) || decide (x > intMax (tyN w) true)
  else if sub then decide (x ≥ 0) else decide (x ≥ 2 ^ tyN w)
def carryWord (opc : Nat) (sub : Bool) (w : Alu) (s : State) : Out :=
  groupOnly (.alu opc w) 1 s (fun g r _ =>
    let g' := setLanes g r.mask w.d (is64 w.ty) (fun l => intRes (tyN w) (isS w.ty) false (carryExact sub w g l))
    setCond g' r.mask (cOp w) (carryOut sub w g) 0)
/-- IADDS. -/
def execIadds (w : Alu) (s : State) : Out := carryWord 0x002 false w s
/-- ISUBS. -/
def execIsubs (w : Alu) (s : State) : Out := carryWord 0x003 true w s
/-- IMUL. -/
def execImul (w : Alu) (s : State) : Out := intWord 0x004 w s (fun g l => intA w g l * intB w g l)
/-- IMULHI: bits [2N−1:N] of the exact product. -/
def execImulhi (w : Alu) (s : State) : Out :=
  laneWord 0x005 w s (fun g l => intRes (tyN w) (isS w.ty) false ((intA w g l * intB w g l).fdiv (2 ^ tyN w)))
/-- IMAD. -/
def execImad (w : Alu) (s : State) : Out := intWord 0x006 w s (fun g l => intA w g l * intB w g l + intC w g l)
/-- INEG. -/
def execIneg (w : Alu) (s : State) : Out := intWord 0x007 w s (fun g l => -intA w g l)
/-- IABS. -/
def execIabs (w : Alu) (s : State) : Out := intWord 0x008 w s (fun g l => (intA w g l).natAbs)
/-- IMIN. -/
def execImin (w : Alu) (s : State) : Out := intWord 0x009 w s (fun g l => min (intA w g l) (intB w g l))
/-- IMAX. -/
def execImax (w : Alu) (s : State) : Out := intWord 0x00A w s (fun g l => max (intA w g l) (intB w g l))

/-- The shift count: B's low 32 bits, unsigned (R142). -/
def countB (w : Alu) (g : Group) (l : Nat) : Nat := (srcB w g l).toNat % 2 ^ 32
/-- A's bits as an unsigned number of the type's width. -/
def natA (w : Alu) (g : Group) (l : Nat) : Nat := (srcA w g l).toNat % 2 ^ tyN w
def natB (w : Alu) (g : Group) (l : Nat) : Nat := (srcB w g l).toNat % 2 ^ tyN w

/-- ISHL: zeros in; a count of N or more gives 0. -/
def execIshl (w : Alu) (s : State) : Out :=
  bitsWord 0x00B w s (fun g l => if countB w g l ≥ tyN w then 0 else natA w g l * 2 ^ countB w g l)
/-- ISHR. -/
def execIshr (w : Alu) (s : State) : Out :=
  bitsWord 0x00C w s (fun g l => if countB w g l ≥ tyN w then 0 else natA w g l / 2 ^ countB w g l)
/-- ISAR: copies of bit N − 1 in. -/
def execIsar (w : Alu) (s : State) : Out :=
  laneWord 0x00D w s (fun g l => intRes (tyN w) true false ((intA w g l).fdiv (2 ^ min (countB w g l) (tyN w))))
/-- IROL: left by count mod N. -/
def execIrol (w : Alu) (s : State) : Out :=
  bitsWord 0x00E w s (fun g l =>
    let c := countB w g l % tyN w
    natA w g l * 2 ^ c + natA w g l / 2 ^ (tyN w - c))

def fieldPos (w : Alu) : Nat := (w.imm.extractLsb' 0 8).toNat
def fieldLen (w : Alu) : Nat := (w.imm.extractLsb' 8 8).toNat
/-- IBFX. -/
def execIbfx (w : Alu) (s : State) : Out :=
  laneWord 0x00F w s (fun g l =>
    let f := natA w g l / 2 ^ fieldPos w % 2 ^ fieldLen w
    if fieldLen w = 0 then (0, 0)
    else intRes (tyN w) (isS w.ty) false (intOf (fieldLen w) (isS w.ty) (BitVec.ofNat 64 f)))
/-- IBFI. -/
def execIbfi (w : Alu) (s : State) : Out :=
  bitsWord 0x010 w s (fun g l =>
    let m := (2 ^ fieldLen w - 1) * 2 ^ fieldPos w
    (natA w g l &&& (2 ^ tyN w - 1 - m)) ||| (natB w g l * 2 ^ fieldPos w &&& m))

/-- The bits of A, lowest first. -/
def bitsOfA (w : Alu) (g : Group) (l : Nat) : List Bool := (List.range (tyN w)).map (fun i => (srcA w g l).getLsbD i)
/-- POPC: one 32-bit register. -/
def execPopc (w : Alu) (s : State) : Out :=
  laneWord32 0x011 w s (fun g l => (BitVec.ofNat 64 ((bitsOfA w g l).count true), 0))
/-- CLZ. -/
def execClz (w : Alu) (s : State) : Out :=
  laneWord32 0x012 w s (fun g l => (BitVec.ofNat 64 ((bitsOfA w g l).reverse.takeWhile (fun b => !b)).length, 0))
/-- BREV. -/
def execBrev (w : Alu) (s : State) : Out :=
  bitsWord 0x013 w s (fun g l => (bitsOfA w g l).foldl (fun acc b => 2 * acc + (if b then 1 else 0)) 0)

/-! Logical instructions (R143). -/

def execAndB (w : Alu) (s : State) : Out := bitsWord 0x020 w s (fun g l => natA w g l &&& natB w g l)
def execOrB (w : Alu) (s : State) : Out := bitsWord 0x021 w s (fun g l => natA w g l ||| natB w g l)
def execXorB (w : Alu) (s : State) : Out := bitsWord 0x022 w s (fun g l => natA w g l ^^^ natB w g l)
def execNotB (w : Alu) (s : State) : Out := bitsWord 0x023 w s (fun g l => (~~~(srcA w g l)).toNat)
def execAndn (w : Alu) (s : State) : Out := bitsWord 0x024 w s (fun g l => (srcA w g l &&& ~~~(srcB w g l)).toNat)
/-- BFN3: result bit i is FT[A_i + 2 B_i + 4 C_i]. -/
def bfn (ft : BitVec 8) (a b c : BitVec 64) : BitVec 64 :=
  let pick (i : Nat) (x y z : BitVec 64) : BitVec 64 := if ft.getLsbD i then x &&& y &&& z else 0
  pick 0 (~~~a) (~~~b) (~~~c) ||| pick 1 a (~~~b) (~~~c) ||| pick 2 (~~~a) b (~~~c) ||| pick 3 a b (~~~c) |||
  pick 4 (~~~a) (~~~b) c ||| pick 5 a (~~~b) c ||| pick 6 (~~~a) b c ||| pick 7 a b c
def execBfn3 (w : Alu) (s : State) : Out :=
  bitsWord 0x025 w s (fun g l => (bfn (w.imm.extractLsb' 10 8) (srcA w g l) (srcB w g l) (srcC w g l)).toNat)

/-! Compares, selects, moves (R144). -/

/-- ICMP. -/
def execIcmp (w : Alu) (s : State) : Out :=
  groupOnly (.alu 0x030 w) 1 s (fun g r _ =>
    setCond g r.mask w.d (fun l => relInt w.fn.toNat (intA w g l) (intB w g l)) 0)

/-- The format of a word's type, and its operands' encodings and values. -/
def wF (w : Alu) : Fmt := fmtOf w.ty
def encA (w : Alu) (g : Group) (l : Nat) : Nat := (srcA w g l).toNat % 2 ^ (wF w).width
def encB (w : Alu) (g : Group) (l : Nat) : Nat := (srcB w g l).toNat % 2 ^ (wF w).width
def encC (w : Alu) (g : Group) (l : Nat) : Nat := (srcC w g l).toNat % 2 ^ (wF w).width
def valA (w : Alu) (g : Group) (l : Nat) : FVal := fDec (wF w) (encA w g l)
def valB (w : Alu) (g : Group) (l : Nat) : FVal := fDec (wF w) (encB w g l)
def valC (w : Alu) (g : Group) (l : Nat) : FVal := fDec (wF w) (encC w g l)
def dnAB (w : Alu) (g : Group) (l : Nat) : Flags := dnFlag (wF w) (encA w g l) ||| dnFlag (wF w) (encB w g l)

/-- FCMP: NV only for a signalling NaN. -/
def execFcmp (w : Alu) (s : State) : Out :=
  groupOnly (.alu 0x031 w) 1 s (fun g r _ =>
    setCond g r.mask w.d (fun l => relV w.fn.toNat (valA w g l) (valB w g l))
      (laneFlags r.mask (fun l => (0, flagIf (isSNaN (valA w g l) || isSNaN (valB w g l)) fNV ||| dnAB w g l))))
/-- SEL: the bits of A where the c-bit is 1, of B elsewhere. -/
def execSel (w : Alu) (s : State) : Out :=
  laneWord 0x032 w s (fun g l => (narrow w.ty (if readC g.regs (cOp w) l then srcA w g l else srcB w g l), 0))

/-- The functions of CLOP and KLOP (R144). -/
def lop (fn : Nat) (a b : Bool) : Bool :=
  match fn with
  | 0 => a && b
  | 1 => a || b
  | 2 => xor a b
  | 3 => a && !b
  | _ => !a
/-- CLOP. -/
def execClop (w : Alu) (s : State) : Out :=
  groupOnly (.alu 0x033 w) 1 s (fun g r _ =>
    setCond g r.mask w.d (fun l => lop w.fn.toNat (readC g.regs w.a l) (readC g.regs w.b l)) 0)
/-- MOV. -/
def execMov (w : Alu) (s : State) : Out := laneWord 0x034 w s (fun g l => (narrow w.ty (srcA w g l), 0))
/-- The immediate of MOVI: s64 sign-extends. -/
def moviVal (w : Alu) : BitVec 64 := if w.ty = .s64 then w.imm.signExtend 64 else w.imm.setWidth 64
/-- MOVI. -/
def execMovi (w : Alu) (s : State) : Out := laneWord 0x035 w s (fun _ _ => (moviVal w, 0))
/-- MOVC: into a c-bit, whether A[31:0] is not zero; into a register, the c-bit as 0 or 1. -/
def execMovc (w : Alu) (s : State) : Out :=
  groupOnly (.alu 0x036 w) 1 s (fun g r _ =>
    if spIn 0 7 w.d then setCond g r.mask w.d (fun l => (readLane g.regs .b32 w.a l).setWidth 32 != 0#32) 0
    else setLanes g r.mask w.d false (fun l => (if readC g.regs w.a l then 1 else 0, 0)))

/-! Floating point (R145). -/

/-- A floating-point result per lane. -/
def fltWord (opc : Nat) (w : Alu) (s : State) (f : Group → Nat → FRes) : Out :=
  laneWord opc w s (fun g l => let r := f g l; (BitVec.ofNat 64 r.1, r.2))
/-- Flags added to a result. -/
def withFl (r : FRes) (fl : Flags) : FRes := (r.1, r.2 ||| fl)

def execFadd (w : Alu) (s : State) : Out :=
  fltWord 0x040 w s (fun g l => withFl (fAdd (wF w) w.rnd w.sat (valA w g l) (valB w g l)) (dnAB w g l))
def execFsub (w : Alu) (s : State) : Out :=
  fltWord 0x041 w s (fun g l => withFl (fAdd (wF w) w.rnd w.sat (valA w g l) (negV (valB w g l))) (dnAB w g l))
def execFmul (w : Alu) (s : State) : Out :=
  fltWord 0x042 w s (fun g l => withFl (fMul (wF w) w.rnd w.sat (valA w g l) (valB w g l)) (dnAB w g l))
/-- FFMA: FN[0] negates the product, FN[1] the addend. -/
def execFfma (w : Alu) (s : State) : Out :=
  fltWord 0x043 w s (fun g l =>
    withFl (fFma (wF w) w.rnd w.sat (w.fn.getLsbD 0) (w.fn.getLsbD 1) (valA w g l) (valB w g l) (valC w g l))
      (dnAB w g l ||| dnFlag (wF w) (encC w g l)))
def execFmin (w : Alu) (s : State) : Out :=
  fltWord 0x044 w s (fun g l => withFl (fMinMax (wF w) false (encA w g l) (encB w g l)) (dnAB w g l))
def execFmax (w : Alu) (s : State) : Out :=
  fltWord 0x045 w s (fun g l => withFl (fMinMax (wF w) true (encA w g l) (encB w g l)) (dnAB w g l))
/-- FABS: bits alone (R76). -/
def execFabs (w : Alu) (s : State) : Out :=
  fltWord 0x046 w s (fun g l => (encA w g l % 2 ^ ((wF w).width - 1), 0))
/-- FNEG. -/
def execFneg (w : Alu) (s : State) : Out :=
  fltWord 0x047 w s (fun g l => (encA w g l ^^^ 2 ^ ((wF w).width - 1), 0))
/-- FCLASS. -/
def execFclass (w : Alu) (s : State) : Out := fltWord 0x048 w s (fun g l => (fClass (wF w) (encA w g l), 0))
/-- FRND. -/
def execFrnd (w : Alu) (s : State) : Out :=
  fltWord 0x049 w s (fun g l => withFl (fRnd (wF w) w.rnd (encA w g l)) (dnFlag (wF w) (encA w g l)))

/-! Packed pairs (R146). -/

/-- Element e of a packed operand: an immediate stands in both (R146). -/
def pkEl (w : Alu) (g : Group) (o : Opnd) (l e : Nat) : Nat :=
  match o with
  | .imm b => (immOp w.ty b).toNat % 2 ^ 16
  | _ => (readLane g.regs .b32 o l).toNat / 2 ^ (16 * e) % 2 ^ 16

/-- Two element results in one register, flags merged. -/
def pkWord (opc : Nat) (w : Alu) (s : State) (f : Group → Nat → Nat → FRes) : Out :=
  laneWord opc w s (fun g l =>
    let r0 := f g l 0
    let r1 := f g l 1
    (BitVec.ofNat 64 (r0.1 + 2 ^ 16 * r1.1), r0.2 ||| r1.2))
def pkV (w : Alu) (g : Group) (o : Opnd) (l e : Nat) : FVal := fDec (wF w) (pkEl w g o l e)
def pkDn (w : Alu) (g : Group) (l e : Nat) : Flags := dnFlag (wF w) (pkEl w g w.a l e) ||| dnFlag (wF w) (pkEl w g w.b l e)

def execPkadd (w : Alu) (s : State) : Out :=
  pkWord 0x060 w s (fun g l e => withFl (fAdd (wF w) w.rnd w.sat (pkV w g w.a l e) (pkV w g w.b l e)) (pkDn w g l e))
def execPksub (w : Alu) (s : State) : Out :=
  pkWord 0x061 w s (fun g l e => withFl (fAdd (wF w) w.rnd w.sat (pkV w g w.a l e) (negV (pkV w g w.b l e))) (pkDn w g l e))
def execPkmul (w : Alu) (s : State) : Out :=
  pkWord 0x062 w s (fun g l e => withFl (fMul (wF w) w.rnd w.sat (pkV w g w.a l e) (pkV w g w.b l e)) (pkDn w g l e))
def execPkfma (w : Alu) (s : State) : Out :=
  pkWord 0x063 w s (fun g l e =>
    withFl (fFma (wF w) w.rnd w.sat false false (pkV w g w.a l e) (pkV w g w.b l e) (pkV w g (cOp w) l e))
      (pkDn w g l e ||| dnFlag (wF w) (pkEl w g (cOp w) l e)))
def execPkmin (w : Alu) (s : State) : Out :=
  pkWord 0x064 w s (fun g l e => withFl (fMinMax (wF w) false (pkEl w g w.a l e) (pkEl w g w.b l e)) (pkDn w g l e))
def execPkmax (w : Alu) (s : State) : Out :=
  pkWord 0x065 w s (fun g l e => withFl (fMinMax (wF w) true (pkEl w g w.a l e) (pkEl w g w.b l e)) (pkDn w g l e))

/-- x0 y0 + x1 y1 + z into FP32, exact before one rounding (R146). -/
def pkDot (md : Rnd) (sat : Bool) (x0 y0 x1 y1 z : FVal) : FRes :=
  let p0 := mulEx x0 y0
  let p1 := mulEx x1 y1
  let ins := [x0, y0, x1, y1, z]
  let bad0 := !isNaN x0 && !isNaN y0 && isNaN p0
  let bad1 := !isNaN x1 && !isNaN y1 && isNaN p1
  let terms := [p0, p1, z]
  let opposed := decide (FVal.inf false ∈ terms) && decide (FVal.inf true ∈ terms)
  if ins.any isNaN || bad0 || bad1 then canon fmtF32 (ins.any isSNaN || bad0 || bad1 || opposed)
  else packV fmtF32 md sat (addV md (addV md p0 p1) z)
/-- PKDOT: C is an FP32 operand. -/
def execPkdot (w : Alu) (s : State) : Out :=
  fltWord 0x066 w s (fun g l =>
    let c := (readLane g.regs .f32 (cOp w) l).toNat % 2 ^ 32
    withFl (pkDot w.rnd w.sat (pkV w g w.a l 0) (pkV w g w.b l 0) (pkV w g w.a l 1) (pkV w g w.b l 1) (fDec fmtF32 c))
      (pkDn w g l 0 ||| pkDn w g l 1 ||| dnFlag fmtF32 c))

/-! Conversions (R147, R148). -/

/-- CVT's source type. -/
def cvtSrc (w : Alu) : Ty := (tyOf (w.fn.setWidth 4)).getD .b32
def execCvt (w : Alu) (s : State) : Out :=
  laneWord 0x070 w s (fun g l =>
    let r := cvt (cvtSrc w) w.ty w.rnd w.sat (readLane g.regs (cvtSrc w) w.a l)
    (narrow w.ty r.1, r.2))

/-- An FP32 operand of PACK2. -/
def f32At (g : Group) (o : Opnd) (l : Nat) : Nat := (readLane g.regs .f32 o l).toNat % 2 ^ 32
def cvt32 (w : Alu) (b : Nat) : FRes := withFl (cvtFF (wF w) false w.rnd w.sat (fDec fmtF32 b)) (dnFlag fmtF32 b)
def execPack2 (w : Alu) (s : State) : Out :=
  laneWord 0x071 w s (fun g l =>
    let r0 := cvt32 w (f32At g w.a l)
    let r1 := cvt32 w (f32At g w.b l)
    (BitVec.ofNat 64 (r0.1 + 2 ^ 16 * r1.1), r0.2 ||| r1.2))
/-- UNPK2: both elements into the pair vD, vD+1. -/
def execUnpk2 (w : Alu) (s : State) : Out :=
  groupOnly (.alu 0x072 w) 1 s (fun g r _ =>
    let el (l e : Nat) : FRes := withFl (cvtFF fmtF32 true .rne false (pkV w g w.a l e)) (dnFlag (wF w) (pkEl w g w.a l e))
    setLanes g r.mask w.d true (fun l => (BitVec.ofNat 64 ((el l 0).1 + 2 ^ 32 * (el l 1).1), (el l 0).2 ||| (el l 1).2)))

/-! Lane exchange (R149). -/

/-- Every lane l of the mask takes A of source lane f l when that lane is in the mask, and its own A otherwise. -/
def exchange (opc : Nat) (w : Alu) (s : State) (f : Group → Nat → Int) : Out :=
  groupOnly (.alu opc w) 1 s (fun g r _ =>
    let from_ (l : Nat) : Nat :=
      let x := f g l
      if 0 ≤ x ∧ x < 64 ∧ r.mask.getLsbD x.toNat = true then x.toNat else l
    setLanes g r.mask w.d (is64 w.ty) (fun l => (srcA w g (from_ l), 0)))
/-- B[31:0] of a lane, unsigned. -/
def laneB (w : Alu) (g : Group) (l : Nat) : Nat := (readLane g.regs .b32 w.b l).toNat % 2 ^ 32
def execShfl (w : Alu) (s : State) : Out := exchange 0x080 w s (fun g l => laneB w g l)
def execShflx (w : Alu) (s : State) : Out := exchange 0x081 w s (fun g l => (l ^^^ laneB w g l : Nat))
def execShflup (w : Alu) (s : State) : Out := exchange 0x082 w s (fun g l => (l : Int) - (readGz g.regs w.b).toNat)
def execShfldn (w : Alu) (s : State) : Out := exchange 0x083 w s (fun g l => (l : Int) + (readGz g.regs w.b).toNat)
def execBcast (w : Alu) (s : State) : Out := exchange 0x084 w s (fun g _ => (readGz g.regs w.b).toNat)

/-! Votes (R150). -/

def execVall (w : Alu) (s : State) : Out :=
  uniWord 0x090 w s (fun g m => g.regs.setK (kNum w.d) ((lanesOf m).all (fun l => readC g.regs w.a l)))
def execVany (w : Alu) (s : State) : Out :=
  uniWord 0x091 w s (fun g m => g.regs.setK (kNum w.d) ((lanesOf m).any (fun l => readC g.regs w.a l)))
def execVbal (w : Alu) (s : State) : Out :=
  uniWord 0x092 w s (fun g m => g.regs.setG (gReg w.d) (g.regs.creg (cNum w.a) &&& m))
def execVfirst (w : Alu) (s : State) : Out :=
  uniWord 0x093 w s (fun g m =>
    g.regs.setG (gReg w.d) (BitVec.ofNat 64 (((lanesOf m).find? (fun l => readC g.regs w.a l)).getD 64)))

/-! Special-function seeds (R152, R153). -/

def seedWord (opc : Nat) (k : Seed) (w : Alu) (s : State) : Out := fltWord opc w s (fun g l => seed k (encA w g l))
def execRsqs (w : Alu) (s : State) : Out := seedWord 0x0A0 .rsq w s
def execRcps (w : Alu) (s : State) : Out := seedWord 0x0A1 .rcp w s
def execEx2s (w : Alu) (s : State) : Out := seedWord 0x0A2 .ex2 w s
def execLg2s (w : Alu) (s : State) : Out := seedWord 0x0A3 .lg2 w s
def execSins (w : Alu) (s : State) : Out := seedWord 0x0A4 .sin w s
def execCoss (w : Alu) (s : State) : Out := seedWord 0x0A5 .cos w s

/-! Group-uniform instructions (R151). -/

def gA (w : Alu) (g : Group) : Dword := readG g.regs w.ty w.a
def gB (w : Alu) (g : Group) : Dword := readG g.regs w.ty w.b
def gWord (opc : Nat) (w : Alu) (s : State) (f : Group → Dword) : Out :=
  uniWord opc w s (fun g _ => g.regs.setG (gReg w.d) (f g))
def execGadd (w : Alu) (s : State) : Out := gWord 0x0B0 w s (fun g => gA w g + gB w g)
def execGsub (w : Alu) (s : State) : Out := gWord 0x0B1 w s (fun g => gA w g - gB w g)
def execGmul (w : Alu) (s : State) : Out := gWord 0x0B2 w s (fun g => gA w g * gB w g)
def execGand (w : Alu) (s : State) : Out := gWord 0x0B3 w s (fun g => gA w g &&& gB w g)
def execGor (w : Alu) (s : State) : Out := gWord 0x0B4 w s (fun g => gA w g ||| gB w g)
def execGxor (w : Alu) (s : State) : Out := gWord 0x0B5 w s (fun g => gA w g ^^^ gB w g)
/-- The shift count B[31:0], no more than 64 counting. -/
def gCount (w : Alu) (g : Group) : Nat := min 64 ((gB w g).toNat % 2 ^ 32)
def execGshl (w : Alu) (s : State) : Out := gWord 0x0B6 w s (fun g => gA w g <<< gCount w g)
def execGshr (w : Alu) (s : State) : Out :=
  gWord 0x0B7 w s (fun g => if isS w.ty then (gA w g).sshiftRight (gCount w g) else gA w g >>> gCount w g)
def execGmov (w : Alu) (s : State) : Out := gWord 0x0B8 w s (fun g => gA w g)
def execGmovi (w : Alu) (s : State) : Out := gWord 0x0B9 w s (fun _ => if isS w.ty then w.imm.signExtend 64 else w.imm.setWidth 64)
def execGcmp (w : Alu) (s : State) : Out :=
  uniWord 0x0BA w s (fun g _ =>
    g.regs.setK (kNum w.d) (relInt w.fn.toNat (intOf 64 (isS w.ty) (gA w g)) (intOf 64 (isS w.ty) (gB w g))))
def execKlop (w : Alu) (s : State) : Out :=
  uniWord 0x0BB w s (fun g _ => g.regs.setK (kNum w.d) (lop w.fn.toNat (readK g.regs w.a) (readK g.regs w.b)))
/-- V2G: A in lane B, 0 when that lane is outside the mask or B is above 63. -/
def execV2g (w : Alu) (s : State) : Out :=
  uniWord 0x0BC w s (fun g m =>
    let l := (readGz g.regs w.b).toNat
    g.regs.setG (gReg w.d) (if l < 64 ∧ m.getLsbD l = true then srcA w g l else 0))
/-- G2V: bit l of g[A], as 0 or 1, in each lane l. -/
def execG2v (w : Alu) (s : State) : Out :=
  laneWord32 0x0BD w s (fun g l => (if (readGr g.regs w.a).getLsbD l then 1 else 0, 0))

end Sys2Proof.Machine
end

