-- ==== Sys2Proof/Machine/LoopUnit.lean ====
section
/-! DEFINITION. LOOPN: its checks at issue, and the loop unit of a core that runs the nests beat by beat (R154 to R158, R447). -/

namespace Sys2Proof.Machine

/-! The nest (R60, R61). -/

def padSp : PadSpace → Space
  | .cr => .cr | .cm => .cm | .ds => .ds

def nestLevels (w : Loop) : List Level := (loopLevels w).take w.nlev.toNat
def levelN (l : Level) : Nat := l.ext.toNat + 1
/-- The size of an element in bytes. -/
def elemSize (w : Loop) : Nat := tyBits w.ty / 8

/-- The indices of the t-th tuple of levels, level 0 counting fastest. -/
def tupleOf : List Level → Nat → List Nat
  | [], _ => []
  | l :: ls, t => t % (levelN l) :: tupleOf ls (t / (levelN l))
def tupleCount (ls : List Level) : Nat := ls.foldl (fun a l => a * (levelN l)) 1

/-- Σ stride × index. -/
def dotStride (f : Level → BitVec 9) : List Level → List Nat → Int
  | l :: ls, i :: is => (f l).toInt * i + dotStride f ls is
  | _, _ => 0
/-- The address of an element. -/
def elemAddr (w : Loop) (base : Nat) (f : Level → BitVec 9) (ix : List Nat) : Int := base + (elemSize w) * dotStride f (nestLevels w) ix

/-- The lowest and highest element address of an operand. -/
def extreme (w : Loop) (base : Nat) (f : Level → BitVec 9) (hi : Bool) : Int :=
  base + (elemSize w) * (((nestLevels w).map (fun l => let x := (f l).toInt * l.ext.toNat; if hi then max 0 x else min 0 x)).sum)

/-! Elements (Table 5-10). -/

def foldInt (op : LoopOp) (x y z : Int) : Int :=
  match op with
  | .copy => x | .add => x + y | .sub => x - y | .mul => x * y | .min => min x y | .max => max x y | .mac => x * y + z
  | .abs => x.natAbs | .neg => -x | .rsum => x + z | .rmax => max x z | .rmin => min x z | .rdot => x * y + z

/-- One element operation on encodings a, b and d; in a reduction d is the accumulator. -/
def elemOp (w : Loop) (a b d : Nat) : Nat × Flags :=
  let n := tyBits w.ty
  if isFloat w.ty then
    let F := fmtOf w.ty
    let x := fDec F a
    let y := fDec F b
    let z := fDec F d
    let da := dnFlag F a
    let dab := da ||| dnFlag F b
    match w.op with
    | .copy => (a, 0)
    | .add => withFl (fAdd F w.rnd false x y) dab
    | .sub => withFl (fAdd F w.rnd false x (negV y)) dab
    | .mul => withFl (fMul F w.rnd false x y) dab
    | .min => withFl (fMinMax F false a b) dab
    | .max => withFl (fMinMax F true a b) dab
    | .mac => withFl (fFma F w.rnd false false false x y z) (dab ||| dnFlag F d)
    | .abs => (a % 2 ^ (n - 1), 0)
    | .neg => (a ^^^ 2 ^ (n - 1), 0)
    | .rsum => withFl (fAdd F w.rnd false z x) da
    | .rmax => withFl (fMinMax F true d a) da
    | .rmin => withFl (fMinMax F false d a) da
    | .rdot => withFl (fFma F w.rnd false false false x y z) dab
  else
    let i (v : Nat) : Int := intOf n (isS w.ty) (BitVec.ofNat 64 v)
    ((foldInt w.op (i a) (i b) (i d) % 2 ^ n).toNat, 0)

/-- The first element of a reduction: A[0], or the rounded product. R155's pseudocode stores A[0] as it is, and so does a reduction over one element; R75 asks for
the canonical NaN of an operation's result, which the model does not apply to that copy of a NaN (log entry 63). -/
def firstElem (w : Loop) (a b : Nat) : Nat × Flags :=
  match w.op with
  | .rdot => elemOp { w with op := .mul } a b 0
  | _ => (a, if isFloat w.ty then dnFlag (fmtOf w.ty) a else 0)

/-! Beats (R155, R158). -/

/-- Beats of a nest: 16 element operations each, or one index of up to 16 outer tuples (R158). -/
def outerCount (w : Loop) : Nat := tupleCount ((nestLevels w).drop 1)
def beatCount (w : Loop) : Nat :=
  if loopRed w.op then ((outerCount w) + 15) / 16 * (levelN w.l0) else (tupleCount (nestLevels w) + 15) / 16

/-- The elements of a beat, by their numbers in visiting order. -/
def beatOrds (w : Loop) (k : Nat) : List Nat :=
  let e := levelN w.l0
  if loopRed w.op then ((List.range 16).filter (fun i => decide (16 * (k / e) + i < outerCount w))).map (fun i => (16 * (k / e) + i) * e + k % e)
  else ((List.range 16).filter (fun i => decide (16 * k + i < tupleCount (nestLevels w)))).map (fun i => 16 * k + i)
/-- The beat of an element. -/
def beatOf (w : Loop) (ord : Nat) : Nat :=
  let e := levelN w.l0
  if loopRed w.op then ord / e / 16 * e + ord % e else ord / 16
/-- The indices of an element, and whether it ends its tuple's reduction. -/
def ordIx (w : Loop) (ord : Nat) : List Nat := tupleOf (nestLevels w) ord
def lastOf (w : Loop) (ord : Nat) : Bool := ord % levelN w.l0 + 1 == levelN w.l0

/-- An operand of a nest: its space, base and strides. -/
abbrev Operand := PadSpace × Nat × (Level → BitVec 9)
def LoopJob.dst (j : LoopJob) : Operand := (j.w.dsp, j.d, Level.sd)
/-- The sources: A, B, and D for a `.mac`. -/
def LoopJob.srcOps (j : LoopJob) : List Operand :=
  [(j.w.asp, j.a, Level.sa)] ++ (if loopOne j.w.op then [] else [(j.w.bsp, j.b, Level.sb)]) ++ (if j.w.op = .mac then [j.dst] else [])
/-- The operands whose accesses a beat makes; a reduction writes D in its last beat only. -/
def LoopJob.beatOps (j : LoopJob) (k : Nat) : List Operand :=
  j.srcOps ++ (if loopRed j.w.op && k % levelN j.w.l0 + 1 != levelN j.w.l0 then [] else [j.dst])
/-- The address of an operand's element; a reduction's D has no stride at level 0 (R155). -/
def opAddr (w : Loop) (o : Operand) (ord : Nat) : Nat := (elemAddr w o.2.1 o.2.2 (ordIx w ord)).toNat
def opPiece (core : Nat) (w : Loop) (o : Operand) (leave : BitVec 64) (write : Bool) (ord data : Nat) : Piece :=
  Piece.of core (padSp o.1) leave write (opAddr w o ord) (elemSize w) data

/-- The degree of a beat: the largest of its operands' (R158). -/
def LoopJob.degree (j : LoopJob) (k : Nat) : Nat :=
  let deg (o : Operand) : Nat :=
    let as_ := (beatOrds j.w k).map (opAddr j.w o)
    match o.1 with
    | .cr => padDegree as_ (elemSize j.w)
    | .cm => ((List.range 24).map (fun t => padDegree (as_.filter (fun a => a / crBytes == t)) (elemSize j.w))).foldl max 1
    | .ds => ((as_.map (fun a => a / 65536)).dedup.map (fun t => dsDegree (as_.filter (fun a => a / 65536 == t)) (elemSize j.w))).foldl max 1
  ((j.beatOps k).map deg).foldl max 1

/-- A beat leaves: its sources' accesses are on their way to the banks. -/
def LoopJob.leaveBeat (j : LoopJob) (core : Nat) : LoopJob :=
  let el (ord : Nat) : LoopElem :=
    { ord := ord, leave := j.leaveAt, srcs := j.srcOps.map (fun o => opPiece core j.w o j.leaveAt false ord 0), seen := j.srcOps.map (fun _ => 0) }
  { j with beat := j.beat + 1, leaveAt := j.leaveAt + BitVec.ofNat 64 (max 1 (j.degree j.beat)), elems := j.elems ++ (beatOrds j.w j.beat).map el }

def setHead (js : List LoopJob) (j : LoopJob) : List LoopJob := j :: js.drop 1

/-- The beat that leaves in this cycle, if one does. -/
def State.loopBeat (s : State) (core : Nat) : State :=
  match (s.core core).loops with
  | j :: _ =>
    if j.started && decide (j.beat < beatCount j.w) && s.due j.leaveAt then s.modCore core (fun c => { c with loops := setHead c.loops (j.leaveBeat core) }) else s
  | [] => s

/-! The accesses at the banks, and the order of the elements (R155, R447). -/

/-- The bytes of a read at its service, under the results that come before it in visiting order and had not reached memory by then. -/
def overlay (outs : List LoopOut) (x : Piece) (seen : Nat) : Nat :=
  let byte (i : Nat) : Nat := outs.foldl (fun v o =>
    if o.acc.space == x.space && decide (o.acc.addr ≤ x.addr + i) && decide (x.addr + i < o.acc.addr + o.acc.width) && (o.seen == 0 || decide (seen < o.seen)) then
      o.acc.data / 256 ^ (x.addr + i - o.acc.addr) % 256
    else v) (x.data / 256 ^ i % 256)
  ((List.range x.width).map byte).foldr (fun b acc => b + 256 * acc) 0

/-- The next element in visiting order is computed from its sources; its result is on its way to its bank. -/
def LoopJob.compute (j : LoopJob) (core : Nat) (x : LoopElem) : LoopJob :=
  let vs := (x.srcs.zip x.seen).map (fun p => overlay j.outs p.1 p.2)
  let a := vs.getD 0 0
  let b := if loopOne j.w.op then 0 else vs.getD 1 0
  let r := if loopRed j.w.op then (if x.ord % levelN j.w.l0 = 0 then firstElem j.w a b else elemOp j.w a b j.acc)
    else elemOp j.w a b (if j.w.op = .mac then vs.getLastD 0 else 0)
  let out : List LoopOut := if loopRed j.w.op && !lastOf j.w x.ord then [] else [{ acc := opPiece core j.w j.dst x.leave true x.ord r.1, seen := 0 }]
  { j with elems := j.elems.filter (fun y => y.ord != x.ord), outs := j.outs ++ out, next := j.next + 1, acc := r.1, fl := j.fl ||| r.2 }
/-- Every element whose sources are there, in visiting order. -/
def LoopJob.computeAll (j : LoopJob) (core : Nat) : Nat → LoopJob
  | 0 => j
  | n + 1 => match j.elems.find? (fun x => x.ord == j.next && x.seen.all (fun k => k != 0)) with
    | none => j
    | some x => (j.compute core x).computeAll core n

/-- The accesses of a LOOPN are served in order; each that is takes the next number. -/
def State.loopPiece (s : State) (core owner part : Nat) (t : List RowUse) (seq : Nat) (x : Piece) (seen : Nat) (go : Bool) :
    State × List RowUse × Nat × Piece × Nat :=
  if !go then (s, t, seq, x, seen)
  else
    let (s, t, y) := s.servePiece core owner part t x
    if y.servedAt.isSome then (s, t, seq + 1, y, seq + 1) else (s, t, seq, y, seen)
def State.loopSrcs (s : State) (core owner arr part : Nat) (t : List RowUse) (seq : Nat) :
    List (Piece × Nat) → State × List RowUse × Nat × List (Piece × Nat)
  | [] => (s, t, seq, [])
  | (x, k) :: xs =>
    let (s, t, seq, y, k) := s.loopPiece core owner part t seq x k (x.waits arr)
    let (s, t, seq, ys) := s.loopSrcs core owner arr (part + 1) t seq xs
    (s, t, seq, (y, k) :: ys)
def State.loopElems (s : State) (core owner arr : Nat) (t : List RowUse) (seq : Nat) : List LoopElem → State × List RowUse × Nat × List LoopElem
  | [] => (s, t, seq, [])
  | x :: xs =>
    let (s, t, seq, ps) := s.loopSrcs core owner arr 0 t seq (x.srcs.zip x.seen)
    let (s, t, seq, ys) := s.loopElems core owner arr t seq xs
    (s, t, seq, { x with srcs := ps.map (·.1), seen := ps.map (·.2) } :: ys)
def State.loopOuts (s : State) (core owner arr : Nat) (t : List RowUse) (seq : Nat) : List LoopOut → State × List RowUse × Nat × List LoopOut
  | [] => (s, t, seq, [])
  | x :: xs =>
    let (s, t, seq, y, k) := s.loopPiece core owner 3 t seq x.acc x.seen (x.acc.servedAt.isNone && decide (x.acc.arriveAt.toNat ≤ arr))
    let (s, t, seq, ys) := s.loopOuts core owner arr t seq xs
    (s, t, seq, { acc := y, seen := k } :: ys)

/-- The cycles beyond its own beat's degree that an element's accesses waited. -/
def LoopJob.waited (j : LoopJob) (x : LoopElem) : Nat :=
  (x.srcs.map (fun p => match p.servedAt with
    | some t => t.toNat - p.arriveAt.toNat - (j.degree (beatOf j.w x.ord) - 1)
    | none => 0)).foldl max 0

/-- The results that a read in flight may still have to see stay listed. -/
def LoopJob.prune (j : LoopJob) : LoopJob :=
  let need (o : LoopOut) : Bool := o.seen == 0 || j.elems.any (fun x => x.seen.any (fun k => k != 0 && decide (k < o.seen)))
  let put := j.outs.foldl (fun (m : Nat) o => max m ((o.acc.servedAt.map (·.toNat)).getD 0)) j.putAt.toNat
  { j with outs := j.outs.filter need, putAt := BitVec.ofNat 64 put }

/-- The loop unit's accesses that arrived at a PCC are served, the elements that this completes are computed, and the results that have arrived are written. -/
def State.loopServe (s : State) (core arr : Nat) (t : List RowUse) : State × List RowUse :=
  match (s.core core).loops with
  | [] => (s, t)
  | j :: _ =>
    let owner := j.op
    let (s, t, seq, els) := s.loopElems core owner arr t j.seq j.elems
    let j1 : LoopJob := { j with elems := els, seq := seq, late := els.foldl (fun m x => max m (j.waited x)) j.late }
    let j2 := j1.computeAll core els.length
    let (s, t, seq, outs) := s.loopOuts core owner arr t j2.seq j2.outs
    let j3 := ({ j2 with seq := seq, outs := outs } : LoopJob).prune
    (s.modCore core (fun c => { c with loops := setHead c.loops j3 }), t)

/-- The PCCs at which the loop unit's waiting accesses arrived. -/
def LoopJob.arrivals (j : LoopJob) : List Nat :=
  let ps := j.elems.flatMap (·.srcs) ++ j.outs.map (·.acc)
  ((ps.filter (fun x => x.servedAt.isNone)).map (fun x => x.arriveAt.toNat)).dedup

/-! LOOPN (R156). -/

/-- The base of an operand field. -/
def loopBase (rg : Regs) (o : Opnd) : Nat := (readGr rg o).toNat

/-- The operands of a nest: space, base, strides. -/
def loopOpnds (w : Loop) (rg : Regs) : List (PadSpace × Nat × (Level → BitVec 9)) :=
  [(w.dsp, loopBase rg w.d, Level.sd), (w.asp, loopBase rg w.a, Level.sa)] ++
  (if loopOne w.op then [] else [(w.bsp, loopBase rg w.b, Level.sb)])

/-- The checks of a LOOPN at issue: ALIGN, then SPACE; with the failing address. -/
def State.loopCheck (s : State) (launch core : Nat) (w : Loop) (rg : Regs) : Option (Cause × Int) :=
  let os := loopOpnds w rg
  match os.find? (fun o => o.2.1 % (elemSize w) != 0) with
  | some o => some (.align, o.2.1)
  | none =>
    let ends := os.flatMap (fun o => [(o.1, extreme w o.2.1 o.2.2 false), (o.1, extreme w o.2.1 o.2.2 true)])
    (ends.find? (fun p => !s.padOk launch core (padSp p.1) p.2 (elemSize w))).map (fun p => (.space, p.2))

def execLoopn (w : Loop) (s : State) : Out :=
  groupWord (.loop w) 3 s (fun gid _ g r s =>
    let core := s.grpCore g
    match s.loopCheck g.launch core w g.regs with
    | some (c, a) => s.trapRun gid r c r.mask (BitVec.ofInt 64 a) 0 0
    | none =>
      let (n, s) := s.newNum
      let j : LoopJob := { gid := gid, op := n, w := w, d := loopBase g.regs w.d, a := loopBase g.regs w.a, b := loopBase g.regs w.b, started := false
                           beat := 0, leaveAt := 0, elems := [], outs := [], next := 0, acc := 0, seq := 0, late := 0, putAt := 0, fl := 0 }
      (s.modCore core (fun c => { c with loops := c.loops ++ [j] })).modGrp gid (fun g => { g with tiles := g.tiles + 1 }))

/-! LOOPN_START, LOOPN_COMPLETE (R157, R158). -/

/-- Whether every load and store of a group before operation n has performed. -/
def performs : MKind → Bool
  | .ld _ => true | .lds => true | .st => true | .atom _ _ _ => true | .zline => true | .pload _ => true
  | .send _ => false | .tlock => false | .fence => false | .inv _ _ => false
def State.accessesDone (s : State) (gid n : Nat) : Bool := !s.ops.any (fun p => decide (p.1 < n) && p.2.gid == gid && performs p.2.kind)

/-- LOOPN_START: the first operation of the queue starts once its group's earlier loads and stores have performed. -/
def execLoopnStart (core : Nat) (s : State) : Out :=
  match (s.core core).loops with
  | [] => .next s
  | j :: _ =>
    if !j.started && s.accessesDone j.gid j.op then
      .next (s.modCore core (fun c => { c with loops := setHead c.loops { j with started := true, leaveAt := s.pcc } }))
    else .next s

/-- The latencies before the first beat's result and after the last beat (R158), each over the quad or mesh distance of the operand's base address: R158 does not
say which distance an operand has that spans several scratchpads or blocks (log entry 64). -/
def LoopJob.tail (j : LoopJob) (core : Nat) : Nat :=
  let lat (sp : PadSpace) (a : Nat) : Nat := padLatency core (padSp sp) [a] (elemSize j.w)
  max (lat j.w.asp j.a) (if loopOne j.w.op then 0 else lat j.w.bsp j.b) + lat j.w.dsp j.d

/-- Whether a LOOPN is complete: every beat has left, every result is in memory, and its time is over, with the waits that other agents caused (R158). -/
def LoopJob.complete (j : LoopJob) (core : Nat) (s : State) : Bool :=
  j.started && decide (beatCount j.w ≤ j.beat) && j.elems.isEmpty && j.outs.isEmpty &&
  s.due (j.leaveAt + BitVec.ofNat 64 (j.tail core + j.late)) && s.due (j.putAt + BitVec.ofNat 64 (padFixed (padSp j.w.dsp)))

/-- LOOPN_COMPLETE: the last element is written, the flags merge, the operation leaves the tiles counter. -/
def execLoopnComplete (core : Nat) (s : State) : Out :=
  match (s.core core).loops with
  | [] => .next s
  | j :: _ =>
    if j.complete core s then
      .next ((s.modCore core (fun c => { c with loops := c.loops.drop 1 })).modGrp j.gid (fun g => { mergeTile g s.pcc j.fl with tiles := g.tiles - 1 }))
    else .next s

end Sys2Proof.Machine
end

