-- ==== Sys2Proof/Machine/Piccolo.lean ====
section
/-! DEFINITION. The stream producer engine: the six group instructions, the micro-ops, and the slot's own steps (R236 to R253). -/

namespace Sys2Proof.Machine

/-! The slot's run control (R236, R239, R249). -/

/-- The slot stops: its handle takes a state, its SLDs are abandoned, nothing waits for its page. -/
def State.stopSlot (s : State) (core : Nat) (st : FutSt) : State :=
  let k := s.slot core
  let s := match k.handle with
    | some n => s.endAop n st
    | none => s
  let s := { s with waiters := s.waiters.filter (fun p => p.2.who != WaiterWho.slot core) }
  s.setSlot core { s.slot core with st := .idle, handle := none, loads := [], begun := false }

/-- PSTOP's flush (R249): a queue that a run holds is emptied when that run ends. -/
def State.flushSlot (s : State) (core : Nat) : State :=
  (s.setSlot core { s.slot core with flush := BitVec.allOnes 8 }).settleQueues core

/-- Whether the slot is bound to another launch (R236). -/
def State.foreignSlot (s : State) (core : Nat) (g : Group) : Bool :=
  match (s.slot core).bound with
  | some l => l != g.launch
  | none => false

/-- The binding of a launch that has ended (R236): stopped, queues emptied, everything as at cold reset. -/
def State.unbindSlot (s : State) (core : Nat) : State := (s.stopSlot core .cancelled).setSlot core Slot.reset

/-- BINDING_END (R236, Table 8-1). -/
def execBindingEnd (core : Nat) (s : State) : Out :=
  let s := s.settleQueues core
  let k := s.slot core
  if k.bound.isSome && k.st == .idle && k.queues.all (fun p => p.2.isEmpty) && s.heldQ core == 0 then .next (s.setSlot core Slot.reset)
  else .next s

/-! The group's instructions (R246 to R252). -/

/-- The first index and the count of a PLOAD. -/
def ploadFirst (w : Ctl) : Nat := (w.imm.extractLsb' 0 7).toNat
def ploadCount (w : Ctl) : Nat := (w.imm.extractLsb' 8 7).toNat + 1
def ploadSpace (w : Ctl) : Space := if w.mod.getLsbD 0 then .cr else .gl

/-- The checks of a PLOAD's image (R247), micro-op by micro-op. -/
def State.ploadProbes (s : State) (g : Group) (w : Ctl) (a : Int) : List Probe :=
  (List.range (ploadCount w)).map (fun i =>
    { lane := 64, addr := a + 8 * i, chk := s.checkLane g.launch (s.grpCore g) g.ctx (ploadSpace w) (needLoad 8) (a + 8 * i) })

/-- A PLOAD's operation: a part for each micro-op. -/
def State.ploadOp (s : State) (gid : Nat) (r : Run) (w : Ctl) (parts : List Part) : MemOp :=
  { gid := gid, pc := wordPc r.pc r.idx, ofs := r.idx, kind := .pload (ploadFirst w), space := ploadSpace w, width := 8, order := .rlx
    scope := .ln, parts := parts, dest := 0, arriveAt := s.pcc, req := none, sync := false, queued := true }

/-- PLOAD: a load of the loads class whose micro-ops are written as they arrive. -/
def execPload (w : Ctl) (s : State) : Out :=
  ctlWord 0x250 w s (fun gid second g r s =>
    let a := formAddr (ploadSpace w) (readGr g.regs w.a) 0
    let ps := s.ploadProbes g w a
    if s.foreignSlot (s.grpCore g) g then s.trapPlain gid r .qerr
    else match firstFailure ps with
    | some (c, _, x) => s.trapRun gid r c r.mask (BitVec.ofInt 64 x) 0 0
    | none => match firstPark ps with
      | some pg => s.parkRun gid second g pg
      | none =>
        let parts := ps.map (fun p => partOf p 0)
        s.soWord gid second r parts (fun s => s.pushOp gid (s.ploadOp gid r w parts)))

/-- PSTART: the slot is bound, takes the shadow store and the parameters, and runs from here on. -/
def execPstart (w : Ctl) (s : State) : Out :=
  ctlWord 0x251 w s (fun gid second g r s =>
    let core := s.grpCore g
    if s.foreignSlot core g || (s.slot core).st != .idle then s.trapPlain gid r .qerr
    else match s.startAop gid g (fNum w.d) 9 false (.slot core) .running with
    | none => s.waitFuture gid second
    | some (s, n, _) =>
      let k := s.slot core
      let ps : FMap Dword := (List.range 4).foldl (fun m i => m.put 0 i (g.regs.greg (gReg w.a + i))) []
      (s.modAop n (fun o => { o with chunk := (w.imm.extractLsb' 0 7).toNat })).setSlot core
        { k with bound := some g.launch, ctx := g.ctx, block := g.block, params := ps, st := .running, active := k.shadow, handle := some n
                 begun := false, upto := n, loads := [] })

/-- PSTOP. -/
def execPstop (w : Ctl) (s : State) : Out :=
  ctlWord 0x252 w s (fun gid _ g r s =>
    let core := s.grpCore g
    if s.foreignSlot core g then s.trapPlain gid r .qerr
    else
      let s := if (s.slot core).st = .idle then s else s.stopSlot core .cancelled
      if w.mod.getLsbD 0 then s.flushSlot core else s)

/-- Word l of an entry to lane l of the issue mask (R251). -/
def popLanes (g : Group) (r : Run) (d : Opnd) (e : FMap Word) : Group :=
  { g with regs := writeLanes g.regs r.mask false d (fun l => (e.getD 0 l).setWidth 64) }

/-- QPOP and QPEEK: the head entry to the lanes; a pop removes it. -/
def queueRead (opc : Nat) (pop : Bool) (w : Ctl) (s : State) : Out :=
  ctlWord opc w s (fun gid _ g r s =>
    let core := s.grpCore g
    let k := s.slot core
    if s.foreignSlot core g then s.trapPlain gid r .qerr
    else match k.queues.getD [] (qNum w.a) with
    | [] => s.trapPlain gid r .qerr
    | e :: es =>
      let s := if pop then s.setSlot core { k with queues := k.queues.put [] (qNum w.a) es } else s
      s.modGrp gid (fun g => popLanes g r w.d e))
def execQpop (w : Ctl) (s : State) : Out := queueRead 0x253 true w s
def execQpeek (w : Ctl) (s : State) : Out := queueRead 0x254 false w s

def slotCode : SlotSt → Nat
  | .idle => 0 | .running => 1 | .parked => 2

/-- Table 8-5. -/
def State.qstat (s : State) (core q : Nat) : Dword :=
  let k := (s.settleQueues core).slot core
  BitVec.ofNat 64 (k.upc * 2 ^ 56 + (if k.bound.isSome then 2 ^ 48 else 0) + (k.bound.getD 0) % 65536 * 2 ^ 32 + slotCode k.st * 2 ^ 16 +
    (if (s.heldQ core).getLsbD q then 256 else 0) + (k.queues.getD [] q).length)

/-- QSTAT. -/
def execQstat (w : Ctl) (s : State) : Out :=
  ctlOnly 0x255 w s (fun g _ s => { g with regs := g.regs.setG (gReg w.d) (s.qstat (s.grpCore g) (qNum w.a)) })

/-! PLOAD_DATA_RETURN (R238, R247). -/

/-- One micro-op written: into the shadow store, and into the active one while the slot is IDLE. -/
def Slot.putUop (k : Slot) (i : Nat) (u : BitVec 64) : Slot :=
  { k with shadow := k.shadow.put 0 i u, active := if k.st = .idle then k.active.put 0 i u else k.active }

/-- The next micro-op of a PLOAD is written, in ascending order; after the last one the loads class is left. -/
def State.ploadPut (s : State) (n : Nat) (o : MemOp) (g : Group) (first i : Nat) (x : Part) : State :=
  let core := s.grpCore g
  let s := s.setSlot core ((s.slot core).putUop (first + i) (x.val.setWidth 64))
  if o.parts.length ≤ i + 1 then ({ s with ops := s.ops.erase n }).modGrp o.gid (fun g => { g with loads := g.loads - 1 })
  else s.modOp n (fun o => { o with parts := o.parts.modify i (fun x => { x with put := true }) })

/-! The run begins (R248). -/

/-- PICCOLO_RUN_BEGIN. -/
def execPiccoloRunBegin (core : Nat) (s : State) : Out :=
  let k := s.slot core
  match k.handle with
  | none => .next s
  | some n => match s.aops.get? n with
    | none => .next s
    | some o =>
      let ready := match o.gid with
        | some gid => s.accessesDone gid k.upto
        | none => true
      if k.st == .running && !k.begun && ready then
        let s := s.acquire core k.ctx
        .next (s.setSlot core { s.slot core with begun := true, upc := o.chunk })
      else .next s

/-! Micro-ops (R239 to R245). -/

/-- The slot fails with a cause. -/
def State.failSlot (s : State) (core : Nat) (c : Cause) : State := s.stopSlot core (.failed c)

/-- The micro-op index goes on; passing index 127 fails (R241). -/
def State.nextUop (s : State) (core : Nat) (k : Slot) : State :=
  if 127 ≤ k.upc then (s.setSlot core k).failSlot core .illop else s.setSlot core { k with upc := k.upc + 1 }

/-- A micro-op of the slot that issues: it executes only while the slot runs; where it must wait the state stays. -/
def uop (s : State) (f : Nat → Slot → State → State) : Out :=
  match s.issuer with
  | .slot core =>
    let k := s.slot core
    if k.st == .running && k.begun then .next (f core k s) else .next s
  | _ => .fault .noIssuer

/-- Whether an SLD into row r is in flight (R244). -/
def Slot.rowBusy (k : Slot) (r : Nat) : Bool := k.loads.any (fun x => x.row == r)

def Slot.row (k : Slot) (r i : Nat) : Word := k.rows.getD 0 (64 * r + i)
def setRow (m : FMap Word) (r : Nat) (f : Nat → Word) : FMap Word := (List.range 64).foldl (fun m i => m.put 0 (64 * r + i) (f i)) m
/-- Byte i of a row. -/
def Slot.rowByte (k : Slot) (r i : Nat) : Nat := (k.row r (i / 4)).toNat / 256 ^ (i % 4) % 256

/-- CNTSET. -/
def execCntset (e3 e2 e1 e0 : BitVec 14) (s : State) : Out :=
  uop s (fun core k s =>
    let put (m : FMap Nat) (i : Nat) (e : BitVec 14) : FMap Nat := FMap.put m 1 i (e.toNat + 1)
    let es : FMap Nat := put (put (put (put [] 0 e0) 1 e1) 2 e2) 3 e3
    s.nextUop core { k with cext := es, cidx := [] })

/-- AGSET. -/
def execAgset (n p : BitVec 2) (s3 s2 s1 s0 : BitVec 13) (s : State) : Out :=
  uop s (fun core k s =>
    let st := ((((k.agS.put 0 (4 * n.toNat) s0).put 0 (4 * n.toNat + 1) s1).put 0 (4 * n.toNat + 2) s2).put 0 (4 * n.toNat + 3) s3)
    s.nextUop core { k with agP := k.agP.put 0 n.toNat p, agS := st })

/-- The address of agN (R240). -/
def Slot.agAddr (k : Slot) (n : Nat) : BitVec 64 :=
  let sum : Int := ((List.range 4).map (fun j => (k.agS.getD 0 (4 * n + j)).toInt * (k.cidx.getD 0 j : Nat))).sum
  k.params.getD 0 (k.agP.getD 0 n).toNat + BitVec.ofInt 64 (32 * sum)

def sldBytes (sz : BitVec 2) : Nat := 256 / 2 ^ sz.toNat

def picSpace : PicSpace → Space
  | .gl => .gl | .cr => .cr | .cm => .cm

/-- The checks of an SLD, in the order of R130. In the scratchpads it reaches only the windows of the block that started the microprogram, while that block holds
them. -/
def State.sldChk (s : State) (core : Nat) (k : Slot) (x : SlotLoad) : Chk :=
  let l := k.bound.getD 0
  if x.addr % x.size ≠ 0 then .bad .align
  else if x.sp = .gl then match s.translate (coreCluster core) k.ctx x.addr (needLoad x.size) with
    | .ok h => .ok h.mtype h.remote
    | .bad c => .bad c
    | .park p => .park p
  else if (s.blocks.get? (blockKey l k.block)).isSome && s.padOk l core (picSpace x.sp) x.addr x.size then .ok 0 false else .bad .space

/-- The slot waits for a page of the capacity tier (R133, R242). -/
def State.parkSlot (s : State) (core : Nat) (k : Slot) (pg : Nat) : State :=
  (s.setSlot core { k with st := .parked }).addWaiter (clusterDie (coreCluster core)) pg (.slot core) (k.bound.getD 0) k.ctx

/-- PICCOLO_SLD: its checks are made as it executes; then the load is in flight. -/
def execPiccoloSld (r : BitVec 3) (n : BitVec 2) (sp : PicSpace) (sz : BitVec 2) (s : State) : Out :=
  uop s (fun core k s =>
    if k.rowBusy r.toNat || decide (16 ≤ k.loads.length) then s
    else
      let a := if sp = .gl then (k.agAddr n.toNat).toNat else ((k.agAddr n.toNat).setWidth 32).toNat
      let x : SlotLoad := { row := r.toNat, addr := a, size := sldBytes sz, sp := sp
                            pieces := if sp = .gl then [] else readPieces core (picSpace sp) s.pcc a (sldBytes sz), asked := false, ownMask := 0, own := 0 }
      match s.sldChk core k x with
      | .bad c => s.failSlot core c
      | .park pg => s.parkSlot core k pg
      | .ok _ _ => s.nextUop core { k with loads := k.loads ++ [x] })

/-- Word i of a dequantised row (Table 8-3): exact, no flag. -/
def dqWord (k : Slot) (r fmt i : Nat) : Word :=
  let flt (F : Fmt) (b : Nat) : Word := BitVec.ofNat 32 (cvtFF fmtF32 true .rne false (fDec F b)).1
  let b1 := k.rowByte r i
  let b2 := k.rowByte r (2 * i) + 256 * k.rowByte r (2 * i + 1)
  match fmt with
  | 0 => flt fmtE4m3 b1
  | 1 => flt fmtE5m2 b1
  | 2 => flt fmtBf16 b2
  | 3 => flt fmtF16 b2
  | 4 => (BitVec.ofNat 8 b1).signExtend 32
  | 5 => BitVec.ofNat 32 b1
  | 6 => flt fmtE2m1 (k.rowByte r (i / 2) / 16 ^ (i % 2) % 16)
  | _ =>
    let o := 17 * (i / 32)
    let j := i % 32
    BitVec.ofNat 32 (packV fmtF32 .rne false (q4V (k.rowByte r (o + j / 2) / 16 ^ (j % 2) % 16) (k.rowByte r (o + 16)))).1

/-- DQ. -/
def execDq (d r fmt : BitVec 3) (s : State) : Out :=
  uop s (fun core k s =>
    if k.rowBusy d.toNat || k.rowBusy r.toNat then s
    else s.nextUop core { k with rows := setRow k.rows d.toNat (dqWord k r.toNat fmt.toNat) })

/-- TRN (R240). -/
def execTrn (s : State) : Out :=
  uop s (fun core k s =>
    if !k.loads.isEmpty then s
    else s.nextUop core { k with
      rows := (List.range 8).foldl (fun m r => setRow m r (fun i => k.row (i % 8) (8 * (i / 8) + r))) k.rows })

/-- PUSH (R245). -/
def execPush (q r : BitVec 3) (s : State) : Out :=
  uop s (fun core _ s =>
    let s1 := s.settleQueues core
    let k := s1.slot core
    let es := k.queues.getD [] q.toNat
    if k.rowBusy r.toNat || decide (16 ≤ es.length) then s1
    else
      let e : FMap Word := (List.range 64).foldl (fun m i => m.put 0 i (k.row r.toNat i)) []
      s1.nextUop core { k with queues := k.queues.put [] q.toNat (es ++ [e]) })

/-- The odometer of NEXT (R241): the indices, and whether it branches. -/
def odometer (k : Slot) (top : Nat) : Nat → Nat → FMap Nat → FMap Nat × Bool
  | 0, _, m => (m, false)
  | fuel + 1, lv, m =>
    let i := m.getD 0 lv + 1
    if i < k.cext.getD 1 lv then (m.put 0 lv i, true)
    else
      let m := m.put 0 lv 0
      if lv = top then (m, false) else odometer k top fuel (lv + 1) m

/-- NEXT; LO greater than TOP is an illegal field. -/
def execNextOp (top lo : BitVec 2) (target : BitVec 7) (s : State) : Out :=
  uop s (fun core k s =>
    if top.toNat < lo.toNat then s.failSlot core .illop
    else
      let r := odometer k top.toNat 4 lo.toNat k.cidx
      if r.2 then s.setSlot core { k with cidx := r.1, upc := target.toNat } else s.nextUop core { k with cidx := r.1 })

/-- END. -/
def execEndOp (s : State) : Out := uop s (fun core _ s => s.stopSlot core .ok)

/-! PICCOLO_SLD_RETURN (R242). -/

/-- The data of an SLD: its bytes to the row's first words, zero to the rest. -/
def State.sldWrite (s : State) (core r v : Nat) : State :=
  let k := s.slot core
  match k.loads.find? (fun x => x.row == r) with
  | none => s
  | some x =>
    let word (i : Nat) : Word := if 4 * i < x.size then BitVec.ofNat 32 (v / 2 ^ (32 * i)) else 0
    s.setSlot core { k with rows := setRow k.rows r word, loads := k.loads.filter (fun x => x.row != r) }

/-- The lane number under which a peer's answer to an SLD comes back. -/
def sldLane (core r : Nat) : Nat := 16384 + 8 * core + r

/-- A change of the SLD in flight into a row. -/
def State.modSld (s : State) (core r : Nat) (f : SlotLoad → SlotLoad) : State :=
  let k := s.slot core
  s.setSlot core { k with loads := k.loads.map (fun x => if x.row = r then f x else x) }

/-- A peer's answer to an SLD of the run whose handle asked for it: its line, under the cluster's own bytes as they were then (R101). That of a stopped run goes nowhere
(R249). -/
def State.sldReply (s : State) (core r handle : Nat) (d : Line) : State :=
  let k := s.slot core
  match k.loads.find? (fun x => x.row == r) with
  | none => s
  | some x => if k.handle == some handle && x.asked then s.sldWrite core r (underOwn (x.ownMask, x.own) d x.addr x.size) else s

/-- A `.gl` SLD: the cluster's own bytes, the LIB or the home; or the owner of a peer's page, asked once. -/
def State.sldGl (s : State) (core r : Nat) (k : Slot) (x : SlotLoad) (remote : Bool) : State :=
  let cl := coreCluster core
  let lk := lineKey k.ctx x.addr
  let own := s.ownBytes cl lk
  if s.leafWaits cl (leafOfLine lk) || x.asked then s
  else if remote && maskBytes (x.addr % 256) x.size &&& ~~~own.1 != 0 then
    (s.sendMsg (s.ownerOf lk) 0 lk (.load (k.handle.getD 0) (sldLane core r) k.ctx (x.addr / 256 * 256) 256)).modSld core r
      (fun x => { x with asked := true, ownMask := own.1, own := own.2 })
  else match s.clusterLoad cl k.ctx x.addr x.size (.slot core r) with
  | (none, s) => s
  | (some v, s) => s.sldWrite core r v

/-- The banks' service of a slot's SLDs (R104, R242). -/
def State.sldServe (s : State) (core arr : Nat) (t : List RowUse) : State × List RowUse :=
  (s.slot core).loads.foldl (fun (p : State × List RowUse) x =>
    let (s, t, ps) := p.1.servePieces core (2 ^ 64 + 8 * core + x.row) arr p.2 x.pieces
    (s.modSld core x.row (fun y => { y with pieces := ps }), t)) (s, t)

/-- PICCOLO_SLD_RETURN: the data is written, or, where its page has changed since, the SLD faults or parks. -/
def execPiccoloSldReturn (core r : Nat) (s : State) : Out :=
  let k := s.slot core
  match k.loads.find? (fun x => x.row == r) with
  | none => .next s
  | some x =>
    if k.st != .running then .next s
    else match s.sldChk core k x with
    | .bad c => .next (s.failSlot core c)
    | .park pg => .next (s.parkSlot core k pg)
    | .ok _ remote =>
      if x.sp = .gl then .next (s.sldGl core r k x remote)
      else if s.piecesDone x.pieces 0 then .next (s.sldWrite core r (natOfBytes (pieceBytes x.pieces))) else .next s

end Sys2Proof.Machine
end

