-- ==== Sys2Proof/Machine/Sequencer.lean ====
section
/-! DEFINITION. The matrix sequencer: its words, its stream's start, end, traps, save and restore (R62, R274 to R290). The PX words stand in Parts.lean. -/

namespace Sys2Proof.Machine

/-! Issue (R62, R277). -/

/-- What a sequencer word does: it waits; it goes on to the next word, or to a PC; it parks; it traps with a detail, and with what it has done; it ends the stream. -/
inductive SeqRes where
  | wait
  | go (s : State)
  | jump (s : State) (pc : Pc)
  | park (s : State)
  | trap (s : State) (c : Cause) (d0 : Dword)
  | stop
  deriving DecidableEq, Repr

/-- The s-registers that an SLD in flight will write (R277). -/
def Seq.pending (q : Seq) : List Nat := (q.accs.filter (fun a => !a.2.acc.write)).map (·.2.reg)

/-- The s-registers a word names. -/
def seqRegs (b : Body) : List Nat := (b.shape.reads ++ b.shape.writes).filter (fun r => decide (r < 32))

/-- A stream that may issue (R276, R290, R387): running, not asked to stop or to be saved, not parked. -/
def State.seqLive (s : State) (cl : Nat) : Bool :=
  let q := s.seqOf cl
  q.st == .running && q.trap.isNone && !q.stopReq && !q.saveReq && !s.waiters.any (fun p => p.2.who == .seq cl)

/-- A word has issued: the stream goes on at a PC. -/
def State.seqStep (s : State) (cl : Nat) (pc : Pc) : State := s.modSeq cl (fun q => { q with spc := pc, stallFrom := s.pcc })

/-- One word of the sequencer: decoded and trapped on its own (R62). -/
def seqWord (b : Body) (s : State) (f : Nat → Seq → SeqRes) : Out :=
  match s.issuer with
  | .seq cl =>
    let q := s.seqOf cl
    if !s.seqLive cl then .next s
    else if !b.good then .next (s.seqTrapAt cl .illop false q.spc 0)
    else if (seqRegs b).any (fun r => decide (r ∈ q.pending)) then .next s
    else match f cl q with
    | .wait => .next s
    | .go s' => .next (s'.seqStep cl (q.spc + 12))
    | .jump s' pc => .next (s'.seqStep cl pc)
    | .park s' => .next s'
    | .trap s' c d0 => .next (s'.seqTrapAt cl c false q.spc d0)
    | .stop => .next ((s.seqStep cl q.spc).seqEnd cl .none none)
  | _ => .fault .noIssuer

/-! Operands and registers (Table 10-1, R278). -/

def Seq.reg (q : Seq) (n : Nat) : Dword := q.s.getD 0 n
def Seq.setReg (q : Seq) (n : Nat) (x : Dword) : Seq := { q with s := q.s.put 0 n x }
/-- An s-register, or an immediate sign-extended to 64 bits. -/
def Seq.val (q : Seq) : Opnd → Dword
  | .v n => q.reg n.toNat
  | .imm b => b.signExtend 64
  | _ => 0

/-- A word that writes one s-register. -/
def seqSet (opc : Nat) (w : Ctl) (s : State) (f : Seq → Dword) : Out :=
  seqWord (.ctl opc w) s (fun cl q => .go (s.modSeq cl (fun x => x.setReg (vReg w.d) (f q))))

/-- A word of two operands. -/
def seqAlu (opc : Nat) (w : Ctl) (s : State) (f : Dword → Dword → Dword) : Out :=
  seqSet opc w s (fun q => f (q.val w.a) (q.val w.b))

/-! Arithmetic, moves, compares (R279). -/

def execSadd (w : Ctl) (s : State) : Out := seqAlu 0x280 w s (fun a b => a + b)
def execSsub (w : Ctl) (s : State) : Out := seqAlu 0x281 w s (fun a b => a - b)
def execSmul (w : Ctl) (s : State) : Out := seqAlu 0x282 w s (fun a b => a * b)
def execSand (w : Ctl) (s : State) : Out := seqAlu 0x283 w s (fun a b => a &&& b)
def execSor (w : Ctl) (s : State) : Out := seqAlu 0x284 w s (fun a b => a ||| b)
def execSxor (w : Ctl) (s : State) : Out := seqAlu 0x285 w s (fun a b => a ^^^ b)
/-- A shift by 64 or more gives 0. -/
def execSshl (w : Ctl) (s : State) : Out := seqAlu 0x286 w s (fun a b => if 64 ≤ b.toNat then 0 else a <<< b.toNat)
/-- SSHR: with ARITH the sign fills. -/
def execSshr (w : Ctl) (s : State) : Out :=
  seqAlu 0x287 w s (fun a b =>
    if w.mod.getLsbD 0 then a.sshiftRight (min 63 b.toNat)
    else if 64 ≤ b.toNat then 0 else a >>> b.toNat)
def execSmov (w : Ctl) (s : State) : Out := seqSet 0x288 w s (fun q => q.val w.a)
/-- SMOVI: the high half alone, or the whole register sign-extended. -/
def execSmovi (w : Ctl) (s : State) : Out :=
  seqSet 0x289 w s (fun q => if w.mod.getLsbD 0 then w.imm ++ (q.reg (vReg w.d)).setWidth 32 else w.imm.signExtend 64)
def execScmp (w : Ctl) (s : State) : Out :=
  seqAlu 0x28A w s (fun a b =>
    let i (x : Dword) : Int := if w.mod.getLsbD 3 then x.toInt else (x.toNat : Int)
    if relInt (w.mod.extractLsb' 0 3).toNat (i a) (i b) then 1 else 0)
/-- SCSRR: PCC (R282). -/
def execScsrr (w : Ctl) (s : State) : Out := seqSet 0x293 w s (fun _ => s.pcc)

/-! Branches (R280). -/

/-- The core whose held lines a remote code page's answers come back to. -/
def seqCore (cl : Nat) : Nat := 24 * cl

/-- The code line as the sequencer's fetch sees it: the cluster's LIB entry, or the home once the entry there is not PREP (R217); the held copy of a page that a peer
owns. -/
def State.seqLine (s : State) (cl ctx addr : Nat) : Option Line :=
  let lk := lineKey ctx addr
  if s.isRemote lk then (s.core (seqCore cl)).code.get? lk
  else match (s.cl cl).lib.get? (leafOfLine lk) with
  | some lf =>
    let e := lf.ents.getD IxEntry.empty (lk % 16)
    if lf.landed && !e.prep then some (readEntry s.store.recs e) else if s.prepAt lk then none else some (s.homeLine lk)
  | none => if s.prepAt lk then none else some (s.homeLine lk)

/-- The word at an address, as the sequencer fetches it (R36, R62). -/
def State.seqFetch (s : State) (cl ctx addr : Nat) : Fe :=
  match s.fetchCheck cl ctx addr with
  | some c => .bad c
  | none => match s.fetchCheck cl ctx (addr + 11) with
    | some c => .bad c
    | none =>
      let o := addr % 256
      let n := min 12 (256 - o)
      match s.seqLine cl ctx addr, s.seqLine cl ctx (addr + 11) with
      | some d, some e => .ok (BitVec.ofNat 96 (Line.field d o n + 2 ^ (8 * n) * Line.field e 0 (12 - n)))
      | _, _ => .wait

/-- The checks of a target, each taken at the branch. -/
def State.seqTarget (s : State) (cl : Nat) (q : Seq) (t : Int) : Option Cause :=
  let base := ((s.launchOf q.launch).map (·.codeBase)).getD 0
  if t < 0 ∨ t ≥ 2 ^ 48 ∨ (t - base) % 12 ≠ 0 then some .illop
  else match s.fetchCheck cl q.ctx t.toNat with
  | some c => some c
  | none => s.fetchCheck cl q.ctx (t.toNat + 11)

/-- SBR: its target is checked whether or not the branch is taken. -/
def execSbr (w : Ctl) (s : State) : Out :=
  seqWord (.ctl 0x28B w) s (fun cl q =>
    let t := targetOf q.spc.toNat w.imm
    match s.seqTarget cl q t with
    | some c => .trap s c 0
    | none => if xor (q.val w.a != 0) (w.mod.getLsbD 0) then .jump s (BitVec.ofInt 48 t) else .go s)

/-- SJMP: the link is written first, and A may be the link register (R280). -/
def execSjmp (w : Ctl) (s : State) : Out :=
  seqWord (.ctl 0x28C w) s (fun cl q =>
    let s' := if w.mod.getLsbD 1 then s.modSeq cl (fun x => x.setReg (vReg w.d) ((q.spc + 12).setWidth 64)) else s
    let t : Int := if w.mod.getLsbD 0 then ((((s'.seqOf cl).val w.a).extractLsb' 0 48).toNat : Int) else targetOf q.spc.toNat w.imm
    match s'.seqTarget cl q t with
    | some c => .trap s' c 0
    | none => .jump s' (BitVec.ofInt 48 t))

/-! Memory (R281, R284). -/

/-- The address of an SLD or SST. -/
def seqAddr (q : Seq) (w : Ctl) : BitVec 64 := q.val w.a + w.imm.signExtend 64
def seqSpace (w : Ctl) : Space := (spaceOf (w.mod.extractLsb' 9 3)).getD .cm
def seqWidth (w : Ctl) : Nat := 2 ^ (w.mod.extractLsb' 6 3).toNat

/-- The checks of a sequencer access, in the order of R130; a DEV or SO page traps ACCESS. -/
def State.seqChk (s : State) (cl : Nat) (q : Seq) (sp : Space) (a n : Nat) : Chk :=
  if a % n ≠ 0 then .bad .align
  else if sp = .gl then
    match s.translate cl q.ctx a (needLoad n) with
    | .ok h => if h.mtype.toNat ≥ 2 then .bad .access else .ok h.mtype h.remote
    | .bad c => .bad c
    | .park p => .park p
  else if s.padOk q.launch (seqCore cl) sp a n then .ok 0 false else .bad .space

/-- The access of an SLD or SST leaves for its bank, or its home. -/
def State.seqAccess (s : State) (cl : Nat) (w : Ctl) (load : Bool) (sp : Space) (a : Nat) (data : Dword) : State :=
  let x : SeqAcc := { reg := vReg w.d, sgn := w.mod.getLsbD 5, acc := Piece.of (seqCore cl) sp s.pcc (!load) a (seqWidth w) data.toNat, asked := false
                      ownMask := 0, own := 0 }
  let (k, s) := s.newNum
  s.modSeq cl (fun q => { q with accs := q.accs.set k x })

def seqMem (opc : Nat) (load : Bool) (w : Ctl) (s : State) : Out :=
  seqWord (.ctl opc w) s (fun cl q =>
    let sp := seqSpace w
    let a := if sp = .gl then (seqAddr q w).toNat else ((seqAddr q w).setWidth 32).toNat
    match s.seqChk cl q sp a (seqWidth w) with
    | .bad c => .trap s c (BitVec.ofNat 64 a)
    | .park pg => .park (s.addWaiter (clusterDie cl) pg (.seq cl) q.launch q.ctx)
    | .ok _ _ => .go (s.seqAccess cl w load sp a (q.reg (vReg w.d))))

def execSld (w : Ctl) (s : State) : Out := seqMem 0x28D true w s
def execSst (w : Ctl) (s : State) : Out := seqMem 0x28E false w s

def State.setSeqAcc (s : State) (cl k : Nat) (x : SeqAcc) : State := s.modSeq cl (fun q => { q with accs := q.accs.set k x })

/-- The banks' service of the sequencer's accesses that arrived at a PCC: an SST's bytes are written, an SLD's are sampled (R104, R447). -/
def State.seqServe (s : State) (cl arr : Nat) (t : List RowUse) : State × List RowUse :=
  (s.seqOf cl).accs.foldl (fun (p : State × List RowUse) a =>
    if a.2.acc.space ≠ .gl && a.2.acc.waits arr then
      let (s, t, x) := p.1.servePiece (seqCore cl) a.1 0 p.2 a.2.acc
      (s.setSeqAcc cl a.1 { a.2 with acc := x }, t)
    else p) (s, t)

/-- SEQ_SST_PERFORM (R288). -/
def execSeqSstPerform (cluster idx : Nat) (s : State) : Out :=
  match (s.seqOf cluster).accs.get? idx with
  | none => .next s
  | some x => if x.acc.write && s.piecesDone [x.acc] 0 then .next (s.modSeq cluster (fun q => { q with accs := q.accs.erase idx })) else .next s

/-- The value of an SLD in its register. -/
def State.seqLand (s : State) (cl k : Nat) (x : SeqAcc) (v : Nat) : State :=
  let n := 8 * x.acc.width
  let d : Dword := if x.sgn then BitVec.ofInt 64 (intOf n true (BitVec.ofNat 64 v)) else BitVec.ofNat 64 (v % 2 ^ n)
  s.modSeq cl (fun q => { q.setReg x.reg d with accs := q.accs.erase k })

/-- The lane number under which a peer's answer to a sequencer load comes back. -/
def seqLane (cl : Nat) : Nat := 131072 + cl

/-- A peer's answer to an SLD: its line, under the cluster's own bytes as they were when it was asked (R101). -/
def State.seqReply (s : State) (cl k : Nat) (d : Line) : State :=
  match (s.seqOf cl).accs.get? k with
  | none => s
  | some x => if x.asked then s.seqLand cl k x (underOwn (x.ownMask, x.own) d x.acc.addr x.acc.width) else s

/-- An SLD of `.gl` (R281): the cluster's own bytes, the LIB or the home; or the owner of a peer's page, asked once. -/
def State.seqGl (s : State) (cl k : Nat) (q : Seq) (x : SeqAcc) : State :=
  let lk := lineKey q.ctx x.acc.addr
  let own := s.ownBytes cl lk
  if s.leafWaits cl (leafOfLine lk) || x.asked then s
  else if s.isRemote lk && maskBytes (x.acc.addr % 256) x.acc.width &&& ~~~own.1 != 0 then
    (s.sendMsg (s.ownerOf lk) 0 lk (.load k (seqLane cl) q.ctx (x.acc.addr / 256 * 256) 256)).setSeqAcc cl k { x with asked := true, ownMask := own.1, own := own.2 }
  else match s.clusterLoad cl q.ctx x.acc.addr x.acc.width (.seq cl) with
  | (none, s) => s
  | (some v, s) => s.seqLand cl k x v

/-- SEQ_SLD_RETURN (R277, R281). -/
def execSeqSldReturn (cluster reg : Nat) (s : State) : Out :=
  let q := s.seqOf cluster
  match q.accs.find? (fun a => !a.2.acc.write && a.2.reg == reg) with
  | none => .next s
  | some (k, x) =>
    if x.acc.space = .gl then .next (s.seqGl cluster k q x)
    else if s.piecesDone [x.acc] 0 then .next (s.seqLand cluster k x x.acc.data) else .next s

/-! Mailboxes (R288). -/

/-- SQPOST: waits while its mailbox is full or held, or closed streams cannot issue. -/
def execSqpostSeq (w : Ctl) (s : State) : Out :=
  seqWord (.ctl 0x28F w) s (fun cl q =>
    let m := mailBox w
    let box := (s.cl cl).box m
    if (s.heldM cl).getLsbD m || decide (4 ≤ box.length) then .wait
    else
      let p : MailPlace := { msg := q.val w.a, ready := false, lost := false, byGroup := none, upto := s.fresh }
      .go (s.modCl cl (fun c => c.setBox m (box ++ [p]))))

/-- SQWAIT: waits until its mailbox is not held and its head is takeable; an empty one after every group of the block has ended traps SEQERR. -/
def execSqwaitSeq (w : Ctl) (s : State) : Out :=
  seqWord (.ctl 0x290 w) s (fun cl q =>
    let m := mailBox w
    match (s.cl cl).box m with
    | [] => if s.groups.any (fun p => p.2.launch == q.launch && p.2.block == q.block) then .wait else .trap s .seqerr 0
    | p :: ps =>
      if (s.heldM cl).getLsbD m || !s.takeable cl p then .wait
      else .go ((s.modCl cl (fun c => c.setBox m ps)).modSeq cl (fun x => x.setReg (vReg w.d) p.msg)))

/-- SWAITPX (R284). -/
def execSwaitpx (w : Ctl) (s : State) : Out :=
  seqWord (.ctl 0x291 w) s (fun _ q => if q.pxq.length ≤ (w.imm.extractLsb' 0 5).toNat then .go s else .wait)

/-- SEXIT (R282). -/
def execSexit (w : Ctl) (s : State) : Out := seqWord (.ctl 0x292 w) s (fun _ _ => .stop)

/-! The stream's start and end (R275, R276, R387). -/

/-- The sequencer acquires at `.di` (R220, R275). -/
def State.seqAcquire (s : State) (cl ctx : Nat) : State := s.libDiscard cl (fun leaf => leafCtx leaf == ctx)

/-- STREAM_START: the stream of a placed block starts; its mailboxes open empty; its handle is allocated. While its future-table entry is PENDING the start waits, and
those cycles count in the stall count (R18, R289). -/
def execStreamStart (cluster : Nat) (s : State) : Out :=
  let q := s.seqOf cluster
  if q.st != .ready || q.stopReq || q.saveReq then .next s
  else
    let n := s.fresh
    match s.allocFut q.ctx 6 none q.launch n with
    | none => .next s
    | some (s, h) =>
      let s := (s.newNum).2
      let op : AOp := AOp.new q.ctx none q.launch cluster (hTag h) .stream .running s.pcc
      let s := { s with aops := s.aops.set n op }
      let s := s.modCl cluster (fun c => { c with mail := [], mailOpen := true, parts := Parts.reset })
      let s := s.modSeq cluster (fun q => { q.setReg 17 (h.setWidth 64) with st := .running, handle := some n })
      .next (s.seqAcquire cluster q.ctx)

/-- The handle of an ended stream resolves once its operations and SSTs are complete; then its block may end. -/
def State.streamResolve (s : State) (cl : Nat) : State :=
  let q := s.seqOf cl
  if q.st == .ended && q.trap.isNone && q.pxq.isEmpty && !q.accs.any (fun a => a.2.acc.write) then
    let s := match q.handle with
      | some n => s.endAop n (if q.cause == Cause.none then FutSt.ok else FutSt.failed q.cause)
      | none => s
    (s.modSeq cl (fun q => { q with handle := none })).endBlock (blockKey q.launch q.block)
  else s

/-- A saved stream that is stopped is never restored: its handle fails, and its block may end. -/
def State.dropSave (s : State) (cl bk : Nat) (k : SeqSave) : State :=
  let s := match k.seq.handle with
    | some n => s.endAop n (.failed .cancelled)
    | none => s
  (s.modCl cl (fun c => { c with saves := c.saves.erase bk })).endBlock bk

/-- STREAM_HANDLE_RESOLVE (R276): a stream that the command processor stops ends here at its word boundary. -/
def execStreamHandleResolve (cluster : Nat) (s0 : State) : Out :=
  let s := ((s0.cl cluster).saves.filter (fun p => p.2.seq.stopReq)).foldl (fun s p => s.dropSave cluster p.1 p.2) s0
  let q := s.seqOf cluster
  if q.stopReq && (q.st == .running || q.st == .ready) && q.trap.isNone then .next (s.seqEnd cluster .cancelled none)
  else .next (s.streamResolve cluster)

/-! Traps and the watchdog (R289). -/

/-- The record of a sequencer trap. -/
def seqTrapRecord (q : Seq) (t : Trap) (stamp : BitVec 64) : List Byte :=
  le 8 (t.cause.code.toNat + (if t.deferred then 256 else 0) + q.launch % 65536 * 2 ^ 32 + 0xFFFF * 2 ^ 48) ++
  le 8 q.block ++ le 8 t.wpc.toNat ++ le 8 t.wpc.toNat ++ le 8 0 ++ le 8 stamp.toNat ++ le 8 t.detail0.toNat ++ le 8 t.detail1.toNat ++
  le 8 t.detail2.toNat ++ List.replicate 56 0

/-- SEQ_TRAP: the record is published; then the launch fails, and the handle can resolve. -/
def execSeqTrap (cluster : Nat) (s : State) : Out :=
  let q := s.seqOf cluster
  match q.trap with
  | none => .next s
  | some t => match t.req with
    | none =>
      let (r, s) := s.lodgeBytes cluster q.ctx none q.trec (seqTrapRecord q t s.pcc)
      .next (s.modSeq cluster (fun q => { q with trap := some { t with req := some r, stamp := s.pcc } }))
    | some r =>
      if s.reqSt r == .complete then
        .next ((s.modSeq cluster (fun q => { q with trap := none })).failLaunch q.launch q.block t.cause t.stamp.toNat)
      else .next s

/-- SEQ_STALL: a stream that waits for its start counts too; one whose image is being published is stopped. -/
def execSeqStall (cluster : Nat) (s : State) : Out :=
  let q := s.seqOf cluster
  if (q.st == .running || q.st == .ready) && q.trap.isNone && q.saveOp.isNone && s.due (q.stallFrom + 0x100000000) then
    .next (s.seqTrapAt cluster .stall false q.spc 0)
  else .next s

/-- The word at SPC, where the stream is live: what it is, or its trap. -/
def State.seqNext (s : State) (cl : Nat) : Option (Except Cause Instr) :=
  let q := s.seqOf cl
  if !s.seqLive cl then none
  else match s.seqFetch cl q.ctx q.spc.toNat with
  | .wait => none
  | .bad c => some (.error c)
  | .ok w => match decodeWords true [w] with
    | .ok (i, _) => some (.ok i)
    | .error _ => some (.error .illop)

/-- A remote code line is asked for. -/
def State.askSeqCode (s : State) (cl : Nat) : State :=
  let q := s.seqOf cl
  [q.spc.toNat, q.spc.toNat + 11].foldl (fun s a =>
    let lk := lineKey q.ctx a
    let body : QfBody := .load lk (4096 + seqCore cl) q.ctx (a / 256 * 256) 256
    if s.isRemote lk && ((s.core (seqCore cl)).code.get? lk).isNone && !s.outbox.any (fun p => p.2.body == body) then s.sendMsg (s.ownerOf lk) 0 lk body
    else s) s

end Sys2Proof.Machine
end

