-- ==== Sys2Proof/Machine/Parts.lean ====
section
/-! DEFINITION. The Parts engine: the PX words at issue, the queue, the operations and their errors, the save image, and the save and restore of a
stream (R79 to R85, R285, R290 to R315). -/

namespace Sys2Proof.Machine

/-! Prepared and direct weights (R81, R293, R294, Table 9-8). -/

/-- n bits of x from bit lo. -/
def bitsAt (x lo n : Nat) : Nat := x / 2 ^ lo % 2 ^ n
/-- A two's complement number of n bits. -/
def sext (n x : Nat) : Int := if x % 2 ^ n < 2 ^ (n - 1) then (x % 2 ^ n : Nat) else (x % 2 ^ n : Nat) - (2 ^ n : Int)

/-- The 15 steps of a record: position and difference. -/
def recSteps (r : Nat) : List (Nat × Nat) := (List.range 15).map (fun n => (bitsAt r (165 + 10 * n) 5, bitsAt r (160 + 10 * n) 5))
def recBase (r : Nat) : Int := sext 5 (bitsAt r 310 5)
def recScale (r : Nat) : Nat := bitsAt r 315 8
def recBand (r : Nat) : BitVec 16 := BitVec.ofNat 16 (bitsAt r 323 16)
/-- PERM field i: π(i + 1). -/
def recPerm (r i : Nat) : Nat := bitsAt r (5 * i) 5

def rising : List Nat → Bool
  | a :: b :: xs => decide (a < b) && rising (b :: xs)
  | _ => true

/-- The checks of a record (R293). -/
def recOk (r : Nat) : Bool :=
  let st := recSteps r
  let nz := st.filter (fun p => p.2 != 0)
  let b := recBase r
  r / 2 ^ 339 == 0 && decide (-12 ≤ b) && decide (b ≤ 12) && st.all (fun p => decide (p.2 ≤ 24)) &&
  st.take nz.length == nz && (st.drop nz.length).all (fun p => p == (0, 0)) &&
  rising (nz.map (·.1)) && nz.all (fun p => decide (1 ≤ p.1)) && decide (b + ((nz.map (·.2)).sum : Nat) ≤ 12) &&
  (List.range 32).all (fun k => ((List.range 32).filter (fun i => recPerm r i == k)).length == 1)

/-- The sorted half-unit weights u[1] to u[32] of a record. -/
def recWeights (r : Nat) : List Int :=
  let st := recSteps r
  let d (i : Nat) : Int := match st.find? (fun p => p.1 == i && p.2 != 0) with
    | some p => (p.2 : Nat)
    | none => 0
  (List.range 31).foldl (fun us i => us ++ [us.getLastD 0 + d (i + 1)]) [recBase r]

/-- The group partial (R82): the sum of u[i] times the permuted activations. -/
def groupPartial (r : Nat) (v : Nat → Int) : Int :=
  (((recWeights r).zip (List.range 32)).map (fun p => p.1 * v (recPerm r p.2))).sum

def WSlot.record (w : WSlot) (r : Nat) : Nat := w.image.readLE (48 * r) 48

def prepOk (m : Memory) : Bool := (List.range 64).all (fun r => recOk (m.readLE (48 * r) 48))

/-- The element format of a direct slot. -/
def dirFmt (f : BitVec 2) : Fmt := if f = 1 then fmtE4m3 else if f = 2 then fmtE5m2 else fmtBf16
/-- A direct image of n elements has no NaN and no infinity. -/
def dirOk (f : BitVec 2) (m : Memory) (n : Nat) : Bool :=
  let es := (dirFmt f).width / 8
  (List.range n).all (fun i => match fDec (dirFmt f) (m.readLE (es * i) es) with
    | .fin _ _ _ => true
    | _ => false)

/-! Stages and registers. -/

/-- A token's value and scale in a stage block. -/
def AStageReg.v (a : AStageReg) (b tok i : Nat) : Int := sext 8 (a.bytes.read (1056 * b + 32 * tok + i)).toNat
def AStageReg.ea (a : AStageReg) (b tok : Nat) : Nat := (a.bytes.read (1056 * b + 1024 + tok)).toNat
def Parts.slot (p : Parts) (n : Nat) : WSlot := p.w.getD WSlot.reset n
def Parts.stage (p : Parts) (n : Nat) : AStageReg := p.a.getD AStageReg.reset n
def Parts.zr (p : Parts) (n : Nat) : ZReg := p.z.getD ZReg.reset n
def Parts.setSlot (p : Parts) (n : Nat) (x : WSlot) : Parts := { p with w := p.w.put WSlot.reset n x }
def Parts.setStage (p : Parts) (n : Nat) (x : AStageReg) : Parts := { p with a := p.a.put AStageReg.reset n x }
def Parts.setZ (p : Parts) (n : Nat) (x : ZReg) : Parts := { p with z := p.z.put ZReg.reset n x }
/-- Every BETA is 1.0 at stream start (R292); an unlisted row reads so. -/
def ZReg.betaOf (z : ZReg) (r : Nat) : BitVec 16 := z.beta.getD 0x3F80 r
def ZReg.elem (z : ZReg) (r tok : Nat) : Int := (z.elems.getD 0 (32 * r + tok)).toInt

/-- Every element of a register changed; the flags that any element raises stick. -/
def ZReg.each (z : ZReg) (f : Nat → Nat → Int → Int × Bool × Bool) (beta : Nat → BitVec 16) : ZReg :=
  let res := (List.range 2048).map (fun i => (i, f (i / 32) (i % 32) (z.elem (i / 32) (i % 32))))
  { eref := z.eref, zloss := z.zloss || res.any (fun p => p.2.2.1), zovf := z.zovf || res.any (fun p => p.2.2.2)
    elems := res.filterMap (fun p => if BitVec.ofInt 96 p.2.1 = 0 then none else some (p.1, BitVec.ofInt 96 p.2.1))
    beta := (List.range 64).filterMap (fun r => if beta r = 0x3F80 then none else some (r, beta r)) }

/-! Accumulation (R84, R295, R297). -/

/-- One block of a PXMM. -/
def mmBlock (w : WSlot) (a : AStageReg) (b : Nat) (z : ZReg) : ZReg :=
  z.each (fun r tok old =>
      let rec_ := w.record r
      z96Acc old (groupPartial rec_ (fun i => a.v b tok i)) (e3m5Sig (recScale rec_)) (e3m5Exp (recScale rec_)) (a.ea b tok) z.eref.toInt)
    (fun r => recBand (w.record r))

/-- The element of a direct slot, as an integer at the format's lowest weight. -/
def dirElem (F : Fmt) (b : Nat) : Int :=
  match fDec F b with
  | .fin n m e => let x : Int := (m * 2 ^ (e - F.qmin).toNat : Nat); if n then -x else x
  | _ => 0
/-- Element (r, k) of a direct slot or pair. -/
def dirWeight (lo hi : WSlot) (r k : Nat) : Int :=
  let F := dirFmt lo.fmt
  if lo.fmt = 3 then dirElem F ((if r < 32 then lo else hi).image.readLE (2 * (32 * (r % 32) + k)) 2)
  else dirElem F (lo.image.readLE (32 * r + k) 1)

/-- One block of a PXDM. -/
def dmBlock (lo hi : WSlot) (a : AStageReg) (b : Nat) (z : ZReg) : ZReg :=
  z.each (fun r tok old =>
      let g : Int := ((List.range 32).map (fun k => dirWeight lo hi r k * a.v b tok k)).sum
      let sh := (dirFmt lo.fmt).qmin + ((a.ea b tok : Int) - 127) - (z.eref.toInt - 64)
      let c := if sh ≥ 0 then g * 2 ^ sh.toNat else g.fdiv (2 ^ (-sh).toNat)
      let loss := if sh ≥ 0 then false else c * 2 ^ (-sh).toNat != g
      let x := old + c
      (max (-(2 ^ 95)) (min x (2 ^ 95 - 1)), loss, decide (x > 2 ^ 95 - 1) || decide (x < -(2 ^ 95))))
    (fun _ => 0x3F80)

/-! Drain (R85, R298). -/

/-- drain: the FP32 or BF16 encoding of an element, and its flags. -/
def drainElem (z : Int) (eref : Int) (beta : BitVec 16) (bf : Bool) : Nat × Flags :=
  let y := roundFp fmtF32 .rne false (decide (z < 0)) z.natAbs (eref - 64)
  let b := fDec fmtBf16 beta.toNat
  let v := if isNaN b then canon fmtF32 true else fMul fmtF32 .rne false (fDec fmtF32 y.1) b
  let fl := y.2 ||| v.2
  if bf then let h := cvtFF fmtBf16 false .rne false (fDec fmtF32 v.1); (h.1, fl ||| h.2) else (v.1, fl)

/-- The flags that join DFLAGS: NX, UF, OF and NV. -/
def dflagsOf (fl : Flags) : BitVec 4 := BitVec.ofNat 4 (fl.toNat % 8 + if fl &&& fNV != 0 then 8 else 0)

/-! A8 quantisation of one block (R264). -/

/-- The magnitude of a finite FP32 value as a multiple of 2^-149. -/
def magF32 (x : Nat) : Nat :=
  match fDec fmtF32 x with
  | .fin _ m e => m * 2 ^ (e + 149).toNat
  | _ => 0

/-- xqa8_block on 32 FP32 encodings: the scale, the 32 values, the flags. -/
def xqa8Block (xs : List Nat) : Nat × List Int × Flags :=
  let bad (x : Nat) : Bool := match fDec fmtF32 x with
    | .fin _ _ _ => false
    | _ => true
  if xs.any bad then (0xFF, List.replicate 32 0, fNV)
  else
    let amax := (xs.map magF32).foldl max 0
    let k := ((List.range 300).find? (fun k => decide (amax * 64 ≤ 127 * 2 ^ k))).getD 0
    let ea : Nat := if amax = 0 then 0 else (127 + ((k : Int) - 155)).toNat
    let q (x : Nat) : Int × Bool :=
      let neg := match fDec fmtF32 x with
        | .fin n _ _ => n
        | _ => false
      let r := roundShift .rne neg (magF32 x) (ea + 22)
      (if neg then -(r.1 : Int) else (r.1 : Int), r.2)
    let qs := xs.map q
    (ea, qs.map (·.1), flagIf (qs.any (fun q => !q.2)) fNX)

/-! The image (Table 11-6). -/

def imageBytes : Nat := 227072

/-- Bytes of a memory, or zero where they are not valid. -/
def validBytes (ok : Bool) (m : Memory) (a n : Nat) : List Byte := if ok then m.readBytes a n else List.replicate n 0

/-- The bytes of a slot's image: 64 records, or the 2,048 bytes of a direct form and zeros (Table 11-6). -/
def directBytes : Nat := 2048
def slotBytes (w : WSlot) : List Byte :=
  if w.fmt = 0 then validBytes w.valid w.image 0 3072 else validBytes w.valid w.image 0 directBytes ++ List.replicate (3072 - directBytes) 0

/-- The image that PXSAVE writes. -/
def partsImage (p : Parts) : List Byte :=
  let wv := (List.range 4).foldl (fun x n => x + if (p.slot n).valid then 2 ^ n else 0) 0
  let fm := (List.range 4).foldl (fun x n => x + (p.slot n).fmt.toNat * 4 ^ n) 0
  le 8 (1 + wv * 2 ^ 8 + fm * 2 ^ 20 + (p.stage 0).valid.toNat * 2 ^ 28 + (p.stage 1).valid.toNat * 2 ^ 36 + p.dflags.toNat * 2 ^ 44) ++
  (List.range 8).flatMap (fun n => let z := p.zr n
    le 4 (z.eref.toNat + (if z.zloss then 512 else 0) + (if z.zovf then 1024 else 0))) ++
  List.replicate 216 0 ++
  (List.range 4).flatMap (fun n => slotBytes (p.slot n)) ++
  (List.range 2).flatMap (fun n => (List.range 8).flatMap (fun b =>
    validBytes ((p.stage n).valid.getLsbD b) (p.stage n).bytes (1056 * b) 1056)) ++
  (List.range 8).flatMap (fun n => (List.range 2048).flatMap (fun i => le 12 ((p.zr n).elems.getD 0 i).toNat)) ++
  (List.range 8).flatMap (fun n => (List.range 64).flatMap (fun r => le 2 ((p.zr n).betaOf r).toNat))

/-- n bytes of an image from offset o, as a number. -/
def imgNat (bs : List Byte) (o n : Nat) : Nat := natOfBytes ((bs.drop o).take n)
/-- The bytes as a memory. -/
def memOf (bs : List Byte) : Memory :=
  ((List.range bs.length).zip bs).filter (fun c => c.2 != 0)

/-- The state an image holds, if PXREST accepts it (R307). -/
def partsOf (bs : List Byte) : Option Parts :=
  let h := imgNat bs 0 8
  let slot (n : Nat) : WSlot :=
    { valid := (h / 2 ^ (8 + n)) % 2 == 1, fmt := BitVec.ofNat 2 (h / 2 ^ (20 + 2 * n)), image := memOf ((bs.drop (0x100 + 3072 * n)).take 3072) }
  let stage (n : Nat) : AStageReg :=
    { valid := BitVec.ofNat 8 (h / 2 ^ (28 + 8 * n)), bytes := memOf ((bs.drop (0x3100 + 8448 * n)).take 8448) }
  let zw (n : Nat) : Nat := imgNat bs (8 + 4 * n) 4
  let zr (n : Nat) : ZReg :=
    { eref := BitVec.ofNat 9 (zw n), zloss := zw n / 512 % 2 == 1, zovf := zw n / 1024 % 2 == 1
      elems := (List.range 2048).filterMap (fun i =>
        let x := BitVec.ofNat 96 (imgNat bs (0x7300 + 24576 * n + 12 * i) 12)
        if x = 0 then none else some (i, x))
      beta := (List.range 64).filterMap (fun r =>
        let x := BitVec.ofNat 16 (imgNat bs (0x37300 + 128 * n + 2 * r) 2)
        if x = 0x3F80 then none else some (r, x)) }
  let slotGood (n : Nat) : Bool :=
    let w := slot n
    let pairOk : Bool := (slot (if n % 2 = 0 then n + 1 else n - 1)).valid && (slot (if n % 2 = 0 then n + 1 else n - 1)).fmt == 3
    let direct : Bool := w.image.readBytes directBytes (3072 - directBytes) == List.replicate (3072 - directBytes) 0
    !w.valid || (if w.fmt = 0 then prepOk w.image else if w.fmt = 3 then pairOk && direct && dirOk 3 w.image 1024 else direct && dirOk w.fmt w.image 2048)
  let stageGood (n : Nat) : Bool := (List.range 8).all (fun b =>
    !(stage n).valid.getLsbD b || (List.range 32).all (fun t => (stage n).ea b t != 255))
  let ok := h % 256 == 1 && h / 2 ^ 12 % 256 == 0 && h / 2 ^ 48 == 0 && (List.range 8).all (fun n => zw n / 2048 == 0) &&
    (bs.drop 0x28).take 216 == List.replicate 216 0 && (List.range 4).all slotGood && (List.range 2).all stageGood
  if ok then
    let p := (List.range 4).foldl (fun (p : Parts) n => p.setSlot n (slot n)) { Parts.reset with dflags := BitVec.ofNat 4 (h / 2 ^ 44) }
    let p := (List.range 2).foldl (fun (p : Parts) n => p.setStage n (stage n)) p
    some ((List.range 8).foldl (fun (p : Parts) n => p.setZ n (zr n)) p)
  else none

/-! The PX words at issue (R283, R299, R300). -/

def wIdx (o : Opnd) : Nat := spNum 48 o
def aIdx (o : Opnd) : Nat := spNum 52 o
def zNo (o : Opnd) : Nat := spNum 54 o
/-- The space that SP selects. -/
def pxSpace (w : Ctl) : Space := if w.mod.getLsbD 0 then .ds else .cm
/-- Bits [31:0] of an s-register, as an address. -/
def Seq.addr (q : Seq) (o : Opnd) : Nat := ((q.val o).setWidth 32).toNat
def ldwBytes (w : Ctl) : Nat := match (w.imm.extractLsb' 0 2).toNat with
  | 0 => 3072 | 3 => 4096 | _ => 2048
/-- Table 11-3. -/
def gaTs (w : Ctl) : Nat := 32 * (w.imm.extractLsb' 20 12).toNat
def gaKb (w : Ctl) : Nat := (w.imm.extractLsb' 12 8).toNat + 1
def gaJ (w : Ctl) : Nat := (w.imm.extractLsb' 4 8).toNat
def pxNb (w : Ctl) : Nat := (w.imm.extractLsb' 0 3).toNat + 1
def pxSb (w : Ctl) : Nat := (w.imm.extractLsb' 3 3).toNat
/-- The size of a canonical A8 row (R267). -/
def a8Row (kb : Nat) : Nat := (33 * kb + 31) / 32 * 32
def drnStr (w : Ctl) : Nat := (w.imm.extractLsb' 8 24).toNat
def drnSize (w : Ctl) : Nat := if w.imm.getLsbD 0 then 2 else 4

/-- The addresses with their alignments, and the ranges, that a PX word's checks cover. -/
def pxAligns (opc : Nat) (q : Seq) (w : Ctl) : List (Nat × Nat) :=
  match opc with
  | 0x2A0 => [(q.addr w.a, 16)]
  | 0x2A1 => [(q.addr w.a, 2), (q.addr w.b, 32)]
  | 0x2A2 => [(q.addr w.a, 32)]
  | 0x2A6 => [(q.addr w.b, 16)]
  | 0x2A8 => [(q.addr w.a, 256)]
  | 0x2A9 => [(q.addr w.a, 256)]
  | _ => []
def pxRanges (opc : Nat) (q : Seq) (w : Ctl) : List (Space × Nat × Nat) :=
  match opc with
  | 0x2A0 => [(pxSpace w, q.addr w.a, ldwBytes w)]
  | 0x2A1 => [(.cm, q.addr w.a, 64 * pxNb w)]
  | 0x2A2 => [(.cm, q.addr w.a, (32 * pxNb w - 1) * gaTs w + a8Row (gaKb w))]
  | 0x2A6 => [(pxSpace w, q.addr w.b, 31 * drnStr w + 64 * drnSize w)]
  | 0x2A8 => [(pxSpace w, q.addr w.a, imageBytes)]
  | 0x2A9 => [(pxSpace w, q.addr w.a, imageBytes)]
  | _ => []

/-- The first failing check after the form's. -/
def State.pxChk (s : State) (cl opc : Nat) (q : Seq) (w : Ctl) : Option (Cause × Nat) :=
  match (pxAligns opc q w).find? (fun p => p.1 % p.2 != 0) with
  | some p => some (.align, p.1)
  | none => ((pxRanges opc q w).find? (fun r => !s.padOk q.launch (seqCore cl) r.1 r.2.1 r.2.2)).map (fun r => (.space, r.2.1))

/-- A PX word that passes its checks enters the queue, which holds 32 words that have not started. -/
def pxWord (opc : Nat) (w : Ctl) (s : State) : Out :=
  seqWord (.ctl opc w) s (fun cl q =>
    match s.pxChk cl opc q w with
    | some (c, a) => .trap s c (BitVec.ofNat 64 a)
    | none =>
      if 32 ≤ (q.pxq.filter (fun o => !o.started)).length then .wait
      else
        let (k, s) := s.newNum
        let x : PxOp := { word := (ctlToRaw opc w).toWord, pc := q.spc, addr := if opc = 0x2A6 then q.addr w.b else q.addr w.a, addr2 := q.addr w.b
                          started := false, startAt := 0, freeAt := 0, due := 0, idx := [], accs := [], gone := false, outside := false, after := k }
        .go (s.modSeq cl (fun q => { q with pxq := q.pxq ++ [x] })))

def execPxldw (w : Ctl) (s : State) : Out := pxWord 0x2A0 w s
def execPxga (w : Ctl) (s : State) : Out := pxWord 0x2A1 w s
def execPxlda (w : Ctl) (s : State) : Out := pxWord 0x2A2 w s
def execPxmm (w : Ctl) (s : State) : Out := pxWord 0x2A3 w s
def execPxdm (w : Ctl) (s : State) : Out := pxWord 0x2A4 w s
def execPxzero (w : Ctl) (s : State) : Out := pxWord 0x2A5 w s
def execPxdrn (w : Ctl) (s : State) : Out := pxWord 0x2A6 w s
def execPxbyp (w : Ctl) (s : State) : Out := pxWord 0x2A7 w s
def execPxsave (w : Ctl) (s : State) : Out := pxWord 0x2A8 w s
def execPxrest (w : Ctl) (s : State) : Out := pxWord 0x2A9 w s

/-- Table 11-5. -/
def pxStat (p : Parts) (n : Nat) : Dword :=
  let z := p.zr n
  let wv := (List.range 4).foldl (fun x k => x + if (p.slot k).valid then 2 ^ k else 0) 0
  BitVec.ofNat 64 ((p.stage 1).valid.toNat * 2 ^ 56 + (p.stage 0).valid.toNat * 2 ^ 48 + wv * 2 ^ 40 + p.dflags.toNat * 2 ^ 24 +
    (if z.zovf then 2 ^ 17 else 0) + (if z.zloss then 2 ^ 16 else 0) + z.eref.toNat)

/-- PXSTAT (R308): it waits until every operation has completed. -/
def execPxstat (w : Ctl) (s : State) : Out :=
  seqWord (.ctl 0x2AA w) s (fun cl q =>
    if !q.pxq.isEmpty then .wait
    else
      let p := (s.cl cl).parts
      let s1 := if w.imm.getLsbD 0 then s.modCl cl (fun c => { c with parts := { c.parts with dflags := 0 } }) else s
      .go (s1.modSeq cl (fun x => x.setReg (vReg w.d) (pxStat p (zNo w.a)))))

/-! The queue (R310, R311). -/

/-- The opcode and fields of a queued word. -/
def PxOp.opc (o : PxOp) : Nat := (Raw.ofWord o.word).opc.toNat
def PxOp.ctl (o : PxOp) : Ctl :=
  (ctlOfRaw (Raw.ofWord o.word)).getD { hdr := Hdr.plain, mod := 0, d := Opnd.none, a := Opnd.none, b := Opnd.none, imm := 0 }

/-- Registers by number: w0 to w3 are 0 to 3, a0 and a1 are 4 and 5, z0 to z7 are 6 to 13. -/
def allRegs : List Nat := List.range 14
def zSpan (w : Ctl) : List Nat := (List.range (pxNb w)).map (fun t => 6 + zNo w.d + t)
/-- A BF16 PXDM reads both slots of its pair. -/
def PxOp.rds (p : Parts) (o : PxOp) : List Nat :=
  let w := o.ctl
  match o.opc with
  | 0x2A3 => [wIdx w.a, 4 + aIdx w.b] ++ zSpan w
  | 0x2A4 => [wIdx w.a, 4 + aIdx w.b] ++ zSpan w ++ (if (p.slot (wIdx w.a)).fmt = 3 then [wIdx w.a + 1] else [])
  | 0x2A6 => [6 + zNo w.a]
  | 0x2A7 => [6 + zNo w.a]
  | 0x2A8 => allRegs
  | _ => []
def PxOp.wrs (o : PxOp) : List Nat :=
  let w := o.ctl
  match o.opc with
  | 0x2A0 => if w.imm.extractLsb' 0 2 = 3 then [wIdx w.d, wIdx w.d + 1] else [wIdx w.d]
  | 0x2A1 => [4 + aIdx w.d]
  | 0x2A2 => [4 + aIdx w.d]
  | 0x2A3 => zSpan w
  | 0x2A4 => zSpan w
  | 0x2A5 => ((List.range 8).filter (fun n => w.imm.getLsbD n)).map (6 + ·)
  | 0x2A7 => [4 + aIdx w.d]
  | 0x2A9 => allRegs
  | _ => []
/-- The paths an operation takes: load, compute. -/
def PxOp.loads (o : PxOp) : Bool := decide (o.opc ∈ [0x2A0, 0x2A1, 0x2A2, 0x2A8, 0x2A9])
def PxOp.computes (o : PxOp) : Bool := decide (o.opc ∈ [0x2A3, 0x2A4, 0x2A5, 0x2A6, 0x2A7, 0x2A8, 0x2A9])
def PxOp.readsMem (o : PxOp) : Bool := decide (o.opc ∈ [0x2A0, 0x2A1, 0x2A2, 0x2A9])
def PxOp.whole (o : PxOp) : Bool := decide (o.opc ∈ [0x2A8, 0x2A9])
def PxOp.sums (o : PxOp) : Bool := decide (o.opc ∈ [0x2A3, 0x2A4])
def meets (xs ys : List Nat) : Bool := xs.any (fun x => decide (x ∈ ys))

/-- Whether an operation in progress still holds its path. -/
def PxOp.holds (o : PxOp) (now : BitVec 64) : Bool := o.loads || decide (now.toNat < o.freeAt.toNat)

/-- Whether an operation may start beside one in progress (R310, rules 2 to 6). -/
def pxBeside (p : Parts) (now : BitVec 64) (x e : PxOp) : Bool :=
  !(e.holds now && ((e.loads && x.loads) || (e.computes && x.computes) || meets (e.rds p) x.wrs)) &&
  !(meets e.wrs (x.rds p ++ x.wrs) && !(x.sums && e.sums)) &&
  !(x.readsMem && pxWrites e) && !x.whole

/-- The uncontended latency of the pieces of a range (Table 4-2), the degree over all its bytes. -/
def pxLat (cl : Nat) (sp : Space) (a n : Nat) : Nat := padLatency (seqCore cl) sp ((pieceSpans a n).map (·.1)) 16

/-! Gathers (R285). -/

/-- The rows that a gather names, from the bytes of its index vector: none for a padding token. -/
def PxOp.rows (o : PxOp) : List (Option Nat) :=
  let w := o.ctl
  let bs := pieceBytes o.idx
  (List.range (32 * pxNb w)).map (fun t =>
    if o.opc = 0x2A2 then some (o.addr + t * gaTs w)
    else
      let x := natOfBytes ((bs.drop (2 * t)).take 2)
      if x = 0xFFFF then none else some (o.addr2 + x * gaTs w))

/-- The addresses of a row's 32 values and of its scale byte. -/
def gaValues (w : Ctl) (row : Nat) : Nat := row + 32 * gaJ w
def gaScale (w : Ctl) (row : Nat) : Nat := row + 32 * gaKb w + gaJ w
/-- Whether a token's bytes lie in the block's window. -/
def State.gaInside (s : State) (cl : Nat) (q : Seq) (w : Ctl) (row : Option Nat) : Bool :=
  match row with
  | none => true
  | some r => s.padOk q.launch (seqCore cl) .cm (gaValues w r) 32 && s.padOk q.launch (seqCore cl) .cm (gaScale w r) 1

/-- The pieces of a gather's tokens, in ascending order, up to the first token that lies outside the window. -/
def State.gaPieces (s : State) (cl : Nat) (q : Seq) (o : PxOp) (leave : BitVec 64) : List Piece :=
  let w := o.ctl
  (o.rows.takeWhile (s.gaInside cl q w)).flatMap (fun r => match r with
    | none => []
    | some r => readPieces (seqCore cl) .cm leave (gaValues w r) 32 ++ readPieces (seqCore cl) .cm leave (gaScale w r) 1)

/-- The bytes of each token, values then scale: 33 of them, zero for padding. -/
def gaTokens : List (Option Nat) → List Byte → List (List Byte)
  | [], _ => []
  | none :: rest, bs => List.replicate 33 0 :: gaTokens rest bs
  | some _ :: rest, bs => bs.take 33 :: gaTokens rest (bs.drop 33)

/-- What a gather gives: its tokens, or the cause of the first that fails; a window failure of a token is found before a NaN scale of a later one. -/
def PxOp.gathered (o : PxOp) : Except Cause (List (List Byte × Byte)) :=
  let bs := pieceBytes o.accs
  let inside := gaTokens (o.rows.take (if o.outside then (gaTokens o.rows bs).findIdx (fun t => t.length < 33) else o.rows.length)) bs
  if inside.any (fun t => t.getD 32 0 == 0xFF) then .error .pxerr
  else if o.outside then .error .space
  else .ok (inside.map (fun t => (t.take 32, t.getD 32 0)))

/-- The bytes of a stage from its tokens (Table 11-6). -/
def stageBytes (ts : List (List Byte × Byte)) : List Byte :=
  (List.range (ts.length / 32)).flatMap (fun b =>
    let here := (ts.drop (32 * b)).take 32
    here.flatMap (·.1) ++ here.map (·.2))

/-- R303: the slot and the blocks of a PXMM or PXDM. -/
def mmOk (p : Parts) (o : PxOp) : Bool :=
  let w := o.ctl
  let n := wIdx w.a
  let sl := p.slot n
  sl.valid &&
  (if o.opc = 0x2A3 then sl.fmt == 0 else sl.fmt != 0 && (sl.fmt != 3 || (n % 2 == 0 && (p.slot (n + 1)).valid && (p.slot (n + 1)).fmt == 3))) &&
  (List.range (pxNb w)).all (fun t => (p.stage (aIdx w.b)).valid.getLsbD (pxSb w + t))

/-- The drained tile of a PXDRN: each token's 64 rows, and the flags. -/
def drainTile (z : ZReg) (bf : Bool) : List (List Byte) × Flags :=
  let el (tok r : Nat) : Nat × Flags := drainElem (z.elem r tok) z.eref.toInt (z.betaOf r) bf
  let all := (List.range 32).map (fun tok => (List.range 64).map (el tok))
  (all.map (fun row => row.flatMap (fun x => le (if bf then 2 else 4) x.1)), all.foldl (fun fl row => row.foldl (fun fl x => fl ||| x.2) fl) 0)

/-- The times of Table 11-8, uncontended: how long the path is held, and when the operation completes; that of a gather follows from its accesses (R311). -/
def State.pxTimes (s : State) (cl : Nat) (o : PxOp) : Nat × Nat :=
  let w := o.ctl
  let nb := pxNb w
  match o.opc with
  | 0x2A0 => let c := pxLat cl (pxSpace w) o.addr (ldwBytes w) + 8; (c, c)
  | 0x2A3 => (nb, nb + 11)
  | 0x2A4 => let k := if ((s.cl cl).parts.slot (wIdx w.a)).fmt = 3 then 4 else 2; (k * nb, k * nb + 11)
  | 0x2A5 => (1, 1)
  | 0x2A6 => (32, 32 + padFixed (pxSpace w))
  | 0x2A7 => (16, 16)
  | 0x2A8 => let c := pxLat cl (pxSpace w) o.addr imageBytes; (c, c)
  | 0x2A9 => let c := pxLat cl (pxSpace w) o.addr imageBytes + 8; (c, c)
  | _ => (0, 4 * nb)

/-- The cycles after an operation's last access that it needs to complete (Table 11-8). -/
def PxOp.more (o : PxOp) : Nat :=
  match o.opc with
  | 0x2A0 => 8 | 0x2A9 => 8 | 0x2A1 => 4 * pxNb o.ctl | 0x2A2 => 4 * pxNb o.ctl | _ => 0

/-- The rows of tokens that a gather has still to ask for leave once its index vector has returned. -/
def State.gaLeave (s : State) (cl : Nat) (o : PxOp) : PxOp :=
  if !(o.opc == 0x2A1 || o.opc == 0x2A2) || o.gone then o
  else match piecesServed o.idx with
    | none => o
    | some t =>
      let leave := if o.idx.isEmpty then s.pcc else BitVec.ofNat 64 (t + padFixed .cm)
      let q := s.seqOf cl
      { o with gone := true, outside := !o.rows.all (s.gaInside cl q o.ctl), accs := s.gaPieces cl q o leave }

/-- An operation starts: its accesses leave for their banks; a drain's writes leave once its 32 tokens have gone down the path. -/
def State.pxBegin (s : State) (cl : Nat) (o : PxOp) : PxOp :=
  let w := o.ctl
  let t := s.pxTimes cl o
  let p := (s.cl cl).parts
  let o := { o with started := true, startAt := s.pcc, freeAt := s.pcc + BitVec.ofNat 64 t.1, due := s.pcc + BitVec.ofNat 64 t.2 }
  let rd (sp : Space) (n : Nat) : List Piece := readPieces (seqCore cl) sp s.pcc o.addr n
  match o.opc with
  | 0x2A0 => { o with accs := rd (pxSpace w) (ldwBytes w), gone := true }
  | 0x2A9 => { o with accs := rd (pxSpace w) imageBytes, gone := true }
  | 0x2A8 => { o with accs := writePieces (seqCore cl) (pxSpace w) s.pcc o.addr (partsImage p), gone := true }
  | 0x2A6 =>
    let rows := (drainTile (p.zr (zNo w.a)) (w.imm.getLsbD 0)).1
    { o with gone := true, accs := ((List.range 32).zip rows).flatMap (fun r => writePieces (seqCore cl) (pxSpace w) (s.pcc + 32) (o.addr + r.1 * drnStr w) r.2) }
  | 0x2A1 => { o with idx := rd .cm (64 * pxNb w) }
  | 0x2A2 => s.gaLeave cl o
  | _ => { o with gone := true }

/-- The banks' service of the engine's accesses that arrived at a PCC (R104, R313). -/
def State.pxServe (s : State) (cl arr : Nat) (t : List RowUse) : State × List RowUse :=
  let n := (s.seqOf cl).pxq.length
  (List.range n).foldl (fun (p : State × List RowUse) i => match (p.1.seqOf cl).pxq[i]? with
    | none => p
    | some o =>
      if !o.started then p
      else
        let (s, t, xs) := p.1.servePieces (seqCore cl) (2 ^ 66 + 64 * cl + i) arr p.2 o.idx
        let (s, t, ys) := s.servePieces (seqCore cl) (2 ^ 66 + 64 * cl + i) arr t o.accs
        let o' := s.gaLeave cl { o with idx := xs, accs := ys }
        (s.modSeq cl (fun q => { q with pxq := q.pxq.set i o' }), t)) (s, t)

/-- PX_OP_START (R303, R310): the first operation that has not started. -/
def execPxOpStart (cluster : Nat) (s : State) : Out :=
  let q := s.seqOf cluster
  let p := (s.cl cluster).parts
  let run := q.pxq.takeWhile (·.started)
  match q.pxq.drop run.length with
  | [] => .next s
  | x :: rest =>
    let ssts := q.accs.any (fun a => a.2.acc.write && decide (a.1 < x.after))
    if !(run.all (pxBeside p s.pcc x)) && !run.isEmpty then .next s
    else if (x.readsMem && ssts) then .next s
    else if x.sums && !mmOk p x then
      .next ((s.modSeq cluster (fun q => { q with pxq := run ++ rest })).seqTrapAt cluster .pxerr true x.pc 0)
    else .next (s.modSeq cluster (fun q => { q with pxq := run ++ s.pxBegin cluster x :: rest }))

/-! Completion (R301 to R309). -/

/-- A slot is loaded: valid where its image is accepted. The other half of a BF16 pair that stood there is no longer valid, for the two are valid only as a pair
(R294). -/
def Parts.loadSlot (p : Parts) (n : Nat) (f : BitVec 2) (ok : Bool) (bs : List Byte) : Parts :=
  let o := if n % 2 = 0 then n + 1 else n - 1
  let p := if f ≠ 3 && (p.slot n).valid && (p.slot n).fmt = 3 then p.setSlot o WSlot.reset else p
  p.setSlot n (if ok then { valid := true, fmt := f, image := memOf bs } else { WSlot.reset with fmt := f })

/-- The effect of PXLDW: valid slots where the image is accepted. -/
def ldwEffect (p : Parts) (o : PxOp) : Parts × Option Cause :=
  let w := o.ctl
  let n := wIdx w.d
  let f := w.imm.extractLsb' 0 2
  let bs := pieceBytes o.accs
  if f = 3 then
    let ok := dirOk 3 (memOf (bs.take 2048)) 1024 && dirOk 3 (memOf (bs.drop 2048)) 1024
    ((p.loadSlot n f ok (bs.take 2048)).loadSlot (n + 1) f ok (bs.drop 2048), if ok then none else some .pxerr)
  else
    let ok := if f = 0 then prepOk (memOf bs) else dirOk f (memOf bs) 2048
    (p.loadSlot n f ok bs, if ok then none else some .pxerr)

/-- The effect of a gather. -/
def gaEffect (p : Parts) (o : PxOp) : Parts × Option Cause :=
  let n := aIdx o.ctl.d
  match o.gathered with
  | .error c => (p.setStage n AStageReg.reset, some c)
  | .ok ts => (p.setStage n { valid := BitVec.ofNat 8 (2 ^ pxNb o.ctl - 1), bytes := memOf (stageBytes ts) }, none)

/-- The effect of PXMM or PXDM: block by block, each into its own register. -/
def accEffect (p : Parts) (o : PxOp) : Parts :=
  let w := o.ctl
  let a := p.stage (aIdx w.b)
  let n := wIdx w.a
  (List.range (pxNb w)).foldl (fun p t =>
    let k := zNo w.d + t
    p.setZ k (if o.opc = 0x2A3 then mmBlock (p.slot n) a (pxSb w + t) (p.zr k) else dmBlock (p.slot n) (p.slot (n + 1)) a (pxSb w + t) (p.zr k))) p

/-- The effect of PXZERO. -/
def zeroEffect (p : Parts) (o : PxOp) : Parts :=
  ((List.range 8).filter (fun n => o.ctl.imm.getLsbD n)).foldl
    (fun p n => p.setZ n { ZReg.reset with eref := o.ctl.imm.extractLsb' 8 9 }) p

/-- The effect of PXBYP. -/
def bypEffect (p : Parts) (o : PxOp) : Parts × Option Cause :=
  let w := o.ctl
  let z := p.zr (zNo w.a)
  let half := if w.imm.getLsbD 3 then 1 else 0
  let b := (w.imm.extractLsb' 0 3).toNat
  let el (tok i : Nat) : Nat × Flags := drainElem (z.elem (32 * half + i) tok) z.eref.toInt (z.betaOf (32 * half + i)) false
  let toks := (List.range 32).map (fun tok =>
    let xs := (List.range 32).map (el tok)
    let q := xqa8Block (xs.map (·.1))
    (q.1, q.2.1, xs.foldl (fun fl x => fl ||| x.2) q.2.2))
  let fl := toks.foldl (fun fl t => fl ||| t.2.2) 0
  let p := { p with dflags := p.dflags ||| dflagsOf fl }
  let n := aIdx w.d
  let a := p.stage n
  if toks.any (fun t => t.1 == 255) then (p.setStage n { a with valid := a.valid &&& ~~~((1#8) <<< b) }, some .pxerr)
  else
    let bs := stageBytes (toks.map (fun t => (t.2.1.map (fun v => BitVec.ofInt 8 v), BitVec.ofNat 8 t.1)))
    (p.setStage n { valid := a.valid ||| ((1#8) <<< b), bytes := a.bytes.writeBytes (1056 * b) bs }, none)

/-- The effect of an operation: the state, and its failure. -/
def State.pxEffect (s : State) (cl : Nat) (o : PxOp) : State × Option Cause :=
  let p := (s.cl cl).parts
  let w := o.ctl
  let set (r : Parts × Option Cause) : State × Option Cause := (s.modCl cl (fun c => { c with parts := r.1 }), r.2)
  match o.opc with
  | 0x2A0 => set (ldwEffect p o)
  | 0x2A1 => set (gaEffect p o)
  | 0x2A2 => set (gaEffect p o)
  | 0x2A3 => set (accEffect p o, none)
  | 0x2A4 => set (accEffect p o, none)
  | 0x2A5 => set (zeroEffect p o, none)
  | 0x2A6 => set ({ p with dflags := p.dflags ||| dflagsOf (drainTile (p.zr (zNo w.a)) (w.imm.getLsbD 0)).2 }, none)
  | 0x2A7 => set (bypEffect p o)
  | 0x2A8 => (s, none)
  | _ => match partsOf (pieceBytes o.accs) with
    | some p => set (p, none)
    | none => set (Parts.reset, some .pxerr)

/-- Whether an operation must complete before one behind it: one writes what the other reads or writes. -/
def pxBefore (p : Parts) (e x : PxOp) : Bool := meets e.wrs (x.rds p ++ x.wrs) || meets (e.rds p) x.wrs

/-- PX_OP_COMPLETE: the operation leaves its path; one that fails traps the sequencer deferred at its word. -/
def execPxOpComplete (cluster idx : Nat) (s : State) : Out :=
  let q := s.seqOf cluster
  let p := (s.cl cluster).parts
  match q.pxq[idx]? with
  | none => .next s
  | some o =>
    if !o.started || !o.gone || !s.due o.due || !s.piecesDone o.idx o.more || !s.piecesDone o.accs o.more || (q.pxq.take idx).any (fun e => pxBefore p e o) then .next s
    else
      let r := s.pxEffect cluster o
      let s := r.1.modSeq cluster (fun q => { q with pxq := q.pxq.eraseIdx idx })
      match r.2 with
      | some c => .next (s.seqTrapAt cluster c true o.pc 0)
      | none => .next s

/-! Save and restore of a stream (R290, R315, Table 10-5). -/

/-- The save area from offset 0x80. -/
def State.seqImage (s : State) (cl : Nat) : List Byte :=
  let c := s.cl cl
  let q := c.seq
  let box (m : Nat) : List Byte :=
    let ps := c.box m
    (List.range 4).flatMap (fun i => le 8 ((ps[i]?.map (·.msg.toNat)).getD 0)) ++
    [BitVec.ofNat 8 (s.takeCount cl m + if c.mailOpen then 128 else 0)] ++ List.replicate 31 0
  le 8 q.spc.toNat ++ le 8 (s.pcc - q.stallFrom).toNat ++ le 8 (if q.st = .ended then 1 else 0) ++ List.replicate 104 0 ++
  (List.range 32).flatMap (fun n => le 8 (q.reg n).toNat) ++ (List.range 16).flatMap box ++ partsImage c.parts

/-- SEQ_SAVE: at a word boundary, with every access and operation done, and once the block's groups, which still use the mailboxes, have left their cores, the image is
published; then the sequencer is free. -/
def execSeqSave (cluster : Nat) (s : State) : Out :=
  let c := s.cl cluster
  let q := c.seq
  if !q.saveReq || q.trap.isSome || q.st == .free then .next s
  else match q.saveOp with
  | none =>
    let here := s.groups.any (fun p => p.2.blockKey == blockKey q.launch q.block && match p.2.place with
      | .resident _ _ => true
      | _ => false)
    if q.accs.isEmpty && q.pxq.isEmpty && !here then
      let (r, s) := s.lodgeBytes cluster q.ctx none (q.trec + 0x80) (s.seqImage cluster)
      let s := { s with waiters := s.waiters.filter (fun p => p.2.who != WaiterWho.seq cluster) }
      .next (s.modSeq cluster (fun q => { q with saveOp := some r, stallFrom := s.pcc - q.stallFrom }))
    else .next s
  | some r =>
    if s.reqSt r == .complete then
      let kept : SeqSave := { seq := { q with saveReq := false, saveOp := none }, parts := c.parts, mail := c.mail, isOpen := c.mailOpen }
      let bk := blockKey q.launch q.block
      let s := s.setCl cluster { c with seq := Seq.reset, parts := Parts.reset, mail := [], mailOpen := false, saves := c.saves.set bk kept }
      .next (s.blockSaved bk)
    else .next s

/-- SEQ_RESTORE: a saved stream of a block that may be placed takes its cluster's free sequencer again. -/
def execSeqRestore (cluster blk : Nat) (s : State) : Out :=
  let c := s.cl cluster
  match c.saves.get? blk, s.blocks.get? blk with
  | some k, some b =>
    let quiet := match s.ctx? k.seq.ctx with
      | some x => x.quiet == .running
      | none => false
    let prio := ((s.launchOf b.launch).map (·.prio)).getD 0
    if c.seq.st == .free && b.cluster == cluster && !b.held && !b.ask && quiet && (b.resident || restoreFirst s b prio) then
      let s := s.setCl cluster { c with
        seq := { k.seq with stallFrom := s.pcc - k.seq.stallFrom }, parts := k.parts, mail := k.mail, mailOpen := k.isOpen, saves := c.saves.erase blk }
      .next ((s.modBlock blk (fun b => { b with resident := true })).seqAcquire cluster k.seq.ctx)
    else .next s
  | _, _ => .next s

end Sys2Proof.Machine
end

