-- ==== Sys2Proof/Machine/Copy.lean ====
section
/-! DEFINITION. The copy-and-convert engine: acceptance and checks, the five operations, their steps, shadow results and failures (R255 to R273);
and what every engine shares: page checks, reading `.gl` bytes, publishing a result. -/

namespace Sys2Proof.Machine

/-! What the engines share. -/

/-- One leaf of an engine's range (R271): a DEV or SO page fails ACCESS. -/
def State.engineTr (s : State) (cl ctx addr : Nat) (n : Need) : Tr :=
  let dev : Bool := match s.hdrFor cl ctx addr with
    | some h => decide (2 ≤ h.mtype.toNat)
    | none => false
  match s.translate cl ctx addr n with
  | .bad .nomap => .bad .nomap
  | t => if dev then .bad .access else t

/-- The check of a range's leaves as an engine reaches them (R271, R365). -/
def State.engineChk (s : State) (cl ctx addr len : Nat) (n : Need) : Tr :=
  if addr + len > 2 ^ 48 then .bad .nomap
  else joinTr (s.engineTr cl ctx addr n :: (leafSteps addr len).map (fun a => s.engineTr cl ctx a n))

/-- The keys under which an operation holds a line that it has read, and the bytes that its cluster owned of a peer's line when the owner was asked for it. -/
def heldLine (a : Nat) : Nat := 2 ^ 49 + a / 256
def askedLine (a : Nat) : Nat := 2 ^ 50 + a / 256
/-- The lane number under which a peer's answer to an engine's line comes back. -/
def engineLane (a : Nat) : Nat := 2 ^ 32 + a / 256

/-- Line reads that an operation no longer needs leave it. -/
def AOp.dropLines (o : AOp) (p : Nat → Bool) : AOp :=
  { o with bufs := o.bufs.filter (fun x => x.1 < 2 ^ 49 || decide (2 ^ 51 ≤ x.1) || !p (x.1 % 2 ^ 40 * 256)) }

/-- A peer's line arrives for an operation: the bytes that the cluster owned when it asked stand over it (R101, R126). -/
def AOp.gotLine (o : AOp) (a : Nat) (d : Line) : AOp :=
  match o.buf (askedLine a) with
  | none => o
  | some bs => o.putBuf (heldLine a) (Line.bytes (mergeLine (BitVec.ofNat 256 (natOfBytes (bs.take 32))) (Line.ofBytes (bs.drop 32)) d))

/-- The lines of a range. -/
def linesIn (a n : Nat) : List Nat := if n = 0 then [] else (List.range ((a % 256 + n + 255) / 256)).map (fun i => (a / 256 + i) * 256)

/-- A line as committed at its home; a read waits there while the entry is PREP (R217). -/
def State.readHome (s : State) (lk : Nat) (who : Reader) : Option Line × State :=
  if s.prepAt lk then (none, s.waitRead lk who) else (some (s.homeLine lk), (s.countLocal (pageOfLine lk)).doneRead lk who)

/-- An operation reads a line, in one state of it (R126, R223, R257): its cluster's own bytes first, then through the LIB or at the home, where it waits while the
entry is PREP; a line of a peer's page is asked for once. With `home` the line is read as committed at its home (R328, R340). -/
def State.grabLine (s : State) (n : Nat) (o : AOp) (home : Bool) (a : Nat) : State :=
  let lk := lineKey o.ctx a
  let own : LineMask × Line := if home then (0, 0) else s.ownBytes o.cluster lk
  if (o.buf (heldLine a)).isSome then s
  else if s.isRemote lk && own.1 != fullMask then
    if (o.buf (askedLine a)).isSome then s
    else (s.sendMsg (s.ownerOf lk) 0 lk (.load n (engineLane a) o.ctx a 256)).modAop n (fun o => o.putBuf (askedLine a) (le 32 own.1.toNat ++ Line.bytes own.2))
  else if home then
    let (v, s) := s.readHome lk (.aop n)
    match v with
    | some d => s.modAop n (fun o => o.putBuf (heldLine a) (Line.bytes d))
    | none => s
  else
    let (v, s) := s.clusterLoad o.cluster o.ctx a 256 (.aop n)
    match v with
    | some d => s.modAop n (fun o => o.putBuf (heldLine a) (le 256 d))
    | none => if ((s.cl o.cluster).lib.get? (leafOfLine lk)).isSome then s else s.libWalk o.cluster (leafOfLine lk) (some lk)

/-- n bytes of lines that an operation holds; none while one of them is still missing. -/
def AOp.lineBytes (o : AOp) (a n : Nat) : Option (List Byte) :=
  let ls := (linesIn a n).map (fun x => o.buf (heldLine x))
  if ls.any Option.isNone then none else some (((ls.flatMap (fun d => d.getD [])).drop (a % 256)).take n)

/-- Read the lines of ranges; the ranges' bytes once every line has been read. -/
def State.engineFetch (s : State) (n : Nat) (home : Bool) (rs : List (Nat × Nat)) : Option (List (List Byte)) × State :=
  let s := (rs.flatMap (fun p => linesIn p.1 p.2)).foldl (fun (s : State) x => match s.aops.get? n with
    | some o => s.grabLine n o home x
    | none => s) s
  match s.aops.get? n with
  | none => (none, s)
  | some o =>
    let bs := rs.map (fun p => o.lineBytes p.1 p.2)
    (if bs.any Option.isNone then none else some (bs.map (fun b => b.getD [])), s)

/-! Shadow results (R268, R339). -/

/-- Bytes at an address, cut at the lines they touch. -/
def lineParts (a : Nat) (bs : List Byte) : List (Nat × List Byte) :=
  (linesIn a bs.length).map (fun x =>
    let lo := max a x
    (lo, (bs.drop (lo - a)).take (min (a + bs.length) (x + 256) - lo)))

/-- A result's bytes in one line are appended to a log as unpublished records. None where it has no room. -/
def State.shadowLine (s : State) (n log : Nat) (x : PLine) : Option State :=
  match s.appendAll log (lineRecs s log x.ctx x.line 0 x.mask x.data) with
  | none => none
  | some (s, ps) => some (s.modAop n (fun o =>
      let a := o.shadow.getD AppLine.none x.key
      { o with shadow := o.shadow.set x.key { mask := a.mask ||| x.mask, data := mergeLine x.mask x.data a.data, recs := a.recs ++ ps } }))

/-- The results that wait are appended, line by line, as far as the log has room; what is left. -/
def State.shadowAll (s : State) (n log ctx : Nat) : List (Nat × List Byte) → State × List (Nat × List Byte)
  | [] => (s, [])
  | p :: ps => match (plinesOf ctx p.1 p.2).foldl (fun (acc : Option State) x => acc.bind (fun s => s.shadowLine n log x)) (some s) with
    | none => (s, p :: ps)
    | some s => s.shadowAll n log ctx ps

/-- An operation appends its results to a log; one that finds no room waits, at most its context's LOGSTALL (R234, R268). -/
def State.appendOuts (s : State) (n log : Nat) (o : AOp) : State :=
  let (s, left) := s.shadowAll n log o.ctx (o.outs.flatMap (fun p => lineParts p.1 p.2))
  if left.isEmpty then s.modAop n (fun o => { o with outs := [], starved := none })
  else (s.tellSpace log).modAop n (fun o => { o with outs := left, starved := some (o.starved.getD (s.logLimit o.ctx)) })

/-- One publication of an operation's unpublished records (R210, R268). -/
def State.lodgeShadow (s : State) (n log : Nat) (o : AOp) : State :=
  let (q, s) := s.lodge log o.ctx o.gid .solo (o.shadow.map (fun p => s.plineOf p.1 p.2)) 0
  s.modAop n (fun o => { o with stage := .publishing q })

/-- An operation parks on a page at its cluster's die (R370). -/
def State.parkAop (s : State) (n : Nat) (o : AOp) (page : Nat) : State :=
  (s.modAop n (fun o => { o with stage := .parked page })).addWaiter (clusterDie o.cluster) page (.aop n) o.launch o.ctx

/-- Whether an operation waits for its page. -/
def AOp.isParked (o : AOp) : Bool := match o.stage with
  | .parked _ => true
  | _ => false
def AOp.isPublishing (o : AOp) : Bool := match o.stage with
  | .publishing _ => true
  | _ => false

/-! The descriptor (R258 to R260, Tables 9-3 to 9-6). -/

def copySpace (b : BitVec 3) : Space := match b.toNat with
  | 0 => .gl | 1 => .cr | 2 => .cm | _ => .ds

/-- Type codes beside those of Table 2-6: A8 storage 16, slot images 17. -/
def CopyOp.srcCode (c : CopyOp) : Nat :=
  match c.opc.toNat with
  | 0x240 => 0 | 0x244 => 14 | _ => (c.imm.extractLsb' 0 4).toNat
def CopyOp.dstCode (c : CopyOp) : Nat :=
  match c.opc.toNat with
  | 0x240 => 0 | 0x242 => 16 | 0x244 => 17 | _ => (c.imm.extractLsb' 4 4).toNat
def CopyOp.canon (c : CopyOp) : Bool := c.opc == 0x242 && c.imm.getLsbD 5
def CopyOp.wht (c : CopyOp) : Bool := c.opc == 0x243 || (c.opc == 0x242 && c.imm.getLsbD 4)
def codeTy (n : Nat) : Ty := (tyOf (BitVec.ofNat 4 n)).getD .b8
/-- Element size in bytes, as far as alignment goes. -/
def codeSize (n : Nat) : Nat := if n < 14 then max 1 (tyBits (codeTy n) / 8) else 1
/-- Bytes of a row of c elements of a code. -/
def codeRow (n c : Nat) : Nat :=
  if n < 14 then tyBits (codeTy n) * c / 8 else if n = 14 then 17 * (c / 32) else c
def CopyOp.srcRow (c : CopyOp) : Nat := if c.opc = 0x240 then c.cols else codeRow c.srcCode c.cols
def CopyOp.dstRow (c : CopyOp) : Nat :=
  if c.opc = 0x240 then c.cols else if c.canon then a8Row (c.cols / 32) else codeRow c.dstCode c.cols
/-- Whether the source, or the destination, has a scale array. -/
def CopyOp.srcAux (c : CopyOp) : Bool := decide (14 ≤ c.srcCode)
def CopyOp.dstAux (c : CopyOp) : Bool := c.opc == 0x242 && !c.canon
/-- The bytes of the scale array. -/
def CopyOp.auxLen (c : CopyOp) : Nat := if c.srcCode = 14 then 2 * ((c.rows + 63) / 64) else c.rows * (c.cols / 32)
def CopyOp.blocked (c : CopyOp) : Bool := decide (14 ≤ c.srcCode) || decide (c.opc ∈ [0x242#10, 0x243#10, 0x244#10])

def CopyOp.srcSpan (c : CopyOp) : Nat := (c.rows - 1) * c.sstr + c.srcRow
def CopyOp.dstSpan (c : CopyOp) : Nat :=
  if c.opc = 0x244 then 3072 * (c.rows / 64) * (c.cols / 32) else (c.rows - 1) * c.dstr + c.dstRow

/-- The operation that a word names, from its six descriptor registers. -/
def copyOf (opc : Nat) (w : Ctl) (rg : Regs) : CopyOp :=
  let r (i : Nat) : Dword := rg.greg (gReg w.a + i)
  { opc := BitVec.ofNat 10 opc, imm := w.imm, ssp := copySpace (w.mod.extractLsb' 9 3), dsp := copySpace (w.mod.extractLsb' 6 3), stat := w.mod.getLsbD 5
    src := (r 0).toNat, dst := (r 1).toNat, cols := ((r 2).extractLsb' 32 24).toNat, rows := ((r 2).extractLsb' 0 24).toNat
    dstr := ((r 3).extractLsb' 32 32).toNat, sstr := ((r 3).extractLsb' 0 32).toNat, aux := (r 4).toNat, stw := (r 5).toNat }

/-- R260, step 1. -/
def copyIll (c : CopyOp) (d2 : Dword) : Bool :=
  d2.extractLsb' 56 8 != 0 || d2.extractLsb' 24 8 != 0 || c.rows == 0 || c.cols == 0 || (c.blocked && c.cols % 32 != 0) ||
  (c.opc == 0x244 && c.rows % 64 != 0) || (c.opc == 0x241 && (c.srcCode == 13 || c.dstCode == 13) && c.cols % 2 != 0) ||
  (c.canon && decide (c.dstr < a8Row (c.cols / 32)))

/-- R260, step 2: the first address that is not aligned. -/
def copyMisaligned (c : CopyOp) : Option Nat :=
  let one := c.opc == 0x240
  let ss := if one then 1 else codeSize c.srcCode
  let ds := if one then 1 else codeSize c.dstCode
  if c.src % ss != 0 || c.sstr % ss != 0 then some c.src
  else if c.dst % ds != 0 || (c.opc != 0x244 && c.dstr % ds != 0) || (c.opc != 0x244 && c.dsp != .gl && c.dstr % 32 != 0) then some c.dst
  else if c.srcCode = 14 ∧ c.aux % 2 ≠ 0 then some c.aux
  else if c.stat ∧ c.stw % 8 ≠ 0 then some c.stw
  else none

/-- The byte ranges of an operation: source rows, destination rows, scale array, status word. -/
def CopyOp.ranges (c : CopyOp) : List (Space × Nat × Nat) :=
  [(c.ssp, c.src, c.srcSpan), (c.dsp, c.dst, c.dstSpan)] ++ (if c.srcAux then [(c.ssp, c.aux, c.auxLen)] else []) ++
  (if c.dstAux then [(c.dsp, c.aux, c.auxLen)] else []) ++ (if c.stat then [(c.dsp, c.stw, 8)] else [])

/-- R260, step 3. -/
def State.copySpaceBad (s : State) (launch core : Nat) (c : CopyOp) : Option Nat :=
  match c.ranges.find? (fun p => p.1 != .gl && !s.padOk launch core p.1 p.2.1 p.2.2) with
  | some p => some p.2.1
  | none =>
    if c.ssp == c.dsp && c.ssp != .gl && decide (c.src < c.dst + c.dstSpan) && decide (c.dst < c.src + c.srcSpan) then some c.dst else none

/-- R260, step 4. -/
def copyNomap (c : CopyOp) : Option Nat :=
  (c.ranges.find? (fun p => p.1 == .gl && decide (p.2.1 + p.2.2 > 2 ^ 48))).map (fun p => p.2.1)

/-- A core's own addresses as addresses of its cluster's memory. -/
def crToCm (core a : Nat) : Nat := core % 24 * crBytes + a
def CopyOp.placed (c : CopyOp) (core : Nat) : CopyOp :=
  let src (a : Nat) : Nat := if c.ssp = .cr then crToCm core a else a
  let dst (a : Nat) : Nat := if c.dsp = .cr then crToCm core a else a
  { c with
    ssp := if c.ssp = .cr then .cm else c.ssp, dsp := if c.dsp = .cr then .cm else c.dsp, src := src c.src, dst := dst c.dst
    aux := if c.srcAux then src c.aux else dst c.aux, stw := dst c.stw }

/-- One of the five instructions (R255, R260). -/
def copyWord (opc : Nat) (w : Ctl) (s : State) : Out :=
  ctlWord opc w s (fun gid second g r s =>
    let c := copyOf opc w g.regs
    let core := s.grpCore g
    if copyIll c (g.regs.greg (gReg w.a + 2)) then s.trapPlain gid r .illop
    else match copyMisaligned c with
    | some a => s.trapRun gid r .align r.mask (BitVec.ofNat 64 a) 0 0
    | none => match s.copySpaceBad g.launch core c with
      | some a => s.trapRun gid r .space r.mask (BitVec.ofNat 64 a) 0 0
      | none => match copyNomap c with
        | some a => s.trapRun gid r .nomap r.mask (BitVec.ofNat 64 a) 0 0
        | none => s.asyncWord gid second g (fNum w.d) 1 true (.copy (c.placed core)) .queued)
def execXcopy (w : Ctl) (s : State) : Out := copyWord 0x240 w s
def execXconv (w : Ctl) (s : State) : Out := copyWord 0x241 w s
def execXqa8 (w : Ctl) (s : State) : Out := copyWord 0x242 w s
def execXwht (w : Ctl) (s : State) : Out := copyWord 0x243 w s
def execTprep (w : Ctl) (s : State) : Out := copyWord 0x244 w s

/-! Elements (R261 to R267). -/

def byteAt (bs : List Byte) (i : Nat) : Nat := (bs.getD i 0).toNat
/-- Element i of a row of a dense code. -/
def elemOf (code : Nat) (bs : List Byte) (i : Nat) : Nat :=
  if code = 13 then byteAt bs (i / 2) / 16 ^ (i % 2) % 16 else natOfBytes ((bs.drop (codeSize code * i)).take (codeSize code))
/-- Elements as the bytes of a row. -/
def packElems (code : Nat) : List Nat → List Byte
  | [] => []
  | [x] => le (codeSize code) (if code = 13 then x % 16 else x)
  | x :: y :: xs =>
    if code = 13 then BitVec.ofNat 8 (x % 16 + 16 * (y % 16)) :: packElems code xs
    else le (codeSize code) x ++ le (codeSize code) y ++ packElems code xs

/-- The code of element i of a row of 17-byte Q4 blocks, and its block's scale (R80). -/
def q4Code (bs : List Byte) (i : Nat) : Nat := byteAt bs (17 * (i / 32) + i % 32 / 2) / 16 ^ (i % 2) % 16
def q4Scale (bs : List Byte) (i : Nat) : Nat := byteAt bs (17 * (i / 32) + 16)
/-- A Q4 element with its band scale: exact, but for an infinite or NaN scale (R262). -/
def q4Elem (bs : List Byte) (beta : Nat) (i : Nat) : FVal :=
  match fDec fmtBf16 beta with
  | .nan sig => .nan sig
  | b => mulEx (q4V (q4Code bs i) (q4Scale bs i)) b

/-- A value converted to a type as from FP32 (R262). -/
def cvtFrom (d : Ty) (md : Rnd) (sat : Bool) (v : FVal) : Nat × Flags :=
  if isFloat d then cvtFF (fmtOf d) (d == .f32) md sat v
  else let r := cvtFI (tyBits d) (isS d) md v; (r.1.toNat, r.2)

/-- A dense element widened to FP32, with its flags. -/
def widenElem (code : Nat) (x : Nat) : Nat × Flags :=
  if code = 8 then (x, flagIf (fSub fmtF32 x) fDN)
  else let r := cvt (codeTy code) .f32 .rne false (BitVec.ofNat 64 x); (r.1.toNat, r.2)

/-- A list of results with the flags joined. -/
def joinRes (rs : List (Nat × Flags)) : List Nat × Flags := (rs.map (·.1), rs.foldl (fun f r => f ||| r.2) 0)

/-- Block k of a row of dense elements in FP32, transformed if asked. -/
def whtBlock (code : Nat) (wht : Bool) (bs : List Byte) (k : Nat) : List Nat × Flags :=
  let x := joinRes ((List.range 32).map (fun i => widenElem code (elemOf code bs (32 * k + i))))
  if wht then let y := walsh32 x.1; (y.1, x.2 ||| y.2) else x

/-- One quantised block: its scale, its values as bytes, the flags, whether it is a NaN block (R264). -/
def quantBlock (code : Nat) (wht : Bool) (bs : List Byte) (k : Nat) : Byte × List Byte × Flags × Bool :=
  let x := whtBlock code wht bs k
  let q := xqa8Block x.1
  (BitVec.ofNat 8 q.1, q.2.1.map (BitVec.ofInt 8), x.2 ||| q.2.2, q.1 == 0xFF)

/-- What one step of an operation gives: destination bytes, scale bytes, flags, NaN blocks. -/
structure RowRes where
  out : List Byte
  scales : List Byte
  fl : Flags
  nans : Nat

/-- A row from its source bytes and the source's scale bytes. -/
def CopyOp.rowOut (c : CopyOp) (bs sc : List Byte) : RowRes :=
  let md : Rnd := match (c.imm.extractLsb' 8 2).toNat with
    | 0 => .rne | 1 => .rtz | 2 => .rdn | _ => .rup
  let sat := c.imm.getLsbD 10
  let dt := codeTy c.dstCode
  let nb := c.cols / 32
  match c.opc.toNat with
  | 0x240 => { out := bs, scales := [], fl := 0, nans := 0 }
  | 0x241 =>
    let one (i : Nat) : Nat × Flags :=
      if c.srcCode = 14 then
        let r := cvtFrom dt md sat (q4Elem bs (natOfBytes sc) i)
        (r.1, r.2 ||| flagIf (q4Code bs i % 8 == 1) fDN)
      else if c.srcCode = 15 then cvtFrom dt md sat (a8V (byteAt bs i) (byteAt sc (i / 32)))
      else let r := cvt (codeTy c.srcCode) dt md sat (BitVec.ofNat 64 (elemOf c.srcCode bs i)); (r.1.toNat, r.2)
    let r := joinRes ((List.range c.cols).map one)
    { out := packElems c.dstCode r.1, scales := [], fl := r.2, nans := 0 }
  | 0x242 =>
    let qs := (List.range nb).map (quantBlock c.srcCode c.wht bs)
    let vals := qs.flatMap (fun q => q.2.1)
    let scs := qs.map (fun q => q.1)
    let row := vals ++ scs
    let fl := qs.foldl (fun f q => f ||| q.2.2.1) 0
    let nans := (qs.filter (fun q => q.2.2.2)).length
    if c.canon then { out := row ++ List.replicate (a8Row nb - row.length) 0, scales := [], fl := fl, nans := nans }
    else { out := vals, scales := scs, fl := fl, nans := nans }
  | _ =>
    let one (k : Nat) : List Nat × Flags :=
      let x := whtBlock c.srcCode true bs k
      if c.dstCode = 8 then x
      else
        let y := joinRes (x.1.map (fun v => cvtFF (fmtOf dt) false .rne false (fDec fmtF32 v)))
        (y.1, x.2 ||| y.2)
    let rs := (List.range nb).map one
    { out := packElems c.dstCode (rs.flatMap (·.1)), scales := [], fl := rs.foldl (fun f r => f ||| r.2) 0, nans := 0 }

/-- tprep_group (R266): the record of Table 9-8, from a 17-byte block and its band scale. -/
def tprepRecord (blk : List Byte) (beta : Nat) : List Byte :=
  let h (j : Nat) : Int := halfUnit (q4Code blk j)
  let pi : List Nat := (List.range 25).flatMap (fun (v : Nat) => (List.range 32).filter (fun j => h j == (v : Int) - 12))
  let u (i : Nat) : Int := h (pi.getD i 0)
  let steps := (List.range 31).filter (fun i => u (i + 1) != u i)
  let step (n : Nat) : Nat := match steps[n]? with
    | some i => (i + 1) * 32 + (u (i + 1) - u i).toNat
    | none => 0
  let perm := (List.range 32).foldr (fun i acc => pi.getD i 0 + 32 * acc) 0
  let stepsN := (List.range 15).foldr (fun n acc => step n + 1024 * acc) 0
  le 48 (perm + stepsN * 2 ^ 160 + (u 0 % 32).toNat * 2 ^ 310 + byteAt blk 16 * 2 ^ 315 + beta * 2 ^ 323)

/-! The engine (R255, R257, R268 to R271). -/

/-- The steps of an operation: rows, or slot images. -/
def CopyOp.steps (c : CopyOp) : Nat := if c.opc = 0x244 then c.rows / 64 * (c.cols / 32) else c.rows
def copyOfKind : AKind → Option CopyOp
  | .copy c => some c
  | _ => none

/-- The source ranges of a step, in order, and its destination ranges. -/
def CopyOp.reads (c : CopyOp) (k : Nat) : List (Nat × Nat) :=
  let nb := c.cols / 32
  if c.opc = 0x244 then
    (List.range 64).map (fun r => (c.src + (64 * (k / nb) + r) * c.sstr + 17 * (k % nb), 17)) ++ [(c.aux + 2 * (k / nb), 2)]
  else [(c.src + k * c.sstr, c.srcRow)] ++
    (if c.srcCode = 14 then [(c.aux + 2 * (k / 64), 2)] else if c.srcCode = 15 then [(c.aux + k * nb, nb)] else [])
def CopyOp.writes (c : CopyOp) (k : Nat) : List (Nat × Nat) :=
  if c.opc = 0x244 then [(c.dst + 3072 * k, 3072)]
  else (c.dst + k * c.dstr, c.dstRow) :: (if c.dstAux then [(c.aux + k * (c.cols / 32), c.cols / 32)] else [])

/-- The first failure among page checks of ranges. -/
def State.chkAll (s : State) (o : AOp) (n : Need) (rs : List (Nat × Nat)) : Option Tr :=
  rs.findSome? (fun p => match s.engineChk o.cluster o.ctx p.1 p.2 n with
    | .ok _ => none
    | x => some x)

/-! Scratchpad sides (R257, R269): sources are read and results written by pieces, in the banks' arrival order. -/

/-- The core at whose place the engine stands: quad 0 of its cluster, as a sequencer does (log entry 67). -/
def AOp.seat (o : AOp) : Nat := 24 * o.cluster
/-- Bytes cut to lengths. -/
def cutBytes : List Nat → List Byte → List (List Byte)
  | [], _ => []
  | n :: ns, bs => bs.take n :: cutBytes ns (bs.drop n)

/-- The source of a step in a scratchpad: its pieces leave, and once all are served their bytes are there. -/
def State.padFetch (s : State) (n : Nat) (o : AOp) (sp : Space) (rs : List (Nat × Nat)) : Option (List (List Byte)) × State :=
  let got := o.pieces.filter (fun x => !x.write)
  if got.isEmpty then
    (none, s.modAop n (fun o => { o with pieces := o.pieces ++ rs.flatMap (fun p => readPieces o.seat sp s.pcc p.1 p.2) }))
  else if s.piecesDone got 0 then
    (some (cutBytes (rs.map (·.2)) (pieceBytes got)), s.modAop n (fun o => { o with pieces := o.pieces.filter (·.write) }))
  else (none, s)

/-- The service of the pieces of one operation that arrived in one cycle. -/
def State.aopServe (s : State) (n arr : Nat) (t : List RowUse) : State × List RowUse :=
  match s.aops.get? n with
  | none => (s, t)
  | some o =>
    let (s, t, ps) := s.servePieces o.seat (2 ^ 65 + n) arr t o.pieces
    (s.modAop n (fun o => { o with pieces := ps }), t)

/-- Whether ranges of one operation's source and of another's destination meet in a scratchpad. -/
def copyMeets (cr : Nat) (r : CopyOp) (cw : Nat) (w : CopyOp) : Bool :=
  let src := (r.src, r.srcSpan) :: (if r.srcAux then [(r.aux, r.auxLen)] else [])
  let dst := (w.dst, w.dstSpan) :: ((if w.dstAux then [(w.aux, w.auxLen)] else []) ++ (if w.stat then [(w.stw, 8)] else []))
  let key (cl : Nat) (sp : Space) (a : Nat) : Nat := padKey (24 * cl) 0 0 sp a
  r.ssp == w.dsp && r.ssp != .gl && src.any (fun p => dst.any (fun q =>
    decide (key cr r.ssp p.1 < key cw w.dsp q.1 + q.2) && decide (key cw w.dsp q.1 < key cr r.ssp p.1 + p.2)))

/-- The copy operations in progress. -/
def State.copiesOn (s : State) : List (Nat × AOp × CopyOp) :=
  s.aops.filterMap (fun p => match copyOfKind p.2.kind with
    | some c => if p.2.stage == .queued then none else some (p.1, p.2, c)
    | none => none)

/-- Whether an operation in progress still reads bytes that a destination holds: its writes wait, so that no operation observes its own destination writes or
those of another operation in progress (R257). -/
def State.copyRead (s : State) (o : AOp) (c : CopyOp) : Bool :=
  s.copiesOn.any (fun p => decide (p.2.1.chunk < p.2.2.steps) && copyMeets p.2.1.cluster p.2.2 o.cluster c)

/-- Whether an operation in progress writes bytes that a source holds: the reader starts when it is over. -/
def State.copyWritten (s : State) (o : AOp) (c : CopyOp) : Bool := s.copiesOn.any (fun p => copyMeets o.cluster c p.2.1.cluster p.2.2)

/-- The buffer that gathers an operation's flags and NaN blocks. -/
def statKey : Nat := 2 ^ 51
def AOp.stat (o : AOp) : Nat := match o.buf statKey with
  | some bs => natOfBytes bs
  | none => 0
def joinStat (x : Nat) (fl : Flags) (nans : Nat) : Nat := ((x % 128) ||| fl.toNat) + (x / 2 ^ 32 + nans) * 2 ^ 32

/-- The result of a step. -/
def CopyOp.stepOut (c : CopyOp) (srcs : List (List Byte)) : RowRes :=
  if c.opc = 0x244 then
    { out := (srcs.take 64).flatMap (fun b => tprepRecord b (natOfBytes (srcs.getD 64 []))), scales := [], fl := 0, nans := 0 }
  else c.rowOut (srcs.getD 0 []) (srcs.getD 1 [])

/-- A step whose data is there: its destination bytes wait for their place; its flags join. -/
def State.copyPut (s : State) (n : Nat) (o : AOp) (c : CopyOp) (srcs : List (List Byte)) : State :=
  let r := c.stepOut srcs
  s.modAop n (fun x => { ((x.dropLines (fun _ => true)).putBuf statKey (le 8 (joinStat x.stat r.fl r.nans))) with
    chunk := x.chunk + 1, outs := x.outs ++ ((c.writes o.chunk).zip [r.out, r.scales]).map (fun p => (p.1.1, p.2)) })

/-- One step of an operation in progress: its pages are checked, then it reads and computes. -/
def State.copyRow (s : State) (n : Nat) (o : AOp) (c : CopyOp) : State :=
  let rd := c.reads o.chunk
  let bad := (if c.ssp = .gl then s.chkAll o (needLoad 1) rd else none).or
    (if c.dsp = .gl then s.chkAll o (needStore 1) (c.writes o.chunk) else none)
  match bad with
  | some (.bad k) => s.endAop n (.failed k)
  | some (.park pg) => s.parkAop n o pg
  | _ =>
    let (v, s) := if c.ssp = .gl then s.engineFetch n false rd else s.padFetch n o c.ssp rd
    match v with
    | some srcs => s.copyPut n o c srcs
    | none => s

/-- Results that wait go to their place: to the log as shadow records, to a scratchpad's banks in place (R268, R269). -/
def State.putOuts (s : State) (n : Nat) (o : AOp) (c : CopyOp) : State :=
  if c.dsp = .gl then s.appendOuts n o.cluster o
  else s.modAop n (fun x => { x with
    outs := [], pieces := x.pieces.filter (fun y => !y.write || !s.piecesDone [y] 0) ++ x.outs.flatMap (fun p => writePieces x.seat c.dsp s.pcc p.1 p.2) })

/-- The status word follows every destination byte (R263). -/
def State.copyStat (s : State) (n : Nat) (o : AOp) (c : CopyOp) : State :=
  match if c.dsp == .gl then s.chkAll o (needStore 8) [(c.stw, 8)] else none with
  | some (.bad k) => s.endAop n (.failed k)
  | some (.park pg) => s.parkAop n o pg
  | _ => s.modAop n (fun x => { x with chunk := x.chunk + 1, outs := [(c.stw, le 8 x.stat)] })

/-- The next step of an operation: results that may go to their place do; then the next row; then the status word; then a scratchpad operation is DONE and a `.gl`
one publishes. -/
def State.copyStep (s : State) (n : Nat) (o : AOp) (c : CopyOp) : State :=
  if !o.outs.isEmpty && (c.dsp == .gl || !s.copyRead o c) then s.putOuts n o c
  else if decide (o.chunk < c.steps) && (c.dsp != .gl || o.outs.isEmpty) then s.copyRow n o c
  else if !o.outs.isEmpty || !s.piecesDone o.pieces 0 then s
  else if c.stat && o.chunk == c.steps then s.copyStat n o c
  else if c.dsp = .gl then s.lodgeShadow n o.cluster o
  else s.endAop n .ok

/-- Operations of a cluster's engine in progress. -/
def State.copyBusy (s : State) (cl : Nat) : Nat :=
  (s.aops.filter (fun p => p.2.cluster == cl && (copyOfKind p.2.kind).isSome && p.2.stage != .queued)).length

/-- COPY_OP_START: the oldest queued operation starts once its group's earlier accesses have performed; the source range leaves the LIB. -/
def execCopyOpStart (cluster : Nat) (s : State) : Out :=
  match s.aops.find? (fun p => p.2.cluster == cluster && (copyOfKind p.2.kind).isSome && p.2.stage == .queued) with
  | none => .next s
  | some (n, o) => match copyOfKind o.kind with
    | none => .next s
    | some c =>
      let ready := match o.gid with
        | some gid => s.accessesDone gid n
        | none => true
      if ready && decide (s.copyBusy cluster < 4) && !s.copyWritten o c then
        let hit (leaf : Nat) (a len : Nat) : Bool := decide (leafAddr leaf < a + len) && decide (a < leafAddr leaf + 4096)
        let drop (leaf : Nat) : Bool := leafCtx leaf == o.ctx && (hit leaf c.src c.srcSpan || (c.srcAux && hit leaf c.aux c.auxLen))
        let s := if c.ssp = .gl then s.libDiscard cluster drop else s
        .next (s.modAop n (fun o => { o with stage := .running }))
      else .next s

/-- COPY_OP_COMPLETE: the next step of an operation in progress, its last one, or the commit of its result. -/
def execCopyOpComplete (op : Nat) (s : State) : Out :=
  match s.aops.get? op with
  | none => .next s
  | some o => match copyOfKind o.kind, o.stage with
    | some c, .running => .next (s.copyStep op o c)
    | some _, .publishing q => if s.reqSt q == .complete then .next (s.endAop op .ok) else .next s
    | _, _ => .next s

end Sys2Proof.Machine
end

