-- ==== Sys2Proof/Machine/Query.lean ====
section
/-! DEFINITION. The table-query engine: the directory, TLOAD, TFREE, TQ and TQ2 with their packets, TMAP (R316 to R331). -/

namespace Sys2Proof.Machine

/-! The directory (R317, R318). -/

def Table.free : Table := { st := .free, old := .free, seen := BitVec.allOnes 32, wide := false, count := 0, loc := none, frame := 256 }
/-- A directory entry of a context. -/
def State.table (s : State) (c n : Nat) : Table := ((s.ctx? c).bind (fun x => x.tables.get? n)).getD Table.free
def State.setTable (s : State) (c n : Nat) (t : Table) : State := s.modCtx c (fun x => { x with tables := x.tables.set n t })
/-- The state that a die's directory cache shows. -/
def Table.view (t : Table) (die : Nat) : TabSt := if t.seen.getLsbD die then t.st else t.old
/-- R318. -/
def Table.usable (t : Table) (die : Nat) : Bool :=
  t.view die == .ready && (match t.loc with
  | none => true
  | some k => k == dieStack die)
/-- A state change that has reached one die's cache, and one that has reached every die's. -/
def Table.to (t : Table) (st : TabSt) (die : Nat) : Table := { t with old := t.st, st := st, seen := BitVec.ofNat 32 (2 ^ die) }
def Table.spread (t : Table) : Table := { t with old := t.st, seen := BitVec.allOnes 32 }

def tableNo (w : Ctl) : Nat := (w.imm.extractLsb' 0 8).toNat
/-- DETAIL0 of TQBAD. -/
def tqDetail (n : Nat) : Dword := BitVec.ofNat 64 n

/-- The first byte of a table's entries in a stack copy. -/
def frameBase (stack frame : Nat) : Nat := (stack * 256 + frame) * 8192
/-- Entry i of a table, as a stack holds it. -/
def State.tableEntry (s : State) (stack : Nat) (frame : Nat) (wide : Bool) (i : Nat) : Nat :=
  if wide then s.mems.frame.readLE (frameBase stack frame + 4 * i) 4 else s.mems.frame.readLE (frameBase stack frame + 2 * i) 2

/-! TLOAD (R320). -/

/-- TLOAD at issue. -/
def execTload (w : Ctl) (s : State) : Out :=
  ctlWord 0x260 w s (fun gid second g r s =>
    let n := tableNo w
    let wide := w.mod.getLsbD 0
    let cm := w.mod.getLsbD 2
    let a := (readGr g.regs w.a).toNat
    let count := (readGr g.regs w.b).toNat
    let size := if wide then 4 else 2
    let die := clusterDie (s.grpCluster g)
    let bad (c : Cause) (d : Nat) : State := s.trapRun gid r c r.mask (BitVec.ofNat 64 d) 0 0
    if (s.table g.ctx n).st != .free || count == 0 || decide (count > (if wide then 2048 else 4096)) then bad .tqbad n
    else if a % size ≠ 0 then bad .align a
    else if cm && !s.padOk g.launch (s.grpCore g) .cm a (count * size) then bad .space a
    else if !cm && decide (a + count * size > 2 ^ 48) then bad .nomap a
    else match s.startAop gid g (fNum w.d) 2 true (.tload n a cm) .queued with
      | none => s.waitFuture gid second
      | some (s, _) =>
        s.setTable g.ctx n { ({ Table.free with wide := wide, count := count, loc := if w.mod.getLsbD 1 then some (dieStack die) else none } : Table) with
          st := .loading })

/-- A frame index free in every stack of a table (R320). -/
def State.freeFrame (s : State) (ks : List Nat) : Option Nat :=
  (List.range 256).find? (fun f => ks.all (fun k => !decide (f ∈ (s.stack k).frames)))

/-- The image read, every copy is written and the table is READY, first at the die that loads it. -/
def State.tloadPut (s : State) (n : Nat) (o : AOp) (tab : Nat) (bs : List Byte) : State :=
  let t := s.table o.ctx tab
  match s.freeFrame t.stacks with
  | none => s.endAop n (.failed .tqbad)
  | some f =>
    let put (s : State) (k : Nat) : State :=
      let s := s.modStack k (fun x => { x with frames := x.frames ++ [f] })
      s.setMems { s.mems with frame := (s.mems.frame.clear (frameBase k f) 8192).writeBytes (frameBase k f) bs }
    let s := t.stacks.foldl put s
    (s.setTable o.ctx tab ({ t with frame := f }.to .ready (clusterDie o.cluster))).modAop n (fun o => { o with stage := .holding })

/-- TLOAD in progress: the image's pages are checked, its bytes read. -/
def State.tloadStep (s : State) (n : Nat) (o : AOp) (tab image : Nat) (cm : Bool) : State :=
  let t := s.table o.ctx tab
  let len := t.count * (if t.wide then 4 else 2)
  match if cm then none else s.chkAll o (needLoad 1) [(image, len)] with
  | some (.bad c) => s.endAop n (.failed c)
  | some (.park pg) => s.parkAop n o pg
  | _ =>
    let (v, s) := if cm then s.padFetch n o .cm [(image, len)] else s.engineFetch n false [(image, len)]
    match v with
    | some bs => s.tloadPut n o tab bs.flatten
    | none => s

/-- TLOAD_COMPLETE: the wait for the group's earlier accesses, the load, the directory change at every die. -/
def execTloadComplete (op : Nat) (s : State) : Out :=
  match s.aops.get? op with
  | none => .next s
  | some o => match o.kind, o.stage with
    | .tload tab image cm, .queued =>
      let ready := match o.gid with
        | some gid => s.accessesDone gid op
        | none => true
      if ready then
        let t := s.table o.ctx tab
        let len := t.count * (if t.wide then 4 else 2)
        let hit (leaf : Nat) : Bool := leafCtx leaf == o.ctx && decide (leafAddr leaf < image + len) && decide (image < leafAddr leaf + 4096)
        let s := if cm then s else s.libDiscard o.cluster hit
        .next (s.modAop op (fun o => { o with stage := .running }))
      else .next s
    | .tload tab image cm, .running => .next (s.tloadStep op o tab image cm)
    | .tload tab _ _, .holding => .next ((s.setTable o.ctx tab (s.table o.ctx tab).spread).endAop op .ok)
    | _, _ => .next s

/-! TFREE (R321). -/

/-- TFREE at issue. -/
def execTfree (w : Ctl) (s : State) : Out :=
  ctlWord 0x264 w s (fun gid second g r s =>
    let n := tableNo w
    let t := s.table g.ctx n
    if t.st != .ready then s.trapRun gid r .tqbad r.mask (tqDetail n) 0 0
    else match s.startAop gid g (fNum w.d) 2 true (.tfree n) .running with
      | none => s.waitFuture gid second
      | some (s, _) => s.setTable g.ctx n (t.spread.to .freeing (clusterDie (s.grpCluster g))))

/-- Whether a table of a context is still in use: by a packet in flight, or by a TMAP. -/
def State.tableBusy (s : State) (c n : Nat) : Bool :=
  s.pkts.any (fun p => p.2.ctx == c && p.2.table == n) ||
  s.aops.any (fun p => p.2.ctx == c && (match p.2.kind with
    | .tmap t _ _ _ _ => t == n
    | _ => false))

/-- TFREE_COMPLETE: FREEING reaches every die, the table's users end, its frames return. It completes whether or not it was cancelled. -/
def execTfreeComplete (op : Nat) (s : State) : Out :=
  match s.aops.get? op with
  | none => .next s
  | some o => match o.kind with
    | .tfree n =>
      let t := s.table o.ctx n
      if t.seen != BitVec.allOnes 32 then .next (s.setTable o.ctx n t.spread)
      else if s.tableBusy o.ctx n then .next s
      else .next ((s.dropTable o.ctx n).endAop op .ok)
    | _ => .next s

/-! TQ, TQ2 (R322, R323). -/

/-- The index of a lane. -/
def tqIndex (two : Bool) (rg : Regs) (w : Ctl) (l : Nat) : Nat :=
  let a := ((readLane rg .b32 w.a l).setWidth 32).toNat
  if two then
    let sh := (w.mod.extractLsb' 8 4).toNat
    a % 2 ^ (12 - sh) * 2 ^ sh + ((readLane rg .b32 w.b l).setWidth 32).toNat % 2 ^ sh
  else a

/-- The return route of a packet: die, cluster, core and context, 8 bits each from bit 16 up; Table 12-3 gives the field and its parts, not their places
(log entry 68). -/
def tqRoute (core slot : Nat) : Nat := clusterDie (coreCluster core) + 256 * (coreCluster core % 8) + 65536 * (core % 24) + 2 ^ 24 * slot
def ctxSlot (g : Group) : Nat := match g.place with
  | .resident _ k => k
  | .saving _ k => k
  | _ => 0
/-- A request packet (Table 12-3): its 16-byte header and 64 slots of 16 bits, zero for a lane that did not call. -/
def tqRequest (frame : Nat) (wide sx : Bool) (j : BitVec 3) (route : Nat) (m : Lanes) (ix : Nat → Nat) : List Byte :=
  le 16 (frame % 256 + (if wide then 256 else 0) + (if sx then 512 else 0) + 1024 * j.toNat + 2 ^ 16 * route + 2 ^ 64 * m.toNat) ++
  (List.range 64).flatMap (fun l => le 2 (if m.getLsbD l then ix l % 4096 else 0))
/-- The fields of a packet's header. -/
def TqPkt.hdr (p : TqPkt) : Nat := natOfBytes (p.req.take 16)
def TqPkt.frame (p : TqPkt) : Nat := p.hdr % 256
def TqPkt.wide (p : TqPkt) : Bool := p.hdr.testBit 8
def TqPkt.sx (p : TqPkt) : Bool := p.hdr.testBit 9
def TqPkt.j (p : TqPkt) : BitVec 3 := BitVec.ofNat 3 (p.hdr / 1024)
def TqPkt.lanes (p : TqPkt) : Lanes := BitVec.ofNat 64 (p.hdr / 2 ^ 64)
def TqPkt.idx (p : TqPkt) (l : Nat) : Nat := natOfBytes ((p.req.drop (16 + 2 * l)).take 2)

/-- One query word. -/
def tqWord (opc : Nat) (two : Bool) (w : Ctl) (s : State) : Out :=
  ctlWord opc w s (fun gid second g r s =>
    let n := tableNo w
    let t := s.table g.ctx n
    let die := clusterDie (s.grpCluster g)
    let lanes := lanesOf (r.mask &&& g.regs.creg (w.mod.extractLsb' 4 3).toNat)
    let ix (l : Nat) : Nat := tqIndex two g.regs w l
    if !t.usable die then s.trapRun gid r .tqbad r.mask (tqDetail n) 0 0
    else match lanes.filter (fun l => decide (t.count ≤ ix l)) with
    | l :: ls => s.trapRun gid r .tqbad (maskOf (l :: ls)) (tqDetail (n + 256 + ix l * 2 ^ 32)) 0 0
    | [] =>
      if lanes.isEmpty then s
      else
        let j := w.imm.extractLsb' 8 3
        let m := maskOf lanes
        let p : TqPkt := { gid := gid, pc := wordPc r.pc r.idx, ofs := r.idx, ctx := g.ctx, table := n, stack := dieStack die, die := die, dest := vReg w.d
                           req := tqRequest t.frame t.wide (w.mod.getLsbD 7) j (tqRoute (s.grpCore g) (ctxSlot g)) m ix, chan := none, reply := none
                           err := 0 }
        let (k, s) := s.newNum
        let s := { s with pkts := s.pkts.set k p }.tally die 161
        (s.modGrp gid (fun g => { g with regs := g.regs.setJ j.toNat (g.regs.jreg j.toNat &&& ~~~m) })).modRun gid second (fun r =>
          { r with caller := r.caller ||| m, callMask := j }))
def execTq (w : Ctl) (s : State) : Out := tqWord 0x261 false w s
def execTq2 (w : Ctl) (s : State) : Out := tqWord 0x262 true w s

/-! Channels and packets (R329, R330, R436). -/

def chanKey (stack c : Nat) : Nat := stack * 64 + c
/-- A channel that can serve now. -/
def State.chanAwake (s : State) (k : Nat) : Bool := (s.chan k).st == .active
/-- The exit latency of a channel's state. -/
def exitLat : ChSt → Nat
  | .active => 0 | .powerDown => 24 | .selfRefresh => 480
/-- A request reaches a channel: a sleeping one starts to wake, once the 16 cycles of its entry are over (R436); every request restarts the idle timer (R330). -/
def State.touchChan (s : State) (k : Nat) : State :=
  s.modChan k (fun c =>
    if c.st = .active then { c with idleFrom := s.pcc }
    else match c.wakeAt with
      | some _ => c
      | none => { c with wakeAt := some (BitVec.ofNat 64 (max s.now (c.idleFrom.toNat + 16) + exitLat c.st)) })

/-- The channel that takes a die's next packet: the first awake one after the one that its agent used last, or else the next one (R330). -/
def State.pickChan (s : State) (stack die : Nat) : Nat :=
  let order := (List.range 64).map (fun i => ((s.die die).lastChan + 1 + i) % 64)
  match order.find? (fun c => s.chanAwake (chanKey stack c)) with
  | some c => c
  | none => order.headD 0

/-- The reply packet (Table 12-3): the request's header, the error mask, and 64 slots of 32 bits, zero for an invalid slot or a lane in error. -/
def State.pktReply (s : State) (p : TqPkt) : TqPkt :=
  { p with reply := some (p.req.take 16 ++ le 8 p.err.toNat ++ (List.range 64).flatMap (fun l =>
      le 4 (if p.lanes.getLsbD l && !p.err.getLsbD l then s.tableEntry p.stack p.frame p.wide (p.idx l) else 0))) }

/-- TQ_PACKET_SERVE: the die agent sends the packet to a channel; an awake channel answers it. -/
def execTqPacketServe (pkt : Nat) (s : State) : Out :=
  match s.pkts.get? pkt with
  | none => .next s
  | some p =>
    if p.reply.isSome then .next s
    else match p.chan with
    | none =>
      let c := s.pickChan p.stack p.die
      let s := (s.touchChan (chanKey p.stack c)).modDie p.die (fun k => { k with lastChan := c })
      .next { s with pkts := s.pkts.set pkt { p with chan := some c } }
    | some c =>
      if s.chanAwake (chanKey p.stack c) then
        let s := s.touchChan (chanKey p.stack c)
        .next { s with pkts := s.pkts.set pkt (s.pktReply p) }
      else .next (s.touchChan (chanKey p.stack c))

/-- The value of a lane's destination (R324). -/
def TqPkt.value (p : TqPkt) (x : Word) : Word :=
  if p.wide then x else if p.sx then (x.extractLsb' 0 16).signExtend 32 else (x.extractLsb' 0 16).setWidth 32

/-- TQ_REPLY: destinations are written; a lane whose last reply has landed gets its bit. An uncorrectable error leaves its lane's destination as it
was, and traps HWERR, deferred, when its lanes return (R327). -/
def execTqReply (pkt : Nat) (s : State) : Out :=
  match s.pkts.get? pkt with
  | none => .next s
  | some p => match p.reply with
    | none => .next s
    | some bs =>
      let s := { s with pkts := s.pkts.erase pkt }
      let rest (l : Nat) : Bool := s.pkts.any (fun q => q.2.gid == p.gid && q.2.lanes.getLsbD l)
      let err : Lanes := BitVec.ofNat 64 (natOfBytes ((bs.drop 16).take 8))
      let slot (l : Nat) : Word := BitVec.ofNat 32 (natOfBytes ((bs.drop (24 + 4 * l)).take 4))
      let put (rg : Regs) (l : Nat) : Regs := if err.getLsbD l then rg else rg.setV p.dest l (p.value (slot l))
      let bits := maskOf ((lanesOf p.lanes).filter (fun l => !rest l))
      let t : Trap := { cause := .hwerr, deferred := true, ofs := p.ofs, wpc := p.pc, mask := 0, lanes := err, detail0 := 0, detail1 := 0, detail2 := 0
                        req := none }
      .next (s.modGrp p.gid (fun g =>
        let rg := (lanesOf p.lanes).foldl put g.regs
        { g with
          regs := rg.setJ p.j.toNat (rg.jreg p.j.toNat ||| bits)
          tqErrs := if err = 0 then g.tqErrs else g.tqErrs ++ [(p.j, t)] }))

/-! TMAP (R328). -/

/-- TMAP at issue. -/
def execTmap (w : Ctl) (s : State) : Out :=
  ctlWord 0x263 w s (fun gid second g r s =>
    let n := tableNo w
    let a := readGr g.regs w.a
    let b := readGr g.regs w.b
    let half := w.mod.getLsbD 0
    let size := if half then 2 else 1
    if !(s.table g.ctx n).usable (clusterDie (s.grpCluster g)) then s.trapRun gid r .tqbad r.mask (tqDetail n) 0 0
    else if a.toNat % size ≠ 0 ∨ b.toNat % size ≠ 0 then s.trapRun gid r .align r.mask a 0 0
    else if rangeEnd a b > 2 ^ 48 then s.trapRun gid r .nomap r.mask a 0 0
    else if b = 0 then s.asyncNow gid second g (fNum w.d) 2 true .ok
    else s.asyncWord gid second g (fNum w.d) 2 true (.tmap n a.toNat b.toNat half (w.mod.extractLsb' 1 4).toNat) .queued)

/-- The log of a stack's table-map writer (R10). -/
def tmapLog (cl : Nat) : Nat := 258 + 4 * clusterStack cl

/-- The new bytes of a piece of the range, or none where an index is not below COUNT. -/
def State.tmapBytes (s : State) (t : Table) (stack : Nat) (half : Bool) (rsh : Nat) (bs : List Byte) : Option (List Byte) :=
  let size := if half then 2 else 1
  let xs := (List.range (bs.length / size)).map (fun i => natOfBytes ((bs.drop (size * i)).take size) / 2 ^ rsh)
  if xs.any (fun x => decide (t.count ≤ x)) then none
  else some (xs.flatMap (fun x => le size (s.tableEntry stack t.frame t.wide x)))

/-- TMAP in progress: the next line's part of the range is read at its home and its new bytes appended as shadow records; at the end they are published in one
publication. `chunk` counts the bytes done. -/
def State.tmapStep (s : State) (n : Nat) (o : AOp) (tab base len : Nat) (half : Bool) (rsh : Nat) : State :=
  if !o.outs.isEmpty then s.appendOuts n (tmapLog o.cluster) o
  else if len ≤ o.chunk then s.lodgeShadow n (tmapLog o.cluster) o
  else
    let a := base + o.chunk
    let k := min (len - o.chunk) (256 - a % 256)
    match s.engineChk o.cluster o.ctx a k { rd := true, wr := true, ex := false, atom := false, width := 1 } with
    | .bad c => s.endAop n (.failed c)
    | .park pg => s.parkAop n o pg
    | .ok _ => match s.engineFetch n true [(a, k)] with
      | (none, s) => s
      | (some ds, s) =>
        match s.tmapBytes (s.table o.ctx tab) (clusterStack o.cluster) half rsh ds.flatten with
        | none => s.endAop n (.failed .tqbad)
        | some bs => s.modAop n (fun o => { (o.dropLines (fun _ => true)) with outs := [(a, bs)], chunk := o.chunk + k })

/-- TMAP_COMPLETE: the wait for the group's accesses, the publication of the cluster's lines of the range, the elements, the result. -/
def execTmapComplete (op : Nat) (s : State) : Out :=
  match s.aops.get? op with
  | none => .next s
  | some o => match o.kind, o.stage with
    | .tmap _ base len _ _, .queued =>
      let ready := match o.gid with
        | some gid => s.accessesDone gid op
        | none => true
      if ready then
        let (q, s) := s.lodge o.cluster o.ctx o.gid (.range base len) [] 0
        .next (s.modAop op (fun o => { o with stage := .prePub q }))
      else .next s
    | .tmap _ _ _ _ _, .prePub q =>
      if s.reqSt q == .complete then .next (s.modAop op (fun o => { o with stage := .running })) else .next s
    | .tmap tab base len half rsh, .running => .next (s.tmapStep op o tab base len half rsh)
    | .tmap _ _ _ _ _, .publishing q => if s.reqSt q == .complete then .next (s.endAop op .ok) else .next s
    | _, _ => .next s

end Sys2Proof.Machine
end

