-- ==== Sys2Proof/Machine/Landing.lean ====
section
/-! DEFINITION. The reduction and landing engine: parameter blocks, reductions, collectives, results and flags (R332 to R348). -/

namespace Sys2Proof.Machine

/-! The parameter block (R333, R334). -/

/-- The fields of a block's 64 bytes (Table 13-1). -/
def landBlkOf (bs : List Byte) : LandBlk :=
  let d (i : Nat) : BitVec 64 := BitVec.ofNat 64 (natOfBytes ((bs.drop (8 * i)).take 8))
  { nsrc := ((d 0).extractLsb' 16 6).toNat, order := (d 0).extractLsb' 13 2, sat := (d 0).getLsbD 12, fmt := (d 0).extractLsb' 8 4
    op := (d 0).extractLsb' 0 8, nelem := ((d 1).extractLsb' 0 28).toNat, src := (d 2).toNat, dst := (d 3).toNat, flag := (d 4).toNat, fval := d 5
    stw := (d 6).toNat, self := (d 7).getLsbD 44, modn := (d 7).extractLsb' 32 12, rank := ((d 7).extractLsb' 16 6).toNat
    tag := (d 7).extractLsb' 0 16 }

/-- The reserved bits of a block are zero. -/
def landReserved (bs : List Byte) : Bool :=
  let d (i : Nat) : BitVec 64 := BitVec.ofNat 64 (natOfBytes ((bs.drop (8 * i)).take 8))
  (d 0).extractLsb' 22 42 == 0 && !(d 0).getLsbD 15 && (d 1).extractLsb' 28 36 == 0 && (d 7).extractLsb' 45 19 == 0 && (d 7).extractLsb' 22 10 == 0

def landTy (b : LandBlk) : Ty := (tyOf b.fmt).getD .b8
def LandBlk.esize (b : LandBlk) : Nat := tyBits (landTy b) / 8
def LandBlk.size (b : LandBlk) : Nat := b.nelem * b.esize

/-- The three roles of a block. -/
inductive LandRole where
  | landr | arm | put
  deriving DecidableEq, Repr

/-- R334, step 1, without the check of an armed TAG. -/
def landIll (role : LandRole) (bs : List Byte) (b : LandBlk) : Bool :=
  !landReserved bs || decide (2 < b.op.toNat) || b.order == 3 || !decide (b.fmt.toNat ∈ [4, 5, 6, 7, 8, 10]) || b.nelem == 0 ||
  (b.order == 0) != (b.flag == 0) || (b.sat && (b.op != 0 || decide (8 ≤ b.fmt.toNat))) ||
  match role with
  | .landr => b.rank != 0 || b.modn != 0 || b.self || b.tag != 0
  | .arm => b.rank != 0 || b.modn != 0 || b.self || b.src != 0
  | .put => decide (b.nsrc < b.rank) || b.dst != 0 || (b.self && b.modn != 0)

/-- R334, steps 2 and 3. -/
def landAlign (role : LandRole) (b : LandBlk) : Bool :=
  b.flag % 8 != 0 || b.stw % 8 != 0 || b.dst % b.esize != 0 ||
  match role with
  | .landr => b.src % 8 != 0
  | .arm => false
  | .put => b.src % b.esize != 0
def landNomap (role : LandRole) (b : LandBlk) : Bool :=
  decide (b.flag + 8 > 2 ^ 48) || decide (b.stw + 8 > 2 ^ 48) || decide (b.dst + b.size > 2 ^ 48) ||
  match role with
  | .landr => decide (b.src + 8 * (b.nsrc + 1) > 2 ^ 48)
  | .arm => false
  | .put => decide (b.src + b.size > 2 ^ 48)

/-- Whether a TAG is armed at its engine. -/
def armOf : AKind → Option LandBlk
  | .arm _ _ b => b
  | _ => none
def State.armFor (s : State) (tag : BitVec 16) : Option (Nat × AOp) := s.aops.find? (fun p => match armOf p.2.kind with
  | some b => b.tag == tag
  | none => false)

/-- The first check of R334 that a block fails. -/
def State.landCheckBlk (s : State) (role : LandRole) (bs : List Byte) (b : LandBlk) : Option Cause :=
  if landIll role bs b || (role == .arm && (s.armFor b.tag).isSome) then some .illop
  else if landAlign role b then some .align
  else if landNomap role b then some .nomap
  else none

/-! The instructions (R346, R347). -/

def landWord (opc : Nat) (w : Ctl) (s : State) (kind : Nat → Bool → AKind) : Out :=
  ctlWord opc w s (fun gid second g r s =>
    let cm := w.mod.getLsbD 0
    let a := (readGr g.regs w.a).toNat
    let bad (c : Cause) : State := s.trapRun gid r c r.mask (BitVec.ofNat 64 a) 0 0
    if a % 64 ≠ 0 then bad .align
    else if cm && !s.padOk g.launch (s.grpCore g) .cm a 64 then bad .space
    else if !cm && decide (a + 64 > 2 ^ 48) then bad .nomap
    else s.asyncWord gid second g (fNum w.d) 3 true (kind a cm) .queued)
def execLandr (w : Ctl) (s : State) : Out := landWord 0x270 w s (fun a cm => .landr a cm none)
/-- LANDC, role arm: role put stands in the same word with MOD bit 1. -/
def execLandcArm (w : Ctl) (s : State) : Out := landWord 0x271 w s (fun a cm => if w.mod.getLsbD 1 then .put a cm none else .arm a cm none)
def execLandcPut (w : Ctl) (s : State) : Out := landWord 0x271 w s (fun a cm => if w.mod.getLsbD 1 then .put a cm none else .arm a cm none)

/-! Reductions (R335 to R338). -/

/-- sum_pairwise with the flags of its adds (R96). -/
def pairUpFl : List Nat → List Nat × Flags
  | x :: y :: xs =>
    let r := add32 x y
    let t := pairUpFl xs
    (r.1 :: t.1, r.2 ||| dnOf [x, y] ||| t.2)
  | xs => (xs, 0)
def sumFl : Nat → List Nat → Nat × Flags
  | 0, xs => (xs.headD 0, 0)
  | _, [x] => (x, 0)
  | fuel + 1, xs =>
    let r := pairUpFl xs
    let t := sumFl fuel r.1
    (t.1, r.2 ||| t.2)

/-- A NaN of one lone source is canonical (R75, R335). -/
def canonNan (F : Fmt) (x : Nat) : Nat := if isNaN (fDec F x) then fNaN F else x

/-- The reduced value of one element and its flags (Table 13-2). -/
def reduceElem (b : LandBlk) (xs : List Nat) : Nat × Flags :=
  let ty := landTy b
  if isFloat ty then
    let F := fmtOf ty
    let dn := flagIf (xs.any (fSub F)) fDN
    if b.op = 0 then
      let wide := xs.map (fun x => if ty = .f32 then x else (cvt .bf16 .f32 .rne false (BitVec.ofNat 64 x)).1.toNat)
      let wfl := if ty = .f32 then 0 else xs.foldl (fun f x => f ||| (cvt .bf16 .f32 .rne false (BitVec.ofNat 64 x)).2) 0
      let r := sumFl 7 wide
      let v := canonNan fmtF32 r.1
      if ty = .f32 then (v, r.2 ||| dn) else let y := cvtFF fmtBf16 false .rne false (fDec fmtF32 v); (y.1, r.2 ||| y.2 ||| wfl ||| dn)
    else
      let r := (xs.drop 1).foldl (fun (acc : Nat × Flags) x => let y := fMinMax F (b.op == 2) acc.1 x; (y.1, acc.2 ||| y.2)) (xs.headD 0, 0)
      (canonNan F r.1, r.2 ||| dn)
  else
    let n := tyBits ty
    let is := xs.map (fun x => intOf n (isS ty) (BitVec.ofNat 64 x))
    if b.op = 0 then let r := intRes n (isS ty) b.sat is.sum; (r.1.toNat % 2 ^ n, r.2)
    else
      let r := (is.drop 1).foldl (fun acc x => if b.op = 2 then max acc x else min acc x) (is.headD 0)
      ((r % 2 ^ n).toNat, 0)

/-- Elements of a chunk: 4 KiB of each contribution. -/
def LandBlk.perChunk (b : LandBlk) : Nat := 4096 / b.esize
def LandBlk.chunks (b : LandBlk) : Nat := (b.nelem + b.perChunk - 1) / b.perChunk
def LandBlk.chunkLen (b : LandBlk) (c : Nat) : Nat := min 4096 (b.size - 4096 * c)

/-- A reduced chunk from the bytes of its sources in index order. -/
def reduceChunk (b : LandBlk) (srcs : List (List Byte)) (len : Nat) : List Byte × Flags :=
  let e := b.esize
  let elem (bs : List Byte) (i : Nat) : Nat := natOfBytes ((bs.drop (e * i)).take e)
  let rs := (List.range (len / e)).map (fun i => reduceElem b (srcs.map (fun bs => elem bs i)))
  (rs.flatMap (fun r => le e r.1), rs.foldl (fun f r => f ||| r.2) 0)

/-! The engine's steps. -/

/-- The log of a stack's landing engine (R10). -/
def landLog (stack : Nat) : Nat := 257 + 4 * stack
/-- The stack on whose engine an operation runs (R332): the issuing die's for a LANDR, that of its TAG for an arm. -/
def AOp.landStack (o : AOp) : Nat := match armOf o.kind with
  | some b => b.stack
  | none => clusterStack o.cluster
def landRole : AKind → Option (LandRole × Nat × Bool × Option LandBlk)
  | .landr a cm b => some (.landr, a, cm, b)
  | .arm a cm b => some (.arm, a, cm, b)
  | .put a cm b => some (.put, a, cm, b)
  | _ => none
def withBlk (k : AKind) (b : LandBlk) : AKind :=
  match k with
  | .landr a cm _ => .landr a cm (some b)
  | .arm a cm _ => .arm a cm (some b)
  | .put a cm _ => .put a cm (some b)
  | x => x

/-- The key of an operation's place in its engine's order of arrival (R332). -/
def arriveKey : Nat := 2 ^ 52 + 3
def AOp.arrival (o : AOp) : Nat := natOfBytes ((o.buf arriveKey).getD [])
/-- A LANDR or an arm of a stack's engine. A put is in progress at no engine's expense: with 64 ranks the puts of one collective could otherwise never all be in
progress, as R343 needs them (log entry 69). -/
def landsAt (stack : Nat) (o : AOp) : Bool :=
  match landRole o.kind with
  | some (.put, _, _, _) => false
  | some (_, _, _, some _) => o.landStack == stack
  | _ => false
/-- Operations of a stack's engine in progress (R332). -/
def State.landBusy (s : State) (stack : Nat) : Nat := (s.aops.filter (fun p => landsAt stack p.2 && p.2.stage != .queued)).length
/-- Whether an operation is the first to have arrived at its engine of those not yet accepted. -/
def State.landFirst (s : State) (o : AOp) : Bool :=
  s.aops.all (fun p => !landsAt o.landStack p.2 || p.2.stage != .queued || decide (o.arrival ≤ p.2.arrival))

/-- The page check of a `.gl` parameter block. -/
def State.landBlkChk (s : State) (o : AOp) (a : Nat) (cm : Bool) : Option Tr := if cm then none else s.chkAll o (needLoad 8) [(a, 64)]

/-- The publication of the cluster's open-batch lines of a range, which the operation waits for (R340). -/
def State.landPre (s : State) (n : Nat) (o : AOp) (base len : Nat) : State :=
  let (q, s) := s.lodge o.cluster o.ctx o.gid (.range base len) [] 0
  s.modAop n (fun o => { o with stage := .prePub q })

/-- An operation whose block has been read: it arrives at its engine; a put begins. -/
def State.landBegin (s : State) (n : Nat) (role : LandRole) (bs : List Byte) : State :=
  let b := landBlkOf bs
  match s.landCheckBlk role bs b with
  | some c => s.endAop n (.failed c)
  | none =>
    let (k, s) := s.newNum
    s.modAop n (fun o => { ((o.dropLines (fun _ => true)).putBuf arriveKey (le 8 k)) with
      kind := withBlk o.kind b, stage := if role == .put then .running else .queued })

/-- The engine accepts an operation: a LANDR's open-batch lines are published first, an arm waits for its reservation. -/
def State.landAccept (s : State) (n : Nat) (o : AOp) (role : LandRole) (b : LandBlk) : State :=
  if role == .landr then s.landPre n o b.src (8 * (b.nsrc + 1)) else s.modAop n (fun o => { o with stage := .holding })

/-- The buffer of a LANDR's source table. -/
def tabKey : Nat := 2 ^ 52
def AOp.source (o : AOp) (k : Nat) : Nat := natOfBytes ((((o.buf tabKey).getD []).drop (8 * k)).take 8)

/-- The source table: read, then its addresses are checked before any source is (R334). -/
def State.landTable (s : State) (n : Nat) (o : AOp) (b : LandBlk) : State :=
  let len := 8 * (b.nsrc + 1)
  match s.engineChk o.cluster o.ctx b.src len (needLoad 8) with
  | .bad c => s.endAop n (.failed c)
  | .park pg => s.parkAop n o pg
  | .ok _ => match s.engineFetch n true [(b.src, len)] with
    | (none, s) => s
    | (some bs, s) =>
      let tab (o : AOp) : AOp := (o.dropLines (fun _ => true)).putBuf tabKey bs.flatten
      let as_ := (List.range (b.nsrc + 1)).map (tab o).source
      if as_.any (fun a => a % b.esize != 0) then s.endAop n (.failed .align)
      else if as_.any (fun a => decide (a + b.size > 2 ^ 48)) then s.endAop n (.failed .nomap)
      else (s.modAop n tab).landPre n o ((tab o).source 0) b.size

/-- Sources whose lines have been asked to be published: counted under a key beside the pieces. -/
def preKey : Nat := 2 ^ 52 + 1
def AOp.preDone (o : AOp) : Nat := match o.buf preKey with
  | some bs => natOfBytes bs
  | none => 0

/-- A pre-publication has committed: the table is read, or the next source's lines are published, or the reading begins. -/
def State.landPrepared (s : State) (n : Nat) (o : AOp) (b : LandBlk) : State :=
  if (o.buf tabKey).isNone then s.landTable n o b
  else
    let k := o.preDone + 1
    let s := s.modAop n (fun o => o.putBuf preKey (le 8 k))
    if b.nsrc < k then s.modAop n (fun o => { o with stage := .running }) else s.landPre n o (o.source k) b.size

/-- LAND_OP_START: the group's accesses have performed; the block is read and checked; the engine accepts the operation, in the order of arrival and while fewer than
32 are in progress; a LANDR's open-batch lines are published. -/
def execLandOpStart (op : Nat) (s : State) : Out :=
  match s.aops.get? op with
  | none => .next s
  | some o => match landRole o.kind, o.stage with
    | some (role, a, cm, none), .queued =>
      let ready := match o.gid with
        | some gid => s.accessesDone gid op
        | none => true
      if !ready then .next s
      else match s.landBlkChk o a cm with
      | some (.bad c) => .next (s.endAop op (.failed c))
      | some (.park pg) => .next (s.parkAop op o pg)
      | _ =>
        let (v, s) := if cm then s.padFetch op o .cm [(a, 64)] else s.engineFetch op false [(a, 64)]
        match v with
        | some bs => .next (s.landBegin op role bs.flatten)
        | none => .next s
    | some (_, _, _, none), .running => .next (s.modAop op (fun o => { o with stage := .queued }))
    | some (role, _, _, some b), .queued =>
      if s.landFirst o && decide (s.landBusy o.landStack < 32) then .next (s.landAccept op o role b) else .next s
    | some (.landr, _, _, some b), .prePub q => if s.reqSt q == .complete then .next (s.landPrepared op o b) else .next s
    | some (.landr, _, _, some b), .running => if (o.buf tabKey).isNone then .next (s.landTable op o b) else .next s
    | _, _ => .next s

/-- The waiting arm of a stack that arrived first. -/
def State.firstArm (s : State) (stack : Nat) : Option (Nat × AOp) :=
  (s.aops.filter (fun p => p.2.stage == .holding && (armOf p.2.kind).isSome && p.2.landStack == stack)).foldl (fun (best : Option (Nat × AOp)) p =>
    match best with
    | none => some p
    | some q => if p.2.arrival < q.2.arrival then some p else best) none

/-- The chunk buffers of 4 KiB in an engine's 16 MiB; buffer k is attached to pseudo-channel k mod 64 of its stack (R332). -/
def chunkBufCount : Nat := 4096

/-- ARM_RESERVE: the waiting arm of a stack that arrived first takes its chunk slots once they are there (R343). -/
def execArmReserve (stack : Nat) (s : State) : Out :=
  match s.firstArm stack with
  | none => .next s
  | some (n, o) => match armOf o.kind with
    | none => .next s
    | some b =>
      let live := (s.stack stack).live
      if live.length + b.slots ≤ chunkBufCount then
        let (f, s) := s.newFree
        let free := ((List.range chunkBufCount).map (fun i => (Config.bufPick f + i) % chunkBufCount)).filter (fun k => !decide (k ∈ live))
        let mine := free.take b.slots
        .next ((s.modStack stack (fun k => { k with live := k.live ++ mine })).modAop n (fun o =>
          { (o.putBuf slotsKey (mine.flatMap (le 2))) with stage := .running }))
      else .next s

/-! Chunks (R342 to R344). -/

def chunkKey (c r : Nat) : Nat := 2 ^ 52 + 2 ^ 40 + c * 64 + r

/-- What becomes of a chunk that arrives at this module. -/
inductive ChunkRes where
  | retry
  | hold
  | bad (c : Cause)
  | accept (arm : Nat)

/-- The receiver's answer for chunk c of a put: no arm yet, not yet within two chunks of the lowest incomplete one, a mismatch, or room. -/
def State.chunkRes (s : State) (id : List Byte) (b : LandBlk) (c : Nat) : ChunkRes :=
  match s.armFor b.tag with
  | none => .retry
  | some (n, o) => match armOf o.kind with
    | none => .retry
    | some a =>
      if o.stage == .holding || o.stage == .queued then .retry
      else if a.op != b.op || a.fmt != b.fmt || a.sat != b.sat || a.nsrc != b.nsrc || a.nelem != b.nelem then .bad .illop
      else match o.buf (rankKey b.rank) with
      | some x => if x != id then .bad .illop else if c < o.chunk + 2 then .accept n else .hold
      | none => if c < o.chunk + 2 then .accept n else .hold

/-- The chunk buffer of a rank's chunk: an arm holds two for each rank. -/
def AOp.bufFor (o : AOp) (rank c : Nat) : Nat := o.chunkBufs.getD (2 * rank + c % 2) 0
/-- The engine reads or writes the buffers of a chunk: their channels' idle timers restart (R345). -/
def State.touchBufs (s : State) (o : AOp) (ranks : List Nat) (c : Nat) : State :=
  ranks.foldl (fun (s : State) r => s.touchChan (chanKey o.landStack (o.bufFor r c % 64))) s

/-- A chunk enters the receiver's buffers. -/
def State.chunkIn (s : State) (arm : Nat) (id : List Byte) (b : LandBlk) (c : Nat) (bs : List Byte) : State :=
  let s := match s.aops.get? arm with
    | some o => s.touchBufs o [b.rank] c
    | none => s
  s.modAop arm (fun o => (o.putBuf (rankKey b.rank) id).putBuf (chunkKey c b.rank) bs)

/-- Whether the chunk that starts at an address shares a line with the chunk before it; such a line is read once, in one state (R340). -/
def meetsLine (line a : Nat) : Bool := a % 256 != 0 && a / 256 * 256 == line

/-- A put has had a chunk accepted, or has been refused. -/
def State.putAck (s : State) (n c : Nat) (bad : Option Cause) : State :=
  match s.aops.get? n with
  | none => s
  | some o => match o.kind, bad with
    | .put _ _ (some _), some k => s.endAop n (.failed k)
    | .put _ _ (some b), none =>
      if o.chunk = c then
        if b.chunks ≤ c + 1 then s.endAop n .ok
        else s.modAop n (fun o => { (o.dropLines (fun x => !meetsLine x (b.src + 4096 * (c + 1)))) with chunk := c + 1, stage := .running })
      else s
    | _, _ => s

/-- One chunk of a put whose bytes are there. -/
def State.putChunk (s : State) (n : Nat) (o : AOp) (b : LandBlk) (bs : List Byte) : State :=
  if b.self || b.modn == Config.moduleIndex then
    let id := putId none n
    match s.chunkRes id b o.chunk with
    | .retry => s.modAop n (fun o => { o with stage := .holding, since := s.pcc })
    | .hold => s
    | .bad c => s.endAop n (.failed c)
    | .accept arm => (s.chunkIn arm id b o.chunk bs).putAck n o.chunk none
  else (s.sendMsg b.modn 1 n (.chunk n o.chunk b.tag b.rank b bs)).modAop n (fun o => { o with stage := .flagging 0 })

/-- A chunk from a peer's put: taken and acknowledged, refused, or left where it is (R343, R344). -/
def State.peerChunk (s : State) (msg : Nat) : State :=
  match s.inbox.get? msg with
  | none => s
  | some m => match m.body with
    | .chunk op c _ rank b bs =>
      let id := putId (some m.peer) op
      let s1 : State := { s with inbox := s.inbox.erase msg }
      match s.chunkRes id { b with rank := rank } c with
      | .retry => s
      | .hold => s
      | .bad k => s1.sendMsg m.peer 1 op (.chunkAck op c (some k))
      | .accept arm => (s1.chunkIn arm id { b with rank := rank } c bs).sendMsg m.peer 1 op (.chunkAck op c none)
    | _ => s

/-- CHUNK_ACCEPT: the next chunk of a put is read and sent; a chunk sent to a peer waits for the peer's answer. A chunk that has come from a peer is named
by its message. -/
def execChunkAccept (op : Nat) (s : State) : Out :=
  match s.aops.get? op with
  | none => .next (s.peerChunk op)
  | some o => match o.kind, o.stage with
    | .put _ _ (some b), .running =>
      let a := b.src + 4096 * o.chunk
      let len := b.chunkLen o.chunk
      match s.engineChk o.cluster o.ctx a len (needLoad 1) with
      | .bad c => .next (s.endAop op (.failed c))
      | .park pg => .next (s.parkAop op o pg)
      | .ok _ => match s.engineFetch op true [(a, len)] with
        | (none, s) => .next s
        | (some bs, s) => .next (s.putChunk op o b bs.flatten)
    | _, _ => .next s

/-- PUT_RETRY: a put that met no arm tries again after 1 µs (Table 13-3). -/
def execPutRetry (op : Nat) (s : State) : Out :=
  match s.aops.get? op with
  | none => .next s
  | some o => match o.kind, o.stage with
    | .put _ _ (some _), .holding => if s.due (o.since + 800) then .next (s.modAop op (fun o => { o with stage := .running })) else .next s
    | _, _ => .next s

/-! Results (R339 to R341). -/

/-- The bytes of every source of a chunk, once they are all there. -/
def State.landSources (s : State) (n : Nat) (o : AOp) (role : LandRole) (b : LandBlk) (c : Nat) : Option (List (List Byte)) × State :=
  if role == .landr then s.engineFetch n true ((List.range (b.nsrc + 1)).map (fun k => (o.source k + 4096 * c, b.chunkLen c)))
  else
    let bs := (List.range (b.nsrc + 1)).map (fun k => o.buf (chunkKey c k))
    (if bs.any Option.isNone then none else some (bs.map (fun x => x.getD [])), s)

/-- The pages that a step needs: each source's chunk of a LANDR, the destination's chunk; at the end the status word and the flag. -/
def State.landPages (s : State) (o : AOp) (role : LandRole) (b : LandBlk) (c : Nat) : Option Tr :=
  let len := b.chunkLen c
  let rd := if role == .landr then s.chkAll o (needLoad 1) ((List.range (b.nsrc + 1)).map (fun k => (o.source k + 4096 * c, len))) else none
  rd.or (s.chkAll o (needStore 1) [(b.dst + 4096 * c, len)])
def State.landEndPages (s : State) (o : AOp) (b : LandBlk) : Option Tr :=
  let st := if b.stw = 0 then none else s.chkAll o (needStore 8) [(b.stw, 8)]
  st.or (if b.order = 0 then none else s.chkAll o (if b.order = 2 then needAtom 8 else needStore 8) [(b.flag, 8)])

/-- A chunk is reduced: its result waits for its records. -/
def State.landChunk (s : State) (n : Nat) (o : AOp) (b : LandBlk) (srcs : List (List Byte)) : State :=
  let r := reduceChunk b srcs (b.chunkLen o.chunk)
  let s := if (armOf o.kind).isSome then s.touchBufs o (List.range (b.nsrc + 1)) o.chunk else s
  (s.tally (2 * o.landStack) 162).modAop n (fun o =>
    { (o.putBuf statKey (le 8 (joinStat o.stat r.2 0))) with outs := [(b.dst + 4096 * o.chunk, r.1)] })

/-- The results that wait are appended to the landing log as shadow records (R339); then the chunk is complete, and an arm's slots of it are free (R343). A source line
that the next chunk shares stays. -/
def State.landAppend (s : State) (n : Nat) (o : AOp) (b : LandBlk) : State :=
  let used (k : Nat) : Bool := decide (chunkKey o.chunk 0 ≤ k) && decide (k < chunkKey (o.chunk + 1) 0)
  let keep (x : Nat) : Bool := (List.range (b.nsrc + 1)).any (fun k => meetsLine x (o.source k + 4096 * (o.chunk + 1)))
  (s.appendOuts n (landLog o.landStack) o).modAop n (fun o =>
    if o.outs.isEmpty then
      let o := o.dropLines (fun x => !keep x)
      { o with bufs := o.bufs.filter (fun p => !used p.1), chunk := o.chunk + 1 }
    else o)

/-- Every chunk is reduced: the status word joins the result; then both go out in one publication. -/
def State.landOut (s : State) (n : Nat) (o : AOp) (b : LandBlk) : State :=
  match s.landEndPages o b with
  | some (.bad c) => s.endAop n (.failed c)
  | some (.park pg) => s.parkAop n o pg
  | _ =>
    if b.stw != 0 && o.chunk == b.chunks then s.modAop n (fun o => { o with outs := [(b.stw, le 8 (o.stat % 128))] })
    else
      let s := match armOf o.kind with
        | some b => s.freeChunks o b
        | none => s
      s.lodgeShadow n (landLog o.landStack) o

/-- One step of a running LANDR or arm. -/
def State.landStep (s : State) (n : Nat) (o : AOp) (role : LandRole) (b : LandBlk) : State :=
  if !o.outs.isEmpty then s.landAppend n o b
  else if b.chunks ≤ o.chunk then s.landOut n o b
  else match s.landPages o role b o.chunk with
  | some (.bad c) => s.endAop n (.failed c)
  | some (.park pg) => s.parkAop n o pg
  | _ => match s.landSources n o role b o.chunk with
    | (some srcs, s) => s.landChunk n o b srcs
    | (none, s) => s

/-- The result has committed: the flag's own publication, or its atomic add, at a peer's home if its page is a peer's, or the end. -/
def State.landFlag (s : State) (n : Nat) (o : AOp) (b : LandBlk) : State :=
  let log := landLog o.landStack
  let lk := lineKey o.ctx b.flag
  match b.order.toNat with
  | 0 => s.endAop n .ok
  | 1 =>
    let (q, s) := s.lodge log o.ctx none .solo (plinesOf o.ctx b.flag (le 8 b.fval.toNat)) 0
    s.modAop n (fun o => { o with stage := .flagging q })
  | _ =>
    if s.isRemote lk then
      (s.sendMsg (s.ownerOf lk) 0 lk (.atom n (engineLane b.flag) o.ctx b.flag 8 .add false b.fval 0)).modAop n
        (fun o => { ((o.dropLines (fun _ => true)).putBuf (askedLine b.flag) (le 288 0)) with stage := .flagging 0 })
    else
      let (q, s) := s.lodge log o.ctx none .atomic [] 0
      s.modAop n (fun o => { o with stage := .flagging q })

/-- A step of the flag: its atomic add is tried while its request waits; an add at a peer's home is over when the peer has answered. -/
def State.landFlagStep (s : State) (n : Nat) (o : AOp) (b : LandBlk) (q : Nat) : State :=
  if (o.buf (askedLine b.flag)).isSome then (if (o.buf (heldLine b.flag)).isSome then s.endAop n .ok else s)
  else match s.store.reqs.get? q with
  | none => s.endAop n .ok
  | some r =>
    if b.order = 2 ∧ r.st = .waiting then (s.atomicAt r.log q o.ctx b.flag 8 (.aop n) 0 (fun x => some (x + b.fval.toNat))).2 else s

/-- LAND_PUBLISH: the next chunk, the result's publication, its commit, the flag. -/
def execLandPublish (op : Nat) (s : State) : Out :=
  match s.aops.get? op with
  | none => .next s
  | some o => match landRole o.kind, o.stage with
    | some (.put, _, _, _), _ => .next s
    | some (role, _, _, some b), .running =>
      if role == .landr && decide (o.preDone ≤ b.nsrc) then .next s else .next (s.landStep op o role b)
    | some (_, _, _, some b), .publishing q => if s.reqSt q == .complete then .next (s.landFlag op o b) else .next s
    | some (_, _, _, some b), .flagging q => .next (s.landFlagStep op o b q)
    | _, _ => .next s

end Sys2Proof.Machine
end

