-- ==== Sys2Proof/Machine/Cancel.lean ====
section
/-! DEFINITION. Cancelling asynchronous operations (R23, R181, Table 1-10). -/

namespace Sys2Proof.Machine

/-- A publication that no longer is to commit lets go of a line: its prepare is released, or leaves its home's queue. -/
def State.letGo (s : State) (p : Nat) (x : PLine) : State :=
  if x.st == .sent then s
  else if s.isRemote x.key then s.sendMsg (s.ownerOf x.key) 0 x.key (.release p x.tok)
  else if x.st == .queued then match s.store.preps.get? x.key with
    | some h => (s.setPrep x.key { h with queue := h.queue.filter (· != p) }).serveQueue x.key
    | none => s
  else s.endHold x.key

/-- A publication is abandoned before its last acknowledgement (R212, Table 9-9): nothing of it is published, its log's slot and space are free. -/
def State.abandonPub (s : State) (p : Nat) : State :=
  match s.pub? p with
  | none => s
  | some q =>
    let s := q.lines.foldl (fun (s : State) x => s.letGo p x) s
    let s := s.modStack (logStack q.log) (fun k => { k with pool := k.pool + q.rsegs })
    let s := s.setStore { s.store with
      pubs := s.store.pubs.erase p, reqs := s.store.reqs.filter (fun r => !decide (r.1 ∈ q.reqs)) }
    s.modLog q.log (fun l => { l with pub := none, pubid := q.pubid })

/-- The result publication that a request stands for is stopped; none once it can no longer be (R212). -/
def State.stopReq (s : State) (r : Nat) : Option State :=
  match s.reqSt r with
  | .asked => some (s.withdraw r)
  | .waiting => some (s.withdraw r)
  | .inPub p => match s.pub? p with
    | some q => if q.committing then none else some (s.abandonPub p)
    | none => none
  | _ => none

/-- A wait for a publication of the cluster's own lines ends; one that is under way goes on by itself. -/
def State.leaveReq (s : State) (r : Nat) : State :=
  match s.reqSt r with
  | .asked => s.withdraw r
  | .waiting => s.withdraw r
  | _ => s

/-- Whether an operation's result has a publication that is its point of no return (Table 1-10). -/
def resultPub : AKind → Bool
  | .copy _ => true | .tmap _ _ _ _ _ => true | .landr _ _ _ => true | .arm _ _ _ => true | _ => false

/-- A cancel reaches the entry of a PENDING operation (Table 1-10). -/
def State.cancelAop (s : State) (n : Nat) : State :=
  match s.aops.get? n with
  | none => s
  | some o => match o.kind, o.stage with
    | .snapdrop _, _ => s
    | .rootsw _ _, _ => s
    | .libsd _, _ => s
    | .stream, _ => s
    | .tfree _, _ => s.resolve o.ctx o.tag .cancelled
    | .ckpt _ _, _ => (s.resolve o.ctx o.tag .cancelled).modAop n (fun o => { o with cancelled := true })
    | .slot core, _ => s.stopSlot core .cancelled
    | .pubr, .publishing q => match s.cancelReq q with
      | some s => s.endAop n .cancelled
      | none => s
    | .put _ _ _, _ => s.endAop n .cancelled
    | k, .publishing q => if resultPub k then match s.stopReq q with
        | some s => s.endAop n .cancelled
        | none => s
      else s.endAop n .cancelled
    | _, .flagging _ => s
    | _, .prePub q => (s.leaveReq q).endAop n .cancelled
    | _, _ => s.endAop n .cancelled

/-- FCANCEL: the operation of a live PENDING handle; every other handle is left as it is. -/
def execFcancel (w : Ctl) (s : State) : Out :=
  ctlWord 0x18C w s (fun _ _ g _ s =>
    match s.ctx? g.ctx with
    | none => s
    | some c => match c.live? (g.regs.freg (fNum w.a)) with
      | some e => if e.st = .pending then s.cancelAop e.op else s
      | none => s)

/-- Every PENDING future of a context is cancelled (R398). -/
def State.cancelAll (s : State) (c : Nat) : State :=
  match s.ctx? c with
  | none => s
  | some x => (x.futs.filter (fun f => f.2.st == .pending)).foldl (fun (s : State) f => s.cancelAop f.2.op) s

end Sys2Proof.Machine
end

