-- ==== Sys2Proof/Machine/Command.lean ====
section
/-! DEFINITION. The command processor and distributor: queues and packets, launches, the buffer-handle table, placement, pre-emption, contexts
(R382 to R398, R445, R446, R448). -/

namespace Sys2Proof.Machine

/-! The command processor's own reads and writes of `.gl` (R27, R402, R445). -/

/-- The module index key under which a peer answers the command processor. -/
def cpLane : Nat := 2 ^ 48

/-- A read by the command processor: its bytes, a failure, or a wait for a peer's lines, which have been asked for. -/
inductive CpRd where
  | ok (bs : List Byte)
  | bad (c : Cause)
  | wait (s : State)
  deriving DecidableEq, Repr

/-- The check of a page that the command processor reads (R130). -/
def State.cpPage (s : State) (ctx a : Nat) (wr : Bool) : Option Cause :=
  if a ≥ 2 ^ 48 then some .nomap
  else match s.pageHdr (pageKey ctx a) with
    | none => some .nomap
    | some h => if hdrAllows h (if wr then needStore 8 else needLoad 8) && decide (h.mtype.toNat < 2) then none else some .access

/-- The line at an address for the command processor: its home's, once its entry is not PREP (R217), or a peer's that has arrived. -/
def State.cpLine (s : State) (ctx a : Nat) : Option Line :=
  let lk := lineKey ctx a
  if s.isRemote lk then s.held.get? lk else if s.prepAt lk then none else some (s.homeLine lk)

/-- Ask the owner for a line that is not there. -/
def State.cpAsk (s : State) (ctx a : Nat) : State :=
  let lk := lineKey ctx a
  let body : QfBody := .load lk cpLane ctx (a / 256 * 256) 256
  if !s.isRemote lk || (s.cpLine ctx a).isSome || s.outbox.any (fun p => p.2.body == body) then s else s.sendMsg (s.ownerOf lk) 0 lk body

/-- n bytes of a context's `.gl` memory, as a load with acquire at `.pk`. -/
def State.cpRead (s : State) (ctx a n : Nat) : CpRd :=
  let ls := linesIn a n
  match ls.findSome? (fun x => s.cpPage ctx x false) with
  | some c => .bad c
  | none =>
    if ls.all (fun x => (s.cpLine ctx x).isSome) then
      .ok (((ls.flatMap (fun x => match s.cpLine ctx x with
        | some d => Line.bytes d
        | none => [])).drop (a % 256)).take n)
    else .wait (ls.foldl (fun (s : State) x => s.cpAsk ctx x) s)

/-! Queues (R382 to R384). -/

/-- A queue stops with a cause and raises MSI-X vector 0 (R384, R423). -/
def State.raise (s : State) (v : Nat) : State := { s with sys := { s.sys with msix := s.sys.msix ++ [v] } }
def State.queueErr (s : State) (q : Nat) (c : Cause) (seq : BitVec 32) : State :=
  (s.modCq q (fun k => { k with st := 2, cause := c.code, seqf := seq, cur := none, wait := .none })).raise 0
/-- Lines of peers that the command processor or the checkpoint engine has read are read again next time. -/
def State.dropHeld (s : State) : State := { s with held := s.held.filter (fun p => decide (2 ^ 64 ≤ p.1)) }
/-- The packet in hand is done with. -/
def State.packetDone (s : State) (q : Nat) : State := (s.modCq q (fun k => { k with cur := none })).dropHeld

/-- The address of the slot that HEAD names. -/
def CQueue.slotAddr (k : CQueue) : Nat := k.addr.toNat * 64 + 64 * (k.head.toNat % 2 ^ k.log2n.toNat)
/-- Whether the read of a slot in `.gl` memory waits at a PREP entry (R217). -/
def State.slotWaits (s : State) (q : Nat) : Bool := (s.cq q).loc && s.prepAt (lineKey (s.cq q).ctx.toNat (s.cq q).slotAddr)

/-- The slot that HEAD names, read whole: 64 bytes of host memory or of the context. -/
def State.readSlot (s : State) (q : Nat) : BitVec 512 × State :=
  let k := s.cq q
  let a := k.slotAddr
  let (bs, s) := if k.loc then (s.glBytes k.ctx.toNat a 64, s) else s.hostRead a 64
  (BitVec.ofNat 512 (natOfBytes bs), s)

/-- A packet that is current is accepted: HEAD counts it. -/
def State.acceptPacket (s : State) (q : Nat) (b : BitVec 512) : State :=
  s.modCq q (fun k => { k with cur := some b, head := k.head + 1, wait := .none })

/-- The launches of a queue that are numbered below n. -/
def State.queueLaunches (s : State) (q n : Nat) : Bool := s.launches.any (fun l => l.2.queue == q && decide (l.2.accepted < n))

/-- The signals of a queue in order: the first ones whose earlier packets have completed are published. -/
def State.runSignals (s : State) (q ctx : Nat) : List Signal → State × List Signal
  | [] => (s, [])
  | g :: gs =>
    match g.req with
    | some r => if s.reqSt r == .complete then s.runSignals q ctx gs else (s, g :: gs)
    | none =>
      if s.queueLaunches q g.after then (s, g :: gs)
      else
        let (r, s) := s.lodgeBytes 0 ctx none g.addr.toNat (le 8 g.val.toNat)
        (s, { g with req := some r } :: gs)

/-- What a queue waits for goes on: its signals, and a BARRIER whose launches have completed. -/
def State.queueStep (s : State) (q : Nat) : State :=
  let k := s.cq q
  let (s, gs) := s.runSignals q k.ctx.toNat k.sigs
  s.modCq q (fun k => { k with sigs := gs, wait := if k.wait = .barrier ∧ !s.queueLaunches q s.fresh then .none else k.wait })

/-- PACKET_READ (R383, R384): the next slot is read; a stale packet is read again later; a TAIL too far ahead stops the queue. -/
def execPacketRead (q : BitVec 6) (s : State) : Out :=
  let n := q.toNat
  let s := s.queueStep n
  let k := s.cq n
  if s.sys.bootSt = 2 ∧ k.en = true ∧ k.st ≠ 2 ∧ k.cur = none ∧ k.wait = .none ∧ k.head ≠ k.tail ∧ (s.ctx? k.ctx.toNat).isSome ∧ s.slotWaits n = false then
    if (k.tail - k.head).toNat > 2 ^ k.log2n.toNat then .next (s.queueErr n .illop k.seqf)
    else
      let (b, s) := s.readSlot n
      if packetSeq b = k.head then .next (s.acceptPacket n b) else .next (s.modCq n (fun k => { k with wait := .torn 0 s.pcc }))
  else .next s

/-- PACKET_REREAD (R384): read n comes 64 × 2^n cycles after the one before it; after the eighth the queue stops. -/
def execPacketReread (q : BitVec 6) (s : State) : Out :=
  let n := q.toNat
  let k := s.cq n
  match k.wait with
  | .torn i t =>
    if s.due (t + BitVec.ofNat 64 (64 * 2 ^ i)) && !s.slotWaits n then
      let (b, s) := s.readSlot n
      if packetSeq b = k.head then .next (s.acceptPacket n b)
      else if i = 7 then .next (s.queueErr n .queueTorn (packetSeq b))
      else .next (s.modCq n (fun k => { k with wait := .torn (i + 1) s.pcc }))
    else .next s
  | _ => .next s

/-- One packet of a queue. -/
def queuePacket (s : State) (f : Nat → Nat → State → State) : Out :=
  match s.issuer with
  | .queue q => .next (f q (s.cq q).ctx.toNat s)
  | _ => .fault .noIssuer

/-- BARRIER. -/
def execBarrier (s : State) : Out := queuePacket s (fun q _ s => (s.packetDone q).modCq q (fun k => { k with wait := .barrier }))

/-- SIGNAL. -/
def execSignal (val addr : BitVec 64) (s : State) : Out :=
  queuePacket s (fun q _ s =>
    let g : Signal := { after := s.fresh, val := val, addr := addr, req := none }
    (s.packetDone q).modCq q (fun k => { k with sigs := k.sigs ++ [g] }))

/-- CANCEL (R388): it is on its way to every waiter that matches (R373). -/
def execCancel (byLaunch byRange : Bool) (launch : BitVec 16) (base len : BitVec 64) (s : State) : Out :=
  queuePacket s (fun q ctx s =>
    let hit (w : Waiter) : Bool :=
      !(match w.who with
        | .peer _ => true
        | _ => false) && w.ctx == ctx && (!byLaunch || w.launch == launch.toNat) &&
      (!byRange || (decide (pageAddr w.page < base.toNat + len.toNat) && decide (base.toNat < pageAddr w.page + 131072)))
    let mark (p : Nat × Waiter) : Nat × Waiter := if hit p.2 then (p.1, { p.2 with cancel := true }) else p
    { s with waiters := s.waiters.map mark }.packetDone q)

/-! The buffer-handle table (R389, R390). -/

def bufHandle (e : BitVec 32) : Nat := (e.extractLsb' 0 12).toNat

/-- A handle marked free goes once no live launch names it. -/
def State.dropBuf (s : State) (ctx h : Nat) : State :=
  let named := s.launches.any (fun l => l.2.ctx == ctx && l.2.bufl.any (fun e => bufHandle e == h))
  match (s.ctx? ctx).bind (fun c => c.bufs.get? h) with
  | none => s
  | some b => if b.freeing && !named then s.modCtx ctx (fun c => { c with bufs := c.bufs.erase h }) else s

/-- BUFFER. -/
def execBuffer (h : BitVec 12) (free hostw : Bool) (base len : BitVec 64) (s : State) : Out :=
  queuePacket s (fun q ctx s =>
    let s := s.packetDone q
    let n := h.toNat
    if free then (s.modCtx ctx (fun c => { c with bufs := c.bufs.modify n (fun b => { b with freeing := true }) })).dropBuf ctx n
    else
      let old := (s.ctx? ctx).bind (fun c => c.bufs.get? n)
      let w := if hostw then BufWriter.host (s.sys.owner.setWidth 3) else (old.map (·.writer)).getD .none
      let b : BufH := { base := base, len := len, writer := w, readers := (old.map (·.readers)).getD [], freeing := false }
      s.modCtx ctx (fun c => { c with bufs := c.bufs.set n b }))

/-- The live launches that an entry of BUFL waits for, by number (R390). -/
def State.bufDeps (s : State) (b : BufH) (wr : Bool) : List Nat :=
  let w := match b.writer with
    | .launch id => [id]
    | _ => []
  ((w ++ (if wr then b.readers else [])).filterMap s.launchOf).map (·.accepted)

/-- The table as the launch's entry leaves it. -/
def bufTake (id : Nat) (e : BitVec 32) (b : BufH) : BufH :=
  if e.getLsbD 13 then { b with writer := .launch id, readers := [] }
  else if e.getLsbD 12 then { b with readers := b.readers ++ [id] }
  else b

/-- A completed launch leaves the table. -/
def State.bufRelease (s : State) (ctx id : Nat) : State :=
  let out (p : Nat × BufH) : Nat × BufH :=
    (p.1, { p.2 with readers := p.2.readers.filter (· != id), writer := if p.2.writer = .launch id then .none else p.2.writer })
  let s := s.modCtx ctx (fun c => { c with bufs := c.bufs.map out })
  (((s.ctx? ctx).map (fun c => FMap.keys c.bufs)).getD []).foldl (fun (s : State) h => s.dropBuf ctx h) s

/-! LAUNCH (R386, R445, Tables 16-3 and 16-4). -/

/-- A launch's number of live ids, and the id that comes next. -/
def nextLaunch (live : List Nat) (last : Nat) : Nat → Nat
  | 0 => 1
  | fuel + 1 =>
    let k := last % 65535 + 1
    if k ∈ live then nextLaunch live k fuel else k

/-- A kernel descriptor. -/
def kField (d : List Byte) (o n : Nat) : Nat := natOfBytes ((d.drop o).take n)
def kOffset (x : Nat) : Option Nat := if x = 0xFFFFFFFF then none else some x
def kGroups (d : List Byte) : Nat := kField d 0x16 2 % 1024
def kLanes (d : List Byte) : Nat := kField d 0x16 2 / 1024 + 1

/-- A launch from its packet and descriptor, before its arguments and handles are read. -/
def launchOfDesc (s : State) (q ctx n : Nat) (p : LaunchPkt) (d : List Byte) : Launch :=
  { ctx := ctx, prio := (s.cq q).prio, queue := q, codeBase := kField d 0 6, entry := kField d 8 4, trapOfs := kOffset (kField d 12 4)
    seqOfs := kOffset (kField d 16 4), nregs := kField d 20 1, nargs := kField d 21 1, ngroups := kGroups d, lanes := kLanes d
    cm := kField d 24 4, ds := 256 * kField d 28 3, cr := kField d 31 1 % 2 == 1, nblk := p.nblk.toNat, largs := []
    cmbase := p.cmbase.toNat, dsbase := p.dsbase.toNat, doneAt := p.doneAt.toNat, doneval := p.doneval, bufl := [], nextBlk := 0
    endedBlks := 0, failure := none, slotsStopped := false, accepted := n, deps := [], doneReq := none }

/-- The descriptor obeys R65 and R445, its offsets are multiples of 12, the windows fit their spaces. A code segment base that is no multiple of 256 is accepted: R36
states the alignment, and R386 lists no refusal for it (log entry 70). -/
def descOk (d : List Byte) (l : Launch) : Bool :=
  kField d 6 2 == 0 && decide (kField d 31 1 < 2) && l.nregs % 8 == 0 && decide (8 ≤ l.nregs) && decide (l.nregs ≤ 128) && decide (l.nargs ≤ 32) &&
  decide (1 ≤ l.ngroups) && decide (l.ngroups ≤ 744) && l.cm % 256 == 0 && decide (l.ds ≤ dsBytes) &&
  l.entry % 12 == 0 && (l.trapOfs.getD 0) % 12 == 0 && (l.seqOfs.getD 0) % 12 == 0 && l.cmbase % 256 == 0 && l.dsbase % 256 == 0 &&
  decide (l.cmbase + l.cm ≤ cmBytes) && decide (l.dsbase + l.ds ≤ dsBytes)

/-- The entries of BUFL. -/
def bufEntries (bs : List Byte) (n : Nat) : List (BitVec 32) :=
  (List.range n).map (fun i => BitVec.ofNat 32 (natOfBytes ((bs.drop (4 * i)).take 4)))

/-- A launch joins the live ones, refused with a cause, or with its arguments and handles. -/
def State.addLaunch (s : State) (id : Nat) (l : Launch) : State := { s with launches := s.launches.set id l, lastLaunch := id }
def refuse (l : Launch) (c : Cause) : Launch := { l with nblk := 0, bufl := [], failure := some (0, 0, c) }

/-- The handles of a launch: its waits, and the table after it. -/
def State.takeBufs (s : State) (id : Nat) (l : Launch) : State :=
  let step (acc : State × List Nat) (e : BitVec 32) : State × List Nat :=
    match (acc.1.ctx? l.ctx).bind (fun c => c.bufs.get? (bufHandle e)) with
    | none => acc
    | some b =>
      let ds := if e.getLsbD 12 || e.getLsbD 13 then acc.1.bufDeps b (e.getLsbD 13) else []
      (acc.1.modCtx l.ctx (fun c => { c with bufs := c.bufs.set (bufHandle e) (bufTake id e b) }), acc.2 ++ ds)
  let r := l.bufl.foldl step (s, [])
  r.1.addLaunch id { l with deps := r.2.filter (· != l.accepted) }

/-! Placement (R390, R391, R446, R448). -/

/-- Cores of a cluster in the order in which a launch's groups fill them. -/
def coreOrder (l : Launch) (cl : Nat) : List Nat :=
  let meets (i : Nat) : Bool := decide (l.cmbase < (i + 1) * crBytes) && decide (i * crBytes < l.cmbase + l.cm)
  ((List.range 24).filter meets ++ (List.range 24).filter (fun i => !meets i)).map (fun i => 24 * cl + i)

/-- The contexts of a core that groups of a launch could take. -/
def State.coreRoom (s : State) (l : Launch) (core : Nat) : List (Nat × Nat) :=
  let used := (s.coreGroups core).map (fun p => p.2.slotNo)
  let free := (List.range 31).filter (fun k => !decide (k ∈ used))
  (free.take ((1024 - s.regsUsed core) / l.nregs)).map (fun k => (core, k))

/-- The contexts for one block, in group-index order. -/
def State.assign (s : State) (l : Launch) (cl : Nat) : Option (List (Nat × Nat)) :=
  let room := (coreOrder l cl).flatMap (s.coreRoom l)
  if l.ngroups ≤ room.length then some (room.take l.ngroups) else none

def rangesMeet (a n b m : Nat) : Bool := decide (0 < n) && decide (0 < m) && decide (a < b + m) && decide (b < a + n)

/-- Whether bytes of cluster memory meet an upper half of a core scratchpad that is gated, or still waking (R437). -/
def State.gatedMeets (s : State) (cl base len : Nat) : Bool :=
  let d := s.die (clusterDie cl)
  (d.sph.getLsbD (cl % 8) || d.gateWakeAt.isSome) && (List.range 24).any (fun t => rangesMeet base len (t * crBytes + 131072) 131072)

/-- No other block holds part of the launch's windows, and no part of them is gated. -/
def State.windowsFree (s : State) (l : Launch) (cl : Nat) : Bool :=
  !s.gatedMeets cl l.cmbase l.cm && s.blocks.all (fun b => match s.launchOf b.2.launch with
    | none => true
    | some k =>
      !(b.2.cluster == cl && rangesMeet l.cmbase l.cm k.cmbase k.cm) &&
      !(clusterDie b.2.cluster == clusterDie cl && rangesMeet l.dsbase l.ds k.dsbase k.ds))

/-- R391: a block of the launch can be placed in a cluster. -/
def State.fits (s : State) (l : Launch) (cl : Nat) : Bool :=
  decide (cl < 256) && (l.seqOfs.isNone || (s.seqOf cl).st == .free) && (s.assign l cl).isSome && s.windowsFree l cl

/-- A launch that has a block to place and waits for no other launch. -/
def State.placeable (s : State) (l : Launch) : Bool :=
  l.failure.isNone && decide (l.nextBlk < l.nblk) && !s.launches.any (fun k => decide (k.2.accepted ∈ l.deps)) &&
  match s.ctx? l.ctx with
  | some c => c.quiet == .running && !c.halted
  | none => false

/-- A launch comes before another: a higher priority, or the same and accepted earlier. -/
def launchBefore (a b : Launch) : Bool := decide (b.prio.toNat < a.prio.toNat) || (a.prio == b.prio && decide (a.accepted < b.accepted))

/-- Registers of a new group: the launch arguments. -/
def startRegs (l : Launch) : Regs :=
  (List.range l.largs.length).foldl (fun (rg : Regs) i => rg.setG i (l.largs.getD i 0)) Regs.reset
def lowLanes (n : Nat) : Lanes := BitVec.ofNat 64 (2 ^ n - 1)

/-- One group of a new block. -/
def State.placeGroup (s : State) (id blk : Nat) (l : Launch) (priv : Bool) (i : Nat) (at_ : Nat × Nat) : State :=
  let (a, s) := s.saveArea l.ctx groupArea (clusterDie (coreCluster at_.1))
  let g := Group.start id blk i l.ctx priv l.prio l.lanes l.nregs (.resident at_.1 at_.2) (BitVec.ofNat 48 (l.codeBase + l.entry)) (lowLanes l.lanes)
    (startRegs l) (BitVec.ofNat 64 a) s.pcc
  let s := (s.addGroup (gidOf id blk i) g).acquire at_.1 l.ctx
  l.bufl.foldl (fun (s : State) e => match (s.ctx? l.ctx).bind (fun c => c.bufs.get? (bufHandle e)) with
    | some b => if e.getLsbD 12 || e.getLsbD 13 then s.invRange at_.1 l.ctx b.base.toNat b.len.toNat else s
    | none => s) s

/-- The stream of a new block stands ready (R275, Table 10-1). -/
def State.placeStream (s : State) (cl id blk : Nat) (l : Launch) : State :=
  match l.seqOfs with
  | none => s
  | some o =>
    let (a, s) := s.saveArea l.ctx streamArea (clusterDie cl)
    let q0 : Seq := { Seq.reset with st := .ready, launch := id, block := blk, ctx := l.ctx, spc := BitVec.ofNat 48 (l.codeBase + o), trec := a, stallFrom := s.pcc }
    let q := (List.range 16).foldl (fun (q : Seq) i => q.setReg i (l.largs.getD i 0)) q0
    s.setSeq cl (q.setReg 16 (BitVec.ofNat 64 blk))

/-- The windows of a new block are granted zeroed (R446). -/
def State.grantWindows (s : State) (l : Launch) (cl : Nat) : State :=
  s.setMems { s.mems with
    cm := s.mems.cm.clear (cl * cmBytes + l.cmbase) l.cm, ds := s.mems.ds.clear (clusterDie cl * dsBytes + l.dsbase) l.ds }

/-- The next block of a launch is placed. -/
def State.placeBlock (s : State) (id : Nat) (l : Launch) (cl : Nat) (at_ : List (Nat × Nat)) : State :=
  let blk := l.nextBlk
  let (n, s) := s.newNum
  let b : Block := { launch := id, index := blk, cluster := cl, resident := true, ask := false, held := false, ended := false, placedAt := n, locks := [] }
  let s := { s with blocks := s.blocks.set (blockKey id blk) b }
  let s := (s.grantWindows l cl).modLaunch id (fun l => { l with nextBlk := blk + 1 })
  let priv := ((s.ctx? l.ctx).map (·.priv)).getD false
  let s := ((List.range at_.length).zip at_).foldl (fun (s : State) p => s.placeGroup id blk l priv p.1 p.2) s
  s.placeStream cl id blk l

/-- BLOCK_PLACE (R391): in block order, after every launch that comes first and could use the cluster. -/
def execBlockPlace (launch cluster : Nat) (s : State) : Out :=
  match s.launchOf launch with
  | none => .next s
  | some l =>
    let blocked := s.launches.any (fun k => k.1 != launch && launchBefore k.2 l && s.placeable k.2 && s.fits k.2 cluster)
    if s.placeable l && s.fits l cluster && !blocked then match s.assign l cluster with
      | some as_ => .next (s.placeBlock launch l cluster as_)
      | none => .next s
    else .next s

/-! Moves and pre-emption (R392 to R394). -/

/-- A barrier arrival at `.co` or `.qd` that a group still waits for. -/
def State.nearArrival (s : State) (g : Group) : Bool :=
  s.bars.any (fun b => groupHeld (b.2.phase :: b.2.complete) g && (b.2.scope == .co || b.2.scope == .qd))

/-- GROUP_MOVE (R392). -/
def execGroupMove (gid core : Nat) (s : State) : Out :=
  match s.grp gid with
  | none => .next s
  | some g => match g.place with
    | .resident c _ =>
      let cr := ((s.launchOf g.launch).map (·.cr)).getD true
      let bound := s.cores.any (fun k => k.2.slot.bound == some g.launch)
      let recent := g.movedAt != 0 && !s.due (g.movedAt + 2 ^ 20)
      let need := s.launches.any (fun l => s.placeable l.2 && !s.fits l.2 (coreCluster c))
      if need && !cr && !bound && !recent && !s.nearArrival g && core != c && coreCluster core == coreCluster c && (s.freeSlot core).isSome &&
          decide (s.regsUsed core + g.nregs ≤ 1024) && g.moveTo.isNone then
        .next (s.setGrp gid { g with moveTo := some core })
      else .next s
    | _ => .next s

/-- Whether a block's stream stands in its cluster's sequencer. -/
def State.streamOf (s : State) (b : Block) : Bool :=
  let q := s.seqOf b.cluster
  q.st != .free && q.launch == b.launch && q.block == b.index

/-- A resident block is asked to leave: its groups at their next run boundaries, its stream at its next word. -/
def State.askBlock (s : State) (bk : Nat) : State :=
  match s.blocks.get? bk with
  | none => s
  | some b =>
    if !b.resident then s
    else
      let s := s.modBlock bk (fun b => { b with ask := true })
      if s.streamOf b then s.modSeq b.cluster (fun q => { q with saveReq := true }) else s

/-- The block that pre-emption for a launch takes next in a cluster: the lowest priority, then the most recently placed (R393). -/
def State.victim (s : State) (l : Launch) (cl : Nat) : Option Nat :=
  let prioOf (b : Block) : Nat := ((s.launchOf b.launch).map (·.prio.toNat)).getD 3
  let near (b : Block) : Bool := b.cluster == cl || (decide (0 < l.ds) && clusterDie b.cluster == clusterDie cl)
  let cands := s.blocks.filter (fun b => b.2.resident && !b.2.ask && near b.2 && decide (prioOf b.2 < l.prio.toNat))
  (cands.foldl (fun (best : Option (Nat × Block)) b => match best with
    | none => some b
    | some x =>
      if prioOf b.2 < prioOf x.2 ∨ (prioOf b.2 = prioOf x.2 ∧ x.2.placedAt < b.2.placedAt) then some b else best) none).map (·.1)

/-- PRIORITY_PREEMPT (R393): one more block goes, while the launch's next block fits nowhere and no block of the cluster is on its way out. -/
def execPriorityPreempt (launch cluster : Nat) (s : State) : Out :=
  match s.launchOf launch with
  | none => .next s
  | some l =>
    let leaving := s.blocks.any (fun b => b.2.ask && b.2.resident && b.2.cluster == cluster)
    if s.placeable l && !leaving && (List.range 256).all (fun c => !s.fits l c) then match s.victim l cluster with
      | some bk => .next (s.askBlock bk)
      | none => .next s
    else .next s

/-- PREEMPT (R394). -/
def execPreempt (launch : BitVec 16) (hold : Bool) (s : State) : Out :=
  queuePacket s (fun q _ s =>
    let s := s.packetDone q
    if (s.launchOf launch.toNat).isNone then s
    else
      let mine := s.blocks.filter (fun b => b.2.launch == launch.toNat)
      mine.foldl (fun (s : State) b =>
        let s := if b.2.resident && hold then s.modBlock b.1 (fun b => { b with held := true }) else s
        let s := if hold then s else s.modBlock b.1 (fun b => { b with held := false })
        s.askBlock b.1) s)

/-! Completion (R387). -/

/-- Every block of a launch has ended, or none is left and no more is placed. -/
def State.blocksDone (s : State) (id : Nat) (l : Launch) : Bool :=
  !s.blocks.any (fun b => b.2.launch == id) && (l.failure.isSome || decide (l.nblk ≤ l.nextBlk))

/-- Futures of a launch's agents that are PENDING, and publications lodged for its groups. -/
def State.launchBusy (s : State) (id : Nat) (l : Launch) : Bool :=
  (match s.ctx? l.ctx with
  | some c => c.futs.any (fun f => f.2.st == .pending && f.2.launch == id)
  | none => false) ||
  s.store.reqs.any (fun r => match r.2.gid with
    | some g => g / 2 ^ 48 == id
    | none => false)

/-- The completion record. -/
def doneRecord (id : Nat) (l : Launch) : List Byte :=
  le 8 (l.doneval.toNat + id * 2 ^ 32) ++ le 8 (match l.failure with
    | some (_, b, c) => c.code.toNat + b * 2 ^ 32
    | none => 0)

/-- Piccolo slots bound to a launch stop and are unbound. -/
def State.stopSlots (s : State) (id : Nat) : State :=
  (s.cores.filter (fun k => k.2.slot.bound == some id)).foldl (fun (s : State) k => s.unbindSlot k.1) s

/-! The end of a context (R398). -/

/-- A context that HALT has named is gone once no group, stream or launch of it is left: its tables, pages, cached leaves and unpublished lines go with it. -/
def State.reapCtx (s : State) (c : Nat) : State :=
  match s.ctx? c with
  | none => s
  | some x =>
    let busy := s.groups.any (fun p => p.2.ctx == c) || s.launches.any (fun l => l.2.ctx == c) ||
      s.clusters.any (fun k => (k.2.seq.st != .free && k.2.seq.ctx == c) || k.2.saves.any (fun q => q.2.seq.ctx == c))
    if !x.halted || busy then s
    else
      let s := (FMap.keys x.tables).foldl (fun (s : State) n => s.dropTable c n) s
      let clean (k : Nat × Cluster) : Nat × Cluster := (k.1, { k.2 with
        buf := k.2.buf.filter (fun p => keyCtxLine p.1 != c), app := k.2.app.filter (fun p => keyCtxLine p.1 != c)
        lib := k.2.lib.filter (fun p => leafCtx p.1 != c) })
      let cleanCore (k : Nat × Core) : Nat × Core := (k.1, { k.2 with
        l1 := k.2.l1.filter (fun p => keyCtxLine p.1 != c), code := k.2.code.filter (fun p => keyCtxLine p.1 != c) })
      let cleanHost (k : Nat × HostMaster) : Nat × HostMaster := (k.1, { k.2 with
        buf := k.2.buf.filter (fun p => keyCtxLine p.1 != c), app := k.2.app.filter (fun p => keyCtxLine p.1 != c) })
      { s with
        ctxs := s.ctxs.erase c, clusters := s.clusters.map clean, cores := s.cores.map cleanCore, hosts := s.hosts.map cleanHost
        waiters := s.waiters.filter (fun w => w.2.ctx != c), migs := s.migs.filter (fun m => pageCtx m.1 != c)
        store := { s.store with
          leaves := s.store.leaves.filter (fun p => leafCtx p.1 != c), pages := s.store.pages.filter (fun p => pageCtx p.1 != c) } }

/-- LAUNCH_COMPLETE (R387): the slots stop, the futures resolve, the completion record is published, the launch is gone. -/
def execLaunchComplete (launch : Nat) (s : State) : Out :=
  match s.launchOf launch with
  | none => .next s
  | some l =>
    if !s.blocksDone launch l then .next s
    else if !l.slotsStopped then .next ((s.stopSlots launch).modLaunch launch (fun l => { l with slotsStopped := true }))
    else
      let ended (s : State) : State := (({ s with launches := s.launches.erase launch }).bufRelease l.ctx launch).reapCtx l.ctx
      match l.doneReq with
      | some r => if s.reqSt r == .complete then .next (ended s) else .next s
      | none =>
        if s.launchBusy launch l then .next s
        else if l.doneAt = 0 then .next (ended s)
        else
          let (r, s) := s.lodgeBytes 0 l.ctx none l.doneAt (doneRecord launch l)
          .next (s.modLaunch launch (fun l => { l with doneReq := some r }))

/-! Context instructions (R395 to R398). -/

/-- QUIESCE: placing stops, every resident block of the context is pre-empted. -/
def execQuiesce (w : Ctl) (s : State) : Out :=
  ctlWord 0x301 w s (fun gid _ g r s =>
    let b := readGr g.regs w.b
    match s.ctxArg (readGr g.regs w.a) with
    | none => s.trapPlain gid r .illop
    | some c =>
      if c = g.ctx then s.trapPlain gid r .illop
      else if b.toNat % 8 ≠ 0 then s.trapRun gid r .align r.mask b 0 0
      else
        let s := s.modCtx c (fun x => { x with quiet := .quiescing g.ctx b })
        (s.blocks.filter (fun k => ((s.launchOf k.2.launch).map (·.ctx)) == some c)).foldl (fun (s : State) k => s.askBlock k.1) s)

/-- The logs whose open batch holds lines of a context that no request of that kind waits for. -/
def State.quietLogs (s : State) (c : Nat) : List Nat :=
  let logs := FMap.keys s.clusters ++ (FMap.keys s.hosts).map (· + 320)
  logs.filter (fun l => (s.batchKeys l).any (fun k => keyCtxLine k == c) &&
    !s.store.reqs.any (fun r => r.2.log == l && r.2.kind == .ctxBatch && r.2.ctx == c && r.2.st == .waiting))

/-- QUIESCE_COMPLETE (R397): once nothing of the context is resident its open-batch lines are published; once nothing is PENDING it is quiesced and
the flag is published. -/
def execQuiesceComplete (ctx : Nat) (s : State) : Out :=
  match s.ctx? ctx with
  | none => .next s
  | some x => match x.quiet with
    | .quiescing by_ flag =>
      if s.residentOf ctx then .next s
      else match s.quietLogs ctx with
      | l :: ls => .next ((l :: ls).foldl (fun (s : State) l => (s.lodge l ctx none .ctxBatch [] 0).2) s)
      | [] =>
        if s.openOf ctx || x.anyPending then .next s
        else
          let s := s.modCtx ctx (fun x => { x with quiet := .quiesced })
          .next (if flag = 0 then s else (s.lodgeBytes 0 by_ none flag.toNat (le 8 1)).2)
    | _ => .next s

/-- RESUME. -/
def execResume (w : Ctl) (s : State) : Out :=
  ctlWord 0x302 w s (fun gid _ g r s =>
    match s.ctxArg (readGr g.regs w.a) with
    | none => s.trapPlain gid r .illop
    | some c => s.modCtx c (fun x => if x.quiet = .quiesced then { x with quiet := .running } else x))

/-- The bits of a context descriptor that must be zero (R396). -/
def descZero (d : List Byte) : Bool :=
  let f (o n : Nat) : Nat := kField d o n
  decide (f 0 8 < 2 ^ 44) && decide (f 8 8 < 2) && decide (f 16 8 < 2 ^ 32) && (List.range 4).all (fun i => f (24 + 2 * i) 2 / 4096 % 8 == 0) &&
  f 32 8 == 0 && f 40 8 == 0 && f 48 8 == 0 && f 56 8 / 2 ^ 16 % 2 ^ 47 == 0

/-- A context as its descriptor gives it. -/
def ctxOfDesc (d : List Byte) : Ctx :=
  { Ctx.empty with
    ixroot := BitVec.ofNat 44 (kField d 0 8), priv := kField d 8 1 % 2 == 1, logstall := BitVec.ofNat 32 (kField d 16 4)
    replicas := (List.range 4).map (fun i => BitVec.ofNat 16 (kField d (24 + 2 * i) 2)) }

/-- An id that no context has, from a free choice. -/
def freeCtx (used : List Nat) : Nat → Nat → Nat
  | 0, i => i % 65536
  | fuel + 1, i => if i % 65536 ∈ used then freeCtx used fuel (i + 1) else i % 65536

/-- The context is created, with the tree at its root; way 63 is the command processor's (R448). -/
def State.makeCtx (s : State) (d : List Byte) : Nat × State :=
  let (n, s) := s.newFree
  let c := freeCtx (FMap.keys s.ctxs) 1025 (Config.ctxPick n)
  let x := ctxOfDesc d
  let s := s.setStore { s.store with
    leaves := s.store.leaves.filter (fun p => leafCtx p.1 != c), pages := s.store.pages.filter (fun p => pageCtx p.1 != c) }
  (c, ({ s with ctxs := s.ctxs.set c x }).loadTree c x.ixroot.toNat)

/-- CTXLD: the descriptor is read as a load of the group's. A line that is PREP, or a peer's, is waited for at the word. -/
def execCtxld (w : Ctl) (s : State) : Out :=
  ctlWord 0x304 w s (fun gid second g r s =>
    let a := (readGr g.regs w.a).toNat
    let core := s.grpCore g
    if a % 64 ≠ 0 then s.trapRun gid r .align r.mask (BitVec.ofNat 64 a) 0 0
    else match s.translate (s.grpCluster g) g.ctx a (needLoad 8) with
    | .bad c => s.trapRun gid r c r.mask (BitVec.ofNat 64 a) 0 0
    | .park pg =>
      (s.addWaiter (clusterDie (coreCluster core)) pg (.group gid) g.launch g.ctx).modRun gid second (fun r => { r with wait := .park pg })
    | .ok _ =>
      if (s.cpLine g.ctx a).isNone then (s.cpAsk g.ctx a).waitFuture gid second
      else
        let own := s.ownBytes (s.grpCluster g) (lineKey g.ctx a)
        let d := ((Line.bytes (mergeLine own.1 own.2 ((s.cpLine g.ctx a).getD 0))).drop (a % 256)).take 64
        let s := s.dropHeld
        let put (x : Dword) (s : State) : State := s.modGrp gid (fun g => { g with regs := g.regs.setG (gReg w.d) x })
        if !descZero d then s.trapPlain gid r .illop
        else if s.ctxs.length ≥ 1024 then put (BitVec.allOnes 64) s
        else
          let (c, s) := s.makeCtx d
          put (BitVec.ofNat 64 c) s)

/-- The descriptor of a context; all zero unless it is quiesced. -/
def State.ctxDesc (s : State) (c : Nat) : List Byte :=
  match s.ctx? c with
  | some x =>
    if s.quiesced c then
      le 8 x.ixroot.toNat ++ le 8 (if x.priv then 1 else 0) ++ le 8 x.logstall.toNat ++
      (List.range 4).flatMap (fun i => le 2 (x.replicas.getD i 0).toNat) ++ List.replicate 24 0 ++ le 8 (c + 2 ^ 63)
    else List.replicate 64 0
  | none => List.replicate 64 0

/-- CTXSV: the index is written back, then the descriptor is published. Without log space the word waits. -/
def execCtxsv (w : Ctl) (s : State) : Out :=
  ctlWord 0x305 w s (fun gid second g r s =>
    let a := (readGr g.regs w.b).toNat
    match s.ctxArg (readGr g.regs w.a) with
    | none => s.trapPlain gid r .illop
    | some c =>
      if a % 64 ≠ 0 then s.trapRun gid r .align r.mask (BitVec.ofNat 64 a) 0 0
      else match s.cpPage g.ctx a true with
      | some k => s.trapRun gid r k r.mask (BitVec.ofNat 64 a) 0 0
      | none => match s.syncTree c touchAll with
        | none => s.waitFuture gid second
        | some s => (s.lodgeBytes 0 g.ctx none a (s.ctxDesc c)).2)

/-- A launch fails as HALT has it: CANCELLED, whatever else it reports. -/
def State.haltLaunch (s : State) (id : Nat) : State :=
  (s.failLaunch id 0 .cancelled 0).modLaunch id (fun l => { l with failure := some (0, 0, .cancelled) })

/-- HALT (R398). -/
def execHalt (w : Ctl) (s : State) : Out :=
  ctlWord 0x306 w s (fun gid _ g r s =>
    match s.ctxArg (readGr g.regs w.a) with
    | none => s.trapPlain gid r .illop
    | some c =>
      let mine := s.launches.filter (fun l => l.2.ctx == c)
      let s := mine.foldl (fun (s : State) l => s.haltLaunch l.1) s
      let s := { s with groups := s.groups.map (fun (p : Nat × Group) => if p.2.ctx = c then (p.1, { p.2 with stopReq := true }) else p) }
      let s := (s.blocks.filter (fun b => decide (b.2.launch ∈ FMap.keys mine))).foldl (fun (s : State) b => s.dropLocks b.1) s
      let s := s.cancelAll c
      let drops := s.aops.filter (fun p => p.2.ctx == c && (match p.2.kind with
        | .snapdrop _ => true
        | _ => false))
      let s := drops.foldl (fun (s : State) p => s.endAop p.1 .ok) s
      (s.modCtx c (fun x => { x with halted := true, snaps := [], stopped := false })).reapCtx c)

end Sys2Proof.Machine
end

