-- ==== Sys2Proof/Machine/Checkpoint.lean ====
section
/-! DEFINITION. The checkpoint engine: requests, the stream and its shards, the sloe manifest and the commit point, restore, the unit store
(R402 to R411). -/

namespace Sys2Proof.Machine

/-! Keys of an operation's bytes: group entries, a member's answer, a shard's acknowledgement or bytes, a manifest's, the chosen manifest. -/

def ckGroupKey : Nat := 2 ^ 53
def ckAnsKey (i : Nat) : Nat := 2 ^ 54 + i
def ckShardKey (i : Nat) : Nat := 2 ^ 55 + i
def ckManKey (i n : Nat) : Nat := 2 ^ 56 + i * 2 ^ 16 + n
def ckChosen : Nat := 2 ^ 57
/-- The index under which a manifest unit of member i travels. -/
def ckManIdx (i : Nat) : Nat := 2 ^ 32 + i

/-- Bytes of a unit's payload (R410), of its header (Table 17-3). -/
def unitBytes : Nat := 2 ^ 26
def bField (bs : List Byte) (o n : Nat) : Nat := natOfBytes ((bs.drop o).take n)
def padTo (n : Nat) (bs : List Byte) : List Byte := bs.take n ++ List.replicate (n - bs.length) 0
/-- The byte-wise exclusive or. -/
def xorBytes (a b : List Byte) : List Byte := List.zipWith (· ^^^ ·) a b

/-! Requests (R402, Table 17-2). -/

/-- The block from its 64 bytes; `bad` is a non-zero zero field. -/
def ckBlkOf (bs : List Byte) : CkBlk :=
  let d (o : Nat) : BitVec 64 := BitVec.ofNat 64 (bField bs o 8)
  let op := (d 0).extractLsb' 0 8
  { op := op, slot := ((d 0).extractLsb' 8 6).toNat, g := ((d 0).extractLsb' 16 7).toNat, step := d 8, group := (d 0x10).toNat
    srcmod := (d 0x18).extractLsb' 16 12, srcctx := (d 0x18).extractLsb' 0 16, key := (d 0x28).toNat
    bad := (d 0).extractLsb' 14 2 != 0 || (d 0).extractLsb' 23 41 != 0 || (d 0x20).extractLsb' 33 7 != 0 || bField bs 0x30 16 != 0 ||
      (op == 1 && (d 0x18).extractLsb' 0 28 != 0) }

/-- The status dword: handle, COMMITTED, REBUILT. -/
def ckStatus (h : Word) (committed : Bool) (rebuilt : Nat) : List Byte := le 8 (h.toNat + committed.toNat * 2 ^ 32 + rebuilt % 2 ^ 24 * 2 ^ 40)

def State.ckRefuse (s : State) : State := { s with ckpt := { s.ckpt with refused := true, accepting := none } }

/-- An acceptance goes on (R402): the block is read, a future allocated, the status dword published. It waits for a peer's line and for the future-table entry. -/
def State.ckAccept (s : State) : State :=
  match s.ckpt.accepting with
  | none => s
  | some (c, a) => match s.cpRead c a 64 with
    | .bad _ => s.ckRefuse
    | .wait s => s
    | .ok bs =>
      let n := s.fresh
      match s.allocFut c 8 none 0 n with
      | none => s
      | some (s, h) =>
        let s := (s.newNum).2
        let (q, s) := s.lodgeBytes 0 c none (a + 0x20) (ckStatus h false 0)
        let o : AOp := AOp.new c none 0 0 (hTag h) (.ckpt a (ckBlkOf bs)) (.prePub q) s.pcc
        { s.dropHeld with
          aops := s.aops.set n o
          ckpt := { s.ckpt with accepting := none, waiting := s.ckpt.waiting ++ [n] } }

/-- A CKREQ for a block of a context. -/
def State.ckRequest (s : State) (c a : Nat) : State :=
  if s.ckpt.accepting.isSome || decide (64 ≤ s.ckpt.waiting.length) || (s.ctx? c).isNone then
    { s with ckpt := { s.ckpt with refused := true } }
  else { s with ckpt := { s.ckpt with accepting := some (c, a) } }.ckAccept

/-! The unit store (R405, R407, R411, Table 17-3). -/

/-- Where a unit's header and payload stand, from the store's base. -/
def hdrAt (u : Nat) : Nat := 256 * u
def payAt (u : Nat) : Nat := unitBytes * (u + 1)
def State.unitHdr (s : State) (u : Nat) : List Byte := s.mems.ckstore.readBytes (hdrAt u) 256
def State.unitPay (s : State) (u : Nat) : List Byte := s.mems.ckstore.readBytes (payAt u) unitBytes
def setStoreMem (s : State) (m : Memory) : State := s.setMems { s.mems with ckstore := m }

/-- A shard header. -/
def shardHdr (step : BitVec 64) (ctx : Nat) (src : BitVec 12) (g stripe pos len : Nat) (seq : BitVec 64) (pay : List Byte) : List Byte :=
  padTo 256 (le 8 step.toNat ++ le 8 (ctx % 2 ^ 16 + src.toNat * 2 ^ 16 + g * 2 ^ 32) ++ le 8 (stripe % 2 ^ 32 + pos * 2 ^ 32) ++ le 8 len ++
    le 8 seq.toNat ++ List.replicate 24 0 ++ le 64 (Config.sha512 pay).toNat)
def hStep (h : List Byte) : Nat := bField h 0 8
def hCtx (h : List Byte) : Nat := bField h 8 2
def hSrc (h : List Byte) : Nat := bField h 0x0A 2 % 4096
def hStripe (h : List Byte) : Nat := bField h 0x10 4
def hPos (h : List Byte) : Nat := bField h 0x14 1
def hSeq (h : List Byte) : Nat := bField h 0x20 8

/-- Free units: those neither in use nor set aside. -/
def Ckpt.freeUnits (c : Ckpt) : Nat := c.units.toNat - c.used.length - (c.resv.map (·.2)).sum
def resvKey (m : BitVec 12) (op : Nat) : Nat := m.toNat * 2 ^ 64 + op

/-- A unit takes a shard that its attempt has room for; the lowest free one. -/
def State.takeUnit (s : State) (m : BitVec 12) (op : Nat) (bs : List Byte) : Option (State × Nat) :=
  let left := s.ckpt.resv.getD 0 (resvKey m op)
  match (List.range s.ckpt.units.toNat).find? (fun u => !decide (u ∈ s.ckpt.used)) with
  | none => none
  | some u =>
    if left = 0 then none
    else
      let mem := (s.mems.ckstore.writeBytes (hdrAt u) (bs.take 256)).writeBytes (payAt u) (bs.drop 256)
      some ({ setStoreMem s mem with
              ckpt := { s.ckpt with used := s.ckpt.used ++ [u], resv := FMap.put s.ckpt.resv 0 (resvKey m op) (left - 1) } }, u)

/-- Units return free: their headers are cleared, so that nothing names them again. -/
def State.dropUnits (s : State) (p : Nat → Bool) : State :=
  let out := s.ckpt.used.filter p
  { setStoreMem s (out.foldl (fun (m : Memory) u => m.clear (hdrAt u) 256) s.mems.ckstore) with
    ckpt := { s.ckpt with used := s.ckpt.used.filter (fun u => !p u) } }

/-- An attempt of a module ends here: what it set aside is free; so are its own units, or with `older` those of earlier attempts. -/
def State.ckFreeIn (s : State) (m : BitVec 12) (op ctx : Nat) (seq : BitVec 64) (older : Bool) : State :=
  let mine (u : Nat) : Bool :=
    let h := s.unitHdr u
    hCtx h == ctx && hSrc h == m.toNat && (if older then decide (hSeq h < seq.toNat) else hSeq h == seq.toNat)
  let s := s.dropUnits mine
  { s with ckpt := { s.ckpt with resv := s.ckpt.resv.erase (resvKey m op) } }

/-- The manifest units of (SRCMOD, CTX) in the store. -/
def State.manUnits (s : State) (m : BitVec 12) (ctx : Nat) : List Nat :=
  s.ckpt.used.filter (fun u => let h := s.unitHdr u; hPos h == 0xFF && hCtx h == ctx && hSrc h == m.toNat)
/-- The newest SEQ of its manifests; 0 where there is none. -/
def State.newestSeq (s : State) (m : BitVec 12) (ctx : Nat) : Nat := (s.manUnits m ctx).foldl (fun a u => max a (hSeq (s.unitHdr u))) 0

/-- A member's answer to a query: room set aside, and the newest SEQ. -/
def State.ckQueryIn (s : State) (m : BitVec 12) (op ctx need : Nat) : Bool × BitVec 64 × State :=
  let seq := BitVec.ofNat 64 (s.newestSeq m ctx)
  if need ≤ s.ckpt.freeUnits then (true, seq, { s with ckpt := { s.ckpt with resv := FMap.put s.ckpt.resv 0 (resvKey m op) need } })
  else (false, seq, s)

/-- SHARD_RECEIVE (R405): a shard from a peer becomes one unit and is acknowledged once it is durable; without room the sender learns of it. -/
def execShardReceive (msg : Nat) (s : State) : Out :=
  match s.inbox.get? msg with
  | none => .next s
  | some m => match m.body with
    | .shard op idx bs =>
      let s := { s with inbox := s.inbox.erase msg }
      match s.takeUnit m.peer op bs with
      | some (s, u) => .next (s.sendMsg m.peer 2 op (.shardAck op idx u))
      | none => .next (s.sendMsg m.peer 2 op (.ckAnswer op false 0))
    | _ => .next s

/-! Members. -/

/-- A group entry: its module, or none where it breaks Table 4-7. -/
def entryModule (self : BitVec 12) (e : Nat) : Option (BitVec 12) :=
  let b := BitVec.ofNat 64 e
  if b.extractLsb' 16 48 != 0 || b.extractLsb' 12 3 != 0 then none
  else if b.getLsbD 15 then (if b.extractLsb' 0 12 == 0 then some self else none)
  else if (b.extractLsb' 0 12).toNat < Config.partitionSize then some (b.extractLsb' 0 12) else none
def groupEntries (bs : List Byte) (g : Nat) : List Nat := (List.range g).map (fun i => bField bs (8 * i) 8)
/-- The modules of a group as this module's operation has them. -/
def AOp.members (o : AOp) : List (BitVec 12) :=
  let bs := (o.buf ckGroupKey).getD []
  (groupEntries bs (bs.length / 8)).map (fun e => (entryModule Config.moduleIndex e).getD 0)

/-- A message to every member but this module. -/
def State.toMembers (s : State) (o : AOp) (body : QfBody) : State :=
  o.members.foldl (fun (s : State) m => if m = Config.moduleIndex then s else s.sendMsg m 2 0 body) s

/-- The SEQ of an attempt (R406), once every member has answered. -/
def AOp.seqNo (o : AOp) : BitVec 64 :=
  BitVec.ofNat 64 ((List.range o.members.length).foldl (fun a i => max a (natOfBytes ((o.buf (ckAnsKey i)).getD []))) 0 + 1)

/-- Whether every member of an operation has answered. -/
def AOp.allAnswered (o : AOp) : Bool := (List.range o.members.length).all (fun i => (o.buf (ckAnsKey i)).isSome)

/-- Whether a WRITE has committed: the status dword's publication is on its way or over. -/
def AOp.committed (o : AOp) : Bool := match o.stage with
  | .flagging _ => true
  | _ => false

/-- An operation leaves the engine. Before the commit point a WRITE gives back its units everywhere (R407). -/
def State.ckEnd (s : State) (op : Nat) (st : FutSt) : State :=
  match s.aops.get? op with
  | none => s
  | some o =>
    let write := match o.kind with
      | .ckpt _ b => b.op == 1
      | _ => false
    let began := (o.buf ckGroupKey).isSome
    let older := st == .ok
    let seq := if o.allAnswered then o.seqNo else 0
    let s := if write && began && (older || !o.committed) then
        (s.toMembers o (.ckFree op o.ctx seq older)).ckFreeIn Config.moduleIndex op o.ctx seq older
      else s
    let s := { s with ckpt := { s.ckpt with active := s.ckpt.active.filter (· != op), waiting := s.ckpt.waiting.filter (· != op) } }
    (s.endAop op st).dropSlots o.ctx

/-! The stream (R404). -/

/-- Whether a line is present in the stream. -/
def ckPresent (recs : FMap Rec) (e : IxEntry) : Bool := !e.z && e.f0msk != 0 && readEntry recs e != 0

/-- One page unit: its descriptor and its present lines. -/
def pageUnit (recs : FMap Rec) (leaves : FMap HomeLeaf) (pk : Nat) (h : PageHdr) : List Byte :=
  let bare := h.remote || decide (2 ≤ h.mtype.toNat)
  let ent (i : Nat) : IxEntry := match leaves.get? (pageCtx pk * 2 ^ 36 + pk % 2 ^ 31 * 32 + i / 16) with
    | some lf => lf.ents.getD IxEntry.empty (i % 16)
    | none => IxEntry.empty
  let ls := if bare then [] else (List.range 512).filter (fun i => ckPresent recs (ent i))
  le 8 (pageAddr pk) ++ le 8 ((hdrBits h).toNat % 2 ^ 25) ++ List.replicate 48 0 ++ le 64 (ls.foldl (fun a i => a + 2 ^ i) 0) ++ List.replicate 128 0 ++
    ls.flatMap (fun i => Line.bytes (readEntry recs (ent i)))

/-- The stream of a root: its page units in ascending order, and the end descriptor. -/
def ckStream (recs : FMap Rec) (c root : Nat) : List Byte :=
  let t := if root = 0 then ([], []) else loadNode recs c 7 (2 ^ 47) (root + 9) (loadNode recs c 7 0 root ([], []))
  (t.2.filter (fun p => p.2.valid)).flatMap (fun p => pageUnit recs t.1 p.1 p.2) ++ List.replicate 8 0xFF ++ List.replicate 248 0

/-- The stripe and position of every shard, in order. -/
def shardPlaces (len g : Nat) : List (Nat × Nat) :=
  let d := (len + unitBytes - 1) / unitBytes
  (List.range ((d + g - 2) / (g - 1))).flatMap (fun k =>
    (k, 0) :: ((List.range (g - 1)).filter (fun p => decide (k * (g - 1) + p < d))).map (fun p => (k, p + 1)))
/-- Data shard j of a stream. -/
def dataShard (bs : List Byte) (j : Nat) : List Byte := padTo unitBytes ((bs.drop (j * unitBytes)).take unitBytes)
def dataLen (bs : List Byte) (j : Nat) : Nat := min unitBytes (bs.length - j * unitBytes)
/-- The payload of a shard; position 0 is the parity of its stripe. -/
def shardPay (bs : List Byte) (g k p : Nat) : List Byte :=
  if p = 0 then (List.range (g - 1)).foldl (fun a i => xorBytes a (dataShard bs (k * (g - 1) + i))) (List.replicate unitBytes 0)
  else dataShard bs (k * (g - 1) + p - 1)
/-- The entry of the group that takes a shard. -/
def placeOf (g k p : Nat) : Nat := (k + p) % g

/-- The stream that a WRITE serialises. -/
def State.streamFor (s : State) (o : AOp) (b : CkBlk) : List Byte := ckStream s.store.recs o.ctx (s.snap o.ctx b.slot).root.toNat

/-! Starting an operation (R403). -/

/-- R358, but for the operation's own future. -/
def State.ckQuiet (s : State) (c tag : Nat) : Bool :=
  match s.ctx? c with
  | some x => x.quiet == .quiesced && !s.residentOf c && !(x.futs.any (fun f => f.2.st == .pending && f.1 != tag)) && !s.openOf c
  | none => false

/-- Another WRITE of the context in progress. -/
def State.otherWrite (s : State) (op c : Nat) : Bool :=
  s.ckpt.active.any (fun k => k != op && match s.aops.get? k with
    | some o => o.ctx == c && (match o.kind with
      | .ckpt _ b => b.op == 1
      | _ => false)
    | none => false)

/-- The first check that fails, for the entries of the group. -/
def State.ckCheck (s : State) (op : Nat) (o : AOp) (b : CkBlk) (es : List Nat) : Option Cause :=
  let ms := es.map (entryModule Config.moduleIndex)
  if (b.op != 1 && b.op != 2) || b.bad || decide (b.g < 2) || decide (64 < b.g) || ms.any Option.isNone || ms.dedup.length != ms.length then some .illop
  else if b.op = 1 then (if (s.snap o.ctx b.slot).st != .held || s.otherWrite op o.ctx then some .access else none)
  else if s.ckQuiet o.ctx o.tag then none else some .access

/-- How many units member i of a group of g takes: its shards and a manifest. -/
def unitsFor (places : List (Nat × Nat)) (g i : Nat) : Nat := (places.filter (fun x => placeOf g x.1 x.2 == i)).length + 1

/-- Ask every member of a WRITE for room; this module answers at once. -/
def State.askRoom (s : State) (op : Nat) (o : AOp) (b : CkBlk) : State :=
  let places := shardPlaces (s.streamFor o b).length b.g
  (List.range b.g).foldl (fun (s : State) i =>
    let m := o.members.getD i 0
    let need := unitsFor places b.g i
    if m = Config.moduleIndex then
      let (ok, seq, s) := s.ckQueryIn m op o.ctx need
      if ok then s.modAop op (fun o => o.putBuf (ckAnsKey i) (le 8 seq.toNat)) else s.ckEnd op (.failed .logfull)
    else s.sendMsg m 2 op (.ckQuery op o.ctx need)) s

/-- The bytes of a store's manifests of a writer: payloads, each cut at its end. -/
def manLen (bs : List Byte) : Nat := 0x30 + 8 * bField bs 1 1 + 80 * bField bs 0x28 8 + 64
def State.manBytes (s : State) (m : BitVec 12) (ctx : Nat) : List (List Byte) :=
  (s.manUnits m ctx).map (fun u => let p := s.unitPay u; p.take (manLen p))

/-- A member's manifests arrive; an unreachable member has none. -/
def State.ckFoundIn (s : State) (op i : Nat) (ms : List (List Byte)) : State :=
  s.modAop op (fun o =>
    if (o.buf (ckAnsKey i)).isSome then o
    else { o with bufs := o.bufs ++ (ckAnsKey i, []) :: (List.range ms.length).map (fun n => (ckManKey i n, ms.getD n [])) })

/-- Ask every member of a RESTORE for its manifests. -/
def State.askManifests (s : State) (op : Nat) (o : AOp) (b : CkBlk) : State :=
  (List.range b.g).foldl (fun (s : State) i =>
    let m := o.members.getD i 0
    if m = Config.moduleIndex then s.ckFoundIn op i (s.manBytes b.srcmod b.srcctx.toNat)
    else if (s.routeLinks m).isEmpty then s.ckFoundIn op i []
    else s.sendMsg m 2 op (.ckList op b.srcmod.toNat b.srcctx.toNat)) s

/-- The head of the waiting operations starts while fewer than 4 run: its group is read, its checks are made. A G of at most 64 bounds the read. -/
def State.ckStart (s : State) (op : Nat) (o : AOp) (b : CkBlk) : State :=
  let begin_ (s : State) (bs : List Byte) : State :=
    let s := { s.dropHeld with ckpt := { s.ckpt with active := s.ckpt.active ++ [op], waiting := s.ckpt.waiting.filter (· != op) } }
    match s.ckCheck op o b (groupEntries bs b.g) with
    | some c => s.ckEnd op (.failed c)
    | none =>
      let o := { o.putBuf ckGroupKey bs with stage := .running }
      let s := s.modAop op (fun _ => o)
      if b.op = 1 then s.askRoom op o b else s.askManifests op o b
  if b.g < 2 ∨ 64 < b.g then begin_ s []
  else match s.cpRead o.ctx b.group (8 * b.g) with
    | .ok bs => begin_ s bs
    | .wait s => s
    | .bad c => s.ckEnd op (.failed c)

/-- A shard leaves for its module, or becomes a unit of this one. -/
def State.putShard (s : State) (op idx : Nat) (m : BitVec 12) (bs : List Byte) : State :=
  if m = Config.moduleIndex then match s.takeUnit m op bs with
    | some (s, u) => s.modAop op (fun o => o.putBuf (ckShardKey idx) (le 2 u))
    | none => s.ckEnd op (.failed .logfull)
  else s.sendMsg m 2 op (.shard op idx bs)

/-- The next shard of a WRITE (R405). -/
def State.nextShard (s : State) (op : Nat) (o : AOp) (b : CkBlk) : State :=
  let bs := s.streamFor o b
  match (shardPlaces bs.length b.g)[o.chunk]? with
  | none => s
  | some (k, p) =>
    let pay := shardPay bs b.g k p
    let len := if p = 0 then 0 else dataLen bs (k * (b.g - 1) + p - 1)
    let h := shardHdr b.step o.ctx Config.moduleIndex b.g k p len o.seqNo pay
    (s.modAop op (fun o => { o with chunk := o.chunk + 1 })).putShard op o.chunk (o.members.getD (placeOf b.g k p) 0) (h ++ pay)

/-- CK_OP_START (R402, R403, R405): a waiting acceptance goes on; the head of the waiting operations starts; a running WRITE sends its next shard.
A cancelled operation leaves. -/
def execCkOpStart (op : Nat) (s : State) : Out :=
  let s := s.ckAccept
  match s.aops.get? op with
  | none => .next s
  | some o => match o.kind with
    | .ckpt _ b =>
      if o.cancelled then .next (s.ckEnd op .cancelled)
      else match o.stage with
      | .prePub q =>
        if s.ckpt.waiting.head? = some op ∧ s.ckpt.active.length < 4 ∧ s.reqSt q = .complete then .next (s.ckStart op o b) else .next s
      | .running => if b.op = 1 ∧ o.allAnswered = true then .next (s.nextShard op o b) else .next s
      | _ => .next s
    | _ => .next s

/-! The manifest and the commit point (R406, R407). -/

/-- The manifest of an attempt, signed by this module. -/
def State.manifest (s : State) (o : AOp) (b : CkBlk) : List Byte :=
  let bs := s.streamFor o b
  let places := shardPlaces bs.length b.g
  let entry (i : Nat) : List Byte :=
    let (k, p) := places.getD i (0, 0)
    le 4 k ++ le 1 p ++ le 1 (placeOf b.g k p) ++ ((o.buf (ckShardKey i)).getD [0, 0]) ++ le 64 (Config.sha512 (shardPay bs b.g k p)).toNat ++ le 8 0
  let body := le 8 (1 + b.g * 2 ^ 8 + o.ctx % 2 ^ 16 * 2 ^ 16 + Config.moduleIndex.toNat * 2 ^ 32) ++ le 8 o.seqNo.toNat ++ le 8 b.step.toNat ++
    le 8 (s.snap o.ctx b.slot).cut.toNat ++ le 8 bs.length ++ le 8 places.length ++ ((o.buf ckGroupKey).getD []) ++
    (List.range places.length).flatMap entry
  body ++ le 64 (Config.edSign Config.identityKey body).toNat

/-- Whether shards 0 to n − 1 of an operation have been acknowledged, or fetched. -/
def AOp.shardsIn (o : AOp) (n : Nat) : Bool := (List.range n).all (fun i => (o.buf (ckShardKey i)).isSome)

/-- MANIFEST_WRITE (R406): after every shard has been acknowledged the manifest goes to every member. -/
def execManifestWrite (op : Nat) (s : State) : Out :=
  match s.aops.get? op with
  | none => .next s
  | some o => match o.kind, o.stage with
    | .ckpt _ b, .running =>
      if o.cancelled then .next (s.ckEnd op .cancelled)
      else
        let n := (shardPlaces (s.streamFor o b).length b.g).length
        if b.op = 1 ∧ o.allAnswered = true ∧ o.shardsIn n = true then
          let pay := padTo unitBytes (s.manifest o b)
          let h := shardHdr b.step o.ctx Config.moduleIndex b.g 0 0xFF 0 o.seqNo pay
          let s := s.modAop op (fun o => { o with stage := .holding })
          .next ((List.range b.g).foldl (fun (s : State) i => s.putShard op (ckManIdx i) (o.members.getD i 0) (h ++ pay)) s)
        else .next s
    | _, _ => .next s

/-- The members whose manifest copy is durable. -/
def AOp.copies (o : AOp) : Nat := ((List.range o.members.length).filter (fun i => (o.buf (ckShardKey (ckManIdx i))).isSome)).length

/-- Publish the status dword of an operation, if its page is still mapped; the request, if one was made. -/
def State.ckTell (s : State) (op : Nat) (o : AOp) (a : Nat) (bs : List Byte) : State :=
  if (s.cpPage o.ctx a false).isNone then
    let (q, s) := s.lodgeBytes 0 o.ctx none a bs
    s.modAop op (fun o => { o with stage := .flagging q })
  else s.modAop op (fun o => { o with stage := .flagging 0 })
def AOp.handle (o : AOp) (s : State) : Word :=
  mkHandle 8 o.tag (((s.ctx? o.ctx).map (fun c => (c.fut o.tag).gen)).getD 0)

/-- CK_COMMIT (R407): with the first durable copy COMMITTED is published; with every copy durable the future is DONE and older units are freed. -/
def execCkCommit (op : Nat) (s : State) : Out :=
  match s.aops.get? op with
  | none => .next s
  | some o => match o.kind, o.stage with
    | .ckpt a b, .holding =>
      if b.op != 1 then .next s
      else if 0 < o.copies then .next (s.ckTell op o (a + 0x20) (ckStatus (o.handle s) true 0))
      else if o.cancelled then .next (s.ckEnd op .cancelled)
      else .next s
    | .ckpt _ b, .flagging q =>
      if b.op != 1 || s.reqSt q != .complete then .next s
      else if o.cancelled then .next (s.ckEnd op .cancelled)
      else if o.copies = o.members.length then .next (s.ckEnd op .ok) else .next s
    | _, _ => .next s

/-! Restore (R408, R409). -/

/-- Fields of a manifest. -/
def manG (m : List Byte) : Nat := bField m 1 1
def manCount (m : List Byte) : Nat := bField m 0x28 8
def manEntry (m : List Byte) (i : Nat) : List Byte := (m.drop (0x30 + 8 * manG m + 80 * i)).take 80
def entStripe (e : List Byte) : Nat := bField e 0 4
def entPos (e : List Byte) : Nat := bField e 4 1
def entMember (e : List Byte) : Nat := bField e 5 1
def entUnit (e : List Byte) : Nat := bField e 6 2
def entDigest (e : List Byte) : Nat := bField e 8 64
def manModule (m : List Byte) (i : Nat) : Option (BitVec 12) :=
  entryModule (BitVec.ofNat 12 (bField m 4 2)) (bField m (0x30 + 8 * i) 8)

/-- Whether a manifest is whole, of the writer, and signed under a key. -/
def manGood (key : BitVec 256) (b : CkBlk) (m : List Byte) : Bool :=
  decide (0x70 ≤ m.length) && m.length == manLen m && bField m 0 1 == 1 && bField m 2 2 == b.srcctx.toNat && bField m 4 2 % 4096 == b.srcmod.toNat &&
  (b.step == BitVec.allOnes 64 || bField m 0x10 8 == b.step.toNat) &&
  Config.edVerify key (m.take (m.length - 64)) (BitVec.ofNat 512 (bField m (m.length - 64) 64))

/-- The good manifest with the highest SEQ. -/
def bestManifest (key : BitVec 256) (b : CkBlk) (ms : List (List Byte)) : Option (List Byte) :=
  (ms.filter (manGood key b)).foldl (fun (best : Option (List Byte)) m => match best with
    | none => some m
    | some x => if bField x 8 8 < bField m 8 8 then some m else best) none

/-- Ask for the shards of the manifest that has been taken. -/
def State.fetchShards (s : State) (op : Nat) (m : List Byte) : State :=
  let s := s.modAop op (fun o => { o.putBuf ckChosen m with chunk := 1 })
  (List.range (manCount m)).foldl (fun (s : State) i =>
    let e := manEntry m i
    let none_ := s.modAop op (fun o => o.putBuf (ckShardKey i) [])
    match manModule m (entMember e) with
    | none => none_
    | some p =>
      if p = Config.moduleIndex then
        if entUnit e < s.ckpt.units.toNat then s.modAop op (fun o => o.putBuf (ckShardKey i) (s.unitHdr (entUnit e) ++ s.unitPay (entUnit e))) else none_
      else if (s.routeLinks p).isEmpty then none_
      else s.sendMsg p 2 op (.ckFetch op i (entUnit e))) s

/-- Whether a shard's unit is not what its manifest says. -/
def shardWrong (m e x : List Byte) : Bool :=
  x.length != 256 + unitBytes || hStep x != bField m 0x10 8 || hCtx x != bField m 2 2 || hSrc x != bField m 4 2 % 4096 || hSeq x != bField m 8 8 ||
  hStripe x != entStripe e || hPos x != entPos e || (Config.sha512 (x.drop 256)).toNat != entDigest e

/-- restore_stripe (R408): the stripe's data shards in order and the shards rebuilt, or a failure. -/
def restoreStripe (m : List Byte) (get : Nat → List Byte) (k : Nat) : Except Cause (List (Nat × List Byte) × Nat) :=
  let xs := ((List.range (manCount m)).filter (fun i => entStripe (manEntry m i) == k)).map (fun i => (manEntry m i, get i))
  let wrong := xs.filter (fun x => shardWrong m x.1 x.2)
  let good := xs.filter (fun x => !shardWrong m x.1 x.2)
  let data (l : List (Nat × List Byte)) : List (Nat × List Byte) :=
    (List.range 64).flatMap (fun p => if p = 0 then [] else l.filter (fun x => x.1 == p))
  let have_ := good.map (fun x => (entPos x.1, x.2.drop 256))
  match wrong with
  | [] => .ok (data have_, 0)
  | [w] =>
    let r := have_.foldl (fun a x => xorBytes a x.2) (List.replicate unitBytes 0)
    if (Config.sha512 r).toNat = entDigest w.1 then .ok (data ((entPos w.1, r) :: have_), 1) else .error .hwerr
  | _ => if wrong.any (fun w => decide (256 ≤ w.2.length) && hStep w.2 != bField m 0x10 8) then .error .mixedStep else .error .hwerr

/-- Every stripe in order: the stream's bytes and the shards rebuilt. -/
def restoreAll (m : List Byte) (get : Nat → List Byte) : Except Cause (List Byte × Nat) :=
  let stripes := (List.range (manCount m)).foldl (fun a i => max a (entStripe (manEntry m i) + 1)) 0
  match (List.range stripes).foldl (fun (acc : Except Cause (List Byte × Nat)) k => match acc with
    | .error c => .error c
    | .ok (bs, n) => match restoreStripe m get k with
      | .error c => .error c
      | .ok (ds, j) => .ok (bs ++ ds.flatMap (·.2), n + j)) (.ok ([], 0)) with
  | .error c => .error c
  | .ok (bs, n) => .ok (bs.take (bField m 0x20 8), n)

/-- The page units of a stream: address, header bits, present lines; `n` bounds their number. -/
def pageUnits : Nat → List Byte → List (Nat × Nat × List (Nat × Line))
  | 0, _ => []
  | n + 1, bs =>
    if bs.length < 256 ∨ bField bs 0 8 = 2 ^ 64 - 1 then []
    else
      let map := bField bs 64 64
      let ls := (List.range 512).filter (fun i => map.testBit i)
      let lines := (List.range ls.length).map (fun j => (ls.getD j 0, Line.ofBytes ((bs.drop (256 * (j + 1))).take 256)))
      (bField bs 0 8, bField bs 8 8, lines) :: pageUnits n (bs.drop (256 * (ls.length + 1)))

/-- The present lines of a page appended in its home's migration log, in the tier of its descriptor, as entries of its leaves. -/
def State.restoreLines (s : State) (c a : Nat) (h : PageHdr) : List (Nat × Line) → Option (State × List (Nat × IxEntry))
  | [] => some (s, [])
  | (i, d) :: rest =>
    let log := migLog h
    let r := wholeRec s log c (a / 256 + i) 2 d
    match s.appendTier log h.home.toNat h.tier false r with
    | none => none
    | some (s, p) => match s.restoreLines c a h rest with
      | none => none
      | some (s, xs) => some (s, (i, commitEntry IxEntry.empty (BitVec.ofNat 44 p) 0xFF r.fmt) :: xs)

/-- The new tree's homes for one page. -/
def State.restorePage (s : State) (c : Nat) (u : Nat × Nat × List (Nat × Line)) : Option (State × PageHdr × List (Nat × IxEntry)) :=
  let h := hdrOf (u.2.1 % 2 ^ 25)
  (s.restoreLines c u.1 h u.2.2).map (fun q => (q.1, h, q.2))

/-- The pages, one after another, and the leaves and headers of the tree they make. -/
def State.restorePages (s : State) (c : Nat) : List (Nat × Nat × List (Nat × Line)) → Option (State × FMap HomeLeaf × FMap PageHdr)
  | [] => some (s, [], [])
  | u :: us => match s.restorePage c u with
    | none => none
    | some (s, h, es) => match s.restorePages c us with
      | none => none
      | some (s, ls, ps) =>
        let leaf (ls : FMap HomeLeaf) (j : Nat) : FMap HomeLeaf :=
          let mine := es.filter (fun e => e.1 / 16 == j)
          ls.set (leafKey c u.1 + j) { ents := mine.map (fun e => (e.1 % 16, e.2)), dirty := true }
        some (s, (List.range 32).foldl leaf ls, ps.set (pageKey c u.1) h)

/-- The restored tree takes the place of the context's, root way 63 apart, and IXROOT takes its root (R409, R448). -/
def State.switchTree (s : State) (c : Nat) (ls : FMap HomeLeaf) (ps : FMap PageHdr) : Option State :=
  let stays (a : Nat) : Bool := decide (saveRegion ≤ a)
  let ols := s.store.leaves.filter (fun p => leafCtx p.1 != c || stays (leafAddr p.1))
  let ops := s.store.pages.filter (fun p => pageCtx p.1 != c || stays (pageAddr p.1))
  let s := s.setStore { s.store with leaves := ls.foldl (fun m p => m.set p.1 p.2) ols, pages := ps.foldl (fun m p => m.set p.1 p.2) ops }
  (s.syncTree c touchAll).map (fun s => s.shootCtx c)

/-- The write of a RESTORE: all of it, or a wait for log space that leaves the state as it is. -/
def State.restoreWrite (s : State) (op : Nat) (o : AOp) (a : Nat) (bs : List Byte) (rebuilt : Nat) : State :=
  match s.restorePages o.ctx (pageUnits (bs.length / 256) bs) with
  | none => s
  | some (s1, ls, ps) => match s1.switchTree o.ctx ls ps with
    | none => s
    | some s => s.ckTell op o (a + 0x20) (ckStatus (o.handle s) false rebuilt)

/-- CK_RESTORE (R408, R409): with every member's manifests in, one is chosen and its shards fetched; with the shards in, they are verified, rebuilt, written
and the root switched; then REBUILT is published and the future DONE. -/
def execCkRestore (op : Nat) (s : State) : Out :=
  match s.aops.get? op with
  | none => .next s
  | some o => match o.kind, o.stage with
    | .ckpt a b, .running =>
      if b.op != 2 then .next s
      else if o.cancelled then .next (s.ckEnd op .cancelled)
      else if o.chunk = 0 then
        if !o.allAnswered then .next s
        else match s.cpRead o.ctx b.key 32 with
          | .bad c => .next (s.ckEnd op (.failed c))
          | .wait s => .next s
          | .ok k =>
            let s := s.dropHeld
            let ms := (o.bufs.filter (fun p => decide (ckManKey 0 0 ≤ p.1) && decide (p.1 < ckChosen))).map (·.2)
            match bestManifest (BitVec.ofNat 256 (natOfBytes k)) b ms with
            | none => .next (s.ckEnd op (.failed .access))
            | some m => .next (s.fetchShards op m)
      else
        let m := (o.buf ckChosen).getD []
        if !o.shardsIn (manCount m) then .next s
        else if !s.ckQuiet o.ctx o.tag then .next (s.ckEnd op (.failed .access))
        else match restoreAll m (fun i => (o.buf (ckShardKey i)).getD []) with
          | .error c => .next (s.ckEnd op (.failed c))
          | .ok (bs, n) => .next (s.restoreWrite op o a bs n)
    | .ckpt _ b, .flagging q =>
      if b.op != 2 || s.reqSt q != .complete then .next s else .next (s.ckEnd op .ok)
    | _, _ => .next s

/-! What arrives from members; a member that cannot be reached. -/

def AOp.memberOf (o : AOp) (m : BitVec 12) : Nat := o.members.findIdx (· == m)

/-- A member's answer to a query: its newest SEQ, or no room. -/
def State.ckAnswerIn (s : State) (m : BitVec 12) (op : Nat) (ok : Bool) (seq : BitVec 64) : State :=
  match s.aops.get? op with
  | none => s
  | some o => match o.kind with
    | .ckpt _ _ => if ok then s.modAop op (fun o => o.putBuf (ckAnsKey (o.memberOf m)) (le 8 seq.toNat)) else s.ckEnd op (.failed .logfull)
    | _ => s
def State.shardAckIn (s : State) (op idx unit : Nat) : State := s.modAop op (fun o => o.putBuf (ckShardKey idx) (le 2 unit))
def State.ckUnitIn (s : State) (op idx : Nat) (bs : List Byte) : State := s.modAop op (fun o => o.putBuf (ckShardKey idx) bs)

/-- An unreachable member (R407, R408): a WRITE fails with HWERR; a RESTORE goes on without it. -/
def State.ckUnreach (s : State) (m : BitVec 12) (op : Nat) (body : QfBody) : State :=
  match body with
  | .ckQuery _ _ _ => s.ckEnd op (.failed .hwerr)
  | .shard _ _ _ => s.ckEnd op (.failed .hwerr)
  | .ckList _ _ _ => match s.aops.get? op with
    | some o => s.ckFoundIn op (o.memberOf m) []
    | none => s
  | .ckFetch _ idx _ => s.ckUnitIn op idx []
  | _ => s

/-- After a warm reset (R439): a unit named by a manifest unit of the store is in use, and so is the manifest unit; every other unit is free. -/
def State.ckRecount (s : State) : State :=
  let all := List.range s.ckpt.units.toNat
  let mans := all.filter (fun u => hPos (s.unitHdr u) == 0xFF && hStep (s.unitHdr u) == bField (s.unitPay u) 0x10 8 && bField (s.unitPay u) 0 1 == 1)
  let named := mans.flatMap (fun u =>
    let m := s.unitPay u
    ((List.range (manCount m)).filter (fun i => manModule m (entMember (manEntry m i)) == some Config.moduleIndex)).map (fun i => entUnit (manEntry m i)))
  { s with ckpt := { s.ckpt with used := all.filter (fun u => decide (u ∈ mans) || decide (u ∈ named)), resv := [] } }

end Sys2Proof.Machine
end

