-- ==== Sys2Proof/Machine/HostPort.lean ====
section
/-! DEFINITION. The host port: admission, the HDM windows, host reads and writes, the host buffers (R399 to R401, R425, R426). -/

namespace Sys2Proof.Machine

/-! Masters (R399 to R401). -/

def hostLog (m : Nat) : Nat := 320 + m
/-- A new master; `map` is the HOSTMAPm value that was written before it was there. -/
def HostMaster.new (requester : BitVec 16) (base : BitVec 64) (map : Option (BitVec 64)) : HostMaster :=
  { requester := requester, frozen := false, hbase := base, mapCtx := 0, mapEn := false, mapOfs := 0, mapNext := map, buf := [], app := [], commits := 0,
    fails := 0 }

/-- HOST_ADMIT (R399): a requester's first request makes it the next master; a ninth is refused. -/
def execHostAdmit (requester : BitVec 16) (s : State) : Out :=
  if s.hosts.any (fun h => h.2.requester == requester) || decide (8 ≤ s.hosts.length) then .next s
  else .next { s with hosts := s.hosts.set s.hosts.length (HostMaster.new requester (Config.hdmBase s.hosts.length) (s.sys.hostMaps.get? s.hosts.length)) }

/-- An error completion: nothing is returned. -/
def State.hostBad (s : State) : State := { s with sys := { s.sys with readBad := true } }
/-- What a read returns. -/
def State.hostGives (s : State) (v : BitVec 64) : State := { s with sys := { s.sys with readData := v, readBad := false } }
/-- A drop, a poisoned return or an unsupported request counts in LNKERR.HOST (R425). -/
def State.hostErr (s : State) : State := { s with sys := { s.sys with lnkHost := s.sys.lnkHost + 1 } }

def State.isOwner (s : State) (m : Nat) : Bool := s.sys.owner.toNat == m
/-- A write by a master that is not the owner has no effect and freezes it (R401). -/
def State.freeze (s : State) (m : Nat) : State := { s with hosts := s.hosts.modify m (fun h => { h with frozen := true }) }

/-- A write of the register window: by a master, admitted, not frozen and the owner, or by a program through a DEV page (R107). -/
def windowWrite (by_ : Writer) (s : State) (f : State → State) : Out :=
  match by_ with
  | .prog => .next (f s)
  | .host m => match s.hosts.get? m.toNat with
    | none => .next s
    | some h => if h.frozen then .next s.hostBad else if s.isOwner m.toNat then .next (f s) else .next (s.freeze m.toNat)

/-! The HDM windows (R425, R433). -/

/-- A written HOSTMAPm takes effect once the master's batch has been published. -/
def HostMaster.takeMap (h : HostMaster) (v : BitVec 64) : HostMaster :=
  { h with mapCtx := v.extractLsb' 48 16, mapEn := v.getLsbD 40, mapOfs := v.extractLsb' 0 40, mapNext := none }
def State.hostMap (s : State) (m : Nat) : State :=
  match s.hosts.get? m with
  | none => s
  | some h => match h.mapNext with
    | none => s
    | some v => if (s.openLines (hostLog m)).isEmpty then { s with hosts := s.hosts.set m (h.takeMap v) } else s

/-- The context and `.gl` address of a host address; none where it is an unsupported request. -/
def State.hostAddr (s : State) (h : HostMaster) (a : BitVec 64) : Option (Nat × Nat) :=
  if h.mapEn && (s.ctx? h.mapCtx.toNat).isSome && inRange a.toNat 1 h.hbase.toNat (2 ^ 40) then
    some (h.mapCtx.toNat, h.mapOfs.toNat * 256 + (a.toNat - h.hbase.toNat))
  else none

/-- The translation of a host access at its page's home. -/
def State.hostPage (s : State) (c a : Nat) (wr : Bool) : Tr :=
  if a ≥ 2 ^ 48 then .bad .nomap
  else match s.pageHdr (pageKey c a) with
    | none => .bad .nomap
    | some h =>
      if !hdrAllows h (if wr then needStore 8 else needLoad 8) || decide (2 ≤ h.mtype.toNat) then .bad .access
      else if h.tier && !h.remote then .park (pageKey c a) else .ok h
/-- The first failure, else the first page to park on, of the lines of an access. -/
def State.hostPages (s : State) (c a n : Nat) (wr : Bool) : Tr :=
  (linesIn a n).foldl (fun acc x => match acc, s.hostPage c x wr with
    | .bad k, _ => .bad k
    | _, .bad k => .bad k
    | .park p, _ => .park p
    | _, t => t) (s.hostPage c a wr)

/-- A host access parks once on a page (R133); the host port's fault unit is that of die 0. -/
def State.hostPark (s : State) (m c page : Nat) : State :=
  if s.waiters.any (fun p => p.2.who == .host (BitVec.ofNat 3 m) && p.2.page == page) then s
  else s.addWaiter 0 page (.host (BitVec.ofNat 3 m)) 0 c

/-- The key in State.held of a line of a peer's page that a master has asked for. -/
def hostKey (m lk : Nat) : Nat := (m + 1) * 2 ^ 64 + lk

/-- A line as a master reads it: its own buffer and open batch, then the line's home, or a peer's answer; none while it waits at a PREP entry or for a peer. -/
def State.hostLine (s : State) (m c a : Nat) (need : LineMask) : Option Line :=
  let lk := lineKey c a
  let own := s.ownBytes (hostLog m) lk
  if need &&& ~~~own.1 = 0 then some own.2
  else if s.isRemote lk then (s.held.get? (hostKey m lk)).map (fun d => mergeLine own.1 own.2 d)
  else if (s.homeEntry lk).prep then none else some (mergeLine own.1 own.2 (s.homeLine lk))

/-- Ask a line's owner for it. -/
def State.hostAsk (s : State) (m c a : Nat) : State :=
  let lk := lineKey c a
  let body : QfBody := .load lk (cpLane + 1 + m) c (a / 256 * 256) 256
  if !s.isRemote lk || (s.held.get? (hostKey m lk)).isSome || s.outbox.any (fun p => p.2.body == body) then s else s.sendMsg (s.ownerOf lk) 0 lk body

/-- The bytes of an access that lie in a line. -/
def accMask (a n x : Nat) : LineMask := maskBytes (max a x - x) (min (a + n) (x + 256) - max a x)

/-- HOST_READ (R425, R426): the low 64 bits of n bytes at a host address. -/
def execHostRead (m : BitVec 3) (addr : BitVec 64) (n : Nat) (s : State) : Out :=
  let i := m.toNat
  let s := s.hostMap i
  match s.hosts.get? i with
  | none => .next s
  | some h =>
    if h.frozen then .next s.hostBad
    else match s.hostAddr h addr with
    | none => .next s.hostErr.hostBad
    | some (c, a) => match s.hostPages c a n false with
      | .bad _ => .next s.hostErr.hostBad
      | .park p => .next (s.hostPark i c p)
      | .ok _ =>
        let ls := linesIn a n
        let got := ls.map (fun x => s.hostLine i c x (accMask a n x))
        if got.all Option.isSome then
          let bs := ((got.flatMap (fun d => Line.bytes (d.getD 0))).drop (a % 256)).take n
          let s := { s with held := s.held.filter (fun p => !decide (p.1 ∈ ls.map (fun x => hostKey i (lineKey c x)))) }
          .next ((ls.foldl (fun (s : State) x => s.countLocal (pageKey c x)) s).hostGives (BitVec.ofNat 64 (natOfBytes (bs.take 8))))
        else .next (ls.foldl (fun (s : State) x => if (s.hostLine i c x (accMask a n x)).isSome then s else s.hostAsk i c x) s)

/-- Bytes into a master's buffer, line by line. -/
def State.hostStore (s : State) (log c a : Nat) (bs : List Byte) : Option State :=
  (plinesOf c a bs).foldl (fun (acc : Option State) x => acc.bind (fun s => s.bufWrite log x.key x.mask x.data)) (some s)

/-- HOST_WRITE (R401, R425, R426). Without room in the batch or the log it waits. -/
def execHostWrite (m : BitVec 3) (addr : BitVec 64) (bytes : List Byte) (s : State) : Out :=
  let i := m.toNat
  let s := s.hostMap i
  match s.hosts.get? i with
  | none => .next s
  | some h =>
    if h.frozen then .next s.hostBad
    else if !s.isOwner i then .next (s.freeze i)
    else match s.hostAddr h addr with
    | none => .next s.hostErr.hostBad
    | some (c, a) => match s.hostPages c a bytes.length true with
      | .bad _ => .next s.hostErr
      | .park p => .next (s.hostPark i c p)
      | .ok _ =>
        if s.canAccept (hostLog i) ((linesIn a bytes.length).map (lineKey c)) [] then
          .next ((s.hostStore (hostLog i) c a bytes).getD s)
        else .next s

/-- HOST_WCB_WINDOW_EXPIRE (R426): HWCWIN cycles after its first write an entry leaves as a record; without log space it stays. -/
def execHostWcbWindowExpire (m : BitVec 3) (line : Nat) (s : State) : Out :=
  match (s.bufOf (hostLog m.toNat)).get? line with
  | none => .next s
  | some b => if s.due (b.first + b.win.setWidth 64) then .next ((s.flushLine (hostLog m.toNat) line).getD s) else .next s

end Sys2Proof.Machine
end

