-- ==== Sys2Proof/Machine/Power.lean ====
section
/-! DEFINITION. Power states of channels, gated SRAM, reset, boot, attestation, soft errors (R435 to R444). -/

namespace Sys2Proof.Machine

/-! Pseudo-channels (R436). -/

/-- Whether a channel must not enter a low-power state: a packet, table write or TMAP access is in progress at it, or a chunk buffer
attached to it is live (R330, R345). -/
def State.chanBusy (s : State) (k : Nat) : Bool :=
  let stack := k / 64
  let onStack (c n : Nat) : Bool := match (s.ctx? c).bind (fun x => x.tables.get? n) with
    | some t => decide (stack ∈ t.stacks)
    | none => false
  s.pkts.any (fun p => p.2.stack == stack && p.2.chan == some (k % 64) && p.2.reply.isNone) || (s.stack stack).live.any (fun b => b % 64 == k % 64) ||
  s.aops.any (fun p => p.2.stage == .running && match p.2.kind with
    | .tload n _ _ => onStack p.2.ctx n
    | .tmap n _ _ _ _ => onStack p.2.ctx n
    | _ => false)

/-- Whether n cycles have passed since a channel's idle time began. -/
def State.idleFor (s : State) (k n : Nat) : Bool := decide ((s.chan k).idleFrom.toNat + n ≤ s.now)

/-- A channel enters a state. -/
def State.enterChan (s : State) (k : Nat) (st : ChSt) : State :=
  s.modChan k (fun c => { c with st := st, idleFrom := s.pcc, wakeAt := none, forced := false })

/-- POWER_DOWN_ENTRY: an active channel, idle for PDIDLE cycles; 0 disables the timer. -/
def execPowerDownEntry (ch : Nat) (s : State) : Out :=
  let n := (s.stack (ch / 64)).pdIdle.toNat
  if (s.chan ch).st = .active ∧ n ≠ 0 ∧ s.idleFor ch n = true ∧ s.chanBusy ch = false then .next (s.enterChan ch .powerDown) else .next s

/-- SELF_REFRESH_ENTRY: a channel in POWER-DOWN, idle for a further 64 × SRIDLE cycles; or a deferred request of system software, if the idle timer has expired. -/
def execSelfRefreshEntry (ch : Nat) (s : State) : Out :=
  let c := s.chan ch
  let k := s.stack (ch / 64)
  let timed := c.st == .powerDown && c.wakeAt.isNone && k.srIdle != 0 && s.idleFor ch (64 * k.srIdle.toNat)
  let asked := c.forced && c.wakeAt.isNone && (c.st == .powerDown || (c.st == .active && k.pdIdle != 0 && s.idleFor ch k.pdIdle.toNat))
  if (timed || asked) && !s.chanBusy ch then .next (s.enterChan ch .selfRefresh) else .next s

/-- CHANNEL_WAKE: the exit latency of a request's channel has passed. -/
def execChannelWake (ch : Nat) (s : State) : Out :=
  match (s.chan ch).wakeAt with
  | none => .next s
  | some t => if s.due t then .next (s.modChan ch (fun c => { c with st := .active, idleFrom := s.pcc, wakeAt := none })) else .next s

/-- PCCFGs as written: the timers, and FORCESR for every channel of the stack, deferred where one is busy. -/
def State.writePccfg (s : State) (stack : Nat) (val : BitVec 64) : State :=
  let s := s.modStack stack (fun k => { k with srIdle := val.extractLsb' 24 16, pdIdle := val.extractLsb' 8 16, forceSr := val.getLsbD 0 })
  (List.range 64).foldl (fun (s : State) i =>
    let k := chanKey stack i
    if !val.getLsbD 0 then s.modChan k (fun c => { c with forced := false })
    else if (s.chan k).st == .selfRefresh then s
    else if s.chanBusy k || (s.chan k).wakeAt.isSome then s.modChan k (fun c => { c with forced := true })
    else s.enterChan k .selfRefresh) s

/-- FORCESR. -/
def execForcesr (by_ : Writer) (stack : BitVec 4) (val : BitVec 64) (s : State) : Out := windowWrite by_ s (fun s => s.writePccfg stack.toNat val)

/-! Gated SRAM (R437). -/

/-- Whether some block's window meets an upper scratchpad half that a mask of clusters of a die gates. -/
def State.gateHits (s : State) (die : Nat) (sph : BitVec 8) : Bool :=
  s.blocks.any (fun b => decide (clusterDie b.2.cluster = die) && sph.getLsbD (b.2.cluster % 8) && match s.launchOf b.2.launch with
    | some l => (List.range 24).any (fun t => rangesMeet l.cmbase l.cm (t * crBytes + 131072) 131072)
    | none => false)

/-- The leaves homed on a die are written back before ways are gated; none while one of them is PREP or a log has no room. -/
def State.syncDie (s : State) (die : Nat) : Option State :=
  let homed (lk : Nat) : Bool := match s.store.pages.get? (pageOfLine lk) with
    | some h => h.home.toNat == die
    | none => false
  if s.store.preps.any (fun p => homed p.1) then none
  else s.ctxs.foldl (fun (acc : Option State) c => acc.bind (fun s => s.syncTree c.1 touchAll)) (some s)

/-- The upper halves of the clusters of a mask lose their contents, and read as zero when they are enabled again. -/
def State.clearHalves (s : State) (die : Nat) (sph : BitVec 8) : State :=
  s.setMems { s.mems with cm := ((List.range 8).filter (fun c => sph.getLsbD c)).foldl (fun (m : Memory) c =>
    (List.range 24).foldl (fun (m : Memory) t => m.clear ((8 * die + c) * cmBytes + t * crBytes + 131072) 131072) m) s.mems.cm }

/-- A write of GATECTLd: refused, taken, or kept until the leaves that its ways hold have been written back and none of them is PREP (R437). -/
def State.writeGate (s : State) (die : Nat) (val : BitVec 64) : State :=
  let sph := val.extractLsb' 16 8
  let ways := val.extractLsb' 0 16 &&& ~~~(1 : BitVec 16)
  let old := s.die die
  if s.gateHits die sph then { (s.modDie die (fun d => { d with gateWant := none })) with sys := { s.sys with gateErr := true } }
  else
    let go (s : State) : State :=
      let wakes := old.sph &&& ~~~sph != 0 || old.ways &&& ~~~ways != 0
      (s.clearHalves die (sph &&& ~~~old.sph)).modDie die (fun d =>
        { d with sph := sph, ways := ways, gateWant := none, gateWakeAt := if wakes then some (s.pcc + 64) else d.gateWakeAt })
    if ways &&& ~~~old.ways = 0 then go s
    else match s.syncDie die with
      | none => s.modDie die (fun d => { d with gateWant := some val })
      | some s => go s

/-- GATECTL_WRITE. -/
def execGatectlWrite (by_ : Writer) (die : BitVec 5) (val : BitVec 64) (s : State) : Out := windowWrite by_ s (fun s => s.writeGate die.toNat val)

/-- GATE_WAKE: the 64 cycles of a wake-up have passed; a write that waits for its ways is tried again. -/
def execGateWake (die : BitVec 5) (s0 : State) : Out :=
  let s := match (s0.die die.toNat).gateWant with
    | some v => s0.writeGate die.toNat v
    | none => s0
  match (s.die die.toNat).gateWakeAt with
  | none => .next s
  | some t => if s.due t then .next (s.modDie die.toNat (fun d => { d with gateWakeAt := none })) else .next s

/-- GATE_ERROR_CLEAR. -/
def execGateErrorClear (by_ : Writer) (s : State) : Out := windowWrite by_ s (fun s => { s with sys := { s.sys with gateErr := false } })

/-! Reset (R439). -/

/-- Cold reset. Host memory, the model's own counters of turns and free values, and the numbers of operations are no part of the module's state. -/
def State.coldReset (s : State) : State :=
  { State.reset with
    issuer := s.issuer, agenda := s.agenda, turns := s.turns, fresh := s.fresh, free := s.free, mems := { Mems.reset with host := s.mems.host } }

def execColdReset (s : State) : Out := .next s.coldReset

/-- Warm reset: PCC, CKSTORE and the checkpoint units stay; the units in use are counted again. -/
def State.warmReset (s : State) : State :=
  let r := s.coldReset
  State.ckRecount
    { r with pcc := s.pcc, mems := { r.mems with ckstore := s.mems.ckstore }, ckpt := { Ckpt.reset with units := s.ckpt.units, base := s.ckpt.base } }

/-- WARM_RESET: a write of BOOTSTAT.WARM by the owner host; a program's write has no effect. -/
def execWarmReset (by_ : Writer) (s : State) : Out :=
  match by_ with
  | .prog => .next s
  | .host _ => windowWrite by_ s State.warmReset

/-! Boot (R440). -/

/-- The boot ROM's checks of an image, in the order of CAUSE: signature, digest, rollback. -/
def bootCheck (image : List Byte) (sig : BitVec 512) (version : BitVec 16) : BitVec 8 :=
  let d := Config.sha512 image
  if !Config.edVerify Config.vendorKey (le 64 d.toNat) sig then 1
  else if !Config.digestOk d then 2
  else if version.toNat < Config.antiRollback then 3 else 0

/-- STATE becomes RUNNING with the image, or RECOVERY with a cause. -/
def State.takeImage (s : State) (image : List Byte) (sig : BitVec 512) (version : BitVec 16) : State :=
  match (bootCheck image sig version).toNat with
  | 0 => { s with sys := { s.sys with bootSt := 2, bootCause := 0, fwver := version, fwHash := Config.sha512 image } }
  | c => { s with sys := { s.sys with bootSt := 3, bootCause := BitVec.ofNat 8 c } }

/-- BOOT: after a reset. -/
def execBoot (image : List Byte) (sig : BitVec 512) (version : BitVec 16) (s : State) : Out :=
  if s.sys.bootSt = 0 then .next (s.takeImage image sig version) else .next s

/-- NEW_IMAGE: in RECOVERY. -/
def execNewImage (image : List Byte) (sig : BitVec 512) (version : BitVec 16) (s : State) : Out :=
  if s.sys.bootSt = 3 then .next (s.takeImage image sig version) else .next s

/-! Attestation (R442). -/

/-- BOOTSTAT as it reads. -/
def State.bootstat (s : State) : BitVec 64 := 0#32 ++ s.sys.bootCause ++ s.sys.fwver ++ s.sys.bootSt

/-- The report of Table 20-2 for a nonce, without its signature. -/
def State.report (s : State) (nonce : List Byte) : List Byte :=
  nonce ++ le 64 s.sys.fwHash.toNat ++ le 64 (Config.fuseDigest s.bootstat).toNat ++ le 8 s.pcc.toNat ++ le 32 Config.identityPublic.toNat

/-- A write of ATTREQ: the nonce is read, the report and then the signature written. -/
def State.attest (s : State) (val : BitVec 64) : State :=
  let a := (val.extractLsb' 6 42).toNat * 64
  let (nonce, s) := s.hostRead a 32
  let r := s.report nonce
  (s.hostWrite a r).hostWrite (a + 200) (le 64 (Config.edSign Config.identityKey r).toNat)

/-- ATTREQ. -/
def execAttreq (by_ : Writer) (val : BitVec 64) (s : State) : Out := windowWrite by_ s (fun s => s.attest val)

/-! Soft errors (R443). -/

/-- The registers that a failing Parts-engine operation writes are invalid, or, for a z register, zero with ZOVF (Table 11-7). ZLOSS, the reference exponent and the
scales of a z register stay: R83 clears flags only by PXZERO, and Table 11-7 names neither (log entry 65). -/
def spoil (p : Parts) (rs : List Nat) : Parts :=
  rs.foldl (fun (p : Parts) r =>
    if r < 4 then p.setSlot r WSlot.reset
    else if r < 6 then p.setStage (r - 4) AStageReg.reset
    else p.setZ (r - 6) { p.zr (r - 6) with elems := [], zovf := true }) p

/-- A Parts-engine operation in progress fails with HWERR; its sequencer traps. -/
def State.pxHwerr (s : State) (cl idx : Nat) : Option State :=
  match (s.seqOf cl).pxq[idx]? with
  | none => none
  | some o =>
    if !o.started then none
    else
      let s := s.modCl cl (fun c => { c with parts := spoil c.parts o.wrs, seq := { c.seq with pxq := c.seq.pxq.eraseIdx idx } })
      some (s.seqTrapAt cl .hwerr true o.pc 0)

/-- An engine operation that is reading fails with HWERR. -/
def State.aopHwerr (s : State) (op : Nat) : Option State :=
  match s.aops.get? op with
  | none => none
  | some o => match o.kind, o.stage with
    | .slot core, _ => some (s.stopSlot core (.failed .hwerr))
    | .ckpt _ _, .running => some (s.ckEnd op (.failed .hwerr))
    | _, .running => some (s.endAop op (.failed .hwerr))
    | _, _ => none

/-- The consumer of an uncorrectable error: 0 a group, 1 an engine operation, 2 lane id mod 64 of a query packet id / 64, 3 a sequencer, 4 operation id mod 64 of
the Parts engine of cluster id / 64, 5 the migration of a page. None where nothing reads the data. -/
def State.consume (s : State) (victim id : Nat) : Option State :=
  match victim with
  | 0 => (s.grp id).map (fun g =>
      let t : Trap := { cause := .hwerr, deferred := true, ofs := 0, wpc := (g.run.map (·.pc)).getD 0, mask := 0, lanes := 0, detail0 := 0, detail1 := 0,
                        detail2 := 0, req := none }
      s.setGrp id { g with deferred := addTrap t g.deferred })
  | 1 => s.aopHwerr id
  | 2 => match s.pkts.get? (id / 64) with
    | none => none
    | some p => if p.reply.isNone && p.lanes.getLsbD (id % 64) then
        some { s with pkts := s.pkts.set (id / 64) { p with err := p.err ||| laneBit (id % 64) } } else none
  | 3 => if (s.seqOf id).st = .running then some (s.seqTrapAt id .hwerr true (s.seqOf id).spc 0) else none
  | 4 => s.pxHwerr (id / 64) (id % 64)
  | 5 => match s.migs.get? id with
    | none => none
    | some m => if m.req.isNone && m.xfer.isNone then some { s with migs := s.migs.set id { m with failed := some .hwerr } } else none
  | _ => none

/-- SOFT_ERROR: a correctable one is counted; an uncorrectable one is counted, raises MSI-X vector 3 and reaches its consumer. -/
def execSoftError (correctable : Bool) (victim id : Nat) (s : State) : Out :=
  if correctable then .next { s with sys := { s.sys with corr := s.sys.corr + 1 } }
  else match s.consume victim id with
    | none => .next s
    | some s => .next ({ s with sys := { s.sys with uncorr := s.sys.uncorr + 1 } }.raise 3)

end Sys2Proof.Machine
end

