-- ==== Sys2Proof/Machine/Tracer.lean ====
section
/-! DEFINITION. The trace engines: stall reasons, histograms, interval counters, dumps and flushes (R412 to R422). -/

namespace Sys2Proof.Machine

/-! Stall reasons (R414). -/

/-- The reason of a group's run in progress: a wait for log space stands before the release that it holds back. -/
def State.runReason (s : State) (r : Run) : Nat :=
  let starved (q : Option Nat) : Bool := (q.bind s.store.reqs.get?).any (fun x => x.starved.isSome)
  match r.wait with
  | .park _ => 2
  | .logSpace _ => 3
  | .fence _ _ q _ _ => if starved q then 3 else 4
  | .release n => if starved ((s.ops.get? n).bind (·.req)) then 3 else 4
  | .stay code => if code then 15 else 11
  | .none => 15

/-- The reason of a candidate entry that has not started: why its run is not ready, or that the ports are taken. -/
def State.entryReason (s : State) (core gid : Nat) (g : Group) (e : Entry) : Nat :=
  match s.decodeRun core g.ctx g.nregs g.priv e.pc.toNat with
  | .wait _ => 15
  | .trap _ _ => 1
  | .ok _ is =>
    let pending := (blockers g is).any (fun p => match s.ctx? g.ctx with
      | some c => !notPending c p.2
      | none => false)
    let rejoin := match is.head?.map (fun p => bodyOf p.2) with
      | some (.ctl 0x18F _) => true
      | _ => false
    if pending then 5
    else if !s.scoreFree gid g e.mask is then 6
    else if !wmaskMet g || (!firstMet g is && !rejoin) then 7
    else if (queuesOf is).any (fun q => s.queueGate core g (queueUse is q) q == .stay) ||
      (boxesOf is).any (fun m => s.boxGate (coreCluster core) g (boxUse is m) m == .stay) then 9
    else if !firstMet g is then 10
    else if !limitsOk g is || !s.copyRoom (s.grpCluster g) is || !s.queueRoom core is then 11
    else if (s.startTrap core g e is).isSome then 1 else 14

/-- The reason of a group with no candidate. -/
def idleReason (g : Group) : Nat :=
  if g.pcs.any (fun e => e.isHeld && !e.frozen) then 8
  else if g.pcs.isEmpty && !g.parked.isEmpty then 10
  else if g.pcs.any (fun e => e.yield.isSome && !e.frozen) then 12
  else if g.pcs.any (fun e => e.frozen) then 13 else 15

/-- The reason of a resident group in this cycle: the lowest code that applies. -/
def State.reason (s : State) (core gid : Nat) (g : Group) : Nat :=
  let leaving := match g.place with
    | .saving _ _ => true
    | _ => false
  if g.issuedAt = some s.pcc then 0
  else if g.trap.isSome || !g.deferred.isEmpty || g.stopped || leaving || ((g.saveReq || g.stopReq) && g.run.isNone) then 1
  else match g.run with
  | some r => s.runReason r
  | none => match candidate s.pcc g.pcs with
    | some e => s.entryReason core gid g e
    | none => idleReason g

/-! Histograms (R413, R415). -/

def binKey (ctx launch rpc : Nat) : Nat := (ctx * 2 ^ 16 + launch) * 2 ^ 64 + rpc
/-- The overflow bin. -/
def overKey : Nat := binKey (2 ^ 16) 0xFFFF (2 ^ 64 - 1)
def binCtx (k : Nat) : Nat := k / 2 ^ 80
def binLaunch (k : Nat) : Nat := k / 2 ^ 64 % 2 ^ 16
def binRpc (k : Nat) : Nat := k % 2 ^ 64

/-- The PC of the candidate's run, or of the head entry's. -/
def rpcOf (now : BitVec 64) (g : Group) : Nat :=
  match g.run, candidate now g.pcs, g.pcs.head?, g.parked.head? with
  | some r, _, _, _ => r.pc.toNat
  | none, some e, _, _ => e.pc.toNat
  | none, none, some e, _ => e.pc.toNat
  | none, none, none, some p => p.pc.toNat
  | none, none, none, none => 0

/-- One more in a count of a bin of a die: a new key takes a free bin, or the overflow bin. -/
def addBin (bins : FMap (FMap (BitVec 32))) (k reason : Nat) : FMap (FMap (BitVec 32)) :=
  let room := (bins.get? k).isSome || decide ((bins.filter (fun b => b.1 != overKey)).length < 2048)
  let k' := if room then k else overKey
  let b := bins.getD [] k'
  let n := b.getD 0 reason
  bins.set k' (FMap.put b 0 reason (if n = BitVec.allOnes 32 then n else n + 1))

/-- The groups resident on a die, with their cores. -/
def State.dieGroups (s : State) (die : Nat) : List (Nat × Nat × Group) :=
  s.groups.filterMap (fun p => match p.2.core? with
    | some c => if clusterDie (coreCluster c) = die then some (c, p.1, p.2) else none
    | none => none)

/-- A sample of a die's groups whose contexts have HEN. -/
def State.sampleDie (s : State) (die : Nat) : State :=
  let gs := (s.dieGroups die).filter (fun x => ((s.ctx? x.2.2.ctx).map (·.hen)).getD false)
  let add (bins : FMap (FMap (BitVec 32))) (x : Nat × Nat × Group) : FMap (FMap (BitVec 32)) :=
    addBin bins (binKey x.2.2.ctx x.2.2.launch (rpcOf s.pcc x.2.2)) (s.reason x.1 x.2.1 x.2.2)
  s.modDie die (fun d => { d with bins := gs.foldl add d.bins, sampledAt := some s.pcc })

/-- Whether this cycle is a multiple of 2^n. -/
def State.onTick (s : State) (n : Nat) : Bool := s.now % 2 ^ n == 0

/-- HIST_SAMPLE (R415): once in each cycle that is a multiple of 2^SP. -/
def State.histSample (s : State) (die : Nat) : State :=
  if s.onTick s.trace.sp.toNat && (s.die die).sampledAt != some s.pcc then s.sampleDie die else s
def execHistSample (die : Nat) (s : State) : Out := .next (s.histSample die)

/-! The time series (R417, Table 18-3). -/

/-- A cycle counts in the interval counters: each resident group's reason, and the busy engines of each cluster. -/
def State.countCycle (s : State) : State :=
  let gs := s.groups.filterMap (fun p => (p.2.core?).map (fun c => (coreCluster c, s.reason c p.1 p.2)))
  let s1 := gs.foldl (fun (s : State) x => s.tally (clusterDie x.1) (16 * (x.1 % 8) + x.2)) s
  s1.clusters.foldl (fun (s : State) c =>
    let at_ (i : Nat) : Nat := 128 + 4 * (c.1 % 8) + i
    let s := if c.2.seq.pxq.any (·.started) then s.tally (clusterDie c.1) (at_ 0) else s
    let s := if s.aops.any (fun p => p.2.cluster == c.1 && p.2.stage == .running && isCopyKind p.2.kind) then s.tally (clusterDie c.1) (at_ 1) else s
    if c.2.seq.st = .running then s.tally (clusterDie c.1) (at_ 2) else s) s1

/-- The body of a type 1 record. -/
def seriesBody (k : Nat) (d : Die) : List Byte :=
  let n (w i : Nat) : List Byte := le w (d.counters.getD 0 i).toNat
  le 8 k ++ List.replicate 40 0 ++ (List.range 128).flatMap (n 4) ++ (List.range 32).flatMap (fun i => n 4 (128 + i)) ++
    (List.range 4).flatMap (fun i => n 8 (160 + i))

/-- A die latches its counters, clears them and writes its record. -/
def State.latchDie (s : State) (die : Nat) : State :=
  let d := s.die die
  (s.modDie die (fun d => { d with counters := [], latchedAt := some s.pcc })).sinkOrLose 1 die 768 (seriesBody s.trace.k.toNat d)

/-- Whether this cycle's latch is still to come. -/
def State.latchDue (s : State) : Bool := s.trace.tsen && s.onTick s.trace.k.toNat && (s.die 0).latchedAt != some s.pcc
/-- TIMESERIES_TICK (R417): in a cycle that is a multiple of 2^K, which it counts, every die latches. -/
def State.timeTick (s : State) : State := if s.latchDue then (List.range 32).foldl (fun (s : State) d => s.latchDie d) s.countCycle else s
def execTimeseriesTick (s : State) : Out := .next s.timeTick

/-- K_SWITCH (R417): a written K takes effect in a cycle that is a multiple of 2^24. -/
def State.kSwitch (s : State) : State :=
  match s.trace.kNext with
  | some k => if s.onTick 24 then { s with trace := { s.trace with k := k, kNext := none } } else s
  | none => s
def execKSwitch (s : State) : Out := .next s.kSwitch

/-- The trace engines' part of a cycle, before PCC moves on. -/
def State.traceCycle (s : State) : State :=
  let s := s.kSwitch
  let s := if s.latchDue then s.timeTick else if (s.die 0).latchedAt == some s.pcc then s else s.countCycle
  if s.onTick s.trace.sp.toNat then (List.range 32).foldl (fun (s : State) d => s.histSample d) s else s

/-! Bins leave the die (R416, R418). -/

/-- The body of a type 2 record. -/
def binBody (k : Nat) (b : FMap (BitVec 32)) : List Byte :=
  le 8 (binLaunch k) ++ le 8 (binRpc k) ++ List.replicate 32 0 ++ (List.range 16).flatMap (fun i => le 4 (b.getD 0 i).toNat)

/-- A bin leaves as a record and is cleared; without room it stays. -/
def State.writeBin (s : State) (die k : Nat) : State :=
  match (s.die die).bins.get? k with
  | none => s
  | some b => match s.sinkOrKeep 2 die 128 (binBody k b) with
    | none => s
    | some s => s.modDie die (fun d => { d with bins := d.bins.erase k })

/-- The bins that p picks leave every die. -/
def State.writeBins (s : State) (p : Nat → Bool) : State :=
  s.dies.foldl (fun (s : State) d => (d.2.bins.filter (fun b => p b.1)).foldl (fun (s : State) b => s.writeBin d.1 b.1) s) s

/-- Whether a bin that p picks is left. -/
def State.binsLeft (s : State) (p : Nat → Bool) : Bool := s.dies.any (fun d => d.2.bins.any (fun b => p b.1))

/-- TRACE_FLUSH_DONE (R418): the bins of the context leave; the entry is DONE once none is left behind. -/
def execTraceFlushDone (op : Nat) (s : State) : Out :=
  match s.aops.get? op with
  | none => .next s
  | some o => match o.kind with
    | .flush =>
      let mine (k : Nat) : Bool := binCtx k == o.ctx
      let s := s.writeBins mine
      if s.binsLeft mine then .next s else .next (s.endAop op .ok)
    | _ => .next s

/-- DUMP (R416): every bin of the module. -/
def State.dumpBins (s : State) : State := s.writeBins (fun _ => true)
def execDump (by_ : Writer) (s : State) : Out := windowWrite by_ s State.dumpBins

/-- TRCTAIL_WRITE (R422): a value above HEAD stores HEAD. -/
def State.writeTail (s : State) (v : BitVec 64) : State :=
  { s with trace := { s.trace with tail := if s.trace.head.toNat < v.toNat then s.trace.head else v } }
def execTrctailWrite (by_ : Writer) (val : BitVec 64) (s : State) : Out := windowWrite by_ s (fun s => s.writeTail val)

end Sys2Proof.Machine
end

