-- ==== Sys2Proof/Machine/Window.lean ====
section
/-! DEFINITION. The module register window: what each register reads as and what a write of it does (R107, R362, R381, R382, R400, R411, R422,
R433, R434, R438, R441, R444). -/

namespace Sys2Proof.Machine

def clampTo (lo hi x : Nat) : Nat := max lo (min hi x)
def b64 (n : Nat) : BitVec 64 := BitVec.ofNat 64 n

/-! Reads. -/

/-- STATE of a queue (Table 16-1). -/
def State.queueState (s : State) (q : Nat) : Nat :=
  let k := s.cq q
  if k.st = 2 then 2 else if k.en ∧ s.sys.bootSt = 2 ∧ (k.head ≠ k.tail ∨ k.cur ≠ none ∨ k.wait ≠ .none) then 1 else 0

def State.queueReg (s : State) (q r : Nat) : BitVec 64 :=
  let k := s.cq q
  match r with
  | 0x00 => b64 (k.addr.toNat * 64 + k.loc.toNat)
  | 0x08 => b64 (k.ctx.toNat * 2 ^ 16 + k.log2n.toNat * 2 ^ 8 + k.prio.toNat * 2 + k.en.toNat)
  | 0x10 => k.tail.setWidth 64
  | 0x18 => k.head.setWidth 64
  | 0x20 => b64 (k.seqf.toNat * 2 ^ 32 + k.cause.toNat * 2 ^ 8 + s.queueState q)
  | _ => 0

def State.ckReg (s : State) (r : Nat) : BitVec 64 :=
  let c := s.ckpt
  match r with
  | 0x08 => b64 (c.units.toNat * 2 ^ 32 + c.base.toNat)
  | 0x10 => b64 (c.freeUnits * 2 ^ 32 + c.refused.toNat * 2 ^ 10 + c.active.length * 2 ^ 7 + c.waiting.length)
  | _ => 0

def State.traceReg (s : State) (r : Nat) : BitVec 64 :=
  let t := s.trace
  match r with
  | 0x00 => b64 (t.tsen.toNat * 2 ^ 31 + (t.kNext.getD t.k).toNat * 2 ^ 24 + t.sp.toNat * 2 ^ 16)
  | 0x08 => b64 (t.base.toNat * 4096)
  | 0x10 => b64 t.size.toNat
  | 0x18 => t.head
  | 0x20 => t.tail
  | 0x28 => t.recs.setWidth 64
  | _ => if r < 0x40 then 0 else if r % 16 = 0 then t.bp.getD 0 ((r - 0x40) / 16) else if r % 16 = 8 then t.bpsel.getD 0 ((r - 0x40) / 16) else 0

/-- The fields of a written HOSTMAPm. -/
def hostMapBits (v : BitVec 64) : BitVec 64 := v &&& b64 (0xFFFF * 2 ^ 48 + 2 ^ 41 - 1)
/-- HOSTMAPm as written; a value that is still to take effect reads back. -/
def hostMapReg (h : HostMaster) : BitVec 64 :=
  match h.mapNext with
  | some v => hostMapBits v
  | none => b64 (h.mapCtx.toNat * 2 ^ 48 + h.mapEn.toNat * 2 ^ 40 + h.mapOfs.toNat)
def State.hostReg (s : State) (r : Nat) : BitVec 64 :=
  match s.hosts.get? (r / 16) with
  | none => if r % 16 = 8 then hostMapBits (s.sys.hostMaps.getD 0 (r / 16)) else 0
  | some h => if r % 16 = 0 then b64 (h.commits.toNat * 2 ^ 32 + h.fails.toNat * 2 ^ 16) else if r % 16 = 8 then hostMapReg h else 0
def State.linkReg (s : State) (r : Nat) : BitVec 64 :=
  let n := r / 16
  let k := s.link n
  if r % 16 = 0 then b64 (k.alt.toNat * 2 ^ 58 + (k.nextAdv.getD k.adv).toNat * 4 + k.en.toNat)
  else if r % 16 = 8 then b64 (k.retry.toNat * 2 ^ 32 + (if n = 0 then s.sys.lnkHost.toNat else 0) * 2 ^ 16 + k.padv.toNat * 16 + k.up.toNat)
  else 0

def State.powerReg (s : State) (r : Nat) : BitVec 64 :=
  if r < 0x80 then
    let k := s.stack (r / 8)
    b64 (k.srIdle.toNat * 2 ^ 24 + k.pdIdle.toNat * 2 ^ 8 + k.forceSr.toNat)
  else if r < 0x100 then 0
  else if r < 0x200 then
    let d := s.die ((r - 0x100) / 8)
    match d.gateWant with
    | some v => v &&& b64 0xFFFFFE
    | none => b64 (d.sph.toNat * 2 ^ 16 + d.ways.toNat)
  else if r = 0x200 then s.bootstat
  else if r = 0x208 then b64 (s.sys.corr.toNat * 2 ^ 32 + s.sys.uncorr.toNat * 2 ^ 16 + s.sys.gateErr.toNat)
  else if 0x240 ≤ r ∧ r < 0x260 then Config.identityPublic.extractLsb' (8 * (r - 0x240)) 64
  else 0

def State.tierReg (s : State) (r : Nat) : BitVec 64 :=
  if r < 0x100 then
    let k := s.stack (r / 16)
    if r % 16 = 0 then b64 (k.hiwat.toNat * 2 ^ 32 + k.lowat.toNat * 2 ^ 16 + k.clnEn.toNat)
    else if r % 16 = 8 then b64 (k.freed.toNat * 2 ^ 32 + k.pool * 2 ^ 16 + k.rsv) else 0
  else if r = 0x100 then
    b64 (s.sys.epochLog.toNat * 2 ^ 48 + s.sys.demlo.toNat * 2 ^ 32 + s.sys.rsh.toNat * 2 ^ 28 + s.sys.rthr.toNat * 16 + s.sys.demen.toNat)
  else if 0x200 ≤ r ∧ r < 0x300 then
    let d := (r - 0x200) / 8
    b64 ((s.waiters.filter (fun w => w.2.die == d)).length * 2 ^ 48 + (s.pageEntries d).length * 2 ^ 32 + (s.die d).migrated.toNat)
  else 0

/-- What a register at an offset, a multiple of 8, reads as. -/
def State.regRead (s : State) (off : Nat) : BitVec 64 :=
  if off % 8 ≠ 0 then 0
  else if off = 0 then 0#32 ++ s.sys.epoch ++ s.sys.owner
  else if off = 8 then
    let bit (f : HostMaster → Bool) : Nat := s.hosts.foldl (fun a h => if f h.2 then a + 2 ^ h.1 else a) 0
    b64 (bit (·.frozen) * 256 + bit (fun _ => true))
  else if off < 0x1000 then 0
  else if off < 0x2000 then s.queueReg ((off - 0x1000) / 64) (off % 64)
  else if off < 0x3000 then 0
  else if off < 0x3018 then s.ckReg (off - 0x3000)
  else if off < 0x4000 then 0
  else if off < 0x4080 then s.traceReg (off - 0x4000)
  else if off < 0x5000 then 0
  else if off < 0x5080 then s.hostReg (off - 0x5000)
  else if off = 0x5080 then s.sys.hwcwin.setWidth 64
  else if off < 0x5100 then 0
  else if off < 0x5340 then s.linkReg (off - 0x5100)
  else if off < 0x6000 then 0
  else if off < 0x7000 then s.powerReg (off - 0x6000)
  else if off < 0x7300 then s.tierReg (off - 0x7000)
  else if off < 0x8000 then 0
  else if off < 0x10000 then s.routes.getD 0 ((off - 0x8000) / 8)
  else 0

/-- Fields that a read clears: TRCLOST.RECS and LNKSTAT0.HOST. -/
def State.regClear (s : State) (off : Nat) : State :=
  if off = 0x4028 then { s with trace := { s.trace with recs := 0 } }
  else if off = 0x5108 then { s with sys := { s.sys with lnkHost := 0 } }
  else s

/-- A read by an admitted master that is not frozen, or by a program. -/
def windowRead (by_ : Writer) (off : Nat) (s : State) : Out :=
  let give (s : State) : State := ((s.hostGives (s.regRead off)).regClear off)
  match by_ with
  | .prog => .next (give s)
  | .host m => match s.hosts.get? m.toNat with
    | none => .next s
    | some h => if h.frozen then .next s.hostBad else .next (give s)

/-- TRCLOST_READ. -/
def execTrclostRead (by_ : Writer) (s : State) : Out := windowRead by_ 0x4028 s
/-- HOST_ERRCOUNT_READ. -/
def execHostErrcountRead (by_ : Writer) (s : State) : Out := windowRead by_ 0x5108 s

/-! Ownership (R400, R401). -/

/-- OWNERSHIP as a compare-and-swap. The old owner's open batch is published; the new owner is not frozen. -/
def State.swapOwner (s : State) (v : BitVec 64) : State :=
  let cur : BitVec 32 := s.sys.epoch ++ s.sys.owner
  let new := v.extractLsb' 0 32
  let m := (new.extractLsb' 0 8).toNat
  if v.extractLsb' 32 32 = cur ∧ new.extractLsb' 8 24 = s.sys.epoch + 1 ∧ ((s.hosts.get? m).isSome ∨ m = 255) then
    let old := s.sys.owner.toNat
    let s := match s.hosts.get? old with
      | some h => (s.lodge (hostLog old) h.mapCtx.toNat none .batch [] 1).2
      | none => s
    { s with
      sys := { s.sys with epoch := new.extractLsb' 8 24, owner := new.extractLsb' 0 8 }
      hosts := s.hosts.modify m (fun h => { h with frozen := false }) }.raise 1
  else s

/-- OWNERSHIP_SWAP: any admitted master that is not frozen may write it. -/
def execOwnershipSwap (by_ : Writer) (val : BitVec 64) (s : State) : Out :=
  match by_ with
  | .prog => .next (s.swapOwner val)
  | .host m => match s.hosts.get? m.toNat with
    | none => .next s
    | some h => if h.frozen then .next s.hostBad else .next (s.swapOwner val)

/-- The owner clears FROZEN bits; a program's write has no effect. -/
def State.clearFrozen (s : State) (by_ : Writer) (bits : BitVec 8) : State :=
  match by_ with
  | .prog => s
  | .host _ => { s with hosts := s.hosts.map (fun (h : Nat × HostMaster) => if bits.getLsbD h.1 then (h.1, { h.2 with frozen := false }) else h) }
/-- FROZEN_CLEAR. -/
def execFrozenClear (by_ : Writer) (bits : BitVec 8) (s : State) : Out := windowWrite by_ s (fun s => s.clearFrozen by_ bits)

/-! Queues (R382, R384). -/

/-- QTAIL. -/
def State.writeTailReg (s : State) (q : Nat) (t : BitVec 32) : State := s.modCq q (fun k => { k with tail := t })
/-- RST: the queue stops, with nothing in hand. -/
def CQueue.rst (k : CQueue) : CQueue := { k with head := 0, tail := 0, st := 0, cur := none, wait := .none, sigs := [] }
/-- QBASE and QCTL; CTX, LOG2N and QBASE are ignored while EN = 1. -/
def CQueue.writeBase (k : CQueue) (v : BitVec 64) : CQueue := if k.en then k else { k with addr := v.extractLsb' 6 58, loc := v.getLsbD 0 }
def CQueue.writeCtl (k : CQueue) (v : BitVec 64) : CQueue :=
  let k' := if k.en then k else
    { k with ctx := v.extractLsb' 16 16, log2n := BitVec.ofNat 4 (clampTo 4 15 (v.extractLsb' 8 4).toNat) }
  let k'' := { k' with prio := v.extractLsb' 1 2, en := v.getLsbD 0 }
  if v.getLsbD 32 then k''.rst else k''

/-- QUEUE_KICK. -/
def execQueueKick (by_ : Writer) (q : BitVec 6) (tail : BitVec 32) (s : State) : Out := windowWrite by_ s (fun s => s.writeTailReg q.toNat tail)
/-- QUEUE_RESET. -/
def execQueueReset (by_ : Writer) (q : BitVec 6) (s : State) : Out := windowWrite by_ s (fun s => s.modCq q.toNat CQueue.rst)

/-! Host windows and releases (R427, R433). -/

/-- HRELm.GO. -/
def State.hostGo (s : State) (m : Nat) : State :=
  match s.hosts.get? m with
  | none => s
  | some h => (s.lodge (hostLog m) h.mapCtx.toNat none .batch [] 0).2
/-- HOST_RELEASE. -/
def execHostRelease (by_ : Writer) (m : BitVec 3) (s : State) : Out := windowWrite by_ s (fun s => s.hostGo m.toNat)

/-- HOSTMAPm, whether or not master m has been admitted (Table 19-1). -/
def State.writeMap (s : State) (m : Nat) (v : BitVec 64) : State :=
  match s.hosts.get? m with
  | some h => { s with hosts := s.hosts.set m { h with mapNext := some v } }
  | none => { s with sys := { s.sys with hostMaps := s.sys.hostMaps.set m v } }
/-- HOSTMAP_WRITE. -/
def execHostmapWrite (by_ : Writer) (m : BitVec 3) (val : BitVec 64) (s : State) : Out := windowWrite by_ s (fun s => s.writeMap m.toNat val)

/-! Checkpoint registers (R402, R411). -/

def State.writeCkreq (s : State) (v : BitVec 64) : State := s.ckRequest (v.extractLsb' 0 16).toNat ((v.extractLsb' 16 42).toNat * 64)
/-- CKREQ. -/
def execCkreq (by_ : Writer) (val : BitVec 64) (s : State) : Out := windowWrite by_ s (fun s => s.writeCkreq val)

/-- CKSTORE, ignored while an operation waits or runs. -/
def State.writeCkstore (s : State) (v : BitVec 64) : State :=
  if s.ckpt.waiting.isEmpty && s.ckpt.active.isEmpty then
    { s with ckpt := { s.ckpt with units := v.extractLsb' 32 16, base := v.extractLsb' 0 16 } }.ckRecount
  else s

def State.clearRefused (s : State) : State := { s with ckpt := { s.ckpt with refused := false } }
/-- REFUSED_CLEAR. -/
def execRefusedClear (by_ : Writer) (s : State) : Out := windowWrite by_ s State.clearRefused

/-! Links (R433). -/

/-- A retraining begins: the link is down until it has trained. -/
def Link.retrain (k : Link) : Link := { k with up := false, adv := k.nextAdv.getD k.adv, nextAdv := none }
/-- RETRAIN. -/
def execRetrain (by_ : Writer) (link : BitVec 6) (s : State) : Out := windowWrite by_ s (fun s => s.modLink link.toNat Link.retrain)
/-- LNKCTLn. -/
def Link.writeCtl (k : Link) (v : BitVec 64) : Link :=
  let k' := { k with alt := v.extractLsb' 58 6, nextAdv := some (v.extractLsb' 2 4), en := v.getLsbD 0, up := k.up && v.getLsbD 0 }
  if v.getLsbD 1 then k'.retrain else k'

/-! Writes. -/

/-- Whether a flush of some context is PENDING (R422). -/
def State.flushing (s : State) : Bool := s.aops.any (fun p => p.2.kind == .flush)

/-- The trace registers as written. A TRCSIZE.SZ outside 16 to 30 takes the nearest value in range: R422 says so of K and SP, and nothing of SZ (log entry 71). -/
def State.writeTrace (s : State) (r : Nat) (v : BitVec 64) : State :=
  let t := s.trace
  let fixed := t.tsen || s.flushing
  match r with
  | 0x00 =>
    let s := { s with trace := { t with
      tsen := v.getLsbD 31, kNext := some (BitVec.ofNat 5 (clampTo 10 24 (v.extractLsb' 24 5).toNat))
      sp := BitVec.ofNat 5 (clampTo 6 20 (v.extractLsb' 16 5).toNat) } }
    if v.getLsbD 0 then s.dumpBins else s
  | 0x08 => if fixed then s else { s with trace := { t with base := v.extractLsb' 12 36, head := 0 } }
  | 0x10 => if fixed then s else { s with trace := { t with size := BitVec.ofNat 5 (clampTo 16 30 (v.extractLsb' 0 5).toNat) } }
  | 0x20 => s.writeTail v
  | _ =>
    if r < 0x40 then s
    else if r % 16 = 0 then { s with trace := { t with bp := FMap.put t.bp 0 ((r - 0x40) / 16) (v &&& b64 (2 ^ 63 + 2 ^ 48 - 1)) } }
    else if r % 16 = 8 then { s with trace := { t with bpsel := FMap.put t.bpsel 0 ((r - 0x40) / 16) (v &&& b64 (2 ^ 18 - 1)) } }
    else s

/-- CLNCFG and MIGCFG as written. -/
def Stack.writeCln (k : Stack) (v : BitVec 64) : Stack := { k with hiwat := v.extractLsb' 32 14, lowat := v.extractLsb' 16 14, clnEn := v.getLsbD 0 }
def State.writeMigcfg (s : State) (v : BitVec 64) : State :=
  { s with sys := { s.sys with
    epochLog := BitVec.ofNat 8 (clampTo 16 40 (v.extractLsb' 48 8).toNat), demlo := v.extractLsb' 32 16, rsh := v.extractLsb' 28 4
    rthr := v.extractLsb' 4 24, demen := v.getLsbD 0 } }

/-- A 64-bit write of the register at an offset; a write of a register that has none of its own fields to write has no effect. -/
def State.regWrite (s : State) (by_ : Writer) (off : Nat) (v : BitVec 64) : State :=
  if off % 8 ≠ 0 then s
  else if off = 0 then s.swapOwner v
  else if off = 8 then s.clearFrozen by_ (v.extractLsb' 8 8)
  else if off < 0x1000 then s
  else if off < 0x2000 then
    let q := (off - 0x1000) / 64
    match off % 64 with
    | 0x00 => s.modCq q (fun k => k.writeBase v)
    | 0x08 => s.modCq q (fun k => k.writeCtl v)
    | 0x10 => s.writeTailReg q (v.setWidth 32)
    | _ => s
  else if off = 0x3000 then s.writeCkreq v
  else if off = 0x3008 then s.writeCkstore v
  else if off = 0x3010 then (if v.getLsbD 10 then s.clearRefused else s)
  else if off < 0x4000 then s
  else if off < 0x4080 then s.writeTrace (off - 0x4000) v
  else if off < 0x5000 then s
  else if off < 0x5080 then
    if off % 16 = 0 then (if v.getLsbD 0 then s.hostGo ((off - 0x5000) / 16) else s) else s.writeMap ((off - 0x5000) / 16) v
  else if off = 0x5080 then { s with sys := { s.sys with hwcwin := v.extractLsb' 0 12 } }
  else if off < 0x5100 then s
  else if off < 0x5340 then (if off % 16 = 0 then s.modLink ((off - 0x5100) / 16) (fun k => k.writeCtl v) else s)
  else if off < 0x6000 then s
  else if off < 0x6080 then s.writePccfg ((off - 0x6000) / 8) v
  else if off < 0x6100 then s
  else if off < 0x6200 then s.writeGate ((off - 0x6100) / 8) v
  else if off = 0x6200 then
    match by_ with
    | .prog => s
    | .host _ => if v.getLsbD 32 then s.warmReset else s
  else if off = 0x6208 then (if v.getLsbD 0 then { s with sys := { s.sys with gateErr := false } } else s)
  else if off = 0x6210 then s.attest v
  else if off < 0x7000 then s
  else if off < 0x7100 then (if off % 16 = 0 then s.modStack ((off - 0x7000) / 16) (fun k => k.writeCln v) else s)
  else if off = 0x7100 then s.writeMigcfg v
  else if off < 0x8000 then s
  else if off < 0x10000 then
    { s with routes := FMap.put s.routes 0 ((off - 0x8000) / 8) (v &&& b64 (2 ^ 63 + 2 ^ 36 - 1)) }
  else s

/-- REGISTER_WRITE (R438). OWNERSHIP may be written by any master that is not frozen. -/
def execRegisterWrite (by_ : Writer) (off : BitVec 16) (val : BitVec 64) (s : State) : Out :=
  if off = 0 then execOwnershipSwap by_ val s else windowWrite by_ s (fun s => s.regWrite by_ off.toNat val)

/-! Accesses of programs through DEV and SO pages (R107). -/

/-- What the bytes of a register that a narrow write leaves alone count as: fields that a program can write keep their value, WO and W1C fields take 0. -/
def State.regBack (s : State) (off : Nat) : BitVec 64 :=
  if off = 8 ∨ off = 0x3010 ∨ off = 0x6200 ∨ off = 0x6208 ∨ (0x5000 ≤ off ∧ off < 0x5080 ∧ off % 16 = 0) then 0 else s.regRead off

/-- A store of n bytes, at most 8, into the window. A narrow write of OWNERSHIP has no effect. -/
def State.windowStore (s : State) (off n v : Nat) : State :=
  let r := off / 8 * 8
  if r = 0 ∧ n ≠ 8 then s
  else
    let sh := 8 * (off % 8)
    let m := b64 ((2 ^ (8 * n) - 1) * 2 ^ sh)
    s.regWrite .prog r ((b64 (v * 2 ^ sh) &&& m) ||| (s.regBack r &&& ~~~m))

/-- A load of n bytes, at most 8, from the window. A load of any bytes of TRCLOST or LNKSTAT0 clears the register's RC field, whether or not those bytes hold it:
the spec gives no narrow reads (log entry 72). -/
def State.windowLoad (s : State) (off n : Nat) : Nat × State :=
  let r := off / 8 * 8
  ((s.regRead r).toNat / 2 ^ (8 * (off % 8)) % 2 ^ (8 * n), s.regClear r)

end Sys2Proof.Machine
end

