-- ==== Sys2Proof/Machine/Perform.lean ====
section
/-! DEFINITION. Performing the accesses of a group: scratchpad banks, `.gl` loads, stores and atomics, device windows, SEND
(R24, R101, R106, R107, R113 to R129, R447). -/

namespace Sys2Proof.Machine

/-! Atomics (R121). -/

/-- The new value of an atomic of `bits` bits; none for a failing ACAS. `d` holds the data operand, for ACAS the compare value and above it the new one. -/
def atomNew (fn : AtomOp) (sgn : Bool) (bits old d : Nat) : Option Nat :=
  let x := d % 2 ^ bits
  let i (v : Nat) : Int := intOf bits sgn (BitVec.ofNat 64 v)
  match fn with
  | .add => some ((old + x) % 2 ^ bits)
  | .min => some (if i x < i old then x else old)
  | .max => some (if i old < i x then x else old)
  | .and => some (old &&& x)
  | .or => some (old ||| x)
  | .xor => some (old ^^^ x)
  | .xchg => some x
  | .cas => if old = x then some (d / 2 ^ bits % 2 ^ bits) else none
  | .fadd => some (fAdd fmtF32 .rne false (fDec fmtF32 old) (fDec fmtF32 x)).1

/-- The parts of an atomic in the order in which its lanes are applied, which is free (R121). -/
def atomLanes (n : Nat) (ps : List Part) : List Part := shuffle Config.atomOrder (65 * n) ps

/-! Order (R118, R124, R125, R127, R231). -/

/-- The bytes of a part: those of its access, or the lines of a ZLINE. -/
def MemOp.span (o : MemOp) (x : Part) : Nat := match o.kind with
  | .zline => 256 * x.data.toNat
  | _ => o.width

def isSend : MKind → Bool
  | .send _ => true | _ => false

/-- Whether parts of two operations are accesses of one lane that overlap in one space; a uniform access is one of every lane (log entry 73). -/
def partsMeet (e : MemOp) (x : Part) (o : MemOp) (y : Part) : Bool :=
  e.space == o.space && (x.lane == y.lane || x.lane == 64 || y.lane == 64) && decide (x.addr < y.addr + o.span y) && decide (y.addr < x.addr + e.span x)

/-- Whether a part has taken effect where other accesses see it. -/
def partTook (e : MemOp) (x : Part) : Bool := match e.kind with
  | .atom _ _ _ => if e.space = .gl then x.fin else x.served
  | _ => x.served

/-- DEV and SO accesses of a group perform in program order (Table 4-3). -/
def isDev (x : Part) : Bool := decide (2 ≤ x.mt.toNat)

/-- Whether an earlier operation of a group holds back all of a later one's part: it is an acquire, or the later one is a release that it holds back, or it is
an INVR of a range that the part touches. -/
def orderBlocks (e o : MemOp) (y : Part) : Bool :=
  isAcq e.order || (isRel o.order && holdsRelease e) || match e.kind with
    | .inv b l => o.space == .gl && decide (y.addr < b + l) && decide (b < y.addr + o.span y)
    | _ => false

/-- Whether an earlier operation of a group holds back a part. SEND takes part in no order but that of SSTEP (R118). -/
def opBlocks (e o : MemOp) (y : Part) : Bool :=
  !isSend e.kind && !isSend o.kind &&
  (orderBlocks e o y || e.parts.any (fun x => (partsMeet e x o y && !partTook e x) || (isDev x && isDev y && !x.served)))

/-- Whether a buffered store releases with the publication that it joins (R116). -/
def joins (o : MemOp) : Bool := o.kind == .st && o.space == .gl && o.parts.any (fun x => !isDev x)

/-- Whether the publication before a release at `.di` or wider is over, or is the one that the store joins. -/
def relReady (o : MemOp) : Bool := !relWide o || o.sync || joins o

/-- The operations of the group that come before one. -/
def State.earlier (s : State) (n : Nat) (o : MemOp) : List (Nat × MemOp) := s.ops.filter (fun p => decide (p.1 < n) && p.2.gid == o.gid)

/-- Whether a part waits for the fill of a locked leaf (R367). -/
def State.partWaits (s : State) (o : MemOp) (y : Part) : Bool := match s.grp o.gid with
  | none => false
  | some g => o.space == .gl && (leafSteps y.addr (o.span y)).any (fun a => s.leafWaits (s.grpCluster g) (leafKey g.ctx a))

/-- Whether a part may perform now: its operation is out of the memory queue, and nothing holds it back. -/
def State.mayPerform (s : State) (n : Nat) (o : MemOp) (y : Part) : Bool :=
  !o.queued && relReady o && !s.partWaits o y && !(s.earlier n o).any (fun p => opBlocks p.2 o y)

/-- The release half of an access at `.di` or wider that joins no publication: the cluster's batch is published first (Table 4-9). -/
def State.syncOp (s : State) (n : Nat) (o : MemOp) (g : Group) : State :=
  if relReady o then s
  else match o.req with
    | none =>
      if s.relHeld o.gid n then s
      else
        let (q, s) := s.lodgeAfter (s.grpCluster g) g.ctx o.gid .batch
        s.modOp n (fun o => { o with req := some q })
    | some q => if s.reqSt q == .complete then s.modOp n (fun o => { o with sync := true, req := none }) else s

/-! The memory queue (R105). -/

/-- Whether a kind performs at scratchpad banks. -/
def atBank (o : MemOp) : Bool := o.space != .gl && match o.kind with
  | .ld _ => true | .lds => true | .st => true | .atom _ _ _ => true | .pload _ => true
  | .send _ => false | .zline => false | .tlock => false | .fence => false | .inv _ _ => false

/-- Whether an operation may leave its core's memory queue: no acquire before it and no release of its own holds it back; at a scratchpad, an earlier access of a
lane to the same bytes has left in an earlier cycle, so that it reaches its bank first (R124). -/
def State.mayLeave (s : State) (n : Nat) (o : MemOp) : Bool :=
  let late (e : MemOp) (y : Part) : Bool := atBank o && atBank e && e.parts.any (fun x => partsMeet e x o y) && (e.queued || e.arriveAt.toNat == s.now)
  isSend o.kind || (relReady o && !(s.earlier n o).any (fun p => o.parts.any (fun y => (!isSend p.2.kind && orderBlocks p.2 o y) || late p.2 y)))

/-- An operation leaves the memory queue when it may, behind the operations of its core that came before it and may leave too (R104). -/
def State.leaveQueue (s : State) (n : Nat) : State :=
  match s.ops.get? n with
  | none => s
  | some o =>
    let core (p : MemOp) : Option Nat := (s.grp p.gid).bind Group.core?
    let first := !s.ops.any (fun p => decide (p.1 < n) && p.2.queued && core p.2 == core o && s.mayLeave p.1 p.2)
    if o.queued && first && s.mayLeave n o then s.modOp n (fun o => { o with queued := false, arriveAt := s.pcc }) else s

/-- What an operation's own step begins with: its release half, and its leaving the memory queue. -/
def State.begin (s : State) (n : Nat) : State :=
  match s.ops.get? n with
  | none => s
  | some o => match s.grp o.gid with
    | none => s
    | some g => (s.syncOp n o g).leaveQueue n

/-! Scratchpad banks (R104, R447). -/

/-- One part served at its bank: sampled, written, or changed in one step. -/
def State.servePart (s : State) (core : Nat) (o : MemOp) (x : Part) : State × Part :=
  let key := padKey core o.gid x.lane o.space x.addr
  let old := s.padRead o.space key o.width
  let y := { x with served := true, servedAt := s.pcc }
  match o.kind with
  | .st => (s.padWrite o.space key o.width x.data.toNat, y)
  | .atom fn sgn _ =>
    let s := match atomNew fn sgn (8 * o.width) old x.data.toNat with
      | some v => s.padWrite o.space key o.width v
      | none => s
    (s, { y with val := BitVec.ofNat 128 old })
  | _ => (s, { y with val := BitVec.ofNat 128 old })

/-- The cycle in which a part reaches its bank. -/
def MemOp.arrival (o : MemOp) (core : Nat) (x : Part) : Nat := (o.arriveAt + BitVec.ofNat 64 (padDist core o.space x.addr)).toNat

/-- The parts of an operation that arrived in one cycle, one after another, as far as their banks have rows for them in this cycle. -/
def State.serveParts (s : State) (core n arr : Nat) (o : MemOp) (t : List RowUse) : List Part → State × List RowUse × List Part
  | [] => (s, t, [])
  | x :: xs =>
    if x.served || o.arrival core x != arr then
      let (s, t, ys) := s.serveParts core n arr o t xs
      (s, t, x :: ys)
    else
      let rs := bankRows o.space (padKey core o.gid x.lane o.space x.addr) o.width
      let on := rowsFree t n 0 rs
      let (s, y) := if on then s.servePart core o x else (s, x)
      let (s, t, ys) := s.serveParts core n arr o (takeRows t n 0 on rs) xs
      (s, t, y :: ys)

/-- The parts of a group's operation that arrived in one cycle: its lanes in order, so that of several that store to one byte the highest is last (R115); those of an
atomic in a free order. -/
def State.opServe (s : State) (n arr : Nat) (t : List RowUse) : State × List RowUse :=
  match s.ops.get? n with
  | none => (s, t)
  | some o => match s.grp o.gid with
    | none => (s, t)
    | some g =>
      let order := match o.kind with
        | .atom _ _ _ => atomLanes n o.parts
        | _ => o.parts
      let (s, t, ps) := s.serveParts (s.grpCore g) n arr o t order
      let put (p : Part × Nat) : Part := match o.kind with
        | .atom _ _ _ => (ps.find? (fun y => y.lane == p.1.lane)).getD p.1
        | _ => ps.getD p.2 p.1
      (s.modOp n (fun o => { o with parts := (o.parts.zip (List.range o.parts.length)).map put }), t)

/-- Whose accesses wait at banks: an operation of a group, a sequencer, a loop unit, a piccolo slot, a Parts engine, an engine's operation. -/
inductive BankUser where
  | op (n : Nat) | seq (cl : Nat) | loop (core : Nat) | slot (core : Nat) | px (cl : Nat) | aop (n : Nat)
  deriving DecidableEq, Repr

/-- The cycles in which waiting pieces arrive. -/
def pieceTimes (ps : List Piece) : List Nat := ((ps.filter (fun x => x.servedAt.isNone && x.space != .gl)).map (fun x => x.arriveAt.toNat)).dedup

/-- The requests that have arrived at banks and wait: their arrival cycles and whose they are. -/
def State.bankRequests (s : State) : List (Nat × BankUser) :=
  let ops := s.ops.flatMap (fun p => match s.grp p.2.gid with
    | some g =>
      if atBank p.2 && !p.2.queued then
        (((p.2.parts.filter (fun x => !x.served)).map (p.2.arrival (s.grpCore g))).dedup).map (fun a => (a, BankUser.op p.1)) else []
    | none => [])
  let cls := s.clusters.flatMap (fun c =>
    (pieceTimes (c.2.seq.accs.map (fun a => a.2.acc))).map (fun a => (a, BankUser.seq c.1)) ++
    (pieceTimes ((c.2.seq.pxq.filter (·.started)).flatMap (fun o => o.idx ++ o.accs))).map (fun a => (a, BankUser.px c.1)))
  let cores := s.cores.flatMap (fun c =>
    ((c.2.loops.head?.map LoopJob.arrivals).getD []).map (fun a => (a, BankUser.loop c.1)) ++
    (pieceTimes (c.2.slot.loads.flatMap (·.pieces))).map (fun a => (a, BankUser.slot c.1)))
  let aops := s.aops.flatMap (fun p => (pieceTimes p.2.pieces).map (fun a => (a, BankUser.aop p.1)))
  (ops ++ cls ++ cores ++ aops).filter (fun r => decide (r.1 ≤ s.now))

/-- Requests in the order of their arrival. -/
def insertReq (r : Nat × BankUser) : List (Nat × BankUser) → List (Nat × BankUser)
  | [] => [r]
  | x :: xs => if r.1 < x.1 then r :: x :: xs else x :: insertReq r xs

def State.serveUser (s : State) (r : Nat × BankUser) (t : List RowUse) : State × List RowUse :=
  match r.2 with
  | .op n => s.opServe n r.1 t
  | .seq cl => s.seqServe cl r.1 t
  | .loop core => s.loopServe core r.1 t
  | .slot core => s.sldServe core r.1 t
  | .px cl => s.pxServe cl r.1 t
  | .aop n => s.aopServe n r.1 t

/-- Every bank serves one row of what has reached it, in the order of arrival; the order of those that arrived in one cycle is free (R447). -/
def State.serveBanks (s : State) : State :=
  let rs := s.bankRequests
  let order := (shuffle Config.bankOrder s.free rs).foldl (fun l r => insertReq r l) []
  (order.foldl (fun (p : State × List RowUse) r => p.1.serveUser r p.2) ({ s with free := s.free + rs.length }, [])).1

/-! The end of an operation (R24, R129). -/

/-- The value of a part in its destination: a v-register or registers, or a g-register. -/
def putPart (o : MemOp) (rg : Regs) (x : Part) : Regs :=
  let v := x.val.toNat % 2 ^ (8 * o.width)
  match o.kind with
  | .lds => rg.setG o.dest (BitVec.ofNat 64 v)
  | .ld sx =>
    if o.width ≤ 4 then
      rg.setV o.dest x.lane (if sx then BitVec.ofInt 32 (intOf (8 * o.width) true (BitVec.ofNat 64 v)) else BitVec.ofNat 32 v)
    else (List.range (o.width / 4)).foldl (fun rg i => rg.setV (o.dest + i) x.lane (BitVec.ofNat 32 (v / 2 ^ (32 * i)))) rg
  | .atom _ _ true => (List.range (o.width / 4)).foldl (fun rg i => rg.setV (o.dest + i) x.lane (BitVec.ofNat 32 (v / 2 ^ (32 * i)))) rg
  | _ => rg

/-- A SEND some of whose writes were refused traps SPACE, deferred (R118). -/
def sendTrap (o : MemOp) : Option Trap :=
  let bad := o.parts.filter (·.refused)
  if bad.isEmpty then none
  else some { cause := .space, deferred := true, ofs := o.ofs, wpc := o.pc, mask := 0, lanes := maskOf (bad.map (·.lane))
              detail0 := BitVec.ofNat 64 ((bad.head?.map (·.addr)).getD 0), detail1 := 0, detail2 := 0, req := none }

/-- An operation has performed: its class counts one less, its acquire takes place. -/
def State.finishOp (s : State) (n : Nat) (o : MemOp) : State :=
  match s.grp o.gid with
  | none => { s with ops := s.ops.erase n }
  | some g =>
    let s := ({ s with ops := s.ops.erase n }).modGrp o.gid (fun g => { g with
      deferred := match sendTrap o with
        | none => g.deferred
        | some t => addTrap t g.deferred
      loads := g.loads - (if isLoadKind o.kind then 1 else 0), stores := g.stores - (if isStoreKind o.kind then 1 else 0) })
    if isAcq o.order then s.acquireAt (s.grpCore g) g.ctx o.scope else s

/-- The PCC by which a scratchpad part has performed: the fixed term after the service of the last row of its request (R447); none while a row is still to be served. -/
def MemOp.partDue (o : MemOp) (x : Part) : Option Nat :=
  let here := o.parts.filter (fun y => padTarget o.space y.addr == padTarget o.space x.addr)
  if here.all (·.served) then some ((here.map (fun y => y.servedAt.toNat)).foldl max 0 + padFixed o.space) else none

/-- Whether a part has performed; `more` cycles ago. -/
def State.partDone (s : State) (o : MemOp) (more : Nat) (x : Part) : Bool :=
  if o.space = .gl then (match o.kind with
    | .atom _ _ _ => x.fin
    | _ => x.served && decide (x.servedAt.toNat + more ≤ s.now))
  else match o.partDue x with
    | some t => decide (t + more ≤ s.now)
    | none => false

/-- The lanes whose values are there are written, lane by lane (R56); after the last one the operation has performed. -/
def State.putDone (s : State) (n : Nat) : State :=
  match s.ops.get? n with
  | none => s
  | some o =>
    let ready := o.parts.filter (fun x => !x.put && s.partDone o 0 x)
    let o' := { o with parts := o.parts.map (fun x => if s.partDone o 0 x then { x with put := true } else x) }
    let s := (s.modGrp o.gid (fun g => { g with regs := ready.foldl (putPart o) g.regs })).modOp n (fun _ => o')
    if o'.parts.all (·.put) then s.finishOp n o' else s

/-- A store, or an atomic that returns nothing, ends once every lane's write has performed. -/
def State.endStore (s : State) (n : Nat) : State :=
  match s.ops.get? n with
  | none => s
  | some o => if o.parts.all (s.partDone o 0) then s.finishOp n o else s

/-! Device windows (R107). -/

/-- A load, and a store, of n bytes at an address of a DEV or SO page. -/
def State.devLoad (s : State) (ctx a n : Nat) : Nat × State :=
  let t := Config.devBase ctx (a / 131072) + a % 131072
  if Config.devIsHost ctx (a / 131072) then
    let (bs, s) := s.hostRead t n
    (natOfBytes bs, s)
  else s.windowLoad t n
def State.devStore (s : State) (ctx a n v : Nat) : State :=
  let t := Config.devBase ctx (a / 131072) + a % 131072
  if Config.devIsHost ctx (a / 131072) then s.hostWrite t (le n v) else s.windowStore t n v

/-! `.gl` loads (R101, R113, R126, R223). -/

/-- A line may have left a core's L1 before an access: its replacement is not stated (R101). -/
def State.maybeDrop (s : State) (core : Nat) (lks : List Nat) : State :=
  let (i, s) := s.newFree
  if Config.l1Drop i then s.modCore core (fun k => { k with l1 := k.l1.filter (fun p => !decide (p.1 ∈ lks)) }) else s

/-- A line into the core's L1, under the cluster's own bytes, on an NRM page. -/
def State.fillL1 (s : State) (core ctx a : Nat) (x : Part) (d : Line) : State :=
  let own := s.ownBytes (coreCluster core) (lineKey ctx a)
  if x.mt = 0 then s.l1Fill core ctx a (mergeLine own.1 own.2 d) else s

/-- Whether an operation reads as a load does. -/
def readsLines (o : MemOp) : Bool := o.space == .gl && match o.kind with
  | .ld _ => true | .lds => true | .pload _ => true
  | .st => false | .send _ => false | .atom _ _ _ => false | .zline => false | .tlock => false | .fence => false | .inv _ _ => false

/-- The parts of a load that are still to be read from a line. -/
def MemOp.lineParts (o : MemOp) (ctx lk : Nat) : List Part := o.parts.filter (fun x => !x.served && !isDev x && lineKey ctx x.addr == lk)

/-- The parts of a load in one line are read from one state of it (R223). -/
def State.takeLine (s : State) (n ctx lk : Nat) (d : Line) : State :=
  s.modOp n (fun o => { o with parts := o.parts.map (fun x =>
    if !x.served && !isDev x && lineKey ctx x.addr == lk then
      { x with served := true, servedAt := s.pcc, val := BitVec.ofNat 128 (Line.field d (x.addr % 256) o.width) } else x) })

/-- Whether bytes that a cluster holds cover parts. -/
def coversParts (m : LineMask) (w : Nat) (ps : List Part) : Bool := ps.all (fun x => maskBytes (x.addr % 256) w &&& ~~~m == 0)

/-- One line of a load that needs no home: all of its bytes are in the cluster's buffer, or the core's L1 or the LIB gives it. -/
def State.loadLine (s : State) (n core ctx : Nat) (o : MemOp) (lk : Nat) : State :=
  let ps := o.lineParts ctx lk
  let own := s.ownBytes (coreCluster core) lk
  match ps with
  | [] => s
  | x :: _ =>
    if !ps.all (s.mayPerform n o) then s
    else if coversParts own.1 o.width ps then (s.takeLine n ctx lk own.2).doneRead lk (.op n)
    else match s.cachedLine core ctx x.addr with
    | none => s
    | some d =>
      let s := if ((s.core core).l1.get? lk).isSome then s else (s.countLocal (pageOfLine lk)).fillL1 core ctx x.addr x d
      (s.takeLine n ctx lk (mergeLine own.1 own.2 d)).doneRead lk (.op n)

/-- The loads of device windows, in lane order. -/
def State.devLoads (s : State) (ctx n : Nat) (o : MemOp) : List Part → State × List Part
  | [] => (s, [])
  | x :: xs =>
    let (s, y) := if isDev x && !x.served && s.mayPerform n o x then
        let (v, s) := s.devLoad ctx x.addr o.width
        (s, { x with served := true, servedAt := s.pcc, val := BitVec.ofNat 128 v })
      else (s, x)
    let (s, ys) := s.devLoads ctx n o xs
    (s, y :: ys)

/-- A `.gl` load goes on as far as it can without asking a home. -/
def State.stepLoad (s : State) (n : Nat) (g : Group) : State :=
  match s.ops.get? n with
  | none => s
  | some o =>
    let core := s.grpCore g
    let lks := ((o.parts.filter (fun x => !x.served && !isDev x)).map (fun x => lineKey g.ctx x.addr)).dedup
    let s := lks.foldl (fun (s : State) lk => s.loadLine n core g.ctx o lk) (s.maybeDrop core lks)
    if o.parts.any isDev then
      let (s, ps) := s.devLoads g.ctx n o o.parts
      s.modOp n (fun o' => { o' with parts := (o'.parts.zip ps).map (fun p => if isDev p.2 then p.2 else p.1) })
    else s

/-- A load of a line that a peer owns is sent there, once; the cluster's own bytes of the line as they are now go over those that come back (R101). -/
def State.askLine (s : State) (n lane cl ctx lk : Nat) (ps : List Part) : State :=
  let own := s.ownBytes cl lk
  if ps.any (·.asked) then s
  else (s.sendMsg (s.ownerOf lk) 0 lk (.load n lane ctx (lineAddr lk) 256)).modOp n (fun o => { o with parts := o.parts.map (fun x =>
    if !x.served && !isDev x && lineKey ctx x.addr == lk then
      { x with asked := true, val := BitVec.ofNat 128 (Line.field own.2 (x.addr % 256) o.width), data := BitVec.ofNat 256 (own.1.toNat / 2 ^ (x.addr % 256) % 2 ^ o.width) }
    else x) })

/-- The owner's line for a load: each part that asked for it takes its bytes, under the cluster's own. -/
def State.loadReply (s : State) (n ctx lk : Nat) (v : Line) : State :=
  s.modOp n (fun o => { o with parts := o.parts.map (fun x =>
    if x.asked && !x.served && lineKey ctx x.addr == lk then
      let d := mergeLine (x.data.setWidth 256) (x.val.setWidth 2048) (BitVec.ofNat 2048 (Line.field v (x.addr % 256) o.width))
      { x with served := true, servedAt := s.pcc, val := d.setWidth 128 }
    else x) })

/-- A line served at its home, where the LIB cannot give it: every part of the load in it is sampled; a PREP entry makes it wait. -/
def State.serveHome (s : State) (n : Nat) (g : Group) (lk : Nat) (x : Part) : State :=
  let core := s.grpCore g
  let cl := coreCluster core
  let own := s.ownBytes cl lk
  let landed := match (s.cl cl).lib.get? (leafOfLine lk) with
    | some lf => lf.landed
    | none => false
  if !landed || (s.cachedLine core g.ctx x.addr).isSome then s
  else if s.prepAt lk then s.waitRead lk (.op n)
  else
    let t := ((s.countLocal (pageOfLine lk)).fillL1 core g.ctx x.addr x (s.homeLine lk)).takeLine n g.ctx lk (mergeLine own.1 own.2 (s.homeLine lk))
    t.doneRead lk (.op n)

/-- The lane number under which a peer's answer to a load comes back: it names the first part of the load in the line. -/
def lineLane (o : MemOp) (ctx lk : Nat) : Nat := 128 + o.parts.findIdx (fun x => !isDev x && lineKey ctx x.addr == lk)

/-- LOAD_SERVE_HOME. -/
def execLoadServeHome (op lane : Nat) (s : State) : Out :=
  match s.ops.get? op with
  | none => .next s
  | some o => match s.grp o.gid, o.parts.find? (fun x => x.lane == lane && !x.served && !isDev x) with
    | some g, some x =>
      let lk := lineKey g.ctx x.addr
      let ps := o.lineParts g.ctx lk
      if !readsLines o || !ps.all (s.mayPerform op o) || coversParts (s.ownBytes (s.grpCluster g) lk).1 o.width ps then .next s
      else if s.isRemote lk then .next (s.askLine op (lineLane o g.ctx lk) (s.grpCluster g) g.ctx lk ps)
      else .next (s.serveHome op g lk x)
    | _, _ => .next s

/-- The acquire of a fence (R127): every earlier load and returning atomic has returned, and no earlier fence is left. -/
def State.stepFence (s : State) (n : Nat) (o : MemOp) : State :=
  let before (p : Nat × MemOp) : Bool := match p.2.kind with
    | .ld _ => true | .lds => true | .atom _ _ ret => ret | .fence => true | .pload _ => true
    | .st => false | .send _ => false | .zline => false | .tlock => false | .inv _ _ => false
  if (s.earlier n o).any before then s else s.finishOp n o

/-- An INVR that has waited for the group's earlier acquires takes effect (R231). -/
def State.stepInv (s : State) (n base len : Nat) (o : MemOp) (g : Group) : State :=
  if s.acquires o.gid n then s else ({ s with ops := s.ops.erase n }).invRange (s.grpCore g) g.ctx base len

/-- LOAD_RETURN (R24, R113, R114): a load's values are written as they arrive; a fence's acquire takes place; a returning atomic's old values are written. -/
def execLoadReturn (op : Nat) (s : State) : Out :=
  match s.ops.get? op with
  | none => .next s
  | some o => match s.grp o.gid with
    | none => .next s
    | some g => match o.kind with
      | .fence => .next (s.stepFence op o)
      | .inv b l => .next (s.stepInv op b l o g)
      | .ld _ => if o.space = .gl then .next (((s.begin op).stepLoad op g).putDone op) else .next ((s.begin op).putDone op)
      | .lds => if o.space = .gl then .next (((s.begin op).stepLoad op g).putDone op) else .next ((s.begin op).putDone op)
      | .atom _ _ true => .next ((s.begin op).putDone op)
      | _ => .next s

/-- PLOAD_DATA_RETURN (R247): the image is read as a load; its next micro-op is written in the cycle after its bytes have arrived. -/
def execPloadDataReturn (op : Nat) (s : State) : Out :=
  match s.ops.get? op with
  | none => .next s
  | some o => match o.kind, s.grp o.gid with
    | .pload first, some g =>
      let s := if o.space = .gl then (s.begin op).stepLoad op g else s.begin op
      match s.ops.get? op with
      | none => .next s
      | some o =>
        let i := o.parts.findIdx (fun x => !x.put)
        match o.parts[i]? with
        | some x => if s.partDone o 1 x then .next (s.ploadPut op o g first i x) else .next s
        | none => .next s
    | _, _ => .next s

/-! `.gl` atomics (R122, R123). -/

/-- The next lane of an atomic that has not performed; none while one is being published. -/
def nextAtom (n : Nat) (o : MemOp) : Option Part :=
  if o.parts.any (fun x => x.served && !x.fin) then none else (atomLanes n o.parts).find? (fun x => !x.served)

/-- The log space that is promised to a lane of an atomic (R134). -/
def atomPromise (x : Part) : Nat := if x.remote then 0 else 9

/-- A lane of a peer's page is sent to its owner, once. -/
def State.askAtom (s : State) (n : Nat) (o : MemOp) (ctx : Nat) (fn : AtomOp) (sgn : Bool) (x : Part) : State :=
  let bits := 8 * o.width
  let lk := lineKey ctx x.addr
  if x.asked then s
  else (s.sendMsg (s.ownerOf lk) 0 lk (.atom n x.lane ctx x.addr o.width fn sgn (BitVec.ofNat 64 (x.data.toNat % 2 ^ bits)) (BitVec.ofNat 64 (x.data.toNat / 2 ^ bits)))).modOp n
    (fun o => { o with parts := o.parts.map (fun y => if y.lane == x.lane then { y with asked := true } else y) })

/-- One lane at its home: its turn of the log is asked for, then the step is taken; or the owner is asked. -/
def State.atomLane (s : State) (n : Nat) (o : MemOp) (g : Group) (fn : AtomOp) (sgn : Bool) (x : Part) : State :=
  let cl := s.grpCluster g
  if s.isRemote (lineKey g.ctx x.addr) then s.askAtom n o g.ctx fn sgn x
  else match o.req with
  | none =>
    let (r, s) := s.lodge cl g.ctx (some o.gid) .atomic [] 0
    s.modOp n (fun o => { o with req := some r })
  | some r =>
    match s.atomicAt cl r g.ctx x.addr o.width (.op n) (atomPromise x) (fun old => atomNew fn sgn (8 * o.width) old x.data.toNat) with
    | (none, s) => s
    | (some old, s) =>
      (s.countLocal (pageKey g.ctx x.addr)).modOp n (fun o => { o with
        parts := o.parts.map (fun y => if y.lane == x.lane then { y with served := true, servedAt := s.pcc, val := BitVec.ofNat 128 old } else y) })

/-- A lane whose publication has committed is done. -/
def State.atomDone (s : State) (n : Nat) : State :=
  match s.ops.get? n with
  | none => s
  | some o => match o.req with
    | none => s
    | some r =>
      if o.parts.any (fun x => x.served && !x.fin) && s.reqSt r == .complete then
        s.modOp n (fun o => { o with req := none, parts := o.parts.map (fun x => if x.served then { x with fin := true } else x) })
      else s

/-- The owner's answer to a lane: the old value, once the write has committed there. -/
def State.atomReply (s : State) (n lane cl : Nat) (v : Nat) : State :=
  match s.ops.get? n with
  | none => s
  | some o => match o.parts.find? (fun x => x.lane == lane && x.asked && !x.served) with
    | none => s
    | some x => (s.unpromise cl (atomPromise x)).modOp n (fun o => { o with parts := o.parts.map (fun y =>
        if y.lane == lane then { y with served := true, servedAt := s.pcc, fin := true, val := BitVec.ofNat 128 v } else y) })

/-- ATOMIC_PERFORM (R123): the lanes of a `.gl` atomic, one after another; one at a scratchpad is on its way to its bank. -/
def execAtomicPerform (op : Nat) (s : State) : Out :=
  match s.ops.get? op with
  | none => .next s
  | some o => match o.kind, s.grp o.gid with
    | .atom fn sgn _, some g =>
      if o.space ≠ .gl then .next (s.begin op)
      else
        let s := (s.begin op).atomDone op
        match s.ops.get? op with
        | none => .next s
        | some o => match nextAtom op o with
          | none => .next s
          | some x => if s.mayPerform op o x then .next (s.atomLane op o g fn sgn x) else .next s
    | _, _ => .next s

/-! `.gl` stores (R115, R116, R232). -/

/-- Parts accepted by the write-combining buffer, in lane order; none where there is no room. -/
def State.acceptParts (s : State) (cl ctx : Nat) (o : MemOp) (ps : List Part) : Option State :=
  ps.foldl (fun (acc : Option State) x => acc.bind (fun s => s.bufStore cl ctx x.addr o.width x.data.toNat)) (some s)
/-- The zero lines of a ZLINE. -/
def State.acceptZero (s : State) (cl ctx : Nat) (o : MemOp) : Option State :=
  o.parts.foldl (fun (acc : Option State) x => (List.range x.data.toNat).foldl (fun (acc : Option State) k =>
    acc.bind (fun s => s.bufWrite cl (lineKey ctx (x.addr + 256 * k)) fullMask 0)) acc) (some s)

/-- The lines of a store have been accepted. A release at `.di` or wider asks for the publication that it joins; where all of it is accepted, any other has
performed. Requests that waited for the store are lodged now (R210). -/
def State.afterAccept (s : State) (n : Nat) (o : MemOp) (g : Group) : State :=
  let o := { o with parts := o.parts.map (fun x => if isDev x then x else { x with served := true, servedAt := s.pcc }) }
  let s := s.modOp n (fun _ => o)
  if relWide o then
    let (q, s) := s.lodgeReady.lodgeAfter (s.grpCluster g) g.ctx o.gid .batch
    s.modOp n (fun o => { o with req := some q })
  else if o.parts.all (·.served) then (s.finishOp n o).lodgeReady
  else s.lodgeReady

/-- A store to a device window, part by part; of several lanes at one address only the highest has an effect (R115). -/
def State.devParts (s : State) (ctx n : Nat) (o : MemOp) : List Part → State × List Part
  | [] => (s, [])
  | x :: xs =>
    let (s, y) :=
      if !isDev x || x.served || !s.mayPerform n o x then (s, x)
      else (if xs.any (fun y => y.addr == x.addr) then s else s.devStore ctx x.addr o.width x.data.toNat, { x with served := true, servedAt := s.pcc })
    let (s, ys) := s.devParts ctx n o xs
    (s, y :: ys)

/-- Whether the publication that a store joined is over, where it joined one. -/
def State.joinOver (s : State) (o : MemOp) : Bool := match o.req with
  | none => true
  | some q => s.reqSt q == .complete

/-- A `.gl` store: its bytes for the buffer, then those for device windows, which follow the publication of a release. -/
def State.stepStore (s : State) (n : Nat) (g : Group) : State :=
  match s.ops.get? n with
  | none => s
  | some o =>
    let soft := o.parts.filter (fun x => !isDev x && !x.served)
    if !soft.isEmpty then
      if soft.all (s.mayPerform n o) then match s.acceptParts (s.grpCluster g) g.ctx o soft with
        | none => s
        | some s => s.afterAccept n o g
      else s
    else if !s.joinOver o then s
    else
      let (s, ps) := s.devParts g.ctx n o o.parts
      let o := { o with parts := ps }
      if ps.all (·.served) then s.finishOp n o else s.modOp n (fun _ => o)

/-- A ZLINE. -/
def State.stepZline (s : State) (n : Nat) (g : Group) : State :=
  match s.ops.get? n with
  | none => s
  | some o =>
    if o.parts.all (s.mayPerform n o) then match s.acceptZero (s.grpCluster g) g.ctx o with
      | none => s
      | some s => s.afterAccept n o g
    else s

/-- STORE_PERFORM (R24, R129): a store is performed at its level, and its class counts one less. -/
def execStorePerform (op : Nat) (s : State) : Out :=
  match s.ops.get? op with
  | none => .next s
  | some o => match s.grp o.gid with
    | none => .next s
    | some g =>
      match o.kind with
      | .st => if o.space = .gl then .next ((s.begin op).stepStore op g) else .next ((s.begin op).endStore op)
      | .zline => .next ((s.begin op).stepZline op g)
      | .atom _ _ false => .next ((s.begin op).endStore op)
      | .send _ => if o.parts.all (·.fin) then .next (s.finishOp op o) else .next s
      | _ => .next s

/-! SEND (R117, R118). -/

/-- The bytes of a write at a target cluster or die of this module, if a window granted there to a block of the launch covers it. -/
def State.sendWrite (s : State) (launch : Nat) (sp : Space) (cluster die a n v : Nat) : Option State :=
  match s.launchOf launch with
  | none => none
  | some l =>
    let here := s.blocks.any (fun b => b.2.launch == launch && !b.2.ended &&
      (if sp = .cm then b.2.cluster == 8 * die + cluster else clusterDie b.2.cluster == die))
    let inside := if sp = .cm then inRange a n l.cmbase l.cm else inRange a n l.dsbase l.ds
    if here && inside then some (s.padWrite sp (if sp = .cm then (8 * die + cluster) * cmBytes + a else die * dsBytes + a) n v) else none

/-- SEND_ARRIVE: one lane's write reaches its target. A write to the address of a higher lane has no effect. -/
def execSendArrive (op lane : Nat) (s : State) : Out :=
  match s.ops.get? op with
  | none => .next s
  | some o => match o.kind, s.grp o.gid, o.parts.find? (fun x => x.lane == lane) with
    | .send t, some g, some x =>
      let s := s.leaveQueue op
      let set (s : State) (f : Part → Part) : State := s.modOp op (fun o => { o with parts := o.parts.map (fun y => if y.lane == lane then f y else y) })
      let modn := t.extractLsb' 0 12
      if x.served || ((s.ops.get? op).map (·.queued)).getD true then .next s
      else if o.parts.any (fun y => decide (lane < y.lane) && y.addr == x.addr) then
        .next (set s (fun x => { x with served := true, fin := true }))
      else if t.getLsbD 15 || modn == Config.moduleIndex then
        match s.sendWrite g.launch o.space (t.extractLsb' 21 3).toNat (t.extractLsb' 16 5).toNat x.addr o.width x.data.toNat with
        | some s => .next (set s (fun x => { x with served := true, fin := true }))
        | none => .next (set s (fun x => { x with served := true, fin := true, refused := true }))
      else
        .next ((set s (fun x => { x with served := true, asked := true })).sendMsg modn 0 op
          (.send op lane o.space (t.extractLsb' 21 3).toNat (t.extractLsb' 16 5).toNat x.addr o.width (BitVec.ofNat 128 x.data.toNat) g.launch))
    | _, _, _ => .next s

end Sys2Proof.Machine
end

