-- ==== Sys2Proof/Machine/Launch.lean ====
section
/-! DEFINITION. Reading a LAUNCH packet: the kernel descriptor, the buffer list and the launch arguments, which are `.gl` loads that a device window may answer
(R386, R445). -/

namespace Sys2Proof.Machine

/-! Launch arguments (R445). -/

/-- What the read of the launch arguments gives. -/
inductive ArgRd where
  | ok (as_ : List Dword) (s : State)
  | bad (c : Cause)
  | wait (s : State)
  deriving DecidableEq, Repr

/-- The check of an argument's page: an 8-byte load (R130, Table 4-3). -/
def State.argPage (s : State) (ctx a : Nat) : Option Cause :=
  if a ≥ 2 ^ 48 then some .nomap
  else match s.pageHdr (pageKey ctx a) with
    | none => some .nomap
    | some h => if hdrAllows h (needLoad 8) then none else some .access
/-- Whether an argument lies in a device window. -/
def State.argIsDev (s : State) (ctx a : Nat) : Bool := (s.pageHdr (pageKey ctx a)).any (fun h => decide (2 ≤ h.mtype.toNat))

/-- One argument: a load of 8 bytes, aligned, so that it lies in one line. -/
def State.readArg (s : State) (ctx a : Nat) : Dword × State :=
  if s.argIsDev ctx a then
    let (v, s) := s.devLoad ctx a 8
    (BitVec.ofNat 64 v, s)
  else (BitVec.ofNat 64 (Line.field ((s.cpLine ctx a).getD 0) (a % 256) 8), s)

/-- The n launch arguments, once every line of them that is no device's is there. -/
def State.readArgs (s : State) (ctx a n : Nat) : ArgRd :=
  let as_ := (List.range n).map (fun i => a + 8 * i)
  match as_.findSome? (s.argPage ctx) with
  | some c => .bad c
  | none =>
    let soft := as_.filter (fun x => !s.argIsDev ctx x)
    if soft.all (fun x => (s.cpLine ctx x).isSome) then
      let r := as_.foldl (fun (acc : List Dword × State) x => let (v, s) := acc.2.readArg ctx x; (acc.1 ++ [v], s)) ([], s)
      .ok r.1 r.2
    else .wait (soft.foldl (fun (s : State) x => s.cpAsk ctx x) s)

/-! The packet (R386). -/

/-- What a LAUNCH packet's reads give: a refusal, a launch, or a wait. -/
inductive LaunchRes where
  | refused (c : Cause)
  | ok (l : Launch) (s : State)
  | wait (s : State)
  deriving DecidableEq, Repr

def State.readLaunch (s : State) (ctx : Nat) (p : LaunchPkt) (mk : List Byte → Launch) : LaunchRes :=
  if p.kdesc.toNat % 32 ≠ 0 then .refused .illop
  else match s.cpRead ctx p.kdesc.toNat 32 with
  | .wait s => .wait s
  | .bad _ => .refused .illop
  | .ok d =>
    let l := mk d
    if !descOk d l then .refused .illop
    else match s.cpRead ctx p.bufl.toNat (4 * p.nbuf.toNat) with
    | .wait s => .wait s
    | .bad _ => .refused .illop
    | .ok bs =>
      let es := bufEntries bs p.nbuf.toNat
      let known (e : BitVec 32) : Bool := e.toNat < 2 ^ 14 && (((s.ctx? ctx).bind (fun c => c.bufs.get? (bufHandle e))).isSome)
      if !es.all known then .refused .illop
      else if l.nargs ≠ 0 ∧ p.argp.toNat % 8 ≠ 0 then .refused .align
      else match s.readArgs ctx p.argp.toNat l.nargs with
      | .wait s => .wait s
      | .bad c => .refused c
      | .ok as_ s => .ok { l with bufl := es, largs := as_ } s

/-- LAUNCH: a malformed packet stops its queue; with every id live it waits. -/
def execLaunch (p : LaunchPkt) (s : State) : Out :=
  queuePacket s (fun q ctx s =>
    if p.doneAt.toNat % 16 ≠ 0 ∨ p.nblk = 0 ∨ p.nbuf.toNat > 4095 then s.queueErr q .illop (s.cq q).seqf
    else if s.launches.length ≥ 65535 then s
    else
      let id := nextLaunch (FMap.keys s.launches) s.lastLaunch 65536
      match s.readLaunch ctx p (launchOfDesc s q ctx s.fresh p) with
      | .wait s => s
      | .refused c =>
        let s := s.packetDone q
        (s.newNum).2.addLaunch id (refuse (launchOfDesc s q ctx s.fresh p []) c)
      | .ok l s => (((s.packetDone q).newNum).2).takeBufs id l)

end Sys2Proof.Machine
end

