-- ==== Sys2Proof/Machine/Links.lean ====
section
/-! DEFINITION. QF links: routes, training, messages from peer modules and what each does, forwarded accesses (R378, R380, R410, R428 to R434). -/

namespace Sys2Proof

/-- The n-th message that arrives from a peer module: what other modules send is not this module's to decide. -/
opaque Config.peerMessage : Nat → Option Machine.QfMsg

namespace Machine

/-! Links (R428 to R433). -/

/-- FLIT_REPLAY: a replay is counted, and has no other effect. -/
def execFlitReplay (link : BitVec 6) (s : State) : Out := .next (s.modLink link.toNat (fun k => { k with retry := k.retry + 1 }))

/-- LINK_DOWN: the messages that have not been acknowledged leave again on the alternate link, or wait for a route. -/
def execLinkDown (link : BitVec 6) (s : State) : Out :=
  let k := s.link link.toNat
  let next : Option (BitVec 6) := if (s.link k.alt.toNat).up && k.alt != link then some k.alt else none
  let again (p : Nat × QfMsg) : Nat × QfMsg := if p.2.link = some link then (p.1, { p.2 with link := next, since := s.pcc }) else p
  .next { s.modLink link.toNat (fun k => { k with up := false }) with outbox := s.outbox.map again }

/-- LINK_TRAIN: an enabled link comes up with the far end's advertisement. -/
def execLinkTrain (link : BitVec 6) (padv : BitVec 4) (s : State) : Out :=
  let k := s.link link.toNat
  if k.en && !k.up then
    .next (s.modLink link.toNat (fun k => { k with up := true, padv := padv, adv := k.nextAdv.getD k.adv, nextAdv := none }))
  else .next s

/-- Cycles of 1 ms and of 200 ms at 800 MHz. -/
def cyclesMs : Nat := 800000
def cyclesLost : Nat := 160000000

/-- HEARTBEAT: once in 1 ms, on every link that is up. -/
def execHeartbeat (s : State) : Out :=
  if decide (s.sys.beatAt.toNat + cyclesMs ≤ s.now) then
    let up := (List.range 36).filter (fun n => (s.link n).up)
    let s := { s with sys := { s.sys with beatAt := s.pcc } }
    .next (up.foldl (fun (s : State) n =>
      let (i, s) := s.newNum
      { s with outbox := s.outbox.set i { peer := 0, cls := 3, link := some (BitVec.ofNat 6 n), body := .heartbeat, since := s.pcc } }) s)
  else .next s

/-- PEER_FAILURE (R410): no heartbeat of a peer for 200 ms. -/
def execPeerFailure (peer : BitVec 12) (s : State) : Out :=
  let last := s.heard.getD 0 peer.toNat
  if last.toNat + cyclesLost ≤ s.now ∧ peer.toNat ∉ s.lost then .next { s with lost := s.lost ++ [peer.toNat] } else .next s

/-! Failures of messages (R431). -/

/-- A memory operation of a group fails: the group traps, deferred, and the operation counts no longer. -/
def State.opFail (s : State) (n : Nat) (c : Cause) : State :=
  match s.ops.get? n with
  | none => s
  | some o =>
    let t : Trap := { cause := c, deferred := true, ofs := o.ofs, wpc := o.pc, mask := 0, lanes := maskOf (o.parts.map (·.lane))
                      detail0 := BitVec.ofNat 64 ((o.parts.head?.map (·.addr)).getD 0), detail1 := 0, detail2 := 0, req := none }
    (s.dropOp n o).modGrp o.gid (fun g => { g with deferred := addTrap t g.deferred })

/-- A code line that cannot be had: the groups whose candidate stands in it trap; so does the sequencer of the core's cluster. -/
def State.codeFail (s : State) (core lk : Nat) (c : Cause) : State :=
  let s := (s.coreGroups core).foldl (fun (s : State) p =>
    match candidate s.pcc p.2.pcs with
    | some e =>
      if lineKey p.2.ctx e.pc.toNat = lk ∧ p.2.run = none ∧ p.2.trap = none then s.setGrp p.1 { p.2 with trap := some (entryTrap e c 0 0) } else s
    | none => s) s
  let q := s.seqOf (core / 24)
  if core % 24 = 0 ∧ q.st = .running ∧ lineKey q.ctx q.spc.toNat = lk then s.seqTrapAt (core / 24) c false q.spc 0 else s

/-- The lane number of a request that this module passes on to a page's new owner. -/
def fwdLane : Nat := 2 ^ 49

/-- The reply lanes: where an answer to a forwarded access goes, or its failure. -/
def State.loadFail (s : State) (op lane : Nat) (c : Cause) : State :=
  let s := { s with waiters := s.waiters.filter (fun p => p.2.who != WaiterWho.fwd op lane) }
  if lane < 4096 then s.opFail op c
  else if lane < 16384 then s.codeFail (lane - 4096) op c
  else if lane < 131072 then (if (s.slot ((lane - 16384) / 8)).handle = some op then s.failSlot ((lane - 16384) / 8) c else s)
  else if lane < 2 ^ 32 then
    (if ((s.seqOf (lane - 131072)).accs.get? op).any (·.asked) then s.seqTrapAt (lane - 131072) c true (s.seqOf (lane - 131072)).spc 0 else s)
  else if lane < cpLane then s.endAop op (.failed c)
  else if lane = cpLane then s
  else if lane < fwdLane then s.hostErr.hostBad
  else match s.inbox.get? op with
    | none => s
    | some m => match m.body with
      | .passed o l _ => ({ s with inbox := s.inbox.erase op }).sendMsg m.peer 0 o (.fwdBad o l c)
      | _ => s

/-- The requests of a publication fail with HWERR: PUBRs and fences, releases of single accesses, engines' results. -/
def State.reqHwerr (s : State) (r : Nat) : State :=
  let s := (s.aops.filter (fun p => p.2.stage == .publishing r || p.2.stage == .prePub r || p.2.stage == .flagging r)).foldl
    (fun (s : State) p => s.endAop p.1 (.failed .hwerr)) s
  let s := (s.ops.filter (fun o => o.2.req == some r)).foldl (fun (s : State) o => s.opFail o.1 .hwerr) s
  (s.groups.filter (fun g => match g.2.run with
    | some x => (match x.wait with
      | .fence _ _ (some q) _ _ => q == r
      | _ => false)
    | none => false)).foldl (fun (s : State) g => match g.2.run with
      | some x => s.trapPlain g.1 x .hwerr
      | none => s) s

/-- A publication whose prepare finds no route: nothing of it commits; the batch's lines stay in the open batch. -/
def State.pubHwerr (s : State) (p : Nat) : State :=
  match s.pub? p with
  | none => s
  | some q =>
    if q.committing || q.peer.isSome then s
    else
      let back (s : State) (x : PLine) : State :=
        let a := (s.appOf q.log).getD AppLine.none x.key
        s.setBatch q.log (s.bufOf q.log) ((s.appOf q.log).set x.key
          { mask := x.mask ||| a.mask, data := mergeLine a.mask a.data x.data, recs := x.recs ++ a.recs })
      let s := (s.abandonPub p)
      let s := if q.batch then q.lines.foldl back s else s
      q.reqs.foldl (fun (s : State) r => s.reqHwerr r) s

/-- NO_ROUTE: a message without a route takes one that has appeared; after 1 ms its operation fails. A commit, which can no longer fail, and a segment go on
waiting. -/
def execNoRoute (msg : Nat) (s : State) : Out :=
  match s.outbox.get? msg with
  | none => .next s
  | some m =>
    if m.link.isSome then .next s
    else match s.routeOf m.peer msg with
    | some n => .next { s with outbox := s.outbox.set msg { m with link := some n } }
    | none =>
      if s.now < m.since.toNat + cyclesMs then .next s
      else
        let s1 : State := { s with outbox := s.outbox.erase msg }
        match m.body with
        | .load op lane _ _ _ => .next (s1.loadFail op lane .hwerr)
        | .atom op lane _ _ _ _ _ _ _ => .next (s1.loadFail op lane .hwerr)
        | .prep p _ _ _ _ _ => .next (s1.pubHwerr p)
        | .send op lane _ _ _ _ _ _ _ => .next (if ((s1.ops.get? op).map (fun o => o.parts.any (fun x => x.lane == lane))).getD false
            then s1.opFail op .hwerr else s1)
        | .chunk op _ _ _ _ _ => .next (s1.endAop op (.failed .hwerr))
        | .page _ page _ _ => .next { s1 with migs := s1.migs.erase page }
        | .commit _ _ _ _ _ _ => .next s
        | .segment _ _ _ _ _ _ => .next s
        | .ckQuery op c n => .next (s1.ckUnreach m.peer op (.ckQuery op c n))
        | .shard op i bs => .next (s1.ckUnreach m.peer op (.shard op i bs))
        | .ckList op a b => .next (s1.ckUnreach m.peer op (.ckList op a b))
        | .ckFetch op i u => .next (s1.ckUnreach m.peer op (.ckFetch op i u))
        | _ => .next s1

/-! Answers from peers. -/

/-- A reply to a load or an atomic of a group. -/
def State.opReply (s : State) (op lane : Nat) (v : Line) : State :=
  match s.ops.get? op with
  | none => s
  | some o => match s.grp o.gid, o.kind with
    | none, _ => s
    | some g, .atom _ _ _ => s.atomReply op lane (s.grpCluster g) v.toNat
    | some g, _ => match o.parts[lane - 128]? with
      | some x => s.loadReply op g.ctx (lineKey g.ctx x.addr) v
      | none => s

/-- A reply, by its lane. -/
def State.replyIn (s : State) (op lane : Nat) (v : Line) : State :=
  let s := { s with waiters := s.waiters.filter (fun p => p.2.who != WaiterWho.fwd op lane) }
  if lane < 4096 then s.opReply op lane v
  else if lane < 16384 then s.modCore (lane - 4096) (fun k => { k with code := k.code.set op v })
  else if lane < 131072 then s.sldReply ((lane - 16384) / 8) ((lane - 16384) % 8) op v
  else if lane < 2 ^ 32 then s.seqReply (lane - 131072) op v
  else if lane < cpLane then s.modAop op (fun o => o.gotLine ((lane - 2 ^ 32) * 256) v)
  else if lane = cpLane then { s with held := s.held.set op v }
  else if lane < fwdLane then { s with held := s.held.set (hostKey (lane - cpLane - 1) op) v }
  else match s.inbox.get? op with
    | none => s
    | some m => match m.body with
      | .passed o l _ => ({ s with inbox := s.inbox.erase op }).sendMsg m.peer 0 o (.reply o l v)
      | _ => s

/-! Forwarded accesses that are parked at their page's owner (R374). -/

/-- The die, launch and context of the agent that waits for an answer. -/
def State.laneAgent (s : State) (op lane : Nat) : Option (Nat × Nat × Nat) :=
  if lane < 4096 then ((s.ops.get? op).bind (fun o => s.grp o.gid)).map (fun g => (clusterDie (s.grpCluster g), g.launch, g.ctx))
  else if lane < 16384 then some (clusterDie (coreCluster (lane - 4096)), 0, keyCtxLine op)
  else if lane < 131072 then
    let k := s.slot ((lane - 16384) / 8)
    some (clusterDie (coreCluster ((lane - 16384) / 8)), k.bound.getD 0, k.ctx)
  else if lane < 2 ^ 32 then
    let q := s.seqOf (lane - 131072)
    some (clusterDie (lane - 131072), q.launch, q.ctx)
  else if lane < cpLane then (s.aops.get? op).map (fun o => (clusterDie o.cluster, o.launch, o.ctx))
  else some (0, 0, keyCtxLine op)

/-- An access is parked at its page's owner: for CANCEL it is a waiter of its agent's die. One that was passed on tells the module that asked. -/
def State.parkedIn (s : State) (op lane page : Nat) : State :=
  if lane < fwdLane then match s.laneAgent op lane with
    | none => s
    | some (die, launch, ctx) => s.addWaiter die page (.fwd op lane) launch ctx
  else match s.inbox.get? op with
    | none => s
    | some m => match m.body with
      | .passed o l _ => s.sendMsg m.peer 0 o (.parked o l page)
      | _ => s

/-- A parked access replays at the owner. -/
def State.replayedIn (s : State) (op lane : Nat) : State :=
  if lane < fwdLane then { s with waiters := s.waiters.filter (fun p => p.2.who != WaiterWho.fwd op lane) }
  else match s.inbox.get? op with
    | none => s
    | some m => match m.body with
      | .passed o l _ => s.sendMsg m.peer 0 o (.replayed o l)
      | _ => s

/-- Whether a message is a peer's access with a given reply. -/
def isAccess (peer : BitVec 12) (op lane : Nat) (m : QfMsg) : Bool := m.peer == peer && match m.body with
  | .load o l _ _ _ => o == op && l == lane
  | .atom o l _ _ _ _ _ _ _ => o == op && l == lane
  | .passed o l _ => o == op && l == lane
  | _ => false

/-- A cancel of a parked access reaches the owner: its waiter is cancelled unless the notice has come first (R373); an access that was passed on is cancelled
further on. -/
def State.unparkIn (s : State) (peer : BitVec 12) (op lane : Nat) : State :=
  match s.inbox.find? (fun p => isAccess peer op lane p.2) with
  | none => s
  | some (n, m) => match m.body with
    | .passed _ _ o => s.sendMsg o 0 n (.unpark n fwdLane)
    | _ => { s with waiters := s.waiters.map (fun p => if p.2.who == .peer n then (p.1, { p.2 with cancel := true }) else p) }

/-- A peer's access, a message of `inbox`, parks on a page of the capacity tier at the page's home, once; its module learns of it. -/
def State.parkPeer (s : State) (msg : Nat) (m : QfMsg) (pk : Nat) : State :=
  if s.waiters.any (fun p => p.2.who == .peer msg) then s
  else
    let s := s.addWaiter (((s.pageHdr pk).map (·.home.toNat)).getD 0) pk (.peer msg) 0 (pageCtx pk)
    match m.body with
    | .load op lane _ _ _ => s.sendMsg m.peer 0 op (.parked op lane pk)
    | .atom op lane _ _ _ _ _ _ _ => s.sendMsg m.peer 0 op (.parked op lane pk)
    | _ => s

/-- Whether a page owned here is in the capacity tier. -/
def State.capPage (s : State) (pk : Nat) : Bool := match s.pageHdr pk with
  | some h => h.tier && !h.remote
  | none => false

/-- The open segment of a migration log is one of the fast tier, or there is none: one of the capacity tier is sealed (R371, R375). -/
def State.openFast (s : State) (log : Nat) : State := match (s.log log).seg with
  | some k => if segIsCap k then s.sealLog log else s
  | none => s

/-- The log in which the home of a page appends for peers. -/
def State.homeLog (s : State) (pk : Nat) : Nat := match s.pageHdr pk with
  | some h => migLog h
  | none => 259

/-- The line of a publication that a token names. -/
def Pub.byTok (q : Pub) (tok : Nat) : Option Nat := q.lines.findIdx? (fun x => x.tok == tok)

/-- The proxy that holds a peer's prepare. -/
def State.proxy (s : State) (peer : BitVec 12) (pub tok : Nat) : Option (Nat × Pub) :=
  s.store.pubs.find? (fun p => p.2.peer == some (peer, pub, tok))

/-- An acknowledgement of a prepare at its owner; it reaches its writer as any (R212). -/
def State.prepAckIn (s : State) (p tok : Nat) (old : Line) (full : Bool) : State :=
  match s.pub? p with
  | none => s
  | some q => match q.byTok tok with
    | none => s
    | some i => match q.lines[i]? with
      | none => s
      | some x =>
        if x.st = .queued then (s.modPLine p i (fun x => { x with st := .granted, old := old, full := full })).modPub p (fun q => { q with granted := true })
        else s

/-- The owner has applied a commit; a proxy tells the writer, and ends. -/
def State.commitAckIn (s : State) (p tok : Nat) : State :=
  match s.pub? p with
  | none => s
  | some q => match q.byTok tok with
    | none => s
    | some i => match q.lines[i]? with
      | none => s
      | some x =>
        if x.st != .committing then s
        else match q.peer with
        | some (m, tp, ti) => ((s.setStore { s.store with pubs := s.store.pubs.erase p }).unpromise q.log q.runits).sendMsg m 0 x.key (.commitAck tp ti)
        | none =>
          let s := if q.log < 256 && !q.batch then s.patchCores q.log (dropL1 x.key) else s
          s.modPLine p i (fun x => { x with st := .committed })

/-- A peer's prepare of a line that this module owns (R378): a publication of one line stands for it here, with 9 units of log space for its commit (R216), which
`runits` counts. None where the log has no room; then the prepare waits. -/
def State.prepIn (s : State) (m : BitVec 12) (p tok : Nat) (key : BitVec 64) (ctx line : Nat) (mask : LineMask) : Option State :=
  let lk := ctx * 2 ^ 40 + line
  let log := s.homeLog (pageOfLine lk)
  let room := if s.isRemote lk then some s else (s.openFast log).promise log 9
  room.map (fun s =>
    let (n, s) := s.newNum
    let q : Pub := { log := log, batch := false, runits := if s.isRemote lk then 0 else 9, rsegs := 0, key := key, pubid := 0, rkind := 0, lines := [PLine.of ctx line mask 0]
                     reqs := [], peer := some (m, p, tok), granted := false, committing := false, revoked := false, askedAt := 0 }
    s.setStore { s.store with pubs := s.store.pubs.set n q })

/-- A prepare that has arrived: it parks on a page of the capacity tier (R374). -/
def State.prepMsg (s : State) (msg : Nat) (m : QfMsg) (p tok : Nat) (key : BitVec 64) (ctx line : Nat) (mask : LineMask) : State :=
  let pk := pageOfLine (ctx * 2 ^ 40 + line)
  if s.capPage pk then s.parkPeer msg m pk
  else match s.prepIn m.peer p tok key ctx line mask with
  | none => s.tellSpace (s.homeLog pk)
  | some s => { s with inbox := s.inbox.erase msg }

/-- A proxy ends, and gives back what it was promised. -/
def State.dropProxy (s : State) (n : Nat) (q : Pub) : State :=
  (s.setStore { s.store with pubs := s.store.pubs.erase n }).unpromise q.log q.runits

/-- Whether a message is a peer's prepare that still waits. -/
def isPrep (peer : BitVec 12) (p tok : Nat) (m : QfMsg) : Bool := m.peer == peer && match m.body with
  | .prep a b _ _ _ _ => a == p && b == tok
  | _ => false

/-- A peer lets go of a prepare. -/
def State.releaseIn (s : State) (m : BitVec 12) (p tok : Nat) : State :=
  match s.proxy m p tok with
  | none =>
    let gone := (s.inbox.filter (fun x => isPrep m p tok x.2)).map (·.1)
    { s with inbox := s.inbox.filter (fun x => !isPrep m p tok x.2), waiters := s.waiters.filter (fun w => gone.all (fun n => w.2.who != .peer n)) }
  | some (n, q) => (q.lines.foldl (fun (s : State) x => s.letGo n x) s).dropProxy n q

/-- A peer's commit (R378): the payload is appended as a KIND 0 record in the migration log of the page's home, in the space that its prepare was promised, and the commit
names it; for a page that has moved on it is passed to the owner. -/
def State.commitIn (s : State) (msg : Nat) (m : QfMsg) (p tok ctx line : Nat) (data : Line) (msk : BitVec 8) : State :=
  match s.proxy m.peer p tok with
  | none => { s with inbox := s.inbox.erase msg }
  | some (n, q) =>
    let lk := ctx * 2 ^ 40 + line
    if s.isRemote lk then
      let t := (q.lines.head?.map (·.tok)).getD 0
      (({ s with inbox := s.inbox.erase msg }).modPLine n 0 (fun x => { x with st := .committing })).sendMsg (s.ownerOf lk) 0 lk
        (.commit n t ctx line data msk)
    else
      let r := if msk = 0xFF ∨ needsImage (s.homeEntry lk) msk then wholeRec s q.log ctx line 0 data
        else fragRec s q.log ctx line 0 msk (sectorBytes msk) data
      match (s.openFast q.log).appendPromised q.log r with
      | none => s
      | some (s, pos) =>
        let s := s.setHomeEntry lk { commitEntry (s.homeEntry lk) (BitVec.ofNat 44 pos) r.smask r.fmt with prep := false }
        let s := ((s.markCommit pos).endHold lk).dropProxy n q
        ({ s with inbox := s.inbox.erase msg }).sendMsg m.peer 0 lk (.commitAck p tok)

/-! Forwarded accesses (R374, R378). -/

/-- A peer's load, served at its line's home; it parks on a page of the capacity tier; a PREP entry makes it wait; a page that has moved on passes it to the owner. -/
def State.loadIn (s : State) (msg : Nat) (m : QfMsg) (op lane ctx addr width : Nat) : State :=
  let lk := lineKey ctx addr
  if s.isRemote lk then
    ({ s with inbox := s.inbox.set msg { m with body := .passed op lane (s.ownerOf lk) } }).sendMsg (s.ownerOf lk) 0 lk (.load msg fwdLane ctx addr width)
  else if s.capPage (pageOfLine lk) then (s.doneRead lk (.peer msg)).parkPeer msg m (pageOfLine lk)
  else if s.prepAt lk then s.waitRead lk (.peer msg)
  else
    ((({ s with inbox := s.inbox.erase msg }).countRemote (pageOfLine lk)).doneRead lk (.peer msg)).sendMsg m.peer 0 lk
      (.reply op lane (BitVec.ofNat 2048 (Line.field (s.homeLine lk) (addr % 256) width)))

/-- The request that stands for a peer's atomic. -/
def State.atomReq (s : State) (msg : Nat) : Option Nat :=
  (s.store.reqs.find? (fun p => p.2.kind == .atomic && p.2.gid.isNone && p.2.upto == msg)).map (·.1)
/-- A peer's atomic that must wait elsewhere gives up its request. -/
def State.dropAtomReq (s : State) (msg : Nat) : State := match s.atomReq msg with
  | none => s
  | some r => s.withdraw r

/-- A peer's atomic, performed at its home; its answer leaves once its write has committed. -/
def State.atomIn (s : State) (msg : Nat) (m : QfMsg) (op lane ctx addr width : Nat) (fn : AtomOp) (sgn : Bool) (d cmp : BitVec 64) : State :=
  let lk := lineKey ctx addr
  let log := s.homeLog (pageOfLine lk)
  if s.isRemote lk then
    ({ (s.dropAtomReq msg) with inbox := s.inbox.set msg { m with body := .passed op lane (s.ownerOf lk) } }).sendMsg (s.ownerOf lk) 0 lk
      (.atom msg fwdLane ctx addr width fn sgn d cmp)
  else if s.capPage (pageOfLine lk) then ((s.dropAtomReq msg).doneRead lk (.peer msg)).parkPeer msg m (pageOfLine lk)
  else match s.atomReq msg with
  | none =>
    let (r, s) := s.lodge log ctx none .atomic [] 0
    s.modReq r (fun q => { q with upto := msg })
  | some r =>
    match (s.openFast log).atomicAt log r ctx addr width (.peer msg) 0 (fun old => atomNew fn sgn (8 * width) old (d.toNat + cmp.toNat * 2 ^ (8 * width))) with
    | (none, s) => s
    | (some old, s) =>
      ({ s with inbox := s.inbox.set msg { m with body := .reply op lane (BitVec.ofNat 2048 old) } }).countRemote (pageOfLine lk)

/-- FORWARDED_ACCESS: a peer's load, atomic, prepare or commit that has arrived goes on. -/
def execForwardedAccess (msg : Nat) (s : State) : Out :=
  match s.inbox.get? msg with
  | none => .next s
  | some m => match m.body with
    | .load op lane ctx addr width => .next (s.loadIn msg m op lane ctx addr width)
    | .atom op lane ctx addr width fn sgn d cmp => .next (s.atomIn msg m op lane ctx addr width fn sgn d cmp)
    | .reply op lane v =>
      if (s.atomReq msg).isNone then .next (({ s with inbox := s.inbox.erase msg }).sendMsg m.peer 0 op (.reply op lane v)) else .next s
    | .prep p tok key ctx line mask => .next (s.prepMsg msg m p tok key ctx line mask)
    | .commit p tok ctx line data msk => .next (s.commitIn msg m p tok ctx line data msk)
    | _ => .next s

/-! Messages (R430). -/

/-- A message that waits at its engine for a step of its own. -/
def State.keepMsg (s : State) (m : QfMsg) : State :=
  let (n, s) := s.newNum
  { s with inbox := s.inbox.set n m }

/-- A SEND from a peer (R118). -/
def State.sendIn (s : State) (m : BitVec 12) (op lane : Nat) (sp : Space) (cluster die a n : Nat) (v : BitVec 128) (launch : Nat) : State :=
  match s.sendWrite launch sp cluster die a n v.toNat with
  | some s => s.sendMsg m 0 op (.sendAck op lane true)
  | none => s.sendMsg m 0 op (.sendAck op lane false)
def State.sendAckIn (s : State) (op lane : Nat) (ok : Bool) : State :=
  let take (x : Part) : Part := if x.lane == lane && x.asked && !x.fin then { x with fin := true, refused := !ok } else x
  s.modOp op (fun o => { o with parts := o.parts.map take })

/-- A message is delivered to its engine. -/
def State.deliver (s : State) (m : QfMsg) : State :=
  match m.body with
  | .reply op lane v => s.replyIn op lane v
  | .prep p tok key ctx line mask => (s.keepMsg m).prepMsg s.fresh m p tok key ctx line mask
  | .prepAck p tok old full => s.prepAckIn p tok old full
  | .revoke p => s.modPub p (fun q => if q.committing then q else { q with revoked := true, askedAt := s.pcc })
  | .release p tok => s.releaseIn m.peer p tok
  | .commitAck p tok => s.commitAckIn p tok
  | .send op lane sp cl die a n v launch => s.sendIn m.peer op lane sp cl die a n v launch
  | .sendAck op lane ok => s.sendAckIn op lane ok
  | .chunkAck op c bad => s.putAck op c bad
  | .segAck seg ctx => s.segAckIn m.peer seg ctx
  | .snapSlot ctx slot => s.snapSlotIn ctx slot
  | .ckQuery op ctx need =>
    let (ok, seq, s) := s.ckQueryIn m.peer op ctx need
    s.sendMsg m.peer 2 op (.ckAnswer op ok seq)
  | .ckAnswer op ok seq => s.ckAnswerIn m.peer op ok seq
  | .shardAck op idx unit => s.shardAckIn op idx unit
  | .ckFree op ctx seq older => s.ckFreeIn m.peer op ctx seq older
  | .ckList op a b => s.sendMsg m.peer 2 op (.ckFound op (s.manBytes (BitVec.ofNat 12 a) b))
  | .ckFound op ms => match s.aops.get? op with
    | some o => s.ckFoundIn op (o.memberOf m.peer) ms
    | none => s
  | .ckFetch op idx u => s.sendMsg m.peer 2 op (.ckUnit op idx (if u < s.ckpt.units.toNat then s.unitHdr u ++ s.unitPay u else []))
  | .ckUnit op idx bs => s.ckUnitIn op idx bs
  | .pageAck page => s.givePage m.peer page
  | .heartbeat => { s with heard := s.heard.set m.peer.toNat s.pcc, lost := s.lost.filter (· != m.peer.toNat) }
  | .barrier v => (s.arriveAt (v % 2 ^ 64) .pd (v / 2 ^ 64)).2
  | .passed _ _ _ => s
  | .parked op lane page => s.parkedIn op lane page
  | .replayed op lane => s.replayedIn op lane
  | .unpark op lane => s.unparkIn m.peer op lane
  | .fwdBad op lane c => s.loadFail op lane c
  | .load _ _ _ _ _ => s.keepMsg m
  | .atom _ _ _ _ _ _ _ _ _ => s.keepMsg m
  | .commit _ _ _ _ _ _ => s.keepMsg m
  | .chunk _ _ _ _ _ _ => s.keepMsg m
  | .segment _ _ _ _ _ _ => s.keepMsg m
  | .shard _ _ _ => s.keepMsg m
  | .page _ _ _ _ => s.keepMsg m

/-- QF_MESSAGE_RECEIVE: the next message of a class on a link that is up; what had left on the link before is acknowledged with it. -/
def execQfMessageReceive (link : BitVec 6) (cls : BitVec 2) (s : State) : Out :=
  if (s.link link.toNat).up then
    match Config.peerMessage s.free with
    | none => .next s.newFree.2
    | some m =>
      let s := { s.newFree.2 with outbox := s.outbox.filter (fun p => !(p.2.link == some link && decide (p.2.since.toNat < s.now))) }
      .next (s.deliver { m with cls := cls, link := some link })
  else .next s

end Machine

end Sys2Proof
end

