-- ==== Sys2Proof/Machine/Dispatch.lean ====
section
/-! DEFINITION. The meaning of every instruction: one arm per constructor of Instr, one direct call each. -/

namespace Sys2Proof.Machine

/-- Execute one step of the module. -/
def exec (i : Instr) (s : State) : Host.Outcome State Fault Refusal :=
  match i with
  | .iadd w => Sys2Proof.Machine.execIadd w s
  | .isub w => Sys2Proof.Machine.execIsub w s
  | .iadds w => Sys2Proof.Machine.execIadds w s
  | .isubs w => Sys2Proof.Machine.execIsubs w s
  | .imul w => Sys2Proof.Machine.execImul w s
  | .imulhi w => Sys2Proof.Machine.execImulhi w s
  | .imad w => Sys2Proof.Machine.execImad w s
  | .ineg w => Sys2Proof.Machine.execIneg w s
  | .iabs w => Sys2Proof.Machine.execIabs w s
  | .imin w => Sys2Proof.Machine.execImin w s
  | .imax w => Sys2Proof.Machine.execImax w s
  | .ishl w => Sys2Proof.Machine.execIshl w s
  | .ishr w => Sys2Proof.Machine.execIshr w s
  | .isar w => Sys2Proof.Machine.execIsar w s
  | .irol w => Sys2Proof.Machine.execIrol w s
  | .ibfx w => Sys2Proof.Machine.execIbfx w s
  | .ibfi w => Sys2Proof.Machine.execIbfi w s
  | .popc w => Sys2Proof.Machine.execPopc w s
  | .clz w => Sys2Proof.Machine.execClz w s
  | .brev w => Sys2Proof.Machine.execBrev w s
  | .andB w => Sys2Proof.Machine.execAndB w s
  | .orB w => Sys2Proof.Machine.execOrB w s
  | .xorB w => Sys2Proof.Machine.execXorB w s
  | .notB w => Sys2Proof.Machine.execNotB w s
  | .andn w => Sys2Proof.Machine.execAndn w s
  | .bfn3 w => Sys2Proof.Machine.execBfn3 w s
  | .icmp w => Sys2Proof.Machine.execIcmp w s
  | .fcmp w => Sys2Proof.Machine.execFcmp w s
  | .sel w => Sys2Proof.Machine.execSel w s
  | .clop w => Sys2Proof.Machine.execClop w s
  | .mov w => Sys2Proof.Machine.execMov w s
  | .movi w => Sys2Proof.Machine.execMovi w s
  | .movc w => Sys2Proof.Machine.execMovc w s
  | .fadd w => Sys2Proof.Machine.execFadd w s
  | .fsub w => Sys2Proof.Machine.execFsub w s
  | .fmul w => Sys2Proof.Machine.execFmul w s
  | .ffma w => Sys2Proof.Machine.execFfma w s
  | .fmin w => Sys2Proof.Machine.execFmin w s
  | .fmax w => Sys2Proof.Machine.execFmax w s
  | .fabs w => Sys2Proof.Machine.execFabs w s
  | .fneg w => Sys2Proof.Machine.execFneg w s
  | .fclass w => Sys2Proof.Machine.execFclass w s
  | .frnd w => Sys2Proof.Machine.execFrnd w s
  | .pkadd w => Sys2Proof.Machine.execPkadd w s
  | .pksub w => Sys2Proof.Machine.execPksub w s
  | .pkmul w => Sys2Proof.Machine.execPkmul w s
  | .pkfma w => Sys2Proof.Machine.execPkfma w s
  | .pkmin w => Sys2Proof.Machine.execPkmin w s
  | .pkmax w => Sys2Proof.Machine.execPkmax w s
  | .pkdot w => Sys2Proof.Machine.execPkdot w s
  | .cvt w => Sys2Proof.Machine.execCvt w s
  | .pack2 w => Sys2Proof.Machine.execPack2 w s
  | .unpk2 w => Sys2Proof.Machine.execUnpk2 w s
  | .shfl w => Sys2Proof.Machine.execShfl w s
  | .shflx w => Sys2Proof.Machine.execShflx w s
  | .shflup w => Sys2Proof.Machine.execShflup w s
  | .shfldn w => Sys2Proof.Machine.execShfldn w s
  | .bcast w => Sys2Proof.Machine.execBcast w s
  | .vall w => Sys2Proof.Machine.execVall w s
  | .vany w => Sys2Proof.Machine.execVany w s
  | .vbal w => Sys2Proof.Machine.execVbal w s
  | .vfirst w => Sys2Proof.Machine.execVfirst w s
  | .rsqs w => Sys2Proof.Machine.execRsqs w s
  | .rcps w => Sys2Proof.Machine.execRcps w s
  | .ex2s w => Sys2Proof.Machine.execEx2s w s
  | .lg2s w => Sys2Proof.Machine.execLg2s w s
  | .sins w => Sys2Proof.Machine.execSins w s
  | .coss w => Sys2Proof.Machine.execCoss w s
  | .gadd w => Sys2Proof.Machine.execGadd w s
  | .gsub w => Sys2Proof.Machine.execGsub w s
  | .gmul w => Sys2Proof.Machine.execGmul w s
  | .gand w => Sys2Proof.Machine.execGand w s
  | .gor w => Sys2Proof.Machine.execGor w s
  | .gxor w => Sys2Proof.Machine.execGxor w s
  | .gshl w => Sys2Proof.Machine.execGshl w s
  | .gshr w => Sys2Proof.Machine.execGshr w s
  | .gmov w => Sys2Proof.Machine.execGmov w s
  | .gmovi w => Sys2Proof.Machine.execGmovi w s
  | .gcmp w => Sys2Proof.Machine.execGcmp w s
  | .klop w => Sys2Proof.Machine.execKlop w s
  | .v2g w => Sys2Proof.Machine.execV2g w s
  | .g2v w => Sys2Proof.Machine.execG2v w s
  | .loopn w => Sys2Proof.Machine.execLoopn w s
  | .ld w => Sys2Proof.Machine.execLd w s
  | .ldx w => Sys2Proof.Machine.execLdx w s
  | .lds w => Sys2Proof.Machine.execLds w s
  | .st w => Sys2Proof.Machine.execSt w s
  | .send w => Sys2Proof.Machine.execSend w s
  | .pref w => Sys2Proof.Machine.execPref w s
  | .fence w => Sys2Proof.Machine.execFence w s
  | .aadd w => Sys2Proof.Machine.execAadd w s
  | .amin w => Sys2Proof.Machine.execAmin w s
  | .amax w => Sys2Proof.Machine.execAmax w s
  | .aand w => Sys2Proof.Machine.execAand w s
  | .aor w => Sys2Proof.Machine.execAor w s
  | .axor w => Sys2Proof.Machine.execAxor w s
  | .axchg w => Sys2Proof.Machine.execAxchg w s
  | .acas w => Sys2Proof.Machine.execAcas w s
  | .afadd w => Sys2Proof.Machine.execAfadd w s
  | .runend w => Sys2Proof.Machine.execRunend w s
  | .wait w => Sys2Proof.Machine.execWait w s
  | .nop w => Sys2Proof.Machine.execNop w s
  | .br w => Sys2Proof.Machine.execBr w s
  | .bru w => Sys2Proof.Machine.execBru w s
  | .jmpi w => Sys2Proof.Machine.execJmpi w s
  | .call w => Sys2Proof.Machine.execCall w s
  | .ret w => Sys2Proof.Machine.execRet w s
  | .spawn w => Sys2Proof.Machine.execSpawn w s
  | .pause w => Sys2Proof.Machine.execPause w s
  | .bar w => Sys2Proof.Machine.execBar w s
  | .sstep w => Sys2Proof.Machine.execSstep w s
  | .ftest w => Sys2Proof.Machine.execFtest w s
  | .fcancel w => Sys2Proof.Machine.execFcancel w s
  | .fmovg w => Sys2Proof.Machine.execFmovg w s
  | .gmovf w => Sys2Proof.Machine.execGmovf w s
  | .rjoin w => Sys2Proof.Machine.execRjoin w s
  | .exit w => Sys2Proof.Machine.execExit w s
  | .trapOp w => Sys2Proof.Machine.execTrapOp w s
  | .bkpt w => Sys2Proof.Machine.execBkpt w s
  | .csrr w => Sys2Proof.Machine.execCsrr w s
  | .csrw w => Sys2Proof.Machine.execCsrw w s
  | .traceFlush w => Sys2Proof.Machine.execTraceFlush w s
  | .tret w => Sys2Proof.Machine.execTret w s
  | .sqpostGroup w => Sys2Proof.Machine.execSqpostGroup w s
  | .sqwaitGroup w => Sys2Proof.Machine.execSqwaitGroup w s
  | .pub w => Sys2Proof.Machine.execPub w s
  | .pubr w => Sys2Proof.Machine.execPubr w s
  | .invr w => Sys2Proof.Machine.execInvr w s
  | .zline w => Sys2Proof.Machine.execZline w s
  | .tlock w => Sys2Proof.Machine.execTlock w s
  | .tunlock w => Sys2Proof.Machine.execTunlock w s
  | .tprobe w => Sys2Proof.Machine.execTprobe w s
  | .migr w => Sys2Proof.Machine.execMigr w s
  | .snap w => Sys2Proof.Machine.execSnap w s
  | .snapdrop w => Sys2Proof.Machine.execSnapdrop w s
  | .rootsw w => Sys2Proof.Machine.execRootsw w s
  | .libsd w => Sys2Proof.Machine.execLibsd w s
  | .xcopy w => Sys2Proof.Machine.execXcopy w s
  | .xconv w => Sys2Proof.Machine.execXconv w s
  | .xqa8 w => Sys2Proof.Machine.execXqa8 w s
  | .xwht w => Sys2Proof.Machine.execXwht w s
  | .tprep w => Sys2Proof.Machine.execTprep w s
  | .pload w => Sys2Proof.Machine.execPload w s
  | .pstart w => Sys2Proof.Machine.execPstart w s
  | .pstop w => Sys2Proof.Machine.execPstop w s
  | .qpop w => Sys2Proof.Machine.execQpop w s
  | .qpeek w => Sys2Proof.Machine.execQpeek w s
  | .qstat w => Sys2Proof.Machine.execQstat w s
  | .cntset e3 e2 e1 e0 => Sys2Proof.Machine.execCntset e3 e2 e1 e0 s
  | .agset n p s3 s2 s1 s0 => Sys2Proof.Machine.execAgset n p s3 s2 s1 s0 s
  | .piccoloSld r n sp sz => Sys2Proof.Machine.execPiccoloSld r n sp sz s
  | .dq d src fmt => Sys2Proof.Machine.execDq d src fmt s
  | .trn => Sys2Proof.Machine.execTrn s
  | .push q r => Sys2Proof.Machine.execPush q r s
  | .nextOp top lo target => Sys2Proof.Machine.execNextOp top lo target s
  | .endOp => Sys2Proof.Machine.execEndOp s
  | .sadd w => Sys2Proof.Machine.execSadd w s
  | .ssub w => Sys2Proof.Machine.execSsub w s
  | .smul w => Sys2Proof.Machine.execSmul w s
  | .sand w => Sys2Proof.Machine.execSand w s
  | .sor w => Sys2Proof.Machine.execSor w s
  | .sxor w => Sys2Proof.Machine.execSxor w s
  | .sshl w => Sys2Proof.Machine.execSshl w s
  | .sshr w => Sys2Proof.Machine.execSshr w s
  | .smov w => Sys2Proof.Machine.execSmov w s
  | .smovi w => Sys2Proof.Machine.execSmovi w s
  | .scmp w => Sys2Proof.Machine.execScmp w s
  | .sbr w => Sys2Proof.Machine.execSbr w s
  | .sjmp w => Sys2Proof.Machine.execSjmp w s
  | .sld w => Sys2Proof.Machine.execSld w s
  | .sst w => Sys2Proof.Machine.execSst w s
  | .sqpostSeq w => Sys2Proof.Machine.execSqpostSeq w s
  | .sqwaitSeq w => Sys2Proof.Machine.execSqwaitSeq w s
  | .swaitpx w => Sys2Proof.Machine.execSwaitpx w s
  | .sexit w => Sys2Proof.Machine.execSexit w s
  | .scsrr w => Sys2Proof.Machine.execScsrr w s
  | .pxldw w => Sys2Proof.Machine.execPxldw w s
  | .pxga w => Sys2Proof.Machine.execPxga w s
  | .pxlda w => Sys2Proof.Machine.execPxlda w s
  | .pxmm w => Sys2Proof.Machine.execPxmm w s
  | .pxdm w => Sys2Proof.Machine.execPxdm w s
  | .pxzero w => Sys2Proof.Machine.execPxzero w s
  | .pxdrn w => Sys2Proof.Machine.execPxdrn w s
  | .pxbyp w => Sys2Proof.Machine.execPxbyp w s
  | .pxsave w => Sys2Proof.Machine.execPxsave w s
  | .pxrest w => Sys2Proof.Machine.execPxrest w s
  | .pxstat w => Sys2Proof.Machine.execPxstat w s
  | .tload w => Sys2Proof.Machine.execTload w s
  | .tq w => Sys2Proof.Machine.execTq w s
  | .tq2 w => Sys2Proof.Machine.execTq2 w s
  | .tmap w => Sys2Proof.Machine.execTmap w s
  | .tfree w => Sys2Proof.Machine.execTfree w s
  | .landr w => Sys2Proof.Machine.execLandr w s
  | .landcArm w => Sys2Proof.Machine.execLandcArm w s
  | .landcPut w => Sys2Proof.Machine.execLandcPut w s
  | .quiesce w => Sys2Proof.Machine.execQuiesce w s
  | .resume w => Sys2Proof.Machine.execResume w s
  | .ctxld w => Sys2Proof.Machine.execCtxld w s
  | .ctxsv w => Sys2Proof.Machine.execCtxsv w s
  | .halt w => Sys2Proof.Machine.execHalt w s
  | .launch p => Sys2Proof.Machine.execLaunch p s
  | .barrier => Sys2Proof.Machine.execBarrier s
  | .signal val addr => Sys2Proof.Machine.execSignal val addr s
  | .cancel byLaunch byRange launch base len => Sys2Proof.Machine.execCancel byLaunch byRange launch base len s
  | .preempt launch hold => Sys2Proof.Machine.execPreempt launch hold s
  | .buffer h free hostw base len => Sys2Proof.Machine.execBuffer h free hostw base len s
  | .loopnStart core => Sys2Proof.Machine.execLoopnStart core s
  | .loopnComplete core => Sys2Proof.Machine.execLoopnComplete core s
  | .atomicPerform op => Sys2Proof.Machine.execAtomicPerform op s
  | .loadReturn op => Sys2Proof.Machine.execLoadReturn op s
  | .storePerform op => Sys2Proof.Machine.execStorePerform op s
  | .sendArrive op lane => Sys2Proof.Machine.execSendArrive op lane s
  | .barrierRelease bar => Sys2Proof.Machine.execBarrierRelease bar s
  | .traceFlushDone op => Sys2Proof.Machine.execTraceFlushDone op s
  | .runArbitration core => Sys2Proof.Machine.execRunArbitration core s
  | .runResume gid => Sys2Proof.Machine.execRunResume gid s
  | .yieldExpire gid idx => Sys2Proof.Machine.execYieldExpire gid idx s
  | .stall gid => Sys2Proof.Machine.execStall gid s
  | .trapTake gid => Sys2Proof.Machine.execTrapTake gid s
  | .preemptRequest gid => Sys2Proof.Machine.execPreemptRequest gid s
  | .groupSave gid => Sys2Proof.Machine.execGroupSave gid s
  | .groupRestore gid core => Sys2Proof.Machine.execGroupRestore gid core s
  | .groupEnd gid => Sys2Proof.Machine.execGroupEnd gid s
  | .wcbWindowExpire cluster line => Sys2Proof.Machine.execWcbWindowExpire cluster line s
  | .publicationStart log => Sys2Proof.Machine.execPublicationStart log s
  | .homePrepare pub idx => Sys2Proof.Machine.execHomePrepare pub idx s
  | .prepareAck pub idx => Sys2Proof.Machine.execPrepareAck pub idx s
  | .revokeRequest pub => Sys2Proof.Machine.execRevokeRequest pub s
  | .holdTimerExpire line => Sys2Proof.Machine.execHoldTimerExpire line s
  | .homeCommit pub idx => Sys2Proof.Machine.execHomeCommit pub idx s
  | .homeRelease pub idx => Sys2Proof.Machine.execHomeRelease pub idx s
  | .publicationCommit pub => Sys2Proof.Machine.execPublicationCommit pub s
  | .libFill cluster leaf => Sys2Proof.Machine.execLibFill cluster leaf s
  | .loadServeHome op lane => Sys2Proof.Machine.execLoadServeHome op lane s
  | .translationWalk cluster leaf => Sys2Proof.Machine.execTranslationWalk cluster leaf s
  | .leafWriteback leaf => Sys2Proof.Machine.execLeafWriteback leaf s
  | .logstallExpire gid => Sys2Proof.Machine.execLogstallExpire gid s
  | .tlockFillLand op => Sys2Proof.Machine.execTlockFillLand op s
  | .pageRequest die page => Sys2Proof.Machine.execPageRequest die page s
  | .pagePromote page => Sys2Proof.Machine.execPagePromote page s
  | .migrationCommitNotice die page => Sys2Proof.Machine.execMigrationCommitNotice die page s
  | .pageDemote stack page => Sys2Proof.Machine.execPageDemote stack page s
  | .faultCancel die waiter => Sys2Proof.Machine.execFaultCancel die waiter s
  | .forwardedAccess msg => Sys2Proof.Machine.execForwardedAccess msg s
  | .counterEpochTick => Sys2Proof.Machine.execCounterEpochTick s
  | .pageTransfer page peer => Sys2Proof.Machine.execPageTransfer page peer s
  | .snapshotCut op => Sys2Proof.Machine.execSnapshotCut op s
  | .rollback op => Sys2Proof.Machine.execRollback op s
  | .cleanSegment stack seg => Sys2Proof.Machine.execCleanSegment stack seg s
  | .shootdown op => Sys2Proof.Machine.execShootdown op s
  | .segmentShip seg => Sys2Proof.Machine.execSegmentShip seg s
  | .replicaSegmentReceive msg => Sys2Proof.Machine.execReplicaSegmentReceive msg s
  | .copyOpStart cluster => Sys2Proof.Machine.execCopyOpStart cluster s
  | .copyOpComplete op => Sys2Proof.Machine.execCopyOpComplete op s
  | .ploadDataReturn op => Sys2Proof.Machine.execPloadDataReturn op s
  | .piccoloRunBegin core => Sys2Proof.Machine.execPiccoloRunBegin core s
  | .piccoloSldReturn core r => Sys2Proof.Machine.execPiccoloSldReturn core r s
  | .bindingEnd core => Sys2Proof.Machine.execBindingEnd core s
  | .streamStart cluster => Sys2Proof.Machine.execStreamStart cluster s
  | .streamHandleResolve cluster => Sys2Proof.Machine.execStreamHandleResolve cluster s
  | .seqSldReturn cluster reg => Sys2Proof.Machine.execSeqSldReturn cluster reg s
  | .seqStall cluster => Sys2Proof.Machine.execSeqStall cluster s
  | .seqTrap cluster => Sys2Proof.Machine.execSeqTrap cluster s
  | .seqSave cluster => Sys2Proof.Machine.execSeqSave cluster s
  | .seqRestore cluster blk => Sys2Proof.Machine.execSeqRestore cluster blk s
  | .pxOpStart cluster => Sys2Proof.Machine.execPxOpStart cluster s
  | .pxOpComplete cluster idx => Sys2Proof.Machine.execPxOpComplete cluster idx s
  | .tloadComplete op => Sys2Proof.Machine.execTloadComplete op s
  | .tqPacketServe pkt => Sys2Proof.Machine.execTqPacketServe pkt s
  | .tqReply pkt => Sys2Proof.Machine.execTqReply pkt s
  | .lanesReturn gid j => Sys2Proof.Machine.execLanesReturn gid j s
  | .tmapComplete op => Sys2Proof.Machine.execTmapComplete op s
  | .tfreeComplete op => Sys2Proof.Machine.execTfreeComplete op s
  | .landOpStart op => Sys2Proof.Machine.execLandOpStart op s
  | .armReserve stack => Sys2Proof.Machine.execArmReserve stack s
  | .chunkAccept op => Sys2Proof.Machine.execChunkAccept op s
  | .putRetry op => Sys2Proof.Machine.execPutRetry op s
  | .landPublish op => Sys2Proof.Machine.execLandPublish op s
  | .quiesceComplete ctx => Sys2Proof.Machine.execQuiesceComplete ctx s
  | .queueKick by_ q tail => Sys2Proof.Machine.execQueueKick by_ q tail s
  | .queueReset by_ q => Sys2Proof.Machine.execQueueReset by_ q s
  | .packetRead q => Sys2Proof.Machine.execPacketRead q s
  | .packetReread q => Sys2Proof.Machine.execPacketReread q s
  | .blockPlace launch cluster => Sys2Proof.Machine.execBlockPlace launch cluster s
  | .groupMove gid core => Sys2Proof.Machine.execGroupMove gid core s
  | .priorityPreempt launch cluster => Sys2Proof.Machine.execPriorityPreempt launch cluster s
  | .launchComplete launch => Sys2Proof.Machine.execLaunchComplete launch s
  | .hostAdmit requester => Sys2Proof.Machine.execHostAdmit requester s
  | .ownershipSwap by_ val => Sys2Proof.Machine.execOwnershipSwap by_ val s
  | .frozenClear by_ bits => Sys2Proof.Machine.execFrozenClear by_ bits s
  | .hostRead m addr n => Sys2Proof.Machine.execHostRead m addr n s
  | .hostWrite m addr bytes => Sys2Proof.Machine.execHostWrite m addr bytes s
  | .hostWcbWindowExpire m line => Sys2Proof.Machine.execHostWcbWindowExpire m line s
  | .hostRelease by_ m => Sys2Proof.Machine.execHostRelease by_ m s
  | .hostmapWrite by_ m val => Sys2Proof.Machine.execHostmapWrite by_ m val s
  | .ckreq by_ val => Sys2Proof.Machine.execCkreq by_ val s
  | .ckOpStart op => Sys2Proof.Machine.execCkOpStart op s
  | .shardReceive msg => Sys2Proof.Machine.execShardReceive msg s
  | .manifestWrite op => Sys2Proof.Machine.execManifestWrite op s
  | .ckCommit op => Sys2Proof.Machine.execCkCommit op s
  | .ckRestore op => Sys2Proof.Machine.execCkRestore op s
  | .refusedClear by_ => Sys2Proof.Machine.execRefusedClear by_ s
  | .histSample die => Sys2Proof.Machine.execHistSample die s
  | .timeseriesTick => Sys2Proof.Machine.execTimeseriesTick s
  | .kSwitch => Sys2Proof.Machine.execKSwitch s
  | .dump by_ => Sys2Proof.Machine.execDump by_ s
  | .trctailWrite by_ val => Sys2Proof.Machine.execTrctailWrite by_ val s
  | .trclostRead by_ => Sys2Proof.Machine.execTrclostRead by_ s
  | .flitReplay link => Sys2Proof.Machine.execFlitReplay link s
  | .linkDown link => Sys2Proof.Machine.execLinkDown link s
  | .noRoute msg => Sys2Proof.Machine.execNoRoute msg s
  | .linkTrain link padv => Sys2Proof.Machine.execLinkTrain link padv s
  | .retrain by_ link => Sys2Proof.Machine.execRetrain by_ link s
  | .heartbeat => Sys2Proof.Machine.execHeartbeat s
  | .peerFailure peer => Sys2Proof.Machine.execPeerFailure peer s
  | .qfMessageReceive link cls => Sys2Proof.Machine.execQfMessageReceive link cls s
  | .hostErrcountRead by_ => Sys2Proof.Machine.execHostErrcountRead by_ s
  | .powerDownEntry ch => Sys2Proof.Machine.execPowerDownEntry ch s
  | .selfRefreshEntry ch => Sys2Proof.Machine.execSelfRefreshEntry ch s
  | .channelWake ch => Sys2Proof.Machine.execChannelWake ch s
  | .forcesr by_ stack val => Sys2Proof.Machine.execForcesr by_ stack val s
  | .gatectlWrite by_ die val => Sys2Proof.Machine.execGatectlWrite by_ die val s
  | .gateWake die => Sys2Proof.Machine.execGateWake die s
  | .gateErrorClear by_ => Sys2Proof.Machine.execGateErrorClear by_ s
  | .coldReset => Sys2Proof.Machine.execColdReset s
  | .warmReset by_ => Sys2Proof.Machine.execWarmReset by_ s
  | .boot image sig version => Sys2Proof.Machine.execBoot image sig version s
  | .attreq by_ val => Sys2Proof.Machine.execAttreq by_ val s
  | .softError correctable victim id => Sys2Proof.Machine.execSoftError correctable victim id s
  | .registerWrite by_ off val => Sys2Proof.Machine.execRegisterWrite by_ off val s
  | .seqSstPerform cluster idx => Sys2Proof.Machine.execSeqSstPerform cluster idx s
  | .tprobeResult op => Sys2Proof.Machine.execTprobeResult op s
  | .newImage image sig version => Sys2Proof.Machine.execNewImage image sig version s

end Sys2Proof.Machine
end

