-- ==== Sys2Proof/Machine/Step.lean ====
section
/-! DEFINITION. One step of the module: the next turn of an agent, a cycle, or a step of an engine or of the outside; and the state in which a given
instruction is the next one to run. -/

namespace Sys2Proof.Machine

/-- A row that is a step of an engine or of the outside: no word of a stream, no micro-op, no packet. -/
def isEvent (i : Instr) : Bool :=
  (match bodyOf i with
  | .step => true
  | .alu _ _ => false
  | .mem _ _ => false
  | .ctl _ _ => false
  | .loop _ => false) && (encodeUop i).isNone && (encodePacket 0 i).isNone

/-- One cycle of PCC passes (R15): what the tracer and the loop units do in it, then the banks' service of all that has arrived by then. -/
def State.clock (s : State) : State :=
  let t := (FMap.keys s.cores).foldl (fun (s : State) c => s.loopBeat c) s.traceCycle
  let u := t.serveBanks
  { u with pcc := u.pcc + 1 }

/-- Whether a run has a word to issue: it waits nowhere, or stalls at its word and tries it again. -/
def Run.issues (r : Run) : Bool :=
  !r.finished && match r.wait with
    | .none => true
    | .stay _ => true
    | _ => false

/-- The cycles from a run's arbitration to the issue of the word k places on: 1 + DLY for each word, and 1 for an extension word of a LOOPN, of which `e` follow
(R50, R164). -/
def portCycle (e k : Nat) : List IWord → Nat
  | [] => 0
  | w :: ws =>
    let x := Raw.ofWord w
    let n := if e = 0 then 1 + x.dly.toNat else 1
    if k = 0 then n else n + portCycle (if 0 < e then e - 1 else if x.opc = 0x0C0 then 2 else 0) (k - 1) ws
def Run.issueCycle (r : Run) : Nat := portCycle 0 r.idx r.words

/-- Whether a word reads or replaces FPSTAT. -/
def Run.atStat (r : Run) : Bool := match r.here.map bodyOf with
  | some (.ctl o _) => o == 0x193 || o == 0x194
  | _ => false

/-- The port of a group that issues next, with its run: the one whose word issues in the earlier cycle (R165). In one cycle the second port's word reads the registers as
the primary's finds them; a CSRR or CSRW comes before the flags of that cycle (R94). -/
def Group.nextPort (g : Group) : Option (Bool × Run) :=
  match g.run.filter Run.issues, g.run2.filter Run.issues with
  | none, none => none
  | some r, none => some (false, r)
  | none, some x => some (true, x)
  | some r, some x =>
    if r.wait = .none ∧ (r.issueCycle < x.issueCycle || (r.issueCycle == x.issueCycle && r.atStat)) then some (false, r) else some (true, x)

/-- A group's turn: its next word issues (R164). A second port whose group's primary run has trapped reaches the boundary alone. -/
def State.groupTurn (s : State) (gid : Nat) : Out :=
  match s.grp gid with
  | none => .next s
  | some g =>
    match g.nextPort with
    | none => if g.run.isNone && g.run2.isSome then .next (s.boundary gid) else .next s
    | some (second, r) =>
      match r.here with
      | none => .next (s.trapPlain gid r .illop)
      | some i => exec i { s.setGrp gid { g.setRun second (some { r with wait := .none }) with issuedAt := some s.pcc } with issuer := .group gid second }

/-- A sequencer's turn: its next word (R62, R277). -/
def State.seqTurn (s : State) (cl : Nat) : Out :=
  match s.seqNext cl with
  | none => .next (s.askSeqCode cl)
  | some (.error c) => .next (s.seqTrapAt cl c false (s.seqOf cl).spc 0)
  | some (.ok i) => exec i { s with issuer := .seq cl }

/-- A piccolo slot's turn: the micro-op at UPC (R239, R241). -/
def State.slotTurn (s : State) (core : Nat) : Out :=
  let k := s.slot core
  if k.st == .running && k.begun then
    match decodeUop (k.active.getD 0 k.upc) with
    | .error _ => .next (s.failSlot core .illop)
    | .ok i => exec i { s with issuer := .slot core }
  else .next s

/-- A command queue's turn: the packet in hand (R383, R385). -/
def State.queueTurn (s : State) (q : Nat) : Out :=
  match (s.cq q).cur with
  | none => .next s
  | some b => match decodePacket b with
    | .error _ => .next (s.queueErr q .illop (packetSeq b))
    | .ok i => exec i { s with issuer := .queue q }

/-- A turn is taken. -/
def State.turn (s : State) (t : Turn) : Out :=
  match t with
  | .clock => .next s.clock
  | .group gid => s.groupTurn gid
  | .seq cl => s.seqTurn cl
  | .slot core => s.slotTurn core
  | .queue q => s.queueTurn q
  | .event i => if isEvent i then exec i { s with issuer := .none } else .next s

/-- One step: the next turn of the agenda, or, where it names none, the one the module takes. -/
def step (s : State) : Host.Outcome State Fault Refusal :=
  match s.agenda with
  | t :: rest => ({ s with agenda := rest }).turn t
  | [] => ({ s with turns := s.turns + 1 }).turn (Config.nextTurn s.turns)

/-! Placing an instruction. -/

/-- A launch of a privileged context, whose windows are its cluster's whole memories. -/
def fetchLaunch : Launch :=
  { ctx := 1, prio := 0, queue := 0, codeBase := 0, entry := 0, trapOfs := none, seqOfs := some 0, nregs := 128, nargs := 0, ngroups := 1, lanes := 64
    cm := cmBytes, ds := dsBytes, cr := true, nblk := 1, largs := [], cmbase := 0, dsbase := 0, doneAt := 0, doneval := 0, bufl := [], nextBlk := 1
    endedBlks := 0, failure := none, slotsStopped := false, accepted := 0, deps := [], doneReq := none }

def fetchBlock : Block :=
  { launch := 1, index := 0, cluster := 0, resident := true, ask := false, held := false, ended := false, placedAt := 0, locks := [] }

/-- A group at the word of a run that has just started. -/
def fetchGroup (ws : List IWord) (now : BitVec 64) : Group :=
  { Group.start 1 0 0 1 true 0 64 128 (.resident 0 0) 0 (BitVec.allOnes 64) Regs.reset 0 now with
    run := some (Run.start 0 ws [] (BitVec.allOnes 64) now) }

/-- The launch, block and context that the agents of a kernel belong to. -/
def State.fetchHome (s : State) : State :=
  { s with
    ctxs := s.ctxs.set 1 { Ctx.empty with priv := true }
    launches := s.launches.set 1 fetchLaunch
    blocks := s.blocks.set (blockKey 1 0) fetchBlock }

/-- A code page and the record of its first line, which holds one word. -/
def fetchPage : PageHdr :=
  { perm := 5, mtype := 0, tier := false, valid := true, home := 0, owner := 0, remote := false, lcnt := 0, rcnt := 0 }
def fetchEntry : IxEntry := { IxEntry.empty with f0pos := 1, f0msk := 1, fmt := 1 }
def fetchRec (w : IWord) : Rec :=
  { ctx := 1, line := 0, kind := 0, fmt := 1, smask := 1, pmask := 1, logid := 0, pubid := 0, bms := [], payload := [w.setWidth 256] }

/-- s with an instruction where step fetches its next one: a word or a LOOPN's three in a started run of a group, a sequencer word in the code page at
SPC, a micro-op at UPC of a running slot, a packet in hand of a queue. -/
def State.withFetchWord (s : State) (nbits w : Nat) : State :=
  if nbits = 64 then
    let k : Slot := { s.slot 0 with active := (s.slot 0).active.put 0 0 (BitVec.ofNat 64 w), st := .running, upc := 0, bound := some 1, ctx := 1, begun := true }
    { s.fetchHome.setSlot 0 k with agenda := [.slot 0] }
  else if nbits = 512 then
    { s.fetchHome.modCq 0 (fun q => { q with cur := some (BitVec.ofNat 512 w), ctx := 1, en := true }) with agenda := [.queue 0] }
  else if seqOpc (w / 2 ^ 86 % 1024) then
    let t := s.fetchHome.setSeq 0 { s.seqOf 0 with st := .running, launch := 1, ctx := 1, spc := 0 }
    { t.setStore { t.store with
        pages := t.store.pages.set (pageKey 1 0) fetchPage
        leaves := t.store.leaves.set (leafKey 1 0) { ents := [(0, fetchEntry)], dirty := true }
        recs := t.store.recs.set 1 (fetchRec (BitVec.ofNat 96 w)) } with
      agenda := [.seq 0] }
  else
    let ws := [BitVec.ofNat 96 w, BitVec.ofNat 96 (w / 2 ^ 96), BitVec.ofNat 96 (w / 2 ^ 192)]
    { s.fetchHome.setGrp (gidOf 1 0 0) (fetchGroup ws s.pcc) with agenda := [.group (gidOf 1 0 0)] }

end Sys2Proof.Machine
end

