-- ==== Sys2Proof/Safety.lean ====
section
/-! DEFINITION. What counts as a safe run: it stops with no fault and no refusal, and its memories keep their canonical form; and the terms of
claims about a word that a group is asked to run. -/

namespace Sys2Proof.Machine

/-- The outcome is a next state. -/
def isNext (o : Out) : Bool :=
  match o with
  | .next _ => true
  | .fault _ => false
  | .refused _ => false

/-- k steps end in a next state. -/
def safeFor (k : Nat) (s : State) : Prop := ∃ t, core.run k s = .next t

/-- Every byte memory of the module stands in its canonical form. -/
def Mems.wf (m : Mems) : Bool := m.ln.wf && m.cm.wf && m.ds.wf && m.frame.wf && m.ckstore.wf

/-- The agent that a word is asked of is there: a group with a run on the port, a sequencer, a slot, a queue. -/
def State.hasIssuer (s : State) : Bool :=
  match s.issuer with
  | .none => false
  | .group gid second => match s.grp gid with
    | some g => (g.runOn second).isSome
    | none => false
  | .seq _ => true
  | .slot _ => true
  | .queue _ => true

/-! The terms that claims about group words use. -/

/-- Word b is asked of a port of a group whose run is under way. -/
structure Asked (s : State) (gid : Nat) (second : Bool) (g : Group) (r : Run) : Prop where
  issuer : s.issuer = .group gid second
  here : s.grp gid = some g
  run : g.runOn second = some r
  free : r.wait = .none

/-- Word b is asked of a group, its row accepts it, the group's context may run it, and its guard is true (R41, R48, R68): it has its effect. -/
structure Runs (b : Body) (s : State) (gid : Nat) (second : Bool) (g : Group) (r : Run) : Prop extends Asked s gid second g r where
  good : b.good = true
  allowed : privBody b = true → g.priv = true
  guard : guardTrue b.hdr g = true

/-- A group whose run on a port has moved on by n words. -/
def Group.moved (g : Group) (second : Bool) (n : Nat) : Group := g.setRun second ((g.runOn second).map (bumpRun n))

/-- The state in which word b of a group changed only the group, to g, and the run moved on by one word. -/
def State.afterWord (s : State) (gid : Nat) (second : Bool) (g : Group) : State := s.setGrp gid (g.moved second 1)

/-- The state in which a word of a group changed only its run, to r, which moved on by one word. -/
def State.afterRun (s : State) (gid : Nat) (second : Bool) (g : Group) (r : Run) : State :=
  s.setGrp gid (g.setRun second (some (bumpRun 1 r)))

/-- The state in which a word of the primary run of a group trapped (R187): the run stops at the word. -/
def State.afterTrap (s : State) (gid : Nat) (g : Group) (t : Trap) : State := s.setGrp gid { g with trap := some t, run := none }

end Sys2Proof.Machine
end

