-- ==== Sys2Proof/Certificates/Slice0/Obligations.lean ====
section
/-! DEFINITION. Statements for the provers, in the terms of Safety.lean: what each instruction and each step of an engine does, what it leaves alone, and where it traps. -/

set_option maxRecDepth 4000

open Sys2Proof Sys2Proof.Machine

/-! The encodings, the step and reset. -/

/-- The word of the stream that an instruction belongs to: whether the sequencer's. -/
def inSeq (i : Instr) : Bool :=
  match bodyOf i with
  | .alu _ _ => false
  | .mem _ _ => false
  | .ctl o _ => seqOpc o
  | .loop _ => false
  | .step => false

/-- R35 to R47, R60 to R69: every well-formed word of either stream, LOOPN's three among them, decodes to itself whatever words follow it; the write of TRACECTL that TRACE_FLUSH names is the CSRW word. -/
def encodedWordsDecodeRules : Prop :=
  ∀ (i : Instr) (rest : List IWord), i.wf = true → encode i ≠ [] →
    decodeWords (inSeq i) (encode i ++ rest) = .ok ((match i with
      | .traceFlush w => .csrw w
      | j => j), (encode i).length)

/-- R35, R41, R60, R69, R241, R383, R385: what a decoder accepts is well formed and encodes back to the very bits: the words of either stream, micro-ops, packets with their SEQ; and every well-formed
micro-op and packet decodes to itself. -/
def decodedBitsEncodeRules : Prop :=
  (∀ sq ws i n, decodeWords sq ws = .ok (i, n) → i.wf = true ∧ inSeq i = sq ∧ encode i = ws.take n ∧ 0 < n ∧ n ≤ ws.length) ∧
  (∀ u i, decodeUop u = .ok i → i.wf = true ∧ encodeUop i = some u) ∧
  (∀ i u, i.wf = true → encodeUop i = some u → decodeUop u = .ok i) ∧
  (∀ b i, decodePacket b = .ok i → i.wf = true ∧ encodePacket (packetSeq b) i = some b) ∧
  (∀ i q b, i.wf = true → encodePacket q i = some b → decodePacket b = .ok i ∧ packetSeq b = q)

/-- Encoder and decoder agree on all words, micro-ops and packets: the two parts above. -/
def Obligations.EncodeDecodeRoundTrip : Prop := encodedWordsDecodeRules ∧ decodedBitsEncodeRules

/-- R35, R60, R62, R69: no words are no instruction; an extension word alone, an opcode that no row allocates, a word of the other stream, a LOOPN without its two extension words, a reserved header bit,
a MOD field code that Tables 2-8 and 2-9 leave out, and an operand number that Table 2-2 leaves out, each by its name. -/
def Obligations.RejectedWords : Prop :=
  (∀ sq, decodeWords sq [] = .error .empty) ∧
  ∀ sq (w : IWord) (ws : List IWord),
    let o : Nat := (w.extractLsb' 86 10).toNat
    (o = 0x3FF → decodeWords sq (w :: ws) = .error .extension) ∧
    (o ≠ 0x3FF → allocated o = false → decodeWords sq (w :: ws) = .error .opcode) ∧
    (allocated o = true → o ≠ 0x3FF → seqOpc o ≠ sq → decodeWords sq (w :: ws) = .error .stream) ∧
    (o = 0x0C0 → sq = false → (ws.length < 2 ∨ (∃ a b r, ws = a :: b :: r ∧ (isExt a && isExt b) = false)) → decodeWords sq (w :: ws) = .error .incomplete) ∧
    (allocated o = true → seqOpc o = sq → o ≠ 0x0C0 → o ≠ 0x3FF → w.extractLsb' 74 2 ≠ 0 → decodeWords sq (w :: ws) = .error .header) ∧
    (∀ mk, lookupOpc memTable o = some mk → sq = false → w.extractLsb' 74 2 = 0 →
      (5 ≤ (w.extractLsb' 41 3).toNat ∨ 5 ≤ (w.extractLsb' 38 3).toNat ∨ 5 ≤ (w.extractLsb' 35 3).toNat ∨ 7 ≤ (w.extractLsb' 32 3).toNat) →
      decodeWords sq (w :: ws) = .error .field) ∧
    (∀ mk, lookupOpc aluTable o = some mk → sq = false → w.extractLsb' 74 2 = 0 →
      (tyOf (w.extractLsb' 40 4) = none ∨ opndOf (w.extractLsb' 64 10) = none ∨ opndOf (w.extractLsb' 54 10) = none ∨ opndOf (w.extractLsb' 44 10) = none) →
      decodeWords sq (w :: ws) = .error .field) ∧
    (∀ f : BitVec 10, opndOf f = none ↔ (144 ≤ f.toNat ∧ f.toNat < 256) ∨ (320 ≤ f.toNat ∧ f.toNat < 512))

/-- R35, R38, R39, R46, R239: words written out from the encodings of the spec decode to the instructions they stand for (Tables 2-1 to 2-19, 8-2). -/
def Obligations.WrittenWordsDecode : Prop :=
  decodeTableWord 96 0x10DC00050040280000000003 = some (.ffma { hdr := Hdr.plain, ty := .f32, rnd := .rne, sat := false, fn := 0, d := .v 5, a := .v 1, b := .v 2, imm := 3 }) ∧
  decodeTableWord 96 0x401C000640A038CC00000040 =
    some (.ld { hdr := Hdr.plain, space := .gl, width := .dword, order := .acq, scope := .di, d := .v 6, a := .g 2, b := .sp 3, imm := 0x40 }) ∧
  decodeTableWord 96 0x609C000080400000FFFFFFFC = some (.br { hdr := Hdr.plain, mod := 0, d := .v 0, a := .sp 1, b := .v 0, imm := 0xFFFFFFFC }) ∧
  decodeTableWord 96 0xA01C00020080400000000000 = some (.sadd { hdr := Hdr.plain, mod := 0, d := .v 2, a := .v 2, b := .v 4, imm := 0 }) ∧
  decodeTableWord 64 0x1C00000000000002 = some (.nextOp 0 0 2)

/-- R15, R40, R62, R164, R166, R241, R383, R385: one step runs the decoded instruction. The next turn of the agenda is taken, or the one the module takes where it names none. A group's turn runs the word at which the
run on its next port stands; a sequencer's turn the word at SPC; a slot's turn the micro-op at UPC; a queue's turn its packet in hand; what does not decode traps ILLOP or stops the
queue. An engine's or the outside's turn runs its row. A cycle's turn advances PCC by one.
It rests on the model's choices of log entries 1, 6. -/
def Obligations.StepRunsDecoded : Prop :=
  ∀ (s : State) (rest : List Turn),
    let u : State := { s with agenda := rest }
    (∀ gid g second r i n, s.agenda = .group gid :: rest → s.grp gid = some g → g.nextPort = some (second, r) → decodeWords false (r.words.drop r.idx) = .ok (i, n) →
      step s = exec i { u.setGrp gid { g.setRun second (some { r with wait := .none }) with issuedAt := some s.pcc } with issuer := .group gid second }) ∧
    (∀ gid g second r e, s.agenda = .group gid :: rest → s.grp gid = some g → g.nextPort = some (second, r) → decodeWords false (r.words.drop r.idx) = .error e →
      step s = .next (u.trapPlain gid r .illop)) ∧
    (∀ cl w i n, s.agenda = .seq cl :: rest → u.seqLive cl = true → u.seqFetch cl (s.seqOf cl).ctx (s.seqOf cl).spc.toNat = .ok w →
      decodeWords true [w] = .ok (i, n) → step s = exec i { u with issuer := .seq cl }) ∧
    (∀ cl w e, s.agenda = .seq cl :: rest → u.seqLive cl = true → u.seqFetch cl (s.seqOf cl).ctx (s.seqOf cl).spc.toNat = .ok w →
      decodeWords true [w] = .error e → step s = .next (u.seqTrapAt cl .illop false (s.seqOf cl).spc 0)) ∧
    (∀ core i, s.agenda = .slot core :: rest → (s.slot core).st = .running → (s.slot core).begun = true →
      decodeUop ((s.slot core).active.getD 0 (s.slot core).upc) = .ok i → step s = exec i { u with issuer := .slot core }) ∧
    (∀ core e, s.agenda = .slot core :: rest → (s.slot core).st = .running → (s.slot core).begun = true →
      decodeUop ((s.slot core).active.getD 0 (s.slot core).upc) = .error e → step s = .next (u.failSlot core .illop)) ∧
    (∀ q b i, s.agenda = .queue q :: rest → (s.cq q).cur = some b → decodePacket b = .ok i → step s = exec i { u with issuer := .queue q }) ∧
    (∀ q b e, s.agenda = .queue q :: rest → (s.cq q).cur = some b → decodePacket b = .error e → step s = .next (u.queueErr q .illop (b.extractLsb' 480 32))) ∧
    (∀ i, s.agenda = .event i :: rest → isEvent i = true → step s = exec i { u with issuer := .none }) ∧
    (s.agenda = .clock :: rest → ∃ t, step s = .next t ∧ t.pcc = s.pcc + 1) ∧
    (s.agenda = [] → step s = ({ s with turns := s.turns + 1 }).turn (Config.nextTurn s.turns)) ∧
    (∀ i : Instr, encode i ≠ [] ∨ encodeUop i ≠ none ∨ encodePacket 0 i ≠ none ∨ isEvent i = true)

/-- R41, R68, R186: no step of the module stops it: from every state a step gives a next state; and a word, micro-op or packet whose agent is there gives one.
It rests on the model's choices of log entries 1, 7. -/
def Obligations.StepsNeverStop : Prop :=
  (∀ s : State, ∃ t, step s = .next t) ∧
  (∀ (b : Body) n (s : State) (eff : Nat → Bool → Group → Run → State → State) gid second (g : Group) r, Asked s gid second g r → ∃ t, groupWord b n s eff = .next t)

/-- R4, R439, R446: every step keeps the canonical form of the module's byte memories (lane memory, cluster memory, die scratchpad, table frames, checkpoint store): no address is listed
twice or out of order and no listed byte reads as an unlisted one, so that equal memories are equal data, whatever is stored, zeroed or lost to a gate or a reset.
It rests on the model's choices of log entry 58. -/
def Obligations.MemoryFormKept : Prop :=
  ∀ s t : State, s.mems.wf = true → step s = .next t → t.mems.wf = true

/-- R41, R48, R62, R68, R98: what becomes of a word of a group before its effect. A false guard makes it a no-op that takes its place in the run; a privileged word in an unprivileged context traps PRIV; a word
whose fields its row does not accept traps ILLOP. Where a word has its effect and its run is still there and does not wait, the run has moved on by the word.
It rests on the model's choices of log entry 14. -/
def Obligations.WordFates : Prop :=
  ∀ (b : Body) (n : Nat) (s : State) (eff : Nat → Bool → Group → Run → State → State) gid second (g : Group) (r : Run), Asked s gid second g r →
    (b.good = true → (privBody b = true → g.priv = true) → guardTrue b.hdr g = false → groupWord b n s eff = .next (s.setGrp gid (g.moved second n))) ∧
    (privBody b = true → g.priv = false → groupWord b n s eff = .next (s.trapPlain gid r .priv)) ∧
    ((privBody b = true → g.priv = true) → b.good = false → groupWord b n s eff = .next (s.trapPlain gid r .illop)) ∧
    (∀ g' r', Runs b s gid second g r → (eff gid second g r s).grp gid = some g' → g'.runOn second = some r' → r'.wait = .none →
      groupWord b n s eff = .next ((eff gid second g r s).setGrp gid (g'.moved second n))) ∧
    (guardTrue b.hdr g = true ↔ g.regs.kreg b.hdr.k.toNat ≠ b.hdr.neg) ∧ (b.hdr.k = 7 → g.regs.kreg b.hdr.k.toNat = true) ∧
    (second = false → ∃ t, s.trapPlain gid r .illop = t ∧ ∃ tr, t.grp gid = some { g with trap := some tr, run := none } ∧ tr.cause = .illop ∧ tr.wpc = wordPc r.pc r.idx ∧ tr.deferred = false)

/-- R32, R439, R444, R446: reset values of the register maps (Tables 14-3, 14-4, 15-5, 16-1, 16-6, 17-1, 18-5, 19-1 to 19-3, 20-3): PCC is 0, the registers hold their Reset values, lane memory and scratchpads read zero, and every byte memory stands in its canonical form. -/
def Obligations.ResetState : Prop :=
  let s := State.reset
  s.pcc = 0 ∧ s.regRead 0x0000 = 0xFF ∧ s.regRead 0x0008 = 0 ∧
  (∀ q < 64, s.regRead (0x1000 + 64 * q) = 0 ∧ s.regRead (0x1008 + 64 * q) = 0x400 ∧ s.regRead (0x1010 + 64 * q) = 0 ∧ s.regRead (0x1018 + 64 * q) = 0 ∧ s.regRead (0x1020 + 64 * q) = 0) ∧
  s.regRead 0x3008 = 0 ∧ s.regRead 0x3010 = 0 ∧ s.regRead 0x4000 = 0x140C0000 ∧ s.regRead 0x4008 = 0 ∧ s.regRead 0x4010 = 0x10 ∧ s.regRead 0x4018 = 0 ∧
  s.regRead 0x4020 = 0 ∧ s.regRead 0x4028 = 0 ∧ (∀ n < 4, s.regRead (0x4040 + 16 * n) = 0 ∧ s.regRead (0x4048 + 16 * n) = 0) ∧
  s.regRead 0x5080 = 0x40 ∧ (∀ n < 36, s.regRead (0x5100 + 16 * n) = BitVec.ofNat 64 (n * 2 ^ 58 + 0x3D) ∧ s.regRead (0x5108 + 16 * n) = 0) ∧
  (∀ k < 16, s.regRead (0x6000 + 8 * k) = 0x400010000 ∧ s.regRead (0x7000 + 16 * k) = 0x80004000001 ∧ s.regRead (0x7008 + 16 * k) = 0x3E980148) ∧
  (∀ d < 32, s.regRead (0x6100 + 8 * d) = 0 ∧ s.regRead (0x7200 + 8 * d) = 0) ∧
  s.regRead 0x6200 = 0 ∧ s.regRead 0x6208 = 0 ∧ s.regRead 0x7100 = 0x20020020010001 ∧ (∀ j < 4096, s.regRead (0x8000 + 8 * j) = 0) ∧
  (∀ a, s.mems.ln.read a = 0 ∧ s.mems.cm.read a = 0 ∧ s.mems.ds.read a = 0) ∧ s.mems.wf = true

/-! The vector engine (R70, R71, R93, R136 to R153). -/

/-- R71, R140: each integer word runs in every form its row accepts, and in every lane of the issue mask its destination holds the exact result,
clamped with SAT and wrapped without it; only a clamp that changes a value sets a flag. -/
def Obligations.IntegerArithmetic : Prop :=
  ∀ p ∈ ([(.iadd, fun _ a b _ => a + b), (.isub, fun _ a b _ => a - b), (.imul, fun _ a b _ => a * b),
      (.imulhi, fun n a b _ => (a * b).fdiv (2 ^ n)), (.imad, fun _ a b c => a * b + c), (.ineg, fun _ a _ _ => -a),
      (.iabs, fun _ a _ _ => if a < 0 then -a else a), (.imin, fun _ a b _ => if a ≤ b then a else b),
      (.imax, fun _ a b _ => if a ≤ b then b else a)] : List ((Alu → Instr) × (Nat → Int → Int → Int → Int))),
  ∀ w s gid second g r, Runs (bodyOf (p.1 w)) s gid second g r →
    let n := tyBits w.ty
    let sgn := isS w.ty
    let x := fun l => p.2 n (intA w g l) (intB w g l) (intC w g l)
    ∃ g', exec (p.1 w) s = .next (s.afterWord gid second g') ∧
      (∀ l < 64, r.mask.getLsbD l = true → let y := intOf n sgn (readLane g'.regs w.ty w.d l)
        (w.sat = true → y = max (intMin n sgn) (min (x l) (intMax n sgn))) ∧ (w.sat = false → ∃ k : Int, y = x l + k * 2 ^ n)) ∧
      (g'.fpstat = g.fpstat ||| fSAT ∨ g'.fpstat = g.fpstat) ∧
      (g'.fpstat.getLsbD 5 = true ↔ g.fpstat.getLsbD 5 = true ∨
        (w.sat = true ∧ ∃ l < 64, r.mask.getLsbD l = true ∧ (x l < intMin n sgn ∨ intMax n sgn < x l)))

/-- R42, R141: IADDS and ISUBS write the exact sum or difference with the carry in, wrapped, and the carry out into the c-bit of operand field C,
whose write is discarded for c7; they set no flag. -/
def Obligations.CarryChain : Prop :=
  ∀ p ∈ ([(.iadds, false), (.isubs, true)] : List ((Alu → Instr) × Bool)), ∀ w s gid second g r,
    Runs (bodyOf (p.1 w)) s gid second g r →
    let n := tyBits w.ty
    let c := cNum (cOp w)
    (∃ k : BitVec 8, k.toNat < 8 ∧ cOp w = .sp k) ∧
    let cin := fun l => if (g.regs.creg c).getLsbD l then (1 : Int) else 0
    let x := fun l => if p.2 then intA w g l - intB w g l - (1 - cin l) else intA w g l + intB w g l + cin l
    ∃ g', exec (p.1 w) s = .next (s.afterWord gid second g') ∧ g'.fpstat = g.fpstat ∧
      (∀ l < 64, r.mask.getLsbD l = true → ∃ k : Int, intOf n (isS w.ty) (readLane g'.regs w.ty w.d l) = x l + k * 2 ^ n) ∧
      (∀ l < 64, r.mask.getLsbD l = true → (g'.regs.creg c).getLsbD l =
        if c = 7 then true
        else if isS w.ty then decide (x l < -2 ^ (n - 1) ∨ x l > 2 ^ (n - 1) - 1)
        else if p.2 then decide (0 ≤ x l) else decide (2 ^ n ≤ x l)) ∧
      (∀ l < 64, r.mask.getLsbD l = false → (g'.regs.creg c).getLsbD l = (g.regs.creg c).getLsbD l)

/-- R142, R140: every bit of the result of the shifts, the rotate, the bit-field words and BREV, for every count and field. -/
def shiftsAndFieldsRules : Prop :=
  ∀ p ∈ ([(.ishl, fun _ _ c _ _ a _ i => decide (c ≤ i) && a (i - c)),
      (.ishr, fun n _ c _ _ a _ i => decide (i + c < n) && a (i + c)),
      (.isar, fun n _ c _ _ a _ i => if i + c < n then a (i + c) else a (n - 1)),
      (.irol, fun n _ c _ _ a _ i => a ((i + (n - c % n)) % n)),
      (.ibfx, fun _ sgn _ pos len a _ i => if i < len then a (pos + i) else sgn && decide (0 < len) && a (pos + len - 1)),
      (.ibfi, fun _ _ _ pos len a b i => if pos ≤ i ∧ i < pos + len then b (i - pos) else a i),
      (.brev, fun n _ _ _ _ a _ i => a (n - 1 - i))] :
      List ((Alu → Instr) × (Nat → Bool → Nat → Nat → Nat → (Nat → Bool) → (Nat → Bool) → Nat → Bool))),
  ∀ w s gid second g r, Runs (bodyOf (p.1 w)) s gid second g r →
    ∃ g', exec (p.1 w) s = .next (s.afterWord gid second g') ∧ g'.fpstat = g.fpstat ∧
      ∀ l < 64, r.mask.getLsbD l = true → ∀ i < tyBits w.ty,
        (readLane g'.regs w.ty w.d l).getLsbD i =
          p.2 (tyBits w.ty) (isS w.ty) ((srcB w g l).toNat % 2 ^ 32) (w.imm.toNat % 2 ^ 8) (w.imm.toNat / 2 ^ 8 % 2 ^ 8)
            (fun j => (srcA w g l).getLsbD j) (fun j => (srcB w g l).getLsbD j) i

/-- R140: POPC counts the one bits of A and CLZ the zero bits above its highest one bit, N when A is 0, into one 32-bit register. -/
def bitCountsRules : Prop :=
  ∀ w s gid second g r,
    (Runs (bodyOf (.popc w)) s gid second g r →
      ∃ g', exec (.popc w) s = .next (s.afterWord gid second g') ∧ g'.fpstat = g.fpstat ∧ ∀ l < 64, r.mask.getLsbD l = true →
        (readLane g'.regs .b32 w.d l).toNat = ((List.range (tyBits w.ty)).filter (fun i => (srcA w g l).getLsbD i)).length) ∧
    (Runs (bodyOf (.clz w)) s gid second g r →
      ∃ g', exec (.clz w) s = .next (s.afterWord gid second g') ∧ g'.fpstat = g.fpstat ∧ ∀ l < 64, r.mask.getLsbD l = true →
        let z := (readLane g'.regs .b32 w.d l).toNat
        z ≤ tyBits w.ty ∧ (∀ i < tyBits w.ty, tyBits w.ty - z ≤ i → (srcA w g l).getLsbD i = false) ∧
        (z < tyBits w.ty → (srcA w g l).getLsbD (tyBits w.ty - 1 - z) = true))

/-- Shifts, bit fields, BREV, POPC and CLZ, bit by bit: the two parts above. It rests on the model's choices of log entry 20. -/
def Obligations.ShiftsFieldsAndCounts : Prop := shiftsAndFieldsRules ∧ bitCountsRules

/-- R143: every bit of the result of the logical words is the function of the operands' bits; no flag is set. -/
def Obligations.LogicalWords : Prop :=
  ∀ p ∈ ([(.andB, fun _ a b _ => a && b), (.orB, fun _ a b _ => a || b), (.xorB, fun _ a b _ => xor a b), (.notB, fun _ a _ _ => !a),
      (.andn, fun _ a b _ => a && !b),
      (.bfn3, fun ft a b c => (ft >>> ((if a then 1 else 0) + (if b then 2 else 0) + (if c then 4 else 0))) % 2 == 1)] :
      List ((Alu → Instr) × (Nat → Bool → Bool → Bool → Bool))),
  (∀ w s gid second g r, Runs (bodyOf (p.1 w)) s gid second g r →
    ∃ g', exec (p.1 w) s = .next (s.afterWord gid second g') ∧ g'.fpstat = g.fpstat ∧
      ∀ l < 64, r.mask.getLsbD l = true → ∀ i < tyBits w.ty,
        (readLane g'.regs w.ty w.d l).getLsbD i = p.2 (w.imm.toNat / 2 ^ 10 % 2 ^ 8) ((srcA w g l).getLsbD i) ((srcB w g l).getLsbD i)
          ((srcC w g l).getLsbD i)) ∧
  (∀ w, (bodyOf (p.1 w)).good = true → (w.ty = .b32 ∨ w.ty = .b64) ∧ w.rnd = .rne ∧ w.sat = false) ∧
  (∀ w, (bodyOf (.bfn3 w)).good = true → w.imm.toNat < 2 ^ 18) ∧
  ∀ t ∈ ([.b32, .b64] : List Ty), (bodyOf (p.1 { hdr := Hdr.plain, ty := t, rnd := .rne, sat := false, fn := 0, d := .v 0, a := .v 0, b := .v 0, imm := 0 })).good = true

/-- R42, R144: ICMP, FCMP, CLOP and MOVC to a c-bit write the c-bit in the lanes of the issue mask only, and a write of c7 is discarded. -/
def conditionWordsRules : Prop :=
  ∀ w s gid second g r,
    let put (i : Instr) (p : Nat → Bool) : Prop := ∃ g', exec i s = .next (s.afterWord gid second g') ∧
      ∀ l < 64, (g'.regs.creg (cNum w.d)).getLsbD l =
        if cNum w.d = 7 then true else if r.mask.getLsbD l then p l else (g.regs.creg (cNum w.d)).getLsbD l
    (Runs (bodyOf (.icmp w)) s gid second g r → put (.icmp w) (fun l =>
      let a := intA w g l
      let b := intB w g l
      match w.fn.toNat with
      | 0 => decide (a = b)
      | 1 => decide (a ≠ b)
      | 2 => decide (a < b)
      | 3 => decide (a ≤ b)
      | 4 => decide (b < a)
      | _ => decide (b ≤ a))) ∧
    (Runs (bodyOf (.fcmp w)) s gid second g r → put (.fcmp w) (fun l => relV w.fn.toNat (valA w g l) (valB w g l))) ∧
    (Runs (bodyOf (.clop w)) s gid second g r → put (.clop w) (fun l =>
      let a := (g.regs.creg (cNum w.a)).getLsbD l
      let b := (g.regs.creg (cNum w.b)).getLsbD l
      match w.fn.toNat with
      | 0 => a && b
      | 1 => a || b
      | 2 => xor a b
      | 3 => a && !b
      | _ => !a)) ∧
    (Runs (bodyOf (.movc w)) s gid second g r → spIn 0 7 w.d = true →
      put (.movc w) (fun l => decide ((readLane g.regs .b32 w.a l).toNat % 2 ^ 32 ≠ 0)))

/-- R144: SEL, MOV, MOVI, and MOVC into a register, in every lane of the issue mask: bits unchanged; no flag is set. -/
def moveWordsRules : Prop :=
  ∀ w s gid second g r,
    let put (i : Instr) (t : Ty) (p : Nat → Nat) : Prop := ∃ g', exec i s = .next (s.afterWord gid second g') ∧ g'.fpstat = g.fpstat ∧
      ∀ l < 64, r.mask.getLsbD l = true → (readLane g'.regs t w.d l).toNat = p l
    (Runs (bodyOf (.sel w)) s gid second g r → put (.sel w) w.ty (fun l =>
      (if (g.regs.creg (cNum (cOp w))).getLsbD l then srcA w g l else srcB w g l).toNat % 2 ^ tyBits w.ty)) ∧
    (Runs (bodyOf (.mov w)) s gid second g r → put (.mov w) w.ty (fun l => (srcA w g l).toNat % 2 ^ tyBits w.ty)) ∧
    (Runs (bodyOf (.movi w)) s gid second g r → put (.movi w) w.ty (fun _ =>
      if w.ty = .s64 then (w.imm.toInt % 2 ^ 64).toNat else w.imm.toNat)) ∧
    (Runs (bodyOf (.movc w)) s gid second g r → spIn 0 7 w.d = false → put (.movc w) .b32 (fun l =>
      if (g.regs.creg (cNum w.a)).getLsbD l then 1 else 0))

/-- Compares, condition logic and moves: the two parts above. It rests on the model's choices of log entry 20. -/
def Obligations.ConditionAndMoveWords : Prop := conditionWordsRules ∧ moveWordsRules

/-- The encoding v of format F is a subnormal number (R73): a zero exponent field and a mantissa that is not zero. -/
def subnormal (F : Fmt) (v : Nat) : Prop := v / 2 ^ F.mbits % 2 ^ F.ebits = 0 ∧ v % 2 ^ F.mbits ≠ 0

/-- R73, R75, R86, R87: the rounding that every floating-point result takes. A number m × 2^e that is not zero rounds, in its mode, to a multiple U of the unit of its binade: toward zero or away
from zero it is less than U off, to nearest at most U / 2, with an even multiple at a tie. NX tells that it moved, UF that it moved below the least normal number; beyond the greatest
finite number OF and NX are set, and the result is infinite or that number. A sum is formed exactly, and an exact zero sum of unlike signs is +0 but for RDN. -/
def roundingRules : Prop :=
  (∀ F ∈ [fmtF32, fmtF16, fmtBf16], ∀ (md : Rnd) (sat neg : Bool) (m : Nat) (e : Int), 0 < m →
    let r := roundFp F md sat neg m e
    let away := (md = .rup ∧ neg = false) ∨ (md = .rdn ∧ neg = true)
    ((r.2 &&& fOF = 0) → ∃ (k : Nat) (q : Int), fDec F r.1 = .fin neg k q ∧ F.qmin ≤ q ∧
      let d := min e q
      let x : Nat := m * 2 ^ (e - d).toNat
      let y : Nat := k * 2 ^ (q - d).toNat
      let u : Nat := 2 ^ (q - d).toNat
      (md = .rne → 2 * x ≤ 2 * y + u ∧ 2 * y ≤ 2 * x + u ∧ (2 * x = 2 * y + u ∨ 2 * y = 2 * x + u → k % 2 = 0)) ∧
      (away → x ≤ y ∧ y < x + u) ∧ (md ≠ .rne → ¬ away → y ≤ x ∧ x < y + u) ∧
      (r.2 = (if x = y then 0 else fNX) ||| (if x ≠ y ∧ (Nat.log2 m : Int) + e < 1 - F.bias then fUF else 0))) ∧
    ((r.2 &&& fOF ≠ 0) → r.2 &&& fNX = fNX ∧
      fDec F r.1 = if sat = false ∧ (md = .rne ∨ away) then .inf neg else .fin neg F.maxSig F.maxExp)) ∧
  (∀ (md : Rnd) (n1 n2 : Bool) (m1 m2 : Nat) (e1 e2 : Int),
    let d := min e1 e2
    let s := addEx md n1 m1 e1 n2 m2 e2
    let sg (n : Bool) : Int := if n then -1 else 1
    s.2.2 = d ∧ sg s.1 * (s.2.1 : Int) = sg n1 * m1 * 2 ^ (e1 - d).toNat + sg n2 * m2 * 2 ^ (e2 - d).toNat ∧
    (s.2.1 = 0 → s.1 = if n1 = n2 then n1 else decide (md = .rdn)))

/-- R76, R93, R139, R145: each scalar floating-point word runs; in every lane of the issue mask the destination holds the result of its one rounding, and the
flags of all those lanes, and no others, are merged into FPSTAT, DN where an operand of a lane is subnormal. FABS clears the sign bit, FNEG inverts it, and they and FCLASS set no flag. -/
def floatWordsRules : Prop :=
  ∀ p ∈ ([(.fadd, fun w x y _ => fAdd (fmtOf w.ty) w.rnd w.sat (fDec (fmtOf w.ty) x) (fDec (fmtOf w.ty) y), fun x y _ => [x, y]),
      (.fsub, fun w x y _ => fAdd (fmtOf w.ty) w.rnd w.sat (fDec (fmtOf w.ty) x) (negV (fDec (fmtOf w.ty) y)), fun x y _ => [x, y]),
      (.fmul, fun w x y _ => fMul (fmtOf w.ty) w.rnd w.sat (fDec (fmtOf w.ty) x) (fDec (fmtOf w.ty) y), fun x y _ => [x, y]),
      (.ffma, fun w x y z => fFma (fmtOf w.ty) w.rnd w.sat (w.fn.getLsbD 0) (w.fn.getLsbD 1) (fDec (fmtOf w.ty) x) (fDec (fmtOf w.ty) y)
        (fDec (fmtOf w.ty) z), fun x y z => [x, y, z]),
      (.fmin, fun w x y _ => fMinMax (fmtOf w.ty) false x y, fun x y _ => [x, y]), (.fmax, fun w x y _ => fMinMax (fmtOf w.ty) true x y, fun x y _ => [x, y]),
      (.fabs, fun w x _ _ => (x % 2 ^ (tyBits w.ty - 1), 0), fun _ _ _ => []),
      (.fneg, fun w x _ _ => (if x < 2 ^ (tyBits w.ty - 1) then x + 2 ^ (tyBits w.ty - 1) else x - 2 ^ (tyBits w.ty - 1), 0), fun _ _ _ => []),
      (.fclass, fun w x _ _ => (fClass (fmtOf w.ty) x, 0), fun _ _ _ => []), (.frnd, fun w x _ _ => fRnd (fmtOf w.ty) w.rnd x, fun x _ _ => [x])] :
      List ((Alu → Instr) × (Alu → Nat → Nat → Nat → FRes) × (Nat → Nat → Nat → List Nat))),
  ∀ w s gid second g r, Runs (bodyOf (p.1 w)) s gid second g r →
    let n := tyBits w.ty
    let a := fun l => (srcA w g l).toNat % 2 ^ n
    let b := fun l => (srcB w g l).toNat % 2 ^ n
    let c := fun l => (srcC w g l).toNat % 2 ^ n
    (w.ty = .f32 ∨ w.ty = .f16 ∨ w.ty = .bf16) ∧
    ∃ g', exec (p.1 w) s = .next (s.afterWord gid second g') ∧
      (∀ l < 64, r.mask.getLsbD l = true → (readLane g'.regs .b32 w.d l).toNat = (p.2.1 w (a l) (b l) (c l)).1) ∧
      (∀ k < 6, g'.fpstat.getLsbD k = true ↔ g.fpstat.getLsbD k = true ∨
        ∃ l < 64, r.mask.getLsbD l = true ∧ (p.2.1 w (a l) (b l) (c l)).2.getLsbD k = true) ∧
      (g'.fpstat.getLsbD 6 = true ↔ g.fpstat.getLsbD 6 = true ∨
        ∃ l < 64, r.mask.getLsbD l = true ∧ ∃ v ∈ p.2.2 (a l) (b l) (c l), subnormal (fmtOf w.ty) v)

/-- Rounding, and the scalar floating-point words and their flags: the two parts above. It rests on the model's choices of log entry 21. -/
def Obligations.FloatWords : Prop := roundingRules ∧ floatWordsRules

/-- R93, R139, R146 to R148, R152: each packed word, conversion and seed runs; in every lane of the issue mask the destination holds its result, two elements
of a packed one in bits [15:0] and [31:16], and the flags of all those lanes and elements are merged into FPSTAT, DN where a floating-point source value is subnormal. -/
def packedAndConversionsRules : Prop :=
  let pk (f : Fmt → Alu → Nat → Nat → Nat → FRes) (w : Alu) (g : Group) (l : Nat) : Nat × Flags :=
    let e (k : Nat) := f (fmtOf w.ty) w (pkEl w g w.a l k) (pkEl w g w.b l k) (pkEl w g (cOp w) l k)
    ((e 0).1 + 2 ^ 16 * (e 1).1, (e 0).2 ||| (e 1).2)
  let sd (k : Seed) (w : Alu) (g : Group) (l : Nat) : Nat × Flags := seed k ((srcA w g l).toNat % 2 ^ 32)
  let els (os : Alu → List Opnd) (w : Alu) (g : Group) (l : Nat) : List (Fmt × Nat) := (os w).flatMap (fun o => [(fmtOf w.ty, pkEl w g o l 0), (fmtOf w.ty, pkEl w g o l 1)])
  let ab : Alu → Group → Nat → List (Fmt × Nat) := els (fun w => [w.a, w.b])
  let low32 (g : Group) (o : Opnd) (l : Nat) : Fmt × Nat := (fmtF32, (readLane g.regs .f32 o l).toNat % 2 ^ 32)
  let sa : Alu → Group → Nat → List (Fmt × Nat) := fun w g l => [low32 g w.a l]
  ∀ p ∈ ([(.pkadd, pk (fun F w x y _ => fAdd F w.rnd w.sat (fDec F x) (fDec F y)), ab),
      (.pksub, pk (fun F w x y _ => fAdd F w.rnd w.sat (fDec F x) (negV (fDec F y))), ab),
      (.pkmul, pk (fun F w x y _ => fMul F w.rnd w.sat (fDec F x) (fDec F y)), ab),
      (.pkfma, pk (fun F w x y z => fFma F w.rnd w.sat false false (fDec F x) (fDec F y) (fDec F z)), els (fun w => [w.a, w.b, cOp w])),
      (.pkmin, pk (fun F _ x y _ => fMinMax F false x y), ab), (.pkmax, pk (fun F _ x y _ => fMinMax F true x y), ab),
      (.pkdot, fun w g l => pkDot w.rnd w.sat (pkV w g w.a l 0) (pkV w g w.b l 0) (pkV w g w.a l 1) (pkV w g w.b l 1)
        (fDec fmtF32 ((readLane g.regs .f32 (cOp w) l).toNat % 2 ^ 32)), fun w g l => low32 g (cOp w) l :: ab w g l),
      (.cvt, fun w g l => let x := cvt (cvtSrc w) w.ty w.rnd w.sat (readLane g.regs (cvtSrc w) w.a l)
        ((narrow w.ty x.1).toNat, x.2), fun w g l => if isFloat (cvtSrc w) then
          [(fmtOf (cvtSrc w), (readLane g.regs (cvtSrc w) w.a l).toNat % 2 ^ tyBits (cvtSrc w))] else []),
      (.pack2, fun w g l =>
        let x := cvtFF (fmtOf w.ty) false w.rnd w.sat (fDec fmtF32 (f32At g w.a l))
        let y := cvtFF (fmtOf w.ty) false w.rnd w.sat (fDec fmtF32 (f32At g w.b l))
        (x.1 + 2 ^ 16 * y.1, x.2 ||| y.2), fun w g l => [low32 g w.a l, low32 g w.b l]),
      (.rsqs, sd .rsq, sa), (.rcps, sd .rcp, sa), (.ex2s, sd .ex2, sa), (.lg2s, sd .lg2, sa), (.sins, sd .sin, sa), (.coss, sd .cos, sa)] :
      List ((Alu → Instr) × (Alu → Group → Nat → Nat × Flags) × (Alu → Group → Nat → List (Fmt × Nat)))),
  ∀ w s gid second g r, Runs (bodyOf (p.1 w)) s gid second g r →
    ∃ g', exec (p.1 w) s = .next (s.afterWord gid second g') ∧
      (∀ l < 64, r.mask.getLsbD l = true →
        (readLane g'.regs (if is64 w.ty then .b64 else .b32) w.d l).toNat = (p.2.1 w g l).1 % 2 ^ (if is64 w.ty then 64 else 32)) ∧
      (∀ k < 6, g'.fpstat.getLsbD k = true ↔ g.fpstat.getLsbD k = true ∨
        ∃ l < 64, r.mask.getLsbD l = true ∧ (p.2.1 w g l).2.getLsbD k = true) ∧
      (g'.fpstat.getLsbD 6 = true ↔ g.fpstat.getLsbD 6 = true ∨
        ∃ l < 64, r.mask.getLsbD l = true ∧ ∃ v ∈ p.2.2 w g l, subnormal v.1 v.2)

/-- R139, R148: UNPK2 writes the two elements of A, widened exactly, into the pair D and D + 1; NV is set where an element is a signalling NaN, DN where one is subnormal. -/
def unpk2PairRules : Prop :=
  ∀ w s gid second g r, Runs (bodyOf (.unpk2 w)) s gid second g r →
    ∃ g', exec (.unpk2 w) s = .next (s.afterWord gid second g') ∧
      let x := fun l e => pkEl w g w.a l e
      (∀ l < 64, r.mask.getLsbD l = true →
        let el := fun e => (cvtFF fmtF32 true .rne false (fDec (fmtOf w.ty) (x l e))).1
        (readLane g'.regs .b64 w.d l).toNat = (el 0 + 2 ^ 32 * el 1) % 2 ^ 64 ∧
        ∀ e < 2, ∀ n m q, fDec (fmtOf w.ty) (x l e) = .fin n m q → ∃ m' q', fDec fmtF32 (el e) = .fin n m' q' ∧ m * 2 ^ (q - min q q').toNat = m' * 2 ^ (q' - min q q').toNat) ∧
      (∀ k < 6, g'.fpstat.getLsbD k = true ↔ g.fpstat.getLsbD k = true ∨
        (k = 4 ∧ ∃ l < 64, r.mask.getLsbD l = true ∧ ∃ e < 2, fDec (fmtOf w.ty) (x l e) = .nan true)) ∧
      (g'.fpstat.getLsbD 6 = true ↔ g.fpstat.getLsbD 6 = true ∨ ∃ l < 64, r.mask.getLsbD l = true ∧ ∃ e < 2, subnormal (fmtOf w.ty) (x l e))

/-- Packed words, conversions and seeds: the two parts above. It rests on the model's choices of log entries 21, 22. -/
def Obligations.PackedAndConversions : Prop := packedAndConversionsRules ∧ unpk2PairRules

/-- R149: in the exchanges every lane of the issue mask takes A of its source lane when that lane is in the mask too, and its own A otherwise. -/
def Obligations.LaneExchange : Prop :=
  ∀ p ∈ ([(.shfl, fun _ _ b _ => (b : Int)), (.shflx, fun _ l b _ => ((l ^^^ b : Nat) : Int)), (.shflup, fun _ l _ q => (l : Int) - q),
      (.shfldn, fun _ l _ q => (l : Int) + q), (.bcast, fun _ _ _ q => (q : Int))] : List ((Alu → Instr) × (Alu → Nat → Nat → Nat → Int))),
  (∀ w, (bodyOf (p.1 w)).good = true → (w.ty = .b32 ∨ w.ty = .b64) ∧ w.rnd = .rne ∧ w.sat = false) ∧
  (∀ (m : BitVec 8) (rg : Regs) l, readG rg .b64 (.imm m) = m.setWidth 64 ∧ readLane rg .b32 (.imm m) l = m.setWidth 64) ∧
  (∀ mk ∈ ([.shflup, .shfldn, .bcast] : List (Alu → Instr)), ∀ w s gid g r, ((∃ n, w.b = .v n) ∨ ∃ n, w.b = .x n) → Asked s gid false g r →
    exec (mk w) s = .next (s.trapPlain gid r .illop)) ∧
  ∀ w s gid second g r, Runs (bodyOf (p.1 w)) s gid second g r →
    ∃ g', exec (p.1 w) s = .next (s.afterWord gid second g') ∧ g'.fpstat = g.fpstat ∧ ∀ l < 64, r.mask.getLsbD l = true →
      let x := p.2 w l ((readLane g.regs .b32 w.b l).toNat % 2 ^ 32) (readG g.regs .b64 w.b).toNat
      ((0 ≤ x ∧ x < 64 ∧ r.mask.getLsbD x.toNat = true) → readLane g'.regs w.ty w.d l = srcA w g x.toNat) ∧
      (¬ (0 ≤ x ∧ x < 64 ∧ r.mask.getLsbD x.toNat = true) → readLane g'.regs w.ty w.d l = srcA w g l)

/-- R42, R150, R151: the votes, V2G and G2V over the issue mask of the entry that issues them. A k-bit destination takes the AND or the OR, and k7 discards it. -/
def votesAndTransfersRules : Prop :=
  ∀ w s gid second g r,
    let bit := fun l => (g.regs.creg (cNum w.a)).getLsbD l
    (Runs (bodyOf (.vall w)) s gid second g r → ∃ g', exec (.vall w) s = .next (s.afterWord gid second g') ∧
      (g'.regs.kreg (kNum w.d) = true ↔ kNum w.d = 7 ∨ ∀ l < 64, r.mask.getLsbD l = true → bit l = true)) ∧
    (Runs (bodyOf (.vany w)) s gid second g r → ∃ g', exec (.vany w) s = .next (s.afterWord gid second g') ∧
      (g'.regs.kreg (kNum w.d) = true ↔ kNum w.d = 7 ∨ ∃ l < 64, r.mask.getLsbD l = true ∧ bit l = true)) ∧
    (Runs (bodyOf (.vbal w)) s gid second g r → ∃ g', exec (.vbal w) s = .next (s.afterWord gid second g') ∧
      ∀ l < 64, (g'.regs.greg (gReg w.d)).getLsbD l = (r.mask.getLsbD l && bit l)) ∧
    (Runs (bodyOf (.vfirst w)) s gid second g r → ∃ g', exec (.vfirst w) s = .next (s.afterWord gid second g') ∧
      let x := (g'.regs.greg (gReg w.d)).toNat
      x ≤ 64 ∧ (x < 64 → r.mask.getLsbD x = true ∧ bit x = true) ∧ ∀ l < x, ¬ (r.mask.getLsbD l = true ∧ bit l = true)) ∧
    (Runs (bodyOf (.v2g w)) s gid second g r → ∃ g', exec (.v2g w) s = .next (s.afterWord gid second g') ∧
      let l := (readG g.regs .b64 w.b).toNat
      g'.regs.greg (gReg w.d) = if l < 64 ∧ r.mask.getLsbD l = true then srcA w g l else 0) ∧
    (Runs (bodyOf (.g2v w)) s gid second g r → ∃ g', exec (.g2v w) s = .next (s.afterWord gid second g') ∧
      ∀ l < 64, r.mask.getLsbD l = true →
        readLane g'.regs .b32 w.d l = if (g.regs.greg (gReg w.a)).getLsbD l then 1 else 0)

/-- R42, R144, R151: the group-uniform words write their g-register or k-bit once; arithmetic wraps modulo 2^64, and k7 discards its write. -/
def uniformWordsRules : Prop :=
  (∀ p ∈ ([(.gadd, fun _ a b _ => a + b), (.gsub, fun _ a b _ => a - b), (.gmul, fun _ a b _ => a * b), (.gand, fun _ a b _ => a &&& b),
      (.gor, fun _ a b _ => a ||| b), (.gxor, fun _ a b _ => a ^^^ b),
      (.gshl, fun _ a b _ => if b.toNat % 2 ^ 32 < 64 then a <<< (b.toNat % 2 ^ 32) else 0),
      (.gshr, fun t a b _ => if t = .s64 then a.sshiftRight (min 64 (b.toNat % 2 ^ 32))
        else if b.toNat % 2 ^ 32 < 64 then a >>> (b.toNat % 2 ^ 32) else 0),
      (.gmov, fun _ a _ _ => a), (.gmovi, fun t _ _ i => if t = .s64 then i.signExtend 64 else i.setWidth 64)] :
      List ((Alu → Instr) × (Ty → Dword → Dword → Word → Dword))),
    ∀ w s gid second g r, Runs (bodyOf (p.1 w)) s gid second g r →
      ∃ g', exec (p.1 w) s = .next (s.afterWord gid second g') ∧
        g'.regs.greg (gReg w.d) = p.2 w.ty (readG g.regs w.ty w.a) (readG g.regs w.ty w.b) w.imm) ∧
  (∀ w s gid second g r, Runs (bodyOf (.gcmp w)) s gid second g r →
    ∃ g', exec (.gcmp w) s = .next (s.afterWord gid second g') ∧ g'.regs.kreg (kNum w.d) =
      (kNum w.d == 7 || relInt w.fn.toNat (if w.ty = .s64 then (readG g.regs w.ty w.a).toInt else (readG g.regs w.ty w.a).toNat)
        (if w.ty = .s64 then (readG g.regs w.ty w.b).toInt else (readG g.regs w.ty w.b).toNat))) ∧
  (∀ w s gid second g r, Runs (bodyOf (.klop w)) s gid second g r →
    ∃ g', exec (.klop w) s = .next (s.afterWord gid second g') ∧ g'.regs.kreg (kNum w.d) =
      (kNum w.d == 7 || lop w.fn.toNat (g.regs.kreg (kNum w.a)) (g.regs.kreg (kNum w.b))))

/-- Votes, transfers and group-uniform words: the two parts above. -/
def Obligations.VotesAndUniformWords : Prop := votesAndTransfersRules ∧ uniformWordsRules

/-- R136, R137, R150: what an ALU word leaves alone, whether it has its effect, is guarded off or traps: every other group and every other part of the
module; in its group every register but the ones its row writes, every lane outside the issue mask, every c-bit and k-bit it does not name; flags are
only ever added; of the other fields only the run, which moves on, and the trap may change. -/
def Obligations.AluWordFrame : Prop :=
  ∀ i o w, bodyOf i = .alu o w → ∀ s t gid second g r, Asked s gid second g r → exec i s = .next t →
    ∃ g', t = s.setGrp gid g' ∧
      g' = { g with regs := g'.regs, fpstat := g'.fpstat, run := g'.run, run2 := g'.run2, trap := g'.trap } ∧
      g.fpstat ||| g'.fpstat = g'.fpstat ∧ g'.regs.f = g.regs.f ∧ g'.regs.j = g.regs.j ∧
      (∀ n < 128, ∀ l < 64, n ∉ (aluShape o w).writes ∨ r.mask.getLsbD l = false → g'.regs.vreg n l = g.regs.vreg n l) ∧
      (∀ n < 16, ∀ l < 64, 128 + n ∉ (aluShape o w).writes ∨ r.mask.getLsbD l = false → g'.regs.xreg n l = g.regs.xreg n l) ∧
      (∀ n < 64, 144 + n ∉ (aluShape o w).writes → g'.regs.greg n = g.regs.greg n) ∧
      (∀ n < 8, n ≠ cNum w.d ∨ spIn 0 7 w.d = false → n ≠ cNum (cOp w) ∨ (o ≠ 2 ∧ o ≠ 3) → g'.regs.creg n = g.regs.creg n) ∧
      (∀ n < 8, ∀ l < 64, r.mask.getLsbD l = false → (g'.regs.creg n).getLsbD l = (g.regs.creg n).getLsbD l) ∧
      (∀ n < 8, n ≠ kNum w.d ∨ spIn 8 15 w.d = false → g'.regs.kreg n = g.regs.kreg n)

/-! The load-store engine (R99 to R135). -/

/-- R109, R111: the lanes of a memory word that access memory. -/
def effective (g : Group) (r : Run) (b : Opnd) (l : Nat) : Prop :=
  l < 64 ∧ r.mask.getLsbD l = true ∧ (g.regs.creg (cNum b)).getLsbD l = true

/-- R100, R109: the address a lane forms: modulo 2^64 in `.gl`, an exact signed sum of 32-bit parts elsewhere. -/
def addressOf (g : Group) (sp : Space) (a : Opnd) (ofs : BitVec 32) (l : Nat) : Int :=
  if sp = .gl then ((readLane g.regs .b64 a l).toInt + ofs.toInt) % 2 ^ 64 else ((readLane g.regs .b32 a l).toNat % 2 ^ 32 : Nat) + ofs.toInt

/-- R99, R100, R111: outside `.gl`, a lane fails with ALIGN where its address is no multiple of the width, otherwise with SPACE unless its bytes lie in the
space and, but for `.ln`, in the windows granted to its launch; `.cr` byte X of core c is `.cm` byte 256 KiB × c + X. -/
def scratchpadChecksRules : Prop :=
  ∀ (s : State) launch core ctx sp (n : Need) (a : Int), sp ≠ .gl → 0 < n.width →
    (s.checkLane launch core ctx sp n a = .bad .align ↔ ¬ (n.width : Int) ∣ a) ∧
    (∀ mt rm, s.checkLane launch core ctx sp n a = .ok mt rm ↔ mt = 0 ∧ rm = false ∧ (n.width : Int) ∣ a ∧ 0 ≤ a ∧ a + n.width ≤ spaceSize sp ∧
      (sp = .ln ∨ ∃ l, s.launches.get? launch = some l ∧
        (sp = .cr → l.cmbase ≤ core % 24 * 262144 + a ∧ core % 24 * 262144 + a + n.width ≤ l.cmbase + l.cm) ∧
        (sp = .cm → l.cmbase ≤ a ∧ a + n.width ≤ l.cmbase + l.cm) ∧
        (sp = .ds → l.dsbase ≤ a ∧ a + n.width ≤ l.dsbase + l.ds)))

/-- Where a memory word's operation has entered the engine: the run has moved on; or, where the word releases at `.di` or wider, it waits at the word until its
publication has its log space, so that a LOGFULL comes at the word (R131, R134). -/
def entered (s : State) (g : Group) (second : Bool) (r : Run) (w : Mem) : Group :=
  if isRel w.order && scopeWide w.scope then g.setRun second (some { r with wait := .release s.fresh }) else g.moved second 1

/-- R110 to R114, R129: a load whose effective lanes all pass their checks enters the engine as one operation of the loads class, with one access at each
effective lane's address; it writes nothing yet. LDS makes one access whatever the lanes. Where a lane's page is SO the run first waits for a FENCE.sc.pk. -/
def Obligations.LoadWords : Prop :=
  (∀ p ∈ ([(.ld, false), (.ldx, true)] : List ((Mem → Instr) × Bool)), ∀ w s gid second g r, Runs (bodyOf (p.1 w)) s gid second g r →
    let chk (l : Nat) : Chk := s.checkLane g.launch (s.grpCore g) g.ctx w.space (needLoad (widthBytes w.width)) (addressOf g w.space w.a w.imm l)
    (∃ l, effective g r w.b l) →
    ((∀ l, effective g r w.b l → ∃ mt rm, chk l = .ok mt rm ∧ mt ≠ 3) →
      ∃ t o, exec (p.1 w) s = .next t ∧ t.ops = s.ops.set s.fresh o ∧ o.gid = gid ∧ o.kind = .ld p.2 ∧ o.space = w.space ∧
        o.width = widthBytes w.width ∧ o.dest = vReg w.d ∧ (∀ l, (∃ x ∈ o.parts, x.lane = l) ↔ effective g r w.b l) ∧
        (∀ x ∈ o.parts, (x.addr : Int) = addressOf g w.space w.a w.imm x.lane ∧ x.served = false) ∧
        t.grp gid = some ({ g with loads := g.loads + 1 }.moved second 1) ∧ t.mems = s.mems ∧ t.store = s.store) ∧
    ((∀ l, effective g r w.b l → ∃ mt rm, chk l = .ok mt rm) → (∃ l rm, effective g r w.b l ∧ chk l = .ok 3 rm) → r.soDone = false →
      exec (p.1 w) s = .next (s.setGrp gid (g.setRun second (some { r with wait := .fence .pk s.fresh none true 1 }))))) ∧
  (∀ w s gid second g r mt rm, Runs (bodyOf (.lds w)) s gid second g r →
    let a := if w.space = .gl then ((g.regs.greg (gReg w.a)).toInt + w.imm.toInt) % 2 ^ 64
      else ((g.regs.greg (gReg w.a)).toNat % 2 ^ 32 : Nat) + w.imm.toInt
    s.checkLane g.launch (s.grpCore g) g.ctx w.space (needLoad (widthBytes w.width)) a = .ok mt rm →
    (mt ≠ 3 → ∃ t o x, exec (.lds w) s = .next t ∧ t.ops = s.ops.set s.fresh o ∧ o.gid = gid ∧ o.kind = .lds ∧ o.dest = gReg w.d ∧
      o.width = widthBytes w.width ∧ o.parts = [x] ∧ (x.addr : Int) = a ∧
      t.grp gid = some ({ g with loads := g.loads + 1 }.moved second 1) ∧ t.mems = s.mems ∧ t.store = s.store) ∧
    (mt = 3 → r.soDone = false →
      exec (.lds w) s = .next (s.setGrp gid (g.setRun second (some { r with wait := .fence .pk s.fresh none true 1 })))))

/-- R115, R117, R129: a store, or a SEND, whose effective lanes all pass their checks, where in `.gl` its cluster's log has room, enters the engine as one operation of the stores
class, each lane with its address and the low bytes of its data registers; nothing is written yet. -/
def storeAndSendWordsRules : Prop :=
  (∀ w s gid second g r, Runs (bodyOf (.st w)) s gid second g r → (∃ l, effective g r w.b l) →
    (∀ l, effective g r w.b l → ∃ mt rm, s.checkLane g.launch (s.grpCore g) g.ctx w.space (needStore (widthBytes w.width))
      (addressOf g w.space w.a w.imm l) = .ok mt rm ∧ mt ≠ 3) →
    ((w.space = .gl → ∀ ks : List Nat, ks.length ≤ 64 → s.canAccept (s.grpCluster g) ks (s.pendingLines (s.grpCluster g)) = true) →
      ∃ t o, exec (.st w) s = .next t ∧ t.ops = s.ops.set s.fresh o ∧ o.gid = gid ∧ o.kind = .st ∧ o.space = w.space ∧
        o.width = widthBytes w.width ∧ (∀ l, (∃ x ∈ o.parts, x.lane = l) ↔ effective g r w.b l) ∧
        (∀ x ∈ o.parts, (x.addr : Int) = addressOf g w.space w.a w.imm x.lane ∧ x.data.toNat = readData g.regs w.d (widthBytes w.width) x.lane) ∧
        t.grp gid = some (entered s { g with stores := g.stores + 1 } second r w) ∧ t.mems = s.mems ∧ t.store = s.store)) ∧
  (∀ w s gid second g r c, Runs (bodyOf (.send w)) s gid second g r → immC w.imm = some c → (∃ l, effective g r w.b l) →
    sendOk w.space (readGr g.regs c) = true →
    (∀ l, effective g r w.b l → (widthBytes w.width : Int) ∣ addressOf g w.space w.a 0 l ∧
      addressOf g w.space w.a 0 l + widthBytes w.width ≤ spaceSize w.space) →
    ∃ t o, exec (.send w) s = .next t ∧ t.ops = s.ops.set s.fresh o ∧ o.gid = gid ∧ o.kind = .send (readGr g.regs c) ∧ o.space = w.space ∧
      o.width = widthBytes w.width ∧ (∀ l, (∃ x ∈ o.parts, x.lane = l) ↔ effective g r w.b l) ∧
      (∀ x ∈ o.parts, (x.addr : Int) = addressOf g w.space w.a 0 x.lane ∧ x.data.toNat = readData g.regs w.d (widthBytes w.width) x.lane) ∧
      t.grp gid = some ({ g with stores := g.stores + 1 }.moved second 1) ∧ t.mems = s.mems ∧ t.store = s.store)

/-- R120, R121, R129, R134: an atomic whose effective lanes all pass their checks, where in `.gl` its cluster's log can promise its records, enters the engine as one operation,
in the stores class where D is c7 and in the loads class otherwise.
It rests on the model's choices of log entry 19. -/
def Obligations.AtomicWords : Prop :=
  ∀ p ∈ ([(.aadd, .add), (.amin, .min), (.amax, .max), (.aand, .and), (.aor, .or), (.axor, .xor), (.axchg, .xchg), (.acas, .cas), (.afadd, .fadd)] :
      List ((Mem → Instr) × AtomOp)), ∀ w s gid second g r, Runs (bodyOf (p.1 w)) s gid second g r → (∃ l, effective g r w.b l) →
    (∀ l, effective g r w.b l → ∃ mt rm, s.checkLane g.launch (s.grpCore g) g.ctx w.space (needAtom (widthBytes w.width))
      (addressOf g w.space w.a (atomOfs w) l) = .ok mt rm) →
    let cl := s.grpCluster g
    ((w.space = .gl → (∀ ks : List Nat, ks.length ≤ 64 → s.batchRoom cl ks (s.pendingLines cl) = true) ∧ ∀ n ≤ 576, (s.promise cl n).isSome = true) →
      ∃ t o, exec (p.1 w) s = .next t ∧ t.ops = s.ops.set s.fresh o ∧ o.gid = gid ∧
        o.kind = .atom p.2 (w.imm.getLsbD 10) (decide (w.d ≠ Opnd.sp 7)) ∧ o.space = w.space ∧ o.width = widthBytes w.width ∧ o.dest = vReg w.d ∧
        (∀ l, (∃ x ∈ o.parts, x.lane = l) ↔ effective g r w.b l) ∧
        (∀ x ∈ o.parts, (x.addr : Int) = addressOf g w.space w.a (atomOfs w) x.lane) ∧
        t.grp gid = some (entered s (if w.d = Opnd.sp 7 then { g with stores := g.stores + 1 } else { g with loads := g.loads + 1 }) second r w) ∧
        t.mems = s.mems ∧ t.store.leaves = s.store.leaves ∧ t.store.recs = s.store.recs ∧ (w.space ≠ .gl → t.store = s.store))

/-- R111, R119, R127: PREF changes nothing but the run; a FENCE that releases holds its run at the fence; FENCE.acq lets the run go on and waits among the group's
operations; a load, store or atomic with no effective lane and no order accesses nothing and counts in no class. -/
def prefAndFenceRules : Prop :=
  ∀ w s gid second g r,
    (Runs (bodyOf (.pref w)) s gid second g r → exec (.pref w) s = .next (s.afterWord gid second g)) ∧
    (Runs (bodyOf (.fence w)) s gid second g r → w.order ≠ .acq →
      exec (.fence w) s = .next (s.setGrp gid (g.setRun second (some { r with wait := .fence w.scope s.fresh none (decide (w.order ≠ .rel)) 0 })))) ∧
    (Runs (bodyOf (.fence w)) s gid second g r → w.order = .acq →
      ∃ t o, exec (.fence w) s = .next t ∧ t.ops = s.ops.set s.fresh o ∧ o.gid = gid ∧ o.kind = .fence ∧ o.scope = w.scope ∧ o.order = .acq ∧
        t.grp gid = some (g.moved second 1) ∧ t.mems = s.mems ∧ t.store = s.store) ∧
    (∀ i ∈ ([.ld w, .ldx w, .st w, .aadd w, .amin w, .amax w, .aand w, .aor w, .axor w, .axchg w, .acas w, .afadd w] : List Instr),
      Runs (bodyOf i) s gid second g r → (∀ l, ¬ effective g r w.b l) → w.order = .rlx → exec i s = .next (s.afterWord gid second g))

/-- Stores, SEND, PREF and FENCE at issue: the two parts above. -/
def Obligations.StoresSendsAndFences : Prop := storeAndSendWordsRules ∧ prefAndFenceRules

/-- R130, R131: where some effective lane of a load, store or atomic fails its checks, the word traps with the earliest cause of the list ALIGN, SPACE, NOMAP,
ACCESS, LOCKMISS at which any lane failed; the trap names exactly the lanes that failed with it, and no lane performs any access. -/
def memoryTrapsRules : Prop :=
  ∀ p ∈ ([(.ld, fun w => needLoad (widthBytes w.width)), (.ldx, fun w => needLoad (widthBytes w.width)),
      (.st, fun w => needStore (widthBytes w.width)), (.aadd, fun w => needAtom (widthBytes w.width)), (.amin, fun w => needAtom (widthBytes w.width)),
      (.amax, fun w => needAtom (widthBytes w.width)), (.aand, fun w => needAtom (widthBytes w.width)), (.aor, fun w => needAtom (widthBytes w.width)),
      (.axor, fun w => needAtom (widthBytes w.width)), (.axchg, fun w => needAtom (widthBytes w.width)), (.acas, fun w => needAtom (widthBytes w.width)),
      (.afadd, fun w => needAtom (widthBytes w.width))] : List ((Mem → Instr) × (Mem → Need))),
  ∀ w s gid g r, Runs (bodyOf (p.1 w)) s gid false g r →
    let ofs := match p.1 w with
      | .ld _ => w.imm
      | .ldx _ => w.imm
      | .st _ => w.imm
      | _ => atomOfs w
    let chk := fun l => s.checkLane g.launch (s.grpCore g) g.ctx w.space (p.2 w) (addressOf g w.space w.a ofs l)
    ∀ (k : Nat) (c : Cause), [Cause.align, .space, .nomap, .access, .lockmiss][k]? = some c → (∃ l, effective g r w.b l ∧ chk l = .bad c) →
      (∀ j < k, ∀ d : Cause, [Cause.align, .space, .nomap, .access, .lockmiss][j]? = some d → ∀ l, effective g r w.b l → chk l ≠ .bad d) →
      ∃ tr, exec (p.1 w) s = .next (s.afterTrap gid g tr) ∧ tr.cause = c ∧ tr.deferred = false ∧
        tr.wpc = r.pc + BitVec.ofNat 48 (12 * r.idx) ∧ tr.mask = r.mask ∧
        ∀ l < 64, tr.lanes.getLsbD l = true ↔ effective g r w.b l ∧ chk l = .bad c

/-- Address checks and the traps they raise: the two parts above. It rests on the model's choices of log entry 53. -/
def Obligations.MemoryTraps : Prop := scratchpadChecksRules ∧ memoryTrapsRules

/-! Accesses perform (R24, R101, R113 to R129, R447). -/

/-- No earlier operation of the group is still in the engine. -/
def firstOf (s : State) (op gid : Nat) : Prop := ∀ p ∈ s.ops, p.2.gid = gid → op ≤ p.1

/-- R4, R98, R99: in a scratchpad, bytes read back as the value last written there, little-endian, and every other byte of that memory and of the others is
unchanged; the write keeps the memories' canonical form. -/
def scratchpadMemoryRules : Prop :=
  ∀ (s : State) sp key n v, sp ≠ .gl →
    (s.padWrite sp key n v).padRead sp key n = v % 2 ^ (8 * n) ∧
    (∀ a, a < key ∨ key + n ≤ a → ((s.padWrite sp key n v).mems.of sp).read a = (s.mems.of sp).read a) ∧
    (∀ sp', sp' ≠ sp → ¬ (sp = .cr ∧ sp' = .cm) → ¬ (sp = .cm ∧ sp' = .cr) → (s.padWrite sp key n v).mems.of sp' = s.mems.of sp') ∧
    (s.mems.wf = true → (s.padWrite sp key n v).mems.wf = true)

/-- R24, R113, R114, R120, R121: LOAD_RETURN ends a scratchpad load, or a returning atomic, whose parts have all been served, the fixed term ago: the loads class
counts one less and the values are in the destination, LD and LDS zero-extended, LDX sign-extended, wide elements little-endian; memory is unchanged. -/
def scratchpadReturnRules : Prop :=
  ∀ s op o g, s.ops.get? op = some o → s.grp o.gid = some g → o.space ≠ .gl → o.order = .rlx → o.queued = false →
    (∀ x ∈ o.parts, x.served = true ∧ x.put = false ∧ x.servedAt.toNat + padFixed o.space ≤ s.now) →
    (o.parts.map (·.lane)).Nodup → (∀ x ∈ o.parts, x.lane < 64 ∨ o.kind = .lds) →
    (((∃ sx, o.kind = .ld sx) ∧ o.width ∈ [1, 2, 4, 8, 16]) ∨ (o.kind = .lds ∧ o.width ∈ [1, 2, 4, 8] ∧ o.parts.length = 1) ∨
      ((∃ fn sgn, o.kind = .atom fn sgn true) ∧ o.width ∈ [4, 8])) →
    ∃ t g', exec (.loadReturn op) s = .next t ∧ t.ops = s.ops.erase op ∧ t.grp o.gid = some g' ∧ g'.loads = g.loads - 1 ∧ g'.stores = g.stores ∧
      t.mems = s.mems ∧ t.store = s.store ∧
      (o.kind = .lds → ∀ x ∈ o.parts, (g'.regs.greg o.dest).toNat = x.val.toNat % 2 ^ (8 * o.width)) ∧
      (o.kind ≠ .lds → 4 ≤ o.width → ∀ x ∈ o.parts, ∀ i < o.width / 4, (g'.regs.vreg (o.dest + i) x.lane).toNat = x.val.toNat / 2 ^ (32 * i) % 2 ^ 32) ∧
      (o.kind = .ld false → o.width < 4 → ∀ x ∈ o.parts, (g'.regs.vreg o.dest x.lane).toNat = x.val.toNat % 2 ^ (8 * o.width)) ∧
      (o.kind = .ld true → o.width < 4 → ∀ x ∈ o.parts, (g'.regs.vreg o.dest x.lane).toInt =
        (if x.val.toNat % 2 ^ (8 * o.width) < 2 ^ (8 * o.width - 1) then ((x.val.toNat % 2 ^ (8 * o.width) : Nat) : Int)
          else ((x.val.toNat % 2 ^ (8 * o.width) : Nat) : Int) - 2 ^ (8 * o.width)))

/-- Operation op is the only one whose part has reached a bank and waits there, and that part is x. -/
def atBankAlone (s : State) (op : Nat) (o : MemOp) (g : Group) (x : Part) : Prop :=
  s.ops.get? op = some o ∧ s.grp o.gid = some g ∧ o.space ≠ .gl ∧ o.parts = [x] ∧ x.served = false ∧
    s.bankRequests = [(o.arrival (s.grpCore g) x, BankUser.op op)]

/-- R24, R104, R115, R129, R447: a scratchpad store with nothing of its group before it leaves its core's memory queue; where it has reached its bank, the cycle's service of the
banks writes the low bytes of its data at its address and nothing else; STORE_PERFORM ends it, and the stores class counts one less, once its time has come. -/
def scratchpadStoreRules : Prop :=
  ∀ s op o g x, s.ops.get? op = some o → s.grp o.gid = some g → o.kind = .st → o.space ≠ .gl → o.order = .rlx → o.parts = [x] →
    (o.queued = true → x.served = false → firstOf s op o.gid → (∀ p ∈ s.ops, p.1 < op → p.2.queued = false) → ∃ t, exec (.storePerform op) s = .next t ∧
      t.ops.get? op = some { o with queued := false, arriveAt := s.pcc } ∧ t.groups = s.groups ∧ t.mems = s.mems ∧ t.store = s.store) ∧
    (atBankAlone s op o g x → s.serveBanks.store = s.store ∧
      (∃ o', s.serveBanks.ops.get? op = some o' ∧ o'.parts = [{ x with served := true, servedAt := s.pcc }]) ∧
      let key := padKey (s.grpCore g) o.gid x.lane o.space x.addr
      ∀ a, (s.serveBanks.mems.of o.space).read a =
        if key ≤ a ∧ a < key + o.width then BitVec.ofNat 8 (x.data.toNat / 2 ^ (8 * (a - key))) else (s.mems.of o.space).read a) ∧
    (o.queued = false → x.served = true → x.servedAt.toNat + padFixed o.space ≤ s.now → ∃ t g', exec (.storePerform op) s = .next t ∧ t.mems = s.mems ∧
      t.ops = s.ops.erase op ∧ t.grp o.gid = some g' ∧ g'.stores = g.stores - 1 ∧ g'.regs = g.regs)

/-- R104, R120 to R123: an atomic with nothing of its group before it leaves its core's memory queue; one of one lane at a scratchpad bank reads the old value, writes the new
one in the same step, and changes no other byte; a failing ACAS writes nothing. A `.gl` atomic asks for its turn of its cluster's log first, and its lane is over when its
publication has committed. -/
def scratchpadAtomicRules : Prop :=
  ∀ s op o g x fn sgn ret, s.ops.get? op = some o → s.grp o.gid = some g → o.kind = .atom fn sgn ret → o.order = .rlx → o.parts = [x] → o.width ∈ [4, 8] →
    (o.queued = true → o.space ≠ .gl → firstOf s op o.gid → (∀ p ∈ s.ops, p.1 < op → p.2.queued = false) → ∃ t, exec (.atomicPerform op) s = .next t ∧
      t.ops.get? op = some { o with queued := false, arriveAt := s.pcc } ∧ t.groups = s.groups ∧ t.mems = s.mems ∧ t.store = s.store) ∧
    (o.space = .gl → o.queued = false → x.served = false → o.req = none → firstOf s op o.gid → s.partWaits o x = false →
      s.isRemote (lineKey g.ctx x.addr) = false → ∃ t k rq, exec (.atomicPerform op) s = .next t ∧ t.ops.get? op = some { o with req := some k } ∧
        t.store.reqs.get? k = some rq ∧ rq.kind = .atomic ∧ rq.log = s.grpCluster g ∧ rq.gid = some o.gid ∧ t.mems = s.mems ∧ t.store.leaves = s.store.leaves) ∧
    (∀ k, o.space = .gl → o.queued = false → x.served = true → x.fin = false → o.req = some k → s.reqSt k = .complete → ∃ t, exec (.atomicPerform op) s = .next t ∧
      t.ops.get? op = some { o with req := none, parts := [{ x with fin := true }] } ∧ t.mems = s.mems ∧ t.store = s.store) ∧
    (atBankAlone s op o g x →
      let key := padKey (s.grpCore g) o.gid x.lane o.space x.addr
      let n := 8 * o.width
      let old := s.padRead o.space key o.width
      let d := x.data.toNat % 2 ^ n
      let int := fun v => if sgn = true ∧ 2 ^ (n - 1) ≤ v then (v : Int) - 2 ^ n else (v : Int)
      let new := match fn with
        | .add => (old + d) % 2 ^ n
        | .min => if int d < int old then d else old
        | .max => if int old < int d then d else old
        | .and => old &&& d
        | .or => old ||| d
        | .xor => old ^^^ d
        | .xchg => d
        | .cas => if old = d then x.data.toNat / 2 ^ n % 2 ^ n else old
        | .fadd => (fAdd fmtF32 .rne false (fDec fmtF32 old) (fDec fmtF32 d)).1
      ∃ o' y, s.serveBanks.ops.get? op = some o' ∧ o'.parts = [y] ∧ y.served = true ∧ y.val.toNat = old ∧ s.serveBanks.store = s.store ∧
        s.serveBanks.groups = s.groups ∧ ∀ a, (s.serveBanks.mems.of o.space).read a =
          if key ≤ a ∧ a < key + o.width then BitVec.ofNat 8 (new / 2 ^ (8 * (a - key))) else (s.mems.of o.space).read a)

/-- Scratchpad loads, stores and atomics are performed: the four parts above. It rests on the model's choices of log entry 9. -/
def Obligations.ScratchpadAccesses : Prop := scratchpadMemoryRules ∧ scratchpadReturnRules ∧ scratchpadStoreRules ∧ scratchpadAtomicRules

/-- R118, R434: SEND_ARRIVE writes the data at the target of this module where a window granted there to a block of the sender's launch covers it; otherwise nothing is
written and the lane is refused; to another module a message takes it. STORE_PERFORM ends a SEND whose lanes are over, with a deferred SPACE trap for those refused. -/
def sendArrivesRules : Prop :=
  ∀ s op o g x t, s.ops.get? op = some o → s.grp o.gid = some g → o.kind = .send t → o.parts = [x] →
    (x.served = false → o.queued = false → t.getLsbD 15 = true → o.space = .cm ∨ o.space = .ds →
      let die := (t.extractLsb' 16 5).toNat
      let cl := (t.extractLsb' 21 3).toNat
      let key := if o.space = .cm then (8 * die + cl) * cmBytes + x.addr else die * dsBytes + x.addr
      let covered := ∃ l, s.launches.get? g.launch = some l ∧ (∃ b ∈ s.blocks, b.2.launch = g.launch ∧ b.2.ended = false ∧
          if o.space = .cm then b.2.cluster = 8 * die + cl else clusterDie b.2.cluster = die) ∧
        if o.space = .cm then l.cmbase ≤ x.addr ∧ x.addr + o.width ≤ l.cmbase + l.cm else l.dsbase ≤ x.addr ∧ x.addr + o.width ≤ l.dsbase + l.ds
      (covered → ∃ u, exec (.sendArrive op x.lane) s = .next u ∧
        u.ops.get? op = some { o with parts := [{ x with served := true, fin := true }] } ∧
        ∀ a, (u.mems.of o.space).read a =
          if key ≤ a ∧ a < key + o.width then BitVec.ofNat 8 (x.data.toNat / 2 ^ (8 * (a - key))) else (s.mems.of o.space).read a) ∧
      (¬ covered → ∃ u, exec (.sendArrive op x.lane) s = .next u ∧
        u.ops.get? op = some { o with parts := [{ x with served := true, fin := true, refused := true }] } ∧ u.mems = s.mems)) ∧
    (x.served = false → o.queued = false → t.getLsbD 15 = false → t.extractLsb' 0 12 ≠ Config.moduleIndex → ∃ u m, exec (.sendArrive op x.lane) s = .next u ∧
      u.outbox.get? s.fresh = some m ∧ m.peer = t.extractLsb' 0 12 ∧ u.mems = s.mems ∧
      m.body = .send op x.lane o.space (t.extractLsb' 21 3).toNat (t.extractLsb' 16 5).toNat x.addr o.width (BitVec.ofNat 128 x.data.toNat) g.launch) ∧
    (x.fin = true → o.order = .rlx → ∃ u g', exec (.storePerform op) s = .next u ∧ u.ops = s.ops.erase op ∧ u.grp o.gid = some g' ∧ g'.stores = g.stores - 1 ∧
      g'.regs = g.regs ∧ u.mems = s.mems ∧ (x.refused = false → g'.deferred = g.deferred) ∧
      (x.refused = true → x.lane < 64 → ∃ d ∈ g'.deferred, d.cause = .space ∧ d.lanes.getLsbD x.lane = true))

/-- R101, R113, R126, R217, R378: LOAD_SERVE_HOME samples a `.gl` load's part at the line's home, under the cluster's own bytes, once its leaf is in the LIB and neither the L1 nor the
LIB gives the line; while the entry is PREP the load waits; where a peer owns the line, it is asked. Bytes that the cluster's own stores all hold, LOAD_RETURN takes from there. -/
def homeServesLoadsRules : Prop :=
  ∀ s op o g x, s.ops.get? op = some o → s.grp o.gid = some g → (o.kind = .lds ∨ ∃ sx, o.kind = .ld sx) → o.space = .gl → o.order = .rlx → o.parts = [x] →
    o.queued = false → x.served = false → x.mt.toNat < 2 → firstOf s op o.gid → coreCluster (s.grpCore g) = s.grpCluster g → 0 < o.width → o.width ≤ 16 → x.addr % 256 + o.width ≤ 256 →
    let cl := s.grpCluster g
    let lk := lineKey g.ctx x.addr
    let held := maskBytes (x.addr % 256) o.width &&& ~~~(s.ownBytes cl lk).1 = 0
    let here := ∃ lf, (s.cl cl).lib.get? (leafOfLine lk) = some lf ∧ lf.landed = true
    (here → ¬ held → s.isRemote lk = false → s.cachedLine (s.grpCore g) g.ctx x.addr = none →
      ((s.homeEntry lk).prep = true → ∃ t, exec (.loadServeHome op x.lane) s = .next t ∧ t.ops = s.ops ∧ t.groups = s.groups ∧ t.mems = s.mems) ∧
      ((s.homeEntry lk).prep = false → ∃ t o' y, exec (.loadServeHome op x.lane) s = .next t ∧ t.ops.get? op = some o' ∧ o'.parts = [y] ∧
        y.served = true ∧ y.val = BitVec.ofNat 128 (s.loadHome cl g.ctx x.addr o.width) ∧ t.mems = s.mems)) ∧
    (here → ¬ held → s.isRemote lk = true → x.asked = false → ∃ t o' y m n, exec (.loadServeHome op x.lane) s = .next t ∧ t.ops.get? op = some o' ∧ o'.parts = [y] ∧
      y.asked = true ∧ y.served = false ∧ t.outbox.get? s.fresh = some m ∧ m.peer = s.ownerOf lk ∧ m.body = .load op n g.ctx (lineAddr lk) 256 ∧ t.mems = s.mems) ∧
    (here → held → x.put = false → ∃ t g', exec (.loadReturn op) s = .next t ∧ t.ops.get? op = none ∧ t.grp o.gid = some g' ∧ g'.loads = g.loads - 1 ∧
      (o.kind = .lds → g'.regs.greg o.dest = BitVec.ofNat 64 (Line.field (s.ownBytes cl lk).2 (x.addr % 256) o.width % 2 ^ (8 * o.width))) ∧ t.mems = s.mems)

/-! The log memory (R195 to R234). -/

/-- R202, R215: after a commit of mask m that needs no image, the sectors of m read the committed record and every other sector reads as before. -/
def commitReadsBackRules : Prop :=
  ∀ recs e (p : BitVec 44) m r j, FMap.get? recs p.toNat = some r → needsImage e m = false → j < 8 → (m = 0xFF → r.fmt ≠ fmtFrag) →
    (e.z = true → e.f0msk = 0 ∧ e.f1msk = 0) →
    readSector recs (commitEntry e p m r.fmt) j = if m.getLsbD j then r.sector j else readSector recs e j

/-- SEND writes arrive, homes serve loads, and a committed record reads back: the three parts above. It rests on the model's choices of log entries 10, 12. -/
def Obligations.SendsAndHomeLoads : Prop := sendArrivesRules ∧ homeServesLoadsRules ∧ commitReadsBackRules

/-- A request has been asked for: it waits at its log where every earlier store of its group has been accepted, and otherwise joins once they are (R210). -/
def askedReq (s t : State) (n gid log : Nat) (k : ReqKind) : Prop :=
  FMap.sorted s.store.reqs = true → ∃ q, t.store.reqs.get? n = some q ∧ q.log = log ∧ q.kind = k ∧ q.gid = some gid ∧
    ((∀ p ∈ s.ops, p.1 < n → p.2.gid = gid → storeDone p.2 = true) → q.st = .waiting ∧ n ∈ (t.log log).queue) ∧
    ((∃ p ∈ s.ops, p.1 < n ∧ p.2.gid = gid ∧ storeDone p.2 = false) → q.st = .asked)

/-- R210, R229 to R232: PUB asks for the publication of its cluster's whole open batch and waits for nothing; PUBR of no bytes gives a handle that is DONE at once; any other
PUBR takes the next future-table entry, PENDING, gives its handle, counts as a copy and asks for its range. INVR drops the core's lines of its range that the cluster does not own, after
the group's earlier acquires; ZLINE enters the engine as a store of whole lines. -/
def Obligations.PublicationWords : Prop :=
  ∀ w s gid second g r,
    let cl := s.grpCluster g
    let a := g.regs.greg (gReg w.a)
    let b := g.regs.greg (gReg w.b)
    (Runs (bodyOf (.pub w)) s gid second g r → ∃ t, exec (.pub w) s = .next t ∧ askedReq s t s.fresh gid cl .batch ∧ t.grp gid = some (g.moved second 1) ∧
      t.mems = s.mems) ∧
    (∀ c, Runs (bodyOf (.pubr w)) s gid second g r → s.ctx? g.ctx = some c → (c.fut c.nextTag).st ≠ .pending → c.nextTag < 4096 →
      let h := mkHandle 4 c.nextTag ((c.fut c.nextTag).gen + 1)
      (b = 0 → ∃ t g' c', exec (.pubr w) s = .next t ∧ t.grp gid = some g' ∧ g'.regs.freg (fNum w.d) = h ∧ g'.copies = g.copies ∧
        t.ctx? g.ctx = some c' ∧ (c'.fut c.nextTag).st = .ok ∧ (c'.fut c.nextTag).gen = (c.fut c.nextTag).gen + 1) ∧
      (b ≠ 0 → a.toNat + b.toNat ≤ 2 ^ 48 → ∃ t g' c' n, exec (.pubr w) s = .next t ∧ t.grp gid = some g' ∧ g'.regs.freg (fNum w.d) = h ∧
        g'.copies = g.copies + 1 ∧ t.ctx? g.ctx = some c' ∧ (c'.fut c.nextTag).st = .pending ∧ askedReq s t n gid cl (.range a.toNat b.toNat))) ∧
    (Runs (bodyOf (.invr w)) s gid second g r →
      ((∀ p ∈ s.ops, p.1 < s.fresh → p.2.gid = gid → isAcq p.2.order = false) → ∃ t, exec (.invr w) s = .next t ∧ t.mems = s.mems ∧ t.store = s.store ∧
        t.grp gid = some (g.moved second 1) ∧ ∀ lk d, (t.core (s.grpCore g)).l1.get? lk = some d → keyCtxLine lk = g.ctx → 0 < b.toNat →
          lineAddr lk < a.toNat + b.toNat → a.toNat < lineAddr lk + 256 → lk ∈ s.openLines (coreCluster (s.grpCore g))) ∧
      ((∃ p ∈ s.ops, p.1 < s.fresh ∧ p.2.gid = gid ∧ isAcq p.2.order = true) → ∃ t o, exec (.invr w) s = .next t ∧ t.ops = s.ops.set s.fresh o ∧ o.gid = gid ∧
        o.kind = .inv a.toNat b.toNat ∧ t.grp gid = some (g.moved second 1) ∧ t.mems = s.mems ∧ t.store = s.store)) ∧
    (∀ mt rm, Runs (bodyOf (.zline w)) s gid second g r → s.zlineChk (s.grpCore g) g.ctx a.toNat w.imm.toNat = .ok mt rm →
      s.canAccept cl ((List.range w.imm.toNat).map (fun k => lineKey g.ctx (a.toNat + 256 * k))) (s.pendingLines cl) = true →
      ∃ t o x, exec (.zline w) s = .next t ∧ t.ops = s.ops.set s.fresh o ∧ o.kind = .zline ∧ o.gid = gid ∧ o.parts = [x] ∧ x.addr = a.toNat ∧
        x.data.toNat = w.imm.toNat ∧ t.grp gid = some ({ g with stores := g.stores + 1 }.moved second 1) ∧ t.mems = s.mems ∧ t.store = s.store)

/-- R25, R115, R207, R232: STORE_PERFORM of a `.gl` store or ZLINE whose turn has come hands its bytes to the cluster's write-combining buffer, and commits
nothing: no index entry at a home changes. -/
def bufferedStoresRules : Prop :=
  ∀ s op o g x, s.ops.get? op = some o → s.grp o.gid = some g → o.space = .gl → o.order = .rlx → o.parts = [x] → x.served = false → x.mt.toNat < 2 →
    o.queued = false → s.partWaits o x = false → firstOf s op o.gid →
    let ends (u : State) : Prop := ∃ t g', exec (.storePerform op) s = .next t ∧ t.ops.get? op = none ∧ t.grp o.gid = some g' ∧ g'.stores = g.stores - 1 ∧
      g'.regs = g.regs ∧ t.clusters = u.clusters ∧ t.store.recs = u.store.recs ∧ t.store.leaves = s.store.leaves ∧ t.mems = s.mems
    (∀ u, o.kind = .st → s.bufStore (s.grpCluster g) g.ctx x.addr o.width x.data.toNat = some u → ends u) ∧
    (∀ u, o.kind = .zline → s.acceptZero (s.grpCluster g) g.ctx o = some u → ends u)

/-- R207: an entry leaves a cluster's buffer when its window has passed, where the log has room, and not before. -/
def bufferWindowRules : Prop :=
  ∀ s c lk b, c < 256 → (s.cl c).buf.get? lk = some b →
    (s.due (b.first + b.win.setWidth 64) = false → exec (.wcbWindowExpire c lk) s = .next s) ∧
    (∀ u, s.due (b.first + b.win.setWidth 64) = true → s.flushLine c lk = some u →
      ∃ t, exec (.wcbWindowExpire c lk) s = .next t ∧ (t.cl c).buf.get? lk = none ∧ (∃ a, (t.cl c).app.get? lk = some a ∧ b.mask &&& ~~~a.mask = 0) ∧
        t.mems = s.mems ∧ t.store.leaves = s.store.leaves)

/-- The write-combining buffer and its window: the two parts above. It rests on the model's choices of log entry 23. -/
def Obligations.StoreBuffers : Prop := bufferedStoresRules ∧ bufferWindowRules

/-- R210 to R212: a log whose slot is free opens a publication for its oldest waiting request, under a key taken from PCC and the next PUBID; when every line has
committed the slot frees and the log's last PUBID moves on. -/
def publicationSlotRules : Prop :=
  (∀ s log r q, (s.log log).pub = none → (s.log log).queue = [r] → s.store.reqs.get? r = some q → q.kind = .solo → q.lines ≠ [] →
    (s.reserve log (resvUnits q.lines)).isSome = true →
    ∃ t p b, exec (.publicationStart log) s = .next t ∧ (t.log log).pub = some p ∧ t.store.pubs.get? p = some b ∧ b.lines = q.lines ∧ b.reqs = [r] ∧
      b.key = s.pcc ∧ b.pubid = (s.log log).pubid + 1 ∧ t.store.recs = s.store.recs ∧ t.store.leaves = s.store.leaves) ∧
  (∀ s p q, s.store.pubs.get? p = some q → (∀ x ∈ q.lines, x.st = .committed) → q.reqs = [] →
    ∃ t, exec (.publicationCommit p) s = .next t ∧ t.store.pubs.get? p = none ∧ (t.log q.log).pub = none ∧ (t.log q.log).pubid = q.pubid ∧
      t.store.leaves = s.store.leaves ∧ t.store.recs = s.store.recs ∧ t.mems = s.mems) ∧
  (∀ s p q, s.store.pubs.get? p = some q → (∃ x ∈ q.lines, x.st ≠ .committed) → exec (.publicationCommit p) s = .next s)

/-- R213 to R215: a prepare of a line whose entry is free is granted with the home's bytes and marks the entry PREP; the last acknowledgement lets the publication commit;
a commit puts the record in the entry, clears PREP and ends the hold. -/
def prepareAndCommitRules : Prop :=
  ∀ s p q x, s.store.pubs.get? p = some q → q.lines = [x] → s.isRemote x.key = false → q.peer = none →
    (x.st = .sent → q.revoked = false → q.committing = false → s.mayGrantAt x.key q.isMig = true → s.store.preps.get? x.key = none →
      ∃ t q' y h, exec (.homePrepare p 0) s = .next t ∧ (t.homeEntry x.key).prep = true ∧ t.store.preps.get? x.key = some h ∧ h.holder = some p ∧ h.since = s.pcc ∧
        t.store.pubs.get? p = some q' ∧ q'.lines = [y] ∧ y.st = .granted ∧ y.old = s.homeLine x.key ∧ t.homeLine x.key = s.homeLine x.key) ∧
    (x.st = .granted → q.revoked = false → x.msk ≠ 0 → x.full = false →
      ∃ t q', exec (.prepareAck p 0) s = .next t ∧ t.store.pubs.get? p = some q' ∧ q'.committing = true ∧ q'.lines = [{ x with st := .acked }] ∧
        t.store.leaves = s.store.leaves) ∧
    (∀ h, x.st = .acked → q.committing = true → x.hdr = none → s.store.preps.get? x.key = some h → h.queue = [] → h.readers = [] →
      ∃ t q', exec (.homeCommit p 0) s = .next t ∧ t.homeEntry x.key = { commitLine (s.homeEntry x.key) x with prep := false } ∧
        t.store.preps.get? x.key = none ∧ t.store.pubs.get? p = some q' ∧ q'.lines = [{ x with st := .committed }] ∧ t.store.recs = s.store.recs ∧
        t.mems = s.mems)

/-- R213: a holder that has not begun to commit gives its prepares back when it is asked to, and the home ends the hold; one that is committing keeps them. A hold of 16,384
cycles asks its holder. -/
def revocationRules : Prop :=
  ∀ s p q x, s.store.pubs.get? p = some q → q.lines = [x] → s.isRemote x.key = false → q.peer = none →
    (q.revoked = true → q.committing = true →
      ∃ t, exec (.revokeRequest p) s = .next t ∧ t.store.pubs.get? p = some { q with revoked := false } ∧ t.store.leaves = s.store.leaves) ∧
    (q.revoked = true → q.committing = false → x.st = .granted →
      ∃ t, exec (.revokeRequest p) s = .next t ∧ t.store.pubs.get? p = some { q with revoked := false, lines := [{ x with st := .releasing }] }) ∧
    (∀ h, x.st = .releasing → s.store.preps.get? x.key = some h → h.queue = [] → h.readers = [] →
      ∃ t q', exec (.homeRelease p 0) s = .next t ∧ (t.homeEntry x.key).prep = false ∧ t.store.preps.get? x.key = none ∧
        t.store.pubs.get? p = some q' ∧ q'.lines = [{ x with st := .sent }] ∧ t.homeLine x.key = s.homeLine x.key) ∧
    (∀ h, s.store.preps.get? x.key = some h → h.holder = some p →
      (s.due (h.since + 16384) = true → ∃ t q', exec (.holdTimerExpire x.key) s = .next t ∧ t.store.pubs.get? p = some q' ∧ q'.revoked = true ∧
        q'.lines = [x]) ∧
      (s.due (h.since + 16384) = false → exec (.holdTimerExpire x.key) s = .next s))

/-- Publication: slot, prepare, commit, revocation: the three parts above. It rests on the model's choices of log entries 23, 24, 25. -/
def Obligations.Publications : Prop := publicationSlotRules ∧ prepareAndCommitRules ∧ revocationRules

/-! The issue engine's words (R57 to R59, R172 to R190). -/

/-- R175: a landing target fails first where no word can be fetched there, then where it lies off the 12-byte grid from the code's base, then where its word
has LAND 0; while its word is on its way from a peer module the last check is still open. -/
def landingPadsRules : Prop :=
  ∀ (s : State) core ctx base (t : Dword),
    (2 ^ 48 ≤ t.toNat → s.landCheck core ctx base t = some 1) ∧
    (∀ c, t.toNat < 2 ^ 48 → s.fetchWord core ctx t.toNat = .bad c → s.landCheck core ctx base t = some 1) ∧
    (t.toNat < 2 ^ 48 → s.fetchWord core ctx t.toNat = .wait →
      s.landCheck core ctx base t = if (12 : Int) ∣ t.toNat - base then none else some 2) ∧
    (∀ w, t.toNat < 2 ^ 48 → s.fetchWord core ctx t.toNat = .ok w →
      s.landCheck core ctx base t = if (12 : Int) ∣ t.toNat - base then (if w.getLsbD 81 then some 0 else some 3) else some 2)

/-- R174 to R177, R189, R190: the transfers of control set the next PC of their lanes and no other lane's: BR of the lanes whose c-bit is asked for, BRU and CALL of
every lane or none, JMPI, RET and TRET of every lane when every target passes its checks; otherwise they trap JMPBAD with the lanes of each failed check. While
a target's word is on its way from a peer module the run stalls at the word. EXIT marks its lanes. TRET outside a handler traps ILLOP. TRAP and BKPT trap with their
cause, in every lane of the run. -/
def controlTransfersRules : Prop :=
  ∀ w s gid second g r,
    let rel : Pc := BitVec.ofInt 48 ((wordPc r.pc r.idx).toNat + 12 * w.imm.toInt)
    let goes (i : Instr) (p : Nat → Bool) (t : Nat → Pc) (f : Run → Run) : Prop :=
      ∃ gt, exec i s = .next (s.afterRun gid second g (f { r with goto := gt })) ∧
        ∀ l < 64, ({ r with goto := gt } : Run).nextPc l = if r.mask.getLsbD l && p l then t l else r.nextPc l
    let chk (t : Nat → Dword) (l : Nat) : Option Nat := s.landCheck (s.grpCore g) g.ctx (((s.launches.get? g.launch).map (·.codeBase)).getD 0) (t l)
    let waits (i : Instr) : Prop := ∃ t, exec i s = .next t ∧ t.grp gid = some (g.setRun second (some { r with wait := .stay true })) ∧ t.mems = s.mems ∧
      t.store = s.store ∧ t.ops = s.ops
    let traps (i : Instr) (c : Cause) (lanes d0 d1 d2 : Nat → Bool) : Prop :=
      ∃ tr, exec i s = .next (s.afterTrap gid g tr) ∧ tr.cause = c ∧ tr.deferred = false ∧ tr.wpc = wordPc r.pc r.idx ∧ tr.mask = r.mask ∧
        ∀ l < 64, tr.lanes.getLsbD l = lanes l ∧ tr.detail0.getLsbD l = d0 l ∧ tr.detail1.getLsbD l = d1 l ∧ tr.detail2.getLsbD l = d2 l
    let bad (i : Instr) (k : Nat → Option Nat) : Prop := traps i .jmpbad (fun l => r.mask.getLsbD l && k l != some 0)
      (fun l => r.mask.getLsbD l && k l == some 1) (fun l => r.mask.getLsbD l && k l == some 2) (fun l => r.mask.getLsbD l && k l == some 3)
    let plain (i : Instr) (c : Cause) : Prop := traps i c (fun l => r.mask.getLsbD l) (fun _ => false) (fun _ => false) (fun _ => false)
    let pair : Nat → Dword := fun l => readLane g.regs .b64 w.a l
    let gt : Dword := g.regs.greg (gReg w.a)
    (Runs (bodyOf (.br w)) s gid second g r →
      goes (.br w) (fun l => xor ((g.regs.creg (cNum w.a)).getLsbD l) (w.mod.getLsbD 0)) (fun _ => rel) id) ∧
    (Runs (bodyOf (.bru w)) s gid second g r → goes (.bru w) (fun _ => xor (g.regs.kreg (kNum w.a)) (w.mod.getLsbD 0)) (fun _ => rel) id) ∧
    (Runs (bodyOf (.call w)) s gid second g r →
      goes (.call w) (fun _ => true) (fun _ => rel) (fun r => { r with link := some (vReg w.d) })) ∧
    (∀ i ∈ ([.jmpi w, .ret w] : List Instr), Runs (bodyOf i) s gid second g r →
      ((∀ l < 64, r.mask.getLsbD l = true → chk pair l = some 0) → goes i (fun _ => true) (fun l => (pair l).setWidth 48) id) ∧
      ((∀ l < 64, r.mask.getLsbD l = true → chk pair l ≠ none) → (∃ l < 64, r.mask.getLsbD l = true ∧ chk pair l ≠ some 0) → second = false →
        bad i (chk pair)) ∧
      ((∃ l < 64, r.mask.getLsbD l = true ∧ chk pair l = none) → waits i)) ∧
    (Runs (bodyOf (.exit w)) s gid second g r → exec (.exit w) s = .next (s.afterRun gid second g { r with exits := r.mask })) ∧
    (Runs (bodyOf (.tret w)) s gid second g r →
      (g.handler = true → chk (fun _ => gt) 0 = some 0 →
        goes (.tret w) (fun _ => true) (fun _ => gt.setWidth 48) (fun r => { r with tret := true })) ∧
      (∀ k, g.handler = true → chk (fun _ => gt) 0 = some k → k ≠ 0 → second = false → bad (.tret w) (fun _ => some k)) ∧
      (g.handler = true → chk (fun _ => gt) 0 = none → waits (.tret w)) ∧
      (g.handler = false → second = false → plain (.tret w) .illop)) ∧
    (Runs (bodyOf (.trapOp w)) s gid second g r → second = false → plain (.trapOp w) (.prog (w.imm.setWidth 8))) ∧
    (Runs (bodyOf (.bkpt w)) s gid second g r → second = false → plain (.bkpt w) .bkpt)

/-- Branches, jumps, calls and returns: the two parts above. It rests on the model's choices of log entry 53. -/
def Obligations.ControlTransfers : Prop := landingPadsRules ∧ controlTransfersRules

/-- R57 to R59, R171, R182, R326: NOP, WAIT and RJOIN, whose conditions were met when their run started, change nothing; PAUSE asks for the largest yield of the run; BAR and
SSTEP add one arrival, or trap ILLOP where their count is 0 or above 2^24. -/
def runWordsRules : Prop :=
  ∀ w s gid second g r,
    (∀ i ∈ ([.nop w, .wait w, .rjoin w] : List Instr), Runs (bodyOf i) s gid second g r → exec i s = .next (s.afterWord gid second g)) ∧
    (Runs (bodyOf (.pause w)) s gid second g r →
      exec (.pause w) s = .next (s.afterRun gid second g { r with yieldReq := max r.yieldReq (w.imm.toNat % 2 ^ 16) })) ∧
    (∀ p ∈ ([(.bar w, false), (.sstep w, true)] : List (Instr × Bool)), Runs (bodyOf p.1) s gid second g r →
      let n := (readG g.regs .b64 w.a).toNat
      (1 ≤ n → n ≤ 2 ^ 24 → exec p.1 s = .next (s.afterRun gid second g { r with
        arrive := r.arrive ++ [{ scope := (scopeOf (w.mod.setWidth 3)).getD .ln, id := w.imm.toNat % 16, count := n, sends := p.2 }] })) ∧
      (n = 0 ∨ 2 ^ 24 < n → second = false → ∃ tr, exec p.1 s = .next (s.afterTrap gid g tr) ∧ tr.cause = .illop ∧ tr.lanes = r.mask ∧
        tr.wpc = wordPc r.pc r.idx))

/-- R179: SPAWN starts a group in a free context of its core, with the lanes of the run at the target, their v0 to v7 and every g-register, every other
register at its start value, and sets its k-bit; with no free context, index or registers it clears the k-bit and starts nothing. -/
def spawnWordsRules : Prop :=
  ∀ w s gid second g r, Runs (bodyOf (.spawn w)) s gid second g r →
    let core := s.grpCore g
    let low := ((s.launches.get? g.launch).map (·.ngroups)).getD 0
    let fits := s.regsUsed core + g.nregs ≤ 1024
    (∀ k i, s.freeSlot core = some k → s.freeIndex g.launch g.block low = some i → fits → r.mask ≠ 0 →
      ∃ t new, exec (.spawn w) s = .next t ∧ t.grp (gidOf g.launch g.block i) = some new ∧ new.place = .resident core k ∧ new.index = i ∧
        new.ctx = g.ctx ∧ new.launch = g.launch ∧ new.block = g.block ∧ new.run = none ∧ new.handler = false ∧
        (∃ e, new.pcs = [e] ∧ e.mask = r.mask ∧ e.pc = BitVec.ofInt 48 ((wordPc r.pc r.idx).toNat + 12 * w.imm.toInt) ∧ e.held = []) ∧
        (∀ n, new.regs.greg n = g.regs.greg n) ∧
        (∀ n < 128, ∀ l < 64, new.regs.vreg n l = if n < 8 ∧ r.mask.getLsbD l = true then g.regs.vreg n l else 0) ∧
        (∀ n < 8, new.regs.jreg n = BitVec.allOnes 64) ∧ (∀ n < 16, new.regs.freg n = 0) ∧
        t.grp gid = some ({ g with regs := g.regs.setK (kNum w.d) true }.moved second 1) ∧ t.ops = s.ops) ∧
    ((s.freeSlot core = none ∨ s.freeIndex g.launch g.block low = none ∨ ¬ fits) →
      exec (.spawn w) s = .next (s.afterWord gid second { g with regs := g.regs.setK (kNum w.d) false }))

/-- R55, R161, R176, R177, R182: RUNEND of a run whose arrivals are not released yet waits for its release; beside a run of the other port that goes on it only records its wait mask;
otherwise the run ends: each of its lanes that neither exits nor calls a query stands at its next PC, held by its arrivals, those that exit stand nowhere, callers
that do not exit are parked with their next PC, the link of a CALL is written. -/
def runBoundaryRules : Prop :=
  (∀ w s gid second g r x, Runs (bodyOf (.runend w)) s gid second g r → r.arrive = [] ∨ r.released = true → g.runOn (!second) = some x →
    x.finished = false → ∃ (t : State) (g' : Group), exec (.runend w) s = .next t ∧ t.grp gid = some (g'.moved second 1) ∧
      g' = { g with escapes := g'.escapes, wmask := g.wmask ||| w.mod.extractLsb' 8 4 } ∧ t.mems = s.mems ∧ t.store = s.store ∧ t.ops = s.ops) ∧
  ∀ w s gid g r, Runs (bodyOf (.runend w)) s gid false g r →
    (r.arrive ≠ [] → r.released = false → ∃ sc, exec (.runend w) s =
      .next (s.setGrp gid { g with run := some { r with wait := .fence sc s.fresh none false 0 } })) ∧
    (r.arrive = [] ∨ r.released = true → g.run2 = none → ∃ t g', exec (.runend w) s = .next t ∧ t.grp gid = some g' ∧ g'.run = none ∧
      g'.wmask = g.wmask ||| w.mod.extractLsb' 8 4 ∧ t.mems = s.mems ∧ t.store = s.store ∧ t.ops = s.ops ∧
      (∀ l < 64, r.mask.getLsbD l = true → r.exits.getLsbD l = false → r.caller.getLsbD l = false →
        ∃ e ∈ g'.pcs, e.mask.getLsbD l = true ∧ e.pc = r.nextPc l) ∧
      (r.arrive ≠ [] → ∀ l < 64, r.mask.getLsbD l = true → r.exits.getLsbD l = false → r.caller.getLsbD l = false →
        (∀ a ∈ r.arrive, a.sends = false) → ∃ e ∈ g'.pcs, e.mask.getLsbD l = true ∧ e.isHeld = true) ∧
      (∀ l < 64, r.mask.getLsbD l = true → r.exits.getLsbD l = true → ∀ e ∈ g'.pcs, e.mask.getLsbD l = false) ∧
      (∀ l < 64, r.caller.getLsbD l = true → r.exits.getLsbD l = false → { lane := l, j := r.callMask, pc := r.nextPc l } ∈ g'.parked) ∧
      (r.link = none → g'.regs = g.regs) ∧
      (∀ d, r.link = some d → ∀ l < 64, r.mask.getLsbD l = true →
        g'.regs.vreg (d + 1) l ++ g'.regs.vreg d l = (wordPc r.pc r.words.length).setWidth 64))

/-- RUNEND, waits, barriers, SPAWN and the run boundary: the three parts above. It rests on the model's choices of log entry 18. -/
def Obligations.RunsAndSpawns : Prop := runWordsRules ∧ spawnWordsRules ∧ runBoundaryRules

/-- R180, R181: FTEST gives the state code of its handle, or whether a blocking read of it would go on; FMOVG and GMOVF copy a handle, no check made; FCANCEL of anything but
a PENDING operation does nothing. -/
def handleWordsRules : Prop :=
  ∀ w s gid second g r,
    let h := g.regs.freg (fNum w.a)
    (∀ c, Runs (bodyOf (.ftest w)) s gid second g r → s.ctx? g.ctx = some c → ∃ g', exec (.ftest w) s = .next (s.afterWord gid second g') ∧
      g' = { g with regs := g'.regs } ∧
      (isG w.d = true → g'.regs = g.regs.setG (gReg w.d) (match c.live? h with
        | some f => match f.st with
          | .pending => 0
          | .ok => 1
          | .failed k => k.code.setWidth 64 * 256 + 2
          | .cancelled => 3
          | .unused => 4
        | none => if liveClass (hCls h) = true ∧ (c.fut (hTag h)).gen = hGen h ∧ (c.fut (hTag h)).st = .cancelled then 3 else 4)) ∧
      (isG w.d = false → g'.regs = g.regs.setK (kNum w.d) (match c.live? h with
        | some f => decide (f.st ≠ .pending)
        | none => true))) ∧
    (Runs (bodyOf (.fmovg w)) s gid second g r →
      exec (.fmovg w) s = .next (s.afterWord gid second { g with regs := g.regs.setG (gReg w.d) (h.setWidth 64) })) ∧
    (Runs (bodyOf (.gmovf w)) s gid second g r →
      exec (.gmovf w) s = .next (s.afterWord gid second { g with regs := g.regs.setF (fNum w.d) ((g.regs.greg (gReg w.a)).setWidth 32) })) ∧
    (∀ c, Runs (bodyOf (.fcancel w)) s gid second g r → s.ctx? g.ctx = some c → (∀ f, c.live? h = some f → f.st ≠ .pending) →
      exec (.fcancel w) s = .next (s.afterWord gid second g)) ∧
    (∀ c f o, Runs (bodyOf (.fcancel w)) s gid second g r → s.ctx? g.ctx = some c → c.live? h = some f → f.st = .pending → s.aops.get? f.op = some o →
      o.ctx = g.ctx → o.tag = hTag h → o.stage = .queued → (∃ a, o.kind = .copy a) →
      ∃ t c', exec (.fcancel w) s = .next t ∧ t.ctx? g.ctx = some c' ∧ (c'.fut (hTag h)).st = .cancelled ∧ t.aops.get? f.op = none ∧ t.mems = s.mems)

/-- R15, R93, R185, R192, R235, R415, R418 (Tables 3-7, 6-8, 6-9, 7-10 to 7-12, 18-2): what CSRR reads of each register, and what CSRW writes: STALLWD and LOGSTALL hold at least 1,024, a write of
TRACECTL without FLUSH sets its enables; TRACE_FLUSH allocates a handle that stands in FH. -/
def csrWordsRules : Prop :=
  ∀ w s gid second g r,
    (∀ c, Runs (bodyOf (.csrr w)) s gid second g r → s.ctx? g.ctx = some c →
      let val (n l : Nat) : Dword := match n with
        | 0x40 => s.pcc
        | 0x41 => g.fpstat.setWidth 64
        | 0x42 => g.stallwd.setWidth 64
        | 0x43 => BitVec.ofNat 64 l
        | 0x44 => BitVec.ofNat 64 ((64 * g.index + l) % 2 ^ 16)
        | 0x45 => BitVec.ofNat 64 (g.block % 2 ^ 32)
        | 0x46 => BitVec.ofNat 64 (g.launch % 2 ^ 16)
        | 0x47 => g.tcause.setWidth 64
        | 0x48 => g.tpc.setWidth 64
        | 0x49 => g.tlmask
        | 0x4A => g.trec
        | 0x80 => c.ixroot.setWidth 64
        | 0x81 => (s.cl (s.grpCluster g)).wcwin.setWidth 64
        | 0x82 => c.logstall.setWidth 64
        | _ => c.fh.setWidth 64 + (if c.hen then 2 ^ 32 else 0) + (if c.ben then 2 ^ 33 else 0)
      ∃ g', exec (.csrr w) s = .next (s.afterWord gid second g') ∧ g' = { g with regs := g'.regs } ∧
        (isG w.d = true → g'.regs = g.regs.setG (gReg w.d) (val (spNum 0 w.a) 0)) ∧
        (isG w.d = false → ∀ l < 64, r.mask.getLsbD l = true →
          readLane g'.regs .b32 w.d l = ((val (spNum 0 w.a) l).setWidth 32).setWidth 64)) ∧
    (∀ c, Runs (bodyOf (.csrw w)) s gid second g r → s.ctx? g.ctx = some c →
      let x := readG g.regs .b64 w.a
      let n := spNum 0 w.d
      (n = 0x41 → exec (.csrw w) s =
        .next (s.afterWord gid second { g with fpstat := x.setWidth 7 ||| (if g.tileFlAt = s.pcc then g.tileFl else 0) })) ∧
      (n = 0x42 → exec (.csrw w) s =
        .next (s.afterWord gid second { g with stallwd := BitVec.ofNat 48 (max 1024 (x.setWidth 48).toNat) })) ∧
      (n = 0x81 → ∃ t, exec (.csrw w) s = .next t ∧ (t.cl (s.grpCluster g)).wcwin = x.setWidth 12 ∧ t.grp gid = some (g.moved second 1) ∧
        t.mems = s.mems ∧ t.store = s.store ∧ t.ctxs = s.ctxs) ∧
      (n = 0x82 → ∃ t, exec (.csrw w) s = .next t ∧ t.ctx? g.ctx = some { c with logstall := BitVec.ofNat 32 (max 1024 (x.setWidth 32).toNat) } ∧
        t.grp gid = some (g.moved second 1) ∧ t.mems = s.mems ∧ t.store = s.store)) ∧
    (∀ c, ∀ p ∈ ([(.csrw w, decide (spNum 0 w.d = 0x83), readG g.regs .b64 w.a), (.traceFlush w, true, g.regs.greg (gReg w.a))] :
        List (Instr × Bool × Dword)), Runs (bodyOf p.1) s gid second g r → p.2.1 = true → s.ctx? g.ctx = some c →
      let x := p.2.2
      (x.getLsbD 40 = false → ∃ t, exec p.1 s = .next t ∧
        t.ctx? g.ctx = some { c with hen := x.getLsbD 32, ben := x.getLsbD 33 } ∧ t.grp gid = some (g.moved second 1) ∧ t.mems = s.mems) ∧
      (x.getLsbD 40 = true → (c.fut c.nextTag).st ≠ .pending → c.nextTag < 4096 →
        ∃ t c' o, exec p.1 s = .next t ∧ t.ctx? g.ctx = some c' ∧ c'.hen = x.getLsbD 32 ∧ c'.ben = x.getLsbD 33 ∧
        c'.fh = mkHandle 0xA c.nextTag ((c.fut c.nextTag).gen + 1) ∧ (c'.fut c.nextTag).st = .pending ∧ t.aops.get? s.fresh = some o ∧
        o.kind = .flush ∧ o.tag = c.nextTag ∧ t.grp gid = some (g.moved second 1) ∧ t.mems = s.mems) ∧
      (x.getLsbD 40 = true → (c.fut c.nextTag).st = .pending → ∃ t, exec p.1 s = .next t ∧
        t.grp gid = some (g.setRun second (some { r with wait := .stay false })) ∧ t.mems = s.mems))

/-- R287, R288: SQPOST adds its message to the mailbox behind those that are there; SQWAIT takes the first one when its poster's release is complete, and under TRY
says whether it did. -/
def mailboxWordsRules : Prop :=
  ∀ w s gid second g r,
    let cl := s.grpCluster g
    let box (t : State) (m : Nat) : List MailPlace := (t.cl cl).mail.getD [] m
    let m := w.imm.toNat % 16
    (Runs (bodyOf (.sqpostGroup w)) s gid second g r → ∃ t p, exec (.sqpostGroup w) s = .next t ∧ box t m = box s m ++ [p] ∧
      p.msg = readG g.regs .b64 w.a ∧ p.ready = false ∧ (∀ k, k ≠ m → box t k = box s k) ∧ t.grp gid = some (g.moved second 1) ∧
      t.mems = s.mems ∧ t.store = s.store ∧ t.ctxs = s.ctxs) ∧
    (Runs (bodyOf (.sqwaitGroup w)) s gid second g r →
      (∀ p ps, box s m = p :: ps → s.takeable cl p = true → ∃ t g', exec (.sqwaitGroup w) s = .next t ∧ box t m = ps ∧
        t.grp gid = some (g'.moved second 1) ∧ (w.mod.getLsbD 0 = false → g' = { g with regs := g.regs.setG (gReg w.d) p.msg }) ∧
        (w.mod.getLsbD 0 = true → g' = { g with regs := (g.regs.setG (gReg w.d) p.msg).setK (kNum w.b) true }) ∧ t.mems = s.mems) ∧
      ((∀ p ps, box s m = p :: ps → s.takeable cl p = false) → w.mod.getLsbD 0 = true →
        exec (.sqwaitGroup w) s = .next (s.afterWord gid second { g with regs := g.regs.setK (kNum w.b) false })))

/-- Future handles, CSRs and mailboxes: the three parts above. -/
def Obligations.HandlesCsrsAndMailboxes : Prop := handleWordsRules ∧ csrWordsRules ∧ mailboxWordsRules

/-! The issue engine's steps (R162 to R172, R182 to R191). -/

/-- A record of bytes is lodged at a log as a publication of its own (Table 1-8). -/
def lodged (t : State) (q log ctx addr : Nat) (bs : List Byte) : Prop :=
  ∃ rq, t.store.reqs.get? q = some rq ∧ rq.st = .waiting ∧ rq.kind = .solo ∧ rq.log = log ∧ rq.lines = plinesOf ctx addr bs ∧ q ∈ (t.log log).queue

/-- R162, R167: the candidate of a group is an entry that is not frozen: the first whose age is 64, or else the first that is neither held nor yielded. Among groups that could
win, the one that wins has the highest priority, and among those of its priority none stands before it: groups not served since they became resident go first, in that
order and in one cycle by context number, then the least recently served. -/
def candidateAndWinnerRules : Prop :=
  (∀ now es e, candidate now es = some e → e ∈ es ∧ e.frozen = false ∧
    (64 ≤ e.age ∨ (e.held = [] ∧ e.yielded now = false ∧ ∀ x ∈ es, x.frozen = false → x.age < 64))) ∧
  (∀ now es, candidate now es = none ↔ ∀ x ∈ es, x.frozen = true ∨ (x.age < 64 ∧ (x.held ≠ [] ∨ x.yielded now = true))) ∧
  (∀ cs b, bestOf cs = some b → b ∈ cs ∧ ∀ c ∈ cs, c.2.1.prio.toNat ≤ b.2.1.prio.toNat ∧ servesBefore c.2.1 b.2.1 = false ∧
    (c.2.1.prio = b.2.1.prio → (c.2.1.served = 0 → b.2.1.served = 0 ∧ b.2.1.joined ≤ c.2.1.joined ∧
        (b.2.1.joined = c.2.1.joined → b.2.1.slotNo ≤ c.2.1.slotNo)) ∧
      (c.2.1.served ≠ 0 → b.2.1.served ≤ c.2.1.served))) ∧
  (∀ cs, bestOf cs = none ↔ cs = [])

/-- R53, R54, R60, R163 to R165, R169, R275: RUN_ARBITRATION starts the candidate's run when it decodes and is ready, its registers x cleared and its wait mask satisfied; a run that does not
decode traps at its failing word and starts nothing. The entries it serves have age 0. A core whose ports are busy starts nothing, and no group of a block issues
before the block's stream has started. -/
def runStartsRules : Prop :=
  ∀ s core gid g e,
    (s.portsBusy core = true → exec (.runArbitration core) s = .next s) ∧
    (s.portsBusy core = false → s.coreGroups core = [(gid, g)] → s.grp gid = some g → g.mayRun = true → g.parked = [] → (s.slot core).flush = 0 →
      FMap.sorted s.groups = true → s.streamWaits g = true → exec (.runArbitration core) s = .next s) ∧
    (s.portsBusy core = false → s.coreGroups core = [(gid, g)] → s.grp gid = some g → g.mayRun = true → g.parked = [] → (s.slot core).flush = 0 →
      FMap.sorted s.groups = true → s.streamWaits g = false → candidate s.pcc g.pcs = some e →
      (∀ ws is, s.decodeRun core g.ctx g.nregs g.priv e.pc.toNat = .ok ws is → s.runReady core gid g e is = true → s.startTrap core g e is = none →
        ∃ t g' r, exec (.runArbitration core) s = .next t ∧ t.grp gid = some g' ∧ g'.run = some r ∧ r.pc = e.pc ∧ r.words = ws ∧ r.idx = 0 ∧
          r.mask = e.mask ∧ r.goto = [] ∧ r.wait = .none ∧ g'.regs = { g.regs with x := [] } ∧ g'.wmask = 0 ∧
          (∀ x ∈ g'.pcs, x.mask &&& e.mask ≠ 0 → x.age = 0) ∧ t.mems = s.mems ∧ t.store = s.store) ∧
      (∀ ws is, s.decodeRun core g.ctx g.nregs g.priv e.pc.toNat = .ok ws is → s.runReady core gid g e is = false →
        exec (.runArbitration core) s = .next s) ∧
      (∀ c ofs, s.decodeRun core g.ctx g.nregs g.priv e.pc.toNat = .trap c ofs →
        ∃ t g' tr, exec (.runArbitration core) s = .next t ∧ t.grp gid = some g' ∧ g'.run = none ∧ g'.trap = some tr ∧ tr.cause = c ∧ tr.ofs = ofs ∧
          tr.wpc = wordPc e.pc ofs ∧ tr.lanes = e.mask ∧ tr.mask = e.mask ∧ g'.regs = g.regs ∧ t.mems = s.mems ∧ t.store = s.store))

/-- Which run starts, and how: the two parts above. It rests on the model's choices of log entries 15, 16. -/
def Obligations.RunChoice : Prop := candidateAndWinnerRules ∧ runStartsRules

/-- R127, R131, R133, R134, R166, Table 4-3: RUN_RESUME lets a waiting run go on when its condition is met and its core's ports are free, after every waiting run and ready
group of higher priority; a release at `.di` or wider first asks for its publication. A fence before an SO access gives way to the access, the one after it, and a
release whose publication has its space, to the next word. Otherwise nothing changes. -/
def runResumesRules : Prop :=
  ∀ s gid g r, s.grp gid = some g → g.run = some r →
    let core := s.grpCore g
    let above := (∃ p ∈ s.resumers core, g.prio.toNat < p.2.prio.toNat) ∨ ∃ p ∈ s.contenders core, g.prio.toNat < p.2.1.prio.toNat
    let ok := s.resumeOk gid g r = true ∧ s.portsBusy core = false ∧ ¬ above
    (∀ sc upto acq so, r.wait = .fence sc upto none acq so → scopeWide sc = true → s.relHeld gid upto = true → exec (.runResume gid) s = .next s) ∧
    (∀ sc upto acq so, r.wait = .fence sc upto none acq so → scopeWide sc = true → s.relHeld gid upto = false → ∃ t rq, exec (.runResume gid) s = .next t ∧
      t.grp gid = some { g with run := some { r with wait := .fence sc upto (some s.fresh) acq so } } ∧ t.store.reqs.get? s.fresh = some rq ∧
      rq.kind = .batch ∧ rq.log = s.grpCluster g ∧ rq.upto = s.fresh ∧ t.mems = s.mems) ∧
    (∀ sc upto req acq so, r.wait = .fence sc upto req acq so → (scopeWide sc = false ∨ req ≠ none) → ok →
      (so = 1 → acq = false → exec (.runResume gid) s = .next (s.setGrp gid { g with run := some { r with wait := .none, soDone := true } })) ∧
      (so = 2 → acq = false → exec (.runResume gid) s =
        .next (s.setGrp gid { g with run := some { r with wait := .none, soDone := false, idx := r.idx + 1 } })) ∧
      (so = 0 → r.atEnd = true → exec (.runResume gid) s = .next (s.setGrp gid { g with run := some { r with wait := .none, released := true } })) ∧
      (so = 0 → r.atEnd = false → acq = false →
        exec (.runResume gid) s = .next (s.setGrp gid { g with run := some { r with wait := .none, idx := r.idx + 1 } })) ∧
      (so = 0 → r.atEnd = false → acq = true → ∃ t, exec (.runResume gid) s = .next t ∧
        t.grp gid = some { g with run := some { r with wait := .none, idx := r.idx + 1 } } ∧ t.mems = s.mems ∧ t.store = s.store)) ∧
    (∀ op, r.wait = .release op → ok → exec (.runResume gid) s = .next (s.setGrp gid { g with run := some { r with wait := .none, idx := r.idx + 1 } })) ∧
    (∀ k, r.wait = .park k ∨ (∃ till, r.wait = .logSpace till) → ok →
      exec (.runResume gid) s = .next (s.setGrp gid { g with run := some { r with wait := .none } })) ∧
    (¬ ok → (∀ sc upto acq so, r.wait = .fence sc upto none acq so → scopeWide sc = false) → exec (.runResume gid) s = .next s) ∧
    (∀ k, r.wait = .stay k → exec (.runResume gid) s = .next s)

/-- R187 to R189: TRAP_TAKE waits until the group has drained, then lodges the trap's record at TREC; once it is published, TCAUSE, TPC and TLMASK are set and the group
enters its handler, its lanes in one entry there and every other entry frozen; with no handler it stops and its launch fails. A trap in a handler stops
the group without a record. A deferred trap is taken when no other trap stands, the oldest first, and names the lanes of the candidate, or else of the head. -/
def trapTakingRules : Prop :=
  (∀ (g : Group) (t : Trap) (now : BitVec 64),
    let rec_ := trapRecord g t now
    let at_ (o n : Nat) : Nat := natOfBytes ((rec_.drop o).take n)
    rec_.length = 128 ∧ at_ 0 1 = t.cause.code.toNat ∧ at_ 0x10 8 = t.wpc.toNat ∧ at_ 0x20 8 = t.lanes.toNat ∧ at_ 0x28 8 = now.toNat ∧
      at_ 0x30 8 = t.detail0.toNat ∧ at_ 0x38 8 = t.detail1.toNat ∧ at_ 0x40 8 = t.detail2.toNat) ∧
  (∀ s gid g t ts, s.grp gid = some g → g.run = none → g.run2 = none → g.stopped = false → g.trap = none → g.deferred = t :: ts → t.req = none →
    s.drained gid { g with trap := some t, deferred := ts } = true → g.parked = [] → t.mask ≠ 0 → g.handler = false → ∃ u, exec (.trapTake gid) s = .next u ∧
      u.grp gid = some { g with trap := some { t with req := some s.fresh, stamp := s.pcc }, deferred := ts }) ∧
  (∀ s gid g t, s.grp gid = some g → g.run = none → g.run2 = none → g.stopped = false → g.trap = some t →
    let g1 : Group := { g with
      tcause := BitVec.ofNat 32 (t.cause.code.toNat + (if t.deferred then 256 else 0) + t.ofs * 2 ^ 16), tpc := t.wpc, tlmask := t.lanes }
    (t.req = none → s.drained gid g = false → exec (.trapTake gid) s = .next s) ∧
    (t.req = none → s.drained gid g = true → g.parked = [] → t.mask ≠ 0 → g.handler = false → ∃ u, exec (.trapTake gid) s = .next u ∧
      u.grp gid = some { g with trap := some { t with req := some s.fresh, stamp := s.pcc } } ∧
      lodged u s.fresh (s.grpCluster g) g.ctx g.trec.toNat (trapRecord g t s.pcc) ∧ u.mems = s.mems) ∧
    (∀ e, t.req = none → s.drained gid g = true → g.parked = [] → t.mask = 0 → (candidate s.pcc g.pcs).or g.pcs.head? = some e → g.handler = false →
      let t' : Trap := if t.deferred then { t with mask := e.mask } else { t with mask := e.mask, wpc := e.pc, lanes := e.mask }
      ∃ u, exec (.trapTake gid) s = .next u ∧ u.grp gid = some { g with trap := some { t' with req := some s.fresh, stamp := s.pcc } } ∧
        lodged u s.fresh (s.grpCluster g) g.ctx g.trec.toNat (trapRecord g t' s.pcc) ∧ u.mems = s.mems) ∧
    (t.req = none → s.drained gid g = true → g.parked = [] → t.mask ≠ 0 → g.handler = true → ∃ u, exec (.trapTake gid) s = .next u ∧
      u.grp gid = some { g1 with trap := none, stopped := true, stopReq := true } ∧ u.store = s.store ∧ u.mems = s.mems) ∧
    (∀ q, t.req = some q → s.reqSt q ≠ .complete → exec (.trapTake gid) s = .next s) ∧
    (∀ q h, t.req = some q → s.reqSt q = .complete → s.handlerPc g = some h → ∃ u g', exec (.trapTake gid) s = .next u ∧ u.grp gid = some g' ∧
      g' = { g1 with handler := true, trap := none, stallFrom := s.pcc, pcs := g'.pcs } ∧
      (∀ l < 64, t.mask.getLsbD l = true → ∃ e ∈ g'.pcs, e.mask.getLsbD l = true ∧ e.pc = h ∧ e.frozen = false ∧ e.held = []) ∧
      (∀ e ∈ g'.pcs, e.frozen = false → e.mask = t.mask ∧ e.pc = h ∧ e.age = 0 ∧ e.yield = none) ∧
      (∀ l < 64, t.mask.getLsbD l = false → ∀ e ∈ g.pcs, e.mask.getLsbD l = true →
        ∃ e' ∈ g'.pcs, e'.mask.getLsbD l = true ∧ e'.pc = e.pc ∧ e'.frozen = true) ∧ u.mems = s.mems ∧ u.store = s.store) ∧
    (∀ q l, t.req = some q → s.reqSt q = .complete → s.handlerPc g = none → s.launches.get? g.launch = some l → l.failure = none →
      ∃ u l', exec (.trapTake gid) s = .next u ∧ u.grp gid = some { g1 with trap := none, stopped := true, stopReq := true } ∧
        u.launches.get? g.launch = some l' ∧ l'.failure = some (t.stamp.toNat, g.block, t.cause) ∧ u.mems = s.mems ∧ u.store = s.store))

/-- R171, R182, R183, R185: a yield count that has reached zero is gone; a barrier whose phase is complete releases the entries that wait for it and no other; a resident group that has
waited STALLWD cycles, between its runs or within one, traps STALL, and not before. -/
def yieldBarrierStallRules : Prop :=
  (∀ s gid g idx e, s.grp gid = some g → g.run = none → g.run2 = none → g.pcs[idx]? = some e →
    (e.yielded s.pcc = false → exec (.yieldExpire gid idx) s = .next (s.setGrp gid { g with pcs := g.pcs.set idx { e with yield := none } })) ∧
    (e.yielded s.pcc = true → exec (.yieldExpire gid idx) s = .next (s.setGrp gid g))) ∧
  (∀ s bar b, s.bars.get? bar = some b →
    (b.complete = [] → exec (.barrierRelease bar) s = .next s) ∧
    (b.complete ≠ [] → FMap.sorted s.groups = true → ∃ t, exec (.barrierRelease bar) s = .next t ∧ t.bars.get? bar = some { b with complete := [] } ∧ t.mems = s.mems ∧
      ∀ gid g, s.grp gid = some g → ∃ g', t.grp gid = some g' ∧ g'.regs = g.regs ∧ g'.run = g.run ∧
        ((∀ e ∈ g.pcs, ∀ p ∈ e.held, p.1 ∉ b.complete) → g' = g) ∧
        (∀ e ∈ g'.pcs, ∀ p ∈ e.held, p.1 ∉ b.complete) ∧
        (∀ e ∈ g.pcs, (∃ p ∈ e.held, p.1 ∈ b.complete) → ∀ l < 64, e.mask.getLsbD l = true → (∀ p ∈ e.held, p.1 ∉ b.complete → p.2.getLsbD l = false) →
          ∃ e' ∈ g'.pcs, e'.mask.getLsbD l = true ∧ e'.pc = e.pc ∧ e'.isHeld = false) ∧
        (∀ e ∈ g.pcs, ∀ l < 64, e.mask.getLsbD l = true → ∃ e' ∈ g'.pcs, e'.mask.getLsbD l = true ∧ e'.pc = e.pc))) ∧
  (∀ s gid g c k, s.grp gid = some g → g.place = .resident c k →
    (s.due (g.stallFrom + g.stallwd.setWidth 64) = false → exec (.stall gid) s = .next s) ∧
    (∀ r, g.run = some r → r.wait = .none → exec (.stall gid) s = .next s) ∧
    (g.run = none ∨ (∃ r, g.run = some r ∧ r.wait ≠ .none) → (∀ x, g.run2 = some x → x.finished = true) → g.trap = none → g.stopped = false → g.pcs ≠ [] →
      s.due (g.stallFrom + g.stallwd.setWidth 64) = true → ∃ t tr, exec (.stall gid) s = .next t ∧
      t.grp gid = some { g with run := none, trap := some tr } ∧ tr.cause = .stall ∧ tr.deferred = false ∧ t.mems = s.mems ∧ t.store = s.store))

/-- R191, R394, R448: a group whose block is to be pre-empted is asked for at once; at a run boundary, drained, its image is lodged at its save area; once that is
published it leaves its core. A saved group returns to a free context of a core of its cluster with its registers, entries and ages, its yields zero. -/
def saveAndRestoreRules : Prop :=
  ∀ s gid g b, s.grp gid = some g → s.blocks.get? g.blockKey = some b →
    (∀ c k, g.place = .resident c k →
      (b.ask = true → exec (.preemptRequest gid) s = .next (s.setGrp gid { g with saveReq := true })) ∧
      (b.ask = false → g.moveTo = none → exec (.preemptRequest gid) s = .next s) ∧
      (g.saveReq = true → g.run = none → g.run2 = none → g.trap = none → g.deferred = [] → g.stopped = false → g.parked = [] →
        (s.drained gid g = false → exec (.groupSave gid) s = .next s) ∧
        (s.drained gid g = true → ∃ t, exec (.groupSave gid) s = .next t ∧
          t.grp gid = some { g with place := .saving c k, saveOp := some s.fresh, stallFrom := s.pcc - g.stallFrom } ∧
          lodged t s.fresh (s.grpCluster g) g.ctx (g.trec.toNat + 0x80) (saveImage s g) ∧ t.mems = s.mems)) ∧
      (g.run ≠ none → exec (.groupSave gid) s = .next s)) ∧
    (∀ c k q, g.place = .saving c k → g.saveOp = some q →
      (s.reqSt q ≠ .complete → exec (.groupSave gid) s = .next s) ∧
      (s.reqSt q = .complete → ∃ t, exec (.groupSave gid) s = .next t ∧ t.grp gid = some { g with place := .saved, saveOp := none, saveReq := false } ∧
        t.mems = s.mems ∧ t.store = s.store)) ∧
    (∀ core k c, g.place = .saved → s.freeSlot core = some k → s.ctx? g.ctx = some c → c.quiet = .running → g.moveTo = none → b.cluster = coreCluster core →
      b.held = false → b.ask = false → (b.resident = true ∨ restoreFirst s b g.prio = true) → s.regsUsed core + g.nregs ≤ 1024 → restoreCore s g core = true →
      (s.cl b.cluster).saves.get? g.blockKey = none →
      ∃ t g', exec (.groupRestore gid core) s = .next t ∧ t.grp gid = some g' ∧ g'.place = .resident core k ∧ g'.regs = g.regs ∧ g'.handler = g.handler ∧
        (∀ e ∈ g.pcs, ∀ l < 64, e.mask.getLsbD l = true → ∃ e' ∈ g'.pcs, e'.mask.getLsbD l = true ∧ e'.pc = e.pc ∧ e'.isHeld = e.isHeld ∧ (∀ p ∈ e.held, p ∈ e'.held) ∧
          e'.frozen = e.frozen ∧ e.age ≤ e'.age) ∧ (∀ e' ∈ g'.pcs, e'.yield = none) ∧ t.mems = s.mems ∧ t.store = s.store)

/-- Taking a trap, and pre-emption, save and restore of a group: the two parts above. It rests on the model's choices of log entries 17, 43, 59. -/
def Obligations.TrapsSavesAndRestores : Prop := trapTakingRules ∧ saveAndRestoreRules

/-- R177, R234, R386, R387: a group with no live and no parked lane and every counter zero ends and frees its context; a group with an outstanding operation
stays. A word that has waited LOGSTALL cycles for log space traps LOGFULL, and not before. -/
def groupEndAndLogstallRules : Prop :=
  (∀ s gid g, s.grp gid = some g → g.run = none → g.run2 = none → g.trap = none → g.saveOp = none → g.pcs = [] → g.parked = [] → g.deferred = [] →
    (∀ p ∈ s.pkts, p.2.gid ≠ gid) →
    (g.loads + g.stores + g.copies + g.tiles ≠ 0 → exec (.groupEnd gid) s = .next s) ∧
    (g.loads + g.stores + g.copies + g.tiles = 0 → ∃ t, exec (.groupEnd gid) s = .next t ∧ t.grp gid = none ∧
      (∀ k, k ≠ gid → t.grp k = s.grp k) ∧ t.mems = s.mems ∧ t.store = s.store)) ∧
  (∀ s gid g r till, s.grp gid = some g → g.run = some r → r.wait = .logSpace till →
    (∀ p ∈ s.store.reqs, p.2.log < 320 ∧ p.2.gid ≠ some gid) → (∀ p ∈ s.aops, p.2.gid ≠ some gid) →
    (s.due till = false → exec (.logstallExpire gid) s = .next s) ∧
    (s.due till = true → ∃ tr, exec (.logstallExpire gid) s = .next (s.afterTrap gid g tr) ∧ tr.cause = .logfull ∧ tr.deferred = false ∧
      tr.lanes = (s.logLines g r).2.1 ∧ tr.wpc = wordPc r.pc r.idx))

/-- Waits inside runs, yields, barriers, watchdogs and the end of a group: the three parts above. It rests on the model's choices of log entries 17, 59. -/
def Obligations.RunWaits : Prop := runResumesRules ∧ yieldBarrierStallRules ∧ groupEndAndLogstallRules

/-! Translation and migration (R205, R363 to R380). -/

/-- The handle that the next operation of a class in a context takes (R17, R18). -/
def nextHandle (c : Ctx) (cls : BitVec 4) : Word := mkHandle cls c.nextTag ((c.fut c.nextTag).gen + 1)

/-- R16 to R18, R24: word i starts an operation: the next entry of the future table becomes PENDING, its handle stands in the f-register, the operation is in
its engine, and the copies class counts one more where the operation counts. While that entry is PENDING the word waits. -/
def starts (i : Instr) (s : State) (gid : Nat) (second : Bool) (g : Group) (r : Run) (c : Ctx) (d : Opnd) (cls : BitVec 4) (counts : Bool)
    (kind : AKind) (stage : AStage) : Prop :=
  ((c.fut c.nextTag).st ≠ .pending → c.nextTag < 4096 → ∃ t c' o, exec i s = .next t ∧
    t.grp gid = some ({ g with regs := g.regs.setF (fNum d) (nextHandle c cls), copies := g.copies + (if counts then 1 else 0) }.moved second 1) ∧
    t.ctx? g.ctx = some c' ∧ (c'.fut c.nextTag).st = .pending ∧ (c'.fut c.nextTag).gen = (c.fut c.nextTag).gen + 1 ∧
    t.aops.get? s.fresh = some o ∧ o.kind = kind ∧ o.stage = stage ∧ o.ctx = g.ctx ∧ o.tag = c.nextTag ∧ o.gid = some gid ∧ t.mems = s.mems) ∧
  ((c.fut c.nextTag).st = .pending → exec i s = .next (s.setGrp gid (g.setRun second (some { r with wait := .stay false }))))

/-- R18, R24: word i takes a handle whose entry is in state st at once; no class counts it. -/
def answers (i : Instr) (s : State) (gid : Nat) (second : Bool) (g : Group) (c : Ctx) (d : Opnd) (cls : BitVec 4) (st : FutSt) : Prop :=
  (c.fut c.nextTag).st ≠ .pending → c.nextTag < 4096 → ∃ t c', exec i s = .next t ∧
    t.grp gid = some ({ g with regs := g.regs.setF (fNum d) (nextHandle c cls) }.moved second 1) ∧
    t.ctx? g.ctx = some c' ∧ (c'.fut c.nextTag).st = st ∧ (c'.fut c.nextTag).gen = (c.fut c.nextTag).gen + 1 ∧ t.mems = s.mems ∧ t.store = s.store

/-- R187: word i of the primary run traps with a cause in every lane of the run. -/
def trapsAll (i : Instr) (s : State) (gid : Nat) (g : Group) (r : Run) (c : Cause) : Prop :=
  ∃ tr, exec i s = .next (s.afterTrap gid g tr) ∧ tr.cause = c ∧ tr.deferred = false ∧ tr.lanes = r.mask ∧ tr.mask = r.mask ∧
    tr.wpc = wordPc r.pc r.idx

/-- R367, R368: TLOCK of no bytes succeeds; of a range beyond 2^48 it traps NOMAP; where every leaf can be locked it locks each once more, records the range and sets
its k-bit, and otherwise it clears the k-bit and locks nothing. TUNLOCK takes away the first record of its range, with one lock of each of its leaves. -/
def lockWordsRules : Prop :=
  ∀ w s gid g r b,
    let x := (g.regs.greg (gReg w.a)).toNat
    let n := (g.regs.greg (gReg w.b)).toNat
    let cl := s.grpCluster g
    let ls := leavesOf g.ctx x n
    let fits := (x + n - 1) / 4096 - x / 4096 + 1 ≤ 1024 ∧ b.locks.length < 64 ∧ lockFits (s.cl cl).lib ls = true
    (Runs (bodyOf (.tlock w)) s gid false g r → s.blocks.get? g.blockKey = some b →
      (n = 0 → exec (.tlock w) s = .next (s.afterWord gid false { g with regs := g.regs.setK (kNum w.d) true })) ∧
      (n ≠ 0 → 2 ^ 48 < x + n → trapsAll (.tlock w) s gid g r .nomap) ∧
      (n ≠ 0 → x + n ≤ 2 ^ 48 → fits → ∃ t g' k o, exec (.tlock w) s = .next t ∧ t.grp gid = some (g'.moved false 1) ∧
        g' = { g with regs := g.regs.setK (kNum w.d) true, loads := g.loads + 1 } ∧ t.ops.get? k = some o ∧ o.kind = .tlock ∧ o.gid = gid ∧
        (∀ l ∈ ls, ∃ lf, (t.cl cl).lib.get? l = some lf ∧ lf.locks = (((s.cl cl).lib.get? l).map (·.locks)).getD 0 + 1) ∧
        t.blocks.get? g.blockKey = some { b with locks := b.locks ++ [{ base := x, len := n, leaves := ls }] } ∧ t.mems = s.mems ∧ t.store = s.store) ∧
      (n ≠ 0 → x + n ≤ 2 ^ 48 → ¬ fits → exec (.tlock w) s = .next (s.afterWord gid false { g with regs := g.regs.setK (kNum w.d) false }))) ∧
    (Runs (bodyOf (.tunlock w)) s gid false g r → s.blocks.get? g.blockKey = some b →
      ((∀ k ∈ b.locks, ¬ (k.base = x ∧ k.len = n)) → exec (.tunlock w) s = .next (s.afterWord gid false g)) ∧
      (∀ k pre post, b.locks = pre ++ k :: post → k.base = x → k.len = n → (∀ y ∈ pre, ¬ (y.base = x ∧ y.len = n)) → k.leaves.Nodup →
        ∃ t, exec (.tunlock w) s = .next t ∧ t.blocks.get? g.blockKey = some { b with locks := pre ++ post } ∧
          (∀ l ∈ k.leaves, ∀ lf, (s.cl b.cluster).lib.get? l = some lf → (t.cl b.cluster).lib.get? l = some { lf with locks := lf.locks - 1 }) ∧
          t.grp gid = some (g.moved false 1) ∧ t.mems = s.mems ∧ t.store = s.store))

/-- R376, R377: TPROBE traps ALIGN off a multiple of 16, then SPACE where its result has no room in cluster memory, and otherwise starts; its result stands there
when its future is DONE. MIGR traps NOMAP beyond 2^48, of no bytes it is DONE at once, and otherwise it starts. -/
def probeAndMigrateWordsRules : Prop :=
  ∀ (w : Ctl) (s : State) gid second (g : Group) r c,
    let a : Nat := (g.regs.greg (gReg w.a)).toNat
    let b : Nat := (g.regs.greg (gReg w.b)).toNat
    (Runs (bodyOf (.tprobe w)) s gid second g r → s.ctx? g.ctx = some c →
      (second = false → b % 16 ≠ 0 → trapsAll (.tprobe w) s gid g r .align) ∧
      (second = false → b % 16 = 0 → s.padOk g.launch (s.grpCore g) .cm b 16 = false → trapsAll (.tprobe w) s gid g r .space) ∧
      (b % 16 = 0 → s.padOk g.launch (s.grpCore g) .cm b 16 = true → starts (.tprobe w) s gid second g r c w.d 5 false (.tprobe a b) .running)) ∧
    (Runs (bodyOf (.migr w)) s gid second g r → s.ctx? g.ctx = some c →
      (second = false → 2 ^ 48 < a + b → trapsAll (.migr w) s gid g r .nomap) ∧
      (a + b ≤ 2 ^ 48 → b = 0 → answers (.migr w) s gid second g c w.d 5 .ok) ∧
      (a + b ≤ 2 ^ 48 → b ≠ 0 → starts (.migr w) s gid second g r c w.d 5 false (.migr a b (w.mod.getLsbD 0) (a / 131072)) .running)) ∧
    (∀ op o x y, s.aops.get? op = some o → o.kind = .tprobe x y → s.ctx? o.ctx = some c → (c.fut o.tag).op = op → (c.fut o.tag).st = .pending →
      (c.fut o.tag).gid = none → ∃ t c', exec (.tprobeResult op) s = .next t ∧ t.aops.get? op = none ∧ t.ctx? o.ctx = some c' ∧ (c'.fut o.tag).st = .ok ∧
        (∀ k < 16, (t.mems.cm).read (o.cluster * 6291456 + y + k) = (s.probeBytes o.cluster o.ctx x).getD k 0) ∧
        (∀ k, k < o.cluster * 6291456 + y ∨ o.cluster * 6291456 + y + 16 ≤ k → t.mems.cm.read k = s.mems.cm.read k) ∧ t.store = s.store)

/-- R204, R205, R217, R364, R367: a walk of a missing leaf, unless 64 are in progress, gives it a way whose fill is on the way; a fill waits while the line that missed is PREP at
its home, and then takes the home's 16 entries and the page's header and keeps the way's lock count; the last fill of a TLOCK takes its operation out of the loads
class. -/
def walksAndFillsRules : Prop :=
  ∀ (s : State) cl leaf h, s.pageHdr (pageOfLeaf leaf) = some h →
    ((s.cl cl).lib.get? leaf = none → 64 ≤ s.walksOf (clusterDie cl) → exec (.translationWalk cl leaf) s = .next s) ∧
    ((s.cl cl).lib.get? leaf = none → s.walksOf (clusterDie cl) < 64 → ∃ t lf, exec (.translationWalk cl leaf) s = .next t ∧ (t.cl cl).lib.get? leaf = some lf ∧ lf.landed = false ∧
      lf.hdr = h ∧ lf.locks = 0 ∧ lf.miss = s.missLine cl leaf ∧ t.mems = s.mems ∧ t.store = s.store) ∧
    (∀ lf, (s.cl cl).lib.get? leaf = some lf →
      exec (.translationWalk cl leaf) s = .next s ∧
      (lf.landed = true → exec (.libFill cl leaf) s = .next s) ∧
      (∀ lk, lf.landed = false → lf.miss = some lk → s.prepAt lk = true → ∃ t, exec (.libFill cl leaf) s = .next t ∧ t.clusters = s.clusters ∧ t.mems = s.mems ∧
        (∀ x, s.store.preps.get? lk = some x → ∃ x', t.store.preps.get? lk = some x' ∧ .fill cl leaf ∈ x'.readers)) ∧
      (lf.landed = false → (∀ lk, lf.miss = some lk → s.prepAt lk = false) → ∃ t lf', exec (.libFill cl leaf) s = .next t ∧ (t.cl cl).lib.get? leaf = some lf' ∧ lf'.landed = true ∧ lf'.hdr = h ∧
        lf'.locks = lf.locks ∧ lf'.ents = s.homeLeafEnts leaf ∧ t.mems = s.mems ∧ t.store.recs = s.store.recs ∧
        ((∀ lk, lf.miss = some lk → s.store.preps.get? lk = none) → t.store.leaves = s.store.leaves))) ∧
    (∀ op o g, s.ops.get? op = some o → o.kind = .tlock → s.grp o.gid = some g →
      let landed (p : Part) : Prop := ∀ lf, (s.cl (s.grpCluster g)).lib.get? (leafKey g.ctx p.addr) = some lf → lf.landed = true
      ((∀ p ∈ o.parts, landed p) → exec (.tlockFillLand op) s =
        .next ({ s with ops := s.ops.erase op }.setGrp o.gid { g with loads := g.loads - 1 })) ∧
      ((∃ p ∈ o.parts, ¬ landed p) → exec (.tlockFillLand op) s = .next s))

/-- R370 to R373, R375: a fault unit asks once for a page that its waiters want, and the home joins it to a migration; a promotion or demotion appends the page's lines, as its home holds them, in the
other tier and asks for one migration publication; its commit replays the waiters and counts, its notice reaches nobody before; a CANCEL fails its waiter. -/
def pageMigrationRules : Prop :=
  ∀ (s : State) die page,
    ((∃ w ∈ s.waiters, w.2.die = die ∧ w.2.page = page ∧ w.2.requested = false ∧ isFwd w.2.who = false) → (s.pageEntries die).length < 256 →
      ∃ t m, exec (.pageRequest die page) s = .next t ∧ t.migs.get? page = some m ∧ die ∈ m.dies ∧
        (∀ w ∈ t.waiters, w.2.die = die → w.2.page = page → isFwd w.2.who = false → w.2.requested = true) ∧ t.waiters.length = s.waiters.length ∧
        t.mems = s.mems ∧ t.store = s.store ∧ t.groups = s.groups) ∧
    (∀ m h u ls, s.migrAt false page = none → s.migs.get? page = some m → m.req = none → m.toCap = false → m.failed = none → m.xfer = none →
      s.pageHdr page = some h → s.copyLines (migLog h) h.home.toNat false 2 (s.pageLines page) = some (u, ls) →
      ∃ t rq, exec (.pagePromote page) s = .next t ∧ t.migs.get? page = some { m with req := some u.fresh } ∧ t.store.reqs.get? u.fresh = some rq ∧
        rq.lines = withHdr { h with tier := false, lcnt := 0, rcnt := 0 } ls ∧ rq.rkind = 2 ∧ rq.kind = .solo ∧ rq.log = migLog h ∧
        t.store.leaves = s.store.leaves ∧ t.store.pages = s.store.pages ∧ t.mems = s.mems) ∧
    (∀ h u ls stack, s.migrAt true page = none → s.store.pages.get? page = some h → s.sys.demen = true → (s.stack stack).pool < s.sys.demlo.toNat →
      s.demotable stack page h = true →
      (∀ p ∈ s.store.pages, s.demotable stack p.1 p.2 = true → demoteRank page h ≤ demoteRank p.1 p.2) →
      s.copyLines (migLog h) h.home.toNat true 2 (s.pageLines page) = some (u, ls) →
      ∃ t m rq, exec (.pageDemote stack page) s = .next t ∧ t.migs.get? page = some m ∧ m.toCap = true ∧ m.req = some u.fresh ∧
        t.store.reqs.get? u.fresh = some rq ∧ rq.lines = withHdr { h with tier := true, lcnt := 0, rcnt := 0 } ls ∧ rq.rkind = 2 ∧
        t.store.leaves = s.store.leaves ∧ t.store.pages = s.store.pages ∧ t.mems = s.mems) ∧
    (∀ m q, s.migs.get? page = some m → m.dies = [die] → m.req = some q → m.xfer = none → m.failed = none →
      (s.reqSt q ≠ .complete → exec (.migrationCommitNotice die page) s = .next s) ∧
      (s.reqSt q = .complete → m.op = none → (∀ w ∈ s.waiters, w.2.die = die → w.2.page = page → ∃ gid, w.2.who = .group gid) →
        ∃ t h, exec (.migrationCommitNotice die page) s = .next t ∧ t.migs.get? page = none ∧ h = ((s.store.pages.get? page).map (·.home.toNat)).getD 0 ∧
          (t.die h).migrated = (s.die h).migrated + 1 ∧ t.waiters = s.waiters.filter (fun w => ¬ (w.2.die = die ∧ w.2.page = page)) ∧
          t.mems = s.mems ∧ t.store = s.store ∧ t.groups = s.groups)) ∧
    (∀ k w gid g r, s.waiters.get? k = some w → w.die = die → w.who = .group gid → s.grp gid = some g → g.run = some r →
      (w.cancel = false → exec (.faultCancel die k) s = .next s) ∧
      (w.cancel = true → ∃ tr, exec (.faultCancel die k) s = .next ({ s with waiters := s.waiters.erase k }.afterTrap gid g tr) ∧ tr.cause = .cancelled ∧
        tr.wpc = wordPc r.pc r.idx))

/-- R353, R363, R374, R378 to R380: a peer's load is answered with the home's bytes, waits while the line is PREP, parks on a page of the capacity tier, and is passed on
where the page has moved; at an epoch tick every page counter is halved; a transfer first stops the page's grants and then, once no line of it is prepared, sends its
lines; the new owner publishes them with the header and then tells the old one, which publishes its header; a dirty leaf that its home evicts is written back, its
entries unchanged. -/
def ownershipAndEpochsRules : Prop :=
  (∀ s msg m op lane ctx addr width, s.inbox.get? msg = some m → m.body = .load op lane ctx addr width →
    let lk := lineKey ctx addr
    (s.isRemote lk = true → ∃ t k x, exec (.forwardedAccess msg) s = .next t ∧ t.inbox.get? msg = some { m with body := .passed op lane (s.ownerOf lk) } ∧
      t.outbox.get? k = some x ∧ x.peer = s.ownerOf lk ∧ x.body = .load msg fwdLane ctx addr width ∧ t.mems = s.mems ∧ t.store = s.store) ∧
    (s.isRemote lk = false → s.capPage (pageOfLine lk) = true → (∀ w ∈ s.waiters, w.2.who ≠ .peer msg) → ∃ t n w k x,
      exec (.forwardedAccess msg) s = .next t ∧ t.waiters.get? n = some w ∧ w.who = .peer msg ∧ w.page = pageOfLine lk ∧ w.requested = false ∧
      t.outbox.get? k = some x ∧ x.peer = m.peer ∧ x.body = .parked op lane (pageOfLine lk) ∧ t.inbox = s.inbox ∧ t.mems = s.mems) ∧
    (s.isRemote lk = false → s.capPage (pageOfLine lk) = false → s.prepAt lk = true → ∃ t, exec (.forwardedAccess msg) s = .next t ∧ t.inbox = s.inbox ∧
      t.outbox = s.outbox ∧ t.mems = s.mems) ∧
    (s.isRemote lk = false → s.capPage (pageOfLine lk) = false → s.prepAt lk = false → ∃ t k x, exec (.forwardedAccess msg) s = .next t ∧
      t.inbox = s.inbox.erase msg ∧ t.outbox.get? k = some x ∧ x.peer = m.peer ∧
      x.body = .reply op lane (BitVec.ofNat 2048 (Line.field (s.homeLine lk) (addr % 256) width)) ∧ t.mems = s.mems)) ∧
  (∀ s : State,
    let e := 2 ^ s.sys.epochLog.toNat
    (s.pcc.toNat / e ≤ s.sys.epochAt.toNat / e → exec .counterEpochTick s = .next s) ∧
    (s.sys.epochAt.toNat / e < s.pcc.toNat / e → ∃ t, exec .counterEpochTick s = .next t ∧ t.sys.epochAt = s.pcc ∧
      (∀ p h, s.store.pages.get? p = some h →
        ∃ h', t.store.pages.get? p = some h' ∧ h' = { h with lcnt := h'.lcnt, rcnt := h'.rcnt } ∧ h'.lcnt.toNat = h.lcnt.toNat / 2 ∧
          h'.rcnt.toNat = h.rcnt.toNat / 2) ∧ t.mems = s.mems ∧ t.store.recs = s.store.recs ∧ t.store.leaves = s.store.leaves)) ∧
  (∀ s page peer h msg m ctx ls h' , s.pageHdr page = some h → s.pageMsg peer page = some (msg, m) → m.body = .page ctx page ls h' →
    (∀ u xs, s.migs.get? page = none → s.bringLines h' ctx ls = some (u, xs) → ∃ t rq, exec (.pageTransfer page peer) s = .next t ∧
      t.store.reqs.get? u.fresh = some rq ∧ rq.lines = withHdr { h' with remote := false, owner := 0, lcnt := 0, rcnt := 0 } xs ∧ rq.rkind = 2 ∧
      rq.log = migLog h' ∧ t.store.leaves = u.store.leaves ∧ t.store.pages = u.store.pages ∧ t.inbox = u.inbox) ∧
    (∀ g r, s.migs.get? page = some g → g.req = some r → s.reqSt r ≠ .complete → exec (.pageTransfer page peer) s = .next s) ∧
    (∀ g r, s.migs.get? page = some g → g.req = some r → s.reqSt r = .complete → ∃ t k x, exec (.pageTransfer page peer) s = .next t ∧
      t.inbox = s.inbox.erase msg ∧ t.migs.get? page = none ∧ t.outbox.get? k = some x ∧ x.peer = m.peer ∧ x.body = .pageAck page ∧ t.store = s.store)) ∧
  (∀ s page peer h m, s.pageHdr page = some h → h.remote = true → s.pageMsg peer page = none → s.migs.get? page = some m → m.xfer = some peer →
    (∀ r, m.req = some r → s.reqSt r = .complete → ∃ t, exec (.pageTransfer page peer) s = .next t ∧ t.migs.get? page = none ∧ t.store = s.store ∧ t.mems = s.mems)) ∧
  (∀ s page peer h, s.pageHdr page = some h → h.remote = false → s.pageMsg peer page = none →
    (s.migs.get? page = none → ∃ t m, exec (.pageTransfer page peer) s = .next t ∧ t.migs.get? page = some m ∧ m.xfer = some peer ∧ t.store = s.store ∧
      t.mems = s.mems) ∧
    (∀ m, s.migs.get? page = some m → m.xfer = some peer → m.req = none →
      ((∃ p ∈ s.store.preps, pageOfLine p.1 = page ∧ p.2.holder ≠ none) → exec (.pageTransfer page peer) s = .next s) ∧
      ((∀ p ∈ s.store.preps, pageOfLine p.1 = page → p.2.holder = none) → ∃ t k x, exec (.pageTransfer page peer) s = .next t ∧ t.outbox.get? k = some x ∧ x.peer = peer ∧
        x.body = .page (pageCtx page) page ((s.pageLines page).map (fun lk => (lk % 2 ^ 40, s.homeLine lk))) h ∧ t.store = s.store))) ∧
  (∀ s leaf lf, s.store.leaves.get? leaf = some lf →
    (lf.dirty = false → exec (.leafWriteback leaf) s = .next s) ∧
    (∀ t, lf.dirty = true → (∃ h, s.store.pages.get? (pageOfLeaf leaf) = some h) →
      s.syncTree (leafCtx leaf) (touchLeaf (leafAddr leaf)) = some t →
      exec (.leafWriteback leaf) s = .next t ∧ ∃ lf', t.store.leaves.get? leaf = some lf' ∧ lf'.dirty = false ∧ lf'.ents = lf.ents))

/-- TLOCK, TUNLOCK, TPROBE, MIGR, walks, fills, page migration, page ownership and leaf write-back: the five parts above. It rests on the model's choices of log entries 37, 52. -/
def Obligations.TranslationAndMigration : Prop := lockWordsRules ∧ probeAndMigrateWordsRules ∧ walksAndFillsRules ∧ pageMigrationRules ∧ ownershipAndEpochsRules

/-! Snapshots, cleaning, replication (R349 to R362). -/

/-- The operation under way whose future is PENDING and counts in no class. -/
def pendingOp (s : State) (op : Nat) (o : AOp) (c : Ctx) : Prop :=
  s.aops.get? op = some o ∧ s.ctx? o.ctx = some c ∧ (c.fut o.tag).op = op ∧ (c.fut o.tag).st = .pending ∧ (c.fut o.tag).gid = none

/-- The operation has left its engine and its future is in state st. -/
def ended (t : State) (op : Nat) (o : AOp) (st : FutSt) : Prop :=
  t.aops.get? op = none ∧ ∃ c, t.ctx? o.ctx = some c ∧ (c.fut o.tag).st = st

/-- R361: SNAP of a FREE slot asks for its cluster's batch to be published first, and of another fails with ACCESS; SNAPDROP of a HELD slot frees it, unless a
checkpoint holds it, and of another fails with ACCESS; ROOTSW traps ILLOP where its context does not exist, LIBSD where its position is none of
Table 7-1, and otherwise they start. -/
def snapshotWordsRules : Prop :=
  ∀ (w : Ctl) (s : State) gid second (g : Group) r c, s.ctx? g.ctx = some c → s.aops.get? s.fresh = none →
    let n : Nat := w.imm.toNat % 64
    let a : Nat := (g.regs.greg (gReg w.a)).toNat
    (Runs (bodyOf (.snap w)) s gid second g r →
      ((s.snap g.ctx n).st = .free → starts (.snap w) s gid second g r c w.d 7 false (.snap n) (.prePub (s.fresh + 1))) ∧
      ((s.snap g.ctx n).st ≠ .free → answers (.snap w) s gid second g c w.d 7 (.failed .access))) ∧
    (Runs (bodyOf (.snapdrop w)) s gid second g r →
      ((s.snap g.ctx n).st ≠ .held → answers (.snapdrop w) s gid second g c w.d 7 (.failed .access)) ∧
      ((s.snap g.ctx n).st = .held → s.ckHolds g.ctx n = false → answers (.snapdrop w) s gid second g c w.d 7 .ok) ∧
      ((s.snap g.ctx n).st = .held → s.ckHolds g.ctx n = true → starts (.snapdrop w) s gid second g r c w.d 7 false (.snapdrop n) .running) ∧
      (∀ t, (s.snap g.ctx n).st = .held → (c.fut c.nextTag).st ≠ .pending → c.nextTag < 4096 → exec (.snapdrop w) s = .next t →
        (t.snap g.ctx n).st = if s.ckHolds g.ctx n = true then .dropping else .free)) ∧
    (Runs (bodyOf (.rootsw w)) s gid second g r →
      ((2 ^ 16 ≤ a ∨ s.ctx? a = none) → second = false → trapsAll (.rootsw w) s gid g r .illop) ∧
      (a < 2 ^ 16 → s.ctx? a ≠ none → starts (.rootsw w) s gid second g r c w.d 7 false (.rootsw a n) .running)) ∧
    (Runs (bodyOf (.libsd w)) s gid second g r →
      let good := a < 2 ^ 44 ∧ a % 2 ^ 17 = 0 ∧ (a < 2 ^ 35 ∨ a / 2 ^ 37 = 1)
      (¬ good → second = false → trapsAll (.libsd w) s gid g r .illop) ∧
      (good → starts (.libsd w) s gid second g r c w.d 7 false (.libsd (a / 2 ^ 17)) .running))

/-- R355, R357, R358: a snapshot first stops its context's grants; while a line is prepared it waits; the cut makes the slot HELD with the written-back root and the cut's
PCC, lets grants resume, and its future is DONE. A rollback of a context that is not quiesced, or to a slot that is not HELD, fails with ACCESS and leaves
the tree; otherwise IXROOT takes the slot's root and the slot stays HELD. A shootdown leaves no LIB entry of its segment but
in locked ways, which are refilled, and no L1 line. -/
def cutsAndRollbacksRules : Prop :=
  ∀ (s : State) op o c, pendingOp s op o c →
    (∀ n q, o.kind = .snap n → o.stage = .prePub q →
      (s.reqSt q ≠ .complete → exec (.snapshotCut op) s = .next s) ∧
      (s.reqSt q = .complete → (s.snap o.ctx n).st ≠ .free → ∃ t, exec (.snapshotCut op) s = .next t ∧ ended t op o (.failed .access) ∧ t.store = s.store) ∧
      (s.reqSt q = .complete → (s.snap o.ctx n).st = .free → ∃ t c', exec (.snapshotCut op) s = .next t ∧ (t.snap o.ctx n).st = .taking ∧
        t.ctx? o.ctx = some c' ∧ c'.stopped = true ∧ t.aops.get? op = some { o with stage := .running } ∧ t.store.leaves = s.store.leaves)) ∧
    (∀ n, o.kind = .snap n → o.stage = .running →
      let s0 := (s.modCtx o.ctx (fun c => { c with stopped := true })).askRevoke o.ctx
      ((∃ p ∈ s.store.preps, keyCtxLine p.1 = o.ctx ∧ p.2.holder ≠ none) → exec (.snapshotCut op) s = .next s0) ∧
      (∀ s1 s2 root, (∀ p ∈ s.store.preps, keyCtxLine p.1 = o.ctx → p.2.holder = none) → FMap.sorted c.snaps = true →
        (if c.peers = [] then s2 = s1 else (s1.openLogsOf o.ctx).foldl (fun (acc : Option State) l => acc.bind (fun s => s.sealKeep l)) (some s1) = some s2) →
        (s0.syncTree o.ctx touchAll).bind (fun s => s.rootWithout63 o.ctx (((s.ctx? o.ctx).map (fun c => c.ixroot.toNat)).getD 0)) = some (s1, root) →
        ∃ t c', exec (.snapshotCut op) s = .next t ∧ (t.snap o.ctx n).st = .held ∧ (t.snap o.ctx n).root = BitVec.ofNat 44 root ∧
          (t.snap o.ctx n).cut = s.pcc ∧ t.ctx? o.ctx = some c' ∧ c'.stopped = false ∧ ended t op o .ok ∧ t.mems = s.mems)) ∧
    (∀ d n, o.kind = .rootsw d n →
      (s.quiesced d = false ∨ (s.snap d n).st ≠ .held → ∃ t, exec (.rollback op) s = .next t ∧ ended t op o (.failed .access) ∧ t.store = s.store ∧
        (t.ctx? d).map (·.ixroot) = (s.ctx? d).map (·.ixroot)) ∧
      (∀ s1 root, s.quiesced d = true → (s.snap d n).st = .held →
        (s.syncTree d touchAll).bind (fun u => u.rootCarry63 d (((u.ctx? d).map (fun k => k.ixroot.toNat)).getD 0) (s.snap d n).root.toNat) = some (s1, root) →
        ∃ t, exec (.rollback op) s = .next t ∧ (t.ctx? d).map (·.ixroot) = some (BitVec.ofNat 44 root) ∧ (t.snap d n).st = .held ∧ ended t op o .ok ∧
          t.mems = s.mems)) ∧
    (∀ seg, o.kind = .libsd seg → ∃ t, exec (.shootdown op) s = .next t ∧ ended t op o .ok ∧ t.store = s.store ∧ t.mems = s.mems ∧
      ∀ cl leaf lf, (t.cl cl).lib.get? leaf = some lf → lf.locks = 0 → (∀ e ∈ lf.ents, entIn seg e.2 = false) ∧
        ∀ k, (t.core k).l1 = [])

/-- R350 to R352, R359, R362: an idle cleaner that runs and is enabled selects, of the segments it may clean, one whose score none passes. A round of the selected segment's
cleaning waits for the relocations under way, then asks for one relocation publication of the next live fragments, and frees the segment, to the reserve below 328 and
otherwise to the pool, once neither a fragment nor a root is in it. A sealed and resolved segment goes once to every replica of a context with records in it, in its log's
order; a replica stops at a bad digest, replays a segment's publications one after another in ascending order, each once all its segments are there, and then
acknowledges the segment. -/
def cleaningAndReplicationRules : Prop :=
  (∀ (s : State) stack seg,
    ((s.stack stack).target = none → ∃ t, exec (.cleanSegment stack seg) s = .next t ∧ t.store = s.store ∧ t.mems = s.mems ∧
      (t.stack stack).cleaning = (s.stack stack).cleanFlag ∧
      (t.stack stack).target = if (s.stack stack).cleanFlag = true ∧ (s.stack stack).clnEn = true ∧ s.bestSeg stack = some seg then some seg else none) ∧
    (s.bestSeg stack = some seg → ∃ g, (seg, g) ∈ s.store.segs ∧ s.cleanable stack seg g = true ∧
      ∀ p ∈ s.store.segs, s.cleanable stack p.1 p.2 = true → s.scoreAbove p (seg, g) = false) ∧
    (∀ k, (s.stack stack).target = some k → (k ≠ seg ∨ s.segResolved seg = false) → exec (.cleanSegment stack seg) s = .next s)) ∧
  (∀ (s : State) stack seg g, s.store.segs.get? seg = some g → (s.stack stack).target = some seg → s.segResolved seg = true →
    let xs := fragBatch [] 4096 (s.liveFrags seg)
    (∀ u ls, xs ≠ [] → s.moveLines seg xs = some (u, ls) →
      ∃ t rq, exec (.cleanSegment stack seg) s = .next t ∧ t.store.reqs.get? u.fresh = some rq ∧ rq.lines = ls ∧ rq.rkind = 1 ∧ rq.kind = .solo ∧
        rq.log = 256 + 4 * stack ∧ t.store.leaves = s.store.leaves ∧ t.store.segs.get? seg ≠ none ∧ t.mems = s.mems) ∧
    (xs ≠ [] → s.moveLines seg xs = none → exec (.cleanSegment stack seg) s = .next s) ∧
    (xs = [] → s.rootsIn seg = [] → segIsCap seg = false → ∃ t, exec (.cleanSegment stack seg) s = .next t ∧
      t.store.segs.get? seg = none ∧ (∀ p ∈ t.store.recs, posSeg p.1 ≠ seg) ∧ (∀ k, posSeg k ≠ seg → t.store.recs.get? k = s.store.recs.get? k) ∧
      (t.stack stack).freed = (s.stack stack).freed + 1 ∧ (t.stack stack).target = none ∧
      ((s.stack stack).rsv < 328 → (t.stack stack).rsv = (s.stack stack).rsv + 1 ∧ (t.stack stack).pool = (s.stack stack).pool) ∧
      (328 ≤ (s.stack stack).rsv → (t.stack stack).rsv = (s.stack stack).rsv ∧ (t.stack stack).pool = (s.stack stack).pool + 1) ∧
      t.store.leaves = s.store.leaves ∧ t.mems = s.mems)) ∧
  (∀ (s : State) seg g, s.store.segs.get? seg = some g →
    (¬ (g.isSealed = true ∧ s.segResolved seg = true) → exec (.segmentShip seg) s = .next s) ∧
    (g.isSealed = true → s.segResolved seg = true → ∃ t, exec (.segmentShip seg) s = .next t ∧ t.mems = s.mems ∧ t.store.recs = s.store.recs ∧
      ∀ p ∈ s.ctxs, ∀ m ∈ p.2.peers, shipsFor s.store.recs g.logid seg p.1 = true → shipKey p.1 m ∉ g.shipped → s.shipsNext g p.1 m = true →
        ∃ k x rs more, t.outbox.get? k = some x ∧ x.peer = BitVec.ofNat 12 m ∧ x.cls = 2 ∧
          x.body = .segment seg p.1 rs (g.commits.map (· % 2 ^ 17)) g.digest more ∧ rs.length = (segRecs s.store.recs seg).length)) ∧
  (∀ (s : State) msg m seg c rs cm digest more x, s.inbox.get? msg = some m → m.body = .segment seg c rs cm digest more → s.ctx? c = some x →
    let sum := Config.sha512 (recArea (rs.map (fun p => (p.1, p.2.repack))))
    let key := srcKey m rs
    let last := x.replayed.getD 0 key
    let ms := s.segsFrom m.peer key c
    let open_ := (∃ q, x.replaying.get? key = some q ∧ s.reqSt q ≠ .complete) ∨ ∃ p ∈ ms, leastPub p.2 < leastPub m
    let next (id : BitVec 32) : Prop := (∃ p ∈ rs, p.2.pubid = id) ∧ last.toNat < id.toNat ∧ ∀ p ∈ rs, last.toNat < p.2.pubid.toNat → id.toNat ≤ p.2.pubid.toNat
    let all (id : BitVec 32) : Prop := ∀ q ∈ more, q.1 = id.toNat → ∃ p ∈ ms, ∃ y, segMsg p.2 = some (q.2, y)
    (x.replStopped = true → exec (.replicaSegmentReceive msg) s = .next { s with inbox := s.inbox.erase msg }) ∧
    (x.replStopped = false → sum ≠ digest → ∃ t, exec (.replicaSegmentReceive msg) s = .next t ∧ t.inbox = s.inbox.erase msg ∧
      t.ctx? c = some { x with replStopped := true } ∧ t.sys.reports = s.sys.reports ++ [.badDigest seg c] ∧ t.store = s.store ∧ t.mems = s.mems) ∧
    (x.replStopped = false → sum = digest → open_ → exec (.replicaSegmentReceive msg) s = .next s) ∧
    (x.replStopped = false → sum = digest → ¬ open_ → (∀ p ∈ rs, p.2.pubid.toNat ≤ last.toNat) → ∃ t k y, exec (.replicaSegmentReceive msg) s = .next t ∧
      t.inbox = s.inbox.erase msg ∧ t.outbox.get? k = some y ∧ y.peer = m.peer ∧ y.body = .segAck seg c ∧ t.store = s.store) ∧
    (∀ id, x.replStopped = false → sum = digest → ¬ open_ → next id →
      (¬ all id → exec (.replicaSegmentReceive msg) s = .next s) ∧
      (all id → ∃ t x', exec (.replicaSegmentReceive msg) s = .next t ∧ t.inbox = s.inbox ∧ t.ctx? c = some x' ∧ x'.replayed.get? key = some id ∧
        t.mems = s.mems ∧ (replayLines (replayRecs ms c id) ≠ [] → ∃ q rq, x'.replaying.get? key = some q ∧ t.store.reqs.get? q = some rq ∧
          rq.kind = .solo ∧ rq.ctx = c ∧ rq.lines = replayLines (replayRecs ms c id)))))

/-- Snapshot words, cuts, rollbacks, shootdown, cleaning and replicas: the three parts above. It rests on the model's choices of log entries 45, 46, 47. -/
def Obligations.SnapshotsCleaningAndReplication : Prop := snapshotWordsRules ∧ cutsAndRollbacksRules ∧ cleaningAndReplicationRules

/-! The copy engine and the loop unit (R154 to R158, R255 to R271). -/

/-- R255, R258 to R260: each copy word traps with the first failing check of ILLOP, ALIGN, SPACE and NOMAP, with the failing address; when all pass it enters its
cluster's engine queue, counts as a copy and gives its handle. -/
def copyWordsRules : Prop :=
  ∀ p ∈ ([(.xcopy, 0x240), (.xconv, 0x241), (.xqa8, 0x242), (.xwht, 0x243), (.tprep, 0x244)] : List ((Ctl → Instr) × Nat)),
  ∀ (w : Ctl) (s : State) gid second (g : Group) r c, Runs (bodyOf (p.1 w)) s gid second g r → s.ctx? g.ctx = some c →
    let d := copyOf p.2 w g.regs
    let core := s.grpCore g
    let ill := copyIll d (g.regs.greg (gReg w.a + 2))
    let fails (k : Cause) (a : Nat) : Prop := ∃ tr, exec (p.1 w) s = .next (s.afterTrap gid g tr) ∧ tr.cause = k ∧ tr.lanes = r.mask ∧
      tr.detail0 = BitVec.ofNat 64 a ∧ tr.wpc = wordPc r.pc r.idx
    (ill = true → second = false → trapsAll (p.1 w) s gid g r .illop) ∧
    (∀ a, ill = false → second = false → copyMisaligned d = some a → fails .align a) ∧
    (∀ a, ill = false → second = false → copyMisaligned d = none → s.copySpaceBad g.launch core d = some a → fails .space a) ∧
    (∀ a, ill = false → second = false → copyMisaligned d = none → s.copySpaceBad g.launch core d = none → copyNomap d = some a → fails .nomap a) ∧
    (ill = false → copyMisaligned d = none → s.copySpaceBad g.launch core d = none → copyNomap d = none →
      starts (p.1 w) s gid second g r c w.d 1 true (.copy (d.placed core)) .queued)

/-- R104, R217, R313, R328, R340, R447: a bank serves an engine's access whole, once its rows are free: a read takes the bytes that stand there, a write puts its own and changes no
other byte; while a row is taken the access waits and nothing changes. A line that an engine reads at its home is held whole, in one state of the home, once its entry is not
PREP; a line of a peer's page is asked for once. -/
def engineAccessesRules : Prop :=
  ∀ (s : State) core owner part t (x : Piece), x.space ≠ .ln → x.space ≠ .gl →
    let key := padKey core 0 0 x.space x.addr
    let free := rowsFree t owner part (bankRows x.space key x.width) = true
    let r := s.servePiece core owner part t x
    (¬ free → r.1 = s ∧ r.2.2 = x) ∧
    (free → x.write = false → r.1 = s ∧ ∃ d, r.2.2 = { x with servedAt := some s.pcc, data := d } ∧
      ∀ k < x.width, BitVec.ofNat 8 (d / 256 ^ k) = (s.mems.of x.space).read (key + k)) ∧
    (free → x.write = true → r.2.2 = { x with servedAt := some s.pcc } ∧ r.1 = { s with mems := r.1.mems } ∧
      ∀ a, (r.1.mems.of x.space).read a = if key ≤ a ∧ a < key + x.width then BitVec.ofNat 8 (x.data / 256 ^ (a - key)) else (s.mems.of x.space).read a) ∧
    (∀ n (o : AOp) a, s.aops.get? n = some o → a % 256 = 0 → a < 2 ^ 48 → o.buf (heldLine a) = none →
      let lk := lineKey o.ctx a
      let u := s.grabLine n o true a
      u.mems = s.mems ∧
      (s.isRemote lk = false → s.prepAt lk = true → u.aops.get? n = some o) ∧
      (s.isRemote lk = false → s.prepAt lk = false → ∃ o', u.aops.get? n = some o' ∧ o'.lineBytes a 256 = some (Line.bytes (s.homeLine lk))) ∧
      (s.isRemote lk = true → o.buf (askedLine a) = none → ∃ o', u.aops.get? n = some o' ∧ (o'.buf (askedLine a)).isSome = true ∧
        ∃ p ∈ u.outbox, p.2.peer = s.ownerOf lk ∧ p.2.body = .load n (engineLane a) o.ctx a 256) ∧
      (s.isRemote lk = true → (o.buf (askedLine a)).isSome = true → u = s))

/-- R255, R257, R263, R268, R269: the oldest queued operation of a cluster starts when its group's earlier accesses have performed, fewer than 4 are in progress and none of them
writes what it reads. A step between scratchpads sends its source's accesses to their banks, computes once they are served, and sends its results once no operation in
progress still reads what they overwrite; no byte changes but at the banks. After the last step the status word follows every result, and then the operation is DONE. An
operation with a `.gl` destination asks, after its last step, for one publication of the records it has appended, and is DONE when that has committed. -/
def copyStepsRules : Prop :=
  (∀ (s : State) cl n o d, s.aops.find? (fun p => p.2.cluster == cl && (copyOfKind p.2.kind).isSome && p.2.stage == .queued) = some (n, o) →
    s.aops.get? n = some o → o.kind = .copy d →
    let ready := (∀ gid, o.gid = some gid → s.accessesDone gid n = true) ∧ s.copyBusy cl < 4 ∧ s.copyWritten o d = false
    (¬ ready → exec (.copyOpStart cl) s = .next s) ∧
    (ready → ∃ t, exec (.copyOpStart cl) s = .next t ∧ t.aops.get? n = some { o with stage := .running } ∧ t.mems = s.mems ∧ t.store = s.store ∧
      t.ctxs = s.ctxs ∧ t.groups = s.groups)) ∧
  (∀ (s : State) n o d, s.aops.get? n = some o → o.kind = .copy d →
    let got := o.pieces.filter (fun x => !x.write)
    (o.stage = .running → o.outs = [] → o.chunk < d.steps → d.ssp ≠ .gl → d.dsp ≠ .gl →
      (got = [] → ∃ t, exec (.copyOpComplete n) s = .next t ∧ t.mems = s.mems ∧ t.store = s.store ∧ t.groups = s.groups ∧
        t.aops.get? n = some { o with pieces := o.pieces ++ (d.reads o.chunk).flatMap (fun p => readPieces (24 * o.cluster) d.ssp s.pcc p.1 p.2) }) ∧
      (got ≠ [] → s.piecesDone got 0 = false → exec (.copyOpComplete n) s = .next s) ∧
      (got ≠ [] → s.piecesDone got 0 = true →
        let res := d.stepOut (cutBytes ((d.reads o.chunk).map (·.2)) (pieceBytes got))
        ∃ t o', exec (.copyOpComplete n) s = .next t ∧ t.aops.get? n = some o' ∧
          o' = { o with chunk := o.chunk + 1, bufs := o'.bufs, pieces := o.pieces.filter (·.write)
                        outs := ((d.writes o.chunk).zip [res.out, res.scales]).map (fun p => (p.1.1, p.2)) } ∧
          t.mems = s.mems ∧ t.store = s.store ∧ t.groups = s.groups)) ∧
    (o.stage = .running → o.outs ≠ [] → d.dsp ≠ .gl → s.copyRead o d = false → ∃ t o', exec (.copyOpComplete n) s = .next t ∧ t.aops.get? n = some o' ∧
      o'.outs = [] ∧ o'.chunk = o.chunk ∧ (∀ p ∈ o.outs, ∀ x ∈ writePieces (24 * o.cluster) d.dsp s.pcc p.1 p.2, x ∈ o'.pieces) ∧
      t.mems = s.mems ∧ t.store = s.store ∧ t.groups = s.groups) ∧
    (d.opc = 0x240 → ∀ src, (d.stepOut [src]).out = src) ∧
    (o.stage = .running → o.outs = [] → d.steps ≤ o.chunk → s.piecesDone o.pieces 0 = false → exec (.copyOpComplete n) s = .next s) ∧
    (o.stage = .running → o.outs = [] → o.chunk = d.steps → s.piecesDone o.pieces 0 = true → d.stat = true → d.dsp ≠ .gl →
      ∃ t, exec (.copyOpComplete n) s = .next t ∧ t.aops.get? n = some { o with chunk := o.chunk + 1, outs := [(d.stw, le 8 o.stat)] } ∧
        t.mems = s.mems ∧ t.store = s.store) ∧
    (o.stage = .running → o.outs = [] → d.steps ≤ o.chunk → (d.stat = false ∨ o.chunk ≠ d.steps) → s.piecesDone o.pieces 0 = true → d.dsp ≠ .gl →
      ∀ c, s.ctx? o.ctx = some c → (c.fut o.tag).op = n → (c.fut o.tag).st = .pending → ∃ t c', exec (.copyOpComplete n) s = .next t ∧
        t.aops.get? n = none ∧ t.ctx? o.ctx = some c' ∧ (c'.fut o.tag).st = .ok ∧ t.mems = s.mems ∧ t.store = s.store) ∧
    (o.stage = .running → o.outs = [] → d.steps ≤ o.chunk → (d.stat = false ∨ o.chunk ≠ d.steps) → s.piecesDone o.pieces 0 = true → d.dsp = .gl →
      ∃ t rq, exec (.copyOpComplete n) s = .next t ∧ t.aops.get? n = some { o with stage := .publishing s.fresh } ∧
        t.store.reqs.get? s.fresh = some rq ∧ rq.kind = .solo ∧ rq.log = o.cluster ∧ rq.lines.length = o.shadow.length ∧ t.mems = s.mems ∧
        t.store.leaves = s.store.leaves) ∧
    (∀ q c, o.stage = .publishing q → s.ctx? o.ctx = some c → (c.fut o.tag).op = n → (c.fut o.tag).st = .pending →
      (s.reqSt q ≠ .complete → exec (.copyOpComplete n) s = .next s) ∧
      (s.reqSt q = .complete → ∃ t c', exec (.copyOpComplete n) s = .next t ∧ t.aops.get? n = none ∧ t.ctx? o.ctx = some c' ∧ (c'.fut o.tag).st = .ok ∧
        t.store = s.store)))

/-- The copy-and-convert engine: the three parts above. It rests on the model's choices of log entry 38. -/
def Obligations.CopyAndConvert : Prop := copyWordsRules ∧ engineAccessesRules ∧ copyStepsRules

/-- R154 to R158: every element address of a nest lies between the two that its checks use; LOOPN traps ALIGN, then SPACE, where a check fails, and otherwise queues behind its
core's earlier ones and counts as a tile operation; the first of a queue starts once its group's earlier accesses have performed; a beat sends the accesses of its
elements' sources to their banks; an element whose sources are there is computed, and its result is on its way to D's element, in a reduction only after the last
one; a LOOPN leaves the tiles class, its flags merged, when its last result is written and its time is over.
It rests on the model's choices of log entry 13. -/
def Obligations.Loops : Prop :=
  (∀ (w : Loop) base (f : Level → BitVec 9) (ix : List Nat), ix.length = (nestLevels w).length →
    (∀ i l, (nestLevels w)[i]? = some l → ix.getD i 0 ≤ l.ext.toNat) →
    extreme w base f false ≤ elemAddr w base f ix ∧ elemAddr w base f ix ≤ extreme w base f true) ∧
  (∀ (w : Loop) (s : State) gid second (g : Group) r, Runs (bodyOf (.loopn w)) s gid second g r →
    let core := s.grpCore g
    let base := fun o => (g.regs.greg (gReg o)).toNat
    (∀ k a, s.loopCheck g.launch core w g.regs = some (k, a) → second = false → (k = .align ∨ k = .space) ∧
      ∃ tr, exec (.loopn w) s = .next (s.afterTrap gid g tr) ∧ tr.cause = k ∧ tr.lanes = r.mask ∧ tr.detail0 = BitVec.ofInt 64 a) ∧
    (s.loopCheck g.launch core w g.regs = none →
      (base w.d) % elemSize w = 0 ∧ (base w.a) % elemSize w = 0 ∧
      ∃ t j, exec (.loopn w) s = .next t ∧ (t.core core).loops = (s.core core).loops ++ [j] ∧ j.gid = gid ∧ j.w = w ∧ j.d = base w.d ∧ j.a = base w.a ∧
        j.b = base w.b ∧ j.started = false ∧ j.beat = 0 ∧ t.grp gid = some ({ g with tiles := g.tiles + 1 }.moved second 3) ∧ t.mems = s.mems ∧
        t.store = s.store)) ∧
  (∀ (s : State) core j js, (s.core core).loops = j :: js →
    (j.started = false → (s.accessesDone j.gid j.op = false → exec (.loopnStart core) s = .next s) ∧
      (s.accessesDone j.gid j.op = true → ∃ t, exec (.loopnStart core) s = .next t ∧
        (t.core core).loops = { j with started := true, leaveAt := s.pcc } :: js ∧ t.mems = s.mems ∧ t.groups = s.groups)) ∧
    (j.started = true → j.beat < beatCount j.w → exec (.loopnComplete core) s = .next s) ∧
    (j.complete core s = true ↔ j.started = true ∧ beatCount j.w ≤ j.beat ∧ j.elems = [] ∧ j.outs = [] ∧
      s.due (j.leaveAt + BitVec.ofNat 64 (j.tail core + j.late)) = true ∧ s.due (j.putAt + BitVec.ofNat 64 (padFixed (padSp j.w.dsp))) = true) ∧
    (j.complete core s = false → exec (.loopnComplete core) s = .next s) ∧
    (∀ g, j.complete core s = true → s.grp j.gid = some g →
      ∃ t, exec (.loopnComplete core) s = .next t ∧ (t.core core).loops = js ∧
        t.grp j.gid = some { g with
          fpstat := g.fpstat ||| j.fl, tileFl := (if g.tileFlAt = s.pcc then g.tileFl else 0) ||| j.fl, tileFlAt := s.pcc, tiles := g.tiles - 1 } ∧
        t.mems = s.mems ∧ t.store = s.store) ∧
    (j.started = true → j.beat < beatCount j.w → s.due j.leaveAt = true → (s.loopBeat core).mems = s.mems ∧ (s.loopBeat core).groups = s.groups ∧ ∃ xs,
      ((s.loopBeat core).core core).loops =
        { j with beat := j.beat + 1, leaveAt := j.leaveAt + BitVec.ofNat 64 (max 1 (j.degree j.beat)), elems := j.elems ++ xs } :: js ∧
      xs.map (·.ord) = beatOrds j.w j.beat ∧ ∀ x ∈ xs, x.leave = j.leaveAt ∧ x.srcs.length = j.srcOps.length ∧
        ∀ (k : Nat) (o : Operand) (p : Piece), j.srcOps[k]? = some o → x.srcs[k]? = some p → p.write = false ∧ p.space = padSp o.1 ∧ p.width = elemSize j.w ∧ p.servedAt = none ∧
          p.addr = (elemAddr j.w o.2.1 o.2.2 (ordIx j.w x.ord)).toNat ∧ p.arriveAt = j.leaveAt + BitVec.ofNat 64 (padDist core p.space p.addr))) ∧
  (∀ (j : LoopJob) core (x : LoopElem), j.outs = [] → x.seen.length = x.srcs.length →
    let dat (k : Nat) : Nat := ((x.srcs[k]?).map (fun p => p.data % 256 ^ p.width)).getD 0
    let b := if loopOne j.w.op then 0 else dat 1
    let j' := j.compute core x
    let at_ (o : LoopOut) (v : Nat) : Prop := o.seen = 0 ∧ o.acc.write = true ∧ o.acc.space = padSp j.w.dsp ∧ o.acc.width = elemSize j.w ∧ o.acc.data = v ∧
      o.acc.addr = (elemAddr j.w j.d Level.sd (ordIx j.w x.ord)).toNat
    j'.next = j.next + 1 ∧ j'.elems = j.elems.filter (fun y => y.ord != x.ord) ∧
    (loopRed j.w.op = false →
      let v := elemOp j.w (dat 0) b (if j.w.op = .mac then dat (x.srcs.length - 1) else 0)
      j'.fl = j.fl ||| v.2 ∧ ∃ o, j'.outs = [o] ∧ at_ o v.1) ∧
    (loopRed j.w.op = true →
      let v := if x.ord % (j.w.l0.ext.toNat + 1) = 0 then firstElem j.w (dat 0) b else elemOp j.w (dat 0) b j.acc
      j'.fl = j.fl ||| v.2 ∧ j'.acc = v.1 ∧
      ((x.ord + 1) % (j.w.l0.ext.toNat + 1) ≠ 0 → j'.outs = []) ∧
      ((x.ord + 1) % (j.w.l0.ext.toNat + 1) = 0 → ∃ o, j'.outs = [o] ∧ at_ o v.1)))

/-! The stream producer (R236 to R253). -/

/-- R236, R246 to R251: the six group instructions. A slot bound to another launch makes every one but QSTAT trap QERR. PLOAD checks every micro-op of its image as a
load of 8 bytes, and then enters the loads class; PSTART of an idle slot binds it and takes the shadow store and four parameters; PSTOP stops it, its handle CANCELLED; QPOP gives word l of the head
entry to lane l and removes the entry, QPEEK gives it and leaves it; QSTAT reads Table 8-5. -/
def slotWordsRules : Prop :=
  ∀ (w : Ctl) (s : State) gid second (g : Group) r c, s.ctx? g.ctx = some c →
    let core := s.grpCore g
    let k := s.slot core
    let mine := k.bound = none ∨ k.bound = some g.launch
    (∀ i ∈ ([.pload w, .pstart w, .pstop w, .qpop w, .qpeek w] : List Instr), Runs (bodyOf i) s gid second g r → second = false → ¬ mine →
      trapsAll i s gid g r .qerr) ∧
    (Runs (bodyOf (.pload w)) s gid second g r → mine →
      let sp := if w.mod.getLsbD 0 then Space.cr else Space.gl
      let a := formAddr sp (g.regs.greg (gReg w.a)) 0
      let n := w.imm.toNat / 256 % 128 + 1
      let ps : List Probe := (List.range n).map (fun (i : Nat) =>
        ({ lane := 64, addr := a + 8 * i, chk := s.checkLane g.launch core g.ctx sp (needLoad 8) (a + 8 * i) } : Probe))
      let parts := ps.map (fun p => partOf p 0)
      (∀ b ls x, firstFailure ps = some (b, ls, x) → second = false → ∃ tr, exec (.pload w) s = .next (s.afterTrap gid g tr) ∧ tr.cause = b ∧
        tr.lanes = r.mask ∧ tr.detail0 = BitVec.ofInt 64 x) ∧
      (∀ pg, firstFailure ps = none → firstPark ps = some pg → ∃ t, exec (.pload w) s = .next t ∧ t.mems = s.mems ∧ t.ops = s.ops ∧
        t.grp gid = some (g.setRun second (some { r with wait := .park pg }))) ∧
      (firstFailure ps = none → firstPark ps = none → hasSo parts = true → r.soDone = false → exec (.pload w) s =
        .next (s.setGrp gid (g.setRun second (some { r with wait := .fence .pk s.fresh none true 1 })))) ∧
      (firstFailure ps = none → firstPark ps = none → hasSo parts = false → ∃ t o, exec (.pload w) s = .next t ∧ t.ops.get? s.fresh = some o ∧ o.gid = gid ∧
        o.kind = .pload (w.imm.toNat % 128) ∧ o.space = sp ∧ o.parts = parts ∧ o.order = .rlx ∧ o.width = 8 ∧ o.queued = true ∧
        t.grp gid = some ({ g with loads := g.loads + 1 }.moved second 1) ∧ t.slot core = k ∧ t.mems = s.mems)) ∧
    (Runs (bodyOf (.pstart w)) s gid second g r → mine →
      (k.st ≠ .idle → second = false → trapsAll (.pstart w) s gid g r .qerr) ∧
      (k.st = .idle → starts (.pstart w) s gid second g r c w.d 9 false (.slot core) .running ∧
        ∀ t, (c.fut c.nextTag).st ≠ .pending → exec (.pstart w) s = .next t →
          t.slot core = { k with bound := some g.launch, ctx := g.ctx, block := g.block, params := (t.slot core).params, st := .running, active := k.shadow,
                                 handle := some s.fresh, begun := false, upto := s.fresh, loads := [] } ∧
          ∀ i < 4, (t.slot core).params.getD 0 i = g.regs.greg (gReg w.a + i))) ∧
    (Runs (bodyOf (.pstop w)) s gid second g r → mine →
      (k.st = .idle → w.mod.getLsbD 0 = false → exec (.pstop w) s = .next (s.afterWord gid second g)) ∧
      (∀ n o d, k.st ≠ .idle → w.mod.getLsbD 0 = false → k.handle = some n → pendingOp s n o d → ∃ t, exec (.pstop w) s = .next t ∧
        ended t n o .cancelled ∧ (t.slot core).st = .idle ∧ (t.slot core).handle = none ∧ (t.slot core).loads = [] ∧ (t.slot core).queues = k.queues ∧
        t.grp gid = some (g.moved second 1) ∧ t.mems = s.mems) ∧
      (w.mod.getLsbD 0 = true → ∃ t, exec (.pstop w) s = .next t ∧ (t.slot core).st = .idle ∧
        ∀ q < 8, (s.heldQ core).getLsbD q = false → (t.slot core).queues.getD [] q = [])) ∧
    (∀ i ∈ ([.qpop w, .qpeek w] : List Instr), Runs (bodyOf i) s gid second g r → mine →
      (k.queues.getD [] (qNum w.a) = [] → second = false → trapsAll i s gid g r .qerr) ∧
      (∀ e es, k.queues.getD [] (qNum w.a) = e :: es → ∃ (t : State) (g' : Group), exec i s = .next t ∧ t.grp gid = some (g'.moved second 1) ∧
        g' = { g with regs := g'.regs } ∧ (∀ l < 64, r.mask.getLsbD l = true → readLane g'.regs .b32 w.d l = (e.getD 0 l).setWidth 64) ∧
        (t.slot core).queues.getD [] (qNum w.a) = (if i = .qpop w then es else e :: es) ∧
        (∀ q, q ≠ qNum w.a → (t.slot core).queues.getD [] q = k.queues.getD [] q) ∧ t.mems = s.mems)) ∧
    (Runs (bodyOf (.qstat w)) s gid second g r → k.flush = 0 →
      let q := qNum w.a
      let v : Nat := (k.queues.getD [] q).length + (if (s.heldQ core).getLsbD q then 2 ^ 8 else 0) +
        2 ^ 16 * (if k.st = .idle then 0 else if k.st = .running then 1 else 2) + 2 ^ 32 * ((k.bound.getD 0) % 2 ^ 16) +
        (if k.bound = none then 0 else 2 ^ 48) + 2 ^ 56 * k.upc
      exec (.qstat w) s = .next (s.afterWord gid second { g with regs := g.regs.setG (gReg w.d) (BitVec.ofNat 64 v) }))

/-- Micro-op i is asked of the running slot k of a core. -/
def slotRuns (s : State) (core : Nat) (k : Slot) : Prop := s.issuer = .slot core ∧ s.slot core = k ∧ k.st = .running ∧ k.begun = true

/-- R239 to R245, Table 8-2: what each micro-op does: CNTSET sets the extents and zeroes the indices; AGSET sets a generator; SLD puts one load in flight at its generator's address, waits for its
row and for room, and fails the slot where a check fails; DQ, TRN and PUSH make their row or entry; NEXT counts its levels as an odometer, branching where one goes on;
END makes the handle DONE. A micro-op that goes past index 127 fails the slot with ILLOP.
It rests on the model's choices of log entry 41. -/
def Obligations.MicroOps : Prop :=
  ∀ (s : State) core k, slotRuns s core k →
    let goes (i : Instr) (k' : Slot) : Prop :=
      (k.upc < 127 → ∃ t, exec i s = .next t ∧ t.slot core = { k' with upc := k.upc + 1 } ∧ t.mems = s.mems ∧ t.store = s.store ∧ t.groups = s.groups) ∧
      (∀ n o c, 127 ≤ k.upc → k.handle = some n → pendingOp s n o c → ∃ t, exec i s = .next t ∧ (t.slot core).st = .idle ∧ ended t n o (.failed .illop))
    (∀ e3 e2 e1 e0, ∃ ext, goes (.cntset e3 e2 e1 e0) { k with cext := ext, cidx := [] } ∧ ext.getD 1 0 = e0.toNat + 1 ∧ ext.getD 1 1 = e1.toNat + 1 ∧
      ext.getD 1 2 = e2.toNat + 1 ∧ ext.getD 1 3 = e3.toNat + 1) ∧
    (∀ (n p : BitVec 2) (s3 s2 s1 s0 : BitVec 13), ∃ ps ss, goes (.agset n p s3 s2 s1 s0) { k with agP := ps, agS := ss } ∧
      (∀ m : Nat, ps.getD 0 m = if m = n.toNat then p else k.agP.getD 0 m) ∧
      (∀ m : Nat, ss.getD 0 m = if m = 4 * n.toNat then s0 else if m = 4 * n.toNat + 1 then s1 else if m = 4 * n.toNat + 2 then s2
        else if m = 4 * n.toNat + 3 then s3 else k.agS.getD 0 m)) ∧
    (∀ (r : BitVec 3) (n : BitVec 2) sp (sz : BitVec 2),
      let i := Instr.piccoloSld r n sp sz
      let sum : Int := ((List.range 4).map (fun j => (k.agS.getD 0 (4 * n.toNat + j)).toInt * (k.cidx.getD 0 j : Nat))).sum
      let ag : BitVec 64 := k.params.getD 0 (k.agP.getD 0 n.toNat).toNat + BitVec.ofInt 64 (32 * sum)
      let a := if sp = .gl then ag.toNat else ag.toNat % 2 ^ 32
      ((∃ x ∈ k.loads, x.row = r.toNat) ∨ 16 ≤ k.loads.length → exec i s = .next s) ∧
      ((∀ x ∈ k.loads, x.row ≠ r.toNat) → k.loads.length < 16 → ∃ x : SlotLoad, x.row = r.toNat ∧ x.addr = a ∧ x.size = 256 / 2 ^ sz.toNat ∧ x.sp = sp ∧
        x.asked = false ∧ x.pieces = (if sp = .gl then [] else readPieces core (picSpace sp) s.pcc a (256 / 2 ^ sz.toNat)) ∧
        (∀ pg, s.sldChk core k x = .park pg → ∃ t, exec i s = .next t ∧ t.slot core = { k with st := .parked } ∧ t.mems = s.mems) ∧
        (∀ mt rm, s.sldChk core k x = .ok mt rm → goes i { k with loads := k.loads ++ [x] }) ∧
        (∀ c n o d, s.sldChk core k x = .bad c → k.handle = some n → pendingOp s n o d → ∃ t, exec i s = .next t ∧ (t.slot core).st = .idle ∧
          ended t n o (.failed c)))) ∧
    (∀ d r fmt : BitVec 3, ((∃ x ∈ k.loads, x.row = d.toNat ∨ x.row = r.toNat) → exec (.dq d r fmt) s = .next s) ∧
      ((∀ x ∈ k.loads, x.row ≠ d.toNat ∧ x.row ≠ r.toNat) → ∃ rows, goes (.dq d r fmt) { k with rows := rows } ∧
        ∀ m : Nat, ∀ i < 64, rows.getD 0 (64 * m + i) = if m = d.toNat then dqWord k r.toNat fmt.toNat i else k.rows.getD 0 (64 * m + i))) ∧
    ((k.loads ≠ [] → exec .trn s = .next s) ∧
      (k.loads = [] → ∃ rows, goes .trn { k with rows := rows } ∧ ∀ m < 8, ∀ p < 8, ∀ q < 8,
        rows.getD 0 (64 * m + (8 * p + q)) = k.rows.getD 0 (64 * q + (8 * p + m)))) ∧
    (∀ q r : BitVec 3, k.flush = 0 →
      ((∃ x ∈ k.loads, x.row = r.toNat) ∨ 16 ≤ (k.queues.getD [] q.toNat).length → exec (.push q r) s = .next s) ∧
      ((∀ x ∈ k.loads, x.row ≠ r.toNat) → (k.queues.getD [] q.toNat).length < 16 → ∃ qs e, goes (.push q r) { k with queues := qs } ∧
        qs.getD [] q.toNat = k.queues.getD [] q.toNat ++ [e] ∧ (∀ m : Nat, m ≠ q.toNat → qs.getD [] m = k.queues.getD [] m) ∧
        ∀ i < 64, e.getD 0 i = k.rows.getD 0 (64 * r.toNat + i))) ∧
    (∀ (top lo : BitVec 2) (target : BitVec 7), lo.toNat ≤ top.toNat →
      let full (lv : Nat) : Prop := k.cext.getD 1 lv ≤ k.cidx.getD 0 lv + 1
      (∀ lv : Nat, lo.toNat ≤ lv → lv ≤ top.toNat → ¬ full lv → (∀ j : Nat, lo.toNat ≤ j → j < lv → full j) →
        ∃ t ix, exec (.nextOp top lo target) s = .next t ∧ t.slot core = { k with cidx := ix, upc := target.toNat } ∧
          ∀ j : Nat, ix.getD 0 j = if j = lv then k.cidx.getD 0 lv + 1 else if lo.toNat ≤ j ∧ j < lv then 0 else k.cidx.getD 0 j) ∧
      ((∀ j : Nat, lo.toNat ≤ j → j ≤ top.toNat → full j) → ∃ ix, goes (.nextOp top lo target) { k with cidx := ix } ∧
        ∀ j : Nat, ix.getD 0 j = if lo.toNat ≤ j ∧ j ≤ top.toNat then 0 else k.cidx.getD 0 j)) ∧
    (∀ n o c, k.handle = some n → pendingOp s n o c → ∃ t, exec .endOp s = .next t ∧ (t.slot core).st = .idle ∧ (t.slot core).handle = none ∧
      (t.slot core).rows = k.rows ∧ (t.slot core).queues = k.queues ∧ ended t n o .ok)

/-- R236, R242, R247, R248: a PLOAD's next micro-op is written, in the cycle after its bytes have arrived, in the shadow store, and in the active one while the slot is IDLE, and
the last one leaves the loads class; a started run begins at its entry once its group's earlier accesses have performed; an SLD from a scratchpad, once its banks have served
it, or of a line that the cluster can give, writes its bytes to its row's first words and zero to the rest; the binding ends when the slot is IDLE and its queues are
empty. -/
def slotStepsRules : Prop :=
  (∀ (s : State) op o x g first i, s.ops.get? op = some o → o.kind = .pload first → o.order = .rlx → o.queued = false → o.space = .cr →
    s.grp o.gid = some g → o.parts[i]? = some x → x.put = false → (∀ j y, j < i → o.parts[j]? = some y → y.put = true) →
    let core := s.grpCore g
    let k := s.slot core
    let done := ∃ t, o.partDue x = some t ∧ t + 1 ≤ s.pcc.toNat
    (¬ done → exec (.ploadDataReturn op) s = .next s) ∧
    (done → ∃ t k', exec (.ploadDataReturn op) s = .next t ∧ t.slot core = k' ∧
      k' = { k with shadow := k'.shadow, active := k'.active } ∧ (∀ j : Nat, k'.shadow.getD 0 j = if j = first + i then x.val.setWidth 64 else k.shadow.getD 0 j) ∧
      (k.st ≠ .idle → k'.active = k.active) ∧
      (k.st = .idle → ∀ j : Nat, k'.active.getD 0 j = if j = first + i then x.val.setWidth 64 else k.active.getD 0 j) ∧
      (o.parts.length ≤ i + 1 → t.ops = s.ops.erase op ∧ t.grp o.gid = some { g with loads := g.loads - 1 }) ∧
      (i + 1 < o.parts.length → t.grp o.gid = some g ∧ ∃ o' y, t.ops.get? op = some o' ∧ o'.parts[i]? = some y ∧ y = { x with put := true }) ∧
      t.mems = s.mems)) ∧
  (∀ (s : State) core n o, (s.slot core).handle = some n → s.aops.get? n = some o → (s.slot core).st = .running → (s.slot core).begun = false →
    let ready := ∀ gid, o.gid = some gid → s.accessesDone gid (s.slot core).upto = true
    (¬ ready → exec (.piccoloRunBegin core) s = .next s) ∧
    (ready → ∃ t, exec (.piccoloRunBegin core) s = .next t ∧ t.slot core = { s.slot core with begun := true, upc := o.chunk } ∧ t.mems = s.mems ∧
      t.store = s.store)) ∧
  (∀ (s : State) core (r : Nat) x mt rm, (s.slot core).loads.find? (fun y => y.row == r) = some x → (s.slot core).st = .running →
    s.sldChk core (s.slot core) x = .ok mt rm →
    let takes (t : State) (v : Nat) : Prop := (t.slot core).loads = (s.slot core).loads.filter (fun y => y.row != r) ∧ (t.slot core).st = .running ∧
      t.mems = s.mems ∧ ∀ i < 64, ((t.slot core).rows.getD 0 (64 * r + i)).toNat = if 4 * i < x.size then v / 2 ^ (32 * i) % 2 ^ 32 else 0
    (x.sp ≠ .gl → s.piecesDone x.pieces 0 = false → exec (.piccoloSldReturn core r) s = .next s) ∧
    (x.sp ≠ .gl → s.piecesDone x.pieces 0 = true → ∃ t, exec (.piccoloSldReturn core r) s = .next t ∧ takes t (natOfBytes (pieceBytes x.pieces))) ∧
    (x.sp = .gl → s.leafWaits (coreCluster core) (leafOfLine (lineKey (s.slot core).ctx x.addr)) = true ∨ x.asked = true →
      exec (.piccoloSldReturn core r) s = .next s) ∧
    (∀ v u, x.sp = .gl → s.leafWaits (coreCluster core) (leafOfLine (lineKey (s.slot core).ctx x.addr)) = false → x.asked = false → rm = false →
      s.clusterLoad (coreCluster core) (s.slot core).ctx x.addr x.size (.slot core r) = (some v, u) →
      ∃ t, exec (.piccoloSldReturn core r) s = .next t ∧ takes t v)) ∧
  (∀ (s : State) core r x b n o c, (s.slot core).loads.find? (fun y => y.row == r) = some x → (s.slot core).st = .running →
    s.sldChk core (s.slot core) x = .bad b → (s.slot core).handle = some n → pendingOp s n o c →
    ∃ t, exec (.piccoloSldReturn core r) s = .next t ∧ (t.slot core).st = .idle ∧ ended t n o (.failed b)) ∧
  (∀ (s : State) core, (s.slot core).flush = 0 →
    let k := s.slot core
    let over_ := k.bound ≠ none ∧ k.st = .idle ∧ (∀ p ∈ k.queues, p.2 = []) ∧ s.heldQ core = 0
    (¬ over_ → exec (.bindingEnd core) s = .next s) ∧
    (over_ → ∃ t, exec (.bindingEnd core) s = .next t ∧ t.slot core = Slot.reset ∧ t.mems = s.mems ∧ t.store = s.store ∧ t.groups = s.groups))

/-- The piccolo slot: its words and steps: the two parts above. It rests on the model's choices of log entry 41. -/
def Obligations.StreamSlots : Prop := slotWordsRules ∧ slotStepsRules

/-! The sequencer (R274 to R290). -/

/-- Word b is the next word of the running stream of a cluster. -/
def seqAsked (s : State) (cl : Nat) (q : Seq) : Prop := s.issuer = .seq cl ∧ s.seqOf cl = q ∧ s.seqLive cl = true

/-- Word b is the next word of the running stream of a cluster, its row accepts it, and no load in flight writes a register that it names (R277). -/
def seqRuns (b : Body) (s : State) (cl : Nat) (q : Seq) : Prop := seqAsked s cl q ∧ b.good = true ∧ ∀ r ∈ seqRegs b, r ∉ q.pending

/-- Word i has issued: the stream's state is q' and it goes on at pc, its stall count zero; memory, the log store and the groups are as before. -/
def seqGoes (i : Instr) (s : State) (cl : Nat) (q' : Seq) (pc : Pc) : Prop :=
  ∃ t, exec i s = .next t ∧ t.seqOf cl = { q' with spc := pc, stallFrom := s.pcc } ∧ t.mems = s.mems ∧ t.store = s.store ∧ t.groups = s.groups

/-- Word i sets register d to v and the stream goes on at pc. -/
def seqSets (i : Instr) (s : State) (cl : Nat) (q : Seq) (d : Nat) (v : Dword) (pc : Pc) : Prop :=
  ∃ rs, seqGoes i s cl { q with s := rs } pc ∧ ∀ m : Nat, rs.getD 0 m = if m = d then v else q.reg m

/-- R276, R289: the stream stops with a trap: its record is to be written, its mailboxes close, and the Parts-engine words that have not started are gone. -/
def seqStops (t s : State) (cl : Nat) (q : Seq) (c : Cause) (deferred : Bool) (wpc : Pc) (d0 : Dword) : Prop :=
  (∃ tr, (t.seqOf cl).trap = some tr ∧ tr.cause = c ∧ tr.deferred = deferred ∧ tr.wpc = wpc ∧ tr.detail0 = d0 ∧ tr.lanes = 0 ∧ tr.ofs = 0) ∧
    (t.seqOf cl).st = .ended ∧ (t.seqOf cl).cause = c ∧ (t.seqOf cl).s = q.s ∧ (t.seqOf cl).spc = q.spc ∧ (t.seqOf cl).pxq = q.pxq.filter (·.started) ∧
    (t.cl cl).mailOpen = false ∧ t.mems = s.mems ∧ t.groups = s.groups

/-- Word i traps at its own PC. -/
def seqTraps (i : Instr) (s : State) (cl : Nat) (q : Seq) (c : Cause) (d0 : Dword) : Prop :=
  ∃ t, exec i s = .next t ∧ seqStops t s cl q c false q.spc d0

/-- R62, R277 to R279, R282: the arithmetic, logical, move and compare words of the sequencer and SCSRR write one register, of 64 bits, and nothing else. A word
that names a register of a load in flight waits; a word that its row does not accept traps ILLOP. -/
def sequencerArithmeticRules : Prop :=
  ∀ (w : Ctl) (s : State) cl (q : Seq),
    let a := q.val w.a
    let b := q.val w.b
    let sets (i : Instr) (v : Dword) : Prop :=
      (seqRuns (bodyOf i) s cl q → seqSets i s cl q (vReg w.d) v (q.spc + 12)) ∧
      (seqAsked s cl q → (bodyOf i).good = false → seqTraps i s cl q .illop 0) ∧
      (seqAsked s cl q → (bodyOf i).good = true → (∃ r ∈ seqRegs (bodyOf i), r ∈ q.pending) → exec i s = .next s)
    let num (x : Dword) : Int := if w.mod.getLsbD 3 then x.toInt else (x.toNat : Int)
    sets (.sadd w) (a + b) ∧ sets (.ssub w) (a - b) ∧ sets (.smul w) (a * b) ∧
    sets (.sand w) (a &&& b) ∧ sets (.sor w) (a ||| b) ∧ sets (.sxor w) (a ^^^ b) ∧
    sets (.sshl w) (if 64 ≤ b.toNat then 0 else a <<< b.toNat) ∧
    sets (.sshr w) (if w.mod.getLsbD 0 then (if 64 ≤ b.toNat then (if a.msb then BitVec.allOnes 64 else 0) else a.sshiftRight b.toNat)
      else if 64 ≤ b.toNat then 0 else a >>> b.toNat) ∧
    sets (.smov w) a ∧
    sets (.smovi w) (if w.mod.getLsbD 0 then w.imm ++ (q.reg (vReg w.d)).extractLsb' 0 32 else w.imm.signExtend 64) ∧
    sets (.scmp w) (if relInt (w.mod.toNat % 8) (num a) (num b) then 1 else 0) ∧
    sets (.scsrr w) s.pcc

/-- R280 to R282, R288: SBR and SJMP check their target, trapping there, and go to it or to the next word; SJMP writes its link first, its target register may be the
link's, and a link stands even where the target traps; SQPOST reserves a place for its message or waits; SQWAIT takes the
head message, waits, or traps SEQERR once the block has no group left; SWAITPX waits until at most n Parts-engine words are there; SEXIT ends the stream. -/
def sequencerControlRules : Prop :=
  ∀ (w : Ctl) (s : State) cl (q : Seq) l, s.launchOf q.launch = some l →
    let rel : Int := (q.spc.toNat : Int) + 12 * w.imm.toInt
    let off (t : Int) : Prop := t < 0 ∨ 2 ^ 48 ≤ t ∨ (t - (l.codeBase : Int)) % 12 ≠ 0
    let checked (i : Instr) (t : Int) : Prop :=
      (off t → seqTraps i s cl q .illop 0) ∧ (∀ c, ¬ off t → s.fetchCheck cl q.ctx t.toNat = some c → seqTraps i s cl q c 0) ∧
      (∀ c, ¬ off t → s.fetchCheck cl q.ctx t.toNat = none → s.fetchCheck cl q.ctx (t.toNat + 11) = some c → seqTraps i s cl q c 0)
    let good (t : Int) : Prop := ¬ off t ∧ s.fetchCheck cl q.ctx t.toNat = none ∧ s.fetchCheck cl q.ctx (t.toNat + 11) = none
    let m : Nat := w.imm.toNat % 16
    (seqRuns (bodyOf (.sbr w)) s cl q → checked (.sbr w) rel ∧
      (good rel → seqGoes (.sbr w) s cl q (if (q.val w.a = 0) = (w.mod.getLsbD 0 = true) then BitVec.ofInt 48 rel else q.spc + 12))) ∧
    (seqRuns (bodyOf (.sjmp w)) s cl q →
      let q' : Seq := if w.mod.getLsbD 1 then q.setReg (vReg w.d) ((q.spc + 12).setWidth 64) else q
      let t : Int := if w.mod.getLsbD 0 then ((q'.val w.a).toNat % 2 ^ 48 : Nat) else rel
      let stops (c : Cause) : Prop := ∃ t, exec (.sjmp w) s = .next t ∧ seqStops t s cl q' c false q.spc 0
      (w.mod.getLsbD 1 = true → ∀ m : Nat, q'.reg m = if m = vReg w.d then (q.spc + 12).setWidth 64 else q.reg m) ∧
      (off t → stops .illop) ∧ (∀ c, ¬ off t → s.fetchCheck cl q.ctx t.toNat = some c → stops c) ∧
      (∀ c, ¬ off t → s.fetchCheck cl q.ctx t.toNat = none → s.fetchCheck cl q.ctx (t.toNat + 11) = some c → stops c) ∧
      (good t → seqGoes (.sjmp w) s cl q' (BitVec.ofInt 48 t))) ∧
    (seqRuns (bodyOf (.sqpostSeq w)) s cl q →
      let shut := (s.heldM cl).getLsbD m = true ∨ 4 ≤ ((s.cl cl).box m).length
      (shut → exec (.sqpostSeq w) s = .next s) ∧
      (¬ shut → seqGoes (.sqpostSeq w) s cl q (q.spc + 12) ∧ ∀ t, exec (.sqpostSeq w) s = .next t →
        (∃ p, (t.cl cl).box m = (s.cl cl).box m ++ [p] ∧ p.msg = q.val w.a ∧ p.ready = false ∧ p.lost = false ∧ p.byGroup = none ∧ p.upto = s.fresh) ∧
        (∀ j, j ≠ m → (t.cl cl).box j = (s.cl cl).box j))) ∧
    (seqRuns (bodyOf (.sqwaitSeq w)) s cl q →
      let mine := ∃ p ∈ s.groups, p.2.launch = q.launch ∧ p.2.block = q.block
      ((s.cl cl).box m = [] → mine → exec (.sqwaitSeq w) s = .next s) ∧
      ((s.cl cl).box m = [] → ¬ mine → seqTraps (.sqwaitSeq w) s cl q .seqerr 0) ∧
      (∀ p ps, (s.cl cl).box m = p :: ps →
        ((s.heldM cl).getLsbD m = true ∨ s.takeable cl p = false → exec (.sqwaitSeq w) s = .next s) ∧
        ((s.heldM cl).getLsbD m = false → s.takeable cl p = true → seqSets (.sqwaitSeq w) s cl q (vReg w.d) p.msg (q.spc + 12) ∧
          ∀ t, exec (.sqwaitSeq w) s = .next t → (t.cl cl).box m = ps))) ∧
    (seqRuns (bodyOf (.swaitpx w)) s cl q →
      (q.pxq.length ≤ w.imm.toNat % 32 → seqGoes (.swaitpx w) s cl q (q.spc + 12)) ∧
      (w.imm.toNat % 32 < q.pxq.length → exec (.swaitpx w) s = .next s)) ∧
    (seqRuns (bodyOf (.sexit w)) s cl q → ∃ t, exec (.sexit w) s = .next t ∧
      t.seqOf cl = { q with st := .ended, cause := .none, trap := none, stallFrom := s.pcc } ∧ (t.cl cl).mailOpen = false ∧ t.mems = s.mems ∧
      t.store = s.store ∧ t.groups = s.groups)

/-- R130, R277, R281: SLD and SST check ALIGN, SPACE and translation, in that order; a good access goes into flight, and the stream goes on. -/
def sequencerAccessesRules : Prop :=
  ∀ (w : Ctl) (s : State) cl (q : Seq), ∀ p ∈ ([(.sld w, true), (.sst w, false)] : List (Instr × Bool)), seqRuns (bodyOf p.1) s cl q →
    ∀ sp, spaceOf (w.mod.extractLsb' 9 3) = some sp →
    let n : Nat := 2 ^ (w.mod.toNat / 64 % 8)
    let full : Dword := q.val w.a + w.imm.signExtend 64
    let a : Nat := if sp = .gl then full.toNat else full.toNat % 2 ^ 32
    (a % n ≠ 0 → seqTraps p.1 s cl q .align (BitVec.ofNat 64 a)) ∧
    (a % n = 0 → sp ≠ .gl → s.padOk q.launch (24 * cl) sp a n = false → seqTraps p.1 s cl q .space (BitVec.ofNat 64 a)) ∧
    (∀ c, a % n = 0 → sp = .gl → s.translate cl q.ctx a (needLoad n) = .bad c → seqTraps p.1 s cl q c (BitVec.ofNat 64 a)) ∧
    (∀ h, a % n = 0 → sp = .gl → s.translate cl q.ctx a (needLoad n) = .ok h → 2 ≤ h.mtype.toNat → seqTraps p.1 s cl q .access (BitVec.ofNat 64 a)) ∧
    (∀ pg, a % n = 0 → sp = .gl → s.translate cl q.ctx a (needLoad n) = .park pg → ∃ t, exec p.1 s = .next t ∧
      t.seqOf cl = q ∧ (∃ x ∈ t.waiters, x.2.who = .seq cl) ∧ t.mems = s.mems ∧ t.groups = s.groups) ∧
    (a % n = 0 → (sp ≠ .gl ∧ s.padOk q.launch (24 * cl) sp a n = true ∨
        sp = .gl ∧ ∃ h, s.translate cl q.ctx a (needLoad n) = .ok h ∧ h.mtype.toNat < 2) →
      ∃ x : SeqAcc, seqGoes p.1 s cl { q with accs := q.accs.set s.fresh x } (q.spc + 12) ∧ x.reg = vReg w.d ∧ x.sgn = w.mod.getLsbD 5 ∧ x.asked = false ∧
        x.acc.space = sp ∧ x.acc.addr = a ∧ x.acc.width = n ∧ x.acc.write = !p.2 ∧ x.acc.data = (q.reg (vReg w.d)).toNat ∧ x.acc.servedAt = none ∧
        x.acc.arriveAt = s.pcc + BitVec.ofNat 64 (padDist (24 * cl) sp a))

/-- R104, R126, R277, R281, R288: an SST leaves flight once its bank has served it and its time has come; an SLD's register then takes its bytes, sign-extended where it asks,
and it leaves flight; neither does anything before. An SLD of `.gl` waits where its home is being published, and takes its bytes from the cluster's own buffer, its LIB or the home. -/
def sequencerReturnsRules : Prop :=
  ∀ (s : State) cl k (x : SeqAcc), (s.seqOf cl).accs.get? k = some x → 0 < x.acc.width → x.acc.width ≤ 8 →
    let lands (t : State) (v : Nat) : Prop := ∃ rs, t.seqOf cl = { s.seqOf cl with s := rs, accs := (s.seqOf cl).accs.erase k } ∧
      (∀ m : Nat, rs.getD 0 m = if m ≠ x.reg then (s.seqOf cl).reg m
        else if x.sgn then ((BitVec.ofNat (8 * x.acc.width) v).signExtend 64) else BitVec.ofNat 64 (v % 2 ^ (8 * x.acc.width)))
    let first := (s.seqOf cl).accs.find? (fun a => !a.2.acc.write && a.2.reg == x.reg) = some (k, x)
    let lk := lineKey (s.seqOf cl).ctx x.acc.addr
    (x.acc.write = true →
      (s.piecesDone [x.acc] 0 = false → exec (.seqSstPerform cl k) s = .next s) ∧
      (s.piecesDone [x.acc] 0 = true → ∃ t, exec (.seqSstPerform cl k) s = .next t ∧
        t.seqOf cl = { s.seqOf cl with accs := (s.seqOf cl).accs.erase k } ∧ t.mems = s.mems ∧ t.store = s.store ∧ t.groups = s.groups)) ∧
    (x.acc.write = false → first → x.acc.space ≠ .gl →
      (s.piecesDone [x.acc] 0 = false → exec (.seqSldReturn cl x.reg) s = .next s) ∧
      (s.piecesDone [x.acc] 0 = true → ∃ t, exec (.seqSldReturn cl x.reg) s = .next t ∧ lands t x.acc.data ∧ t.mems = s.mems ∧ t.store = s.store ∧
        t.groups = s.groups)) ∧
    (x.acc.write = false → first → x.acc.space = .gl →
      (s.leafWaits cl (leafOfLine lk) = true ∨ x.asked = true → exec (.seqSldReturn cl x.reg) s = .next s) ∧
      (∀ v (u : State), s.leafWaits cl (leafOfLine lk) = false → x.asked = false → s.isRemote lk = false →
        s.clusterLoad cl (s.seqOf cl).ctx x.acc.addr x.acc.width (.seq cl) = (some v, u) → u.seqOf cl = s.seqOf cl →
        ∃ t, exec (.seqSldReturn cl x.reg) s = .next t ∧ lands t v ∧ t.mems = u.mems ∧ t.store = u.store ∧ t.groups = u.groups))

/-- Sequencer arithmetic, control, loads and stores: the four parts above. It rests on the model's choices of log entry 42. -/
def Obligations.SequencerWords : Prop := sequencerArithmeticRules ∧ sequencerControlRules ∧ sequencerAccessesRules ∧ sequencerReturnsRules

/-- R18, R275, R276, R289, R290: the stream starts RUNNING, once its future-table entry is free (the wait counts towards its stall), its mailboxes open and empty, its Parts engine at its reset, s17 the handle of its new future; when it has not issued for
2^32 cycles it traps STALL, unless its image is being published; its trap record is lodged at TREC and then the trap is gone; an ended stream with nothing under way resolves its handle; a
stream to be saved is lodged when it is quiet and no group of its block is resident, and then the sequencer is free.
It rests on the model's choices of log entries 42, 43. -/
def Obligations.SequencerStream : Prop :=
  ∀ (s : State) cl (q : Seq), s.seqOf cl = q →
    (∀ c, q.st = .ready → q.stopReq = false → q.saveReq = false → s.ctx? q.ctx = some c → (c.fut c.nextTag).st ≠ .pending → c.nextTag < 4096 →
      ∃ t c', exec (.streamStart cl) s = .next t ∧ (t.seqOf cl).st = .running ∧ (t.cl cl).mailOpen = true ∧ (∀ m, (t.cl cl).box m = []) ∧
        (t.cl cl).parts = Parts.reset ∧ (t.seqOf cl).spc = q.spc ∧ (t.seqOf cl).stallFrom = q.stallFrom ∧
        (∀ m : Nat, (t.seqOf cl).reg m = if m = 17 then (nextHandle c 6).setWidth 64 else q.reg m) ∧
        t.ctx? q.ctx = some c' ∧ (c'.fut c.nextTag).st = .pending ∧ t.mems = s.mems ∧ t.groups = s.groups) ∧
    (q.st ≠ .ready → exec (.streamStart cl) s = .next s) ∧
    (∀ c, s.ctx? q.ctx = some c → (c.fut c.nextTag).st = .pending → exec (.streamStart cl) s = .next s) ∧
    (q.st = .running ∨ q.st = .ready → q.trap = none → q.saveOp ≠ none → exec (.seqStall cl) s = .next s) ∧
    (q.st = .running ∨ q.st = .ready → q.trap = none → q.saveOp = none →
      (s.due (q.stallFrom + 0x100000000) = true → ∃ t, exec (.seqStall cl) s = .next t ∧ seqStops t s cl q .stall false q.spc 0) ∧
      (s.due (q.stallFrom + 0x100000000) = false → exec (.seqStall cl) s = .next s)) ∧
    (∀ tr, q.trap = some tr → tr.req = none → ∃ t, exec (.seqTrap cl) s = .next t ∧
      t.seqOf cl = { q with trap := some { tr with req := some s.fresh, stamp := s.pcc } } ∧
      lodged t s.fresh cl q.ctx q.trec (seqTrapRecord q tr s.pcc) ∧ t.mems = s.mems ∧ t.groups = s.groups) ∧
    (∀ tr k, q.trap = some tr → tr.req = some k → s.reqSt k ≠ .complete → exec (.seqTrap cl) s = .next s) ∧
    (∀ (tr : Trap) (now : BitVec 64),
      let at_ (o n : Nat) : Nat := natOfBytes (((seqTrapRecord q tr now).drop o).take n)
      (seqTrapRecord q tr now).length = 128 ∧ at_ 0 1 = tr.cause.code.toNat ∧ at_ 1 1 = (if tr.deferred then 1 else 0) ∧ at_ 6 2 = 0xFFFF ∧
        at_ 0x10 8 = tr.wpc.toNat ∧ at_ 0x18 8 = tr.wpc.toNat ∧ at_ 0x20 8 = 0 ∧ at_ 0x28 8 = now.toNat) ∧
    (q.saveReq = true → q.trap = none → q.st ≠ .free → q.saveOp = none →
      let here := ∃ g ∈ s.groups, g.2.blockKey = blockKey q.launch q.block ∧ ∃ c k, g.2.place = .resident c k
      ((q.accs ≠ [] ∨ q.pxq ≠ [] ∨ here) → exec (.seqSave cl) s = .next s) ∧
      (q.accs = [] → q.pxq = [] → ¬ here → ∃ t, exec (.seqSave cl) s = .next t ∧ (t.seqOf cl).saveOp = some s.fresh ∧ (t.seqOf cl).s = q.s ∧ (t.seqOf cl).spc = q.spc ∧
        lodged t s.fresh cl q.ctx (q.trec + 0x80) (s.seqImage cl) ∧ t.mems = s.mems)) ∧
    (∀ k, q.saveReq = true → q.trap = none → q.st ≠ .free → q.saveOp = some k →
      (s.reqSt k ≠ .complete → exec (.seqSave cl) s = .next s) ∧
      (s.reqSt k = .complete → ∃ t kept, exec (.seqSave cl) s = .next t ∧ (t.cl cl).saves.get? (blockKey q.launch q.block) = some kept ∧
        kept.seq.s = q.s ∧ kept.seq.spc = q.spc ∧ kept.parts = (s.cl cl).parts ∧ kept.mail = (s.cl cl).mail ∧ (t.cl cl).mailOpen = false ∧
        t.mems = s.mems)) ∧
    (∀ k b c blk, (s.cl cl).saves.get? blk = some k → s.blocks.get? blk = some b → s.ctx? k.seq.ctx = some c → q.st = .free → b.cluster = cl →
      b.held = false → b.ask = false → c.quiet = .running →
      b.resident = true ∨ restoreFirst s b (((s.launchOf b.launch).map (·.prio)).getD 0) = true → ∃ t, exec (.seqRestore cl blk) s = .next t ∧
        t.seqOf cl = { k.seq with stallFrom := s.pcc - k.seq.stallFrom } ∧ (t.cl cl).parts = k.parts ∧ (t.cl cl).mail = k.mail ∧
        (t.cl cl).mailOpen = k.isOpen ∧ t.mems = s.mems ∧ t.groups = s.groups) ∧
    ((s.cl cl).saves = [] → q.st = .ended → q.trap = none →
      (∀ n o c, q.handle = some n → pendingOp s n o c → o.kind = .stream → q.pxq = [] → (∀ a ∈ q.accs, a.2.acc.write = false) →
        ∃ t, exec (.streamHandleResolve cl) s = .next t ∧ ended t n o (if q.cause = .none then .ok else .failed q.cause) ∧ t.mems = s.mems ∧ t.groups = s.groups) ∧
      ((q.pxq ≠ [] ∨ ∃ a ∈ q.accs, a.2.acc.write = true) → exec (.streamHandleResolve cl) s = .next s)) ∧
    ((s.cl cl).saves = [] → q.stopReq = true → q.st = .running → q.trap = none → ∃ t, exec (.streamHandleResolve cl) s = .next t ∧ (t.seqOf cl).st = .ended ∧
      (t.seqOf cl).cause = .cancelled ∧ (t.seqOf cl).s = q.s ∧ (t.cl cl).mailOpen = false ∧ t.mems = s.mems ∧ t.groups = s.groups)

/-! The Parts engine (R79 to R85, R283 to R311). -/

/-- R283, R300, Tables 11-2 and 11-3: the ten PX words that enter the queue. Each first traps ALIGN at the first of its addresses that is misaligned, then SPACE where its range is
outside the windows; then it joins the end of the queue with the addresses it read, or waits while 32 words there have not started. -/
def partsWordsQueueRules : Prop :=
  ∀ (w : Ctl) (s : State) cl (q : Seq),
    let a : Nat := (q.val w.a).toNat % 2 ^ 32
    let b : Nat := (q.val w.b).toNat % 2 ^ 32
    let sp := if w.mod.getLsbD 0 then Space.ds else Space.cm
    let imm := w.imm.toNat
    let kb : Nat := imm / 2 ^ 12 % 256 + 1
    let nb := imm % 8 + 1
    let ts := 32 * (imm / 2 ^ 20)
    let list : List (Instr × List (Nat × Nat) × List (Space × Nat × Nat)) :=
      [(.pxldw w, [(a, 16)], [(sp, a, if imm % 4 = 0 then 3072 else if imm % 4 = 3 then 4096 else 2048)]),
       (.pxga w, [(a, 2), (b, 32)], [(.cm, a, 64 * nb)]),
       (.pxlda w, [(a, 32)], [(.cm, a, (32 * nb - 1) * ts + (33 * kb + 31) / 32 * 32)]),
       (.pxmm w, [], []), (.pxdm w, [], []), (.pxzero w, [], []), (.pxbyp w, [], []),
       (.pxdrn w, [(b, 16)], [(sp, b, 31 * (imm / 256) + 64 * (if imm % 2 = 1 then 2 else 4))]),
       (.pxsave w, [(a, 256)], [(sp, a, 227072)]), (.pxrest w, [(a, 256)], [(sp, a, 227072)])]
    ∀ p ∈ list, seqRuns (bodyOf p.1) s cl q →
      (∀ pre x post, p.2.1 = pre ++ x :: post → (∀ y ∈ pre, y.1 % y.2 = 0) → x.1 % x.2 ≠ 0 → seqTraps p.1 s cl q .align (BitVec.ofNat 64 x.1)) ∧
      ((∀ y ∈ p.2.1, y.1 % y.2 = 0) → ∀ x ∈ p.2.2, s.padOk q.launch (24 * cl) x.1 x.2.1 x.2.2 = false →
        seqTraps p.1 s cl q .space (BitVec.ofNat 64 x.2.1)) ∧
      ((∀ y ∈ p.2.1, y.1 % y.2 = 0) → (∀ x ∈ p.2.2, s.padOk q.launch (24 * cl) x.1 x.2.1 x.2.2 = true) →
        let n := (q.pxq.filter (fun o => !o.started)).length
        (32 ≤ n → exec p.1 s = .next s) ∧
        (n < 32 → ∃ x : PxOp, seqGoes p.1 s cl { q with pxq := q.pxq ++ [x] } (q.spc + 12) ∧ encode p.1 = [x.word] ∧ x.pc = q.spc ∧
          x.addr = (if p.1 = .pxdrn w then b else a) ∧ x.addr2 = b ∧ x.started = false ∧ x.idx = [] ∧ x.accs = [] ∧
          x.gone = false ∧ x.outside = false ∧ x.after = s.fresh))

/-- R308: PXSTAT waits for an empty queue, then writes the value of Table 11-5; with CLR it clears DFLAGS. -/
def partsStatusRules : Prop :=
  ∀ (w : Ctl) (s : State) cl (q : Seq), seqRuns (bodyOf (.pxstat w)) s cl q →
    let p := (s.cl cl).parts
    let z := p.zr (zNo w.a)
    (q.pxq ≠ [] → exec (.pxstat w) s = .next s) ∧
    (q.pxq = [] → ∃ v : Dword, seqSets (.pxstat w) s cl q (vReg w.d) v (q.spc + 12) ∧ v.extractLsb' 56 8 = (p.stage 1).valid ∧
      v.extractLsb' 48 8 = (p.stage 0).valid ∧ (∀ n < 4, v.getLsbD (40 + n) = (p.slot n).valid) ∧ v.extractLsb' 24 4 = p.dflags ∧ v.getLsbD 17 = z.zovf ∧
      v.getLsbD 16 = z.zloss ∧ v.extractLsb' 0 9 = z.eref ∧ v.extractLsb' 44 4 = 0 ∧ v.extractLsb' 28 12 = 0 ∧ v.extractLsb' 18 6 = 0 ∧ v.extractLsb' 9 7 = 0 ∧
      ∀ t, exec (.pxstat w) s = .next t → (t.cl cl).parts = if w.imm.getLsbD 0 then { p with dflags := 0 } else p)

/-- The queue of a cluster's stream is one operation x of word i with fields w. -/
def pxOnly (s : State) (cl : Nat) (i : Instr) (x : PxOp) : Prop := (s.seqOf cl).pxq = [x] ∧ encode i = [x.word] ∧ (bodyOf i).good = true

/-- R285, R313: the accesses of a gather's tokens on rows, in order, leaving at a time: 32 values and a scale byte for each row, none for padding. -/
def tokenPieces (cl : Nat) (leave : BitVec 64) (kb j : Nat) (rows : List (Option Nat)) : List Piece :=
  rows.flatMap (fun r => match r with
    | none => []
    | some a => readPieces (24 * cl) .cm leave (a + 32 * j) 32 ++ readPieces (24 * cl) .cm leave (a + 32 * kb + j) 1)

/-- R283, R285, R301 to R303, R310, R313: an operation alone in the queue starts at once unless it reads memory behind an SST under way; its accesses then leave for their banks: the
pieces of an image, a gather's index vector, the tokens of a PXLDA, the drained tile of a PXDRN after its 32 tokens, the image of a PXSAVE. A PXGA's tokens leave once its index
vector has returned, a token of the index 0xFFFF needing no access; the tokens of a gather go up to the first outside the windows. A PXMM or PXDM whose slot or blocks are not
valid stops the stream with PXERR, deferred, at its own word, and changes nothing. -/
def partsOperationsStartRules : Prop :=
  ∀ (w : Ctl) (s : State) cl (x : PxOp), x.started = false → x.gone = false → x.idx = [] → x.accs = [] → x.outside = false → (s.seqOf cl).st = .running →
    (s.seqOf cl).trap = none →
    let p := (s.cl cl).parts
    let sp := if w.mod.getLsbD 0 then Space.ds else Space.cm
    let imm := w.imm.toNat
    let nb := imm % 8 + 1
    let kb : Nat := imm / 2 ^ 12 % 256 + 1
    let j : Nat := imm / 16 % 256
    let ts := 32 * (imm / 2 ^ 20)
    let fits (row : Option Nat) : Prop := ∀ a, row = some a → s.padOk (s.seqOf cl).launch (24 * cl) .cm (a + 32 * j) 32 = true ∧
      s.padOk (s.seqOf cl).launch (24 * cl) .cm (a + 32 * kb + j) 1 = true
    let leaves (x' : PxOp) (leave : BitVec 64) (rows : List (Option Nat)) : Prop :=
      x'.gone = true ∧ ((∀ r ∈ rows, fits r) → x'.accs = tokenPieces cl leave kb j rows ∧ x'.outside = false) ∧
      (∀ pre r post, rows = pre ++ r :: post → (∀ y ∈ pre, fits y) → ¬ fits r → x'.accs = tokenPieces cl leave kb j pre ∧ x'.outside = true)
    let sst := ∃ a ∈ (s.seqOf cl).accs, a.2.acc.write = true ∧ a.1 < x.after
    let begins (f : PxOp → Prop) : Prop :=
      ∃ (t : State) (x' : PxOp), exec (.pxOpStart cl) s = .next t ∧ t.seqOf cl = { s.seqOf cl with pxq := [x'] } ∧
        x'.started = true ∧ x'.startAt = s.pcc ∧ x'.word = x.word ∧ x'.pc = x.pc ∧ x'.addr = x.addr ∧ x'.addr2 = x.addr2 ∧ x'.after = x.after ∧ f x' ∧
        (t.cl cl).parts = p ∧ t.mems = s.mems
    (∀ i ∈ ([.pxzero w, .pxbyp w] : List Instr), pxOnly s cl i x → begins (fun x' => x'.gone = true ∧ x'.idx = [] ∧ x'.accs = [])) ∧
    (pxOnly s cl (.pxdrn w) x → begins (fun x' => x'.gone = true ∧ x'.idx = [] ∧
      let z := p.zr (zNo w.a)
      let row (tok : Nat) : List Byte := (List.range 64).flatMap (fun rr =>
        le (if imm % 2 = 1 then 2 else 4) (drainElem (z.elem rr tok) z.eref.toInt (z.betaOf rr) (imm % 2 == 1)).1)
      x'.accs = (List.range 32).flatMap (fun tok => writePieces (24 * cl) sp (s.pcc + 32) (x.addr + tok * (imm / 256)) (row tok)))) ∧
    (pxOnly s cl (.pxsave w) x → begins (fun x' => x'.gone = true ∧ x'.idx = [] ∧ x'.accs = writePieces (24 * cl) sp s.pcc x.addr (partsImage p))) ∧
    (∀ i ∈ ([.pxldw w, .pxga w, .pxlda w, .pxrest w] : List Instr), pxOnly s cl i x → sst → exec (.pxOpStart cl) s = .next s) ∧
    (pxOnly s cl (.pxldw w) x → ¬ sst → begins (fun x' => x'.gone = true ∧ x'.idx = [] ∧
      x'.accs = readPieces (24 * cl) sp s.pcc x.addr (if imm % 4 = 0 then 3072 else if imm % 4 = 3 then 4096 else 2048))) ∧
    (pxOnly s cl (.pxrest w) x → ¬ sst → begins (fun x' => x'.gone = true ∧ x'.idx = [] ∧ x'.accs = readPieces (24 * cl) sp s.pcc x.addr 227072)) ∧
    (pxOnly s cl (.pxga w) x → ¬ sst → begins (fun x' => x'.gone = false ∧ x'.accs = [] ∧ x'.idx = readPieces (24 * cl) .cm s.pcc x.addr (64 * nb))) ∧
    (pxOnly s cl (.pxlda w) x → ¬ sst → begins (fun x' => x'.idx = [] ∧ leaves x' s.pcc ((List.range (32 * nb)).map (fun t => some (x.addr + t * ts))))) ∧
    (∀ y : PxOp, pxOnly s cl (.pxga w) x → y.word = x.word → y.addr2 = x.addr2 → y.gone = false → y.outside = false → y.idx ≠ [] →
      (piecesServed y.idx = none → s.gaLeave cl y = y) ∧
      (∀ t, piecesServed y.idx = some t → leaves (s.gaLeave cl y) (BitVec.ofNat 64 (t + padFixed .cm)) ((List.range (32 * nb)).map (fun u =>
        let e := natOfBytes (((pieceBytes y.idx).drop (2 * u)).take 2)
        if e = 0xFFFF then none else some (x.addr2 + e * ts))))) ∧
    (∀ i ∈ ([.pxmm w, .pxdm w] : List Instr), pxOnly s cl i x →
      let n := wIdx w.a
      let sl := p.slot n
      let ok := sl.valid = true ∧ (if i = .pxmm w then sl.fmt = 0
        else sl.fmt ≠ 0 ∧ (sl.fmt = 3 → n % 2 = 0 ∧ (p.slot (n + 1)).valid = true ∧ (p.slot (n + 1)).fmt = 3)) ∧
        ∀ k < imm % 8 + 1, (p.stage (aIdx w.b)).valid.getLsbD (imm / 8 % 8 + k) = true
      (ok → begins (fun x' => x'.gone = true ∧ x'.idx = [] ∧ x'.accs = [])) ∧
      (¬ ok → ∃ t, exec (.pxOpStart cl) s = .next t ∧ (∃ tr, (t.seqOf cl).trap = some tr ∧ tr.cause = .pxerr ∧ tr.deferred = true ∧ tr.wpc = x.pc) ∧
        (t.seqOf cl).st = .ended ∧ (t.seqOf cl).pxq = [] ∧ (t.cl cl).parts = p ∧ t.mems = s.mems))

/-- R79, R84, R85, R293 to R298, R301 to R309, R313, Table 11-7: what an operation alone in the queue leaves when it completes, with the bytes its accesses have returned; nothing
happens before its time, or before each of its accesses is done. A single slot loaded over one half of a valid pair leaves the other half not valid. -/
def partsOperationsCompleteRules : Prop :=
  ∀ (w : Ctl) (s : State) cl (x : PxOp), x.started = true → x.gone = true → (s.seqOf cl).trap = none →
    (s.seqOf cl).st = .running →
    let p := (s.cl cl).parts
    let imm := w.imm.toNat
    let nb := imm % 8 + 1
    let buf := pieceBytes x.accs
    let free (more : Nat) : Prop := s.due x.due = true ∧ s.piecesDone x.idx more = true ∧ s.piecesDone x.accs more = true
    let done_ (eff : Parts → Prop) : Prop := ∃ t, exec (.pxOpComplete cl 0) s = .next t ∧ t.seqOf cl = { s.seqOf cl with pxq := [] } ∧ eff (t.cl cl).parts ∧ t.mems = s.mems ∧
      t.store = s.store ∧ t.groups = s.groups
    let fails (c : Cause) (eff : Parts → Prop) : Prop := ∃ t, exec (.pxOpComplete cl 0) s = .next t ∧
      (∃ tr, (t.seqOf cl).trap = some tr ∧ tr.cause = c ∧ tr.deferred = true ∧ tr.wpc = x.pc) ∧ (t.seqOf cl).st = .ended ∧ (t.seqOf cl).pxq = [] ∧
      eff (t.cl cl).parts ∧ t.mems = s.mems
    let stage := aIdx w.d
    let others (p' : Parts) : Prop := p'.w = p.w ∧ p'.z = p.z ∧ p'.dflags = p.dflags ∧ ∀ n, n ≠ stage → p'.stage n = p.stage n
    (∀ i ∈ ([.pxldw w, .pxga w, .pxlda w, .pxmm w, .pxdm w, .pxzero w, .pxdrn w, .pxbyp w, .pxsave w, .pxrest w] : List Instr), pxOnly s cl i x →
      (s.due x.due = false ∨ s.piecesDone x.idx 0 = false ∨ s.piecesDone x.accs 0 = false) → exec (.pxOpComplete cl 0) s = .next s) ∧
    (pxOnly s cl (.pxldw w) x → free 8 → imm % 4 ≠ 3 →
      let n := wIdx w.d
      let ok := if imm % 4 = 0 then prepOk (memOf buf) else dirOk (BitVec.ofNat 2 imm) (memOf buf) 2048
      let mate := if n % 2 = 0 then n + 1 else n - 1
      let eff (v : Bool) (p' : Parts) : Prop := (p'.slot n).valid = v ∧ (p'.slot n).fmt.toNat = imm % 4 ∧ (v = true → ∀ k, (p'.slot n).image.read k = buf.getD k 0) ∧
        (∀ m, m ≠ n → p'.slot m = if m = mate ∧ (p.slot n).valid = true ∧ (p.slot n).fmt = 3 then WSlot.reset else p.slot m) ∧ p'.a = p.a ∧ p'.z = p.z ∧
        p'.dflags = p.dflags
      (ok = true → done_ (eff true)) ∧ (ok = false → fails .pxerr (eff false))) ∧
    (pxOnly s cl (.pxldw w) x → free 8 → imm % 4 = 3 →
      let n := wIdx w.d
      let ok := dirOk 3 (memOf (buf.take 2048)) 1024 && dirOk 3 (memOf (buf.drop 2048)) 1024
      let eff (v : Bool) (p' : Parts) : Prop := (p'.slot n).valid = v ∧ (p'.slot (n + 1)).valid = v ∧ (p'.slot n).fmt = 3 ∧ (p'.slot (n + 1)).fmt = 3 ∧
        (v = true → ∀ k < 2048, (p'.slot n).image.read k = buf.getD k 0 ∧ (p'.slot (n + 1)).image.read k = buf.getD (2048 + k) 0) ∧
        (∀ m, m ≠ n → m ≠ n + 1 → p'.slot m = p.slot m) ∧ p'.a = p.a ∧ p'.z = p.z ∧ p'.dflags = p.dflags
      (ok = true → done_ (eff true)) ∧ (ok = false → fails .pxerr (eff false))) ∧
    (∀ i ∈ ([.pxga w, .pxlda w] : List Instr), pxOnly s cl i x → free (4 * nb) →
      let padding (t : Nat) : Bool := decide (i = .pxga w) && natOfBytes (((pieceBytes x.idx).drop (2 * t)).take 2) == 0xFFFF
      let tok (t : Nat) : List Byte := if padding t then List.replicate 33 0 else (buf.drop (33 * ((List.range t).filter (fun u => !padding u)).length)).take 33
      let bad (n : Nat) : Prop := ∃ t, t < n ∧ (tok t).getD 32 0 = 0xFF
      let none_ (p' : Parts) : Prop := (p'.stage stage).valid = 0 ∧ others p'
      (x.outside = false → (∀ t < 32 * nb, (tok t).length = 33) → ¬ bad (32 * nb) → done_ (fun p' => (p'.stage stage).valid = BitVec.ofNat 8 (2 ^ nb - 1) ∧ others p' ∧
        ∀ t < 32 * nb, (∀ k < 32, (p'.stage stage).bytes.read (1056 * (t / 32) + 32 * (t % 32) + k) = (tok t).getD k 0) ∧
          (p'.stage stage).bytes.read (1056 * (t / 32) + 1024 + t % 32) = (tok t).getD 32 0)) ∧
      (x.outside = false → (∀ t < 32 * nb, (tok t).length = 33) → bad (32 * nb) → fails .pxerr none_) ∧
      (x.outside = true → ∀ n < 32 * nb, (∀ t < n, (tok t).length = 33) → (tok n).length < 33 →
        (bad n → fails .pxerr none_) ∧ (¬ bad n → fails .space none_))) ∧
    (pxOnly s cl (.pxmm w) x → free 0 → done_ (fun p' => p'.w = p.w ∧ p'.a = p.a ∧ p'.dflags = p.dflags ∧
      let sl := p.slot (wIdx w.a)
      let st := p.stage (aIdx w.b)
      let z0 := zNo w.d
      (∀ m, m < z0 ∨ z0 + nb ≤ m → p'.zr m = p.zr m) ∧
      ∀ k < nb, let z := p.zr (z0 + k); (p'.zr (z0 + k)).eref = z.eref ∧ ∀ rr < 64, ∀ tok < 32,
        let rec_ := sl.image.readLE (48 * rr) 48
        (p'.zr (z0 + k)).elem rr tok = (z96Acc (z.elem rr tok) (groupPartial rec_ (fun n => st.v (imm / 8 % 8 + k) tok n)) (e3m5Sig (recScale rec_))
          (e3m5Exp (recScale rec_)) (st.ea (imm / 8 % 8 + k) tok) z.eref.toInt).1 ∧ (p'.zr (z0 + k)).betaOf rr = recBand rec_)) ∧
    (pxOnly s cl (.pxdm w) x → free 0 → done_ (fun p' => p'.w = p.w ∧ p'.a = p.a ∧ p'.dflags = p.dflags ∧
      let n := wIdx w.a
      let st := p.stage (aIdx w.b)
      let z0 := zNo w.d
      (∀ m, m < z0 ∨ z0 + nb ≤ m → p'.zr m = p.zr m) ∧
      ∀ k < nb, let z := p.zr (z0 + k); (p'.zr (z0 + k)).eref = z.eref ∧ ∀ rr < 64, ∀ tok < 32,
        let g : Int := ((List.range 32).map (fun i => dirWeight (p.slot n) (p.slot (n + 1)) rr i * st.v (imm / 8 % 8 + k) tok i)).sum
        let sh : Int := (dirFmt (p.slot n).fmt).qmin + ((st.ea (imm / 8 % 8 + k) tok : Int) - 127) - (z.eref.toInt - 64)
        let c : Int := if 0 ≤ sh then g * 2 ^ sh.toNat else Int.fdiv g (2 ^ (-sh).toNat)
        (p'.zr (z0 + k)).elem rr tok = max (-(2 ^ 95)) (min (z.elem rr tok + c) (2 ^ 95 - 1)) ∧ (p'.zr (z0 + k)).betaOf rr = 0x3F80)) ∧
    (pxOnly s cl (.pxzero w) x → free 0 → done_ (fun p' => p'.w = p.w ∧ p'.a = p.a ∧ p'.dflags = p.dflags ∧
      ∀ n < 8, if w.imm.getLsbD n then (p'.zr n).eref = w.imm.extractLsb' 8 9 ∧ (p'.zr n).zloss = false ∧ (p'.zr n).zovf = false ∧
          (∀ rr tok, (p'.zr n).elem rr tok = 0) ∧ ∀ rr, (p'.zr n).betaOf rr = 0x3F80
        else p'.zr n = p.zr n)) ∧
    (pxOnly s cl (.pxdrn w) x → free 0 → done_ (fun p' => p' = { p with dflags := p'.dflags } ∧ p'.dflags &&& p.dflags = p.dflags)) ∧
    (pxOnly s cl (.pxbyp w) x → free 0 →
      let z := p.zr (zNo w.a)
      let half := if w.imm.getLsbD 3 then 1 else 0
      let blk (tok : Nat) : Nat × List Int × Flags :=
        xqa8Block ((List.range 32).map (fun i => (drainElem (z.elem (32 * half + i) tok) z.eref.toInt (z.betaOf (32 * half + i)) false).1))
      ((∀ tok < 32, (blk tok).1 ≠ 255) → done_ (fun p' => p'.w = p.w ∧ p'.z = p.z ∧ (∀ n, n ≠ stage → p'.stage n = p.stage n) ∧
        (∀ k < 8, (p'.stage stage).valid.getLsbD k = (decide (k = imm % 8) || (p.stage stage).valid.getLsbD k)) ∧
        (∀ tok < 32, (p'.stage stage).ea (imm % 8) tok = (blk tok).1 ∧ ∀ i < 32, (p'.stage stage).v (imm % 8) tok i = (blk tok).2.1.getD i 0) ∧
        ∀ k, k < 1056 * (imm % 8) ∨ 1056 * (imm % 8 + 1) ≤ k → (p'.stage stage).bytes.read k = (p.stage stage).bytes.read k)) ∧
      ((∃ tok, tok < 32 ∧ (blk tok).1 = 255) → fails .pxerr (fun p' => p'.w = p.w ∧ p'.z = p.z ∧ (∀ n, n ≠ stage → p'.stage n = p.stage n) ∧
        (∀ k < 8, (p'.stage stage).valid.getLsbD k = (decide (k ≠ imm % 8) && (p.stage stage).valid.getLsbD k)) ∧ (p'.stage stage).bytes = (p.stage stage).bytes))) ∧
    (pxOnly s cl (.pxsave w) x → free 0 → done_ (fun p' => p' = p)) ∧
    (pxOnly s cl (.pxrest w) x → free 8 →
      (∀ p', partsOf buf = some p' → done_ (fun r => r = p')) ∧ (partsOf buf = none → fails .pxerr (fun r => r = Parts.reset)))

/-- Parts-engine words queue, operations start and complete, and PXSTAT answers: the four parts above. It rests on the model's choices of log entry 44. -/
def Obligations.PartsEngine : Prop := partsWordsQueueRules ∧ partsStatusRules ∧ partsOperationsStartRules ∧ partsOperationsCompleteRules

/-! The table-query engine (R316 to R331). -/

/-- Operation n is under way and its future is PENDING. -/
def pend (s : State) (n : Nat) (o : AOp) (c : Ctx) : Prop :=
  s.aops.get? n = some o ∧ s.ctx? o.ctx = some c ∧ (c.fut o.tag).op = n ∧ (c.fut o.tag).st = .pending

/-- R316 to R322, R328: each of the five table words in its order of checks. TLOAD traps TQBAD where its table is not FREE or its count is out of range, then ALIGN, SPACE
or NOMAP, and otherwise takes the table LOADING. TFREE traps TQBAD unless its table is READY, and otherwise takes it FREEING. TQ and TQ2 trap TQBAD where the table cannot be
used from the die, then where a lane's index is not below COUNT, and otherwise send one packet of the effective lanes' indices, whose j-bits they clear, and whose lanes
call. TMAP traps TQBAD, ALIGN, NOMAP, is DONE at once over no bytes, and otherwise starts. -/
def queryWordsRules : Prop :=
  ∀ (w : Ctl) (s : State) gid second (g : Group) r c, s.ctx? g.ctx = some c →
    let n : Nat := w.imm.toNat % 256
    let tab := s.table g.ctx n
    let die := s.grpCluster g / 8
    let traps (i : Instr) (k : Cause) (lanes : Lanes) (d0 : Dword) : Prop :=
      second = false → ∃ tr, exec i s = .next (s.afterTrap gid g tr) ∧ tr.cause = k ∧ tr.lanes = lanes ∧ tr.detail0 = d0 ∧ tr.mask = r.mask ∧ tr.wpc = wordPc r.pc r.idx
    let a : Dword := g.regs.greg (gReg w.a)
    let b : Dword := g.regs.greg (gReg w.b)
    (Runs (bodyOf (.tload w)) s gid second g r →
      let i := Instr.tload w
      let wide := w.mod.getLsbD 0
      let size := if wide then 4 else 2
      let end_ : Nat := a.toNat + b.toNat * size
      let bad := tab.st ≠ .free ∨ b = 0 ∨ (if wide then 2048 else 4096) < b.toNat
      (bad → traps i .tqbad r.mask (BitVec.ofNat 64 n)) ∧
      (¬ bad → a.toNat % size ≠ 0 → traps i .align r.mask a) ∧
      (¬ bad → a.toNat % size = 0 → w.mod.getLsbD 2 = true → s.padOk g.launch (s.grpCore g) .cm a.toNat (b.toNat * size) = false → traps i .space r.mask a) ∧
      (¬ bad → a.toNat % size = 0 → w.mod.getLsbD 2 = false → 2 ^ 48 < end_ → traps i .nomap r.mask a) ∧
      (¬ bad → a.toNat % size = 0 → (w.mod.getLsbD 2 = true → s.padOk g.launch (s.grpCore g) .cm a.toNat (b.toNat * size) = true) →
        (w.mod.getLsbD 2 = false → end_ ≤ 2 ^ 48) → starts i s gid second g r c w.d 2 true (.tload n a.toNat (w.mod.getLsbD 2)) .queued ∧
        ∀ t, (c.fut c.nextTag).st ≠ .pending → c.nextTag < 4096 → exec i s = .next t → (t.table g.ctx n).st = .loading ∧ (t.table g.ctx n).count = b.toNat ∧
          (t.table g.ctx n).wide = wide ∧ (t.table g.ctx n).loc = if w.mod.getLsbD 1 then some (dieStack die) else none)) ∧
    (Runs (bodyOf (.tfree w)) s gid second g r →
      let i := Instr.tfree w
      (tab.st ≠ .ready → traps i .tqbad r.mask (BitVec.ofNat 64 n)) ∧
      (tab.st = .ready → starts i s gid second g r c w.d 2 true (.tfree n) .running ∧
        ∀ t, (c.fut c.nextTag).st ≠ .pending → c.nextTag < 4096 → exec i s = .next t → (t.table g.ctx n).st = .freeing ∧ (t.table g.ctx n).frame = tab.frame ∧
          (die < 32 → (t.table g.ctx n).view die = .freeing))) ∧
    (∀ i ∈ ([.tq w, .tq2 w] : List Instr), Runs (bodyOf i) s gid second g r →
      let on (l : Nat) : Bool := r.mask.getLsbD l && (g.regs.creg (w.mod.toNat / 16 % 8)).getLsbD l
      let sh : Nat := w.mod.toNat / 2 ^ 8
      let va (l : Nat) : Nat := (readLane g.regs .b32 w.a l).toNat % 2 ^ 32
      let vb (l : Nat) : Nat := (readLane g.regs .b32 w.b l).toNat % 2 ^ 32
      let ix (l : Nat) : Nat := if i = .tq w then va l else va l % 2 ^ (12 - sh) * 2 ^ sh + vb l % 2 ^ sh
      (tab.usable die = false → traps i .tqbad r.mask (BitVec.ofNat 64 n)) ∧
      (tab.usable die = true → ∀ k < 64, on k = true → tab.count ≤ ix k → (∀ l < k, on l = true → ix l < tab.count) → second = false →
        ∃ tr, exec i s = .next (s.afterTrap gid g tr) ∧ tr.cause = .tqbad ∧ tr.detail0 = BitVec.ofNat 64 (n + 256 + 2 ^ 32 * ix k) ∧
          ∀ l < 64, tr.lanes.getLsbD l = (on l && decide (tab.count ≤ ix l))) ∧
      (tab.usable die = true → (∀ l < 64, on l = true → ix l < tab.count) →
        ((∀ l < 64, on l = false) → exec i s = .next (s.afterWord gid second g)) ∧
        ((∃ l, l < 64 ∧ on l = true) → tqRoute (s.grpCore g) (ctxSlot g) < 2 ^ 48 → ∃ (t : State) (g' : Group) (p : TqPkt) (m : Lanes) (r' : Run), exec i s = .next t ∧ (∀ l < 64, m.getLsbD l = on l) ∧
          t.pkts = s.pkts.set s.fresh p ∧ p.gid = gid ∧ p.table = n ∧ p.ctx = g.ctx ∧ p.stack = dieStack die ∧ p.die = die ∧ p.dest = vReg w.d ∧ p.req.length = 144 ∧
          p.frame = tab.frame % 256 ∧ p.wide = tab.wide ∧ p.sx = w.mod.getLsbD 7 ∧ p.j = w.imm.extractLsb' 8 3 ∧ p.lanes = m ∧
          p.hdr / 2 ^ 16 % 2 ^ 48 = tqRoute (s.grpCore g) (ctxSlot g) ∧ (∀ l < 64, p.idx l = if on l = true then ix l % 4096 else 0) ∧
          p.chan = none ∧ p.reply = none ∧ p.err = 0 ∧ p.pc = wordPc r.pc r.idx ∧ p.ofs = r.idx ∧ t.grp gid = some g' ∧ g'.runOn second = some r' ∧ r'.idx = r.idx + 1 ∧ r'.caller = r.caller ||| m ∧ r'.callMask = w.imm.extractLsb' 8 3 ∧
          g'.regs = g.regs.setJ (w.imm.toNat / 2 ^ 8 % 8) (g.regs.jreg (w.imm.toNat / 2 ^ 8 % 8) &&& ~~~m) ∧ g' = { g with regs := g'.regs, run := g'.run, run2 := g'.run2 } ∧
          t.mems = s.mems ∧ t.store = s.store))) ∧
    (Runs (bodyOf (.tmap w)) s gid second g r →
      let i := Instr.tmap w
      let size := if w.mod.getLsbD 0 then 2 else 1
      let ok := a.toNat % size = 0 ∧ b.toNat % size = 0
      (tab.usable die = false → traps i .tqbad r.mask (BitVec.ofNat 64 n)) ∧
      (tab.usable die = true → ¬ ok → traps i .align r.mask a) ∧
      (tab.usable die = true → ok → 2 ^ 48 < a.toNat + b.toNat → traps i .nomap r.mask a) ∧
      (tab.usable die = true → ok → a.toNat + b.toNat ≤ 2 ^ 48 →
        (b ≠ 0 → starts i s gid second g r c w.d 2 true (.tmap n a.toNat b.toNat (w.mod.getLsbD 0) (w.mod.toNat / 2 % 16)) .queued) ∧
        (b = 0 → (c.fut c.nextTag).st ≠ .pending → c.nextTag < 4096 → ∃ t c', exec i s = .next t ∧ t.ctx? g.ctx = some c' ∧ (c'.fut c.nextTag).st = .ok ∧
          (∃ g', t.grp gid = some g' ∧ g'.regs = g.regs.setF (fNum w.d) (nextHandle c 2)) ∧ t.mems = s.mems ∧ t.store = s.store)))

/-- R316, R320, R321, R324, R327 to R330: the engine's steps. A packet goes to a channel, the first awake one after the one its die's agent used last, and is answered, once that
channel is awake, with 280 bytes: the request's header, the error mask, and the entries of its frame, zero for a lane that did not call or is in error. The answer writes each
lane's destination and sets the bit of every lane that no other packet awaits; a frame error leaves its lane's register, and its HWERR is kept until its lanes return. Lanes
parked under one mask return together when all their bits are set, and the errors kept for them become deferred traps. A table loaded from cluster memory takes the lowest free
frame, its bytes and then zeros; it is READY, and its handle DONE when every die sees it; a freed table is FREE when no packet and no TMAP uses it. A TMAP of indices in range
has the entries written as shadow records, which no home shows before their one publication, and one out of range fails it. -/
def queryStepsRules : Prop :=
  (∀ (s : State) k (p : TqPkt) c, s.pkts.get? k = some p → p.reply = none → p.chan = some c → p.req.length = 144 →
    let key := 64 * p.stack + c
    ((s.chan key).st = .active → ∃ (t : State) (bs : List Byte), exec (.tqPacketServe k) s = .next t ∧ t.pkts = s.pkts.set k { p with reply := some bs } ∧
      bs.length = 280 ∧ bs.take 16 = p.req.take 16 ∧ natOfBytes ((bs.drop 16).take 8) = p.err.toNat ∧
      (∀ l < 64, natOfBytes ((bs.drop (24 + 4 * l)).take 4) = if p.lanes.getLsbD l && !p.err.getLsbD l then (if p.wide
        then s.mems.frame.readLE ((256 * p.stack + p.frame) * 8192 + 4 * p.idx l) 4 else s.mems.frame.readLE ((256 * p.stack + p.frame) * 8192 + 2 * p.idx l) 2) else 0) ∧
      t.mems = s.mems ∧ t.groups = s.groups) ∧
    ((s.chan key).st ≠ .active → ∃ t, exec (.tqPacketServe k) s = .next t ∧ t.pkts = s.pkts ∧ (t.chan key).wakeAt ≠ none ∧ t.groups = s.groups)) ∧
  (∀ (s : State) k p, s.pkts.get? k = some p → p.reply = none → p.chan = none →
    let nth (i : Nat) : Nat := ((s.die p.die).lastChan + 1 + i) % 64
    let awake (i : Nat) : Prop := (s.chan (64 * p.stack + nth i)).st = .active
    ∃ t i, exec (.tqPacketServe k) s = .next t ∧ t.pkts = s.pkts.set k { p with chan := some (nth i) } ∧ (t.die p.die).lastChan = nth i ∧ i < 64 ∧
      (∀ m < i, ¬ awake m) ∧ (awake i ∨ i = 0 ∧ ∀ m < 64, ¬ awake m) ∧ t.mems = s.mems ∧ t.groups = s.groups) ∧
  (∀ (s : State) k p g (bs : List Byte), s.pkts.get? k = some p → p.reply = some bs → s.grp p.gid = some g → p.dest < 128 →
    let err : Lanes := BitVec.ofNat 64 (natOfBytes ((bs.drop 16).take 8))
    let x (l : Nat) : Word := BitVec.ofNat 32 (natOfBytes ((bs.drop (24 + 4 * l)).take 4))
    ∃ t g', exec (.tqReply k) s = .next t ∧ t.pkts = s.pkts.erase k ∧ t.grp p.gid = some g' ∧ g' = { g with regs := g'.regs, tqErrs := g'.tqErrs } ∧
      (∀ l < 64, g'.regs.vreg p.dest l = if p.lanes.getLsbD l = false ∨ err.getLsbD l = true then g.regs.vreg p.dest l
        else if p.wide then x l else if p.sx then ((x l).extractLsb' 0 16).signExtend 32 else ((x l).extractLsb' 0 16).setWidth 32) ∧
      (∀ n l, n ≠ p.dest → l < 64 → g'.regs.vreg n l = g.regs.vreg n l) ∧
      (∀ l < 64, (g'.regs.jreg p.j.toNat).getLsbD l = ((g.regs.jreg p.j.toNat).getLsbD l ||
        (p.lanes.getLsbD l && !(t.pkts.any (fun q => q.2.gid == p.gid && q.2.lanes.getLsbD l))))) ∧
      (err = 0 → g'.tqErrs = g.tqErrs) ∧
      (err ≠ 0 → ∃ tr, g'.tqErrs = g.tqErrs ++ [(p.j, tr)] ∧ tr.cause = .hwerr ∧ tr.deferred = true ∧ tr.lanes = err ∧ tr.wpc = p.pc ∧ tr.ofs = p.ofs) ∧
      t.mems = s.mems) ∧
  (∀ (s : State) n o tab image c, s.aops.get? n = some o → o.kind = .tload tab image true → o.stage = .running → s.ctx? o.ctx = some c →
    (s.table o.ctx tab).loc = some 0 →
    let len := (s.table o.ctx tab).count * (if (s.table o.ctx tab).wide then 4 else 2)
    let got := o.pieces.filter (fun x => !x.write)
    (got = [] → ∃ t, exec (.tloadComplete n) s = .next t ∧ t.mems = s.mems ∧ t.store = s.store ∧ t.ctxs = s.ctxs ∧
      t.aops.get? n = some { o with pieces := o.pieces ++ readPieces (24 * o.cluster) .cm s.pcc image len }) ∧
    (got ≠ [] → s.piecesDone got 0 = false → exec (.tloadComplete n) s = .next s) ∧
    (got ≠ [] → s.piecesDone got 0 = true → len ≤ 8192 → ∀ f, s.freeFrame [0] = some f → ∃ t o', exec (.tloadComplete n) s = .next t ∧ t.aops.get? n = some o' ∧
      o' = { o with stage := .holding, pieces := o.pieces.filter (·.write) } ∧ (t.table o.ctx tab).st = .ready ∧ (t.table o.ctx tab).frame = f ∧
      f ∉ (s.stack 0).frames ∧ f ∈ (t.stack 0).frames ∧
      (∀ k < 8192, t.mems.frame.read (8192 * f + k) = if k < len then (pieceBytes got).getD k 0 else 0) ∧
      (∀ k, k < 8192 * f ∨ 8192 * f + 8192 ≤ k → t.mems.frame.read k = s.mems.frame.read k) ∧ t.mems.cm = s.mems.cm ∧ t.store = s.store)) ∧
  (∀ (s : State) n o tab image cm c, s.ctx? o.ctx = some c → s.aops.get? n = some o → o.kind = .tload tab image cm → o.stage = .holding →
    ∃ t, exec (.tloadComplete n) s = .next t ∧ t.aops.get? n = none ∧ (∀ d, (s.table o.ctx tab).st = .ready → d < 32 → (t.table o.ctx tab).view d = .ready) ∧
      t.mems = s.mems ∧ t.store = s.store) ∧
  (∀ (s : State) n o tab c, pend s n o c → o.kind = .tfree tab →
    ((s.table o.ctx tab).seen = BitVec.allOnes 32 → s.tableBusy o.ctx tab = true → exec (.tfreeComplete n) s = .next s) ∧
    ((s.table o.ctx tab).seen = BitVec.allOnes 32 → s.tableBusy o.ctx tab = false → ∃ t, exec (.tfreeComplete n) s = .next t ∧ t.aops.get? n = none ∧
      (t.table o.ctx tab).st = .free ∧ (∃ c', t.ctx? o.ctx = some c' ∧ (c'.fut o.tag).st = .ok) ∧ t.mems = s.mems)) ∧
  (∀ (s : State) n o tab base len half rsh, s.aops.get? n = some o → o.kind = .tmap tab base len half rsh → o.stage = .running →
    let a := base + o.chunk
    let k := min (len - o.chunk) (256 - a % 256)
    let size := if half then 2 else 1
    let tb := s.table o.ctx tab
    (∀ bs, o.outs = [] → o.chunk < len → k % size = 0 → bs.length = k → o.lineBytes a k = some bs →
      (∃ u, s.engineChk o.cluster o.ctx a k { rd := true, wr := true, ex := false, atom := false, width := 1 } = .ok u) →
      let x (i : Nat) : Nat := natOfBytes ((bs.drop (size * i)).take size) / 2 ^ rsh
      ((∀ i < k / size, x i < tb.count) → ∃ (t : State) (o' : AOp) (ys : List Byte), exec (.tmapComplete n) s = .next t ∧ t.aops.get? n = some o' ∧
        o' = { o with outs := [(a, ys)], chunk := o.chunk + k, bufs := o'.bufs } ∧ ys.length = k ∧
        (∀ i < k / size, natOfBytes ((ys.drop (size * i)).take size) = s.tableEntry (clusterStack o.cluster) tb.frame tb.wide (x i) % 256 ^ size) ∧
        t.mems = s.mems ∧ t.store = s.store) ∧
      (∀ i c, i < k / size → tb.count ≤ x i → pend s n o c → ∃ t, exec (.tmapComplete n) s = .next t ∧ ended t n o (.failed .tqbad) ∧ t.mems = s.mems)) ∧
    (o.outs ≠ [] → ∃ t o', exec (.tmapComplete n) s = .next t ∧ t.aops.get? n = some o' ∧ o'.chunk = o.chunk ∧ o'.stage = .running ∧ t.mems = s.mems ∧
      t.store.leaves = s.store.leaves) ∧
    (o.outs = [] → len ≤ o.chunk → ∃ t rq, exec (.tmapComplete n) s = .next t ∧ t.aops.get? n = some { o with stage := .publishing s.fresh } ∧
      t.store.reqs.get? s.fresh = some rq ∧ rq.kind = .solo ∧ rq.log = 258 + 4 * clusterStack o.cluster ∧ rq.lines.length = o.shadow.length ∧ t.mems = s.mems ∧
      t.store.leaves = s.store.leaves)) ∧
  (∀ (s : State) gid g (j : BitVec 3), s.grp gid = some g → g.run = none → g.run2 = none →
    let mine := g.parked.filter (fun p => p.j == j)
    let all := mine ≠ [] ∧ ∀ p ∈ mine, (g.regs.jreg j.toNat).getLsbD p.lane = true
    ∃ t g', exec (.lanesReturn gid j) s = .next t ∧ t.grp gid = some g' ∧
      g' = { g with parked := g'.parked, pcs := g'.pcs, tqErrs := g'.tqErrs, deferred := g'.deferred } ∧ t.mems = s.mems ∧ t.store = s.store ∧
      (¬ all → g' = g) ∧
      (all → g'.parked = g.parked.filter (fun p => p.j != j) ∧ g'.tqErrs = g.tqErrs.filter (fun p => p.1 != j) ∧
        (∀ p ∈ mine, p.lane < 64 → ∃ x ∈ g'.pcs, x.pc = p.pc ∧ x.mask.getLsbD p.lane = true) ∧
        (∀ p ∈ g.tqErrs, p.1 = j → ∃ tr ∈ g'.deferred, tr.cause = p.2.cause ∧ ∀ l < 64, p.2.lanes.getLsbD l = true → tr.lanes.getLsbD l = true)))

/-- Tables and table queries: the two parts above. It rests on the model's choices of log entry 39. -/
def Obligations.TablesAndQueries : Prop := queryWordsRules ∧ queryStepsRules

/-! The landing engine (R332 to R348). -/

/-- R346, R347: LANDR and both roles of LANDC trap ALIGN off a multiple of 64, SPACE where a `.cm` block has no room, NOMAP where a `.gl` block passes 2^48, and otherwise start. -/
def landingWordsRules : Prop :=
  ∀ (w : Ctl) (s : State) gid second (g : Group) r c, s.ctx? g.ctx = some c →
    let a : Nat := (g.regs.greg (gReg w.a)).toNat
    let cm := w.mod.getLsbD 0
    ∀ p ∈ ([(.landr w, .landr a cm none), (.landcArm w, .arm a cm none), (.landcPut w, .put a cm none)] : List (Instr × AKind)),
      Runs (bodyOf p.1) s gid second g r → (p.1 = .landcArm w → w.mod.getLsbD 1 = false) → (p.1 = .landcPut w → w.mod.getLsbD 1 = true) →
      let traps (k : Cause) : Prop := second = false → ∃ tr, exec p.1 s = .next (s.afterTrap gid g tr) ∧ tr.cause = k ∧ tr.lanes = r.mask ∧
        tr.detail0 = BitVec.ofNat 64 a ∧ tr.wpc = wordPc r.pc r.idx
      (a % 64 ≠ 0 → traps .align) ∧
      (a % 64 = 0 → cm = true → s.padOk g.launch (s.grpCore g) .cm a 64 = false → traps .space) ∧
      (a % 64 = 0 → cm = false → 2 ^ 48 < a + 64 → traps .nomap) ∧
      (a % 64 = 0 → (cm = true → s.padOk g.launch (s.grpCore g) .cm a 64 = true) → (cm = false → a + 64 ≤ 2 ^ 48) →
        starts p.1 s gid second g r c w.d 3 true p.2 .queued)

/-- R333 to R336, Tables 13-1 and 13-2: the fields of a parameter block; and the reduced value of an element over an integer type: the exact sum, wrapped or clamped, or the
least or the greatest of the values. -/
def landingBlocksRules : Prop :=
  (∀ bs : List Byte, bs.length = 64 →
    let d (i : Nat) : Nat := natOfBytes ((bs.drop (8 * i)).take 8)
    let b := landBlkOf bs
    b.nsrc = d 0 / 2 ^ 16 % 64 ∧ b.order.toNat = d 0 / 2 ^ 13 % 4 ∧ b.sat = decide (d 0 / 2 ^ 12 % 2 = 1) ∧ b.fmt.toNat = d 0 / 2 ^ 8 % 16 ∧ b.op.toNat = d 0 % 256 ∧
      b.nelem = d 1 % 2 ^ 28 ∧ b.src = d 2 ∧ b.dst = d 3 ∧ b.flag = d 4 ∧ b.fval.toNat = d 5 ∧ b.stw = d 6 ∧ b.self = decide (d 7 / 2 ^ 44 % 2 = 1) ∧
      b.modn.toNat = d 7 / 2 ^ 32 % 2 ^ 12 ∧ b.rank = d 7 / 2 ^ 16 % 64 ∧ b.tag.toNat = d 7 % 2 ^ 16) ∧
  (∀ (b : LandBlk) (xs : List Nat), xs ≠ [] → (∀ x ∈ xs, x < 2 ^ (8 * b.esize)) → b.fmt.toNat = 4 ∨ b.fmt.toNat = 5 ∨ b.fmt.toNat = 6 ∨ b.fmt.toNat = 7 →
    let n := 8 * b.esize
    let signed := b.fmt.toNat = 5 ∨ b.fmt.toNat = 7
    let val (x : Nat) : Int := if signed ∧ 2 ^ (n - 1) ≤ x then (x : Int) - 2 ^ n else x
    let v := val (reduceElem b xs).1
    let top : Int := if signed then 2 ^ (n - 1) - 1 else 2 ^ n - 1
    let bot : Int := if signed then -2 ^ (n - 1) else 0
    (b.op = 0 → b.sat = false → (v - (xs.map val).sum) % 2 ^ n = 0) ∧
    (b.op = 0 → b.sat = true → v = max bot (min top (xs.map val).sum)) ∧
    (b.op = 1 → (∃ x ∈ xs, v = val x) ∧ ∀ x ∈ xs, v ≤ val x) ∧
    (b.op = 2 → (∃ x ∈ xs, v = val x) ∧ ∀ x ∈ xs, val x ≤ v))

/-- R332 to R334, R340 to R344: an operation's block is read when its group's accesses have performed, and checked ILLOP, ALIGN, NOMAP; the first failure ends it FAILED with that
cause. A put then runs; a LANDR or an arm arrives at its engine, which accepts the first that has arrived while fewer than 32 are in progress: a LANDR asks for its table's
lines to be published, an arm waits for its chunk buffers. The waiting arm that arrived first takes two free buffers for each rank when so many are free. A put of this module
meets no arm and waits, or an arm whose fields differ, or whose rank another put has, and fails with ILLOP, or has its chunk accepted once it is within two of the
lowest that is not complete; one that met no arm tries again after 800 cycles. -/
def landingStartsRules : Prop :=
  (∀ (s : State) n o c a, ∀ p ∈ ([(.landr a true none, .landr), (.arm a true none, .arm), (.put a true none, .put)] : List (AKind × LandRole)),
    pend s n o c → o.kind = p.1 → o.stage = .queued →
    let ready := ∀ gid, o.gid = some gid → s.accessesDone gid n = true
    let got := o.pieces.filter (fun x => !x.write)
    let read := ready ∧ got ≠ [] ∧ s.piecesDone got 0 = true
    let bs := (pieceBytes got).take 64
    let b := landBlkOf bs
    let d (i : Nat) : Nat := natOfBytes ((bs.drop (8 * i)).take 8)
    let fm := b.fmt.toNat
    let e : Nat := if fm = 4 ∨ fm = 5 ∨ fm = 8 then 4 else if fm = 6 ∨ fm = 7 then 8 else 2
    let illCommon := d 0 / 2 ^ 22 ≠ 0 ∨ d 0 / 2 ^ 15 % 2 = 1 ∨ d 1 / 2 ^ 28 ≠ 0 ∨ d 7 / 2 ^ 45 ≠ 0 ∨ d 7 / 2 ^ 22 % 2 ^ 10 ≠ 0 ∨ 2 < b.op.toNat ∨ b.order = 3 ∨
      fm ∉ [4, 5, 6, 7, 8, 10] ∨ b.nelem = 0 ∨ (b.order = 0 ∧ b.flag ≠ 0) ∨ (b.order ≠ 0 ∧ b.flag = 0) ∨ (b.sat = true ∧ (b.op ≠ 0 ∨ 8 ≤ fm))
    let named := b.rank ≠ 0 ∨ b.modn ≠ 0 ∨ b.self = true
    let ill := illCommon ∨ (p.2 = .landr ∧ (named ∨ b.tag ≠ 0)) ∨ (p.2 = .arm ∧ (named ∨ b.src ≠ 0 ∨ (s.armFor b.tag).isSome = true)) ∨
      (p.2 = .put ∧ (b.nsrc < b.rank ∨ b.dst ≠ 0 ∨ (b.self = true ∧ b.modn ≠ 0)))
    let off := b.flag % 8 ≠ 0 ∨ b.stw % 8 ≠ 0 ∨ b.dst % e ≠ 0 ∨ (p.2 = .landr ∧ b.src % 8 ≠ 0) ∨ (p.2 = .put ∧ b.src % e ≠ 0)
    let far := 2 ^ 48 < b.flag + 8 ∨ 2 ^ 48 < b.stw + 8 ∨ 2 ^ 48 < b.dst + b.nelem * e ∨ (p.2 = .landr ∧ 2 ^ 48 < b.src + 8 * (b.nsrc + 1)) ∨
      (p.2 = .put ∧ 2 ^ 48 < b.src + b.nelem * e)
    let fails (k : Cause) : Prop := ∃ t, exec (.landOpStart n) s = .next t ∧ ended t n o (.failed k) ∧ t.mems = s.mems ∧ t.store = s.store
    (¬ ready → exec (.landOpStart n) s = .next s) ∧
    (ready → got = [] → ∃ t, exec (.landOpStart n) s = .next t ∧
      t.aops.get? n = some { o with pieces := o.pieces ++ readPieces (24 * o.cluster) .cm s.pcc a 64 } ∧ t.mems = s.mems ∧ t.store = s.store) ∧
    (ready → got ≠ [] → s.piecesDone got 0 = false → exec (.landOpStart n) s = .next s) ∧
    (read → ill → fails .illop) ∧ (read → ¬ ill → off → fails .align) ∧ (read → ¬ ill → ¬ off → far → fails .nomap) ∧
    (read → ¬ ill → ¬ off → ¬ far → ∃ t o', exec (.landOpStart n) s = .next t ∧ t.aops.get? n = some o' ∧ t.mems = s.mems ∧ t.store = s.store ∧ t.ctxs = s.ctxs ∧
      t.groups = s.groups ∧ o'.kind = withBlk o.kind b ∧ o'.stage = (if p.2 = .put then .running else .queued) ∧ o'.chunk = o.chunk ∧ o'.arrival = s.fresh % 2 ^ 64)) ∧
  (∀ (s : State) n o a cm b, s.aops.get? n = some o → o.stage = .queued →
    let first := ∀ p ∈ s.aops, landsAt o.landStack p.2 = true → p.2.stage = .queued → o.arrival ≤ p.2.arrival
    let busy := (s.aops.filter (fun p => landsAt o.landStack p.2 && p.2.stage != .queued)).length
    (o.kind = .landr a cm (some b) ∨ o.kind = .arm a cm (some b) → (¬ first ∨ 32 ≤ busy) → exec (.landOpStart n) s = .next s) ∧
    (o.kind = .landr a cm (some b) → first → busy < 32 → ∃ t rq, exec (.landOpStart n) s = .next t ∧ t.aops.get? n = some { o with stage := .prePub s.fresh } ∧
      t.store.reqs.get? s.fresh = some rq ∧ rq.kind = .range b.src (8 * (b.nsrc + 1)) ∧ rq.log = o.cluster ∧ t.mems = s.mems) ∧
    (o.kind = .arm a cm (some b) → first → busy < 32 → ∃ t, exec (.landOpStart n) s = .next t ∧ t.aops.get? n = some { o with stage := .holding } ∧
      t.mems = s.mems ∧ t.store = s.store)) ∧
  (∀ (s : State) k n o, s.firstArm k = some (n, o) → (n, o) ∈ s.aops ∧ o.stage = .holding ∧
    ∀ p ∈ s.aops, p.2.stage = .holding → (armOf p.2.kind).isSome = true → p.2.landStack = k → o.arrival ≤ p.2.arrival) ∧
  (∀ (s : State) k n o a cm b, s.firstArm k = some (n, o) → s.aops.get? n = some o → o.kind = .arm a cm (some b) →
    let room := (s.stack k).live.length + 2 * (b.nsrc + 1) ≤ 4096
    (¬ room → exec (.armReserve k) s = .next s) ∧
    (room → ∃ (t : State) (o' : AOp) (mine : List Nat), exec (.armReserve k) s = .next t ∧ t.aops.get? n = some o' ∧ o' = { o with stage := .running, bufs := o'.bufs } ∧
      (t.stack k).live = (s.stack k).live ++ mine ∧ mine.length = 2 * (b.nsrc + 1) ∧ mine.Nodup ∧ (∀ x ∈ mine, x < 4096 ∧ x ∉ (s.stack k).live) ∧
      o'.chunkBufs = mine ∧ t.mems = s.mems ∧ t.store = s.store)) ∧
  (∀ (s : State) n o c a cm b, pend s n o c → o.kind = .put a cm (some b) → b.self = true →
    (o.stage = .running → ∀ u bs, s.engineChk o.cluster o.ctx (b.src + 4096 * o.chunk) (b.chunkLen o.chunk) (needLoad 1) = .ok u →
      o.lineBytes (b.src + 4096 * o.chunk) (b.chunkLen o.chunk) = some bs →
      (s.armFor b.tag = none → ∃ t, exec (.chunkAccept n) s = .next t ∧ t.aops.get? n = some { o with stage := .holding, since := s.pcc } ∧ t.mems = s.mems) ∧
      (∀ m x y, s.armFor b.tag = some (m, x) → s.aops.get? m = some x → armOf x.kind = some y → m ≠ n → x.stage ≠ .holding → x.stage ≠ .queued →
        let differs := y.op ≠ b.op ∨ y.fmt ≠ b.fmt ∨ y.sat ≠ b.sat ∨ y.nsrc ≠ b.nsrc ∨ y.nelem ≠ b.nelem
        let id := putId none n
        let taken := ∃ i, x.buf (rankKey b.rank) = some i ∧ i ≠ id
        (differs ∨ taken → ∃ t, exec (.chunkAccept n) s = .next t ∧ ended t n o (.failed .illop) ∧ t.mems = s.mems) ∧
        (¬ differs → ¬ taken → x.chunk + 2 ≤ o.chunk → exec (.chunkAccept n) s = .next s) ∧
        (¬ differs → ¬ taken → o.chunk < x.chunk + 2 → ∃ t x', exec (.chunkAccept n) s = .next t ∧ t.aops.get? m = some x' ∧
          x'.buf (chunkKey o.chunk b.rank) = some bs ∧ x'.buf (rankKey b.rank) = some id ∧ x'.stage = x.stage ∧ x'.chunk = x.chunk ∧ t.mems = s.mems ∧
          t.store = s.store ∧
          (o.chunk + 1 < b.chunks → ∃ o', t.aops.get? n = some o' ∧ o' = { o with chunk := o.chunk + 1, bufs := o'.bufs }) ∧ (b.chunks ≤ o.chunk + 1 → ended t n o .ok)))) ∧
    (o.stage = .holding →
      (s.due (o.since + 800) = false → exec (.putRetry n) s = .next s) ∧
      (s.due (o.since + 800) = true → ∃ t, exec (.putRetry n) s = .next t ∧ t.aops.get? n = some { o with stage := .running } ∧ t.mems = s.mems ∧ t.store = s.store)))

/-- R335, R338 to R343: an arm with every rank's chunk reduces it, and a chunk that misses a rank waits; the result is appended to the engine's log as shadow records, which no home
shows, and only then is the chunk complete and are its slots free; when every chunk is done, the status word follows, the arm's buffers return, and one publication of the
records is lodged; once that has committed, the operation is DONE with ORDER 0, with ORDER 1 its flag is lodged as a publication of its own, after whose commit it is
DONE, and with ORDER 2 an atomic add is, at this module's home or, of a peer's page, by a message to the owner, after whose answer it is DONE. -/
def landingStepsRules : Prop :=
  ∀ (s : State) n o c a cm b, pend s n o c → o.kind = .arm a cm (some b) →
    let k := b.tag.toNat % 16
    (o.stage = .running → o.outs = [] → o.chunk < b.chunks → s.landPages o .arm b o.chunk = none →
      ((∃ j, j ≤ b.nsrc ∧ o.buf (chunkKey o.chunk j) = none) → exec (.landPublish n) s = .next s) ∧
      (∀ srcs : List (List Byte), srcs.length = b.nsrc + 1 → (∀ j, ∀ x, srcs[j]? = some x → o.buf (chunkKey o.chunk j) = some x) →
        ∃ t o', exec (.landPublish n) s = .next t ∧ t.aops.get? n = some o' ∧
          o' = { o with outs := [(b.dst + 4096 * o.chunk, (reduceChunk b srcs (b.chunkLen o.chunk)).1)], bufs := o'.bufs } ∧ t.mems = s.mems ∧ t.store = s.store)) ∧
    (o.stage = .running → o.outs ≠ [] → ∃ t o', exec (.landPublish n) s = .next t ∧ t.aops.get? n = some o' ∧ o'.stage = .running ∧ t.mems = s.mems ∧
      t.store.leaves = s.store.leaves ∧
      (o'.outs = [] → o'.chunk = o.chunk + 1 ∧ ∀ j < 64, o'.buf (chunkKey o.chunk j) = none) ∧
      (o'.outs ≠ [] → o'.chunk = o.chunk ∧ o'.bufs = o.bufs)) ∧
    (o.stage = .running → o.outs = [] → b.chunks ≤ o.chunk → s.landEndPages o b = none →
      (b.stw ≠ 0 → o.chunk = b.chunks → ∃ t, exec (.landPublish n) s = .next t ∧ t.aops.get? n = some { o with outs := [(b.stw, le 8 (o.stat % 128))] } ∧
        t.mems = s.mems ∧ t.store = s.store) ∧
      (b.stw = 0 ∨ o.chunk ≠ b.chunks → ∃ t rq, exec (.landPublish n) s = .next t ∧
        t.aops.get? n = some { o with stage := .publishing s.fresh } ∧ t.store.reqs.get? s.fresh = some rq ∧ rq.kind = .solo ∧ rq.log = 257 + 4 * k ∧
        rq.lines.length = o.shadow.length ∧ t.mems = s.mems ∧ (∀ x, x ∈ (t.stack k).live ↔ x ∈ (s.stack k).live ∧ x ∉ o.chunkBufs))) ∧
    (∀ q, o.stage = .publishing q →
      (s.reqSt q ≠ .complete → exec (.landPublish n) s = .next s) ∧
      (s.reqSt q = .complete → b.order = 0 → ∃ t, exec (.landPublish n) s = .next t ∧ ended t n o .ok ∧ t.mems = s.mems) ∧
      (s.reqSt q = .complete → b.order = 1 → ∃ t, exec (.landPublish n) s = .next t ∧ t.aops.get? n = some { o with stage := .flagging s.fresh } ∧
        lodged t s.fresh (257 + 4 * k) o.ctx b.flag (le 8 b.fval.toNat) ∧ t.mems = s.mems) ∧
      (s.reqSt q = .complete → 2 ≤ b.order.toNat → s.isRemote (lineKey o.ctx b.flag) = false → ∃ t rq, exec (.landPublish n) s = .next t ∧
        t.aops.get? n = some { o with stage := .flagging s.fresh } ∧ t.store.reqs.get? s.fresh = some rq ∧ rq.kind = .atomic ∧ rq.log = 257 + 4 * k ∧ t.mems = s.mems) ∧
      (s.reqSt q = .complete → 2 ≤ b.order.toNat → s.isRemote (lineKey o.ctx b.flag) = true → ∃ t o', exec (.landPublish n) s = .next t ∧
        t.aops.get? n = some o' ∧ o'.stage = .flagging 0 ∧ (o'.buf (askedLine b.flag)).isSome = true ∧ (∃ p ∈ t.outbox, p.2.peer = s.ownerOf (lineKey o.ctx b.flag) ∧
          p.2.body = .atom n (engineLane b.flag) o.ctx b.flag 8 .add false b.fval 0) ∧ t.mems = s.mems ∧ t.store = s.store)) ∧
    (∀ q, o.stage = .flagging q → (o.buf (askedLine b.flag)).isSome = true →
      ((o.buf (heldLine b.flag)).isSome = false → exec (.landPublish n) s = .next s) ∧
      ((o.buf (heldLine b.flag)).isSome = true → ∃ t, exec (.landPublish n) s = .next t ∧ ended t n o .ok ∧ t.mems = s.mems)) ∧
    (∀ q, o.stage = .flagging q → o.buf (askedLine b.flag) = none → s.store.reqs.get? q = none →
      ∃ t, exec (.landPublish n) s = .next t ∧ ended t n o .ok ∧ t.mems = s.mems)

/-- LANDR and LANDC words, parameter blocks, starts, reductions and chunks: the four parts above. It rests on the model's choices of log entry 40. -/
def Obligations.Landing : Prop := landingWordsRules ∧ landingBlocksRules ∧ landingStartsRules ∧ landingStepsRules

/-! Contexts, queues and packets, placement (R382 to R398, R445, R446, R448). -/

/-- R395 to R398: QUIESCE, RESUME, CTXSV and HALT trap ILLOP where gA names no context. QUIESCE traps ILLOP for its own context and ALIGN off a multiple of 8, and otherwise stops the
context's placing and asks every resident block of it to leave. RESUME makes a quiesced context run and leaves another as it is. HALT leaves every group of the context
asked to stop and every launch of it CANCELLED. -/
def contextWordsRules : Prop :=
  ∀ (w : Ctl) (s : State) gid (g : Group) r,
    let a : Nat := (g.regs.greg (gReg w.a)).toNat
    let b : Dword := g.regs.greg (gReg w.b)
    let none_ := 2 ^ 16 ≤ a ∨ s.ctx? a = none
    (∀ i ∈ ([.quiesce w, .resume w, .ctxsv w, .halt w] : List Instr), Runs (bodyOf i) s gid false g r → none_ → trapsAll i s gid g r .illop) ∧
    (Runs (bodyOf (.quiesce w)) s gid false g r → ¬ none_ →
      (a = g.ctx → trapsAll (.quiesce w) s gid g r .illop) ∧
      (a ≠ g.ctx → b.toNat % 8 ≠ 0 → trapsAll (.quiesce w) s gid g r .align) ∧
      (a ≠ g.ctx → b.toNat % 8 = 0 → ∃ t x, exec (.quiesce w) s = .next t ∧ t.ctx? a = some x ∧ x.quiet = .quiescing g.ctx b ∧ t.grp gid = some (g.moved false 1) ∧
        (∀ k y l, s.blocks.get? k = some y → s.launchOf y.launch = some l → l.ctx = a → y.resident = true → ∃ y', t.blocks.get? k = some y' ∧ y'.ask = true) ∧
        t.mems = s.mems ∧ t.store = s.store)) ∧
    (Runs (bodyOf (.resume w)) s gid false g r → ∀ x, a < 2 ^ 16 → s.ctx? a = some x → ∃ t, exec (.resume w) s = .next t ∧
      t.ctx? a = some (if x.quiet = .quiesced then { x with quiet := .running } else x) ∧ t.grp gid = some (g.moved false 1) ∧ t.mems = s.mems ∧ t.store = s.store) ∧
    (Runs (bodyOf (.halt w)) s gid false g r → ¬ none_ → ∃ t, exec (.halt w) s = .next t ∧
      (∀ k y, t.grp k = some y → y.ctx = a → y.stopReq = true) ∧ (∀ x, t.ctx? a = some x → x.halted = true ∧ x.snaps = []) ∧
      (∀ k l, t.launchOf k = some l → l.ctx = a → l.failure = some (0, 0, .cancelled)) ∧ t.mems = s.mems)

/-- R396: CTXLD traps ALIGN off a multiple of 64, the cause of its load's check, waits where its line is being published, and traps ILLOP where a bit that must be zero is set; with 1,024 contexts gD takes all ones, and otherwise
the id of a new context, which the descriptor gives. CTXSV checks ALIGN and its store, and lodges the 64 bytes of the descriptor as one publication. -/
def contextLoadsAndSavesRules : Prop :=
  ∀ (w : Ctl) (s : State) gid (g : Group) r,
    (Runs (bodyOf (.ctxld w)) s gid false g r →
      let a : Nat := (g.regs.greg (gReg w.a)).toNat
      let cl := s.grpCluster g
      let own := s.ownBytes cl (lineKey g.ctx a)
      let d := ((Line.bytes (mergeLine own.1 own.2 (s.homeLine (lineKey g.ctx a)))).drop (a % 256)).take 64
      let f (o n : Nat) : Nat := natOfBytes ((d.drop o).take n)
      let zero := f 0 8 < 2 ^ 44 ∧ f 8 8 < 2 ∧ f 16 8 < 2 ^ 32 ∧ (∀ i < 4, f (24 + 2 * i) 2 / 2 ^ 12 % 8 = 0) ∧ f 32 8 = 0 ∧ f 40 8 = 0 ∧ f 48 8 = 0 ∧
        f 56 8 / 2 ^ 16 % 2 ^ 47 = 0
      (a % 64 ≠ 0 → trapsAll (.ctxld w) s gid g r .align) ∧
      (∀ c, a % 64 = 0 → s.translate cl g.ctx a (needLoad 8) = .bad c → trapsAll (.ctxld w) s gid g r c) ∧
      (∀ h, a % 64 = 0 → s.translate cl g.ctx a (needLoad 8) = .ok h → s.isRemote (lineKey g.ctx a) = false → s.prepAt (lineKey g.ctx a) = true →
        exec (.ctxld w) s = .next (s.setGrp gid (g.setRun false (some { r with wait := .stay false })))) ∧
      (∀ h, a % 64 = 0 → s.translate cl g.ctx a (needLoad 8) = .ok h → s.isRemote (lineKey g.ctx a) = false → s.prepAt (lineKey g.ctx a) = false →
        (¬ zero → ∃ t g' tr, exec (.ctxld w) s = .next t ∧ t.grp gid = some g' ∧ g'.trap = some tr ∧ tr.cause = .illop ∧ g'.run = none ∧ g'.regs = g.regs ∧ t.ctxs = s.ctxs) ∧
        (zero → 1024 ≤ s.ctxs.length → ∃ t, exec (.ctxld w) s = .next t ∧ t.ctxs = s.ctxs ∧
          t.grp gid = some ({ g with regs := g.regs.setG (gReg w.d) (BitVec.allOnes 64) }.moved false 1) ∧ t.mems = s.mems) ∧
        (zero → s.ctxs.length < 1024 → ∃ t n x, exec (.ctxld w) s = .next t ∧ n < 2 ^ 16 ∧ s.ctx? n = none ∧ t.ctx? n = some x ∧
          t.grp gid = some ({ g with regs := g.regs.setG (gReg w.d) (BitVec.ofNat 64 n) }.moved false 1) ∧ x.ixroot.toNat = f 0 8 ∧ x.priv = decide (f 8 8 = 1) ∧
          x.logstall.toNat = f 16 8 ∧ x.quiet = .running ∧ x.halted = false ∧ (∀ m, m ≠ n → t.ctx? m = s.ctx? m) ∧ t.mems = s.mems))) ∧
    (Runs (bodyOf (.ctxsv w)) s gid false g r →
      let c : Nat := (g.regs.greg (gReg w.a)).toNat
      let a : Nat := (g.regs.greg (gReg w.b)).toNat
      ∀ x, c < 2 ^ 16 → s.ctx? c = some x →
        (a % 64 ≠ 0 → trapsAll (.ctxsv w) s gid g r .align) ∧
        (∀ k, a % 64 = 0 → s.cpPage g.ctx a true = some k → trapsAll (.ctxsv w) s gid g r k) ∧
        (∀ s', a % 64 = 0 → s.cpPage g.ctx a true = none → s.syncTree c touchAll = some s' → ∃ t, exec (.ctxsv w) s = .next t ∧
          lodged t s'.fresh 0 g.ctx a (s'.ctxDesc c) ∧ t.grp gid = some (g.moved false 1) ∧ t.mems = s.mems) ∧
        (a % 64 = 0 → s.cpPage g.ctx a true = none → s.syncTree c touchAll = none →
          exec (.ctxsv w) s = .next (s.setGrp gid (g.setRun false (some { r with wait := .stay false }))))) ∧
    (∀ c x, s.ctx? c = some x → c < 2 ^ 16 →
      let f (o n : Nat) : Nat := natOfBytes (((s.ctxDesc c).drop o).take n)
      (s.ctxDesc c).length = 64 ∧
      (s.quiesced c = true → f 0 8 = x.ixroot.toNat ∧ f 8 8 = (if x.priv then 1 else 0) ∧ f 16 8 = x.logstall.toNat ∧ f 56 8 = 2 ^ 63 + c) ∧
      (s.quiesced c = false → ∀ o n, f o n = 0))

/-- R397: a quiescing context waits while any of it is resident; its clusters' open batches are then asked to be published;
it waits for open lines and PENDING futures; then it is quiesced, its flag lodged. -/
def quiescingRules : Prop :=
  ∀ (s : State) c x by_ flag, s.ctx? c = some x → x.quiet = .quiescing by_ flag →
    (s.residentOf c = true → exec (.quiesceComplete c) s = .next s) ∧
    (s.residentOf c = false → s.quietLogs c ≠ [] → ∃ t, exec (.quiesceComplete c) s = .next t ∧ t.ctx? c = some x ∧ t.mems = s.mems ∧
      ∀ l ∈ s.quietLogs c, ∃ k rq, t.store.reqs.get? k = some rq ∧ rq.log = l ∧ rq.kind = .ctxBatch ∧ rq.ctx = c) ∧
    (s.residentOf c = false → s.quietLogs c = [] → (s.openOf c = true ∨ x.anyPending = true) → exec (.quiesceComplete c) s = .next s) ∧
    (s.residentOf c = false → s.quietLogs c = [] → s.openOf c = false → x.anyPending = false → ∃ t, exec (.quiesceComplete c) s = .next t ∧
      t.ctx? c = some { x with quiet := .quiesced } ∧ t.mems = s.mems ∧ (flag ≠ 0 → lodged t s.fresh 0 by_ flag.toNat (le 8 1)) ∧ (flag = 0 → t.store = s.store))

/-- R385, R388 to R390, R394: what the packets other than LAUNCH do when a queue executes them. Each leaves the queue's hand empty. BARRIER makes the queue wait; SIGNAL joins
its signals; CANCEL marks the waiters of this module that match; PREEMPT asks the launch's resident blocks to leave and holds them or lets them go; BUFFER defines its handle, or marks it to be freed. -/
def packetEffectsRules : Prop :=
  ∀ (s : State) q, s.issuer = .queue q →
    let k := s.cq q
    let c : Nat := k.ctx.toNat
    (∃ t, exec .barrier s = .next t ∧ t.cq q = { k with cur := none, wait := .barrier } ∧ t.mems = s.mems ∧ t.store = s.store ∧ t.groups = s.groups) ∧
    (∀ val addr : BitVec 64, ∃ t, exec (.signal val addr) s = .next t ∧
      t.cq q = { k with cur := none, sigs := k.sigs ++ [{ after := s.fresh, val := val, addr := addr, req := none }] } ∧ t.mems = s.mems ∧ t.store = s.store) ∧
    (∀ byL byR (l : BitVec 16) (base len : BitVec 64), ∃ t, exec (.cancel byL byR l base len) s = .next t ∧ t.cq q = { k with cur := none } ∧
      (∀ n x, s.waiters.get? n = some x →
        let hit := (∀ m, x.who ≠ .peer m) ∧ x.ctx = c ∧ (byL = true → x.launch = l.toNat) ∧
          (byR = true → pageAddr x.page < base.toNat + len.toNat ∧ base.toNat < pageAddr x.page + 131072)
        (hit → t.waiters.get? n = some { x with cancel := true }) ∧ (¬ hit → t.waiters.get? n = some x)) ∧ t.mems = s.mems ∧ t.store = s.store) ∧
    (∀ (l : BitVec 16) hold, FMap.sorted s.blocks = true → ∃ t, exec (.preempt l hold) s = .next t ∧ t.cq q = { k with cur := none } ∧ t.mems = s.mems ∧ t.store = s.store ∧
      (s.launchOf l.toNat = none → t.blocks = s.blocks) ∧
      (∀ n b, s.launchOf l.toNat ≠ none → s.blocks.get? n = some b →
        (b.launch ≠ l.toNat → t.blocks.get? n = some b) ∧
        (b.launch = l.toNat → t.blocks.get? n = some { b with held := if hold then b.resident || b.held else false, ask := b.resident || b.ask }))) ∧
    (∀ (h : BitVec 12) hostw (base len : BitVec 64) x, s.ctx? c = some x → ∃ t x' b, exec (.buffer h false hostw base len) s = .next t ∧ t.ctx? c = some x' ∧
      x'.bufs.get? h.toNat = some b ∧ b.base = base ∧ b.len = len ∧ b.freeing = false ∧ (hostw = true → b.writer = .host (s.sys.owner.setWidth 3)) ∧
      (∀ o, hostw = false → x.bufs.get? h.toNat = some o → b.writer = o.writer ∧ b.readers = o.readers) ∧
      (∀ n, n ≠ h.toNat → x'.bufs.get? n = x.bufs.get? n) ∧ t.cq q = { k with cur := none } ∧ t.mems = s.mems ∧ t.store = s.store) ∧
    (∀ (h : BitVec 12) hostw (base len : BitVec 64) x o, s.ctx? c = some x → x.bufs.get? h.toNat = some o → ∃ t x', exec (.buffer h true hostw base len) s = .next t ∧
      t.ctx? c = some x' ∧ t.cq q = { k with cur := none } ∧ t.mems = s.mems ∧
      ((∃ l ∈ s.launches, l.2.ctx = c ∧ ∃ e ∈ l.2.bufl, bufHandle e = h.toNat) → x'.bufs.get? h.toNat = some { o with freeing := true }) ∧
      ((∀ l ∈ s.launches, l.2.ctx = c → ∀ e ∈ l.2.bufl, bufHandle e ≠ h.toNat) → x'.bufs.get? h.toNat = none))

/-- R386, R389, R390, R445: a LAUNCH with a misaligned DONE, no block or too many handles stops its queue with ILLOP. One whose descriptor is misaligned or breaks a
rule, or that names an undefined handle, is refused with ILLOP, one whose arguments fault with that cause, as a live launch of no block. Another is live with its
descriptor's fields and the arguments read, under the id after the last where that is free, as last writer of the handles it writes. -/
def launchesRules : Prop :=
  ∀ (p : LaunchPkt) (s : State) q, s.issuer = .queue q →
    let k := s.cq q
    let c : Nat := k.ctx.toNat
    let bad := p.doneAt.toNat % 16 ≠ 0 ∨ p.nblk = 0 ∨ 4095 < p.nbuf.toNat
    (bad → ∃ t, exec (.launch p) s = .next t ∧ t.cq q = { k with st := 2, cause := 0x01, cur := none, wait := .none } ∧ t.sys.msix = s.sys.msix ++ [0] ∧
      t.launches = s.launches ∧ t.mems = s.mems ∧ t.store = s.store) ∧
    (¬ bad → 65535 ≤ s.launches.length → exec (.launch p) s = .next s) ∧
    (¬ bad → s.launches.length < 65535 →
      let id := s.lastLaunch % 65535 + 1
      s.launchOf id = none →
      let refused (x : Cause) : Prop := ∃ t l, exec (.launch p) s = .next t ∧ t.launchOf id = some l ∧ l.failure = some (0, 0, x) ∧ l.nblk = 0 ∧ l.ctx = c ∧ l.queue = q ∧
        l.doneAt = p.doneAt.toNat ∧ l.doneval = p.doneval ∧ t.lastLaunch = id ∧ t.cq q = { k with cur := none } ∧ t.mems = s.mems ∧ t.store = s.store
      (p.kdesc.toNat % 32 ≠ 0 → refused .illop) ∧
      (∀ x, p.kdesc.toNat % 32 = 0 → s.cpRead c p.kdesc.toNat 32 = .bad x → refused .illop) ∧
      (∀ u, p.kdesc.toNat % 32 = 0 → s.cpRead c p.kdesc.toNat 32 = .wait u → exec (.launch p) s = .next u) ∧
      (∀ d, p.kdesc.toNat % 32 = 0 → s.cpRead c p.kdesc.toNat 32 = .ok d →
        let f (o n : Nat) : Nat := natOfBytes ((d.drop o).take n)
        let groups := f 22 2 % 2 ^ 10
        let win := 256 * f 28 3
        let seqOk (x : Nat) : Prop := x = 2 ^ 32 - 1 ∨ x % 12 = 0
        let ok := f 6 2 = 0 ∧ f 31 1 < 2 ∧ f 20 1 % 8 = 0 ∧ 8 ≤ f 20 1 ∧ f 20 1 ≤ 128 ∧ f 21 1 ≤ 32 ∧ 1 ≤ groups ∧ groups ≤ 744 ∧ f 24 4 % 256 = 0 ∧ win ≤ 2 ^ 24 ∧ f 8 4 % 12 = 0 ∧
          seqOk (f 12 4) ∧ seqOk (f 16 4) ∧ p.cmbase.toNat % 256 = 0 ∧ p.dsbase.toNat % 256 = 0 ∧ p.cmbase.toNat + f 24 4 ≤ 6 * 2 ^ 20 ∧
          p.dsbase.toNat + win ≤ 2 ^ 24
        (¬ ok → refused .illop) ∧
        (∀ bs, ok → s.cpRead c p.bufl.toNat (4 * p.nbuf.toNat) = .ok bs →
          let es := (List.range p.nbuf.toNat).map (fun i => BitVec.ofNat 32 (natOfBytes ((bs.drop (4 * i)).take 4)))
          let known := ∀ e ∈ es, e.toNat < 2 ^ 14 ∧ ∃ x b, s.ctx? c = some x ∧ x.bufs.get? (e.toNat % 4096) = some b
          (¬ known → refused .illop) ∧
          (known → f 21 1 ≠ 0 → p.argp.toNat % 8 ≠ 0 → refused .align) ∧
          let at_ (i : Nat) : Nat := p.argp.toNat + 8 * i
          (∀ x, known → (f 21 1 = 0 ∨ p.argp.toNat % 8 = 0) → ((List.range (f 21 1)).map at_).findSome? (s.argPage c) = some x → refused x) ∧
          (∀ u, known → (f 21 1 = 0 ∨ p.argp.toNat % 8 = 0) → s.readArgs c p.argp.toNat (f 21 1) = .wait u → exec (.launch p) s = .next u) ∧
          (∀ as_ (u : State), s.readArgs c p.argp.toNat (f 21 1) = .ok as_ u → (∀ i < f 21 1, s.argIsDev c (at_ i) = false) → u = s ∧ as_.length = f 21 1 ∧
            ∀ i < f 21 1, as_[i]? = some (BitVec.ofNat 64 (Line.field ((s.cpLine c (at_ i)).getD 0) (at_ i % 256) 8))) ∧
          (∀ as_ (u : State), known → (f 21 1 = 0 ∨ p.argp.toNat % 8 = 0) → s.readArgs c p.argp.toNat (f 21 1) = .ok as_ u → u.lastLaunch = s.lastLaunch →
            u.fresh = s.fresh → u.ctxs = s.ctxs → u.cq q = k →
            ∃ t l, exec (.launch p) s = .next t ∧ t.launchOf id = some l ∧ t.lastLaunch = id ∧ t.cq q = { k with cur := none } ∧ t.mems = u.mems ∧ t.store = u.store ∧
              l.ctx = c ∧ l.prio = k.prio ∧ l.codeBase = f 0 6 ∧ l.entry = f 8 4 ∧ l.trapOfs = (if f 12 4 = 2 ^ 32 - 1 then none else some (f 12 4)) ∧
              l.seqOfs = (if f 16 4 = 2 ^ 32 - 1 then none else some (f 16 4)) ∧ l.nregs = f 20 1 ∧ l.ngroups = groups ∧ l.lanes = f 22 2 / 2 ^ 10 + 1 ∧ l.cm = f 24 4 ∧
              l.ds = win ∧ l.nblk = p.nblk.toNat ∧ l.nextBlk = 0 ∧ l.failure = none ∧ l.bufl = es ∧ l.doneAt = p.doneAt.toNat ∧ l.doneval = p.doneval ∧
              l.largs = as_ ∧
              (∀ e, es = [e] → e.getLsbD 13 = true → ∃ x b, t.ctx? c = some x ∧ x.bufs.get? (e.toNat % 4096) = some b ∧ b.writer = .launch id ∧ b.readers = [])))))

/-- R383, R384: a queue that may read takes the packet at HEAD when its SEQ is HEAD, and counts it; a stale one is read again later, the read n after 64 × 2^n cycles, and after the
eighth the queue stops with QUEUE_TORN; a TAIL more than the ring's size ahead stops it with ILLOP. A queue that may not read, or whose slot is in a line being published, changes nothing of its registers. QUEUE_KICK writes
TAIL; QUEUE_RESET leaves HEAD and TAIL 0, the queue IDLE and its hand empty, and its other fields as they were. -/
def queueStepsRules : Prop :=
  ∀ (s : State) (q : BitVec 6),
    let n := q.toNat
    let k := s.cq n
    let may := s.sys.bootSt = 2 ∧ k.en = true ∧ k.st ≠ 2 ∧ k.cur = none ∧ k.wait = .none ∧ k.head ≠ k.tail ∧ s.ctx? k.ctx.toNat ≠ none ∧ s.slotWaits n = false
    let far := 2 ^ k.log2n.toNat < (k.tail - k.head).toNat
    let slot : BitVec 512 := BitVec.ofNat 512 (natOfBytes (s.glBytes k.ctx.toNat (k.addr.toNat * 64 + 64 * (k.head.toNat % 2 ^ k.log2n.toNat)) 64))
    let takes (i : Instr) (b : BitVec 512) : Prop := ∃ t, exec i s = .next t ∧ t.cq n = { k with cur := some b, head := k.head + 1, wait := .none } ∧ t.mems = s.mems ∧
      t.store = s.store
    let stops (i : Instr) (c : BitVec 8) (f : BitVec 32) : Prop := ∃ t, exec i s = .next t ∧ t.cq n = { k with st := 2, cause := c, seqf := f, cur := none, wait := .none } ∧
      t.sys.msix = s.sys.msix ++ [0] ∧ t.mems = s.mems ∧ t.store = s.store
    let waits (i : Instr) (j : Nat) : Prop := ∃ t, exec i s = .next t ∧ t.cq n = { k with wait := .torn j s.pcc } ∧ t.mems = s.mems ∧ t.store = s.store
    (k.sigs = [] →
      (¬ may → k.wait ≠ .barrier → ∃ t, exec (.packetRead q) s = .next t ∧ t.cq n = k ∧ t.mems = s.mems ∧ t.store = s.store) ∧
      (may → far → stops (.packetRead q) 0x01 k.seqf) ∧
      (may → ¬ far → k.loc = true → (packetSeq slot = k.head → takes (.packetRead q) slot) ∧ (packetSeq slot ≠ k.head → waits (.packetRead q) 0)) ∧
      (may → ¬ far → k.loc = false → ∃ b, (packetSeq b = k.head → takes (.packetRead q) b) ∧ (packetSeq b ≠ k.head → waits (.packetRead q) 0))) ∧
    (∀ j at_, k.wait = .torn j at_ →
      (s.due (at_ + BitVec.ofNat 64 (64 * 2 ^ j)) = false ∨ s.slotWaits n = true → exec (.packetReread q) s = .next s) ∧
      (s.due (at_ + BitVec.ofNat 64 (64 * 2 ^ j)) = true → s.slotWaits n = false → k.loc = true →
        (packetSeq slot = k.head → takes (.packetReread q) slot) ∧
        (packetSeq slot ≠ k.head → j = 7 → stops (.packetReread q) 0x15 (packetSeq slot)) ∧
        (packetSeq slot ≠ k.head → j ≠ 7 → waits (.packetReread q) (j + 1)))) ∧
    (∀ tail : BitVec 32, ∃ t, exec (.queueKick .prog q tail) s = .next t ∧ t.cq n = { k with tail := tail } ∧ (∀ m, m ≠ n → t.cq m = s.cq m) ∧ t.mems = s.mems ∧
      t.store = s.store) ∧
    (∃ t, exec (.queueReset .prog q) s = .next t ∧ t.cq n = { k with head := 0, tail := 0, st := 0, cur := none, wait := .none, sigs := [] } ∧
      (∀ m, m ≠ n → t.cq m = s.cq m) ∧ t.mems = s.mems ∧ t.store = s.store)

/-- Command packets and queues: the two parts above. It rests on the model's choices of log entries 48, 49. -/
def Obligations.CommandPackets : Prop := packetEffectsRules ∧ queueStepsRules

/-- R31, R275, R387, R391 to R394, R445, R446, R448: a block is placed only where its launch may place and fits and no launch that comes first could use the cluster; it then stands
resident, its windows zero, each group at the entry with its lanes and arguments, the stream READY. Groups move, and lower blocks are asked to leave, only where the rules allow. A launch with
a block left waits; then its slots stop; with nothing PENDING its completion record is lodged, and once that commits the launch is gone. -/
def placementRules : Prop :=
  ∀ (s : State) id (l : Launch), s.launchOf id = some l →
    (∀ cl,
      let first := ∃ x ∈ s.launches, x.1 ≠ id ∧ (l.prio.toNat < x.2.prio.toNat ∨ x.2.prio = l.prio ∧ x.2.accepted < l.accepted) ∧ s.placeable x.2 = true ∧ s.fits x.2 cl = true
      let may := s.placeable l = true ∧ s.fits l cl = true ∧ ¬ first
      (¬ may → exec (.blockPlace id cl) s = .next s) ∧
      (may → ∃ t b, exec (.blockPlace id cl) s = .next t ∧ t.blocks.get? (blockKey id l.nextBlk) = some b ∧ b.launch = id ∧ b.index = l.nextBlk ∧ b.cluster = cl ∧
        b.resident = true ∧ b.held = false ∧ b.locks = [] ∧ t.launchOf id = some { l with nextBlk := l.nextBlk + 1 } ∧
        (∀ a, cl * 6291456 + l.cmbase ≤ a → a < cl * 6291456 + l.cmbase + l.cm → t.mems.cm.read a = 0) ∧
        (∀ a, a < cl * 6291456 + l.cmbase ∨ cl * 6291456 + l.cmbase + l.cm ≤ a → t.mems.cm.read a = s.mems.cm.read a) ∧
        (∀ a, cl / 8 * 2 ^ 24 + l.dsbase ≤ a → a < cl / 8 * 2 ^ 24 + l.dsbase + l.ds → t.mems.ds.read a = 0) ∧
        (∀ i < l.ngroups, ∃ g e core k, t.grp (gidOf id l.nextBlk i) = some g ∧ g.launch = id ∧ g.block = l.nextBlk ∧ g.index = i ∧ g.ctx = l.ctx ∧ g.prio = l.prio ∧
          g.lanes = l.lanes ∧ g.nregs = l.nregs ∧ g.place = .resident core k ∧ g.run = none ∧ (∀ x ∈ g.pcs, x = e) ∧ e.pc = BitVec.ofNat 48 (l.codeBase + l.entry) ∧
          (∀ j < 64, e.mask.getLsbD j = decide (j < l.lanes)) ∧ (∀ j < 64, g.regs.greg j = l.largs.getD j 0) ∧
          ∀ x ≥ gidOf id l.nextBlk i * 65536, x < gidOf id l.nextBlk i * 65536 + 65536 → t.mems.ln.read x = 0) ∧
        (∀ o, l.seqOfs = some o → (t.seqOf cl).st = .ready ∧ (t.seqOf cl).spc = BitVec.ofNat 48 (l.codeBase + o) ∧ (t.seqOf cl).reg 16 = BitVec.ofNat 64 l.nextBlk ∧
          ∀ j < 16, (t.seqOf cl).reg j = l.largs.getD j 0))) ∧
    (∀ cl,
      let leaving := ∃ b ∈ s.blocks, b.2.ask = true ∧ b.2.resident = true ∧ b.2.cluster = cl
      let asks := s.placeable l = true ∧ ¬ leaving ∧ ∀ c < 256, s.fits l c = false
      (¬ asks → exec (.priorityPreempt id cl) s = .next s) ∧
      (asks → s.victim l cl = none → exec (.priorityPreempt id cl) s = .next s) ∧
      (∀ k b, asks → s.victim l cl = some k → s.blocks.get? k = some b → b.resident = true → ∃ t, exec (.priorityPreempt id cl) s = .next t ∧
        t.blocks.get? k = some { b with ask := true } ∧ t.groups = s.groups ∧ t.mems = s.mems ∧ t.store = s.store)) ∧
    (s.blocksDone id l = false → exec (.launchComplete id) s = .next s) ∧
    (s.blocksDone id l = true →
      (l.slotsStopped = false → ∃ t, exec (.launchComplete id) s = .next t ∧ t.launchOf id = some { l with slotsStopped := true } ∧ t.mems = s.mems) ∧
      (l.slotsStopped = true → l.doneReq = none → s.launchBusy id l = true → exec (.launchComplete id) s = .next s) ∧
      (l.slotsStopped = true → l.doneReq = none → s.launchBusy id l = false → l.doneAt ≠ 0 → ∃ t, exec (.launchComplete id) s = .next t ∧
        t.launchOf id = some { l with doneReq := some s.fresh } ∧ t.mems = s.mems ∧
        lodged t s.fresh 0 l.ctx l.doneAt (le 8 (l.doneval.toNat + id * 2 ^ 32) ++ le 8 (match l.failure with | some (_, b, c) => c.code.toNat + b * 2 ^ 32 | none => 0))) ∧
      (∀ k, l.slotsStopped = true → l.doneReq = some k →
        (s.reqSt k ≠ .complete → exec (.launchComplete id) s = .next s) ∧
        (s.reqSt k = .complete → ∃ t, exec (.launchComplete id) s = .next t ∧ t.launchOf id = none ∧ (∀ m, m ≠ id → t.launchOf m = s.launchOf m) ∧ t.mems = s.mems))) ∧
    (∀ gid g core c k, s.grp gid = some g → g.place = .resident c k → g.launch = id →
      let need := ∃ x ∈ s.launches, s.placeable x.2 = true ∧ s.fits x.2 (c / 24) = false
      let bound := ∃ x ∈ s.cores, x.2.slot.bound = some id
      let moves := need ∧ l.cr = false ∧ ¬ bound ∧ (g.movedAt = 0 ∨ s.due (g.movedAt + 2 ^ 20) = true) ∧ s.nearArrival g = false ∧ core ≠ c ∧ core / 24 = c / 24 ∧
        s.freeSlot core ≠ none ∧ s.regsUsed core + g.nregs ≤ 1024 ∧ g.moveTo = none
      (moves → exec (.groupMove gid core) s = .next (s.setGrp gid { g with moveTo := some core })) ∧ (¬ moves → exec (.groupMove gid core) s = .next s))

/-- Context words of privileged groups, quiescing, launches and placement of blocks: the five parts above. It rests on the model's choices of log entries 50, 51, 70. -/
def Obligations.ContextsAndPlacement : Prop := contextWordsRules ∧ contextLoadsAndSavesRules ∧ quiescingRules ∧ launchesRules ∧ placementRules

/-! The host port, the register window and the trace engines (R382, R399 to R427, R438). -/

/-- R399 to R401, R425 to R427: a requester's first request makes it the next master, a known one or a ninth changes nothing. OWNERSHIP is a compare-and-swap that takes the next EPOCH and an
admitted master or 0xFF, publishes the old owner's batch and raises vector 1. A frozen master gets an error; a register or memory write by a master that is not the owner only
freezes it. An access that its window does not reach, or that its page refuses, counts in LNKERR.HOST: a read gives an error, a write is dropped. A read of a line gives its own buffered bytes over
the home's; a write stands in the master's buffer; a buffered line leaves after its window; a release asks for the batch's publication; HOSTMAP is taken once the batch is empty, or,
written before its master is admitted, when it is. -/
def hostPortRules : Prop :=
  (∀ (r : BitVec 16) (s : State),
    let known := (∃ h ∈ s.hosts, h.2.requester = r) ∨ 8 ≤ s.hosts.length
    (known → exec (.hostAdmit r) s = .next s) ∧
    (¬ known → ∃ t h, exec (.hostAdmit r) s = .next t ∧ t.hosts.get? s.hosts.length = some h ∧ h.requester = r ∧ h.frozen = false ∧ h.mapEn = false ∧ h.buf = [] ∧ h.mapNext = s.sys.hostMaps.get? s.hosts.length ∧
      (∀ m, m ≠ s.hosts.length → t.hosts.get? m = s.hosts.get? m) ∧ t.mems = s.mems ∧ t.store = s.store)) ∧
  (∀ (v : BitVec 64) (s : State),
    let cur : BitVec 32 := s.sys.epoch ++ s.sys.owner
    let m : Nat := (v.extractLsb' 0 8).toNat
    let ok := v.extractLsb' 32 32 = cur ∧ v.extractLsb' 8 24 = s.sys.epoch + 1 ∧ (s.hosts.get? m ≠ none ∨ m = 255)
    (¬ ok → exec (.ownershipSwap .prog v) s = .next s) ∧
    (ok → ∃ t, exec (.ownershipSwap .prog v) s = .next t ∧ t.sys.epoch = s.sys.epoch + 1 ∧ t.sys.owner = v.extractLsb' 0 8 ∧ t.sys.msix = s.sys.msix ++ [1] ∧
      (∀ h, t.hosts.get? m = some h → h.frozen = false) ∧ t.mems = s.mems ∧
      (s.hosts.get? s.sys.owner.toNat ≠ none → ∃ rq, t.store.reqs.get? s.fresh = some rq ∧ rq.kind = .batch ∧ rq.log = 320 + s.sys.owner.toNat)) ∧
    (∀ (k : BitVec 3) h, s.hosts.get? k.toNat = some h →
      (h.frozen = false → exec (.ownershipSwap (.host k) v) s = exec (.ownershipSwap .prog v) s) ∧
      (h.frozen = true → ∃ t, exec (.ownershipSwap (.host k) v) s = .next t ∧ t = { s with sys := { s.sys with readBad := true } }))) ∧
  (∀ (k m : BitVec 3) (off : BitVec 16) (v a : BitVec 64) (bits : BitVec 8) (q : BitVec 6) (tail : BitVec 32) (bytes : List Byte) (s : State) h,
    s.hosts.get? k.toNat = some h → h.mapNext = none → off ≠ 0 →
    (∀ i ∈ ([.hostRelease (.host k) m, .hostmapWrite (.host k) m v, .frozenClear (.host k) bits, .registerWrite (.host k) off v, .queueKick (.host k) q tail,
        .queueReset (.host k) q, .dump (.host k), .ckreq (.host k) v, .hostWrite k a bytes] : List Instr),
      (h.frozen = true → exec i s = .next { s with sys := { s.sys with readBad := true } }) ∧
      (h.frozen = false → s.sys.owner.toNat ≠ k.toNat → ∃ t, exec i s = .next t ∧ t.hosts.get? k.toNat = some { h with frozen := true } ∧ t.mems = s.mems ∧
        t.store = s.store ∧ t.sys = s.sys ∧ t.trace = s.trace ∧ t.cqs = s.cqs)) ∧
    (h.frozen = false → s.sys.owner.toNat = k.toNat →
      exec (.queueKick (.host k) q tail) s = exec (.queueKick .prog q tail) s ∧ exec (.queueReset (.host k) q) s = exec (.queueReset .prog q) s ∧
      exec (.hostRelease (.host k) m) s = exec (.hostRelease .prog m) s ∧ exec (.hostmapWrite (.host k) m v) s = exec (.hostmapWrite .prog m v) s)) ∧
  (∀ (k : BitVec 3) (bits : BitVec 8) (s : State) h, s.hosts.get? k.toNat = some h → h.frozen = false → s.sys.owner.toNat = k.toNat →
    ∃ t, exec (.frozenClear (.host k) bits) s = .next t ∧ t.mems = s.mems ∧ t.store = s.store ∧
      ∀ m x, s.hosts.get? m = some x → t.hosts.get? m = some (if bits.getLsbD m then { x with frozen := false } else x)) ∧
  (∀ (k : BitVec 3) (a : BitVec 64) (n : Nat) (s : State) h, s.hosts.get? k.toNat = some h → h.frozen = false → h.mapNext = none →
    let there := h.mapEn = true ∧ s.ctx? h.mapCtx.toNat ≠ none ∧ h.hbase.toNat ≤ a.toNat ∧ a.toNat < h.hbase.toNat + 2 ^ 40
    let c : Nat := h.mapCtx.toNat
    let x : Nat := h.mapOfs.toNat * 256 + (a.toNat - h.hbase.toNat)
    let errs (i : Instr) (bad : Bool) : Prop := ∃ t, exec i s = .next t ∧ t.sys.lnkHost = s.sys.lnkHost + 1 ∧ (bad = true → t.sys.readBad = true) ∧ t.mems = s.mems ∧
      t.store = s.store ∧ t.hosts = s.hosts
    (¬ there → errs (.hostRead k a n) true) ∧
    (∀ z, there → s.hostPages c x n false = .bad z → errs (.hostRead k a n) true) ∧
    (∀ u d, there → 1 ≤ n → x % 256 + n ≤ 256 → n ≤ 8 → s.hostPages c x n false = .ok u →
      s.hostLine k.toNat c (x / 256 * 256) (accMask x n (x / 256 * 256)) = some d →
      ∃ t, exec (.hostRead k a n) s = .next t ∧ t.sys.readData.toNat = natOfBytes (((Line.bytes d).drop (x % 256)).take n) ∧ t.sys.readBad = false ∧ t.mems = s.mems) ∧
    (∀ bytes : List Byte, s.sys.owner.toNat = k.toNat →
      (¬ there → errs (.hostWrite k a bytes) true) ∧
      (∀ z, there → s.hostPages c x bytes.length true = .bad z → errs (.hostWrite k a bytes) false) ∧
      (∀ u, there → s.hostPages c x bytes.length true = .ok u → s.canAccept (320 + k.toNat) ((linesIn x bytes.length).map (lineKey c)) [] = false →
        exec (.hostWrite k a bytes) s = .next s) ∧
      (∀ u t', there → s.hostPages c x bytes.length true = .ok u → s.canAccept (320 + k.toNat) ((linesIn x bytes.length).map (lineKey c)) [] = true →
        s.hostStore (320 + k.toNat) c x bytes = some t' → exec (.hostWrite k a bytes) s = .next t'))) ∧
  (∀ (m : BitVec 3) (line : Nat) (s : State) b, (s.bufOf (320 + m.toNat)).get? line = some b →
    (s.due (b.first + b.win.setWidth 64) = false → exec (.hostWcbWindowExpire m line) s = .next s) ∧
    (∀ t, s.due (b.first + b.win.setWidth 64) = true → s.flushLine (320 + m.toNat) line = some t → exec (.hostWcbWindowExpire m line) s = .next t)) ∧
  (∀ (m : BitVec 3) (v : BitVec 64) (s : State) h, s.hosts.get? m.toNat = some h →
    (∃ t rq, exec (.hostRelease .prog m) s = .next t ∧ t.store.reqs.get? s.fresh = some rq ∧ rq.kind = .batch ∧ rq.log = 320 + m.toNat ∧ rq.ctx = h.mapCtx.toNat ∧
      t.mems = s.mems ∧ t.hosts = s.hosts) ∧
    (∃ t, exec (.hostmapWrite .prog m v) s = .next t ∧ t.hosts.get? m.toNat = some { h with mapNext := some v } ∧ t.mems = s.mems ∧ t.store = s.store) ∧
    (h.mapNext = some v → s.openLines (320 + m.toNat) = [] → (s.hostMap m.toNat).hosts.get? m.toNat =
      some { h with mapNext := none, mapCtx := v.extractLsb' 48 16, mapEn := v.getLsbD 40, mapOfs := v.extractLsb' 0 40 })) ∧
  (∀ (m : BitVec 3) (v : BitVec 64) (s : State), s.hosts.get? m.toNat = none → ∃ t, exec (.hostmapWrite .prog m v) s = .next t ∧
    t.sys.hostMaps.get? m.toNat = some v ∧ t.hosts = s.hosts ∧ t.mems = s.mems ∧ t.store = s.store)

/-- R107, R382, R411, R422, R433, R438, R441: the register window. Every register a write changes reads back as its fields; values outside a range take the nearer bound; a read-only register and an offset that
names none change nothing; a read gives the register, and TRCLOST and LNKERR.HOST read clear. -/
def registerWindowRules : Prop :=
  ∀ (v : BitVec 64) (s : State),
    let wr (off : BitVec 16) (t : State) : Prop := exec (.registerWrite .prog off v) s = .next t
    let bits (lo n : Nat) : Nat := v.toNat / 2 ^ lo % 2 ^ n
    let near (lo hi x : Nat) : Nat := if x < lo then lo else if hi < x then hi else x
    (∀ q < 64, let k := s.cq q
      (∃ t, wr (BitVec.ofNat 16 (0x1000 + 64 * q)) t ∧ t.cq q = (if k.en then k else { k with addr := v.extractLsb' 6 58, loc := v.getLsbD 0 }) ∧
        (k.en = false → t.regRead (0x1000 + 64 * q) = v &&& BitVec.ofNat 64 (2 ^ 64 - 64 + 1))) ∧
      (∃ t, wr (BitVec.ofNat 16 (0x1008 + 64 * q)) t ∧ (t.cq q).prio.toNat = bits 1 2 ∧ (t.cq q).en = v.getLsbD 0 ∧
        (k.en = false → (t.cq q).ctx.toNat = bits 16 16 ∧ (t.cq q).log2n.toNat = near 4 15 (bits 8 4)) ∧
        (k.en = true → (t.cq q).ctx = k.ctx ∧ (t.cq q).log2n = k.log2n) ∧
        (v.getLsbD 32 = true → (t.cq q).head = 0 ∧ (t.cq q).tail = 0 ∧ (t.cq q).st = 0) ∧ (v.getLsbD 32 = false → (t.cq q).head = k.head ∧ (t.cq q).st = k.st)) ∧
      (∃ t, wr (BitVec.ofNat 16 (0x1010 + 64 * q)) t ∧ t.cq q = { k with tail := v.setWidth 32 }) ∧
      wr (BitVec.ofNat 16 (0x1018 + 64 * q)) s ∧ wr (BitVec.ofNat 16 (0x1020 + 64 * q)) s) ∧
    (∃ t, wr 0x4000 t ∧ (v.getLsbD 0 = false → t.trace.tsen = v.getLsbD 31 ∧ (∃ k : BitVec 5, t.trace.kNext = some k ∧ k.toNat = near 10 24 (bits 24 5)) ∧
      t.trace.sp.toNat = near 6 20 (bits 16 5) ∧ t.trace.k = s.trace.k)) ∧
    (∃ t, wr 0x4008 t ∧ t.trace = (if s.trace.tsen = true ∨ (∃ p ∈ s.aops, p.2.kind = .flush) then s.trace else { s.trace with base := v.extractLsb' 12 36, head := 0 })) ∧
    (∃ t, wr 0x4010 t ∧ (if s.trace.tsen = true ∨ (∃ p ∈ s.aops, p.2.kind = .flush) then t.trace = s.trace else t.trace.size.toNat = near 16 30 (bits 0 5))) ∧
    (∃ t, wr 0x4020 t ∧ t.trace.tail = (if s.trace.head.toNat < v.toNat then s.trace.head else v)) ∧
    (∀ n < 4, (∃ t, wr (BitVec.ofNat 16 (0x4040 + 16 * n)) t ∧ (t.trace.bp.getD 0 n).toNat = bits 63 1 * 2 ^ 63 + bits 0 48) ∧
      (∃ t, wr (BitVec.ofNat 16 (0x4048 + 16 * n)) t ∧ (t.trace.bpsel.getD 0 n).toNat = bits 0 18)) ∧
    (∀ m < 8, s.hosts.get? m = none → ∃ t, wr (BitVec.ofNat 16 (0x5008 + 16 * m)) t ∧ t.regRead (0x5008 + 16 * m) = v &&& 0xFFFF01FFFFFFFFFF) ∧
    (∃ t, wr 0x5080 t ∧ t.sys.hwcwin.toNat = bits 0 12) ∧
    (∃ t, wr 0x7100 t ∧ t.sys.epochLog.toNat = near 16 40 (bits 48 8) ∧ t.sys.demlo.toNat = bits 32 16 ∧ t.sys.rsh.toNat = bits 28 4 ∧ t.sys.rthr.toNat = bits 4 24 ∧
      t.sys.demen = v.getLsbD 0) ∧
    (∀ k < 16, ∃ t, wr (BitVec.ofNat 16 (0x7000 + 16 * k)) t ∧ (t.stack k).hiwat.toNat = bits 32 14 ∧ (t.stack k).lowat.toNat = bits 16 14 ∧ (t.stack k).clnEn = v.getLsbD 0) ∧
    (∀ i < 4096, ∃ t, wr (BitVec.ofNat 16 (0x8000 + 8 * i)) t ∧ (t.routes.getD 0 i).toNat = bits 63 1 * 2 ^ 63 + bits 0 36) ∧
    (∀ off ∈ ([0x4018, 0x4028, 0x5108, 0x6208 + 8 * 4, 0x7008, 0x7200, 0x0FF8, 0x7F00, 0x1001] : List (BitVec 16)), wr off s) ∧
    (∃ t, exec (.trclostRead .prog) s = .next t ∧ t.sys.readData = s.trace.recs.setWidth 64 ∧ t.trace = { s.trace with recs := 0 } ∧ t.mems = s.mems) ∧
    (∃ t, exec (.hostErrcountRead .prog) s = .next t ∧ (t.sys.readData.toNat / 2 ^ 16 % 2 ^ 16 = s.sys.lnkHost.toNat) ∧ t.sys.lnkHost = 0 ∧ t.mems = s.mems) ∧
    (∀ q < 64, s.regRead (0x1018 + 64 * q) = (s.cq q).head.setWidth 64 ∧ s.regRead (0x1010 + 64 * q) = (s.cq q).tail.setWidth 64) ∧
    s.regRead 0 = 0#32 ++ s.sys.epoch ++ s.sys.owner ∧ s.regRead 0x4018 = s.trace.head ∧ s.regRead 0x0FF8 = 0

/-- Host masters, ownership, the HDM window and the register window: the two parts above. It rests on the model's choices of log entries 29, 30, 71, 72. -/
def Obligations.HostPortAndRegisters : Prop := hostPortRules ∧ registerWindowRules

/-- R412 to R422: the trace engines. A sample is taken once in a cycle that is a multiple of 2^SP, one count in each group's bin; a tick that is due clears every die's counters; a written K
takes effect in a cycle that is a multiple of 2^24. TRCTAIL stores HEAD where it is above. A dump and a flush clear what they write; a flush is DONE once its context has no bin left. A
record that does not fit in the ring is not written. None of them changes a register, a scratchpad or a line.
It rests on the model's choices of log entry 34. -/
def Obligations.Tracing : Prop :=
  ∀ (s : State),
    (∀ d, s.now % 2 ^ s.trace.sp.toNat ≠ 0 ∨ (s.die d).sampledAt = some s.pcc → exec (.histSample d) s = .next s) ∧
    (∀ d gid g core c, s.now % 2 ^ s.trace.sp.toNat = 0 → (s.die d).sampledAt ≠ some s.pcc → s.dieGroups d = [(core, gid, g)] → s.ctx? g.ctx = some c →
      let key := (g.ctx * 2 ^ 16 + g.launch) * 2 ^ 64 + rpcOf s.pcc g
      ∃ t, exec (.histSample d) s = .next t ∧ (t.die d).sampledAt = some s.pcc ∧ t.groups = s.groups ∧ t.mems = s.mems ∧ t.store = s.store ∧
        (c.hen = false → (t.die d).bins = (s.die d).bins) ∧
        (∀ b, c.hen = true → (s.die d).bins.get? key = some b → ∃ b', (t.die d).bins.get? key = some b' ∧
          ∀ i, b'.getD 0 i = if i = s.reason core gid g ∧ b.getD 0 i ≠ BitVec.allOnes 32 then b.getD 0 i + 1 else b.getD 0 i)) ∧
    (∃ t, exec .timeseriesTick s = .next t ∧ t.groups = s.groups ∧ t.mems.cm = s.mems.cm ∧ t.mems.ds = s.mems.ds ∧ t.mems.ln = s.mems.ln ∧ t.store = s.store ∧
      (s.trace.tsen = true → s.now % 2 ^ s.trace.k.toNat = 0 → (s.die 0).latchedAt ≠ some s.pcc → ∀ d < 32, (t.die d).counters = [] ∧ (t.die d).latchedAt = some s.pcc)) ∧
    (∃ t, exec .kSwitch s = .next t ∧ (∀ k, s.trace.kNext = some k → s.now % 2 ^ 24 = 0 → t.trace = { s.trace with k := k, kNext := none }) ∧
      ((s.trace.kNext = none ∨ s.now % 2 ^ 24 ≠ 0) → t = s)) ∧
    (∀ v : BitVec 64, ∃ t, exec (.trctailWrite .prog v) s = .next t ∧ t.trace = { s.trace with tail := if s.trace.head.toNat < v.toNat then s.trace.head else v } ∧
      t.mems = s.mems) ∧
    (∃ t, exec (.dump .prog) s = .next t ∧ t.groups = s.groups ∧ t.mems.cm = s.mems.cm ∧ t.mems.ds = s.mems.ds ∧ t.mems.ln = s.mems.ln ∧ t.store = s.store ∧
      (s.dies = [] → t = s)) ∧
    (∀ n o c, pendingOp s n o c → o.kind = .flush →
      let left := ∃ d ∈ (s.writeBins (fun k => binCtx k == o.ctx)).dies, ∃ b ∈ d.2.bins, binCtx b.1 = o.ctx
      (left → ∃ t, exec (.traceFlushDone n) s = .next t ∧ t.aops.get? n = some o) ∧ (¬ left → ∃ t, exec (.traceFlushDone n) s = .next t ∧ ended t n o .ok)) ∧
    (∀ die len bs, 0 < len → len ≤ 2 ^ s.trace.size.toNat →
      let size := 2 ^ s.trace.size.toNat
      let off := s.trace.head.toNat % size
      let pad := if size < off + len then size - off else 0
      (size + s.trace.tail.toNat < s.trace.head.toNat + pad + len → s.sinkPut die len bs = none) ∧
      (s.trace.head.toNat + pad + len ≤ size + s.trace.tail.toNat → ∃ t, s.sinkPut die len bs = some t ∧ t.trace = { s.trace with head := s.trace.head + BitVec.ofNat 64 (pad + len) } ∧
        t.groups = s.groups ∧ t.store = s.store ∧ t.mems.cm = s.mems.cm))

/-! Checkpoints (R402 to R411). -/

/-- R402, R404, R405, R407, R411: a CKREQ is refused while one is being accepted, with 64 waiting, or for no context; otherwise its block is read and its status dword lodged,
and it joins the waiting ones. REFUSED clears on its write. The shards of one stripe go to different members; the parity of a stripe gives back any one of its data shards. A shard from a
peer becomes the lowest free unit where its attempt has room, and is acknowledged; otherwise the sender learns that there is no room. -/
def checkpointRequestsRules : Prop :=
  (∀ (v : BitVec 64) (s : State),
    let c : Nat := v.toNat % 2 ^ 16
    let a : Nat := v.toNat / 2 ^ 16 % 2 ^ 42 * 64
    let refused := s.ckpt.accepting ≠ none ∨ 64 ≤ s.ckpt.waiting.length ∨ s.ctx? c = none
    (refused → exec (.ckreq .prog v) s = .next { s with ckpt := { s.ckpt with refused := true } }) ∧
    (∀ z, ¬ refused → s.cpRead c a 64 = .bad z → ∃ t, exec (.ckreq .prog v) s = .next t ∧ t.ckpt = { s.ckpt with refused := true } ∧ t.aops = s.aops ∧ t.store = s.store) ∧
    (∀ bs x, ¬ refused → s.cpRead c a 64 = .ok bs → s.ctx? c = some x → (x.fut x.nextTag).st ≠ .pending → x.nextTag < 4096 →
      ∃ t o x', exec (.ckreq .prog v) s = .next t ∧ t.aops.get? s.fresh = some o ∧ o.kind = .ckpt a (ckBlkOf bs) ∧ o.stage = .prePub (s.fresh + 1) ∧ o.ctx = c ∧
        t.ckpt = { s.ckpt with waiting := s.ckpt.waiting ++ [s.fresh] } ∧ t.ctx? c = some x' ∧ (x'.fut x.nextTag).st = .pending ∧ t.mems = s.mems ∧
        lodged t (s.fresh + 1) 0 c (a + 0x20) (le 8 (nextHandle x 8).toNat))) ∧
  (∀ s : State, ∃ t, exec (.refusedClear .prog) s = .next t ∧ t = { s with ckpt := { s.ckpt with refused := false } }) ∧
  (∀ g k p q : Nat, p < g → q < g → p ≠ q → placeOf g k p ≠ placeOf g k q) ∧
  (∀ (bs : List Byte) (g k p i : Nat), 1 ≤ p → p < g → i < 2 ^ 26 →
    (shardPay bs g k p).getD i 0 = ((List.range g).filter (fun q => q != p)).foldl (fun x q => x ^^^ (shardPay bs g k q).getD i 0) 0) ∧
  (∀ (s : State) n m op idx bs, s.inbox.get? n = some m → m.body = .shard op idx bs →
    let left := s.ckpt.resv.getD 0 (m.peer.toNat * 2 ^ 64 + op)
    (∀ u, (List.range s.ckpt.units.toNat).find? (fun u => !decide (u ∈ s.ckpt.used)) = some u → 0 < left → ∃ t, exec (.shardReceive n) s = .next t ∧ t.inbox.get? n = none ∧
      t.ckpt.used = s.ckpt.used ++ [u] ∧ t.ckpt.resv.getD 0 (m.peer.toNat * 2 ^ 64 + op) = left - 1 ∧
      (∀ i < 256, i < bs.length → t.mems.ckstore.read (256 * u + i) = bs.getD i 0) ∧
      (∀ i < 2 ^ 26, 256 + i < bs.length → t.mems.ckstore.read (2 ^ 26 * (u + 1) + i) = bs.getD (256 + i) 0) ∧
      (∃ k x, t.outbox.get? k = some x ∧ x.peer = m.peer ∧ x.body = .shardAck op idx u) ∧ t.mems.cm = s.mems.cm ∧ t.store = s.store) ∧
    (((List.range s.ckpt.units.toNat).find? (fun u => !decide (u ∈ s.ckpt.used)) = none ∨ left = 0) → ∃ t, exec (.shardReceive n) s = .next t ∧ t.inbox.get? n = none ∧
      t.mems = s.mems ∧ t.ckpt = s.ckpt ∧ ∃ k x, t.outbox.get? k = some x ∧ x.peer = m.peer ∧ x.body = .ckAnswer op false 0))

/-- R403, R405 to R409: the head of the waiting operations starts while fewer than 4 run and its status is published; its checks fail it with ILLOP or ACCESS, and a RESTORE that passes runs. The
manifest goes out only when every member has answered and every shard is durable. The first durable copy is the commit point: COMMITTED is lodged, and with every copy durable
the handle is DONE. A RESTORE waits for every member's manifests, fails with ACCESS where none is good or the context is no longer quiesced, fails with its stripes' cause, and is DONE when
its status has been published. -/
def checkpointStepsRules : Prop :=
  ∀ (s : State) n o a b c, pendingOp s n o c → o.kind = .ckpt a b → s.ckpt.accepting = none → o.cancelled = false →
    (∀ q, o.stage = .prePub q →
      let turn := s.ckpt.waiting.head? = some n ∧ s.ckpt.active.length < 4 ∧ s.reqSt q = .complete
      let fails (k : Cause) : Prop := ∃ t, exec (.ckOpStart n) s = .next t ∧ ended t n o (.failed k) ∧ n ∉ t.ckpt.active ∧ n ∉ t.ckpt.waiting
      (¬ turn → exec (.ckOpStart n) s = .next s) ∧
      (turn → b.g < 2 ∨ 64 < b.g → fails .illop) ∧
      (∀ z, turn → 2 ≤ b.g → b.g ≤ 64 → s.cpRead o.ctx b.group (8 * b.g) = .bad z → fails z) ∧
      (∀ bs, turn → 2 ≤ b.g → b.g ≤ 64 → s.cpRead o.ctx b.group (8 * b.g) = .ok bs →
        let ent (i : Nat) : Nat := natOfBytes ((bs.drop (8 * i)).take 8)
        let good (e : Nat) : Prop := e / 2 ^ 16 = 0 ∧ e / 2 ^ 12 % 8 = 0 ∧ (if e / 2 ^ 15 % 2 = 1 then e % 2 ^ 12 = 0 else e % 2 ^ 12 < Config.partitionSize)
        let mod_ (e : Nat) : Nat := if e / 2 ^ 15 % 2 = 1 then Config.moduleIndex.toNat else e % 2 ^ 12
        let legal := (b.op = 1 ∨ b.op = 2) ∧ b.bad = false ∧ (∀ i < b.g, good (ent i)) ∧ ∀ i < b.g, ∀ j < i, mod_ (ent i) ≠ mod_ (ent j)
        (¬ legal → fails .illop) ∧
        (legal → b.op = 1 → ((s.snap o.ctx b.slot).st ≠ .held ∨ s.otherWrite n o.ctx = true) → fails .access) ∧
        (legal → b.op = 2 → s.ckQuiet o.ctx o.tag = false → fails .access) ∧
        (legal → b.op = 2 → s.ckQuiet o.ctx o.tag = true → ∃ t o', exec (.ckOpStart n) s = .next t ∧ t.aops.get? n = some o' ∧ o'.stage = .running ∧ o'.kind = o.kind ∧
          n ∈ t.ckpt.active ∧ t.mems = s.mems ∧ t.store = s.store))) ∧
    (o.stage = .running → b.op = 1 →
      let k := (shardPlaces (s.streamFor o b).length b.g).length
      ((o.allAnswered = false ∨ o.shardsIn k = false) → exec (.manifestWrite n) s = .next s) ∧
      (o.allAnswered = true → o.shardsIn k = true → Config.moduleIndex ∉ o.members → o.members.length = b.g →
        let pay := padTo (2 ^ 26) (s.manifest o b)
        ∃ t, exec (.manifestWrite n) s = .next t ∧ t.aops.get? n = some { o with stage := .holding } ∧ t.mems = s.mems ∧ t.store = s.store ∧
          ∀ i < b.g, ∃ j x, t.outbox.get? j = some x ∧ x.peer = o.members.getD i 0 ∧
            x.body = .shard n (2 ^ 32 + i) (shardHdr b.step o.ctx Config.moduleIndex b.g 0 0xFF 0 o.seqNo pay ++ pay))) ∧
    (o.stage = .holding → b.op = 1 →
      (o.copies = 0 → exec (.ckCommit n) s = .next s) ∧
      (0 < o.copies → s.cpPage o.ctx (a + 0x20) false = none → ∃ t, exec (.ckCommit n) s = .next t ∧ t.aops.get? n = some { o with stage := .flagging s.fresh } ∧
        lodged t s.fresh 0 o.ctx (a + 0x20) (le 8 ((mkHandle 8 o.tag (c.fut o.tag).gen).toNat + 2 ^ 32)) ∧ t.mems = s.mems)) ∧
    (∀ q, o.stage = .flagging q →
      (b.op = 1 → s.reqSt q ≠ .complete ∨ o.copies ≠ o.members.length → exec (.ckCommit n) s = .next s) ∧
      (b.op = 1 → s.reqSt q = .complete → o.copies = o.members.length → ∃ t, exec (.ckCommit n) s = .next t ∧ ended t n o .ok) ∧
      (b.op = 2 → s.reqSt q ≠ .complete → exec (.ckRestore n) s = .next s) ∧
      (b.op = 2 → s.reqSt q = .complete → ∃ t, exec (.ckRestore n) s = .next t ∧ ended t n o .ok)) ∧
    (o.stage = .running → b.op = 2 →
      let fails (k : Cause) : Prop := ∃ t, exec (.ckRestore n) s = .next t ∧ ended t n o (.failed k) ∧ t.mems = s.mems ∧ t.store = s.store
      (o.chunk = 0 → o.allAnswered = false → exec (.ckRestore n) s = .next s) ∧
      (∀ z, o.chunk = 0 → o.allAnswered = true → s.cpRead o.ctx b.key 32 = .bad z → fails z) ∧
      (∀ k, o.chunk = 0 → o.allAnswered = true → s.cpRead o.ctx b.key 32 = .ok k →
        (∀ p ∈ o.bufs, 2 ^ 56 ≤ p.1 → p.1 < 2 ^ 57 → manGood (BitVec.ofNat 256 (natOfBytes k)) b p.2 = false) → fails .access) ∧
      (o.chunk ≠ 0 →
        let m := (o.buf ckChosen).getD []
        (o.shardsIn (manCount m) = false → exec (.ckRestore n) s = .next s) ∧
        (o.shardsIn (manCount m) = true → s.ckQuiet o.ctx o.tag = false → fails .access) ∧
        (∀ z, o.shardsIn (manCount m) = true → s.ckQuiet o.ctx o.tag = true → restoreAll m (fun i => (o.buf (ckShardKey i)).getD []) = .error z → fails z)))

/-- Checkpoint requests and operations: the two parts above. It rests on the model's choices of log entries 26, 27. -/
def Obligations.Checkpoints : Prop := checkpointRequestsRules ∧ checkpointStepsRules

/-! Links between modules (R410, R428 to R434). -/

/-- R429 to R433: a replay is counted and changes nothing else. A link that goes down passes the messages that have not been acknowledged to its alternate. An enabled link trains with the far end's
advertisement and its own written one; a retraining takes it down. A heartbeat leaves on every link that is up, once in 1 ms; a peer with none for 200 ms is declared lost. A message without a
route takes one that appears, waits 1 ms, and then fails its operation; a commit goes on waiting. -/
def linksRules : Prop :=
  ∀ (n : BitVec 6) (s : State), n.toNat < 36 →
    let k : Link := s.link n.toNat
    (∃ t, exec (.flitReplay n) s = .next t ∧ t.link n.toNat = { k with retry := k.retry + 1 } ∧ (∀ m, m ≠ n.toNat → t.link m = s.link m) ∧ t.groups = s.groups ∧
      t.mems = s.mems ∧ t.store = s.store ∧ t.outbox = s.outbox) ∧
    (∃ t, exec (.linkDown n) s = .next t ∧ t.link n.toNat = { k with up := false } ∧ (∀ m, m ≠ n.toNat → t.link m = s.link m) ∧
      (∀ i m, s.outbox.get? i = some m → t.outbox.get? i = some (if m.link = some n then
        { m with link := if (s.link k.alt.toNat).up = true ∧ k.alt ≠ n then some k.alt else none, since := s.pcc } else m)) ∧
      t.groups = s.groups ∧ t.mems = s.mems ∧ t.store = s.store) ∧
    (∀ padv : BitVec 4, ¬ (k.en = true ∧ k.up = false) → exec (.linkTrain n padv) s = .next s) ∧
    (∀ padv : BitVec 4, k.en = true → k.up = false → ∃ t, exec (.linkTrain n padv) s = .next t ∧
      t.link n.toNat = { k with up := true, padv := padv, adv := k.nextAdv.getD k.adv, nextAdv := none } ∧ (∀ m, m ≠ n.toNat → t.link m = s.link m) ∧
      t.groups = s.groups ∧ t.mems = s.mems ∧ t.store = s.store) ∧
    (∃ t, exec (.retrain .prog n) s = .next t ∧ (t.link n.toNat).up = false ∧ (∀ m, m ≠ n.toNat → t.link m = s.link m) ∧ t.groups = s.groups ∧ t.mems = s.mems ∧
      t.store = s.store) ∧
    (∀ v : BitVec 64, ∃ t, exec (.registerWrite .prog (BitVec.ofNat 16 (0x5100 + 16 * n.toNat)) v) s = .next t ∧ (t.link n.toNat).alt = v.extractLsb' 58 6 ∧
      (t.link n.toNat).en = v.getLsbD 0 ∧ ((v.getLsbD 0 = false ∨ v.getLsbD 1 = true) → (t.link n.toNat).up = false) ∧
      (v.getLsbD 1 = false → (t.link n.toNat).adv = k.adv ∧ (t.link n.toNat).nextAdv = some (v.extractLsb' 2 4))) ∧
    (s.now < s.sys.beatAt.toNat + 800000 → exec .heartbeat s = .next s) ∧
    (s.sys.beatAt.toNat + 800000 ≤ s.now → ∃ t, exec .heartbeat s = .next t ∧ t.sys = { s.sys with beatAt := s.pcc } ∧ t.groups = s.groups ∧ t.mems = s.mems ∧
      t.store = s.store ∧ (∀ i < s.fresh, t.outbox.get? i = s.outbox.get? i) ∧
      (k.up = true → ∃ i m, s.fresh ≤ i ∧ t.outbox.get? i = some m ∧ m.link = some n ∧ m.cls = 3 ∧ m.body = .heartbeat)) ∧
    (∀ p : BitVec 12, let last : BitVec 64 := s.heard.getD 0 p.toNat
      (last.toNat + 160000000 ≤ s.now → ∃ t, exec (.peerFailure p) s = .next t ∧ p.toNat ∈ t.lost ∧ t = { s with lost := t.lost }) ∧
      (s.now < last.toNat + 160000000 → exec (.peerFailure p) s = .next s)) ∧
    (∀ i (m : QfMsg), s.outbox.get? i = some m →
      (m.link ≠ none → exec (.noRoute i) s = .next s) ∧
      (∀ l, m.link = none → s.routeOf m.peer i = some l →
        ∃ t, exec (.noRoute i) s = .next t ∧ t.outbox.get? i = some { m with link := some l } ∧ t.groups = s.groups ∧ t.mems = s.mems) ∧
      (m.link = none → s.routeOf m.peer i = none → s.now < m.since.toNat + 800000 → exec (.noRoute i) s = .next s) ∧
      (m.link = none → s.routeOf m.peer i = none → m.since.toNat + 800000 ≤ s.now →
        (∀ op lane c a w o g, m.body = .load op lane c a w → lane < 4096 → s.ops.get? op = some o → s.grp o.gid = some g → g.deferred = [] →
          ∃ t g' tr, exec (.noRoute i) s = .next t ∧ t.outbox.get? i = none ∧ t.ops.get? op = none ∧ t.grp o.gid = some g' ∧ g'.deferred = [tr] ∧ tr.cause = .hwerr ∧
            g'.regs = g.regs ∧ t.mems = s.mems) ∧
        (∀ p tok c l d x, m.body = .commit p tok c l d x → exec (.noRoute i) s = .next s))) ∧
    (∀ i, s.outbox.get? i = none → exec (.noRoute i) s = .next s)

/-- R203, R378, R430: a message is received on a link that is up, and what had left on that link before it is acknowledged; what a peer sends is the model's free value. Loads, atomics, commits, puts,
segments, shards and pages then wait at their engines. A peer's load is served at its home with the line's committed bytes, not while the line is PREP; it parks on a page
of the capacity tier, of which its module is told, and is passed on where its page has moved; a cancel reaches the waiter of a parked access, or goes on with one passed on. -/
def peerAccessesRules : Prop :=
  (∀ (n : BitVec 6) (c : BitVec 2) (s : State),
    ((s.link n.toNat).up = false → exec (.qfMessageReceive n c) s = .next s) ∧
    ((s.link n.toNat).up = true → Config.peerMessage s.free = none → ∃ t, exec (.qfMessageReceive n c) s = .next t ∧ t = { s with free := s.free + 1 }) ∧
    (∀ m, (s.link n.toNat).up = true → Config.peerMessage s.free = some m →
      (m.body = .heartbeat → ∃ t, exec (.qfMessageReceive n c) s = .next t ∧ t.heard.get? m.peer.toNat = some s.pcc ∧ m.peer.toNat ∉ t.lost ∧
        (∀ p ∈ t.outbox, p.2.link = some n → s.now ≤ p.2.since.toNat) ∧
        t.groups = s.groups ∧ t.mems = s.mems ∧ t.store = s.store) ∧
      (((∃ a b c' d e, m.body = .load a b c' d e) ∨ (∃ a b c' d e f g h i, m.body = .atom a b c' d e f g h i) ∨ (∃ a b c' d e f, m.body = .commit a b c' d e f) ∨
        (∃ a b c' d e f, m.body = .chunk a b c' d e f) ∨ (∃ a b c' d e f, m.body = .segment a b c' d e f) ∨ (∃ a b c', m.body = .shard a b c') ∨
        (∃ a b c' d, m.body = .page a b c' d)) →
        ∃ t, exec (.qfMessageReceive n c) s = .next t ∧ t.inbox.get? s.fresh = some { m with cls := c, link := some n } ∧ t.groups = s.groups ∧ t.mems = s.mems ∧
          t.store = s.store))) ∧
  (∀ (i : Nat) (s : State) m op lane ctx addr w, s.inbox.get? i = some m → m.body = .load op lane ctx addr w →
    let lk := lineKey ctx addr
    (s.isRemote lk = true → ∃ t x, exec (.forwardedAccess i) s = .next t ∧ t.outbox.get? s.fresh = some x ∧ x.peer = s.ownerOf lk ∧ x.body = .load i fwdLane ctx addr w ∧
      t.inbox.get? i = some { m with body := .passed op lane (s.ownerOf lk) } ∧ t.store = s.store ∧ t.mems = s.mems) ∧
    (s.isRemote lk = false → s.capPage (pageOfLine lk) = true → (∀ w ∈ s.waiters, w.2.who ≠ .peer i) → ∃ t k x, exec (.forwardedAccess i) s = .next t ∧
      (∃ w ∈ t.waiters, w.2.who = .peer i ∧ w.2.page = pageOfLine lk) ∧ t.outbox.get? k = some x ∧ x.peer = m.peer ∧ x.body = .parked op lane (pageOfLine lk) ∧
      t.inbox.get? i = some m ∧ t.mems = s.mems ∧ t.store.leaves = s.store.leaves) ∧
    (s.isRemote lk = false → s.capPage (pageOfLine lk) = false → s.prepAt lk = true → ∃ t, exec (.forwardedAccess i) s = .next t ∧ t.inbox.get? i = some m ∧
      t.outbox = s.outbox ∧ t.groups = s.groups ∧ t.mems = s.mems ∧ t.store.leaves = s.store.leaves) ∧
    (s.isRemote lk = false → s.capPage (pageOfLine lk) = false → s.prepAt lk = false → ∃ t x v, exec (.forwardedAccess i) s = .next t ∧ t.outbox.get? s.fresh = some x ∧ x.peer = m.peer ∧
      x.body = .reply op lane v ∧ (addr % 256 + w ≤ 256 → v.toNat = natOfBytes (((Line.bytes (s.homeLine lk)).drop (addr % 256)).take w)) ∧ t.inbox.get? i = none ∧
      t.groups = s.groups ∧ t.mems = s.mems ∧ t.store.leaves = s.store.leaves ∧ t.store.recs = s.store.recs)) ∧
  (∀ (i : Nat) (s : State), s.inbox.get? i = none → exec (.forwardedAccess i) s = .next s) ∧
  (∀ (s : State) (peer : BitVec 12) op lane i m, s.inbox.find? (fun p => isAccess peer op lane p.2) = some (i, m) →
    ((∀ a b o, m.body ≠ .passed a b o) → ∀ k w, s.waiters.get? k = some w →
      (s.unparkIn peer op lane).waiters.get? k = some (if w.who = .peer i then { w with cancel := true } else w)) ∧
    (∀ a b o, m.body = .passed a b o → ∃ x, (s.unparkIn peer op lane).outbox.get? s.fresh = some x ∧ x.peer = o ∧ x.body = .unpark i fwdLane))

/-- QF links and peers' accesses: the two parts above. It rests on the model's choices of log entries 35, 36. -/
def Obligations.PeerLinks : Prop := linksRules ∧ peerAccessesRules

/-! Power, gates, reset, boot, attestation, soft errors (R435 to R443). -/

/-- R436: an idle pseudo-channel goes to POWER-DOWN after PDIDLE cycles and to SELF-REFRESH after a further 64 × SRIDLE; 0 disables a timer, a busy channel defers its entry; FORCESR asks for
SELF-REFRESH of every channel of a stack; a channel wakes when its exit latency has passed. No contents are lost. -/
def channelPowerRules : Prop :=
  ∀ (ch : Nat) (s : State),
    let c : Chan := s.chan ch
    let k : Stack := s.stack (ch / 64)
    let enters (i : Instr) (st : ChSt) : Prop := ∃ t, exec i s = .next t ∧ (t.chan ch).st = st ∧ (∀ j, j ≠ ch → t.chan j = s.chan j) ∧ t.mems = s.mems ∧ t.store = s.store ∧
      t.groups = s.groups
    (c.st = .active → k.pdIdle ≠ 0 → c.idleFrom.toNat + k.pdIdle.toNat ≤ s.now → s.chanBusy ch = false → enters (.powerDownEntry ch) .powerDown) ∧
    ((c.st ≠ .active ∨ k.pdIdle = 0 ∨ s.now < c.idleFrom.toNat + k.pdIdle.toNat ∨ s.chanBusy ch = true) → exec (.powerDownEntry ch) s = .next s) ∧
    (c.st = .powerDown → c.wakeAt = none → k.srIdle ≠ 0 → c.idleFrom.toNat + 64 * k.srIdle.toNat ≤ s.now → s.chanBusy ch = false →
      enters (.selfRefreshEntry ch) .selfRefresh) ∧
    ((c.st = .selfRefresh ∨ s.chanBusy ch = true ∨ (c.forced = false ∧ (k.srIdle = 0 ∨ s.now < c.idleFrom.toNat + 64 * k.srIdle.toNat))) →
      exec (.selfRefreshEntry ch) s = .next s) ∧
    (∀ w, c.wakeAt = some w → (s.due w = true → enters (.channelWake ch) .active) ∧ (s.due w = false → exec (.channelWake ch) s = .next s)) ∧
    (c.wakeAt = none → exec (.channelWake ch) s = .next s) ∧
    (∀ (st : BitVec 4) (v : BitVec 64), v.getLsbD 0 = true → ∃ t, exec (.forcesr .prog st v) s = .next t ∧ t.mems = s.mems ∧ t.store = s.store ∧ t.groups = s.groups ∧
      (t.stack st.toNat).pdIdle = v.extractLsb' 8 16 ∧ (t.stack st.toNat).srIdle = v.extractLsb' 24 16 ∧
      ∀ j < 64, (s.chan (64 * st.toNat + j)).wakeAt = none → s.chanBusy (64 * st.toNat + j) = false → (t.chan (64 * st.toNat + j)).st = .selfRefresh)

/-- R437: a GATECTL write that would gate scratchpad inside a granted window keeps the old value and sets ERRSTAT.GATE; otherwise the halves are gated and read zero again, way 0 stays, and what
wakes takes 64 cycles; while a line of the die is being published, or a log has no room, a write that gates ways is kept and tried again. GATE is cleared by writing 1. -/
def gatingRules : Prop :=
  ∀ (d : BitVec 5) (v : BitVec 64) (s : State),
    let sph : BitVec 8 := v.extractLsb' 16 8
    let ways : BitVec 16 := v.extractLsb' 0 16 &&& ~~~(1 : BitVec 16)
    let hit := ∃ b ∈ s.blocks, clusterDie b.2.cluster = d.toNat ∧ sph.getLsbD (b.2.cluster % 8) = true ∧ ∃ l, s.launchOf b.2.launch = some l ∧
      ∃ t < 24, rangesMeet l.cmbase l.cm (t * crBytes + 131072) 131072 = true
    let old : Die := s.die d.toNat
    let takes : Prop := ∃ t, exec (.gatectlWrite .prog d v) s = .next t ∧ (t.die d.toNat).sph = sph ∧ (t.die d.toNat).ways = ways ∧ (t.die d.toNat).gateWant = none ∧
      (old.sph &&& ~~~sph ≠ 0 ∨ old.ways &&& ~~~ways ≠ 0 → (t.die d.toNat).gateWakeAt = some (s.pcc + 64))
    (hit → ∃ t, exec (.gatectlWrite .prog d v) s = .next t ∧ t.die d.toNat = { old with gateWant := none } ∧ t.sys = { s.sys with gateErr := true } ∧
      (∀ e, e ≠ d.toNat → t.die e = s.die e) ∧ t.mems = s.mems ∧ t.store = s.store ∧ t.groups = s.groups) ∧
    (¬ hit → ways &&& ~~~old.ways = 0 → takes ∧ ∀ t, exec (.gatectlWrite .prog d v) s = .next t →
      (∀ e, e ≠ d.toNat → t.die e = s.die e) ∧ t.store = s.store ∧ t.groups = s.groups) ∧
    (¬ hit → ∀ u, s.syncDie d.toNat = some u → takes) ∧
    (¬ hit → ways &&& ~~~old.ways ≠ 0 → s.syncDie d.toNat = none → ∃ t, exec (.gatectlWrite .prog d v) s = .next t ∧
      t.die d.toNat = { old with gateWant := some v } ∧ (∀ e, e ≠ d.toNat → t.die e = s.die e) ∧ t.mems = s.mems ∧ t.store = s.store ∧ t.groups = s.groups) ∧
    (old.gateWant = some v → ∀ t, exec (.gatectlWrite .prog d v) s = .next t → (t.die d.toNat).gateWakeAt = none → exec (.gateWake d) s = .next t) ∧
    (∀ w, old.gateWant = none → old.gateWakeAt = some w → s.due w = true → ∃ t, exec (.gateWake d) s = .next t ∧ (t.die d.toNat).gateWakeAt = none ∧ t.mems = s.mems ∧
      t.store = s.store) ∧
    (old.gateWant = none → (∀ w, old.gateWakeAt = some w → s.due w = false) → exec (.gateWake d) s = .next s) ∧
    (∃ t, exec (.gateErrorClear .prog) s = .next t ∧ t = { s with sys := { s.sys with gateErr := false } })

/-- R32, R407, R439, R440, R442, R443: a cold reset leaves every register at its reset value and every memory of the module empty; a warm reset, by the owner host alone, keeps PCC, CKSTORE and the
units. The boot ROM runs an image whose signature, digest and version hold, and goes to RECOVERY otherwise. An attestation writes the report and then its signature into the
host block. A correctable error is counted; an uncorrectable one is counted, raises vector 3 and reaches its consumer; one that nothing reads is not reported. -/
def resetBootAndErrorsRules : Prop :=
  (∀ s : State,
    (∃ t, exec .coldReset s = .next t ∧ t = { State.reset with issuer := s.issuer, agenda := s.agenda, turns := s.turns, fresh := s.fresh, free := s.free, mems := t.mems } ∧
      t.pcc = 0 ∧ t.mems = { Mems.reset with host := s.mems.host }) ∧
    exec (.warmReset .prog) s = .next s ∧
    (∀ (m : BitVec 3) h, s.hosts.get? m.toNat = some h → h.frozen = false → s.sys.owner.toNat = m.toNat → ∃ t, exec (.warmReset (.host m)) s = .next t ∧ t.pcc = s.pcc ∧
      t.mems.ckstore = s.mems.ckstore ∧ t.ckpt.units = s.ckpt.units ∧ t.groups = [] ∧ t.ctxs = [] ∧ t.store = State.reset.store ∧ t.mems.cm = [] ∧ t.mems.ds = [] ∧ t.mems.ln = [])) ∧
  (∀ (image : List Byte) (sig : BitVec 512) (ver : BitVec 16) (s : State),
    let bad : BitVec 8 := bootCheck image sig ver
    let takes (i : Instr) : Prop := ∃ t, exec i s = .next t ∧ t = { s with sys := t.sys } ∧
      t.sys = (if bad = 0 then { s.sys with bootSt := 2, bootCause := 0, fwver := ver, fwHash := Config.sha512 image } else { s.sys with bootSt := 3, bootCause := bad })
    (s.sys.bootSt = 0 → takes (.boot image sig ver)) ∧ (s.sys.bootSt ≠ 0 → exec (.boot image sig ver) s = .next s) ∧
    (s.sys.bootSt = 3 → takes (.newImage image sig ver)) ∧ (s.sys.bootSt ≠ 3 → exec (.newImage image sig ver) s = .next s) ∧
    (bad = 0 ↔ Config.edVerify Config.vendorKey (le 64 (Config.sha512 image).toNat) sig = true ∧ Config.digestOk (Config.sha512 image) = true ∧ Config.antiRollback ≤ ver.toNat)) ∧
  (∀ (v : BitVec 64) (s : State), ∃ t, exec (.attreq .prog v) s = .next t ∧
    let a := (v.extractLsb' 6 42).toNat * 64
    let rep : List Byte := (s.hostRead a 32).1 ++ le 64 s.sys.fwHash.toNat ++ le 64 (Config.fuseDigest (0#32 ++ s.sys.bootCause ++ s.sys.fwver ++ s.sys.bootSt)).toNat ++
      le 8 s.pcc.toNat ++ le 32 Config.identityPublic.toNat
    (∀ j < 200, t.mems.host.get? (a + j) = rep[j]?) ∧ (∀ j < 64, t.mems.host.get? (a + 200 + j) = (le 64 (Config.edSign Config.identityKey rep).toNat)[j]?) ∧
    (∀ x, (x < a ∨ a + 264 ≤ x) → t.mems.host.get? x = s.mems.host.get? x) ∧ t.groups = s.groups ∧ t.store = s.store) ∧
  (∀ (victim id : Nat) (s : State),
    (∃ t, exec (.softError true victim id) s = .next t ∧ t = { s with sys := { s.sys with corr := s.sys.corr + 1 } }) ∧
    (s.consume victim id = none → exec (.softError false victim id) s = .next s) ∧
    (∀ g, victim = 0 → s.grp id = some g → g.deferred = [] → ∃ t g' tr, exec (.softError false victim id) s = .next t ∧ t.grp id = some g' ∧ g'.deferred = [tr] ∧
      tr.cause = .hwerr ∧ g' = { g with deferred := [tr] } ∧ t.sys = { s.sys with uncorr := s.sys.uncorr + 1, msix := s.sys.msix ++ [3] } ∧ t.mems = s.mems) ∧
    (∀ o c, victim = 1 → pendingOp s id o c → o.stage = .running → (∀ k, o.kind ≠ .slot k) → (∀ a b, o.kind ≠ .ckpt a b) →
      ∃ t, exec (.softError false victim id) s = .next t ∧ ended t id o (.failed .hwerr) ∧ t.sys.uncorr = s.sys.uncorr + 1))

/-- Channel power states, gated SRAM, reset, boot, attestation and soft errors: the three parts above. It rests on the model's choices of log entries 28, 31, 32, 33. -/
def Obligations.PowerResetAndErrors : Prop := channelPowerRules ∧ gatingRules ∧ resetBootAndErrorsRules

/-! Where each form of a group word completes. -/

/-- Word i has had its effect, eff, and its run stands at the next word. -/
def movesOn (i : Instr) (s : State) (gid : Nat) (second : Bool) (r : Run) (eff : State → Group → Prop) : Prop :=
  ∃ (t : State) (g' : Group) (r' : Run), exec i s = .next t ∧ t.grp gid = some g' ∧ g'.runOn second = some r' ∧ r'.idx = r.idx + 1 ∧ r'.pc = r.pc ∧ r'.mask = r.mask ∧
    eff t g'

/-- The word takes the next handle of its context, whose entry is then PENDING, and its run stands at the next word. -/
def opens (i : Instr) (s : State) (gid : Nat) (second : Bool) (g : Group) (r : Run) (d : Opnd) (cls : BitVec 4) : Prop :=
  ∀ c, s.ctx? g.ctx = some c → (c.fut c.nextTag).st ≠ .pending → c.nextTag < 4096 → movesOn i s gid second r (fun t g' => t.mems = s.mems ∧
    g'.regs = g.regs.setF (fNum d) (nextHandle c cls) ∧ ∃ c', t.ctx? g.ctx = some c' ∧ (c'.fut c.nextTag).st = .pending)

/-- R41, R68, R136, R137: every ALU word that its row accepts and whose guard holds completes: its run stands at the next word; of its group only registers that its row writes, in the
lanes of its issue mask, have changed, flags have only been added, and nothing else of the module has changed. -/
def Obligations.AluWordsComplete : Prop :=
  ∀ mk ∈ ([.iadd, .isub, .iadds, .isubs, .imul, .imulhi, .imad, .ineg, .iabs, .imin, .imax, .ishl, .ishr, .isar, .irol, .ibfx, .ibfi, .popc, .clz, .brev, .andB, .orB, .xorB, .notB,
      .andn, .bfn3, .icmp, .fcmp, .sel, .clop, .mov, .movi, .movc, .fadd, .fsub, .fmul, .ffma, .fmin, .fmax, .fabs, .fneg, .fclass, .frnd, .pkadd, .pksub, .pkmul, .pkfma, .pkmin,
      .pkmax, .pkdot, .cvt, .pack2, .unpk2, .shfl, .shflx, .shflup, .shfldn, .bcast, .vall, .vany, .vbal, .vfirst, .rsqs, .rcps, .ex2s, .lg2s, .sins, .coss, .gadd, .gsub, .gmul,
      .gand, .gor, .gxor, .gshl, .gshr, .gmov, .gmovi, .gcmp, .klop, .v2g, .g2v] : List (Alu → Instr)),
  ∀ w s gid second g r o, bodyOf (mk w) = .alu o w → Runs (bodyOf (mk w)) s gid second g r →
    ∃ (rs : Regs) (fl : Flags), exec (mk w) s = .next (s.afterWord gid second { g with regs := rs, fpstat := g.fpstat ||| fl }) ∧ rs.f = g.regs.f ∧ rs.j = g.regs.j ∧
      (∀ n < 128, ∀ l < 64, n ∉ (aluShape o w).writes ∨ r.mask.getLsbD l = false → rs.vreg n l = g.regs.vreg n l) ∧
      (∀ n < 16, ∀ l < 64, 128 + n ∉ (aluShape o w).writes ∨ r.mask.getLsbD l = false → rs.xreg n l = g.regs.xreg n l) ∧
      (∀ n < 64, 144 + n ∉ (aluShape o w).writes → rs.greg n = g.regs.greg n) ∧
      (∀ n < 8, ∀ l < 64, r.mask.getLsbD l = false → (rs.creg n).getLsbD l = (g.regs.creg n).getLsbD l) ∧
      (∀ n < 8, n ≠ kNum w.d ∨ spIn 8 15 w.d = false → rs.kreg n = g.regs.kreg n)

/-- R111, R115, R117, R119, R120, R127, R129, R154, R229 to R232: every memory word completes: where its effective lanes pass their checks, and in `.gl` its cluster's log has room, one operation of it
is in the engine, counted in its class; PREF and a FENCE.acq move on; any other FENCE waits at its word; a LOOPN whose checks pass stands in its core's queue. -/
def Obligations.MemoryWordsComplete : Prop :=
  ∀ (w : Mem) (s : State) gid second (g : Group) r,
    let cl := s.grpCluster g
    let chk (n : Need) (ofs : BitVec 32) (l : Nat) : Chk := s.checkLane g.launch (s.grpCore g) g.ctx w.space n (addressOf g w.space w.a ofs l)
    let good (n : Need) (ofs : BitVec 32) : Prop := (∃ l, effective g r w.b l) ∧ ∀ l, effective g r w.b l → ∃ mt rm, chk n ofs l = .ok mt rm ∧ mt ≠ 3
    let issued (i : Instr) (p : Group → Prop) : Prop := ∃ t g' o, exec i s = .next t ∧ t.grp gid = some g' ∧ p g' ∧ g'.regs = g.regs ∧ g'.trap = g.trap ∧
      t.ops.get? s.fresh = some o ∧ o.gid = gid ∧ o.order = w.order ∧ o.width = widthBytes w.width ∧ t.mems = s.mems
    (∀ i ∈ ([.ld w, .ldx w] : List Instr), Runs (bodyOf i) s gid second g r → good (needLoad (widthBytes w.width)) w.imm → issued i (fun g' => g'.loads = g.loads + 1)) ∧
    (∀ mt rm, Runs (bodyOf (.lds w)) s gid second g r → s.checkLane g.launch (s.grpCore g) g.ctx w.space (needLoad (widthBytes w.width))
        (if w.space = .gl then ((g.regs.greg (gReg w.a)).toInt + w.imm.toInt) % 2 ^ 64 else ((g.regs.greg (gReg w.a)).toNat % 2 ^ 32 : Nat) + w.imm.toInt) = .ok mt rm →
      mt ≠ 3 → issued (.lds w) (fun g' => g'.loads = g.loads + 1)) ∧
    (Runs (bodyOf (.st w)) s gid second g r → good (needStore (widthBytes w.width)) w.imm →
      (w.space = .gl → ∀ ks : List Nat, ks.length ≤ 64 → s.canAccept cl ks (s.pendingLines cl) = true) → issued (.st w) (fun g' => g'.stores = g.stores + 1)) ∧
    (∀ c, Runs (bodyOf (.send w)) s gid second g r → immC w.imm = some c → (∃ l, effective g r w.b l) → sendOk w.space (readGr g.regs c) = true →
      (∀ l, effective g r w.b l → (widthBytes w.width : Int) ∣ addressOf g w.space w.a 0 l ∧ addressOf g w.space w.a 0 l + widthBytes w.width ≤ spaceSize w.space) →
      issued (.send w) (fun g' => g'.stores = g.stores + 1)) ∧
    (∀ i ∈ ([.aadd w, .amin w, .amax w, .aand w, .aor w, .axor w, .axchg w, .acas w, .afadd w] : List Instr), Runs (bodyOf i) s gid second g r →
      good (needAtom (widthBytes w.width)) (atomOfs w) →
      (w.space = .gl → (∀ ks : List Nat, ks.length ≤ 64 → s.batchRoom cl ks (s.pendingLines cl) = true) ∧ ∀ n ≤ 576, (s.promise cl n).isSome = true) →
      issued i (fun g' => g'.loads + g'.stores = g.loads + g.stores + 1)) ∧
    (Runs (bodyOf (.pref w)) s gid second g r → movesOn (.pref w) s gid second r (fun t g' => g'.regs = g.regs ∧ t.ops = s.ops ∧ t.mems = s.mems)) ∧
    (Runs (bodyOf (.fence w)) s gid second g r →
      (w.order = .acq → movesOn (.fence w) s gid second r (fun t g' => g'.regs = g.regs ∧ t.mems = s.mems)) ∧
      (w.order ≠ .acq → ∃ t g' r', exec (.fence w) s = .next t ∧ t.grp gid = some g' ∧ g'.runOn second = some r' ∧ r'.idx = r.idx ∧ r'.wait ≠ .none ∧ g'.regs = g.regs ∧
        t.mems = s.mems)) ∧
    (let a : Nat := (g.regs.greg (gReg w.a)).toNat
      let b : Nat := (g.regs.greg (gReg w.b)).toNat
      let on (i : Instr) (eff : State → Group → Prop) : Prop := Runs (bodyOf i) s gid second g r → movesOn i s gid second r (fun t g' => t.mems = s.mems ∧ eff t g')
      on (.pub w) (fun _ g' => g'.regs = g.regs) ∧ on (.invr w) (fun t g' => g'.regs = g.regs ∧ t.store = s.store) ∧
      (b ≠ 0 → a + b ≤ 2 ^ 48 → Runs (bodyOf (.pubr w)) s gid second g r → opens (.pubr w) s gid second g r w.d 4) ∧
      (∀ mt rm, s.zlineChk (s.grpCore g) g.ctx a w.imm.toNat = .ok mt rm →
        s.canAccept cl ((List.range w.imm.toNat).map (fun k => lineKey g.ctx (a + 256 * k))) (s.pendingLines cl) = true → on (.zline w) (fun _ g' => g'.stores = g.stores + 1))) ∧
    (∀ x : Loop, Runs (bodyOf (.loopn x)) s gid second g r → s.loopCheck g.launch (s.grpCore g) x g.regs = none → ∃ t g' r', exec (.loopn x) s = .next t ∧ t.grp gid = some g' ∧
      g'.tiles = g.tiles + 1 ∧ g'.regs = g.regs ∧ g'.runOn second = some r' ∧ r'.idx = r.idx + 3 ∧
      (t.core (s.grpCore g)).loops.length = (s.core (s.grpCore g)).loops.length + 1 ∧ t.mems = s.mems)

/-- R57 to R59, R172 to R192, R287, R288: every word of the issue engine completes: branches, jumps, calls and returns whose targets may be landed on set next PCs; TRAP and BKPT trap;
the others act on the group and its run stands at the next word. -/
def Obligations.ControlWordsComplete : Prop :=
  ∀ (w : Ctl) (s : State) gid second (g : Group) r,
    let chk (t : Dword) : Option Nat := s.landCheck (s.grpCore g) g.ctx (((s.launches.get? g.launch).map (·.codeBase)).getD 0) t
    let on (i : Instr) (eff : State → Group → Prop) : Prop := Runs (bodyOf i) s gid second g r → movesOn i s gid second r (fun t g' => t.mems = s.mems ∧ eff t g')
    let next (g' : Group) (l : Nat) : Pc := ((g'.runOn second).map (·.nextPc l)).getD 0
    let rel : Pc := BitVec.ofInt 48 ((wordPc r.pc r.idx).toNat + 12 * w.imm.toInt)
    on (.nop w) (fun _ g' => g'.regs = g.regs) ∧ on (.wait w) (fun _ g' => g'.regs = g.regs) ∧ on (.rjoin w) (fun _ g' => g'.regs = g.regs) ∧
    on (.br w) (fun _ g' => ∀ l < 64, r.mask.getLsbD l = true → xor ((g.regs.creg (cNum w.a)).getLsbD l) (w.mod.getLsbD 0) = true → next g' l = rel) ∧
    on (.bru w) (fun _ g' => ∀ l < 64, r.mask.getLsbD l = true → xor (g.regs.kreg (kNum w.a)) (w.mod.getLsbD 0) = true → next g' l = rel) ∧
    on (.call w) (fun _ g' => ∀ l < 64, r.mask.getLsbD l = true → next g' l = rel) ∧
    (∀ i ∈ ([.jmpi w, .ret w] : List Instr), (∀ l < 64, r.mask.getLsbD l = true → chk (readLane g.regs .b64 w.a l) = some 0) →
      on i (fun _ g' => ∀ l < 64, r.mask.getLsbD l = true → next g' l = (readLane g.regs .b64 w.a l).setWidth 48)) ∧
    (g.handler = true → chk (g.regs.greg (gReg w.a)) = some 0 →
      on (.tret w) (fun _ g' => ∀ l < 64, r.mask.getLsbD l = true → next g' l = (g.regs.greg (gReg w.a)).setWidth 48)) ∧
    on (.exit w) (fun _ g' => ∀ x, g'.runOn second = some x → x.exits = r.mask) ∧
    on (.pause w) (fun _ g' => g'.regs = g.regs) ∧
    (1 ≤ (readG g.regs .b64 w.a).toNat → (readG g.regs .b64 w.a).toNat ≤ 2 ^ 24 →
      on (.bar w) (fun _ g' => ∀ x, g'.runOn second = some x → x.arrive.length = r.arrive.length + 1) ∧
      on (.sstep w) (fun _ g' => ∀ x, g'.runOn second = some x → x.arrive.length = r.arrive.length + 1)) ∧
    (r.mask ≠ 0 → Runs (bodyOf (.spawn w)) s gid second g r → movesOn (.spawn w) s gid second r (fun t g' => t.ops = s.ops ∧ ∀ n < 8, n ≠ kNum w.d → g'.regs.kreg n = g.regs.kreg n)) ∧
    on (.fmovg w) (fun _ g' => g'.regs.greg (gReg w.d) = (g.regs.freg (fNum w.a)).setWidth 64) ∧
    on (.gmovf w) (fun _ g' => g'.regs.freg (fNum w.d) = (g.regs.greg (gReg w.a)).setWidth 32) ∧
    (∀ c, s.ctx? g.ctx = some c →
      on (.ftest w) (fun t _ => t.ctxs = s.ctxs) ∧ on (.csrr w) (fun t _ => t.ctxs = s.ctxs) ∧
      ((c.live? (g.regs.freg (fNum w.a)) = none) → on (.fcancel w) (fun _ g' => g'.regs = g.regs)) ∧
      (spNum 0 w.d ≠ 0x83 → on (.csrw w) (fun _ g' => g'.regs = g.regs)) ∧
      (spNum 0 w.d = 0x83 → (readG g.regs .b64 w.a).getLsbD 40 = false → on (.csrw w) (fun _ g' => g'.regs = g.regs)) ∧
      ((g.regs.greg (gReg w.a)).getLsbD 40 = true → (c.fut c.nextTag).st ≠ .pending → c.nextTag < 4096 → on (.traceFlush w) (fun t _ =>
        ∃ c', t.ctx? g.ctx = some c' ∧ (c'.fut c.nextTag).st = .pending ∧ c'.fh = mkHandle 0xA c.nextTag ((c.fut c.nextTag).gen + 1)))) ∧
    (on (.sqpostGroup w) (fun t _ => ∃ p, (t.cl (s.grpCluster g)).mail.getD [] (w.imm.toNat % 16) = (s.cl (s.grpCluster g)).mail.getD [] (w.imm.toNat % 16) ++ [p] ∧
      p.msg = readG g.regs .b64 w.a)) ∧
    (∀ p ps, (s.cl (s.grpCluster g)).mail.getD [] (w.imm.toNat % 16) = p :: ps → s.takeable (s.grpCluster g) p = true →
      on (.sqwaitGroup w) (fun t g' => (t.cl (s.grpCluster g)).mail.getD [] (w.imm.toNat % 16) = ps ∧ g'.regs.greg (gReg w.d) = p.msg)) ∧
    (second = false → (Runs (bodyOf (.trapOp w)) s gid false g r → trapsAll (.trapOp w) s gid g r (.prog (w.imm.setWidth 8))) ∧
      (Runs (bodyOf (.bkpt w)) s gid false g r → trapsAll (.bkpt w) s gid g r .bkpt)) ∧
    (Runs (bodyOf (.runend w)) s gid false g r → r.arrive = [] → g.run2 = none → ∃ t g', exec (.runend w) s = .next t ∧ t.grp gid = some g' ∧ g'.run = none ∧ t.mems = s.mems)

/-- R16 to R18, R236, R246 to R251, R255, R316 to R322, R346, R347, R361, R367, R368, R376, R377, R395 to R398: every word that acts on an engine completes: where its checks pass and a
handle is free for those that take one, it has its effect and its run stands at the next word. -/
def Obligations.EngineWordsComplete : Prop :=
  ∀ (w : Ctl) (s : State) gid (g : Group) r,
    let cl := s.grpCluster g
    let core := s.grpCore g
    let a : Nat := (g.regs.greg (gReg w.a)).toNat
    let b : Nat := (g.regs.greg (gReg w.b)).toNat
    let on (i : Instr) (eff : State → Group → Prop) : Prop := Runs (bodyOf i) s gid false g r → movesOn i s gid false r (fun t g' => t.mems = s.mems ∧ eff t g')
    let op (i : Instr) (cls : BitVec 4) : Prop := Runs (bodyOf i) s gid false g r → opens i s gid false g r w.d cls
    let free := s.slot core
    let mine := free.bound = none ∨ free.bound = some g.launch
    (∀ k, s.blocks.get? g.blockKey = some k →
      (b = 0 ∨ a + b ≤ 2 ^ 48 → on (.tlock w) (fun _ g' => ∀ n < 8, n ≠ kNum w.d → g'.regs.kreg n = g.regs.kreg n)) ∧
      ((∀ y ∈ k.locks, ¬ (y.base = a ∧ y.len = b)) → on (.tunlock w) (fun _ g' => g'.regs = g.regs))) ∧
    (b % 16 = 0 → s.padOk g.launch core .cm b 16 = true → op (.tprobe w) 5) ∧
    (a + b ≤ 2 ^ 48 → b ≠ 0 → op (.migr w) 5) ∧
    (s.aops.get? s.fresh = none → (s.snap g.ctx (w.imm.toNat % 64)).st = .free → op (.snap w) 7) ∧
    ((s.snap g.ctx (w.imm.toNat % 64)).st = .held → s.ckHolds g.ctx (w.imm.toNat % 64) = true → op (.snapdrop w) 7) ∧
    (a < 2 ^ 16 → s.ctx? a ≠ none → op (.rootsw w) 7) ∧
    (a < 2 ^ 44 → a % 2 ^ 17 = 0 → (a < 2 ^ 35 ∨ a / 2 ^ 37 = 1) → op (.libsd w) 7) ∧
    (∀ p ∈ ([(.xcopy w, 0x240), (.xconv w, 0x241), (.xqa8 w, 0x242), (.xwht w, 0x243), (.tprep w, 0x244)] : List (Instr × Nat)),
      let d := copyOf p.2 w g.regs
      copyIll d (g.regs.greg (gReg w.a + 2)) = false → copyMisaligned d = none → s.copySpaceBad g.launch core d = none → copyNomap d = none → op p.1 1) ∧
    (mine → free.st = .idle → op (.pstart w) 9) ∧
    (mine → free.st = .idle → w.mod.getLsbD 0 = false → on (.pstop w) (fun t g' => g'.regs = g.regs ∧ t.slot core = free)) ∧
    (∀ e es, mine → free.queues.getD [] (qNum w.a) = e :: es →
      on (.qpop w) (fun t _ => (t.slot core).queues.getD [] (qNum w.a) = es) ∧ on (.qpeek w) (fun t _ => (t.slot core).queues.getD [] (qNum w.a) = e :: es)) ∧
    (free.flush = 0 → on (.qstat w) (fun t _ => t.slot core = free)) ∧
    (mine → w.mod.getLsbD 0 = true →
      (∀ i < w.imm.toNat / 256 % 128 + 1, ∃ rm, s.checkLane g.launch core g.ctx .cr (needLoad 8) (formAddr .cr (g.regs.greg (gReg w.a)) 0 + 8 * i) = .ok 0 rm) →
      on (.pload w) (fun t g' => g'.loads = g.loads + 1 ∧ t.slot core = free)) ∧
    ((s.table g.ctx (w.imm.toNat % 256)).st = .free → 0 < b → b ≤ 2048 → a % 4 = 0 → a + 4 * b ≤ 2 ^ 48 → w.mod.getLsbD 2 = false → op (.tload w) 2) ∧
    ((s.table g.ctx (w.imm.toNat % 256)).st = .ready → op (.tfree w) 2) ∧
    (∀ i ∈ ([.tq w, .tq2 w] : List Instr), (s.table g.ctx (w.imm.toNat % 256)).usable (cl / 8) = true →
      (∀ l < 64, (r.mask.getLsbD l && (g.regs.creg (w.mod.toNat / 16 % 8)).getLsbD l) = false) → on i (fun t g' => g'.regs = g.regs ∧ t.pkts = s.pkts)) ∧
    ((s.table g.ctx (w.imm.toNat % 256)).usable (cl / 8) = true → a % 2 = 0 → b % 2 = 0 → a + b ≤ 2 ^ 48 → b ≠ 0 → op (.tmap w) 2) ∧
    (a % 64 = 0 → (w.mod.getLsbD 0 = true → s.padOk g.launch core .cm a 64 = true) → (w.mod.getLsbD 0 = false → a + 64 ≤ 2 ^ 48) →
      op (.landr w) 3 ∧ (w.mod.getLsbD 1 = false → op (.landcArm w) 3) ∧ (w.mod.getLsbD 1 = true → op (.landcPut w) 3)) ∧
    (∀ x, a < 2 ^ 16 → s.ctx? a = some x → a ≠ g.ctx → b % 8 = 0 → on (.quiesce w) (fun t _ => ∃ y, t.ctx? a = some y ∧ y.quiet = .quiescing g.ctx (g.regs.greg (gReg w.b)))) ∧
    (∀ x, a < 2 ^ 16 → s.ctx? a = some x → on (.resume w) (fun t _ => t.ctx? a = some (if x.quiet = .quiesced then { x with quiet := .running } else x))) ∧
    (∀ x, a < 2 ^ 16 → s.ctx? a = some x → Runs (bodyOf (.halt w)) s gid false g r → ∃ t, exec (.halt w) s = .next t ∧ (∀ y, t.ctx? a = some y → y.halted = true ∧ y.snaps = []) ∧
      t.mems = s.mems) ∧
    (∀ x s', a < 2 ^ 16 → s.ctx? a = some x → b % 64 = 0 → s.cpPage g.ctx b true = none → s.syncTree a touchAll = some s' → on (.ctxsv w) (fun _ g' => g'.regs = g.regs)) ∧
    (∀ h, a % 64 = 0 → s.translate cl g.ctx a (needLoad 8) = .ok h → s.isRemote (lineKey g.ctx a) = false → s.prepAt (lineKey g.ctx a) = false →
      (∀ k < 64, (Line.bytes (mergeLine (s.ownBytes cl (lineKey g.ctx a)).1 (s.ownBytes cl (lineKey g.ctx a)).2 (s.homeLine (lineKey g.ctx a))))[a % 256 + k]? = some 0) →
      on (.ctxld w) (fun t g' => g'.regs.greg (gReg w.d) = BitVec.allOnes 64 ∧ t.ctxs = s.ctxs ∨ ∃ n x, s.ctx? n = none ∧ t.ctx? n = some x ∧ g'.regs.greg (gReg w.d) = BitVec.ofNat 64 n))

/-! Where each form of the other agents' instructions completes. -/

/-- R62, R277 to R283, R286 to R288, R300, R308: every word of the sequencer completes. One that names no register of a load in flight has its effect and the stream goes on; a word of the Parts engine
joins the queue where its addresses pass their checks and fewer than 32 words have not started. -/
def streamWordsCompleteRules : Prop :=
  ∀ (w : Ctl) (s : State) cl (q : Seq),
    let goes (i : Instr) (eff : State → Prop) : Prop := seqRuns (bodyOf i) s cl q → ∃ t, exec i s = .next t ∧ (t.seqOf cl).spc = q.spc + 12 ∧ (t.seqOf cl).st = q.st ∧
      (t.seqOf cl).trap = q.trap ∧ t.mems = s.mems ∧ t.groups = s.groups ∧ eff t
    let a : Nat := (q.val w.a).toNat % 2 ^ 32
    let b : Nat := (q.val w.b).toNat % 2 ^ 32
    let sp := if w.mod.getLsbD 0 then Space.ds else Space.cm
    let imm := w.imm.toNat
    let ok (x : Nat) (n : Nat) : Prop := s.padOk q.launch (24 * cl) sp x n = true
    let room := (q.pxq.filter (fun o => !o.started)).length < 32
    let queued (i : Instr) : Prop := goes i (fun t => (t.seqOf cl).pxq.length = q.pxq.length + 1 ∧ (t.seqOf cl).s = q.s)
    (∀ i ∈ ([.sadd w, .ssub w, .smul w, .sand w, .sor w, .sxor w, .sshl w, .sshr w, .smov w, .smovi w, .scmp w, .scsrr w] : List Instr),
      goes i (fun t => (∀ m : Nat, m ≠ vReg w.d → (t.seqOf cl).reg m = q.reg m) ∧ (t.seqOf cl).pxq = q.pxq)) ∧
    (∀ l, s.launchOf q.launch = some l →
      let rel : Int := (q.spc.toNat : Int) + 12 * w.imm.toInt
      0 ≤ rel → rel < 2 ^ 48 → (rel - (l.codeBase : Int)) % 12 = 0 → s.fetchCheck cl q.ctx rel.toNat = none → s.fetchCheck cl q.ctx (rel.toNat + 11) = none →
      (seqRuns (bodyOf (.sbr w)) s cl q → ∃ t, exec (.sbr w) s = .next t ∧ (t.seqOf cl).s = q.s ∧
        (t.seqOf cl).spc = (if (q.val w.a = 0) = (w.mod.getLsbD 0 = true) then BitVec.ofInt 48 rel else q.spc + 12) ∧ t.mems = s.mems ∧ t.groups = s.groups) ∧
      (seqRuns (bodyOf (.sjmp w)) s cl q → w.mod.getLsbD 0 = false → w.mod.getLsbD 1 = false → ∃ t, exec (.sjmp w) s = .next t ∧ (t.seqOf cl).s = q.s ∧
        (t.seqOf cl).spc = BitVec.ofInt 48 rel ∧ t.mems = s.mems ∧ t.groups = s.groups)) ∧
    (∀ i ∈ ([.sld w, .sst w] : List Instr), ∀ x, spaceOf (w.mod.extractLsb' 9 3) = some x → x ≠ .gl →
      let at_ : Nat := (q.val w.a + w.imm.signExtend 64).toNat % 2 ^ 32
      let n : Nat := 2 ^ (w.mod.toNat / 64 % 8)
      at_ % n = 0 → s.padOk q.launch (24 * cl) x at_ n = true → goes i (fun t => (t.seqOf cl).accs.get? s.fresh ≠ none ∧ (t.seqOf cl).s = q.s)) ∧
    ((s.heldM cl).getLsbD (imm % 16) = false → ((s.cl cl).box (imm % 16)).length < 4 →
      goes (.sqpostSeq w) (fun t => ((t.cl cl).box (imm % 16)).length = ((s.cl cl).box (imm % 16)).length + 1)) ∧
    (∀ p ps, (s.cl cl).box (imm % 16) = p :: ps → (s.heldM cl).getLsbD (imm % 16) = false → s.takeable cl p = true →
      goes (.sqwaitSeq w) (fun t => (t.cl cl).box (imm % 16) = ps ∧ (t.seqOf cl).reg (vReg w.d) = p.msg)) ∧
    (q.pxq.length ≤ imm % 32 → goes (.swaitpx w) (fun t => (t.seqOf cl).s = q.s)) ∧
    (seqRuns (bodyOf (.sexit w)) s cl q → ∃ t, exec (.sexit w) s = .next t ∧ (t.seqOf cl).st = .ended ∧ (t.seqOf cl).trap = none ∧ (t.seqOf cl).s = q.s ∧ t.mems = s.mems) ∧
    (q.pxq = [] → goes (.pxstat w) (fun t => ∀ m : Nat, m ≠ vReg w.d → (t.seqOf cl).reg m = q.reg m)) ∧
    (room →
      (∀ i ∈ ([.pxmm w, .pxdm w, .pxzero w, .pxbyp w] : List Instr), queued i) ∧
      (a % 16 = 0 → ok a (if imm % 4 = 0 then 3072 else if imm % 4 = 3 then 4096 else 2048) → queued (.pxldw w)) ∧
      (a % 2 = 0 → b % 32 = 0 → s.padOk q.launch (24 * cl) .cm a (64 * (imm % 8 + 1)) = true → queued (.pxga w)) ∧
      (a % 32 = 0 → s.padOk q.launch (24 * cl) .cm a ((32 * (imm % 8 + 1) - 1) * (32 * (imm / 2 ^ 20)) + (33 * (imm / 2 ^ 12 % 256 + 1) + 31) / 32 * 32) = true → queued (.pxlda w)) ∧
      (b % 16 = 0 → ok b (31 * (imm / 256) + 64 * (if imm % 2 = 1 then 2 else 4)) → queued (.pxdrn w)) ∧
      (∀ i ∈ ([.pxsave w, .pxrest w] : List Instr), a % 256 = 0 → ok a 227072 → queued i))

/-- R239 to R245, R385 to R390: every micro-op and every packet completes: a micro-op of a running slot that does not wait has its effect and the slot goes on, END makes it IDLE; a packet that
breaks no rule is executed, and its queue's hand is empty. -/
def microOpsAndPacketsCompleteRules : Prop :=
  (∀ (s : State) core k, slotRuns s core k → k.upc < 127 → k.loads = [] → k.flush = 0 →
    let goes (i : Instr) (eff : Slot → Prop) : Prop := ∃ t, exec i s = .next t ∧ (t.slot core).upc = k.upc + 1 ∧ (t.slot core).st = .running ∧ t.mems = s.mems ∧ t.groups = s.groups ∧
      eff (t.slot core)
    (∀ e3 e2 e1 e0, goes (.cntset e3 e2 e1 e0) (fun x => x.cidx = [] ∧ x.rows = k.rows ∧ x.queues = k.queues)) ∧
    (∀ (n p : BitVec 2) (s3 s2 s1 s0 : BitVec 13), goes (.agset n p s3 s2 s1 s0) (fun x => x.agP.getD 0 n.toNat = p ∧ x.rows = k.rows)) ∧
    (∀ d r fmt : BitVec 3, goes (.dq d r fmt) (fun x => x.queues = k.queues ∧ ∀ m : Nat, m ≠ d.toNat → ∀ i < 64, x.rows.getD 0 (64 * m + i) = k.rows.getD 0 (64 * m + i))) ∧
    goes .trn (fun x => x.queues = k.queues ∧ x.rows.getD 0 0 = k.rows.getD 0 0) ∧
    (∀ q r : BitVec 3, (k.queues.getD [] q.toNat).length < 16 → goes (.push q r) (fun x => x.rows = k.rows ∧
      (x.queues.getD [] q.toNat).length = (k.queues.getD [] q.toNat).length + 1)) ∧
    (∀ (r : BitVec 3) (n sz : BitVec 2), k.params.getD 0 (k.agP.getD 0 n.toNat).toNat = 0 → (∀ j < 4, k.agS.getD 0 (4 * n.toNat + j) = 0) →
      s.blocks.get? (blockKey (k.bound.getD 0) k.block) ≠ none → s.padOk (k.bound.getD 0) core .cr 0 (256 / 2 ^ sz.toNat) = true → goes (.piccoloSld r n .cr sz) (fun x => x.loads.length = 1 ∧ x.rows = k.rows)) ∧
    (∀ (lo : BitVec 2) (target : BitVec 7), k.cidx.getD 0 lo.toNat + 1 < k.cext.getD 1 lo.toNat → ∃ t, exec (.nextOp lo lo target) s = .next t ∧ (t.slot core).upc = target.toNat ∧
      (t.slot core).cidx.getD 0 lo.toNat = k.cidx.getD 0 lo.toNat + 1 ∧ t.mems = s.mems) ∧
    (∀ n o c, k.handle = some n → pendingOp s n o c → ∃ t, exec .endOp s = .next t ∧ (t.slot core).st = .idle ∧ ended t n o .ok)) ∧
  (∀ (s : State) q, s.issuer = .queue q →
    let k := s.cq q
    let done_ (i : Instr) (eff : State → Prop) : Prop := ∃ t, exec i s = .next t ∧ (t.cq q).cur = none ∧ (t.cq q).st = k.st ∧ (t.cq q).head = k.head ∧ eff t
    done_ .barrier (fun t => (t.cq q).wait = .barrier) ∧
    (∀ val addr : BitVec 64, done_ (.signal val addr) (fun t => (t.cq q).sigs.length = k.sigs.length + 1)) ∧
    (∀ byL byR (l : BitVec 16) (base len : BitVec 64), done_ (.cancel byL byR l base len) (fun t => t.mems = s.mems ∧ t.groups = s.groups)) ∧
    (∀ (l : BitVec 16) hold, done_ (.preempt l hold) (fun t => t.mems = s.mems ∧ t.store = s.store)) ∧
    (∀ (h : BitVec 12) hostw (base len : BitVec 64) x, s.ctx? k.ctx.toNat = some x → done_ (.buffer h false hostw base len) (fun t =>
      ∃ y b, t.ctx? k.ctx.toNat = some y ∧ y.bufs.get? h.toNat = some b ∧ b.base = base ∧ b.len = len)) ∧
    (∀ (p : LaunchPkt) (d : List Byte), p.doneAt.toNat % 16 = 0 → p.nblk ≠ 0 → p.nbuf = 0 → s.launches.length < 65535 → s.launchOf (s.lastLaunch % 65535 + 1) = none →
      p.kdesc.toNat % 32 = 0 → p.cmbase = 0 → p.dsbase = 0 → s.cpRead k.ctx.toNat p.kdesc.toNat 32 = .ok d → s.cpRead k.ctx.toNat p.bufl.toNat 0 = .ok [] →
      let f (o n : Nat) : Nat := natOfBytes ((d.drop o).take n)
      f 0 8 = 0 → f 8 4 % 12 = 0 → f 12 4 = 2 ^ 32 - 1 → f 16 4 = 2 ^ 32 - 1 → f 20 1 = 8 → f 21 1 = 0 → f 22 2 = 1 → f 24 4 = 0 → f 28 4 = 0 →
      done_ (.launch p) (fun t => ∃ l, t.launchOf (s.lastLaunch % 65535 + 1) = some l ∧ l.failure = none ∧ l.nblk = p.nblk.toNat ∧ l.entry = f 8 4 ∧ l.ngroups = 1)))

/-- Every sequencer word, Parts-engine word, micro-op and packet completes: the two parts above. -/
def Obligations.AgentWordsComplete : Prop := streamWordsCompleteRules ∧ microOpsAndPacketsCompleteRules

/-! Where each step of the module completes. -/

/-- R24, R104, R113 to R129, R162 to R172, R182 to R191, R394: the steps of the cores and of the groups complete: a run starts, waits end, accesses are performed, traps are taken, groups are saved, restored and end. -/
def Obligations.GroupStepsComplete : Prop :=
  (∀ s core gid g e ws is, s.portsBusy core = false → s.coreGroups core = [(gid, g)] → s.grp gid = some g → g.mayRun = true → g.parked = [] → (s.slot core).flush = 0 →
    FMap.sorted s.groups = true → s.streamWaits g = false → candidate s.pcc g.pcs = some e → s.decodeRun core g.ctx g.nregs g.priv e.pc.toNat = .ok ws is →
    s.runReady core gid g e is = true → s.startTrap core g e is = none →
    ∃ t g' r, exec (.runArbitration core) s = .next t ∧ t.grp gid = some g' ∧ g'.run = some r ∧ r.words = ws ∧ r.idx = 0 ∧ r.mask = e.mask) ∧
  (∀ s gid g r op, s.grp gid = some g → g.run = some r → r.wait = .release op → s.resumeOk gid g r = true → s.portsBusy (s.grpCore g) = false →
    (∀ p ∈ s.resumers (s.grpCore g), p.2.prio.toNat ≤ g.prio.toNat) → (∀ p ∈ s.contenders (s.grpCore g), p.2.1.prio.toNat ≤ g.prio.toNat) →
    ∃ t g' r', exec (.runResume gid) s = .next t ∧ t.grp gid = some g' ∧ g'.run = some r' ∧ r'.wait = .none ∧ r'.idx = r.idx + 1) ∧
  (∀ s op o g, s.ops.get? op = some o → s.grp o.gid = some g → o.space ≠ .gl → o.order = .rlx → o.queued = false → o.kind = .ld false → o.width = 4 →
    (∀ x ∈ o.parts, x.served = true ∧ x.put = false ∧ x.lane < 64 ∧ x.servedAt.toNat + padFixed o.space ≤ s.now) → (o.parts.map (·.lane)).Nodup →
    ∃ t g', exec (.loadReturn op) s = .next t ∧ t.grp o.gid = some g' ∧ g'.loads = g.loads - 1 ∧
      ∀ x ∈ o.parts, g'.regs.vreg o.dest x.lane = x.val.setWidth 32) ∧
  (∀ s op o g x, s.ops.get? op = some o → s.grp o.gid = some g → o.kind = .st → o.space ≠ .gl → o.order = .rlx → o.parts = [x] → o.queued = false → x.served = true →
    x.servedAt.toNat + padFixed o.space ≤ s.now → ∃ t g', exec (.storePerform op) s = .next t ∧ t.ops = s.ops.erase op ∧ t.grp o.gid = some g' ∧ g'.stores = g.stores - 1) ∧
  (∀ s op o g x fn sgn ret, s.ops.get? op = some o → s.grp o.gid = some g → o.kind = .atom fn sgn ret → o.order = .rlx → o.parts = [x] → o.width ∈ [4, 8] → o.queued = true →
    o.space ≠ .gl → firstOf s op o.gid → (∀ p ∈ s.ops, p.1 < op → p.2.queued = false) → ∃ t o', exec (.atomicPerform op) s = .next t ∧ t.ops.get? op = some o' ∧ o'.queued = false ∧
      t.mems = s.mems) ∧
  (∀ s op o g x t, s.ops.get? op = some o → s.grp o.gid = some g → o.kind = .send t → o.parts = [x] → x.served = false → o.queued = false → t.getLsbD 15 = false →
    t.extractLsb' 0 12 ≠ Config.moduleIndex → ∃ u m, exec (.sendArrive op x.lane) s = .next u ∧ u.outbox.get? s.fresh = some m ∧ m.peer = t.extractLsb' 0 12 ∧ u.mems = s.mems) ∧
  (∀ s bar b, s.bars.get? bar = some b → b.complete ≠ [] → ∃ t, exec (.barrierRelease bar) s = .next t ∧ t.bars.get? bar = some { b with complete := [] } ∧ t.mems = s.mems) ∧
  (∀ s gid g idx e, s.grp gid = some g → g.run = none → g.run2 = none → g.pcs[idx]? = some e → e.yielded s.pcc = false →
    exec (.yieldExpire gid idx) s = .next (s.setGrp gid { g with pcs := g.pcs.set idx { e with yield := none } })) ∧
  (∀ s gid g c k, s.grp gid = some g → g.place = .resident c k → g.run = none → g.run2 = none → g.trap = none → g.stopped = false → g.pcs ≠ [] →
    s.due (g.stallFrom + g.stallwd.setWidth 64) = true → ∃ t g' tr, exec (.stall gid) s = .next t ∧ t.grp gid = some g' ∧ g'.trap = some tr ∧ tr.cause = .stall ∧ g'.regs = g.regs) ∧
  (∀ s gid g t, s.grp gid = some g → g.run = none → g.run2 = none → g.stopped = false → g.trap = some t → t.req = none → s.drained gid g = true → g.parked = [] → t.mask ≠ 0 →
    g.handler = false → ∃ u g' tr, exec (.trapTake gid) s = .next u ∧ u.grp gid = some g' ∧ g'.trap = some tr ∧ tr.req = some s.fresh ∧ tr.cause = t.cause ∧
      lodged u s.fresh (s.grpCluster g) g.ctx g.trec.toNat (trapRecord g t s.pcc)) ∧
  (∀ s gid g t q h, s.grp gid = some g → g.run = none → g.run2 = none → g.stopped = false → g.trap = some t → t.req = some q → s.reqSt q = .complete → s.handlerPc g = some h →
    ∃ u g', exec (.trapTake gid) s = .next u ∧ u.grp gid = some g' ∧ g'.handler = true ∧ g'.trap = none ∧ g'.tpc = t.wpc ∧ g'.tlmask = t.lanes ∧
      ∀ l < 64, t.mask.getLsbD l = true → ∃ e ∈ g'.pcs, e.mask.getLsbD l = true ∧ e.pc = h) ∧
  (∀ s gid g b c k, s.grp gid = some g → s.blocks.get? g.blockKey = some b → g.place = .resident c k →
    (b.ask = true → exec (.preemptRequest gid) s = .next (s.setGrp gid { g with saveReq := true })) ∧
    (g.saveReq = true → g.run = none → g.run2 = none → g.trap = none → g.deferred = [] → g.stopped = false → g.parked = [] → s.drained gid g = true →
      ∃ t g', exec (.groupSave gid) s = .next t ∧ t.grp gid = some g' ∧ g'.place = .saving c k ∧ g'.regs = g.regs ∧ g'.pcs = g.pcs)) ∧
  (∀ s gid g b core k c, s.grp gid = some g → s.blocks.get? g.blockKey = some b → g.place = .saved → s.freeSlot core = some k → s.ctx? g.ctx = some c → c.quiet = .running →
    g.moveTo = none → b.cluster = coreCluster core → b.held = false → b.ask = false → b.resident = true → s.regsUsed core + g.nregs ≤ 1024 → restoreCore s g core = true →
    (s.cl b.cluster).saves.get? g.blockKey = none → ∃ t g', exec (.groupRestore gid core) s = .next t ∧ t.grp gid = some g' ∧ g'.place = .resident core k ∧ g'.regs = g.regs) ∧
  (∀ s gid g, s.grp gid = some g → g.run = none → g.run2 = none → g.trap = none → g.saveOp = none → g.pcs = [] → g.parked = [] → g.deferred = [] →
    (∀ p ∈ s.pkts, p.2.gid ≠ gid) → g.loads + g.stores + g.copies + g.tiles = 0 → ∃ t, exec (.groupEnd gid) s = .next t ∧ t.grp gid = none ∧ t.mems = s.mems) ∧
  (∀ s gid g r till, s.grp gid = some g → g.run = some r → r.wait = .logSpace till → (∀ p ∈ s.store.reqs, p.2.log < 320 ∧ p.2.gid ≠ some gid) →
    (∀ p ∈ s.aops, p.2.gid ≠ some gid) → s.due till = true → ∃ t g' tr, exec (.logstallExpire gid) s = .next t ∧ t.grp gid = some g' ∧ g'.trap = some tr ∧ tr.cause = .logfull) ∧
  (∀ (s : State) op o g, s.ops.get? op = some o → o.kind = .tlock → s.grp o.gid = some g →
    (∀ p ∈ o.parts, ∀ lf, (s.cl (s.grpCluster g)).lib.get? (leafKey g.ctx p.addr) = some lf → lf.landed = true) →
    exec (.tlockFillLand op) s = .next ({ s with ops := s.ops.erase op }.setGrp o.gid { g with loads := g.loads - 1 })) ∧
  (∀ (s : State) gid g (j : BitVec 3) p, s.grp gid = some g → g.run = none → g.run2 = none → g.parked = [p] → p.j = j → p.lane < 64 → (g.regs.jreg j.toNat).getLsbD p.lane = true →
    ∃ t g', exec (.lanesReturn gid j) s = .next t ∧ t.grp gid = some g' ∧ g'.parked = [] ∧ ∃ x ∈ g'.pcs, x.pc = p.pc ∧ x.mask.getLsbD p.lane = true)

/-- R202 to R217, R364, R370 to R380: the steps of the log memory, of translation and of migration complete: buffers leave, publications open, are prepared, committed, given back, leaves are filled and
written back, pages are asked for, move and change owners, and peers' accesses are served. -/
def Obligations.MemoryStepsComplete : Prop :=
  (∀ s c lk b u, c < 256 → (s.cl c).buf.get? lk = some b → s.due (b.first + b.win.setWidth 64) = true → s.flushLine c lk = some u →
    ∃ t, exec (.wcbWindowExpire c lk) s = .next t ∧ (t.cl c).buf.get? lk = none ∧ t.store.leaves = s.store.leaves) ∧
  (∀ s log r q, (s.log log).pub = none → (s.log log).queue = [r] → s.store.reqs.get? r = some q → q.kind = .solo → q.lines ≠ [] → (s.reserve log (resvUnits q.lines)).isSome = true →
    ∃ t p b, exec (.publicationStart log) s = .next t ∧ (t.log log).pub = some p ∧ t.store.pubs.get? p = some b ∧ b.lines = q.lines ∧ b.key = s.pcc ∧ t.store.leaves = s.store.leaves) ∧
  (∀ s p q, s.store.pubs.get? p = some q → (∀ x ∈ q.lines, x.st = .committed) → q.reqs = [] →
    ∃ t, exec (.publicationCommit p) s = .next t ∧ t.store.pubs.get? p = none ∧ (t.log q.log).pub = none ∧ t.store.leaves = s.store.leaves ∧ t.mems = s.mems) ∧
  (∀ s p q x, s.store.pubs.get? p = some q → q.lines = [x] → s.isRemote x.key = false → q.peer = none →
    (x.st = .sent → q.revoked = false → q.committing = false → s.mayGrantAt x.key q.isMig = true → s.store.preps.get? x.key = none →
      ∃ t h, exec (.homePrepare p 0) s = .next t ∧ (t.homeEntry x.key).prep = true ∧ t.store.preps.get? x.key = some h ∧ h.holder = some p) ∧
    (x.st = .granted → q.revoked = false → x.msk ≠ 0 → x.full = false → ∃ t q', exec (.prepareAck p 0) s = .next t ∧ t.store.pubs.get? p = some q' ∧ q'.committing = true) ∧
    (∀ h, x.st = .acked → q.committing = true → x.hdr = none → s.store.preps.get? x.key = some h → h.queue = [] → h.readers = [] →
      ∃ t, exec (.homeCommit p 0) s = .next t ∧ (t.homeEntry x.key).prep = false ∧ t.store.preps.get? x.key = none ∧ t.mems = s.mems) ∧
    (q.revoked = true → q.committing = false → x.st = .granted → ∃ t, exec (.revokeRequest p) s = .next t ∧
      t.store.pubs.get? p = some { q with revoked := false, lines := [{ x with st := .releasing }] }) ∧
    (∀ h, x.st = .releasing → s.store.preps.get? x.key = some h → h.queue = [] → h.readers = [] →
      ∃ t, exec (.homeRelease p 0) s = .next t ∧ (t.homeEntry x.key).prep = false ∧ t.store.preps.get? x.key = none ∧ t.homeLine x.key = s.homeLine x.key) ∧
    (∀ h, s.store.preps.get? x.key = some h → h.holder = some p → s.due (h.since + 16384) = true →
      ∃ t q', exec (.holdTimerExpire x.key) s = .next t ∧ t.store.pubs.get? p = some q' ∧ q'.revoked = true)) ∧
  (∀ (s : State) cl leaf h, s.pageHdr (pageOfLeaf leaf) = some h →
    ((s.cl cl).lib.get? leaf = none → s.walksOf (clusterDie cl) < 64 → ∃ t lf, exec (.translationWalk cl leaf) s = .next t ∧ (t.cl cl).lib.get? leaf = some lf ∧ lf.hdr = h) ∧
    (∀ lf, (s.cl cl).lib.get? leaf = some lf → lf.landed = false → lf.miss = none → ∃ t lf', exec (.libFill cl leaf) s = .next t ∧ (t.cl cl).lib.get? leaf = some lf' ∧
      lf'.landed = true ∧ lf'.hdr = h ∧ lf'.ents = s.homeLeafEnts leaf)) ∧
  (∀ s leaf lf t, s.store.leaves.get? leaf = some lf → lf.dirty = true → (∃ h, s.store.pages.get? (pageOfLeaf leaf) = some h) →
    s.syncTree (leafCtx leaf) (touchLeaf (leafAddr leaf)) = some t → exec (.leafWriteback leaf) s = .next t ∧ ∃ lf', t.store.leaves.get? leaf = some lf' ∧ lf'.dirty = false) ∧
  (∀ s op o g x lf, s.ops.get? op = some o → s.grp o.gid = some g → o.kind = .ld false → o.space = .gl → o.order = .rlx → o.parts = [x] →
    o.queued = false → x.served = false → x.mt.toNat < 2 → firstOf s op o.gid → coreCluster (s.grpCore g) = s.grpCluster g → o.width = 4 → x.addr % 256 + 4 ≤ 256 →
    (s.ownBytes (s.grpCluster g) (lineKey g.ctx x.addr)).1 = 0 → (s.cl (s.grpCluster g)).lib.get? (leafOfLine (lineKey g.ctx x.addr)) = some lf → lf.landed = true →
    s.isRemote (lineKey g.ctx x.addr) = false → s.cachedLine (s.grpCore g) g.ctx x.addr = none → (s.homeEntry (lineKey g.ctx x.addr)).prep = false →
    ∃ t o' y, exec (.loadServeHome op x.lane) s = .next t ∧ t.ops.get? op = some o' ∧ o'.parts = [y] ∧ y.served = true ∧
      y.val = BitVec.ofNat 128 (s.loadHome (s.grpCluster g) g.ctx x.addr 4) ∧ t.mems = s.mems) ∧
  (∀ (s : State) die page, (∃ w ∈ s.waiters, w.2.die = die ∧ w.2.page = page ∧ w.2.requested = false ∧ isFwd w.2.who = false) → (s.pageEntries die).length < 256 →
    ∃ t m, exec (.pageRequest die page) s = .next t ∧ t.migs.get? page = some m ∧ die ∈ m.dies ∧ t.mems = s.mems) ∧
  (∀ (s : State) page m h u ls, s.migrAt false page = none → s.migs.get? page = some m → m.req = none → m.toCap = false → m.failed = none → m.xfer = none →
    s.pageHdr page = some h → s.copyLines (migLog h) h.home.toNat false 2 (s.pageLines page) = some (u, ls) →
    ∃ t rq, exec (.pagePromote page) s = .next t ∧ t.store.reqs.get? u.fresh = some rq ∧ rq.kind = .solo ∧ rq.rkind = 2 ∧ t.store.leaves = s.store.leaves) ∧
  (∀ (s : State) page h u ls stack, s.migrAt true page = none → s.store.pages.get? page = some h → s.sys.demen = true → (s.stack stack).pool < s.sys.demlo.toNat →
    s.demotable stack page h = true → (∀ p ∈ s.store.pages, s.demotable stack p.1 p.2 = true → demoteRank page h ≤ demoteRank p.1 p.2) →
    s.copyLines (migLog h) h.home.toNat true 2 (s.pageLines page) = some (u, ls) →
    ∃ t rq, exec (.pageDemote stack page) s = .next t ∧ t.store.reqs.get? u.fresh = some rq ∧ rq.rkind = 2 ∧ t.store.leaves = s.store.leaves) ∧
  (∀ (s : State) die page m q, s.migs.get? page = some m → m.dies = [die] → m.req = some q → m.xfer = none → m.failed = none → s.reqSt q = .complete → m.op = none →
    (∀ w ∈ s.waiters, w.2.die = die → w.2.page = page → ∃ gid, w.2.who = .group gid) → ∃ t, exec (.migrationCommitNotice die page) s = .next t ∧ t.migs.get? page = none ∧
      t.waiters = s.waiters.filter (fun w => ¬ (w.2.die = die ∧ w.2.page = page)) ∧ t.groups = s.groups) ∧
  (∀ (s : State) die k w gid g r, s.waiters.get? k = some w → w.die = die → w.who = .group gid → s.grp gid = some g → g.run = some r → w.cancel = true →
    ∃ t g' tr, exec (.faultCancel die k) s = .next t ∧ t.grp gid = some g' ∧ g'.trap = some tr ∧ tr.cause = .cancelled) ∧
  (∀ s msg m op lane ctx addr width, s.inbox.get? msg = some m → m.body = .load op lane ctx addr width → s.isRemote (lineKey ctx addr) = false →
    s.capPage (pageOfLine (lineKey ctx addr)) = false → s.prepAt (lineKey ctx addr) = false → ∃ t k x v, exec (.forwardedAccess msg) s = .next t ∧ t.inbox.get? msg = none ∧
      t.outbox.get? k = some x ∧ x.peer = m.peer ∧ x.body = .reply op lane v) ∧
  (∀ s : State, s.sys.epochAt.toNat / 2 ^ s.sys.epochLog.toNat < s.pcc.toNat / 2 ^ s.sys.epochLog.toNat → ∃ t, exec .counterEpochTick s = .next t ∧ t.sys.epochAt = s.pcc ∧
    ∀ p h, s.store.pages.get? p = some h → ∃ h', t.store.pages.get? p = some h' ∧ h'.lcnt.toNat = h.lcnt.toNat / 2 ∧ h'.rcnt.toNat = h.rcnt.toNat / 2) ∧
  (∀ s page peer h, s.pageHdr page = some h → h.remote = false → s.pageMsg peer page = none → s.migs.get? page = none →
    ∃ t m, exec (.pageTransfer page peer) s = .next t ∧ t.migs.get? page = some m ∧ m.xfer = some peer ∧ t.store = s.store)

/-- R154 to R158, R242, R247, R248, R251, R255 to R271, R275, R276, R289, R290, R301 to R310, R320, R321, R327, R330, R332 to R344, R355 to R358, R376, R418: the steps of the engines complete: a loop, a copy, a slot, a
stream, a Parts-engine operation, a table query and a landing operation start, go on and end. -/
def Obligations.EngineStepsComplete : Prop :=
  (∀ (s : State) core j js, (s.core core).loops = j :: js →
    (j.started = false → s.accessesDone j.gid j.op = true → ∃ t, exec (.loopnStart core) s = .next t ∧ (t.core core).loops = { j with started := true, leaveAt := s.pcc } :: js) ∧
    (∀ g, j.complete core s = true → s.grp j.gid = some g → ∃ t g', exec (.loopnComplete core) s = .next t ∧ (t.core core).loops = js ∧ t.grp j.gid = some g' ∧
      g'.tiles = g.tiles - 1 ∧ g'.fpstat = g.fpstat ||| j.fl)) ∧
  (∀ (s : State) cl n o d, s.aops.find? (fun p => p.2.cluster == cl && (copyOfKind p.2.kind).isSome && p.2.stage == .queued) = some (n, o) →
    s.aops.get? n = some o → o.kind = .copy d → (∀ gid, o.gid = some gid → s.accessesDone gid n = true) → s.copyBusy cl < 4 → s.copyWritten o d = false →
    ∃ t, exec (.copyOpStart cl) s = .next t ∧ t.aops.get? n = some { o with stage := .running } ∧ t.mems = s.mems) ∧
  (∀ (s : State) n o d c, s.aops.get? n = some o → o.kind = .copy d → o.stage = .running → o.outs = [] → d.steps ≤ o.chunk → (d.stat = false ∨ o.chunk ≠ d.steps) →
    s.piecesDone o.pieces 0 = true → d.dsp ≠ .gl → s.ctx? o.ctx = some c → (c.fut o.tag).op = n → (c.fut o.tag).st = .pending →
    ∃ t c', exec (.copyOpComplete n) s = .next t ∧ t.aops.get? n = none ∧ t.ctx? o.ctx = some c' ∧ (c'.fut o.tag).st = .ok) ∧
  (∀ (s : State) op o x g first, s.ops.get? op = some o → o.kind = .pload first → o.order = .rlx → o.queued = false → o.space = .cr → s.grp o.gid = some g → o.parts = [x] →
    x.put = false → (∃ t, o.partDue x = some t ∧ t + 1 ≤ s.pcc.toNat) → ∃ t, exec (.ploadDataReturn op) s = .next t ∧ t.ops = s.ops.erase op ∧
      (t.slot (s.grpCore g)).shadow.getD 0 first = x.val.setWidth 64 ∧ t.grp o.gid = some { g with loads := g.loads - 1 }) ∧
  (∀ (s : State) core n o, (s.slot core).handle = some n → s.aops.get? n = some o → (s.slot core).st = .running → (s.slot core).begun = false →
    (∀ gid, o.gid = some gid → s.accessesDone gid (s.slot core).upto = true) → ∃ t, exec (.piccoloRunBegin core) s = .next t ∧
      t.slot core = { s.slot core with begun := true, upc := o.chunk }) ∧
  (∀ (s : State) core (r : Nat) x mt rm, (s.slot core).loads.find? (fun y => y.row == r) = some x → (s.slot core).st = .running → s.sldChk core (s.slot core) x = .ok mt rm →
    x.sp ≠ .gl → s.piecesDone x.pieces 0 = true → ∃ t, exec (.piccoloSldReturn core r) s = .next t ∧ (t.slot core).loads = (s.slot core).loads.filter (fun y => y.row != r)) ∧
  (∀ (s : State) core, (s.slot core).flush = 0 → (s.slot core).bound ≠ none → (s.slot core).st = .idle → (∀ p ∈ (s.slot core).queues, p.2 = []) → s.heldQ core = 0 →
    ∃ t, exec (.bindingEnd core) s = .next t ∧ t.slot core = Slot.reset) ∧
  (∀ (s : State) cl (q : Seq), s.seqOf cl = q →
    (∀ c, q.st = .ready → q.stopReq = false → q.saveReq = false → s.ctx? q.ctx = some c → (c.fut c.nextTag).st ≠ .pending → c.nextTag < 4096 →
      ∃ t, exec (.streamStart cl) s = .next t ∧ (t.seqOf cl).st = .running ∧ (t.cl cl).mailOpen = true ∧ t.mems = s.mems) ∧
    (q.st = .running → q.trap = none → q.saveOp = none → s.due (q.stallFrom + 0x100000000) = true →
      ∃ t tr, exec (.seqStall cl) s = .next t ∧ (t.seqOf cl).trap = some tr ∧ tr.cause = .stall ∧ tr.wpc = q.spc) ∧
    (∀ tr, q.trap = some tr → tr.req = none → ∃ t tr', exec (.seqTrap cl) s = .next t ∧ (t.seqOf cl).trap = some tr' ∧ tr'.req = some s.fresh ∧
      lodged t s.fresh cl q.ctx q.trec (seqTrapRecord q tr s.pcc)) ∧
    (q.saveReq = true → q.trap = none → q.st ≠ .free → q.saveOp = none → q.accs = [] → q.pxq = [] →
      (∀ g ∈ s.groups, g.2.blockKey ≠ blockKey q.launch q.block) → ∃ t, exec (.seqSave cl) s = .next t ∧ (t.seqOf cl).saveOp = some s.fresh ∧
        lodged t s.fresh cl q.ctx (q.trec + 0x80) (s.seqImage cl)) ∧
    (∀ k b c blk, (s.cl cl).saves.get? blk = some k → s.blocks.get? blk = some b → s.ctx? k.seq.ctx = some c → q.st = .free → b.cluster = cl →
      b.held = false → b.ask = false → c.quiet = .running → b.resident = true → ∃ t, exec (.seqRestore cl blk) s = .next t ∧
        (t.seqOf cl).s = k.seq.s ∧ (t.seqOf cl).spc = k.seq.spc ∧ (t.cl cl).parts = k.parts) ∧
    (∀ n o c, (s.cl cl).saves = [] → q.st = .ended → q.trap = none → q.handle = some n → pendingOp s n o c → o.kind = .stream → q.pxq = [] →
      (∀ a ∈ q.accs, a.2.acc.write = false) → ∃ t, exec (.streamHandleResolve cl) s = .next t ∧ ended t n o (if q.cause = .none then .ok else .failed q.cause))) ∧
  (∀ (s : State) cl k (x : SeqAcc), (s.seqOf cl).accs.get? k = some x → s.piecesDone [x.acc] 0 = true →
    (x.acc.write = true → ∃ t, exec (.seqSstPerform cl k) s = .next t ∧ (t.seqOf cl).accs = (s.seqOf cl).accs.erase k) ∧
    (x.acc.write = false → (s.seqOf cl).accs.find? (fun a => !a.2.acc.write && a.2.reg == x.reg) = some (k, x) → x.acc.space ≠ .gl →
      ∃ t, exec (.seqSldReturn cl x.reg) s = .next t ∧ (t.seqOf cl).accs = (s.seqOf cl).accs.erase k)) ∧
  (∀ (w : Ctl) (s : State) cl (x : PxOp), (s.seqOf cl).st = .running → (s.seqOf cl).trap = none → pxOnly s cl (.pxzero w) x →
    (x.started = false → x.gone = false → x.idx = [] → x.accs = [] → x.outside = false → ∃ t x', exec (.pxOpStart cl) s = .next t ∧ (t.seqOf cl).pxq = [x'] ∧ x'.started = true ∧
      (t.cl cl).parts = (s.cl cl).parts) ∧
    (x.started = true → x.gone = true → s.due x.due = true → s.piecesDone x.idx 0 = true → s.piecesDone x.accs 0 = true → ∃ t, exec (.pxOpComplete cl 0) s = .next t ∧
      (t.seqOf cl).pxq = [] ∧ ∀ n < 8, w.imm.getLsbD n = true → ∀ rr tok, ((t.cl cl).parts.zr n).elem rr tok = 0)) ∧
  (∀ (s : State) n o tab image cm c, s.ctx? o.ctx = some c → s.aops.get? n = some o → o.kind = .tload tab image cm → o.stage = .holding →
    ∃ t, exec (.tloadComplete n) s = .next t ∧ t.aops.get? n = none ∧ t.mems = s.mems) ∧
  (∀ (s : State) n o tab c, pend s n o c → o.kind = .tfree tab → (s.table o.ctx tab).seen = BitVec.allOnes 32 → s.tableBusy o.ctx tab = false →
    ∃ t, exec (.tfreeComplete n) s = .next t ∧ t.aops.get? n = none ∧ (t.table o.ctx tab).st = .free) ∧
  (∀ (s : State) n o tab base len half rsh, s.aops.get? n = some o → o.kind = .tmap tab base len half rsh → o.stage = .running → o.outs = [] → len ≤ o.chunk →
    ∃ t rq, exec (.tmapComplete n) s = .next t ∧ t.aops.get? n = some { o with stage := .publishing s.fresh } ∧ t.store.reqs.get? s.fresh = some rq ∧ rq.kind = .solo) ∧
  (∀ (s : State) k p c, s.pkts.get? k = some p → p.reply = none → p.chan = some c → p.req.length = 144 → (s.chan (64 * p.stack + c)).st = .active →
    ∃ t bs, exec (.tqPacketServe k) s = .next t ∧ t.pkts = s.pkts.set k { p with reply := some bs } ∧ t.mems = s.mems) ∧
  (∀ (s : State) k p g (bs : List Byte), s.pkts.get? k = some p → p.reply = some bs → s.grp p.gid = some g → p.dest < 128 →
    ∃ t g', exec (.tqReply k) s = .next t ∧ t.pkts = s.pkts.erase k ∧ t.grp p.gid = some g' ∧ g'.regs.g = g.regs.g) ∧
  (∀ (s : State) n o a cm b, s.aops.get? n = some o → o.stage = .queued → o.kind = .arm a cm (some b) →
    (∀ p ∈ s.aops, landsAt o.landStack p.2 = true → p.2.stage = .queued → o.arrival ≤ p.2.arrival) →
    (s.aops.filter (fun p => landsAt o.landStack p.2 && p.2.stage != .queued)).length < 32 →
    ∃ t, exec (.landOpStart n) s = .next t ∧ t.aops.get? n = some { o with stage := .holding }) ∧
  (∀ (s : State) k n o a cm b, s.firstArm k = some (n, o) → s.aops.get? n = some o → o.kind = .arm a cm (some b) → (s.stack k).live.length + 2 * (b.nsrc + 1) ≤ 4096 →
    ∃ t o', exec (.armReserve k) s = .next t ∧ t.aops.get? n = some o' ∧ o'.stage = .running ∧ o'.chunkBufs.length = 2 * (b.nsrc + 1)) ∧
  (∀ (s : State) n o c a cm b, pend s n o c → o.kind = .put a cm (some b) → b.self = true →
    (o.stage = .holding → s.due (o.since + 800) = true → ∃ t, exec (.putRetry n) s = .next t ∧ t.aops.get? n = some { o with stage := .running }) ∧
    (∀ u bs m x y, o.stage = .running → s.engineChk o.cluster o.ctx (b.src + 4096 * o.chunk) (b.chunkLen o.chunk) (needLoad 1) = .ok u →
      o.lineBytes (b.src + 4096 * o.chunk) (b.chunkLen o.chunk) = some bs → s.armFor b.tag = some (m, x) → s.aops.get? m = some x → armOf x.kind = some y → m ≠ n →
      x.stage ≠ .holding → x.stage ≠ .queued → y.op = b.op → y.fmt = b.fmt → y.sat = b.sat → y.nsrc = b.nsrc → y.nelem = b.nelem →
      (∀ i, x.buf (rankKey b.rank) = some i → i = putId none n) → o.chunk < x.chunk + 2 →
      ∃ t x', exec (.chunkAccept n) s = .next t ∧ t.aops.get? m = some x' ∧ x'.buf (chunkKey o.chunk b.rank) = some bs)) ∧
  (∀ (s : State) n o c a cm b q, pend s n o c → o.kind = .arm a cm (some b) → o.stage = .publishing q → s.reqSt q = .complete → b.order = 0 →
    ∃ t, exec (.landPublish n) s = .next t ∧ ended t n o .ok) ∧
  (∀ (s : State) op o c, pendingOp s op o c →
    (∀ n q, o.kind = .snap n → o.stage = .prePub q → s.reqSt q = .complete → (s.snap o.ctx n).st = .free → ∃ t, exec (.snapshotCut op) s = .next t ∧ (t.snap o.ctx n).st = .taking) ∧
    (∀ d n s1 root, o.kind = .rootsw d n → s.quiesced d = true → (s.snap d n).st = .held →
      (s.syncTree d touchAll).bind (fun u => u.rootCarry63 d (((u.ctx? d).map (fun k => k.ixroot.toNat)).getD 0) (s.snap d n).root.toNat) = some (s1, root) →
      ∃ t, exec (.rollback op) s = .next t ∧ (t.ctx? d).map (·.ixroot) = some (BitVec.ofNat 44 root) ∧ ended t op o .ok) ∧
    (∀ seg, o.kind = .libsd seg → ∃ t, exec (.shootdown op) s = .next t ∧ ended t op o .ok ∧ t.store = s.store) ∧
    (∀ x y, o.kind = .tprobe x y → ∃ t, exec (.tprobeResult op) s = .next t ∧ ended t op o .ok ∧ t.store = s.store) ∧
    (o.kind = .flush → (∀ d ∈ (s.writeBins (fun k => binCtx k == o.ctx)).dies, ∀ b ∈ d.2.bins, binCtx b.1 ≠ o.ctx) →
      ∃ t, exec (.traceFlushDone op) s = .next t ∧ ended t op o .ok))

/-- R15, R30 to R32, R349 to R359, R382 to R411, R415 to R443: the steps of the module's controllers, of its host port, links, trace engines, checkpoints, power and reset complete. -/
def Obligations.ModuleStepsComplete : Prop :=
  (∀ (s : State) stack seg g, s.store.segs.get? seg = some g → (s.stack stack).target = some seg → s.segResolved seg = true → fragBatch [] 4096 (s.liveFrags seg) = [] →
    s.rootsIn seg = [] → segIsCap seg = false → ∃ t, exec (.cleanSegment stack seg) s = .next t ∧ t.store.segs.get? seg = none ∧ (t.stack stack).target = none) ∧
  (∀ (s : State) seg g, s.store.segs.get? seg = some g → g.isSealed = true → s.segResolved seg = true → ∃ t, exec (.segmentShip seg) s = .next t ∧ t.store.recs = s.store.recs) ∧
  (∀ (s : State) msg m seg c rs cm digest more x, s.inbox.get? msg = some m → m.body = .segment seg c rs cm digest more → s.ctx? c = some x → x.replStopped = false →
    Config.sha512 (recArea (rs.map (fun p => (p.1, p.2.repack)))) ≠ digest → ∃ t, exec (.replicaSegmentReceive msg) s = .next t ∧ t.inbox = s.inbox.erase msg ∧
      t.ctx? c = some { x with replStopped := true }) ∧
  (∀ (s : State) c x by_ flag, s.ctx? c = some x → x.quiet = .quiescing by_ flag → s.residentOf c = false → s.quietLogs c = [] → s.openOf c = false → x.anyPending = false →
    ∃ t, exec (.quiesceComplete c) s = .next t ∧ t.ctx? c = some { x with quiet := .quiesced }) ∧
  (∀ (s : State) (q : BitVec 6) (tail : BitVec 32), (∃ t, exec (.queueKick .prog q tail) s = .next t ∧ (t.cq q.toNat).tail = tail ∧ (t.cq q.toNat).head = (s.cq q.toNat).head) ∧
    ∃ t, exec (.queueReset .prog q) s = .next t ∧ (t.cq q.toNat).head = 0 ∧ (t.cq q.toNat).tail = 0 ∧ (t.cq q.toNat).st = 0 ∧ (t.cq q.toNat).en = (s.cq q.toNat).en) ∧
  (∀ (s : State) (q : BitVec 6), let k := s.cq q.toNat
    let slot : BitVec 512 := BitVec.ofNat 512 (natOfBytes (s.glBytes k.ctx.toNat (k.addr.toNat * 64 + 64 * (k.head.toNat % 2 ^ k.log2n.toNat)) 64))
    k.loc = true → packetSeq slot = k.head → s.slotWaits q.toNat = false →
    (k.sigs = [] → s.sys.bootSt = 2 → k.en = true → k.st ≠ 2 → k.cur = none → k.wait = .none → k.head ≠ k.tail → s.ctx? k.ctx.toNat ≠ none →
      (k.tail - k.head).toNat ≤ 2 ^ k.log2n.toNat → ∃ t, exec (.packetRead q) s = .next t ∧ t.cq q.toNat = { k with cur := some slot, head := k.head + 1, wait := .none }) ∧
    (∀ j at_, k.wait = .torn j at_ → s.due (at_ + BitVec.ofNat 64 (64 * 2 ^ j)) = true →
      ∃ t, exec (.packetReread q) s = .next t ∧ t.cq q.toNat = { k with cur := some slot, head := k.head + 1, wait := .none })) ∧
  (∀ (s : State) id (l : Launch) cl, s.launchOf id = some l → (∀ x ∈ s.launches, x.1 = id) →
    (s.placeable l = true → s.fits l cl = true → ∃ t b, exec (.blockPlace id cl) s = .next t ∧ t.blocks.get? (blockKey id l.nextBlk) = some b ∧ b.cluster = cl ∧ b.resident = true) ∧
    (∀ k b, s.placeable l = true → (∀ x ∈ s.blocks, x.2.ask = false) → (∀ c < 256, s.fits l c = false) → s.victim l cl = some k → s.blocks.get? k = some b → b.resident = true →
      ∃ t, exec (.priorityPreempt id cl) s = .next t ∧ t.blocks.get? k = some { b with ask := true }) ∧
    (s.blocksDone id l = true → l.slotsStopped = true → l.doneReq = none → s.launchBusy id l = false → l.doneAt ≠ 0 → ∃ t, exec (.launchComplete id) s = .next t ∧
      t.launchOf id = some { l with doneReq := some s.fresh })) ∧
  (∀ (s : State) gid g core c k x, s.grp gid = some g → g.place = .resident c k → (x ∈ s.launches ∧ s.placeable x.2 = true ∧ s.fits x.2 (c / 24) = false) →
    (∀ l, s.launchOf g.launch = some l → l.cr = false) → (∃ l, s.launchOf g.launch = some l) → (∀ y ∈ s.cores, y.2.slot.bound ≠ some g.launch) → g.movedAt = 0 →
    s.nearArrival g = false → core ≠ c → core / 24 = c / 24 → s.freeSlot core ≠ none → s.regsUsed core + g.nregs ≤ 1024 → g.moveTo = none →
    exec (.groupMove gid core) s = .next (s.setGrp gid { g with moveTo := some core })) ∧
  (∀ (r : BitVec 16) (s : State), (∀ h ∈ s.hosts, h.2.requester ≠ r) → s.hosts.length < 8 → ∃ t h, exec (.hostAdmit r) s = .next t ∧ t.hosts.get? s.hosts.length = some h ∧
    h.requester = r ∧ h.frozen = false) ∧
  (∀ (v : BitVec 64) (s : State), v.extractLsb' 32 32 = s.sys.epoch ++ s.sys.owner → v.extractLsb' 8 24 = s.sys.epoch + 1 → v.extractLsb' 0 8 = 255 →
    ∃ t, exec (.ownershipSwap .prog v) s = .next t ∧ t.sys.epoch = s.sys.epoch + 1 ∧ t.sys.owner = 255 ∧ t.sys.msix = s.sys.msix ++ [1]) ∧
  (∀ (k : BitVec 3) (bits : BitVec 8) (s : State) h, s.hosts.get? k.toNat = some h → h.frozen = false → s.sys.owner.toNat = k.toNat →
    ∃ t, exec (.frozenClear (.host k) bits) s = .next t ∧ t.mems = s.mems ∧ t.hosts.get? k.toNat = some h) ∧
  (∀ (k : BitVec 3) (a : BitVec 64) (n : Nat) (s : State) h c, s.hosts.get? k.toNat = some h → h.frozen = false → h.mapNext = none → h.mapEn = true →
    s.ctx? h.mapCtx.toNat = some c → h.hbase.toNat ≤ a.toNat → a.toNat < h.hbase.toNat + 2 ^ 40 →
    let x : Nat := h.mapOfs.toNat * 256 + (a.toNat - h.hbase.toNat)
    (∀ u d, 1 ≤ n → n ≤ 8 → x % 256 + n ≤ 256 → s.hostPages h.mapCtx.toNat x n false = .ok u → s.hostLine k.toNat h.mapCtx.toNat (x / 256 * 256) (accMask x n (x / 256 * 256)) = some d →
      ∃ t, exec (.hostRead k a n) s = .next t ∧ t.sys.readBad = false ∧ t.sys.readData.toNat = natOfBytes (((Line.bytes d).drop (x % 256)).take n)) ∧
    (∀ (bytes : List Byte) u t', s.sys.owner.toNat = k.toNat → s.hostPages h.mapCtx.toNat x bytes.length true = .ok u →
      s.canAccept (320 + k.toNat) ((linesIn x bytes.length).map (lineKey h.mapCtx.toNat)) [] = true → s.hostStore (320 + k.toNat) h.mapCtx.toNat x bytes = some t' →
      exec (.hostWrite k a bytes) s = .next t')) ∧
  (∀ (m : BitVec 3) (line : Nat) (s : State) b t, (s.bufOf (320 + m.toNat)).get? line = some b → s.due (b.first + b.win.setWidth 64) = true →
    s.flushLine (320 + m.toNat) line = some t → exec (.hostWcbWindowExpire m line) s = .next t) ∧
  (∀ (m : BitVec 3) (v : BitVec 64) (s : State) h, s.hosts.get? m.toNat = some h →
    (∃ t rq, exec (.hostRelease .prog m) s = .next t ∧ t.store.reqs.get? s.fresh = some rq ∧ rq.kind = .batch ∧ rq.log = 320 + m.toNat) ∧
    (∃ t, exec (.hostmapWrite .prog m v) s = .next t ∧ t.hosts.get? m.toNat = some { h with mapNext := some v })) ∧
  (∀ (v : BitVec 64) (s : State) bs x, s.ckpt.accepting = none → s.ckpt.waiting.length < 64 → s.ctx? (v.toNat % 2 ^ 16) = some x →
    s.cpRead (v.toNat % 2 ^ 16) (v.toNat / 2 ^ 16 % 2 ^ 42 * 64) 64 = .ok bs → (x.fut x.nextTag).st ≠ .pending → x.nextTag < 4096 →
    ∃ t, exec (.ckreq .prog v) s = .next t ∧ t.ckpt.waiting = s.ckpt.waiting ++ [s.fresh] ∧ t.ckpt.refused = s.ckpt.refused) ∧
  (∀ (s : State) n o a b c, pendingOp s n o c → o.kind = .ckpt a b → s.ckpt.accepting = none → o.cancelled = false →
    (∀ q, o.stage = .prePub q → s.ckpt.waiting.head? = some n → s.ckpt.active.length < 4 → s.reqSt q = .complete → b.g < 2 →
      ∃ t, exec (.ckOpStart n) s = .next t ∧ ended t n o (.failed .illop)) ∧
    (o.stage = .running → b.op = 1 → o.allAnswered = true → o.shardsIn (shardPlaces (s.streamFor o b).length b.g).length = true → Config.moduleIndex ∉ o.members →
      o.members.length = b.g → ∃ t, exec (.manifestWrite n) s = .next t ∧ t.aops.get? n = some { o with stage := .holding }) ∧
    (o.stage = .holding → b.op = 1 → 0 < o.copies → s.cpPage o.ctx (a + 0x20) false = none → ∃ t, exec (.ckCommit n) s = .next t ∧
      t.aops.get? n = some { o with stage := .flagging s.fresh }) ∧
    (∀ q, o.stage = .flagging q → b.op = 2 → s.reqSt q = .complete → ∃ t, exec (.ckRestore n) s = .next t ∧ ended t n o .ok)) ∧
  (∀ (s : State) n m op idx bs u, s.inbox.get? n = some m → m.body = .shard op idx bs → (List.range s.ckpt.units.toNat).find? (fun u => !decide (u ∈ s.ckpt.used)) = some u →
    0 < s.ckpt.resv.getD 0 (m.peer.toNat * 2 ^ 64 + op) → ∃ t, exec (.shardReceive n) s = .next t ∧ t.ckpt.used = s.ckpt.used ++ [u] ∧ t.inbox.get? n = none) ∧
  (∀ s : State,
    exec (.refusedClear .prog) s = .next { s with ckpt := { s.ckpt with refused := false } } ∧
    exec (.gateErrorClear .prog) s = .next { s with sys := { s.sys with gateErr := false } } ∧
    (∀ d gid g core c, s.now % 2 ^ s.trace.sp.toNat = 0 → (s.die d).sampledAt ≠ some s.pcc → s.dieGroups d = [(core, gid, g)] → s.ctx? g.ctx = some c →
      ∃ t, exec (.histSample d) s = .next t ∧ (t.die d).sampledAt = some s.pcc ∧ t.groups = s.groups) ∧
    (∃ t, exec .timeseriesTick s = .next t ∧ t.groups = s.groups ∧ t.store = s.store ∧
      (s.trace.tsen = true → s.now % 2 ^ s.trace.k.toNat = 0 → (s.die 0).latchedAt ≠ some s.pcc → ∀ d < 32, (t.die d).counters = [])) ∧
    (∀ k, s.trace.kNext = some k → s.now % 2 ^ 24 = 0 → ∃ t, exec .kSwitch s = .next t ∧ t.trace = { s.trace with k := k, kNext := none }) ∧
    (∃ t, exec (.dump .prog) s = .next t ∧ t.groups = s.groups ∧ t.store = s.store ∧ ∀ d k, (t.die d).bins.get? k ≠ none → (s.die d).bins.get? k ≠ none) ∧
    (∀ v : BitVec 64, ∃ t, exec (.trctailWrite .prog v) s = .next t ∧ t.trace.tail = if s.trace.head.toNat < v.toNat then s.trace.head else v) ∧
    (∃ t, exec (.trclostRead .prog) s = .next t ∧ t.sys.readData = s.trace.recs.setWidth 64 ∧ t.trace.recs = 0) ∧
    (∃ t, exec (.hostErrcountRead .prog) s = .next t ∧ t.sys.lnkHost = 0 ∧ t.mems = s.mems) ∧
    (s.sys.beatAt.toNat + 800000 ≤ s.now → ∃ t, exec .heartbeat s = .next t ∧ t.sys.beatAt = s.pcc ∧ t.groups = s.groups) ∧
    (∀ p : BitVec 12, (s.heard.getD 0 p.toNat : BitVec 64).toNat + 160000000 ≤ s.now → ∃ t, exec (.peerFailure p) s = .next t ∧ p.toNat ∈ t.lost) ∧
    (∃ t, exec .coldReset s = .next t ∧ t.pcc = 0 ∧ t.groups = [] ∧ t.ctxs = [] ∧ t.launches = []) ∧
    (∀ (m : BitVec 3) h, s.hosts.get? m.toNat = some h → h.frozen = false → s.sys.owner.toNat = m.toNat → ∃ t, exec (.warmReset (.host m)) s = .next t ∧ t.pcc = s.pcc ∧
      t.groups = [] ∧ t.mems.ckstore = s.mems.ckstore) ∧
    (∀ (image : List Byte) (sig : BitVec 512) (ver : BitVec 16), bootCheck image sig ver = 0 →
      (s.sys.bootSt = 0 → ∃ t, exec (.boot image sig ver) s = .next t ∧ t.sys.bootSt = 2 ∧ t.sys.fwver = ver) ∧
      (s.sys.bootSt = 3 → ∃ t, exec (.newImage image sig ver) s = .next t ∧ t.sys.bootSt = 2 ∧ t.sys.fwver = ver)) ∧
    (∀ v : BitVec 64, ∃ t, exec (.attreq .prog v) s = .next t ∧ t.groups = s.groups ∧ t.store = s.store ∧
      ∀ x, (x < (v.extractLsb' 6 42).toNat * 64 ∨ (v.extractLsb' 6 42).toNat * 64 + 264 ≤ x) → t.mems.host.get? x = s.mems.host.get? x) ∧
    (∀ victim id, exec (.softError true victim id) s = .next { s with sys := { s.sys with corr := s.sys.corr + 1 } }) ∧
    (∀ (v : BitVec 64), ∃ t, exec (.registerWrite .prog 0x5080 v) s = .next t ∧ t.sys.hwcwin.toNat = v.toNat % 2 ^ 12)) ∧
  (∀ (n : BitVec 6) (s : State), n.toNat < 36 →
    (∃ t, exec (.flitReplay n) s = .next t ∧ (t.link n.toNat).retry = (s.link n.toNat).retry + 1) ∧
    (∃ t, exec (.linkDown n) s = .next t ∧ (t.link n.toNat).up = false) ∧ (∃ t, exec (.retrain .prog n) s = .next t ∧ (t.link n.toNat).up = false) ∧
    (∀ padv : BitVec 4, (s.link n.toNat).en = true → (s.link n.toNat).up = false → ∃ t, exec (.linkTrain n padv) s = .next t ∧ (t.link n.toNat).up = true ∧
      (t.link n.toNat).padv = padv) ∧
    (∀ c m, (s.link n.toNat).up = true → Config.peerMessage s.free = some m → m.body = .heartbeat → ∃ t, exec (.qfMessageReceive n c) s = .next t ∧
      t.heard.get? m.peer.toNat = some s.pcc ∧ t.groups = s.groups)) ∧
  (∀ (s : State) i (m : QfMsg) l, s.outbox.get? i = some m → m.link = none → s.routeOf m.peer i = some l → ∃ t, exec (.noRoute i) s = .next t ∧
    t.outbox.get? i = some { m with link := some l }) ∧
  (∀ (ch : Nat) (s : State), let c : Chan := s.chan ch
    (c.st = .active → (s.stack (ch / 64)).pdIdle ≠ 0 → c.idleFrom.toNat + (s.stack (ch / 64)).pdIdle.toNat ≤ s.now → s.chanBusy ch = false →
      ∃ t, exec (.powerDownEntry ch) s = .next t ∧ (t.chan ch).st = .powerDown ∧ t.mems = s.mems) ∧
    (c.st = .powerDown → c.wakeAt = none → (s.stack (ch / 64)).srIdle ≠ 0 → c.idleFrom.toNat + 64 * (s.stack (ch / 64)).srIdle.toNat ≤ s.now → s.chanBusy ch = false →
      ∃ t, exec (.selfRefreshEntry ch) s = .next t ∧ (t.chan ch).st = .selfRefresh ∧ t.mems = s.mems) ∧
    (∀ w, c.wakeAt = some w → s.due w = true → ∃ t, exec (.channelWake ch) s = .next t ∧ (t.chan ch).st = .active ∧ t.mems = s.mems)) ∧
  (∀ (s : State) (st : BitVec 4) (v : BitVec 64), ∃ t, exec (.forcesr .prog st v) s = .next t ∧ (t.stack st.toNat).pdIdle = v.extractLsb' 8 16 ∧ t.mems = s.mems) ∧
  (∀ (s : State) (d : BitVec 5) (v : BitVec 64), (∀ b ∈ s.blocks, clusterDie b.2.cluster ≠ d.toNat) → v.extractLsb' 0 16 &&& ~~~(1 : BitVec 16) = 0 →
    ∃ t, exec (.gatectlWrite .prog d v) s = .next t ∧ (t.die d.toNat).sph = v.extractLsb' 16 8 ∧ (t.die d.toNat).ways = 0) ∧
  (∀ (s : State) (d : BitVec 5) w, (s.die d.toNat).gateWant = none → (s.die d.toNat).gateWakeAt = some w → s.due w = true → ∃ t, exec (.gateWake d) s = .next t ∧
    (t.die d.toNat).gateWakeAt = none ∧ t.mems = s.mems)
end

