-- ==== Sys2Proof/Laws/Map.lean ====
section
/-! SUPPORT. What reading a finite map or a byte memory gives after an update, and that updates keep the canonical form. -/

namespace Sys2Proof.Machine

variable {α : Type}

@[simp] theorem FMap.get?_nil (k : Nat) : FMap.get? ([] : FMap α) k = none := rfl

theorem FMap.get?_cons (k' : Nat) (a : α) (m : FMap α) (k : Nat) :
    FMap.get? ((k', a) :: m) k = if k = k' then some a else FMap.get? m k := rfl

theorem FMap.get?_set (m : FMap α) (k j : Nat) (a : α) :
    FMap.get? (FMap.set m k a) j = if j = k then some a else FMap.get? m j := by
  induction m with
  | nil => rfl
  | cons c m ih =>
    obtain ⟨k', a'⟩ := c
    unfold FMap.set
    split
    · subst k'; simp only [FMap.get?_cons]; split <;> rfl
    · split
      · simp only [FMap.get?_cons]
      · simp only [FMap.get?_cons, ih]
        by_cases h1 : j = k' <;> by_cases h2 : j = k <;> simp_all

@[simp] theorem FMap.get?_set_self (m : FMap α) (k : Nat) (a : α) : FMap.get? (FMap.set m k a) k = some a := by
  simp [FMap.get?_set]

theorem FMap.get?_set_ne (m : FMap α) {k j : Nat} (a : α) (h : j ≠ k) :
    FMap.get? (FMap.set m k a) j = FMap.get? m j := by simp [FMap.get?_set, h]

theorem FMap.get?_erase (m : FMap α) (k j : Nat) :
    FMap.get? (FMap.erase m k) j = if j = k then none else FMap.get? m j := by
  unfold FMap.erase
  induction m with
  | nil => simp
  | cons c m ih =>
    obtain ⟨k', a'⟩ := c
    by_cases h : k' = k
    · subst h
      simp only [List.filter_cons, bne_self_eq_false, Bool.false_eq_true, if_false, ih, FMap.get?_cons]
      split <;> simp_all
    · have : (k' != k) = true := by simp [h]
      simp only [List.filter_cons, this, if_true, FMap.get?_cons, ih]
      by_cases h1 : j = k' <;> by_cases h2 : j = k <;> simp_all

theorem FMap.getD_put [DecidableEq α] (m : FMap α) (d : α) (k j : Nat) (a : α) :
    FMap.getD (FMap.put m d k a) d j = if j = k then a else FMap.getD m d j := by
  unfold FMap.getD FMap.put
  by_cases h : a = d
  · simp only [h, if_true, FMap.get?_erase]; split <;> simp
  · simp only [h, if_false, FMap.get?_set]; split <;> simp

@[simp] theorem FMap.getD_put_self [DecidableEq α] (m : FMap α) (d : α) (k : Nat) (a : α) :
    FMap.getD (FMap.put m d k a) d k = a := by simp [FMap.getD_put]

theorem FMap.getD_put_ne [DecidableEq α] (m : FMap α) (d : α) {k j : Nat} (a : α) (h : j ≠ k) :
    FMap.getD (FMap.put m d k a) d j = FMap.getD m d j := by simp [FMap.getD_put, h]

theorem FMap.get?_modify (m : FMap α) (k j : Nat) (f : α → α) :
    FMap.get? (FMap.modify m k f) j = if j = k then (FMap.get? m k).map f else FMap.get? m j := by
  unfold FMap.modify
  cases h : FMap.get? m k with
  | none => by_cases hj : j = k <;> simp_all
  | some a => by_cases hj : j = k <;> simp_all [FMap.get?_set]

@[simp] theorem FMap.get?_modify_self (m : FMap α) (k : Nat) (f : α → α) :
    FMap.get? (FMap.modify m k f) k = (FMap.get? m k).map f := by simp [FMap.get?_modify]

/-- A byte read after a byte write (R4). -/
theorem Memory.read_write (m : Memory) (a b : Nat) (x : Byte) :
    Memory.read (Memory.write m a x) b = if b = a then x else Memory.read m b := FMap.getD_put m 0 a b x

/-- Bytes outside a little-endian write are unchanged. -/
theorem Memory.read_writeLE_out (n : Nat) : ∀ (m : Memory) (a v b : Nat), b < a ∨ a + n ≤ b →
    Memory.read (Memory.writeLE m a n v) b = Memory.read m b := by
  induction n with
  | zero => intro m a v b _; rfl
  | succ n ih =>
    intro m a v b h
    rw [Memory.writeLE, ih _ _ _ _ (by omega), Memory.read_write, if_neg (by omega)]

theorem Memory.read_writeBytes_out (bs : List Byte) : ∀ (m : Memory) (a b : Nat), b < a ∨ a + bs.length ≤ b →
    Memory.read (Memory.writeBytes m a bs) b = Memory.read m b := by
  induction bs with
  | nil => intro m a b _; rfl
  | cons x bs ih =>
    intro m a b h
    simp only [List.length_cons] at h
    rw [Memory.writeBytes, ih _ _ _ (by omega), Memory.read_write, if_neg (by omega)]

/-! The canonical form. -/

theorem FMap.sorted_iff (m : FMap α) : FMap.sorted m = true ↔ m.Pairwise (fun a b => a.1 < b.1) := by
  induction m with
  | nil => simp [FMap.sorted]
  | cons c m ih =>
    obtain ⟨k, a⟩ := c
    cases m with
    | nil => simp [FMap.sorted]
    | cons c' m' =>
      obtain ⟨k', a'⟩ := c'
      simp only [FMap.sorted, Bool.and_eq_true, decide_eq_true_eq, ih, List.pairwise_cons]
      constructor
      · rintro ⟨h, h1, h2⟩
        refine ⟨?_, h1, h2⟩
        intro c hc
        rcases List.mem_cons.1 hc with rfl | hc
        · exact h
        · exact lt_trans h (h1 c hc)
      · rintro ⟨h, h1, h2⟩
        exact ⟨h _ (List.mem_cons_self ..), h1, h2⟩

theorem FMap.mem_set (m : FMap α) (k : Nat) (a : α) (c : Nat × α) (h : c ∈ FMap.set m k a) : c = (k, a) ∨ c ∈ m := by
  induction m with
  | nil => simp [FMap.set] at h; exact .inl h
  | cons x m ih =>
    obtain ⟨k', a'⟩ := x
    unfold FMap.set at h
    split at h
    · rcases List.mem_cons.1 h with h | h
      · exact .inl h
      · exact .inr (List.mem_cons_of_mem _ h)
    · split at h
      · rcases List.mem_cons.1 h with h | h
        · exact .inl h
        · exact .inr h
      · rcases List.mem_cons.1 h with h | h
        · exact .inr (h ▸ List.mem_cons_self ..)
        · rcases ih h with h | h
          · exact .inl h
          · exact .inr (List.mem_cons_of_mem _ h)

theorem FMap.sorted_set (m : FMap α) (k : Nat) (a : α) (h : FMap.sorted m = true) : FMap.sorted (FMap.set m k a) = true := by
  rw [FMap.sorted_iff] at *
  induction m with
  | nil => simp [FMap.set]
  | cons x m ih =>
    obtain ⟨k', a'⟩ := x
    obtain ⟨h1, h2⟩ := List.pairwise_cons.1 h
    unfold FMap.set
    split
    · subst k'; exact List.pairwise_cons.2 ⟨h1, h2⟩
    · split
      · rename_i hlt
        refine List.pairwise_cons.2 ⟨?_, h⟩
        intro c hc
        rcases List.mem_cons.1 hc with rfl | hc
        · exact hlt
        · exact lt_trans hlt (h1 c hc)
      · refine List.pairwise_cons.2 ⟨?_, ih h2⟩
        intro c hc
        rcases FMap.mem_set m k a c hc with rfl | hc
        · simp only; omega
        · exact h1 c hc

theorem FMap.sorted_erase (m : FMap α) (k : Nat) (h : FMap.sorted m = true) : FMap.sorted (FMap.erase m k) = true := by
  rw [FMap.sorted_iff] at *
  exact h.filter _

theorem Memory.wf_write (m : Memory) (a : Nat) (x : Byte) (h : Memory.wf m = true) : Memory.wf (Memory.write m a x) = true := by
  simp only [Memory.wf, Bool.and_eq_true, List.all_eq_true] at *
  obtain ⟨h1, h2⟩ := h
  unfold Memory.write FMap.put
  split
  · refine ⟨FMap.sorted_erase _ _ h1, ?_⟩
    intro c hc
    exact h2 c (List.mem_of_mem_filter hc)
  · rename_i hx
    refine ⟨FMap.sorted_set _ _ _ h1, ?_⟩
    intro c hc
    rcases FMap.mem_set _ _ _ _ hc with rfl | hc
    · simpa using hx
    · exact h2 c hc

theorem Memory.wf_writeLE (n : Nat) : ∀ (m : Memory) (a v : Nat), Memory.wf m = true → Memory.wf (Memory.writeLE m a n v) = true := by
  induction n with
  | zero => intro m a v h; exact h
  | succ n ih => intro m a v h; exact ih _ _ _ (Memory.wf_write _ _ _ h)

theorem Memory.wf_writeBytes (bs : List Byte) : ∀ (m : Memory) (a : Nat), Memory.wf m = true →
    Memory.wf (Memory.writeBytes m a bs) = true := by
  induction bs with
  | nil => intro m a h; exact h
  | cons x bs ih => intro m a h; exact ih _ _ (Memory.wf_write _ _ _ h)

theorem Memory.wf_clear (m : Memory) (a n : Nat) (h : Memory.wf m = true) : Memory.wf (Memory.clear m a n) = true := by
  simp only [Memory.wf, Bool.and_eq_true, List.all_eq_true] at *
  refine ⟨?_, fun c hc => h.2 c (List.mem_of_mem_filter hc)⟩
  rw [FMap.sorted_iff] at *
  exact h.1.filter _

theorem Memory.wf_nil : Memory.wf [] = true := rfl

end Sys2Proof.Machine
end

