-- ==== Sys2Proof/Laws/Regs.lean ====
section
/-! SUPPORT. Reading a register after a register write: each class alone, c7 and k7 (R42), and a write in the lanes of a mask. -/

namespace Sys2Proof.Machine

/-! One register of a class. -/

theorem Regs.vreg_setV (r : Regs) (n l n' l' : Nat) (x : Word) (h : l < 64) (h' : l' < 64) :
    (r.setV n l x).vreg n' l' = if n' = n ∧ l' = l then x else r.vreg n' l' := by
  unfold Regs.setV Regs.vreg
  rw [FMap.getD_put]
  by_cases e : n' = n ∧ l' = l
  · simp [e]
  · rw [if_neg e, if_neg]; omega

theorem Regs.xreg_setX (r : Regs) (n l n' l' : Nat) (x : Word) (h : l < 64) (h' : l' < 64) :
    (r.setX n l x).xreg n' l' = if n' = n ∧ l' = l then x else r.xreg n' l' := by
  unfold Regs.setX Regs.xreg
  rw [FMap.getD_put]
  by_cases e : n' = n ∧ l' = l
  · simp [e]
  · rw [if_neg e, if_neg]; omega

theorem Regs.greg_setG (r : Regs) (n n' : Nat) (x : Dword) :
    (r.setG n x).greg n' = if n' = n then x else r.greg n' := FMap.getD_put _ _ _ _ _

theorem Regs.freg_setF (r : Regs) (n n' : Nat) (x : Word) :
    (r.setF n x).freg n' = if n' = n then x else r.freg n' := FMap.getD_put _ _ _ _ _

theorem Regs.jreg_setJ (r : Regs) (n n' : Nat) (x : Dword) :
    (r.setJ n x).jreg n' = if n' = n then x else r.jreg n' := FMap.getD_put _ _ _ _ _

/-- R42: c7 reads 1 in every lane. -/
@[simp] theorem Regs.creg_seven (r : Regs) : r.creg 7 = BitVec.allOnes 64 := rfl
/-- R42: k7 reads 1. -/
@[simp] theorem Regs.kreg_seven (r : Regs) : r.kreg 7 = true := rfl
/-- R42: a write of c7 is discarded. -/
@[simp] theorem Regs.setC_seven (r : Regs) (m : Lanes) : r.setC 7 m = r := rfl
/-- R42: a write of k7 is discarded. -/
@[simp] theorem Regs.setK_seven (r : Regs) (b : Bool) : r.setK 7 b = r := rfl

theorem Regs.creg_setC (r : Regs) (n n' : Nat) (m : Lanes) :
    (r.setC n m).creg n' = if n' = n ∧ n ≠ 7 then m else r.creg n' := by
  unfold Regs.setC Regs.creg
  by_cases h7 : n = 7
  · simp [h7]
  · by_cases h : n' = n
    · subst h; simp [h7]
    · simp only [h7, if_false, h, false_and]
      split
      · rfl
      · exact FMap.getD_put_ne _ _ _ h

theorem Regs.kreg_setK (r : Regs) (n n' : Nat) (b : Bool) (hn : n < 8) (hn' : n' < 8) :
    (r.setK n b).kreg n' = if n' = n ∧ n ≠ 7 then b else r.kreg n' := by
  have h8 : ∀ (k : BitVec 8) (n n' : Fin 8) (b : Bool),
      ((k &&& ~~~((1#8) <<< n.val)) ||| (if b then (1#8) <<< n.val else 0)).getLsbD n'.val =
        if n' = n then b else k.getLsbD n'.val := by
    intro k n n' b
    have h1 : (1#8 <<< n.val).getLsbD n'.val = decide (n' = n) := by
      revert n n'; decide
    rw [BitVec.getLsbD_or, BitVec.getLsbD_and, BitVec.getLsbD_not, h1]
    cases b
    · rw [if_neg Bool.false_ne_true]; by_cases h : n' = n <;> simp [h]
    · rw [if_pos rfl, h1]; by_cases h : n' = n <;> simp [h]
  unfold Regs.setK Regs.kreg
  by_cases h7 : n = 7
  · simp [h7]
  · simp only [h7, if_false, ne_eq, not_false_eq_true, and_true]
    have := h8 r.k ⟨n, hn⟩ ⟨n', hn'⟩ b
    by_cases h : n' = n
    · subst h; simp_all
    · by_cases h' : n' = 7
      · simp only [h', if_true]; rw [if_neg (by omega)]
      · simp_all

/-! A register write touches one class. -/

@[simp] theorem Regs.setV_x (r : Regs) (n l : Nat) (x : Word) : (r.setV n l x).x = r.x := rfl
@[simp] theorem Regs.setV_c (r : Regs) (n l : Nat) (x : Word) : (r.setV n l x).c = r.c := rfl
@[simp] theorem Regs.setV_g (r : Regs) (n l : Nat) (x : Word) : (r.setV n l x).g = r.g := rfl
@[simp] theorem Regs.setV_k (r : Regs) (n l : Nat) (x : Word) : (r.setV n l x).k = r.k := rfl
@[simp] theorem Regs.setV_f (r : Regs) (n l : Nat) (x : Word) : (r.setV n l x).f = r.f := rfl
@[simp] theorem Regs.setV_j (r : Regs) (n l : Nat) (x : Word) : (r.setV n l x).j = r.j := rfl
@[simp] theorem Regs.setX_v (r : Regs) (n l : Nat) (x : Word) : (r.setX n l x).v = r.v := rfl
@[simp] theorem Regs.setX_c (r : Regs) (n l : Nat) (x : Word) : (r.setX n l x).c = r.c := rfl
@[simp] theorem Regs.setX_g (r : Regs) (n l : Nat) (x : Word) : (r.setX n l x).g = r.g := rfl
@[simp] theorem Regs.setX_k (r : Regs) (n l : Nat) (x : Word) : (r.setX n l x).k = r.k := rfl
@[simp] theorem Regs.setX_f (r : Regs) (n l : Nat) (x : Word) : (r.setX n l x).f = r.f := rfl
@[simp] theorem Regs.setX_j (r : Regs) (n l : Nat) (x : Word) : (r.setX n l x).j = r.j := rfl
@[simp] theorem Regs.vreg_setX (r : Regs) (n l : Nat) (x : Word) (n' l' : Nat) : (r.setX n l x).vreg n' l' = r.vreg n' l' := rfl
@[simp] theorem Regs.xreg_setV (r : Regs) (n l : Nat) (x : Word) (n' l' : Nat) : (r.setV n l x).xreg n' l' = r.xreg n' l' := rfl

/-! A write to a class 00 destination in one lane, and in the lanes of a mask (R43, R137). -/

/-- Whether register number n of the class of d is written by a write to d (a pair where `wide`). -/
def touches (d : Opnd) (wide : Bool) (x : Bool) (n : Nat) : Prop :=
  match d with
  | .v k => x = false ∧ (n = k.toNat ∨ (wide = true ∧ n = k.toNat + 1))
  | .x k => x = true ∧ (n = k.toNat ∨ (wide = true ∧ n = k.toNat + 1))
  | _ => False

theorem writeLane_c (r : Regs) (w : Bool) (d : Opnd) (l : Nat) (x : BitVec 64) : (writeLane r w d l x).c = r.c := by
  unfold writeLane; split <;> (try split) <;> simp
theorem writeLane_g (r : Regs) (w : Bool) (d : Opnd) (l : Nat) (x : BitVec 64) : (writeLane r w d l x).g = r.g := by
  unfold writeLane; split <;> (try split) <;> simp
theorem writeLane_k (r : Regs) (w : Bool) (d : Opnd) (l : Nat) (x : BitVec 64) : (writeLane r w d l x).k = r.k := by
  unfold writeLane; split <;> (try split) <;> simp
theorem writeLane_f (r : Regs) (w : Bool) (d : Opnd) (l : Nat) (x : BitVec 64) : (writeLane r w d l x).f = r.f := by
  unfold writeLane; split <;> (try split) <;> simp
theorem writeLane_j (r : Regs) (w : Bool) (d : Opnd) (l : Nat) (x : BitVec 64) : (writeLane r w d l x).j = r.j := by
  unfold writeLane; split <;> (try split) <;> simp

/-- A lane's write leaves every other lane's registers. -/
theorem writeLane_vreg_ne (r : Regs) (w : Bool) (d : Opnd) (l : Nat) (x : BitVec 64) (n l' : Nat) (hl : l < 64) (hl' : l' < 64)
    (h : l' ≠ l ∨ ¬ touches d w false n) : (writeLane r w d l x).vreg n l' = r.vreg n l' := by
  unfold writeLane
  split
  · rename_i k
    split
    · rename_i hw
      rw [Regs.vreg_setV _ _ _ _ _ _ hl hl', Regs.vreg_setV _ _ _ _ _ _ hl hl']
      rcases h with h | h
      · simp [h]
      · simp only [touches, hw, true_and, not_or] at h; rw [if_neg (fun e => h.2 e.1), if_neg (fun e => h.1 e.1)]
    · rw [Regs.vreg_setV _ _ _ _ _ _ hl hl']
      rcases h with h | h
      · simp [h]
      · simp only [touches, true_and, not_or] at h; rw [if_neg (fun e => h.1 e.1)]
  · split <;> simp
  · rfl

theorem writeLane_xreg_ne (r : Regs) (w : Bool) (d : Opnd) (l : Nat) (x : BitVec 64) (n l' : Nat) (hl : l < 64) (hl' : l' < 64)
    (h : l' ≠ l ∨ ¬ touches d w true n) : (writeLane r w d l x).xreg n l' = r.xreg n l' := by
  unfold writeLane
  split
  · split <;> simp
  · rename_i k
    split
    · rename_i hw
      rw [Regs.xreg_setX _ _ _ _ _ _ hl hl', Regs.xreg_setX _ _ _ _ _ _ hl hl']
      rcases h with h | h
      · simp [h]
      · simp only [touches, hw, true_and, not_or] at h; rw [if_neg (fun e => h.2 e.1), if_neg (fun e => h.1 e.1)]
    · rw [Regs.xreg_setX _ _ _ _ _ _ hl hl']
      rcases h with h | h
      · simp [h]
      · simp only [touches, true_and, not_or] at h; rw [if_neg (fun e => h.1 e.1)]
  · rfl

/-- What the written lane's register operand reads (R43): the pair, or one register zero-extended. -/
theorem readLane_writeLane (r : Regs) (t : Ty) (d : Opnd) (l : Nat) (x : BitVec 64) (hl : l < 64) (hd : vxOk 1 d = true) :
    readLane (writeLane r (is64 t) d l x) t d l = if is64 t then x else (x.setWidth 32).setWidth 64 := by
  have hx : x.extractLsb' 32 32 ++ x.setWidth 32 = x := by
    ext i hi
    simp only [BitVec.getElem_append, BitVec.getElem_setWidth, BitVec.getElem_extractLsb']
    split
    · exact BitVec.getLsbD_eq_getElem hi
    · rename_i h; rw [show 32 + (i - 32) = i by omega, BitVec.getLsbD_eq_getElem hi]
  cases h64 : is64 t
  · cases d <;> simp_all [readLane, writeLane, vxOk, Regs.vreg_setV, Regs.xreg_setX]
  · cases d <;> simp_all [readLane, writeLane, vxOk, Regs.vreg_setV, Regs.xreg_setX]

theorem mem_lanesOf (m : Lanes) (l : Nat) : l ∈ lanesOf m ↔ l < 64 ∧ m.getLsbD l = true := by simp [lanesOf]

theorem nodup_lanesOf (m : Lanes) : (lanesOf m).Nodup := List.Nodup.filter _ List.nodup_range

theorem foldl_same {α β : Type} (p : β → α) (f : β → Nat → β) (h : ∀ b l, p (f b l) = p b) (ls : List Nat) :
    ∀ b, p (ls.foldl f b) = p b := by
  induction ls with
  | nil => intro b; rfl
  | cons a ls ih => intro b; rw [List.foldl_cons, ih, h]

@[simp] theorem writeLanes_c (r : Regs) (m : Lanes) (w : Bool) (d : Opnd) (f : Nat → BitVec 64) : (writeLanes r m w d f).c = r.c :=
  foldl_same (·.c) _ (fun b l => writeLane_c b w d l _) _ _
@[simp] theorem writeLanes_g (r : Regs) (m : Lanes) (w : Bool) (d : Opnd) (f : Nat → BitVec 64) : (writeLanes r m w d f).g = r.g :=
  foldl_same (·.g) _ (fun b l => writeLane_g b w d l _) _ _
@[simp] theorem writeLanes_k (r : Regs) (m : Lanes) (w : Bool) (d : Opnd) (f : Nat → BitVec 64) : (writeLanes r m w d f).k = r.k :=
  foldl_same (·.k) _ (fun b l => writeLane_k b w d l _) _ _
@[simp] theorem writeLanes_f (r : Regs) (m : Lanes) (w : Bool) (d : Opnd) (f : Nat → BitVec 64) : (writeLanes r m w d f).f = r.f :=
  foldl_same (·.f) _ (fun b l => writeLane_f b w d l _) _ _
@[simp] theorem writeLanes_j (r : Regs) (m : Lanes) (w : Bool) (d : Opnd) (f : Nat → BitVec 64) : (writeLanes r m w d f).j = r.j :=
  foldl_same (·.j) _ (fun b l => writeLane_j b w d l _) _ _

theorem foldl_vreg (w : Bool) (d : Opnd) (f : Nat → BitVec 64) (n l' : Nat) (hl' : l' < 64) (ls : List Nat) (hls : ∀ l ∈ ls, l < 64)
    (h : l' ∉ ls ∨ ¬ touches d w false n) : ∀ r : Regs, (ls.foldl (fun r l => writeLane r w d l (f l)) r).vreg n l' = r.vreg n l' := by
  induction ls with
  | nil => intro r; rfl
  | cons a ls ih =>
    intro r
    rw [List.foldl_cons, ih (fun l hl => hls l (List.mem_cons_of_mem _ hl)) (by rcases h with h | h <;> simp_all),
      writeLane_vreg_ne _ _ _ _ _ _ _ (hls a (List.mem_cons_self ..)) hl' (by rcases h with h | h <;> simp_all)]

theorem foldl_xreg (w : Bool) (d : Opnd) (f : Nat → BitVec 64) (n l' : Nat) (hl' : l' < 64) (ls : List Nat) (hls : ∀ l ∈ ls, l < 64)
    (h : l' ∉ ls ∨ ¬ touches d w true n) : ∀ r : Regs, (ls.foldl (fun r l => writeLane r w d l (f l)) r).xreg n l' = r.xreg n l' := by
  induction ls with
  | nil => intro r; rfl
  | cons a ls ih =>
    intro r
    rw [List.foldl_cons, ih (fun l hl => hls l (List.mem_cons_of_mem _ hl)) (by rcases h with h | h <;> simp_all),
      writeLane_xreg_ne _ _ _ _ _ _ _ (hls a (List.mem_cons_self ..)) hl' (by rcases h with h | h <;> simp_all)]

/-- A write in the lanes of a mask leaves every other register and lane. -/
theorem writeLanes_vreg_ne (r : Regs) (m : Lanes) (w : Bool) (d : Opnd) (f : Nat → BitVec 64) (n l : Nat) (hl : l < 64)
    (h : m.getLsbD l = false ∨ ¬ touches d w false n) : (writeLanes r m w d f).vreg n l = r.vreg n l :=
  foldl_vreg w d f n l hl _ (fun l hl => ((mem_lanesOf m l).1 hl).1) (h.imp_left (by simp +contextual [mem_lanesOf])) r

theorem writeLanes_xreg_ne (r : Regs) (m : Lanes) (w : Bool) (d : Opnd) (f : Nat → BitVec 64) (n l : Nat) (hl : l < 64)
    (h : m.getLsbD l = false ∨ ¬ touches d w true n) : (writeLanes r m w d f).xreg n l = r.xreg n l :=
  foldl_xreg w d f n l hl _ (fun l hl => ((mem_lanesOf m l).1 hl).1) (h.imp_left (by simp +contextual [mem_lanesOf])) r

/-- What a lane reads of a class 00 operand depends on its own registers only. -/
theorem readLane_congr (r r' : Regs) (t : Ty) (d : Opnd) (l : Nat) (hd : vxOk 1 d = true) (hv : ∀ n, r.vreg n l = r'.vreg n l)
    (hx : ∀ n, r.xreg n l = r'.xreg n l) : readLane r t d l = readLane r' t d l := by
  cases d <;> simp_all [readLane, vxOk]

/-- What each lane of the mask reads of the destination after the write: the value written there. -/
theorem readLane_writeLanes (r : Regs) (m : Lanes) (t : Ty) (d : Opnd) (f : Nat → BitVec 64) (l : Nat) (hl : l < 64)
    (hm : m.getLsbD l = true) (hd : vxOk 1 d = true) :
    readLane (writeLanes r m (is64 t) d f) t d l = if is64 t then f l else ((f l).setWidth 32).setWidth 64 := by
  have key : ∀ (ls : List Nat), ls.Nodup → (∀ l ∈ ls, l < 64) → l ∈ ls → ∀ r : Regs,
      readLane (ls.foldl (fun r l => writeLane r (is64 t) d l (f l)) r) t d l = if is64 t then f l else ((f l).setWidth 32).setWidth 64 := by
    intro ls
    induction ls with
    | nil => intro _ _ h; cases h
    | cons a ls ih =>
      intro hn hlt hmem r
      rw [List.foldl_cons]
      obtain ⟨ha, hn⟩ := List.nodup_cons.1 hn
      have hlt' := fun l hl => hlt l (List.mem_cons_of_mem _ hl)
      by_cases hin : l ∈ ls
      · exact ih hn hlt' hin _
      · have hla : l = a := (List.mem_cons.1 hmem).resolve_right hin
        rw [← readLane_writeLane r t d l (f l) hl hd, ← hla]
        exact readLane_congr _ _ _ _ _ hd (fun n => foldl_vreg _ _ _ n l hl ls hlt' (.inl hin) _)
          (fun n => foldl_xreg _ _ _ n l hl ls hlt' (.inl hin) _)
  exact key _ (nodup_lanesOf m) (fun l hl => ((mem_lanesOf m l).1 hl).1) ((mem_lanesOf m l).2 ⟨hl, hm⟩) r

/-- The bits of a mask of lanes. -/
theorem getLsbD_maskOf (ls : List Nat) (l : Nat) (hl : l < 64) : (maskOf ls).getLsbD l = decide (l ∈ ls) := by
  have key : ∀ (ls : List Nat) (m : Lanes), (ls.foldl (fun m l => m ||| ((1#64) <<< l)) m).getLsbD l = (m.getLsbD l || decide (l ∈ ls)) := by
    intro ls
    induction ls with
    | nil => intro m; simp
    | cons a ls ih =>
      intro m
      rw [List.foldl_cons, ih]
      have : ((1#64) <<< a).getLsbD l = decide (l = a) := by
        rw [BitVec.getLsbD_shiftLeft]
        by_cases h : l = a
        · subst h; simp [hl]
        · by_cases h2 : l < a
          · simp [h2, h]
          · simp only [hl, decide_true, h2, decide_false, Bool.not_false, Bool.true_and, h]
            have : 1 ≤ l - a := by omega
            simp [BitVec.getLsbD_one]; omega
      simp [this, Bool.or_assoc]
  simpa [maskOf] using key ls 0

/-- A c-bit after a write in the lanes of a mask (R144): p in the mask, unchanged outside it; c7 keeps reading 1. -/
theorem creg_writeC (r : Regs) (m : Lanes) (n : Nat) (p : Nat → Bool) (l : Nat) (hl : l < 64) :
    ((writeC r m n p).creg n).getLsbD l = if n = 7 then true else if m.getLsbD l then p l else (r.creg n).getLsbD l := by
  unfold writeC
  rw [Regs.creg_setC]
  by_cases h7 : n = 7
  · subst h7; rw [if_neg (by simp), Regs.creg_seven, if_pos rfl, BitVec.getLsbD_allOnes]; simp [hl]
  · rw [if_pos ⟨rfl, h7⟩, if_neg h7, BitVec.getLsbD_or, getLsbD_maskOf _ _ hl, BitVec.getLsbD_and, BitVec.getLsbD_not]
    have : (l ∈ List.filter p (lanesOf m)) ↔ (m.getLsbD l = true ∧ p l = true) := by
      rw [List.mem_filter, mem_lanesOf]; exact ⟨fun h => ⟨h.1.2, h.2⟩, fun h => ⟨⟨hl, h.1⟩, h.2⟩⟩
    cases hm : m.getLsbD l <;> cases hp : p l <;> simp_all

/-! What a per-lane word's write gives (R93, R136, R137). -/

@[simp] theorem setLanes_regs (g : Group) (m : Lanes) (d : Opnd) (w : Bool) (f : Nat → LaneRes) :
    (setLanes g m d w f).regs = writeLanes g.regs m w d (fun l => (f l).1) := rfl
@[simp] theorem setLanes_fpstat (g : Group) (m : Lanes) (d : Opnd) (w : Bool) (f : Nat → LaneRes) :
    (setLanes g m d w f).fpstat = g.fpstat ||| laneFlags m f := rfl
theorem setLanes_eq (g : Group) (m : Lanes) (d : Opnd) (w : Bool) (f : Nat → LaneRes) :
    setLanes g m d w f = { g with regs := writeLanes g.regs m w d (fun l => (f l).1), fpstat := g.fpstat ||| laneFlags m f } := rfl
theorem setCond_eq (g : Group) (m : Lanes) (d : Opnd) (p : Nat → Bool) (fl : Flags) :
    setCond g m d p fl = { g with regs := writeC g.regs m (cNum d) p, fpstat := g.fpstat ||| fl } := rfl

end Sys2Proof.Machine
end

