-- ==== Sys2Proof/Laws/Forms.lean ====
section
/-! SUPPORT. What an accepted ALU word says of its fields: the checks of its row of Tables 5-1 to 5-8, one lemma for every row (R41, R138). -/

namespace Sys2Proof.Machine

/-- What the row of an accepted ALU word accepts. -/
theorem alu_good {o : Nat} {w : Alu} {row : AluRow} (hr : aluRow o = some row) (h : (Body.alu o w).good = true) :
    w.ty ∈ row.tys ∧ (row.rnd = false → w.rnd = .rne) ∧ (row.sat = false → w.sat = false) ∧ w.fn.toNat < row.fns ∧
      immFormOk row.imm (tyBits w.ty) w.imm = true ∧ aluExtra o w = true ∧
      kindOk row.d.1 (typedN w row.d.2) w.d = true ∧ kindOk row.a.1 (aluAregs o w (typedN w row.a.2)) w.a = true ∧
      kindOk row.b.1 (typedN w row.b.2) w.b = true := by
  simp only [Body.good, Body.shape, aluShape, hr, Shape.good, Bool.and_eq_true, decide_eq_true_eq, Bool.or_eq_true, beq_iff_eq,
    Bool.not_eq_true', aluUses, List.all_append, List.all_cons, List.all_nil, Use.ok, and_true] at h
  obtain ⟨_, ⟨⟨⟨⟨⟨h1, h2⟩, h3⟩, h4⟩, h5⟩, h6⟩, ⟨h7, h8, h9⟩, _⟩ := h
  refine ⟨h1, ?_, ?_, h4, h5, h6, h7, h8, h9⟩
  · intro e; simpa [e] using h2
  · intro e; simpa [e] using h3

/-- A 32-bit or 64-bit type of the integer rows (Table 5-1). -/
theorem mem_tyI4 {t : Ty} (h : t ∈ tyI4) : (tyBits t = 32 ∧ is64 t = false) ∨ (tyBits t = 64 ∧ is64 t = true) := by
  revert h; cases t <;> decide

/-- A register operand that names two registers names one. -/
theorem vxOk_one {n : Nat} {d : Opnd} (h : vxOk n d = true) : vxOk 1 d = true := by
  cases d <;> simp_all [vxOk, Nat.mod_one]

end Sys2Proof.Machine
end

