-- ==== Sys2Proof/Laws/State.lean ====
section
/-! SUPPORT. What each named update of the state leaves alone and what it sets: one lemma per field, true by unfolding. -/

namespace Sys2Proof.Machine

@[simp] theorem State.setGrp_pcc (s : State) (k : Nat) (x : Group) : (s.setGrp k x).pcc = s.pcc := rfl
@[simp] theorem State.setGrp_issuer (s : State) (k : Nat) (x : Group) : (s.setGrp k x).issuer = s.issuer := rfl
@[simp] theorem State.setGrp_agenda (s : State) (k : Nat) (x : Group) : (s.setGrp k x).agenda = s.agenda := rfl
@[simp] theorem State.setGrp_turns (s : State) (k : Nat) (x : Group) : (s.setGrp k x).turns = s.turns := rfl
@[simp] theorem State.setGrp_fresh (s : State) (k : Nat) (x : Group) : (s.setGrp k x).fresh = s.fresh := rfl
@[simp] theorem State.setGrp_free (s : State) (k : Nat) (x : Group) : (s.setGrp k x).free = s.free := rfl
@[simp] theorem State.setGrp_mems (s : State) (k : Nat) (x : Group) : (s.setGrp k x).mems = s.mems := rfl
@[simp] theorem State.setGrp_store (s : State) (k : Nat) (x : Group) : (s.setGrp k x).store = s.store := rfl
@[simp] theorem State.setGrp_ctxs (s : State) (k : Nat) (x : Group) : (s.setGrp k x).ctxs = s.ctxs := rfl
@[simp] theorem State.setGrp_blocks (s : State) (k : Nat) (x : Group) : (s.setGrp k x).blocks = s.blocks := rfl
@[simp] theorem State.setGrp_launches (s : State) (k : Nat) (x : Group) : (s.setGrp k x).launches = s.launches := rfl
@[simp] theorem State.setGrp_lastLaunch (s : State) (k : Nat) (x : Group) : (s.setGrp k x).lastLaunch = s.lastLaunch := rfl
@[simp] theorem State.setGrp_cores (s : State) (k : Nat) (x : Group) : (s.setGrp k x).cores = s.cores := rfl
@[simp] theorem State.setGrp_clusters (s : State) (k : Nat) (x : Group) : (s.setGrp k x).clusters = s.clusters := rfl
@[simp] theorem State.setGrp_dies (s : State) (k : Nat) (x : Group) : (s.setGrp k x).dies = s.dies := rfl
@[simp] theorem State.setGrp_stks (s : State) (k : Nat) (x : Group) : (s.setGrp k x).stks = s.stks := rfl
@[simp] theorem State.setGrp_chans (s : State) (k : Nat) (x : Group) : (s.setGrp k x).chans = s.chans := rfl
@[simp] theorem State.setGrp_ops (s : State) (k : Nat) (x : Group) : (s.setGrp k x).ops = s.ops := rfl
@[simp] theorem State.setGrp_aops (s : State) (k : Nat) (x : Group) : (s.setGrp k x).aops = s.aops := rfl
@[simp] theorem State.setGrp_bars (s : State) (k : Nat) (x : Group) : (s.setGrp k x).bars = s.bars := rfl
@[simp] theorem State.setGrp_pkts (s : State) (k : Nat) (x : Group) : (s.setGrp k x).pkts = s.pkts := rfl
@[simp] theorem State.setGrp_waiters (s : State) (k : Nat) (x : Group) : (s.setGrp k x).waiters = s.waiters := rfl
@[simp] theorem State.setGrp_migs (s : State) (k : Nat) (x : Group) : (s.setGrp k x).migs = s.migs := rfl
@[simp] theorem State.setGrp_cqs (s : State) (k : Nat) (x : Group) : (s.setGrp k x).cqs = s.cqs := rfl
@[simp] theorem State.setGrp_hosts (s : State) (k : Nat) (x : Group) : (s.setGrp k x).hosts = s.hosts := rfl
@[simp] theorem State.setGrp_links (s : State) (k : Nat) (x : Group) : (s.setGrp k x).links = s.links := rfl
@[simp] theorem State.setGrp_routes (s : State) (k : Nat) (x : Group) : (s.setGrp k x).routes = s.routes := rfl
@[simp] theorem State.setGrp_outbox (s : State) (k : Nat) (x : Group) : (s.setGrp k x).outbox = s.outbox := rfl
@[simp] theorem State.setGrp_inbox (s : State) (k : Nat) (x : Group) : (s.setGrp k x).inbox = s.inbox := rfl
@[simp] theorem State.setGrp_held (s : State) (k : Nat) (x : Group) : (s.setGrp k x).held = s.held := rfl
@[simp] theorem State.setGrp_heard (s : State) (k : Nat) (x : Group) : (s.setGrp k x).heard = s.heard := rfl
@[simp] theorem State.setGrp_lost (s : State) (k : Nat) (x : Group) : (s.setGrp k x).lost = s.lost := rfl
@[simp] theorem State.setGrp_trace (s : State) (k : Nat) (x : Group) : (s.setGrp k x).trace = s.trace := rfl
@[simp] theorem State.setGrp_ckpt (s : State) (k : Nat) (x : Group) : (s.setGrp k x).ckpt = s.ckpt := rfl
@[simp] theorem State.setGrp_sys (s : State) (k : Nat) (x : Group) : (s.setGrp k x).sys = s.sys := rfl

@[simp] theorem State.modGrp_pcc (s : State) (k : Nat) (f : Group → Group) : (s.modGrp k f).pcc = s.pcc := rfl
@[simp] theorem State.modGrp_issuer (s : State) (k : Nat) (f : Group → Group) : (s.modGrp k f).issuer = s.issuer := rfl
@[simp] theorem State.modGrp_agenda (s : State) (k : Nat) (f : Group → Group) : (s.modGrp k f).agenda = s.agenda := rfl
@[simp] theorem State.modGrp_turns (s : State) (k : Nat) (f : Group → Group) : (s.modGrp k f).turns = s.turns := rfl
@[simp] theorem State.modGrp_fresh (s : State) (k : Nat) (f : Group → Group) : (s.modGrp k f).fresh = s.fresh := rfl
@[simp] theorem State.modGrp_free (s : State) (k : Nat) (f : Group → Group) : (s.modGrp k f).free = s.free := rfl
@[simp] theorem State.modGrp_mems (s : State) (k : Nat) (f : Group → Group) : (s.modGrp k f).mems = s.mems := rfl
@[simp] theorem State.modGrp_store (s : State) (k : Nat) (f : Group → Group) : (s.modGrp k f).store = s.store := rfl
@[simp] theorem State.modGrp_ctxs (s : State) (k : Nat) (f : Group → Group) : (s.modGrp k f).ctxs = s.ctxs := rfl
@[simp] theorem State.modGrp_blocks (s : State) (k : Nat) (f : Group → Group) : (s.modGrp k f).blocks = s.blocks := rfl
@[simp] theorem State.modGrp_launches (s : State) (k : Nat) (f : Group → Group) : (s.modGrp k f).launches = s.launches := rfl
@[simp] theorem State.modGrp_lastLaunch (s : State) (k : Nat) (f : Group → Group) : (s.modGrp k f).lastLaunch = s.lastLaunch := rfl
@[simp] theorem State.modGrp_cores (s : State) (k : Nat) (f : Group → Group) : (s.modGrp k f).cores = s.cores := rfl
@[simp] theorem State.modGrp_clusters (s : State) (k : Nat) (f : Group → Group) : (s.modGrp k f).clusters = s.clusters := rfl
@[simp] theorem State.modGrp_dies (s : State) (k : Nat) (f : Group → Group) : (s.modGrp k f).dies = s.dies := rfl
@[simp] theorem State.modGrp_stks (s : State) (k : Nat) (f : Group → Group) : (s.modGrp k f).stks = s.stks := rfl
@[simp] theorem State.modGrp_chans (s : State) (k : Nat) (f : Group → Group) : (s.modGrp k f).chans = s.chans := rfl
@[simp] theorem State.modGrp_ops (s : State) (k : Nat) (f : Group → Group) : (s.modGrp k f).ops = s.ops := rfl
@[simp] theorem State.modGrp_aops (s : State) (k : Nat) (f : Group → Group) : (s.modGrp k f).aops = s.aops := rfl
@[simp] theorem State.modGrp_bars (s : State) (k : Nat) (f : Group → Group) : (s.modGrp k f).bars = s.bars := rfl
@[simp] theorem State.modGrp_pkts (s : State) (k : Nat) (f : Group → Group) : (s.modGrp k f).pkts = s.pkts := rfl
@[simp] theorem State.modGrp_waiters (s : State) (k : Nat) (f : Group → Group) : (s.modGrp k f).waiters = s.waiters := rfl
@[simp] theorem State.modGrp_migs (s : State) (k : Nat) (f : Group → Group) : (s.modGrp k f).migs = s.migs := rfl
@[simp] theorem State.modGrp_cqs (s : State) (k : Nat) (f : Group → Group) : (s.modGrp k f).cqs = s.cqs := rfl
@[simp] theorem State.modGrp_hosts (s : State) (k : Nat) (f : Group → Group) : (s.modGrp k f).hosts = s.hosts := rfl
@[simp] theorem State.modGrp_links (s : State) (k : Nat) (f : Group → Group) : (s.modGrp k f).links = s.links := rfl
@[simp] theorem State.modGrp_routes (s : State) (k : Nat) (f : Group → Group) : (s.modGrp k f).routes = s.routes := rfl
@[simp] theorem State.modGrp_outbox (s : State) (k : Nat) (f : Group → Group) : (s.modGrp k f).outbox = s.outbox := rfl
@[simp] theorem State.modGrp_inbox (s : State) (k : Nat) (f : Group → Group) : (s.modGrp k f).inbox = s.inbox := rfl
@[simp] theorem State.modGrp_held (s : State) (k : Nat) (f : Group → Group) : (s.modGrp k f).held = s.held := rfl
@[simp] theorem State.modGrp_heard (s : State) (k : Nat) (f : Group → Group) : (s.modGrp k f).heard = s.heard := rfl
@[simp] theorem State.modGrp_lost (s : State) (k : Nat) (f : Group → Group) : (s.modGrp k f).lost = s.lost := rfl
@[simp] theorem State.modGrp_trace (s : State) (k : Nat) (f : Group → Group) : (s.modGrp k f).trace = s.trace := rfl
@[simp] theorem State.modGrp_ckpt (s : State) (k : Nat) (f : Group → Group) : (s.modGrp k f).ckpt = s.ckpt := rfl
@[simp] theorem State.modGrp_sys (s : State) (k : Nat) (f : Group → Group) : (s.modGrp k f).sys = s.sys := rfl

@[simp] theorem State.modCtx_pcc (s : State) (k : Nat) (f : Ctx → Ctx) : (s.modCtx k f).pcc = s.pcc := rfl
@[simp] theorem State.modCtx_issuer (s : State) (k : Nat) (f : Ctx → Ctx) : (s.modCtx k f).issuer = s.issuer := rfl
@[simp] theorem State.modCtx_agenda (s : State) (k : Nat) (f : Ctx → Ctx) : (s.modCtx k f).agenda = s.agenda := rfl
@[simp] theorem State.modCtx_turns (s : State) (k : Nat) (f : Ctx → Ctx) : (s.modCtx k f).turns = s.turns := rfl
@[simp] theorem State.modCtx_fresh (s : State) (k : Nat) (f : Ctx → Ctx) : (s.modCtx k f).fresh = s.fresh := rfl
@[simp] theorem State.modCtx_free (s : State) (k : Nat) (f : Ctx → Ctx) : (s.modCtx k f).free = s.free := rfl
@[simp] theorem State.modCtx_mems (s : State) (k : Nat) (f : Ctx → Ctx) : (s.modCtx k f).mems = s.mems := rfl
@[simp] theorem State.modCtx_store (s : State) (k : Nat) (f : Ctx → Ctx) : (s.modCtx k f).store = s.store := rfl
@[simp] theorem State.modCtx_groups (s : State) (k : Nat) (f : Ctx → Ctx) : (s.modCtx k f).groups = s.groups := rfl
@[simp] theorem State.modCtx_blocks (s : State) (k : Nat) (f : Ctx → Ctx) : (s.modCtx k f).blocks = s.blocks := rfl
@[simp] theorem State.modCtx_launches (s : State) (k : Nat) (f : Ctx → Ctx) : (s.modCtx k f).launches = s.launches := rfl
@[simp] theorem State.modCtx_lastLaunch (s : State) (k : Nat) (f : Ctx → Ctx) : (s.modCtx k f).lastLaunch = s.lastLaunch := rfl
@[simp] theorem State.modCtx_cores (s : State) (k : Nat) (f : Ctx → Ctx) : (s.modCtx k f).cores = s.cores := rfl
@[simp] theorem State.modCtx_clusters (s : State) (k : Nat) (f : Ctx → Ctx) : (s.modCtx k f).clusters = s.clusters := rfl
@[simp] theorem State.modCtx_dies (s : State) (k : Nat) (f : Ctx → Ctx) : (s.modCtx k f).dies = s.dies := rfl
@[simp] theorem State.modCtx_stks (s : State) (k : Nat) (f : Ctx → Ctx) : (s.modCtx k f).stks = s.stks := rfl
@[simp] theorem State.modCtx_chans (s : State) (k : Nat) (f : Ctx → Ctx) : (s.modCtx k f).chans = s.chans := rfl
@[simp] theorem State.modCtx_ops (s : State) (k : Nat) (f : Ctx → Ctx) : (s.modCtx k f).ops = s.ops := rfl
@[simp] theorem State.modCtx_aops (s : State) (k : Nat) (f : Ctx → Ctx) : (s.modCtx k f).aops = s.aops := rfl
@[simp] theorem State.modCtx_bars (s : State) (k : Nat) (f : Ctx → Ctx) : (s.modCtx k f).bars = s.bars := rfl
@[simp] theorem State.modCtx_pkts (s : State) (k : Nat) (f : Ctx → Ctx) : (s.modCtx k f).pkts = s.pkts := rfl
@[simp] theorem State.modCtx_waiters (s : State) (k : Nat) (f : Ctx → Ctx) : (s.modCtx k f).waiters = s.waiters := rfl
@[simp] theorem State.modCtx_migs (s : State) (k : Nat) (f : Ctx → Ctx) : (s.modCtx k f).migs = s.migs := rfl
@[simp] theorem State.modCtx_cqs (s : State) (k : Nat) (f : Ctx → Ctx) : (s.modCtx k f).cqs = s.cqs := rfl
@[simp] theorem State.modCtx_hosts (s : State) (k : Nat) (f : Ctx → Ctx) : (s.modCtx k f).hosts = s.hosts := rfl
@[simp] theorem State.modCtx_links (s : State) (k : Nat) (f : Ctx → Ctx) : (s.modCtx k f).links = s.links := rfl
@[simp] theorem State.modCtx_routes (s : State) (k : Nat) (f : Ctx → Ctx) : (s.modCtx k f).routes = s.routes := rfl
@[simp] theorem State.modCtx_outbox (s : State) (k : Nat) (f : Ctx → Ctx) : (s.modCtx k f).outbox = s.outbox := rfl
@[simp] theorem State.modCtx_inbox (s : State) (k : Nat) (f : Ctx → Ctx) : (s.modCtx k f).inbox = s.inbox := rfl
@[simp] theorem State.modCtx_held (s : State) (k : Nat) (f : Ctx → Ctx) : (s.modCtx k f).held = s.held := rfl
@[simp] theorem State.modCtx_heard (s : State) (k : Nat) (f : Ctx → Ctx) : (s.modCtx k f).heard = s.heard := rfl
@[simp] theorem State.modCtx_lost (s : State) (k : Nat) (f : Ctx → Ctx) : (s.modCtx k f).lost = s.lost := rfl
@[simp] theorem State.modCtx_trace (s : State) (k : Nat) (f : Ctx → Ctx) : (s.modCtx k f).trace = s.trace := rfl
@[simp] theorem State.modCtx_ckpt (s : State) (k : Nat) (f : Ctx → Ctx) : (s.modCtx k f).ckpt = s.ckpt := rfl
@[simp] theorem State.modCtx_sys (s : State) (k : Nat) (f : Ctx → Ctx) : (s.modCtx k f).sys = s.sys := rfl

@[simp] theorem State.setCl_pcc (s : State) (k : Nat) (x : Cluster) : (s.setCl k x).pcc = s.pcc := rfl
@[simp] theorem State.setCl_issuer (s : State) (k : Nat) (x : Cluster) : (s.setCl k x).issuer = s.issuer := rfl
@[simp] theorem State.setCl_agenda (s : State) (k : Nat) (x : Cluster) : (s.setCl k x).agenda = s.agenda := rfl
@[simp] theorem State.setCl_turns (s : State) (k : Nat) (x : Cluster) : (s.setCl k x).turns = s.turns := rfl
@[simp] theorem State.setCl_fresh (s : State) (k : Nat) (x : Cluster) : (s.setCl k x).fresh = s.fresh := rfl
@[simp] theorem State.setCl_free (s : State) (k : Nat) (x : Cluster) : (s.setCl k x).free = s.free := rfl
@[simp] theorem State.setCl_mems (s : State) (k : Nat) (x : Cluster) : (s.setCl k x).mems = s.mems := rfl
@[simp] theorem State.setCl_store (s : State) (k : Nat) (x : Cluster) : (s.setCl k x).store = s.store := rfl
@[simp] theorem State.setCl_ctxs (s : State) (k : Nat) (x : Cluster) : (s.setCl k x).ctxs = s.ctxs := rfl
@[simp] theorem State.setCl_groups (s : State) (k : Nat) (x : Cluster) : (s.setCl k x).groups = s.groups := rfl
@[simp] theorem State.setCl_blocks (s : State) (k : Nat) (x : Cluster) : (s.setCl k x).blocks = s.blocks := rfl
@[simp] theorem State.setCl_launches (s : State) (k : Nat) (x : Cluster) : (s.setCl k x).launches = s.launches := rfl
@[simp] theorem State.setCl_lastLaunch (s : State) (k : Nat) (x : Cluster) : (s.setCl k x).lastLaunch = s.lastLaunch := rfl
@[simp] theorem State.setCl_cores (s : State) (k : Nat) (x : Cluster) : (s.setCl k x).cores = s.cores := rfl
@[simp] theorem State.setCl_dies (s : State) (k : Nat) (x : Cluster) : (s.setCl k x).dies = s.dies := rfl
@[simp] theorem State.setCl_stks (s : State) (k : Nat) (x : Cluster) : (s.setCl k x).stks = s.stks := rfl
@[simp] theorem State.setCl_chans (s : State) (k : Nat) (x : Cluster) : (s.setCl k x).chans = s.chans := rfl
@[simp] theorem State.setCl_ops (s : State) (k : Nat) (x : Cluster) : (s.setCl k x).ops = s.ops := rfl
@[simp] theorem State.setCl_aops (s : State) (k : Nat) (x : Cluster) : (s.setCl k x).aops = s.aops := rfl
@[simp] theorem State.setCl_bars (s : State) (k : Nat) (x : Cluster) : (s.setCl k x).bars = s.bars := rfl
@[simp] theorem State.setCl_pkts (s : State) (k : Nat) (x : Cluster) : (s.setCl k x).pkts = s.pkts := rfl
@[simp] theorem State.setCl_waiters (s : State) (k : Nat) (x : Cluster) : (s.setCl k x).waiters = s.waiters := rfl
@[simp] theorem State.setCl_migs (s : State) (k : Nat) (x : Cluster) : (s.setCl k x).migs = s.migs := rfl
@[simp] theorem State.setCl_cqs (s : State) (k : Nat) (x : Cluster) : (s.setCl k x).cqs = s.cqs := rfl
@[simp] theorem State.setCl_hosts (s : State) (k : Nat) (x : Cluster) : (s.setCl k x).hosts = s.hosts := rfl
@[simp] theorem State.setCl_links (s : State) (k : Nat) (x : Cluster) : (s.setCl k x).links = s.links := rfl
@[simp] theorem State.setCl_routes (s : State) (k : Nat) (x : Cluster) : (s.setCl k x).routes = s.routes := rfl
@[simp] theorem State.setCl_outbox (s : State) (k : Nat) (x : Cluster) : (s.setCl k x).outbox = s.outbox := rfl
@[simp] theorem State.setCl_inbox (s : State) (k : Nat) (x : Cluster) : (s.setCl k x).inbox = s.inbox := rfl
@[simp] theorem State.setCl_held (s : State) (k : Nat) (x : Cluster) : (s.setCl k x).held = s.held := rfl
@[simp] theorem State.setCl_heard (s : State) (k : Nat) (x : Cluster) : (s.setCl k x).heard = s.heard := rfl
@[simp] theorem State.setCl_lost (s : State) (k : Nat) (x : Cluster) : (s.setCl k x).lost = s.lost := rfl
@[simp] theorem State.setCl_trace (s : State) (k : Nat) (x : Cluster) : (s.setCl k x).trace = s.trace := rfl
@[simp] theorem State.setCl_ckpt (s : State) (k : Nat) (x : Cluster) : (s.setCl k x).ckpt = s.ckpt := rfl
@[simp] theorem State.setCl_sys (s : State) (k : Nat) (x : Cluster) : (s.setCl k x).sys = s.sys := rfl

@[simp] theorem State.modCl_pcc (s : State) (k : Nat) (f : Cluster → Cluster) : (s.modCl k f).pcc = s.pcc := rfl
@[simp] theorem State.modCl_issuer (s : State) (k : Nat) (f : Cluster → Cluster) : (s.modCl k f).issuer = s.issuer := rfl
@[simp] theorem State.modCl_agenda (s : State) (k : Nat) (f : Cluster → Cluster) : (s.modCl k f).agenda = s.agenda := rfl
@[simp] theorem State.modCl_turns (s : State) (k : Nat) (f : Cluster → Cluster) : (s.modCl k f).turns = s.turns := rfl
@[simp] theorem State.modCl_fresh (s : State) (k : Nat) (f : Cluster → Cluster) : (s.modCl k f).fresh = s.fresh := rfl
@[simp] theorem State.modCl_free (s : State) (k : Nat) (f : Cluster → Cluster) : (s.modCl k f).free = s.free := rfl
@[simp] theorem State.modCl_mems (s : State) (k : Nat) (f : Cluster → Cluster) : (s.modCl k f).mems = s.mems := rfl
@[simp] theorem State.modCl_store (s : State) (k : Nat) (f : Cluster → Cluster) : (s.modCl k f).store = s.store := rfl
@[simp] theorem State.modCl_ctxs (s : State) (k : Nat) (f : Cluster → Cluster) : (s.modCl k f).ctxs = s.ctxs := rfl
@[simp] theorem State.modCl_groups (s : State) (k : Nat) (f : Cluster → Cluster) : (s.modCl k f).groups = s.groups := rfl
@[simp] theorem State.modCl_blocks (s : State) (k : Nat) (f : Cluster → Cluster) : (s.modCl k f).blocks = s.blocks := rfl
@[simp] theorem State.modCl_launches (s : State) (k : Nat) (f : Cluster → Cluster) : (s.modCl k f).launches = s.launches := rfl
@[simp] theorem State.modCl_lastLaunch (s : State) (k : Nat) (f : Cluster → Cluster) : (s.modCl k f).lastLaunch = s.lastLaunch := rfl
@[simp] theorem State.modCl_cores (s : State) (k : Nat) (f : Cluster → Cluster) : (s.modCl k f).cores = s.cores := rfl
@[simp] theorem State.modCl_dies (s : State) (k : Nat) (f : Cluster → Cluster) : (s.modCl k f).dies = s.dies := rfl
@[simp] theorem State.modCl_stks (s : State) (k : Nat) (f : Cluster → Cluster) : (s.modCl k f).stks = s.stks := rfl
@[simp] theorem State.modCl_chans (s : State) (k : Nat) (f : Cluster → Cluster) : (s.modCl k f).chans = s.chans := rfl
@[simp] theorem State.modCl_ops (s : State) (k : Nat) (f : Cluster → Cluster) : (s.modCl k f).ops = s.ops := rfl
@[simp] theorem State.modCl_aops (s : State) (k : Nat) (f : Cluster → Cluster) : (s.modCl k f).aops = s.aops := rfl
@[simp] theorem State.modCl_bars (s : State) (k : Nat) (f : Cluster → Cluster) : (s.modCl k f).bars = s.bars := rfl
@[simp] theorem State.modCl_pkts (s : State) (k : Nat) (f : Cluster → Cluster) : (s.modCl k f).pkts = s.pkts := rfl
@[simp] theorem State.modCl_waiters (s : State) (k : Nat) (f : Cluster → Cluster) : (s.modCl k f).waiters = s.waiters := rfl
@[simp] theorem State.modCl_migs (s : State) (k : Nat) (f : Cluster → Cluster) : (s.modCl k f).migs = s.migs := rfl
@[simp] theorem State.modCl_cqs (s : State) (k : Nat) (f : Cluster → Cluster) : (s.modCl k f).cqs = s.cqs := rfl
@[simp] theorem State.modCl_hosts (s : State) (k : Nat) (f : Cluster → Cluster) : (s.modCl k f).hosts = s.hosts := rfl
@[simp] theorem State.modCl_links (s : State) (k : Nat) (f : Cluster → Cluster) : (s.modCl k f).links = s.links := rfl
@[simp] theorem State.modCl_routes (s : State) (k : Nat) (f : Cluster → Cluster) : (s.modCl k f).routes = s.routes := rfl
@[simp] theorem State.modCl_outbox (s : State) (k : Nat) (f : Cluster → Cluster) : (s.modCl k f).outbox = s.outbox := rfl
@[simp] theorem State.modCl_inbox (s : State) (k : Nat) (f : Cluster → Cluster) : (s.modCl k f).inbox = s.inbox := rfl
@[simp] theorem State.modCl_held (s : State) (k : Nat) (f : Cluster → Cluster) : (s.modCl k f).held = s.held := rfl
@[simp] theorem State.modCl_heard (s : State) (k : Nat) (f : Cluster → Cluster) : (s.modCl k f).heard = s.heard := rfl
@[simp] theorem State.modCl_lost (s : State) (k : Nat) (f : Cluster → Cluster) : (s.modCl k f).lost = s.lost := rfl
@[simp] theorem State.modCl_trace (s : State) (k : Nat) (f : Cluster → Cluster) : (s.modCl k f).trace = s.trace := rfl
@[simp] theorem State.modCl_ckpt (s : State) (k : Nat) (f : Cluster → Cluster) : (s.modCl k f).ckpt = s.ckpt := rfl
@[simp] theorem State.modCl_sys (s : State) (k : Nat) (f : Cluster → Cluster) : (s.modCl k f).sys = s.sys := rfl

@[simp] theorem State.setCore_pcc (s : State) (k : Nat) (x : Core) : (s.setCore k x).pcc = s.pcc := rfl
@[simp] theorem State.setCore_issuer (s : State) (k : Nat) (x : Core) : (s.setCore k x).issuer = s.issuer := rfl
@[simp] theorem State.setCore_agenda (s : State) (k : Nat) (x : Core) : (s.setCore k x).agenda = s.agenda := rfl
@[simp] theorem State.setCore_turns (s : State) (k : Nat) (x : Core) : (s.setCore k x).turns = s.turns := rfl
@[simp] theorem State.setCore_fresh (s : State) (k : Nat) (x : Core) : (s.setCore k x).fresh = s.fresh := rfl
@[simp] theorem State.setCore_free (s : State) (k : Nat) (x : Core) : (s.setCore k x).free = s.free := rfl
@[simp] theorem State.setCore_mems (s : State) (k : Nat) (x : Core) : (s.setCore k x).mems = s.mems := rfl
@[simp] theorem State.setCore_store (s : State) (k : Nat) (x : Core) : (s.setCore k x).store = s.store := rfl
@[simp] theorem State.setCore_ctxs (s : State) (k : Nat) (x : Core) : (s.setCore k x).ctxs = s.ctxs := rfl
@[simp] theorem State.setCore_groups (s : State) (k : Nat) (x : Core) : (s.setCore k x).groups = s.groups := rfl
@[simp] theorem State.setCore_blocks (s : State) (k : Nat) (x : Core) : (s.setCore k x).blocks = s.blocks := rfl
@[simp] theorem State.setCore_launches (s : State) (k : Nat) (x : Core) : (s.setCore k x).launches = s.launches := rfl
@[simp] theorem State.setCore_lastLaunch (s : State) (k : Nat) (x : Core) : (s.setCore k x).lastLaunch = s.lastLaunch := rfl
@[simp] theorem State.setCore_clusters (s : State) (k : Nat) (x : Core) : (s.setCore k x).clusters = s.clusters := rfl
@[simp] theorem State.setCore_dies (s : State) (k : Nat) (x : Core) : (s.setCore k x).dies = s.dies := rfl
@[simp] theorem State.setCore_stks (s : State) (k : Nat) (x : Core) : (s.setCore k x).stks = s.stks := rfl
@[simp] theorem State.setCore_chans (s : State) (k : Nat) (x : Core) : (s.setCore k x).chans = s.chans := rfl
@[simp] theorem State.setCore_ops (s : State) (k : Nat) (x : Core) : (s.setCore k x).ops = s.ops := rfl
@[simp] theorem State.setCore_aops (s : State) (k : Nat) (x : Core) : (s.setCore k x).aops = s.aops := rfl
@[simp] theorem State.setCore_bars (s : State) (k : Nat) (x : Core) : (s.setCore k x).bars = s.bars := rfl
@[simp] theorem State.setCore_pkts (s : State) (k : Nat) (x : Core) : (s.setCore k x).pkts = s.pkts := rfl
@[simp] theorem State.setCore_waiters (s : State) (k : Nat) (x : Core) : (s.setCore k x).waiters = s.waiters := rfl
@[simp] theorem State.setCore_migs (s : State) (k : Nat) (x : Core) : (s.setCore k x).migs = s.migs := rfl
@[simp] theorem State.setCore_cqs (s : State) (k : Nat) (x : Core) : (s.setCore k x).cqs = s.cqs := rfl
@[simp] theorem State.setCore_hosts (s : State) (k : Nat) (x : Core) : (s.setCore k x).hosts = s.hosts := rfl
@[simp] theorem State.setCore_links (s : State) (k : Nat) (x : Core) : (s.setCore k x).links = s.links := rfl
@[simp] theorem State.setCore_routes (s : State) (k : Nat) (x : Core) : (s.setCore k x).routes = s.routes := rfl
@[simp] theorem State.setCore_outbox (s : State) (k : Nat) (x : Core) : (s.setCore k x).outbox = s.outbox := rfl
@[simp] theorem State.setCore_inbox (s : State) (k : Nat) (x : Core) : (s.setCore k x).inbox = s.inbox := rfl
@[simp] theorem State.setCore_held (s : State) (k : Nat) (x : Core) : (s.setCore k x).held = s.held := rfl
@[simp] theorem State.setCore_heard (s : State) (k : Nat) (x : Core) : (s.setCore k x).heard = s.heard := rfl
@[simp] theorem State.setCore_lost (s : State) (k : Nat) (x : Core) : (s.setCore k x).lost = s.lost := rfl
@[simp] theorem State.setCore_trace (s : State) (k : Nat) (x : Core) : (s.setCore k x).trace = s.trace := rfl
@[simp] theorem State.setCore_ckpt (s : State) (k : Nat) (x : Core) : (s.setCore k x).ckpt = s.ckpt := rfl
@[simp] theorem State.setCore_sys (s : State) (k : Nat) (x : Core) : (s.setCore k x).sys = s.sys := rfl

@[simp] theorem State.modCore_pcc (s : State) (k : Nat) (f : Core → Core) : (s.modCore k f).pcc = s.pcc := rfl
@[simp] theorem State.modCore_issuer (s : State) (k : Nat) (f : Core → Core) : (s.modCore k f).issuer = s.issuer := rfl
@[simp] theorem State.modCore_agenda (s : State) (k : Nat) (f : Core → Core) : (s.modCore k f).agenda = s.agenda := rfl
@[simp] theorem State.modCore_turns (s : State) (k : Nat) (f : Core → Core) : (s.modCore k f).turns = s.turns := rfl
@[simp] theorem State.modCore_fresh (s : State) (k : Nat) (f : Core → Core) : (s.modCore k f).fresh = s.fresh := rfl
@[simp] theorem State.modCore_free (s : State) (k : Nat) (f : Core → Core) : (s.modCore k f).free = s.free := rfl
@[simp] theorem State.modCore_mems (s : State) (k : Nat) (f : Core → Core) : (s.modCore k f).mems = s.mems := rfl
@[simp] theorem State.modCore_store (s : State) (k : Nat) (f : Core → Core) : (s.modCore k f).store = s.store := rfl
@[simp] theorem State.modCore_ctxs (s : State) (k : Nat) (f : Core → Core) : (s.modCore k f).ctxs = s.ctxs := rfl
@[simp] theorem State.modCore_groups (s : State) (k : Nat) (f : Core → Core) : (s.modCore k f).groups = s.groups := rfl
@[simp] theorem State.modCore_blocks (s : State) (k : Nat) (f : Core → Core) : (s.modCore k f).blocks = s.blocks := rfl
@[simp] theorem State.modCore_launches (s : State) (k : Nat) (f : Core → Core) : (s.modCore k f).launches = s.launches := rfl
@[simp] theorem State.modCore_lastLaunch (s : State) (k : Nat) (f : Core → Core) : (s.modCore k f).lastLaunch = s.lastLaunch := rfl
@[simp] theorem State.modCore_clusters (s : State) (k : Nat) (f : Core → Core) : (s.modCore k f).clusters = s.clusters := rfl
@[simp] theorem State.modCore_dies (s : State) (k : Nat) (f : Core → Core) : (s.modCore k f).dies = s.dies := rfl
@[simp] theorem State.modCore_stks (s : State) (k : Nat) (f : Core → Core) : (s.modCore k f).stks = s.stks := rfl
@[simp] theorem State.modCore_chans (s : State) (k : Nat) (f : Core → Core) : (s.modCore k f).chans = s.chans := rfl
@[simp] theorem State.modCore_ops (s : State) (k : Nat) (f : Core → Core) : (s.modCore k f).ops = s.ops := rfl
@[simp] theorem State.modCore_aops (s : State) (k : Nat) (f : Core → Core) : (s.modCore k f).aops = s.aops := rfl
@[simp] theorem State.modCore_bars (s : State) (k : Nat) (f : Core → Core) : (s.modCore k f).bars = s.bars := rfl
@[simp] theorem State.modCore_pkts (s : State) (k : Nat) (f : Core → Core) : (s.modCore k f).pkts = s.pkts := rfl
@[simp] theorem State.modCore_waiters (s : State) (k : Nat) (f : Core → Core) : (s.modCore k f).waiters = s.waiters := rfl
@[simp] theorem State.modCore_migs (s : State) (k : Nat) (f : Core → Core) : (s.modCore k f).migs = s.migs := rfl
@[simp] theorem State.modCore_cqs (s : State) (k : Nat) (f : Core → Core) : (s.modCore k f).cqs = s.cqs := rfl
@[simp] theorem State.modCore_hosts (s : State) (k : Nat) (f : Core → Core) : (s.modCore k f).hosts = s.hosts := rfl
@[simp] theorem State.modCore_links (s : State) (k : Nat) (f : Core → Core) : (s.modCore k f).links = s.links := rfl
@[simp] theorem State.modCore_routes (s : State) (k : Nat) (f : Core → Core) : (s.modCore k f).routes = s.routes := rfl
@[simp] theorem State.modCore_outbox (s : State) (k : Nat) (f : Core → Core) : (s.modCore k f).outbox = s.outbox := rfl
@[simp] theorem State.modCore_inbox (s : State) (k : Nat) (f : Core → Core) : (s.modCore k f).inbox = s.inbox := rfl
@[simp] theorem State.modCore_held (s : State) (k : Nat) (f : Core → Core) : (s.modCore k f).held = s.held := rfl
@[simp] theorem State.modCore_heard (s : State) (k : Nat) (f : Core → Core) : (s.modCore k f).heard = s.heard := rfl
@[simp] theorem State.modCore_lost (s : State) (k : Nat) (f : Core → Core) : (s.modCore k f).lost = s.lost := rfl
@[simp] theorem State.modCore_trace (s : State) (k : Nat) (f : Core → Core) : (s.modCore k f).trace = s.trace := rfl
@[simp] theorem State.modCore_ckpt (s : State) (k : Nat) (f : Core → Core) : (s.modCore k f).ckpt = s.ckpt := rfl
@[simp] theorem State.modCore_sys (s : State) (k : Nat) (f : Core → Core) : (s.modCore k f).sys = s.sys := rfl

@[simp] theorem State.setSlot_pcc (s : State) (k : Nat) (x : Slot) : (s.setSlot k x).pcc = s.pcc := rfl
@[simp] theorem State.setSlot_issuer (s : State) (k : Nat) (x : Slot) : (s.setSlot k x).issuer = s.issuer := rfl
@[simp] theorem State.setSlot_agenda (s : State) (k : Nat) (x : Slot) : (s.setSlot k x).agenda = s.agenda := rfl
@[simp] theorem State.setSlot_turns (s : State) (k : Nat) (x : Slot) : (s.setSlot k x).turns = s.turns := rfl
@[simp] theorem State.setSlot_fresh (s : State) (k : Nat) (x : Slot) : (s.setSlot k x).fresh = s.fresh := rfl
@[simp] theorem State.setSlot_free (s : State) (k : Nat) (x : Slot) : (s.setSlot k x).free = s.free := rfl
@[simp] theorem State.setSlot_mems (s : State) (k : Nat) (x : Slot) : (s.setSlot k x).mems = s.mems := rfl
@[simp] theorem State.setSlot_store (s : State) (k : Nat) (x : Slot) : (s.setSlot k x).store = s.store := rfl
@[simp] theorem State.setSlot_ctxs (s : State) (k : Nat) (x : Slot) : (s.setSlot k x).ctxs = s.ctxs := rfl
@[simp] theorem State.setSlot_groups (s : State) (k : Nat) (x : Slot) : (s.setSlot k x).groups = s.groups := rfl
@[simp] theorem State.setSlot_blocks (s : State) (k : Nat) (x : Slot) : (s.setSlot k x).blocks = s.blocks := rfl
@[simp] theorem State.setSlot_launches (s : State) (k : Nat) (x : Slot) : (s.setSlot k x).launches = s.launches := rfl
@[simp] theorem State.setSlot_lastLaunch (s : State) (k : Nat) (x : Slot) : (s.setSlot k x).lastLaunch = s.lastLaunch := rfl
@[simp] theorem State.setSlot_clusters (s : State) (k : Nat) (x : Slot) : (s.setSlot k x).clusters = s.clusters := rfl
@[simp] theorem State.setSlot_dies (s : State) (k : Nat) (x : Slot) : (s.setSlot k x).dies = s.dies := rfl
@[simp] theorem State.setSlot_stks (s : State) (k : Nat) (x : Slot) : (s.setSlot k x).stks = s.stks := rfl
@[simp] theorem State.setSlot_chans (s : State) (k : Nat) (x : Slot) : (s.setSlot k x).chans = s.chans := rfl
@[simp] theorem State.setSlot_ops (s : State) (k : Nat) (x : Slot) : (s.setSlot k x).ops = s.ops := rfl
@[simp] theorem State.setSlot_aops (s : State) (k : Nat) (x : Slot) : (s.setSlot k x).aops = s.aops := rfl
@[simp] theorem State.setSlot_bars (s : State) (k : Nat) (x : Slot) : (s.setSlot k x).bars = s.bars := rfl
@[simp] theorem State.setSlot_pkts (s : State) (k : Nat) (x : Slot) : (s.setSlot k x).pkts = s.pkts := rfl
@[simp] theorem State.setSlot_waiters (s : State) (k : Nat) (x : Slot) : (s.setSlot k x).waiters = s.waiters := rfl
@[simp] theorem State.setSlot_migs (s : State) (k : Nat) (x : Slot) : (s.setSlot k x).migs = s.migs := rfl
@[simp] theorem State.setSlot_cqs (s : State) (k : Nat) (x : Slot) : (s.setSlot k x).cqs = s.cqs := rfl
@[simp] theorem State.setSlot_hosts (s : State) (k : Nat) (x : Slot) : (s.setSlot k x).hosts = s.hosts := rfl
@[simp] theorem State.setSlot_links (s : State) (k : Nat) (x : Slot) : (s.setSlot k x).links = s.links := rfl
@[simp] theorem State.setSlot_routes (s : State) (k : Nat) (x : Slot) : (s.setSlot k x).routes = s.routes := rfl
@[simp] theorem State.setSlot_outbox (s : State) (k : Nat) (x : Slot) : (s.setSlot k x).outbox = s.outbox := rfl
@[simp] theorem State.setSlot_inbox (s : State) (k : Nat) (x : Slot) : (s.setSlot k x).inbox = s.inbox := rfl
@[simp] theorem State.setSlot_held (s : State) (k : Nat) (x : Slot) : (s.setSlot k x).held = s.held := rfl
@[simp] theorem State.setSlot_heard (s : State) (k : Nat) (x : Slot) : (s.setSlot k x).heard = s.heard := rfl
@[simp] theorem State.setSlot_lost (s : State) (k : Nat) (x : Slot) : (s.setSlot k x).lost = s.lost := rfl
@[simp] theorem State.setSlot_trace (s : State) (k : Nat) (x : Slot) : (s.setSlot k x).trace = s.trace := rfl
@[simp] theorem State.setSlot_ckpt (s : State) (k : Nat) (x : Slot) : (s.setSlot k x).ckpt = s.ckpt := rfl
@[simp] theorem State.setSlot_sys (s : State) (k : Nat) (x : Slot) : (s.setSlot k x).sys = s.sys := rfl

@[simp] theorem State.setSeq_pcc (s : State) (k : Nat) (x : Seq) : (s.setSeq k x).pcc = s.pcc := rfl
@[simp] theorem State.setSeq_issuer (s : State) (k : Nat) (x : Seq) : (s.setSeq k x).issuer = s.issuer := rfl
@[simp] theorem State.setSeq_agenda (s : State) (k : Nat) (x : Seq) : (s.setSeq k x).agenda = s.agenda := rfl
@[simp] theorem State.setSeq_turns (s : State) (k : Nat) (x : Seq) : (s.setSeq k x).turns = s.turns := rfl
@[simp] theorem State.setSeq_fresh (s : State) (k : Nat) (x : Seq) : (s.setSeq k x).fresh = s.fresh := rfl
@[simp] theorem State.setSeq_free (s : State) (k : Nat) (x : Seq) : (s.setSeq k x).free = s.free := rfl
@[simp] theorem State.setSeq_mems (s : State) (k : Nat) (x : Seq) : (s.setSeq k x).mems = s.mems := rfl
@[simp] theorem State.setSeq_store (s : State) (k : Nat) (x : Seq) : (s.setSeq k x).store = s.store := rfl
@[simp] theorem State.setSeq_ctxs (s : State) (k : Nat) (x : Seq) : (s.setSeq k x).ctxs = s.ctxs := rfl
@[simp] theorem State.setSeq_groups (s : State) (k : Nat) (x : Seq) : (s.setSeq k x).groups = s.groups := rfl
@[simp] theorem State.setSeq_blocks (s : State) (k : Nat) (x : Seq) : (s.setSeq k x).blocks = s.blocks := rfl
@[simp] theorem State.setSeq_launches (s : State) (k : Nat) (x : Seq) : (s.setSeq k x).launches = s.launches := rfl
@[simp] theorem State.setSeq_lastLaunch (s : State) (k : Nat) (x : Seq) : (s.setSeq k x).lastLaunch = s.lastLaunch := rfl
@[simp] theorem State.setSeq_cores (s : State) (k : Nat) (x : Seq) : (s.setSeq k x).cores = s.cores := rfl
@[simp] theorem State.setSeq_dies (s : State) (k : Nat) (x : Seq) : (s.setSeq k x).dies = s.dies := rfl
@[simp] theorem State.setSeq_stks (s : State) (k : Nat) (x : Seq) : (s.setSeq k x).stks = s.stks := rfl
@[simp] theorem State.setSeq_chans (s : State) (k : Nat) (x : Seq) : (s.setSeq k x).chans = s.chans := rfl
@[simp] theorem State.setSeq_ops (s : State) (k : Nat) (x : Seq) : (s.setSeq k x).ops = s.ops := rfl
@[simp] theorem State.setSeq_aops (s : State) (k : Nat) (x : Seq) : (s.setSeq k x).aops = s.aops := rfl
@[simp] theorem State.setSeq_bars (s : State) (k : Nat) (x : Seq) : (s.setSeq k x).bars = s.bars := rfl
@[simp] theorem State.setSeq_pkts (s : State) (k : Nat) (x : Seq) : (s.setSeq k x).pkts = s.pkts := rfl
@[simp] theorem State.setSeq_waiters (s : State) (k : Nat) (x : Seq) : (s.setSeq k x).waiters = s.waiters := rfl
@[simp] theorem State.setSeq_migs (s : State) (k : Nat) (x : Seq) : (s.setSeq k x).migs = s.migs := rfl
@[simp] theorem State.setSeq_cqs (s : State) (k : Nat) (x : Seq) : (s.setSeq k x).cqs = s.cqs := rfl
@[simp] theorem State.setSeq_hosts (s : State) (k : Nat) (x : Seq) : (s.setSeq k x).hosts = s.hosts := rfl
@[simp] theorem State.setSeq_links (s : State) (k : Nat) (x : Seq) : (s.setSeq k x).links = s.links := rfl
@[simp] theorem State.setSeq_routes (s : State) (k : Nat) (x : Seq) : (s.setSeq k x).routes = s.routes := rfl
@[simp] theorem State.setSeq_outbox (s : State) (k : Nat) (x : Seq) : (s.setSeq k x).outbox = s.outbox := rfl
@[simp] theorem State.setSeq_inbox (s : State) (k : Nat) (x : Seq) : (s.setSeq k x).inbox = s.inbox := rfl
@[simp] theorem State.setSeq_held (s : State) (k : Nat) (x : Seq) : (s.setSeq k x).held = s.held := rfl
@[simp] theorem State.setSeq_heard (s : State) (k : Nat) (x : Seq) : (s.setSeq k x).heard = s.heard := rfl
@[simp] theorem State.setSeq_lost (s : State) (k : Nat) (x : Seq) : (s.setSeq k x).lost = s.lost := rfl
@[simp] theorem State.setSeq_trace (s : State) (k : Nat) (x : Seq) : (s.setSeq k x).trace = s.trace := rfl
@[simp] theorem State.setSeq_ckpt (s : State) (k : Nat) (x : Seq) : (s.setSeq k x).ckpt = s.ckpt := rfl
@[simp] theorem State.setSeq_sys (s : State) (k : Nat) (x : Seq) : (s.setSeq k x).sys = s.sys := rfl

@[simp] theorem State.modSeq_pcc (s : State) (k : Nat) (f : Seq → Seq) : (s.modSeq k f).pcc = s.pcc := rfl
@[simp] theorem State.modSeq_issuer (s : State) (k : Nat) (f : Seq → Seq) : (s.modSeq k f).issuer = s.issuer := rfl
@[simp] theorem State.modSeq_agenda (s : State) (k : Nat) (f : Seq → Seq) : (s.modSeq k f).agenda = s.agenda := rfl
@[simp] theorem State.modSeq_turns (s : State) (k : Nat) (f : Seq → Seq) : (s.modSeq k f).turns = s.turns := rfl
@[simp] theorem State.modSeq_fresh (s : State) (k : Nat) (f : Seq → Seq) : (s.modSeq k f).fresh = s.fresh := rfl
@[simp] theorem State.modSeq_free (s : State) (k : Nat) (f : Seq → Seq) : (s.modSeq k f).free = s.free := rfl
@[simp] theorem State.modSeq_mems (s : State) (k : Nat) (f : Seq → Seq) : (s.modSeq k f).mems = s.mems := rfl
@[simp] theorem State.modSeq_store (s : State) (k : Nat) (f : Seq → Seq) : (s.modSeq k f).store = s.store := rfl
@[simp] theorem State.modSeq_ctxs (s : State) (k : Nat) (f : Seq → Seq) : (s.modSeq k f).ctxs = s.ctxs := rfl
@[simp] theorem State.modSeq_groups (s : State) (k : Nat) (f : Seq → Seq) : (s.modSeq k f).groups = s.groups := rfl
@[simp] theorem State.modSeq_blocks (s : State) (k : Nat) (f : Seq → Seq) : (s.modSeq k f).blocks = s.blocks := rfl
@[simp] theorem State.modSeq_launches (s : State) (k : Nat) (f : Seq → Seq) : (s.modSeq k f).launches = s.launches := rfl
@[simp] theorem State.modSeq_lastLaunch (s : State) (k : Nat) (f : Seq → Seq) : (s.modSeq k f).lastLaunch = s.lastLaunch := rfl
@[simp] theorem State.modSeq_cores (s : State) (k : Nat) (f : Seq → Seq) : (s.modSeq k f).cores = s.cores := rfl
@[simp] theorem State.modSeq_dies (s : State) (k : Nat) (f : Seq → Seq) : (s.modSeq k f).dies = s.dies := rfl
@[simp] theorem State.modSeq_stks (s : State) (k : Nat) (f : Seq → Seq) : (s.modSeq k f).stks = s.stks := rfl
@[simp] theorem State.modSeq_chans (s : State) (k : Nat) (f : Seq → Seq) : (s.modSeq k f).chans = s.chans := rfl
@[simp] theorem State.modSeq_ops (s : State) (k : Nat) (f : Seq → Seq) : (s.modSeq k f).ops = s.ops := rfl
@[simp] theorem State.modSeq_aops (s : State) (k : Nat) (f : Seq → Seq) : (s.modSeq k f).aops = s.aops := rfl
@[simp] theorem State.modSeq_bars (s : State) (k : Nat) (f : Seq → Seq) : (s.modSeq k f).bars = s.bars := rfl
@[simp] theorem State.modSeq_pkts (s : State) (k : Nat) (f : Seq → Seq) : (s.modSeq k f).pkts = s.pkts := rfl
@[simp] theorem State.modSeq_waiters (s : State) (k : Nat) (f : Seq → Seq) : (s.modSeq k f).waiters = s.waiters := rfl
@[simp] theorem State.modSeq_migs (s : State) (k : Nat) (f : Seq → Seq) : (s.modSeq k f).migs = s.migs := rfl
@[simp] theorem State.modSeq_cqs (s : State) (k : Nat) (f : Seq → Seq) : (s.modSeq k f).cqs = s.cqs := rfl
@[simp] theorem State.modSeq_hosts (s : State) (k : Nat) (f : Seq → Seq) : (s.modSeq k f).hosts = s.hosts := rfl
@[simp] theorem State.modSeq_links (s : State) (k : Nat) (f : Seq → Seq) : (s.modSeq k f).links = s.links := rfl
@[simp] theorem State.modSeq_routes (s : State) (k : Nat) (f : Seq → Seq) : (s.modSeq k f).routes = s.routes := rfl
@[simp] theorem State.modSeq_outbox (s : State) (k : Nat) (f : Seq → Seq) : (s.modSeq k f).outbox = s.outbox := rfl
@[simp] theorem State.modSeq_inbox (s : State) (k : Nat) (f : Seq → Seq) : (s.modSeq k f).inbox = s.inbox := rfl
@[simp] theorem State.modSeq_held (s : State) (k : Nat) (f : Seq → Seq) : (s.modSeq k f).held = s.held := rfl
@[simp] theorem State.modSeq_heard (s : State) (k : Nat) (f : Seq → Seq) : (s.modSeq k f).heard = s.heard := rfl
@[simp] theorem State.modSeq_lost (s : State) (k : Nat) (f : Seq → Seq) : (s.modSeq k f).lost = s.lost := rfl
@[simp] theorem State.modSeq_trace (s : State) (k : Nat) (f : Seq → Seq) : (s.modSeq k f).trace = s.trace := rfl
@[simp] theorem State.modSeq_ckpt (s : State) (k : Nat) (f : Seq → Seq) : (s.modSeq k f).ckpt = s.ckpt := rfl
@[simp] theorem State.modSeq_sys (s : State) (k : Nat) (f : Seq → Seq) : (s.modSeq k f).sys = s.sys := rfl

@[simp] theorem State.modDie_pcc (s : State) (k : Nat) (f : Die → Die) : (s.modDie k f).pcc = s.pcc := rfl
@[simp] theorem State.modDie_issuer (s : State) (k : Nat) (f : Die → Die) : (s.modDie k f).issuer = s.issuer := rfl
@[simp] theorem State.modDie_agenda (s : State) (k : Nat) (f : Die → Die) : (s.modDie k f).agenda = s.agenda := rfl
@[simp] theorem State.modDie_turns (s : State) (k : Nat) (f : Die → Die) : (s.modDie k f).turns = s.turns := rfl
@[simp] theorem State.modDie_fresh (s : State) (k : Nat) (f : Die → Die) : (s.modDie k f).fresh = s.fresh := rfl
@[simp] theorem State.modDie_free (s : State) (k : Nat) (f : Die → Die) : (s.modDie k f).free = s.free := rfl
@[simp] theorem State.modDie_mems (s : State) (k : Nat) (f : Die → Die) : (s.modDie k f).mems = s.mems := rfl
@[simp] theorem State.modDie_store (s : State) (k : Nat) (f : Die → Die) : (s.modDie k f).store = s.store := rfl
@[simp] theorem State.modDie_ctxs (s : State) (k : Nat) (f : Die → Die) : (s.modDie k f).ctxs = s.ctxs := rfl
@[simp] theorem State.modDie_groups (s : State) (k : Nat) (f : Die → Die) : (s.modDie k f).groups = s.groups := rfl
@[simp] theorem State.modDie_blocks (s : State) (k : Nat) (f : Die → Die) : (s.modDie k f).blocks = s.blocks := rfl
@[simp] theorem State.modDie_launches (s : State) (k : Nat) (f : Die → Die) : (s.modDie k f).launches = s.launches := rfl
@[simp] theorem State.modDie_lastLaunch (s : State) (k : Nat) (f : Die → Die) : (s.modDie k f).lastLaunch = s.lastLaunch := rfl
@[simp] theorem State.modDie_cores (s : State) (k : Nat) (f : Die → Die) : (s.modDie k f).cores = s.cores := rfl
@[simp] theorem State.modDie_clusters (s : State) (k : Nat) (f : Die → Die) : (s.modDie k f).clusters = s.clusters := rfl
@[simp] theorem State.modDie_stks (s : State) (k : Nat) (f : Die → Die) : (s.modDie k f).stks = s.stks := rfl
@[simp] theorem State.modDie_chans (s : State) (k : Nat) (f : Die → Die) : (s.modDie k f).chans = s.chans := rfl
@[simp] theorem State.modDie_ops (s : State) (k : Nat) (f : Die → Die) : (s.modDie k f).ops = s.ops := rfl
@[simp] theorem State.modDie_aops (s : State) (k : Nat) (f : Die → Die) : (s.modDie k f).aops = s.aops := rfl
@[simp] theorem State.modDie_bars (s : State) (k : Nat) (f : Die → Die) : (s.modDie k f).bars = s.bars := rfl
@[simp] theorem State.modDie_pkts (s : State) (k : Nat) (f : Die → Die) : (s.modDie k f).pkts = s.pkts := rfl
@[simp] theorem State.modDie_waiters (s : State) (k : Nat) (f : Die → Die) : (s.modDie k f).waiters = s.waiters := rfl
@[simp] theorem State.modDie_migs (s : State) (k : Nat) (f : Die → Die) : (s.modDie k f).migs = s.migs := rfl
@[simp] theorem State.modDie_cqs (s : State) (k : Nat) (f : Die → Die) : (s.modDie k f).cqs = s.cqs := rfl
@[simp] theorem State.modDie_hosts (s : State) (k : Nat) (f : Die → Die) : (s.modDie k f).hosts = s.hosts := rfl
@[simp] theorem State.modDie_links (s : State) (k : Nat) (f : Die → Die) : (s.modDie k f).links = s.links := rfl
@[simp] theorem State.modDie_routes (s : State) (k : Nat) (f : Die → Die) : (s.modDie k f).routes = s.routes := rfl
@[simp] theorem State.modDie_outbox (s : State) (k : Nat) (f : Die → Die) : (s.modDie k f).outbox = s.outbox := rfl
@[simp] theorem State.modDie_inbox (s : State) (k : Nat) (f : Die → Die) : (s.modDie k f).inbox = s.inbox := rfl
@[simp] theorem State.modDie_held (s : State) (k : Nat) (f : Die → Die) : (s.modDie k f).held = s.held := rfl
@[simp] theorem State.modDie_heard (s : State) (k : Nat) (f : Die → Die) : (s.modDie k f).heard = s.heard := rfl
@[simp] theorem State.modDie_lost (s : State) (k : Nat) (f : Die → Die) : (s.modDie k f).lost = s.lost := rfl
@[simp] theorem State.modDie_trace (s : State) (k : Nat) (f : Die → Die) : (s.modDie k f).trace = s.trace := rfl
@[simp] theorem State.modDie_ckpt (s : State) (k : Nat) (f : Die → Die) : (s.modDie k f).ckpt = s.ckpt := rfl
@[simp] theorem State.modDie_sys (s : State) (k : Nat) (f : Die → Die) : (s.modDie k f).sys = s.sys := rfl

@[simp] theorem State.tally_pcc (s : State) (d k : Nat) : (s.tally d k).pcc = s.pcc := rfl
@[simp] theorem State.tally_issuer (s : State) (d k : Nat) : (s.tally d k).issuer = s.issuer := rfl
@[simp] theorem State.tally_agenda (s : State) (d k : Nat) : (s.tally d k).agenda = s.agenda := rfl
@[simp] theorem State.tally_turns (s : State) (d k : Nat) : (s.tally d k).turns = s.turns := rfl
@[simp] theorem State.tally_fresh (s : State) (d k : Nat) : (s.tally d k).fresh = s.fresh := rfl
@[simp] theorem State.tally_free (s : State) (d k : Nat) : (s.tally d k).free = s.free := rfl
@[simp] theorem State.tally_mems (s : State) (d k : Nat) : (s.tally d k).mems = s.mems := rfl
@[simp] theorem State.tally_store (s : State) (d k : Nat) : (s.tally d k).store = s.store := rfl
@[simp] theorem State.tally_ctxs (s : State) (d k : Nat) : (s.tally d k).ctxs = s.ctxs := rfl
@[simp] theorem State.tally_groups (s : State) (d k : Nat) : (s.tally d k).groups = s.groups := rfl
@[simp] theorem State.tally_blocks (s : State) (d k : Nat) : (s.tally d k).blocks = s.blocks := rfl
@[simp] theorem State.tally_launches (s : State) (d k : Nat) : (s.tally d k).launches = s.launches := rfl
@[simp] theorem State.tally_lastLaunch (s : State) (d k : Nat) : (s.tally d k).lastLaunch = s.lastLaunch := rfl
@[simp] theorem State.tally_cores (s : State) (d k : Nat) : (s.tally d k).cores = s.cores := rfl
@[simp] theorem State.tally_clusters (s : State) (d k : Nat) : (s.tally d k).clusters = s.clusters := rfl
@[simp] theorem State.tally_stks (s : State) (d k : Nat) : (s.tally d k).stks = s.stks := rfl
@[simp] theorem State.tally_chans (s : State) (d k : Nat) : (s.tally d k).chans = s.chans := rfl
@[simp] theorem State.tally_ops (s : State) (d k : Nat) : (s.tally d k).ops = s.ops := rfl
@[simp] theorem State.tally_aops (s : State) (d k : Nat) : (s.tally d k).aops = s.aops := rfl
@[simp] theorem State.tally_bars (s : State) (d k : Nat) : (s.tally d k).bars = s.bars := rfl
@[simp] theorem State.tally_pkts (s : State) (d k : Nat) : (s.tally d k).pkts = s.pkts := rfl
@[simp] theorem State.tally_waiters (s : State) (d k : Nat) : (s.tally d k).waiters = s.waiters := rfl
@[simp] theorem State.tally_migs (s : State) (d k : Nat) : (s.tally d k).migs = s.migs := rfl
@[simp] theorem State.tally_cqs (s : State) (d k : Nat) : (s.tally d k).cqs = s.cqs := rfl
@[simp] theorem State.tally_hosts (s : State) (d k : Nat) : (s.tally d k).hosts = s.hosts := rfl
@[simp] theorem State.tally_links (s : State) (d k : Nat) : (s.tally d k).links = s.links := rfl
@[simp] theorem State.tally_routes (s : State) (d k : Nat) : (s.tally d k).routes = s.routes := rfl
@[simp] theorem State.tally_outbox (s : State) (d k : Nat) : (s.tally d k).outbox = s.outbox := rfl
@[simp] theorem State.tally_inbox (s : State) (d k : Nat) : (s.tally d k).inbox = s.inbox := rfl
@[simp] theorem State.tally_held (s : State) (d k : Nat) : (s.tally d k).held = s.held := rfl
@[simp] theorem State.tally_heard (s : State) (d k : Nat) : (s.tally d k).heard = s.heard := rfl
@[simp] theorem State.tally_lost (s : State) (d k : Nat) : (s.tally d k).lost = s.lost := rfl
@[simp] theorem State.tally_trace (s : State) (d k : Nat) : (s.tally d k).trace = s.trace := rfl
@[simp] theorem State.tally_ckpt (s : State) (d k : Nat) : (s.tally d k).ckpt = s.ckpt := rfl
@[simp] theorem State.tally_sys (s : State) (d k : Nat) : (s.tally d k).sys = s.sys := rfl

@[simp] theorem State.modStack_pcc (s : State) (k : Nat) (f : Stack → Stack) : (s.modStack k f).pcc = s.pcc := rfl
@[simp] theorem State.modStack_issuer (s : State) (k : Nat) (f : Stack → Stack) : (s.modStack k f).issuer = s.issuer := rfl
@[simp] theorem State.modStack_agenda (s : State) (k : Nat) (f : Stack → Stack) : (s.modStack k f).agenda = s.agenda := rfl
@[simp] theorem State.modStack_turns (s : State) (k : Nat) (f : Stack → Stack) : (s.modStack k f).turns = s.turns := rfl
@[simp] theorem State.modStack_fresh (s : State) (k : Nat) (f : Stack → Stack) : (s.modStack k f).fresh = s.fresh := rfl
@[simp] theorem State.modStack_free (s : State) (k : Nat) (f : Stack → Stack) : (s.modStack k f).free = s.free := rfl
@[simp] theorem State.modStack_mems (s : State) (k : Nat) (f : Stack → Stack) : (s.modStack k f).mems = s.mems := rfl
@[simp] theorem State.modStack_store (s : State) (k : Nat) (f : Stack → Stack) : (s.modStack k f).store = s.store := rfl
@[simp] theorem State.modStack_ctxs (s : State) (k : Nat) (f : Stack → Stack) : (s.modStack k f).ctxs = s.ctxs := rfl
@[simp] theorem State.modStack_groups (s : State) (k : Nat) (f : Stack → Stack) : (s.modStack k f).groups = s.groups := rfl
@[simp] theorem State.modStack_blocks (s : State) (k : Nat) (f : Stack → Stack) : (s.modStack k f).blocks = s.blocks := rfl
@[simp] theorem State.modStack_launches (s : State) (k : Nat) (f : Stack → Stack) : (s.modStack k f).launches = s.launches := rfl
@[simp] theorem State.modStack_lastLaunch (s : State) (k : Nat) (f : Stack → Stack) : (s.modStack k f).lastLaunch = s.lastLaunch := rfl
@[simp] theorem State.modStack_cores (s : State) (k : Nat) (f : Stack → Stack) : (s.modStack k f).cores = s.cores := rfl
@[simp] theorem State.modStack_clusters (s : State) (k : Nat) (f : Stack → Stack) : (s.modStack k f).clusters = s.clusters := rfl
@[simp] theorem State.modStack_dies (s : State) (k : Nat) (f : Stack → Stack) : (s.modStack k f).dies = s.dies := rfl
@[simp] theorem State.modStack_chans (s : State) (k : Nat) (f : Stack → Stack) : (s.modStack k f).chans = s.chans := rfl
@[simp] theorem State.modStack_ops (s : State) (k : Nat) (f : Stack → Stack) : (s.modStack k f).ops = s.ops := rfl
@[simp] theorem State.modStack_aops (s : State) (k : Nat) (f : Stack → Stack) : (s.modStack k f).aops = s.aops := rfl
@[simp] theorem State.modStack_bars (s : State) (k : Nat) (f : Stack → Stack) : (s.modStack k f).bars = s.bars := rfl
@[simp] theorem State.modStack_pkts (s : State) (k : Nat) (f : Stack → Stack) : (s.modStack k f).pkts = s.pkts := rfl
@[simp] theorem State.modStack_waiters (s : State) (k : Nat) (f : Stack → Stack) : (s.modStack k f).waiters = s.waiters := rfl
@[simp] theorem State.modStack_migs (s : State) (k : Nat) (f : Stack → Stack) : (s.modStack k f).migs = s.migs := rfl
@[simp] theorem State.modStack_cqs (s : State) (k : Nat) (f : Stack → Stack) : (s.modStack k f).cqs = s.cqs := rfl
@[simp] theorem State.modStack_hosts (s : State) (k : Nat) (f : Stack → Stack) : (s.modStack k f).hosts = s.hosts := rfl
@[simp] theorem State.modStack_links (s : State) (k : Nat) (f : Stack → Stack) : (s.modStack k f).links = s.links := rfl
@[simp] theorem State.modStack_routes (s : State) (k : Nat) (f : Stack → Stack) : (s.modStack k f).routes = s.routes := rfl
@[simp] theorem State.modStack_outbox (s : State) (k : Nat) (f : Stack → Stack) : (s.modStack k f).outbox = s.outbox := rfl
@[simp] theorem State.modStack_inbox (s : State) (k : Nat) (f : Stack → Stack) : (s.modStack k f).inbox = s.inbox := rfl
@[simp] theorem State.modStack_held (s : State) (k : Nat) (f : Stack → Stack) : (s.modStack k f).held = s.held := rfl
@[simp] theorem State.modStack_heard (s : State) (k : Nat) (f : Stack → Stack) : (s.modStack k f).heard = s.heard := rfl
@[simp] theorem State.modStack_lost (s : State) (k : Nat) (f : Stack → Stack) : (s.modStack k f).lost = s.lost := rfl
@[simp] theorem State.modStack_trace (s : State) (k : Nat) (f : Stack → Stack) : (s.modStack k f).trace = s.trace := rfl
@[simp] theorem State.modStack_ckpt (s : State) (k : Nat) (f : Stack → Stack) : (s.modStack k f).ckpt = s.ckpt := rfl
@[simp] theorem State.modStack_sys (s : State) (k : Nat) (f : Stack → Stack) : (s.modStack k f).sys = s.sys := rfl

@[simp] theorem State.modChan_pcc (s : State) (k : Nat) (f : Chan → Chan) : (s.modChan k f).pcc = s.pcc := rfl
@[simp] theorem State.modChan_issuer (s : State) (k : Nat) (f : Chan → Chan) : (s.modChan k f).issuer = s.issuer := rfl
@[simp] theorem State.modChan_agenda (s : State) (k : Nat) (f : Chan → Chan) : (s.modChan k f).agenda = s.agenda := rfl
@[simp] theorem State.modChan_turns (s : State) (k : Nat) (f : Chan → Chan) : (s.modChan k f).turns = s.turns := rfl
@[simp] theorem State.modChan_fresh (s : State) (k : Nat) (f : Chan → Chan) : (s.modChan k f).fresh = s.fresh := rfl
@[simp] theorem State.modChan_free (s : State) (k : Nat) (f : Chan → Chan) : (s.modChan k f).free = s.free := rfl
@[simp] theorem State.modChan_mems (s : State) (k : Nat) (f : Chan → Chan) : (s.modChan k f).mems = s.mems := rfl
@[simp] theorem State.modChan_store (s : State) (k : Nat) (f : Chan → Chan) : (s.modChan k f).store = s.store := rfl
@[simp] theorem State.modChan_ctxs (s : State) (k : Nat) (f : Chan → Chan) : (s.modChan k f).ctxs = s.ctxs := rfl
@[simp] theorem State.modChan_groups (s : State) (k : Nat) (f : Chan → Chan) : (s.modChan k f).groups = s.groups := rfl
@[simp] theorem State.modChan_blocks (s : State) (k : Nat) (f : Chan → Chan) : (s.modChan k f).blocks = s.blocks := rfl
@[simp] theorem State.modChan_launches (s : State) (k : Nat) (f : Chan → Chan) : (s.modChan k f).launches = s.launches := rfl
@[simp] theorem State.modChan_lastLaunch (s : State) (k : Nat) (f : Chan → Chan) : (s.modChan k f).lastLaunch = s.lastLaunch := rfl
@[simp] theorem State.modChan_cores (s : State) (k : Nat) (f : Chan → Chan) : (s.modChan k f).cores = s.cores := rfl
@[simp] theorem State.modChan_clusters (s : State) (k : Nat) (f : Chan → Chan) : (s.modChan k f).clusters = s.clusters := rfl
@[simp] theorem State.modChan_dies (s : State) (k : Nat) (f : Chan → Chan) : (s.modChan k f).dies = s.dies := rfl
@[simp] theorem State.modChan_stks (s : State) (k : Nat) (f : Chan → Chan) : (s.modChan k f).stks = s.stks := rfl
@[simp] theorem State.modChan_ops (s : State) (k : Nat) (f : Chan → Chan) : (s.modChan k f).ops = s.ops := rfl
@[simp] theorem State.modChan_aops (s : State) (k : Nat) (f : Chan → Chan) : (s.modChan k f).aops = s.aops := rfl
@[simp] theorem State.modChan_bars (s : State) (k : Nat) (f : Chan → Chan) : (s.modChan k f).bars = s.bars := rfl
@[simp] theorem State.modChan_pkts (s : State) (k : Nat) (f : Chan → Chan) : (s.modChan k f).pkts = s.pkts := rfl
@[simp] theorem State.modChan_waiters (s : State) (k : Nat) (f : Chan → Chan) : (s.modChan k f).waiters = s.waiters := rfl
@[simp] theorem State.modChan_migs (s : State) (k : Nat) (f : Chan → Chan) : (s.modChan k f).migs = s.migs := rfl
@[simp] theorem State.modChan_cqs (s : State) (k : Nat) (f : Chan → Chan) : (s.modChan k f).cqs = s.cqs := rfl
@[simp] theorem State.modChan_hosts (s : State) (k : Nat) (f : Chan → Chan) : (s.modChan k f).hosts = s.hosts := rfl
@[simp] theorem State.modChan_links (s : State) (k : Nat) (f : Chan → Chan) : (s.modChan k f).links = s.links := rfl
@[simp] theorem State.modChan_routes (s : State) (k : Nat) (f : Chan → Chan) : (s.modChan k f).routes = s.routes := rfl
@[simp] theorem State.modChan_outbox (s : State) (k : Nat) (f : Chan → Chan) : (s.modChan k f).outbox = s.outbox := rfl
@[simp] theorem State.modChan_inbox (s : State) (k : Nat) (f : Chan → Chan) : (s.modChan k f).inbox = s.inbox := rfl
@[simp] theorem State.modChan_held (s : State) (k : Nat) (f : Chan → Chan) : (s.modChan k f).held = s.held := rfl
@[simp] theorem State.modChan_heard (s : State) (k : Nat) (f : Chan → Chan) : (s.modChan k f).heard = s.heard := rfl
@[simp] theorem State.modChan_lost (s : State) (k : Nat) (f : Chan → Chan) : (s.modChan k f).lost = s.lost := rfl
@[simp] theorem State.modChan_trace (s : State) (k : Nat) (f : Chan → Chan) : (s.modChan k f).trace = s.trace := rfl
@[simp] theorem State.modChan_ckpt (s : State) (k : Nat) (f : Chan → Chan) : (s.modChan k f).ckpt = s.ckpt := rfl
@[simp] theorem State.modChan_sys (s : State) (k : Nat) (f : Chan → Chan) : (s.modChan k f).sys = s.sys := rfl

@[simp] theorem State.modCq_pcc (s : State) (k : Nat) (f : CQueue → CQueue) : (s.modCq k f).pcc = s.pcc := rfl
@[simp] theorem State.modCq_issuer (s : State) (k : Nat) (f : CQueue → CQueue) : (s.modCq k f).issuer = s.issuer := rfl
@[simp] theorem State.modCq_agenda (s : State) (k : Nat) (f : CQueue → CQueue) : (s.modCq k f).agenda = s.agenda := rfl
@[simp] theorem State.modCq_turns (s : State) (k : Nat) (f : CQueue → CQueue) : (s.modCq k f).turns = s.turns := rfl
@[simp] theorem State.modCq_fresh (s : State) (k : Nat) (f : CQueue → CQueue) : (s.modCq k f).fresh = s.fresh := rfl
@[simp] theorem State.modCq_free (s : State) (k : Nat) (f : CQueue → CQueue) : (s.modCq k f).free = s.free := rfl
@[simp] theorem State.modCq_mems (s : State) (k : Nat) (f : CQueue → CQueue) : (s.modCq k f).mems = s.mems := rfl
@[simp] theorem State.modCq_store (s : State) (k : Nat) (f : CQueue → CQueue) : (s.modCq k f).store = s.store := rfl
@[simp] theorem State.modCq_ctxs (s : State) (k : Nat) (f : CQueue → CQueue) : (s.modCq k f).ctxs = s.ctxs := rfl
@[simp] theorem State.modCq_groups (s : State) (k : Nat) (f : CQueue → CQueue) : (s.modCq k f).groups = s.groups := rfl
@[simp] theorem State.modCq_blocks (s : State) (k : Nat) (f : CQueue → CQueue) : (s.modCq k f).blocks = s.blocks := rfl
@[simp] theorem State.modCq_launches (s : State) (k : Nat) (f : CQueue → CQueue) : (s.modCq k f).launches = s.launches := rfl
@[simp] theorem State.modCq_lastLaunch (s : State) (k : Nat) (f : CQueue → CQueue) : (s.modCq k f).lastLaunch = s.lastLaunch := rfl
@[simp] theorem State.modCq_cores (s : State) (k : Nat) (f : CQueue → CQueue) : (s.modCq k f).cores = s.cores := rfl
@[simp] theorem State.modCq_clusters (s : State) (k : Nat) (f : CQueue → CQueue) : (s.modCq k f).clusters = s.clusters := rfl
@[simp] theorem State.modCq_dies (s : State) (k : Nat) (f : CQueue → CQueue) : (s.modCq k f).dies = s.dies := rfl
@[simp] theorem State.modCq_stks (s : State) (k : Nat) (f : CQueue → CQueue) : (s.modCq k f).stks = s.stks := rfl
@[simp] theorem State.modCq_chans (s : State) (k : Nat) (f : CQueue → CQueue) : (s.modCq k f).chans = s.chans := rfl
@[simp] theorem State.modCq_ops (s : State) (k : Nat) (f : CQueue → CQueue) : (s.modCq k f).ops = s.ops := rfl
@[simp] theorem State.modCq_aops (s : State) (k : Nat) (f : CQueue → CQueue) : (s.modCq k f).aops = s.aops := rfl
@[simp] theorem State.modCq_bars (s : State) (k : Nat) (f : CQueue → CQueue) : (s.modCq k f).bars = s.bars := rfl
@[simp] theorem State.modCq_pkts (s : State) (k : Nat) (f : CQueue → CQueue) : (s.modCq k f).pkts = s.pkts := rfl
@[simp] theorem State.modCq_waiters (s : State) (k : Nat) (f : CQueue → CQueue) : (s.modCq k f).waiters = s.waiters := rfl
@[simp] theorem State.modCq_migs (s : State) (k : Nat) (f : CQueue → CQueue) : (s.modCq k f).migs = s.migs := rfl
@[simp] theorem State.modCq_hosts (s : State) (k : Nat) (f : CQueue → CQueue) : (s.modCq k f).hosts = s.hosts := rfl
@[simp] theorem State.modCq_links (s : State) (k : Nat) (f : CQueue → CQueue) : (s.modCq k f).links = s.links := rfl
@[simp] theorem State.modCq_routes (s : State) (k : Nat) (f : CQueue → CQueue) : (s.modCq k f).routes = s.routes := rfl
@[simp] theorem State.modCq_outbox (s : State) (k : Nat) (f : CQueue → CQueue) : (s.modCq k f).outbox = s.outbox := rfl
@[simp] theorem State.modCq_inbox (s : State) (k : Nat) (f : CQueue → CQueue) : (s.modCq k f).inbox = s.inbox := rfl
@[simp] theorem State.modCq_held (s : State) (k : Nat) (f : CQueue → CQueue) : (s.modCq k f).held = s.held := rfl
@[simp] theorem State.modCq_heard (s : State) (k : Nat) (f : CQueue → CQueue) : (s.modCq k f).heard = s.heard := rfl
@[simp] theorem State.modCq_lost (s : State) (k : Nat) (f : CQueue → CQueue) : (s.modCq k f).lost = s.lost := rfl
@[simp] theorem State.modCq_trace (s : State) (k : Nat) (f : CQueue → CQueue) : (s.modCq k f).trace = s.trace := rfl
@[simp] theorem State.modCq_ckpt (s : State) (k : Nat) (f : CQueue → CQueue) : (s.modCq k f).ckpt = s.ckpt := rfl
@[simp] theorem State.modCq_sys (s : State) (k : Nat) (f : CQueue → CQueue) : (s.modCq k f).sys = s.sys := rfl

@[simp] theorem State.modLink_pcc (s : State) (k : Nat) (f : Link → Link) : (s.modLink k f).pcc = s.pcc := rfl
@[simp] theorem State.modLink_issuer (s : State) (k : Nat) (f : Link → Link) : (s.modLink k f).issuer = s.issuer := rfl
@[simp] theorem State.modLink_agenda (s : State) (k : Nat) (f : Link → Link) : (s.modLink k f).agenda = s.agenda := rfl
@[simp] theorem State.modLink_turns (s : State) (k : Nat) (f : Link → Link) : (s.modLink k f).turns = s.turns := rfl
@[simp] theorem State.modLink_fresh (s : State) (k : Nat) (f : Link → Link) : (s.modLink k f).fresh = s.fresh := rfl
@[simp] theorem State.modLink_free (s : State) (k : Nat) (f : Link → Link) : (s.modLink k f).free = s.free := rfl
@[simp] theorem State.modLink_mems (s : State) (k : Nat) (f : Link → Link) : (s.modLink k f).mems = s.mems := rfl
@[simp] theorem State.modLink_store (s : State) (k : Nat) (f : Link → Link) : (s.modLink k f).store = s.store := rfl
@[simp] theorem State.modLink_ctxs (s : State) (k : Nat) (f : Link → Link) : (s.modLink k f).ctxs = s.ctxs := rfl
@[simp] theorem State.modLink_groups (s : State) (k : Nat) (f : Link → Link) : (s.modLink k f).groups = s.groups := rfl
@[simp] theorem State.modLink_blocks (s : State) (k : Nat) (f : Link → Link) : (s.modLink k f).blocks = s.blocks := rfl
@[simp] theorem State.modLink_launches (s : State) (k : Nat) (f : Link → Link) : (s.modLink k f).launches = s.launches := rfl
@[simp] theorem State.modLink_lastLaunch (s : State) (k : Nat) (f : Link → Link) : (s.modLink k f).lastLaunch = s.lastLaunch := rfl
@[simp] theorem State.modLink_cores (s : State) (k : Nat) (f : Link → Link) : (s.modLink k f).cores = s.cores := rfl
@[simp] theorem State.modLink_clusters (s : State) (k : Nat) (f : Link → Link) : (s.modLink k f).clusters = s.clusters := rfl
@[simp] theorem State.modLink_dies (s : State) (k : Nat) (f : Link → Link) : (s.modLink k f).dies = s.dies := rfl
@[simp] theorem State.modLink_stks (s : State) (k : Nat) (f : Link → Link) : (s.modLink k f).stks = s.stks := rfl
@[simp] theorem State.modLink_chans (s : State) (k : Nat) (f : Link → Link) : (s.modLink k f).chans = s.chans := rfl
@[simp] theorem State.modLink_ops (s : State) (k : Nat) (f : Link → Link) : (s.modLink k f).ops = s.ops := rfl
@[simp] theorem State.modLink_aops (s : State) (k : Nat) (f : Link → Link) : (s.modLink k f).aops = s.aops := rfl
@[simp] theorem State.modLink_bars (s : State) (k : Nat) (f : Link → Link) : (s.modLink k f).bars = s.bars := rfl
@[simp] theorem State.modLink_pkts (s : State) (k : Nat) (f : Link → Link) : (s.modLink k f).pkts = s.pkts := rfl
@[simp] theorem State.modLink_waiters (s : State) (k : Nat) (f : Link → Link) : (s.modLink k f).waiters = s.waiters := rfl
@[simp] theorem State.modLink_migs (s : State) (k : Nat) (f : Link → Link) : (s.modLink k f).migs = s.migs := rfl
@[simp] theorem State.modLink_cqs (s : State) (k : Nat) (f : Link → Link) : (s.modLink k f).cqs = s.cqs := rfl
@[simp] theorem State.modLink_hosts (s : State) (k : Nat) (f : Link → Link) : (s.modLink k f).hosts = s.hosts := rfl
@[simp] theorem State.modLink_routes (s : State) (k : Nat) (f : Link → Link) : (s.modLink k f).routes = s.routes := rfl
@[simp] theorem State.modLink_outbox (s : State) (k : Nat) (f : Link → Link) : (s.modLink k f).outbox = s.outbox := rfl
@[simp] theorem State.modLink_inbox (s : State) (k : Nat) (f : Link → Link) : (s.modLink k f).inbox = s.inbox := rfl
@[simp] theorem State.modLink_held (s : State) (k : Nat) (f : Link → Link) : (s.modLink k f).held = s.held := rfl
@[simp] theorem State.modLink_heard (s : State) (k : Nat) (f : Link → Link) : (s.modLink k f).heard = s.heard := rfl
@[simp] theorem State.modLink_lost (s : State) (k : Nat) (f : Link → Link) : (s.modLink k f).lost = s.lost := rfl
@[simp] theorem State.modLink_trace (s : State) (k : Nat) (f : Link → Link) : (s.modLink k f).trace = s.trace := rfl
@[simp] theorem State.modLink_ckpt (s : State) (k : Nat) (f : Link → Link) : (s.modLink k f).ckpt = s.ckpt := rfl
@[simp] theorem State.modLink_sys (s : State) (k : Nat) (f : Link → Link) : (s.modLink k f).sys = s.sys := rfl

@[simp] theorem State.modBlock_pcc (s : State) (k : Nat) (f : Block → Block) : (s.modBlock k f).pcc = s.pcc := rfl
@[simp] theorem State.modBlock_issuer (s : State) (k : Nat) (f : Block → Block) : (s.modBlock k f).issuer = s.issuer := rfl
@[simp] theorem State.modBlock_agenda (s : State) (k : Nat) (f : Block → Block) : (s.modBlock k f).agenda = s.agenda := rfl
@[simp] theorem State.modBlock_turns (s : State) (k : Nat) (f : Block → Block) : (s.modBlock k f).turns = s.turns := rfl
@[simp] theorem State.modBlock_fresh (s : State) (k : Nat) (f : Block → Block) : (s.modBlock k f).fresh = s.fresh := rfl
@[simp] theorem State.modBlock_free (s : State) (k : Nat) (f : Block → Block) : (s.modBlock k f).free = s.free := rfl
@[simp] theorem State.modBlock_mems (s : State) (k : Nat) (f : Block → Block) : (s.modBlock k f).mems = s.mems := rfl
@[simp] theorem State.modBlock_store (s : State) (k : Nat) (f : Block → Block) : (s.modBlock k f).store = s.store := rfl
@[simp] theorem State.modBlock_ctxs (s : State) (k : Nat) (f : Block → Block) : (s.modBlock k f).ctxs = s.ctxs := rfl
@[simp] theorem State.modBlock_groups (s : State) (k : Nat) (f : Block → Block) : (s.modBlock k f).groups = s.groups := rfl
@[simp] theorem State.modBlock_launches (s : State) (k : Nat) (f : Block → Block) : (s.modBlock k f).launches = s.launches := rfl
@[simp] theorem State.modBlock_lastLaunch (s : State) (k : Nat) (f : Block → Block) : (s.modBlock k f).lastLaunch = s.lastLaunch := rfl
@[simp] theorem State.modBlock_cores (s : State) (k : Nat) (f : Block → Block) : (s.modBlock k f).cores = s.cores := rfl
@[simp] theorem State.modBlock_clusters (s : State) (k : Nat) (f : Block → Block) : (s.modBlock k f).clusters = s.clusters := rfl
@[simp] theorem State.modBlock_dies (s : State) (k : Nat) (f : Block → Block) : (s.modBlock k f).dies = s.dies := rfl
@[simp] theorem State.modBlock_stks (s : State) (k : Nat) (f : Block → Block) : (s.modBlock k f).stks = s.stks := rfl
@[simp] theorem State.modBlock_chans (s : State) (k : Nat) (f : Block → Block) : (s.modBlock k f).chans = s.chans := rfl
@[simp] theorem State.modBlock_ops (s : State) (k : Nat) (f : Block → Block) : (s.modBlock k f).ops = s.ops := rfl
@[simp] theorem State.modBlock_aops (s : State) (k : Nat) (f : Block → Block) : (s.modBlock k f).aops = s.aops := rfl
@[simp] theorem State.modBlock_bars (s : State) (k : Nat) (f : Block → Block) : (s.modBlock k f).bars = s.bars := rfl
@[simp] theorem State.modBlock_pkts (s : State) (k : Nat) (f : Block → Block) : (s.modBlock k f).pkts = s.pkts := rfl
@[simp] theorem State.modBlock_waiters (s : State) (k : Nat) (f : Block → Block) : (s.modBlock k f).waiters = s.waiters := rfl
@[simp] theorem State.modBlock_migs (s : State) (k : Nat) (f : Block → Block) : (s.modBlock k f).migs = s.migs := rfl
@[simp] theorem State.modBlock_cqs (s : State) (k : Nat) (f : Block → Block) : (s.modBlock k f).cqs = s.cqs := rfl
@[simp] theorem State.modBlock_hosts (s : State) (k : Nat) (f : Block → Block) : (s.modBlock k f).hosts = s.hosts := rfl
@[simp] theorem State.modBlock_links (s : State) (k : Nat) (f : Block → Block) : (s.modBlock k f).links = s.links := rfl
@[simp] theorem State.modBlock_routes (s : State) (k : Nat) (f : Block → Block) : (s.modBlock k f).routes = s.routes := rfl
@[simp] theorem State.modBlock_outbox (s : State) (k : Nat) (f : Block → Block) : (s.modBlock k f).outbox = s.outbox := rfl
@[simp] theorem State.modBlock_inbox (s : State) (k : Nat) (f : Block → Block) : (s.modBlock k f).inbox = s.inbox := rfl
@[simp] theorem State.modBlock_held (s : State) (k : Nat) (f : Block → Block) : (s.modBlock k f).held = s.held := rfl
@[simp] theorem State.modBlock_heard (s : State) (k : Nat) (f : Block → Block) : (s.modBlock k f).heard = s.heard := rfl
@[simp] theorem State.modBlock_lost (s : State) (k : Nat) (f : Block → Block) : (s.modBlock k f).lost = s.lost := rfl
@[simp] theorem State.modBlock_trace (s : State) (k : Nat) (f : Block → Block) : (s.modBlock k f).trace = s.trace := rfl
@[simp] theorem State.modBlock_ckpt (s : State) (k : Nat) (f : Block → Block) : (s.modBlock k f).ckpt = s.ckpt := rfl
@[simp] theorem State.modBlock_sys (s : State) (k : Nat) (f : Block → Block) : (s.modBlock k f).sys = s.sys := rfl

@[simp] theorem State.modLaunch_pcc (s : State) (k : Nat) (f : Launch → Launch) : (s.modLaunch k f).pcc = s.pcc := rfl
@[simp] theorem State.modLaunch_issuer (s : State) (k : Nat) (f : Launch → Launch) : (s.modLaunch k f).issuer = s.issuer := rfl
@[simp] theorem State.modLaunch_agenda (s : State) (k : Nat) (f : Launch → Launch) : (s.modLaunch k f).agenda = s.agenda := rfl
@[simp] theorem State.modLaunch_turns (s : State) (k : Nat) (f : Launch → Launch) : (s.modLaunch k f).turns = s.turns := rfl
@[simp] theorem State.modLaunch_fresh (s : State) (k : Nat) (f : Launch → Launch) : (s.modLaunch k f).fresh = s.fresh := rfl
@[simp] theorem State.modLaunch_free (s : State) (k : Nat) (f : Launch → Launch) : (s.modLaunch k f).free = s.free := rfl
@[simp] theorem State.modLaunch_mems (s : State) (k : Nat) (f : Launch → Launch) : (s.modLaunch k f).mems = s.mems := rfl
@[simp] theorem State.modLaunch_store (s : State) (k : Nat) (f : Launch → Launch) : (s.modLaunch k f).store = s.store := rfl
@[simp] theorem State.modLaunch_ctxs (s : State) (k : Nat) (f : Launch → Launch) : (s.modLaunch k f).ctxs = s.ctxs := rfl
@[simp] theorem State.modLaunch_groups (s : State) (k : Nat) (f : Launch → Launch) : (s.modLaunch k f).groups = s.groups := rfl
@[simp] theorem State.modLaunch_blocks (s : State) (k : Nat) (f : Launch → Launch) : (s.modLaunch k f).blocks = s.blocks := rfl
@[simp] theorem State.modLaunch_lastLaunch (s : State) (k : Nat) (f : Launch → Launch) : (s.modLaunch k f).lastLaunch = s.lastLaunch := rfl
@[simp] theorem State.modLaunch_cores (s : State) (k : Nat) (f : Launch → Launch) : (s.modLaunch k f).cores = s.cores := rfl
@[simp] theorem State.modLaunch_clusters (s : State) (k : Nat) (f : Launch → Launch) : (s.modLaunch k f).clusters = s.clusters := rfl
@[simp] theorem State.modLaunch_dies (s : State) (k : Nat) (f : Launch → Launch) : (s.modLaunch k f).dies = s.dies := rfl
@[simp] theorem State.modLaunch_stks (s : State) (k : Nat) (f : Launch → Launch) : (s.modLaunch k f).stks = s.stks := rfl
@[simp] theorem State.modLaunch_chans (s : State) (k : Nat) (f : Launch → Launch) : (s.modLaunch k f).chans = s.chans := rfl
@[simp] theorem State.modLaunch_ops (s : State) (k : Nat) (f : Launch → Launch) : (s.modLaunch k f).ops = s.ops := rfl
@[simp] theorem State.modLaunch_aops (s : State) (k : Nat) (f : Launch → Launch) : (s.modLaunch k f).aops = s.aops := rfl
@[simp] theorem State.modLaunch_bars (s : State) (k : Nat) (f : Launch → Launch) : (s.modLaunch k f).bars = s.bars := rfl
@[simp] theorem State.modLaunch_pkts (s : State) (k : Nat) (f : Launch → Launch) : (s.modLaunch k f).pkts = s.pkts := rfl
@[simp] theorem State.modLaunch_waiters (s : State) (k : Nat) (f : Launch → Launch) : (s.modLaunch k f).waiters = s.waiters := rfl
@[simp] theorem State.modLaunch_migs (s : State) (k : Nat) (f : Launch → Launch) : (s.modLaunch k f).migs = s.migs := rfl
@[simp] theorem State.modLaunch_cqs (s : State) (k : Nat) (f : Launch → Launch) : (s.modLaunch k f).cqs = s.cqs := rfl
@[simp] theorem State.modLaunch_hosts (s : State) (k : Nat) (f : Launch → Launch) : (s.modLaunch k f).hosts = s.hosts := rfl
@[simp] theorem State.modLaunch_links (s : State) (k : Nat) (f : Launch → Launch) : (s.modLaunch k f).links = s.links := rfl
@[simp] theorem State.modLaunch_routes (s : State) (k : Nat) (f : Launch → Launch) : (s.modLaunch k f).routes = s.routes := rfl
@[simp] theorem State.modLaunch_outbox (s : State) (k : Nat) (f : Launch → Launch) : (s.modLaunch k f).outbox = s.outbox := rfl
@[simp] theorem State.modLaunch_inbox (s : State) (k : Nat) (f : Launch → Launch) : (s.modLaunch k f).inbox = s.inbox := rfl
@[simp] theorem State.modLaunch_held (s : State) (k : Nat) (f : Launch → Launch) : (s.modLaunch k f).held = s.held := rfl
@[simp] theorem State.modLaunch_heard (s : State) (k : Nat) (f : Launch → Launch) : (s.modLaunch k f).heard = s.heard := rfl
@[simp] theorem State.modLaunch_lost (s : State) (k : Nat) (f : Launch → Launch) : (s.modLaunch k f).lost = s.lost := rfl
@[simp] theorem State.modLaunch_trace (s : State) (k : Nat) (f : Launch → Launch) : (s.modLaunch k f).trace = s.trace := rfl
@[simp] theorem State.modLaunch_ckpt (s : State) (k : Nat) (f : Launch → Launch) : (s.modLaunch k f).ckpt = s.ckpt := rfl
@[simp] theorem State.modLaunch_sys (s : State) (k : Nat) (f : Launch → Launch) : (s.modLaunch k f).sys = s.sys := rfl

@[simp] theorem State.modOp_pcc (s : State) (k : Nat) (f : MemOp → MemOp) : (s.modOp k f).pcc = s.pcc := rfl
@[simp] theorem State.modOp_issuer (s : State) (k : Nat) (f : MemOp → MemOp) : (s.modOp k f).issuer = s.issuer := rfl
@[simp] theorem State.modOp_agenda (s : State) (k : Nat) (f : MemOp → MemOp) : (s.modOp k f).agenda = s.agenda := rfl
@[simp] theorem State.modOp_turns (s : State) (k : Nat) (f : MemOp → MemOp) : (s.modOp k f).turns = s.turns := rfl
@[simp] theorem State.modOp_fresh (s : State) (k : Nat) (f : MemOp → MemOp) : (s.modOp k f).fresh = s.fresh := rfl
@[simp] theorem State.modOp_free (s : State) (k : Nat) (f : MemOp → MemOp) : (s.modOp k f).free = s.free := rfl
@[simp] theorem State.modOp_mems (s : State) (k : Nat) (f : MemOp → MemOp) : (s.modOp k f).mems = s.mems := rfl
@[simp] theorem State.modOp_store (s : State) (k : Nat) (f : MemOp → MemOp) : (s.modOp k f).store = s.store := rfl
@[simp] theorem State.modOp_ctxs (s : State) (k : Nat) (f : MemOp → MemOp) : (s.modOp k f).ctxs = s.ctxs := rfl
@[simp] theorem State.modOp_groups (s : State) (k : Nat) (f : MemOp → MemOp) : (s.modOp k f).groups = s.groups := rfl
@[simp] theorem State.modOp_blocks (s : State) (k : Nat) (f : MemOp → MemOp) : (s.modOp k f).blocks = s.blocks := rfl
@[simp] theorem State.modOp_launches (s : State) (k : Nat) (f : MemOp → MemOp) : (s.modOp k f).launches = s.launches := rfl
@[simp] theorem State.modOp_lastLaunch (s : State) (k : Nat) (f : MemOp → MemOp) : (s.modOp k f).lastLaunch = s.lastLaunch := rfl
@[simp] theorem State.modOp_cores (s : State) (k : Nat) (f : MemOp → MemOp) : (s.modOp k f).cores = s.cores := rfl
@[simp] theorem State.modOp_clusters (s : State) (k : Nat) (f : MemOp → MemOp) : (s.modOp k f).clusters = s.clusters := rfl
@[simp] theorem State.modOp_dies (s : State) (k : Nat) (f : MemOp → MemOp) : (s.modOp k f).dies = s.dies := rfl
@[simp] theorem State.modOp_stks (s : State) (k : Nat) (f : MemOp → MemOp) : (s.modOp k f).stks = s.stks := rfl
@[simp] theorem State.modOp_chans (s : State) (k : Nat) (f : MemOp → MemOp) : (s.modOp k f).chans = s.chans := rfl
@[simp] theorem State.modOp_aops (s : State) (k : Nat) (f : MemOp → MemOp) : (s.modOp k f).aops = s.aops := rfl
@[simp] theorem State.modOp_bars (s : State) (k : Nat) (f : MemOp → MemOp) : (s.modOp k f).bars = s.bars := rfl
@[simp] theorem State.modOp_pkts (s : State) (k : Nat) (f : MemOp → MemOp) : (s.modOp k f).pkts = s.pkts := rfl
@[simp] theorem State.modOp_waiters (s : State) (k : Nat) (f : MemOp → MemOp) : (s.modOp k f).waiters = s.waiters := rfl
@[simp] theorem State.modOp_migs (s : State) (k : Nat) (f : MemOp → MemOp) : (s.modOp k f).migs = s.migs := rfl
@[simp] theorem State.modOp_cqs (s : State) (k : Nat) (f : MemOp → MemOp) : (s.modOp k f).cqs = s.cqs := rfl
@[simp] theorem State.modOp_hosts (s : State) (k : Nat) (f : MemOp → MemOp) : (s.modOp k f).hosts = s.hosts := rfl
@[simp] theorem State.modOp_links (s : State) (k : Nat) (f : MemOp → MemOp) : (s.modOp k f).links = s.links := rfl
@[simp] theorem State.modOp_routes (s : State) (k : Nat) (f : MemOp → MemOp) : (s.modOp k f).routes = s.routes := rfl
@[simp] theorem State.modOp_outbox (s : State) (k : Nat) (f : MemOp → MemOp) : (s.modOp k f).outbox = s.outbox := rfl
@[simp] theorem State.modOp_inbox (s : State) (k : Nat) (f : MemOp → MemOp) : (s.modOp k f).inbox = s.inbox := rfl
@[simp] theorem State.modOp_held (s : State) (k : Nat) (f : MemOp → MemOp) : (s.modOp k f).held = s.held := rfl
@[simp] theorem State.modOp_heard (s : State) (k : Nat) (f : MemOp → MemOp) : (s.modOp k f).heard = s.heard := rfl
@[simp] theorem State.modOp_lost (s : State) (k : Nat) (f : MemOp → MemOp) : (s.modOp k f).lost = s.lost := rfl
@[simp] theorem State.modOp_trace (s : State) (k : Nat) (f : MemOp → MemOp) : (s.modOp k f).trace = s.trace := rfl
@[simp] theorem State.modOp_ckpt (s : State) (k : Nat) (f : MemOp → MemOp) : (s.modOp k f).ckpt = s.ckpt := rfl
@[simp] theorem State.modOp_sys (s : State) (k : Nat) (f : MemOp → MemOp) : (s.modOp k f).sys = s.sys := rfl

@[simp] theorem State.modAop_pcc (s : State) (k : Nat) (f : AOp → AOp) : (s.modAop k f).pcc = s.pcc := rfl
@[simp] theorem State.modAop_issuer (s : State) (k : Nat) (f : AOp → AOp) : (s.modAop k f).issuer = s.issuer := rfl
@[simp] theorem State.modAop_agenda (s : State) (k : Nat) (f : AOp → AOp) : (s.modAop k f).agenda = s.agenda := rfl
@[simp] theorem State.modAop_turns (s : State) (k : Nat) (f : AOp → AOp) : (s.modAop k f).turns = s.turns := rfl
@[simp] theorem State.modAop_fresh (s : State) (k : Nat) (f : AOp → AOp) : (s.modAop k f).fresh = s.fresh := rfl
@[simp] theorem State.modAop_free (s : State) (k : Nat) (f : AOp → AOp) : (s.modAop k f).free = s.free := rfl
@[simp] theorem State.modAop_mems (s : State) (k : Nat) (f : AOp → AOp) : (s.modAop k f).mems = s.mems := rfl
@[simp] theorem State.modAop_store (s : State) (k : Nat) (f : AOp → AOp) : (s.modAop k f).store = s.store := rfl
@[simp] theorem State.modAop_ctxs (s : State) (k : Nat) (f : AOp → AOp) : (s.modAop k f).ctxs = s.ctxs := rfl
@[simp] theorem State.modAop_groups (s : State) (k : Nat) (f : AOp → AOp) : (s.modAop k f).groups = s.groups := rfl
@[simp] theorem State.modAop_blocks (s : State) (k : Nat) (f : AOp → AOp) : (s.modAop k f).blocks = s.blocks := rfl
@[simp] theorem State.modAop_launches (s : State) (k : Nat) (f : AOp → AOp) : (s.modAop k f).launches = s.launches := rfl
@[simp] theorem State.modAop_lastLaunch (s : State) (k : Nat) (f : AOp → AOp) : (s.modAop k f).lastLaunch = s.lastLaunch := rfl
@[simp] theorem State.modAop_cores (s : State) (k : Nat) (f : AOp → AOp) : (s.modAop k f).cores = s.cores := rfl
@[simp] theorem State.modAop_clusters (s : State) (k : Nat) (f : AOp → AOp) : (s.modAop k f).clusters = s.clusters := rfl
@[simp] theorem State.modAop_dies (s : State) (k : Nat) (f : AOp → AOp) : (s.modAop k f).dies = s.dies := rfl
@[simp] theorem State.modAop_stks (s : State) (k : Nat) (f : AOp → AOp) : (s.modAop k f).stks = s.stks := rfl
@[simp] theorem State.modAop_chans (s : State) (k : Nat) (f : AOp → AOp) : (s.modAop k f).chans = s.chans := rfl
@[simp] theorem State.modAop_ops (s : State) (k : Nat) (f : AOp → AOp) : (s.modAop k f).ops = s.ops := rfl
@[simp] theorem State.modAop_bars (s : State) (k : Nat) (f : AOp → AOp) : (s.modAop k f).bars = s.bars := rfl
@[simp] theorem State.modAop_pkts (s : State) (k : Nat) (f : AOp → AOp) : (s.modAop k f).pkts = s.pkts := rfl
@[simp] theorem State.modAop_waiters (s : State) (k : Nat) (f : AOp → AOp) : (s.modAop k f).waiters = s.waiters := rfl
@[simp] theorem State.modAop_migs (s : State) (k : Nat) (f : AOp → AOp) : (s.modAop k f).migs = s.migs := rfl
@[simp] theorem State.modAop_cqs (s : State) (k : Nat) (f : AOp → AOp) : (s.modAop k f).cqs = s.cqs := rfl
@[simp] theorem State.modAop_hosts (s : State) (k : Nat) (f : AOp → AOp) : (s.modAop k f).hosts = s.hosts := rfl
@[simp] theorem State.modAop_links (s : State) (k : Nat) (f : AOp → AOp) : (s.modAop k f).links = s.links := rfl
@[simp] theorem State.modAop_routes (s : State) (k : Nat) (f : AOp → AOp) : (s.modAop k f).routes = s.routes := rfl
@[simp] theorem State.modAop_outbox (s : State) (k : Nat) (f : AOp → AOp) : (s.modAop k f).outbox = s.outbox := rfl
@[simp] theorem State.modAop_inbox (s : State) (k : Nat) (f : AOp → AOp) : (s.modAop k f).inbox = s.inbox := rfl
@[simp] theorem State.modAop_held (s : State) (k : Nat) (f : AOp → AOp) : (s.modAop k f).held = s.held := rfl
@[simp] theorem State.modAop_heard (s : State) (k : Nat) (f : AOp → AOp) : (s.modAop k f).heard = s.heard := rfl
@[simp] theorem State.modAop_lost (s : State) (k : Nat) (f : AOp → AOp) : (s.modAop k f).lost = s.lost := rfl
@[simp] theorem State.modAop_trace (s : State) (k : Nat) (f : AOp → AOp) : (s.modAop k f).trace = s.trace := rfl
@[simp] theorem State.modAop_ckpt (s : State) (k : Nat) (f : AOp → AOp) : (s.modAop k f).ckpt = s.ckpt := rfl
@[simp] theorem State.modAop_sys (s : State) (k : Nat) (f : AOp → AOp) : (s.modAop k f).sys = s.sys := rfl

@[simp] theorem State.setMems_pcc (s : State) (x : Mems) : (s.setMems x).pcc = s.pcc := rfl
@[simp] theorem State.setMems_issuer (s : State) (x : Mems) : (s.setMems x).issuer = s.issuer := rfl
@[simp] theorem State.setMems_agenda (s : State) (x : Mems) : (s.setMems x).agenda = s.agenda := rfl
@[simp] theorem State.setMems_turns (s : State) (x : Mems) : (s.setMems x).turns = s.turns := rfl
@[simp] theorem State.setMems_fresh (s : State) (x : Mems) : (s.setMems x).fresh = s.fresh := rfl
@[simp] theorem State.setMems_free (s : State) (x : Mems) : (s.setMems x).free = s.free := rfl
@[simp] theorem State.setMems_store (s : State) (x : Mems) : (s.setMems x).store = s.store := rfl
@[simp] theorem State.setMems_ctxs (s : State) (x : Mems) : (s.setMems x).ctxs = s.ctxs := rfl
@[simp] theorem State.setMems_groups (s : State) (x : Mems) : (s.setMems x).groups = s.groups := rfl
@[simp] theorem State.setMems_blocks (s : State) (x : Mems) : (s.setMems x).blocks = s.blocks := rfl
@[simp] theorem State.setMems_launches (s : State) (x : Mems) : (s.setMems x).launches = s.launches := rfl
@[simp] theorem State.setMems_lastLaunch (s : State) (x : Mems) : (s.setMems x).lastLaunch = s.lastLaunch := rfl
@[simp] theorem State.setMems_cores (s : State) (x : Mems) : (s.setMems x).cores = s.cores := rfl
@[simp] theorem State.setMems_clusters (s : State) (x : Mems) : (s.setMems x).clusters = s.clusters := rfl
@[simp] theorem State.setMems_dies (s : State) (x : Mems) : (s.setMems x).dies = s.dies := rfl
@[simp] theorem State.setMems_stks (s : State) (x : Mems) : (s.setMems x).stks = s.stks := rfl
@[simp] theorem State.setMems_chans (s : State) (x : Mems) : (s.setMems x).chans = s.chans := rfl
@[simp] theorem State.setMems_ops (s : State) (x : Mems) : (s.setMems x).ops = s.ops := rfl
@[simp] theorem State.setMems_aops (s : State) (x : Mems) : (s.setMems x).aops = s.aops := rfl
@[simp] theorem State.setMems_bars (s : State) (x : Mems) : (s.setMems x).bars = s.bars := rfl
@[simp] theorem State.setMems_pkts (s : State) (x : Mems) : (s.setMems x).pkts = s.pkts := rfl
@[simp] theorem State.setMems_waiters (s : State) (x : Mems) : (s.setMems x).waiters = s.waiters := rfl
@[simp] theorem State.setMems_migs (s : State) (x : Mems) : (s.setMems x).migs = s.migs := rfl
@[simp] theorem State.setMems_cqs (s : State) (x : Mems) : (s.setMems x).cqs = s.cqs := rfl
@[simp] theorem State.setMems_hosts (s : State) (x : Mems) : (s.setMems x).hosts = s.hosts := rfl
@[simp] theorem State.setMems_links (s : State) (x : Mems) : (s.setMems x).links = s.links := rfl
@[simp] theorem State.setMems_routes (s : State) (x : Mems) : (s.setMems x).routes = s.routes := rfl
@[simp] theorem State.setMems_outbox (s : State) (x : Mems) : (s.setMems x).outbox = s.outbox := rfl
@[simp] theorem State.setMems_inbox (s : State) (x : Mems) : (s.setMems x).inbox = s.inbox := rfl
@[simp] theorem State.setMems_held (s : State) (x : Mems) : (s.setMems x).held = s.held := rfl
@[simp] theorem State.setMems_heard (s : State) (x : Mems) : (s.setMems x).heard = s.heard := rfl
@[simp] theorem State.setMems_lost (s : State) (x : Mems) : (s.setMems x).lost = s.lost := rfl
@[simp] theorem State.setMems_trace (s : State) (x : Mems) : (s.setMems x).trace = s.trace := rfl
@[simp] theorem State.setMems_ckpt (s : State) (x : Mems) : (s.setMems x).ckpt = s.ckpt := rfl
@[simp] theorem State.setMems_sys (s : State) (x : Mems) : (s.setMems x).sys = s.sys := rfl

@[simp] theorem State.setStore_pcc (s : State) (x : Store) : (s.setStore x).pcc = s.pcc := rfl
@[simp] theorem State.setStore_issuer (s : State) (x : Store) : (s.setStore x).issuer = s.issuer := rfl
@[simp] theorem State.setStore_agenda (s : State) (x : Store) : (s.setStore x).agenda = s.agenda := rfl
@[simp] theorem State.setStore_turns (s : State) (x : Store) : (s.setStore x).turns = s.turns := rfl
@[simp] theorem State.setStore_fresh (s : State) (x : Store) : (s.setStore x).fresh = s.fresh := rfl
@[simp] theorem State.setStore_free (s : State) (x : Store) : (s.setStore x).free = s.free := rfl
@[simp] theorem State.setStore_mems (s : State) (x : Store) : (s.setStore x).mems = s.mems := rfl
@[simp] theorem State.setStore_ctxs (s : State) (x : Store) : (s.setStore x).ctxs = s.ctxs := rfl
@[simp] theorem State.setStore_groups (s : State) (x : Store) : (s.setStore x).groups = s.groups := rfl
@[simp] theorem State.setStore_blocks (s : State) (x : Store) : (s.setStore x).blocks = s.blocks := rfl
@[simp] theorem State.setStore_launches (s : State) (x : Store) : (s.setStore x).launches = s.launches := rfl
@[simp] theorem State.setStore_lastLaunch (s : State) (x : Store) : (s.setStore x).lastLaunch = s.lastLaunch := rfl
@[simp] theorem State.setStore_cores (s : State) (x : Store) : (s.setStore x).cores = s.cores := rfl
@[simp] theorem State.setStore_clusters (s : State) (x : Store) : (s.setStore x).clusters = s.clusters := rfl
@[simp] theorem State.setStore_dies (s : State) (x : Store) : (s.setStore x).dies = s.dies := rfl
@[simp] theorem State.setStore_stks (s : State) (x : Store) : (s.setStore x).stks = s.stks := rfl
@[simp] theorem State.setStore_chans (s : State) (x : Store) : (s.setStore x).chans = s.chans := rfl
@[simp] theorem State.setStore_ops (s : State) (x : Store) : (s.setStore x).ops = s.ops := rfl
@[simp] theorem State.setStore_aops (s : State) (x : Store) : (s.setStore x).aops = s.aops := rfl
@[simp] theorem State.setStore_bars (s : State) (x : Store) : (s.setStore x).bars = s.bars := rfl
@[simp] theorem State.setStore_pkts (s : State) (x : Store) : (s.setStore x).pkts = s.pkts := rfl
@[simp] theorem State.setStore_waiters (s : State) (x : Store) : (s.setStore x).waiters = s.waiters := rfl
@[simp] theorem State.setStore_migs (s : State) (x : Store) : (s.setStore x).migs = s.migs := rfl
@[simp] theorem State.setStore_cqs (s : State) (x : Store) : (s.setStore x).cqs = s.cqs := rfl
@[simp] theorem State.setStore_hosts (s : State) (x : Store) : (s.setStore x).hosts = s.hosts := rfl
@[simp] theorem State.setStore_links (s : State) (x : Store) : (s.setStore x).links = s.links := rfl
@[simp] theorem State.setStore_routes (s : State) (x : Store) : (s.setStore x).routes = s.routes := rfl
@[simp] theorem State.setStore_outbox (s : State) (x : Store) : (s.setStore x).outbox = s.outbox := rfl
@[simp] theorem State.setStore_inbox (s : State) (x : Store) : (s.setStore x).inbox = s.inbox := rfl
@[simp] theorem State.setStore_held (s : State) (x : Store) : (s.setStore x).held = s.held := rfl
@[simp] theorem State.setStore_heard (s : State) (x : Store) : (s.setStore x).heard = s.heard := rfl
@[simp] theorem State.setStore_lost (s : State) (x : Store) : (s.setStore x).lost = s.lost := rfl
@[simp] theorem State.setStore_trace (s : State) (x : Store) : (s.setStore x).trace = s.trace := rfl
@[simp] theorem State.setStore_ckpt (s : State) (x : Store) : (s.setStore x).ckpt = s.ckpt := rfl
@[simp] theorem State.setStore_sys (s : State) (x : Store) : (s.setStore x).sys = s.sys := rfl

@[simp] theorem State.advance_pcc (s : State) (k : Nat) (b : Bool) (n : Nat) : (s.advance k b n).pcc = s.pcc := rfl
@[simp] theorem State.advance_issuer (s : State) (k : Nat) (b : Bool) (n : Nat) : (s.advance k b n).issuer = s.issuer := rfl
@[simp] theorem State.advance_agenda (s : State) (k : Nat) (b : Bool) (n : Nat) : (s.advance k b n).agenda = s.agenda := rfl
@[simp] theorem State.advance_turns (s : State) (k : Nat) (b : Bool) (n : Nat) : (s.advance k b n).turns = s.turns := rfl
@[simp] theorem State.advance_fresh (s : State) (k : Nat) (b : Bool) (n : Nat) : (s.advance k b n).fresh = s.fresh := rfl
@[simp] theorem State.advance_free (s : State) (k : Nat) (b : Bool) (n : Nat) : (s.advance k b n).free = s.free := rfl
@[simp] theorem State.advance_mems (s : State) (k : Nat) (b : Bool) (n : Nat) : (s.advance k b n).mems = s.mems := rfl
@[simp] theorem State.advance_store (s : State) (k : Nat) (b : Bool) (n : Nat) : (s.advance k b n).store = s.store := rfl
@[simp] theorem State.advance_ctxs (s : State) (k : Nat) (b : Bool) (n : Nat) : (s.advance k b n).ctxs = s.ctxs := rfl
@[simp] theorem State.advance_blocks (s : State) (k : Nat) (b : Bool) (n : Nat) : (s.advance k b n).blocks = s.blocks := rfl
@[simp] theorem State.advance_launches (s : State) (k : Nat) (b : Bool) (n : Nat) : (s.advance k b n).launches = s.launches := rfl
@[simp] theorem State.advance_lastLaunch (s : State) (k : Nat) (b : Bool) (n : Nat) : (s.advance k b n).lastLaunch = s.lastLaunch := rfl
@[simp] theorem State.advance_cores (s : State) (k : Nat) (b : Bool) (n : Nat) : (s.advance k b n).cores = s.cores := rfl
@[simp] theorem State.advance_clusters (s : State) (k : Nat) (b : Bool) (n : Nat) : (s.advance k b n).clusters = s.clusters := rfl
@[simp] theorem State.advance_dies (s : State) (k : Nat) (b : Bool) (n : Nat) : (s.advance k b n).dies = s.dies := rfl
@[simp] theorem State.advance_stks (s : State) (k : Nat) (b : Bool) (n : Nat) : (s.advance k b n).stks = s.stks := rfl
@[simp] theorem State.advance_chans (s : State) (k : Nat) (b : Bool) (n : Nat) : (s.advance k b n).chans = s.chans := rfl
@[simp] theorem State.advance_ops (s : State) (k : Nat) (b : Bool) (n : Nat) : (s.advance k b n).ops = s.ops := rfl
@[simp] theorem State.advance_aops (s : State) (k : Nat) (b : Bool) (n : Nat) : (s.advance k b n).aops = s.aops := rfl
@[simp] theorem State.advance_bars (s : State) (k : Nat) (b : Bool) (n : Nat) : (s.advance k b n).bars = s.bars := rfl
@[simp] theorem State.advance_pkts (s : State) (k : Nat) (b : Bool) (n : Nat) : (s.advance k b n).pkts = s.pkts := rfl
@[simp] theorem State.advance_waiters (s : State) (k : Nat) (b : Bool) (n : Nat) : (s.advance k b n).waiters = s.waiters := rfl
@[simp] theorem State.advance_migs (s : State) (k : Nat) (b : Bool) (n : Nat) : (s.advance k b n).migs = s.migs := rfl
@[simp] theorem State.advance_cqs (s : State) (k : Nat) (b : Bool) (n : Nat) : (s.advance k b n).cqs = s.cqs := rfl
@[simp] theorem State.advance_hosts (s : State) (k : Nat) (b : Bool) (n : Nat) : (s.advance k b n).hosts = s.hosts := rfl
@[simp] theorem State.advance_links (s : State) (k : Nat) (b : Bool) (n : Nat) : (s.advance k b n).links = s.links := rfl
@[simp] theorem State.advance_routes (s : State) (k : Nat) (b : Bool) (n : Nat) : (s.advance k b n).routes = s.routes := rfl
@[simp] theorem State.advance_outbox (s : State) (k : Nat) (b : Bool) (n : Nat) : (s.advance k b n).outbox = s.outbox := rfl
@[simp] theorem State.advance_inbox (s : State) (k : Nat) (b : Bool) (n : Nat) : (s.advance k b n).inbox = s.inbox := rfl
@[simp] theorem State.advance_held (s : State) (k : Nat) (b : Bool) (n : Nat) : (s.advance k b n).held = s.held := rfl
@[simp] theorem State.advance_heard (s : State) (k : Nat) (b : Bool) (n : Nat) : (s.advance k b n).heard = s.heard := rfl
@[simp] theorem State.advance_lost (s : State) (k : Nat) (b : Bool) (n : Nat) : (s.advance k b n).lost = s.lost := rfl
@[simp] theorem State.advance_trace (s : State) (k : Nat) (b : Bool) (n : Nat) : (s.advance k b n).trace = s.trace := rfl
@[simp] theorem State.advance_ckpt (s : State) (k : Nat) (b : Bool) (n : Nat) : (s.advance k b n).ckpt = s.ckpt := rfl
@[simp] theorem State.advance_sys (s : State) (k : Nat) (b : Bool) (n : Nat) : (s.advance k b n).sys = s.sys := rfl

@[simp] theorem State.modRun_pcc (s : State) (k : Nat) (b : Bool) (f : Run → Run) : (s.modRun k b f).pcc = s.pcc := rfl
@[simp] theorem State.modRun_issuer (s : State) (k : Nat) (b : Bool) (f : Run → Run) : (s.modRun k b f).issuer = s.issuer := rfl
@[simp] theorem State.modRun_agenda (s : State) (k : Nat) (b : Bool) (f : Run → Run) : (s.modRun k b f).agenda = s.agenda := rfl
@[simp] theorem State.modRun_turns (s : State) (k : Nat) (b : Bool) (f : Run → Run) : (s.modRun k b f).turns = s.turns := rfl
@[simp] theorem State.modRun_fresh (s : State) (k : Nat) (b : Bool) (f : Run → Run) : (s.modRun k b f).fresh = s.fresh := rfl
@[simp] theorem State.modRun_free (s : State) (k : Nat) (b : Bool) (f : Run → Run) : (s.modRun k b f).free = s.free := rfl
@[simp] theorem State.modRun_mems (s : State) (k : Nat) (b : Bool) (f : Run → Run) : (s.modRun k b f).mems = s.mems := rfl
@[simp] theorem State.modRun_store (s : State) (k : Nat) (b : Bool) (f : Run → Run) : (s.modRun k b f).store = s.store := rfl
@[simp] theorem State.modRun_ctxs (s : State) (k : Nat) (b : Bool) (f : Run → Run) : (s.modRun k b f).ctxs = s.ctxs := rfl
@[simp] theorem State.modRun_blocks (s : State) (k : Nat) (b : Bool) (f : Run → Run) : (s.modRun k b f).blocks = s.blocks := rfl
@[simp] theorem State.modRun_launches (s : State) (k : Nat) (b : Bool) (f : Run → Run) : (s.modRun k b f).launches = s.launches := rfl
@[simp] theorem State.modRun_lastLaunch (s : State) (k : Nat) (b : Bool) (f : Run → Run) : (s.modRun k b f).lastLaunch = s.lastLaunch := rfl
@[simp] theorem State.modRun_cores (s : State) (k : Nat) (b : Bool) (f : Run → Run) : (s.modRun k b f).cores = s.cores := rfl
@[simp] theorem State.modRun_clusters (s : State) (k : Nat) (b : Bool) (f : Run → Run) : (s.modRun k b f).clusters = s.clusters := rfl
@[simp] theorem State.modRun_dies (s : State) (k : Nat) (b : Bool) (f : Run → Run) : (s.modRun k b f).dies = s.dies := rfl
@[simp] theorem State.modRun_stks (s : State) (k : Nat) (b : Bool) (f : Run → Run) : (s.modRun k b f).stks = s.stks := rfl
@[simp] theorem State.modRun_chans (s : State) (k : Nat) (b : Bool) (f : Run → Run) : (s.modRun k b f).chans = s.chans := rfl
@[simp] theorem State.modRun_ops (s : State) (k : Nat) (b : Bool) (f : Run → Run) : (s.modRun k b f).ops = s.ops := rfl
@[simp] theorem State.modRun_aops (s : State) (k : Nat) (b : Bool) (f : Run → Run) : (s.modRun k b f).aops = s.aops := rfl
@[simp] theorem State.modRun_bars (s : State) (k : Nat) (b : Bool) (f : Run → Run) : (s.modRun k b f).bars = s.bars := rfl
@[simp] theorem State.modRun_pkts (s : State) (k : Nat) (b : Bool) (f : Run → Run) : (s.modRun k b f).pkts = s.pkts := rfl
@[simp] theorem State.modRun_waiters (s : State) (k : Nat) (b : Bool) (f : Run → Run) : (s.modRun k b f).waiters = s.waiters := rfl
@[simp] theorem State.modRun_migs (s : State) (k : Nat) (b : Bool) (f : Run → Run) : (s.modRun k b f).migs = s.migs := rfl
@[simp] theorem State.modRun_cqs (s : State) (k : Nat) (b : Bool) (f : Run → Run) : (s.modRun k b f).cqs = s.cqs := rfl
@[simp] theorem State.modRun_hosts (s : State) (k : Nat) (b : Bool) (f : Run → Run) : (s.modRun k b f).hosts = s.hosts := rfl
@[simp] theorem State.modRun_links (s : State) (k : Nat) (b : Bool) (f : Run → Run) : (s.modRun k b f).links = s.links := rfl
@[simp] theorem State.modRun_routes (s : State) (k : Nat) (b : Bool) (f : Run → Run) : (s.modRun k b f).routes = s.routes := rfl
@[simp] theorem State.modRun_outbox (s : State) (k : Nat) (b : Bool) (f : Run → Run) : (s.modRun k b f).outbox = s.outbox := rfl
@[simp] theorem State.modRun_inbox (s : State) (k : Nat) (b : Bool) (f : Run → Run) : (s.modRun k b f).inbox = s.inbox := rfl
@[simp] theorem State.modRun_held (s : State) (k : Nat) (b : Bool) (f : Run → Run) : (s.modRun k b f).held = s.held := rfl
@[simp] theorem State.modRun_heard (s : State) (k : Nat) (b : Bool) (f : Run → Run) : (s.modRun k b f).heard = s.heard := rfl
@[simp] theorem State.modRun_lost (s : State) (k : Nat) (b : Bool) (f : Run → Run) : (s.modRun k b f).lost = s.lost := rfl
@[simp] theorem State.modRun_trace (s : State) (k : Nat) (b : Bool) (f : Run → Run) : (s.modRun k b f).trace = s.trace := rfl
@[simp] theorem State.modRun_ckpt (s : State) (k : Nat) (b : Bool) (f : Run → Run) : (s.modRun k b f).ckpt = s.ckpt := rfl
@[simp] theorem State.modRun_sys (s : State) (k : Nat) (b : Bool) (f : Run → Run) : (s.modRun k b f).sys = s.sys := rfl

@[simp] theorem State.trapRun_pcc (s : State) (k : Nat) (r : Run) (c : Cause) (m : Lanes) (d0 d1 d2 : Dword) : (s.trapRun k r c m d0 d1 d2).pcc = s.pcc := rfl
@[simp] theorem State.trapRun_issuer (s : State) (k : Nat) (r : Run) (c : Cause) (m : Lanes) (d0 d1 d2 : Dword) : (s.trapRun k r c m d0 d1 d2).issuer = s.issuer := rfl
@[simp] theorem State.trapRun_agenda (s : State) (k : Nat) (r : Run) (c : Cause) (m : Lanes) (d0 d1 d2 : Dword) : (s.trapRun k r c m d0 d1 d2).agenda = s.agenda := rfl
@[simp] theorem State.trapRun_turns (s : State) (k : Nat) (r : Run) (c : Cause) (m : Lanes) (d0 d1 d2 : Dword) : (s.trapRun k r c m d0 d1 d2).turns = s.turns := rfl
@[simp] theorem State.trapRun_fresh (s : State) (k : Nat) (r : Run) (c : Cause) (m : Lanes) (d0 d1 d2 : Dword) : (s.trapRun k r c m d0 d1 d2).fresh = s.fresh := rfl
@[simp] theorem State.trapRun_free (s : State) (k : Nat) (r : Run) (c : Cause) (m : Lanes) (d0 d1 d2 : Dword) : (s.trapRun k r c m d0 d1 d2).free = s.free := rfl
@[simp] theorem State.trapRun_mems (s : State) (k : Nat) (r : Run) (c : Cause) (m : Lanes) (d0 d1 d2 : Dword) : (s.trapRun k r c m d0 d1 d2).mems = s.mems := rfl
@[simp] theorem State.trapRun_store (s : State) (k : Nat) (r : Run) (c : Cause) (m : Lanes) (d0 d1 d2 : Dword) : (s.trapRun k r c m d0 d1 d2).store = s.store := rfl
@[simp] theorem State.trapRun_ctxs (s : State) (k : Nat) (r : Run) (c : Cause) (m : Lanes) (d0 d1 d2 : Dword) : (s.trapRun k r c m d0 d1 d2).ctxs = s.ctxs := rfl
@[simp] theorem State.trapRun_blocks (s : State) (k : Nat) (r : Run) (c : Cause) (m : Lanes) (d0 d1 d2 : Dword) : (s.trapRun k r c m d0 d1 d2).blocks = s.blocks := rfl
@[simp] theorem State.trapRun_launches (s : State) (k : Nat) (r : Run) (c : Cause) (m : Lanes) (d0 d1 d2 : Dword) : (s.trapRun k r c m d0 d1 d2).launches = s.launches := rfl
@[simp] theorem State.trapRun_lastLaunch (s : State) (k : Nat) (r : Run) (c : Cause) (m : Lanes) (d0 d1 d2 : Dword) : (s.trapRun k r c m d0 d1 d2).lastLaunch = s.lastLaunch := rfl
@[simp] theorem State.trapRun_cores (s : State) (k : Nat) (r : Run) (c : Cause) (m : Lanes) (d0 d1 d2 : Dword) : (s.trapRun k r c m d0 d1 d2).cores = s.cores := rfl
@[simp] theorem State.trapRun_clusters (s : State) (k : Nat) (r : Run) (c : Cause) (m : Lanes) (d0 d1 d2 : Dword) : (s.trapRun k r c m d0 d1 d2).clusters = s.clusters := rfl
@[simp] theorem State.trapRun_dies (s : State) (k : Nat) (r : Run) (c : Cause) (m : Lanes) (d0 d1 d2 : Dword) : (s.trapRun k r c m d0 d1 d2).dies = s.dies := rfl
@[simp] theorem State.trapRun_stks (s : State) (k : Nat) (r : Run) (c : Cause) (m : Lanes) (d0 d1 d2 : Dword) : (s.trapRun k r c m d0 d1 d2).stks = s.stks := rfl
@[simp] theorem State.trapRun_chans (s : State) (k : Nat) (r : Run) (c : Cause) (m : Lanes) (d0 d1 d2 : Dword) : (s.trapRun k r c m d0 d1 d2).chans = s.chans := rfl
@[simp] theorem State.trapRun_ops (s : State) (k : Nat) (r : Run) (c : Cause) (m : Lanes) (d0 d1 d2 : Dword) : (s.trapRun k r c m d0 d1 d2).ops = s.ops := rfl
@[simp] theorem State.trapRun_aops (s : State) (k : Nat) (r : Run) (c : Cause) (m : Lanes) (d0 d1 d2 : Dword) : (s.trapRun k r c m d0 d1 d2).aops = s.aops := rfl
@[simp] theorem State.trapRun_bars (s : State) (k : Nat) (r : Run) (c : Cause) (m : Lanes) (d0 d1 d2 : Dword) : (s.trapRun k r c m d0 d1 d2).bars = s.bars := rfl
@[simp] theorem State.trapRun_pkts (s : State) (k : Nat) (r : Run) (c : Cause) (m : Lanes) (d0 d1 d2 : Dword) : (s.trapRun k r c m d0 d1 d2).pkts = s.pkts := rfl
@[simp] theorem State.trapRun_waiters (s : State) (k : Nat) (r : Run) (c : Cause) (m : Lanes) (d0 d1 d2 : Dword) : (s.trapRun k r c m d0 d1 d2).waiters = s.waiters := rfl
@[simp] theorem State.trapRun_migs (s : State) (k : Nat) (r : Run) (c : Cause) (m : Lanes) (d0 d1 d2 : Dword) : (s.trapRun k r c m d0 d1 d2).migs = s.migs := rfl
@[simp] theorem State.trapRun_cqs (s : State) (k : Nat) (r : Run) (c : Cause) (m : Lanes) (d0 d1 d2 : Dword) : (s.trapRun k r c m d0 d1 d2).cqs = s.cqs := rfl
@[simp] theorem State.trapRun_hosts (s : State) (k : Nat) (r : Run) (c : Cause) (m : Lanes) (d0 d1 d2 : Dword) : (s.trapRun k r c m d0 d1 d2).hosts = s.hosts := rfl
@[simp] theorem State.trapRun_links (s : State) (k : Nat) (r : Run) (c : Cause) (m : Lanes) (d0 d1 d2 : Dword) : (s.trapRun k r c m d0 d1 d2).links = s.links := rfl
@[simp] theorem State.trapRun_routes (s : State) (k : Nat) (r : Run) (c : Cause) (m : Lanes) (d0 d1 d2 : Dword) : (s.trapRun k r c m d0 d1 d2).routes = s.routes := rfl
@[simp] theorem State.trapRun_outbox (s : State) (k : Nat) (r : Run) (c : Cause) (m : Lanes) (d0 d1 d2 : Dword) : (s.trapRun k r c m d0 d1 d2).outbox = s.outbox := rfl
@[simp] theorem State.trapRun_inbox (s : State) (k : Nat) (r : Run) (c : Cause) (m : Lanes) (d0 d1 d2 : Dword) : (s.trapRun k r c m d0 d1 d2).inbox = s.inbox := rfl
@[simp] theorem State.trapRun_held (s : State) (k : Nat) (r : Run) (c : Cause) (m : Lanes) (d0 d1 d2 : Dword) : (s.trapRun k r c m d0 d1 d2).held = s.held := rfl
@[simp] theorem State.trapRun_heard (s : State) (k : Nat) (r : Run) (c : Cause) (m : Lanes) (d0 d1 d2 : Dword) : (s.trapRun k r c m d0 d1 d2).heard = s.heard := rfl
@[simp] theorem State.trapRun_lost (s : State) (k : Nat) (r : Run) (c : Cause) (m : Lanes) (d0 d1 d2 : Dword) : (s.trapRun k r c m d0 d1 d2).lost = s.lost := rfl
@[simp] theorem State.trapRun_trace (s : State) (k : Nat) (r : Run) (c : Cause) (m : Lanes) (d0 d1 d2 : Dword) : (s.trapRun k r c m d0 d1 d2).trace = s.trace := rfl
@[simp] theorem State.trapRun_ckpt (s : State) (k : Nat) (r : Run) (c : Cause) (m : Lanes) (d0 d1 d2 : Dword) : (s.trapRun k r c m d0 d1 d2).ckpt = s.ckpt := rfl
@[simp] theorem State.trapRun_sys (s : State) (k : Nat) (r : Run) (c : Cause) (m : Lanes) (d0 d1 d2 : Dword) : (s.trapRun k r c m d0 d1 d2).sys = s.sys := rfl

@[simp] theorem State.trapPlain_pcc (s : State) (k : Nat) (r : Run) (c : Cause) : (s.trapPlain k r c).pcc = s.pcc := rfl
@[simp] theorem State.trapPlain_issuer (s : State) (k : Nat) (r : Run) (c : Cause) : (s.trapPlain k r c).issuer = s.issuer := rfl
@[simp] theorem State.trapPlain_agenda (s : State) (k : Nat) (r : Run) (c : Cause) : (s.trapPlain k r c).agenda = s.agenda := rfl
@[simp] theorem State.trapPlain_turns (s : State) (k : Nat) (r : Run) (c : Cause) : (s.trapPlain k r c).turns = s.turns := rfl
@[simp] theorem State.trapPlain_fresh (s : State) (k : Nat) (r : Run) (c : Cause) : (s.trapPlain k r c).fresh = s.fresh := rfl
@[simp] theorem State.trapPlain_free (s : State) (k : Nat) (r : Run) (c : Cause) : (s.trapPlain k r c).free = s.free := rfl
@[simp] theorem State.trapPlain_mems (s : State) (k : Nat) (r : Run) (c : Cause) : (s.trapPlain k r c).mems = s.mems := rfl
@[simp] theorem State.trapPlain_store (s : State) (k : Nat) (r : Run) (c : Cause) : (s.trapPlain k r c).store = s.store := rfl
@[simp] theorem State.trapPlain_ctxs (s : State) (k : Nat) (r : Run) (c : Cause) : (s.trapPlain k r c).ctxs = s.ctxs := rfl
@[simp] theorem State.trapPlain_blocks (s : State) (k : Nat) (r : Run) (c : Cause) : (s.trapPlain k r c).blocks = s.blocks := rfl
@[simp] theorem State.trapPlain_launches (s : State) (k : Nat) (r : Run) (c : Cause) : (s.trapPlain k r c).launches = s.launches := rfl
@[simp] theorem State.trapPlain_lastLaunch (s : State) (k : Nat) (r : Run) (c : Cause) : (s.trapPlain k r c).lastLaunch = s.lastLaunch := rfl
@[simp] theorem State.trapPlain_cores (s : State) (k : Nat) (r : Run) (c : Cause) : (s.trapPlain k r c).cores = s.cores := rfl
@[simp] theorem State.trapPlain_clusters (s : State) (k : Nat) (r : Run) (c : Cause) : (s.trapPlain k r c).clusters = s.clusters := rfl
@[simp] theorem State.trapPlain_dies (s : State) (k : Nat) (r : Run) (c : Cause) : (s.trapPlain k r c).dies = s.dies := rfl
@[simp] theorem State.trapPlain_stks (s : State) (k : Nat) (r : Run) (c : Cause) : (s.trapPlain k r c).stks = s.stks := rfl
@[simp] theorem State.trapPlain_chans (s : State) (k : Nat) (r : Run) (c : Cause) : (s.trapPlain k r c).chans = s.chans := rfl
@[simp] theorem State.trapPlain_ops (s : State) (k : Nat) (r : Run) (c : Cause) : (s.trapPlain k r c).ops = s.ops := rfl
@[simp] theorem State.trapPlain_aops (s : State) (k : Nat) (r : Run) (c : Cause) : (s.trapPlain k r c).aops = s.aops := rfl
@[simp] theorem State.trapPlain_bars (s : State) (k : Nat) (r : Run) (c : Cause) : (s.trapPlain k r c).bars = s.bars := rfl
@[simp] theorem State.trapPlain_pkts (s : State) (k : Nat) (r : Run) (c : Cause) : (s.trapPlain k r c).pkts = s.pkts := rfl
@[simp] theorem State.trapPlain_waiters (s : State) (k : Nat) (r : Run) (c : Cause) : (s.trapPlain k r c).waiters = s.waiters := rfl
@[simp] theorem State.trapPlain_migs (s : State) (k : Nat) (r : Run) (c : Cause) : (s.trapPlain k r c).migs = s.migs := rfl
@[simp] theorem State.trapPlain_cqs (s : State) (k : Nat) (r : Run) (c : Cause) : (s.trapPlain k r c).cqs = s.cqs := rfl
@[simp] theorem State.trapPlain_hosts (s : State) (k : Nat) (r : Run) (c : Cause) : (s.trapPlain k r c).hosts = s.hosts := rfl
@[simp] theorem State.trapPlain_links (s : State) (k : Nat) (r : Run) (c : Cause) : (s.trapPlain k r c).links = s.links := rfl
@[simp] theorem State.trapPlain_routes (s : State) (k : Nat) (r : Run) (c : Cause) : (s.trapPlain k r c).routes = s.routes := rfl
@[simp] theorem State.trapPlain_outbox (s : State) (k : Nat) (r : Run) (c : Cause) : (s.trapPlain k r c).outbox = s.outbox := rfl
@[simp] theorem State.trapPlain_inbox (s : State) (k : Nat) (r : Run) (c : Cause) : (s.trapPlain k r c).inbox = s.inbox := rfl
@[simp] theorem State.trapPlain_held (s : State) (k : Nat) (r : Run) (c : Cause) : (s.trapPlain k r c).held = s.held := rfl
@[simp] theorem State.trapPlain_heard (s : State) (k : Nat) (r : Run) (c : Cause) : (s.trapPlain k r c).heard = s.heard := rfl
@[simp] theorem State.trapPlain_lost (s : State) (k : Nat) (r : Run) (c : Cause) : (s.trapPlain k r c).lost = s.lost := rfl
@[simp] theorem State.trapPlain_trace (s : State) (k : Nat) (r : Run) (c : Cause) : (s.trapPlain k r c).trace = s.trace := rfl
@[simp] theorem State.trapPlain_ckpt (s : State) (k : Nat) (r : Run) (c : Cause) : (s.trapPlain k r c).ckpt = s.ckpt := rfl
@[simp] theorem State.trapPlain_sys (s : State) (k : Nat) (r : Run) (c : Cause) : (s.trapPlain k r c).sys = s.sys := rfl

@[simp] theorem State.padWrite_pcc (s : State) (sp : Space) (k n v : Nat) : (s.padWrite sp k n v).pcc = s.pcc := rfl
@[simp] theorem State.padWrite_issuer (s : State) (sp : Space) (k n v : Nat) : (s.padWrite sp k n v).issuer = s.issuer := rfl
@[simp] theorem State.padWrite_agenda (s : State) (sp : Space) (k n v : Nat) : (s.padWrite sp k n v).agenda = s.agenda := rfl
@[simp] theorem State.padWrite_turns (s : State) (sp : Space) (k n v : Nat) : (s.padWrite sp k n v).turns = s.turns := rfl
@[simp] theorem State.padWrite_fresh (s : State) (sp : Space) (k n v : Nat) : (s.padWrite sp k n v).fresh = s.fresh := rfl
@[simp] theorem State.padWrite_free (s : State) (sp : Space) (k n v : Nat) : (s.padWrite sp k n v).free = s.free := rfl
@[simp] theorem State.padWrite_store (s : State) (sp : Space) (k n v : Nat) : (s.padWrite sp k n v).store = s.store := rfl
@[simp] theorem State.padWrite_ctxs (s : State) (sp : Space) (k n v : Nat) : (s.padWrite sp k n v).ctxs = s.ctxs := rfl
@[simp] theorem State.padWrite_groups (s : State) (sp : Space) (k n v : Nat) : (s.padWrite sp k n v).groups = s.groups := rfl
@[simp] theorem State.padWrite_blocks (s : State) (sp : Space) (k n v : Nat) : (s.padWrite sp k n v).blocks = s.blocks := rfl
@[simp] theorem State.padWrite_launches (s : State) (sp : Space) (k n v : Nat) : (s.padWrite sp k n v).launches = s.launches := rfl
@[simp] theorem State.padWrite_lastLaunch (s : State) (sp : Space) (k n v : Nat) : (s.padWrite sp k n v).lastLaunch = s.lastLaunch := rfl
@[simp] theorem State.padWrite_cores (s : State) (sp : Space) (k n v : Nat) : (s.padWrite sp k n v).cores = s.cores := rfl
@[simp] theorem State.padWrite_clusters (s : State) (sp : Space) (k n v : Nat) : (s.padWrite sp k n v).clusters = s.clusters := rfl
@[simp] theorem State.padWrite_dies (s : State) (sp : Space) (k n v : Nat) : (s.padWrite sp k n v).dies = s.dies := rfl
@[simp] theorem State.padWrite_stks (s : State) (sp : Space) (k n v : Nat) : (s.padWrite sp k n v).stks = s.stks := rfl
@[simp] theorem State.padWrite_chans (s : State) (sp : Space) (k n v : Nat) : (s.padWrite sp k n v).chans = s.chans := rfl
@[simp] theorem State.padWrite_ops (s : State) (sp : Space) (k n v : Nat) : (s.padWrite sp k n v).ops = s.ops := rfl
@[simp] theorem State.padWrite_aops (s : State) (sp : Space) (k n v : Nat) : (s.padWrite sp k n v).aops = s.aops := rfl
@[simp] theorem State.padWrite_bars (s : State) (sp : Space) (k n v : Nat) : (s.padWrite sp k n v).bars = s.bars := rfl
@[simp] theorem State.padWrite_pkts (s : State) (sp : Space) (k n v : Nat) : (s.padWrite sp k n v).pkts = s.pkts := rfl
@[simp] theorem State.padWrite_waiters (s : State) (sp : Space) (k n v : Nat) : (s.padWrite sp k n v).waiters = s.waiters := rfl
@[simp] theorem State.padWrite_migs (s : State) (sp : Space) (k n v : Nat) : (s.padWrite sp k n v).migs = s.migs := rfl
@[simp] theorem State.padWrite_cqs (s : State) (sp : Space) (k n v : Nat) : (s.padWrite sp k n v).cqs = s.cqs := rfl
@[simp] theorem State.padWrite_hosts (s : State) (sp : Space) (k n v : Nat) : (s.padWrite sp k n v).hosts = s.hosts := rfl
@[simp] theorem State.padWrite_links (s : State) (sp : Space) (k n v : Nat) : (s.padWrite sp k n v).links = s.links := rfl
@[simp] theorem State.padWrite_routes (s : State) (sp : Space) (k n v : Nat) : (s.padWrite sp k n v).routes = s.routes := rfl
@[simp] theorem State.padWrite_outbox (s : State) (sp : Space) (k n v : Nat) : (s.padWrite sp k n v).outbox = s.outbox := rfl
@[simp] theorem State.padWrite_inbox (s : State) (sp : Space) (k n v : Nat) : (s.padWrite sp k n v).inbox = s.inbox := rfl
@[simp] theorem State.padWrite_held (s : State) (sp : Space) (k n v : Nat) : (s.padWrite sp k n v).held = s.held := rfl
@[simp] theorem State.padWrite_heard (s : State) (sp : Space) (k n v : Nat) : (s.padWrite sp k n v).heard = s.heard := rfl
@[simp] theorem State.padWrite_lost (s : State) (sp : Space) (k n v : Nat) : (s.padWrite sp k n v).lost = s.lost := rfl
@[simp] theorem State.padWrite_trace (s : State) (sp : Space) (k n v : Nat) : (s.padWrite sp k n v).trace = s.trace := rfl
@[simp] theorem State.padWrite_ckpt (s : State) (sp : Space) (k n v : Nat) : (s.padWrite sp k n v).ckpt = s.ckpt := rfl
@[simp] theorem State.padWrite_sys (s : State) (sp : Space) (k n v : Nat) : (s.padWrite sp k n v).sys = s.sys := rfl

@[simp] theorem State.padWriteBytes_pcc (s : State) (sp : Space) (k : Nat) (bs : List Byte) : (s.padWriteBytes sp k bs).pcc = s.pcc := rfl
@[simp] theorem State.padWriteBytes_issuer (s : State) (sp : Space) (k : Nat) (bs : List Byte) : (s.padWriteBytes sp k bs).issuer = s.issuer := rfl
@[simp] theorem State.padWriteBytes_agenda (s : State) (sp : Space) (k : Nat) (bs : List Byte) : (s.padWriteBytes sp k bs).agenda = s.agenda := rfl
@[simp] theorem State.padWriteBytes_turns (s : State) (sp : Space) (k : Nat) (bs : List Byte) : (s.padWriteBytes sp k bs).turns = s.turns := rfl
@[simp] theorem State.padWriteBytes_fresh (s : State) (sp : Space) (k : Nat) (bs : List Byte) : (s.padWriteBytes sp k bs).fresh = s.fresh := rfl
@[simp] theorem State.padWriteBytes_free (s : State) (sp : Space) (k : Nat) (bs : List Byte) : (s.padWriteBytes sp k bs).free = s.free := rfl
@[simp] theorem State.padWriteBytes_store (s : State) (sp : Space) (k : Nat) (bs : List Byte) : (s.padWriteBytes sp k bs).store = s.store := rfl
@[simp] theorem State.padWriteBytes_ctxs (s : State) (sp : Space) (k : Nat) (bs : List Byte) : (s.padWriteBytes sp k bs).ctxs = s.ctxs := rfl
@[simp] theorem State.padWriteBytes_groups (s : State) (sp : Space) (k : Nat) (bs : List Byte) : (s.padWriteBytes sp k bs).groups = s.groups := rfl
@[simp] theorem State.padWriteBytes_blocks (s : State) (sp : Space) (k : Nat) (bs : List Byte) : (s.padWriteBytes sp k bs).blocks = s.blocks := rfl
@[simp] theorem State.padWriteBytes_launches (s : State) (sp : Space) (k : Nat) (bs : List Byte) : (s.padWriteBytes sp k bs).launches = s.launches := rfl
@[simp] theorem State.padWriteBytes_lastLaunch (s : State) (sp : Space) (k : Nat) (bs : List Byte) : (s.padWriteBytes sp k bs).lastLaunch = s.lastLaunch := rfl
@[simp] theorem State.padWriteBytes_cores (s : State) (sp : Space) (k : Nat) (bs : List Byte) : (s.padWriteBytes sp k bs).cores = s.cores := rfl
@[simp] theorem State.padWriteBytes_clusters (s : State) (sp : Space) (k : Nat) (bs : List Byte) : (s.padWriteBytes sp k bs).clusters = s.clusters := rfl
@[simp] theorem State.padWriteBytes_dies (s : State) (sp : Space) (k : Nat) (bs : List Byte) : (s.padWriteBytes sp k bs).dies = s.dies := rfl
@[simp] theorem State.padWriteBytes_stks (s : State) (sp : Space) (k : Nat) (bs : List Byte) : (s.padWriteBytes sp k bs).stks = s.stks := rfl
@[simp] theorem State.padWriteBytes_chans (s : State) (sp : Space) (k : Nat) (bs : List Byte) : (s.padWriteBytes sp k bs).chans = s.chans := rfl
@[simp] theorem State.padWriteBytes_ops (s : State) (sp : Space) (k : Nat) (bs : List Byte) : (s.padWriteBytes sp k bs).ops = s.ops := rfl
@[simp] theorem State.padWriteBytes_aops (s : State) (sp : Space) (k : Nat) (bs : List Byte) : (s.padWriteBytes sp k bs).aops = s.aops := rfl
@[simp] theorem State.padWriteBytes_bars (s : State) (sp : Space) (k : Nat) (bs : List Byte) : (s.padWriteBytes sp k bs).bars = s.bars := rfl
@[simp] theorem State.padWriteBytes_pkts (s : State) (sp : Space) (k : Nat) (bs : List Byte) : (s.padWriteBytes sp k bs).pkts = s.pkts := rfl
@[simp] theorem State.padWriteBytes_waiters (s : State) (sp : Space) (k : Nat) (bs : List Byte) : (s.padWriteBytes sp k bs).waiters = s.waiters := rfl
@[simp] theorem State.padWriteBytes_migs (s : State) (sp : Space) (k : Nat) (bs : List Byte) : (s.padWriteBytes sp k bs).migs = s.migs := rfl
@[simp] theorem State.padWriteBytes_cqs (s : State) (sp : Space) (k : Nat) (bs : List Byte) : (s.padWriteBytes sp k bs).cqs = s.cqs := rfl
@[simp] theorem State.padWriteBytes_hosts (s : State) (sp : Space) (k : Nat) (bs : List Byte) : (s.padWriteBytes sp k bs).hosts = s.hosts := rfl
@[simp] theorem State.padWriteBytes_links (s : State) (sp : Space) (k : Nat) (bs : List Byte) : (s.padWriteBytes sp k bs).links = s.links := rfl
@[simp] theorem State.padWriteBytes_routes (s : State) (sp : Space) (k : Nat) (bs : List Byte) : (s.padWriteBytes sp k bs).routes = s.routes := rfl
@[simp] theorem State.padWriteBytes_outbox (s : State) (sp : Space) (k : Nat) (bs : List Byte) : (s.padWriteBytes sp k bs).outbox = s.outbox := rfl
@[simp] theorem State.padWriteBytes_inbox (s : State) (sp : Space) (k : Nat) (bs : List Byte) : (s.padWriteBytes sp k bs).inbox = s.inbox := rfl
@[simp] theorem State.padWriteBytes_held (s : State) (sp : Space) (k : Nat) (bs : List Byte) : (s.padWriteBytes sp k bs).held = s.held := rfl
@[simp] theorem State.padWriteBytes_heard (s : State) (sp : Space) (k : Nat) (bs : List Byte) : (s.padWriteBytes sp k bs).heard = s.heard := rfl
@[simp] theorem State.padWriteBytes_lost (s : State) (sp : Space) (k : Nat) (bs : List Byte) : (s.padWriteBytes sp k bs).lost = s.lost := rfl
@[simp] theorem State.padWriteBytes_trace (s : State) (sp : Space) (k : Nat) (bs : List Byte) : (s.padWriteBytes sp k bs).trace = s.trace := rfl
@[simp] theorem State.padWriteBytes_ckpt (s : State) (sp : Space) (k : Nat) (bs : List Byte) : (s.padWriteBytes sp k bs).ckpt = s.ckpt := rfl
@[simp] theorem State.padWriteBytes_sys (s : State) (sp : Space) (k : Nat) (bs : List Byte) : (s.padWriteBytes sp k bs).sys = s.sys := rfl

@[simp] theorem State.setMems_mems (s : State) (x : Mems) : (s.setMems x).mems = x := rfl
@[simp] theorem State.setStore_store (s : State) (x : Store) : (s.setStore x).store = x := rfl

end Sys2Proof.Machine
end

