-- ==== Sys2Proof/Laws/Words.lean ====
section
/-! SUPPORT. What a word of a group can do: the shared frame of execution said once (R41, R48, R68). -/

namespace Sys2Proof.Machine

theorem FMap.set_set {α : Type} (m : FMap α) (k : Nat) (a b : α) : FMap.set (FMap.set m k a) k b = FMap.set m k b := by
  induction m with
  | nil => simp [FMap.set]
  | cons c m ih =>
    obtain ⟨k', a'⟩ := c
    by_cases h1 : k = k'
    · simp [FMap.set, h1]
    · by_cases h2 : k < k'
      · simp [FMap.set, h1, h2]
      · simp [FMap.set, h1, h2, ih]

theorem FMap.modify_set {α : Type} (m : FMap α) (k : Nat) (a : α) (f : α → α) :
    FMap.modify (FMap.set m k a) k f = FMap.set m k (f a) := by
  simp [FMap.modify, FMap.set_set]

@[simp] theorem State.grp_setGrp_self (s : State) (k : Nat) (g : Group) : (s.setGrp k g).grp k = some g := FMap.get?_set_self _ _ _

theorem State.grp_setGrp_ne (s : State) {k j : Nat} (g : Group) (h : j ≠ k) : (s.setGrp k g).grp j = s.grp j := FMap.get?_set_ne _ _ h

theorem State.setGrp_setGrp (s : State) (k : Nat) (g g' : Group) : (s.setGrp k g).setGrp k g' = s.setGrp k g' := by
  simp [State.setGrp, FMap.set_set]

theorem State.modGrp_eq (s : State) (k : Nat) (g : Group) (f : Group → Group) (h : s.grp k = some g) : s.modGrp k f = s.setGrp k (f g) := by
  unfold State.grp at h
  simp [State.modGrp, State.setGrp, FMap.modify, h]

theorem State.modGrp_setGrp (s : State) (k : Nat) (g : Group) (f : Group → Group) : (s.setGrp k g).modGrp k f = s.setGrp k (f g) := by
  rw [State.modGrp_eq _ _ g _ (State.grp_setGrp_self s k g), State.setGrp_setGrp]

theorem State.advance_setGrp (s : State) (k : Nat) (g : Group) (second : Bool) (n : Nat) :
    (s.setGrp k g).advance k second n = s.setGrp k (g.moved second n) := State.modGrp_setGrp _ _ _ _

/-- A word that has its effect: what it gives, if its run is still there and free afterwards, moved on. -/
theorem groupWord_runs {b : Body} {n : Nat} {s : State} {gid : Nat} {second : Bool} {g : Group} {r : Run} (h : Runs b s gid second g r)
    (eff : Nat → Bool → Group → Run → State → State) (g' : Group) (r' : Run) (hg : (eff gid second g r s).grp gid = some g')
    (hr : g'.runOn second = some r') (hw : r'.wait = .none) :
    groupWord b n s eff = .next ((eff gid second g r s).advance gid second n) := by
  have hp : (privBody b && !g.priv) = false := by
    cases hb : privBody b
    · rfl
    · simp [h.allowed hb]
  simp [groupWord, h.issuer, h.here, h.run, hp, h.good, h.guard, hg, hr, hw]

/-- A word that changes only its group. -/
theorem groupOnly_runs {b : Body} {n : Nat} {s : State} {gid : Nat} {second : Bool} {g : Group} {r : Run} (h : Runs b s gid second g r)
    (f : Group → Run → State → Group) (hf : (f g r s).runOn second = g.runOn second) :
    groupOnly b n s f = .next (s.setGrp gid ((f g r s).moved second n)) := by
  unfold groupOnly
  rw [groupWord_runs h _ (f g r s) r (State.grp_setGrp_self ..) (by rw [hf, h.run]) h.free, State.advance_setGrp]

/-- A group word always gives a next state while its issuer is there. -/
theorem groupWord_next {b : Body} {n : Nat} {s : State} {eff : Nat → Bool → Group → Run → State → State} {gid : Nat} {second : Bool} {g : Group}
    {r : Run} (hi : s.issuer = .group gid second) (hg : s.grp gid = some g) (hr : g.runOn second = some r) :
    ∃ t, groupWord b n s eff = .next t := by
  simp only [groupWord, hi, hg, hr]
  repeat' split
  all_goals exact ⟨_, rfl⟩

/-- A word whose guard is false, in a context that may run it, is a no-op (R48). -/
theorem groupWord_guard_false {b : Body} {n : Nat} {s : State} {eff : Nat → Bool → Group → Run → State → State} {gid : Nat} {second : Bool}
    {g : Group} {r : Run} (h : Asked s gid second g r) (hb : b.good = true) (hp : privBody b = true → g.priv = true)
    (hg : guardTrue b.hdr g = false) : groupWord b n s eff = .next (s.advance gid second n) := by
  have hp : (privBody b && !g.priv) = false := by
    cases hb : privBody b
    · rfl
    · simp [hp hb]
  simp [groupWord, h.issuer, h.here, h.run, hp, hb, hg]

/-- A privileged word in an unprivileged context traps PRIV (R68). -/
theorem groupWord_priv {b : Body} {n : Nat} {s : State} {eff : Nat → Bool → Group → Run → State → State} {gid : Nat} {second : Bool}
    {g : Group} {r : Run} (h : Asked s gid second g r) (hb : privBody b = true) (hp : g.priv = false) :
    groupWord b n s eff = .next (s.trapPlain gid r .priv) := by
  simp [groupWord, h.issuer, h.here, h.run, hb, hp]

/-- A per-lane word of the type's width: the group it gives, what the destination reads in each lane of the mask, and its flags (R43, R93, R136). -/
theorem laneWord_runs {o : Nat} {w : Alu} {row : AluRow} (hr : aluRow o = some row) (hd : row.d = kD) {s : State} {gid : Nat} {second : Bool}
    {g : Group} {r : Run} (h : Runs (.alu o w) s gid second g r) (f : Group → Nat → LaneRes) :
    ∃ g', laneWord o w s f = .next (s.afterWord gid second g') ∧ g'.fpstat = g.fpstat ||| laneFlags r.mask (f g) ∧
      ∀ l < 64, r.mask.getLsbD l = true →
        readLane g'.regs w.ty w.d l = if is64 w.ty then (f g l).1 else ((f g l).1.setWidth 32).setWidth 64 := by
  have G := (alu_good hr h.good).2.2.2.2.2.2.1
  rw [hd] at G
  exact ⟨_, groupOnly_runs h _ rfl, rfl, fun l hl hm => readLane_writeLanes g.regs r.mask w.ty w.d _ l hl hm (vxOk_one G)⟩

/-- A per-lane word that writes one 32-bit register (R140, R151). -/
theorem laneWord32_runs {o : Nat} {w : Alu} {row : AluRow} (hr : aluRow o = some row) (hd : row.d.1 = .vx) {s : State} {gid : Nat}
    {second : Bool} {g : Group} {r : Run} (h : Runs (.alu o w) s gid second g r) (f : Group → Nat → LaneRes) :
    ∃ g', laneWord32 o w s f = .next (s.afterWord gid second g') ∧ g'.fpstat = g.fpstat ||| laneFlags r.mask (f g) ∧
      ∀ l < 64, r.mask.getLsbD l = true → readLane g'.regs .b32 w.d l = ((f g l).1.setWidth 32).setWidth 64 := by
  have G := (alu_good hr h.good).2.2.2.2.2.2.1
  rw [hd] at G
  exact ⟨_, groupOnly_runs h _ rfl, rfl, fun l hl hm => readLane_writeLanes g.regs r.mask .b32 w.d _ l hl hm (vxOk_one G)⟩

/-- Flags of lanes that raise none. -/
theorem laneFlags_zero (m : Lanes) (f : Nat → LaneRes) (h : ∀ l, (f l).2 = 0) : laneFlags m f = 0 := by
  unfold laneFlags
  have : ∀ ls : List Nat, ls.foldl (fun acc l => acc ||| (f l).2) (0 : Flags) = 0 := by
    intro ls
    induction ls with
    | nil => rfl
    | cons a ls ih => rw [List.foldl_cons, h a]; exact ih
  exact this _

/-- A flag is raised exactly where a lane of the mask raises it (R93, R136). -/
theorem getLsbD_laneFlags (m : Lanes) (f : Nat → LaneRes) (k : Nat) :
    (laneFlags m f).getLsbD k = true ↔ ∃ l < 64, m.getLsbD l = true ∧ (f l).2.getLsbD k = true := by
  have key : ∀ (ls : List Nat) (acc : Flags), (ls.foldl (fun acc l => acc ||| (f l).2) acc).getLsbD k = true ↔
      acc.getLsbD k = true ∨ ∃ l ∈ ls, (f l).2.getLsbD k = true := by
    intro ls
    induction ls with
    | nil => intro acc; simp
    | cons a ls ih => intro acc; rw [List.foldl_cons, ih, BitVec.getLsbD_or, Bool.or_eq_true, List.exists_mem_cons_iff, or_assoc]
  unfold laneFlags
  rw [key]
  simp [mem_lanesOf, and_assoc]

end Sys2Proof.Machine
end

