-- ==== Sys2Proof/Laws/Agents.lean ====
section
/-! SUPPORT. What the shared operations of the other agents can do: sequencer words, micro-ops, packets, writes of the register window, traps, futures, and the
byte memories behind scratchpad accesses. -/

namespace Sys2Proof.Machine

/-! Traps of a run (R186, R187). -/

theorem State.trapRun_eq (s : State) (gid : Nat) (g : Group) (r : Run) (c : Cause) (lanes : Lanes) (d0 d1 d2 : Dword) (h : s.grp gid = some g) :
    s.trapRun gid r c lanes d0 d1 d2 = s.afterTrap gid g (trapOf r c lanes d0 d1 d2) := State.modGrp_eq s gid g _ h

theorem State.trapPlain_eq (s : State) (gid : Nat) (g : Group) (r : Run) (c : Cause) (h : s.grp gid = some g) :
    s.trapPlain gid r c = s.afterTrap gid g (trapOf r c r.mask 0 0 0) := State.trapRun_eq s gid g r c _ _ _ _ h

/-! Sequencer words (R277, R278): a word of a live stream that its row accepts and whose registers are not pending has its effect. -/

theorem seqWord_of_live {b : Body} {s : State} {f : Nat → Seq → SeqRes} {cl : Nat} (hi : s.issuer = .seq cl) (hl : s.seqLive cl = true)
    (hg : b.good = true) (hp : ∀ r ∈ seqRegs b, r ∉ (s.seqOf cl).pending) :
    seqWord b s f = match f cl (s.seqOf cl) with
      | .wait => .next s
      | .go t => .next (t.seqStep cl ((s.seqOf cl).spc + 12))
      | .jump t pc => .next (t.seqStep cl pc)
      | .park t => .next t
      | .trap t c d0 => .next (t.seqTrapAt cl c false (s.seqOf cl).spc d0)
      | .stop => .next ((s.seqStep cl (s.seqOf cl).spc).seqEnd cl .none none) := by
  have h : (seqRegs b).any (fun r => decide (r ∈ (s.seqOf cl).pending)) = false := by
    rw [List.any_eq_false]; intro r hr; simpa using hp r hr
  simp only [seqWord, hi, hl, hg, h]
  cases f cl (s.seqOf cl) <;> rfl

theorem seqWord_next (b : Body) (s : State) (f : Nat → Seq → SeqRes) (cl : Nat) (hi : s.issuer = .seq cl) : ∃ t, seqWord b s f = .next t := by
  simp only [seqWord, hi]
  repeat' split
  all_goals exact ⟨_, rfl⟩

/-! Micro-ops (R239) and packets (R383). -/

theorem uop_of_running {s : State} {f : Nat → Slot → State → State} {core : Nat} (hi : s.issuer = .slot core) (hr : (s.slot core).st = .running)
    (hb : (s.slot core).begun = true) : uop s f = .next (f core (s.slot core) s) := by simp [uop, hi, hr, hb]

theorem uop_next (s : State) (f : Nat → Slot → State → State) (core : Nat) (hi : s.issuer = .slot core) : ∃ t, uop s f = .next t := by
  simp only [uop, hi]
  split
  all_goals exact ⟨_, rfl⟩

theorem queuePacket_of_queue {s : State} {f : Nat → Nat → State → State} {q : Nat} (hi : s.issuer = .queue q) :
    queuePacket s f = .next (f q (s.cq q).ctx.toNat s) := by simp [queuePacket, hi]

/-! Writes of the register window (R107, R401). -/

theorem windowWrite_prog (s : State) (f : State → State) : windowWrite .prog s f = .next (f s) := rfl

theorem windowWrite_owner {s : State} {f : State → State} {m : BitVec 3} {h : HostMaster} (hm : s.hosts.get? m.toNat = some h) (hf : h.frozen = false)
    (ho : s.sys.owner.toNat = m.toNat) : windowWrite (.host m) s f = .next (f s) := by simp [windowWrite, hm, hf, State.isOwner, ho]

theorem windowWrite_next (w : Writer) (s : State) (f : State → State) : ∃ t, windowWrite w s f = .next t := by
  cases w with
  | prog => exact ⟨_, rfl⟩
  | host m =>
    simp only [windowWrite]
    repeat' split
    all_goals exact ⟨_, rfl⟩

/-! Futures (R16 to R23). -/

/-- A future that is not PENDING is not resolved again. -/
theorem State.resolve_settled {s : State} {c : Nat} {x : Ctx} {tag : Nat} (st : FutSt) (hc : s.ctx? c = some x) (hp : (x.fut tag).st ≠ .pending) :
    s.resolve c tag st = s := by simp [State.resolve, hc, hp]

/-! Scratchpad bytes (R4, R98). -/

theorem Mems.wf_of (m : Mems) (sp : Space) (h : m.wf = true) : (m.of sp).wf = true := by
  simp only [Mems.wf, Bool.and_eq_true] at h
  obtain ⟨⟨⟨⟨hl, hc⟩, hd⟩, -⟩, -⟩ := h
  cases sp <;> first | exact hl | exact hc | exact hd | rfl

theorem Mems.wf_put (m : Mems) (sp : Space) (x : Memory) (h : m.wf = true) (hx : x.wf = true) : (m.put sp x).wf = true := by
  simp only [Mems.wf, Bool.and_eq_true] at h
  obtain ⟨⟨⟨⟨hl, hc⟩, hd⟩, hf⟩, hk⟩ := h
  cases sp <;> simp [Mems.put, Mems.wf, hl, hc, hd, hf, hk, hx]

theorem State.wf_padWrite (s : State) (sp : Space) (key n v : Nat) (h : s.mems.wf = true) : (s.padWrite sp key n v).mems.wf = true :=
  Mems.wf_put _ _ _ h (Memory.wf_writeLE _ _ _ _ (Mems.wf_of _ sp h))

theorem State.wf_padWriteBytes (s : State) (sp : Space) (key : Nat) (bs : List Byte) (h : s.mems.wf = true) :
    (s.padWriteBytes sp key bs).mems.wf = true := Mems.wf_put _ _ _ h (Memory.wf_writeBytes _ _ _ (Mems.wf_of _ sp h))

theorem State.reset_wf : State.reset.mems.wf = true := rfl

end Sys2Proof.Machine
end

