-- ==== Sys2Proof/Laws/PerInstr.lean ====
section
/-! SUPPORT. For each instruction: its opcode's row in the opcode map names it (Tables 2-13 to 2-19). -/

namespace Sys2Proof.Laws.Rows

open Sys2Proof.Machine (Body bodyOf)

/-- Opcodes that two instructions share: LANDC's roles, and CSRW with TRACE_FLUSH. -/
def shared (o : Nat) : Bool := o == 0x271 || o == 0x194

/-- The row of an instruction: its opcode stands in the map of its class and names the instruction; LOOPN has no row of one word; a micro-op, a packet and a step of
an engine or of the outside are no words of a stream. -/
def Statement (i : Instr) : Prop :=
  match bodyOf i with
  | .alu o w => ∃ mk, lookupOpc aluTable o = some mk ∧ mk w = i
  | .mem o w => ∃ mk, lookupOpc memTable o = some mk ∧ mk w = i
  | .ctl o w => ∃ mk, lookupOpc ctlTable o = some mk ∧ bodyOf (mk w) = bodyOf i ∧ (shared o = false → mk w = i)
  | .loop w => i = .loopn w ∧ (encode i).length = 3
  | .step => encode i = []

theorem iadd (w : Alu) : Statement (.iadd w) := ⟨_, rfl, rfl⟩
theorem isub (w : Alu) : Statement (.isub w) := ⟨_, rfl, rfl⟩
theorem iadds (w : Alu) : Statement (.iadds w) := ⟨_, rfl, rfl⟩
theorem isubs (w : Alu) : Statement (.isubs w) := ⟨_, rfl, rfl⟩
theorem imul (w : Alu) : Statement (.imul w) := ⟨_, rfl, rfl⟩
theorem imulhi (w : Alu) : Statement (.imulhi w) := ⟨_, rfl, rfl⟩
theorem imad (w : Alu) : Statement (.imad w) := ⟨_, rfl, rfl⟩
theorem ineg (w : Alu) : Statement (.ineg w) := ⟨_, rfl, rfl⟩
theorem iabs (w : Alu) : Statement (.iabs w) := ⟨_, rfl, rfl⟩
theorem imin (w : Alu) : Statement (.imin w) := ⟨_, rfl, rfl⟩
theorem imax (w : Alu) : Statement (.imax w) := ⟨_, rfl, rfl⟩
theorem ishl (w : Alu) : Statement (.ishl w) := ⟨_, rfl, rfl⟩
theorem ishr (w : Alu) : Statement (.ishr w) := ⟨_, rfl, rfl⟩
theorem isar (w : Alu) : Statement (.isar w) := ⟨_, rfl, rfl⟩
theorem irol (w : Alu) : Statement (.irol w) := ⟨_, rfl, rfl⟩
theorem ibfx (w : Alu) : Statement (.ibfx w) := ⟨_, rfl, rfl⟩
theorem ibfi (w : Alu) : Statement (.ibfi w) := ⟨_, rfl, rfl⟩
theorem popc (w : Alu) : Statement (.popc w) := ⟨_, rfl, rfl⟩
theorem clz (w : Alu) : Statement (.clz w) := ⟨_, rfl, rfl⟩
theorem brev (w : Alu) : Statement (.brev w) := ⟨_, rfl, rfl⟩
theorem andB (w : Alu) : Statement (.andB w) := ⟨_, rfl, rfl⟩
theorem orB (w : Alu) : Statement (.orB w) := ⟨_, rfl, rfl⟩
theorem xorB (w : Alu) : Statement (.xorB w) := ⟨_, rfl, rfl⟩
theorem notB (w : Alu) : Statement (.notB w) := ⟨_, rfl, rfl⟩
theorem andn (w : Alu) : Statement (.andn w) := ⟨_, rfl, rfl⟩
theorem bfn3 (w : Alu) : Statement (.bfn3 w) := ⟨_, rfl, rfl⟩
theorem icmp (w : Alu) : Statement (.icmp w) := ⟨_, rfl, rfl⟩
theorem fcmp (w : Alu) : Statement (.fcmp w) := ⟨_, rfl, rfl⟩
theorem sel (w : Alu) : Statement (.sel w) := ⟨_, rfl, rfl⟩
theorem clop (w : Alu) : Statement (.clop w) := ⟨_, rfl, rfl⟩
theorem mov (w : Alu) : Statement (.mov w) := ⟨_, rfl, rfl⟩
theorem movi (w : Alu) : Statement (.movi w) := ⟨_, rfl, rfl⟩
theorem movc (w : Alu) : Statement (.movc w) := ⟨_, rfl, rfl⟩
theorem fadd (w : Alu) : Statement (.fadd w) := ⟨_, rfl, rfl⟩
theorem fsub (w : Alu) : Statement (.fsub w) := ⟨_, rfl, rfl⟩
theorem fmul (w : Alu) : Statement (.fmul w) := ⟨_, rfl, rfl⟩
theorem ffma (w : Alu) : Statement (.ffma w) := ⟨_, rfl, rfl⟩
theorem fmin (w : Alu) : Statement (.fmin w) := ⟨_, rfl, rfl⟩
theorem fmax (w : Alu) : Statement (.fmax w) := ⟨_, rfl, rfl⟩
theorem fabs (w : Alu) : Statement (.fabs w) := ⟨_, rfl, rfl⟩
theorem fneg (w : Alu) : Statement (.fneg w) := ⟨_, rfl, rfl⟩
theorem fclass (w : Alu) : Statement (.fclass w) := ⟨_, rfl, rfl⟩
theorem frnd (w : Alu) : Statement (.frnd w) := ⟨_, rfl, rfl⟩
theorem pkadd (w : Alu) : Statement (.pkadd w) := ⟨_, rfl, rfl⟩
theorem pksub (w : Alu) : Statement (.pksub w) := ⟨_, rfl, rfl⟩
theorem pkmul (w : Alu) : Statement (.pkmul w) := ⟨_, rfl, rfl⟩
theorem pkfma (w : Alu) : Statement (.pkfma w) := ⟨_, rfl, rfl⟩
theorem pkmin (w : Alu) : Statement (.pkmin w) := ⟨_, rfl, rfl⟩
theorem pkmax (w : Alu) : Statement (.pkmax w) := ⟨_, rfl, rfl⟩
theorem pkdot (w : Alu) : Statement (.pkdot w) := ⟨_, rfl, rfl⟩
theorem cvt (w : Alu) : Statement (.cvt w) := ⟨_, rfl, rfl⟩
theorem pack2 (w : Alu) : Statement (.pack2 w) := ⟨_, rfl, rfl⟩
theorem unpk2 (w : Alu) : Statement (.unpk2 w) := ⟨_, rfl, rfl⟩
theorem shfl (w : Alu) : Statement (.shfl w) := ⟨_, rfl, rfl⟩
theorem shflx (w : Alu) : Statement (.shflx w) := ⟨_, rfl, rfl⟩
theorem shflup (w : Alu) : Statement (.shflup w) := ⟨_, rfl, rfl⟩
theorem shfldn (w : Alu) : Statement (.shfldn w) := ⟨_, rfl, rfl⟩
theorem bcast (w : Alu) : Statement (.bcast w) := ⟨_, rfl, rfl⟩
theorem vall (w : Alu) : Statement (.vall w) := ⟨_, rfl, rfl⟩
theorem vany (w : Alu) : Statement (.vany w) := ⟨_, rfl, rfl⟩
theorem vbal (w : Alu) : Statement (.vbal w) := ⟨_, rfl, rfl⟩
theorem vfirst (w : Alu) : Statement (.vfirst w) := ⟨_, rfl, rfl⟩
theorem rsqs (w : Alu) : Statement (.rsqs w) := ⟨_, rfl, rfl⟩
theorem rcps (w : Alu) : Statement (.rcps w) := ⟨_, rfl, rfl⟩
theorem ex2s (w : Alu) : Statement (.ex2s w) := ⟨_, rfl, rfl⟩
theorem lg2s (w : Alu) : Statement (.lg2s w) := ⟨_, rfl, rfl⟩
theorem sins (w : Alu) : Statement (.sins w) := ⟨_, rfl, rfl⟩
theorem coss (w : Alu) : Statement (.coss w) := ⟨_, rfl, rfl⟩
theorem gadd (w : Alu) : Statement (.gadd w) := ⟨_, rfl, rfl⟩
theorem gsub (w : Alu) : Statement (.gsub w) := ⟨_, rfl, rfl⟩
theorem gmul (w : Alu) : Statement (.gmul w) := ⟨_, rfl, rfl⟩
theorem gand (w : Alu) : Statement (.gand w) := ⟨_, rfl, rfl⟩
theorem gor (w : Alu) : Statement (.gor w) := ⟨_, rfl, rfl⟩
theorem gxor (w : Alu) : Statement (.gxor w) := ⟨_, rfl, rfl⟩
theorem gshl (w : Alu) : Statement (.gshl w) := ⟨_, rfl, rfl⟩
theorem gshr (w : Alu) : Statement (.gshr w) := ⟨_, rfl, rfl⟩
theorem gmov (w : Alu) : Statement (.gmov w) := ⟨_, rfl, rfl⟩
theorem gmovi (w : Alu) : Statement (.gmovi w) := ⟨_, rfl, rfl⟩
theorem gcmp (w : Alu) : Statement (.gcmp w) := ⟨_, rfl, rfl⟩
theorem klop (w : Alu) : Statement (.klop w) := ⟨_, rfl, rfl⟩
theorem v2g (w : Alu) : Statement (.v2g w) := ⟨_, rfl, rfl⟩
theorem g2v (w : Alu) : Statement (.g2v w) := ⟨_, rfl, rfl⟩
theorem loopn (w : Loop) : Statement (.loopn w) := ⟨rfl, rfl⟩
theorem ld (w : Mem) : Statement (.ld w) := ⟨_, rfl, rfl⟩
theorem ldx (w : Mem) : Statement (.ldx w) := ⟨_, rfl, rfl⟩
theorem lds (w : Mem) : Statement (.lds w) := ⟨_, rfl, rfl⟩
theorem st (w : Mem) : Statement (.st w) := ⟨_, rfl, rfl⟩
theorem send (w : Mem) : Statement (.send w) := ⟨_, rfl, rfl⟩
theorem pref (w : Mem) : Statement (.pref w) := ⟨_, rfl, rfl⟩
theorem fence (w : Mem) : Statement (.fence w) := ⟨_, rfl, rfl⟩
theorem aadd (w : Mem) : Statement (.aadd w) := ⟨_, rfl, rfl⟩
theorem amin (w : Mem) : Statement (.amin w) := ⟨_, rfl, rfl⟩
theorem amax (w : Mem) : Statement (.amax w) := ⟨_, rfl, rfl⟩
theorem aand (w : Mem) : Statement (.aand w) := ⟨_, rfl, rfl⟩
theorem aor (w : Mem) : Statement (.aor w) := ⟨_, rfl, rfl⟩
theorem axor (w : Mem) : Statement (.axor w) := ⟨_, rfl, rfl⟩
theorem axchg (w : Mem) : Statement (.axchg w) := ⟨_, rfl, rfl⟩
theorem acas (w : Mem) : Statement (.acas w) := ⟨_, rfl, rfl⟩
theorem afadd (w : Mem) : Statement (.afadd w) := ⟨_, rfl, rfl⟩
theorem runend (w : Ctl) : Statement (.runend w) := ⟨_, rfl, rfl, fun _ => rfl⟩
theorem wait (w : Ctl) : Statement (.wait w) := ⟨_, rfl, rfl, fun _ => rfl⟩
theorem nop (w : Ctl) : Statement (.nop w) := ⟨_, rfl, rfl, fun _ => rfl⟩
theorem br (w : Ctl) : Statement (.br w) := ⟨_, rfl, rfl, fun _ => rfl⟩
theorem bru (w : Ctl) : Statement (.bru w) := ⟨_, rfl, rfl, fun _ => rfl⟩
theorem jmpi (w : Ctl) : Statement (.jmpi w) := ⟨_, rfl, rfl, fun _ => rfl⟩
theorem call (w : Ctl) : Statement (.call w) := ⟨_, rfl, rfl, fun _ => rfl⟩
theorem ret (w : Ctl) : Statement (.ret w) := ⟨_, rfl, rfl, fun _ => rfl⟩
theorem spawn (w : Ctl) : Statement (.spawn w) := ⟨_, rfl, rfl, fun _ => rfl⟩
theorem pause (w : Ctl) : Statement (.pause w) := ⟨_, rfl, rfl, fun _ => rfl⟩
theorem bar (w : Ctl) : Statement (.bar w) := ⟨_, rfl, rfl, fun _ => rfl⟩
theorem sstep (w : Ctl) : Statement (.sstep w) := ⟨_, rfl, rfl, fun _ => rfl⟩
theorem ftest (w : Ctl) : Statement (.ftest w) := ⟨_, rfl, rfl, fun _ => rfl⟩
theorem fcancel (w : Ctl) : Statement (.fcancel w) := ⟨_, rfl, rfl, fun _ => rfl⟩
theorem fmovg (w : Ctl) : Statement (.fmovg w) := ⟨_, rfl, rfl, fun _ => rfl⟩
theorem gmovf (w : Ctl) : Statement (.gmovf w) := ⟨_, rfl, rfl, fun _ => rfl⟩
theorem rjoin (w : Ctl) : Statement (.rjoin w) := ⟨_, rfl, rfl, fun _ => rfl⟩
theorem exit (w : Ctl) : Statement (.exit w) := ⟨_, rfl, rfl, fun _ => rfl⟩
theorem trapOp (w : Ctl) : Statement (.trapOp w) := ⟨_, rfl, rfl, fun _ => rfl⟩
theorem bkpt (w : Ctl) : Statement (.bkpt w) := ⟨_, rfl, rfl, fun _ => rfl⟩
theorem csrr (w : Ctl) : Statement (.csrr w) := ⟨_, rfl, rfl, fun _ => rfl⟩
theorem csrw (w : Ctl) : Statement (.csrw w) := ⟨_, rfl, rfl, fun _ => rfl⟩
theorem traceFlush (w : Ctl) : Statement (.traceFlush w) := ⟨_, rfl, rfl, fun h => nomatch h⟩
theorem tret (w : Ctl) : Statement (.tret w) := ⟨_, rfl, rfl, fun _ => rfl⟩
theorem sqpostGroup (w : Ctl) : Statement (.sqpostGroup w) := ⟨_, rfl, rfl, fun _ => rfl⟩
theorem sqwaitGroup (w : Ctl) : Statement (.sqwaitGroup w) := ⟨_, rfl, rfl, fun _ => rfl⟩
theorem pub (w : Mem) : Statement (.pub w) := ⟨_, rfl, rfl⟩
theorem pubr (w : Mem) : Statement (.pubr w) := ⟨_, rfl, rfl⟩
theorem invr (w : Mem) : Statement (.invr w) := ⟨_, rfl, rfl⟩
theorem zline (w : Mem) : Statement (.zline w) := ⟨_, rfl, rfl⟩
theorem tlock (w : Ctl) : Statement (.tlock w) := ⟨_, rfl, rfl, fun _ => rfl⟩
theorem tunlock (w : Ctl) : Statement (.tunlock w) := ⟨_, rfl, rfl, fun _ => rfl⟩
theorem tprobe (w : Ctl) : Statement (.tprobe w) := ⟨_, rfl, rfl, fun _ => rfl⟩
theorem migr (w : Ctl) : Statement (.migr w) := ⟨_, rfl, rfl, fun _ => rfl⟩
theorem snap (w : Ctl) : Statement (.snap w) := ⟨_, rfl, rfl, fun _ => rfl⟩
theorem snapdrop (w : Ctl) : Statement (.snapdrop w) := ⟨_, rfl, rfl, fun _ => rfl⟩
theorem rootsw (w : Ctl) : Statement (.rootsw w) := ⟨_, rfl, rfl, fun _ => rfl⟩
theorem libsd (w : Ctl) : Statement (.libsd w) := ⟨_, rfl, rfl, fun _ => rfl⟩
theorem xcopy (w : Ctl) : Statement (.xcopy w) := ⟨_, rfl, rfl, fun _ => rfl⟩
theorem xconv (w : Ctl) : Statement (.xconv w) := ⟨_, rfl, rfl, fun _ => rfl⟩
theorem xqa8 (w : Ctl) : Statement (.xqa8 w) := ⟨_, rfl, rfl, fun _ => rfl⟩
theorem xwht (w : Ctl) : Statement (.xwht w) := ⟨_, rfl, rfl, fun _ => rfl⟩
theorem tprep (w : Ctl) : Statement (.tprep w) := ⟨_, rfl, rfl, fun _ => rfl⟩
theorem pload (w : Ctl) : Statement (.pload w) := ⟨_, rfl, rfl, fun _ => rfl⟩
theorem pstart (w : Ctl) : Statement (.pstart w) := ⟨_, rfl, rfl, fun _ => rfl⟩
theorem pstop (w : Ctl) : Statement (.pstop w) := ⟨_, rfl, rfl, fun _ => rfl⟩
theorem qpop (w : Ctl) : Statement (.qpop w) := ⟨_, rfl, rfl, fun _ => rfl⟩
theorem qpeek (w : Ctl) : Statement (.qpeek w) := ⟨_, rfl, rfl, fun _ => rfl⟩
theorem qstat (w : Ctl) : Statement (.qstat w) := ⟨_, rfl, rfl, fun _ => rfl⟩
theorem cntset (e3 e2 e1 e0 : BitVec 14) : Statement (.cntset e3 e2 e1 e0) := rfl
theorem agset (n p : BitVec 2) (s3 s2 s1 s0 : BitVec 13) : Statement (.agset n p s3 s2 s1 s0) := rfl
theorem piccoloSld (r : BitVec 3) (n : BitVec 2) (sp : PicSpace) (sz : BitVec 2) : Statement (.piccoloSld r n sp sz) := rfl
theorem dq (d s fmt : BitVec 3) : Statement (.dq d s fmt) := rfl
theorem trn : Statement .trn := rfl
theorem push (q r : BitVec 3) : Statement (.push q r) := rfl
theorem nextOp (top lo : BitVec 2) (target : BitVec 7) : Statement (.nextOp top lo target) := rfl
theorem endOp : Statement .endOp := rfl
theorem sadd (w : Ctl) : Statement (.sadd w) := ⟨_, rfl, rfl, fun _ => rfl⟩
theorem ssub (w : Ctl) : Statement (.ssub w) := ⟨_, rfl, rfl, fun _ => rfl⟩
theorem smul (w : Ctl) : Statement (.smul w) := ⟨_, rfl, rfl, fun _ => rfl⟩
theorem sand (w : Ctl) : Statement (.sand w) := ⟨_, rfl, rfl, fun _ => rfl⟩
theorem sor (w : Ctl) : Statement (.sor w) := ⟨_, rfl, rfl, fun _ => rfl⟩
theorem sxor (w : Ctl) : Statement (.sxor w) := ⟨_, rfl, rfl, fun _ => rfl⟩
theorem sshl (w : Ctl) : Statement (.sshl w) := ⟨_, rfl, rfl, fun _ => rfl⟩
theorem sshr (w : Ctl) : Statement (.sshr w) := ⟨_, rfl, rfl, fun _ => rfl⟩
theorem smov (w : Ctl) : Statement (.smov w) := ⟨_, rfl, rfl, fun _ => rfl⟩
theorem smovi (w : Ctl) : Statement (.smovi w) := ⟨_, rfl, rfl, fun _ => rfl⟩
theorem scmp (w : Ctl) : Statement (.scmp w) := ⟨_, rfl, rfl, fun _ => rfl⟩
theorem sbr (w : Ctl) : Statement (.sbr w) := ⟨_, rfl, rfl, fun _ => rfl⟩
theorem sjmp (w : Ctl) : Statement (.sjmp w) := ⟨_, rfl, rfl, fun _ => rfl⟩
theorem sld (w : Ctl) : Statement (.sld w) := ⟨_, rfl, rfl, fun _ => rfl⟩
theorem sst (w : Ctl) : Statement (.sst w) := ⟨_, rfl, rfl, fun _ => rfl⟩
theorem sqpostSeq (w : Ctl) : Statement (.sqpostSeq w) := ⟨_, rfl, rfl, fun _ => rfl⟩
theorem sqwaitSeq (w : Ctl) : Statement (.sqwaitSeq w) := ⟨_, rfl, rfl, fun _ => rfl⟩
theorem swaitpx (w : Ctl) : Statement (.swaitpx w) := ⟨_, rfl, rfl, fun _ => rfl⟩
theorem sexit (w : Ctl) : Statement (.sexit w) := ⟨_, rfl, rfl, fun _ => rfl⟩
theorem scsrr (w : Ctl) : Statement (.scsrr w) := ⟨_, rfl, rfl, fun _ => rfl⟩
theorem pxldw (w : Ctl) : Statement (.pxldw w) := ⟨_, rfl, rfl, fun _ => rfl⟩
theorem pxga (w : Ctl) : Statement (.pxga w) := ⟨_, rfl, rfl, fun _ => rfl⟩
theorem pxlda (w : Ctl) : Statement (.pxlda w) := ⟨_, rfl, rfl, fun _ => rfl⟩
theorem pxmm (w : Ctl) : Statement (.pxmm w) := ⟨_, rfl, rfl, fun _ => rfl⟩
theorem pxdm (w : Ctl) : Statement (.pxdm w) := ⟨_, rfl, rfl, fun _ => rfl⟩
theorem pxzero (w : Ctl) : Statement (.pxzero w) := ⟨_, rfl, rfl, fun _ => rfl⟩
theorem pxdrn (w : Ctl) : Statement (.pxdrn w) := ⟨_, rfl, rfl, fun _ => rfl⟩
theorem pxbyp (w : Ctl) : Statement (.pxbyp w) := ⟨_, rfl, rfl, fun _ => rfl⟩
theorem pxsave (w : Ctl) : Statement (.pxsave w) := ⟨_, rfl, rfl, fun _ => rfl⟩
theorem pxrest (w : Ctl) : Statement (.pxrest w) := ⟨_, rfl, rfl, fun _ => rfl⟩
theorem pxstat (w : Ctl) : Statement (.pxstat w) := ⟨_, rfl, rfl, fun _ => rfl⟩
theorem tload (w : Ctl) : Statement (.tload w) := ⟨_, rfl, rfl, fun _ => rfl⟩
theorem tq (w : Ctl) : Statement (.tq w) := ⟨_, rfl, rfl, fun _ => rfl⟩
theorem tq2 (w : Ctl) : Statement (.tq2 w) := ⟨_, rfl, rfl, fun _ => rfl⟩
theorem tmap (w : Ctl) : Statement (.tmap w) := ⟨_, rfl, rfl, fun _ => rfl⟩
theorem tfree (w : Ctl) : Statement (.tfree w) := ⟨_, rfl, rfl, fun _ => rfl⟩
theorem landr (w : Ctl) : Statement (.landr w) := ⟨_, rfl, rfl, fun _ => rfl⟩
theorem landcArm (w : Ctl) : Statement (.landcArm w) := ⟨_, rfl, rfl, fun h => nomatch h⟩
theorem landcPut (w : Ctl) : Statement (.landcPut w) := ⟨_, rfl, rfl, fun h => nomatch h⟩
theorem quiesce (w : Ctl) : Statement (.quiesce w) := ⟨_, rfl, rfl, fun _ => rfl⟩
theorem resume (w : Ctl) : Statement (.resume w) := ⟨_, rfl, rfl, fun _ => rfl⟩
theorem ctxld (w : Ctl) : Statement (.ctxld w) := ⟨_, rfl, rfl, fun _ => rfl⟩
theorem ctxsv (w : Ctl) : Statement (.ctxsv w) := ⟨_, rfl, rfl, fun _ => rfl⟩
theorem halt (w : Ctl) : Statement (.halt w) := ⟨_, rfl, rfl, fun _ => rfl⟩
theorem launch (p : LaunchPkt) : Statement (.launch p) := rfl
theorem barrier : Statement .barrier := rfl
theorem signal (val addr : BitVec 64) : Statement (.signal val addr) := rfl
theorem cancel (byLaunch byRange : Bool) (launch : BitVec 16) (base len : BitVec 64) : Statement (.cancel byLaunch byRange launch base len) := rfl
theorem preempt (launch : BitVec 16) (hold : Bool) : Statement (.preempt launch hold) := rfl
theorem buffer (h : BitVec 12) (free hostw : Bool) (base len : BitVec 64) : Statement (.buffer h free hostw base len) := rfl
theorem loopnStart (core : Nat) : Statement (.loopnStart core) := rfl
theorem loopnComplete (core : Nat) : Statement (.loopnComplete core) := rfl
theorem atomicPerform (op : Nat) : Statement (.atomicPerform op) := rfl
theorem loadReturn (op : Nat) : Statement (.loadReturn op) := rfl
theorem storePerform (op : Nat) : Statement (.storePerform op) := rfl
theorem sendArrive (op lane : Nat) : Statement (.sendArrive op lane) := rfl
theorem barrierRelease (bar : Nat) : Statement (.barrierRelease bar) := rfl
theorem traceFlushDone (op : Nat) : Statement (.traceFlushDone op) := rfl
theorem runArbitration (core : Nat) : Statement (.runArbitration core) := rfl
theorem runResume (gid : Nat) : Statement (.runResume gid) := rfl
theorem yieldExpire (gid idx : Nat) : Statement (.yieldExpire gid idx) := rfl
theorem stall (gid : Nat) : Statement (.stall gid) := rfl
theorem trapTake (gid : Nat) : Statement (.trapTake gid) := rfl
theorem preemptRequest (gid : Nat) : Statement (.preemptRequest gid) := rfl
theorem groupSave (gid : Nat) : Statement (.groupSave gid) := rfl
theorem groupRestore (gid core : Nat) : Statement (.groupRestore gid core) := rfl
theorem groupEnd (gid : Nat) : Statement (.groupEnd gid) := rfl
theorem wcbWindowExpire (cluster line : Nat) : Statement (.wcbWindowExpire cluster line) := rfl
theorem publicationStart (log : Nat) : Statement (.publicationStart log) := rfl
theorem homePrepare (pub idx : Nat) : Statement (.homePrepare pub idx) := rfl
theorem prepareAck (pub idx : Nat) : Statement (.prepareAck pub idx) := rfl
theorem revokeRequest (pub : Nat) : Statement (.revokeRequest pub) := rfl
theorem holdTimerExpire (line : Nat) : Statement (.holdTimerExpire line) := rfl
theorem homeCommit (pub idx : Nat) : Statement (.homeCommit pub idx) := rfl
theorem homeRelease (pub idx : Nat) : Statement (.homeRelease pub idx) := rfl
theorem publicationCommit (pub : Nat) : Statement (.publicationCommit pub) := rfl
theorem libFill (cluster leaf : Nat) : Statement (.libFill cluster leaf) := rfl
theorem loadServeHome (op lane : Nat) : Statement (.loadServeHome op lane) := rfl
theorem translationWalk (cluster leaf : Nat) : Statement (.translationWalk cluster leaf) := rfl
theorem leafWriteback (leaf : Nat) : Statement (.leafWriteback leaf) := rfl
theorem logstallExpire (gid : Nat) : Statement (.logstallExpire gid) := rfl
theorem tlockFillLand (op : Nat) : Statement (.tlockFillLand op) := rfl
theorem pageRequest (die page : Nat) : Statement (.pageRequest die page) := rfl
theorem pagePromote (page : Nat) : Statement (.pagePromote page) := rfl
theorem migrationCommitNotice (die page : Nat) : Statement (.migrationCommitNotice die page) := rfl
theorem pageDemote (stack page : Nat) : Statement (.pageDemote stack page) := rfl
theorem faultCancel (die waiter : Nat) : Statement (.faultCancel die waiter) := rfl
theorem forwardedAccess (msg : Nat) : Statement (.forwardedAccess msg) := rfl
theorem counterEpochTick : Statement .counterEpochTick := rfl
theorem pageTransfer (page : Nat) (peer : BitVec 12) : Statement (.pageTransfer page peer) := rfl
theorem snapshotCut (op : Nat) : Statement (.snapshotCut op) := rfl
theorem rollback (op : Nat) : Statement (.rollback op) := rfl
theorem cleanSegment (stack seg : Nat) : Statement (.cleanSegment stack seg) := rfl
theorem shootdown (op : Nat) : Statement (.shootdown op) := rfl
theorem segmentShip (seg : Nat) : Statement (.segmentShip seg) := rfl
theorem replicaSegmentReceive (msg : Nat) : Statement (.replicaSegmentReceive msg) := rfl
theorem copyOpStart (cluster : Nat) : Statement (.copyOpStart cluster) := rfl
theorem copyOpComplete (op : Nat) : Statement (.copyOpComplete op) := rfl
theorem ploadDataReturn (op : Nat) : Statement (.ploadDataReturn op) := rfl
theorem piccoloRunBegin (core : Nat) : Statement (.piccoloRunBegin core) := rfl
theorem piccoloSldReturn (core r : Nat) : Statement (.piccoloSldReturn core r) := rfl
theorem bindingEnd (core : Nat) : Statement (.bindingEnd core) := rfl
theorem streamStart (cluster : Nat) : Statement (.streamStart cluster) := rfl
theorem streamHandleResolve (cluster : Nat) : Statement (.streamHandleResolve cluster) := rfl
theorem seqSldReturn (cluster reg : Nat) : Statement (.seqSldReturn cluster reg) := rfl
theorem seqStall (cluster : Nat) : Statement (.seqStall cluster) := rfl
theorem seqTrap (cluster : Nat) : Statement (.seqTrap cluster) := rfl
theorem seqSave (cluster : Nat) : Statement (.seqSave cluster) := rfl
theorem seqRestore (cluster blk : Nat) : Statement (.seqRestore cluster blk) := rfl
theorem pxOpStart (cluster : Nat) : Statement (.pxOpStart cluster) := rfl
theorem pxOpComplete (cluster idx : Nat) : Statement (.pxOpComplete cluster idx) := rfl
theorem tloadComplete (op : Nat) : Statement (.tloadComplete op) := rfl
theorem tqPacketServe (pkt : Nat) : Statement (.tqPacketServe pkt) := rfl
theorem tqReply (pkt : Nat) : Statement (.tqReply pkt) := rfl
theorem lanesReturn (gid : Nat) (j : BitVec 3) : Statement (.lanesReturn gid j) := rfl
theorem tmapComplete (op : Nat) : Statement (.tmapComplete op) := rfl
theorem tfreeComplete (op : Nat) : Statement (.tfreeComplete op) := rfl
theorem landOpStart (op : Nat) : Statement (.landOpStart op) := rfl
theorem armReserve (stack : Nat) : Statement (.armReserve stack) := rfl
theorem chunkAccept (op : Nat) : Statement (.chunkAccept op) := rfl
theorem putRetry (op : Nat) : Statement (.putRetry op) := rfl
theorem landPublish (op : Nat) : Statement (.landPublish op) := rfl
theorem quiesceComplete (ctx : Nat) : Statement (.quiesceComplete ctx) := rfl
theorem queueKick (by_ : Writer) (q : BitVec 6) (tail : BitVec 32) : Statement (.queueKick by_ q tail) := rfl
theorem queueReset (by_ : Writer) (q : BitVec 6) : Statement (.queueReset by_ q) := rfl
theorem packetRead (q : BitVec 6) : Statement (.packetRead q) := rfl
theorem packetReread (q : BitVec 6) : Statement (.packetReread q) := rfl
theorem blockPlace (launch cluster : Nat) : Statement (.blockPlace launch cluster) := rfl
theorem groupMove (gid core : Nat) : Statement (.groupMove gid core) := rfl
theorem priorityPreempt (launch cluster : Nat) : Statement (.priorityPreempt launch cluster) := rfl
theorem launchComplete (launch : Nat) : Statement (.launchComplete launch) := rfl
theorem hostAdmit (requester : BitVec 16) : Statement (.hostAdmit requester) := rfl
theorem ownershipSwap (by_ : Writer) (val : BitVec 64) : Statement (.ownershipSwap by_ val) := rfl
theorem frozenClear (by_ : Writer) (bits : BitVec 8) : Statement (.frozenClear by_ bits) := rfl
theorem hostRead (m : BitVec 3) (addr : BitVec 64) (n : Nat) : Statement (.hostRead m addr n) := rfl
theorem hostWrite (m : BitVec 3) (addr : BitVec 64) (bytes : List Byte) : Statement (.hostWrite m addr bytes) := rfl
theorem hostWcbWindowExpire (m : BitVec 3) (line : Nat) : Statement (.hostWcbWindowExpire m line) := rfl
theorem hostRelease (by_ : Writer) (m : BitVec 3) : Statement (.hostRelease by_ m) := rfl
theorem hostmapWrite (by_ : Writer) (m : BitVec 3) (val : BitVec 64) : Statement (.hostmapWrite by_ m val) := rfl
theorem ckreq (by_ : Writer) (val : BitVec 64) : Statement (.ckreq by_ val) := rfl
theorem ckOpStart (op : Nat) : Statement (.ckOpStart op) := rfl
theorem shardReceive (msg : Nat) : Statement (.shardReceive msg) := rfl
theorem manifestWrite (op : Nat) : Statement (.manifestWrite op) := rfl
theorem ckCommit (op : Nat) : Statement (.ckCommit op) := rfl
theorem ckRestore (op : Nat) : Statement (.ckRestore op) := rfl
theorem refusedClear (by_ : Writer) : Statement (.refusedClear by_) := rfl
theorem histSample (die : Nat) : Statement (.histSample die) := rfl
theorem timeseriesTick : Statement .timeseriesTick := rfl
theorem kSwitch : Statement .kSwitch := rfl
theorem dump (by_ : Writer) : Statement (.dump by_) := rfl
theorem trctailWrite (by_ : Writer) (val : BitVec 64) : Statement (.trctailWrite by_ val) := rfl
theorem trclostRead (by_ : Writer) : Statement (.trclostRead by_) := rfl
theorem flitReplay (link : BitVec 6) : Statement (.flitReplay link) := rfl
theorem linkDown (link : BitVec 6) : Statement (.linkDown link) := rfl
theorem noRoute (msg : Nat) : Statement (.noRoute msg) := rfl
theorem linkTrain (link : BitVec 6) (padv : BitVec 4) : Statement (.linkTrain link padv) := rfl
theorem retrain (by_ : Writer) (link : BitVec 6) : Statement (.retrain by_ link) := rfl
theorem heartbeat : Statement .heartbeat := rfl
theorem peerFailure (peer : BitVec 12) : Statement (.peerFailure peer) := rfl
theorem qfMessageReceive (link : BitVec 6) (cls : BitVec 2) : Statement (.qfMessageReceive link cls) := rfl
theorem hostErrcountRead (by_ : Writer) : Statement (.hostErrcountRead by_) := rfl
theorem powerDownEntry (ch : Nat) : Statement (.powerDownEntry ch) := rfl
theorem selfRefreshEntry (ch : Nat) : Statement (.selfRefreshEntry ch) := rfl
theorem channelWake (ch : Nat) : Statement (.channelWake ch) := rfl
theorem forcesr (by_ : Writer) (stack : BitVec 4) (val : BitVec 64) : Statement (.forcesr by_ stack val) := rfl
theorem gatectlWrite (by_ : Writer) (die : BitVec 5) (val : BitVec 64) : Statement (.gatectlWrite by_ die val) := rfl
theorem gateWake (die : BitVec 5) : Statement (.gateWake die) := rfl
theorem gateErrorClear (by_ : Writer) : Statement (.gateErrorClear by_) := rfl
theorem coldReset : Statement .coldReset := rfl
theorem warmReset (by_ : Writer) : Statement (.warmReset by_) := rfl
theorem boot (image : List Byte) (sig : BitVec 512) (version : BitVec 16) : Statement (.boot image sig version) := rfl
theorem attreq (by_ : Writer) (val : BitVec 64) : Statement (.attreq by_ val) := rfl
theorem softError (correctable : Bool) (victim id : Nat) : Statement (.softError correctable victim id) := rfl
theorem registerWrite (by_ : Writer) (off : BitVec 16) (val : BitVec 64) : Statement (.registerWrite by_ off val) := rfl
theorem seqSstPerform (cluster idx : Nat) : Statement (.seqSstPerform cluster idx) := rfl
theorem tprobeResult (op : Nat) : Statement (.tprobeResult op) := rfl
theorem newImage (image : List Byte) (sig : BitVec 512) (version : BitVec 16) : Statement (.newImage image sig version) := rfl

end Sys2Proof.Laws.Rows
end

