-- ==== Sys2Proof/Tests/Slice0.lean ====
section
/-! SUPPORT. Tests, each about one step on a small state, and witnesses: states that meet the hypotheses of the statements. Expected values are worked out from
the rules and examples of spec/. -/

set_option maxRecDepth 8000
set_option Elab.async false

namespace Sys2Proof.Tests

open Sys2Proof Sys2Proof.Machine

/-! A group of one block of a privileged launch, with a run under way. -/

def gid0 : Nat := gidOf 1 0 0
def regsOf (vs gs : List (Nat × Nat)) : Regs :=
  { Regs.reset with v := vs.map (fun p => (p.1, BitVec.ofNat 32 p.2)), g := gs.map (fun p => (p.1, BitVec.ofNat 64 p.2)) }
def run0 (mask : Lanes) : Run := Run.start 0 [0] [] mask 0
def grp0 (rg : Regs) (mask : Lanes) : Group := { fetchGroup [] 0 with regs := rg, run := some (run0 mask) }
def st0 (g : Group) : State := { State.reset.fetchHome.setGrp gid0 g with issuer := .group gid0 false }

/-- What a step's outcome gives, if it is a next state. -/
def got {α : Type} (o : Out) (f : State → α) : Option α :=
  match o with
  | .next t => some (f t)
  | .fault _ => none
  | .refused _ => none
/-- What a word leaves of its group. -/
def after {α : Type} (i : Instr) (s : State) (f : Group → α) : Option α := (got (exec i s) (fun t => (t.grp gid0).map f)).join
/-- A word executed in a group. -/
def onGrp {α : Type} (i : Instr) (rg : Regs) (mask : Lanes) (f : Group → α) : Option α := after i (st0 (grp0 rg mask)) f
/-- The cause of the trap that a word takes. -/
def trapCause (g : Group) : Option Cause := g.trap.map (·.cause)

theorem asked0 (g : Group) (r : Run) (h : g.run = some r) (hw : r.wait = .none) : Asked (st0 g) gid0 false g r :=
  { issuer := rfl, here := FMap.get?_set_self _ _ _, run := h, free := hw }
theorem runs0 (b : Body) (g : Group) (r : Run) (h : g.run = some r) (hw : r.wait = .none) (hb : b.good = true) (hp : g.priv = true)
    (hk : guardTrue b.hdr g = true) : Runs b (st0 g) gid0 false g r :=
  { toAsked := asked0 g r h hw, good := hb, allowed := fun _ => hp, guard := hk }

def alu0 (ty : Ty) (d a b : Opnd) (imm : BitVec 32) : Alu :=
  { hdr := Hdr.plain, ty := ty, rnd := .rne, sat := false, fn := 0, d := d, a := a, b := b, imm := imm }
def mem0 (sp : Space) (wd : Width) (d a : Opnd) (imm : BitVec 32) : Mem :=
  { hdr := Hdr.plain, space := sp, width := wd, order := .rlx, scope := .ln, d := d, a := a, b := .sp 7, imm := imm }
def ctl0 (d a b : Opnd) (mod : BitVec 12) (imm : BitVec 32) : Ctl := { hdr := Hdr.plain, mod := mod, d := d, a := a, b := b, imm := imm }

/-! Well-formedness: a term for each check, refused. -/

theorem test_wf_type : (Instr.ineg (alu0 .b32 (.v 0) (.v 1) Opnd.none 0)).wf = false := by decide +kernel
theorem test_wf_rounding : (Instr.iadd { alu0 .b32 (.v 0) (.v 1) (.v 2) 0 with rnd := .rup }).wf = false := by decide +kernel
theorem test_wf_saturation : (Instr.popc { alu0 .b32 (.v 0) (.v 1) Opnd.none 0 with sat := true }).wf = false := by decide +kernel
theorem test_wf_function : (Instr.iadd { alu0 .b32 (.v 0) (.v 1) (.v 2) 0 with fn := 1 }).wf = false := by decide +kernel
theorem test_wf_operand : (Instr.iadd (alu0 .b32 (.sp 0) (.v 1) (.v 2) 0)).wf = false := by decide +kernel
theorem test_wf_pair : (Instr.iadd (alu0 .b64 (.v 1) (.v 2) (.v 4) 0)).wf = false := by decide +kernel
theorem test_wf_immediate : (Instr.iadd (alu0 .b32 (.v 0) (.v 1) (.v 2) 1)).wf = false := by decide +kernel
theorem test_wf_field : (Instr.ibfx (alu0 .b32 (.v 0) (.v 1) Opnd.none 0x1018)).wf = false := by decide +kernel
theorem test_wf_guard_hint : (Instr.iadd { alu0 .b32 (.v 0) (.v 1) (.v 2) 0 with hdr := { Hdr.plain with land := true } }).wf = true := by decide +kernel
theorem test_wf_space : (Instr.send (mem0 .gl .word (.v 1) (.v 2) 0x109)).wf = false := by decide +kernel
theorem test_wf_width : (Instr.lds (mem0 .cm .qword (.g 4) (.g 2) 0)).wf = false := by decide +kernel
theorem test_wf_scope : (Instr.fence { mem0 .ln .byte Opnd.none Opnd.none 0 with order := .sc, scope := .ln }).wf = false := by decide +kernel
theorem test_wf_mod : (Instr.bar (ctl0 Opnd.none (.g 5) Opnd.none 0x800 3)).wf = false := by decide +kernel
theorem test_wf_role : (Instr.landcPut (ctl0 (.sp 0x13) (.g 8) Opnd.none 0 0)).wf = false := by decide +kernel
theorem test_wf_next : (Instr.nextOp 0 1 0).wf = false := by decide +kernel
theorem test_wf_levels : (Instr.loopn { hdr := Hdr.plain, d := .g 4, a := .g 5, b := .g 6, op := .add, ty := .f32, rnd := .rne, nlev := 0, dsp := .cr, asp := .cr, bsp := .cr, l0 := ⟨0, 0, 0, 0⟩, l1 := ⟨0, 0, 0, 0⟩, l2 := ⟨0, 0, 0, 0⟩, l3 := ⟨0, 0, 0, 0⟩, l4 := ⟨0, 0, 0, 0⟩ }).wf = false := by decide +kernel

/-! Words written out in the spec's examples, and the instruction each stands for (R35, R46, Tables 2-5 to 2-9). -/

theorem test_decode_ffma : decodeTableWord 96 0x10DC00050040280000000003 = some (.ffma { hdr := Hdr.plain, ty := .f32, rnd := .rne, sat := false, fn := 0, d := .v 5, a := .v 1, b := .v 2, imm := 0x3 }) := by decide +kernel
theorem test_decode_bfn3 : decodeTableWord 96 0x095C00010080340000036004 = some (.bfn3 { hdr := Hdr.plain, ty := .b32, rnd := .rne, sat := false, fn := 0, d := .v 1, a := .v 2, b := .v 3, imm := 0x36004 }) := by decide +kernel
theorem test_decode_ld : decodeTableWord 96 0x401C000640A038CC00000040 = some (.ld { hdr := Hdr.plain, space := .gl, width := .dword, order := .acq, scope := .di, d := .v 6, a := .g 2, b := .sp 3, imm := 0x40 }) := by decide +kernel
theorem test_decode_send : decodeTableWord 96 0x40DC00060120748000000109 = some (.send { hdr := Hdr.plain, space := .cm, width := .word, order := .rlx, scope := .ln, d := .v 6, a := .v 4, b := .sp 7, imm := 0x109 }) := by decide +kernel
theorem test_decode_aadd : decodeTableWord 96 0x441C020702A0748000040003 = some (.aadd { hdr := Hdr.plain, space := .cm, width := .word, order := .rlx, scope := .ln, d := .sp 7, a := .v 10, b := .sp 7, imm := 0x40003 }) := by decide +kernel
theorem test_decode_fence : decodeTableWord 96 0x415C00000000001400000000 = some (.fence { hdr := Hdr.plain, space := .ln, width := .byte, order := .rel, scope := .di, d := .v 0, a := .v 0, b := .v 0, imm := 0x0 }) := by decide +kernel
theorem test_decode_pub : decodeTableWord 96 0x801C00000000080000000000 = some (.pub { hdr := Hdr.plain, space := .gl, width := .byte, order := .rlx, scope := .ln, d := .v 0, a := .v 0, b := .v 0, imm := 0x0 }) := by decide +kernel
theorem test_decode_pubr : decodeTableWord 96 0x805C02114110980000000000 = some (.pubr { hdr := Hdr.plain, space := .gl, width := .byte, order := .rlx, scope := .ln, d := .sp 17, a := .g 4, b := .g 9, imm := 0x0 }) := by decide +kernel
theorem test_decode_invr : decodeTableWord 96 0x809C00004110980000000000 = some (.invr { hdr := Hdr.plain, space := .gl, width := .byte, order := .rlx, scope := .ln, d := .v 0, a := .g 4, b := .g 9, imm := 0x0 }) := by decide +kernel
theorem test_decode_zline : decodeTableWord 96 0x80DC00004100080000000010 = some (.zline { hdr := Hdr.plain, space := .gl, width := .byte, order := .rlx, scope := .ln, d := .v 0, a := .g 4, b := .v 0, imm := 0x10 }) := by decide +kernel
theorem test_decode_runend : decodeTableWord 96 0x601C00050240044000000000 = some (.runend { hdr := Hdr.plain, mod := 0x440, d := .v 5, a := .v 9, b := .v 0, imm := 0x0 }) := by decide +kernel
theorem test_decode_wait : decodeTableWord 96 0x605C00000000000000FF02FF = some (.wait { hdr := Hdr.plain, mod := 0x0, d := .v 0, a := .v 0, b := .v 0, imm := 0xFF02FF }) := by decide +kernel
theorem test_decode_pause : decodeTableWord 96 0x620000000000000000000080 = some (.pause { hdr := { neg := false, k := 0, land := false, yld := false, dly := 0, ru := false }, mod := 0x0, d := .v 0, a := .v 0, b := .v 0, imm := 0x80 }) := by decide +kernel
theorem test_decode_br : decodeTableWord 96 0x609C000080400000FFFFFFFC = some (.br { hdr := Hdr.plain, mod := 0x0, d := .v 0, a := .sp 1, b := .v 0, imm := 0xFFFFFFFC }) := by decide +kernel
theorem test_decode_bar : decodeTableWord 96 0x625C00004140000300000003 = some (.bar { hdr := Hdr.plain, mod := 0x3, d := .v 0, a := .g 5, b := .v 0, imm := 0x3 }) := by decide +kernel
theorem test_decode_pstart : decodeTableWord 96 0x945C02104040000000000000 = some (.pstart { hdr := Hdr.plain, mod := 0x0, d := .sp 16, a := .g 1, b := .v 0, imm := 0x0 }) := by decide +kernel
theorem test_decode_xcopy : decodeTableWord 96 0x901C02124200008000000000 = some (.xcopy { hdr := Hdr.plain, mod := 0x80, d := .sp 18, a := .g 8, b := .v 0, imm := 0x0 }) := by decide +kernel
theorem test_decode_xqa8 : decodeTableWord 96 0x909C0213428000A00000001A = some (.xqa8 { hdr := Hdr.plain, mod := 0xA0, d := .sp 19, a := .g 10, b := .v 0, imm := 0x1A }) := by decide +kernel
theorem test_decode_sadd : decodeTableWord 96 0xA01C00020080400000000000 = some (.sadd { hdr := Hdr.plain, mod := 0x0, d := .v 2, a := .v 2, b := .v 4, imm := 0x0 }) := by decide +kernel
theorem test_decode_sbr : decodeTableWord 96 0xA2DC000000C00000FFFFFFFC = some (.sbr { hdr := Hdr.plain, mod := 0x0, d := .v 0, a := .v 3, b := .v 0, imm := 0xFFFFFFFC }) := by decide +kernel
theorem test_decode_sld : decodeTableWord 96 0xA35C00040040048000000000 = some (.sld { hdr := Hdr.plain, mod := 0x480, d := .v 4, a := .v 1, b := .v 0, imm := 0x0 }) := by decide +kernel
theorem test_decode_sqpostGroup : decodeTableWord 96 0x655C00004000000000000000 = some (.sqpostGroup { hdr := Hdr.plain, mod := 0x0, d := .v 0, a := .g 0, b := .v 0, imm := 0x0 }) := by decide +kernel
theorem test_decode_sqwaitGroup : decodeTableWord 96 0x659C01040000000000000001 = some (.sqwaitGroup { hdr := Hdr.plain, mod := 0x0, d := .g 4, a := .v 0, b := .v 0, imm := 0x1 }) := by decide +kernel
theorem test_decode_pxmm : decodeTableWord 96 0xA8DC02368C23400000000000 = some (.pxmm { hdr := Hdr.plain, mod := 0x0, d := .sp 54, a := .sp 48, b := .sp 52, imm := 0x0 }) := by decide +kernel
theorem test_decode_pxga : decodeTableWord 96 0xA85C02340280B00000301000 = some (.pxga { hdr := Hdr.plain, mod := 0x0, d := .sp 52, a := .v 10, b := .v 11, imm := 0x301000 }) := by decide +kernel
theorem test_decode_pxzero : decodeTableWord 96 0xA95C00000000000000003001 = some (.pxzero { hdr := Hdr.plain, mod := 0x0, d := .v 0, a := .v 0, b := .v 0, imm := 0x3001 }) := by decide +kernel
theorem test_decode_pxdrn : decodeTableWord 96 0xA99C00008D80C00000010000 = some (.pxdrn { hdr := Hdr.plain, mod := 0x0, d := .v 0, a := .sp 54, b := .v 12, imm := 0x10000 }) := by decide +kernel
theorem test_decode_tload : decodeTableWord 96 0x981C02124190700000000003 = some (.tload { hdr := Hdr.plain, mod := 0x0, d := .sp 18, a := .g 6, b := .g 7, imm := 0x3 }) := by decide +kernel
theorem test_decode_tq : decodeTableWord 96 0x985C00080080009000000103 = some (.tq { hdr := Hdr.plain, mod := 0x90, d := .v 8, a := .v 2, b := .v 0, imm := 0x103 }) := by decide +kernel
theorem test_decode_tq2 : decodeTableWord 96 0x989C000900C0447000000007 = some (.tq2 { hdr := Hdr.plain, mod := 0x470, d := .v 9, a := .v 3, b := .v 4, imm := 0x7 }) := by decide +kernel
theorem test_decode_tmap : decodeTableWord 96 0x98DC02144290B00900000009 = some (.tmap { hdr := Hdr.plain, mod := 0x9, d := .sp 20, a := .g 10, b := .g 11, imm := 0x9 }) := by decide +kernel
theorem test_decode_rjoin : decodeTableWord 96 0x63DC00008A40000000000000 = some (.rjoin { hdr := Hdr.plain, mod := 0x0, d := .v 0, a := .sp 41, b := .v 0, imm := 0x0 }) := by decide +kernel
theorem test_decode_landr : decodeTableWord 96 0x9C1C02124180000000000000 = some (.landr { hdr := Hdr.plain, mod := 0x0, d := .sp 18, a := .g 6, b := .v 0, imm := 0x0 }) := by decide +kernel
theorem test_decode_landcArm : decodeTableWord 96 0x9C5C02134200000000000000 = some (.landcArm { hdr := Hdr.plain, mod := 0x0, d := .sp 19, a := .g 8, b := .v 0, imm := 0x0 }) := by decide +kernel
theorem test_decode_landcPut : decodeTableWord 96 0x9C5C02134200000200000000 = some (.landcPut { hdr := Hdr.plain, mod := 0x2, d := .sp 19, a := .g 8, b := .v 0, imm := 0x0 }) := by decide +kernel
theorem test_decode_snap : decodeTableWord 96 0x821C02110000000000000007 = some (.snap { hdr := Hdr.plain, mod := 0x0, d := .sp 17, a := .v 0, b := .v 0, imm := 0x7 }) := by decide +kernel
theorem test_decode_snapdrop : decodeTableWord 96 0x825C02110000000000000007 = some (.snapdrop { hdr := Hdr.plain, mod := 0x0, d := .sp 17, a := .v 0, b := .v 0, imm := 0x7 }) := by decide +kernel
theorem test_decode_rootsw : decodeTableWord 96 0xC01C02124140000000000007 = some (.rootsw { hdr := Hdr.plain, mod := 0x0, d := .sp 18, a := .g 5, b := .v 0, imm := 0x7 }) := by decide +kernel
theorem test_decode_libsd : decodeTableWord 96 0xC0DC02134180000000000000 = some (.libsd { hdr := Hdr.plain, mod := 0x0, d := .sp 19, a := .g 6, b := .v 0, imm := 0x0 }) := by decide +kernel
theorem test_decode_tlock : decodeTableWord 96 0x811C02094110500000000000 = some (.tlock { hdr := Hdr.plain, mod := 0x0, d := .sp 9, a := .g 4, b := .g 5, imm := 0x0 }) := by decide +kernel
theorem test_decode_tunlock : decodeTableWord 96 0x815C00004110500000000000 = some (.tunlock { hdr := Hdr.plain, mod := 0x0, d := .v 0, a := .g 4, b := .g 5, imm := 0x0 }) := by decide +kernel
theorem test_decode_tprobe : decodeTableWord 96 0x819C02124190700000000000 = some (.tprobe { hdr := Hdr.plain, mod := 0x0, d := .sp 18, a := .g 6, b := .g 7, imm := 0x0 }) := by decide +kernel
theorem test_decode_migr : decodeTableWord 96 0x81DC02134210900100000000 = some (.migr { hdr := Hdr.plain, mod := 0x1, d := .sp 19, a := .g 8, b := .g 9, imm := 0x0 }) := by decide +kernel
theorem test_decode_quiesce : decodeTableWord 96 0xC05C00004150600000000000 = some (.quiesce { hdr := Hdr.plain, mod := 0x0, d := .v 0, a := .g 5, b := .g 6, imm := 0x0 }) := by decide +kernel
theorem test_decode_resume : decodeTableWord 96 0xC09C00004140000000000000 = some (.resume { hdr := Hdr.plain, mod := 0x0, d := .v 0, a := .g 5, b := .v 0, imm := 0x0 }) := by decide +kernel
theorem test_decode_ctxld : decodeTableWord 96 0xC11C01074200000000000000 = some (.ctxld { hdr := Hdr.plain, mod := 0x0, d := .g 7, a := .g 8, b := .v 0, imm := 0x0 }) := by decide +kernel
theorem test_decode_ctxsv : decodeTableWord 96 0xC15C00004150800000000000 = some (.ctxsv { hdr := Hdr.plain, mod := 0x0, d := .v 0, a := .g 5, b := .g 8, imm := 0x0 }) := by decide +kernel
theorem test_decode_halt : decodeTableWord 96 0xC19C00004140000000000000 = some (.halt { hdr := Hdr.plain, mod := 0x0, d := .v 0, a := .g 5, b := .v 0, imm := 0x0 }) := by decide +kernel
theorem test_decode_csrw : decodeTableWord 96 0x651C02834240000000000000 = some (.csrw { hdr := Hdr.plain, mod := 0x0, d := .sp 131, a := .g 9, b := .v 0, imm := 0x0 }) := by decide +kernel
theorem test_decode_loopn : (decodeTableWord 288 0xFFC000000000000000000000FFC000000000804020000000301C010441506060200FFC00).map bodyOf = some (.loop
  { hdr := Hdr.plain, d := .g 4, a := .g 5, b := .g 6, op := .add, ty := .f32, rnd := .rne, nlev := 1, dsp := .cr, asp := .cr, bsp := .cr, l0 := ⟨1023, 1, 1, 1⟩
    l1 := ⟨0, 0, 0, 0⟩, l2 := ⟨0, 0, 0, 0⟩, l3 := ⟨0, 0, 0, 0⟩, l4 := ⟨0, 0, 0, 0⟩ }) := by decide +kernel
theorem test_decode_uops : decodeTableWord 64 0x0C04000000000000 = some (.piccoloSld 0 0 .gl 2) ∧ decodeTableWord 64 0x1C00000000000002 = some (.nextOp 0 0 2) ∧
    decodeTableWord 64 0x2000000000000000 = some .endOp := by decide +kernel
theorem test_decode_packet : decodeTableWord 512 (7 * 2 ^ 480 + 0x1122 * 2 ^ 128 + 5 * 2 ^ 64 + 3) = some (.signal 5 0x1122) := by decide +kernel
theorem test_reject_words : decodeTableWord 96 0xFFDC00000000000000000000 = none ∧ decodeTableWord 96 0x60DC04000000000000000000 = none ∧
    decodeTableWord 96 0x401C000640A039CC00000040 = none := by decide +kernel

/-! The vector engine: v1 and v2 in lanes 0 and 1 are the operands, v3 of lane 0 the third; lanes 0 and 1 issue. -/

def vecRegs (a0 a1 b0 b1 c0 : Nat) : Regs := regsOf [(64, a0), (65, a1), (128, b0), (129, b1), (192, c0)] []
/-- v8 of lane 0 and FPSTAT after a word. -/
def vec (i : Instr) (rg : Regs) : Option (Nat × Nat) := onGrp i rg 3 (fun g => ((g.regs.vreg 8 0).toNat, g.fpstat.toNat))
def vecW (ty : Ty) : Alu := alu0 ty (.v 8) (.v 1) (.v 2) 0
def vecC (ty : Ty) : Alu := alu0 ty (.v 8) (.v 1) (.v 2) 3
def vec1 (ty : Ty) : Alu := alu0 ty (.v 8) (.v 1) Opnd.none 0

theorem test_iadd_wraps : vec (.iadd (vecW .b32)) (vecRegs 0xFFFFFFFF 0 2 0 0) = some (1, 0) := by decide +kernel
theorem test_iadd_clamps : vec (.iadd { vecW .s32 with sat := true }) (vecRegs 0x7FFFFFFF 0 1 0 0) = some (0x7FFFFFFF, 0x20) := by decide +kernel
theorem test_isub_clamps : vec (.isub { vecW .b32 with sat := true }) (vecRegs 1 0 2 0 0) = some (0, 0x20) := by decide +kernel
theorem test_imul_wraps : vec (.imul (vecW .b32)) (vecRegs 0x10001 0 0x10001 0 0) = some (0x20001, 0) := by decide +kernel
theorem test_imulhi_signed : vec (.imulhi (vecW .s32)) (vecRegs 0xFFFFFFFF 0 2 0 0) = some (0xFFFFFFFF, 0) := by decide +kernel
theorem test_imad : vec (.imad (vecC .b32)) (vecRegs 3 0 4 0 5) = some (17, 0) := by decide +kernel
theorem test_ineg_clamps : vec (.ineg { vec1 .s32 with sat := true }) (vecRegs 0x80000000 0 0 0 0) = some (0x7FFFFFFF, 0x20) := by decide +kernel
theorem test_iabs_wraps : vec (.iabs (vec1 .s32)) (vecRegs 0x80000000 0 0 0 0) = some (0x80000000, 0) := by decide +kernel
theorem test_imin_signed : vec (.imin (vecW .s32)) (vecRegs 0xFFFFFFFF 0 1 0 0) = some (0xFFFFFFFF, 0) := by decide +kernel
theorem test_imax_unsigned : vec (.imax (vecW .b32)) (vecRegs 0xFFFFFFFF 0 1 0 0) = some (0xFFFFFFFF, 0) := by decide +kernel
theorem test_iadds_carry : onGrp (.iadds { vecW .b32 with imm := 0x202 }) { vecRegs 0xFFFFFFFF 5 1 6 0 with c := [(2, 2)] } 3
    (fun g => (g.regs.vreg 8 0, g.regs.vreg 8 1, g.regs.creg 2)) = some (0, 12, 1) := by decide +kernel
theorem test_isubs_borrow : onGrp (.isubs { vecW .b32 with imm := 0x207 }) (vecRegs 1 5 2 5 0) 3 (fun g => (g.regs.vreg 8 0, g.regs.vreg 8 1, g.regs.creg 7)) =
    some (0xFFFFFFFF, 0, BitVec.allOnes 64) := by decide +kernel
theorem test_ishl_full_width : vec (.ishl (vecW .b32)) (vecRegs 1 0 32 0 0) = some (0, 0) := by decide +kernel
theorem test_ishr : vec (.ishr (vecW .b32)) (vecRegs 0x80000000 0 31 0 0) = some (1, 0) := by decide +kernel
theorem test_isar_fills : vec (.isar (vecW .s32)) (vecRegs 0x80000000 0 40 0 0) = some (0xFFFFFFFF, 0) := by decide +kernel
theorem test_irol : vec (.irol (vecW .b32)) (vecRegs 0x80000001 0 33 0 0) = some (3, 0) := by decide +kernel
theorem test_ibfx_signed : vec (.ibfx { vec1 .s32 with imm := 0x0404 }) (vecRegs 0xF0 0 0 0 0) = some (0xFFFFFFFF, 0) := by decide +kernel
theorem test_ibfi : vec (.ibfi { vecW .b32 with imm := 0x0408 }) (vecRegs 0xFFFF 0 0 0 0) = some (0xF0FF, 0) := by decide +kernel
theorem test_popc : vec (.popc (vec1 .b32)) (vecRegs 0xF00F 0 0 0 0) = some (8, 0) := by decide +kernel
theorem test_clz_zero : vec (.clz (vec1 .b32)) (vecRegs 0 0 0 0 0) = some (32, 0) := by decide +kernel
theorem test_brev : vec (.brev (vec1 .b32)) (vecRegs 1 0 0 0 0) = some (0x80000000, 0) := by decide +kernel
theorem test_and_or_xor : (vec (.andB (vecW .b32)) (vecRegs 12 0 10 0 0), vec (.orB (vecW .b32)) (vecRegs 12 0 10 0 0), vec (.xorB (vecW .b32)) (vecRegs 12 0 10 0 0)) =
    (some (8, 0), some (14, 0), some (6, 0)) := by decide +kernel
theorem test_not_andn : (vec (.notB (vec1 .b32)) (vecRegs 0 0 0 0 0), vec (.andn (vecW .b32)) (vecRegs 12 0 10 0 0)) = (some (0xFFFFFFFF, 0), some (4, 0)) := by decide +kernel
/-- R143: ft = 0xD8 takes B's bit where A's bit is 1 and C's bit where it is 0. -/
theorem test_bfn3 : vec (.bfn3 { vecW .b32 with imm := 0x36003 }) (vecRegs 0xF0 0 0xAA 0 0x55) = some (0xA5, 0) := by decide +kernel
theorem test_icmp_signed : onGrp (.icmp { alu0 .s32 (.sp 1) (.v 1) (.v 2) 0 with fn := 2 }) (vecRegs 0xFFFFFFFF 1 1 1 0) 3 (fun g => g.regs.creg 1) = some 1 := by decide +kernel
theorem test_fcmp_nan : onGrp (.fcmp { alu0 .f32 (.sp 1) (.v 1) (.v 2) 0 with fn := 1 }) (vecRegs 0x7FC00000 0 0 0 0) 3 (fun g => g.regs.creg 1) = some 1 := by decide +kernel
theorem test_sel : onGrp (.sel { vecW .b32 with imm := 0x201 }) { vecRegs 7 8 9 10 0 with c := [(1, 1)] } 3 (fun g => (g.regs.vreg 8 0, g.regs.vreg 8 1)) = some (7, 10) := by decide +kernel
theorem test_clop_movc : onGrp (.clop { alu0 .b8 (.sp 3) (.sp 1) (.sp 2) 0 with fn := 3 }) { Regs.reset with c := [(1, 3), (2, 2)] } 3 (fun g => g.regs.creg 3) = some 1 ∧
    onGrp (.movc (alu0 .b8 (.v 8) (.sp 1) Opnd.none 0)) { Regs.reset with c := [(1, 2)] } 3 (fun g => (g.regs.vreg 8 0, g.regs.vreg 8 1)) = some (0, 1) := by decide +kernel
theorem test_mov_movi : vec (.mov (vec1 .b32)) (vecRegs 9 0 0 0 0) = some (9, 0) ∧ onGrp (.movi (alu0 .s64 (.v 8) Opnd.none Opnd.none 0x80000000)) Regs.reset 1
    (fun g => (g.regs.vreg 8 0, g.regs.vreg 9 0)) = some (0x80000000, 0xFFFFFFFF) := by decide +kernel
/-- R86: 1.0 + 2^-24 rounds to even with NX; 3.4e38 doubled overflows. -/
theorem test_fadd_rounds : vec (.fadd (vecW .f32)) (vecRegs 0x3F800000 0 0x33800000 0 0) = some (0x3F800000, 1) := by decide +kernel
theorem test_fsub_fmul : vec (.fsub (vecW .f32)) (vecRegs 0x40000000 0 0x3F800000 0 0) = some (0x3F800000, 0) ∧
    vec (.fmul (vecW .f32)) (vecRegs 0x40000000 0 0x40400000 0 0) = some (0x40C00000, 0) := by decide +kernel
theorem test_ffma_np : vec (.ffma { vecC .f32 with fn := 1 }) (vecRegs 0x40000000 0 0x40400000 0 0x41000000) = some (0x40000000, 0) := by decide +kernel
theorem test_fmin_fmax_zero : vec (.fmin (vecW .f32)) (vecRegs 0x80000000 0 0 0 0) = some (0x80000000, 0) ∧ vec (.fmax (vecW .f32)) (vecRegs 0x7FC00000 0 0x3F800000 0 0) =
    some (0x3F800000, 0) := by decide +kernel
theorem test_fabs_fneg_fclass : vec (.fabs (vec1 .f32)) (vecRegs 0xBF800000 0 0 0 0) = some (0x3F800000, 0) ∧ vec (.fneg (vec1 .f32)) (vecRegs 0x3F800000 0 0 0 0) =
    some (0xBF800000, 0) ∧ vec (.fclass (vec1 .f32)) (vecRegs 0xFF800000 0 0 0 0) = some (1, 0) := by decide +kernel
theorem test_frnd : vec (.frnd (vec1 .f32)) (vecRegs 0x40200000 0 0 0 0) = some (0x40000000, 1) := by decide +kernel
theorem test_packed : vec (.pkadd (vecW .f16)) (vecRegs 0x40003C00 0 0x3C003C00 0 0) = some (0x42004000, 0) ∧ vec (.pkmul (vecW .f16)) (vecRegs 0x40003C00 0 0x40004000 0 0) =
    some (0x44004000, 0) ∧ vec (.pksub (vecW .f16)) (vecRegs 0x40003C00 0 0x3C003C00 0 0) = some (0x3C000000, 0) ∧
    vec (.pkfma (vecC .f16)) (vecRegs 0x40003C00 0 0x40004000 0 0x3C003C00) = some (0x45004200, 0) ∧
    vec (.pkmin (vecW .f16)) (vecRegs 0x40003C00 0 0x3C004000 0 0) = some (0x3C003C00, 0) ∧ vec (.pkmax (vecW .f16)) (vecRegs 0x40003C00 0 0x3C004000 0 0) =
    some (0x40004000, 0) := by decide +kernel
theorem test_pkdot : vec (.pkdot { vecC .f16 with imm := 3 }) (vecRegs 0x40003C00 0 0x40004000 0 0x3F800000) = some (0x40E00000, 0) := by decide +kernel
/-- R146: 1.5 of f32 to s32, RNE, is 2. -/
theorem test_cvt : vec (.cvt { alu0 .s32 (.v 8) (.v 1) Opnd.none 0 with fn := 8 }) (vecRegs 0x3FC00000 0 0 0 0) = some (2, 1) := by decide +kernel
theorem test_pack_unpack : vec (.pack2 (vecW .f16)) (vecRegs 0x3F800000 0 0x40000000 0 0) = some (0x40003C00, 0) ∧
    onGrp (.unpk2 (vec1 .f16)) (vecRegs 0x40003C00 0 0 0 0) 1 (fun g => (g.regs.vreg 8 0, g.regs.vreg 9 0)) = some (0x3F800000, 0x40000000) := by decide +kernel
theorem test_lane_exchange : onGrp (.shfl (vecW .b32)) (vecRegs 7 8 1 5 0) 3 (fun g => (g.regs.vreg 8 0, g.regs.vreg 8 1)) = some (8, 8) ∧
    onGrp (.shflx (alu0 .b32 (.v 8) (.v 1) (.imm 1) 0)) (vecRegs 7 8 0 0 0) 3 (fun g => (g.regs.vreg 8 0, g.regs.vreg 8 1)) = some (8, 7) ∧
    onGrp (.shflup (alu0 .b32 (.v 8) (.v 1) (.imm 1) 0)) (vecRegs 7 8 0 0 0) 3 (fun g => (g.regs.vreg 8 0, g.regs.vreg 8 1)) = some (7, 7) ∧
    onGrp (.shfldn (alu0 .b32 (.v 8) (.v 1) (.imm 1) 0)) (vecRegs 7 8 0 0 0) 3 (fun g => (g.regs.vreg 8 0, g.regs.vreg 8 1)) = some (8, 8) ∧
    onGrp (.bcast (alu0 .b32 (.v 8) (.v 1) (.imm 1) 0)) (vecRegs 7 8 0 0 0) 3 (fun g => (g.regs.vreg 8 0, g.regs.vreg 8 1)) = some (8, 8) := by decide +kernel
theorem test_votes : onGrp (.vall (alu0 .b8 (.sp 9) (.sp 1) Opnd.none 0)) { Regs.reset with c := [(1, 1)] } 3 (fun g => g.regs.kreg 1) = some false ∧
    onGrp (.vany (alu0 .b8 (.sp 9) (.sp 1) Opnd.none 0)) { Regs.reset with c := [(1, 1)] } 3 (fun g => g.regs.kreg 1) = some true ∧
    onGrp (.vbal (alu0 .b8 (.g 2) (.sp 1) Opnd.none 0)) { Regs.reset with c := [(1, 7)] } 3 (fun g => g.regs.greg 2) = some 3 ∧
    onGrp (.vfirst (alu0 .b8 (.g 2) (.sp 1) Opnd.none 0)) { Regs.reset with c := [(1, 4)] } 3 (fun g => g.regs.greg 2) = some 64 := by decide +kernel
/-- R153: RSQS of −0 is −∞, RCPS of +0 is +∞ with DZ, LG2S of 8 is 3. -/
theorem test_seeds : vec (.rsqs (vec1 .f32)) (vecRegs 0x80000000 0 0 0 0) = some (0xFF800000, 0) ∧ vec (.rcps (vec1 .f32)) (vecRegs 0 0 0 0 0) = some (0x7F800000, 8) ∧
    vec (.rcps (vec1 .f32)) (vecRegs 0x40000000 0x3F800000 0 0 0) = some (0x3F000000, 0) ∧ vec (.ex2s (vec1 .f32)) (vecRegs 0xFF800000 0 0 0 0) = some (0, 0) := by decide +kernel
theorem test_seeds_more : vec (.lg2s (vec1 .f32)) (vecRegs 0x41000000 0x3F800000 0 0 0) = some (0x40400000, 0) ∧ vec (.sins (vec1 .f32)) (vecRegs 0x80000000 0 0 0 0) =
    some (0x80000000, 0) ∧ vec (.coss (vec1 .f32)) (vecRegs 0 0 0 0 0) = some (0x3F800000, 0) := by decide +kernel
def uni (i : Instr) (a b : Nat) : Option Dword := onGrp i (regsOf [] [(1, a), (2, b)]) 1 (fun g => g.regs.greg 8)
def uniW : Alu := alu0 .b64 (.g 8) (.g 1) (.g 2) 0
theorem test_uniform : uni (.gadd uniW) (2 ^ 64 - 1) 2 = some 1 ∧ uni (.gsub uniW) 1 2 = some (BitVec.allOnes 64) ∧ uni (.gmul uniW) 3 4 = some 12 ∧
    uni (.gand uniW) 12 10 = some 8 ∧ uni (.gor uniW) 12 10 = some 14 ∧ uni (.gxor uniW) 12 10 = some 6 ∧ uni (.gshl uniW) 1 64 = some 0 ∧
    uni (.gshr { uniW with ty := .s64 }) (2 ^ 63) 70 = some (BitVec.allOnes 64) := by decide +kernel
theorem test_uniform_moves : uni (.gmov (alu0 .b64 (.g 8) (.g 1) Opnd.none 0)) 5 0 = some 5 ∧
    uni (.gmovi (alu0 .s64 (.g 8) Opnd.none Opnd.none 0xFFFFFFFF)) 0 0 = some (BitVec.allOnes 64) ∧
    onGrp (.gcmp { alu0 .s64 (.sp 9) (.g 1) (.g 2) 0 with fn := 2 }) (regsOf [] [(1, 2 ^ 64 - 1), (2, 1)]) 1 (fun g => g.regs.kreg 1) = some true ∧
    onGrp (.klop { alu0 .b8 (.sp 9) (.sp 15) (.sp 10) 0 with fn := 3 }) Regs.reset 1 (fun g => g.regs.kreg 1) = some true := by decide +kernel
theorem test_transfers : onGrp (.v2g (alu0 .b32 (.g 8) (.v 1) (.imm 1) 0)) (vecRegs 7 8 0 0 0) 3 (fun g => g.regs.greg 8) = some 8 ∧
    onGrp (.g2v (alu0 .b8 (.v 8) (.g 1) Opnd.none 0)) (regsOf [] [(1, 2)]) 3 (fun g => (g.regs.vreg 8 0, g.regs.vreg 8 1)) = some (0, 1) := by decide +kernel
/-- R48, R41: a false guard makes a word a no-op; a word that its row does not accept traps ILLOP. -/
theorem test_guard_and_illop : onGrp (.iadd { vecW .b32 with hdr := { Hdr.plain with k := 1 } }) (vecRegs 1 0 1 0 0) 3 (fun g => (g.regs.vreg 8 0, g.trap.isSome)) =
    some (0, false) ∧ onGrp (.iadd { vecW .b32 with fn := 1 }) (vecRegs 1 0 1 0 0) 3 trapCause = some (some .illop) := by decide +kernel

theorem wit_runs (w : Alu) (h : (Body.alu 0 w).good = true) (hk : w.hdr = Hdr.plain) (rg : Regs) : Runs (bodyOf (.iadd w)) (st0 (grp0 rg 3)) gid0 false (grp0 rg 3) (run0 3) :=
  runs0 _ _ _ rfl rfl h rfl (by simp [guardTrue, Body.hdr, bodyOf, hk, Hdr.plain, Regs.kreg])
theorem wit_vector_words : (Body.alu 0 (vecW .b32)).good = true ∧ (Body.alu 2 { vecW .b32 with imm := 0x202 }).good = true ∧ (Body.alu 0x0B (vecW .b32)).good = true ∧
    (Body.alu 0x11 (vec1 .b32)).good = true ∧ (Body.alu 0x25 { vecW .b32 with imm := 0x36003 }).good = true ∧ (Body.alu 0x30 (alu0 .s32 (.sp 1) (.v 1) (.v 2) 0)).good = true ∧
    (Body.alu 0x34 (vec1 .b32)).good = true ∧ (Body.alu 0x43 (vecC .f32)).good = true ∧ (Body.alu 0x60 (vecW .f16)).good = true ∧ (Body.alu 0x72 (vec1 .f16)).good = true ∧
    (Body.alu 0x80 (vecW .b32)).good = true ∧ (Body.alu 0x92 (alu0 .b8 (.g 2) (.sp 1) Opnd.none 0)).good = true ∧ (Body.alu 0xB0 uniW).good = true := by decide +kernel

/-! The load-store engine. Cluster memory is granted whole; one lane's operation stands in the engine. -/

def memRegs : Regs := regsOf [(64, 0x40), (128, 0x80), (129, 0)] [(2, 0x100), (9, 0x8000), (3, 0x1000)]
def part0 (lane addr : Nat) (d : BitVec 256) : Part :=
  { lane := lane, addr := addr, mt := 0, remote := false, data := d, val := 0, served := false, servedAt := 0, fin := false, refused := false, asked := false, put := false }
def op0 (k : MKind) (sp : Space) (wd : Nat) (ps : List Part) : MemOp :=
  { gid := gid0, pc := 0, ofs := 0, kind := k, space := sp, width := wd, order := .rlx, scope := .ln, parts := ps, dest := 8, arriveAt := 0, req := none
    sync := true, queued := false }
def grpM : Group := { grp0 memRegs 1 with loads := 1, stores := 1 }
def stOp (o : MemOp) : State := { st0 grpM with ops := [(1, o)], fresh := 2, pcc := 1000 }
/-- Whether a word puts one operation into the engine, with this kind and these lanes' addresses and data, and leaves these counters. -/
def enters (i : Instr) (mask : Lanes) (k : MKind) (ps : List (Nat × Nat × Nat)) (loads stores : Nat) : Bool :=
  match exec i (st0 (grp0 memRegs mask)) with
  | .next t => decide (t.ops.map (·.2.kind) = [k]) && decide (t.ops.flatMap (fun p => p.2.parts.map (fun x => (x.lane, x.addr, x.data.toNat))) = ps) &&
      decide ((t.grp gid0).map (·.loads) = some loads) && decide ((t.grp gid0).map (·.stores) = some stores)
  | .fault _ => false
  | .refused _ => false
def memW (sp : Space) (wd : Width) : Mem := mem0 sp wd (.v 8) (.v 1) 4

theorem test_ld_enters : enters (.ld (memW .cm .word)) 1 (.ld false) [(0, 0x44, 0)] 1 0 := by decide +kernel
theorem test_ldx_enters : enters (.ldx (memW .cm .half)) 1 (.ld true) [(0, 0x44, 0)] 1 0 := by decide +kernel
theorem test_lds_enters : enters (.lds { mem0 .cm .dword (.g 4) (.g 2) 8 with b := Opnd.none }) 1 (.lds) [(64, 0x108, 0)] 1 0 := by decide +kernel
theorem test_st_enters : enters (.st { memW .cm .half with d := .v 2 }) 1 (.st) [(0, 0x44, 0x80)] 0 1 := by decide +kernel
theorem test_send_enters : enters (.send (mem0 .cm .word (.v 2) (.v 1) 0x109)) 1 (.send 0x8000) [(0, 0x40, 0x80)] 0 1 := by decide +kernel
theorem test_aadd_classes : enters (.aadd (mem0 .cm .word (.v 8) (.v 1) 2)) 1 (.atom .add false true) [(0, 0x40, 0x80)] 1 0 ∧
    enters (.amax (mem0 .cm .word (.sp 7) (.v 1) 0x402)) 1 (.atom .max true false) [(0, 0x40, 0x80)] 0 1 := by decide +kernel
theorem test_atomics_enter : enters (.amin (mem0 .cm .word (.v 8) (.v 1) 2)) 1 (.atom .min false true) [(0, 0x40, 0x80)] 1 0 ∧
    enters (.aand (mem0 .cm .word (.v 8) (.v 1) 2)) 1 (.atom .and false true) [(0, 0x40, 0x80)] 1 0 ∧
    enters (.aor (mem0 .cm .word (.v 8) (.v 1) 2)) 1 (.atom .or false true) [(0, 0x40, 0x80)] 1 0 := by decide +kernel
theorem test_atomics_enter_more : enters (.axor (mem0 .cm .word (.v 8) (.v 1) 2)) 1 (.atom .xor false true) [(0, 0x40, 0x80)] 1 0 ∧
    enters (.axchg (mem0 .cm .word (.v 8) (.v 1) 2)) 1 (.atom .xchg false true) [(0, 0x40, 0x80)] 1 0 ∧
    enters (.afadd (mem0 .cm .word (.v 8) (.v 1) 2)) 1 (.atom .fadd false true) [(0, 0x40, 0x80)] 1 0 := by decide +kernel
theorem test_acas_pair : enters (.acas (mem0 .cm .word (.v 8) (.v 1) 2)) 1 (.atom .cas false true) [(0, 0x40, 0x80 + 0 * 2 ^ 32)] 1 0 := by decide +kernel
theorem test_align_before_space : onGrp (.ld (mem0 .cm .word (.v 8) (.v 1) 2)) memRegs 1 (fun g => (trapCause g, g.trap.map (·.lanes))) = some (some .align, some 1) ∧
    onGrp (.st (mem0 .cm .word (.v 8) (.v 1) 0x7FFFFFFC)) memRegs 1 trapCause = some (some .space) ∧ onGrp (.ld (mem0 .gl .word (.v 8) (.v 2) 0)) memRegs 1 trapCause =
    some (some .nomap) := by decide +kernel
theorem test_pref_nothing : onGrp (.pref (mem0 .gl .byte Opnd.none (.v 2) 0)) memRegs 1 (fun g => (g.loads, g.stores)) = some (0, 0) := by decide +kernel
theorem test_fence_holds : onGrp (.fence { mem0 .ln .byte Opnd.none Opnd.none 0 with order := .rel, scope := .di, b := Opnd.none }) memRegs 1
    (fun g => g.run.map (fun r => (r.wait, r.idx))) = some (some (.fence .di 1 none false 0, 0)) := by decide +kernel
theorem test_load_return : got (exec (.loadReturn 1) (stOp (op0 (.ld true) .cm 1 [{ part0 0 0x40 0 with served := true, val := 0x80 }])))
    (fun t => ((t.grp gid0).map (fun g => (g.regs.vreg 8 0, g.loads)), t.ops.length)) = some (some (0xFFFFFF80, 0), 0) := by decide +kernel
theorem test_store_leaves : got (exec (.storePerform 1) (stOp { op0 .st .cm 2 [part0 0 0x40 0xABCDEF] with queued := true })) (fun t =>
    (t.ops.map (fun p => (p.2.queued, p.2.arriveAt)), t.mems.cm)) = some ([(false, 1000)], []) := by decide +kernel
theorem test_bank_store : [0x3F, 0x40, 0x41, 0x42].map ((stOp (op0 .st .cm 2 [part0 0 0x40 0xABCDEF])).opServe 1 0 []).1.mems.cm.read = [0, 0xEF, 0xCD, 0] := by decide +kernel
theorem test_store_ends : got (exec (.storePerform 1) (stOp (op0 .st .cm 2 [{ part0 0 0x40 0 with served := true }]))) (fun t => ((t.grp gid0).map (·.stores), t.ops.length)) =
    some (some 0, 0) := by decide +kernel
theorem test_atomic_values : atomNew .min true 32 5 0xFFFFFFFF = some 0xFFFFFFFF ∧ atomNew .max true 32 5 0xFFFFFFFF = some 5 ∧ atomNew .add false 32 0xFFFFFFFF 2 = some 1 ∧
    atomNew .cas false 32 5 (7 * 2 ^ 32 + 5) = some 7 ∧ atomNew .cas false 32 5 (7 * 2 ^ 32 + 6) = none := by decide +kernel
def stSend (k : BitVec 64) : State := stOp (op0 (.send k) .cm 4 [part0 0 0x40 0x01020304])
theorem test_send_arrive : got (exec (.sendArrive 1 0) (stSend 0x8000)) (fun t => (t.mems.cm.read 0x41, t.ops.map (fun p => p.2.parts.map (·.refused)))) =
    some (3, [[false]]) ∧ got (exec (.sendArrive 1 0) (stSend 0x208000)) (fun t => (t.mems.cm, t.ops.map (fun p => p.2.parts.map (·.refused)))) = some ([], [[true]]) := by decide +kernel

/-! A mapped page of context 1, one record of line 0, and the leaf in cluster 0's LIB. -/

def page0 : PageHdr := { fetchPage with perm := 7 }
def entry0 : IxEntry := { IxEntry.empty with f0pos := 1, f0msk := 1, fmt := 1 }
def rec0 : Rec := { fetchRec 0 with payload := [0x0807060504030201] }
def glStore : Store := { Store.reset with pages := [(pageKey 1 0, page0)], leaves := [(leafKey 1 0, { ents := [(0, entry0)], dirty := false })], recs := [(1, rec0)] }
def leaf0 : LibLeaf := { ents := [(0, entry0)], hdr := page0, locks := 0, landed := true, miss := none, used := 0 }
def withGl (s : State) : State := { s with store := glStore, clusters := [(0, { Cluster.reset with lib := [(leafKey 1 0, leaf0)] })] }
/-- The same with the LIB's entry PREP, so that the home is asked. -/
def withPrepLeaf (s : State) : State :=
  { s with store := glStore, clusters := [(0, { Cluster.reset with lib := [(leafKey 1 0, { leaf0 with ents := [(0, { entry0 with prep := true })] })] })] }
theorem test_home_serves : got (exec (.loadServeHome 1 0) (withPrepLeaf (stOp (op0 (.ld false) .gl 4 [part0 0 0 0])))) (fun t => t.ops.map (fun p => p.2.parts.map (fun x => (x.served, x.val.toNat)))) =
    some [[(true, 0x04030201)]] := by decide +kernel

theorem wit_load_words : (Body.mem 0x100 (memW .cm .word)).good = true ∧ (st0 (grp0 memRegs 1)).checkLane 1 0 1 .cm (needLoad 4) 0x44 = .ok 0 false ∧
    (Body.mem 0x101 { mem0 .cm .dword (.g 4) (.g 2) 8 with b := Opnd.none }).good = true := by decide +kernel
theorem wit_effective : effective (grp0 memRegs 1) (run0 1) (.sp 7) 0 := ⟨by decide, by decide, by decide⟩
theorem wit_scratchpad_checks : (st0 (grp0 memRegs 1)).checkLane 1 0 1 .cr (needLoad 4) 0x3FFFC = .ok 0 false ∧ (st0 (grp0 memRegs 1)).checkLane 1 0 1 .cr (needLoad 4) 0x40000 = .bad .space ∧
    (st0 (grp0 memRegs 1)).checkLane 1 0 1 .ln (needLoad 4) (-4) = .bad .space := by decide +kernel
theorem wit_atomics_and_stores : (Body.mem 0x110 (mem0 .cm .word (.v 8) (.v 1) 2)).good = true ∧ (Body.mem 0x102 (memW .cm .half)).good = true ∧
    sendOk .cm (readGr memRegs (.g 9)) = true ∧ (Body.mem 0x103 (mem0 .cm .word (.v 2) (.v 1) 0x109)).good = true := by decide +kernel
theorem wit_first : firstOf (stSend 0x8000) 1 gid0 := by intro p hp _; simp [stSend, stOp] at hp; simp [hp]
theorem wit_covered : ∃ l, (stSend 0x8000).launches.get? grpM.launch = some l ∧ (∃ b ∈ (stSend 0x8000).blocks, b.2.launch = grpM.launch ∧ b.2.ended = false ∧ b.2.cluster = 0) ∧
    l.cmbase ≤ 0x40 ∧ 0x40 + 4 ≤ l.cmbase + l.cm := ⟨fetchLaunch, by decide +kernel, ⟨_, List.mem_cons_self .., rfl, rfl, rfl⟩, by decide, by decide⟩
theorem test_lib_serves : (withGl (stOp (op0 (.ld false) .gl 4 [part0 0 0 0]))).loadBytes 0 1 0 4 = some 0x04030201 := by decide +kernel
/-- A `.gl` load of one lane, at a line whose LIB entry is PREP. -/
def opHome : MemOp := op0 (.ld false) .gl 4 [part0 0 0 0]
def stHome : State := withPrepLeaf (stOp opHome)
theorem wit_home_load : stHome.ops.get? 1 = some opHome ∧ (stHome.grp gid0).isSome = true ∧ firstOf stHome 1 gid0 ∧ (∃ lf, (stHome.cl 0).lib.get? (leafOfLine (lineKey 1 0)) = some lf ∧ lf.landed = true) ∧
    stHome.isRemote (lineKey 1 0) = false ∧ stHome.cachedLine 0 1 0 = none ∧ (stHome.homeEntry (lineKey 1 0)).prep = false ∧ maskBytes 0 4 &&& ~~~(stHome.ownBytes 0 (lineKey 1 0)).1 ≠ 0 :=
  ⟨by decide +kernel, by decide +kernel, by intro p hp _; simp [stHome, withPrepLeaf, stOp] at hp; simp [hp], ⟨{ leaf0 with ents := [(0, { entry0 with prep := true })] }, by decide +kernel, rfl⟩, by decide +kernel, by decide +kernel, by decide +kernel, by decide +kernel⟩
/-- The same line with its first bytes in the cluster's write-combining buffer, and at a page of a peer. -/
def stOwn : State := { stHome with clusters := [(0, { stHome.cl 0 with buf := [(lineKey 1 0, { mask := 15, data := 0x44332211, first := 0, win := 0, order := 0 })] })] }
def stPeer : State := { stHome with store := { glStore with pages := [(pageKey 1 0, { page0 with owner := 5, remote := true })] } }
theorem wit_home_load_own : maskBytes 0 4 &&& ~~~(stOwn.ownBytes 0 (lineKey 1 0)).1 = 0 ∧ (stOwn.grp gid0).isSome = true ∧ stPeer.isRemote (lineKey 1 0) = true ∧ stPeer.ownerOf (lineKey 1 0) = 5 := by decide +kernel
theorem test_own_bytes_first : stOwn.loadBytes 0 1 0 4 = some 0x44332211 := by decide +kernel
theorem test_peer_asked : got (exec (.loadServeHome 1 0) stPeer) (fun t => (t.outbox.map (fun p => p.2.peer.toNat), t.ops.flatMap (fun p => p.2.parts.map (fun x => (x.asked, x.served))))) =
    some ([5], [(true, false)]) := by decide +kernel

/-! The log memory. Log 0 has an open segment; line 0 of context 1 stands in it. -/

def seg0 : Seg := { Seg.new 0 0 with used := 3 }
def logStore : Store := { glStore with segs := [(0, seg0)], logs := [(0, { Log.reset with seg := some 0 })] }
def stGl (g : Group) : State := { withGl (st0 g) with store := logStore, fresh := 10, pcc := 20000 }
/-- A publication of four bytes at the start of line 0, its line in state st. -/
def pline (st : PSt) : PLine := { PLine.of 1 0 0xF 0xAABBCCDD with msk := 1, pos := 3, fmt := 1, st := st }
def pub0 (st : PSt) : Pub := { log := 0, batch := false, runits := 3, rsegs := 0, key := 7, pubid := 1, rkind := 0, lines := [pline st], reqs := [], peer := none, granted := false, committing := false,
                               revoked := false, askedAt := 0 }
def prep0 : Prep := { holder := some 5, since := 0, queue := [], readers := [] }
def stPub (q : Pub) (ps : FMap Prep) : State := { stGl grpM with store := { logStore with pubs := [(5, q)], preps := ps } }
def lineSt (o : Out) : Option (List PSt × Bool) :=
  got o (fun t => ((match t.store.pubs.get? 5 with
    | some q => q.lines.map (·.st)
    | none => []), (t.homeEntry (lineKey 1 0)).prep))

theorem test_pub_lodges : got (exec (.pub { mem0 .gl .byte Opnd.none Opnd.none 0 with b := Opnd.none }) (stGl grpM)) (fun t => ((t.log 0).queue, t.store.reqs.map (·.2.kind))) =
    some ([10], [.batch]) := by decide +kernel
def pubrW : Mem := { mem0 .gl .byte (.sp 17) (.g 2) 0 with b := .g 3 }
theorem test_pubr_handle : after (.pubr pubrW) (stGl grpM) (fun g => (g.regs.freg 1, g.copies)) = some (0x40000001, 1) := by decide +kernel
def coreL1 : Core := { Core.reset with l1 := [(lineKey 1 0x100, 1), (lineKey 1 0x2000, 2)] }
theorem test_invr_drops : got (exec (.invr { mem0 .gl .byte Opnd.none (.g 2) 0 with b := .g 3 }) { stGl grpM with cores := [(0, coreL1)] }) (fun t => (t.core 0).l1.map (·.1)) =
    some [lineKey 1 0x2000] := by decide +kernel
theorem test_zline_enters : got (exec (.zline { mem0 .gl .byte Opnd.none (.g 2) 2 with b := Opnd.none }) (stGl grpM)) (fun t => t.ops.map (fun p => p.2.parts.map (fun x => (x.addr, x.data.toNat)))) =
    some [[(0x100, 2)]] := by decide +kernel
theorem test_gl_store_buffers : got (exec (.storePerform 1) { stGl grpM with ops := [(1, op0 .st .gl 4 [part0 0 4 0x11223344])] }) (fun t => ((t.cl 0).buf.map (fun b => (b.1, b.2.mask.toNat)),
    (t.grp gid0).map (·.stores))) = some ([(lineKey 1 0, 0xF0)], some 0) := by decide +kernel
def bufLn : BufLine := { mask := 0xF, data := 0x99, first := 0, win := 0x40, order := 0 }
def stBuf (t : BitVec 64) : State := { stGl grpM with pcc := t, clusters := [(0, { Cluster.reset with buf := [(lineKey 1 0, bufLn)], lib := [(leafKey 1 0, leaf0)] })] }
theorem test_window : got (exec (.wcbWindowExpire 0 (lineKey 1 0)) (stBuf 63)) (fun t => ((t.cl 0).buf.length, (t.cl 0).app.length)) = some (1, 0) ∧
    got (exec (.wcbWindowExpire 0 (lineKey 1 0)) (stBuf 64)) (fun t => ((t.cl 0).buf.length, (t.cl 0).app.length)) = some (0, 1) := by decide +kernel
def req0 : Req := { log := 0, ctx := 1, gid := none, kind := .solo, lines := [pline .sent], rkind := 0, since := 0, starved := none, upto := 0, st := .waiting }
def stReq : State := { stGl grpM with store := { logStore with logs := [(0, { Log.reset with seg := some 0, queue := [9] })], reqs := [(9, req0)] } }
theorem test_publication_start : got (exec (.publicationStart 0) stReq) (fun t => (t.store.pubs.map (fun p => (p.1, p.2.key, p.2.pubid)), (t.log 0).pub)) = some ([(10, 20000, 1)], some 10) := by decide +kernel
theorem test_prepare : lineSt (exec (.homePrepare 5 0) (stPub (pub0 .sent) [])) = some ([.granted], true) := by decide +kernel
theorem test_prepare_ack : lineSt (exec (.prepareAck 5 0) (stPub { pub0 .granted with lines := [pline .granted] } [(lineKey 1 0, prep0)])) = some ([.acked], false) := by decide +kernel
theorem test_commit : got (exec (.homeCommit 5 0) (stPub { pub0 .acked with committing := true } [(lineKey 1 0, prep0)])) (fun t => ((t.homeEntry (lineKey 1 0)).f0pos.toNat, t.store.preps.length)) =
    some (3, 0) := by decide +kernel
theorem test_publication_commit : got (exec (.publicationCommit 5) (stPub (pub0 .committed) [])) (fun t => (t.store.pubs.length, (t.log 0).pubid, (t.log 0).pub)) = some (0, 1, none) := by decide +kernel
theorem test_revoke_and_release : lineSt (exec (.revokeRequest 5) (stPub { pub0 .granted with revoked := true } [(lineKey 1 0, prep0)])) = some ([.releasing], false) ∧
    lineSt (exec (.homeRelease 5 0) (stPub (pub0 .releasing) [(lineKey 1 0, prep0)])) = some ([.sent], false) := by decide +kernel
theorem test_hold_timer : got (exec (.holdTimerExpire (lineKey 1 0)) (stPub (pub0 .granted) [(lineKey 1 0, prep0)])) (fun t => t.store.pubs.map (·.2.revoked)) = some [true] ∧
    got (exec (.holdTimerExpire (lineKey 1 0)) { stPub (pub0 .granted) [(lineKey 1 0, prep0)] with pcc := 16383 }) (fun t => t.store.pubs.map (·.2.revoked)) = some [false] := by decide +kernel
theorem test_read_back : readSector [(1, rec0)] (commitEntry IxEntry.empty 1 1 1) 0 = 0x0807060504030201 ∧ readSector [(1, rec0)] (commitEntry IxEntry.empty 1 1 1) 1 = 0 := by decide +kernel

theorem wit_commit : FMap.get? [(1, rec0)] (1#44).toNat = some rec0 ∧ needsImage IxEntry.empty 1 = false ∧ (IxEntry.empty.z = true → IxEntry.empty.f0msk = 0 ∧ IxEntry.empty.f1msk = 0) := by decide +kernel
theorem wit_publication_words : (Body.mem 0x200 { mem0 .gl .byte Opnd.none Opnd.none 0 with b := Opnd.none }).good = true ∧ (Body.mem 0x201 pubrW).good = true ∧
    (Ctx.empty.fut 0).st = .unused ∧ (memRegs.greg 2).toNat + (memRegs.greg 3).toNat ≤ 2 ^ 48 ∧ (stGl grpM).zlineChk 0 1 0x100 2 = .ok 0 false ∧
    (stGl grpM).canAccept 0 [lineKey 1 0x100, lineKey 1 0x200] ((stGl grpM).pendingLines 0) = true := by decide +kernel
theorem wit_buffered : ((stGl grpM).bufStore 0 1 4 4 0x11223344).isSome = true ∧ ((stBuf 64).flushLine 0 (lineKey 1 0)).isSome = true ∧ (stBuf 64).due 64 = true := by decide +kernel
theorem wit_slot : (stReq.log 0).pub = none ∧ (stReq.log 0).queue = [9] ∧ stReq.store.reqs.get? 9 = some req0 ∧ stReq.eligible req0 = true ∧
    (stReq.reserve 0 (resvUnits req0.lines)).isSome = true := by decide +kernel
theorem wit_prepare : (stPub (pub0 .sent) []).isRemote (pline .sent).key = false ∧ (stPub (pub0 .sent) []).mayGrantAt (pline .sent).key false = true ∧
    (stPub (pub0 .sent) []).store.preps.get? (pline .sent).key = none := by decide +kernel
theorem wit_buffered_turn : ({ stGl grpM with ops := [(1, op0 .st .gl 4 [part0 0 4 0x11223344])] } : State).partWaits (op0 .st .gl 4 [part0 0 4 0x11223344]) (part0 0 4 0x11223344) = false := by decide +kernel
theorem wit_revocation : (stPub { pub0 .granted with revoked := true } [(lineKey 1 0, prep0)]).store.preps.get? (pline .granted).key = some prep0 ∧ prep0.holder = some 5 ∧ prep0.queue = [] ∧
    (stPub (pub0 .granted) [(lineKey 1 0, prep0)]).due (prep0.since + 16384) = true := by decide +kernel
/-- The group with an atomic of its own, an acquire, still in the engine. -/
def stAcq : State := { stGl grpM with ops := [(1, { op0 (.atom .cas false true) .cm 4 [part0 0 0x40 0] with order := .acq })] }
theorem test_invr_waits : got (exec (.invr { mem0 .gl .byte Opnd.none (.g 2) 0 with b := .g 3 }) { stAcq with cores := [(0, coreL1)] }) (fun t =>
    ((t.core 0).l1.length, t.ops.map (·.2.kind))) = some (2, [.atom .cas false true, .inv 0x100 0x1000]) := by decide +kernel
theorem test_pub_asked : got (exec (.pub { mem0 .gl .byte Opnd.none Opnd.none 0 with b := Opnd.none }) { stGl grpM with ops := [(1, op0 .st .gl 4 [part0 0 4 1])] }) (fun t =>
    ((t.log 0).queue, t.store.reqs.map (·.2.st))) = some ([], [.asked]) := by decide +kernel

/-! The issue engine. A code page of context 1 whose first line holds four words: BKPT with LAND, RUNEND, and two words of zeros. -/

def wBkpt : IWord := (encode (.bkpt { ctl0 Opnd.none Opnd.none Opnd.none 0 0 with hdr := { Hdr.plain with land := true } })).getD 0 0
def wEnd : IWord := (encode (.runend (ctl0 Opnd.none Opnd.none Opnd.none 0 0))).getD 0 0
def codeRec : Rec := { fetchRec 0 with payload := [BitVec.ofNat 256 (wBkpt.toNat + wEnd.toNat * 2 ^ 96)] }
def codeStore : Store :=
  { Store.reset with pages := [(pageKey 1 0, fetchPage)], leaves := [(leafKey 1 0, { ents := [(0, fetchEntry)], dirty := false })], recs := [(1, codeRec)] }
def stCode (g : Group) : State := { st0 g with store := codeStore, pcc := 1000 }
def ctlOn (i : Instr) (rg : Regs) (m : Lanes) (f : Group → Run → Bool) : Bool :=
  (((got (exec i (stCode (grp0 rg m))) (fun t => (t.grp gid0).map (fun g => g.run.map (fun r => f g r)))).join).join).getD false
def ctlTrap (i : Instr) (rg : Regs) (c : Cause) (d0 d1 d2 : Dword) : Bool :=
  ((got (exec i (stCode (grp0 rg 3))) (fun t => (t.grp gid0).bind (fun g => g.trap.map (fun x => x.cause == c && x.detail0 == d0 && x.detail1 == d1 && x.detail2 == d2)))).join).getD false

theorem test_land_checks : (stCode (grp0 Regs.reset 3)).landCheck 0 1 0 0 = some 0 ∧ (stCode (grp0 Regs.reset 3)).landCheck 0 1 0 6 = some 2 ∧ (stCode (grp0 Regs.reset 3)).landCheck 0 1 0 12 = some 3 ∧
    (stCode (grp0 Regs.reset 3)).landCheck 0 1 0 0x20000 = some 1 ∧ (stCode (grp0 Regs.reset 3)).landCheck 0 1 0 (2 ^ 48) = some 1 := by decide +kernel
/-- R174: br goes its own lanes' way only; the rest fall through to the word after the run. -/
theorem test_br : ctlOn (.br (ctl0 Opnd.none (.sp 1) Opnd.none 0 3)) { Regs.reset with c := [(1, 2)] } 3 (fun _ r => r.nextPc 1 == 36 && r.nextPc 0 == 12) = true := by decide +kernel
theorem test_bru_call : ctlOn (.bru (ctl0 Opnd.none (.sp 9) Opnd.none 1 2)) Regs.reset 3 (fun _ r => r.nextPc 0 == 24 && r.nextPc 1 == 24) = true ∧
    ctlOn (.call (ctl0 (.v 4) Opnd.none Opnd.none 0 2)) Regs.reset 3 (fun _ r => r.nextPc 1 == 24 && r.link == some 4) = true := by decide +kernel
theorem test_jmpi_ret : ctlOn (.jmpi (ctl0 Opnd.none (.v 2) Opnd.none 0 0)) Regs.reset 3 (fun _ r => r.nextPc 0 == 0) = true ∧
    ctlTrap (.jmpi (ctl0 Opnd.none (.v 2) Opnd.none 0 0)) (regsOf [(128, 12), (129, 6)] []) .jmpbad 0 2 1 = true ∧
    ctlTrap (.ret (ctl0 Opnd.none (.v 2) Opnd.none 0 0)) (regsOf [(192, 1)] []) .jmpbad 1 0 0 = true := by decide +kernel
theorem test_exit_tret : ctlOn (.exit (ctl0 Opnd.none Opnd.none Opnd.none 0 0)) Regs.reset 3 (fun _ r => r.exits == 3) = true ∧
    ctlTrap (.tret (ctl0 Opnd.none (.g 1) Opnd.none 0 0)) Regs.reset .illop 0 0 0 = true ∧
    got (exec (.tret (ctl0 Opnd.none (.g 1) Opnd.none 0 0)) (stCode { grp0 Regs.reset 3 with handler := true })) (fun t => ((t.grp gid0).bind (·.run)).map (fun r => (r.tret, r.nextPc 0))) =
    some (some (true, 0)) := by decide +kernel
theorem test_trap_bkpt : ctlTrap (.trapOp (ctl0 Opnd.none Opnd.none Opnd.none 0 0x85)) Regs.reset (.prog 0x85) 0 0 0 = true ∧
    ctlTrap (.bkpt (ctl0 Opnd.none Opnd.none Opnd.none 0 0)) Regs.reset .bkpt 0 0 0 = true := by decide +kernel
theorem test_nop_wait_rjoin : ctlOn (.nop (ctl0 Opnd.none Opnd.none Opnd.none 0 0)) Regs.reset 3 (fun g r => r.idx == 1 && g.regs == Regs.reset) = true ∧
    ctlOn (.wait (ctl0 Opnd.none Opnd.none Opnd.none 0 0xFFFFFFFF)) Regs.reset 3 (fun g r => r.idx == 1 && g.regs == Regs.reset) = true ∧
    ctlOn (.rjoin (ctl0 Opnd.none (.sp 40) Opnd.none 0 0)) Regs.reset 3 (fun g r => r.idx == 1 && g.regs == Regs.reset) = true := by decide +kernel
theorem test_pause : ctlOn (.pause (ctl0 Opnd.none Opnd.none Opnd.none 0 0x80)) Regs.reset 3 (fun _ r => r.yieldReq == 0x80) = true := by decide +kernel
theorem test_bar_sstep : ctlOn (.bar (ctl0 Opnd.none (.g 5) Opnd.none 3 3)) (regsOf [] [(5, 2)]) 3 (fun _ r => r.arrive == [⟨.cl, 3, 2, false⟩]) = true ∧
    ctlTrap (.sstep (ctl0 Opnd.none (.g 5) Opnd.none 3 3)) (regsOf [] [(5, 0x1000001)]) .illop 0 0 0 = true ∧
    ctlOn (.sstep (ctl0 Opnd.none (.g 5) Opnd.none 3 3)) (regsOf [] [(5, 0x1000000)]) 3 (fun _ r => r.arrive == [⟨.cl, 3, 0x1000000, true⟩]) = true := by decide +kernel
def spawnW : Ctl := ctl0 (.sp 9) Opnd.none Opnd.none 0 0
def gid1 : Nat := gidOf 1 0 1
theorem test_spawn : got (exec (.spawn spawnW) (stCode (grp0 (regsOf [(449, 7), (513, 8)] [(3, 9)]) 2))) (fun t => ((t.grp gid0).map (·.regs.kreg 1),
    (t.grp gid1).map (fun g => g.regs.vreg 7 1 == 7 && g.regs.vreg 8 1 == 0 && g.regs.greg 3 == 9 && g.pcs.map (·.mask) == [2]))) = some (some true, some true) := by decide +kernel
theorem test_runend : got (exec (.runend (ctl0 Opnd.none Opnd.none Opnd.none 0x300 0)) (stCode { grp0 Regs.reset 3 with pcs := [], run := some { run0 3 with goto := [(1, 36)], exits := 1 } }))
    (fun t => (t.grp gid0).map (fun g => (g.run.isNone, g.wmask, g.pcs.map (fun e => (e.mask, e.pc))))) = some (some (true, 3, [(2, 36)])) := by decide +kernel
theorem test_runend_waits : got (exec (.runend (ctl0 Opnd.none Opnd.none Opnd.none 0 0)) (stCode { grp0 Regs.reset 3 with run := some { run0 3 with arrive := [⟨.di, 3, 2, false⟩] } }))
    (fun t => (t.grp gid0).map (fun g => g.run.map (·.wait))) = some (some (some (.fence .di 1 none false 0))) := by decide +kernel
def fut5 (st : FutSt) : Fut := { cls := 2, gen := 7, st := st, gid := none, launch := 1, op := 33 }
def stFut (st : FutSt) : State := { stCode (grp0 { Regs.reset with f := [(1, 0x20050007)] } 3) with ctxs := [(1, { Ctx.empty with priv := true, futs := [(5, fut5 st)] })] }
theorem test_ftest : (got (exec (.ftest (ctl0 (.g 4) (.sp 17) Opnd.none 0 0)) (stFut .pending)) (fun t => (t.grp gid0).map (·.regs.greg 4))) = some (some 0) ∧
    (got (exec (.ftest (ctl0 (.g 4) (.sp 17) Opnd.none 0 0)) (stFut (.failed .illop))) (fun t => (t.grp gid0).map (·.regs.greg 4))) = some (some 0x102) ∧
    (got (exec (.ftest (ctl0 (.sp 9) (.sp 17) Opnd.none 0 0)) (stFut .pending)) (fun t => (t.grp gid0).map (·.regs.kreg 1))) = some (some false) := by decide +kernel
theorem test_handle_moves : onGrp (.fmovg (ctl0 (.g 4) (.sp 17) Opnd.none 0 0)) { Regs.reset with f := [(1, 0xA0050007)] } 3 (fun g => g.regs.greg 4) = some 0xA0050007 ∧
    onGrp (.gmovf (ctl0 (.sp 17) (.g 4) Opnd.none 0 0)) (regsOf [] [(4, 0x1_2005_0007)]) 3 (fun g => g.regs.freg 1) = some 0x20050007 := by decide +kernel
theorem test_fcancel_done : got (exec (.fcancel (ctl0 Opnd.none (.sp 17) Opnd.none 0 0)) (stFut .ok)) (fun t => ((t.ctx? 1).map (fun c => (c.fut 5).st), (t.grp gid0).map (fun g => g.run.map (·.idx)))) =
    some (some .ok, some (some 1)) := by decide +kernel
def copy0 : CopyOp := { opc := 0x240, imm := 0, ssp := .gl, dsp := .cm, stat := false, src := 0, dst := 0, cols := 0, rows := 0, dstr := 0, sstr := 0, aux := 0, stw := 0 }
def aopOf (k : AKind) (st : AStage) : AOp := AOp.new 1 none 1 0 5 k st 0
theorem test_fcancel_queued : got (exec (.fcancel (ctl0 Opnd.none (.sp 17) Opnd.none 0 0)) { stFut .pending with aops := [(33, aopOf (.copy copy0) .queued)] })
    (fun t => ((t.ctx? 1).map (fun c => (c.fut 5).st), t.aops.length)) = some (some .cancelled, 0) := by decide +kernel
def csr (n : BitVec 8) : Opnd := .sp n
theorem test_csrr : onGrp (.csrr (ctl0 (.v 8) (csr 0x44) Opnd.none 0 0)) Regs.reset 3 (fun g => (g.regs.vreg 8 0, g.regs.vreg 8 1)) = some (0, 1) ∧
    onGrp (.csrr (ctl0 (.g 8) (csr 0x46) Opnd.none 0 0)) Regs.reset 3 (fun g => g.regs.greg 8) = some 1 := by decide +kernel
theorem test_csrw : onGrp (.csrw (ctl0 (csr 0x41) (.g 1) Opnd.none 0 0)) (regsOf [] [(1, 0x1FF)]) 3 (·.fpstat) = some 0x7F ∧
    onGrp (.csrw (ctl0 (csr 0x42) (.g 1) Opnd.none 0 0)) (regsOf [] [(1, 0x3FF)]) 3 (·.stallwd) = some 1024 ∧
    onGrp (.csrw (ctl0 (csr 0x42) (.g 1) Opnd.none 0 0)) (regsOf [] [(1, 0x401)]) 3 (·.stallwd) = some 1025 := by decide +kernel
theorem test_csrw_context : got (exec (.csrw (ctl0 (csr 0x83) (.g 1) Opnd.none 0 0)) (stCode (grp0 (regsOf [] [(1, 0x100000000)]) 3))) (fun t => (t.ctx? 1).map (fun c => (c.hen, c.ben))) =
    some (some (true, false)) ∧ got (exec (.csrw (ctl0 (csr 0x82) (.g 1) Opnd.none 0 0)) (stCode (grp0 (regsOf [] [(1, 5)]) 3))) (fun t => (t.ctx? 1).map (·.logstall)) = some (some 1024) ∧
    got (exec (.csrw (ctl0 (csr 0x81) (.g 1) Opnd.none 0 0)) (stCode (grp0 (regsOf [] [(1, 0x1123)]) 3))) (fun t => (t.cl 0).wcwin) = some 0x123 := by decide +kernel
theorem test_trace_flush : got (exec (.traceFlush (ctl0 (csr 0x83) (.g 1) Opnd.none 0 0)) (stCode (grp0 (regsOf [] [(1, 0x10000000000)]) 3))) (fun t => ((t.ctx? 1).map (·.fh), t.aops.map (·.2.kind == .flush))) =
    some (some 0xA0000001, [true]) := by decide +kernel
def mailW (imm : BitVec 32) (mod : BitVec 12) : Ctl := ctl0 (.g 4) Opnd.none (if mod = 0 then Opnd.none else .sp 9) mod imm
def place (m : BitVec 64) (rdy : Bool) : MailPlace := { msg := m, ready := rdy, lost := false, byGroup := none, upto := 0 }
def stMail (ps : List MailPlace) : State := { stCode (grp0 (regsOf [] [(1, 77)]) 3) with clusters := [(0, { Cluster.reset with mail := FMap.put [] [] 2 ps, mailOpen := true })] }
theorem test_sqpost : got (exec (.sqpostGroup (ctl0 Opnd.none (.g 1) Opnd.none 0 2)) (stMail [place 5 true])) (fun t => ((t.cl 0).box 2).map (·.msg)) = some [5, 77] := by decide +kernel
theorem test_sqwait : got (exec (.sqwaitGroup (mailW 2 0)) (stMail [place 5 true, place 6 true])) (fun t => (((t.cl 0).box 2).map (·.msg), (t.grp gid0).map (·.regs.greg 4))) = some ([6], some 5) ∧
    got (exec (.sqwaitGroup (mailW 2 1)) (stMail [])) (fun t => (t.grp gid0).map (fun g => (g.regs.greg 4, g.regs.kreg 1))) = some (some (0, false)) := by decide +kernel

theorem wit_landing : (stCode (grp0 Regs.reset 3)).fetchWord 0 1 0 = .ok wBkpt ∧ (stCode (grp0 Regs.reset 3)).fetchWord 0 1 0x20000 = .bad .nomap := by decide +kernel
theorem wit_issue_words : (Body.ctl 0x182 (ctl0 Opnd.none (.sp 1) Opnd.none 0 3)).good = true ∧ (Body.ctl 0x184 (ctl0 Opnd.none (.v 2) Opnd.none 0 0)).good = true ∧
    (Body.ctl 0x198 (ctl0 Opnd.none (.g 1) Opnd.none 0 0)).good = true ∧ (Body.ctl 0x189 (ctl0 Opnd.none (.g 5) Opnd.none 3 3)).good = true ∧ (Body.ctl 0x187 spawnW).good = true ∧
    (Body.ctl 0x180 (ctl0 Opnd.none Opnd.none Opnd.none 0x300 0)).good = true ∧ (Body.ctl 0x196 (mailW 2 0)).good = true := by decide +kernel
theorem wit_spawn : (stCode (grp0 Regs.reset 2)).freeSlot 0 = some 1 ∧ (stCode (grp0 Regs.reset 2)).freeIndex 1 0 1 = some 1 ∧
    (stCode (grp0 Regs.reset 2)).regsUsed 0 + (grp0 Regs.reset 2).nregs ≤ 1024 := by decide +kernel
theorem wit_spawn_full : ¬ ((stCode { grp0 Regs.reset 2 with nregs := 513 }).regsUsed 0 + 513 ≤ 1024) := by decide +kernel
theorem wit_queued_cancel : ((stFut .pending).ctx? 1).map (fun c => (c.live? 0x20050007).map (·.op)) = some (some 33) ∧ hTag 0x20050007 = 5 := by decide +kernel
theorem wit_mail : (stMail [place 5 true]).takeable 0 (place 5 true) = true ∧ { stMail [] with ops := [(1, op0 .st .cm 4 [part0 0 0x40 0])] }.takeable 0 { place 5 false with byGroup := some gid0, upto := 2 } = false := by decide +kernel

/-! The issue engine's steps. -/

def ent0 (pc : Pc) (m : Lanes) : Entry := { pc := pc, mask := m, age := 0, yield := none, held := [], noAge := false, frozen := false, fresh := false }
def grpR (es : List Entry) : Group := { grp0 Regs.reset 3 with run := none, pcs := es }
def grpOf {α : Type} (o : Out) (f : Group → α) : Option α := (got o (fun t => (t.grp gid0).map f)).join
def trap0 (c : Cause) (q : Option Nat) : Trap :=
  { cause := c, deferred := false, ofs := 1, wpc := 0x30, mask := 1, lanes := 1, detail0 := 7, detail1 := 8, detail2 := 9, req := q, stamp := 5 }
def reqDone : Req := { log := 0, ctx := 1, gid := none, kind := .solo, lines := [], rkind := 0, since := 0, starved := none, upto := 0, st := .complete }
def stReqs (g : Group) (q : Req) : State := { stCode g with store := { codeStore with reqs := [(9, q)] }, fresh := 10 }
def handled (s : State) : State := { s with launches := [(1, { fetchLaunch with trapOfs := some 0x60 })] }

theorem test_candidate : candidate 10 [{ ent0 0 1 with held := [(3, 1)] }, { ent0 12 2 with yield := some 11 }, ent0 24 4] = some (ent0 24 4) ∧
    candidate 10 [ent0 0 1, { ent0 12 2 with age := 64, held := [(3, 1)] }] = some { ent0 12 2 with age := 64, held := [(3, 1)] } ∧
    candidate 10 [{ ent0 0 1 with age := 64, frozen := true }, { ent0 12 2 with held := [(3, 1)] }] = none := by decide +kernel
theorem test_arbitration : grpOf (exec (.runArbitration 0) (stCode (grpR [ent0 0 3]))) (fun g => g.run.map (fun r => (r.words.length, r.mask))) = some (some (2, 3)) := by decide +kernel
/-- R53: a run that starts past the grid of its code has no words to decode there; its page has none beyond 128 KiB. -/
theorem test_arbitration_traps : grpOf (exec (.runArbitration 0) (stCode (grpR [ent0 0x20000 3]))) (fun g => (g.run.isSome, trapCause g, g.trap.map (·.mask))) = some (false, some .nomap, some 3) := by decide +kernel
theorem test_resume : grpOf (exec (.runResume gid0) (stCode { grp0 Regs.reset 3 with run := some { run0 3 with words := [0, 0], wait := .fence .cl 5 none false 0 } })) (fun g => g.run.map (fun r => (r.wait, r.idx))) =
    some (some (.none, 1)) ∧ grpOf (exec (.runResume gid0) (stCode { grp0 Regs.reset 3 with run := some { run0 3 with wait := .fence .cl 5 none false 0 } })) (fun g => g.run.map (fun r => (r.idx, r.released))) =
    some (some (0, true)) := by decide +kernel
theorem test_resume_publishes : got (exec (.runResume gid0) (stCode { grp0 Regs.reset 3 with run := some { run0 3 with wait := .fence .di 5 none false 0 } })) (fun t => ((t.grp gid0).map (fun g => g.run.map (·.wait)),
    t.store.reqs.map (fun p => p.1))) = some (some (some (.fence .di 5 (some 1) false 0)), [1]) := by decide +kernel
theorem test_trap_record : (trapRecord (grpR []) (trap0 .align none) 5).length = 128 ∧ natOfBytes (((trapRecord (grpR []) (trap0 .align none) 5).drop 0x10).take 8) = 0x30 := by decide +kernel
theorem test_trap_take_publishes : got (exec (.trapTake gid0) (stCode { grpR [ent0 0 1] with trap := some (trap0 .align none) })) (fun t => ((t.log 0).queue, t.store.reqs.map (fun p => p.1), (t.grp gid0).map (fun g => g.trap.map (·.req)))) =
    some ([1], [1], some (some (some 1))) := by decide +kernel
theorem test_trap_take_enters : grpOf (exec (.trapTake gid0) (handled (stReqs { grpR [ent0 0x30 1, ent0 0x90 2] with trap := some (trap0 .align (some 9)) } reqDone)))
    (fun g => g.handler && g.tpc == 0x30 && g.tlmask == 1 && g.pcs.map (fun e => (e.pc, e.mask)) == [(0x60, 1), (0x90, 2)] && g.pcs.map (·.frozen) == [false, true]) = some true := by decide +kernel
theorem test_trap_take_stops : got (exec (.trapTake gid0) (stReqs { grpR [ent0 0x30 1] with trap := some (trap0 .align (some 9)) } reqDone)) (fun t => ((t.grp gid0).map (fun g => (g.stopped, g.tcause)),
    t.launches.map (fun p => p.2.failure))) = some (some (true, 0x10005 + 2), [some (5, 0, .align)]) := by decide +kernel
theorem test_yield : grpOf (exec (.yieldExpire gid0 0) (stCode (grpR [{ ent0 0 1 with yield := some 1000 }]))) (fun g => g.pcs.map (·.yield)) = some [none] ∧
    grpOf (exec (.yieldExpire gid0 0) (stCode (grpR [{ ent0 0 1 with yield := some 1001 }]))) (fun g => g.pcs.map (·.yield)) = some [some 1001] := by decide +kernel
def bar0 : Bar := { phase := 5, count := 2, arrivals := 1, scope := .cl, complete := [4] }
theorem test_barrier_release : got (exec (.barrierRelease 77) { stCode (grpR [{ ent0 0 1 with held := [(4, 1)] }, { ent0 12 2 with held := [(5, 2)] }]) with bars := [(77, bar0)] })
    (fun t => ((t.grp gid0).map (fun g => g.pcs.map (·.held)), t.bars.map (fun p => p.2.complete))) = some (some [[], [(5, 2)]], [[]]) := by decide +kernel
theorem test_stall : grpOf (exec (.stall gid0) { stCode { grpR [ent0 0 1] with stallwd := 1024 } with pcc := 1024 }) trapCause = some (some .stall) ∧
    grpOf (exec (.stall gid0) { stCode { grpR [ent0 0 1] with stallwd := 1024 } with pcc := 1023 }) trapCause = some none := by decide +kernel
theorem test_logstall : grpOf (exec (.logstallExpire gid0) { stCode { grp0 Regs.reset 3 with run := some { run0 3 with wait := .logSpace 0x100000 } } with pcc := 0x100000 }) trapCause = some (some .logfull) ∧
    grpOf (exec (.logstallExpire gid0) { stCode { grp0 Regs.reset 3 with run := some { run0 3 with wait := .logSpace 0x100000 } } with pcc := 0xFFFFF }) trapCause = some none := by decide +kernel
def blk (a r : Bool) : Block := { fetchBlock with ask := a, resident := r }
def stBlk (g : Group) (b : Block) : State := { stReqs g reqDone with blocks := [(blockKey 1 0, b)] }
theorem test_preempt_request : grpOf (exec (.preemptRequest gid0) (stBlk (grpR [ent0 0 1]) (blk true true))) (·.saveReq) = some true ∧
    grpOf (exec (.preemptRequest gid0) (stBlk (grpR [ent0 0 1]) (blk false true))) (·.saveReq) = some false := by decide +kernel
theorem test_save : grpOf (exec (.groupSave gid0) (stBlk { grpR [ent0 0 1] with saveReq := true } (blk true true))) (fun g => (g.place, g.saveOp)) = some (.saving 0 0, some 10) ∧
    grpOf (exec (.groupSave gid0) (stBlk { grpR [ent0 0 1] with saveReq := true, place := .saving 0 0, saveOp := some 9 } (blk true true))) (fun g => (g.place, g.saveReq)) = some (.saved, false) := by decide +kernel
theorem test_restore : grpOf (exec (.groupRestore gid0 5) (stBlk { grpR [{ ent0 0 1 with yield := some 4, age := 3 }] with place := .saved } (blk false true))) (fun g => (g.place, g.pcs.map (fun e => (e.age, e.yield)))) =
    some (.resident 5 0, [(3, none)]) := by decide +kernel
theorem test_group_end : got (exec (.groupEnd gid0) (stCode (grpR []))) (fun t => t.groups.length) = some 0 ∧ got (exec (.groupEnd gid0) (stCode { grpR [] with tiles := 1 })) (fun t => t.groups.length) = some 1 := by decide +kernel
theorem test_lanes_return : grpOf (exec (.lanesReturn gid0 2) (stCode { grpR [] with parked := [{ lane := 1, j := 2, pc := 24 }] })) (fun g => (g.parked.length, g.pcs.map (fun e => (e.pc, e.mask)))) =
    some (0, [(24, 2)]) := by decide +kernel

theorem wit_run_start : (stCode (grpR [ent0 0 3])).portsBusy 0 = false ∧ (grpR [ent0 0 3]).mayRun = true ∧ candidate 1000 (grpR [ent0 0 3]).pcs = some (ent0 0 3) ∧
    FMap.sorted (stCode (grpR [ent0 0 3])).groups = true ∧ ((stCode (grpR [ent0 0 3])).slot 0).flush = 0 ∧
    (match (stCode (grpR [ent0 0 3])).decodeRun 0 1 128 true 0 with
      | .ok _ is => (stCode (grpR [ent0 0 3])).runReady 0 gid0 (grpR [ent0 0 3]) (ent0 0 3) is && ((stCode (grpR [ent0 0 3])).startTrap 0 (grpR [ent0 0 3]) (ent0 0 3) is).isNone
      | _ => false) = true := by decide +kernel
theorem wit_ports_busy : (stCode (grp0 Regs.reset 3)).portsBusy 0 = true := by decide +kernel
theorem wit_resume : (stCode { grp0 Regs.reset 3 with run := some { run0 3 with wait := .fence .cl 5 none false 0 } }).resumeOk gid0
    { grp0 Regs.reset 3 with run := some { run0 3 with wait := .fence .cl 5 none false 0 } } { run0 3 with wait := .fence .cl 5 none false 0 } = true := by decide +kernel
theorem wit_trap : (stReqs (grpR []) reqDone).reqSt 9 = .complete ∧ (handled (stReqs (grpR []) reqDone)).handlerPc (grpR []) = some 0x60 ∧ (stReqs (grpR []) reqDone).handlerPc (grpR []) = none ∧
    (stReqs (grpR []) reqDone).drained gid0 (grpR []) = true := by decide +kernel
theorem wit_restore : restoreCore (stBlk (grpR []) (blk false true)) (grpR []) 5 = true ∧ (stBlk { grpR [] with place := .saved } (blk false true)).freeSlot 5 = some 0 := by decide +kernel
theorem wit_logstall : (stCode (grp0 Regs.reset 3)).store.reqs = [] ∧ ({ stCode (grp0 Regs.reset 3) with pcc := 0x100000 } : State).due (0 + (0x100000#32).setWidth 64) = true := by decide +kernel

/-! Translation and migration. Page 0 of context 1 is homed on die 0; its migration log is 259. -/

def wTl : Ctl := ctl0 (.sp 9) (.g 1) (.g 2) 0 0
def wF (mod : BitVec 12) (imm : BitVec 32) : Ctl := ctl0 (.sp 17) (.g 1) (.g 2) mod imm
def wF1 (imm : BitVec 32) : Ctl := ctl0 (.sp 17) (.g 1) Opnd.none 0 imm
def wF0 (imm : BitVec 32) : Ctl := ctl0 (.sp 17) Opnd.none Opnd.none 0 imm
def ab (a b : Nat) : Regs := regsOf [] [(1, a), (2, b)]
/-- A mapped page with one line, and an open segment in every log named. -/
def pageStore (hdr : PageHdr) (logs : List Nat) (seg : Nat) : Store :=
  { glStore with pages := [(pageKey 1 0, hdr)], segs := [(seg, { Seg.new 259 0 with used := 3 })], logs := logs.map (fun n => (n, { Log.reset with seg := some seg })) }
def stPage (g : Group) : State := { st0 g with store := pageStore page0 [259] 0, fresh := 10, pcc := 20000 }
def mig0 : Mig := Mig.new false
def wait0 (req can : Bool) : Waiter := { die := 0, page := pageKey 1 0, who := .group gid0, launch := 1, ctx := 1, requested := req, cancel := can }

theorem test_tlock : got (exec (.tlock wTl) (stPage (grp0 (ab 0x1FFF 2) 3))) (fun t => ((t.cl 0).lib.map (fun p => (p.1, p.2.locks)), (t.grp gid0).map (fun g => (g.regs.kreg 1, g.loads)))) =
    some ([(leafKey 1 0x1000, 1), (leafKey 1 0x2000, 1)], some (true, 1)) := by decide +kernel
theorem test_tlock_edges : onGrp (.tlock wTl) (ab (2 ^ 48 - 1) 1) 3 trapCause = some none ∧ onGrp (.tlock wTl) (ab (2 ^ 48 - 1) 2) 3 trapCause = some (some .nomap) ∧
    onGrp (.tlock wTl) (ab 5 0) 3 (fun g => (g.regs.kreg 1, g.loads)) = some (true, 0) ∧ onGrp (.tlock wTl) (ab 0 0x400001) 3 (fun g => (g.regs.kreg 1, g.loads)) = some (false, 0) := by decide +kernel
def lk0 (a n : Nat) : LockRec := { base := a, len := n, leaves := leavesOf 1 a n }
def stLocked : State := { stPage (grp0 (ab 0 4096) 3) with
  blocks := [(blockKey 1 0, { fetchBlock with locks := [lk0 0 8192, lk0 0 4096] })]
  clusters := [(0, { Cluster.reset with lib := [(leafKey 1 0, { leaf0 with locks := 2 })] })] }
theorem test_tunlock : got (exec (.tunlock { wTl with d := Opnd.none }) stLocked) (fun t => ((t.cl 0).lib.map (·.2.locks), t.blocks.map (fun p => p.2.locks.map (·.len)))) = some ([1], [[8192]]) := by decide +kernel
theorem test_tprobe : onGrp (.tprobe (wF 0 0)) (ab 0 0x40) 3 (fun g => (g.regs.freg 1, g.copies)) = some (0x50000001, 0) ∧ onGrp (.tprobe (wF 0 0)) (ab 0 0x48) 3 trapCause = some (some .align) ∧
    onGrp (.tprobe (wF 0 0)) (ab 0 0x600000) 3 trapCause = some (some .space) := by decide +kernel
theorem test_migr : onGrp (.migr (wF 1 0)) (ab (2 ^ 48) 1) 3 trapCause = some (some .nomap) ∧ got (exec (.migr (wF 1 0)) (stPage (grp0 (ab 0x20000 0) 3))) (fun t => ((t.ctx? 1).map (fun c => (c.fut 0).st), t.aops.length)) =
    some (some .ok, 0) ∧ got (exec (.migr (wF 1 0)) (stPage (grp0 (ab 0x20000 1) 3))) (fun t => ((t.ctx? 1).map (fun c => (c.fut 0).st), t.aops.map (·.2.kind == .migr 0x20000 1 true 1))) =
    some (some .pending, [true]) := by decide +kernel
def withFut (s : State) (f : Fut) (o : AOp) : State := { s with ctxs := [(1, { Ctx.empty with priv := true, futs := [(5, f)] })], aops := [(33, o)] }
/-- Table 15-2: an unmapped address reads no bits; beyond 2^48 bit 60 is 1. -/
theorem test_tprobe_result : got (exec (.tprobeResult 33) (withFut (stPage (grpR [])) (fut5 .pending) (aopOf (.tprobe (2 ^ 48) 0x40) .running))) (fun t => ((t.ctx? 1).map (fun c => (c.fut 5).st),
    t.mems.cm.read 0x47, t.mems.cm.read 0x40, t.aops.length)) = some (some .ok, 0x10, 0, 0) := by decide +kernel
theorem test_walk_and_fill : got (exec (.translationWalk 0 (leafKey 1 0)) (stPage (grpR []))) (fun t => (t.cl 0).lib.map (fun p => (p.1, p.2.landed))) = some [(leafKey 1 0, false)] ∧
    got (exec (.libFill 0 (leafKey 1 0)) { stPage (grpR []) with clusters := [(0, { Cluster.reset with lib := [(leafKey 1 0, { leaf0 with landed := false, ents := [], locks := 2 })] })] })
      (fun t => (t.cl 0).lib.map (fun p => (p.2.landed, p.2.locks, p.2.ents == [(0, entry0)]))) = some [(true, 2, true)] := by decide +kernel
def opLock : MemOp := op0 .tlock .gl 1 [part0 64 0 0]
theorem test_tlock_fill_land : got (exec (.tlockFillLand 1) { stPage { grpR [] with loads := 1 } with ops := [(1, opLock)] }) (fun t => ((t.grp gid0).map (·.loads), t.ops.length)) = some (some 0, 0) ∧
    got (exec (.tlockFillLand 1) { stPage { grpR [] with loads := 1 } with ops := [(1, opLock)], clusters := [(0, { Cluster.reset with lib := [(leafKey 1 0, { leaf0 with landed := false })] })] })
      (fun t => ((t.grp gid0).map (·.loads), t.ops.length)) = some (some 1, 1) := by decide +kernel
theorem test_page_request : got (exec (.pageRequest 0 (pageKey 1 0)) { stPage (grpR []) with waiters := [(3, wait0 false false)] }) (fun t => (t.migs.map (fun p => p.2.dies), t.waiters.map (·.2.requested))) =
    some ([[0]], [true]) := by decide +kernel
theorem test_page_promote : got (exec (.pagePromote (pageKey 1 0)) { stPage (grpR []) with migs := [(pageKey 1 0, mig0)] }) (fun t => (t.migs.map (·.2.req), t.store.reqs.map (fun p => (p.2.rkind, p.2.lines.length)),
    (t.log 259).queue)) = some ([some 10], [(2, 1)], [10]) := by decide +kernel
def stDemote (pool : Nat) : State := { stPage (grpR []) with store := pageStore page0 [259] (2 ^ 20), stks := [(0, { Stack.reset with pool := pool })] }
theorem test_page_demote : got (exec (.pageDemote 0 (pageKey 1 0)) (stDemote 0x1FF)) (fun t => t.migs.map (fun p => (p.2.toCap, p.2.req))) = some [(true, some 10)] ∧
    got (exec (.pageDemote 0 (pageKey 1 0)) (stDemote 0x200)) (fun t => t.migs.length) = some 0 := by decide +kernel
def stNotice (st : ReqSt) : State :=
  { stReqs (grpR []) { reqDone with st := st } with migs := [(pageKey 1 0, { mig0 with dies := [0], req := some 9 })], waiters := [(3, wait0 true false)] }
theorem test_commit_notice : got (exec (.migrationCommitNotice 0 (pageKey 1 0)) (stNotice .complete)) (fun t => (t.migs.length, t.waiters.length, (t.die 0).migrated)) = some (0, 0, 1) ∧
    got (exec (.migrationCommitNotice 0 (pageKey 1 0)) (stNotice .waiting)) (fun t => (t.migs.length, t.waiters.length)) = some (1, 1) := by decide +kernel
theorem test_fault_cancel : grpOf (exec (.faultCancel 0 3) { stCode (grp0 Regs.reset 3) with waiters := [(3, wait0 true true)] }) trapCause = some (some .cancelled) ∧
    grpOf (exec (.faultCancel 0 3) { stCode (grp0 Regs.reset 3) with waiters := [(3, wait0 true false)] }) trapCause = some none := by decide +kernel
def msg0 (b : QfBody) : QfMsg := { peer := 2, cls := 0, link := none, body := b, since := 0 }
theorem test_forwarded_access : got (exec (.forwardedAccess 4) { stPage (grpR []) with inbox := [(4, msg0 (.load 8 0 1 4 4))] }) (fun t => (t.inbox.length, t.outbox.map (fun p => (p.2.peer, p.2.body == .reply 8 0 0x08070605)))) =
    some (0, [(2, true)]) := by decide +kernel
theorem test_epoch : got (exec .counterEpochTick { stPage (grpR []) with pcc := 2 ^ 32, store := pageStore { page0 with lcnt := 7, rcnt := 1 } [] 0 }) (fun t => (t.store.pages.map (fun p => (p.2.lcnt, p.2.rcnt)), t.sys.epochAt)) =
    some ([(3, 0)], 2 ^ 32) ∧ got (exec .counterEpochTick { stPage (grpR []) with pcc := 2 ^ 32 - 1, store := pageStore { page0 with lcnt := 7 } [] 0 }) (fun t => t.store.pages.map (·.2.lcnt)) = some [7] := by decide +kernel
theorem test_transfer : got (exec (.pageTransfer (pageKey 1 0) 2) (stPage (grpR []))) (fun t => (t.migs.map (·.2.xfer), t.outbox.length)) = some ([some 2], 0) ∧
    got (exec (.pageTransfer (pageKey 1 0) 2) { stPage (grpR []) with migs := [(pageKey 1 0, { mig0 with xfer := some 2 })] }) (fun t => t.outbox.map (·.2.peer)) = some [2] := by decide +kernel
theorem test_leaf_clean : got (exec (.leafWriteback (leafKey 1 0)) (stPage (grpR []))) (fun t => t.store.segs.map (·.2.used)) = some [3] := by decide +kernel

theorem wit_locks : (Body.ctl 0x204 wTl).good = true ∧ lockFits ((stPage (grpR [])).cl 0).lib (leavesOf 1 0x1FFF 2) = true ∧ (0x1FFF + 2 - 1) / 4096 - 0x1FFF / 4096 + 1 ≤ 1024 ∧
    stLocked.blocks.get? grpM.blockKey = some { fetchBlock with locks := [lk0 0 8192, lk0 0 4096] } ∧ (lk0 0 4096).leaves.Nodup := by decide +kernel
theorem wit_starts : (Ctx.empty.fut Ctx.empty.nextTag).st ≠ .pending ∧ Ctx.empty.nextTag < 4096 ∧ (Body.ctl 0x206 (wF 0 0)).good = true ∧ (Body.ctl 0x207 (wF 1 0)).good = true ∧
    (stPage (grpR [])).padOk 1 0 .cm 0x40 16 = true ∧ (stPage (grpR [])).padOk 1 0 .cm 0x600000 16 = false := by decide +kernel
theorem wit_future_full : ((withFut (stPage (grpR [])) (fut5 .pending) (aopOf .flush .running)).ctx? 1).map (fun c => (c.fut 5).st) = some .pending := by decide +kernel
theorem wit_promote : (stPage (grpR [])).migrAt false (pageKey 1 0) = none ∧ (stPage (grpR [])).pageHdr (pageKey 1 0) = some page0 ∧
    ((stPage (grpR [])).copyLines (migLog page0) page0.home.toNat false 2 ((stPage (grpR [])).pageLines (pageKey 1 0))).isSome = true := by decide +kernel
theorem wit_demote : (stDemote 0x1FF).demotable 0 (pageKey 1 0) page0 = true ∧ (stDemote 0x1FF).sys.demen = true ∧ ((stDemote 0x1FF).stack 0).pool < (stDemote 0x1FF).sys.demlo.toNat ∧
    ((stDemote 0x1FF).copyLines (migLog page0) 0 true 2 ((stDemote 0x1FF).pageLines (pageKey 1 0))).isSome = true := by decide +kernel
theorem wit_home_entry : ((stPage (grpR [])).homeEntry (lineKey 1 4)).prep = false ∧ (stPage (grpR [])).isRemote (lineKey 1 4) = false ∧
    ({ stPage (grpR []) with store := { glStore with leaves := [(leafKey 1 0, { ents := [(0, { entry0 with prep := true })], dirty := false })] } } : State).homeEntry (lineKey 1 4) =
      { entry0 with prep := true } := by decide +kernel

/-! Snapshots, cleaning, replication. Logs 0 and 256 write segment 0; a sealed segment 1 holds the record of line 0. -/

def snapX (st : SnapSt) : Snap := { Snap.free with st := st }
def stSnap (st : SnapSt) (g : Group) : State := { stPage g with
  store := pageStore page0 [0, 256] 0, ctxs := [(1, { Ctx.empty with priv := true, snaps := [(5, snapX st)], futs := [] })] }
def futOf (o : Out) (tag : Nat) : Option (Option FutSt) := got o (fun t => (t.ctx? 1).map (fun c => (c.fut tag).st))
def okOp (k : AKind) (st : AStage) (s : State) : State :=
  { s with ctxs := s.ctxs.modify 1 (fun (c : Ctx) => { c with futs := [(5, fut5 .pending)] }), aops := [(33, aopOf k st)] }

theorem test_snap : got (exec (.snap (wF0 5)) (stSnap .free (grp0 Regs.reset 3))) (fun t => t.aops.map (fun p => (p.2.kind == .snap 5, p.2.stage == .prePub 11))) = some [(true, true)] ∧
    futOf (exec (.snap (wF0 5)) (stSnap .held (grp0 Regs.reset 3))) 0 = some (some (.failed .access)) := by decide +kernel
theorem test_snapdrop : got (exec (.snapdrop (wF0 5)) (stSnap .held (grp0 Regs.reset 3))) (fun t => ((t.snap 1 5).st, (t.ctx? 1).map (fun c => (c.fut 0).st))) = some (.free, some .ok) ∧
    futOf (exec (.snapdrop (wF0 5)) (stSnap .free (grp0 Regs.reset 3))) 0 = some (some (.failed .access)) := by decide +kernel
theorem test_rootsw : onGrp (.rootsw (wF1 5)) (ab 0x10001 0) 3 trapCause = some (some .illop) ∧ onGrp (.rootsw (wF1 5)) (ab 2 0) 3 trapCause = some (some .illop) ∧
    got (exec (.rootsw (wF1 5)) (stSnap .held (grp0 (ab 1 0) 3))) (fun t => t.aops.map (fun p => p.2.kind == .rootsw 1 5)) = some [true] := by decide +kernel
theorem test_libsd : onGrp (.libsd (wF1 0)) (ab (2 ^ 35) 0) 3 trapCause = some (some .illop) ∧ onGrp (.libsd (wF1 0)) (ab (2 ^ 37) 0) 3 trapCause = some none ∧
    onGrp (.libsd (wF1 0)) (ab 0x20001 0) 3 trapCause = some (some .illop) ∧ onGrp (.libsd (wF1 0)) (ab (2 ^ 35 - 2 ^ 17) 0) 3 trapCause = some none := by decide +kernel
theorem test_cut_stops_grants : got (exec (.snapshotCut 33) (okOp (.snap 5) (.prePub 9) { stSnap .free (grpR []) with store := { pageStore page0 [0] 0 with reqs := [(9, reqDone)] } }))
    (fun t => ((t.snap 1 5).st, (t.ctx? 1).map (·.stopped), t.aops.map (·.2.stage == .running))) = some (.taking, some true, [true]) := by decide +kernel
theorem test_cut_holds : got (exec (.snapshotCut 33) (okOp (.snap 5) .running (stSnap .taking (grpR [])))) (fun t => ((t.snap 1 5).st, (t.snap 1 5).cut, (t.snap 1 5).root == ((t.ctx? 1).map (·.ixroot)).getD 1,
    (t.ctx? 1).map (fun c => (c.fut 5).st))) = some (.held, 20000, true, some .ok) := by decide +kernel
/-- A context that is quiesced; its tree is empty at slot 5. -/
def stQuiet (q : Quiet) : State := { stSnap .held (grpR []) with ctxs := [(1, { Ctx.empty with priv := true, futs := [(5, fut5 .pending)] }), (2, { Ctx.empty with quiet := q, snaps := [(5, snapX .held)] })], aops := [(33, aopOf (.rootsw 2 5) .running)] }
theorem test_rollback : got (exec (.rollback 33) (stQuiet .quiesced)) (fun t => ((t.ctx? 1).map (fun c => (c.fut 5).st), (t.ctx? 2).map (·.ixroot), (t.snap 2 5).st)) = some (some .ok, some 0, .held) ∧
    futOf (exec (.rollback 33) (stQuiet .running)) 5 = some (some (.failed .access)) := by decide +kernel
theorem test_shootdown : got (exec (.shootdown 33) (okOp (.libsd 0) .running { stPage (grpR []) with clusters := [(0, { Cluster.reset with lib := [(leafKey 1 0, leaf0), (leafKey 1 0x1000, { leaf0 with ents := [(0, { entry0 with f0pos := 0x20000 })] })] })] }))
    (fun t => ((t.cl 0).lib.map (fun p => p.1), (t.ctx? 1).map (fun c => (c.fut 5).st))) = some ([leafKey 1 0x1000], some .ok) := by decide +kernel
theorem test_leaf_writeback : got (exec (.leafWriteback (leafKey 1 0)) { stSnap .free (grpR []) with store := { pageStore page0 [0] 0 with leaves := [(leafKey 1 0, { ents := [(0, entry0)], dirty := true })] } })
    (fun t => (t.store.leaves.map (·.2.dirty), (t.ctx? 1).map (fun c => c.ixroot != 0))) = some ([false], some true) := by decide +kernel
/-- Segment 1 sealed with the record at its start; `live` whether line 0 still names it. -/
def stClean (live : Bool) (rsv : Nat) : State := { stSnap .free (grpR []) with
  stks := [(0, { Stack.reset with cleaning := true, target := some 1, rsv := rsv })]
  store := { pageStore page0 [0, 256] 0 with
    segs := [(0, { Seg.new 256 0 with used := 3 }), (1, { Seg.new 0 0 with used := 3, isSealed := true })], recs := [(0x20001, rec0)]
    leaves := [(leafKey 1 0, { ents := if live then [(0, { entry0 with f0pos := 0x20001 })] else [], dirty := true })] } }
theorem test_clean_moves : got (exec (.cleanSegment 0 1) (stClean true 5)) (fun t => (t.store.reqs.map (fun p => (p.2.rkind, p.2.log, p.2.lines.map (·.msk))), t.store.segs.length)) = some ([(1, 256, [1])], 2) := by decide +kernel
theorem test_clean_frees : got (exec (.cleanSegment 0 1) (stClean false 327)) (fun t => (t.store.segs.length, (t.stack 0).rsv, (t.stack 0).pool, t.store.recs.length)) = some (1, 328, 0x3E98, 0) ∧
    got (exec (.cleanSegment 0 1) (stClean false 328)) (fun t => ((t.stack 0).rsv, (t.stack 0).pool, (t.stack 0).freed)) = some (328, 0x3E99, 1) := by decide +kernel
def stShip (sealed_ : Bool) : State := { stClean false 5 with
  ctxs := [(1, { Ctx.empty with replicas := [0x8003] })], store := { (stClean false 5).store with segs := [(1, { Seg.new 0 0 with used := 3, isSealed := sealed_ })] } }
theorem test_ship : got (exec (.segmentShip 1) (stShip true)) (fun t => (t.outbox.map (fun p => (p.2.peer, p.2.cls)), t.store.segs.map (·.2.shipped))) = some ([(3, 2)], [[4099]]) ∧
    got (exec (.segmentShip 1) (stShip false)) (fun t => t.outbox.length) = some 0 := by decide +kernel
def replMsg (d : BitVec 512) : QfMsg := { msg0 (.segment 1 1 [(1, rec0)] [1] d []) with peer := 3, cls := 2 }
def sumOf : BitVec 512 := Config.sha512 (recArea (([(1, rec0)] : List (Nat × Rec)).map (fun p => (p.1, p.2.repack))))
/-- A segment has been replayed up to its last PUBID: every PUBID of its records has been. -/
theorem test_replayed : sortIds (([(1, rec0)].map (fun (p : Nat × Rec) => p.2.pubid)).filter (fun i => decide (0 < i.toNat))) = (if rec0.pubid = 0 then [] else [rec0.pubid]) ∧
    replayLines (replayRecs [(4, replMsg sumOf)] 1 rec0.pubid) ≠ [] := by decide +kernel
/-- The cleaner picks a segment while it runs, and is stopped in its choice by CLNEN alone (R362). -/
theorem test_clean_selects : got (exec (.cleanSegment 0 1) { stClean true 5 with stks := [(0, { Stack.reset with cleaning := true, pool := 0x500 })] }) (fun t => ((t.stack 0).target, (t.stack 0).cleaning)) = some (some 1, true) ∧
    got (exec (.cleanSegment 0 1) { stClean true 5 with stks := [(0, { Stack.reset with cleaning := true, pool := 0x500, clnEn := false })] }) (fun t => (t.stack 0).target) = some none := by decide +kernel

theorem wit_digests : sumOf ≠ sumOf + 1 ∧ (replMsg sumOf).body = .segment 1 1 [(1, rec0)] [1] sumOf [] := ⟨by intro h; bv_omega, rfl⟩
theorem wit_snap : (Body.ctl 0x208 (wF0 5)).good = true ∧ (Body.ctl 0x300 (wF1 5)).good = true ∧ (stSnap .held (grpR [])).ckHolds 1 5 = false ∧ (stSnap .free (grpR [])).aops.get? 10 = none := by decide +kernel
theorem wit_held_by_checkpoint : ({ stSnap .held (grpR []) with ckpt := { Ckpt.reset with active := [40] }, aops := [(40, aopOf (.ckpt 0 { op := 1, slot := 5, g := 1, step := 0, group := 0, srcmod := 0, srcctx := 0, key := 0, bad := false }) .running)] } : State).ckHolds 1 5 = true := by decide +kernel
theorem wit_cut : ((okOp (.snap 5) .running (stSnap .taking (grpR []))).syncTree 1 touchAll).isSome = true ∧ (stQuiet .quiesced).quiesced 2 = true := by decide +kernel
theorem wit_clean : (stClean true 5).cleanable 0 1 { Seg.new 0 0 with used := 3, isSealed := true } = true ∧ (stClean true 5).liveFrags 1 = [(0x20001, lineKey 1 0, 1)] ∧ (stClean false 5).liveFrags 1 = [] ∧
    (stClean false 5).rootsIn 1 = [] ∧ segIsCap 1 = false ∧ ((stClean true 5).moveLines 1 [(0x20001, lineKey 1 0, 1)]).isSome = true ∧ (stClean true 5).segResolved 1 = true := by decide +kernel
theorem wit_ship : (stShip true).segResolved 1 = true ∧ shipsFor (stShip true).store.recs 0 1 1 = true ∧ shipKey 1 3 ∉ (Seg.new 0 0).shipped ∧ (stShip true).shipsNext { Seg.new 0 0 with used := 3, isSealed := true } 1 3 = true := by decide +kernel

/-! The copy engine and the loop unit. g8 to g13 hold the descriptor: source 0x100, destination 0x200 of `.cr`, c columns and r rows, strides 96. -/

def desc (src dst c r : Nat) : Regs := regsOf [] [(8, src), (9, dst), (10, c * 2 ^ 32 + r), (11, 96 * 2 ^ 32 + 96), (12, 0x1000), (13, 0x2000)]
def wX (imm : BitVec 32) : Ctl := ctl0 (.sp 17) (.g 8) Opnd.none 0x440 imm
/-- The handle, the copies counter, and the kind of the operation that was queued. -/
def queued (i : Instr) (rg : Regs) (src : Nat) : Bool :=
  match exec i (st0 (grp0 rg 3)) with
  | .next t => decide ((t.grp gid0).map (·.copies) = some 1) && decide ((t.grp gid0).map (fun g => g.regs.freg 1) = some 0x10000001) &&
      t.aops.all (fun p => p.2.stage == .queued && (match p.2.kind with
        | .copy c => c.src == src && c.dst == 0x200 && c.dsp == .cm && c.ssp == .cm
        | _ => false)) && decide (t.aops.length = 1)
  | .fault _ => false
  | .refused _ => false

theorem test_copy_words : queued (.xcopy (wX 0)) (desc 0x100 0x200 4 2) 0x100 = true ∧ queued (.xconv (wX 0x98)) (desc 0x100 0x200 4 2) 0x100 = true ∧ queued (.xqa8 (wX 0x28)) (desc 0x100 0x200 32 2) 0x100 = true ∧
    queued (.xwht (wX 0x88)) (desc 0x100 0x200 32 1) 0x100 = true ∧ queued (.tprep (wX 0)) (desc 0x100 0x200 32 64) 0x100 = true := by decide +kernel
/-- R260: no rows is illegal; an odd half is misaligned; 256 KiB is the core scratchpad's end. -/
theorem test_copy_checks : onGrp (.xcopy (wX 0)) (desc 0x100 0x200 4 0) 3 trapCause = some (some .illop) ∧ onGrp (.xconv (wX 0x98)) (desc 0x101 0x200 4 2) 3 trapCause = some (some .align) ∧
    onGrp (.xcopy (wX 0)) (desc 0x100 0x3FFA0 4 2) 3 trapCause = some (some .space) ∧ onGrp (.xcopy (wX 0)) (desc 0x100 0x3FFA0 4 1) 3 trapCause = some none ∧
    onGrp (.tprep (wX 0)) (desc 0x100 0x200 32 63) 3 trapCause = some (some .illop) := by decide +kernel
def copyX (chunk : Nat) (dsp : Space) : CopyOp := { copy0 with opc := 0x240, ssp := .cm, dsp := dsp, src := 0x40, dst := 0x80, cols := 2, rows := 1 + chunk, dstr := 32, sstr := 2 }
def stCopy (c : CopyOp) (st : AStage) (k : Nat) : State :=
  let s := okOp (.copy c) st (stPage (grpR []))
  { s with aops := [(33, { aopOf (.copy c) st with chunk := k })], mems := { Mems.reset with cm := [(0x40, 0xAB), (0x41, 0xCD)] } }
theorem test_copy_start : got (exec (.copyOpStart 0) (stCopy (copyX 0 .cm) .queued 0)) (fun t => t.aops.map (·.2.stage == .running)) = some [true] := by decide +kernel
/-- A step in progress: its source is read, its result is sent, and the bank takes it. -/
def readAt (t : BitVec 64) : Piece := { space := .cm, addr := 0x40, width := 2, write := false, data := 0xCDAB, arriveAt := 0, servedAt := some t }
theorem test_copy_reads : got (exec (.copyOpComplete 33) (stCopy (copyX 0 .cm) .running 0)) (fun t => (t.mems.cm, t.aops.flatMap (fun p => p.2.pieces.map (fun x => (x.addr, x.width, x.write, x.servedAt.isSome))))) =
    some ([(0x40, 0xAB), (0x41, 0xCD)], [(0x40, 2, false, false)]) := by decide +kernel
def stCopyRead : State := { stCopy (copyX 0 .cm) .running 0 with aops := [(33, { aopOf (.copy (copyX 0 .cm)) .running with pieces := [readAt 100] })] }
theorem test_copy_step : got (exec (.copyOpComplete 33) stCopyRead) (fun t => t.aops.map (fun p => (p.2.outs, p.2.chunk, p.2.pieces.length))) = some [([(0x80, [0xAB, 0xCD])], 1, 0)] := by decide +kernel
theorem test_bank_write : ((stCopyRead.servePiece 0 33 0 [] { readAt 0 with addr := 0x80, write := true, servedAt := none }).1.mems.cm.read 0x81) = 0xCD := by decide +kernel
theorem test_copy_end : got (exec (.copyOpComplete 33) (stCopy (copyX 0 .cm) .running 1)) (fun t => ((t.ctx? 1).map (fun c => (c.fut 5).st), t.aops.length)) = some (some .ok, 0) ∧
    got (exec (.copyOpComplete 33) (stCopy (copyX 0 .gl) .running 1)) (fun t => (t.aops.map (·.2.stage == .publishing 10), t.store.reqs.map (·.1))) = some ([true], [10]) := by decide +kernel

def lvl (e : BitVec 10) (d a b : BitVec 9) : Level := ⟨e, d, a, b⟩
def loopW (op : LoopOp) (ty : Ty) (l : Level) : Loop :=
  { hdr := Hdr.plain, d := .g 4, a := .g 5, b := .g 6, op := op, ty := ty, rnd := .rne, nlev := 1, dsp := .cm, asp := .cm, bsp := .cm, l0 := l, l1 := lvl 0 0 0 0, l2 := lvl 0 0 0 0
    l3 := lvl 0 0 0 0, l4 := lvl 0 0 0 0 }
def loopG (d a b : Nat) : Regs := regsOf [] [(4, d), (5, a), (6, b)]
theorem test_loopn : got (exec (.loopn (loopW .add .b32 (lvl 0 0 0 0))) (st0 (grp0 (loopG 0x40 0x80 0xC0) 3))) (fun t => ((t.core 0).loops.map (fun j => (j.d, j.a, j.b)), (t.grp gid0).map (·.tiles))) =
    some ([(0x40, 0x80, 0xC0)], some 1) := by decide +kernel
/-- R155: a descent of one element below address 0, an odd base, and the last element of the cluster memory. -/
theorem test_loopn_checks : onGrp (.loopn (loopW .add .b32 (lvl 1 0 511 0))) (loopG 0 0 0) 3 trapCause = some (some .space) ∧ onGrp (.loopn (loopW .add .b32 (lvl 0 0 0 0))) (loopG 2 0 0) 3 trapCause = some (some .align) ∧
    onGrp (.loopn (loopW .add .b32 (lvl 1 0 1 0))) (loopG 0 0x5FFFF8 0) 3 trapCause = some none ∧ onGrp (.loopn (loopW .add .b32 (lvl 1 0 1 0))) (loopG 0 0x5FFFFC 0) 3 trapCause = some (some .space) := by decide +kernel
def job0 (started : Bool) (beat : Nat) : LoopJob :=
  { gid := gid0, op := 5, w := loopW .add .b32 (lvl 0 0 0 0), d := 0x40, a := 0x80, b := 0xC0, started := started, beat := beat, leaveAt := 100, elems := [], outs := [], next := 0, acc := 0, seq := 0, late := 0, putAt := 0, fl := 1 }
def stLoop (j : LoopJob) : State := { st0 { grpR [] with tiles := 1 } with cores := [(0, { Core.reset with loops := [j] })], pcc := 5000, mems := { Mems.reset with cm := [(0x80, 5), (0xC0, 255)] } }
theorem test_loop_start : got (exec (.loopnStart 0) (stLoop (job0 false 0))) (fun t => (t.core 0).loops.map (·.started)) = some [true] := by decide +kernel
/-- A beat sends its sources' accesses; with 5 and 255 read, the element is 260, at D. -/
theorem test_loop_beat : ((stLoop (job0 true 0)).loopBeat 0).cores.map (fun c => c.2.loops.map (fun j => (j.beat, j.leaveAt, j.elems.map (fun x => (x.ord, x.srcs.map (·.addr)))))) = [[(1, 101, [(0, [0x80, 0xC0])])]] := by decide +kernel
def elem0 : LoopElem :=
  { ord := 0, leave := 100, srcs := [{ readAt 100 with addr := 0x80, width := 4, data := 5 }, { readAt 100 with addr := 0xC0, width := 4, data := 255 }], seen := [1, 2] }
theorem test_loop_element : ((job0 true 1).compute 0 elem0).outs.map (fun o => (o.acc.addr, o.acc.data, o.seen)) = [(0x40, 260, 0)] := by decide +kernel
theorem test_loop_complete : got (exec (.loopnComplete 0) (stLoop (job0 true 1))) (fun t => ((t.core 0).loops.length, (t.grp gid0).map (fun g => (g.tiles, g.fpstat)))) = some (0, some (0, 1)) ∧
    got (exec (.loopnComplete 0) (stLoop (job0 true 0))) (fun t => (t.core 0).loops.length) = some 1 := by decide +kernel

theorem wit_copy_words : (Body.ctl 0x240 (wX 0)).good = true ∧ (Body.ctl 0x242 (wX 8)).good = true ∧ (Body.ctl 0x244 (wX 0)).good = true ∧ copyIll (copyOf 0x240 (wX 0) (desc 0x100 0x200 4 2)) 0x400000002 = false ∧
    copyMisaligned (copyOf 0x240 (wX 0) (desc 0x100 0x200 4 2)) = none ∧ copyNomap (copyOf 0x240 (wX 0) (desc 0x100 0x200 4 2)) = none := by decide +kernel
theorem wit_copy_nomap : copyNomap (copyOf 0x240 { wX 0 with mod := 0x40 } (desc (2 ^ 48 - 4) 0x200 5 1)) = some (2 ^ 48 - 4) := by decide +kernel
theorem wit_copy_steps : (stCopy (copyX 0 .cm) .queued 0).copyBusy 0 < 4 ∧ (stCopy (copyX 0 .cm) .queued 0).copyWritten (aopOf (.copy (copyX 0 .cm)) .queued) (copyX 0 .cm) = false ∧ stCopyRead.piecesDone [readAt 100] 0 = true ∧ (copyX 0 .cm).steps = 1 ∧ (copyX 0 .cm).dstAux = false := by decide +kernel
theorem wit_loops : (bodyOf (.loopn (loopW .add .b32 (lvl 0 0 0 0)))).good = true ∧ beatCount (loopW .add .b32 (lvl 0 0 0 0)) = 1 ∧ (stLoop (job0 false 0)).accessesDone gid0 5 = true ∧
    (job0 true 1).complete 0 (stLoop (job0 true 1)) = true ∧ (job0 true 1).complete 0 { stLoop (job0 true 1) with pcc := 100 } = false := by decide +kernel
theorem wit_engine_piece : rowsFree [] 33 0 (bankRows .cm (padKey 0 0 0 .cm 0x80) 2) = true ∧ stHome.prepAt (lineKey 1 0) = false ∧ (aopOf .flush .running).buf (heldLine 0) = none := by decide +kernel

/-! The stream producer: the slot of core 0. -/

def qe (n : Nat) : FMap Word := [(0, BitVec.ofNat 32 n), (1, BitVec.ofNat 32 (n + 1))]
def slotR : Slot := { Slot.reset with bound := some 1, ctx := 1, st := .running, begun := true, handle := some 33, queues := [(2, [qe 7, qe 9])] }
def stSlot (k : Slot) (g : Group) : State :=
  let s := okOp (.slot 0) .running (stPage g)
  { s with cores := [(0, { Core.reset with slot := k })] }
def slotOn {α : Type} (i : Instr) (k : Slot) (f : Slot → α) : Option α := got (exec i (stSlot k (grp0 (ab 0x40 0) 3))) (fun t => f (t.slot 0))
def uopOn {α : Type} (i : Instr) (k : Slot) (f : Slot → α) : Option α := got (exec i { stSlot k (grpR []) with issuer := .slot 0 }) (fun t => f (t.slot 0))
def slotTrap (i : Instr) (k : Slot) : Option (Option Cause) := got (exec i (stSlot k (grp0 (ab 0x40 0) 3))) (fun t => (t.grp gid0).bind trapCause)
def wPload (imm : BitVec 32) : Ctl := ctl0 Opnd.none (.g 1) Opnd.none 1 imm
def wQ (d : Opnd) : Ctl := ctl0 d (.sp 34) Opnd.none 0 0
def wP (imm : BitVec 32) : Ctl := ctl0 (.sp 17) (.g 4) Opnd.none 0 imm

theorem test_pload : got (exec (.pload (wPload 0x302)) (stSlot slotR (grp0 (ab 0x40 0) 3))) (fun t => (t.ops.map (fun p => (p.2.kind == .pload 2, p.2.parts.map (fun x => (x.addr, x.data.toNat)))), (t.grp gid0).map (·.loads))) =
    some ([(true, [(0x40, 0), (0x48, 0), (0x50, 0), (0x58, 0)])], some 1) ∧ slotTrap (.pload (wPload 0)) { slotR with bound := some 2 } = some (some .qerr) := by decide +kernel
theorem test_pstart : got (exec (.pstart (wP 5)) (stSlot { Slot.reset with shadow := [(3, 99)] } (grp0 (regsOf [] [(4, 10), (7, 40)]) 3))) (fun t =>
    ((t.slot 0).st == .running && (t.slot 0).active == [(3, 99)] && (t.slot 0).params == [(0, 10), (3, 40)] && (t.slot 0).bound == some 1 && !(t.slot 0).begun, (t.grp gid0).map (·.regs.freg 1))) =
    some (true, some 0x90000001) ∧ slotTrap (.pstart (wP 5)) slotR = some (some .qerr) := by decide +kernel
theorem test_pstop : slotOn (.pstop (ctl0 Opnd.none Opnd.none Opnd.none 0 0)) slotR (fun k => (k.st, k.handle, k.queues.length)) = some (.idle, none, 1) ∧
    slotOn (.pstop (ctl0 Opnd.none Opnd.none Opnd.none 1 0)) slotR (fun k => (k.st, k.handle, k.queues.length)) = some (.idle, none, 0) := by decide +kernel
theorem test_qpop_qpeek : got (exec (.qpop (wQ (.v 8))) (stSlot slotR (grp0 Regs.reset 3))) (fun t => ((t.grp gid0).map (fun g => (g.regs.vreg 8 0, g.regs.vreg 8 1)), ((t.slot 0).queues.getD [] 2).length)) = some (some (7, 8), 1) ∧
    got (exec (.qpeek (wQ (.v 8))) (stSlot slotR (grp0 Regs.reset 3))) (fun t => ((t.grp gid0).map (fun g => (g.regs.vreg 8 0, g.regs.vreg 8 1)), ((t.slot 0).queues.getD [] 2).length)) = some (some (7, 8), 2) := by decide +kernel
/-- Table 8-5: two entries, RUNNING, bound to launch 1, UPC 3. -/
theorem test_qstat : got (exec (.qstat (wQ (.g 3))) (stSlot { slotR with upc := 3 } (grp0 Regs.reset 3))) (fun t => (t.grp gid0).map (·.regs.greg 3)) = some (some 0x0301000100010002) ∧
    slotTrap (.qpop (wQ (.v 8))) { slotR with queues := [] } = some (some .qerr) := by decide +kernel
theorem test_cntset : uopOn (.cntset 4 3 2 1) slotR (fun k => ((List.range 4).map (k.cext.getD 1 ·), k.upc)) = some ([2, 3, 4, 5], 1) ∧
    uopOn (.cntset 4 3 2 1) { slotR with upc := 127 } (fun k => k.st) = some .idle := by decide +kernel
theorem test_agset : uopOn (.agset 1 2 0 0 0x1FFF 3) slotR (fun k => ((List.range 4).map (fun j => k.agS.getD 0 (4 + j)), k.agP.getD 0 1)) = some ([3, 0x1FFF, 0, 0], 2) := by decide +kernel
/-- R240: a stride of −1 unit and index 2 make 64 bytes below the base; the access is 64 bytes at 0x40 exactly. -/
theorem test_sld : uopOn (.piccoloSld 1 0 .cm 2) { slotR with params := [(0, 0x80)], agS := [(0, 0x1FFF)], cidx := [(0, 2)] } (fun k => k.loads.map (fun x => (x.row, x.addr, x.size))) = some [(1, 0x40, 64)] ∧
    uopOn (.piccoloSld 1 0 .cm 1) { slotR with params := [(0, 0x40)] } (fun k => (k.st, k.loads.length)) = some (.idle, 0) := by decide +kernel
def row1 : FMap Word := [(64, 0x00008001)]
theorem test_dq : uopOn (.dq 2 1 4) { slotR with rows := row1 } (fun k => ((List.range 4).map (fun i => k.rows.getD 0 (128 + i)))) = some [1, 0xFFFFFF80, 0, 0] ∧
    uopOn (.dq 2 1 2) { slotR with rows := [(64, 0x3F80)] } (fun k => k.rows.getD 0 128) = some 0x3F800000 := by decide +kernel
theorem test_trn : uopOn .trn { slotR with rows := [(64 + 10, 5)] } (fun k => (k.rows.getD 0 (2 * 64 + 9), k.rows.getD 0 74)) = some (5, 0) := by decide +kernel
theorem test_push : uopOn (.push 2 1) { slotR with rows := row1 } (fun k => ((k.queues.getD [] 2).map (fun e => e.getD 0 0), k.upc)) = some ([7, 9, 0x8001], 1) ∧
    uopOn (.push 2 1) { slotR with queues := [(2, List.replicate 16 (qe 1))] } (fun k => ((k.queues.getD [] 2).length, k.upc)) = some (16, 0) := by decide +kernel
theorem test_next : uopOn (.nextOp 1 0 9) { slotR with cext := [(0, 2), (1, 3)], cidx := [(0, 1)] } (fun k => ((List.range 2).map (k.cidx.getD 0 ·), k.upc)) = some ([0, 1], 9) ∧
    uopOn (.nextOp 1 0 9) { slotR with cext := [(0, 2), (1, 3)], cidx := [(0, 1), (1, 2)] } (fun k => ((List.range 2).map (k.cidx.getD 0 ·), k.upc)) = some ([0, 0], 1) := by decide +kernel
theorem test_end : got (exec .endOp { stSlot slotR (grpR []) with issuer := .slot 0 }) (fun t => ((t.slot 0).st, (t.ctx? 1).map (fun c => (c.fut 5).st), t.aops.length)) = some (.idle, some .ok, 0) := by decide +kernel
/-- A PLOAD of two micro-ops whose first has been written; the second was served at its bank in cycle 500. -/
def up (i v : Nat) (put_ : Bool) : Part := { part0 64 (0x40 + 8 * i) 0 with val := BitVec.ofNat 128 v, served := true, servedAt := 500, put := put_ }
def opPload : MemOp := op0 (.pload 2) .cr 8 [up 0 7 true, up 1 0xAB false]
def stPload : State := { stSlot { slotR with active := [] } { grpR [] with loads := 1 } with ops := [(1, opPload)] }
theorem test_pload_return : got (exec (.ploadDataReturn 1) stPload) (fun t => ((t.slot 0).shadow.map (fun p => (p.1, p.2.toNat)), (t.slot 0).active.length, (t.grp gid0).map (·.loads), t.ops.length)) =
    some ([(3, 0xAB)], 0, some 0, 0) := by decide +kernel
theorem test_run_begin : got (exec (.piccoloRunBegin 0) { stSlot { slotR with begun := false } (grpR []) with aops := [(33, { aopOf (.slot 0) .running with chunk := 6 })] }) (fun t => ((t.slot 0).begun, (t.slot 0).upc)) = some (true, 6) := by decide +kernel
def sld0 : SlotLoad :=
  { row := 1, addr := 0x40, size := 32, sp := .cm, asked := false, ownMask := 0, own := 0
    pieces := [{ readAt 100 with addr := 0x40, width := 16, data := 0xCD00000000 }, { readAt 100 with addr := 0x50, width := 16, data := 0 }] }
theorem test_sld_return : got (exec (.piccoloSldReturn 0 1) (stSlot { slotR with loads := [sld0], rows := [(64 + 9, 5)] } (grpR [])))
    (fun t => ((List.range 10).map (fun i => (t.slot 0).rows.getD 0 (64 + i)), (t.slot 0).loads.length)) = some ([0, 0xCD, 0, 0, 0, 0, 0, 0, 0, 0], 0) := by decide +kernel
theorem test_binding_end : slotOn (.bindingEnd 0) { slotR with st := .idle, queues := [] } (fun k => k.bound) = some none ∧ slotOn (.bindingEnd 0) { slotR with st := .idle } (fun k => k.bound) = some (some 1) := by decide +kernel

theorem wit_slot_words : (Body.ctl 0x250 (wPload 0x302)).good = true ∧ (Body.ctl 0x251 (wP 5)).good = true ∧ (Body.ctl 0x253 (wQ (.v 8))).good = true ∧ (Body.ctl 0x255 (wQ (.g 3))).good = true ∧
    firstFailure ((stSlot slotR (grpR [])).ploadProbes (grp0 (ab 0x40 0) 3) (wPload 0x302) 0x40) = none ∧ firstPark ((stSlot slotR (grpR [])).ploadProbes (grp0 (ab 0x40 0) 3) (wPload 0x302) 0x40) = none ∧
    (firstFailure ((stSlot slotR (grpR [])).ploadProbes (grp0 (ab 0x40 0) 3) (wPload 0x302) 0x3FFE8)).map (fun f => (f.1, f.2.2)) = some (.space, 0x40000) := by decide +kernel
theorem wit_pload_done : opPload.parts[1]? = some (up 1 0xAB false) ∧ (up 1 0xAB false).put = false ∧ (opPload.partDue (up 1 0xAB false)).map (fun t => decide (t + 1 ≤ stPload.pcc.toNat)) = some true := by decide +kernel
theorem wit_slot_runs : slotRuns { stSlot slotR (grpR []) with issuer := .slot 0 } 0 slotR ∧ slotR.handle = some 33 := ⟨⟨rfl, by decide +kernel, rfl, rfl⟩, rfl⟩
theorem wit_pending_slot : pendingOp (stSlot slotR (grpR [])) 33 (aopOf (.slot 0) .running) { Ctx.empty with priv := true, futs := [(5, fut5 .pending)] } :=
  ⟨by decide +kernel, by decide +kernel, by decide +kernel, by decide +kernel, by decide +kernel⟩
theorem wit_sld : (stSlot slotR (grpR [])).sldChk 0 slotR sld0 = .ok 0 false ∧ (stSlot slotR (grpR [])).sldChk 0 slotR { sld0 with addr := 0x41 } = .bad .align ∧
    (stSlot { slotR with loads := [sld0] } (grpR [])).piecesDone sld0.pieces 0 = true := by decide +kernel
theorem wit_busy_row : ∃ x ∈ ({ slotR with loads := [sld0] } : Slot).loads, x.row = (1#3).toNat := ⟨sld0, List.mem_cons_self .., rfl⟩
theorem wit_odometer : ¬ (({ slotR with cext := [(0, 2), (1, 3)], cidx := [(0, 1)] } : Slot).cext.getD 1 1 ≤ ({ slotR with cext := [(0, 2), (1, 3)], cidx := [(0, 1)] } : Slot).cidx.getD 0 1 + 1) := by decide +kernel

/-! The sequencer of cluster 0: s1 and s2 are the operands. -/

def seqQ (regs : List (Nat × Nat)) : Seq :=
  { Seq.reset with st := .running, launch := 1, ctx := 1, spc := 24, s := regs.map (fun p => (p.1, BitVec.ofNat 64 p.2)) }
def stSeq (q : Seq) : State := { stCode (grpR []) with issuer := .seq 0, fresh := 10, clusters := [(0, { Cluster.reset with seq := q, mailOpen := true })] }
def wS (mod : BitVec 12) (imm : BitVec 32) : Ctl := ctl0 (.v 3) (.v 1) (.v 2) mod imm
def wS1 (mod : BitVec 12) (imm : BitVec 32) : Ctl := ctl0 (.v 3) (.v 1) Opnd.none mod imm
/-- s3 and SPC after a word. -/
def seqOn (i : Instr) (a b : Nat) : Option (Dword × Pc) := got (exec i (stSeq (seqQ [(1, a), (2, b)]))) (fun t => ((t.seqOf 0).reg 3, (t.seqOf 0).spc))
def seqTrapOf (o : Out) : Option (Option Cause × SeqSt) := got o (fun t => ((t.seqOf 0).trap.map (·.cause), (t.seqOf 0).st))

theorem test_seq_arith : seqOn (.sadd (wS 0 0)) (2 ^ 64 - 1) 2 = some (1, 36) ∧ seqOn (.ssub (wS 0 0)) 1 2 = some (BitVec.allOnes 64, 36) ∧ seqOn (.smul (wS 0 0)) (2 ^ 33) (2 ^ 31 + 1) = some (0x200000000, 36) := by decide +kernel
theorem test_seq_logic : seqOn (.sand (wS 0 0)) 12 10 = some (8, 36) ∧ seqOn (.sor (wS 0 0)) 12 10 = some (14, 36) ∧ seqOn (.sxor (wS 0 0)) 12 10 = some (6, 36) := by decide +kernel
theorem test_seq_shifts : seqOn (.sshl (wS 0 0)) 1 64 = some (0, 36) ∧ seqOn (.sshl (wS 0 0)) 1 63 = some (0x8000000000000000, 36) ∧ seqOn (.sshr (wS 0 0)) (2 ^ 63) 63 = some (1, 36) ∧
    seqOn (.sshr (wS 1 0)) (2 ^ 63) 70 = some (BitVec.allOnes 64, 36) := by decide +kernel
theorem test_seq_moves : seqOn (.smov (wS1 0 0)) 9 0 = some (9, 36) ∧ seqOn (.smovi (ctl0 (.v 3) Opnd.none Opnd.none 0 0x80000000)) 0 0 = some (0xFFFFFFFF80000000, 36) ∧
    got (exec (.smovi (ctl0 (.v 3) Opnd.none Opnd.none 1 7)) (stSeq (seqQ [(3, 2 ^ 63 + 5)]))) (fun t => (t.seqOf 0).reg 3) = some 0x700000005 ∧ seqOn (.scsrr (ctl0 (.v 3) (.sp 0x40) Opnd.none 0 0)) 0 0 = some (1000, 36) := by decide +kernel
theorem test_seq_compare : seqOn (.scmp (wS 2 0)) (2 ^ 64 - 1) 1 = some (0, 36) ∧ seqOn (.scmp (wS 10 0)) (2 ^ 64 - 1) 1 = some (1, 36) := by decide +kernel
theorem test_sbr : seqOn (.sbr (ctl0 Opnd.none (.v 1) Opnd.none 0 0xFFFFFFFE)) 5 0 = some (0, 0) ∧ seqOn (.sbr (ctl0 Opnd.none (.v 1) Opnd.none 0 0xFFFFFFFE)) 0 0 = some (0, 36) ∧
    seqOn (.sbr (ctl0 Opnd.none (.v 1) Opnd.none 1 0xFFFFFFFE)) 0 0 = some (0, 0) := by decide +kernel
theorem test_sjmp : seqOn (.sjmp (ctl0 (.v 3) Opnd.none Opnd.none 2 0xFFFFFFFF)) 0 0 = some (36, 12) ∧ seqTrapOf (exec (.sjmp (ctl0 Opnd.none (.v 1) Opnd.none 1 0)) (stSeq (seqQ [(1, 13)]))) = some (some .illop, .ended) ∧
    seqTrapOf (exec (.sjmp (ctl0 Opnd.none (.v 1) Opnd.none 1 0)) (stSeq (seqQ [(1, 12 * 10923)]))) = some (some .nomap, .ended) := by decide +kernel
theorem test_sqpost_seq : got (exec (.sqpostSeq (ctl0 Opnd.none (.v 1) Opnd.none 0 4)) (stSeq (seqQ [(1, 77)]))) (fun t => (((t.cl 0).box 4).map (·.msg), (t.seqOf 0).spc)) = some ([77], 36) := by decide +kernel
theorem test_sqwait_seq : seqOn (.sqwaitSeq (ctl0 (.v 3) Opnd.none Opnd.none 0 4)) 0 0 = some (0, 24) ∧
    got (exec (.sqwaitSeq (ctl0 (.v 3) Opnd.none Opnd.none 0 4)) { stSeq (seqQ []) with clusters := [(0, { Cluster.reset with seq := seqQ [], mail := FMap.put [] [] 4 [place 5 true] })] }) (fun t => ((t.seqOf 0).reg 3, (t.seqOf 0).spc)) = some (5, 36) ∧
    seqTrapOf (exec (.sqwaitSeq (ctl0 (.v 3) Opnd.none Opnd.none 0 4)) { stSeq (seqQ []) with groups := [] }) = some (some .seqerr, .ended) := by decide +kernel
def pxo (st : Bool) : PxOp := { word := 0, pc := 0, addr := 0, addr2 := 0, started := st, startAt := 0, freeAt := 0, due := 0, idx := [], accs := [], gone := false, outside := false, after := 0 }
theorem test_swaitpx_sexit : got (exec (.swaitpx (ctl0 Opnd.none Opnd.none Opnd.none 0 1)) (stSeq { seqQ [] with pxq := [pxo true, pxo false] })) (fun t => (t.seqOf 0).spc) = some 24 ∧
    got (exec (.swaitpx (ctl0 Opnd.none Opnd.none Opnd.none 0 2)) (stSeq { seqQ [] with pxq := [pxo true, pxo false] })) (fun t => (t.seqOf 0).spc) = some 36 ∧
    got (exec (.sexit (ctl0 Opnd.none Opnd.none Opnd.none 0 0)) (stSeq (seqQ []))) (fun t => ((t.seqOf 0).st, (t.cl 0).mailOpen)) = some (.ended, false) := by decide +kernel
/-- R281: a half-word of `.cm` at s1 + IMM. -/
def wAcc (mod : BitVec 12) : Ctl := { wS1 mod 2 with d := .v 3 }
theorem test_sld_sst : got (exec (.sld (wAcc 0x440)) (stSeq (seqQ [(1, 0x40)]))) (fun t => (t.seqOf 0).accs.map (fun p => (!p.2.acc.write, p.2.acc.addr, p.2.acc.width))) = some [(true, 0x42, 2)] ∧
    got (exec (.sst (wAcc 0x440)) (stSeq (seqQ [(1, 0x40), (3, 0xABCD)]))) (fun t => (t.seqOf 0).accs.map (fun p => (!p.2.acc.write, p.2.acc.addr, p.2.acc.data))) = some [(false, 0x42, 0xABCD)] ∧
    seqTrapOf (exec (.sst (wAcc 0x440)) (stSeq (seqQ [(1, 0x41)]))) = some (some .align, .ended) ∧ seqTrapOf (exec (.sld (wAcc 0x440)) (stSeq (seqQ [(1, 0x5FFFFE)]))) = some (some .space, .ended) := by decide +kernel
def acc0 (ld srv : Bool) : SeqAcc :=
  { reg := 3, sgn := true, asked := false, ownMask := 0, own := 0
    acc := { space := .cm, addr := 0x42, width := 2, write := !ld, data := 0x8123, arriveAt := 5, servedAt := if srv then some 100 else none } }
theorem test_sst_perform : got (exec (.seqSstPerform 0 7) (stSeq { seqQ [] with accs := [(7, acc0 false true)] })) (fun t => (t.mems.cm, (t.seqOf 0).accs.length)) = some ([], 0) ∧
    got (exec (.seqSstPerform 0 7) (stSeq { seqQ [] with accs := [(7, acc0 false false)] })) (fun t => (t.seqOf 0).accs.length) = some 1 := by decide +kernel
theorem test_sld_return_seq : got (exec (.seqSldReturn 0 3) (stSeq { seqQ [] with accs := [(7, acc0 true true)] })) (fun t => ((t.seqOf 0).reg 3, (t.seqOf 0).accs.length)) = some (0xFFFFFFFFFFFF8123, 0) := by decide +kernel
theorem test_stream_start : got (exec (.streamStart 0) (stSeq { seqQ [] with st := .ready })) (fun t => ((t.seqOf 0).st, (t.seqOf 0).reg 17, (t.cl 0).mailOpen)) = some (.running, 0x60000001, true) := by decide +kernel
theorem test_seq_stall : seqTrapOf (exec (.seqStall 0) { stSeq (seqQ []) with pcc := 0x100000000 }) = some (some .stall, .ended) ∧ seqTrapOf (exec (.seqStall 0) { stSeq (seqQ []) with pcc := 0xFFFFFFFF }) = some (none, .running) := by decide +kernel
theorem test_seq_trap : got (exec (.seqTrap 0) (stSeq { seqQ [] with st := .ended, trap := some (trap0 .align none) })) (fun t => ((t.seqOf 0).trap.map (·.req), (t.log 0).queue)) = some (some (some 10), [10]) := by decide +kernel
theorem test_seq_save : got (exec (.seqSave 0) { stSeq { seqQ [] with saveReq := true } with groups := [(gid0, { grpR [] with place := .saved })] }) (fun t => ((t.seqOf 0).saveOp, (t.log 0).queue)) = some (some 10, [10]) ∧
    got (exec (.seqSave 0) (stSeq { seqQ [] with saveReq := true })) (fun t => (t.seqOf 0).saveOp) = some none ∧
    got (exec (.seqSave 0) { stSeq { seqQ [(1, 4)] with saveReq := true, saveOp := some 9 } with store := { codeStore with reqs := [(9, reqDone)] } })
      (fun t => (t.cl 0).saves.map (fun p => (p.1 == blockKey 1 0, p.2.seq.reg 1))) = some [(true, 4)] := by decide +kernel
def save0 : SeqSave := { seq := { seqQ [(1, 4)] with stallFrom := 7 }, parts := Parts.reset, mail := [], isOpen := true }
def stSaved : State := { stSeq Seq.reset with clusters := [(0, { Cluster.reset with saves := [(blockKey 1 0, save0)] })] }
theorem test_seq_restore : got (exec (.seqRestore 0 (blockKey 1 0)) stSaved) (fun t => ((t.seqOf 0).reg 1, (t.seqOf 0).stallFrom, (t.cl 0).mailOpen, (t.cl 0).saves.length)) = some (4, 993, true, 0) := by decide +kernel
theorem test_stream_resolve : got (exec (.streamHandleResolve 0) (okOp .stream .running (stSeq { seqQ [] with st := .ended, handle := some 33 }))) (fun t => (t.ctx? 1).map (fun c => (c.fut 5).st)) = some (some .ok) ∧
    got (exec (.streamHandleResolve 0) (stSeq { seqQ [] with stopReq := true })) (fun t => ((t.seqOf 0).st, (t.seqOf 0).cause)) = some (.ended, .cancelled) := by decide +kernel

theorem wit_seq_runs : seqRuns (bodyOf (.sadd (wS 0 0))) (stSeq (seqQ [])) 0 (seqQ []) := ⟨⟨rfl, by decide +kernel, by decide +kernel⟩, by decide +kernel, by intro r _ h; exact absurd h (by simp [Seq.pending, seqQ, Seq.reset])⟩
theorem wit_seq_pending : (bodyOf (.sadd (wS 0 0))).good = true ∧ 2 ∈ seqRegs (bodyOf (.sadd (wS 0 0))) ∧ 2 ∈ ({ seqQ [] with accs := [(7, { acc0 true false with reg := 2 })] } : Seq).pending := by decide +kernel
theorem wit_seq_illegal : (bodyOf (.sadd (wS 1 0))).good = false := by decide +kernel
theorem wit_seq_target : (stSeq (seqQ [])).fetchCheck 0 1 0 = none ∧ (stSeq (seqQ [])).fetchCheck 0 1 11 = none ∧ (stSeq (seqQ [])).launchOf 1 = some fetchLaunch := by decide +kernel
theorem wit_seq_words : (Body.ctl 0x28B (ctl0 Opnd.none (.v 1) Opnd.none 0 0xFFFFFFFE)).good = true ∧ (Body.ctl 0x28C (ctl0 (.v 3) Opnd.none Opnd.none 2 0xFFFFFFFF)).good = true ∧
    (Body.ctl 0x28D (wAcc 0x440)).good = true ∧ (Body.ctl 0x28E (wAcc 0x440)).good = true ∧ (Body.ctl 0x291 (ctl0 Opnd.none Opnd.none Opnd.none 0 1)).good = true := by decide +kernel
theorem wit_seq_stream : stSaved.ctx? 1 = some { Ctx.empty with priv := true } ∧ (stSaved.cl 0).saves.get? (blockKey 1 0) = some save0 ∧ stSaved.blocks.get? (blockKey 1 0) = some fetchBlock := by decide +kernel

/-! The Parts engine of cluster 0. A queue of one operation, started or not. -/

/-- The bytes that an operation's accesses have returned, as one piece. -/
def got_ (bs : List Byte) : List Piece := if bs.isEmpty then [] else [{ readAt 50 with width := bs.length, data := natOfBytes bs }]
def pxOf (i : Instr) (started : Bool) (buf : List Byte) (outside : Bool) : PxOp :=
  { word := (encode i).getD 0 0, pc := 0x30, addr := 0x40, addr2 := 0x400, started := started, startAt := 0, freeAt := 0, due := 100, idx := [], accs := got_ buf
    gone := started, outside := outside, after := 5 }
def stPx (x : PxOp) (p : Parts) : State :=
  { stSeq { seqQ [(1, 0x40), (2, 0x400)] with pxq := [x] } with clusters := [(0, { Cluster.reset with seq := { seqQ [(1, 0x40), (2, 0x400)] with pxq := [x] }, parts := p })] }
/-- Whether a PX word at issue joins the queue, or traps with a cause. -/
def pxIssue (i : Instr) (a b : Nat) (c : Option Cause) : Bool :=
  (got (exec i (stSeq (seqQ [(1, a), (2, b)]))) (fun t => (t.seqOf 0).pxq.length == (if c.isSome then 0 else 1) && (t.seqOf 0).spc == (if c.isSome then 24 else 36) &&
    (t.seqOf 0).trap.map (·.cause) == c)).getD false
def pxDone {α : Type} (i : Instr) (buf : List Byte) (bad : Bool) (p : Parts) (f : Parts → α) : Option (α × Option Cause) :=
  got (execPxOpComplete 0 0 (stPx (pxOf i true buf bad) p)) (fun t => (f (t.cl 0).parts, (t.seqOf 0).trap.map (·.cause)))
def wW (n : BitVec 8) : Opnd := .sp (48 + n)
def wA (n : BitVec 8) : Opnd := .sp (52 + n)
def wZ (n : BitVec 8) : Opnd := .sp (54 + n)
def iLdw (imm : BitVec 32) : Instr := .pxldw (ctl0 (wW 0) (.v 1) Opnd.none 0 imm)
/-- Rows of 64 bytes, one K-block, J 0, one block of tokens. -/
def iGa : Instr := .pxga (ctl0 (wA 0) (.v 1) (.v 2) 0 0x200000)
def iLda : Instr := .pxlda (ctl0 (wA 0) (.v 1) Opnd.none 0 0x200000)
def iMm : Instr := .pxmm (ctl0 (wZ 1) (wW 0) (wA 0) 0 0)
def iDm : Instr := .pxdm (ctl0 (wZ 1) (wW 0) (wA 0) 0 0)
def iZero (imm : BitVec 32) : Instr := .pxzero (ctl0 Opnd.none Opnd.none Opnd.none 0 imm)
def iDrn : Instr := .pxdrn (ctl0 Opnd.none (wZ 1) (.v 2) 0 0x10000)
def iByp : Instr := .pxbyp (ctl0 (wA 0) (wZ 1) Opnd.none 0 2)
def iSave : Instr := .pxsave (ctl0 Opnd.none (.v 1) Opnd.none 0 0)
def iRest : Instr := .pxrest (ctl0 Opnd.none (.v 1) Opnd.none 0 0)
def iStat : Instr := .pxstat (ctl0 (.v 3) (wZ 1) Opnd.none 0 1)

theorem test_px_loads_queue : pxIssue (iLdw 0) 0x40 0 none = true ∧ pxIssue (iLdw 0) 0x48 0 (some .align) = true ∧ pxIssue (iLdw 3) 0x5FF010 0 (some .space) = true ∧
    pxIssue iGa 0x40 0x400 none = true ∧ pxIssue iGa 0x41 0x400 (some .align) = true ∧ pxIssue iLda 0x40 0 none = true := by decide +kernel
theorem test_px_compute_queue : pxIssue iMm 0 0 none = true ∧ pxIssue iDm 0 0 none = true ∧ pxIssue (iZero 3) 0 0 none = true ∧ pxIssue iByp 0 0 none = true ∧
    pxIssue (iZero 0x100) 0 0 (some .illop) = true := by decide +kernel
theorem test_px_writes_queue : pxIssue iDrn 0 0x400 none = true ∧ pxIssue iDrn 0 0x408 (some .align) = true ∧ pxIssue iSave 0x100 0 none = true ∧ pxIssue iRest 0x100 0 none = true ∧
    pxIssue iSave (0x600000 - 0x37600) 0 (some .space) = true := by decide +kernel
/-- Table 11-5. -/
theorem test_pxstat : got (exec iStat { stSeq (seqQ []) with clusters := [(0, { Cluster.reset with seq := seqQ [], parts := { Parts.reset with dflags := 9, z := [(1, { ZReg.reset with eref := 0x1FF, zovf := true })] } })] })
    (fun t => ((t.seqOf 0).reg 3, (t.cl 0).parts.dflags)) = some (0x90201FF, 0) := by decide +kernel
theorem test_px_start : got (exec (.pxOpStart 0) (stPx (pxOf (iLdw 1) false [] false) Parts.reset)) (fun t => (t.seqOf 0).pxq.map (fun x =>
    x.started && x.gone && x.accs.length == 128 && (x.accs.take 1).map (fun y => (y.addr, y.width, y.write)) == [(0x40, 16, false)])) = some [true] := by decide +kernel
theorem test_px_start_fails : got (exec (.pxOpStart 0) (stPx (pxOf iMm false [] false) Parts.reset)) (fun t => ((t.seqOf 0).trap.map (fun x => (x.cause, x.deferred, x.wpc)), (t.seqOf 0).pxq.length)) =
    some (some (.pxerr, true, 0x30), 0) := by decide +kernel
/-- R301: the index 0xFFFF is a token of zeros, which asks for nothing; index 1 asks for its row's 32 values and its scale byte. -/
theorem test_px_gather : (let x := (stPx (pxOf iGa false [] false) Parts.reset).gaLeave 0 { pxOf iGa false [] false with idx := got_ ([0xFF, 0xFF, 1, 0] ++ List.replicate 60 0) }
    (x.gone, x.outside, (x.accs.take 3).map (fun y => (y.addr, y.width)))) = (true, false, [(0x440, 16), (0x450, 16), (0x460, 1)]) := by decide +kernel
theorem test_px_slot_loads : pxDone (iLdw 1) (List.replicate 2048 0) false Parts.reset (fun p => ((p.slot 0).valid, (p.slot 0).fmt)) = some ((true, 1), none) ∧
    pxDone (iLdw 0) (List.replicate 3072 0) false Parts.reset (fun p => ((p.slot 0).valid, (p.slot 0).fmt)) = some ((false, 0), some .pxerr) := by decide +kernel
/-- Rows of 33 bytes of 5; a scale of 0xFF fails; a token outside the window fails with SPACE. -/
theorem test_px_stage_loads : pxDone iLda (List.replicate 1056 5) false Parts.reset (fun p => ((p.stage 0).valid, (p.stage 0).v 0 3 1, (p.stage 0).ea 0 31)) = some ((1, 5, 5), none) ∧
    pxDone iLda (List.replicate 1056 0xFF) false Parts.reset (fun p => (p.stage 0).valid) = some (0, some .pxerr) ∧
    pxDone iLda (List.replicate 33 5) true Parts.reset (fun p => (p.stage 0).valid) = some (0, some .space) := by decide +kernel
/-- R82, R293: π is the identity, the base is −2 and one step of 3 follows the fourth weight: −2 × 4 + 1 × 28 over activations of 1. -/
def rec1 : Nat := ((List.range 32).map (fun i => i * 2 ^ (5 * i))).sum + 3 * 2 ^ 160 + 4 * 2 ^ 165 + 30 * 2 ^ 310
theorem test_group_partial : recOk rec1 = true ∧ groupPartial rec1 (fun _ => 1) = 20 ∧ recOk (rec1 + 2 ^ 339) = false := by decide +kernel
theorem test_px_zero : pxDone (iZero 0x702) [] false { Parts.reset with z := [(1, { ZReg.reset with zloss := true, elems := [(5, 9)] }), (2, { ZReg.reset with zloss := true })] }
    (fun p => ((p.zr 1).eref, (p.zr 1).zloss, (p.zr 1).elem 0 5, (p.zr 2).zloss)) = some ((7, false, 0, true), none) := by decide +kernel
/-- R85: element 3 at weight 2^(−64) of BETA 2.0 drains as 6 × 2^−64. -/
theorem test_drain : (drainElem 3 0 0x4000 false).1 = 0x20C00000 ∧ (drainElem 3 0 0x4000 true).1 = 0x20C0 := by decide +kernel
/-- R264's example. -/
theorem test_bypass_block : (let b := xqa8Block (0x40400000 :: 0xBFC00000 :: 0x3DCD0000 :: List.replicate 29 0); (b.1, b.2.1.take 4, b.2.2)) = (122, [96, -48, 3, 0], 1) := by decide +kernel
theorem test_direct_weight : dirElem fmtE4m3 0x38 = 2 ^ 9 ∧ dirElem fmtE4m3 0xB8 = -(2 ^ 9) := by decide +kernel

theorem wit_px_words : (bodyOf (iLdw 0)).good = true ∧ (bodyOf iGa).good = true ∧ (bodyOf iLda).good = true ∧ (bodyOf iMm).good = true ∧ (bodyOf iDm).good = true ∧ (bodyOf (iZero 3)).good = true ∧
    (bodyOf iDrn).good = true ∧ (bodyOf iByp).good = true ∧ (bodyOf iSave).good = true ∧ (bodyOf iRest).good = true ∧ (bodyOf iStat).good = true := by decide +kernel
theorem wit_px_only : pxOnly (stPx (pxOf iMm true [] false) Parts.reset) 0 iMm (pxOf iMm true [] false) := ⟨by decide +kernel, by decide +kernel, by decide +kernel⟩
theorem wit_px_due : (stPx (pxOf iMm true [] false) Parts.reset).due 100 = true ∧ (stPx (pxOf iMm true [] false) Parts.reset).due 1001 = false := by decide +kernel
theorem wit_px_valid : mmOk { Parts.reset with w := [(0, { WSlot.reset with valid := true })], a := [(0, { AStageReg.reset with valid := 1 })] } (pxOf iMm false [] false) = true ∧
    mmOk { Parts.reset with w := [(0, { WSlot.reset with valid := true, fmt := 1 })], a := [(0, { AStageReg.reset with valid := 1 })] } (pxOf iDm false [] false) = true := by decide +kernel
theorem wit_px_full : 32 ≤ ((List.replicate 32 (pxo false)).filter (fun o => !o.started)).length := by decide +kernel
theorem wit_px_behind_sst : ∃ a ∈ ({ seqQ [] with accs := [(4, acc0 false false)] } : Seq).accs, a.2.acc.write = true ∧ a.1 < (pxOf iGa false [] false).after := ⟨(4, acc0 false false), List.mem_cons_self .., rfl, by decide⟩

/-! The table-query engine. Table 4 of context 1 has 3 entries in frame 2 of stack 0. -/

def tab0 (st : TabSt) : Table := { Table.free with st := st, old := st, count := 3, loc := some 0, frame := 2 }
def withTab (t : Table) (s : State) : State := { s with ctxs := s.ctxs.modify 1 (fun (c : Ctx) => { c with tables := [(4, t)] }), mems := { s.mems with frame := [(16386, 0x23), (16387, 0x81)] } }
def stTab (t : Table) (g : Group) : State := withTab t (stPage g)
def tabTrap (i : Instr) (t : Table) (rg : Regs) : Option (Option Cause × Dword) := (got (exec i (stTab t (grp0 rg 3))) (fun u => (u.grp gid0).map (fun g => (trapCause g, ((g.trap.map (·.detail0)).getD 0))))).join
def wTload (mod : BitVec 12) : Ctl := ctl0 (.sp 17) (.g 1) (.g 2) mod 4
/-- Indices in v1, j-register 2, destination v8, SX. -/
def wTq : Ctl := ctl0 (.v 8) (.v 1) Opnd.none 0x0F0 0x204
def wTq2 : Ctl := ctl0 (.v 8) (.v 1) (.v 2) 0x1F0 0x204
/-- A query of lanes 0 and 1 for entries 1 and 0; its answers are 0x8123 and 7, zero for a lane in error. -/
def req0_ : List Byte := tqRequest 2 false true 2 (tqRoute 0 0) 3 (fun l => 1 - l)
def pkt0 (srv : Bool) (err : Lanes) : TqPkt :=
  { gid := gid0, pc := 0x30, ofs := 0, ctx := 1, table := 4, stack := 0, die := 0, dest := 8, req := req0_, chan := some 5, err := err
    reply := if srv then some (req0_.take 16 ++ le 8 err.toNat ++ le 4 0x8123 ++ le 4 (if err.getLsbD 1 then 0 else 7) ++ List.replicate 248 0) else none }
/-- Table 12-3: FRAME at bit 0, WIDE at 8, SX at 9, J at 10, the lane mask at bit 64; slot 0 in bytes 16 and 17. -/
theorem test_packet_layout : req0_.length = 144 ∧ natOfBytes (req0_.take 2) = 2 + 512 + 2048 ∧ natOfBytes ((req0_.drop 8).take 8) = 3 ∧ (req0_.drop 16).take 4 = [1, 0, 0, 0] := by decide +kernel

theorem test_tload : got (exec (.tload (wTload 6)) (stTab Table.free (grp0 (ab 0x40 3) 3))) (fun t => ((t.table 1 4).st == .loading && (t.table 1 4).count == 3 && (t.table 1 4).loc == some 0, (t.grp gid0).map (fun g => (g.regs.freg 1, g.copies)))) =
    some (true, some (0x20000001, 1)) ∧ tabTrap (.tload (wTload 4)) Table.free (ab 0x40 0) = some (some .tqbad, 4) ∧ tabTrap (.tload (wTload 4)) (tab0 .ready) (ab 0x40 3) = some (some .tqbad, 4) ∧
    tabTrap (.tload (wTload 4)) Table.free (ab 0x41 3) = some (some .align, 0x41) := by decide +kernel
theorem test_tload_bounds : tabTrap (.tload (wTload 0)) Table.free (ab 0x40 4097) = some (some .tqbad, 4) ∧ tabTrap (.tload (wTload 0)) Table.free (ab (2 ^ 48 - 4) 3) = some (some .nomap, 2 ^ 48 - 4) ∧
    tabTrap (.tload (wTload 0)) Table.free (ab (2 ^ 48 - 6) 3) = some (none, 0) ∧ tabTrap (.tload (wTload 4)) Table.free (ab 0x5FFFFC 3) = some (some .space, 0x5FFFFC) := by decide +kernel
theorem test_tfree : got (exec (.tfree (ctl0 (.sp 17) Opnd.none Opnd.none 0 4)) (stTab (tab0 .ready) (grp0 Regs.reset 3))) (fun t => ((t.table 1 4).st, (t.table 1 4).view 0, (t.table 1 4).view 1)) = some (.freeing, .freeing, .ready) ∧
    tabTrap (.tfree (ctl0 (.sp 17) Opnd.none Opnd.none 0 4)) (tab0 .loading) Regs.reset = some (some .tqbad, 4) := by decide +kernel
theorem test_tq : got (exec (.tq wTq) (stTab (tab0 .ready) (grp0 (regsOf [(64, 1), (65, 2)] []) 3))) (fun t => (t.pkts.map (fun p => ([p.2.idx 0, p.2.idx 1, p.2.idx 2], p.2.lanes)), (t.grp gid0).map (fun g => (g.regs.jreg 2, g.run.map (·.caller))))) =
    some ([([1, 2, 0], 3)], some (0xFFFFFFFFFFFFFFFC, some 3)) := by decide +kernel
/-- R322: lane 1's index 3 is not below COUNT; DETAIL0 holds the table, the mark and the index. -/
theorem test_tq_range : tabTrap (.tq wTq) (tab0 .ready) (regsOf [(64, 1), (65, 3)] []) = some (some .tqbad, 0x300000104) ∧ tabTrap (.tq wTq) (tab0 .loading) Regs.reset = some (some .tqbad, 4) := by decide +kernel
/-- R322: SH 1 takes bit 0 from v2 and the rest from v1. -/
theorem test_tq2 : got (exec (.tq2 wTq2) (stTab (tab0 .ready) (grp0 (regsOf [(64, 1), (128, 2), (129, 1)] []) 3))) (fun t => t.pkts.map (fun p => [p.2.idx 0, p.2.idx 1])) = some [[2, 1]] := by decide +kernel
def wTmap (mod : BitVec 12) : Ctl := ctl0 (.sp 17) (.g 1) (.g 2) mod 4
theorem test_tmap : got (exec (.tmap (wTmap 3)) (stTab (tab0 .ready) (grp0 (ab 0x40 6) 3))) (fun t => t.aops.map (fun p => p.2.kind == .tmap 4 0x40 6 true 1 && p.2.stage == .queued)) = some [true] ∧
    tabTrap (.tmap (wTmap 1)) (tab0 .ready) (ab 0x40 5) = some (some .align, 0x40) ∧ tabTrap (.tmap (wTmap 0)) (tab0 .ready) (ab (2 ^ 48 - 4) 5) = some (some .nomap, 2 ^ 48 - 4) ∧
    tabTrap (.tmap (wTmap 0)) Table.free (ab 0x40 6) = some (some .tqbad, 4) := by decide +kernel
def stPkt (p : TqPkt) : State := { stTab (tab0 .ready) (grpR []) with pkts := [(6, p)] }
theorem test_packet_channel : got (exec (.tqPacketServe 6) (stPkt { pkt0 false 0 with chan := none })) (fun t => t.pkts.map (fun p => (p.2.chan, p.2.reply.isSome))) = some [(some 0, false)] := by decide +kernel
theorem test_packet_serve : got (exec (.tqPacketServe 6) (stPkt (pkt0 false 0))) (fun t => t.pkts.map (fun p => p.2.reply.map (fun bs => (bs.length, (bs.drop 24).take 8)))) =
    some [some (280, [0x23, 0x81, 0, 0, 0, 0, 0, 0])] ∧
    got (exec (.tqPacketServe 6) { stPkt (pkt0 false 0) with chans := [(5, { Chan.reset with st := .powerDown, idleFrom := 100 })] }) (fun t => (t.pkts.map (·.2.reply.isSome), (t.chan 5).wakeAt)) = some ([false], some 20024) := by decide +kernel
theorem test_reply : grpOf (exec (.tqReply 6) { stPkt (pkt0 true 0) with groups := [(gid0, { grpR [] with regs := { Regs.reset with j := [(2, 0)] } })] })
    (fun g => (g.regs.vreg 8 0, g.regs.vreg 8 1, g.regs.jreg 2)) = some (0xFFFF8123, 7, 3) ∧
    grpOf (exec (.tqReply 6) (stPkt (pkt0 true 2))) (fun g => (g.regs.vreg 8 1, g.tqErrs.map (fun t => (t.1, t.2.cause, t.2.lanes)))) = some (0, [(2, .hwerr, 2)]) := by decide +kernel
def stTload (st : AStage) : State := withTab { tab0 .loading with frame := 256 } { okOp (.tload 4 0x40 true) st (stPage (grpR [])) with mems := { Mems.reset with cm := [(0x42, 0xAB)] }, stks := [(0, { Stack.reset with frames := [0] })] }
def image0 : List Piece := [{ readAt 100 with width := 6, data := 0xAB0000 }]
def stTloadRead : State := { stTload .running with aops := [(33, { aopOf (.tload 4 0x40 true) .running with pieces := image0 })] }
theorem test_tload_complete : got (exec (.tloadComplete 33) (stTload .running)) (fun t => ((t.table 1 4).st, t.aops.flatMap (fun p => p.2.pieces.map (fun x => (x.addr, x.width))))) = some (.loading, [(0x40, 6)]) ∧
    got (exec (.tloadComplete 33) stTloadRead) (fun t => ((t.table 1 4).st, (t.table 1 4).frame, t.mems.frame.read 8194, (t.stack 0).frames)) = some (.ready, 1, 0xAB, [0, 1]) ∧
    futOf (exec (.tloadComplete 33) (stTload .holding)) 5 = some (some .ok) := by decide +kernel
theorem test_tfree_complete : got (exec (.tfreeComplete 33) (withTab (tab0 .freeing) (okOp (.tfree 4) .running (stPage (grpR []))))) (fun t => ((t.table 1 4).st, (t.ctx? 1).map (fun c => (c.fut 5).st))) = some (.free, some .ok) ∧
    got (exec (.tfreeComplete 33) { withTab (tab0 .freeing) (okOp (.tfree 4) .running (stPage (grpR []))) with pkts := [(6, pkt0 false 0)] }) (fun t => (t.table 1 4).st) = some .freeing := by decide +kernel
/-- The bytes of line 0 are 8, 7, 6, …: two bytes shifted right by 3 are the indices 1 and 0. -/
def stTmap (rsh len : Nat) : State := withTab (tab0 .ready) (okOp (.tmap 4 0 len false rsh) .running { stPage (grpR []) with store := { pageStore page0 [0] 0 with recs := [(1, { rec0 with payload := [0x0708] })] } })
def stTmapHeld (rsh len : Nat) : State := (stTmap rsh len).grabLine 33 (aopOf (.tmap 4 0 len false rsh) .running) true 0
theorem test_tmap_step : got (exec (.tmapComplete 33) (stTmapHeld 3 2)) (fun t => t.aops.map (fun p => (p.2.outs, p.2.chunk))) = some [([(0, [0x23, 0])], 2)] ∧ futOf (exec (.tmapComplete 33) (stTmapHeld 0 2)) 5 = some (some (.failed .tqbad)) := by decide +kernel
def parkedG (j : Dword) : Group := { grpR [] with parked := [{ lane := 0, j := 2, pc := 24 }, { lane := 1, j := 2, pc := 24 }], regs := { Regs.reset with j := [(2, j)] } }
theorem test_rejoin : grpOf (exec (.lanesReturn gid0 2) (stCode (parkedG 1))) (fun g => (g.parked.length, g.pcs.length)) = some (2, 0) ∧ grpOf (exec (.lanesReturn gid0 2) (stCode (parkedG 3))) (fun g => (g.parked.length, g.pcs.map (·.mask))) = some (0, [3]) := by decide +kernel

theorem wit_query_words : (Body.ctl 0x260 (wTload 6)).good = true ∧ (Body.ctl 0x261 wTq).good = true ∧ (Body.ctl 0x262 wTq2).good = true ∧ (Body.ctl 0x263 (wTmap 3)).good = true ∧ (tab0 .ready).usable 0 = true ∧
    (tab0 .ready).usable 2 = false ∧ ({ tab0 .ready with loc := none } : Table).usable 31 = true := by decide +kernel
theorem wit_packets : (stPkt (pkt0 true 0)).pkts.get? 6 = some (pkt0 true 0) ∧ ((stPkt (pkt0 true 0)).grp (pkt0 true 0).gid).isSome = true ∧ (stTload .running).freeFrame [0] = some 1 ∧
    stTloadRead.piecesDone image0 0 = true ∧ (stTloadRead.table 1 4).loc = some 0 := by decide +kernel
theorem wit_tfree : pend (withTab (tab0 .freeing) (okOp (.tfree 4) .running (stPage (grpR [])))) 33 (aopOf (.tfree 4) .running) { Ctx.empty with priv := true, futs := [(5, fut5 .pending)], tables := [(4, tab0 .freeing)] } :=
  ⟨by decide +kernel, by decide +kernel, by decide +kernel, by decide +kernel⟩
theorem wit_tmap : (match (stTmap 3 2).engineChk 0 1 0 2 { rd := true, wr := true, ex := false, atom := false, width := 1 } with
    | .ok _ => true
    | _ => false) = true ∧ (((stTmapHeld 3 2).aops.get? 33).bind (fun o => o.lineBytes 0 2)) = some [8, 7] := by decide +kernel

/-! The landing engine. A block of two ranks that adds 32-bit elements: OP 0, FMT 4, NSRC 1, two elements. -/

def wL (mod : BitVec 12) : Ctl := ctl0 (.sp 17) (.g 1) Opnd.none mod 0
def blkN (op fmt order nsrc nelem src dst flag tail : Nat) : List Byte :=
  le 8 (op + fmt * 2 ^ 8 + order * 2 ^ 13 + nsrc * 2 ^ 16) ++ le 8 nelem ++ le 8 src ++ le 8 dst ++ le 8 flag ++ le 8 77 ++ le 8 0 ++ le 8 tail
def blkArm : LandBlk := landBlkOf (blkN 0 4 1 1 2 0 0x100 0x200 0)
def blkPut (rank : Nat) : LandBlk := landBlkOf (blkN 0 4 1 1 2 0 0 0x200 (rank * 2 ^ 16 + 2 ^ 44))
/-- Operation 33 with its block in cluster memory at 0x40. -/
def stLand (k : AKind) (st : AStage) (bs : List Byte) : State :=
  { okOp k st (stPage (grpR [])) with mems := { Mems.reset with cm := Memory.writeBytes [] 0x40 bs } }
def landKind (o : Out) : Option (List (Bool × Bool)) := got o (fun t => t.aops.map (fun p => (p.2.stage == .running || p.2.stage == .holding, (landRole p.2.kind).any (fun x => x.2.2.2.isSome))))

theorem test_landing_words : onGrp (.landr (wL 0)) (ab 0x40 0) 3 (fun g => (g.regs.freg 1, g.copies)) = some (0x30000001, 1) ∧ onGrp (.landcArm (wL 1)) (ab 0x40 0) 3 (fun g => (g.regs.freg 1, g.copies)) = some (0x30000001, 1) ∧
    got (exec (.landcPut (wL 3)) (st0 (grp0 (ab 0x40 0) 3))) (fun t => t.aops.map (fun p => p.2.kind == .put 0x40 true none && p.2.stage == .queued)) = some [true] := by decide +kernel
theorem test_landing_checks : onGrp (.landr (wL 0)) (ab 0x60 0) 3 trapCause = some (some .align) ∧ onGrp (.landr (wL 0)) (ab (2 ^ 48) 0) 3 trapCause = some (some .nomap) ∧ onGrp (.landr (wL 0)) (ab (2 ^ 48 - 64) 0) 3 trapCause = some none ∧
    onGrp (.landcArm (wL 1)) (ab 0x600000 0) 3 trapCause = some (some .space) ∧ onGrp (.landcPut (wL 3)) (ab 0x600000 0) 3 trapCause = some (some .space) := by decide +kernel
theorem test_reductions : (reduceElem blkArm [0xFFFFFFFF, 2]).1 = 1 ∧ (reduceElem { blkArm with sat := true } [0xFFFFFFFF, 2]).1 = 0xFFFFFFFF ∧ (reduceElem { blkArm with fmt := 5, op := 1 } [0xFFFFFFFF, 2]).1 = 0xFFFFFFFF ∧
    (reduceElem { blkArm with op := 2 } [0xFFFFFFFF, 2]).1 = 0xFFFFFFFF ∧ (reduceElem { blkArm with fmt := 8 } [0x3F800000, 0x40000000]).1 = 0x40400000 := by decide +kernel
/-- The same once the block's 64 bytes have been read. -/
def stLandRead (k : AKind) (bs : List Byte) : State :=
  { okOp k .queued (stPage (grpR [])) with aops := [(33, { aopOf k .queued with pieces := [{ readAt 100 with width := 64, data := natOfBytes bs }] })] }
theorem test_block_read : got (exec (.landOpStart 33) (stLand (.arm 0x40 true none) .queued [])) (fun t => t.aops.map (fun p => p.2.pieces.map (fun x => (x.addr, x.width)))) = some [[(0x40, 16), (0x50, 16), (0x60, 16), (0x70, 16)]] := by decide +kernel
theorem test_arm_start : landKind (exec (.landOpStart 33) (stLandRead (.arm 0x40 true none) (blkN 0 4 1 1 2 0 0x100 0x200 0))) = some [(false, true)] ∧
    futOf (exec (.landOpStart 33) (stLandRead (.arm 0x40 true none) (blkN 3 4 1 1 2 0 0x100 0x200 0))) 5 = some (some (.failed .illop)) ∧
    futOf (exec (.landOpStart 33) (stLandRead (.arm 0x40 true none) (blkN 0 4 1 1 2 0 0x102 0x200 0))) 5 = some (some (.failed .align)) ∧
    futOf (exec (.landOpStart 33) (stLandRead (.arm 0x40 true none) (blkN 0 4 1 1 2 0 (2 ^ 48 - 4) 0x200 0))) 5 = some (some (.failed .nomap)) := by decide +kernel
/-- A LANDR that its engine accepts has its table's lines published first; a put begins at once. -/
def stLandr : State := { okOp .flush .running (stPage (grpR [])) with aops := [(33, { aopOf (.landr 0x40 true (some blkArm)) .queued with bufs := [(arriveKey, le 8 7)] })] }
theorem test_landr_start : got (exec (.landOpStart 33) stLandr) (fun t => (t.aops.map (·.2.stage == .prePub 10), t.store.reqs.map (fun p => p.2.kind == .range 0 16))) = some ([true], [true]) ∧
    landKind (exec (.landOpStart 33) (stLandRead (.put 0x40 true none) (blkN 0 4 1 1 2 0 0 0x200 (2 ^ 44)))) = some [(true, true)] := by decide +kernel
def armOp (st : AStage) (bufs : List (Nat × List Byte)) (k : Nat) : AOp := { aopOf (.arm 0x40 true (some blkArm)) st with bufs := bufs, chunk := k }
def stArm (o : AOp) : State := { okOp o.kind o.stage (stPage (grpR [])) with aops := [(33, o)] }
/-- R343: an arm of two ranks needs four buffers; with three free it waits. -/
theorem test_arm_reserve : got (exec (.armReserve 0) { stArm (armOp .holding [] 0) with stks := [(0, { Stack.reset with live := List.range 4093 })] }) (fun t => (t.aops.map (·.2.stage == .holding), (t.stack 0).live.length)) = some ([true], 4093) := by decide +kernel
def putOp (rank : Nat) (st : AStage) : AOp := { aopOf (.put 0x40 true (some (blkPut rank))) st with since := 100 }
/-- Rank 1's put, with the arm of its tag, or none. -/
def stPut (arms : FMap AOp) (st : AStage) : State := { okOp .flush .running (stPage (grpR [])) with aops := arms ++ [(33, putOp 1 st)] }
def stPutHeld : State := (stPut [(20, armOp .running [] 0)] .running).grabLine 33 (putOp 1 .running) true 0
theorem test_chunk : got (exec (.chunkAccept 33) stPutHeld) (fun t => (t.aops.map (fun p => (p.1, p.2.buf (chunkKey 0 1))), (t.ctx? 1).map (fun c => (c.fut 5).st))) =
    some ([(20, some (le 8 0x0807060504030201))], some .ok) := by decide +kernel
theorem test_put_retry : got (exec (.chunkAccept 33) ((stPut [] .running).grabLine 33 (putOp 1 .running) true 0)) (fun t => t.aops.map (fun p => (p.2.stage == .holding, p.2.since))) = some [(true, 20000)] ∧
    got (exec (.putRetry 33) { stPut [] .holding with pcc := 900 }) (fun t => t.aops.map (·.2.stage == .running)) = some [true] ∧ got (exec (.putRetry 33) { stPut [] .holding with pcc := 899 }) (fun t => t.aops.map (·.2.stage == .running)) = some [false] := by decide +kernel
def bufs2 : List (Nat × List Byte) := [(chunkKey 0 0, le 8 0x0000000100000002), (chunkKey 0 1, le 8 0x00000003FFFFFFFF)]
theorem test_reduce_chunk : got (exec (.landPublish 33) (stArm (armOp .running bufs2 0))) (fun t => t.aops.map (fun p => (p.2.outs, p.2.chunk))) = some [([(0x100, le 8 0x0000000400000001)], 0)] ∧
    got (exec (.landPublish 33) (stArm (armOp .running [(chunkKey 0 0, le 8 0)] 0))) (fun t => t.aops.map (·.2.outs)) = some [[]] := by decide +kernel
theorem test_result_published : got (exec (.landPublish 33) (stArm (armOp .running [] 1))) (fun t => (t.aops.map (·.2.stage == .publishing 10), (t.log 257).queue)) = some ([true], [10]) := by decide +kernel
theorem test_flag_published : got (exec (.landPublish 33) { stArm (armOp (.publishing 9) [] 1) with store := { pageStore page0 [] 0 with reqs := [(9, reqDone)] } }) (fun t => (t.aops.map (·.2.stage == .flagging 10), (t.log 257).queue)) = some ([true], [10]) ∧
    futOf (exec (.landPublish 33) (stArm (armOp (.flagging 9) [] 1))) 5 = some (some .ok) := by decide +kernel

theorem wit_landing_words : (Body.ctl 0x270 (wL 0)).good = true ∧ (Body.ctl 0x271 (wL 1)).good = true ∧ (Body.ctl 0x271 (wL 3)).good = true := by decide +kernel
theorem wit_land_start : (stLandRead (.arm 0x40 true none) (blkN 0 4 1 1 2 0 0x100 0x200 0)).piecesDone [{ readAt 100 with width := 64 }] 0 = true ∧ (stLand (.arm 0x40 true none) .queued []).armFor 0 = none ∧
    landReserved (blkN 0 4 1 1 2 0 0x100 0x200 0) = true ∧ stLandr.landBusy 0 < 32 ∧ ((stArm (armOp .holding [] 0)).firstArm 0).map (·.1) = some 33 := by decide +kernel
theorem wit_land_pend : pend (stArm (armOp .running bufs2 0)) 33 (armOp .running bufs2 0) { Ctx.empty with priv := true, futs := [(5, fut5 .pending)] } := ⟨by decide +kernel, by decide +kernel, by decide +kernel, by decide +kernel⟩
theorem wit_land_pages : (stArm (armOp .running bufs2 0)).landPages (armOp .running bufs2 0) .arm blkArm 0 = none ∧ (stArm (armOp .running bufs2 0)).landEndPages (armOp .running bufs2 0) blkArm = none ∧
    blkArm.chunks = 1 ∧ ((stPutHeld.aops.get? 33).bind (fun o => o.lineBytes 0 8)) = some (le 8 0x0807060504030201) := by decide +kernel

/-! Contexts, queues and packets, placement. Context 2 is the one that the words of context 1 name. -/

def wC (d a b : Opnd) : Ctl := ctl0 d a b 0 0
def stCtx (x : Ctx) (rg : Regs) : State := { stPage (grp0 rg 3) with store := pageStore page0 [0, 256] 0, ctxs := [(1, { Ctx.empty with priv := true }), (2, x)], blocks := [(blockKey 3 0, { fetchBlock with launch := 3 })], launches := [(3, { fetchLaunch with ctx := 2 })] }
def ctxOn {α : Type} (i : Instr) (x : Ctx) (rg : Regs) (f : Ctx → α) : Option α := (got (exec i (stCtx x rg)) (fun t => (t.ctx? 2).map f)).join
def ctxTrap (i : Instr) (x : Ctx) (rg : Regs) : Option (Option Cause) := got (exec i (stCtx x rg)) (fun t => (t.grp gid0).bind trapCause)

theorem test_quiesce : ctxOn (.quiesce (wC Opnd.none (.g 1) (.g 2))) Ctx.empty (ab 2 0x48) (fun x => x.quiet == .quiescing 1 0x48) = some true ∧
    got (exec (.quiesce (wC Opnd.none (.g 1) (.g 2))) (stCtx Ctx.empty (ab 2 0x48))) (fun t => t.blocks.map (·.2.ask)) = some [true] := by decide +kernel
theorem test_quiesce_checks : ctxTrap (.quiesce (wC Opnd.none (.g 1) (.g 2))) Ctx.empty (ab 1 0x48) = some (some .illop) ∧ ctxTrap (.quiesce (wC Opnd.none (.g 1) (.g 2))) Ctx.empty (ab 3 0x48) = some (some .illop) ∧
    ctxTrap (.quiesce (wC Opnd.none (.g 1) (.g 2))) Ctx.empty (ab 2 0x44) = some (some .align) ∧ ctxTrap (.quiesce (wC Opnd.none (.g 1) (.g 2))) Ctx.empty (ab 0x10002 0x48) = some (some .illop) := by decide +kernel
theorem test_context_resume : ctxOn (.resume (wC Opnd.none (.g 1) Opnd.none)) { Ctx.empty with quiet := .quiesced } (ab 2 0) (fun x => x.quiet == .running) = some true ∧
    ctxOn (.resume (wC Opnd.none (.g 1) Opnd.none)) { Ctx.empty with quiet := .quiescing 1 0 } (ab 2 0) (fun x => x.quiet == .quiescing 1 0) = some true := by decide +kernel
theorem test_halt : got (exec (.halt (wC Opnd.none (.g 1) Opnd.none)) (stCtx Ctx.empty (ab 2 0))) (fun t => ((t.launchOf 3).map (·.failure), (t.ctx? 2).map (·.halted))) = some (some (some (0, 0, .cancelled)), some true) ∧
    got (exec (.halt (wC Opnd.none (.g 1) Opnd.none)) (stCtx Ctx.empty (ab 1 0))) (fun t => (t.grp gid0).map (·.stopReq)) = some (some true) := by decide +kernel
theorem test_ctxld_checks : ctxTrap (.ctxld (wC (.g 4) (.g 1) Opnd.none)) Ctx.empty (ab 0x20 0) = some (some .align) ∧ ctxTrap (.ctxld (wC (.g 4) (.g 1) Opnd.none)) Ctx.empty (ab (2 ^ 20) 0) = some (some .nomap) ∧
    ctxTrap (.ctxld (wC (.g 4) (.g 1) Opnd.none)) Ctx.empty (ab (2 ^ 48) 0) = some (some .nomap) ∧ ctxTrap (.ctxld (wC (.g 4) (.g 1) Opnd.none)) Ctx.empty (ab 0 0) = some (some .illop) := by decide +kernel
theorem test_descriptor : descZero (le 8 (2 ^ 44 - 1) ++ le 8 1 ++ le 8 (2 ^ 32 - 1) ++ le 8 0x8FFF ++ List.replicate 24 0 ++ le 8 (2 ^ 63 + 0xFFFF)) = true ∧ descZero (le 8 (2 ^ 44)) = false ∧
    descZero (le 16 0 ++ le 8 (2 ^ 32)) = false ∧ descZero (le 24 0 ++ le 8 0x1000) = false ∧ (ctxOfDesc (le 8 7 ++ le 8 1 ++ le 8 9)).ixroot = 7 := by decide +kernel
def lodgedBytes (o : Out) (r : Nat) : Option (List (List (Nat × Bool))) := got o (fun t => (t.store.reqs.filter (fun p => p.1 == r)).map (fun p => p.2.lines.map (fun l => (l.mask.toNat, l.data == 0))))
theorem test_ctxsv : lodgedBytes (exec (.ctxsv (wC Opnd.none (.g 1) (.g 2))) (stCtx Ctx.empty (ab 2 0x40))) 10 = some [[((2 ^ 64 - 1) * 2 ^ 64, true)]] ∧
    lodgedBytes (exec (.ctxsv (wC Opnd.none (.g 1) (.g 2))) (stCtx { Ctx.empty with quiet := .quiesced } (ab 2 0x40))) 10 = some [[((2 ^ 64 - 1) * 2 ^ 64, false)]] ∧
    ctxTrap (.ctxsv (wC Opnd.none (.g 1) (.g 2))) Ctx.empty (ab 2 0x20) = some (some .align) ∧ ctxTrap (.ctxsv (wC Opnd.none (.g 1) (.g 2))) Ctx.empty (ab 2 (2 ^ 20)) = some (some .nomap) := by decide +kernel
def stDue (x : Ctx) : State := { stCtx x (ab 0 0) with blocks := [] }
theorem test_quiesce_complete : got (exec (.quiesceComplete 2) (stDue { Ctx.empty with quiet := .quiescing 1 0x40 })) (fun t => ((t.ctx? 2).map (·.quiet == .quiesced), t.store.reqs.length)) = some (some true, 1) ∧
    got (exec (.quiesceComplete 2) (stDue { Ctx.empty with quiet := .quiescing 1 0x40, futs := [(5, fut5 .pending)] })) (fun t => (t.ctx? 2).map (·.quiet == .quiesced)) = some (some false) := by decide +kernel

/-! Packets of queue 0, of context 1. -/

def cq0 : CQueue := { CQueue.reset with cur := some 1, en := true, ctx := 1, tail := 1, loc := true }
def stQ (k : CQueue) : State := { stPage (grpR []) with cqs := [(0, k)], issuer := .queue 0, sys := { State.reset.sys with bootSt := 2 } }
def qOn {α : Type} (i : Instr) (k : CQueue) (f : CQueue → α) : Option α := got (exec i (stQ k)) (fun t => f (t.cq 0))
theorem test_barrier : qOn .barrier cq0 (fun k => (k.cur, k.wait)) = some (none, .barrier) := by decide +kernel
theorem test_signal : qOn (.signal 7 0x40) cq0 (fun k => (k.cur, k.sigs)) = some (none, [{ after := 10, val := 7, addr := 0x40, req := none }]) := by decide +kernel
theorem test_cancel : got (exec (.cancel true true 1 0x1FFFF 1) { stQ cq0 with waiters := [(0, wait0 true false), (1, { wait0 true false with launch := 2 }), (2, { wait0 true false with page := pageKey 1 0x20000 })] }) (fun t => t.waiters.map (·.2.cancel)) =
    some [true, false, false] ∧ got (exec (.cancel false true 1 0x1FFFF 2) { stQ cq0 with waiters := [(2, { wait0 true false with page := pageKey 1 0x20000 })] }) (fun t => t.waiters.map (·.2.cancel)) = some [true] := by decide +kernel
theorem test_preempt : got (exec (.preempt 1 true) (stQ cq0)) (fun t => t.blocks.map (fun b => (b.2.ask, b.2.held))) = some [(true, true)] ∧
    got (exec (.preempt 1 false) { stQ cq0 with blocks := [(blockKey 1 0, { fetchBlock with resident := false, held := true })] }) (fun t => t.blocks.map (fun b => (b.2.ask, b.2.held))) = some [(false, false)] ∧
    got (exec (.preempt 9 true) (stQ cq0)) (fun t => t.blocks.map (fun b => (b.2.ask, b.2.held))) = some [(false, false)] := by decide +kernel
def buf0 (w : BufWriter) (rs : List Nat) : BufH := { base := 0, len := 64, writer := w, readers := rs, freeing := false }
def withBuf (b : BufH) (s : State) : State := { s with ctxs := s.ctxs.modify 1 (fun (c : Ctx) => { c with bufs := [(6, b)] }) }
def bufsOf (o : Out) : Option (Option (List (Nat × BufH))) := got o (fun t => (t.ctx? 1).map (·.bufs))
theorem test_buffer : bufsOf (exec (.buffer 6 false false 0x100 8) (withBuf (buf0 (.launch 3) [4]) (stQ cq0))) = some (some [(6, { base := 0x100, len := 8, writer := .launch 3, readers := [4], freeing := false })]) ∧
    bufsOf (exec (.buffer 6 true false 0 0) (withBuf (buf0 .none []) (stQ cq0))) = some (some []) := by decide +kernel
theorem test_buffer_named : bufsOf (exec (.buffer 6 true false 0 0) { withBuf (buf0 .none []) (stQ cq0) with launches := [(1, { fetchLaunch with bufl := [6] })] }) = some (some [(6, { buf0 .none [] with freeing := true })]) := by decide +kernel

/-! A kernel descriptor at address 0: entry 24, no trap handler, no stream, 16 registers, one argument, two groups of 16 lanes, 512 bytes of cluster memory. The argument at 32 is 0. -/

def desc0 : List Byte := le 8 0 ++ le 4 24 ++ le 4 0xFFFFFFFF ++ le 4 0xFFFFFFFF ++ [16, 1] ++ le 2 (2 + 15 * 1024) ++ le 4 512 ++ le 4 0
def pk0 : LaunchPkt := { nbuf := 0, kdesc := 0, nblk := 3, argp := 32, bufl := 0, cmbase := 256, dsbase := 0, doneAt := 16, doneval := 9 }
def stDesc (d : List Byte) : State := { stQ cq0 with lastLaunch := 1, store := { pageStore page0 [259] 0 with recs := [(1, { rec0 with payload := [BitVec.ofNat 256 (natOfBytes d)] })] } }
def launched {α : Type} (p : LaunchPkt) (s : State) (f : Launch → α) : Option (Option α) := got (exec (.launch p) s) (fun t => (t.launchOf 2).map f)
theorem test_launch : launched pk0 (stDesc desc0) (fun l => (l.entry == 24 && l.trapOfs.isNone && l.seqOfs.isNone && l.nregs == 16 && l.ngroups == 2 && l.lanes == 16 && l.cm == 512 && l.cmbase == 256 && l.largs == [0] && l.nblk == 3)) =
    some (some true) := by decide +kernel
theorem test_launch_refused : launched { pk0 with kdesc := 16 } (stDesc desc0) (fun l => l.failure == some (0, 0, .illop) && l.nblk == 0) = some (some true) ∧ launched { pk0 with argp := 36 } (stDesc desc0) (fun l => l.failure == some (0, 0, .align) && l.nblk == 0) = some (some true) ∧
    launched { pk0 with argp := 2 ^ 20 } (stDesc desc0) (fun l => l.failure == some (0, 0, .nomap) && l.nblk == 0) = some (some true) ∧ launched { pk0 with cmbase := 6 * 2 ^ 20 - 256 } (stDesc desc0) (fun l => l.failure == some (0, 0, .illop) && l.nblk == 0) = some (some true) ∧
    launched { pk0 with nbuf := 1, bufl := 32 } (stDesc desc0) (fun l => l.failure == some (0, 0, .illop) && l.nblk == 0) = some (some true) ∧
    got (exec (.launch { pk0 with doneAt := 8 }) (stDesc desc0)) (fun t => ((t.cq 0).st, (t.cq 0).cause, t.sys.msix)) = some (2, 1, [0]) := by decide +kernel
theorem test_launch_handles : got (exec (.launch { pk0 with nbuf := 1, bufl := 0, kdesc := 0, argp := 32 }) { withBuf (buf0 (.launch 1) []) (stDesc desc0) with launches := [(1, { fetchLaunch with accepted := 7 })] })
    (fun t => (t.launchOf 2).map (·.failure)) = some (some (some (0, 0, .illop))) := by decide +kernel

theorem test_packet_read : qOn (.packetRead 0) { cq0 with cur := none } (fun k => (k.cur, k.head, k.wait)) = some (some 0x0807060504030201, 1, .none) ∧
    qOn (.packetRead 0) { cq0 with cur := none, head := 1, tail := 2 } (fun k => (k.cur, k.head, k.wait)) = some (none, 1, .torn 0 20000) ∧
    got (exec (.packetRead 0) (stQ { cq0 with cur := none, tail := 17 })) (fun t => ((t.cq 0).st, (t.cq 0).cause, t.sys.msix)) = some (2, 1, [0]) ∧
    qOn (.packetRead 0) { cq0 with cur := none, tail := 16 } (fun k => k.head) = some 1 := by decide +kernel
theorem test_packet_reread : qOn (.packetReread 0) { cq0 with cur := none, head := 1, tail := 2, wait := .torn 2 19744 } (fun k => k.wait) = some (.torn 3 20000) ∧
    qOn (.packetReread 0) { cq0 with cur := none, head := 1, tail := 2, wait := .torn 2 19745 } (fun k => k.wait) = some (.torn 2 19745) ∧
    qOn (.packetReread 0) { cq0 with cur := none, head := 1, tail := 2, wait := .torn 7 0 } (fun k => (k.st, k.cause, k.seqf)) = some (2, 0x15, 0) := by decide +kernel
theorem test_queue_kick : qOn (.queueKick .prog 0 9) cq0 (fun k => (k.tail, k.head)) = some (9, 0) := by decide +kernel
theorem test_queue_reset : qOn (.queueReset .prog 0) { cq0 with st := 2, head := 5, cause := 1 } (fun k => (k.st, k.head, k.tail, k.cause)) = some (0, 0, 0, 1) := by decide +kernel
theorem test_queue_barrier_ends : qOn (.packetRead 0) { cq0 with cur := none, wait := .barrier, tail := 0 } (fun k => k.wait) = some .barrier ∧
    got (exec (.packetRead 0) { stQ { cq0 with cur := none, wait := .barrier, tail := 0 } with launches := [] }) (fun t => (t.cq 0).wait) = some .none := by decide +kernel

/-! Placement of block 1 of launch 3: two groups, at cluster 0. -/

def l3 : Launch := { fetchLaunch with nregs := 16, ngroups := 2, lanes := 16, cm := 512, ds := 0, nblk := 3, nextBlk := 1, largs := [7], cmbase := 256, entry := 24, seqOfs := some 48, cr := false, accepted := 8, doneAt := 64, doneval := 9 }
def stL (l : Launch) : State := { stPage (grpR []) with groups := [], blocks := [], launches := [(3, l)], mems := { Mems.reset with cm := [(255, 1), (256, 2), (767, 3), (768, 4)] } }
def gid3 (i : Nat) : Nat := gidOf 3 1 i
theorem test_block_place : got (exec (.blockPlace 3 0) (stL l3)) (fun t => (t.blocks.map (fun b => (b.1 == blockKey 3 1, b.2.resident)), (t.launchOf 3).map (·.nextBlk), t.mems.cm)) =
      some ([(true, true)], some 2, [(255, 1), (768, 4)]) ∧
    (got (exec (.blockPlace 3 0) (stL l3)) (fun t => (t.grp (gid3 1)).map (fun g => g.index == 1 && g.lanes == 16 && g.regs.greg 0 == 7 && g.place == .resident 0 1 && g.pcs.map (fun e => (e.pc, e.mask)) == [(24, 0xFFFF)]))).join = some true ∧
    got (exec (.blockPlace 3 0) (stL l3)) (fun t => ((t.seqOf 0).st, (t.seqOf 0).spc, (t.seqOf 0).reg 0, (t.seqOf 0).reg 16)) = some (.ready, 48, 7, 1) := by decide +kernel
theorem test_block_place_waits : got (exec (.blockPlace 3 0) { stL l3 with launches := [(2, { l3 with accepted := 7 }), (3, l3)] }) (fun t => t.blocks.length) = some 0 ∧
    got (exec (.blockPlace 3 0) (stL { l3 with deps := [8] })) (fun t => t.blocks.length) = some 0 ∧ got (exec (.blockPlace 3 0) (stL { l3 with nregs := 128, ngroups := 193 })) (fun t => t.blocks.length) = some 0 ∧
    got (exec (.blockPlace 3 0) { stL l3 with blocks := [(blockKey 3 0, { fetchBlock with launch := 3 })] }) (fun t => t.blocks.length) = some 1 := by decide +kernel
def lBig : Launch := { l3 with nregs := 128, ngroups := 193, prio := 2 }
def stVictim : State := { stL lBig with launches := [(2, { l3 with prio := 1 }), (3, lBig)], blocks := [(blockKey 2 0, { fetchBlock with launch := 2, placedAt := 4 }), (blockKey 2 1, { fetchBlock with launch := 2, index := 1, placedAt := 5 })] }
theorem test_priority_preempt : got (exec (.priorityPreempt 3 0) stVictim) (fun t => t.blocks.map (·.2.ask)) = some [false, true] ∧
    got (exec (.priorityPreempt 2 0) stVictim) (fun t => t.blocks.map (·.2.ask)) = some [false, false] := by decide +kernel
theorem test_launch_complete : got (exec (.launchComplete 3) (stL { l3 with nextBlk := 3 })) (fun t => (t.launchOf 3).map (·.slotsStopped)) = some (some true) ∧
    got (exec (.launchComplete 3) (stL l3)) (fun t => (t.launchOf 3).map (·.slotsStopped)) = some (some false) ∧
    got (exec (.launchComplete 3) (stL { l3 with nextBlk := 3, slotsStopped := true })) (fun t => ((t.launchOf 3).map (·.doneReq), t.store.reqs.map (fun p => p.2.lines.map (fun x => (x.mask, x.data))))) =
      some (some (some 10), [[(BitVec.ofNat 256 (0xFFFF * 2 ^ 64), BitVec.ofNat 2048 ((9 + 3 * 2 ^ 32) * 2 ^ 512))]]) ∧
    got (exec (.launchComplete 3) (stL { l3 with nextBlk := 3, slotsStopped := true, doneAt := 0 })) (fun t => t.launches.length) = some 0 := by decide +kernel
def gMove : Group := { grpR [] with launch := 3, place := .resident 1 0, nregs := 16 }
def stMove (g : Group) : State := { stL lBig with groups := [(gid3 0, g)], launches := [(3, lBig)] }
theorem test_group_move : got (exec (.groupMove (gid3 0) 2) (stMove gMove)) (fun t => (t.grp (gid3 0)).map (·.moveTo)) = some (some (some 2)) ∧
    got (exec (.groupMove (gid3 0) 24) (stMove gMove)) (fun t => (t.grp (gid3 0)).map (·.moveTo)) = some (some none) ∧
    got (exec (.groupMove (gid3 0) 2) (stMove { gMove with movedAt := 100 })) (fun t => (t.grp (gid3 0)).map (·.moveTo)) = some (some none) := by decide +kernel

theorem wit_context_words : (bodyOf (.quiesce (wC Opnd.none (.g 1) (.g 2)))).good = true ∧ (bodyOf (.resume (wC Opnd.none (.g 1) Opnd.none))).good = true ∧ (bodyOf (.halt (wC Opnd.none (.g 1) Opnd.none))).good = true ∧
    (bodyOf (.ctxld (wC (.g 4) (.g 1) Opnd.none))).good = true ∧ (bodyOf (.ctxsv (wC Opnd.none (.g 1) (.g 2)))).good = true := by decide +kernel
theorem wit_context_sync : ((stCtx Ctx.empty (ab 2 0x40)).syncTree 2 touchAll).isSome = true ∧ (stCtx Ctx.empty (ab 2 0x40)).cpPage 1 0x40 true = none ∧ (stCtx Ctx.empty (ab 2 0x40)).cpPage 1 (2 ^ 20) true = some .nomap ∧
    (stCtx { Ctx.empty with quiet := .quiesced } (ab 2 0x40)).quiesced 2 = true := by decide +kernel
theorem wit_quiescing : (stDue { Ctx.empty with quiet := .quiescing 1 0x40 }).residentOf 2 = false ∧ (stDue { Ctx.empty with quiet := .quiescing 1 0x40 }).quietLogs 2 = [] ∧
    ({ stDue { Ctx.empty with quiet := .quiescing 1 0x40 } with clusters := [(0, { Cluster.reset with buf := [(lineKey 2 0, bufLn)] })] } : State).quietLogs 2 = [0] ∧ (stCtx Ctx.empty (ab 2 0)).residentOf 1 = true := by decide +kernel
theorem wit_launch : (stDesc desc0).cpRead 1 0 32 = .ok desc0 ∧ (stDesc desc0).cpRead 1 32 8 = .ok (List.replicate 8 0) ∧ (stDesc desc0).launchOf ((stDesc desc0).lastLaunch % 65535 + 1) = none := by decide +kernel
theorem wit_place : (stL l3).placeable l3 = true ∧ (stL l3).fits l3 0 = true ∧ (stL { l3 with nextBlk := 3 }).blocksDone 3 { l3 with nextBlk := 3 } = true ∧
    (stL { l3 with nextBlk := 3, slotsStopped := true }).launchBusy 3 { l3 with nextBlk := 3, slotsStopped := true } = false ∧ stVictim.victim lBig 0 = some (blockKey 2 1) := by decide +kernel

/-! The host port, the register window and the trace engines. Master 0 owns the module; its window maps 2^40 bytes at 0x4000_0000 to context 1's page 0. -/

def mas (frozen : Bool) : HostMaster := { HostMaster.new 0x100 0x40000000 none with frozen := frozen, mapCtx := 1, mapEn := true }
def stHost (h : HostMaster) : State := { stPage (grpR []) with store := pageStore page0 [0, 256, 320] 0, hosts := [(0, h)], sys := { State.reset.sys with owner := 0, epoch := 4 } }
def hostOn {α : Type} (i : Instr) (f : State → α) : Option α := got (exec i (stHost (mas false))) f
def reads (o : Out) : Option (BitVec 64 × Bool × BitVec 16) := got o (fun t => (t.sys.readData, t.sys.readBad, t.sys.lnkHost))

theorem test_host_admit : hostOn (.hostAdmit 0x200) (fun t => t.hosts.map (fun h => (h.1, h.2.requester))) = some [(0, 0x100), (1, 0x200)] ∧ hostOn (.hostAdmit 0x100) (fun t => t.hosts.length) = some 1 := by decide +kernel
theorem test_ownership : hostOn (.ownershipSwap (.host 0) 0x00000400000005FF) (fun t => (t.sys.epoch, t.sys.owner, t.sys.msix, t.store.reqs.map (fun p => (p.2.log, p.2.kind == .batch)))) = some (5, 0xFF, [1], [(320, true)]) ∧
    hostOn (.ownershipSwap (.host 0) 0x00000400000006FF) (fun t => (t.sys.epoch, t.sys.owner)) = some (4, 0) ∧ hostOn (.ownershipSwap (.host 0) 0x00000300000005FF) (fun t => (t.sys.epoch, t.sys.owner)) = some (4, 0) ∧
    hostOn (.ownershipSwap (.host 0) 0x0000040000000502) (fun t => (t.sys.epoch, t.sys.owner)) = some (4, 0) := by decide +kernel
theorem test_window_writers : got (exec (.queueKick (.host 0) 3 7) { stHost (mas false) with sys := { State.reset.sys with owner := 1 } }) (fun t => ((t.cq 3).tail, t.hosts.map (·.2.frozen))) = some (0, [true]) ∧
    got (exec (.queueKick (.host 0) 3 7) (stHost (mas true))) (fun t => ((t.cq 3).tail, t.sys.readBad)) = some (0, true) ∧ hostOn (.queueKick (.host 0) 3 7) (fun t => ((t.cq 3).tail, (t.cq 2).tail)) = some (7, 0) ∧
    got (exec (.queueReset (.host 0) 3) { stHost (mas false) with cqs := [(3, { cq0 with head := 4 })] }) (fun t => ((t.cq 3).head, (t.cq 3).en)) = some (0, true) := by decide +kernel
theorem test_frozen_clear : got (exec (.frozenClear (.host 0) 2) { stHost (mas false) with hosts := [(0, mas false), (1, mas true), (2, mas true)] }) (fun t => t.hosts.map (·.2.frozen)) = some [false, false, true] ∧
    got (exec (.frozenClear .prog 2) { stHost (mas false) with hosts := [(0, mas false), (1, mas true)] }) (fun t => t.hosts.map (·.2.frozen)) = some [false, true] := by decide +kernel
theorem test_host_read : reads (exec (.hostRead 0 0x40000002 4) (stHost (mas false))) = some (0x06050403, false, 0) ∧ reads (exec (.hostRead 0 0x3FFFFFFF 4) (stHost (mas false))) = some (0, true, 1) ∧
    reads (exec (.hostRead 0 0x40020000 4) (stHost (mas false))) = some (0, true, 1) ∧ reads (exec (.hostRead 0 0x40000000 4) (stHost { mas false with mapEn := false })) = some (0, true, 1) := by decide +kernel
theorem test_host_write : hostOn (.hostWrite 0 0x40000002 [0xAA, 0xBB]) (fun t => (t.bufOf 320).map (fun b => (b.1 == lineKey 1 0, b.2.mask, b.2.data))) = some [(true, 12, 0xBBAA0000)] ∧
    reads (exec (.hostWrite 0 0x40020000 [1]) (stHost (mas false))) = some (0, false, 1) ∧ reads (exec (.hostWrite 0 0x3FFFFFFF [1]) (stHost (mas false))) = some (0, true, 1) := by decide +kernel
def masBuf : HostMaster := { mas false with buf := [(lineKey 1 0, bufLn)] }
theorem test_host_reads_own : reads (exec (.hostRead 0 0x40000000 4) (stHost masBuf)) = some (0x99, false, 0) ∧ reads (exec (.hostRead 0 0x40000003 2) (stHost masBuf)) = some (0x0500, false, 0) := by decide +kernel
theorem test_host_window : got (exec (.hostWcbWindowExpire 0 (lineKey 1 0)) (stHost masBuf)) (fun t => ((t.bufOf 320).length, t.store.recs.length)) = some (0, 2) ∧
    got (exec (.hostWcbWindowExpire 0 (lineKey 1 0)) { stHost masBuf with pcc := 63 }) (fun t => (t.bufOf 320).length) = some 1 := by decide +kernel
theorem test_host_release : hostOn (.hostRelease (.host 0) 0) (fun t => t.store.reqs.map (fun p => (p.2.log, p.2.kind == .batch, p.2.ctx))) = some [(320, true, 1)] := by decide +kernel
theorem test_hostmap : hostOn (.hostmapWrite (.host 0) 0 0x0002010000000003) (fun t => (t.hosts.map (·.2.mapCtx), (t.hostMap 0).hosts.map (fun h => (h.2.mapCtx, h.2.mapEn, h.2.mapOfs)))) = some ([1], [(2, true, 3)]) ∧
    got (exec (.hostmapWrite (.host 0) 0 0x0002010000000003) (stHost masBuf)) (fun t => (t.hostMap 0).hosts.map (·.2.mapCtx)) = some [1] := by decide +kernel

def regOn (off : BitVec 16) (v : BitVec 64) : Option (BitVec 64) := got (execRegisterWrite .prog off v (stHost (mas false))) (fun t => t.regRead off.toNat)
theorem test_registers : regOn 0x1000 0xFFFFFFFFFFFFFFFF = some 0xFFFFFFFFFFFFFFC1 ∧ regOn 0x1008 0x00000000FFFF0FFF = some 0x00000000FFFF0F07 ∧ regOn 0x1008 0 = some 0x400 ∧ regOn 0x1010 (-1) = some 0xFFFFFFFF ∧
    regOn 0x1018 (-1) = some 0 ∧ regOn 0x4000 0x80000000 = some 0x8A060000 ∧ regOn 0x4008 (-1) = some 0xFFFFFFFFF000 ∧ regOn 0x4010 0 = some 16 ∧ regOn 0x4010 31 = some 30 ∧ regOn 0x5080 (-1) = some 0xFFF := by decide +kernel
theorem test_more_registers : regOn 0x4040 (-1) = some 0x8000FFFFFFFFFFFF ∧ regOn 0x4078 (-1) = some 0x3FFFF ∧ regOn 0x7100 0 = some 0x0010000000000000 ∧ regOn 0x7100 (-1) = some 0x0028FFFFFFFFFFF1 ∧
    regOn 0x7010 (-1) = some 0x00003FFF3FFF0001 ∧ regOn 0x8008 (-1) = some 0x8000000FFFFFFFFF ∧ regOn 0x0FF8 (-1) = some 0 ∧ regOn 0x7F00 (-1) = some 0 := by decide +kernel
theorem test_register_write : hostOn (.registerWrite (.host 0) 0x5080 0x1234) (fun t => t.sys.hwcwin) = some 0x234 ∧ hostOn (.registerWrite .prog 0 0x00000400000005FF) (fun t => t.sys.epoch) = some 5 ∧
    got (exec (.registerWrite (.host 1) 0x5080 0x1234) (stHost (mas false))) (fun t => t.sys.hwcwin) = some 0x40 := by decide +kernel
theorem test_reads_clear : got (exec (.trclostRead .prog) { stHost (mas false) with trace := { Trace.reset with recs := 9 } }) (fun t => (t.sys.readData, t.trace.recs)) = some (9, 0) ∧
    got (exec (.hostErrcountRead (.host 0)) { stHost (mas false) with sys := { State.reset.sys with lnkHost := 5 } }) (fun t => (t.sys.readData, t.sys.lnkHost)) = some (0x50000, 0) := by decide +kernel

/-! Tracing. PCC is 2^12; SP is 12 and K is 20. -/

def traced (b : FMap (FMap (BitVec 32))) : State := { stCtx { Ctx.empty with hen := true } (ab 0 0) with groups := [(gid3 0, { gMove with ctx := 2 })], dies := [(0, { Die.reset with bins := b })], pcc := 4096 }
def binIs (o : Out) (n : BitVec 32) : Option Bool := got o (fun t => t.dies.map (fun d => d.2.bins) == [[(binKey 2 3 0, [(15, n)])]])
theorem test_hist_sample : binIs (exec (.histSample 0) (traced [])) 1 = some true ∧ binIs (exec (.histSample 0) (traced [(binKey 2 3 0, [(15, 0xFFFFFFFF)])])) 0xFFFFFFFF = some true ∧
    got (exec (.histSample 0) { traced [] with pcc := 4097 }) (fun t => (t.die 0).bins.length) = some 0 ∧ got (exec (.histSample 0) { traced [] with ctxs := [(2, Ctx.empty)] }) (fun t => (t.die 0).bins.length) = some 0 := by decide +kernel
theorem test_k_switch : got (exec .kSwitch { traced [] with trace := { Trace.reset with kNext := some 12 }, pcc := 2 ^ 24 }) (fun t => (t.trace.k, t.trace.kNext)) = some (12, none) ∧
    got (exec .kSwitch { traced [] with trace := { Trace.reset with kNext := some 12 }, pcc := 2 ^ 23 }) (fun t => (t.trace.k, t.trace.kNext)) = some (0x14, some 12) := by decide +kernel
theorem test_timeseries : got (exec .timeseriesTick { traced [] with trace := { Trace.reset with tsen := true, k := 12 } }) (fun t => ((t.die 0).counters, (t.die 31).latchedAt)) = some ([], some 4096) ∧
    got (exec .timeseriesTick { traced [] with trace := { Trace.reset with tsen := true } }) (fun t => ((t.die 0).latchedAt, (t.die 0).counters)) = some (none, []) ∧ ((traced []).countCycle.die 0).counters = [(15, 1)] := by decide +kernel
theorem test_trctail : got (exec (.trctailWrite .prog 9) { traced [] with trace := { Trace.reset with head := 5 } }) (fun t => t.trace.tail) = some 5 ∧
    got (exec (.trctailWrite .prog 4) { traced [] with trace := { Trace.reset with head := 5 } }) (fun t => t.trace.tail) = some 4 := by decide +kernel
def putRec (head tail : BitVec 64) : Option (BitVec 64) :=
  let s : State := { traced [] with trace := { Trace.reset with head := head, tail := tail } }
  (s.sinkPut 0 128 (List.replicate 128 1)).map (fun t => t.trace.head)
theorem test_ring : putRec 0 0 = some 128 ∧ putRec 65472 65472 = some 65664 ∧ putRec 65472 0 = none ∧ putRec 65408 0 = some 65536 ∧ putRec 65409 0 = none := by decide +kernel
theorem test_dump : got (exec (.dump .prog) (traced [(binKey 2 3 0, [(15, 1)])])) (fun t => ((t.die 0).bins, t.trace.head)) = some ([], 128) ∧
    got (exec (.dump .prog) { traced [(binKey 2 3 0, [(15, 1)])] with trace := { Trace.reset with head := 65536 } }) (fun t => ((t.die 0).bins.length, t.trace.head)) = some (1, 65536) := by decide +kernel
def stFlush (hd : BitVec 64) : State := { okOp .flush .running (stPage (grpR [])) with dies := [(0, { Die.reset with bins := [(binKey 1 3 0, [(15, 1)]), (binKey 2 3 0, [(15, 1)])] })], trace := { Trace.reset with head := hd } }
theorem test_flush : got (exec (.traceFlushDone 33) (stFlush 0)) (fun t => ((t.die 0).bins.map (·.1 == binKey 2 3 0), (t.ctx? 1).map (fun c => (c.fut 5).st))) = some ([true], some .ok) ∧
    futOf (exec (.traceFlushDone 33) (stFlush 65536)) 5 = some (some .pending) := by decide +kernel

theorem wit_host_access : (stHost (mas false)).hostPages 1 2 4 false = .ok page0 ∧ (stHost (mas false)).hostPages 1 0x20000 4 false = .bad .nomap ∧ (stHost (mas false)).hostPages 1 2 2 true = .ok page0 ∧
    ((stHost (mas false)).hostLine 0 1 0 (accMask 2 4 0)).isSome = true ∧ (stHost (mas false)).canAccept 320 [lineKey 1 0] [] = true ∧ ((stHost (mas false)).hostStore 320 1 2 [0xAA, 0xBB]).isSome = true ∧
    (mas false).hbase.toNat ≤ (0x40000002#64).toNat ∧ (stHost (mas false)).ctx? (mas false).mapCtx.toNat ≠ none := by decide +kernel
theorem wit_host_full : (stHost masBuf).due (bufLn.first + bufLn.win.setWidth 64) = true ∧ ((stHost masBuf).flushLine 320 (lineKey 1 0)).isSome = true ∧ (stHost { mas false with mapNext := some 5 }).openLines 320 = [] ∧
    (stHost (mas false)).sys.owner.toNat = (0#3).toNat := by decide +kernel
def masFull : State := { stHost { mas false with buf := (List.range 512).map (fun i => (lineKey 1 (0x100 * (i + 1)), bufLn)) } with store := pageStore page0 [] 0, stks := [(logStack 320, { Stack.reset with pool := 0 })] }
theorem wit_host_no_room : masFull.canAccept 320 [lineKey 1 0] [] = false := by decide +kernel
theorem wit_ownership : (0x00000400000005FF#64).extractLsb' 32 32 = (stHost (mas false)).sys.epoch ++ (stHost (mas false)).sys.owner ∧ (stHost (mas false)).hosts.get? 0 = some (mas false) ∧
    (stHost (mas false)).hosts.get? (stHost (mas false)).sys.owner.toNat ≠ none := by decide +kernel
theorem wit_sample : (traced []).now % 2 ^ (traced []).trace.sp.toNat = 0 ∧ ((traced []).die 0).sampledAt ≠ some (traced []).pcc ∧ (traced []).dieGroups 0 = [(1, gid3 0, { gMove with ctx := 2 })] ∧
    ({ traced [] with trace := { Trace.reset with tsen := true, k := 12 } } : State).now % 2 ^ 12 = 0 := by decide +kernel
theorem wit_flush : pendingOp (stFlush 0) 33 (aopOf .flush .running) { Ctx.empty with priv := true, futs := [(5, fut5 .pending)] } :=
  ⟨by decide +kernel, by decide +kernel, by decide +kernel, by decide +kernel, by decide +kernel⟩

/-! Checkpoints. A request's block at address 0: WRITE of slot 5 to a group of two, STEP 7, GROUP 0x40. -/

def ckBytes (op g : Nat) : List Byte := le 8 (op + 5 * 2 ^ 8 + g * 2 ^ 16) ++ le 8 7 ++ le 8 0x40 ++ le 8 0
def ckB (op g : Nat) : CkBlk := ckBlkOf (ckBytes op g ++ List.replicate 32 0)
def stCkreq (c : Ckpt) : State := { stDesc (ckBytes 1 2) with ckpt := c }
def ckOf (o : Out) : Option (List Nat × Bool) := got o (fun t => (t.ckpt.waiting, t.ckpt.refused))
theorem test_ckreq : ckOf (exec (.ckreq .prog 1) (stCkreq Ckpt.reset)) = some ([10], false) ∧
    got (exec (.ckreq .prog 1) (stCkreq Ckpt.reset)) (fun t => (t.aops.map (fun p => p.2.kind == .ckpt 0 (ckB 1 2) && p.2.stage == .prePub 11), (t.ctx? 1).map (fun c => (c.fut 0).st), t.store.reqs.length)) = some ([true], some .pending, 1) := by decide +kernel
theorem test_ckreq_refused : ckOf (exec (.ckreq .prog 9) (stCkreq Ckpt.reset)) = some ([], true) ∧ ckOf (exec (.ckreq .prog 1) (stCkreq { Ckpt.reset with accepting := some (1, 0) })) = some ([], true) ∧
    got (exec (.ckreq .prog 1) (stCkreq { Ckpt.reset with waiting := List.range 64 })) (fun t => (t.ckpt.waiting.length, t.ckpt.refused)) = some (64, true) ∧
    ckOf (exec (.ckreq .prog (1 + 0x800 * 2 ^ 16)) (stCkreq Ckpt.reset)) = some ([], true) := by decide +kernel
theorem test_ck_block : (ckB 1 2).op = 1 ∧ (ckB 1 2).slot = 5 ∧ (ckB 1 2).g = 2 ∧ (ckB 1 2).step = 7 ∧ (ckB 1 2).group = 0x40 ∧ (ckB 1 2).bad = false ∧ (ckBlkOf (le 8 (1 + 2 ^ 14) ++ List.replicate 56 0)).bad = true ∧
    (ckBlkOf (le 24 1 ++ le 8 5 ++ List.replicate 32 0)).bad = true ∧ (ckBlkOf (le 24 2 ++ le 8 5 ++ List.replicate 32 0)).bad = false := by decide +kernel
theorem test_refused_clear : ckOf (exec (.refusedClear .prog) (stCkreq { Ckpt.reset with refused := true })) = some ([], false) := by decide +kernel
def shardMsg : QfMsg := { msg0 (.shard 9 0 (List.replicate 256 0x11 ++ [0x22])) with peer := 3, cls := 2 }
def stShard (used : List Nat) (left : Nat) : State := { stPage (grpR []) with inbox := [(4, shardMsg)], ckpt := { Ckpt.reset with units := 2, used := used, resv := [(3 * 2 ^ 64 + 9, left)] } }
theorem test_shard_receive : got (exec (.shardReceive 4) (stShard [0] 1)) (fun t => (t.ckpt.used, t.mems.ckstore.read 256, t.mems.ckstore.read (2 ^ 27), t.outbox.map (fun p => p.2.body == .shardAck 9 0 1))) = some ([0, 1], 0x11, 0x22, [true]) ∧
    got (exec (.shardReceive 4) (stShard [0] 0)) (fun t => (t.ckpt.used, t.outbox.map (fun p => p.2.body == .ckAnswer 9 false 0))) = some ([0], [true]) ∧
    got (exec (.shardReceive 4) (stShard [0, 1] 1)) (fun t => (t.ckpt.used.length, t.inbox.length)) = some (2, 0) := by decide +kernel

def ckAop (b : CkBlk) (st : AStage) (bufs : List (Nat × List Byte)) (k : Nat) : AOp := { aopOf (.ckpt 0 b) st with bufs := bufs, chunk := k }
/-- Operation 33 of context 1; request 9 is complete. -/
def stCk (o : AOp) (act wt : List Nat) : State :=
  { stPage (grpR []) with
    store := { pageStore page0 [0, 256, 259] 0 with reqs := [(9, reqDone)] }, groups := [], aops := [(33, o)], ckpt := { Ckpt.reset with active := act, waiting := wt }
    ctxs := [(1, { Ctx.empty with priv := true, quiet := .quiesced, futs := [(5, fut5 .pending)], snaps := [(5, snapX .held)] })] }
def mine2 : List (Nat × List Byte) := [(ckGroupKey, le 8 0x8000 ++ le 8 0x8000)]
theorem test_ck_start : futOf (exec (.ckOpStart 33) (stCk (ckAop (ckB 1 1) (.prePub 9) [] 0) [] [33])) 5 = some (some (.failed .illop)) ∧ futOf (exec (.ckOpStart 33) (stCk (ckAop (ckB 1 65) (.prePub 9) [] 0) [] [33])) 5 = some (some (.failed .illop)) ∧
    futOf (exec (.ckOpStart 33) (stCk (ckAop { ckB 1 2 with group := 2 ^ 20 } (.prePub 9) [] 0) [] [33])) 5 = some (some (.failed .nomap)) ∧ futOf (exec (.ckOpStart 33) (stCk (ckAop { ckB 1 2 with group := 0 } (.prePub 9) [] 0) [] [33])) 5 = some (some (.failed .illop)) := by decide +kernel
theorem test_ck_turn : futOf (exec (.ckOpStart 33) (stCk (ckAop (ckB 1 1) (.prePub 9) [] 0) [1, 2, 3, 4] [33])) 5 = some (some .pending) ∧ futOf (exec (.ckOpStart 33) (stCk (ckAop (ckB 1 1) (.prePub 9) [] 0) [] [8, 33])) 5 = some (some .pending) ∧
    futOf (exec (.ckOpStart 33) { stCk (ckAop (ckB 1 1) (.prePub 9) [] 0) [] [33] with store := { Store.reset with reqs := [(9, { reqDone with st := .waiting })] } }) 5 = some (some .pending) := by decide +kernel
theorem test_manifest_waits : got (exec (.manifestWrite 33) (stCk (ckAop (ckB 1 2) .running mine2 2) [33] [])) (fun t => t.aops.map (fun p => p.2.stage == .running)) = some [true] := by decide +kernel
theorem test_ck_commit : got (exec (.ckCommit 33) (stCk (ckAop (ckB 1 2) .holding (mine2 ++ [(ckShardKey (ckManIdx 1), [0, 0])]) 2) [33] [])) (fun t => (t.aops.map (fun p => p.2.stage == .flagging 10), t.store.reqs.length)) = some ([true], 2) ∧
    got (exec (.ckCommit 33) (stCk (ckAop (ckB 1 2) .holding mine2 2) [33] [])) (fun t => t.aops.map (fun p => p.2.stage == .holding)) = some [true] ∧
    futOf (exec (.ckCommit 33) (stCk (ckAop (ckB 1 2) (.flagging 9) (mine2 ++ [(ckShardKey (ckManIdx 1), [0, 0])]) 2) [33] [])) 5 = some (some .pending) ∧ futOf (exec (.ckCommit 33) (stCk (ckAop (ckB 1 2) (.flagging 9) [] 2) [33] [])) 5 = some (some .ok) := by decide +kernel
theorem test_ck_restore : futOf (exec (.ckRestore 33) (stCk (ckAop (ckB 2 2) .running mine2 0) [33] [])) 5 = some (some .pending) ∧ futOf (exec (.ckRestore 33) (stCk (ckAop (ckB 2 2) .running [] 0) [33] [])) 5 = some (some (.failed .access)) ∧
    futOf (exec (.ckRestore 33) (stCk (ckAop { ckB 2 2 with key := 2 ^ 20 } .running [] 0) [33] [])) 5 = some (some (.failed .nomap)) ∧ futOf (exec (.ckRestore 33) (stCk (ckAop (ckB 2 2) (.flagging 9) [] 1) [33] [])) 5 = some (some .ok) := by decide +kernel
theorem test_ck_switch : got (exec (.ckRestore 33) (stCk (ckAop (ckB 2 2) .running [] 1) [33] [])) (fun t => (t.aops.map (fun p => p.2.stage == .flagging 0), t.store.pages.length)) = some ([true], 0) ∧
    futOf (exec (.ckRestore 33) { stCk (ckAop (ckB 2 2) .running [] 1) [33] [] with ctxs := [(1, { Ctx.empty with priv := true, futs := [(5, fut5 .pending)] })] }) 5 = some (some (.failed .access)) := by decide +kernel

/-- A group of this module and another one. -/
def otherMod : Nat := if Config.moduleIndex = 0 then 1 else 0
theorem otherMod_lt (h : 1 < Config.partitionSize) : otherMod < Config.partitionSize := by unfold otherMod; split <;> omega
theorem wit_ck_legal (h : 1 < Config.partitionSize) : (ckB 1 2).bad = false ∧ (∀ e ∈ [0x8000, otherMod], e / 2 ^ 16 = 0 ∧ e / 2 ^ 12 % 8 = 0 ∧ (if e / 2 ^ 15 % 2 = 1 then e % 2 ^ 12 = 0 else e % 2 ^ 12 < Config.partitionSize)) ∧
    Config.moduleIndex.toNat ≠ otherMod % 2 ^ 12 := by
  have hz : Config.moduleIndex = 0 ↔ Config.moduleIndex.toNat = 0 := ⟨fun e => by rw [e]; rfl, fun e => BitVec.eq_of_toNat_eq (by simpa using e)⟩
  refine ⟨by decide +kernel, ?_, by unfold otherMod; split <;> simp_all⟩
  intro e he
  rcases List.mem_cons.1 he with rfl | he
  · decide
  · obtain rfl := List.mem_singleton.1 he
    have := otherMod_lt h
    refine ⟨?_, ?_, ?_⟩ <;> (unfold otherMod at *; split at this <;> simp_all)
theorem wit_ck_request : (stCkreq Ckpt.reset).cpRead 1 0 64 = .ok (ckBytes 1 2 ++ List.replicate 32 0) ∧ (stCkreq Ckpt.reset).cpRead 1 0x20000 64 = .bad .nomap ∧ (Ctx.empty.fut Ctx.empty.nextTag).st ≠ .pending := by decide +kernel
theorem wit_unit : (List.range (stShard [0] 1).ckpt.units.toNat).find? (fun u => !decide (u ∈ (stShard [0] 1).ckpt.used)) = some 1 ∧ (List.range (stShard [0, 1] 1).ckpt.units.toNat).find? (fun u => !decide (u ∈ (stShard [0, 1] 1).ckpt.used)) = none := by decide +kernel
theorem wit_ck_pending : pendingOp (stCk (ckAop (ckB 1 2) (.prePub 9) [] 0) [] [33]) 33 (ckAop (ckB 1 2) (.prePub 9) [] 0) { Ctx.empty with priv := true, quiet := .quiesced, futs := [(5, fut5 .pending)], snaps := [(5, snapX .held)] } :=
  ⟨by decide +kernel, by decide +kernel, by decide +kernel, by decide +kernel, by decide +kernel⟩
theorem wit_ck_write : (shardPlaces ((stCk (ckAop (ckB 1 2) .running [] 0) [33] []).streamFor (ckAop (ckB 1 2) .running [] 0) (ckB 1 2)).length 2).length = 2 ∧
    (ckAop (ckB 1 2) .running (mine2 ++ [(ckAnsKey 0, []), (ckAnsKey 1, []), (ckShardKey 0, []), (ckShardKey 1, [])]) 2).allAnswered = true ∧
    (ckAop (ckB 1 2) .running (mine2 ++ [(ckAnsKey 0, []), (ckAnsKey 1, []), (ckShardKey 0, []), (ckShardKey 1, [])]) 2).shardsIn 2 = true ∧ (stCk (ckAop (ckB 1 2) .running [] 0) [33] []).ckQuiet 1 5 = true ∧
    (stCk (ckAop (ckB 1 2) .running [] 0) [33] []).cpPage 1 0x20 false = none := by decide +kernel
/-- Two copies of another module's entry. -/
def peers2 : AOp := ckAop (ckB 1 2) .running [(ckGroupKey, le 8 otherMod ++ le 8 otherMod)] 2
theorem wit_ck_peers (h : 1 < Config.partitionSize) : Config.moduleIndex ∉ peers2.members ∧ peers2.members.length = 2 := by
  by_cases hz : Config.moduleIndex = 0
  · have hg : groupEntries (le 8 1 ++ le 8 1) 2 = [1, 1] := by decide +kernel
    have e1 : ∀ m, entryModule m 1 = some 1 := fun m => by simp [entryModule, h]
    have hp : peers2.members = [1, 1] := by
      show (groupEntries (le 8 otherMod ++ le 8 otherMod) 2).map (fun e => (entryModule Config.moduleIndex e).getD 0) = _
      rw [show otherMod = 1 from if_pos hz, hg]; simp [e1]
    rw [hp, hz]; decide
  · have hz' : ¬ Config.moduleIndex = 0#12 := hz
    have hg : groupEntries (le 8 0 ++ le 8 0) 2 = [0, 0] := by decide +kernel
    have e0 : ∀ m, entryModule m 0 = some 0 := fun m => by simp [entryModule, show 0 < Config.partitionSize by omega]
    have hp : peers2.members = [0, 0] := by
      show (groupEntries (le 8 otherMod ++ le 8 otherMod) 2).map (fun e => (entryModule Config.moduleIndex e).getD 0) = _
      rw [show otherMod = 0 from if_neg hz, hg]; simp [e0]
    rw [hp]; simp [hz']

/-! Links and peers. Link 3, whose alternate is link 4, and link 4 are up. -/

def up3 : Link := { linkReset 3 with up := true, alt := 4 }
def onLink (b : QfBody) : QfMsg := { msg0 b with link := some 3 }
def stLink (ms : FMap QfMsg) : State := { stPage (grpR []) with links := [(3, up3), (4, { linkReset 4 with up := true })], outbox := ms, pcc := 900000 }
theorem test_replay : got (exec (.flitReplay 3) (stLink [])) (fun t => ((t.link 3).retry, (t.link 3).up, (t.link 4).retry)) = some (1, true, 0) := by decide +kernel
theorem test_link_down : got (exec (.linkDown 3) (stLink [(7, onLink .heartbeat), (8, { onLink .heartbeat with link := some 4 })])) (fun t => ((t.link 3).up, t.outbox.map (fun p => (p.2.link, p.2.since)))) = some (false, [(some 4, 900000), (some 4, 0)]) ∧
    got (exec (.linkDown 4) (stLink [(8, { onLink .heartbeat with link := some 4 })])) (fun t => t.outbox.map (fun p => p.2.link)) = some [none] := by decide +kernel
theorem test_link_train : got (exec (.linkTrain 5 9) (stLink [])) (fun t => ((t.link 5).up, (t.link 5).padv)) = some (true, 9) ∧ got (exec (.linkTrain 3 9) (stLink [])) (fun t => (t.link 3).padv) = some 0 ∧
    got (exec (.linkTrain 5 9) { stLink [] with links := [(5, { linkReset 5 with en := false })] }) (fun t => (t.link 5).up) = some false ∧
    got (exec (.linkTrain 5 9) { stLink [] with links := [(5, { linkReset 5 with nextAdv := some 2 })] }) (fun t => ((t.link 5).adv, (t.link 5).nextAdv)) = some (2, none) := by decide +kernel
theorem test_retrain : got (exec (.retrain .prog 3) (stLink [])) (fun t => ((t.link 3).up, (t.link 4).up)) = some (false, true) := by decide +kernel
theorem test_heartbeat : got (exec .heartbeat (stLink [])) (fun t => (t.sys.beatAt, t.outbox.map (fun p => p.2.link))) = some (900000, [some 3, some 4]) ∧
    got (exec .heartbeat { stLink [] with pcc := 799999 }) (fun t => t.outbox.length) = some 0 ∧ got (exec .heartbeat { stLink [] with pcc := 800000 }) (fun t => t.outbox.length) = some 2 := by decide +kernel
theorem test_peer_failure : got (exec (.peerFailure 2) { stLink [] with heard := [(2, 100)], pcc := 160000100 }) (fun t => t.lost) = some [2] ∧
    got (exec (.peerFailure 2) { stLink [] with heard := [(2, 100)], pcc := 160000099 }) (fun t => t.lost) = some [] := by decide +kernel
def loadMsg : QfMsg := msg0 (.load 1 64 1 0 4)
def stNoRoute (t : BitVec 64) : State := { stLink [(7, loadMsg)] with pcc := t, ops := [(1, op0 (.ld false) .gl 4 [part0 64 0 0])] }
theorem test_no_route : got (exec (.noRoute 7) (stNoRoute 799999)) (fun t => t.outbox.length) = some 1 ∧
    got (exec (.noRoute 7) (stNoRoute 800000)) (fun t => (t.outbox.length, t.ops.length, (t.grp gid0).map (fun g => g.deferred.map (·.cause)))) = some (0, 0, some [.hwerr]) := by decide +kernel
theorem test_commit_waits : got (exec (.noRoute 7) { stLink [(7, msg0 (.commit 1 0 1 0 0 1))] with pcc := 9000000 }) (fun t => t.outbox.length) = some 1 := by decide +kernel
def stFwd (e : IxEntry) : State := { stLink [] with inbox := [(5, msg0 (.load 8 2 1 2 4))], store := { pageStore page0 [259] 0 with leaves := [(leafKey 1 0, { ents := [(0, e)], dirty := false })] } }
theorem test_forwarded : got (exec (.forwardedAccess 5) (stFwd entry0)) (fun t => (t.inbox.length, t.outbox.map (fun p => p.2.body == .reply 8 2 0x06050403))) = some (0, [true]) ∧
    got (exec (.forwardedAccess 5) (stFwd { entry0 with prep := true })) (fun t => (t.inbox.length, t.outbox.length)) = some (1, 0) ∧
    got (exec (.forwardedAccess 5) { stFwd entry0 with store := pageStore { page0 with remote := true, owner := 6 } [259] 0 }) (fun t => t.outbox.map (fun p => p.2.peer == 6 && p.2.body == .load 5 fwdLane 1 2 4)) = some [true] := by decide +kernel
theorem test_deliver : (((stLink []).deliver (onLink .heartbeat)).heard, ((stLink []).deliver (msg0 (.load 8 2 1 2 4))).inbox.length) = ([(2, 900000)], 1) ∧ got (exec (.qfMessageReceive 5 0) (stLink [])) (fun t => t.free) = some 0 := by decide +kernel

/-! Power, reset, boot, errors. -/

def stChan (c : Chan) (t : BitVec 64) : State := { State.reset with chans := [(70, c)], pcc := t }
def chanOf (i : Instr) (c : Chan) (t : BitVec 64) : Option ChSt := got (exec i (stChan c t)) (fun u => (u.chan 70).st)
theorem test_channel_entry : chanOf (.powerDownEntry 70) Chan.reset 256 = some .powerDown ∧ chanOf (.powerDownEntry 70) Chan.reset 255 = some .active ∧
    chanOf (.selfRefreshEntry 70) { Chan.reset with st := .powerDown } 65536 = some .selfRefresh ∧ chanOf (.selfRefreshEntry 70) { Chan.reset with st := .powerDown } 65535 = some .powerDown ∧
    chanOf (.selfRefreshEntry 70) Chan.reset 65536 = some .active := by decide +kernel
theorem test_channel_wake : chanOf (.channelWake 70) { Chan.reset with st := .selfRefresh, wakeAt := some 9 } 9 = some .active ∧ chanOf (.channelWake 70) { Chan.reset with st := .selfRefresh, wakeAt := some 9 } 8 = some .selfRefresh := by decide +kernel
theorem test_busy_channel : got (exec (.powerDownEntry 70) { stChan Chan.reset 256 with stks := [(1, { Stack.reset with live := [6] })] }) (fun u => (u.chan 70).st) = some .active ∧
    got (exec (.powerDownEntry 70) { stChan Chan.reset 256 with stks := [(1, { Stack.reset with pdIdle := 0 })] }) (fun u => (u.chan 70).st) = some .active := by decide +kernel
theorem test_forcesr : got (exec (.forcesr .prog 1 0x20301) (stChan Chan.reset 0)) (fun u => ((u.chan 70).st, (u.chan 127).st, (u.chan 128).st, (u.stack 1).pdIdle)) = some (.selfRefresh, .selfRefresh, .active, 0x203) ∧
    got (exec (.forcesr .prog 1 1) { stChan Chan.reset 0 with stks := [(1, { Stack.reset with live := [6] })] }) (fun u => ((u.chan 70).st, (u.chan 70).forced)) = some (.active, true) := by decide +kernel
def stGate (d : Die) : State := { State.reset with dies := [(0, d)], pcc := 10, mems := { Mems.reset with cm := [(131071, 1), (131072, 2), (262144, 3)] } }
theorem test_gatectl : got (exec (.gatectlWrite .prog 0 0x10001) (stGate Die.reset)) (fun t => (t.die 0).sph == 1 && (t.die 0).ways == 0 && t.mems.cm == [(131071, 1), (262144, 3)] && (t.die 0).gateWakeAt.isNone) = some true ∧
    got (exec (.gatectlWrite .prog 0 0) (stGate { Die.reset with sph := 1 })) (fun t => ((t.die 0).sph, (t.die 0).gateWakeAt)) = some (0, some 74) ∧
    got (exec (.gatectlWrite .prog 0 0x10000) { (stGate Die.reset).fetchHome with pcc := 9 }) (fun t => ((t.die 0).sph, t.sys.gateErr)) = some (0, true) := by decide +kernel
theorem test_gate_wake : got (exec (.gateWake 0) (stGate { Die.reset with gateWakeAt := some 10 })) (fun t => (t.die 0).gateWakeAt) = some none ∧ got (exec (.gateWake 0) (stGate { Die.reset with gateWakeAt := some 11 })) (fun t => (t.die 0).gateWakeAt) = some (some 11) := by decide +kernel
theorem test_gate_error_clear : got (exec (.gateErrorClear .prog) { State.reset with sys := { State.reset.sys with gateErr := true } }) (fun t => t.sys.gateErr) = some false := by decide +kernel
theorem test_cold_reset : got (exec .coldReset (stLink [])) (fun t => (t.pcc, t.groups.length, t.store.recs.length, t.sys.owner)) = some (0, 0, 0, 0xFF) := by decide +kernel
theorem test_warm_reset : got (exec (.warmReset (.host 0)) { stHost (mas false) with mems := { Mems.reset with ckstore := [(9, 1)], cm := [(9, 1)] } }) (fun t => t.pcc == 20000 && t.mems.ckstore == [(9, 1)] && t.mems.cm == [] && t.groups.length == 0 && t.sys.owner == 0xFF) = some true ∧
    got (exec (.warmReset .prog) (stHost (mas false))) (fun t => t.groups.length) = some 1 := by decide +kernel
theorem test_boot_state : got (exec (.boot [] 0 0) { State.reset with sys := { State.reset.sys with bootSt := 2, fwver := 7 } }) (fun t => t.sys.fwver) = some 7 ∧ got (exec (.newImage [] 0 0) State.reset) (fun t => (t.sys.bootSt, t.sys.fwver)) = some (0, 0) := by decide +kernel
theorem test_attreq : got (exec (.attreq .prog 0x40) State.reset) (fun t => (t.mems.host.length, (t.mems.host.get? 63).isSome, (t.mems.host.get? 64).isSome, (t.mems.host.get? 327).isSome, (t.mems.host.get? 328).isSome)) = some (264, false, true, true, false) := by decide +kernel
theorem test_soft_error : got (exec (.softError true 0 0) State.reset) (fun t => (t.sys.corr, t.sys.uncorr, t.sys.msix)) = some (1, 0, []) ∧ got (exec (.softError false 0 0) State.reset) (fun t => (t.sys.corr, t.sys.uncorr, t.sys.msix)) = some (0, 0, []) ∧
    got (exec (.softError false 0 gid0) (stLink [])) (fun t => (t.sys.uncorr, t.sys.msix, (t.grp gid0).map (fun g => g.deferred.map (·.cause)))) = some (1, [3], some [.hwerr]) ∧
    futOf (exec (.softError false 1 33) (stCopy (copyX 0 .cm) .running 0)) 5 = some (some (.failed .hwerr)) := by decide +kernel

theorem wit_route : loadMsg.link = none ∧ (stNoRoute 800000).routeOf loadMsg.peer 7 = none ∧ (stNoRoute 800000).ops.get? 1 = some (op0 (.ld false) .gl 4 [part0 64 0 0]) ∧ (stNoRoute 800000).grp gid0 = some (grpR []) := by decide +kernel
theorem wit_route_appears : ({ stNoRoute 0 with routes := [(2, 2 ^ 63 + 2 ^ 3)] } : State).routeOf 2 7 = some 3 := by
  have h : ({ stNoRoute 0 with routes := [(2, 2 ^ 63 + 2 ^ 3)] } : State).routeLinks 2 = [3] := by decide +kernel
  unfold State.routeOf; rw [h]; simp [Nat.mod_one]
theorem wit_forwarded : (stFwd entry0).isRemote (lineKey 1 2) = false ∧ ((stFwd entry0).homeEntry (lineKey 1 2)).prep = false ∧ (stFwd entry0).inbox.get? 5 = some (msg0 (.load 8 2 1 2 4)) := by decide +kernel
theorem wit_chan : (stChan Chan.reset 256).chanBusy 70 = false ∧ ((stChan Chan.reset 256).chan 70).idleFrom.toNat + ((stChan Chan.reset 256).stack 1).pdIdle.toNat ≤ (stChan Chan.reset 256).now := by decide +kernel
theorem wit_gate : (∃ b ∈ State.reset.fetchHome.blocks, clusterDie b.2.cluster = 0 ∧ (1#8).getLsbD (b.2.cluster % 8) = true ∧ ∃ l, State.reset.fetchHome.launchOf b.2.launch = some l ∧
    ∃ t < 24, rangesMeet l.cmbase l.cm (t * crBytes + 131072) 131072 = true) :=
  ⟨_, List.mem_cons_self .., by decide +kernel, by decide +kernel, fetchLaunch, by decide +kernel, 0, by decide, by decide +kernel⟩
theorem wit_gate_waits : ({ stGate Die.reset with store := { Store.reset with preps := [(lineKey 1 0, prep0)], pages := [(pageKey 1 0, page0)] } } : State).syncDie 0 = none := by decide +kernel
theorem wit_soft_error : State.reset.consume 0 0 = none ∧ (grpR []).deferred = [] := by decide +kernel

/-! The encodings and the step. -/

theorem test_step_group : got (step (State.reset.withFetchWord 96 0x10DC00050040280000000003)) (fun t => (t.grp gid0).map (fun g => (g.run.map (·.idx), g.issuedAt))) = some (some (some 1, some 0)) := by decide +kernel
theorem test_step_sequencer : got (step (State.reset.withFetchWord 96 0xA01C00020080400000000000)) (fun t => (t.seqOf 0).spc) = some 12 := by decide +kernel
theorem test_step_slot : got (step (State.reset.withFetchWord 64 0x1C00000000000002)) (fun t => (t.slot 0).upc) = some 1 := by decide +kernel
theorem test_step_queue : got (step (State.reset.withFetchWord 512 (0x1122 * 2 ^ 128 + 5 * 2 ^ 64 + 3))) (fun t => ((t.cq 0).sigs.map (·.val), (t.cq 0).cur)) = some ([5], none) := by decide +kernel
theorem test_step_event : got (step { State.reset with agenda := [.event .heartbeat], pcc := 800000 }) (fun t => (t.sys.beatAt, t.agenda)) = some (800000, []) := by decide +kernel
theorem test_step_clock : got (step { State.reset with agenda := [.clock, .clock] }) (fun t => (t.pcc, t.agenda)) = some (1, [.clock]) := by decide +kernel
theorem test_step_bad_word : (got (step (State.reset.withFetchWord 96 0x60DC04000000000000000000)) (fun t => (t.grp gid0).map trapCause)).join = some (some .illop) ∧
    got (step (State.reset.withFetchWord 64 (-1 : BitVec 64).toNat)) (fun t => (t.slot 0).st) = some .idle ∧ got (step (State.reset.withFetchWord 512 0xFF)) (fun t => ((t.cq 0).st, (t.cq 0).cause)) = some (2, 1) := by decide +kernel
theorem test_false_guard : onGrp (.iadd { vecW .b32 with hdr := { Hdr.plain with k := 1 } }) (vecRegs 1 2 3 4 0) 3 (fun g => (g.regs.vreg 8 0, g.run.map (·.idx))) = some (0, some 1) ∧
    onGrp (.iadd { vecW .b32 with hdr := { Hdr.plain with k := 1, neg := true } }) (vecRegs 1 2 3 4 0) 3 (fun g => (g.regs.vreg 8 0, g.run.map (·.idx))) = some (4, some 1) := by decide +kernel
theorem test_privileged : (got (exec (.resume (wC Opnd.none (.g 1) Opnd.none)) (st0 { grp0 (ab 2 0) 3 with priv := false })) (fun t => (t.grp gid0).map trapCause)).join = some (some .priv) := by decide +kernel
theorem test_bad_fields : onGrp (.iadd { vecW .b32 with fn := 1 }) (vecRegs 1 2 3 4 0) 3 trapCause = some (some .illop) := by decide +kernel

theorem wit_encodings : (Instr.iadd (vecW .b32)).wf = true ∧ encode (.iadd (vecW .b32)) ≠ [] ∧ (Instr.piccoloSld 0 0 .gl 2).wf = true ∧ encodeUop (.piccoloSld 0 0 .gl 2) = some 0x0C04000000000000 ∧
    (Instr.signal 5 0x1122).wf = true ∧ encodePacket 7 (.signal 5 0x1122) = some (BitVec.ofNat 512 (7 * 2 ^ 480 + 0x1122 * 2 ^ 128 + 5 * 2 ^ 64 + 3)) := by decide +kernel
theorem wit_rejected : decodeWords false [0xFFDC00000000000000000000] = .error .extension ∧ decodeWords false [0xFF9C00000000000000000000] = .error .opcode ∧ decodeWords false [0xA01C00020080400000000000] = .error .stream ∧
    decodeWords false [0x301C010441506060200FFC00] = .error .incomplete ∧ decodeWords false [0x60DC04000000000000000000] = .error .header ∧ decodeWords false [0x401C000640A03ACC00000040] = .error .field ∧
    decodeWords false [0x10DC000500402F0000000003] = .error .field := by decide +kernel
theorem wit_step_words : (State.reset.withFetchWord 96 0x10DC00050040280000000003).agenda = [.group gid0] ∧ ((State.reset.withFetchWord 96 0x10DC00050040280000000003).grp gid0).isSome = true ∧
    ((State.reset.withFetchWord 96 0xA01C00020080400000000000).seqLive 0) = true ∧ ((State.reset.withFetchWord 64 0x1C00000000000002).slot 0).begun = true ∧ isEvent .heartbeat = true := by decide +kernel
theorem wit_word_fates : privBody (bodyOf (.resume (wC Opnd.none (.g 1) Opnd.none))) = true ∧ (bodyOf (.iadd (vecW .b32))).good = true ∧ (bodyOf (.iadd { vecW .b32 with fn := 1 })).good = false ∧
    guardTrue { Hdr.plain with k := 1 } (grp0 Regs.reset 3) = false := by decide +kernel
theorem wit_memory_form : (stLand (.arm 0x40 true none) .queued (blkN 0 4 1 1 2 0 0x100 0x200 0)).mems.wf = true ∧ got (exec (.st (memW .cm .word)) (st0 grpM)) (fun t => t.mems.wf) = some true := by decide +kernel

/-! Witnesses for the completion statements, clause by clause. -/

theorem wit_complete_words : bodyOf (.fadd (vecC .f32)) = .alu 0x40 (vecC .f32) ∧ (Body.mem 0x102 { memW .cm .half with d := .v 2 }).good = true ∧ (bodyOf (.pref (mem0 .gl .byte Opnd.none (.v 2) 0))).good = true ∧
    (bodyOf (.fence { mem0 .ln .byte Opnd.none Opnd.none 0 with order := .acq, scope := .cl, b := Opnd.none })).good = true ∧ (bodyOf (.invr { mem0 .gl .byte Opnd.none (.g 2) 0 with b := .g 3 })).good = true ∧
    (stLoop (job0 false 0)).loopCheck 1 0 (loopW .add .b32 (lvl 0 0 0 0)) (loopG 0x40 0x80 0xC0) = none := ⟨rfl, by decide +kernel, by decide +kernel, by decide +kernel, by decide +kernel, by decide +kernel⟩
theorem dedup_le (ks : List Nat) : ks.dedup.length ≤ ks.length := (List.dedup_sublist ks).length_le
/-- The room that a `.gl` word needs: the batch is empty and the log has an open segment. -/
theorem wit_complete_room : (∀ ks : List Nat, ks.length ≤ 64 → (stGl grpM).canAccept 0 ks ((stGl grpM).pendingLines 0) = true) ∧
    (∀ ks : List Nat, ks.length ≤ 64 → (stGl grpM).batchRoom 0 ks ((stGl grpM).pendingLines 0) = true) ∧ ∀ n ≤ 576, ((stGl grpM).promise 0 n).isSome = true := by
  have hp : (stGl grpM).pendingLines 0 = [] := by decide +kernel
  have ho : (stGl grpM).openLines 0 = [] := by decide +kernel
  have hb : (stGl grpM).bufOf 0 = [] := by decide +kernel
  have hroom : ∀ ks : List Nat, ks.length ≤ 64 → (stGl grpM).batchRoom 0 ks ((stGl grpM).pendingLines 0) = true := by
    intro ks h
    have h2 := ((ks ++ ([] : List Nat)).dedup.filter_sublist (p := fun k => !decide (k ∈ ([] : List Nat)))).length_le
    have h1 := dedup_le (ks ++ [])
    simp only [State.batchRoom, hp, ho, batchLimit, decide_eq_true_eq, List.length_append, List.length_nil] at *
    omega
  refine ⟨?_, hroom, ?_⟩
  · intro ks h
    have h2 := ((ks ++ ([] : List Nat)).dedup.filter_sublist (p := fun k => !(FMap.get? ([] : FMap BufLine) k).isSome)).length_le
    have h1 := dedup_le (ks ++ [])
    have h3 := hroom ks h
    rw [State.canAccept, h3, hb, hp, Bool.true_and, Bool.or_eq_true]
    refine Or.inl (decide_eq_true ?_)
    simp only [bufLimit, List.length_append, List.length_nil] at *
    omega
  · decide +kernel
theorem wit_complete_send : immC 0x109 = some (.g 9) ∧ sendOk .cm (readGr (grp0 memRegs 1).regs (.g 9)) = true ∧ ((4 : Int) ∣ addressOf (grp0 memRegs 1) .cm (.v 1) 0 0) ∧
    addressOf (grp0 memRegs 1) .cm (.v 1) 0 0 + 4 ≤ spaceSize .cm := by decide +kernel
theorem wit_complete_control : (grp0 Regs.reset 3).priv = true ∧ (stCode { grp0 Regs.reset 3 with handler := true }).landCheck 0 1 0 0 = some 0 ∧ (1 ≤ (readG (regsOf [] [(5, 2)]) .b64 (.g 5)).toNat ∧ (readG (regsOf [] [(5, 2)]) .b64 (.g 5)).toNat ≤ 2 ^ 24) ∧
    (readG (regsOf [] [(1, 0x100000000)]) .b64 (.g 1)).getLsbD 40 = false ∧ ((regsOf [] [(1, 0x10000000000)]).greg 1).getLsbD 40 = true ∧ Ctx.empty.live? (Regs.reset.freg 1) = none ∧
    (stMail [place 5 true]).takeable 0 (place 5 true) = true ∧ (grp0 Regs.reset 3).run2 = none ∧ (run0 3).arrive = [] := by decide +kernel
theorem wit_complete_locks : (stPage (grpR [])).blocks.get? (grpR []).blockKey = some fetchBlock ∧ fetchBlock.locks = [] ∧ (0x40 % 16 = 0 ∧ (stPage (grpR [])).padOk 1 0 .cm 0x40 16 = true) ∧ (stPage (grpR [])).ctx? 1 ≠ none ∧
    (stSnap .held (grpR [])).ckHolds 1 5 = false ∧ ((stSnap .held (grpR [])).snap 1 5).st = .held := by decide +kernel
theorem wit_complete_copies : (stPage (grpR [])).copySpaceBad 1 0 (copyOf 0x240 (wX 0) (desc 0x100 0x200 4 2)) = none ∧ copyIll (copyOf 0x242 (wX 0x28) (desc 0x100 0x200 32 2)) 0x2000000002 = false ∧
    copyIll (copyOf 0x244 (wX 0) (desc 0x100 0x200 32 64)) 0x2000000040 = false := by decide +kernel
theorem wit_complete_slot_words : (stPage (grpR [])).slot 0 = Slot.reset ∧ Slot.reset.bound = none ∧ Slot.reset.st = .idle ∧ Slot.reset.flush = 0 ∧ slotR.bound = some 1 ∧ slotR.queues.getD [] (qNum (.sp 34)) = [qe 7, qe 9] ∧
    (match (stSlot slotR (grpR [])).checkLane 1 0 1 .cr (needLoad 8) (formAddr .cr ((ab 0x40 0).greg 1) 0) with
      | .ok 0 _ => true
      | _ => false) = true := by decide +kernel
theorem wit_complete_tables : ((stTab Table.free (grpR [])).table 1 4).st = .free ∧ (tab0 .ready).usable 0 = true ∧ (∀ l < 64, ((3 : Lanes).getLsbD l && ((grp0 Regs.reset 3).regs.creg 1).getLsbD l) = false) ∧
    (wTq.mod.toNat / 16 % 8 = 7 ∧ (wTload 0).mod.getLsbD 2 = false) ∧ (st0 (grp0 (ab 0x40 0) 3)).padOk 1 0 .cm 0x40 64 = true ∧ ((st0 (grp0 (ab 0x40 0) 3)).ctx? 1).isSome = true := by decide +kernel
/-- A context descriptor of zeros, at line 0 of context 1: CTXLD's bytes are those that a new context has. -/
def stZeroLine : State := { stPage (grp0 (ab 0 0) 3) with store := { pageStore page0 [259] 0 with recs := [(1, { rec0 with payload := [0] })] } }
theorem wit_complete_contexts : (stCtx Ctx.empty (ab 2 0x48)).ctx? 2 = some Ctx.empty ∧ ((stCtx Ctx.empty (ab 2 0x40)).syncTree 2 touchAll).isSome = true ∧ (stCtx Ctx.empty (ab 2 0x40)).cpPage 1 0x40 true = none ∧
    (match stZeroLine.translate 0 1 0 (needLoad 8) with
      | .ok _ => true
      | _ => false) = true ∧ stZeroLine.isRemote (lineKey 1 0) = false ∧ stZeroLine.prepAt (lineKey 1 0) = false ∧
    (∀ k < 64, (Line.bytes (mergeLine (stZeroLine.ownBytes 0 (lineKey 1 0)).1 (stZeroLine.ownBytes 0 (lineKey 1 0)).2 (stZeroLine.homeLine (lineKey 1 0))))[0 % 256 + k]? = some 0) := by decide +kernel
theorem wit_complete_stream : (fetchLaunch.codeBase = 0 ∧ (stSeq (seqQ [])).launchOf 1 = some fetchLaunch ∧ (stSeq (seqQ [])).fetchCheck 0 1 0 = none) ∧ (stSeq (seqQ [])).padOk 1 0 .cm 0x40 2 = true ∧ spaceOf ((0x440 : BitVec 12).extractLsb' 9 3) = some .cm ∧
    ((stSeq (seqQ [])).heldM 0).getLsbD 4 = false ∧ ((stSeq (seqQ [])).cl 0).box 4 = [] ∧ (seqQ []).pxq = [] ∧ (stSeq (seqQ [])).padOk 1 0 .cm 0x100 227072 = true ∧ (stSeq (seqQ [])).padOk 1 0 .cm 0x40 3072 = true ∧
    (stSeq (seqQ [])).padOk 1 0 .cm 0x40 (64 * (0x200000 % 8 + 1)) = true ∧ (stSeq (seqQ [])).padOk 1 0 .cm 0x400 (31 * (0x10000 / 256) + 64 * 2 * 2) = true := by decide +kernel
theorem wit_complete_micro : slotR.upc < 127 ∧ slotR.loads = [] ∧ slotR.flush = 0 ∧ (slotR.queues.getD [] 2).length < 16 ∧ slotR.params.getD 0 (slotR.agP.getD 0 0).toNat = 0 ∧ (∀ j < 4, slotR.agS.getD 0 (4 * 0 + j) = 0) ∧
    (stSlot slotR (grpR [])).padOk 1 0 .cr 0 64 = true ∧ (stSlot slotR (grpR [])).blocks.get? (blockKey 1 slotR.block) ≠ none ∧ ({ slotR with cext := [(1, 3)] } : Slot).cidx.getD 0 1 + 1 < ({ slotR with cext := [(1, 3)] } : Slot).cext.getD 1 1 := by decide +kernel
/-- A descriptor that the last clause of the packets' statement names: eight registers, one group of one lane. -/
def desc1 : List Byte := le 8 0 ++ le 4 24 ++ le 4 0xFFFFFFFF ++ le 4 0xFFFFFFFF ++ [8, 0] ++ le 2 1 ++ le 4 0 ++ le 4 0
theorem wit_complete_launch : (stDesc desc1).issuer = .queue 0 ∧ (stDesc desc1).cpRead 1 0 32 = .ok desc1 ∧ (stDesc desc1).cpRead 1 0 0 = .ok [] ∧ (stDesc desc1).launchOf ((stDesc desc1).lastLaunch % 65535 + 1) = none ∧
    natOfBytes ((desc1.drop 8).take 4) % 12 = 0 ∧ natOfBytes ((desc1.drop 20).take 1) = 8 ∧ natOfBytes ((desc1.drop 22).take 2) = 1 := by decide +kernel

/-! The steps of groups, of memory and of engines. -/

def doneOp (k : MKind) (wd : Nat) : MemOp := op0 k .cm wd [{ part0 0 0x40 0 with served := true, val := 0x80 }]
theorem wit_complete_runs : (stCode (grpR [ent0 0 3])).coreGroups 0 = [(gid0, grpR [ent0 0 3])] ∧ (grpR [ent0 0 3]).parked = [] ∧ (stCode (grpR [ent0 0 3])).streamWaits (grpR [ent0 0 3]) = false ∧
    (let g : Group := { grp0 Regs.reset 3 with run := some { run0 3 with wait := .release 4 } }
     (stCode g).resumeOk gid0 g { run0 3 with wait := .release 4 } && !(stCode g).portsBusy 0 && (stCode g).resumers 0 == [(gid0, g)] && ((stCode g).contenders 0).isEmpty) = true := by decide +kernel
theorem wit_complete_parts : (∀ x ∈ (doneOp (.ld false) 4).parts, x.served = true ∧ x.put = false ∧ x.lane < 64 ∧ x.servedAt.toNat + padFixed .cm ≤ (stOp (doneOp (.ld false) 4)).now) ∧ ((doneOp (.ld false) 4).parts.map (·.lane)).Nodup ∧
    (op0 (.atom .add false true) .cm 4 [part0 0 0x40 1]).width ∈ [4, 8] ∧ (∀ p ∈ (stOp { op0 (.atom .add false true) .cm 4 [part0 0 0x40 1] with queued := true }).ops, p.1 < 1 → p.2.queued = false) := by decide +kernel
/-- A target module other than this one. -/
theorem wit_complete_send_away : (BitVec.ofNat 64 otherMod).getLsbD 15 = false ∧ (BitVec.ofNat 64 otherMod).extractLsb' 0 12 ≠ Config.moduleIndex := by
  unfold otherMod
  split
  · rename_i h; rw [h]; decide
  · rename_i h; exact ⟨by decide, fun e => h (e.symm.trans (by decide))⟩
theorem wit_complete_group : bar0.complete ≠ [] ∧ (ent0 0 1).yielded 1000 = false ∧ (stCode { grpR [ent0 0 1] with stallwd := 1024 }).due ((grpR [ent0 0 1]).stallFrom + (1000 : BitVec 64)) = true ∧ (grpR [ent0 0 1]).place = .resident 0 0 ∧
    (grpR [ent0 0 1]).deferred = [] ∧ (stBlk { grpR [ent0 0 1] with saveReq := true } (blk true true)).drained gid0 (grpR [ent0 0 1]) = true ∧ ((stBlk { grpR [] with place := .saved } (blk false true)).cl 0).saves.get? (grpR []).blockKey = none ∧
    (stBlk { grpR [] with place := .saved } (blk false true)).regsUsed 5 + (grpR []).nregs ≤ 1024 ∧ (grpR []).loads + (grpR []).stores + (grpR []).copies + (grpR []).tiles = 0 := by decide +kernel
theorem wit_complete_logstall : (∀ p ∈ (stCode (grp0 Regs.reset 3)).store.reqs, p.2.log < 320 ∧ p.2.gid ≠ some gid0) ∧ (∀ p ∈ (stCode (grp0 Regs.reset 3)).aops, p.2.gid ≠ some gid0) := by
  have h : (stCode (grp0 Regs.reset 3)).aops = [] := by decide +kernel
  exact ⟨fun _ h => absurd h (by simp [stCode, codeStore, Store.reset]), fun _ h' => absurd (h ▸ h') (by simp)⟩
theorem wit_complete_leaves : (∀ p ∈ opLock.parts, ∀ lf, ((stPage (grpR [])).cl 0).lib.get? (leafKey 1 p.addr) = some lf → lf.landed = true) ∧ ((parkedG 3).regs.jreg 2).getLsbD 0 = true ∧
    ((stPage (grpR [])).cl 0).lib.get? (leafKey 1 0) = none ∧ (stPage (grpR [])).walksOf (clusterDie 0) < 64 ∧ (stPage (grpR [])).pageHdr (pageOfLeaf (leafKey 1 0)) = some page0 := by
  refine ⟨?_, by decide +kernel, by decide +kernel, by decide +kernel, by decide +kernel⟩
  intro p _ lf h
  exact absurd h (by rw [show ((stPage (grpR [])).cl 0).lib = [] from by decide +kernel]; simp [FMap.get?])
theorem wit_complete_home : opHome.order = .rlx ∧ opHome.queued = false ∧ (part0 0 0 0).mt.toNat < 2 ∧ (stHome.ownBytes 0 (lineKey 1 0)).1 = 0 ∧ coreCluster (stHome.grpCore (grpR [])) = stHome.grpCluster (grpR []) := by decide +kernel
theorem wit_complete_pages : (∃ w ∈ ({ stPage (grpR []) with waiters := [(3, wait0 false false)] } : State).waiters, w.2.die = 0 ∧ w.2.page = pageKey 1 0 ∧ w.2.requested = false ∧ isFwd w.2.who = false) ∧
    ({ stPage (grpR []) with waiters := [(3, wait0 false false)] } : State).pageEntries 0 = [] ∧ (∀ w ∈ (stNotice .complete).waiters, ∃ gid, w.2.who = .group gid) ∧ mig0.xfer = none ∧ mig0.failed = none :=
  ⟨⟨_, List.mem_cons_self .., rfl, rfl, rfl, rfl⟩, by decide +kernel, fun w h => by
    obtain rfl : w = (3, wait0 true false) := by simpa [stNotice] using h
    exact ⟨gid0, rfl⟩, rfl, rfl⟩
theorem wit_complete_moves : (∀ p ∈ (stDemote 0x1FF).store.pages, (stDemote 0x1FF).demotable 0 p.1 p.2 = true → demoteRank (pageKey 1 0) page0 ≤ demoteRank p.1 p.2) ∧
    ({ stPage (grpR []) with pcc := 2 ^ 32 } : State).sys.epochAt.toNat / 2 ^ (stPage (grpR [])).sys.epochLog.toNat < ({ stPage (grpR []) with pcc := 2 ^ 32 } : State).pcc.toNat / 2 ^ (stPage (grpR [])).sys.epochLog.toNat ∧
    (stPage (grpR [])).pageMsg 2 (pageKey 1 0) = none ∧ (stPage (grpR [])).migs.get? (pageKey 1 0) = none ∧ page0.remote = false ∧ (stFwd entry0).capPage (pageOfLine (lineKey 1 2)) = false ∧ (stFwd entry0).prepAt (lineKey 1 2) = false :=
  ⟨fun p h _ => by obtain rfl : p = (pageKey 1 0, page0) := by simpa [stDemote, pageStore] using h
                   exact Nat.le_refl _, by decide +kernel, by decide +kernel, by decide +kernel, rfl, by decide +kernel, by decide +kernel⟩
theorem wit_complete_leaf : ({ stSnap .free (grpR []) with store := { pageStore page0 [0] 0 with leaves := [(leafKey 1 0, { ents := [(0, entry0)], dirty := true })] } } : State).syncTree (leafCtx (leafKey 1 0)) (touchLeaf (leafAddr (leafKey 1 0))) ≠ none := by
  decide +kernel
theorem wit_complete_engine_ends : (stCopy (copyX 0 .cm) .running 1).piecesDone [] 0 = true ∧ (copyX 0 .cm).stat = false ∧ (copyX 0 .cm).dsp ≠ .gl ∧ (fut5 .pending).op = 33 ∧
    (op0 (.pload 2) .cr 8 [up 1 0xAB false]).partDue (up 1 0xAB false) ≠ none ∧ (stSlot { slotR with begun := false } (grpR [])).accessesDone gid0 0 = true ∧ (slotR.st = .running ∧ sld0.sp ≠ .gl) ∧
    (stSlot { Slot.reset with bound := some 1 } (grpR [])).heldQ 0 = 0 := by decide +kernel
theorem wit_complete_stream_steps : ((stSeq { seqQ [] with st := .ready }).seqOf 0).stopReq = false ∧ ({ stSeq (seqQ []) with pcc := 0x100000000 } : State).due ((seqQ []).stallFrom + 0x100000000) = true ∧
    (∀ g ∈ ({ stSeq { seqQ [] with saveReq := true } with groups := [] } : State).groups, g.2.blockKey ≠ blockKey 1 0) ∧ (stSeq (seqQ [])).piecesDone [(acc0 true true).acc] 0 = true ∧ (acc0 true true).acc.space ≠ .gl ∧
    pxOnly (stPx (pxOf (iZero 3) true [] false) Parts.reset) 0 (iZero 3) (pxOf (iZero 3) true [] false) :=
  ⟨by decide +kernel, by decide +kernel, fun _ h => absurd h (by simp), by decide +kernel, by decide +kernel, by decide +kernel, by decide +kernel, by decide +kernel⟩
theorem wit_complete_tables_end : ({ tab0 .freeing with seen := BitVec.allOnes 32 } : Table).seen = BitVec.allOnes 32 ∧ (stPkt (pkt0 false 0)).tableBusy 1 5 = false ∧ (pkt0 false 0).reply = none ∧ (pkt0 false 0).req.length = 144 ∧
    ((stPkt (pkt0 false 0)).chan (64 * 0 + 5)).st = .active ∧ (pkt0 true 0).reply ≠ none ∧ (pkt0 true 0).dest < 128 := by decide +kernel
theorem wit_complete_landings : (∀ p ∈ (stArm (armOp .queued [] 0)).aops, landsAt (armOp .queued [] 0).landStack p.2 = true → p.2.stage = .queued → (armOp .queued [] 0).arrival ≤ p.2.arrival) ∧
    ((stArm (armOp .queued [] 0)).aops.filter (fun p => landsAt (armOp .queued [] 0).landStack p.2 && p.2.stage != .queued)).length < 32 ∧ (stArm (armOp .holding [] 0)).firstArm (armOp .holding [] 0).landStack = some (33, armOp .holding [] 0) ∧
    ((stArm (armOp .holding [] 0)).stack 0).live.length + 2 * (blkArm.nsrc + 1) ≤ 4096 ∧ (blkPut 1).self = true ∧ (stPut [] .holding).due ((100 : BitVec 64) + 800) = true ∧
    (stPut [(20, armOp .running [] 0)] .running).armFor (blkPut 1).tag = some (20, armOp .running [] 0) ∧ (armOp .running [] 0).buf (rankKey 1) = none ∧ (blkPut 1).nelem = blkArm.nelem := by
  refine ⟨fun p h _ _ => ?_, by decide +kernel, by decide +kernel, by decide +kernel, by decide +kernel, by decide +kernel, by decide +kernel, by decide +kernel, by decide +kernel⟩
  obtain rfl : p = (33, armOp .queued [] 0) := by simpa [stArm] using h
  exact Nat.le_refl _
theorem wit_complete_publish : (stReqs (grpR []) reqDone).reqSt 9 = .complete ∧ (landBlkOf (blkN 0 4 0 1 2 0 0x100 0x200 0)).order = 0 ∧ ((stQuiet .quiesced).snap 2 5).st = .held ∧
    (((stQuiet .quiesced).syncTree 2 touchAll).bind (fun u => u.rootCarry63 2 (((u.ctx? 2).map (fun k => k.ixroot.toNat)).getD 0) ((stQuiet .quiesced).snap 2 5).root.toNat)).isSome = true := by decide +kernel

/-! The steps of the module. -/

theorem wit_complete_clean : ((stClean false 5).stack 0).target = some 1 ∧ fragBatch [] 4096 ((stClean false 5).liveFrags 1) = [] ∧ (stDue { Ctx.empty with quiet := .quiescing 1 0x40 }).openOf 2 = false ∧
    ({ Ctx.empty with quiet := .quiescing 1 0x40 } : Ctx).anyPending = false := by decide +kernel
theorem wit_complete_queue : (stQ { cq0 with cur := none }).slotWaits 0 = false ∧ packetSeq (BitVec.ofNat 512 (natOfBytes ((stQ { cq0 with cur := none }).glBytes 1 0 64))) = 0 ∧ ((cq0.tail - cq0.head).toNat ≤ 2 ^ cq0.log2n.toNat ∧ cq0.tail ≠ cq0.head) ∧ cq0.sigs = [] ∧
    cq0.loc = true ∧ cq0.st ≠ 2 := by decide +kernel
theorem wit_complete_placement : (∀ c < 256, stVictim.fits lBig c = false) ∧ stVictim.placeable lBig = true ∧ (∀ x ∈ stVictim.blocks, x.2.ask = false) ∧ (stMove gMove).placeable lBig = true ∧ (stMove gMove).fits lBig 0 = false ∧
    ((stMove gMove).freeSlot 2 ≠ none ∧ (stMove gMove).regsUsed 2 + gMove.nregs ≤ 1024) ∧ (stMove gMove).nearArrival gMove = false ∧ lBig.cr = false ∧ gMove.movedAt = 0 ∧ (∀ y ∈ (stMove gMove).cores, y.2.slot.bound ≠ some gMove.launch) := by decide +kernel
theorem wit_complete_ports : (∀ h ∈ (stHost (mas false)).hosts, h.2.requester ≠ 0x200) ∧ (stHost (mas false)).hosts.length < 8 ∧ (mas false).mapNext = none ∧ (mas false).mapEn = true ∧ (mas false).hbase.toNat ≤ (0x40000002#64).toNat ∧
    (0x00000400000005FF#64).extractLsb' 8 24 = (4#24) + 1 ∧ (0x00000400000005FF#64).extractLsb' 0 8 = 255 := by decide +kernel
theorem wit_complete_checkpoints : Ckpt.reset.accepting = none ∧ (stCk (ckAop (ckB 1 1) (.prePub 9) [] 0) [] [33]).ckpt.waiting.head? = some 33 ∧ (ckB 1 1).g < 2 ∧ (ckB 1 2).op = 1 ∧ (ckB 2 2).op = 2 ∧
    (stCk (ckAop (ckB 1 2) .holding [] 0) [33] []).cpPage 1 0x20 false = none ∧ 0 < (stShard [0] 1).ckpt.resv.getD 0 ((3#12).toNat * 2 ^ 64 + 9) := by decide +kernel
theorem wit_complete_links : ((stLink []).link 5).en = true ∧ ((stLink []).link 5).up = false ∧ ((stLink []).link 3).up = true ∧ (stLink []).sys.beatAt.toNat + 800000 ≤ (stLink []).now ∧
    ({ stLink [] with heard := [(2, 100)], pcc := 160000100 } : State).heard.getD 0 2 = 100 ∧ State.reset.sys.bootSt = 0 ∧ (mas false).frozen = false := by decide +kernel
theorem wit_complete_power : ({ Chan.reset with st := .powerDown } : Chan).wakeAt = none ∧ (stChan { Chan.reset with st := .powerDown } 65536).chanBusy 70 = false ∧ ((stChan Chan.reset 65536).stack 1).srIdle ≠ 0 ∧
    (stChan { Chan.reset with wakeAt := some 9 } 9).due 9 = true ∧ (∀ b ∈ (stGate Die.reset).blocks, clusterDie b.2.cluster ≠ 0) ∧ (0x10001#64).extractLsb' 0 16 &&& ~~~(1 : BitVec 16) = 0 ∧
    ((stGate { Die.reset with gateWakeAt := some 10 }).die 0).gateWant = none ∧ (stGate Die.reset).due 10 = true := by decide +kernel
theorem wit_rounding : (roundFp fmtF32 .rne false false (2 ^ 24 + 1) 0).2 &&& fOF = 0 ∧ (roundFp fmtF16 .rne false false 1 20).2 &&& fOF ≠ 0 ∧ subnormal fmtF16 1 :=
  ⟨by decide +kernel, by decide +kernel, by decide +kernel, by decide +kernel⟩

end Sys2Proof.Tests
end

section
/-! SUPPORT of O6. What every function that a step calls does to the byte memories: it leaves them as they are (`…_mems`), or it writes them by operations that keep
their canonical form (`wf_…`). Read in the order of the model; the parts are named after its files. -/
namespace Sys2Proof.Machine

/-! Folds and group words. -/

/-- What a fold over options keeps, when each step that gives a value keeps it and one that starts from none gives none. -/
theorem foldl_some_keeps {σ β γ : Type} (p : σ → γ) {f : Option σ → β → Option σ} (hn : ∀ x, f none x = none)
    (h : ∀ a x b, f (some a) x = some b → p b = p a) {l : List β} {a b : σ} (hl : l.foldl f (some a) = some b) : p b = p a := by
  have none_stays (l : List β) : l.foldl f none = none := by
    induction l with
    | nil => rfl
    | cons x l ih => rw [List.foldl_cons, hn, ih]
  induction l generalizing a with
  | nil => cases hl; rfl
  | cons x l ih =>
    rw [List.foldl_cons] at hl
    cases hx : f (some a) x with
    | none => rw [hx, none_stays] at hl; cases hl
    | some c => rw [hx] at hl; rw [ih hl, h a x c hx]

theorem foldl_bind_keeps {σ β γ : Type} (p : σ → γ) {f : σ → β → Option σ} (h : ∀ a x b, f a x = some b → p b = p a) {l : List β} {a b : σ}
    (hl : l.foldl (fun (acc : Option σ) x => acc.bind (fun a => f a x)) (some a) = some b) : p b = p a :=
  foldl_some_keeps p (fun _ => rfl) h hl

theorem getD_keeps {σ γ : Type} (p : σ → γ) {o : Option σ} {a : σ} (h : ∀ b, o = some b → p b = p a) : p (o.getD a) = p a := by
  cases o with
  | none => rfl
  | some b => exact h b rfl

@[simp] theorem State.foldl_mems {β : Type} {f : State → β → State} (h : ∀ s x, (f s x).mems = s.mems) (l : List β) (s : State) :
    (l.foldl f s).mems = s.mems :=
  List.foldlRecOn l f (motive := fun t => t.mems = s.mems) rfl (fun t ht x _ => (h t x).trans ht)

theorem State.wf_foldl {β : Type} {f : State → β → State} (h : ∀ s x, s.mems.wf = true → (f s x).mems.wf = true) (l : List β) {s : State}
    (hs : s.mems.wf = true) : (l.foldl f s).mems.wf = true :=
  List.foldlRecOn l f (motive := fun t => t.mems.wf = true) hs (fun t ht x _ => h t x ht)

theorem Mems.wf_iff {m : Mems} : m.wf = true ↔
    m.ln.wf = true ∧ m.cm.wf = true ∧ m.ds.wf = true ∧ m.frame.wf = true ∧ m.ckstore.wf = true := by
  simp [Mems.wf, and_assoc]

theorem State.wf_of_mems {s t : State} (hs : s.mems.wf = true) (h : t.mems = s.mems) : t.mems.wf = true := h ▸ hs

theorem State.wf_ite {c : Prop} [Decidable c] {a b : State} (ha : a.mems.wf = true) (hb : b.mems.wf = true) :
    (if c then a else b).mems.wf = true := by
  split
  · exact ha
  · exact hb

theorem groupWord_mems {b : Body} {n : Nat} {s t : State} {eff : Nat → Bool → Group → Run → State → State}
    (he : ∀ gid second g r, (eff gid second g r s).mems = s.mems) (h : groupWord b n s eff = .next t) : t.mems = s.mems := by
  simp only [groupWord] at h
  repeat' split at h
  all_goals cases h
  all_goals simp [he]

theorem wf_groupWord {b : Body} {n : Nat} {s t : State} {eff : Nat → Bool → Group → Run → State → State} (hs : s.mems.wf = true)
    (he : ∀ gid second g r, (eff gid second g r s).mems.wf = true) (h : groupWord b n s eff = .next t) : t.mems.wf = true := by
  simp only [groupWord] at h
  repeat' split at h
  all_goals cases h
  all_goals simp [he, hs]

/-! Requests and lodging (`Ops`). -/

@[simp] theorem State.newNum_mems (s : State) : s.newNum.2.mems = s.mems := rfl

@[simp] theorem State.newFree_mems (s : State) : s.newFree.2.mems = s.mems := rfl

@[simp] theorem State.sendMsg_mems (s : State) (peer : BitVec 12) (cls : BitVec 2) (x3 : Nat) (body : QfBody) :
    (s.sendMsg peer cls x3 body).mems = s.mems := rfl

theorem State.allocFut_mems {s : State} {c : Nat} {cls : BitVec 4} {gid : Option Nat} {launch op : Nat} {t : State × Word}
    (h : s.allocFut c cls gid launch op = some t) : t.1.mems = s.mems := by grind [State.allocFut, State.modCtx_mems]

@[simp] theorem State.decCopies_mems (s : State) (gid : Option Nat) : (s.decCopies gid).mems = s.mems := by unfold State.decCopies; split <;> simp

@[simp] theorem State.resolve_mems (s : State) (c tag : Nat) (st : FutSt) : (s.resolve c tag st).mems = s.mems := by
  grind [State.resolve, State.decCopies_mems, State.modCtx_mems]

theorem State.wf_servePiece (s : State) (core owner part : Nat) (x4 : List RowUse) (x : Piece) (hs : s.mems.wf = true) :
    (s.servePiece core owner part x4 x).1.mems.wf = true := by grind [State.servePiece, State.wf_padWrite]

theorem State.wf_servePieces (s : State) (core owner arr : Nat) (t : List RowUse) (xs : List Piece) (hs : s.mems.wf = true) :
    (s.servePieces core owner arr t xs).1.mems.wf = true := by
  induction xs generalizing s t with
  | nil => exact hs
  | cons x xs ih =>
    simp only [State.servePieces]
    split
    · exact ih _ _ (State.wf_servePiece s core owner 0 t x hs)
    · exact ih _ _ hs

theorem groupOnly_mems {b : Body} {n : Nat} {s : State} {f : Group → Run → State → Group} {t : State} (h : groupOnly b n s f = .next t) :
    t.mems = s.mems := groupWord_mems (fun _ _ _ _ => rfl) h

/-! The sink (`Sink`). -/

theorem State.wf_hostWrite (s : State) (a : Nat) (bs : List Byte) (hs : s.mems.wf = true) : (s.hostWrite a bs).mems.wf = true := hs

@[simp] theorem State.hostRead_mems (s : State) (a n : Nat) : (s.hostRead a n).2.mems = s.mems := rfl

theorem State.wf_sinkPut {s : State} {die len : Nat} {bs : List Byte} {t : State} (hs : s.mems.wf = true) (h : s.sinkPut die len bs = some t) :
    t.mems.wf = true := by grind [State.sinkPut, State.wf_hostWrite]

theorem State.wf_lostMarker (s : State) (die : Nat) (hs : s.mems.wf = true) : (s.lostMarker die).mems.wf = true := by
  grind [State.lostMarker, → State.wf_sinkPut]

theorem State.wf_sinkOrLose (s : State) (typ die len : Nat) (body : List Byte) (hs : s.mems.wf = true) :
    (s.sinkOrLose typ die len body).mems.wf = true := by grind [State.sinkOrLose, State.wf_lostMarker, → State.wf_sinkPut]

theorem State.wf_sinkOrKeep {s : State} {typ die len : Nat} {body : List Byte} {t : State} (hs : s.mems.wf = true)
    (h : s.sinkOrKeep typ die len body = some t) : t.mems.wf = true := by grind [State.sinkOrKeep, State.wf_lostMarker, → State.wf_sinkPut]

/-! Log memory (`Gl`). -/

@[simp] theorem State.setHomeEntry_mems (s : State) (lk : Nat) (e : IxEntry) : (s.setHomeEntry lk e).mems = s.mems := rfl

@[simp] theorem State.countLocal_mems (s : State) (pk : Nat) : (s.countLocal pk).mems = s.mems := rfl

@[simp] theorem State.tellTransfer_mems (s : State) (pk : Nat) : (s.tellTransfer pk).mems = s.mems := by
  simp only [State.tellTransfer]
  repeat' split <;> simp

@[simp] theorem State.countRemote_mems (s : State) (pk : Nat) : (s.countRemote pk).mems = s.mems := by simp [State.countRemote]

@[simp] theorem State.setLog_mems (s : State) (n : Nat) (l : Log) : (s.setLog n l).mems = s.mems := rfl

@[simp] theorem State.modLog_mems (s : State) (n : Nat) (f : Log → Log) : (s.modLog n f).mems = s.mems := rfl

@[simp] theorem State.sealLog_mems (s : State) (log : Nat) : (s.sealLog log).mems = s.mems := by unfold State.sealLog; split <;> simp

theorem State.takeSeg_mems {s : State} {log : Nat} {useRsv : Bool} {t : State} (h : s.takeSeg log useRsv = some t) : t.mems = s.mems := by
  grind [State.takeSeg, State.newFree_mems, State.modStack_mems, State.modLog_mems, State.setStore_mems]

theorem State.takeCapSeg_mems {s : State} {log die : Nat} {t : State} (h : s.takeCapSeg log die = some t) : t.mems = s.mems := by
  grind [State.takeCapSeg, State.modLog_mems, State.setStore_mems, State.newFree_mems]

theorem State.promise_mems {s : State} {log n : Nat} {t : State} (h : s.promise log n = some t) : t.mems = s.mems := by
  grind [State.promise, State.modLog_mems, State.modStack_mems]

@[simp] theorem State.unpromise_mems (s : State) (log n : Nat) : (s.unpromise log n).mems = s.mems := by
  simp only [State.unpromise]
  repeat' split <;> simp

theorem State.appendHere_mems {s : State} {log : Nat} {r : Rec} {keep : Nat} {t : State × Nat} (h : s.appendHere log r keep = some t) :
    t.1.mems = s.mems := by grind [State.appendHere, State.setStore_mems]

theorem State.append_mems {s : State} {log : Nat} {r : Rec} {t : State × Nat} (h : s.append log r = some t) : t.1.mems = s.mems := by
  grind [State.append, → State.appendHere_mems, → State.takeSeg_mems, State.sealLog_mems]

theorem State.appendPromised_mems {s : State} {log : Nat} {r : Rec} {t : State × Nat} (h : s.appendPromised log r = some t) : t.1.mems = s.mems := by
  grind [State.appendPromised, → State.appendHere_mems, → State.append_mems, State.modStack_mems, State.modLog_mems, → State.takeSeg_mems,
    State.sealLog_mems]

theorem State.appendAll_mems {s : State} {log : Nat} {rs : List Rec} {t : State × List Nat} (h : s.appendAll log rs = some t) : t.1.mems = s.mems := by
  induction rs generalizing s t with
  | nil => cases h; rfl
  | cons r rs ih => grind [State.appendAll, → State.append_mems]

@[simp] theorem State.setBatch_mems (s : State) (log : Nat) (b : FMap BufLine) (a : FMap AppLine) : (s.setBatch log b a).mems = s.mems := by
  unfold State.setBatch
  split <;> simp

@[simp] theorem State.patchCores_mems (s : State) (cl : Nat) (f : Core → Core) : (s.patchCores cl f).mems = s.mems := rfl

theorem State.flushLine_mems {s : State} {log lk : Nat} {t : State} (h : s.flushLine log lk = some t) : t.mems = s.mems := by
  grind [State.flushLine, → State.appendAll_mems, State.setBatch_mems, State.patchCores_mems]

theorem State.makeRoom_mems {s : State} {log lk limit : Nat} {t : State} (h : s.makeRoom log lk limit = some t) : t.mems = s.mems := by
  grind [State.makeRoom, → State.flushLine_mems]

theorem State.bufWrite_mems {s : State} {log lk : Nat} {m : LineMask} {d : Line} {t : State} (h : s.bufWrite log lk m d = some t) : t.mems = s.mems := by
  grind [State.bufWrite, → State.makeRoom_mems, State.newNum_mems, State.setBatch_mems, → State.flushLine_mems]

theorem State.bufStore_mems {s : State} {log ctx addr n v : Nat} {t : State} (h : s.bufStore log ctx addr n v = some t) : t.mems = s.mems := by
  grind [State.bufStore, → State.bufWrite_mems]

@[simp] theorem State.libFillNow_mems (s : State) (cl leaf : Nat) : (s.libFillNow cl leaf).mems = s.mems := by unfold State.libFillNow; split <;> simp

@[simp] theorem State.libWalk_mems (s : State) (cl leaf : Nat) (lk : Option Nat) : (s.libWalk cl leaf lk).mems = s.mems := by
  grind [State.libWalk, State.newNum_mems, State.tally_mems, State.modCl_mems]

@[simp] theorem State.libTouch_mems (s : State) (cl : Nat) (leaves : List Nat) : (s.libTouch cl leaves).mems = s.mems := rfl

@[simp] theorem State.l1Fill_mems (s : State) (core ctx addr : Nat) (d : Line) : (s.l1Fill core ctx addr d).mems = s.mems := rfl

@[simp] theorem State.libDrop_mems (s : State) (cl : Nat) (p : Nat → LibLeaf → Bool) : (s.libDrop cl p).mems = s.mems := rfl

@[simp] theorem State.libDiscard_mems (s : State) (cl : Nat) (p : Nat → Bool) : (s.libDiscard cl p).mems = s.mems := rfl

@[simp] theorem State.coreDiscard_mems (s : State) (core : Nat) (p : Nat → Bool) : (s.coreDiscard core p).mems = s.mems := rfl

@[simp] theorem State.coreDrop_mems (s : State) (core : Nat) (p : Nat → Bool) : (s.coreDrop core p).mems = s.mems := rfl

@[simp] theorem State.acquire_mems (s : State) (core ctx : Nat) : (s.acquire core ctx).mems = s.mems := rfl

@[simp] theorem State.acquireAt_mems (s : State) (core ctx : Nat) (sc : Scope) : (s.acquireAt core ctx sc).mems = s.mems := by
  unfold State.acquireAt
  split <;> simp

@[simp] theorem State.invRange_mems (s : State) (core ctx base len : Nat) : (s.invRange core ctx base len).mems = s.mems := by
  simp only [State.invRange]
  repeat' split <;> simp

/-! Publication (`Publish`). -/

@[simp] theorem State.modPub_mems (s : State) (p : Nat) (f : Pub → Pub) : (s.modPub p f).mems = s.mems := rfl

@[simp] theorem State.modReq_mems (s : State) (r : Nat) (f : Req → Req) : (s.modReq r f).mems = s.mems := rfl

@[simp] theorem State.modPLine_mems (s : State) (p i : Nat) (f : PLine → PLine) : (s.modPLine p i f).mems = s.mems := rfl

@[simp] theorem State.lodge_mems (s : State) (log ctx : Nat) (gid : Option Nat) (kind : ReqKind) (lines : List PLine) (rkind : BitVec 2) :
    (s.lodge log ctx gid kind lines rkind).2.mems = s.mems := rfl

@[simp] theorem State.lodgeReady_mems (s : State) : s.lodgeReady.mems = s.mems := by
  grind [State.lodgeReady, State.modLog_mems, State.modReq_mems, State.foldl_mems]

@[simp] theorem State.lodgeAfter_mems (s : State) (log ctx gid : Nat) (kind : ReqKind) : (s.lodgeAfter log ctx gid kind).2.mems = s.mems := by
  simp [State.lodgeAfter]

@[simp] theorem State.lodgeBytes_mems (s : State) (log ctx : Nat) (gid : Option Nat) (addr : Nat) (bs : List Byte) :
    (s.lodgeBytes log ctx gid addr bs).2.mems = s.mems := rfl

@[simp] theorem State.withdraw_mems (s : State) (r : Nat) : (s.withdraw r).mems = s.mems := by unfold State.withdraw; split <;> simp

theorem State.flushAll_mems {s : State} {log : Nat} {ks : List Nat} {t : State} (h : s.flushAll log ks = some t) : t.mems = s.mems := by
  induction ks generalizing s with
  | nil => cases h; rfl
  | cons k ks ih => grind [State.flushAll, → State.flushLine_mems]

theorem State.reserve_mems {s : State} {log units : Nat} {t : State × Nat × Nat} (h : s.reserve log units = some t) : t.1.mems = s.mems := by
  grind [State.reserve, State.modStack_mems]

@[simp] theorem State.openPub_mems (s : State) (log : Nat) (batch : Bool) (lines : List PLine) (reqs : List Nat) (rkind : BitVec 2)
    (runits rsegs : Nat) : (s.openPub log batch lines reqs rkind runits rsegs).2.mems = s.mems := by
  grind [State.openPub, State.newNum_mems, State.modLog_mems, State.setStore_mems, State.modReq_mems, State.foldl_mems]

@[simp] theorem State.tellSpace_mems (s : State) (log : Nat) : (s.tellSpace log).mems = s.mems := by unfold State.tellSpace; split <;> simp

@[simp] theorem State.endEpisode_mems (s : State) (log : Nat) : (s.endEpisode log).mems = s.mems := by unfold State.endEpisode; split <;> simp

@[simp] theorem State.starve_mems (s : State) (log : Nat) (rs : List Nat) : (s.starve log rs).mems = s.mems := by
  grind [State.starve, State.modReq_mems, State.tellSpace_mems, State.foldl_mems]

@[simp] theorem State.donePubr_mems (s : State) (r : Nat) : (s.donePubr r).mems = s.mems := by simp [State.donePubr]

@[simp] theorem State.endReq_mems (s : State) (r : Nat) : (s.endReq r).mems = s.mems := by unfold State.endReq; split <;> simp

@[simp] theorem State.startSolo_mems (s : State) (log r : Nat) (q : Req) : (s.startSolo log r q).mems = s.mems := by
  grind [State.startSolo, State.endReq_mems, → State.reserve_mems, State.starve_mems, State.openPub_mems]

@[simp] theorem State.startBatch_mems (s : State) (log : Nat) (rs : List (Nat × Req)) : (s.startBatch log rs).mems = s.mems := by
  grind [State.startBatch, State.endReq_mems, → State.flushAll_mems, State.starve_mems, → State.reserve_mems, State.setBatch_mems, State.openPub_mems,
    State.foldl_mems]

@[simp] theorem State.startPub_mems (s : State) (log : Nat) : (s.startPub log).mems = s.mems := by
  grind [State.startPub, State.lodgeReady_mems, State.endEpisode_mems, State.startSolo_mems, State.startBatch_mems]

theorem execPublicationStart_mems {log : Nat} {s t : State} (h : execPublicationStart log s = .next t) : t.mems = s.mems := by
  grind [execPublicationStart, State.startPub_mems]

@[simp] theorem State.setPrep_mems (s : State) (lk : Nat) (x2 : Prep) : (s.setPrep lk x2).mems = s.mems := rfl

@[simp] theorem State.dropPrep_mems (s : State) (lk : Nat) : (s.dropPrep lk).mems = s.mems := rfl

@[simp] theorem State.waitRead_mems (s : State) (lk : Nat) (r : Reader) : (s.waitRead lk r).mems = s.mems := by
  grind [State.waitRead, State.setPrep_mems]

@[simp] theorem State.grantLine_mems (s : State) (p i : Nat) (x : PLine) : (s.grantLine p i x).mems = s.mems := rfl

@[simp] theorem State.grantFirst_mems (s : State) (lk : Nat) (ps : List Nat) : (s.grantFirst lk ps).mems = s.mems := by
  induction ps with
  | nil => rfl
  | cons p ps ih =>
    rw [State.grantFirst]
    split
    · exact ih
    · split <;> simp

@[simp] theorem State.serveQueue_mems (s : State) (lk : Nat) : (s.serveQueue lk).mems = s.mems := by
  simp only [State.serveQueue]
  repeat' split <;> simp

@[simp] theorem State.doneRead_mems (s : State) (lk : Nat) (r : Reader) : (s.doneRead lk r).mems = s.mems := by unfold State.doneRead; split <;> simp

@[simp] theorem State.endHold_mems (s : State) (lk : Nat) : (s.endHold lk).mems = s.mems := by unfold State.endHold; split <;> simp

@[simp] theorem State.prepare_mems (s : State) (p i : Nat) : (s.prepare p i).mems = s.mems := by
  simp only [State.prepare]
  repeat' split
  all_goals simp

theorem execHomePrepare_mems {pub idx : Nat} {s t : State} (h : execHomePrepare pub idx s = .next t) : t.mems = s.mems := by
  grind [execHomePrepare, State.prepare_mems]

@[simp] theorem State.clusterLoad_mems (s : State) (cl ctx addr n : Nat) (who : Reader) : (s.clusterLoad cl ctx addr n who).2.mems = s.mems := by
  grind [State.clusterLoad, State.doneRead_mems, State.countLocal_mems, State.waitRead_mems]

@[simp] theorem State.atomicAt_mems (s : State) (log r ctx addr n : Nat) (who : Reader) (prom : Nat) (f : Nat → Option Nat) :
    (s.atomicAt log r ctx addr n who prom f).2.mems = s.mems := by
  grind [State.atomicAt, State.waitRead_mems, State.doneRead_mems, State.unpromise_mems, State.endReq_mems, → State.append_mems,
    → State.appendPromised_mems, State.starve_mems, State.openPub_mems, State.setHomeEntry_mems, State.setPrep_mems, State.modPub_mems]

theorem State.pubAppend_mems {s : State} {p : Nat} {r : Rec} {t : State × Nat} (h : s.pubAppend p r = some t) : t.1.mems = s.mems := by
  grind [State.pubAppend, → State.appendHere_mems, State.modPub_mems, → State.append_mems, State.modStack_mems, → State.takeSeg_mems,
    State.sealLog_mems]

theorem State.formLine_mems {s : State} {p : Nat} {q : Pub} {x : PLine} {t : State × PLine} (h : s.formLine p q x = some t) : t.1.mems = s.mems := by
  grind [State.formLine, → State.pubAppend_mems]

theorem State.formLines_mems {s : State} {p : Nat} {q : Pub} {xs : List PLine} {t : State × List PLine} (h : s.formLines p q xs = some t) :
    t.1.mems = s.mems := by
  induction xs generalizing s t with
  | nil => cases h; rfl
  | cons x xs ih => grind [State.formLines, → State.formLine_mems]

@[simp] theorem State.ackArrive_mems (s : State) (p i : Nat) : (s.ackArrive p i).mems = s.mems := by
  unfold State.ackArrive
  split
  · rfl
  split
  · rfl
  split
  · rfl
  split
  · simp
  extract_lets s1
  split
  · rfl
  split
  · split
    · rfl
    next hf => rw [State.modPub_mems, State.formLines_mems hf]; rfl
  · rfl

theorem execPrepareAck_mems {pub idx : Nat} {s t : State} (h : execPrepareAck pub idx s = .next t) : t.mems = s.mems := by
  grind [execPrepareAck, State.ackArrive_mems]

@[simp] theorem State.revoke_mems (s : State) (p : Nat) : (s.revoke p).mems = s.mems := by
  grind [State.revoke, State.sendMsg_mems, State.modPub_mems, State.setStore_mems, State.foldl_mems]

theorem execRevokeRequest_mems {pub : Nat} {s t : State} (h : execRevokeRequest pub s = .next t) : t.mems = s.mems := by
  grind [execRevokeRequest, State.revoke_mems]

theorem execHoldTimerExpire_mems {line : Nat} {s t : State} (h : execHoldTimerExpire line s = .next t) : t.mems = s.mems := by
  grind [execHoldTimerExpire, State.modPub_mems]

@[simp] theorem State.releaseLine_mems (s : State) (p i : Nat) : (s.releaseLine p i).mems = s.mems := by
  grind [State.releaseLine, State.sendMsg_mems, State.modPLine_mems, State.endHold_mems]

theorem execHomeRelease_mems {pub idx : Nat} {s t : State} (h : execHomeRelease pub idx s = .next t) : t.mems = s.mems := by
  grind [execHomeRelease, State.releaseLine_mems]

@[simp] theorem State.libTake_mems (s : State) (cl lk : Nat) : (s.libTake cl lk).mems = s.mems := rfl

@[simp] theorem State.turnMarks_mems (s : State) (pk : Nat) (old new : Bool) : (s.turnMarks pk old new).mems = s.mems := by
  grind [State.turnMarks, State.setHomeEntry_mems, State.foldl_mems]

@[simp] theorem State.putHdr_mems (s : State) (pk : Nat) (x2 : Option PageHdr) : (s.putHdr pk x2).mems = s.mems := by
  simp only [State.putHdr]
  repeat' split <;> simp

@[simp] theorem State.markCommit_mems (s : State) (pos : Nat) : (s.markCommit pos).mems = s.mems := rfl

@[simp] theorem State.commitHere_mems (s : State) (p i : Nat) (q : Pub) (x : PLine) : (s.commitHere p i q x).mems = s.mems := by
  simp only [State.commitHere]
  repeat' split <;> simp

@[simp] theorem State.commitAt_mems (s : State) (p i : Nat) : (s.commitAt p i).mems = s.mems := by
  grind [State.commitAt, State.sendMsg_mems, State.modPLine_mems, State.commitHere_mems, State.foldl_mems]

theorem execHomeCommit_mems {pub idx : Nat} {s t : State} (h : execHomeCommit pub idx s = .next t) : t.mems = s.mems := by
  grind [execHomeCommit, State.commitAt_mems]

@[simp] theorem State.countCommit_mems (s : State) (q : Pub) : (s.countCommit q).mems = s.mems := by
  simp only [State.countCommit]
  repeat' split <;> simp

@[simp] theorem State.finishPub_mems (s : State) (p : Nat) : (s.finishPub p).mems = s.mems := by simp only [State.finishPub]; repeat' split <;> simp

theorem execPublicationCommit_mems {pub : Nat} {s t : State} (h : execPublicationCommit pub s = .next t) : t.mems = s.mems := by
  grind [execPublicationCommit, State.finishPub_mems]

theorem State.cancelReq_mems {s : State} {r : Nat} {t : State} (h : s.cancelReq r = some t) : t.mems = s.mems := by
  unfold State.cancelReq at h
  split at h
  · cases h
  split at h
  · cases h; simp
  · cases h; simp
  · split at h
    · cases h
    split at h
    · cases h
    extract_lets others keep back giveBack unsend s1 s2 s3 at h
    have hgive (u : State) (x : PLine) : (giveBack u x).mems = u.mems := by simp [giveBack]
    have hunsend (u : State) (x : PLine) : (unsend u x).mems = u.mems := by
      dsimp only [unsend]
      repeat' split
      all_goals simp
    have h1 : s1.mems = s.mems := by
      rw [State.foldl_mems hunsend]
      split
      · exact State.foldl_mems hgive _ _
      · rfl
    cases h
    split
    · rw [State.finishPub_mems]; exact h1
    · exact h1
  · cases h

theorem execWcbWindowExpire_mems {cluster line : Nat} {s t : State} (h : execWcbWindowExpire cluster line s = .next t) : t.mems = s.mems := by
  grind [execWcbWindowExpire, → State.flushLine_mems]

/-! Fetching (`Fetch`). -/

@[simp] theorem State.askCode_mems (s : State) (core ctx addr : Nat) : (s.askCode core ctx addr).mems = s.mems := by
  grind [State.askCode, State.sendMsg_mems]

@[simp] theorem State.holdCode_mems (s : State) (core ctx addr n : Nat) : (s.holdCode core ctx addr n).mems = s.mems := by
  grind [State.holdCode, State.modCore_mems, State.foldl_mems]

/-! Memory words (`Mem`). -/

@[simp] theorem State.addWaiter_mems (s : State) (die page : Nat) (who : WaiterWho) (launch ctx : Nat) :
    (s.addWaiter die page who launch ctx).mems = s.mems := rfl

@[simp] theorem State.parkRun_mems (s : State) (gid : Nat) (second : Bool) (g : Group) (page : Nat) : (s.parkRun gid second g page).mems = s.mems :=
  rfl

@[simp] theorem State.guardMem_mems (s : State) (gid : Nat) (second : Bool) (g : Group) (r : Run) (ps : List Probe) {go : State → State}
    (hgo : (go s).mems = s.mems) : (s.guardMem gid second g r ps go).mems = s.mems := by
  unfold State.guardMem
  split
  · simp
  · split <;> simp [hgo]

@[simp] theorem State.pushOp_mems (s : State) (gid : Nat) (op : MemOp) : (s.pushOp gid op).mems = s.mems := by
  simp only [State.pushOp]
  repeat' split <;> simp

@[simp] theorem State.pushWord_mems (s : State) (gid : Nat) (second : Bool) (op : MemOp) : (s.pushWord gid second op).mems = s.mems := by
  unfold State.pushWord
  split <;> simp

@[simp] theorem State.soWord_mems (s : State) (gid : Nat) (second : Bool) (r : Run) (ps : List Part) {go : State → State}
    (hgo : (go s).mems = s.mems) : (s.soWord gid second r ps go).mems = s.mems := by
  simp only [State.soWord]
  repeat' split
  all_goals simp [hgo]

@[simp] theorem State.pushAcquire_mems (s : State) (gid : Nat) (r : Run) (sc : Scope) : (s.pushAcquire gid r sc).mems = s.mems := rfl

@[simp] theorem State.fence_mems (s : State) (gid : Nat) (second : Bool) (r : Run) (od : Order) (sc : Scope) :
    (s.fence gid second r od sc).mems = s.mems := by grind [State.fence, State.modRun_mems, State.pushAcquire_mems]

theorem loadWord_mems {opc : Nat} {sx : Bool} {w : Mem} {s t : State} (h : loadWord opc sx w s = .next t) : t.mems = s.mems :=
  groupWord_mems (fun _ _ _ _ => by grind [State.fence_mems, State.guardMem_mems, State.soWord_mems, State.pushWord_mems]) h

theorem execLd_mems {w : Mem} {s t : State} (h : execLd w s = .next t) : t.mems = s.mems := loadWord_mems h

theorem execLdx_mems {w : Mem} {s t : State} (h : execLdx w s = .next t) : t.mems = s.mems := loadWord_mems h

theorem execLds_mems {w : Mem} {s t : State} (h : execLds w s = .next t) : t.mems = s.mems :=
  groupWord_mems (fun _ _ _ _ => by grind [State.trapRun_mems, State.parkRun_mems, State.soWord_mems, State.pushWord_mems]) h

@[simp] theorem State.logGuard_mems (s : State) (gid : Nat) (second : Bool) (g : Group) (lks : List Nat) {go : State → State}
    (hgo : (go s).mems = s.mems) : (s.logGuard gid second g lks go).mems = s.mems := by
  simp only [State.logGuard]
  split <;> simp [hgo]

@[simp] theorem State.atomGuard_mems (s : State) (gid : Nat) (second : Bool) (g : Group) (ps : List Part) {go : State → State}
    (hgo : ∀ t, (go t).mems = t.mems) : (s.atomGuard gid second g ps go).mems = s.mems := by
  grind [State.atomGuard, → State.promise_mems, State.modRun_mems, State.tellSpace_mems]

theorem execSt_mems {w : Mem} {s t : State} (h : execSt w s = .next t) : t.mems = s.mems :=
  groupWord_mems (fun _ _ _ _ => by grind [State.fence_mems, State.guardMem_mems, State.pushWord_mems, State.logGuard_mems, State.soWord_mems]) h

theorem execSend_mems {w : Mem} {s t : State} (h : execSend w s = .next t) : t.mems = s.mems :=
  groupWord_mems (fun _ _ _ _ => by grind [State.guardMem_mems, State.pushOp_mems]) h

theorem execPref_mems {w : Mem} {s t : State} (h : execPref w s = .next t) : t.mems = s.mems := groupWord_mems (fun _ _ _ _ => rfl) h

theorem execFence_mems {w : Mem} {s t : State} (h : execFence w s = .next t) : t.mems = s.mems := groupWord_mems (fun _ _ _ _ => by simp) h

theorem atomWord_mems {opc : Nat} {fn : AtomOp} {w : Mem} {s t : State} (h : atomWord opc fn w s = .next t) : t.mems = s.mems :=
  groupWord_mems (fun _ _ _ _ => by grind [State.fence_mems, State.guardMem_mems, State.pushWord_mems, State.atomGuard_mems]) h

@[simp] theorem State.setHandle_mems (s : State) (gid f : Nat) (x3 : Word) (counts : Bool) : (s.setHandle gid f x3 counts).mems = s.mems := rfl

theorem State.startAop_mems {s : State} {gid : Nat} {g : Group} {f : Nat} {cls : BitVec 4} {counts : Bool} {kind : AKind} {stage : AStage}
    {t : State × Nat × Nat} (h : s.startAop gid g f cls counts kind stage = some t) : t.1.mems = s.mems := by
  grind [State.startAop, → State.allocFut_mems, State.newNum_mems, State.setHandle_mems]

@[simp] theorem State.waitFuture_mems (s : State) (gid : Nat) (second : Bool) : (s.waitFuture gid second).mems = s.mems := rfl

@[simp] theorem State.asyncWord_mems (s : State) (gid : Nat) (second : Bool) (g : Group) (f : Nat) (cls : BitVec 4) (counts : Bool) (kind : AKind)
    (stage : AStage) : (s.asyncWord gid second g f cls counts kind stage).mems = s.mems := by
  grind [State.asyncWord, → State.startAop_mems, State.waitFuture_mems]

@[simp] theorem State.asyncNow_mems (s : State) (gid : Nat) (second : Bool) (g : Group) (f : Nat) (cls : BitVec 4) (counts : Bool) (st : FutSt) :
    (s.asyncNow gid second g f cls counts st).mems = s.mems := by
  grind [State.asyncNow, → State.startAop_mems, State.resolve_mems, State.waitFuture_mems]

theorem execPub_mems {w : Mem} {s t : State} (h : execPub w s = .next t) : t.mems = s.mems := groupWord_mems (fun _ _ _ _ => by simp) h

theorem execPubr_mems {w : Mem} {s t : State} (h : execPubr w s = .next t) : t.mems = s.mems :=
  groupWord_mems (fun _ _ _ _ => by grind [State.asyncNow_mems, State.trapPlain_mems, → State.startAop_mems, State.waitFuture_mems,
    State.lodgeAfter_mems, State.modAop_mems]) h

theorem execInvr_mems {w : Mem} {s t : State} (h : execInvr w s = .next t) : t.mems = s.mems :=
  groupWord_mems (fun _ _ _ _ => by grind [State.pushOp_mems, State.invRange_mems]) h

theorem execZline_mems {w : Mem} {s t : State} (h : execZline w s = .next t) : t.mems = s.mems :=
  groupWord_mems (fun _ _ _ _ => by grind [State.trapRun_mems, State.parkRun_mems, State.logGuard_mems, State.pushWord_mems]) h

/-! Control (`Control`). -/

theorem ctlWord_mems {opc : Nat} {w : Ctl} {s t : State} {eff : Nat → Bool → Group → Run → State → State}
    (he : ∀ gid second g r, (eff gid second g r s).mems = s.mems) (h : ctlWord opc w s eff = .next t) : t.mems = s.mems := groupWord_mems he h

theorem wf_ctlWord {opc : Nat} {w : Ctl} {s t : State} {eff : Nat → Bool → Group → Run → State → State} (hs : s.mems.wf = true)
    (he : ∀ gid second g r, (eff gid second g r s).mems.wf = true) (h : ctlWord opc w s eff = .next t) : t.mems.wf = true := wf_groupWord hs he h

theorem ctlOnly_mems {opc : Nat} {w : Ctl} {s : State} {f : Group → Run → State → Group} {t : State} (h : ctlOnly opc w s f = .next t) :
    t.mems = s.mems := groupOnly_mems h

theorem execNop_mems {w : Ctl} {s t : State} (h : execNop w s = .next t) : t.mems = s.mems := ctlOnly_mems h

theorem execWait_mems {w : Ctl} {s t : State} (h : execWait w s = .next t) : t.mems = s.mems := ctlOnly_mems h

theorem execRjoin_mems {w : Ctl} {s t : State} (h : execRjoin w s = .next t) : t.mems = s.mems := ctlOnly_mems h

theorem execBr_mems {w : Ctl} {s t : State} (h : execBr w s = .next t) : t.mems = s.mems := ctlWord_mems (fun _ _ _ _ => rfl) h

theorem execBru_mems {w : Ctl} {s t : State} (h : execBru w s = .next t) : t.mems = s.mems := ctlWord_mems (fun _ _ _ _ => rfl) h

theorem execCall_mems {w : Ctl} {s t : State} (h : execCall w s = .next t) : t.mems = s.mems := ctlWord_mems (fun _ _ _ _ => rfl) h

@[simp] theorem State.waitCode_mems (s : State) (gid : Nat) (second : Bool) (g : Group) (ts : List Dword) :
    (s.waitCode gid second g ts).mems = s.mems := by simp [State.waitCode]

@[simp] theorem State.jumpBad_mems (s : State) (gid : Nat) (r : Run) (f : Nat → Nat) : (s.jumpBad gid r f).mems = s.mems := rfl

theorem jumpWord_mems {opc : Nat} {w : Ctl} {s t : State} (h : jumpWord opc w s = .next t) : t.mems = s.mems :=
  ctlWord_mems (fun _ _ _ _ => by grind [State.waitCode_mems, State.modRun_mems, State.jumpBad_mems, State.foldl_mems]) h

theorem execExit_mems {w : Ctl} {s t : State} (h : execExit w s = .next t) : t.mems = s.mems := ctlWord_mems (fun _ _ _ _ => rfl) h

theorem execTret_mems {w : Ctl} {s t : State} (h : execTret w s = .next t) : t.mems = s.mems :=
  ctlWord_mems (fun _ _ _ _ => by grind [State.trapPlain_mems, State.waitCode_mems, State.modRun_mems, State.jumpBad_mems]) h

@[simp] theorem State.mapSave_mems (s : State) (ctx addr len die : Nat) : (s.mapSave ctx addr len die).mems = s.mems := by
  grind [State.mapSave, State.lodge_mems, State.foldl_mems]

@[simp] theorem State.saveArea_mems (s : State) (ctx size die : Nat) : (s.saveArea ctx size die).2.mems = s.mems := by
  unfold State.saveArea
  split <;> simp

theorem State.wf_addGroup (s : State) (gid : Nat) (g : Group) (hs : s.mems.wf = true) : (s.addGroup gid g).mems.wf = true := by
  obtain ⟨hl, hc, hd, hf, hk⟩ := Mems.wf_iff.1 hs
  exact Mems.wf_iff.2 ⟨Memory.wf_clear _ _ _ hl, hc, hd, hf, hk⟩

theorem wf_execSpawn {w : Ctl} {s t : State} (hs : s.mems.wf = true) (h : execSpawn w s = .next t) : t.mems.wf = true :=
  wf_ctlWord hs (fun gid second g r => by
    dsimp only
    split
    · split
      · rw [State.modGrp_mems]
        exact State.wf_addGroup _ _ _ (by simpa using hs)
      · exact hs
    · exact hs) h

theorem execPause_mems {w : Ctl} {s t : State} (h : execPause w s = .next t) : t.mems = s.mems := ctlWord_mems (fun _ _ _ _ => rfl) h

theorem barWord_mems {opc : Nat} {sends : Bool} {w : Ctl} {s t : State} (h : barWord opc sends w s = .next t) : t.mems = s.mems :=
  ctlWord_mems (fun _ _ _ _ => by grind [State.trapPlain_mems, State.modRun_mems]) h

theorem execBar_mems {w : Ctl} {s t : State} (h : execBar w s = .next t) : t.mems = s.mems := barWord_mems h

theorem execSstep_mems {w : Ctl} {s t : State} (h : execSstep w s = .next t) : t.mems = s.mems := barWord_mems h

theorem execFtest_mems {w : Ctl} {s t : State} (h : execFtest w s = .next t) : t.mems = s.mems := ctlOnly_mems h

theorem execFmovg_mems {w : Ctl} {s t : State} (h : execFmovg w s = .next t) : t.mems = s.mems := ctlOnly_mems h

theorem execGmovf_mems {w : Ctl} {s t : State} (h : execGmovf w s = .next t) : t.mems = s.mems := ctlOnly_mems h

theorem execTrapOp_mems {w : Ctl} {s t : State} (h : execTrapOp w s = .next t) : t.mems = s.mems := ctlWord_mems (fun _ _ _ _ => rfl) h

theorem execBkpt_mems {w : Ctl} {s t : State} (h : execBkpt w s = .next t) : t.mems = s.mems := ctlWord_mems (fun _ _ _ _ => rfl) h

theorem execCsrr_mems {w : Ctl} {s t : State} (h : execCsrr w s = .next t) : t.mems = s.mems := ctlOnly_mems h

theorem State.startFlush_mems {s : State} {g : Group} {t : State} (h : s.startFlush g = some t) : t.mems = s.mems := by
  grind [State.startFlush, → State.allocFut_mems, State.newNum_mems, State.modCtx_mems]

@[simp] theorem State.csrWrite_mems (s : State) (gid : Nat) (second : Bool) (g : Group) (n : Nat) (x : Dword) :
    (s.csrWrite gid second g n x).mems = s.mems := by
  unfold State.csrWrite
  split
  case h_5 =>
    extract_lets s1
    split
    · split
      next hu => rw [State.startFlush_mems hu]; exact State.modCtx_mems _ _ _
      · simp
    · exact State.modCtx_mems _ _ _
  all_goals rfl

theorem execCsrw_mems {w : Ctl} {s t : State} (h : execCsrw w s = .next t) : t.mems = s.mems := ctlWord_mems (fun _ _ _ _ => by simp) h

theorem execTraceFlush_mems {w : Ctl} {s t : State} (h : execTraceFlush w s = .next t) : t.mems = s.mems := ctlWord_mems (fun _ _ _ _ => by simp) h

theorem execSqpostGroup_mems {w : Ctl} {s t : State} (h : execSqpostGroup w s = .next t) : t.mems = s.mems := ctlWord_mems (fun _ _ _ _ => rfl) h

theorem execSqwaitGroup_mems {w : Ctl} {s t : State} (h : execSqwaitGroup w s = .next t) : t.mems = s.mems :=
  ctlWord_mems (fun _ _ _ _ => by grind [State.modGrp_mems, State.modCl_mems]) h

/-! Translation (`Translate`). -/

theorem execTranslationWalk_mems {cluster leaf : Nat} {s t : State} (h : execTranslationWalk cluster leaf s = .next t) : t.mems = s.mems := by
  grind [execTranslationWalk, State.libWalk_mems]

theorem execLibFill_mems {cluster leaf : Nat} {s t : State} (h : execLibFill cluster leaf s = .next t) : t.mems = s.mems := by
  grind [execLibFill, State.libFillNow_mems, State.waitRead_mems, State.doneRead_mems]

@[simp] theorem State.lockLeaf_mems (s : State) (cl leaf : Nat) : (s.lockLeaf cl leaf).mems = s.mems := by unfold State.lockLeaf; split <;> simp

@[simp] theorem State.unlockLeaf_mems (s : State) (cl leaf : Nat) : (s.unlockLeaf cl leaf).mems = s.mems := rfl

theorem execTlock_mems {w : Ctl} {s t : State} (h : execTlock w s = .next t) : t.mems = s.mems :=
  ctlWord_mems (fun _ _ _ _ => by grind [State.modGrp_mems, State.trapPlain_mems, State.lockLeaf_mems, State.modBlock_mems, State.pushOp_mems,
    State.foldl_mems]) h

theorem execTlockFillLand_mems {op : Nat} {s t : State} (h : execTlockFillLand op s = .next t) : t.mems = s.mems := by
  grind [execTlockFillLand, State.modGrp_mems]

@[simp] theorem State.dropLock_mems (s : State) (bk base len : Nat) : (s.dropLock bk base len).mems = s.mems := by
  grind [State.dropLock, State.unlockLeaf_mems, State.modBlock_mems, State.foldl_mems]

theorem execTunlock_mems {w : Ctl} {s t : State} (h : execTunlock w s = .next t) : t.mems = s.mems := ctlWord_mems (fun _ _ _ _ => by simp) h

@[simp] theorem State.dropLocks_mems (s : State) (bk : Nat) : (s.dropLocks bk).mems = s.mems := by unfold State.dropLocks; split <;> simp

theorem execTprobe_mems {w : Ctl} {s t : State} (h : execTprobe w s = .next t) : t.mems = s.mems :=
  ctlWord_mems (fun _ _ _ _ => by grind [State.trapRun_mems, State.asyncWord_mems]) h

@[simp] theorem State.freeFrames_mems (s : State) (x1 : Table) : (s.freeFrames x1).mems = s.mems := by
  grind [State.freeFrames, State.modStack_mems, State.foldl_mems]

@[simp] theorem State.dropTable_mems (s : State) (c n : Nat) : (s.dropTable c n).mems = s.mems := by unfold State.dropTable; split <;> simp

@[simp] theorem State.freeChunks_mems (s : State) (o : AOp) (b : LandBlk) : (s.freeChunks o b).mems = s.mems := rfl

@[simp] theorem State.failPuts_mems (s : State) (o : AOp) : (s.failPuts o).mems = s.mems := by
  grind [State.failPuts, State.resolve_mems, State.sendMsg_mems, State.foldl_mems]

@[simp] theorem State.undoAop_mems (s : State) (o : AOp) : (s.undoAop o).mems = s.mems := by unfold State.undoAop; split <;> simp

@[simp] theorem State.endAop_mems (s : State) (n : Nat) (st : FutSt) : (s.endAop n st).mems = s.mems := by
  grind [State.endAop, State.resolve_mems, State.undoAop_mems]

theorem wf_execTprobeResult {op : Nat} {s t : State} (hs : s.mems.wf = true) (h : execTprobeResult op s = .next t) : t.mems.wf = true := by
  grind [execTprobeResult, State.endAop_mems, State.wf_padWriteBytes]

theorem execPageRequest_mems {die page : Nat} {s t : State} (h : execPageRequest die page s = .next t) : t.mems = s.mems := by grind [execPageRequest]

theorem State.appendTier_mems {s : State} {log die : Nat} {cap useRsv : Bool} {r : Rec} {t : State × Nat}
    (h : s.appendTier log die cap useRsv r = some t) : t.1.mems = s.mems := by
  grind [State.appendTier, → State.appendHere_mems, State.sealLog_mems, → State.takeCapSeg_mems, → State.takeSeg_mems]

theorem State.copyLines_mems {s : State} {log die : Nat} {cap : Bool} {kind : BitVec 2} {lks : List Nat} {t : State × List PLine}
    (h : s.copyLines log die cap kind lks = some t) : t.1.mems = s.mems := by
  induction lks generalizing s t with
  | nil => cases h; rfl
  | cons lk lks ih => grind [State.copyLines, → State.appendTier_mems]

@[simp] theorem State.startMig_mems (s : State) (pk : Nat) (m : Mig) : (s.startMig pk m).mems = s.mems := by
  grind [State.startMig, → State.copyLines_mems, State.tellSpace_mems, State.lodge_mems]

theorem execMigr_mems {w : Ctl} {s t : State} (h : execMigr w s = .next t) : t.mems = s.mems :=
  ctlWord_mems (fun _ _ _ _ => by grind [State.trapPlain_mems, State.asyncNow_mems, State.asyncWord_mems]) h

@[simp] theorem State.migrAdvance_mems (s : State) (op : Nat) : (s.migrAdvance op).mems = s.mems := by
  grind [State.migrAdvance, State.endAop_mems, State.modAop_mems]

@[simp] theorem State.migrPage_mems (s : State) (op pk : Nat) (cap : Bool) : (s.migrPage op pk cap).mems = s.mems := by
  grind [State.migrPage, State.endAop_mems, State.migrAdvance_mems, State.modAop_mems, State.startMig_mems]

theorem execPagePromote_mems {page : Nat} {s t : State} (h : execPagePromote page s = .next t) : t.mems = s.mems := by
  grind [execPagePromote, State.migrPage_mems, State.startMig_mems]

theorem execPageDemote_mems {stack page : Nat} {s t : State} (h : execPageDemote stack page s = .next t) : t.mems = s.mems := by
  grind [execPageDemote, State.migrPage_mems, State.startMig_mems]

@[simp] theorem State.seqEnd_mems (s : State) (cl : Nat) (c : Cause) (x3 : Option Trap) : (s.seqEnd cl c x3).mems = s.mems := rfl

@[simp] theorem State.seqTrapAt_mems (s : State) (cl : Nat) (c : Cause) (deferred : Bool) (wpc : Pc) (d0 : Dword) :
    (s.seqTrapAt cl c deferred wpc d0).mems = s.mems := by simp only [State.seqTrapAt]; repeat' split <;> simp

@[simp] theorem State.tellPeer_mems (s : State) (n : Nat) (m : QfMsg) (bad : Option Cause) : (s.tellPeer n m bad).mems = s.mems := by
  simp only [State.tellPeer]
  repeat' split <;> simp

@[simp] theorem State.wake_mems (s : State) (w : Waiter) (bad : Option Cause) : (s.wake w bad).mems = s.mems := by
  unfold State.wake
  split <;> grind [State.trapPlain_mems, State.modAop_mems, State.endAop_mems, State.setSlot_mems, State.seqTrapAt_mems, State.tellPeer_mems, State.sendMsg_mems]

@[simp] theorem State.dropPageLib_mems (s : State) (die pk : Nat) : (s.dropPageLib die pk).mems = s.mems := by
  grind [State.dropPageLib, State.modCl_mems, State.foldl_mems]

@[simp] theorem State.migNotice_mems (s : State) (die pk : Nat) (m : Mig) : (s.migNotice die pk m).mems = s.mems := by
  grind [State.migNotice, State.dropPageLib_mems, State.wake_mems, State.modDie_mems, State.endAop_mems, State.migrAdvance_mems, State.foldl_mems]

theorem execMigrationCommitNotice_mems {die page : Nat} {s t : State} (h : execMigrationCommitNotice die page s = .next t) : t.mems = s.mems := by
  grind [execMigrationCommitNotice, State.migNotice_mems]

theorem execFaultCancel_mems {die waiter : Nat} {s t : State} (h : execFaultCancel die waiter s = .next t) : t.mems = s.mems := by
  grind [execFaultCancel, State.wake_mems]

theorem execCounterEpochTick_mems {s t : State} (h : execCounterEpochTick s = .next t) : t.mems = s.mems := by
  grind [execCounterEpochTick, State.setStore_mems]

@[simp] theorem State.freshPage_mems (s : State) (pk : Nat) : (s.freshPage pk).mems = s.mems := by simp only [State.freshPage]; repeat' split <;> simp

theorem State.bringLines_mems {s : State} {h : PageHdr} {ctx : Nat} {xs : List (Nat × Line)} {t : State × List PLine}
    (ht : s.bringLines h ctx xs = some t) : t.1.mems = s.mems := by
  induction xs generalizing s t with
  | nil => cases ht; rfl
  | cons x xs ih => grind [State.bringLines, → State.appendTier_mems]

@[simp] theorem State.takePage_mems (s : State) (msg : Nat) (m : QfMsg) (ctx page : Nat) (lines : List (Nat × Line)) (x6 : PageHdr) :
    (s.takePage msg m ctx page lines x6).mems = s.mems := by
  grind [State.takePage, → State.bringLines_mems, State.tellSpace_mems, State.lodge_mems, State.sendMsg_mems, State.freshPage_mems]

@[simp] theorem State.givePage_mems (s : State) (peer : BitVec 12) (page : Nat) : (s.givePage peer page).mems = s.mems := by
  simp only [State.givePage]
  repeat' split <;> simp

theorem execPageTransfer_mems {page : Nat} {peer : BitVec 12} {s t : State} (h : execPageTransfer page peer s = .next t) : t.mems = s.mems := by
  grind [execPageTransfer, State.takePage_mems, State.freshPage_mems, State.sendMsg_mems]

/-! Issue (`Issue`). -/

@[simp] theorem State.arriveAt_mems (s : State) (key : Nat) (sc : Scope) (count : Nat) : (s.arriveAt key sc count).2.mems = s.mems := by
  simp only [State.arriveAt]
  repeat' split <;> simp

@[simp] theorem State.tellPeers_mems (s : State) (key count : Nat) : (s.tellPeers key count).mems = s.mems := by
  grind [State.tellPeers, State.sendMsg_mems, State.foldl_mems]

@[simp] theorem State.arriveAll_mems (s : State) (core : Nat) (as_ : List Arrive) : (s.arriveAll core as_).2.mems = s.mems :=
  List.foldlRecOn as_ _ (motive := fun p : List Nat × State => p.2.mems = s.mems) rfl (fun p hp a _ => by
    simp only
    split <;> simp [hp])

@[simp] theorem State.boundary_mems (s : State) (gid : Nat) : (s.boundary gid).mems = s.mems := by unfold State.boundary; split <;> simp

theorem execRunend_mems {w : Ctl} {s t : State} (h : execRunend w s = .next t) : t.mems = s.mems :=
  groupWord_mems (fun _ _ _ _ => by grind [State.modRun_mems, State.modGrp_mems, State.boundary_mems]) h

@[simp] theorem State.settleQueues_mems (s : State) (core : Nat) : (s.settleQueues core).mems = s.mems := by
  simp only [State.settleQueues]
  repeat' split <;> simp

@[simp] theorem State.startRuns_mems (s : State) (core gid : Nat) (g : Group) (e : Entry) (ws : List IWord) (is : Words) :
    (s.startRuns core gid g e ws is).mems = s.mems := by simp only [State.startRuns]; repeat' split <;> simp

theorem State.wf_startTrapNow (s : State) (core gid : Nat) (g : Group) (e : Entry) (x5 : Trap) (bp : Option Nat) (hs : s.mems.wf = true) :
    (s.startTrapNow core gid g e x5 bp).mems.wf = true := by grind [State.startTrapNow, State.newNum_mems, State.modGrp_mems, State.wf_sinkOrLose]

theorem execLanesReturn_mems {gid : Nat} {j : BitVec 3} {s t : State} (h : execLanesReturn gid j s = .next t) : t.mems = s.mems := by
  grind [execLanesReturn, State.setGrp_mems]

@[simp] theorem State.resumeRun_mems (s : State) (gid : Nat) (r : Run) : (s.resumeRun gid r).mems = s.mems := by
  grind [State.resumeRun, State.pushAcquire_mems, State.modRun_mems]

theorem execRunResume_mems {gid : Nat} {s t : State} (h : execRunResume gid s = .next t) : t.mems = s.mems := by
  unfold execRunResume at h
  split at h
  · cases h; rfl
  split at h
  · cases h; rfl
  dsimp only at h
  repeat' split at h
  all_goals cases h
  all_goals simp

theorem State.wf_arbitrate (s : State) (core : Nat) (hs : s.mems.wf = true) : (s.arbitrate core).mems.wf = true := by
  unfold State.arbitrate
  split
  · exact hs
  extract_lets s0 s1 s2
  have h1 : s1.mems = s.mems :=
    (State.foldl_mems (fun u p => by split <;> rfl) _ _).trans (State.settleQueues_mems _ _)
  have h2 : s2.mems.wf = true := by
    rw [State.foldl_mems (fun u p => by split <;> simp), h1]
    exact hs
  split
  · exact h2
  split
  · exact h2
  split
  · rw [State.startRuns_mems]; exact h2
  · exact State.wf_startTrapNow _ _ _ _ _ _ _ h2
  · exact h2

theorem wf_execRunArbitration {core : Nat} {s t : State} (hs : s.mems.wf = true) (h : execRunArbitration core s = .next t) : t.mems.wf = true := by
  grind [execRunArbitration, State.wf_arbitrate]

theorem execYieldExpire_mems {gid idx : Nat} {s t : State} (h : execYieldExpire gid idx s = .next t) : t.mems = s.mems := by
  grind [execYieldExpire, State.setGrp_mems]

theorem execBarrierRelease_mems {bar : Nat} {s t : State} (h : execBarrierRelease bar s = .next t) : t.mems = s.mems := by
  grind [execBarrierRelease, State.modGrp_mems, State.acquireAt_mems, State.foldl_mems]

@[simp] theorem State.dropWaiter_mems (s : State) (gid : Nat) : (s.dropWaiter gid).mems = s.mems := rfl

theorem execStall_mems {gid : Nat} {s t : State} (h : execStall gid s = .next t) : t.mems = s.mems := by
  grind [execStall, State.dropWaiter_mems, State.setGrp_mems]

@[simp] theorem State.failPubr_mems (s : State) (q : Nat) : (s.failPubr q).mems = s.mems := by simp [State.failPubr]

@[simp] theorem State.dropOp_mems (s : State) (n : Nat) (o : MemOp) : (s.dropOp n o).mems = s.mems := by
  simp only [State.dropOp]
  repeat' split <;> simp

@[simp] theorem State.starvedRun_mems (s : State) (gid : Nat) (g : Group) (r : Run) : (s.starvedRun gid g r).mems = s.mems := by
  grind [State.starvedRun, State.trapRun_mems, State.trapPlain_mems, State.withdraw_mems, State.dropOp_mems]

@[simp] theorem State.starvedReq_mems (s : State) (gid : Nat) : (s.starvedReq gid).mems = s.mems := by simp [State.starvedReq]

@[simp] theorem State.starvedAops_mems (s : State) (gid : Nat) : (s.starvedAops gid).mems = s.mems := by simp [State.starvedAops]

@[simp] theorem State.starvedHosts_mems (s : State) : s.starvedHosts.mems = s.mems := by simp [State.starvedHosts]

theorem execLogstallExpire_mems {gid : Nat} {s t : State} (h : execLogstallExpire gid s = .next t) : t.mems = s.mems := by
  grind [execLogstallExpire, State.starvedAops_mems, State.starvedHosts_mems, State.starvedReq_mems, State.starvedRun_mems]

@[simp] theorem State.failLaunch_mems (s : State) (launch block : Nat) (c : Cause) (stamp : Nat) :
    (s.failLaunch launch block c stamp).mems = s.mems := rfl

@[simp] theorem State.stopGroup_mems (s : State) (gid : Nat) (g : Group) (c : Cause) (stamp : Nat) : (s.stopGroup gid g c stamp).mems = s.mems := rfl

@[simp] theorem State.trapRecordOut_mems (s : State) (gid : Nat) (g : Group) (x3 : Trap) : (s.trapRecordOut gid g x3).mems = s.mems := by
  simp only [State.trapRecordOut]
  repeat' split <;> simp

theorem execTrapTake_mems {gid : Nat} {s t : State} (h : execTrapTake gid s = .next t) : t.mems = s.mems := by
  simp only [execTrapTake] at h
  repeat' split at h
  all_goals cases h
  all_goals simp

theorem execPreemptRequest_mems {gid : Nat} {s t : State} (h : execPreemptRequest gid s = .next t) : t.mems = s.mems := by
  grind [execPreemptRequest, State.setGrp_mems]

@[simp] theorem State.blockSaved_mems (s : State) (bk : Nat) : (s.blockSaved bk).mems = s.mems := by grind [State.blockSaved, State.modBlock_mems]

theorem execGroupSave_mems {gid : Nat} {s t : State} (h : execGroupSave gid s = .next t) : t.mems = s.mems := by
  grind [execGroupSave, State.setGrp_mems, State.lodgeBytes_mems, State.blockSaved_mems]

theorem execGroupRestore_mems {gid core : Nat} {s t : State} (h : execGroupRestore gid core s = .next t) : t.mems = s.mems := by
  grind [execGroupRestore, State.setGrp_mems, State.acquire_mems, State.modBlock_mems]

@[simp] theorem State.endBlock_mems (s : State) (bk : Nat) : (s.endBlock bk).mems = s.mems := by simp only [State.endBlock]; repeat' split <;> simp

theorem execGroupEnd_mems {gid : Nat} {s t : State} (h : execGroupEnd gid s = .next t) : t.mems = s.mems := by
  grind [execGroupEnd, State.endBlock_mems]

/-! The tree (`Tree`). -/

theorem State.buildNode_mems {s : State} {c : Nat} {touch : Nat → Nat → Bool} {l addr : Nat} {old : Option Nat} {t : State × Option Nat}
    (h : s.buildNode c touch l addr old = some t) : t.1.mems = s.mems := by
  induction l generalizing s addr old t with
  | zero =>
    delta State.buildNode at h
    dsimp only [Nat.brecOn.go, Nat.rec_zero, State.buildNode._f] at h
    grind [→ State.append_mems, State.setStore_mems]
  | succ l ih =>
    delta State.buildNode at h
    dsimp only [State.buildNode._f] at h
    split at h
    · cases h; rfl
    split at h
    · cases h; rfl
    split at h
    · cases h
    next u ws hf =>
    have hu : u.mems = s.mems := foldl_some_keeps (fun q : State × List (Option Nat) => q.1.mems) (fun _ => rfl)
      (fun q i r hq => by
        dsimp only at hq
        split at hq
        · cases hq
        next v w hv =>
        cases hq
        exact ih (t := (v, w)) (by delta State.buildNode; exact hv)) hf
    grind [→ State.append_mems]

theorem State.appendRoot_mems {s : State} {c : Nat} {d0 d1 : Line} {t : State × Nat} (h : s.appendRoot c d0 d1 = some t) : t.1.mems = s.mems := by
  have both (u : State) (r0 r1 : Rec) (k0 : Nat) (k1 : State → Nat) (v : State × Nat) (hv : (match u.appendHere 0 r0 k0 with
      | none => none
      | some (u, p) => (u.appendHere 0 r1 (k1 u)).map (fun q => (q.1, p))) = some v) : v.1.mems = u.mems := by
    split at hv
    · cases hv
    next w p hw =>
    obtain ⟨q, hq, rfl⟩ := Option.map_eq_some_iff.1 hv
    exact (State.appendHere_mems hq).trans (State.appendHere_mems hw)
  unfold State.appendRoot at h
  dsimp only at h
  split at h
  next x hx =>
    cases h
    exact both _ _ _ _ (fun u => u.heldUnits 0) _ hx
  next =>
    obtain ⟨u, hu, hv⟩ := Option.bind_eq_some_iff.1 h
    rw [both _ _ _ _ (fun u => u.heldUnits 0) _ hv, State.takeSeg_mems hu, State.sealLog_mems]

theorem State.buildHalf_mems {s : State} {c : Nat} {touch : Nat → Nat → Bool} {base : Nat} {od : Option Line} {t : State × List (Option Nat)}
    (h : s.buildHalf c touch base od = some t) : t.1.mems = s.mems :=
  foldl_some_keeps (fun q : State × List (Option Nat) => q.1.mems) (fun _ => rfl) (fun q i r hq => by grind [→ State.buildNode_mems]) h

theorem State.syncTree_mems {s : State} {c : Nat} {touch : Nat → Nat → Bool} {t : State} (h : s.syncTree c touch = some t) : t.mems = s.mems := by
  unfold State.syncTree at h
  split at h
  · cases h
  extract_lets root o0 o1 at h
  split at h
  · cases h
  next u w0 h0 =>
  split at h
  · cases h
  next v w1 h1 =>
  have hv : v.mems = s.mems := (State.buildHalf_mems h1).trans (State.buildHalf_mems h0)
  extract_lets d0 d1 at h
  split at h
  · cases h; exact hv
  · obtain ⟨q, hq, rfl⟩ := Option.map_eq_some_iff.1 h
    simp [State.appendRoot_mems hq, hv]

theorem execLeafWriteback_mems {leaf : Nat} {s t : State} (h : execLeafWriteback leaf s = .next t) : t.mems = s.mems := by
  unfold execLeafWriteback at h
  split at h
  · cases h; rfl
  split at h
  · cases h; exact getD_keeps State.mems (fun _ => State.syncTree_mems)
  · cases h; rfl

@[simp] theorem State.loadTree_mems (s : State) (c root : Nat) : (s.loadTree c root).mems = s.mems := rfl

theorem State.rootWithout63_mems {s : State} {c root : Nat} {t : State × Nat} (h : s.rootWithout63 c root = some t) : t.1.mems = s.mems := by
  grind [State.rootWithout63, → State.appendRoot_mems]

theorem State.rootCarry63_mems {s : State} {c cur root : Nat} {t : State × Nat} (h : s.rootCarry63 c cur root = some t) : t.1.mems = s.mems := by
  grind [State.rootCarry63, → State.appendRoot_mems]

/-! The cleaner (`Cleaner`). -/

@[simp] theorem State.shootdown_mems (s : State) (seg : Nat) : (s.shootdown seg).mems = s.mems := by
  grind [State.shootdown, State.libDrop_mems, State.coreDrop_mems, State.foldl_mems]

@[simp] theorem State.shootCtx_mems (s : State) (c : Nat) : (s.shootCtx c).mems = s.mems := by
  grind [State.shootCtx, State.libDrop_mems, State.coreDrop_mems, State.foldl_mems]

theorem execLibsd_mems {w : Ctl} {s t : State} (h : execLibsd w s = .next t) : t.mems = s.mems :=
  ctlWord_mems (fun _ _ _ _ => by grind [State.asyncWord_mems, State.trapPlain_mems]) h

theorem execShootdown_mems {op : Nat} {s t : State} (h : execShootdown op s = .next t) : t.mems = s.mems := by
  grind [execShootdown, State.endAop_mems, State.shootdown_mems]

@[simp] theorem State.setSnap_mems (s : State) (c n : Nat) (x : Snap) : (s.setSnap c n x).mems = s.mems := rfl

theorem execSnap_mems {w : Ctl} {s t : State} (h : execSnap w s = .next t) : t.mems = s.mems :=
  ctlWord_mems (fun _ _ _ _ => by grind [State.asyncNow_mems, → State.startAop_mems, State.waitFuture_mems, State.lodgeAfter_mems,
    State.modAop_mems]) h

@[simp] theorem State.askRevoke_mems (s : State) (c : Nat) : (s.askRevoke c).mems = s.mems := by
  grind [State.askRevoke, State.modPub_mems, State.foldl_mems]

@[simp] theorem State.tellSlots_mems (s : State) (c : Nat) : (s.tellSlots c).mems = s.mems := by
  grind [State.tellSlots, State.sendMsg_mems, State.setSnap_mems, State.foldl_mems]

theorem State.sealKeep_mems {s : State} {log : Nat} {t : State} (h : s.sealKeep log = some t) : t.mems = s.mems := by
  grind [State.sealKeep, State.sealLog_mems, → State.takeSeg_mems]

@[simp] theorem State.takeCut_mems (s : State) (op : Nat) (o : AOp) (n : Nat) : (s.takeCut op o n).mems = s.mems := by
  unfold State.takeCut
  dsimp only
  split
  · rfl
  next u root peers h =>
  obtain ⟨q, hq, hs⟩ := Option.bind_eq_some_iff.1 h
  obtain ⟨v, hv, hr⟩ := Option.bind_eq_some_iff.1 hq
  have hq1 : q.1.mems = s.mems := (State.rootWithout63_mems hr).trans (State.syncTree_mems hv)
  have hu : u.mems = q.1.mems := by
    split at hs
    · cases hs; rfl
    · obtain ⟨w, hw, e⟩ := Option.map_eq_some_iff.1 hs
      cases e
      exact foldl_bind_keeps State.mems (fun _ _ _ => State.sealKeep_mems) hw
  simp [hu, hq1]

theorem execSnapshotCut_mems {op : Nat} {s t : State} (h : execSnapshotCut op s = .next t) : t.mems = s.mems := by
  grind [execSnapshotCut, State.endAop_mems, State.modCtx_mems, State.setSnap_mems, State.modAop_mems, State.askRevoke_mems, State.takeCut_mems]

@[simp] theorem State.dropSlot_mems (s : State) (c n op : Nat) : (s.dropSlot c n op).mems = s.mems := by unfold State.dropSlot; split <;> simp

@[simp] theorem State.dropSlots_mems (s : State) (c : Nat) : (s.dropSlots c).mems = s.mems := by
  grind [State.dropSlots, State.dropSlot_mems, State.foldl_mems]

theorem execSnapdrop_mems {w : Ctl} {s t : State} (h : execSnapdrop w s = .next t) : t.mems = s.mems :=
  ctlWord_mems (fun _ _ _ _ => by grind [State.asyncNow_mems, → State.startAop_mems, State.waitFuture_mems, State.dropSlot_mems,
    State.setSnap_mems]) h

theorem execRootsw_mems {w : Ctl} {s t : State} (h : execRootsw w s = .next t) : t.mems = s.mems :=
  ctlWord_mems (fun _ _ _ _ => by grind [State.trapPlain_mems, State.asyncWord_mems]) h

theorem execRollback_mems {op : Nat} {s t : State} (h : execRollback op s = .next t) : t.mems = s.mems := by
  unfold execRollback at h
  split at h
  · cases h; rfl
  split at h
  · dsimp only at h
    split at h
    · cases h; simp
    split at h
    · cases h; rfl
    next u root hu =>
    obtain ⟨v, hv, hr⟩ := Option.bind_eq_some_iff.1 hu
    cases h
    simpa using (State.rootCarry63_mems hr).trans (State.syncTree_mems hv)
  · cases h; rfl

theorem State.cleanAppend_mems {s : State} {seg : Nat} {r : Rec} {t : State × Nat} (h : s.cleanAppend seg r = some t) : t.1.mems = s.mems := by
  grind [State.cleanAppend, → State.appendTier_mems]

theorem State.moveFrag_mems {s : State} {seg pos : Nat} {m : BitVec 8} {t : State × Nat × BitVec 4} (h : s.moveFrag seg pos m = some t) :
    t.1.mems = s.mems := by
  unfold State.moveFrag at h
  split at h
  · cases h
  · obtain ⟨q, hq, rfl⟩ := Option.map_eq_some_iff.1 h
    exact State.cleanAppend_mems hq

theorem State.moveEntry_mems {s : State} {seg : Nat} {e : IxEntry} {t : State × IxEntry} (h : s.moveEntry seg e = some t) : t.1.mems = s.mems := by
  have frag (b : Bool) (u : State) (e : IxEntry) (pos : Nat) (m : BitVec 8) (f : State × Nat × BitVec 4 → IxEntry) (v : State × IxEntry)
      (hv : (if b then (u.moveFrag seg pos m).map (fun q => (q.1, f q)) else some (u, e)) = some v) : v.1.mems = u.mems := by
    split at hv
    · obtain ⟨q, hq, rfl⟩ := Option.map_eq_some_iff.1 hv
      exact State.moveFrag_mems hq
    · cases hv; rfl
  unfold State.moveEntry at h
  dsimp only at h
  split at h
  · cases h
  next u e' hu => exact (frag _ _ _ _ _ _ _ h).trans (frag _ _ _ _ _ _ _ hu)

theorem State.moveNodeRec_mems {s : State} {seg pos : Nat} {d : Line} {t : State × Nat} (h : s.moveNodeRec seg pos d = some t) : t.1.mems = s.mems := by
  grind [State.moveNodeRec, → State.cleanAppend_mems]

theorem State.moveNode_mems {s : State} {seg : Nat} {data : Bool} {l p : Nat} {t : State × Nat} (h : s.moveNode seg data l p = some t) :
    t.1.mems = s.mems := by
  induction l generalizing s p t with
  | zero =>
    delta State.moveNode at h
    dsimp only [Nat.brecOn.go, Nat.rec_zero, State.moveNode._f] at h
    split at h
    · cases h; rfl
    split at h
    · cases h; rfl
    split at h
    · cases h
    next u es hf =>
    have hu : u.mems = s.mems := foldl_bind_keeps (fun q : State × List IxEntry => q.1.mems)
      (fun q i r hq => by
        split at hq
        · obtain ⟨z, hz, rfl⟩ := Option.map_eq_some_iff.1 hq
          exact State.moveEntry_mems hz
        · cases hq; rfl) hf
    exact (State.moveNodeRec_mems h).trans hu
  | succ l ih =>
    delta State.moveNode at h
    dsimp only [State.moveNode._f] at h
    split at h
    · cases h; rfl
    split at h
    · cases h; rfl
    split at h
    · cases h
    next u es hf =>
    have hu : u.mems = s.mems := foldl_bind_keeps (fun q : State × List (Option Nat) => q.1.mems)
      (fun q i r hq => by
        split at hq
        · cases hq; rfl
        · obtain ⟨z, hz, rfl⟩ := Option.map_eq_some_iff.1 hq
          exact ih (by delta State.moveNode; exact hz)) hf
    exact (State.moveNodeRec_mems h).trans hu

theorem State.moveRoot_mems {s : State} {seg : Nat} {data : Bool} {root : Nat} {t : State × Nat} (h : s.moveRoot seg data root = some t) :
    t.1.mems = s.mems := by
  unfold State.moveRoot at h
  extract_lets half at h
  have hhalf (u : State) (p : Nat) (v : State × Line) (hv : half u p = some v) : v.1.mems = u.mems := by
    simp only [half] at hv
    split at hv
    · cases hv
    obtain ⟨q, hq, rfl⟩ := Option.map_eq_some_iff.1 hv
    exact foldl_bind_keeps (fun q : State × List (Option Nat) => q.1.mems) (fun q i r hr => by
      split at hr
      · cases hr; rfl
      · obtain ⟨z, hz, rfl⟩ := Option.map_eq_some_iff.1 hr
        exact State.moveNode_mems hz) hq
  split at h
  · cases h
  next u d0 h0 =>
  split at h
  · cases h
  next v d1 h1 =>
  have hv : v.mems = s.mems := (hhalf _ _ _ h1).trans (hhalf _ _ _ h0)
  extract_lets both at h
  have hboth (w : State) (x : State × Nat) (hx : both w = some x) : x.1.mems = w.mems := by
    obtain ⟨a, ha, hb⟩ := Option.bind_eq_some_iff.1 hx
    obtain ⟨b, hb', hc⟩ := Option.bind_eq_some_iff.1 hb
    split at hc
    · cases hc; exact (State.moveNodeRec_mems hb').trans (State.moveNodeRec_mems ha)
    · cases hc
  split at h
  next x hx => cases h; exact (hboth _ _ hx).trans hv
  next => rw [hboth _ _ h, State.sealLog_mems, hv]

theorem State.moveLines_mems {s : State} {seg : Nat} {xs : List (Nat × Nat × BitVec 8)} {t : State × List PLine} (h : s.moveLines seg xs = some t) :
    t.1.mems = s.mems := by
  induction xs generalizing s t with
  | nil => cases h; rfl
  | cons x xs ih => grind [State.moveLines, → State.moveFrag_mems]

theorem State.repoint_mems {s : State} {seg c : Nat} {slot : Option Nat} {root : Nat} {t : State} (h : s.repoint seg c slot root = some t) :
    t.mems = s.mems := by
  obtain ⟨q, hq, rfl⟩ := Option.map_eq_some_iff.1 h
  dsimp only
  split <;> simp [State.moveRoot_mems hq]

@[simp] theorem State.freeSeg_mems (s : State) (stack seg : Nat) : (s.freeSeg stack seg).mems = s.mems := by simp [State.freeSeg]

@[simp] theorem State.selectSeg_mems (s : State) (stack seg : Nat) : (s.selectSeg stack seg).mems = s.mems := rfl

theorem execCleanSegment_mems {stack seg : Nat} {s t : State} (h : execCleanSegment stack seg s = .next t) : t.mems = s.mems := by
  have hrep (c slot root) : ((s.repoint seg c slot root).getD s).mems = s.mems := getD_keeps State.mems (fun _ => State.repoint_mems)
  grind [execCleanSegment, State.selectSeg_mems, → State.moveLines_mems, State.lodge_mems, State.freeSeg_mems, State.modStack_mems]

@[simp] theorem State.shipTo_mems (s : State) (seg c m : Nat) (g : Seg) : (s.shipTo seg c m g).mems = s.mems := rfl

theorem execSegmentShip_mems {seg : Nat} {s t : State} (h : execSegmentShip seg s = .next t) : t.mems = s.mems := by
  grind [execSegmentShip, State.shipTo_mems, State.foldl_mems]

@[simp] theorem State.refuseSeg_mems (s : State) (msg seg c : Nat) : (s.refuseSeg msg seg c).mems = s.mems := rfl

@[simp] theorem State.replayPub_mems (s : State) (ms : List (Nat × QfMsg)) (c key : Nat) (id : BitVec 32) : (s.replayPub ms c key id).mems = s.mems := by
  simp only [State.replayPub]
  repeat' split <;> simp

theorem execReplicaSegmentReceive_mems {msg : Nat} {s t : State} (h : execReplicaSegmentReceive msg s = .next t) : t.mems = s.mems := by
  simp only [execReplicaSegmentReceive] at h
  repeat' split at h
  all_goals cases h
  all_goals simp

@[simp] theorem State.segAckIn_mems (s : State) (peer : BitVec 12) (seg c : Nat) : (s.segAckIn peer seg c).mems = s.mems := by simp [State.segAckIn]

@[simp] theorem State.snapSlotIn_mems (s : State) (c n : Nat) : (s.snapSlotIn c n).mems = s.mems := rfl

/-! Vector words (`Vector`). -/

theorem laneWord_mems {opc : Nat} {w : Alu} {s : State} {f : Group → Nat → LaneRes} {t : State} (h : laneWord opc w s f = .next t) :
    t.mems = s.mems := groupOnly_mems h

theorem laneWord32_mems {opc : Nat} {w : Alu} {s : State} {f : Group → Nat → LaneRes} {t : State} (h : laneWord32 opc w s f = .next t) :
    t.mems = s.mems := groupOnly_mems h

theorem uniWord_mems {opc : Nat} {w : Alu} {s : State} {f : Group → Lanes → Regs} {t : State} (h : uniWord opc w s f = .next t) : t.mems = s.mems :=
  groupOnly_mems h

theorem intWord_mems {opc : Nat} {w : Alu} {s : State} {f : Group → Nat → Int} {t : State} (h : intWord opc w s f = .next t) : t.mems = s.mems :=
  laneWord_mems h

theorem bitsWord_mems {opc : Nat} {w : Alu} {s : State} {f : Group → Nat → Nat} {t : State} (h : bitsWord opc w s f = .next t) : t.mems = s.mems :=
  laneWord_mems h

theorem carryWord_mems {opc : Nat} {sub : Bool} {w : Alu} {s t : State} (h : carryWord opc sub w s = .next t) : t.mems = s.mems := groupOnly_mems h

theorem execPopc_mems {w : Alu} {s t : State} (h : execPopc w s = .next t) : t.mems = s.mems := laneWord32_mems h

theorem execClz_mems {w : Alu} {s t : State} (h : execClz w s = .next t) : t.mems = s.mems := laneWord32_mems h

theorem execIcmp_mems {w : Alu} {s t : State} (h : execIcmp w s = .next t) : t.mems = s.mems := groupOnly_mems h

theorem execFcmp_mems {w : Alu} {s t : State} (h : execFcmp w s = .next t) : t.mems = s.mems := groupOnly_mems h

theorem execClop_mems {w : Alu} {s t : State} (h : execClop w s = .next t) : t.mems = s.mems := groupOnly_mems h

theorem execMovc_mems {w : Alu} {s t : State} (h : execMovc w s = .next t) : t.mems = s.mems := groupOnly_mems h

theorem fltWord_mems {opc : Nat} {w : Alu} {s : State} {f : Group → Nat → FRes} {t : State} (h : fltWord opc w s f = .next t) : t.mems = s.mems :=
  laneWord_mems h

theorem pkWord_mems {opc : Nat} {w : Alu} {s : State} {f : Group → Nat → Nat → FRes} {t : State} (h : pkWord opc w s f = .next t) : t.mems = s.mems :=
  laneWord_mems h

theorem execPkadd_mems {w : Alu} {s t : State} (h : execPkadd w s = .next t) : t.mems = s.mems := pkWord_mems h

theorem execPksub_mems {w : Alu} {s t : State} (h : execPksub w s = .next t) : t.mems = s.mems := pkWord_mems h

theorem execPkmul_mems {w : Alu} {s t : State} (h : execPkmul w s = .next t) : t.mems = s.mems := pkWord_mems h

theorem execPkfma_mems {w : Alu} {s t : State} (h : execPkfma w s = .next t) : t.mems = s.mems := pkWord_mems h

theorem execPkmin_mems {w : Alu} {s t : State} (h : execPkmin w s = .next t) : t.mems = s.mems := pkWord_mems h

theorem execPkmax_mems {w : Alu} {s t : State} (h : execPkmax w s = .next t) : t.mems = s.mems := pkWord_mems h

theorem execUnpk2_mems {w : Alu} {s t : State} (h : execUnpk2 w s = .next t) : t.mems = s.mems := groupOnly_mems h

theorem exchange_mems {opc : Nat} {w : Alu} {s : State} {f : Group → Nat → Int} {t : State} (h : exchange opc w s f = .next t) : t.mems = s.mems :=
  groupOnly_mems h

theorem execVall_mems {w : Alu} {s t : State} (h : execVall w s = .next t) : t.mems = s.mems := uniWord_mems h

theorem execVany_mems {w : Alu} {s t : State} (h : execVany w s = .next t) : t.mems = s.mems := uniWord_mems h

theorem execVbal_mems {w : Alu} {s t : State} (h : execVbal w s = .next t) : t.mems = s.mems := uniWord_mems h

theorem execVfirst_mems {w : Alu} {s t : State} (h : execVfirst w s = .next t) : t.mems = s.mems := uniWord_mems h

theorem seedWord_mems {opc : Nat} {k : Seed} {w : Alu} {s t : State} (h : seedWord opc k w s = .next t) : t.mems = s.mems := fltWord_mems h

theorem gWord_mems {opc : Nat} {w : Alu} {s : State} {f : Group → Dword} {t : State} (h : gWord opc w s f = .next t) : t.mems = s.mems :=
  uniWord_mems h

theorem execGcmp_mems {w : Alu} {s t : State} (h : execGcmp w s = .next t) : t.mems = s.mems := uniWord_mems h

theorem execKlop_mems {w : Alu} {s t : State} (h : execKlop w s = .next t) : t.mems = s.mems := uniWord_mems h

theorem execV2g_mems {w : Alu} {s t : State} (h : execV2g w s = .next t) : t.mems = s.mems := uniWord_mems h

theorem execG2v_mems {w : Alu} {s t : State} (h : execG2v w s = .next t) : t.mems = s.mems := laneWord32_mems h

/-! The loop unit (`LoopUnit`). -/

@[simp] theorem State.loopBeat_mems (s : State) (core : Nat) : (s.loopBeat core).mems = s.mems := by
  simp only [State.loopBeat]
  repeat' split <;> simp

theorem State.wf_loopPiece (s : State) (core owner part : Nat) (x4 : List RowUse) (seq : Nat) (x : Piece) (seen : Nat) (go : Bool)
    (hs : s.mems.wf = true) : (s.loopPiece core owner part x4 seq x seen go).1.mems.wf = true := by
  grind [State.loopPiece, State.wf_servePiece]

theorem State.wf_loopSrcs (s : State) (core owner arr part : Nat) (t : List RowUse) (seq : Nat) (xs : List (Piece × Nat)) (hs : s.mems.wf = true) :
    (s.loopSrcs core owner arr part t seq xs).1.mems.wf = true := by
  induction xs generalizing s part t seq with
  | nil => exact hs
  | cons x xs ih => exact ih _ _ _ _ (State.wf_loopPiece s core owner part t seq x.1 x.2 _ hs)

theorem State.wf_loopElems (s : State) (core owner arr : Nat) (t : List RowUse) (seq : Nat) (xs : List LoopElem) (hs : s.mems.wf = true) :
    (s.loopElems core owner arr t seq xs).1.mems.wf = true := by
  induction xs generalizing s t seq with
  | nil => exact hs
  | cons x xs ih => exact ih _ _ _ (State.wf_loopSrcs s core owner arr 0 t seq _ hs)

theorem State.wf_loopOuts (s : State) (core owner arr : Nat) (t : List RowUse) (seq : Nat) (xs : List LoopOut) (hs : s.mems.wf = true) :
    (s.loopOuts core owner arr t seq xs).1.mems.wf = true := by
  induction xs generalizing s t seq with
  | nil => exact hs
  | cons x xs ih => exact ih _ _ _ (State.wf_loopPiece s core owner 3 t seq x.acc x.seen _ hs)

theorem State.wf_loopServe (s : State) (core arr : Nat) (t : List RowUse) (hs : s.mems.wf = true) : (s.loopServe core arr t).1.mems.wf = true := by
  unfold State.loopServe
  split
  · exact hs
  · exact State.wf_loopOuts _ _ _ _ _ _ _ (State.wf_loopElems _ _ _ _ _ _ _ hs)

theorem execLoopn_mems {w : Loop} {s t : State} (h : execLoopn w s = .next t) : t.mems = s.mems :=
  groupWord_mems (fun _ _ _ _ => by grind [State.trapRun_mems, State.newNum_mems, State.modGrp_mems, State.modCore_mems]) h

theorem execLoopnStart_mems {core : Nat} {s t : State} (h : execLoopnStart core s = .next t) : t.mems = s.mems := by
  grind [execLoopnStart, State.modCore_mems]

theorem execLoopnComplete_mems {core : Nat} {s t : State} (h : execLoopnComplete core s = .next t) : t.mems = s.mems := by
  grind [execLoopnComplete, State.modGrp_mems, State.modCore_mems]

/-! The slots (`Piccolo`). -/

@[simp] theorem State.stopSlot_mems (s : State) (core : Nat) (st : FutSt) : (s.stopSlot core st).mems = s.mems := by
  simp only [State.stopSlot]
  repeat' split <;> simp

@[simp] theorem State.flushSlot_mems (s : State) (core : Nat) : (s.flushSlot core).mems = s.mems := by simp [State.flushSlot]

@[simp] theorem State.unbindSlot_mems (s : State) (core : Nat) : (s.unbindSlot core).mems = s.mems := by simp [State.unbindSlot]

theorem execBindingEnd_mems {core : Nat} {s t : State} (h : execBindingEnd core s = .next t) : t.mems = s.mems := by
  grind [execBindingEnd, State.settleQueues_mems, State.setSlot_mems]

theorem execPload_mems {w : Ctl} {s t : State} (h : execPload w s = .next t) : t.mems = s.mems :=
  ctlWord_mems (fun _ _ _ _ => by grind [State.trapPlain_mems, State.trapRun_mems, State.parkRun_mems, State.soWord_mems, State.pushOp_mems]) h

theorem execPstart_mems {w : Ctl} {s t : State} (h : execPstart w s = .next t) : t.mems = s.mems :=
  ctlWord_mems (fun _ _ _ _ => by grind [State.trapPlain_mems, → State.startAop_mems, State.waitFuture_mems, State.setSlot_mems, State.modAop_mems]) h

theorem execPstop_mems {w : Ctl} {s t : State} (h : execPstop w s = .next t) : t.mems = s.mems :=
  ctlWord_mems (fun _ _ _ _ => by grind [State.trapPlain_mems, State.stopSlot_mems, State.flushSlot_mems]) h

theorem queueRead_mems {opc : Nat} {pop : Bool} {w : Ctl} {s t : State} (h : queueRead opc pop w s = .next t) : t.mems = s.mems :=
  ctlWord_mems (fun _ _ _ _ => by grind [State.trapPlain_mems, State.setSlot_mems, State.modGrp_mems]) h

theorem execQpop_mems {w : Ctl} {s t : State} (h : execQpop w s = .next t) : t.mems = s.mems := queueRead_mems h

theorem execQpeek_mems {w : Ctl} {s t : State} (h : execQpeek w s = .next t) : t.mems = s.mems := queueRead_mems h

theorem execQstat_mems {w : Ctl} {s t : State} (h : execQstat w s = .next t) : t.mems = s.mems := ctlOnly_mems h

@[simp] theorem State.ploadPut_mems (s : State) (n : Nat) (o : MemOp) (g : Group) (first i : Nat) (x : Part) :
    (s.ploadPut n o g first i x).mems = s.mems := by unfold State.ploadPut; split <;> simp

theorem execPiccoloRunBegin_mems {core : Nat} {s t : State} (h : execPiccoloRunBegin core s = .next t) : t.mems = s.mems := by
  grind [execPiccoloRunBegin, State.acquire_mems, State.setSlot_mems]

@[simp] theorem State.failSlot_mems (s : State) (core : Nat) (c : Cause) : (s.failSlot core c).mems = s.mems := by simp [State.failSlot]

@[simp] theorem State.nextUop_mems (s : State) (core : Nat) (k : Slot) : (s.nextUop core k).mems = s.mems := by unfold State.nextUop; split <;> simp

theorem uop_mems {s t : State} {f : Nat → Slot → State → State} (hf : ∀ core k, (f core k s).mems = s.mems) (h : uop s f = .next t) :
    t.mems = s.mems := by
  unfold uop at h
  split at h
  · dsimp only at h
    split at h <;> cases h
    · exact hf _ _
    · rfl
  · cases h

theorem execCntset_mems {e3 e2 e1 e0 : BitVec 14} {s t : State} (h : execCntset e3 e2 e1 e0 s = .next t) : t.mems = s.mems :=
  uop_mems (fun _ _ => by simp) h

theorem execAgset_mems {n p : BitVec 2} {s3 s2 s1 s0 : BitVec 13} {s t : State} (h : execAgset n p s3 s2 s1 s0 s = .next t) : t.mems = s.mems :=
  uop_mems (fun _ _ => by simp) h

@[simp] theorem State.parkSlot_mems (s : State) (core : Nat) (k : Slot) (pg : Nat) : (s.parkSlot core k pg).mems = s.mems := rfl

theorem execPiccoloSld_mems {r : BitVec 3} {n : BitVec 2} {sp : PicSpace} {sz : BitVec 2} {s t : State} (h : execPiccoloSld r n sp sz s = .next t) :
    t.mems = s.mems := uop_mems (fun _ _ => by grind [State.failSlot_mems, State.parkSlot_mems, State.nextUop_mems]) h

theorem execDq_mems {d r fmt : BitVec 3} {s t : State} (h : execDq d r fmt s = .next t) : t.mems = s.mems :=
  uop_mems (fun _ _ => by grind [State.nextUop_mems]) h

theorem execTrn_mems {s t : State} (h : execTrn s = .next t) : t.mems = s.mems := uop_mems (fun _ _ => by grind [State.nextUop_mems]) h

theorem execPush_mems {q r : BitVec 3} {s t : State} (h : execPush q r s = .next t) : t.mems = s.mems :=
  uop_mems (fun _ _ => by grind [State.settleQueues_mems, State.nextUop_mems]) h

theorem execNextOp_mems {top lo : BitVec 2} {target : BitVec 7} {s t : State} (h : execNextOp top lo target s = .next t) : t.mems = s.mems :=
  uop_mems (fun _ _ => by grind [State.failSlot_mems, State.setSlot_mems, State.nextUop_mems]) h

theorem execEndOp_mems {s t : State} (h : execEndOp s = .next t) : t.mems = s.mems := uop_mems (fun _ _ => by simp) h

@[simp] theorem State.sldWrite_mems (s : State) (core r v : Nat) : (s.sldWrite core r v).mems = s.mems := by
  simp only [State.sldWrite]
  repeat' split <;> simp

@[simp] theorem State.modSld_mems (s : State) (core r : Nat) (f : SlotLoad → SlotLoad) : (s.modSld core r f).mems = s.mems := rfl

@[simp] theorem State.sldReply_mems (s : State) (core r handle : Nat) (d : Line) : (s.sldReply core r handle d).mems = s.mems := by
  simp only [State.sldReply]
  repeat' split <;> simp

@[simp] theorem State.sldGl_mems (s : State) (core r : Nat) (k : Slot) (x : SlotLoad) (remote : Bool) : (s.sldGl core r k x remote).mems = s.mems := by
  grind [State.sldGl, State.modSld_mems, State.sendMsg_mems, State.clusterLoad_mems, State.sldWrite_mems]

theorem State.wf_sldServe (s : State) (core arr : Nat) (t : List RowUse) (hs : s.mems.wf = true) : (s.sldServe core arr t).1.mems.wf = true :=
  List.foldlRecOn _ _ (motive := fun p : State × List RowUse => p.1.mems.wf = true) hs (fun p hp x _ => State.wf_servePieces p.1 core _ arr p.2 x.pieces hp)

theorem execPiccoloSldReturn_mems {core r : Nat} {s t : State} (h : execPiccoloSldReturn core r s = .next t) : t.mems = s.mems := by
  grind [execPiccoloSldReturn, State.failSlot_mems, State.parkSlot_mems, State.sldGl_mems, State.sldWrite_mems]

/-! The sequencer (`Sequencer`). -/

@[simp] theorem State.seqStep_mems (s : State) (cl : Nat) (pc : Pc) : (s.seqStep cl pc).mems = s.mems := rfl

/-- The memories of the state that a sequencer word gives are m. -/
def SeqRes.HasMems (m : Mems) : SeqRes → Prop
  | .wait => True
  | .go s => s.mems = m
  | .jump s _ => s.mems = m
  | .park s => s.mems = m
  | .trap s _ _ => s.mems = m
  | .stop => True

theorem seqWord_mems {b : Body} {s t : State} {f : Nat → Seq → SeqRes} (hf : ∀ cl q, (f cl q).HasMems s.mems) (h : seqWord b s f = .next t) :
    t.mems = s.mems := by
  unfold seqWord at h
  split at h
  case h_2 => cases h
  next cl _ =>
  have hr := hf cl (s.seqOf cl)
  dsimp only at h
  split at h
  · cases h; rfl
  split at h
  · cases h; simp
  split at h
  · cases h; rfl
  split at h
  all_goals cases h
  all_goals simp_all [SeqRes.HasMems]

theorem seqSet_mems {opc : Nat} {w : Ctl} {s : State} {f : Seq → Dword} {t : State} (h : seqSet opc w s f = .next t) : t.mems = s.mems :=
  seqWord_mems (fun _ _ => by grind [SeqRes.HasMems, State.modSeq_mems]) h

theorem seqAlu_mems {opc : Nat} {w : Ctl} {s : State} {f : Dword → Dword → Dword} {t : State} (h : seqAlu opc w s f = .next t) : t.mems = s.mems :=
  seqSet_mems h

theorem execSadd_mems {w : Ctl} {s t : State} (h : execSadd w s = .next t) : t.mems = s.mems := seqAlu_mems h

theorem execSsub_mems {w : Ctl} {s t : State} (h : execSsub w s = .next t) : t.mems = s.mems := seqAlu_mems h

theorem execSmul_mems {w : Ctl} {s t : State} (h : execSmul w s = .next t) : t.mems = s.mems := seqAlu_mems h

theorem execSand_mems {w : Ctl} {s t : State} (h : execSand w s = .next t) : t.mems = s.mems := seqAlu_mems h

theorem execSor_mems {w : Ctl} {s t : State} (h : execSor w s = .next t) : t.mems = s.mems := seqAlu_mems h

theorem execSxor_mems {w : Ctl} {s t : State} (h : execSxor w s = .next t) : t.mems = s.mems := seqAlu_mems h

theorem execSshl_mems {w : Ctl} {s t : State} (h : execSshl w s = .next t) : t.mems = s.mems := seqAlu_mems h

theorem execSshr_mems {w : Ctl} {s t : State} (h : execSshr w s = .next t) : t.mems = s.mems := seqAlu_mems h

theorem execSmov_mems {w : Ctl} {s t : State} (h : execSmov w s = .next t) : t.mems = s.mems := seqSet_mems h

theorem execSmovi_mems {w : Ctl} {s t : State} (h : execSmovi w s = .next t) : t.mems = s.mems := seqSet_mems h

theorem execScmp_mems {w : Ctl} {s t : State} (h : execScmp w s = .next t) : t.mems = s.mems := seqAlu_mems h

theorem execScsrr_mems {w : Ctl} {s t : State} (h : execScsrr w s = .next t) : t.mems = s.mems := seqSet_mems h

theorem execSbr_mems {w : Ctl} {s t : State} (h : execSbr w s = .next t) : t.mems = s.mems :=
  seqWord_mems (fun cl q => by
    dsimp only
    split
    · rfl
    · split <;> rfl) h

theorem execSjmp_mems {w : Ctl} {s t : State} (h : execSjmp w s = .next t) : t.mems = s.mems :=
  seqWord_mems (fun _ _ => by grind [SeqRes.HasMems, State.modSeq_mems]) h

@[simp] theorem State.seqAccess_mems (s : State) (cl : Nat) (w : Ctl) (load : Bool) (sp : Space) (a : Nat) (data : Dword) :
    (s.seqAccess cl w load sp a data).mems = s.mems := rfl

theorem seqMem_mems {opc : Nat} {load : Bool} {w : Ctl} {s t : State} (h : seqMem opc load w s = .next t) : t.mems = s.mems :=
  seqWord_mems (fun _ _ => by grind [SeqRes.HasMems, State.addWaiter_mems, State.seqAccess_mems]) h

theorem execSld_mems {w : Ctl} {s t : State} (h : execSld w s = .next t) : t.mems = s.mems := seqMem_mems h

theorem execSst_mems {w : Ctl} {s t : State} (h : execSst w s = .next t) : t.mems = s.mems := seqMem_mems h

@[simp] theorem State.setSeqAcc_mems (s : State) (cl k : Nat) (x : SeqAcc) : (s.setSeqAcc cl k x).mems = s.mems := rfl

theorem State.wf_seqServe (s : State) (cl arr : Nat) (t : List RowUse) (hs : s.mems.wf = true) : (s.seqServe cl arr t).1.mems.wf = true :=
  List.foldlRecOn _ _ (motive := fun p : State × List RowUse => p.1.mems.wf = true) hs (fun p hp a _ => by
    dsimp only
    split
    · simpa using State.wf_servePiece p.1 (seqCore cl) a.1 0 p.2 a.2.acc hp
    · exact hp)

theorem execSeqSstPerform_mems {cluster idx : Nat} {s t : State} (h : execSeqSstPerform cluster idx s = .next t) : t.mems = s.mems := by
  grind [execSeqSstPerform, State.modSeq_mems]

@[simp] theorem State.seqLand_mems (s : State) (cl k : Nat) (x : SeqAcc) (v : Nat) : (s.seqLand cl k x v).mems = s.mems := rfl

@[simp] theorem State.seqReply_mems (s : State) (cl k : Nat) (d : Line) : (s.seqReply cl k d).mems = s.mems := by
  grind [State.seqReply, State.seqLand_mems]

@[simp] theorem State.seqGl_mems (s : State) (cl k : Nat) (q : Seq) (x : SeqAcc) : (s.seqGl cl k q x).mems = s.mems := by
  grind [State.seqGl, State.setSeqAcc_mems, State.sendMsg_mems, State.clusterLoad_mems, State.seqLand_mems]

theorem execSeqSldReturn_mems {cluster reg : Nat} {s t : State} (h : execSeqSldReturn cluster reg s = .next t) : t.mems = s.mems := by
  grind [execSeqSldReturn, State.seqGl_mems, State.seqLand_mems]

theorem execSqpostSeq_mems {w : Ctl} {s t : State} (h : execSqpostSeq w s = .next t) : t.mems = s.mems :=
  seqWord_mems (fun _ _ => by grind [SeqRes.HasMems, State.modCl_mems]) h

theorem execSqwaitSeq_mems {w : Ctl} {s t : State} (h : execSqwaitSeq w s = .next t) : t.mems = s.mems :=
  seqWord_mems (fun _ _ => by grind [SeqRes.HasMems, State.modSeq_mems, State.modCl_mems]) h

theorem execSwaitpx_mems {w : Ctl} {s t : State} (h : execSwaitpx w s = .next t) : t.mems = s.mems :=
  seqWord_mems (fun cl q => by
    split
    · rfl
    · trivial) h

theorem execSexit_mems {w : Ctl} {s t : State} (h : execSexit w s = .next t) : t.mems = s.mems :=
  seqWord_mems (f := fun _ _ => .stop) (fun _ _ => trivial) h

@[simp] theorem State.seqAcquire_mems (s : State) (cl ctx : Nat) : (s.seqAcquire cl ctx).mems = s.mems := rfl

theorem execStreamStart_mems {cluster : Nat} {s t : State} (h : execStreamStart cluster s = .next t) : t.mems = s.mems := by
  grind [execStreamStart, → State.allocFut_mems, State.newNum_mems, State.modCl_mems, State.modSeq_mems, State.seqAcquire_mems]

@[simp] theorem State.streamResolve_mems (s : State) (cl : Nat) : (s.streamResolve cl).mems = s.mems := by
  simp only [State.streamResolve]
  repeat' split <;> simp

@[simp] theorem State.dropSave_mems (s : State) (cl bk : Nat) (k : SeqSave) : (s.dropSave cl bk k).mems = s.mems := by
  unfold State.dropSave
  split <;> simp

theorem execStreamHandleResolve_mems {cluster : Nat} {s t : State} (h : execStreamHandleResolve cluster s = .next t) : t.mems = s.mems := by
  grind [execStreamHandleResolve, State.dropSave_mems, State.seqEnd_mems, State.streamResolve_mems, State.foldl_mems]

theorem execSeqTrap_mems {cluster : Nat} {s t : State} (h : execSeqTrap cluster s = .next t) : t.mems = s.mems := by
  grind [execSeqTrap, State.lodgeBytes_mems, State.modSeq_mems, State.failLaunch_mems]

theorem execSeqStall_mems {cluster : Nat} {s t : State} (h : execSeqStall cluster s = .next t) : t.mems = s.mems := by
  grind [execSeqStall, State.seqTrapAt_mems]

@[simp] theorem State.askSeqCode_mems (s : State) (cl : Nat) : (s.askSeqCode cl).mems = s.mems := by grind [State.askSeqCode, State.sendMsg_mems]

/-! Module parts (`Parts`). -/

theorem pxWord_mems {opc : Nat} {w : Ctl} {s t : State} (h : pxWord opc w s = .next t) : t.mems = s.mems :=
  seqWord_mems (fun _ _ => by grind [SeqRes.HasMems, State.newNum_mems, State.modSeq_mems]) h

theorem execPxstat_mems {w : Ctl} {s t : State} (h : execPxstat w s = .next t) : t.mems = s.mems :=
  seqWord_mems (fun _ _ => by grind [SeqRes.HasMems, State.modCl_mems, State.modSeq_mems]) h

theorem State.wf_pxServe (s : State) (cl arr : Nat) (t : List RowUse) (hs : s.mems.wf = true) : (s.pxServe cl arr t).1.mems.wf = true :=
  List.foldlRecOn _ _ (motive := fun p : State × List RowUse => p.1.mems.wf = true) hs (fun p hp i _ => by
    dsimp only
    split
    · exact hp
    split
    · exact hp
    · exact State.wf_servePieces _ _ _ _ _ _ (State.wf_servePieces _ _ _ _ _ _ hp))

theorem execPxOpStart_mems {cluster : Nat} {s t : State} (h : execPxOpStart cluster s = .next t) : t.mems = s.mems := by
  grind [execPxOpStart, State.seqTrapAt_mems, State.modSeq_mems]

@[simp] theorem State.pxEffect_mems (s : State) (cl : Nat) (o : PxOp) : (s.pxEffect cl o).1.mems = s.mems := by
  grind [State.pxEffect, State.modCl_mems]

theorem execPxOpComplete_mems {cluster idx : Nat} {s t : State} (h : execPxOpComplete cluster idx s = .next t) : t.mems = s.mems := by
  grind [execPxOpComplete, State.pxEffect_mems, State.modSeq_mems, State.seqTrapAt_mems]

theorem execSeqSave_mems {cluster : Nat} {s t : State} (h : execSeqSave cluster s = .next t) : t.mems = s.mems := by
  grind [execSeqSave, State.lodgeBytes_mems, State.modSeq_mems, State.setCl_mems, State.blockSaved_mems]

theorem execSeqRestore_mems {cluster blk : Nat} {s t : State} (h : execSeqRestore cluster blk s = .next t) : t.mems = s.mems := by
  grind [execSeqRestore, State.setCl_mems, State.seqAcquire_mems, State.modBlock_mems]

/-! Copies (`Copy`). -/

@[simp] theorem State.readHome_mems (s : State) (lk : Nat) (who : Reader) : (s.readHome lk who).2.mems = s.mems := by
  unfold State.readHome
  split <;> simp

@[simp] theorem State.grabLine_mems (s : State) (n : Nat) (o : AOp) (home : Bool) (a : Nat) : (s.grabLine n o home a).mems = s.mems := by
  grind [State.grabLine, State.modAop_mems, State.sendMsg_mems, State.readHome_mems, State.clusterLoad_mems, State.libWalk_mems]

@[simp] theorem State.engineFetch_mems (s : State) (n : Nat) (home : Bool) (rs : List (Nat × Nat)) : (s.engineFetch n home rs).2.mems = s.mems := by
  grind [State.engineFetch, State.grabLine_mems, State.foldl_mems]

theorem State.shadowLine_mems {s : State} {n log : Nat} {x : PLine} {t : State} (h : s.shadowLine n log x = some t) : t.mems = s.mems := by
  grind [State.shadowLine, → State.appendAll_mems, State.modAop_mems]

@[simp] theorem State.shadowAll_mems (s : State) (n log ctx : Nat) (ps : List (Nat × List Byte)) : (s.shadowAll n log ctx ps).1.mems = s.mems := by
  induction ps generalizing s with
  | nil => rfl
  | cons p ps ih =>
    rw [State.shadowAll]
    split
    · rfl
    next u hu => exact (ih u).trans (foldl_bind_keeps State.mems (fun _ _ _ => State.shadowLine_mems) hu)

@[simp] theorem State.appendOuts_mems (s : State) (n log : Nat) (o : AOp) : (s.appendOuts n log o).mems = s.mems := by
  simp only [State.appendOuts]
  repeat' split <;> simp

@[simp] theorem State.lodgeShadow_mems (s : State) (n log : Nat) (o : AOp) : (s.lodgeShadow n log o).mems = s.mems := rfl

@[simp] theorem State.parkAop_mems (s : State) (n : Nat) (o : AOp) (page : Nat) : (s.parkAop n o page).mems = s.mems := rfl

theorem copyWord_mems {opc : Nat} {w : Ctl} {s t : State} (h : copyWord opc w s = .next t) : t.mems = s.mems :=
  ctlWord_mems (fun _ _ _ _ => by grind [State.trapPlain_mems, State.trapRun_mems, State.asyncWord_mems]) h

@[simp] theorem State.padFetch_mems (s : State) (n : Nat) (o : AOp) (sp : Space) (rs : List (Nat × Nat)) : (s.padFetch n o sp rs).2.mems = s.mems := by
  grind [State.padFetch, State.modAop_mems]

theorem State.wf_aopServe (s : State) (n arr : Nat) (t : List RowUse) (hs : s.mems.wf = true) : (s.aopServe n arr t).1.mems.wf = true := by
  unfold State.aopServe
  split <;> simp [State.wf_servePieces, State.modAop_mems, hs]

@[simp] theorem State.copyPut_mems (s : State) (n : Nat) (o : AOp) (c : CopyOp) (srcs : List (List Byte)) : (s.copyPut n o c srcs).mems = s.mems :=
  rfl

@[simp] theorem State.copyRow_mems (s : State) (n : Nat) (o : AOp) (c : CopyOp) : (s.copyRow n o c).mems = s.mems := by
  grind [State.copyRow, State.endAop_mems, State.parkAop_mems, State.engineFetch_mems, State.padFetch_mems, State.copyPut_mems]

@[simp] theorem State.putOuts_mems (s : State) (n : Nat) (o : AOp) (c : CopyOp) : (s.putOuts n o c).mems = s.mems := by
  unfold State.putOuts
  split <;> simp

@[simp] theorem State.copyStat_mems (s : State) (n : Nat) (o : AOp) (c : CopyOp) : (s.copyStat n o c).mems = s.mems := by
  unfold State.copyStat
  split <;> simp

@[simp] theorem State.copyStep_mems (s : State) (n : Nat) (o : AOp) (c : CopyOp) : (s.copyStep n o c).mems = s.mems := by
  grind [State.copyStep, State.putOuts_mems, State.copyRow_mems, State.copyStat_mems, State.lodgeShadow_mems, State.endAop_mems]

theorem execCopyOpStart_mems {cluster : Nat} {s t : State} (h : execCopyOpStart cluster s = .next t) : t.mems = s.mems := by
  grind [execCopyOpStart, State.libDiscard_mems, State.modAop_mems]

theorem execCopyOpComplete_mems {op : Nat} {s t : State} (h : execCopyOpComplete op s = .next t) : t.mems = s.mems := by
  grind [execCopyOpComplete, State.copyStep_mems, State.endAop_mems]

/-! Queries (`Query`). -/

@[simp] theorem State.setTable_mems (s : State) (c n : Nat) (x3 : Table) : (s.setTable c n x3).mems = s.mems := rfl

theorem execTload_mems {w : Ctl} {s t : State} (h : execTload w s = .next t) : t.mems = s.mems :=
  ctlWord_mems (fun _ _ _ _ => by grind [State.trapRun_mems, → State.startAop_mems, State.waitFuture_mems, State.setTable_mems]) h

theorem State.wf_tloadPut (s : State) (n : Nat) (o : AOp) (tab : Nat) (bs : List Byte) (hs : s.mems.wf = true) :
    (s.tloadPut n o tab bs).mems.wf = true := by
  unfold State.tloadPut
  dsimp only
  split
  · simpa using hs
  · refine State.wf_foldl (fun u k hu => ?_) _ hs
    obtain ⟨hl, hc, hd, hf, hk⟩ := Mems.wf_iff.1 hu
    exact Mems.wf_iff.2 ⟨hl, hc, hd, Memory.wf_writeBytes _ _ _ (Memory.wf_clear _ _ _ hf), hk⟩

theorem State.wf_tloadStep (s : State) (n : Nat) (o : AOp) (tab image : Nat) (cm : Bool) (hs : s.mems.wf = true) :
    (s.tloadStep n o tab image cm).mems.wf = true := by
  grind [State.tloadStep, State.endAop_mems, State.parkAop_mems, State.padFetch_mems, State.engineFetch_mems, State.wf_tloadPut]

theorem wf_execTloadComplete {op : Nat} {s t : State} (hs : s.mems.wf = true) (h : execTloadComplete op s = .next t) : t.mems.wf = true := by
  grind [execTloadComplete, State.libDiscard_mems, State.modAop_mems, State.wf_tloadStep, State.endAop_mems, State.setTable_mems]

theorem execTfree_mems {w : Ctl} {s t : State} (h : execTfree w s = .next t) : t.mems = s.mems :=
  ctlWord_mems (fun _ _ _ _ => by grind [State.trapRun_mems, → State.startAop_mems, State.waitFuture_mems,
    State.setTable_mems]) h

theorem execTfreeComplete_mems {op : Nat} {s t : State} (h : execTfreeComplete op s = .next t) : t.mems = s.mems := by
  grind [execTfreeComplete, State.setTable_mems, State.endAop_mems, State.dropTable_mems]

theorem tqWord_mems {opc : Nat} {two : Bool} {w : Ctl} {s t : State} (h : tqWord opc two w s = .next t) : t.mems = s.mems :=
  ctlWord_mems (fun _ _ _ _ => by grind [State.trapRun_mems, State.newNum_mems, State.tally_mems, State.modRun_mems, State.modGrp_mems]) h

theorem execTq_mems {w : Ctl} {s t : State} (h : execTq w s = .next t) : t.mems = s.mems := tqWord_mems h

theorem execTq2_mems {w : Ctl} {s t : State} (h : execTq2 w s = .next t) : t.mems = s.mems := tqWord_mems h

@[simp] theorem State.touchChan_mems (s : State) (k : Nat) : (s.touchChan k).mems = s.mems := rfl

theorem execTqPacketServe_mems {pkt : Nat} {s t : State} (h : execTqPacketServe pkt s = .next t) : t.mems = s.mems := by
  grind [execTqPacketServe, State.modDie_mems, State.touchChan_mems]

theorem execTqReply_mems {pkt : Nat} {s t : State} (h : execTqReply pkt s = .next t) : t.mems = s.mems := by grind [execTqReply, State.modGrp_mems]

theorem execTmap_mems {w : Ctl} {s t : State} (h : execTmap w s = .next t) : t.mems = s.mems :=
  ctlWord_mems (fun _ _ _ _ => by grind [State.trapRun_mems, State.asyncNow_mems, State.asyncWord_mems]) h

@[simp] theorem State.tmapStep_mems (s : State) (n : Nat) (o : AOp) (tab base len : Nat) (half : Bool) (rsh : Nat) :
    (s.tmapStep n o tab base len half rsh).mems = s.mems := by
  grind [State.tmapStep, State.appendOuts_mems, State.lodgeShadow_mems, State.endAop_mems, State.parkAop_mems, State.engineFetch_mems,
    State.modAop_mems]

theorem execTmapComplete_mems {op : Nat} {s t : State} (h : execTmapComplete op s = .next t) : t.mems = s.mems := by
  grind [execTmapComplete, State.lodge_mems, State.modAop_mems, State.tmapStep_mems, State.endAop_mems]

/-! Landing (`Landing`). -/

theorem landWord_mems {opc : Nat} {w : Ctl} {s : State} {kind : Nat → Bool → AKind} {t : State} (h : landWord opc w s kind = .next t) :
    t.mems = s.mems := ctlWord_mems (fun _ _ _ _ => by grind [State.trapRun_mems, State.asyncWord_mems]) h

theorem execLandr_mems {w : Ctl} {s t : State} (h : execLandr w s = .next t) : t.mems = s.mems := landWord_mems h

theorem execLandcArm_mems {w : Ctl} {s t : State} (h : execLandcArm w s = .next t) : t.mems = s.mems := landWord_mems h

theorem execLandcPut_mems {w : Ctl} {s t : State} (h : execLandcPut w s = .next t) : t.mems = s.mems := landWord_mems h

@[simp] theorem State.landPre_mems (s : State) (n : Nat) (o : AOp) (base len : Nat) : (s.landPre n o base len).mems = s.mems := rfl

@[simp] theorem State.landBegin_mems (s : State) (n : Nat) (role : LandRole) (bs : List Byte) : (s.landBegin n role bs).mems = s.mems := by
  unfold State.landBegin
  dsimp only
  split <;> simp

@[simp] theorem State.landAccept_mems (s : State) (n : Nat) (o : AOp) (role : LandRole) (b : LandBlk) : (s.landAccept n o role b).mems = s.mems := by
  unfold State.landAccept
  split <;> simp

@[simp] theorem State.landTable_mems (s : State) (n : Nat) (o : AOp) (b : LandBlk) : (s.landTable n o b).mems = s.mems := by
  grind [State.landTable, State.endAop_mems, State.parkAop_mems, State.engineFetch_mems, State.landPre_mems, State.modAop_mems]

@[simp] theorem State.landPrepared_mems (s : State) (n : Nat) (o : AOp) (b : LandBlk) : (s.landPrepared n o b).mems = s.mems := by
  simp only [State.landPrepared]
  repeat' split <;> simp

theorem execLandOpStart_mems {op : Nat} {s t : State} (h : execLandOpStart op s = .next t) : t.mems = s.mems := by
  simp only [execLandOpStart] at h
  repeat' split at h
  all_goals cases h
  all_goals simp

theorem execArmReserve_mems {stack : Nat} {s t : State} (h : execArmReserve stack s = .next t) : t.mems = s.mems := by
  grind [execArmReserve, State.newFree_mems, State.modAop_mems, State.modStack_mems]

@[simp] theorem State.touchBufs_mems (s : State) (o : AOp) (ranks : List Nat) (c : Nat) : (s.touchBufs o ranks c).mems = s.mems := by
  grind [State.touchBufs, State.touchChan_mems, State.foldl_mems]

@[simp] theorem State.chunkIn_mems (s : State) (arm : Nat) (id : List Byte) (b : LandBlk) (c : Nat) (bs : List Byte) :
    (s.chunkIn arm id b c bs).mems = s.mems := by unfold State.chunkIn; split <;> simp

@[simp] theorem State.putAck_mems (s : State) (n c : Nat) (bad : Option Cause) : (s.putAck n c bad).mems = s.mems := by
  grind [State.putAck, State.endAop_mems, State.modAop_mems]

@[simp] theorem State.putChunk_mems (s : State) (n : Nat) (o : AOp) (b : LandBlk) (bs : List Byte) : (s.putChunk n o b bs).mems = s.mems := by
  grind [State.putChunk, State.modAop_mems, State.endAop_mems, State.putAck_mems, State.chunkIn_mems, State.sendMsg_mems]

@[simp] theorem State.peerChunk_mems (s : State) (msg : Nat) : (s.peerChunk msg).mems = s.mems := by
  grind [State.peerChunk, State.sendMsg_mems, State.chunkIn_mems]

theorem execChunkAccept_mems {op : Nat} {s t : State} (h : execChunkAccept op s = .next t) : t.mems = s.mems := by
  simp only [execChunkAccept] at h
  split at h
  · cases h; simp
  split at h
  · split at h
    · cases h; simp
    · cases h; simp
    split at h
    next hf => cases h; exact (congrArg (·.2.mems) hf).symm.trans (State.engineFetch_mems s op true _)
    next hf => cases h; exact (State.putChunk_mems ..).trans ((congrArg (·.2.mems) hf).symm.trans (State.engineFetch_mems s op true _))
  · cases h; rfl

theorem execPutRetry_mems {op : Nat} {s t : State} (h : execPutRetry op s = .next t) : t.mems = s.mems := by grind [execPutRetry, State.modAop_mems]

@[simp] theorem State.landSources_mems (s : State) (n : Nat) (o : AOp) (role : LandRole) (b : LandBlk) (c : Nat) :
    (s.landSources n o role b c).2.mems = s.mems := by unfold State.landSources; split <;> simp

@[simp] theorem State.landChunk_mems (s : State) (n : Nat) (o : AOp) (b : LandBlk) (srcs : List (List Byte)) :
    (s.landChunk n o b srcs).mems = s.mems := by unfold State.landChunk; split <;> simp

@[simp] theorem State.landAppend_mems (s : State) (n : Nat) (o : AOp) (b : LandBlk) : (s.landAppend n o b).mems = s.mems := by simp [State.landAppend]

@[simp] theorem State.landOut_mems (s : State) (n : Nat) (o : AOp) (b : LandBlk) : (s.landOut n o b).mems = s.mems := by
  simp only [State.landOut]
  repeat' split <;> simp

@[simp] theorem State.landStep_mems (s : State) (n : Nat) (o : AOp) (role : LandRole) (b : LandBlk) : (s.landStep n o role b).mems = s.mems := by
  grind [State.landStep, State.landAppend_mems, State.landOut_mems, State.endAop_mems, State.parkAop_mems, State.landSources_mems,
    State.landChunk_mems]

@[simp] theorem State.landFlag_mems (s : State) (n : Nat) (o : AOp) (b : LandBlk) : (s.landFlag n o b).mems = s.mems := by
  simp only [State.landFlag]
  repeat' split <;> simp

@[simp] theorem State.landFlagStep_mems (s : State) (n : Nat) (o : AOp) (b : LandBlk) (q : Nat) : (s.landFlagStep n o b q).mems = s.mems := by
  grind [State.landFlagStep, State.endAop_mems, State.atomicAt_mems]

theorem execLandPublish_mems {op : Nat} {s t : State} (h : execLandPublish op s = .next t) : t.mems = s.mems := by
  grind [execLandPublish, State.landStep_mems, State.landFlag_mems, State.landFlagStep_mems]

/-! Cancellation (`Cancel`). -/

@[simp] theorem State.letGo_mems (s : State) (p : Nat) (x : PLine) : (s.letGo p x).mems = s.mems := by
  grind [State.letGo, State.sendMsg_mems, State.serveQueue_mems, State.setPrep_mems, State.endHold_mems]

@[simp] theorem State.abandonPub_mems (s : State) (p : Nat) : (s.abandonPub p).mems = s.mems := by unfold State.abandonPub; split <;> simp

theorem State.stopReq_mems {s : State} {r : Nat} {t : State} (h : s.stopReq r = some t) : t.mems = s.mems := by
  grind [State.stopReq, State.withdraw_mems, State.abandonPub_mems]

@[simp] theorem State.leaveReq_mems (s : State) (r : Nat) : (s.leaveReq r).mems = s.mems := by unfold State.leaveReq; split <;> simp

@[simp] theorem State.cancelAop_mems (s : State) (n : Nat) : (s.cancelAop n).mems = s.mems := by
  grind [State.cancelAop, State.resolve_mems, State.modAop_mems, State.stopSlot_mems, → State.cancelReq_mems, State.endAop_mems, → State.stopReq_mems,
    State.leaveReq_mems]

theorem execFcancel_mems {w : Ctl} {s t : State} (h : execFcancel w s = .next t) : t.mems = s.mems :=
  ctlWord_mems (fun _ _ _ _ => by grind [State.cancelAop_mems]) h

@[simp] theorem State.cancelAll_mems (s : State) (c : Nat) : (s.cancelAll c).mems = s.mems := by unfold State.cancelAll; split <;> simp

/-! Command queues (`Command`). -/

@[simp] theorem State.cpAsk_mems (s : State) (ctx a : Nat) : (s.cpAsk ctx a).mems = s.mems := by simp only [State.cpAsk]; repeat' split <;> simp

theorem State.cpRead_mems {s t : State} {ctx a n : Nat} (h : s.cpRead ctx a n = .wait t) : t.mems = s.mems := by
  unfold State.cpRead at h
  dsimp only at h
  split at h
  · cases h
  split at h
  · cases h
  · cases h; simp

@[simp] theorem State.raise_mems (s : State) (v : Nat) : (s.raise v).mems = s.mems := rfl

@[simp] theorem State.queueErr_mems (s : State) (q : Nat) (c : Cause) (seq : BitVec 32) : (s.queueErr q c seq).mems = s.mems := rfl

@[simp] theorem State.dropHeld_mems (s : State) : s.dropHeld.mems = s.mems := rfl

@[simp] theorem State.packetDone_mems (s : State) (q : Nat) : (s.packetDone q).mems = s.mems := rfl

@[simp] theorem State.readSlot_mems (s : State) (q : Nat) : (s.readSlot q).2.mems = s.mems := by simp only [State.readSlot]; repeat' split <;> simp

@[simp] theorem State.acceptPacket_mems (s : State) (q : Nat) (b : BitVec 512) : (s.acceptPacket q b).mems = s.mems := rfl

@[simp] theorem State.runSignals_mems (s : State) (q ctx : Nat) (gs : List Signal) : (s.runSignals q ctx gs).1.mems = s.mems := by
  induction gs with
  | nil => rfl
  | cons g gs ih =>
    rw [State.runSignals]
    split
    · split
      · exact ih
      · rfl
    · split
      · rfl
      · simp

@[simp] theorem State.queueStep_mems (s : State) (q : Nat) : (s.queueStep q).mems = s.mems := by simp [State.queueStep]

theorem execPacketRead_mems {q : BitVec 6} {s t : State} (h : execPacketRead q s = .next t) : t.mems = s.mems := by
  grind [execPacketRead, State.queueStep_mems, State.queueErr_mems, State.readSlot_mems, State.acceptPacket_mems, State.modCq_mems]

theorem execPacketReread_mems {q : BitVec 6} {s t : State} (h : execPacketReread q s = .next t) : t.mems = s.mems := by
  grind [execPacketReread, State.readSlot_mems, State.acceptPacket_mems, State.queueErr_mems, State.modCq_mems]

theorem queuePacket_mems {s t : State} {f : Nat → Nat → State → State} (hf : ∀ q ctx, (f q ctx s).mems = s.mems) (h : queuePacket s f = .next t) :
    t.mems = s.mems := by
  unfold queuePacket at h
  split at h <;> cases h
  exact hf _ _

theorem execBarrier_mems {s t : State} (h : execBarrier s = .next t) : t.mems = s.mems := queuePacket_mems (fun _ _ => rfl) h

theorem execSignal_mems {val addr : BitVec 64} {s t : State} (h : execSignal val addr s = .next t) : t.mems = s.mems :=
  queuePacket_mems (fun _ _ => rfl) h

theorem execCancel_mems {byLaunch byRange : Bool} {launch : BitVec 16} {base len : BitVec 64} {s t : State}
    (h : execCancel byLaunch byRange launch base len s = .next t) : t.mems = s.mems := queuePacket_mems (fun _ _ => rfl) h

@[simp] theorem State.dropBuf_mems (s : State) (ctx x2 : Nat) : (s.dropBuf ctx x2).mems = s.mems := by grind [State.dropBuf, State.modCtx_mems]

theorem execBuffer_mems {x0 : BitVec 12} {free hostw : Bool} {base len : BitVec 64} {s t : State}
    (h : execBuffer x0 free hostw base len s = .next t) : t.mems = s.mems :=
  queuePacket_mems (fun _ _ => by grind [State.packetDone_mems, State.dropBuf_mems, State.modCtx_mems]) h

@[simp] theorem State.bufRelease_mems (s : State) (ctx id : Nat) : (s.bufRelease ctx id).mems = s.mems := by simp [State.bufRelease]

@[simp] theorem State.addLaunch_mems (s : State) (id : Nat) (l : Launch) : (s.addLaunch id l).mems = s.mems := rfl

@[simp] theorem State.takeBufs_mems (s : State) (id : Nat) (l : Launch) : (s.takeBufs id l).mems = s.mems := by
  unfold State.takeBufs
  dsimp only
  rw [State.addLaunch_mems]
  exact List.foldlRecOn _ _ (motive := fun p : State × List Nat => p.1.mems = s.mems) rfl (fun p hp e _ => by split <;> exact hp)

theorem State.wf_placeGroup (s : State) (id blk : Nat) (l : Launch) (priv : Bool) (i : Nat) (at_ : Nat × Nat) (hs : s.mems.wf = true) :
    (s.placeGroup id blk l priv i at_).mems.wf = true := by
  unfold State.placeGroup
  dsimp only
  rw [State.foldl_mems (fun u e => by
    split
    · split <;> simp
    · rfl), State.acquire_mems]
  exact State.wf_addGroup _ _ _ (by simpa using hs)

@[simp] theorem State.placeStream_mems (s : State) (cl id blk : Nat) (l : Launch) : (s.placeStream cl id blk l).mems = s.mems := by
  unfold State.placeStream
  split <;> simp

theorem State.wf_grantWindows (s : State) (l : Launch) (cl : Nat) (hs : s.mems.wf = true) : (s.grantWindows l cl).mems.wf = true := by
  obtain ⟨hl, hc, hd, hf, hk⟩ := Mems.wf_iff.1 hs
  exact Mems.wf_iff.2 ⟨hl, Memory.wf_clear _ _ _ hc, Memory.wf_clear _ _ _ hd, hf, hk⟩

theorem State.wf_placeBlock (s : State) (id : Nat) (l : Launch) (cl : Nat) (at_ : List (Nat × Nat)) (hs : s.mems.wf = true) :
    (s.placeBlock id l cl at_).mems.wf = true := by
  unfold State.placeBlock
  dsimp only
  rw [State.placeStream_mems]
  exact State.wf_foldl (fun u p hu => State.wf_placeGroup _ _ _ _ _ _ _ hu) _ (State.wf_grantWindows _ _ _ hs)

theorem wf_execBlockPlace {launch cluster : Nat} {s t : State} (hs : s.mems.wf = true) (h : execBlockPlace launch cluster s = .next t) :
    t.mems.wf = true := by grind [execBlockPlace, State.wf_placeBlock]

theorem execGroupMove_mems {gid core : Nat} {s t : State} (h : execGroupMove gid core s = .next t) : t.mems = s.mems := by
  grind [execGroupMove, State.setGrp_mems]

@[simp] theorem State.askBlock_mems (s : State) (bk : Nat) : (s.askBlock bk).mems = s.mems := by
  grind [State.askBlock, State.modBlock_mems, State.modSeq_mems]

theorem execPriorityPreempt_mems {launch cluster : Nat} {s t : State} (h : execPriorityPreempt launch cluster s = .next t) : t.mems = s.mems := by
  grind [execPriorityPreempt, State.askBlock_mems]

theorem execPreempt_mems {launch : BitVec 16} {hold : Bool} {s t : State} (h : execPreempt launch hold s = .next t) : t.mems = s.mems :=
  queuePacket_mems (fun _ _ => by grind [State.packetDone_mems, State.modBlock_mems, State.askBlock_mems, State.foldl_mems]) h

@[simp] theorem State.stopSlots_mems (s : State) (id : Nat) : (s.stopSlots id).mems = s.mems := by simp [State.stopSlots]

@[simp] theorem State.reapCtx_mems (s : State) (c : Nat) : (s.reapCtx c).mems = s.mems := by simp only [State.reapCtx]; repeat' split <;> simp

theorem execLaunchComplete_mems {launch : Nat} {s t : State} (h : execLaunchComplete launch s = .next t) : t.mems = s.mems := by
  grind [execLaunchComplete, State.modLaunch_mems, State.stopSlots_mems, State.reapCtx_mems, State.bufRelease_mems, State.lodgeBytes_mems]

theorem execQuiesce_mems {w : Ctl} {s t : State} (h : execQuiesce w s = .next t) : t.mems = s.mems :=
  ctlWord_mems (fun _ _ _ _ => by grind [State.trapPlain_mems, State.trapRun_mems, State.modCtx_mems, State.askBlock_mems, State.foldl_mems]) h

theorem execQuiesceComplete_mems {ctx : Nat} {s t : State} (h : execQuiesceComplete ctx s = .next t) : t.mems = s.mems := by
  have hlodge (ls : List Nat) (u : State) : (ls.foldl (fun s l => (s.lodge l ctx none .ctxBatch [] 0).2) u).mems = u.mems :=
    State.foldl_mems (fun u l => State.lodge_mems u l ctx none .ctxBatch [] 0) ls u
  simp only [execQuiesceComplete] at h
  repeat' split at h
  all_goals cases h
  any_goals rfl
  · rw [hlodge]

theorem execResume_mems {w : Ctl} {s t : State} (h : execResume w s = .next t) : t.mems = s.mems :=
  ctlWord_mems (fun _ _ _ _ => by grind [State.trapPlain_mems, State.modCtx_mems]) h

@[simp] theorem State.makeCtx_mems (s : State) (d : List Byte) : (s.makeCtx d).2.mems = s.mems := rfl

theorem execCtxld_mems {w : Ctl} {s t : State} (h : execCtxld w s = .next t) : t.mems = s.mems :=
  ctlWord_mems (fun _ _ _ _ => by grind [State.trapRun_mems, State.modRun_mems, State.addWaiter_mems, State.waitFuture_mems, State.cpAsk_mems,
    State.dropHeld_mems, State.modGrp_mems, State.trapPlain_mems, State.makeCtx_mems]) h

theorem execCtxsv_mems {w : Ctl} {s t : State} (h : execCtxsv w s = .next t) : t.mems = s.mems :=
  ctlWord_mems (fun _ _ _ _ => by grind [State.trapPlain_mems, State.trapRun_mems, → State.syncTree_mems, State.waitFuture_mems,
    State.lodgeBytes_mems]) h

@[simp] theorem State.haltLaunch_mems (s : State) (id : Nat) : (s.haltLaunch id).mems = s.mems := rfl

theorem execHalt_mems {w : Ctl} {s t : State} (h : execHalt w s = .next t) : t.mems = s.mems :=
  ctlWord_mems (fun _ _ _ _ => by grind [State.trapPlain_mems, State.haltLaunch_mems, State.dropLocks_mems, State.cancelAll_mems, State.endAop_mems,
    State.reapCtx_mems, State.modCtx_mems, State.foldl_mems]) h

/-! Checkpoints (`Checkpoint`). -/

@[simp] theorem State.ckRefuse_mems (s : State) : s.ckRefuse.mems = s.mems := rfl

@[simp] theorem State.ckAccept_mems (s : State) : s.ckAccept.mems = s.mems := by
  unfold State.ckAccept
  split
  · rfl
  split
  · simp
  · next h => exact State.cpRead_mems h
  dsimp only
  split
  · rfl
  next h => simpa using State.allocFut_mems h

@[simp] theorem State.ckRequest_mems (s : State) (c a : Nat) : (s.ckRequest c a).mems = s.mems := by unfold State.ckRequest; split <;> simp

theorem wf_setStoreMem (s : State) (m : Memory) (hs : s.mems.wf = true) (hm : m.wf = true) : (setStoreMem s m).mems.wf = true := by
  obtain ⟨hl, hc, hd, hf, -⟩ := Mems.wf_iff.1 hs
  exact Mems.wf_iff.2 ⟨hl, hc, hd, hf, hm⟩

theorem State.wf_takeUnit {s : State} {m : BitVec 12} {op : Nat} {bs : List Byte} {t : State × Nat} (hs : s.mems.wf = true)
    (h : s.takeUnit m op bs = some t) : t.1.mems.wf = true := by
  obtain ⟨-, -, -, -, hk⟩ := Mems.wf_iff.1 hs
  unfold State.takeUnit at h
  dsimp only at h
  split at h
  · cases h
  split at h
  · cases h
  · cases h
    exact wf_setStoreMem s _ hs (Memory.wf_writeBytes _ _ _ (Memory.wf_writeBytes _ _ _ hk))

theorem State.wf_dropUnits (s : State) (p : Nat → Bool) (hs : s.mems.wf = true) : (s.dropUnits p).mems.wf = true := by
  obtain ⟨-, -, -, -, hk⟩ := Mems.wf_iff.1 hs
  exact wf_setStoreMem s _ hs (List.foldlRecOn _ _ (motive := fun m : Memory => m.wf = true) hk (fun m hm u _ => Memory.wf_clear m _ _ hm))

theorem State.wf_ckFreeIn (s : State) (m : BitVec 12) (op ctx : Nat) (seq : BitVec 64) (older : Bool) (hs : s.mems.wf = true) :
    (s.ckFreeIn m op ctx seq older).mems.wf = true := by simp [State.ckFreeIn, State.wf_dropUnits, hs]

@[simp] theorem State.ckQueryIn_mems (s : State) (m : BitVec 12) (op ctx need : Nat) : (s.ckQueryIn m op ctx need).2.2.mems = s.mems := by
  unfold State.ckQueryIn
  split <;> simp

theorem wf_execShardReceive {msg : Nat} {s t : State} (hs : s.mems.wf = true) (h : execShardReceive msg s = .next t) : t.mems.wf = true := by
  unfold execShardReceive at h
  split at h
  · cases h; exact hs
  split at h
  · dsimp only at h
    split at h
    · next hu =>
      cases h
      rw [State.sendMsg_mems]
      exact State.wf_takeUnit (by exact hs) hu
    · cases h; simpa using hs
  · cases h; exact hs

@[simp] theorem State.toMembers_mems (s : State) (o : AOp) (body : QfBody) : (s.toMembers o body).mems = s.mems := by
  grind [State.toMembers, State.sendMsg_mems, State.foldl_mems]

theorem State.wf_ckEnd (s : State) (op : Nat) (st : FutSt) (hs : s.mems.wf = true) : (s.ckEnd op st).mems.wf = true := by
  grind [State.ckEnd, State.wf_ckFreeIn, State.toMembers_mems, State.dropSlots_mems, State.endAop_mems]

theorem State.wf_askRoom (s : State) (op : Nat) (o : AOp) (b : CkBlk) (hs : s.mems.wf = true) : (s.askRoom op o b).mems.wf = true := by
  unfold State.askRoom
  generalize unitsFor = need, shardPlaces = places
  refine State.wf_foldl (fun u i hu => ?_) _ hs
  extract_lets m n
  split
  · have hq : ∀ n, (u.ckQueryIn m op o.ctx n).2.2.mems = u.mems := fun n => State.ckQueryIn_mems u _ _ _ _
    generalize State.ckQueryIn = q at hq
    split
    next he =>
    rw [← hq, he] at hu
    split
    · rw [State.modAop_mems]; exact hu
    · exact State.wf_ckEnd _ _ _ hu
  · rw [State.sendMsg_mems]; exact hu

@[simp] theorem State.ckFoundIn_mems (s : State) (op i : Nat) (ms : List (List Byte)) : (s.ckFoundIn op i ms).mems = s.mems := rfl

@[simp] theorem State.askManifests_mems (s : State) (op : Nat) (o : AOp) (b : CkBlk) : (s.askManifests op o b).mems = s.mems := by
  grind [State.askManifests, State.ckFoundIn_mems, State.sendMsg_mems, State.foldl_mems]

theorem State.wf_ckStart (s : State) (op : Nat) (o : AOp) (b : CkBlk) (hs : s.mems.wf = true) : (s.ckStart op o b).mems.wf = true := by
  unfold State.ckStart
  extract_lets begin_
  have hbegin (bs : List Byte) : (begin_ s bs).mems.wf = true := by
    dsimp only [begin_]
    split
    · exact State.wf_ckEnd _ _ _ (by simpa using hs)
    split
    · exact State.wf_askRoom _ _ _ _ (by simpa using hs)
    · simpa using hs
  split
  · exact hbegin []
  split
  · exact hbegin _
  next h => rw [State.cpRead_mems h]; exact hs
  · exact State.wf_ckEnd _ _ _ hs

theorem State.wf_putShard (s : State) (op idx : Nat) (m : BitVec 12) (bs : List Byte) (hs : s.mems.wf = true) :
    (s.putShard op idx m bs).mems.wf = true := by grind [State.putShard, → State.wf_takeUnit, State.modAop_mems, State.wf_ckEnd, State.sendMsg_mems]

/-- Reducing the match of nextShard would have the kernel count the bytes of a unit one at a time, so the list of places is made a variable first. -/
theorem State.nextShard_cases
    {P : State → Prop} {s : State} {op : Nat} {o : AOp} {b : CkBlk} (hs : P s) (hp : ∀ f i m bs, P ((s.modAop op f).putShard op i m bs)) :
    P (s.nextShard op o b) := by
  suffices h : ∀ f, f = State.nextShard → P (f s op o b) from h _ rfl
  intro f hf
  delta State.nextShard at hf
  rw [hf]
  beta_reduce
  generalize s.streamFor o b = v
  generalize shardPlaces = places
  extract_lets bs
  split
  · exact hs
  · exact hp _ _ _ _

theorem State.wf_nextShard (s : State) (op : Nat) (o : AOp) (b : CkBlk) (hs : s.mems.wf = true) : (s.nextShard op o b).mems.wf = true :=
  State.nextShard_cases (P := fun t => t.mems.wf = true) hs (fun _ _ _ _ => State.wf_putShard _ _ _ _ _ (by rw [State.modAop_mems]; exact hs))

theorem wf_execCkOpStart {op : Nat} {s t : State} (hs : s.mems.wf = true) (h : execCkOpStart op s = .next t) : t.mems.wf = true := by
  grind [execCkOpStart, State.ckAccept_mems, State.wf_ckEnd, State.wf_ckStart, State.wf_nextShard]

theorem wf_execManifestWrite {op : Nat} {s t : State} (hs : s.mems.wf = true) (h : execManifestWrite op s = .next t) : t.mems.wf = true := by
  unfold execManifestWrite at h
  split at h
  · cases h; exact hs
  split at h
  · split at h
    · cases h; exact State.wf_ckEnd _ _ _ hs
    dsimp only at h
    split at h
    · cases h; exact State.wf_foldl (fun u i hu => State.wf_putShard _ _ _ _ _ hu) _ hs
    · cases h; exact hs
  · cases h; exact hs

@[simp] theorem State.ckTell_mems (s : State) (op : Nat) (o : AOp) (a : Nat) (bs : List Byte) : (s.ckTell op o a bs).mems = s.mems := by
  unfold State.ckTell
  split <;> simp

theorem wf_execCkCommit {op : Nat} {s t : State} (hs : s.mems.wf = true) (h : execCkCommit op s = .next t) : t.mems.wf = true := by
  grind [execCkCommit, State.ckTell_mems, State.wf_ckEnd]

@[simp] theorem State.fetchShards_mems (s : State) (op : Nat) (m : List Byte) : (s.fetchShards op m).mems = s.mems := by
  grind [State.fetchShards, State.modAop_mems, State.sendMsg_mems, State.foldl_mems]

theorem State.restoreLines_mems {s : State} {c a : Nat} {h : PageHdr} {xs : List (Nat × Line)} {t : State × List (Nat × IxEntry)}
    (ht : s.restoreLines c a h xs = some t) : t.1.mems = s.mems := by
  induction xs generalizing s t with
  | nil => cases ht; rfl
  | cons x xs ih => grind [State.restoreLines, → State.appendTier_mems]

theorem State.restorePage_mems {s : State} {c : Nat} {u : Nat × Nat × List (Nat × Line)} {t : State × PageHdr × List (Nat × IxEntry)}
    (h : s.restorePage c u = some t) : t.1.mems = s.mems := by
  obtain ⟨q, hq, rfl⟩ := Option.map_eq_some_iff.1 h
  exact State.restoreLines_mems hq

theorem State.restorePages_mems {s : State} {c : Nat} {us : List (Nat × Nat × List (Nat × Line))} {t : State × FMap HomeLeaf × FMap PageHdr}
    (h : s.restorePages c us = some t) : t.1.mems = s.mems := by
  induction us generalizing s t with
  | nil => cases h; rfl
  | cons u us ih =>
    simp only [State.restorePages] at h
    split at h
    · cases h
    next h1 =>
    split at h
    · cases h
    next h2 => cases h; exact (ih h2).trans (State.restorePage_mems h1)

theorem State.switchTree_mems {s : State} {c : Nat} {ls : FMap HomeLeaf} {ps : FMap PageHdr} {t : State} (h : s.switchTree c ls ps = some t) :
    t.mems = s.mems := by
  obtain ⟨u, hu, rfl⟩ := Option.map_eq_some_iff.1 h
  simpa using State.syncTree_mems hu

@[simp] theorem State.restoreWrite_mems (s : State) (op : Nat) (o : AOp) (a : Nat) (bs : List Byte) (rebuilt : Nat) :
    (s.restoreWrite op o a bs rebuilt).mems = s.mems := by
  grind [State.restoreWrite, → State.restorePages_mems, → State.switchTree_mems, State.ckTell_mems]

theorem wf_execCkRestore {op : Nat} {s t : State} (hs : s.mems.wf = true) (h : execCkRestore op s = .next t) : t.mems.wf = true := by
  simp only [execCkRestore] at h
  repeat' split at h
  all_goals cases h
  any_goals with_reducible exact hs
  any_goals with_reducible exact State.wf_ckEnd _ _ _ (by simpa using hs)
  · next hr => rw [State.cpRead_mems hr]; exact hs
  · simpa using hs
  · simpa using hs

theorem State.wf_ckAnswerIn (s : State) (m : BitVec 12) (op : Nat) (ok : Bool) (seq : BitVec 64) (hs : s.mems.wf = true) :
    (s.ckAnswerIn m op ok seq).mems.wf = true := by grind [State.ckAnswerIn, State.modAop_mems, State.wf_ckEnd]

@[simp] theorem State.shardAckIn_mems (s : State) (op idx unit : Nat) : (s.shardAckIn op idx unit).mems = s.mems := rfl

@[simp] theorem State.ckUnitIn_mems (s : State) (op idx : Nat) (bs : List Byte) : (s.ckUnitIn op idx bs).mems = s.mems := rfl

theorem State.wf_ckUnreach (s : State) (m : BitVec 12) (op : Nat) (body : QfBody) (hs : s.mems.wf = true) : (s.ckUnreach m op body).mems.wf = true := by
  unfold State.ckUnreach
  split
  · exact State.wf_ckEnd _ _ _ hs
  · exact State.wf_ckEnd _ _ _ hs
  · split <;> simpa using hs
  · simpa using hs
  · exact hs

@[simp] theorem State.ckRecount_mems (s : State) : s.ckRecount.mems = s.mems := rfl

/-! Host ports (`HostPort`). -/

theorem execHostAdmit_mems {requester : BitVec 16} {s t : State} (h : execHostAdmit requester s = .next t) : t.mems = s.mems := by
  grind [execHostAdmit]

@[simp] theorem State.hostBad_mems (s : State) : s.hostBad.mems = s.mems := rfl

@[simp] theorem State.hostGives_mems (s : State) (v : BitVec 64) : (s.hostGives v).mems = s.mems := rfl

@[simp] theorem State.hostErr_mems (s : State) : s.hostErr.mems = s.mems := rfl

@[simp] theorem State.freeze_mems (s : State) (m : Nat) : (s.freeze m).mems = s.mems := rfl

theorem windowWrite_mems {by_ : Writer} {s t : State} {f : State → State} (hf : (f s).mems = s.mems) (h : windowWrite by_ s f = .next t) :
    t.mems = s.mems := by
  unfold windowWrite at h
  repeat' split at h
  all_goals cases h
  all_goals simp [hf]

theorem wf_windowWrite {by_ : Writer} {s t : State} {f : State → State} (hs : s.mems.wf = true) (hf : (f s).mems.wf = true)
    (h : windowWrite by_ s f = .next t) : t.mems.wf = true := by
  unfold windowWrite at h
  repeat' split at h
  all_goals cases h
  all_goals simp [hf, hs]

@[simp] theorem State.hostMap_mems (s : State) (m : Nat) : (s.hostMap m).mems = s.mems := by grind [State.hostMap]

@[simp] theorem State.hostPark_mems (s : State) (m c page : Nat) : (s.hostPark m c page).mems = s.mems := by unfold State.hostPark; split <;> simp

@[simp] theorem State.hostAsk_mems (s : State) (m c a : Nat) : (s.hostAsk m c a).mems = s.mems := by simp only [State.hostAsk]; repeat' split <;> simp

theorem execHostRead_mems {m : BitVec 3} {addr : BitVec 64} {n : Nat} {s t : State} (h : execHostRead m addr n s = .next t) : t.mems = s.mems := by
  simp only [execHostRead] at h
  split at h
  · cases h; simp
  split at h
  · cases h; simp
  split at h
  · cases h; simp
  split at h
  · cases h; simp
  · cases h; simp
  split at h
  · cases h
    rw [State.hostGives_mems, State.foldl_mems (fun u x => State.countLocal_mems u _)]
    exact State.hostMap_mems _ _
  · cases h
    rw [State.foldl_mems (fun u x => by split <;> simp)]
    exact State.hostMap_mems _ _

theorem State.hostStore_mems {s : State} {log c a : Nat} {bs : List Byte} {t : State} (h : s.hostStore log c a bs = some t) : t.mems = s.mems :=
  foldl_bind_keeps State.mems (fun _ _ _ => State.bufWrite_mems) h

theorem execHostWrite_mems {m : BitVec 3} {addr : BitVec 64} {bytes : List Byte} {s t : State} (h : execHostWrite m addr bytes s = .next t) :
    t.mems = s.mems := by
  have hput (u : State) (log c a : Nat) : ((u.hostStore log c a bytes).getD u).mems = u.mems := getD_keeps State.mems (fun _ => State.hostStore_mems)
  unfold execHostWrite at h
  dsimp only at h
  repeat' split at h
  all_goals cases h
  all_goals simp [hput]

theorem execHostWcbWindowExpire_mems {m : BitVec 3} {line : Nat} {s t : State} (h : execHostWcbWindowExpire m line s = .next t) : t.mems = s.mems := by
  unfold execHostWcbWindowExpire at h
  split at h
  · cases h; rfl
  split at h
  · cases h; exact getD_keeps State.mems (fun _ => State.flushLine_mems)
  · cases h; rfl

/-! Power (`Power`). -/

@[simp] theorem State.enterChan_mems (s : State) (k : Nat) (st : ChSt) : (s.enterChan k st).mems = s.mems := rfl

theorem execPowerDownEntry_mems {ch : Nat} {s t : State} (h : execPowerDownEntry ch s = .next t) : t.mems = s.mems := by
  grind [execPowerDownEntry, State.enterChan_mems]

theorem execSelfRefreshEntry_mems {ch : Nat} {s t : State} (h : execSelfRefreshEntry ch s = .next t) : t.mems = s.mems := by
  grind [execSelfRefreshEntry, State.enterChan_mems]

theorem execChannelWake_mems {ch : Nat} {s t : State} (h : execChannelWake ch s = .next t) : t.mems = s.mems := by
  grind [execChannelWake, State.modChan_mems]

@[simp] theorem State.writePccfg_mems (s : State) (stack : Nat) (val : BitVec 64) : (s.writePccfg stack val).mems = s.mems := by
  grind [State.writePccfg, State.modStack_mems, State.modChan_mems, State.enterChan_mems, State.foldl_mems]

theorem execForcesr_mems {by_ : Writer} {stack : BitVec 4} {val : BitVec 64} {s t : State} (h : execForcesr by_ stack val s = .next t) :
    t.mems = s.mems := windowWrite_mems (by simp) h

theorem State.syncDie_mems {s : State} {die : Nat} {t : State} (h : s.syncDie die = some t) : t.mems = s.mems := by
  unfold State.syncDie at h
  dsimp only at h
  split at h
  · cases h
  · exact foldl_bind_keeps State.mems (fun _ _ _ => State.syncTree_mems) h

theorem State.wf_clearHalves (s : State) (die : Nat) (sph : BitVec 8) (hs : s.mems.wf = true) : (s.clearHalves die sph).mems.wf = true := by
  obtain ⟨hl, hc, hd, hf, hk⟩ := Mems.wf_iff.1 hs
  refine Mems.wf_iff.2 ⟨hl, ?_, hd, hf, hk⟩
  exact List.foldlRecOn _ _ (motive := fun m : Memory => m.wf = true) hc (fun m hm c _ =>
    List.foldlRecOn _ _ (motive := fun m : Memory => m.wf = true) hm (fun m hm t _ => Memory.wf_clear m _ _ hm))

theorem State.wf_writeGate (s : State) (die : Nat) (val : BitVec 64) (hs : s.mems.wf = true) : (s.writeGate die val).mems.wf = true := by
  grind [State.writeGate, State.modDie_mems, State.wf_clearHalves, → State.syncDie_mems]

theorem wf_execGatectlWrite {by_ : Writer} {die : BitVec 5} {val : BitVec 64} {s t : State} (hs : s.mems.wf = true)
    (h : execGatectlWrite by_ die val s = .next t) : t.mems.wf = true := wf_windowWrite hs (by grind [State.wf_writeGate]) h

theorem wf_execGateWake {die : BitVec 5} {s t : State} (hs : s.mems.wf = true) (h : execGateWake die s = .next t) : t.mems.wf = true := by
  grind [execGateWake, State.wf_writeGate, State.modDie_mems]

theorem execGateErrorClear_mems {by_ : Writer} {s t : State} (h : execGateErrorClear by_ s = .next t) : t.mems = s.mems := windowWrite_mems (rfl) h

theorem State.wf_coldReset (s : State) : s.coldReset.mems.wf = true := rfl

theorem wf_execColdReset {s t : State} (h : execColdReset s = .next t) : t.mems.wf = true := by
  cases h; exact State.wf_coldReset s

theorem State.wf_warmReset (s : State) (hs : s.mems.wf = true) : s.warmReset.mems.wf = true := by
  obtain ⟨-, -, -, -, hk⟩ := Mems.wf_iff.1 hs
  unfold State.warmReset
  simp only [State.ckRecount_mems]
  exact Mems.wf_iff.2 ⟨rfl, rfl, rfl, rfl, hk⟩

theorem wf_execWarmReset {by_ : Writer} {s t : State} (hs : s.mems.wf = true) (h : execWarmReset by_ s = .next t) : t.mems.wf = true := by
  unfold execWarmReset at h
  split at h
  · cases h; exact hs
  · exact wf_windowWrite hs (State.wf_warmReset s hs) h

@[simp] theorem State.takeImage_mems (s : State) (image : List Byte) (sig : BitVec 512) (version : BitVec 16) :
    (s.takeImage image sig version).mems = s.mems := by unfold State.takeImage; split <;> simp

theorem execBoot_mems {image : List Byte} {sig : BitVec 512} {version : BitVec 16} {s t : State} (h : execBoot image sig version s = .next t) :
    t.mems = s.mems := by grind [execBoot, State.takeImage_mems]

theorem execNewImage_mems {image : List Byte} {sig : BitVec 512} {version : BitVec 16} {s t : State}
    (h : execNewImage image sig version s = .next t) : t.mems = s.mems := by grind [execNewImage, State.takeImage_mems]

theorem State.wf_attest (s : State) (val : BitVec 64) (hs : s.mems.wf = true) : (s.attest val).mems.wf = true := by
  simp [State.attest, State.hostRead_mems, State.wf_hostWrite, hs]

theorem wf_execAttreq {by_ : Writer} {val : BitVec 64} {s t : State} (hs : s.mems.wf = true) (h : execAttreq by_ val s = .next t) :
    t.mems.wf = true := wf_windowWrite hs (by grind [State.wf_attest]) h

theorem State.pxHwerr_mems {s : State} {cl idx : Nat} {t : State} (h : s.pxHwerr cl idx = some t) : t.mems = s.mems := by
  grind [State.pxHwerr, State.modCl_mems, State.seqTrapAt_mems]

theorem State.wf_aopHwerr {s : State} {op : Nat} {t : State} (hs : s.mems.wf = true) (h : s.aopHwerr op = some t) : t.mems.wf = true := by
  grind [State.aopHwerr, State.stopSlot_mems, State.wf_ckEnd, State.endAop_mems]

theorem State.wf_consume {s : State} {victim id : Nat} {t : State} (hs : s.mems.wf = true) (h : s.consume victim id = some t) : t.mems.wf = true := by
  unfold State.consume at h
  split at h
  case h_1 =>
    obtain ⟨g, -, rfl⟩ := Option.map_eq_some_iff.1 h
    exact hs
  case h_2 => exact State.wf_aopHwerr hs h
  case h_5 => rw [State.pxHwerr_mems h]; exact hs
  all_goals repeat' split at h
  all_goals cases h
  all_goals simpa using hs

theorem wf_execSoftError {correctable : Bool} {victim id : Nat} {s t : State} (hs : s.mems.wf = true)
    (h : execSoftError correctable victim id s = .next t) : t.mems.wf = true := by grind [execSoftError, → State.wf_consume, State.raise_mems]

/-! The tracer (`Tracer`). -/

@[simp] theorem State.sampleDie_mems (s : State) (die : Nat) : (s.sampleDie die).mems = s.mems := rfl

@[simp] theorem State.histSample_mems (s : State) (die : Nat) : (s.histSample die).mems = s.mems := by unfold State.histSample; split <;> simp

theorem execHistSample_mems {die : Nat} {s t : State} (h : execHistSample die s = .next t) : t.mems = s.mems := by
  grind [execHistSample, State.histSample_mems]

@[simp] theorem State.countCycle_mems (s : State) : s.countCycle.mems = s.mems := by grind [State.countCycle, State.tally_mems, State.foldl_mems]

theorem State.wf_latchDie (s : State) (die : Nat) (hs : s.mems.wf = true) : (s.latchDie die).mems.wf = true := by
  simp [State.latchDie, State.wf_sinkOrLose, State.modDie_mems, hs]

theorem State.wf_timeTick (s : State) (hs : s.mems.wf = true) : s.timeTick.mems.wf = true := by
  unfold State.timeTick
  split
  · exact State.wf_foldl (fun u d hu => State.wf_latchDie u d hu) _ (by simpa using hs)
  · exact hs

theorem wf_execTimeseriesTick {s t : State} (hs : s.mems.wf = true) (h : execTimeseriesTick s = .next t) : t.mems.wf = true := by
  grind [execTimeseriesTick, State.wf_timeTick]

@[simp] theorem State.kSwitch_mems (s : State) : s.kSwitch.mems = s.mems := by grind [State.kSwitch]

theorem execKSwitch_mems {s t : State} (h : execKSwitch s = .next t) : t.mems = s.mems := by grind [execKSwitch, State.kSwitch_mems]

theorem State.wf_traceCycle (s : State) (hs : s.mems.wf = true) : s.traceCycle.mems.wf = true := by
  unfold State.traceCycle
  extract_lets u v
  have hu : u.mems.wf = true := by rw [State.kSwitch_mems]; exact hs
  have hv : v.mems.wf = true := State.wf_ite (State.wf_timeTick _ hu) (State.wf_ite hu (by rw [State.countCycle_mems]; exact hu))
  split
  · rw [State.foldl_mems (fun s d => State.histSample_mems s d)]; exact hv
  · exact hv

theorem State.wf_writeBin (s : State) (die k : Nat) (hs : s.mems.wf = true) : (s.writeBin die k).mems.wf = true := by
  grind [State.writeBin, → State.wf_sinkOrKeep, State.modDie_mems]

theorem State.wf_writeBins (s : State) (p : Nat → Bool) (hs : s.mems.wf = true) : (s.writeBins p).mems.wf = true :=
  State.wf_foldl (fun _ _ hu => State.wf_foldl (fun v _ hv => State.wf_writeBin v _ _ hv) _ hu) _ hs

theorem wf_execTraceFlushDone {op : Nat} {s t : State} (hs : s.mems.wf = true) (h : execTraceFlushDone op s = .next t) : t.mems.wf = true := by
  grind [execTraceFlushDone, State.wf_writeBins, State.endAop_mems]

theorem State.wf_dumpBins (s : State) (hs : s.mems.wf = true) : s.dumpBins.mems.wf = true := by simp [State.dumpBins, State.wf_writeBins, hs]

theorem wf_execDump {by_ : Writer} {s t : State} (hs : s.mems.wf = true) (h : execDump by_ s = .next t) : t.mems.wf = true :=
  wf_windowWrite hs (by grind [State.wf_dumpBins]) h

@[simp] theorem State.writeTail_mems (s : State) (v : BitVec 64) : (s.writeTail v).mems = s.mems := rfl

theorem execTrctailWrite_mems {by_ : Writer} {val : BitVec 64} {s t : State} (h : execTrctailWrite by_ val s = .next t) : t.mems = s.mems :=
  windowWrite_mems (rfl) h

/-! The register window (`Window`). -/

@[simp] theorem State.regClear_mems (s : State) (off : Nat) : (s.regClear off).mems = s.mems := by simp only [State.regClear]; repeat' split <;> simp

theorem windowRead_mems {by_ : Writer} {off : Nat} {s t : State} (h : windowRead by_ off s = .next t) : t.mems = s.mems := by
  unfold windowRead at h
  dsimp only at h
  repeat' split at h
  all_goals cases h
  all_goals simp

theorem execTrclostRead_mems {by_ : Writer} {s t : State} (h : execTrclostRead by_ s = .next t) : t.mems = s.mems := windowRead_mems h

theorem execHostErrcountRead_mems {by_ : Writer} {s t : State} (h : execHostErrcountRead by_ s = .next t) : t.mems = s.mems := windowRead_mems h

@[simp] theorem State.swapOwner_mems (s : State) (v : BitVec 64) : (s.swapOwner v).mems = s.mems := by
  simp only [State.swapOwner]
  repeat' split <;> simp

theorem execOwnershipSwap_mems {by_ : Writer} {val : BitVec 64} {s t : State} (h : execOwnershipSwap by_ val s = .next t) : t.mems = s.mems := by
  unfold execOwnershipSwap at h
  repeat' split at h
  all_goals cases h
  all_goals simp

@[simp] theorem State.clearFrozen_mems (s : State) (by_ : Writer) (bits : BitVec 8) : (s.clearFrozen by_ bits).mems = s.mems := by
  unfold State.clearFrozen
  split <;> simp

theorem execFrozenClear_mems {by_ : Writer} {bits : BitVec 8} {s t : State} (h : execFrozenClear by_ bits s = .next t) : t.mems = s.mems :=
  windowWrite_mems (by simp) h

@[simp] theorem State.writeTailReg_mems (s : State) (q : Nat) (x2 : BitVec 32) : (s.writeTailReg q x2).mems = s.mems := rfl

theorem execQueueKick_mems {by_ : Writer} {q : BitVec 6} {tail : BitVec 32} {s t : State} (h : execQueueKick by_ q tail s = .next t) :
    t.mems = s.mems := windowWrite_mems (rfl) h

theorem execQueueReset_mems {by_ : Writer} {q : BitVec 6} {s t : State} (h : execQueueReset by_ q s = .next t) : t.mems = s.mems :=
  windowWrite_mems (rfl) h

@[simp] theorem State.hostGo_mems (s : State) (m : Nat) : (s.hostGo m).mems = s.mems := by unfold State.hostGo; split <;> simp

theorem execHostRelease_mems {by_ : Writer} {m : BitVec 3} {s t : State} (h : execHostRelease by_ m s = .next t) : t.mems = s.mems :=
  windowWrite_mems (by simp) h

@[simp] theorem State.writeMap_mems (s : State) (m : Nat) (v : BitVec 64) : (s.writeMap m v).mems = s.mems := by unfold State.writeMap; split <;> simp

theorem execHostmapWrite_mems {by_ : Writer} {m : BitVec 3} {val : BitVec 64} {s t : State} (h : execHostmapWrite by_ m val s = .next t) :
    t.mems = s.mems := windowWrite_mems (by simp) h

@[simp] theorem State.writeCkreq_mems (s : State) (v : BitVec 64) : (s.writeCkreq v).mems = s.mems := by simp [State.writeCkreq]

theorem execCkreq_mems {by_ : Writer} {val : BitVec 64} {s t : State} (h : execCkreq by_ val s = .next t) : t.mems = s.mems :=
  windowWrite_mems (by simp) h

@[simp] theorem State.writeCkstore_mems (s : State) (v : BitVec 64) : (s.writeCkstore v).mems = s.mems := by unfold State.writeCkstore; split <;> simp

@[simp] theorem State.clearRefused_mems (s : State) : s.clearRefused.mems = s.mems := rfl

theorem execRefusedClear_mems {by_ : Writer} {s t : State} (h : execRefusedClear by_ s = .next t) : t.mems = s.mems := windowWrite_mems (rfl) h

theorem execRetrain_mems {by_ : Writer} {link : BitVec 6} {s t : State} (h : execRetrain by_ link s = .next t) : t.mems = s.mems :=
  windowWrite_mems (rfl) h

theorem State.wf_writeTrace (s : State) (r : Nat) (v : BitVec 64) (hs : s.mems.wf = true) : (s.writeTrace r v).mems.wf = true := by
  unfold State.writeTrace
  extract_lets t fixed
  split
  · exact State.wf_ite (State.wf_dumpBins _ hs) hs
  · exact State.wf_ite hs hs
  · exact State.wf_ite hs hs
  · rw [State.writeTail_mems]; exact hs
  · exact State.wf_ite hs (State.wf_ite hs (State.wf_ite hs hs))

@[simp] theorem State.writeMigcfg_mems (s : State) (v : BitVec 64) : (s.writeMigcfg v).mems = s.mems := rfl

theorem State.wf_regWrite (s : State) (by_ : Writer) (off : Nat) (v : BitVec 64) (hs : s.mems.wf = true) : (s.regWrite by_ off v).mems.wf = true := by
  unfold State.regWrite
  refine State.wf_ite hs (State.wf_ite ?owner (State.wf_ite ?frozen (State.wf_ite hs (State.wf_ite ?queue ?_))))
  case owner => simpa using hs
  case frozen => simpa using hs
  case queue =>
    dsimp only
    split
    · simpa using hs
    · simpa using hs
    · simpa using hs
    · exact hs
  refine State.wf_ite ?ckreq (State.wf_ite ?ckstore (State.wf_ite (State.wf_ite ?refused hs) (State.wf_ite hs (State.wf_ite (State.wf_writeTrace _ _ _ hs) ?_))))
  case ckreq => simpa using hs
  case ckstore => simpa using hs
  case refused => simpa using hs
  refine State.wf_ite hs (State.wf_ite (State.wf_ite (State.wf_ite ?go hs) ?map) (State.wf_ite ?window (State.wf_ite hs (State.wf_ite (State.wf_ite ?link hs) ?_))))
  case go => simpa using hs
  case map => simpa using hs
  case window => exact hs
  case link => simpa using hs
  refine State.wf_ite hs (State.wf_ite ?pccfg (State.wf_ite hs (State.wf_ite (State.wf_writeGate _ _ _ hs) (State.wf_ite ?warm ?_))))
  case pccfg => simpa using hs
  case warm =>
    split
    · exact hs
    · exact State.wf_ite (State.wf_warmReset _ hs) hs
  refine State.wf_ite (State.wf_ite hs hs) (State.wf_ite (State.wf_attest _ _ hs) (State.wf_ite hs (State.wf_ite (State.wf_ite ?cln hs) ?_)))
  case cln => simpa using hs
  refine State.wf_ite ?migcfg (State.wf_ite hs (State.wf_ite hs hs))
  case migcfg => simpa using hs

theorem wf_execRegisterWrite {by_ : Writer} {off : BitVec 16} {val : BitVec 64} {s t : State} (hs : s.mems.wf = true)
    (h : execRegisterWrite by_ off val s = .next t) : t.mems.wf = true := by
  unfold execRegisterWrite at h
  split at h
  · rw [execOwnershipSwap_mems h]; exact hs
  · exact wf_windowWrite (f := fun s => s.regWrite by_ off.toNat val) hs (State.wf_regWrite _ _ _ _ hs) h

theorem State.wf_windowStore (s : State) (off n v : Nat) (hs : s.mems.wf = true) : (s.windowStore off n v).mems.wf = true := by
  grind [State.windowStore, State.wf_regWrite]

@[simp] theorem State.windowLoad_mems (s : State) (off n : Nat) : (s.windowLoad off n).2.mems = s.mems := by simp [State.windowLoad]

/-! Performing accesses (`Perform`). -/

@[simp] theorem State.syncOp_mems (s : State) (n : Nat) (o : MemOp) (g : Group) : (s.syncOp n o g).mems = s.mems := by
  grind [State.syncOp, State.lodgeAfter_mems, State.modOp_mems]

@[simp] theorem State.leaveQueue_mems (s : State) (n : Nat) : (s.leaveQueue n).mems = s.mems := by grind [State.leaveQueue, State.modOp_mems]

@[simp] theorem State.begin_mems (s : State) (n : Nat) : (s.begin n).mems = s.mems := by grind [State.begin, State.leaveQueue_mems, State.syncOp_mems]

theorem State.wf_servePart (s : State) (core : Nat) (o : MemOp) (x : Part) (hs : s.mems.wf = true) : (s.servePart core o x).1.mems.wf = true := by
  grind [State.servePart, State.wf_padWrite]

theorem State.wf_serveParts (s : State) (core n arr : Nat) (o : MemOp) (t : List RowUse) (xs : List Part) (hs : s.mems.wf = true) :
    (s.serveParts core n arr o t xs).1.mems.wf = true := by
  induction xs generalizing s t with
  | nil => exact hs
  | cons x xs ih =>
    rw [State.serveParts]
    split
    · exact ih _ _ hs
    dsimp only
    split
    · exact ih _ _ (State.wf_servePart s core o x hs)
    · exact ih _ _ hs

theorem State.wf_opServe (s : State) (n arr : Nat) (x3 : List RowUse) (hs : s.mems.wf = true) : (s.opServe n arr x3).1.mems.wf = true := by
  grind [State.opServe, State.wf_serveParts, State.modOp_mems]

theorem State.wf_serveUser (s : State) (r : Nat × BankUser) (t : List RowUse) (hs : s.mems.wf = true) : (s.serveUser r t).1.mems.wf = true := by
  unfold State.serveUser
  split <;> simp [State.wf_opServe, State.wf_seqServe, State.wf_loopServe, State.wf_sldServe, State.wf_pxServe, State.wf_aopServe, hs]

theorem State.wf_serveBanks (s : State) (hs : s.mems.wf = true) : s.serveBanks.mems.wf = true :=
  List.foldlRecOn _ _ (motive := fun p : State × List RowUse => p.1.mems.wf = true) hs (fun p hp r _ => State.wf_serveUser p.1 r p.2 hp)

@[simp] theorem State.finishOp_mems (s : State) (n : Nat) (o : MemOp) : (s.finishOp n o).mems = s.mems := by
  grind [State.finishOp, State.modGrp_mems, State.acquireAt_mems]

@[simp] theorem State.putDone_mems (s : State) (n : Nat) : (s.putDone n).mems = s.mems := by simp only [State.putDone]; repeat' split <;> simp

@[simp] theorem State.endStore_mems (s : State) (n : Nat) : (s.endStore n).mems = s.mems := by simp only [State.endStore]; repeat' split <;> simp

@[simp] theorem State.devLoad_mems (s : State) (ctx a n : Nat) : (s.devLoad ctx a n).2.mems = s.mems := by unfold State.devLoad; split <;> simp

theorem State.wf_devStore (s : State) (ctx a n v : Nat) (hs : s.mems.wf = true) : (s.devStore ctx a n v).mems.wf = true := by
  unfold State.devStore
  split <;> simp [State.wf_hostWrite, State.wf_windowStore, hs]

@[simp] theorem State.maybeDrop_mems (s : State) (core : Nat) (lks : List Nat) : (s.maybeDrop core lks).mems = s.mems := by
  simp only [State.maybeDrop]
  repeat' split <;> simp

@[simp] theorem State.fillL1_mems (s : State) (core ctx a : Nat) (x : Part) (d : Line) : (s.fillL1 core ctx a x d).mems = s.mems := by
  unfold State.fillL1
  split <;> simp

@[simp] theorem State.takeLine_mems (s : State) (n ctx lk : Nat) (d : Line) : (s.takeLine n ctx lk d).mems = s.mems := rfl

@[simp] theorem State.loadLine_mems (s : State) (n core ctx : Nat) (o : MemOp) (lk : Nat) : (s.loadLine n core ctx o lk).mems = s.mems := by
  grind [State.loadLine, State.doneRead_mems, State.takeLine_mems, State.fillL1_mems, State.countLocal_mems]

@[simp] theorem State.devLoads_mems (s : State) (ctx n : Nat) (o : MemOp) (xs : List Part) : (s.devLoads ctx n o xs).1.mems = s.mems := by
  induction xs generalizing s with
  | nil => rfl
  | cons x xs ih =>
    simp only [State.devLoads, ih]
    split <;> simp

@[simp] theorem State.stepLoad_mems (s : State) (n : Nat) (g : Group) : (s.stepLoad n g).mems = s.mems := by
  simp only [State.stepLoad]
  repeat' split <;> simp

@[simp] theorem State.askLine_mems (s : State) (n lane cl ctx lk : Nat) (ps : List Part) : (s.askLine n lane cl ctx lk ps).mems = s.mems := by
  unfold State.askLine
  split <;> simp

@[simp] theorem State.loadReply_mems (s : State) (n ctx lk : Nat) (v : Line) : (s.loadReply n ctx lk v).mems = s.mems := rfl

@[simp] theorem State.serveHome_mems (s : State) (n : Nat) (g : Group) (lk : Nat) (x : Part) : (s.serveHome n g lk x).mems = s.mems := by
  grind [State.serveHome, State.waitRead_mems, State.takeLine_mems, State.fillL1_mems, State.countLocal_mems, State.doneRead_mems]

theorem execLoadServeHome_mems {op lane : Nat} {s t : State} (h : execLoadServeHome op lane s = .next t) : t.mems = s.mems := by
  grind [execLoadServeHome, State.askLine_mems, State.serveHome_mems]

@[simp] theorem State.stepFence_mems (s : State) (n : Nat) (o : MemOp) : (s.stepFence n o).mems = s.mems := by
  simp only [State.stepFence]
  repeat' split <;> simp

@[simp] theorem State.stepInv_mems (s : State) (n base len : Nat) (o : MemOp) (g : Group) : (s.stepInv n base len o g).mems = s.mems := by
  unfold State.stepInv
  split <;> simp

theorem execLoadReturn_mems {op : Nat} {s t : State} (h : execLoadReturn op s = .next t) : t.mems = s.mems := by
  grind [execLoadReturn, State.stepFence_mems, State.stepInv_mems, State.putDone_mems, State.stepLoad_mems, State.begin_mems]

theorem execPloadDataReturn_mems {op : Nat} {s t : State} (h : execPloadDataReturn op s = .next t) : t.mems = s.mems := by
  simp only [execPloadDataReturn] at h
  repeat' split at h
  all_goals cases h
  all_goals simp

@[simp] theorem State.askAtom_mems (s : State) (n : Nat) (o : MemOp) (ctx : Nat) (fn : AtomOp) (sgn : Bool) (x : Part) :
    (s.askAtom n o ctx fn sgn x).mems = s.mems := by unfold State.askAtom; split <;> simp

@[simp] theorem State.atomLane_mems (s : State) (n : Nat) (o : MemOp) (g : Group) (fn : AtomOp) (sgn : Bool) (x : Part) :
    (s.atomLane n o g fn sgn x).mems = s.mems := by
  grind [State.atomLane, State.askAtom_mems, State.lodge_mems, State.modOp_mems, State.atomicAt_mems, State.countLocal_mems]

@[simp] theorem State.atomDone_mems (s : State) (n : Nat) : (s.atomDone n).mems = s.mems := by grind [State.atomDone, State.modOp_mems]

@[simp] theorem State.atomReply_mems (s : State) (n lane cl v : Nat) : (s.atomReply n lane cl v).mems = s.mems := by
  simp only [State.atomReply]
  repeat' split <;> simp

theorem execAtomicPerform_mems {op : Nat} {s t : State} (h : execAtomicPerform op s = .next t) : t.mems = s.mems := by
  simp only [execAtomicPerform] at h
  repeat' split at h
  all_goals cases h
  all_goals simp

theorem State.acceptParts_mems {s : State} {cl ctx : Nat} {o : MemOp} {ps : List Part} {t : State} (h : s.acceptParts cl ctx o ps = some t) :
    t.mems = s.mems := foldl_bind_keeps State.mems (fun _ _ _ => State.bufStore_mems) h

theorem State.acceptZero_mems {s : State} {cl ctx : Nat} {o : MemOp} {t : State} (h : s.acceptZero cl ctx o = some t) : t.mems = s.mems := by
  refine foldl_some_keeps State.mems (fun x => ?_) (fun a x b hx => ?_) h
  · exact List.foldlRecOn _ _ (motive := fun acc : Option State => acc = none) rfl (fun acc hacc _ _ => by rw [hacc]; rfl)
  · exact foldl_bind_keeps State.mems (fun _ _ _ => State.bufWrite_mems) hx

@[simp] theorem State.afterAccept_mems (s : State) (n : Nat) (o : MemOp) (g : Group) : (s.afterAccept n o g).mems = s.mems := by
  simp only [State.afterAccept]
  repeat' split <;> simp

theorem State.wf_devParts (s : State) (ctx n : Nat) (o : MemOp) (xs : List Part) (hs : s.mems.wf = true) : (s.devParts ctx n o xs).1.mems.wf = true := by
  induction xs generalizing s with
  | nil => exact hs
  | cons x xs ih =>
    simp only [State.devParts]
    split
    · exact ih _ hs
    · dsimp only
      split
      · exact ih _ hs
      · exact ih _ (State.wf_devStore _ _ _ _ _ hs)

theorem State.wf_stepStore (s : State) (n : Nat) (g : Group) (hs : s.mems.wf = true) : (s.stepStore n g).mems.wf = true := by
  grind [State.stepStore, → State.acceptParts_mems, State.afterAccept_mems, State.wf_devParts, State.finishOp_mems, State.modOp_mems]

@[simp] theorem State.stepZline_mems (s : State) (n : Nat) (g : Group) : (s.stepZline n g).mems = s.mems := by
  grind [State.stepZline, → State.acceptZero_mems, State.afterAccept_mems]

theorem wf_execStorePerform {op : Nat} {s t : State} (hs : s.mems.wf = true) (h : execStorePerform op s = .next t) : t.mems.wf = true := by
  grind [execStorePerform, State.wf_stepStore, State.begin_mems, State.endStore_mems, State.stepZline_mems, State.finishOp_mems]

theorem State.wf_sendWrite {s : State} {launch : Nat} {sp : Space} {cluster die a n v : Nat} {t : State} (hs : s.mems.wf = true)
    (h : s.sendWrite launch sp cluster die a n v = some t) : t.mems.wf = true := by grind [State.sendWrite, State.wf_padWrite]

theorem wf_execSendArrive {op lane : Nat} {s t : State} (hs : s.mems.wf = true) (h : execSendArrive op lane s = .next t) : t.mems.wf = true := by
  grind [execSendArrive, State.leaveQueue_mems, State.modOp_mems, → State.wf_sendWrite, State.sendMsg_mems]

/-! Launches (`Launch`). -/

@[simp] theorem State.readArg_mems (s : State) (ctx a : Nat) : (s.readArg ctx a).2.mems = s.mems := by unfold State.readArg; split <;> simp

theorem State.readArgs_wait_mems {s t : State} {ctx a n : Nat} (h : s.readArgs ctx a n = .wait t) : t.mems = s.mems := by
  unfold State.readArgs at h
  dsimp only at h
  split at h
  · cases h
  split at h
  · cases h
  · cases h; simp

theorem State.readArgs_ok_mems {s t : State} {ctx a n : Nat} {as_ : List Dword} (h : s.readArgs ctx a n = .ok as_ t) : t.mems = s.mems := by
  unfold State.readArgs at h
  dsimp only at h
  split at h
  · cases h
  split at h
  · cases h
    exact List.foldlRecOn _ _ (motive := fun p : List Dword × State => p.2.mems = s.mems) rfl (fun p hp x _ => by simpa using hp)
  · cases h

theorem State.readLaunch_wait_mems {s t : State} {ctx : Nat} {p : LaunchPkt} {mk : List Byte → Launch} (h : s.readLaunch ctx p mk = .wait t) :
    t.mems = s.mems := by
  grind [State.readLaunch, → State.cpRead_mems, → State.readArgs_wait_mems]

theorem State.readLaunch_ok_mems {s t : State} {ctx : Nat} {p : LaunchPkt} {mk : List Byte → Launch} {l : Launch}
    (h : s.readLaunch ctx p mk = .ok l t) : t.mems = s.mems := by
  grind [State.readLaunch, → State.readArgs_ok_mems]

theorem execLaunch_mems {p : LaunchPkt} {s t : State} (h : execLaunch p s = .next t) : t.mems = s.mems :=
  queuePacket_mems (fun q ctx => by
    dsimp only
    split
    · simp
    split
    · rfl
    split
    · next hr => exact State.readLaunch_wait_mems hr
    · simp
    · next hr => simpa using State.readLaunch_ok_mems hr) h

/-! Links (`Links`). -/

theorem execFlitReplay_mems {link : BitVec 6} {s t : State} (h : execFlitReplay link s = .next t) : t.mems = s.mems := by
  grind [execFlitReplay, State.modLink_mems]

theorem execLinkDown_mems {link : BitVec 6} {s t : State} (h : execLinkDown link s = .next t) : t.mems = s.mems := by
  grind [execLinkDown, State.modLink_mems]

theorem execLinkTrain_mems {link : BitVec 6} {padv : BitVec 4} {s t : State} (h : execLinkTrain link padv s = .next t) : t.mems = s.mems := by
  grind [execLinkTrain, State.modLink_mems]

theorem execHeartbeat_mems {s t : State} (h : execHeartbeat s = .next t) : t.mems = s.mems := by
  grind [execHeartbeat, State.newNum_mems, State.foldl_mems]

theorem execPeerFailure_mems {peer : BitVec 12} {s t : State} (h : execPeerFailure peer s = .next t) : t.mems = s.mems := by grind [execPeerFailure]

@[simp] theorem State.opFail_mems (s : State) (n : Nat) (c : Cause) : (s.opFail n c).mems = s.mems := by unfold State.opFail; split <;> simp

@[simp] theorem State.codeFail_mems (s : State) (core lk : Nat) (c : Cause) : (s.codeFail core lk c).mems = s.mems := by
  unfold State.codeFail
  extract_lets u q
  have hu : u.mems = s.mems := State.foldl_mems (fun v p => by
    split
    · split <;> rfl
    · rfl) _ _
  split
  · rw [State.seqTrapAt_mems, hu]
  · exact hu

@[simp] theorem State.loadFail_mems (s : State) (op lane : Nat) (c : Cause) : (s.loadFail op lane c).mems = s.mems := by
  grind [State.loadFail, State.opFail_mems, State.codeFail_mems, State.failSlot_mems, State.seqTrapAt_mems, State.endAop_mems, State.hostBad_mems,
    State.hostErr_mems, State.sendMsg_mems]

@[simp] theorem State.reqHwerr_mems (s : State) (r : Nat) : (s.reqHwerr r).mems = s.mems := by
  grind [State.reqHwerr, State.endAop_mems, State.opFail_mems, State.trapPlain_mems, State.foldl_mems]

@[simp] theorem State.pubHwerr_mems (s : State) (p : Nat) : (s.pubHwerr p).mems = s.mems := by simp only [State.pubHwerr]; repeat' split <;> simp

theorem wf_execNoRoute {msg : Nat} {s t : State} (hs : s.mems.wf = true) (h : execNoRoute msg s = .next t) : t.mems.wf = true := by
  grind [execNoRoute, State.loadFail_mems, State.pubHwerr_mems, State.opFail_mems, State.endAop_mems, State.wf_ckUnreach]

@[simp] theorem State.opReply_mems (s : State) (op lane : Nat) (v : Line) : (s.opReply op lane v).mems = s.mems := by
  grind [State.opReply, State.atomReply_mems, State.loadReply_mems]

@[simp] theorem State.replyIn_mems (s : State) (op lane : Nat) (v : Line) : (s.replyIn op lane v).mems = s.mems := by
  grind [State.replyIn, State.opReply_mems, State.modCore_mems, State.sldReply_mems, State.seqReply_mems, State.modAop_mems, State.sendMsg_mems]

@[simp] theorem State.parkedIn_mems (s : State) (op lane page : Nat) : (s.parkedIn op lane page).mems = s.mems := by
  grind [State.parkedIn, State.addWaiter_mems, State.sendMsg_mems]

@[simp] theorem State.replayedIn_mems (s : State) (op lane : Nat) : (s.replayedIn op lane).mems = s.mems := by
  grind [State.replayedIn, State.sendMsg_mems]

@[simp] theorem State.unparkIn_mems (s : State) (peer : BitVec 12) (op lane : Nat) : (s.unparkIn peer op lane).mems = s.mems := by
  simp only [State.unparkIn]
  repeat' split <;> simp

@[simp] theorem State.parkPeer_mems (s : State) (msg : Nat) (m : QfMsg) (pk : Nat) : (s.parkPeer msg m pk).mems = s.mems := by
  simp only [State.parkPeer]
  repeat' split <;> simp

@[simp] theorem State.openFast_mems (s : State) (log : Nat) : (s.openFast log).mems = s.mems := by grind [State.openFast, State.sealLog_mems]

@[simp] theorem State.prepAckIn_mems (s : State) (p tok : Nat) (old : Line) (full : Bool) : (s.prepAckIn p tok old full).mems = s.mems := by
  grind [State.prepAckIn, State.modPub_mems, State.modPLine_mems]

@[simp] theorem State.commitAckIn_mems (s : State) (p tok : Nat) : (s.commitAckIn p tok).mems = s.mems := by
  simp only [State.commitAckIn]
  repeat' split
  all_goals simp

theorem State.prepIn_mems {s : State} {m : BitVec 12} {p tok : Nat} {key : BitVec 64} {ctx line : Nat} {mask : LineMask} {t : State}
    (h : s.prepIn m p tok key ctx line mask = some t) : t.mems = s.mems := by
  obtain ⟨u, hu, rfl⟩ := Option.map_eq_some_iff.1 h
  dsimp only
  split at hu
  · cases hu; rfl
  · simpa using State.promise_mems hu

@[simp] theorem State.prepMsg_mems (s : State) (msg : Nat) (m : QfMsg) (p tok : Nat) (key : BitVec 64) (ctx line : Nat) (mask : LineMask) :
    (s.prepMsg msg m p tok key ctx line mask).mems = s.mems := by
  grind [State.prepMsg, State.parkPeer_mems, → State.prepIn_mems, State.tellSpace_mems]

@[simp] theorem State.dropProxy_mems (s : State) (n : Nat) (q : Pub) : (s.dropProxy n q).mems = s.mems := by simp [State.dropProxy]

@[simp] theorem State.releaseIn_mems (s : State) (m : BitVec 12) (p tok : Nat) : (s.releaseIn m p tok).mems = s.mems := by
  unfold State.releaseIn
  split <;> simp

@[simp] theorem State.commitIn_mems (s : State) (msg : Nat) (m : QfMsg) (p tok ctx line : Nat) (data : Line) (msk : BitVec 8) :
    (s.commitIn msg m p tok ctx line data msk).mems = s.mems := by
  grind [State.commitIn, State.sendMsg_mems, State.modPLine_mems, → State.appendPromised_mems, State.openFast_mems, State.setHomeEntry_mems,
    State.dropProxy_mems, State.endHold_mems, State.markCommit_mems]

@[simp] theorem State.loadIn_mems (s : State) (msg : Nat) (m : QfMsg) (op lane ctx addr width : Nat) :
    (s.loadIn msg m op lane ctx addr width).mems = s.mems := by
  grind [State.loadIn, State.sendMsg_mems, State.parkPeer_mems, State.doneRead_mems, State.waitRead_mems, State.countRemote_mems]

@[simp] theorem State.dropAtomReq_mems (s : State) (msg : Nat) : (s.dropAtomReq msg).mems = s.mems := by unfold State.dropAtomReq; split <;> simp

@[simp] theorem State.atomIn_mems (s : State) (msg : Nat) (m : QfMsg) (op lane ctx addr width : Nat) (fn : AtomOp) (sgn : Bool) (d cmp : BitVec 64) :
    (s.atomIn msg m op lane ctx addr width fn sgn d cmp).mems = s.mems := by
  grind [State.atomIn, State.sendMsg_mems, State.dropAtomReq_mems, State.parkPeer_mems, State.doneRead_mems, State.lodge_mems, State.modReq_mems,
    State.atomicAt_mems, State.openFast_mems, State.countRemote_mems]

theorem execForwardedAccess_mems {msg : Nat} {s t : State} (h : execForwardedAccess msg s = .next t) : t.mems = s.mems := by
  grind [execForwardedAccess, State.loadIn_mems, State.atomIn_mems, State.sendMsg_mems, State.prepMsg_mems, State.commitIn_mems]

@[simp] theorem State.keepMsg_mems (s : State) (m : QfMsg) : (s.keepMsg m).mems = s.mems := rfl

theorem State.wf_sendIn (s : State) (m : BitVec 12) (op lane : Nat) (sp : Space) (cluster die a n : Nat) (v : BitVec 128) (launch : Nat)
    (hs : s.mems.wf = true) : (s.sendIn m op lane sp cluster die a n v launch).mems.wf = true := by
  grind [State.sendIn, → State.wf_sendWrite, State.sendMsg_mems]

@[simp] theorem State.sendAckIn_mems (s : State) (op lane : Nat) (ok : Bool) : (s.sendAckIn op lane ok).mems = s.mems := rfl

theorem State.wf_deliver (s : State) (m : QfMsg) (hs : s.mems.wf = true) : (s.deliver m).mems.wf = true := by
  grind [State.deliver, State.replyIn_mems, State.prepMsg_mems, State.keepMsg_mems, State.prepAckIn_mems, State.modPub_mems, State.releaseIn_mems,
    State.commitAckIn_mems, State.wf_sendIn, State.sendAckIn_mems, State.putAck_mems, State.segAckIn_mems, State.snapSlotIn_mems,
    State.ckQueryIn_mems, State.sendMsg_mems, State.wf_ckAnswerIn, State.shardAckIn_mems, State.wf_ckFreeIn, State.ckFoundIn_mems,
    State.ckUnitIn_mems, State.givePage_mems, State.arriveAt_mems, State.parkedIn_mems, State.replayedIn_mems, State.unparkIn_mems,
    State.loadFail_mems]

theorem wf_execQfMessageReceive {link : BitVec 6} {cls : BitVec 2} {s t : State} (hs : s.mems.wf = true)
    (h : execQfMessageReceive link cls s = .next t) : t.mems.wf = true := by grind [execQfMessageReceive, State.newFree_mems, State.wf_deliver]

/-! Steps (`Step`). -/

theorem State.wf_clock (s : State) (hs : s.mems.wf = true) : s.clock.mems.wf = true := by
  refine State.wf_serveBanks _ ?_
  rw [State.foldl_mems (fun u c => State.loopBeat_mems u c)]
  exact State.wf_traceCycle s hs

/-! One instruction, one turn, one step. -/

theorem wf_exec {i : Instr} {s t : State} (hs : s.mems.wf = true) (h : exec i s = .next t) : t.mems.wf = true := by
  cases i with
  | iadd _ => exact State.wf_of_mems hs (intWord_mems h)
  | isub _ => exact State.wf_of_mems hs (intWord_mems h)
  | iadds _ => exact State.wf_of_mems hs (carryWord_mems h)
  | isubs _ => exact State.wf_of_mems hs (carryWord_mems h)
  | imul _ => exact State.wf_of_mems hs (intWord_mems h)
  | imulhi _ => exact State.wf_of_mems hs (laneWord_mems h)
  | imad _ => exact State.wf_of_mems hs (intWord_mems h)
  | ineg _ => exact State.wf_of_mems hs (intWord_mems h)
  | iabs _ => exact State.wf_of_mems hs (intWord_mems h)
  | imin _ => exact State.wf_of_mems hs (intWord_mems h)
  | imax _ => exact State.wf_of_mems hs (intWord_mems h)
  | ishl _ => exact State.wf_of_mems hs (bitsWord_mems h)
  | ishr _ => exact State.wf_of_mems hs (bitsWord_mems h)
  | isar _ => exact State.wf_of_mems hs (laneWord_mems h)
  | irol _ => exact State.wf_of_mems hs (bitsWord_mems h)
  | ibfx _ => exact State.wf_of_mems hs (laneWord_mems h)
  | ibfi _ => exact State.wf_of_mems hs (bitsWord_mems h)
  | popc _ => exact State.wf_of_mems hs (execPopc_mems h)
  | clz _ => exact State.wf_of_mems hs (execClz_mems h)
  | brev _ => exact State.wf_of_mems hs (bitsWord_mems h)
  | andB _ => exact State.wf_of_mems hs (bitsWord_mems h)
  | orB _ => exact State.wf_of_mems hs (bitsWord_mems h)
  | xorB _ => exact State.wf_of_mems hs (bitsWord_mems h)
  | notB _ => exact State.wf_of_mems hs (bitsWord_mems h)
  | andn _ => exact State.wf_of_mems hs (bitsWord_mems h)
  | bfn3 _ => exact State.wf_of_mems hs (bitsWord_mems h)
  | icmp _ => exact State.wf_of_mems hs (execIcmp_mems h)
  | fcmp _ => exact State.wf_of_mems hs (execFcmp_mems h)
  | sel _ => exact State.wf_of_mems hs (laneWord_mems h)
  | clop _ => exact State.wf_of_mems hs (execClop_mems h)
  | mov _ => exact State.wf_of_mems hs (laneWord_mems h)
  | movi _ => exact State.wf_of_mems hs (laneWord_mems h)
  | movc _ => exact State.wf_of_mems hs (execMovc_mems h)
  | fadd _ => exact State.wf_of_mems hs (fltWord_mems h)
  | fsub _ => exact State.wf_of_mems hs (fltWord_mems h)
  | fmul _ => exact State.wf_of_mems hs (fltWord_mems h)
  | ffma _ => exact State.wf_of_mems hs (fltWord_mems h)
  | fmin _ => exact State.wf_of_mems hs (fltWord_mems h)
  | fmax _ => exact State.wf_of_mems hs (fltWord_mems h)
  | fabs _ => exact State.wf_of_mems hs (fltWord_mems h)
  | fneg _ => exact State.wf_of_mems hs (fltWord_mems h)
  | fclass _ => exact State.wf_of_mems hs (fltWord_mems h)
  | frnd _ => exact State.wf_of_mems hs (fltWord_mems h)
  | pkadd _ => exact State.wf_of_mems hs (execPkadd_mems h)
  | pksub _ => exact State.wf_of_mems hs (execPksub_mems h)
  | pkmul _ => exact State.wf_of_mems hs (execPkmul_mems h)
  | pkfma _ => exact State.wf_of_mems hs (execPkfma_mems h)
  | pkmin _ => exact State.wf_of_mems hs (execPkmin_mems h)
  | pkmax _ => exact State.wf_of_mems hs (execPkmax_mems h)
  | pkdot _ => exact State.wf_of_mems hs (fltWord_mems h)
  | cvt _ => exact State.wf_of_mems hs (laneWord_mems h)
  | pack2 _ => exact State.wf_of_mems hs (laneWord_mems h)
  | unpk2 _ => exact State.wf_of_mems hs (execUnpk2_mems h)
  | shfl _ => exact State.wf_of_mems hs (exchange_mems h)
  | shflx _ => exact State.wf_of_mems hs (exchange_mems h)
  | shflup _ => exact State.wf_of_mems hs (exchange_mems h)
  | shfldn _ => exact State.wf_of_mems hs (exchange_mems h)
  | bcast _ => exact State.wf_of_mems hs (exchange_mems h)
  | vall _ => exact State.wf_of_mems hs (execVall_mems h)
  | vany _ => exact State.wf_of_mems hs (execVany_mems h)
  | vbal _ => exact State.wf_of_mems hs (execVbal_mems h)
  | vfirst _ => exact State.wf_of_mems hs (execVfirst_mems h)
  | rsqs _ => exact State.wf_of_mems hs (seedWord_mems h)
  | rcps _ => exact State.wf_of_mems hs (seedWord_mems h)
  | ex2s _ => exact State.wf_of_mems hs (seedWord_mems h)
  | lg2s _ => exact State.wf_of_mems hs (seedWord_mems h)
  | sins _ => exact State.wf_of_mems hs (seedWord_mems h)
  | coss _ => exact State.wf_of_mems hs (seedWord_mems h)
  | gadd _ => exact State.wf_of_mems hs (gWord_mems h)
  | gsub _ => exact State.wf_of_mems hs (gWord_mems h)
  | gmul _ => exact State.wf_of_mems hs (gWord_mems h)
  | gand _ => exact State.wf_of_mems hs (gWord_mems h)
  | gor _ => exact State.wf_of_mems hs (gWord_mems h)
  | gxor _ => exact State.wf_of_mems hs (gWord_mems h)
  | gshl _ => exact State.wf_of_mems hs (gWord_mems h)
  | gshr _ => exact State.wf_of_mems hs (gWord_mems h)
  | gmov _ => exact State.wf_of_mems hs (gWord_mems h)
  | gmovi _ => exact State.wf_of_mems hs (gWord_mems h)
  | gcmp _ => exact State.wf_of_mems hs (execGcmp_mems h)
  | klop _ => exact State.wf_of_mems hs (execKlop_mems h)
  | v2g _ => exact State.wf_of_mems hs (execV2g_mems h)
  | g2v _ => exact State.wf_of_mems hs (execG2v_mems h)
  | loopn _ => exact State.wf_of_mems hs (execLoopn_mems h)
  | ld _ => exact State.wf_of_mems hs (execLd_mems h)
  | ldx _ => exact State.wf_of_mems hs (execLdx_mems h)
  | lds _ => exact State.wf_of_mems hs (execLds_mems h)
  | st _ => exact State.wf_of_mems hs (execSt_mems h)
  | send _ => exact State.wf_of_mems hs (execSend_mems h)
  | pref _ => exact State.wf_of_mems hs (execPref_mems h)
  | fence _ => exact State.wf_of_mems hs (execFence_mems h)
  | aadd _ => exact State.wf_of_mems hs (atomWord_mems h)
  | amin _ => exact State.wf_of_mems hs (atomWord_mems h)
  | amax _ => exact State.wf_of_mems hs (atomWord_mems h)
  | aand _ => exact State.wf_of_mems hs (atomWord_mems h)
  | aor _ => exact State.wf_of_mems hs (atomWord_mems h)
  | axor _ => exact State.wf_of_mems hs (atomWord_mems h)
  | axchg _ => exact State.wf_of_mems hs (atomWord_mems h)
  | acas _ => exact State.wf_of_mems hs (atomWord_mems h)
  | afadd _ => exact State.wf_of_mems hs (atomWord_mems h)
  | runend _ => exact State.wf_of_mems hs (execRunend_mems h)
  | wait _ => exact State.wf_of_mems hs (execWait_mems h)
  | nop _ => exact State.wf_of_mems hs (execNop_mems h)
  | br _ => exact State.wf_of_mems hs (execBr_mems h)
  | bru _ => exact State.wf_of_mems hs (execBru_mems h)
  | jmpi _ => exact State.wf_of_mems hs (jumpWord_mems h)
  | call _ => exact State.wf_of_mems hs (execCall_mems h)
  | ret _ => exact State.wf_of_mems hs (jumpWord_mems h)
  | spawn _ => exact wf_execSpawn hs h
  | pause _ => exact State.wf_of_mems hs (execPause_mems h)
  | bar _ => exact State.wf_of_mems hs (execBar_mems h)
  | sstep _ => exact State.wf_of_mems hs (execSstep_mems h)
  | ftest _ => exact State.wf_of_mems hs (execFtest_mems h)
  | fcancel _ => exact State.wf_of_mems hs (execFcancel_mems h)
  | fmovg _ => exact State.wf_of_mems hs (execFmovg_mems h)
  | gmovf _ => exact State.wf_of_mems hs (execGmovf_mems h)
  | rjoin _ => exact State.wf_of_mems hs (execRjoin_mems h)
  | exit _ => exact State.wf_of_mems hs (execExit_mems h)
  | trapOp _ => exact State.wf_of_mems hs (execTrapOp_mems h)
  | bkpt _ => exact State.wf_of_mems hs (execBkpt_mems h)
  | csrr _ => exact State.wf_of_mems hs (execCsrr_mems h)
  | csrw _ => exact State.wf_of_mems hs (execCsrw_mems h)
  | traceFlush _ => exact State.wf_of_mems hs (execTraceFlush_mems h)
  | tret _ => exact State.wf_of_mems hs (execTret_mems h)
  | sqpostGroup _ => exact State.wf_of_mems hs (execSqpostGroup_mems h)
  | sqwaitGroup _ => exact State.wf_of_mems hs (execSqwaitGroup_mems h)
  | pub _ => exact State.wf_of_mems hs (execPub_mems h)
  | pubr _ => exact State.wf_of_mems hs (execPubr_mems h)
  | invr _ => exact State.wf_of_mems hs (execInvr_mems h)
  | zline _ => exact State.wf_of_mems hs (execZline_mems h)
  | tlock _ => exact State.wf_of_mems hs (execTlock_mems h)
  | tunlock _ => exact State.wf_of_mems hs (execTunlock_mems h)
  | tprobe _ => exact State.wf_of_mems hs (execTprobe_mems h)
  | migr _ => exact State.wf_of_mems hs (execMigr_mems h)
  | snap _ => exact State.wf_of_mems hs (execSnap_mems h)
  | snapdrop _ => exact State.wf_of_mems hs (execSnapdrop_mems h)
  | rootsw _ => exact State.wf_of_mems hs (execRootsw_mems h)
  | libsd _ => exact State.wf_of_mems hs (execLibsd_mems h)
  | xcopy _ => exact State.wf_of_mems hs (copyWord_mems h)
  | xconv _ => exact State.wf_of_mems hs (copyWord_mems h)
  | xqa8 _ => exact State.wf_of_mems hs (copyWord_mems h)
  | xwht _ => exact State.wf_of_mems hs (copyWord_mems h)
  | tprep _ => exact State.wf_of_mems hs (copyWord_mems h)
  | pload _ => exact State.wf_of_mems hs (execPload_mems h)
  | pstart _ => exact State.wf_of_mems hs (execPstart_mems h)
  | pstop _ => exact State.wf_of_mems hs (execPstop_mems h)
  | qpop _ => exact State.wf_of_mems hs (execQpop_mems h)
  | qpeek _ => exact State.wf_of_mems hs (execQpeek_mems h)
  | qstat _ => exact State.wf_of_mems hs (execQstat_mems h)
  | cntset _ _ _ _ => exact State.wf_of_mems hs (execCntset_mems h)
  | agset _ _ _ _ _ _ => exact State.wf_of_mems hs (execAgset_mems h)
  | piccoloSld _ _ _ _ => exact State.wf_of_mems hs (execPiccoloSld_mems h)
  | dq _ _ _ => exact State.wf_of_mems hs (execDq_mems h)
  | trn => exact State.wf_of_mems hs (execTrn_mems h)
  | push _ _ => exact State.wf_of_mems hs (execPush_mems h)
  | nextOp _ _ _ => exact State.wf_of_mems hs (execNextOp_mems h)
  | endOp => exact State.wf_of_mems hs (execEndOp_mems h)
  | sadd _ => exact State.wf_of_mems hs (execSadd_mems h)
  | ssub _ => exact State.wf_of_mems hs (execSsub_mems h)
  | smul _ => exact State.wf_of_mems hs (execSmul_mems h)
  | sand _ => exact State.wf_of_mems hs (execSand_mems h)
  | sor _ => exact State.wf_of_mems hs (execSor_mems h)
  | sxor _ => exact State.wf_of_mems hs (execSxor_mems h)
  | sshl _ => exact State.wf_of_mems hs (execSshl_mems h)
  | sshr _ => exact State.wf_of_mems hs (execSshr_mems h)
  | smov _ => exact State.wf_of_mems hs (execSmov_mems h)
  | smovi _ => exact State.wf_of_mems hs (execSmovi_mems h)
  | scmp _ => exact State.wf_of_mems hs (execScmp_mems h)
  | sbr _ => exact State.wf_of_mems hs (execSbr_mems h)
  | sjmp _ => exact State.wf_of_mems hs (execSjmp_mems h)
  | sld _ => exact State.wf_of_mems hs (execSld_mems h)
  | sst _ => exact State.wf_of_mems hs (execSst_mems h)
  | sqpostSeq _ => exact State.wf_of_mems hs (execSqpostSeq_mems h)
  | sqwaitSeq _ => exact State.wf_of_mems hs (execSqwaitSeq_mems h)
  | swaitpx _ => exact State.wf_of_mems hs (execSwaitpx_mems h)
  | sexit _ => exact State.wf_of_mems hs (execSexit_mems h)
  | scsrr _ => exact State.wf_of_mems hs (execScsrr_mems h)
  | pxldw _ => exact State.wf_of_mems hs (pxWord_mems h)
  | pxga _ => exact State.wf_of_mems hs (pxWord_mems h)
  | pxlda _ => exact State.wf_of_mems hs (pxWord_mems h)
  | pxmm _ => exact State.wf_of_mems hs (pxWord_mems h)
  | pxdm _ => exact State.wf_of_mems hs (pxWord_mems h)
  | pxzero _ => exact State.wf_of_mems hs (pxWord_mems h)
  | pxdrn _ => exact State.wf_of_mems hs (pxWord_mems h)
  | pxbyp _ => exact State.wf_of_mems hs (pxWord_mems h)
  | pxsave _ => exact State.wf_of_mems hs (pxWord_mems h)
  | pxrest _ => exact State.wf_of_mems hs (pxWord_mems h)
  | pxstat _ => exact State.wf_of_mems hs (execPxstat_mems h)
  | tload _ => exact State.wf_of_mems hs (execTload_mems h)
  | tq _ => exact State.wf_of_mems hs (execTq_mems h)
  | tq2 _ => exact State.wf_of_mems hs (execTq2_mems h)
  | tmap _ => exact State.wf_of_mems hs (execTmap_mems h)
  | tfree _ => exact State.wf_of_mems hs (execTfree_mems h)
  | landr _ => exact State.wf_of_mems hs (execLandr_mems h)
  | landcArm _ => exact State.wf_of_mems hs (execLandcArm_mems h)
  | landcPut _ => exact State.wf_of_mems hs (execLandcPut_mems h)
  | quiesce _ => exact State.wf_of_mems hs (execQuiesce_mems h)
  | resume _ => exact State.wf_of_mems hs (execResume_mems h)
  | ctxld _ => exact State.wf_of_mems hs (execCtxld_mems h)
  | ctxsv _ => exact State.wf_of_mems hs (execCtxsv_mems h)
  | halt _ => exact State.wf_of_mems hs (execHalt_mems h)
  | launch _ => exact State.wf_of_mems hs (execLaunch_mems h)
  | barrier => exact State.wf_of_mems hs (execBarrier_mems h)
  | signal _ _ => exact State.wf_of_mems hs (execSignal_mems h)
  | cancel _ _ _ _ _ => exact State.wf_of_mems hs (execCancel_mems h)
  | preempt _ _ => exact State.wf_of_mems hs (execPreempt_mems h)
  | buffer _ _ _ _ _ => exact State.wf_of_mems hs (execBuffer_mems h)
  | loopnStart _ => exact State.wf_of_mems hs (execLoopnStart_mems h)
  | loopnComplete _ => exact State.wf_of_mems hs (execLoopnComplete_mems h)
  | atomicPerform _ => exact State.wf_of_mems hs (execAtomicPerform_mems h)
  | loadReturn _ => exact State.wf_of_mems hs (execLoadReturn_mems h)
  | storePerform _ => exact wf_execStorePerform hs h
  | sendArrive _ _ => exact wf_execSendArrive hs h
  | barrierRelease _ => exact State.wf_of_mems hs (execBarrierRelease_mems h)
  | traceFlushDone _ => exact wf_execTraceFlushDone hs h
  | runArbitration _ => exact wf_execRunArbitration hs h
  | runResume _ => exact State.wf_of_mems hs (execRunResume_mems h)
  | yieldExpire _ _ => exact State.wf_of_mems hs (execYieldExpire_mems h)
  | stall _ => exact State.wf_of_mems hs (execStall_mems h)
  | trapTake _ => exact State.wf_of_mems hs (execTrapTake_mems h)
  | preemptRequest _ => exact State.wf_of_mems hs (execPreemptRequest_mems h)
  | groupSave _ => exact State.wf_of_mems hs (execGroupSave_mems h)
  | groupRestore _ _ => exact State.wf_of_mems hs (execGroupRestore_mems h)
  | groupEnd _ => exact State.wf_of_mems hs (execGroupEnd_mems h)
  | wcbWindowExpire _ _ => exact State.wf_of_mems hs (execWcbWindowExpire_mems h)
  | publicationStart _ => exact State.wf_of_mems hs (execPublicationStart_mems h)
  | homePrepare _ _ => exact State.wf_of_mems hs (execHomePrepare_mems h)
  | prepareAck _ _ => exact State.wf_of_mems hs (execPrepareAck_mems h)
  | revokeRequest _ => exact State.wf_of_mems hs (execRevokeRequest_mems h)
  | holdTimerExpire _ => exact State.wf_of_mems hs (execHoldTimerExpire_mems h)
  | homeCommit _ _ => exact State.wf_of_mems hs (execHomeCommit_mems h)
  | homeRelease _ _ => exact State.wf_of_mems hs (execHomeRelease_mems h)
  | publicationCommit _ => exact State.wf_of_mems hs (execPublicationCommit_mems h)
  | libFill _ _ => exact State.wf_of_mems hs (execLibFill_mems h)
  | loadServeHome _ _ => exact State.wf_of_mems hs (execLoadServeHome_mems h)
  | translationWalk _ _ => exact State.wf_of_mems hs (execTranslationWalk_mems h)
  | leafWriteback _ => exact State.wf_of_mems hs (execLeafWriteback_mems h)
  | logstallExpire _ => exact State.wf_of_mems hs (execLogstallExpire_mems h)
  | tlockFillLand _ => exact State.wf_of_mems hs (execTlockFillLand_mems h)
  | pageRequest _ _ => exact State.wf_of_mems hs (execPageRequest_mems h)
  | pagePromote _ => exact State.wf_of_mems hs (execPagePromote_mems h)
  | migrationCommitNotice _ _ => exact State.wf_of_mems hs (execMigrationCommitNotice_mems h)
  | pageDemote _ _ => exact State.wf_of_mems hs (execPageDemote_mems h)
  | faultCancel _ _ => exact State.wf_of_mems hs (execFaultCancel_mems h)
  | forwardedAccess _ => exact State.wf_of_mems hs (execForwardedAccess_mems h)
  | counterEpochTick => exact State.wf_of_mems hs (execCounterEpochTick_mems h)
  | pageTransfer _ _ => exact State.wf_of_mems hs (execPageTransfer_mems h)
  | snapshotCut _ => exact State.wf_of_mems hs (execSnapshotCut_mems h)
  | rollback _ => exact State.wf_of_mems hs (execRollback_mems h)
  | cleanSegment _ _ => exact State.wf_of_mems hs (execCleanSegment_mems h)
  | shootdown _ => exact State.wf_of_mems hs (execShootdown_mems h)
  | segmentShip _ => exact State.wf_of_mems hs (execSegmentShip_mems h)
  | replicaSegmentReceive _ => exact State.wf_of_mems hs (execReplicaSegmentReceive_mems h)
  | copyOpStart _ => exact State.wf_of_mems hs (execCopyOpStart_mems h)
  | copyOpComplete _ => exact State.wf_of_mems hs (execCopyOpComplete_mems h)
  | ploadDataReturn _ => exact State.wf_of_mems hs (execPloadDataReturn_mems h)
  | piccoloRunBegin _ => exact State.wf_of_mems hs (execPiccoloRunBegin_mems h)
  | piccoloSldReturn _ _ => exact State.wf_of_mems hs (execPiccoloSldReturn_mems h)
  | bindingEnd _ => exact State.wf_of_mems hs (execBindingEnd_mems h)
  | streamStart _ => exact State.wf_of_mems hs (execStreamStart_mems h)
  | streamHandleResolve _ => exact State.wf_of_mems hs (execStreamHandleResolve_mems h)
  | seqSldReturn _ _ => exact State.wf_of_mems hs (execSeqSldReturn_mems h)
  | seqStall _ => exact State.wf_of_mems hs (execSeqStall_mems h)
  | seqTrap _ => exact State.wf_of_mems hs (execSeqTrap_mems h)
  | seqSave _ => exact State.wf_of_mems hs (execSeqSave_mems h)
  | seqRestore _ _ => exact State.wf_of_mems hs (execSeqRestore_mems h)
  | pxOpStart _ => exact State.wf_of_mems hs (execPxOpStart_mems h)
  | pxOpComplete _ _ => exact State.wf_of_mems hs (execPxOpComplete_mems h)
  | tloadComplete _ => exact wf_execTloadComplete hs h
  | tqPacketServe _ => exact State.wf_of_mems hs (execTqPacketServe_mems h)
  | tqReply _ => exact State.wf_of_mems hs (execTqReply_mems h)
  | lanesReturn _ _ => exact State.wf_of_mems hs (execLanesReturn_mems h)
  | tmapComplete _ => exact State.wf_of_mems hs (execTmapComplete_mems h)
  | tfreeComplete _ => exact State.wf_of_mems hs (execTfreeComplete_mems h)
  | landOpStart _ => exact State.wf_of_mems hs (execLandOpStart_mems h)
  | armReserve _ => exact State.wf_of_mems hs (execArmReserve_mems h)
  | chunkAccept _ => exact State.wf_of_mems hs (execChunkAccept_mems h)
  | putRetry _ => exact State.wf_of_mems hs (execPutRetry_mems h)
  | landPublish _ => exact State.wf_of_mems hs (execLandPublish_mems h)
  | quiesceComplete _ => exact State.wf_of_mems hs (execQuiesceComplete_mems h)
  | queueKick _ _ _ => exact State.wf_of_mems hs (execQueueKick_mems h)
  | queueReset _ _ => exact State.wf_of_mems hs (execQueueReset_mems h)
  | packetRead _ => exact State.wf_of_mems hs (execPacketRead_mems h)
  | packetReread _ => exact State.wf_of_mems hs (execPacketReread_mems h)
  | blockPlace _ _ => exact wf_execBlockPlace hs h
  | groupMove _ _ => exact State.wf_of_mems hs (execGroupMove_mems h)
  | priorityPreempt _ _ => exact State.wf_of_mems hs (execPriorityPreempt_mems h)
  | launchComplete _ => exact State.wf_of_mems hs (execLaunchComplete_mems h)
  | hostAdmit _ => exact State.wf_of_mems hs (execHostAdmit_mems h)
  | ownershipSwap _ _ => exact State.wf_of_mems hs (execOwnershipSwap_mems h)
  | frozenClear _ _ => exact State.wf_of_mems hs (execFrozenClear_mems h)
  | hostRead _ _ _ => exact State.wf_of_mems hs (execHostRead_mems h)
  | hostWrite _ _ _ => exact State.wf_of_mems hs (execHostWrite_mems h)
  | hostWcbWindowExpire _ _ => exact State.wf_of_mems hs (execHostWcbWindowExpire_mems h)
  | hostRelease _ _ => exact State.wf_of_mems hs (execHostRelease_mems h)
  | hostmapWrite _ _ _ => exact State.wf_of_mems hs (execHostmapWrite_mems h)
  | ckreq _ _ => exact State.wf_of_mems hs (execCkreq_mems h)
  | ckOpStart _ => exact wf_execCkOpStart hs h
  | shardReceive _ => exact wf_execShardReceive hs h
  | manifestWrite _ => exact wf_execManifestWrite hs h
  | ckCommit _ => exact wf_execCkCommit hs h
  | ckRestore _ => exact wf_execCkRestore hs h
  | refusedClear _ => exact State.wf_of_mems hs (execRefusedClear_mems h)
  | histSample _ => exact State.wf_of_mems hs (execHistSample_mems h)
  | timeseriesTick => exact wf_execTimeseriesTick hs h
  | kSwitch => exact State.wf_of_mems hs (execKSwitch_mems h)
  | dump _ => exact wf_execDump hs h
  | trctailWrite _ _ => exact State.wf_of_mems hs (execTrctailWrite_mems h)
  | trclostRead _ => exact State.wf_of_mems hs (execTrclostRead_mems h)
  | flitReplay _ => exact State.wf_of_mems hs (execFlitReplay_mems h)
  | linkDown _ => exact State.wf_of_mems hs (execLinkDown_mems h)
  | noRoute _ => exact wf_execNoRoute hs h
  | linkTrain _ _ => exact State.wf_of_mems hs (execLinkTrain_mems h)
  | retrain _ _ => exact State.wf_of_mems hs (execRetrain_mems h)
  | heartbeat => exact State.wf_of_mems hs (execHeartbeat_mems h)
  | peerFailure _ => exact State.wf_of_mems hs (execPeerFailure_mems h)
  | qfMessageReceive _ _ => exact wf_execQfMessageReceive hs h
  | hostErrcountRead _ => exact State.wf_of_mems hs (execHostErrcountRead_mems h)
  | powerDownEntry _ => exact State.wf_of_mems hs (execPowerDownEntry_mems h)
  | selfRefreshEntry _ => exact State.wf_of_mems hs (execSelfRefreshEntry_mems h)
  | channelWake _ => exact State.wf_of_mems hs (execChannelWake_mems h)
  | forcesr _ _ _ => exact State.wf_of_mems hs (execForcesr_mems h)
  | gatectlWrite _ _ _ => exact wf_execGatectlWrite hs h
  | gateWake _ => exact wf_execGateWake hs h
  | gateErrorClear _ => exact State.wf_of_mems hs (execGateErrorClear_mems h)
  | coldReset => exact wf_execColdReset h
  | warmReset _ => exact wf_execWarmReset hs h
  | boot _ _ _ => exact State.wf_of_mems hs (execBoot_mems h)
  | attreq _ _ => exact wf_execAttreq hs h
  | softError _ _ _ => exact wf_execSoftError hs h
  | registerWrite _ _ _ => exact wf_execRegisterWrite hs h
  | seqSstPerform _ _ => exact State.wf_of_mems hs (execSeqSstPerform_mems h)
  | tprobeResult _ => exact wf_execTprobeResult hs h
  | newImage _ _ _ => exact State.wf_of_mems hs (execNewImage_mems h)

theorem State.wf_groupTurn {s : State} {gid : Nat} {t : State} (hs : s.mems.wf = true) (h : s.groupTurn gid = .next t) : t.mems.wf = true := by
  unfold State.groupTurn at h
  split at h
  · cases h; exact hs
  split at h
  · split at h
    · cases h; simpa using hs
    · cases h; exact hs
  split at h
  · cases h; simpa using hs
  · exact wf_exec (by exact hs) h

theorem State.wf_seqTurn {s : State} {cl : Nat} {t : State} (hs : s.mems.wf = true) (h : s.seqTurn cl = .next t) : t.mems.wf = true := by
  unfold State.seqTurn at h
  split at h
  · cases h; simpa using hs
  · cases h; simpa using hs
  · exact wf_exec (by exact hs) h

theorem State.wf_slotTurn {s : State} {core : Nat} {t : State} (hs : s.mems.wf = true) (h : s.slotTurn core = .next t) : t.mems.wf = true := by
  simp only [State.slotTurn] at h
  split at h
  · split at h
    · cases h; simpa using hs
    · exact wf_exec (by exact hs) h
  · cases h; exact hs

theorem State.wf_queueTurn {s : State} {q : Nat} {t : State} (hs : s.mems.wf = true) (h : s.queueTurn q = .next t) : t.mems.wf = true := by
  unfold State.queueTurn at h
  split at h
  · cases h; exact hs
  split at h
  · cases h; simpa using hs
  · exact wf_exec (by exact hs) h

theorem State.wf_turn {s : State} {n : Turn} {t : State} (hs : s.mems.wf = true) (h : s.turn n = .next t) : t.mems.wf = true := by
  cases n with
  | clock => cases h; exact State.wf_clock s hs
  | group gid => exact State.wf_groupTurn hs h
  | seq cl => exact State.wf_seqTurn hs h
  | slot core => exact State.wf_slotTurn hs h
  | queue q => exact State.wf_queueTurn hs h
  | event i =>
    simp only [State.turn] at h
    split at h
    · exact wf_exec (by exact hs) h
    · cases h; exact hs

theorem wf_step {s t : State} (hs : s.mems.wf = true) (h : step s = .next t) : t.mems.wf = true := by
  unfold step at h
  split at h
  · exact State.wf_turn (by exact hs) h
  · exact State.wf_turn (by exact hs) h

/-- Settles O6: every function that a step calls leaves the memories as they are or writes them by `Memory` operations that keep their form. -/
theorem memoryFormKept : Obligations.MemoryFormKept := fun _ _ hs h => wf_step hs h

end Sys2Proof.Machine
end

section
/-! SUPPORT of O23. Little-endian numbers in a byte memory, and what a scratchpad write gives (R4, R98, R99). -/

namespace Sys2Proof.Machine

/-- The digit in base 256 of a number at place b - a is the one before it of the number without its last digit. -/
theorem byteDigit_succ (v : Nat) {a b : Nat} (h : a < b) : v / 2 ^ (8 * (b - a)) = v / 256 / 2 ^ (8 * (b - (a + 1))) := by
  have hd : 8 * (b - a) = 8 + 8 * (b - (a + 1)) := by omega
  rw [hd, pow_add, ← Nat.div_div_eq_div_mul]
  norm_num

/-- The bytes of a little-endian write: byte i holds the digit i of the number in base 256. -/
theorem Memory.read_writeLE_in (n : Nat) : ∀ (m : Memory) (a v b : Nat), a ≤ b → b < a + n →
    Memory.read (Memory.writeLE m a n v) b = BitVec.ofNat 8 (v / 2 ^ (8 * (b - a))) := by
  induction n with
  | zero => intro m a v b h h'; omega
  | succ n ih =>
    intro m a v b h h'
    rw [Memory.writeLE]
    rcases Nat.eq_or_lt_of_le h with rfl | hlt
    · rw [Memory.read_writeLE_out _ _ _ _ _ (by omega), Memory.read_write, if_pos rfl]
      simp
    · rw [ih _ _ _ _ (by omega) (by omega), byteDigit_succ v hlt]

theorem Memory.read_writeLE (m : Memory) (a n v b : Nat) :
    Memory.read (Memory.writeLE m a n v) b = if a ≤ b ∧ b < a + n then BitVec.ofNat 8 (v / 2 ^ (8 * (b - a))) else Memory.read m b := by
  split
  next h => exact Memory.read_writeLE_in n m a v b h.1 h.2
  next h => exact Memory.read_writeLE_out n m a v b (by omega)

theorem Memory.readLE_lt (m : Memory) (n : Nat) : ∀ a, Memory.readLE m a n < 2 ^ (8 * n) := by
  induction n with
  | zero => intro a; exact Nat.one_pos
  | succ n ih =>
    intro a
    have hb := (Memory.read m a).isLt
    have hr := ih (a + 1)
    have hp : 2 ^ (8 * (n + 1)) = 256 * 2 ^ (8 * n) := by rw [Nat.mul_succ, pow_add]; omega
    rw [Memory.readLE, hp]
    omega

/-- A number whose digits are the bytes read is the number read. -/
theorem Memory.readLE_of_bytes (m : Memory) (n : Nat) : ∀ a v, (∀ b, a ≤ b → b < a + n → Memory.read m b = BitVec.ofNat 8 (v / 2 ^ (8 * (b - a)))) →
    Memory.readLE m a n = v % 2 ^ (8 * n) := by
  induction n with
  | zero => intro a v _; simp [Memory.readLE, Nat.mod_one]
  | succ n ih =>
    intro a v h
    have hrest : Memory.readLE m (a + 1) n = v / 256 % 2 ^ (8 * n) := ih _ _ (fun b hb hb' => by
      rw [h b (by omega) (by omega), byteDigit_succ v (by omega)])
    have hp : 2 ^ (8 * (n + 1)) = 256 * 2 ^ (8 * n) := by rw [Nat.mul_succ, pow_add]; omega
    rw [Memory.readLE, hrest, h a (le_refl _) (by omega), hp, Nat.mod_mul]
    simp

/-- A byte of the number read is the byte there. -/
theorem Memory.read_of_readLE (m : Memory) (n : Nat) : ∀ a b, a ≤ b → b < a + n →
    BitVec.ofNat 8 (Memory.readLE m a n / 2 ^ (8 * (b - a))) = Memory.read m b := by
  induction n with
  | zero => intro a b h h'; omega
  | succ n ih =>
    intro a b h h'
    have hb := (Memory.read m a).isLt
    rw [Memory.readLE]
    rcases Nat.eq_or_lt_of_le h with rfl | hlt
    · apply BitVec.eq_of_toNat_eq
      simp only [Nat.sub_self, Nat.mul_zero, pow_zero, Nat.div_one, BitVec.toNat_ofNat]
      omega
    · have hq : ((Memory.read m a).toNat + 256 * Memory.readLE m (a + 1) n) / 256 = Memory.readLE m (a + 1) n := by omega
      rw [byteDigit_succ _ hlt, hq, ih _ _ (by omega) (by omega)]

theorem Memory.readLE_writeLE (m : Memory) (a n v : Nat) : Memory.readLE (Memory.writeLE m a n v) a n = v % 2 ^ (8 * n) :=
  Memory.readLE_of_bytes _ n a v (fun b hb hb' => Memory.read_writeLE_in n m a v b hb hb')

theorem Mems.of_put {sp : Space} (h : sp ≠ .gl) (m : Mems) (x : Memory) : (m.put sp x).of sp = x := by
  cases sp with
  | gl => exact absurd rfl h
  | ln => rfl
  | cr => rfl
  | cm => rfl
  | ds => rfl

/-- The spaces other than the one written, of which `.cr` and `.cm` are one memory. -/
theorem Mems.of_put_ne {sp sp' : Space} (h : sp' ≠ sp) (hcr : ¬ (sp = .cr ∧ sp' = .cm)) (hcm : ¬ (sp = .cm ∧ sp' = .cr)) (m : Mems) (x : Memory) :
    (m.put sp x).of sp' = m.of sp' := by
  cases sp <;> cases sp' <;> simp_all [Mems.put, Mems.of]

theorem State.padWrite_of {sp : Space} (h : sp ≠ .gl) (s : State) (key n v : Nat) :
    (s.padWrite sp key n v).mems.of sp = (s.mems.of sp).writeLE key n v := Mems.of_put h _ _

theorem State.padRead_padWrite {sp : Space} (h : sp ≠ .gl) (s : State) (key n v : Nat) :
    (s.padWrite sp key n v).padRead sp key n = v % 2 ^ (8 * n) := by
  rw [State.padRead, State.padWrite_of h, Memory.readLE_writeLE]

theorem State.read_padWrite {sp : Space} (h : sp ≠ .gl) (s : State) (key n v a : Nat) : ((s.padWrite sp key n v).mems.of sp).read a =
    if key ≤ a ∧ a < key + n then BitVec.ofNat 8 (v / 2 ^ (8 * (a - key))) else (s.mems.of sp).read a := by
  rw [State.padWrite_of h, Memory.read_writeLE]

theorem scratchpadMemory : scratchpadMemoryRules := fun s sp key n v h =>
  ⟨State.padRead_padWrite h s key n v,
    fun a ha => by rw [State.read_padWrite h, if_neg (by omega)],
    fun _ hne hcr hcm => Mems.of_put_ne hne hcr hcm _ _,
    State.wf_padWrite s sp key n v⟩

end Sys2Proof.Machine
end

section
/-! SUPPORT of O23. The steps of an operation of relaxed order: its leaving the memory queue, its end, and the registers that a load writes. -/

namespace Sys2Proof.Machine

variable {s : State} {n : Nat} {o : MemOp} {g : Group}

theorem FMap.erase_set {α : Type} (m : FMap α) (k : Nat) (a : α) : FMap.erase (FMap.set m k a) k = FMap.erase m k := by
  induction m with
  | nil => simp [FMap.set, FMap.erase]
  | cons c m ih =>
    obtain ⟨k', a'⟩ := c
    unfold FMap.set
    split
    · next h => subst h; simp [FMap.erase]
    split
    · simp [FMap.erase]
    · simp only [FMap.erase] at ih ⊢
      rw [List.filter_cons, List.filter_cons, ih]

theorem FMap.erase_modify {α : Type} (m : FMap α) (k : Nat) (f : α → α) : FMap.erase (FMap.modify m k f) k = FMap.erase m k := by
  unfold FMap.modify
  split
  · exact FMap.erase_set _ _ _
  · rfl

theorem State.get?_modOp (f : MemOp → MemOp) (h : s.ops.get? n = some o) : (s.modOp n f).ops.get? n = some (f o) := by
  rw [State.modOp, FMap.get?_modify_self, h]
  rfl

theorem State.grp_modGrp {gid : Nat} (f : Group → Group) (h : s.grp gid = some g) : (s.modGrp gid f).grp gid = some (f g) := by
  rw [State.grp, State.modGrp, FMap.get?_modify_self]
  exact congrArg (Option.map f) h

/-! Order. -/

theorem relReady_of_rlx (hr : o.order = .rlx) : relReady o = true := by
  simp [relReady, relWide, isRel, hr]

theorem State.begin_of_rlx (ho : s.ops.get? n = some o) (hg : s.grp o.gid = some g) (hr : o.order = .rlx) : s.begin n = s.leaveQueue n := by
  simp only [State.begin, ho, hg, State.syncOp, relReady_of_rlx hr, if_true]

theorem State.leaveQueue_of_left (ho : s.ops.get? n = some o) (hq : o.queued = false) : s.leaveQueue n = s := by
  simp [State.leaveQueue, ho, hq]

theorem State.begin_of_left (ho : s.ops.get? n = some o) (hg : s.grp o.gid = some g) (hr : o.order = .rlx) (hq : o.queued = false) : s.begin n = s := by
  rw [State.begin_of_rlx ho hg hr, State.leaveQueue_of_left ho hq]

theorem State.earlier_of_firstOf (h : firstOf s n o.gid) : s.earlier n o = [] := by
  refine List.filter_eq_nil_iff.2 (fun p hp hc => ?_)
  simp only [Bool.and_eq_true, decide_eq_true_eq, beq_iff_eq] at hc
  exact absurd (h p hp hc.2) (by omega)

theorem State.mayLeave_of_firstOf (hr : o.order = .rlx) (h : firstOf s n o.gid) : s.mayLeave n o = true := by
  simp [State.mayLeave, relReady_of_rlx hr, State.earlier_of_firstOf h]

/-- R104: with nothing of its group before it, and nothing before it in the queue, an operation leaves the queue now. -/
theorem State.begin_of_firstOf (ho : s.ops.get? n = some o) (hg : s.grp o.gid = some g) (hr : o.order = .rlx) (hq : o.queued = true)
    (h : firstOf s n o.gid) (hearly : ∀ p ∈ s.ops, p.1 < n → p.2.queued = false) :
    s.begin n = s.modOp n (fun o => { o with queued := false, arriveAt := s.pcc }) := by
  have hfirst (near : MemOp → Bool) : s.ops.any (fun p => decide (p.1 < n) && p.2.queued && near p.2 && s.mayLeave p.1 p.2) = false := by
    refine List.any_eq_false.2 (fun p hp hc => ?_)
    simp only [Bool.and_eq_true, decide_eq_true_eq] at hc
    obtain ⟨⟨⟨hlt, hpq⟩, -⟩, -⟩ := hc
    rw [hearly p hp hlt] at hpq
    cases hpq
  rw [State.begin_of_rlx ho hg hr]
  simp only [State.leaveQueue, ho]
  rw [hfirst (fun p => (s.grp p.gid).bind Group.core? == (s.grp o.gid).bind Group.core?), hq, State.mayLeave_of_firstOf hr h]
  rfl

/-! The time of a part (R447). -/

theorem foldl_max_le (l : List Nat) {a b : Nat} (ha : a ≤ b) (h : ∀ x ∈ l, x ≤ b) : l.foldl max a ≤ b :=
  List.foldlRecOn l max (motive := fun c => c ≤ b) ha (fun _ hc x hx => max_le hc (h x hx))

theorem State.partDone_of_served (hs : o.space ≠ .gl) (h : ∀ x ∈ o.parts, x.served = true ∧ x.servedAt.toNat + padFixed o.space ≤ s.now) {x : Part}
    (hx : x ∈ o.parts) : s.partDone o 0 x = true := by
  have hall : (o.parts.filter (fun y => padTarget o.space y.addr == padTarget o.space x.addr)).all (·.served) = true :=
    List.all_eq_true.2 (fun y hy => (h y (List.mem_of_mem_filter hy)).1)
  have hmax : ((o.parts.filter (fun y => padTarget o.space y.addr == padTarget o.space x.addr)).map (fun y => y.servedAt.toNat)).foldl max 0 ≤
      s.now - padFixed o.space := by
    refine foldl_max_le _ (Nat.zero_le _) (fun t ht => ?_)
    obtain ⟨y, hy, rfl⟩ := List.mem_map.1 ht
    have := (h y (List.mem_of_mem_filter hy)).2
    omega
  have hnow := (h x hx).2
  simp only [State.partDone, hs, if_false, MemOp.partDue, hall, if_true, decide_eq_true_eq]
  omega

theorem State.partDone_of_unserved {x : Part} (hs : o.space ≠ .gl) (hx : x ∈ o.parts) (h : x.served = false) : s.partDone o 0 x = false := by
  have hall : (o.parts.filter (fun y => padTarget o.space y.addr == padTarget o.space x.addr)).all (·.served) = false :=
    List.all_eq_false.2 ⟨x, List.mem_filter.2 ⟨hx, by simp⟩, by simp [h]⟩
  simp [State.partDone, hs, MemOp.partDue, hall]

/-! The end of an operation. -/

/-- A group one of whose operations has performed: the class counts one less, and a SEND some of whose writes were refused leaves its trap. -/
def MemOp.ended (o : MemOp) (g : Group) : Group := { g with
  deferred := match sendTrap o with
    | none => g.deferred
    | some t => addTrap t g.deferred
  loads := g.loads - (if isLoadKind o.kind then 1 else 0), stores := g.stores - (if isStoreKind o.kind then 1 else 0) }

theorem State.finishOp_of_rlx (hg : s.grp o.gid = some g) (hr : o.order = .rlx) :
    s.finishOp n o = ({ s with ops := s.ops.erase n }).modGrp o.gid o.ended := by
  simp only [State.finishOp, hg, hr, isAcq, Bool.false_eq_true, if_false]
  rfl

theorem State.endStore_of_unserved {x : Part} (ho : s.ops.get? n = some o) (hs : o.space ≠ .gl) (hp : o.parts = [x]) (hx : x.served = false) :
    s.endStore n = s := by
  simp only [State.endStore, ho, hp, List.all_cons, List.all_nil, Bool.and_true, State.partDone_of_unserved hs (hp ▸ List.mem_singleton_self x) hx,
    Bool.false_eq_true, if_false]

theorem State.endStore_of_served (ho : s.ops.get? n = some o) (hs : o.space ≠ .gl)
    (h : ∀ x ∈ o.parts, x.served = true ∧ x.servedAt.toNat + padFixed o.space ≤ s.now) : s.endStore n = s.finishOp n o := by
  have hall : o.parts.all (s.partDone o 0) = true := List.all_eq_true.2 (fun x hx => State.partDone_of_served hs h hx)
  simp only [State.endStore, ho, hall, if_true]

/-- The operation once the values of all of its parts are written. -/
def MemOp.allPut (o : MemOp) : MemOp := { o with parts := o.parts.map (fun x => { x with put := true }) }

/-- A load whose parts have all performed: its values are written and it ends. -/
theorem State.putDone_of_served (ho : s.ops.get? n = some o) (hs : o.space ≠ .gl)
    (h : ∀ x ∈ o.parts, x.served = true ∧ x.put = false ∧ x.servedAt.toNat + padFixed o.space ≤ s.now) :
    s.putDone n = ((s.modGrp o.gid (fun g => { g with regs := o.parts.foldl (putPart o) g.regs })).modOp n (fun _ => o.allPut)).finishOp n o.allPut := by
  have hdone : ∀ x ∈ o.parts, s.partDone o 0 x = true := fun x hx => State.partDone_of_served hs (fun y hy => ⟨(h y hy).1, (h y hy).2.2⟩) hx
  have hready : o.parts.filter (fun x => !x.put && s.partDone o 0 x) = o.parts :=
    List.filter_eq_self.2 (fun x hx => by simp [(h x hx).2.1, hdone x hx])
  have hmap : o.parts.map (fun x => if s.partDone o 0 x then { x with put := true } else x) = o.parts.map (fun x => { x with put := true }) :=
    List.map_congr_left (fun x hx => by rw [hdone x hx, if_pos rfl])
  have hput : (o.parts.map (fun x => { x with put := true })).all (·.put) = true := by simp
  simp only [State.putDone, ho, hready, hmap, hput, if_true]
  rfl

theorem State.putDone_ends (ho : s.ops.get? n = some o) (hg : s.grp o.gid = some g) (hs : o.space ≠ .gl) (hr : o.order = .rlx)
    (h : ∀ x ∈ o.parts, x.served = true ∧ x.put = false ∧ x.servedAt.toNat + padFixed o.space ≤ s.now) :
    ∃ g', (s.putDone n).grp o.gid = some g' ∧ (s.putDone n).ops = s.ops.erase n ∧ (s.putDone n).mems = s.mems ∧ (s.putDone n).store = s.store ∧
      g'.regs = o.parts.foldl (putPart o) g.regs ∧ g'.loads = g.loads - (if isLoadKind o.kind then 1 else 0) ∧
      g'.stores = g.stores - (if isStoreKind o.kind then 1 else 0) := by
  have hgrp := State.grp_modGrp (fun g => { g with regs := o.parts.foldl (putPart o) g.regs }) hg
  have hfin := State.finishOp_of_rlx (n := n) (o := o.allPut)
    (s := (s.modGrp o.gid (fun g => { g with regs := o.parts.foldl (putPart o) g.regs })).modOp n (fun _ => o.allPut)) hgrp hr
  rw [State.putDone_of_served ho hs h, hfin]
  exact ⟨_, State.grp_modGrp _ hgrp, FMap.erase_modify _ _ _, rfl, rfl, rfl, rfl, rfl⟩

end Sys2Proof.Machine
end

section
/-! SUPPORT of O23. The registers that a scratchpad load or a returning atomic writes (R113, R114, R120, R121). -/

namespace Sys2Proof.Machine

variable {s : State} {n : Nat} {o : MemOp} {g : Group}

theorem Regs.vreg_foldl_setV (rg : Regs) (d l : Nat) (f : Nat → Word) (m l' : Nat) (hl : l < 64) (hl' : l' < 64) (k : Nat) :
    ((List.range k).foldl (fun rg i => rg.setV (d + i) l (f i)) rg).vreg m l' = if l' = l ∧ d ≤ m ∧ m < d + k then f (m - d) else rg.vreg m l' := by
  induction k with
  | zero => rw [if_neg (by omega)]; rfl
  | succ k ih =>
    rw [List.range_succ, List.foldl_append, List.foldl_cons, List.foldl_nil, Regs.vreg_setV _ _ _ _ _ _ hl hl', ih]
    by_cases h : m = d + k ∧ l' = l
    · obtain ⟨rfl, rfl⟩ := h
      simp
    · rw [if_neg h]
      congr 1
      simp only [eq_iff_iff]
      omega

/-- A part writes the v-registers of its own lane only. -/
theorem putPart_vreg_ne (rg : Regs) {x : Part} {m l : Nat} (hx : x.lane < 64) (hl : l < 64) (h : l ≠ x.lane) :
    (putPart o rg x).vreg m l = rg.vreg m l := by
  unfold putPart
  split
  · rfl
  · split
    · rw [Regs.vreg_setV _ _ _ _ _ _ hx hl, if_neg (by tauto)]
    · rw [Regs.vreg_foldl_setV _ _ _ _ _ _ hx hl, if_neg (by tauto)]
  · rw [Regs.vreg_foldl_setV _ _ _ _ _ _ hx hl, if_neg (by tauto)]
  · rfl

theorem foldl_putPart_vreg_ne {m l : Nat} (hl : l < 64) (xs : List Part) (hlt : ∀ x ∈ xs, x.lane < 64) (h : ∀ x ∈ xs, l ≠ x.lane) (rg : Regs) :
    (xs.foldl (putPart o) rg).vreg m l = rg.vreg m l :=
  List.foldlRecOn xs (putPart o) (motive := fun r => r.vreg m l = rg.vreg m l) rfl
    (fun r hr x hx => (putPart_vreg_ne r (hlt x hx) hl (h x hx)).trans hr)

/-- Of parts of different lanes, what a lane's part writes stands at the end. -/
theorem foldl_putPart_vreg {m : Nat} {c : Word} {x : Part} (hc : ∀ rg, (putPart o rg x).vreg m x.lane = c) (xs : List Part) (hx : x ∈ xs)
    (hlt : ∀ x ∈ xs, x.lane < 64) (hnd : (xs.map (·.lane)).Nodup) (rg : Regs) : (xs.foldl (putPart o) rg).vreg m x.lane = c := by
  induction xs generalizing rg with
  | nil => cases hx
  | cons y ys ih =>
    obtain ⟨hy, hys⟩ := List.nodup_cons.1 hnd
    have hlts : ∀ x ∈ ys, x.lane < 64 := fun z hz => hlt z (List.mem_cons_of_mem _ hz)
    rw [List.foldl_cons]
    rcases List.mem_cons.1 hx with rfl | hx
    · rw [foldl_putPart_vreg_ne (hlt x (List.mem_cons_self ..)) ys hlts (fun z hz he => hy (List.mem_map.2 ⟨z, hz, he.symm⟩)), hc]
    · exact ih hx hlts hys _

/-! The values. -/

theorem wordDigit_mod (v : Nat) {w i : Nat} (h : i < w / 4) : v % 2 ^ (8 * w) / 2 ^ (32 * i) % 2 ^ 32 = v / 2 ^ (32 * i) % 2 ^ 32 := by
  have hp : 2 ^ (8 * w) = 2 ^ (32 * i) * 2 ^ (8 * w - 32 * i) := by rw [← pow_add]; congr 1; omega
  rw [hp, Nat.mod_mul_right_div_self, Nat.mod_mod_of_dvd _ (pow_dvd_pow 2 (by omega))]

/-- The word i of a wide value: BitVec.ofNat drops what lies above it. -/
theorem ofNat_wordDigit (v : Nat) {w i : Nat} (h : i < w / 4) : BitVec.ofNat 32 (v % 2 ^ (8 * w) / 2 ^ (32 * i)) = BitVec.ofNat 32 (v / 2 ^ (32 * i)) :=
  BitVec.eq_of_toNat_eq (by simpa only [BitVec.toNat_ofNat] using wordDigit_mod v h)

theorem ofInt_intOf (sgn : Bool) (b : BitVec 64) : BitVec.ofInt 32 (intOf 32 sgn b) = BitVec.ofNat 32 b.toNat := by
  apply BitVec.eq_of_toNat_eq
  simp only [intOf, BitVec.toNat_ofInt, BitVec.toNat_ofNat]
  split <;> omega

/-- A wide value, or one of 4 bytes: each register takes its 4 bytes. -/
theorem putPart_vreg_wide (rg : Regs) {x : Part} {i : Nat} (hx : x.lane < 64) (hk : (∃ sx, o.kind = .ld sx) ∨ ∃ fn sgn, o.kind = .atom fn sgn true)
    (hw : 4 ≤ o.width) (hi : i < o.width / 4) : (putPart o rg x).vreg (o.dest + i) x.lane = BitVec.ofNat 32 (x.val.toNat / 2 ^ (32 * i)) := by
  have hwide : ((List.range (o.width / 4)).foldl (fun rg i => rg.setV (o.dest + i) x.lane
      (BitVec.ofNat 32 (x.val.toNat % 2 ^ (8 * o.width) / 2 ^ (32 * i)))) rg).vreg (o.dest + i) x.lane = BitVec.ofNat 32 (x.val.toNat / 2 ^ (32 * i)) := by
    rw [Regs.vreg_foldl_setV _ _ _ _ _ _ hx hx, if_pos (by omega), Nat.add_sub_cancel_left, ofNat_wordDigit _ hi]
  rcases hk with ⟨sx, hk⟩ | ⟨fn, sgn, hk⟩
  · simp only [putPart, hk]
    split
    · have h4 : o.width = 4 := by omega
      obtain rfl : i = 0 := by omega
      rw [Nat.add_zero, Regs.vreg_setV _ _ _ _ _ _ hx hx, if_pos ⟨rfl, rfl⟩, h4]
      have hd := ofNat_wordDigit x.val.toNat (w := 4) (i := 0) (by omega)
      split
      · rw [ofInt_intOf, ← hd]
        apply BitVec.eq_of_toNat_eq
        simp only [BitVec.toNat_ofNat]
        omega
      · simpa using hd
    · exact hwide
  · simp only [putPart, hk]
    exact hwide

/-- A narrow value without sign. -/
theorem putPart_vreg_zero (rg : Regs) {x : Part} (hx : x.lane < 64) (hk : o.kind = .ld false) (hw : o.width < 4) :
    (putPart o rg x).vreg o.dest x.lane = BitVec.ofNat 32 (x.val.toNat % 2 ^ (8 * o.width)) := by
  simp only [putPart, hk, if_pos (Nat.le_of_lt hw), Bool.false_eq_true, if_false]
  rw [Regs.vreg_setV _ _ _ _ _ _ hx hx, if_pos ⟨rfl, rfl⟩]

/-- A narrow value with sign. -/
theorem putPart_vreg_sign (rg : Regs) {x : Part} (hx : x.lane < 64) (hk : o.kind = .ld true) (hw : o.width < 4) :
    (putPart o rg x).vreg o.dest x.lane = BitVec.ofInt 32 (intOf (8 * o.width) true (BitVec.ofNat 64 (x.val.toNat % 2 ^ (8 * o.width)))) := by
  simp only [putPart, hk, if_pos (Nat.le_of_lt hw), if_true]
  rw [Regs.vreg_setV _ _ _ _ _ _ hx hx, if_pos ⟨rfl, rfl⟩]

theorem putPart_greg (rg : Regs) (x : Part) (hk : o.kind = .lds) :
    (putPart o rg x).greg o.dest = BitVec.ofNat 64 (x.val.toNat % 2 ^ (8 * o.width)) := by
  simp only [putPart, hk]
  rw [Regs.greg_setG, if_pos rfl]

/-- The signed value of a narrow one, below 2^31 in size. -/
theorem toInt_signed (v : Nat) {w : Nat} (hw : w = 1 ∨ w = 2) : (BitVec.ofInt 32 (intOf (8 * w) true (BitVec.ofNat 64 (v % 2 ^ (8 * w))))).toInt =
    if v % 2 ^ (8 * w) < 2 ^ (8 * w - 1) then ((v % 2 ^ (8 * w) : Nat) : Int) else ((v % 2 ^ (8 * w) : Nat) : Int) - 2 ^ (8 * w) := by
  rcases hw with rfl | rfl
  all_goals
    simp only [intOf, BitVec.toInt_ofInt, BitVec.toNat_ofNat, Bool.true_and, decide_eq_true_eq, Int.bmod_def]
    norm_num
    split <;> split <;> split <;> omega

/-! The return. -/

theorem execLoadReturn_pad (ho : s.ops.get? n = some o) (hg : s.grp o.gid = some g) (hs : o.space ≠ .gl)
    (hk : (∃ sx, o.kind = .ld sx) ∨ o.kind = .lds ∨ ∃ fn sgn, o.kind = .atom fn sgn true) :
    execLoadReturn n s = .next ((s.begin n).putDone n) := by
  rcases hk with ⟨sx, hk⟩ | hk | ⟨fn, sgn, hk⟩ <;> simp only [execLoadReturn, ho, hg, hk, hs, if_false]

theorem scratchpadReturn : scratchpadReturnRules := by
  intro s op o g ho hg hs hr hq hp hnd hlt hk
  have hkinds : (∃ sx, o.kind = .ld sx) ∨ o.kind = .lds ∨ ∃ fn sgn, o.kind = .atom fn sgn true :=
    hk.imp And.left (Or.imp And.left And.left)
  have hload : isLoadKind o.kind = true ∧ isStoreKind o.kind = false := by
    rcases hkinds with ⟨sx, h⟩ | h | ⟨fn, sgn, h⟩ <;> simp [h, isLoadKind, isStoreKind]
  obtain ⟨g', hg', hops, hmems, hstore, hregs, hloads, hstores⟩ := State.putDone_ends ho hg hs hr hp
  have hlane : o.kind ≠ .lds → ∀ x ∈ o.parts, x.lane < 64 := fun h x hx => (hlt x hx).resolve_right h
  have hval {m : Nat} {c : Word} {x : Part} (hnl : o.kind ≠ .lds) (hx : x ∈ o.parts) (hc : ∀ rg, (putPart o rg x).vreg m x.lane = c) :
      g'.regs.vreg m x.lane = c := by
    rw [hregs]
    exact foldl_putPart_vreg hc o.parts hx (hlane hnl) hnd g.regs
  refine ⟨_, g', (execLoadReturn_pad ho hg hs hkinds).trans (by rw [State.begin_of_left ho hg hr hq]), hops, hg', ?_, ?_, hmems, hstore, ?_, ?_, ?_, ?_⟩
  · rw [hloads, if_pos hload.1]
  · rw [hstores, if_neg (by simp [hload.2]), Nat.sub_zero]
  · intro h x hx
    have hone : o.parts.length = 1 ∧ o.width ≤ 8 := by
      rcases hk with ⟨⟨sx, h'⟩, -⟩ | ⟨-, hw, hl⟩ | ⟨⟨fn, sgn, h'⟩, -⟩
      · rw [h] at h'; cases h'
      · exact ⟨hl, by simp at hw; omega⟩
      · rw [h] at h'; cases h'
    obtain ⟨y, hy⟩ := List.length_eq_one_iff.1 hone.1
    obtain rfl : x = y := by simpa [hy] using hx
    rw [hregs, hy, List.foldl_cons, List.foldl_nil, putPart_greg _ _ h, BitVec.toNat_ofNat]
    exact Nat.mod_eq_of_lt (lt_of_lt_of_le (Nat.mod_lt _ (by positivity)) (pow_le_pow_right₀ (by norm_num) (by omega)))
  · intro h hw x hx i hi
    have hwide : (∃ sx, o.kind = .ld sx) ∨ ∃ fn sgn, o.kind = .atom fn sgn true := hkinds.imp_right (Or.resolve_left · h)
    rw [hval h hx (fun rg => putPart_vreg_wide rg (hlane h x hx) hwide hw hi), BitVec.toNat_ofNat]
  · intro h hw x hx
    have hnl : o.kind ≠ .lds := by rw [h]; exact nofun
    rw [hval hnl hx (fun rg => putPart_vreg_zero rg (hlane hnl x hx) h hw), BitVec.toNat_ofNat]
    exact Nat.mod_eq_of_lt (lt_of_lt_of_le (Nat.mod_lt _ (by positivity)) (pow_le_pow_right₀ (by norm_num) (by omega)))
  · intro h hw x hx
    have hnl : o.kind ≠ .lds := by rw [h]; exact nofun
    have hsmall : o.width = 1 ∨ o.width = 2 := by
      rcases hk with ⟨-, hm⟩ | ⟨h', -⟩ | ⟨⟨fn, sgn, h'⟩, -⟩
      · simp at hm; omega
      · exact absurd h' hnl
      · rw [h] at h'; cases h'
    rw [hval hnl hx (fun rg => putPart_vreg_sign rg (hlane hnl x hx) h hw), toInt_signed _ hsmall]

end Sys2Proof.Machine
end

section
/-! SUPPORT of O23. The service of the one part that waits at a bank, the stores and the atomics (R104, R115, R120 to R123, R129, R447). -/

namespace Sys2Proof.Machine

variable {s : State} {n : Nat} {o : MemOp} {g : Group} {x : Part}

theorem shuffle_singleton {α : Type} (f : Nat → Nat) (i : Nat) (a : α) : shuffle f i [a] = [a] := by
  simp [shuffle, Nat.mod_one]

theorem atomLanes_singleton (n : Nat) (x : Part) : atomLanes n [x] = [x] := shuffle_singleton _ _ _

theorem rowsFree_nil (owner part : Nat) (rs : List (Nat × Nat)) : rowsFree [] owner part rs = true :=
  List.all_eq_true.2 (fun _ _ => rfl)

theorem State.serveParts_singleton (core : Nat) (h : x.served = false) :
    ∃ t, s.serveParts core n (o.arrival core x) o [] [x] = ((s.servePart core o x).1, t, [(s.servePart core o x).2]) := by
  refine ⟨takeRows [] n 0 true (bankRows o.space (padKey core o.gid x.lane o.space x.addr) o.width), ?_⟩
  simp only [State.serveParts, h, bne_self_eq_false, Bool.or_self, Bool.false_eq_true, if_false, rowsFree_nil, if_true]

theorem State.servePart_lane (core : Nat) : (s.servePart core o x).2.lane = x.lane := by
  unfold State.servePart
  dsimp only
  split <;> rfl

theorem State.servePart_ops (core : Nat) : (s.servePart core o x).1.ops = s.ops := by
  unfold State.servePart
  dsimp only
  split
  · exact State.padWrite_ops ..
  · split
    · exact State.padWrite_ops ..
    · rfl
  · rfl

theorem State.servePart_store (core : Nat) : (s.servePart core o x).1.store = s.store := by
  unfold State.servePart
  dsimp only
  split
  · exact State.padWrite_store ..
  · split
    · exact State.padWrite_store ..
    · rfl
  · rfl

theorem State.servePart_groups (core : Nat) : (s.servePart core o x).1.groups = s.groups := by
  unfold State.servePart
  dsimp only
  split
  · exact State.padWrite_groups ..
  · split
    · exact State.padWrite_groups ..
    · rfl
  · rfl

theorem State.modOp_congr {f f' : MemOp → MemOp} (h : s.ops.get? n = some o) (hf : f o = f' o) : s.modOp n f = s.modOp n f' := by
  simp only [State.modOp, FMap.modify, h, hf]

theorem State.opServe_singleton (ho : s.ops.get? n = some o) (hg : s.grp o.gid = some g) (hp : o.parts = [x]) (h : x.served = false) :
    (s.opServe n (o.arrival (s.grpCore g) x) []).1 =
      (s.servePart (s.grpCore g) o x).1.modOp n (fun u => { u with parts := [(s.servePart (s.grpCore g) o x).2] }) := by
  obtain ⟨t, ht⟩ := State.serveParts_singleton (s := s) (n := n) (o := o) (s.grpCore g) h
  have hops := (State.servePart_ops (s := s) (o := o) (x := x) (s.grpCore g)).symm ▸ ho
  have hlane := State.servePart_lane (s := s) (o := o) (x := x) (s.grpCore g)
  simp only [State.opServe, ho, hg]
  cases hk : o.kind with
  | atom fn sgn ret =>
    simp only [hp, atomLanes_singleton, ht]
    exact State.modOp_congr hops (by simp [hp, hlane])
  | _ =>
    simp only [hp, ht]
    exact State.modOp_congr hops (by simp [hp])

/-- One request alone: the cycle's service of the banks serves it. -/
theorem State.serveBanks_alone (h : atBankAlone s n o g x) : s.serveBanks =
    (({ s with free := s.free + 1 } : State).servePart (s.grpCore g) o x).1.modOp n
      (fun u => { u with parts := [(({ s with free := s.free + 1 } : State).servePart (s.grpCore g) o x).2] }) := by
  obtain ⟨ho, hg, -, hp, hx, hr⟩ := h
  simp only [State.serveBanks, hr, shuffle_singleton, List.foldl_cons, List.foldl_nil, insertReq, List.length_singleton, State.serveUser]
  exact State.opServe_singleton (s := { s with free := s.free + 1 }) ho hg hp hx

theorem State.serveBanks_alone_ops (h : atBankAlone s n o g x) :
    s.serveBanks.ops.get? n = some { o with parts := [(({ s with free := s.free + 1 } : State).servePart (s.grpCore g) o x).2] } := by
  rw [State.serveBanks_alone h]
  exact State.get?_modOp _ ((State.servePart_ops (s := { s with free := s.free + 1 }) (s.grpCore g)).symm ▸ h.1)

theorem State.serveBanks_alone_store (h : atBankAlone s n o g x) : s.serveBanks.store = s.store := by
  rw [State.serveBanks_alone h]
  exact State.servePart_store (s := { s with free := s.free + 1 }) _

theorem State.serveBanks_alone_groups (h : atBankAlone s n o g x) : s.serveBanks.groups = s.groups := by
  rw [State.serveBanks_alone h]
  exact State.servePart_groups (s := { s with free := s.free + 1 }) _

theorem State.serveBanks_alone_mems (h : atBankAlone s n o g x) :
    s.serveBanks.mems = (({ s with free := s.free + 1 } : State).servePart (s.grpCore g) o x).1.mems := by
  rw [State.serveBanks_alone h]
  rfl

/-! Stores. -/

theorem State.servePart_st (core : Nat) (hk : o.kind = .st) : s.servePart core o x =
    (s.padWrite o.space (padKey core o.gid x.lane o.space x.addr) o.width x.data.toNat, { x with served := true, servedAt := s.pcc }) := by
  simp only [State.servePart, hk]

theorem execStorePerform_pad (ho : s.ops.get? n = some o) (hg : s.grp o.gid = some g) (hk : o.kind = .st) (hs : o.space ≠ .gl) :
    execStorePerform n s = .next ((s.begin n).endStore n) := by
  simp only [execStorePerform, ho, hg, hk, hs, if_false]

theorem scratchpadStore : scratchpadStoreRules := by
  intro s op o g x ho hg hk hs hr hp
  refine ⟨fun hq hx hfirst hearly => ?_, fun h => ?_, fun hq hx hdue => ?_⟩
  · have hbegin := State.begin_of_firstOf ho hg hr hq hfirst hearly
    have hops := State.get?_modOp (fun o => { o with queued := false, arriveAt := s.pcc }) ho
    refine ⟨_, (execStorePerform_pad ho hg hk hs).trans (congrArg _ ?_), hops, rfl, rfl, rfl⟩
    rw [hbegin]
    exact State.endStore_of_unserved hops hs hp hx
  · have hops := State.serveBanks_alone_ops h
    have hmems := State.serveBanks_alone_mems h
    rw [State.servePart_st _ hk] at hops hmems
    refine ⟨State.serveBanks_alone_store h, ⟨_, hops, rfl⟩, fun a => ?_⟩
    rw [hmems]
    exact State.read_padWrite hs _ _ _ _ a
  · have hdone : ∀ y ∈ o.parts, y.served = true ∧ y.servedAt.toNat + padFixed o.space ≤ s.now := by
      rw [hp]
      rintro y (_ | ⟨_, ⟨⟩⟩)
      exact ⟨hx, hdue⟩
    refine ⟨({ s with ops := s.ops.erase op } : State).modGrp o.gid o.ended, o.ended g, (execStorePerform_pad ho hg hk hs).trans (congrArg _ ?_), rfl, rfl,
      State.grp_modGrp (s := { s with ops := s.ops.erase op }) o.ended hg, ?_, rfl⟩
    · rw [State.begin_of_left ho hg hr hq, State.endStore_of_served ho hs hdone, State.finishOp_of_rlx hg hr]
    · simp [MemOp.ended, hk, isStoreKind]

end Sys2Proof.Machine
end

section
/-! SUPPORT of O23. Atomics at a scratchpad bank and of log memory (R104, R120 to R123). -/

namespace Sys2Proof.Machine

variable {s : State} {n : Nat} {o : MemOp} {g : Group} {x : Part} {fn : AtomOp} {sgn ret : Bool}

/-- The value that an atomic of n bits leaves: its new one, or for a failing ACAS the old one. -/
def atomLeft (fn : AtomOp) (sgn : Bool) (n old d : Nat) : Nat := (atomNew fn sgn n old d).getD old

/-- The integer that n bits stand for. -/
def atomInt (sgn : Bool) (n : Nat) (v : Int) : Int := if sgn = true ∧ 2 ^ (n - 1) ≤ v then v - 2 ^ n else v

theorem intOf_ofNat {n v : Nat} (hn : n = 32 ∨ n = 64) (hv : v < 2 ^ n) (sgn : Bool) : intOf n sgn (BitVec.ofNat 64 v) = atomInt sgn n v := by
  have hle : 2 ^ n ∣ 2 ^ 64 := pow_dvd_pow 2 (by omega)
  have hcast : 2 ^ (n - 1) ≤ v ↔ (2 : Int) ^ (n - 1) ≤ v := by exact_mod_cast Iff.rfl
  simp only [intOf, atomInt, BitVec.toNat_ofNat, Nat.mod_mod_of_dvd _ hle, Nat.mod_eq_of_lt hv, Bool.and_eq_true, decide_eq_true_eq, hcast]

theorem atomLeft_min {n old d : Nat} (hn : n = 32 ∨ n = 64) (ho : old < 2 ^ n) :
    atomLeft .min sgn n old d = if atomInt sgn n (d % 2 ^ n : Nat) < atomInt sgn n old then d % 2 ^ n else old := by
  simp only [atomLeft, atomNew, intOf_ofNat hn ho, intOf_ofNat hn (Nat.mod_lt d (by positivity)), Option.getD_some]

theorem atomLeft_max {n old d : Nat} (hn : n = 32 ∨ n = 64) (ho : old < 2 ^ n) :
    atomLeft .max sgn n old d = if atomInt sgn n old < atomInt sgn n (d % 2 ^ n : Nat) then d % 2 ^ n else old := by
  simp only [atomLeft, atomNew, intOf_ofNat hn ho, intOf_ofNat hn (Nat.mod_lt d (by positivity)), Option.getD_some]

theorem atomLeft_cas {n old d : Nat} : atomLeft .cas sgn n old d = if old = d % 2 ^ n then d / 2 ^ n % 2 ^ n else old := by
  unfold atomLeft atomNew
  dsimp only
  split <;> rfl

/-! At a bank. -/

theorem State.servePart_atom_part (core : Nat) (hk : o.kind = .atom fn sgn ret) : (s.servePart core o x).2 =
    { x with served := true, servedAt := s.pcc, val := BitVec.ofNat 128 (s.padRead o.space (padKey core o.gid x.lane o.space x.addr) o.width) } := by
  simp only [State.servePart, hk]

/-- The bytes of an atomic hold the value that it leaves; a failing ACAS writes nothing, and its bytes hold the old one. -/
theorem State.read_servePart_atom (core a : Nat) (hk : o.kind = .atom fn sgn ret) (hs : o.space ≠ .gl) :
    let key := padKey core o.gid x.lane o.space x.addr
    ((s.servePart core o x).1.mems.of o.space).read a =
      if key ≤ a ∧ a < key + o.width then
        BitVec.ofNat 8 (atomLeft fn sgn (8 * o.width) (s.padRead o.space key o.width) x.data.toNat / 2 ^ (8 * (a - key)))
      else (s.mems.of o.space).read a := by
  intro key
  simp only [State.servePart, hk]
  unfold atomLeft
  split
  next v hv => rw [hv, Option.getD_some]; exact State.read_padWrite hs s key o.width v a
  next hv =>
    rw [hv, Option.getD_none]
    split
    next h => exact (Memory.read_of_readLE _ o.width key a h.1 h.2).symm
    next h => rfl

theorem padRead_toNat (sp : Space) (key : Nat) {w : Nat} (hw : w ∈ [4, 8]) :
    (BitVec.ofNat 128 (s.padRead sp key w)).toNat = s.padRead sp key w := by
  have hlt : s.padRead sp key w < 2 ^ (8 * w) := Memory.readLE_lt _ w key
  have hle : 2 ^ (8 * w) ≤ 2 ^ 128 := pow_le_pow_right₀ (by norm_num) (by simp at hw; omega)
  rw [BitVec.toNat_ofNat, Nat.mod_eq_of_lt (lt_of_lt_of_le hlt hle)]

/-! In its queue. -/

theorem execAtomicPerform_pad (ho : s.ops.get? n = some o) (hg : s.grp o.gid = some g) (hk : o.kind = .atom fn sgn ret) (hs : o.space ≠ .gl) :
    execAtomicPerform n s = .next (s.begin n) := by
  simp only [execAtomicPerform, ho, hg, hk, ne_eq, hs, not_false_eq_true, if_true]

/-! Of log memory. -/

theorem State.mayPerform_of_firstOf (hq : o.queued = false) (hr : o.order = .rlx) (hw : s.partWaits o x = false) (h : firstOf s n o.gid) :
    s.mayPerform n o x = true := by
  simp [State.mayPerform, hq, relReady_of_rlx hr, hw, State.earlier_of_firstOf h]

theorem State.atomDone_of_none (ho : s.ops.get? n = some o) (hn : o.req = none) : s.atomDone n = s := by
  simp only [State.atomDone, ho, hn]

/-- The first lane of a `.gl` atomic at home asks for its turn of the log. -/
theorem execAtomicPerform_asks (ho : s.ops.get? n = some o) (hg : s.grp o.gid = some g) (hk : o.kind = .atom fn sgn ret) (hr : o.order = .rlx)
    (hp : o.parts = [x]) (hs : o.space = .gl) (hq : o.queued = false) (hx : x.served = false) (hn : o.req = none) (h : firstOf s n o.gid)
    (hw : s.partWaits o x = false) (hhome : s.isRemote (lineKey g.ctx x.addr) = false) : execAtomicPerform n s = .next
      ((s.lodge (s.grpCluster g) g.ctx (some o.gid) .atomic [] 0).2.modOp n (fun o => { o with req := some s.fresh })) := by
  have hnext : nextAtom n o = some x := by simp [nextAtom, hp, hx, atomLanes_singleton]
  simp only [execAtomicPerform, ho, hg, hk, hs, ne_eq, not_true_eq_false, if_false, State.begin_of_left ho hg hr hq, State.atomDone_of_none ho hn, hnext,
    State.mayPerform_of_firstOf hq hr hw h, if_true, State.atomLane, hhome, Bool.false_eq_true, hn]
  rfl

/-- A lane whose publication has committed is over. -/
theorem execAtomicPerform_over {k : Nat} (ho : s.ops.get? n = some o) (hg : s.grp o.gid = some g) (hk : o.kind = .atom fn sgn ret) (hr : o.order = .rlx)
    (hp : o.parts = [x]) (hs : o.space = .gl) (hq : o.queued = false) (hx : x.served = true) (hf : x.fin = false) (hn : o.req = some k)
    (hc : s.reqSt k = .complete) : execAtomicPerform n s = .next
      (s.modOp n (fun o => { o with req := none, parts := o.parts.map (fun x => if x.served then { x with fin := true } else x) })) := by
  have hdone : s.atomDone n =
      s.modOp n (fun o => { o with req := none, parts := o.parts.map (fun x => if x.served then { x with fin := true } else x) }) := by
    simp [State.atomDone, ho, hn, hp, hx, hf, hc]
  have hops := State.get?_modOp (fun o => { o with req := none, parts := o.parts.map (fun x => if x.served then { x with fin := true } else x) }) ho
  simp only [execAtomicPerform, ho, hg, hk, hs, ne_eq, not_true_eq_false, if_false, State.begin_of_left ho hg hr hq, hdone, hops]
  simp [nextAtom, hp, hx, atomLanes_singleton]

theorem scratchpadAtomic : scratchpadAtomicRules := by
  intro s op o g x fn sgn ret ho hg hk hr hp hw
  refine ⟨fun hq hs hfirst hearly => ?_, fun hs hq hx hn hfirst hwait hhome => ?_, fun k hs hq hx hf hn hc => ?_, fun h => ?_⟩
  · refine ⟨_, (execAtomicPerform_pad ho hg hk hs).trans (congrArg _ (State.begin_of_firstOf ho hg hr hq hfirst hearly)), ?_, rfl, rfl, rfl⟩
    exact State.get?_modOp _ ho
  · refine ⟨_, s.fresh, _, execAtomicPerform_asks ho hg hk hr hp hs hq hx hn hfirst hwait hhome, State.get?_modOp _ ho, FMap.get?_set_self _ _ _,
      rfl, rfl, rfl, rfl, rfl⟩
  · refine ⟨_, execAtomicPerform_over ho hg hk hr hp hs hq hx hf hn hc, (State.get?_modOp _ ho).trans ?_, rfl, rfl⟩
    simp [hp, hx]
  · intro key n old d int new
    have hs : o.space ≠ .gl := h.2.2.1
    have hbits : n = 32 ∨ n = 64 := by simp at hw; omega
    have hold : old < 2 ^ n := Memory.readLE_lt _ _ _
    have hnew : new = atomLeft fn sgn n old x.data.toNat := by
      cases fn with
      | min => exact (atomLeft_min hbits hold).symm
      | max => exact (atomLeft_max hbits hold).symm
      | cas => exact atomLeft_cas.symm
      | _ => rfl
    have hops := State.serveBanks_alone_ops h
    rw [State.servePart_atom_part _ hk] at hops
    refine ⟨_, _, hops, rfl, rfl, padRead_toNat o.space key hw, State.serveBanks_alone_store h, State.serveBanks_alone_groups h, fun a => ?_⟩
    rw [State.serveBanks_alone_mems h, hnew]
    exact State.read_servePart_atom (s := { s with free := s.free + 1 }) _ a hk hs

end Sys2Proof.Machine
end

section
namespace Sys2Proof.Machine

/-- Settles O23: the service of one request alone, and the operation's own steps around it. -/
theorem scratchpadAccesses : Obligations.ScratchpadAccesses := ⟨scratchpadMemory, scratchpadReturn, scratchpadStore, scratchpadAtomic⟩

end Sys2Proof.Machine
end

section
/-! SUPPORT of O8. The registers of the window at reset, kind by kind (Tables 14-3, 14-4, 15-5, 16-1, 16-6, 17-1, 18-5, 19-1 to 19-3, 20-3). -/

namespace Sys2Proof.Machine

/-- The register at an offset of the route table is that peer's route (Table 19-3). -/
theorem State.regRead_route (s : State) {n : Nat} (hn : n < 4096) : s.regRead (0x8000 + 8 * n) = s.routes.getD 0 n := by
  have hq : (0x8000 + 8 * n - 0x8000) / 8 = n := by omega
  simp (disch := omega) only [State.regRead, if_neg, if_pos, hq]

theorem queueRegs_reset : ∀ q < 64, State.reset.regRead (0x1000 + 64 * q) = 0 ∧ State.reset.regRead (0x1008 + 64 * q) = 0x400 ∧
    State.reset.regRead (0x1010 + 64 * q) = 0 ∧ State.reset.regRead (0x1018 + 64 * q) = 0 ∧ State.reset.regRead (0x1020 + 64 * q) = 0 := by decide

theorem breakpointRegs_reset : ∀ n < 4, State.reset.regRead (0x4040 + 16 * n) = 0 ∧ State.reset.regRead (0x4048 + 16 * n) = 0 := by decide

theorem linkRegs_reset : ∀ n < 36, State.reset.regRead (0x5100 + 16 * n) = BitVec.ofNat 64 (n * 2 ^ 58 + 0x3D) ∧ State.reset.regRead (0x5108 + 16 * n) = 0 := by
  decide

theorem stackRegs_reset : ∀ k < 16, State.reset.regRead (0x6000 + 8 * k) = 0x400010000 ∧ State.reset.regRead (0x7000 + 16 * k) = 0x80004000001 ∧
    State.reset.regRead (0x7008 + 16 * k) = 0x3E980148 := by decide

theorem dieRegs_reset : ∀ d < 32, State.reset.regRead (0x6100 + 8 * d) = 0 ∧ State.reset.regRead (0x7200 + 8 * d) = 0 := by decide

theorem routeRegs_reset : ∀ n < 4096, State.reset.regRead (0x8000 + 8 * n) = 0 := fun _ hn => State.regRead_route _ hn

/-- Settles O8: each table of registers at reset, and the memories, of which every one is empty. -/
theorem resetState : Obligations.ResetState :=
  ⟨rfl, by decide, by decide, queueRegs_reset, by decide, by decide, by decide, by decide, by decide, by decide, by decide, by decide, breakpointRegs_reset,
    by decide, linkRegs_reset, stackRegs_reset, dieRegs_reset, by decide, by decide, by decide, routeRegs_reset, fun _ => ⟨rfl, rfl, rfl⟩, State.reset_wf⟩

end Sys2Proof.Machine
end

section
/-! SUPPORT of O26. What the records and the buffers of a log leave alone (R195, R207, R210), and a line that has left the buffer. -/

namespace Sys2Proof.Machine

/-- What no record and no buffer holds: the groups, their operations, the leaves of the index, the byte memories. -/
def State.besideLogs (s : State) : FMap Group × FMap MemOp × FMap HomeLeaf × Mems := (s.groups, s.ops, s.store.leaves, s.mems)

@[simp] theorem State.modLog_besideLogs (s : State) (n : Nat) (f : Log → Log) : (s.modLog n f).besideLogs = s.besideLogs := rfl

@[simp] theorem State.modLog_clusters (s : State) (n : Nat) (f : Log → Log) : (s.modLog n f).clusters = s.clusters := rfl

@[simp] theorem State.modLog_recs (s : State) (n : Nat) (f : Log → Log) : (s.modLog n f).store.recs = s.store.recs := rfl

/-! Records (R193, R195). -/

theorem State.sealLog_keeps (s : State) (log : Nat) : (s.sealLog log).besideLogs = s.besideLogs ∧ (s.sealLog log).clusters = s.clusters := by
  unfold State.sealLog
  split <;> exact ⟨rfl, rfl⟩

theorem State.takeSeg_keeps {s : State} {log : Nat} {useRsv : Bool} {t : State} (h : s.takeSeg log useRsv = some t) :
    t.besideLogs = s.besideLogs ∧ t.clusters = s.clusters := by
  simp only [State.takeSeg] at h
  split at h
  · cases h
  · split at h
    · cases h
    · split at h
      · cases h
      · cases h
        exact ⟨rfl, rfl⟩

theorem State.appendHere_keeps {s : State} {log : Nat} {r : Rec} {keep : Nat} {t : State × Nat} (h : s.appendHere log r keep = some t) :
    t.1.besideLogs = s.besideLogs ∧ t.1.clusters = s.clusters := by
  simp only [State.appendHere] at h
  split at h
  · cases h
  · split at h
    · cases h
    · split at h
      · cases h
        exact ⟨rfl, rfl⟩
      · cases h

theorem State.append_keeps {s : State} {log : Nat} {r : Rec} {t : State × Nat} (h : s.append log r = some t) :
    t.1.besideLogs = s.besideLogs ∧ t.1.clusters = s.clusters := by
  simp only [State.append] at h
  split at h
  next hx =>
    cases h
    exact State.appendHere_keeps hx
  · split at h
    next hseg =>
      have hhere := State.appendHere_keeps h
      have htake := State.takeSeg_keeps hseg
      have hseal := State.sealLog_keeps s log
      exact ⟨hhere.1.trans (htake.1.trans hseal.1), hhere.2.trans (htake.2.trans hseal.2)⟩
    · cases h

theorem State.appendAll_keeps {s : State} {log : Nat} {rs : List Rec} {t : State × List Nat} (h : s.appendAll log rs = some t) :
    t.1.besideLogs = s.besideLogs ∧ t.1.clusters = s.clusters := by
  induction rs generalizing s t with
  | nil =>
    cases h
    exact ⟨rfl, rfl⟩
  | cons r rs ih =>
    simp only [State.appendAll] at h
    split at h
    · cases h
    next hr =>
      split at h
      · cases h
      next hrs =>
        cases h
        have hone := State.append_keeps hr
        have hrest := ih hrs
        exact ⟨hrest.1.trans hone.1, hrest.2.trans hone.2⟩

/-! The buffer (R207). -/

@[simp] theorem State.setBatch_besideLogs (s : State) (log : Nat) (b : FMap BufLine) (a : FMap AppLine) : (s.setBatch log b a).besideLogs = s.besideLogs := by
  unfold State.setBatch
  split <;> rfl

theorem State.bufOf_cluster (s : State) {c : Nat} (hc : c < 256) : s.bufOf c = (s.cl c).buf := if_pos hc

theorem State.setBatch_cluster (s : State) {c : Nat} (hc : c < 256) (b : FMap BufLine) (a : FMap AppLine) :
    s.setBatch c b a = s.modCl c (fun x => { x with buf := b, app := a }) := if_pos hc

@[simp] theorem State.cl_modCl_self (s : State) (c : Nat) (f : Cluster → Cluster) : (s.modCl c f).cl c = f (s.cl c) := FMap.getD_put_self ..

theorem State.flushLine_besideLogs {s : State} {log lk : Nat} {t : State} (h : s.flushLine log lk = some t) : t.besideLogs = s.besideLogs := by
  simp only [State.flushLine] at h
  split at h
  · cases h
    rfl
  · split at h
    · cases h
    next hall =>
      cases h
      have hkeep := (State.appendAll_keeps hall).1
      split <;> exact (State.setBatch_besideLogs ..).trans hkeep

@[simp] theorem State.cl_patchCores (s : State) (cl c : Nat) (f : Core → Core) : (s.patchCores cl f).cl c = s.cl c := rfl

/-- A cluster a line of whose buffer has become the records ps of the open batch. -/
def Cluster.flushed (x : Cluster) (lk : Nat) (b : BufLine) (ps : List Nat) : Cluster :=
  let a := x.app.getD AppLine.none lk
  { x with buf := x.buf.erase lk, app := x.app.set lk { mask := a.mask ||| b.mask, data := mergeLine b.mask b.data a.data, recs := a.recs ++ ps } }

theorem State.flushLine_cluster {s : State} {c lk : Nat} {b : BufLine} {t : State} (hc : c < 256) (hb : (s.cl c).buf.get? lk = some b)
    (h : s.flushLine c lk = some t) : ∃ ps, t.cl c = (s.cl c).flushed lk b ps := by
  simp only [State.flushLine, State.bufOf_cluster _ hc, hb, if_pos hc, State.setBatch_cluster _ hc] at h
  split at h
  · cases h
  next u ps hall =>
    cases h
    have hcl : u.cl c = s.cl c := congrArg (fun m : FMap Cluster => m.getD Cluster.reset c) (State.appendAll_keeps hall).2
    have happ : u.appOf c = (u.cl c).app := if_pos hc
    refine ⟨ps, ?_⟩
    rw [State.cl_patchCores, State.cl_modCl_self, happ, hcl]
    rfl

/-- A line that has left the buffer: it is in the buffer no more, and what was written of it stands among the appended lines. -/
theorem State.flushLine_leaves {s : State} {c lk : Nat} {b : BufLine} {t : State} (hc : c < 256) (hb : (s.cl c).buf.get? lk = some b)
    (h : s.flushLine c lk = some t) : (t.cl c).buf.get? lk = none ∧ ∃ a, (t.cl c).app.get? lk = some a ∧ b.mask &&& ~~~a.mask = 0 := by
  obtain ⟨ps, hcl⟩ := State.flushLine_cluster hc hb h
  rw [hcl]
  refine ⟨(FMap.get?_erase ..).trans (if_pos rfl), _, FMap.get?_set_self .., ?_⟩
  ext i hi
  simp +contextual

theorem bufferWindow : bufferWindowRules := by
  intro s c lk b hc hb
  refine ⟨fun hdue => ?_, fun u hdue hu => ?_⟩
  · simp [exec, execWcbWindowExpire, hb, hdue]
  · have hkeep := State.flushLine_besideLogs hu
    obtain ⟨hbuf, happ⟩ := State.flushLine_leaves hc hb hu
    refine ⟨u, by simp [exec, execWcbWindowExpire, hb, hdue, hu], hbuf, happ, State.flushLine_mems hu, ?_⟩
    exact congrArg (fun p => p.2.2.1) hkeep

/-! Stores into the buffer (R115, R207). -/

theorem State.makeRoom_besideLogs {s : State} {log lk limit : Nat} {t : State} (h : s.makeRoom log lk limit = some t) : t.besideLogs = s.besideLogs := by
  simp only [State.makeRoom] at h
  split at h
  · cases h
    rfl
  · split at h
    · cases h
      rfl
    · split at h
      · cases h
        rfl
      · exact State.flushLine_besideLogs h

theorem State.bufWrite_besideLogs {s : State} {log lk : Nat} {m : LineMask} {d : Line} {t : State} (h : s.bufWrite log lk m d = some t) :
    t.besideLogs = s.besideLogs := by
  simp only [State.bufWrite] at h
  split at h
  · cases h
  next u hroom =>
    have hwritten (b : FMap BufLine) (a : FMap AppLine) : ((u.newNum.2).setBatch log b a).besideLogs = s.besideLogs :=
      (State.setBatch_besideLogs u.newNum.2 ..).trans (State.makeRoom_besideLogs hroom : u.besideLogs = _)
    split at h
    · split at h
      next hflush =>
        cases h
        exact (State.flushLine_besideLogs hflush).trans (hwritten ..)
      · cases h
        exact hwritten ..
    · cases h
      exact hwritten ..

theorem State.acceptZero_besideLogs {s : State} {cl ctx : Nat} {o : MemOp} {t : State} (h : s.acceptZero cl ctx o = some t) : t.besideLogs = s.besideLogs := by
  refine foldl_some_keeps State.besideLogs (fun x => ?_) (fun a x b hb => ?_) h
  · exact List.foldlRecOn _ _ (motive := fun a : Option State => a = none) rfl (fun _ ha _ _ => by rw [ha]; rfl)
  · exact foldl_bind_keeps State.besideLogs (fun _ _ _ => State.bufWrite_besideLogs) hb

/-! The end of an accepted store (R129, R210). -/

theorem State.lodgeReady_keeps (s : State) : s.lodgeReady.besideLogs = s.besideLogs ∧ s.lodgeReady.clusters = s.clusters ∧
    s.lodgeReady.store.recs = s.store.recs :=
  List.foldlRecOn _ _ (motive := fun t : State => t.besideLogs = s.besideLogs ∧ t.clusters = s.clusters ∧ t.store.recs = s.store.recs) ⟨rfl, rfl, rfl⟩
    (fun _ ht _ _ => ht)

/-- A store once its one part has been accepted. -/
def MemOp.accepted (o : MemOp) (now : BitVec 64) : MemOp :=
  { o with parts := o.parts.map (fun x => if isDev x then x else { x with served := true, servedAt := now }) }

theorem State.afterAccept_of_rlx {u : State} {n : Nat} {o : MemOp} {g g0 : Group} (hg : u.grp o.gid = some g) (hr : o.order = .rlx)
    (hdev : ∀ x ∈ o.parts, isDev x = false) :
    u.afterAccept n o g0 = (({ u with ops := u.ops.erase n }).modGrp o.gid (o.accepted u.pcc).ended).lodgeReady := by
  have hserved : (o.accepted u.pcc).parts.all (·.served) = true := by
    simp only [MemOp.accepted, List.all_map, List.all_eq_true, Function.comp]
    intro x hx
    simp [hdev x hx]
  have hrel : relWide (o.accepted u.pcc) = false := by simp [relWide, MemOp.accepted, hr, isRel]
  have hfin := State.finishOp_of_rlx (s := u.modOp n (fun _ => o.accepted u.pcc)) (n := n) (o := o.accepted u.pcc) hg hr
  have hops : (u.modOp n (fun _ => o.accepted u.pcc)).ops.erase n = u.ops.erase n := FMap.erase_modify ..
  have hstep : u.afterAccept n o g0 = ((u.modOp n (fun _ => o.accepted u.pcc)).finishOp n (o.accepted u.pcc)).lodgeReady :=
    (if_neg (Bool.not_eq_true _ ▸ hrel)).trans (if_pos hserved)
  rw [hstep, hfin, hops]
  rfl

/-- A store whose bytes have been accepted: it has ended, and only the buffer and the log of its cluster have changed. -/
theorem State.afterAccept_ends {s u : State} {n : Nat} {o : MemOp} {g : Group} (hg : s.grp o.gid = some g) (hr : o.order = .rlx)
    (hdev : ∀ x ∈ o.parts, isDev x = false) (hk : isStoreKind o.kind = true) (hu : u.besideLogs = s.besideLogs) :
    ∃ g', (u.afterAccept n o g).ops.get? n = none ∧ (u.afterAccept n o g).grp o.gid = some g' ∧ g'.stores = g.stores - 1 ∧ g'.regs = g.regs ∧
      (u.afterAccept n o g).clusters = u.clusters ∧ (u.afterAccept n o g).store.recs = u.store.recs ∧
      (u.afterAccept n o g).store.leaves = s.store.leaves ∧ (u.afterAccept n o g).mems = s.mems := by
  simp only [State.besideLogs, Prod.mk.injEq] at hu
  obtain ⟨hgroups, -, hleaves, hmems⟩ := hu
  have hug : u.grp o.gid = some g := (congrArg (fun m : FMap Group => m.get? o.gid) hgroups).trans hg
  rw [State.afterAccept_of_rlx hug hr hdev]
  obtain ⟨hbeside, hclusters, hrecs⟩ := State.lodgeReady_keeps (({ u with ops := u.ops.erase n }).modGrp o.gid (o.accepted u.pcc).ended)
  simp only [State.besideLogs, Prod.mk.injEq] at hbeside
  obtain ⟨hgroups', hops', hleaves', hmems'⟩ := hbeside
  refine ⟨(o.accepted u.pcc).ended g, ?_, ?_, congrArg (g.stores - ·) (if_pos hk), rfl, hclusters, hrecs, hleaves'.trans hleaves, hmems'.trans hmems⟩
  · rw [hops']
    exact (FMap.get?_erase ..).trans (if_pos rfl)
  · exact (congrArg (fun m : FMap Group => m.get? o.gid) hgroups').trans (State.grp_modGrp (s := { u with ops := u.ops.erase n }) _ hug)

theorem bufferedStores : bufferedStoresRules := by
  intro s op o g x ho hg hs hr hp hx hmt hq hw hfirst
  have hbegin := State.begin_of_left ho hg hr hq
  have hmay : s.mayPerform op o x = true := State.mayPerform_of_firstOf hq hr hw hfirst
  have hdev : isDev x = false := by simp only [isDev, decide_eq_false_iff_not]; omega
  have hdevs : ∀ y ∈ o.parts, isDev y = false := by simpa [hp] using hdev
  refine ⟨fun u hk hu => ?_, fun u hk hu => ?_⟩
  · have hstep : execStorePerform op s = .next (u.afterAccept op o g) := by
      simp [execStorePerform, ho, hg, hk, hs, hbegin, State.stepStore, hp, hdev, hx, hmay, State.acceptParts, hu]
    obtain ⟨g', hends⟩ := State.afterAccept_ends (n := op) hg hr hdevs (by rw [hk]; rfl) (State.bufWrite_besideLogs hu)
    exact ⟨_, g', hstep, hends⟩
  · have hstep : execStorePerform op s = .next (u.afterAccept op o g) := by
      simp [execStorePerform, ho, hg, hk, hbegin, State.stepZline, hp, hmay, hu]
    obtain ⟨g', hends⟩ := State.afterAccept_ends (n := op) hg hr hdevs (by rw [hk]; rfl) (State.acceptZero_besideLogs hu)
    exact ⟨_, g', hstep, hends⟩

/-- Settles O26: the acceptance of a store, and the window of an entry. -/
theorem storeBuffers : Obligations.StoreBuffers := ⟨bufferedStores, bufferWindow⟩

end Sys2Proof.Machine
end

section
/-! SUPPORT of O55. A SNAPDROP whose operation takes the number of a listed checkpoint: the checkpoint that holds the slot is lost, and the slot is dropped at once. -/

namespace Sys2Proof.Machine

def dropWord : Ctl := { hdr := Hdr.plain, mod := 0, d := .sp 17, a := .v 0, b := .v 0, imm := 0 }

def dropRun : Run := Run.start 0 [] [] (BitVec.allOnes 64) 0

def dropGroup : Group := fetchGroup [] 0

def dropCtx : Ctx := { Ctx.empty with priv := true, snaps := [(0, { Snap.free with st := .held })] }

/-- A WRITE checkpoint of slot 0 that is in progress. -/
def slotCkpt : AOp :=
  AOp.new 1 none 1 0 0 (.ckpt 0 { op := 1, slot := 0, g := 0, step := 0, group := 0, srcmod := 0, srcctx := 0, key := 0, bad := false }) .running 0

/-- Slot 0 is HELD, and in the hold of a checkpoint that is listed under the number that the next operation takes. -/
def overlaidState : State := { State.reset.fetchHome.setGrp 0 dropGroup with
  issuer := .group 0 false
  ctxs := [(1, dropCtx)]
  aops := [(State.reset.fresh, slotCkpt)]
  ckpt := { Ckpt.reset with active := [State.reset.fresh] } }

/-- How an entry of a context's future table stands in a state. -/
def State.futSt (s : State) (ctx tag : Nat) : Option FutSt := (s.ctx? ctx).map (fun c => (c.fut tag).st)

theorem overlaidState_held : (overlaidState.snap 1 0).st = .held ∧ overlaidState.ckHolds 1 0 = true := by decide +kernel

theorem overlaidState_runs : Runs (bodyOf (.snapdrop dropWord)) overlaidState 0 false dropGroup dropRun where
  issuer := rfl
  here := rfl
  run := rfl
  free := rfl
  good := by decide +kernel
  allowed := fun _ => rfl
  guard := by decide +kernel

/-- The word's future is done at once. -/
theorem overlaidState_ends : ∃ t, exec (.snapdrop dropWord) overlaidState = .next t ∧ t.futSt 1 0 = some .ok := ⟨_, rfl, by decide +kernel⟩

/-- Refutes O55: its clause of SNAPDROP does not say, as that of SNAP does, that no operation is listed under the next number. Where the checkpoint that holds the slot is
listed there, the SNAPDROP takes its place, nothing holds the slot any longer, and the word's handle is DONE where it should be PENDING. -/
theorem not_engineWordsComplete : ¬ Obligations.EngineWordsComplete := by
  unfold Obligations.EngineWordsComplete
  intro h
  obtain ⟨-, -, -, -, hdrop, -⟩ := h dropWord overlaidState 0 dropGroup dropRun
  obtain ⟨hheld, hck⟩ := overlaidState_held
  obtain ⟨t, -, -, hnext, -, -, -, -, -, -, -, c, hctx, hpending⟩ :=
    hdrop hheld hck overlaidState_runs dropCtx rfl (by decide) (by decide)
  obtain ⟨t', hnext', hok⟩ := overlaidState_ends
  obtain rfl : t = t' := Host.Outcome.next.inj (hnext.symm.trans hnext')
  have hfut : t.futSt 1 0 = some .pending := by
    rw [State.futSt, show t.ctx? 1 = some c from hctx]
    exact congrArg some hpending
  rw [hfut] at hok
  cases hok

end Sys2Proof.Machine
end

section
/-! SUPPORT of O4. What a cycle does before PCC advances leaves PCC alone (R15): the trace engines, the loop units, the banks. -/

namespace Sys2Proof.Machine

theorem State.foldl_pcc {β : Type} {f : State → β → State} (h : ∀ s x, (f s x).pcc = s.pcc) (l : List β) (s : State) : (l.foldl f s).pcc = s.pcc :=
  List.foldlRecOn l f (motive := fun t => t.pcc = s.pcc) rfl (fun t ht x _ => (h t x).trans ht)

theorem State.foldl_fst_pcc {β γ : Type} {f : State × γ → β → State × γ} (h : ∀ p x, (f p x).1.pcc = p.1.pcc) (l : List β) (p : State × γ) :
    (l.foldl f p).1.pcc = p.1.pcc :=
  List.foldlRecOn l f (motive := fun q => q.1.pcc = p.1.pcc) rfl (fun q hq x _ => (h q x).trans hq)

/-! The trace engines. A record changes only the sink and the host's memory. -/

theorem State.hostWrite_eq (s : State) (a : Nat) (bs : List Byte) : ∃ m, s.hostWrite a bs = { s with mems := m } := ⟨_, rfl⟩

theorem State.ite_hostWrite_eq (s : State) (p : Prop) [Decidable p] (a : Nat) (bs : List Byte) :
    ∃ m, (if p then s else s.hostWrite a bs) = { s with mems := m } := by
  split
  · exact ⟨s.mems, rfl⟩
  · exact s.hostWrite_eq a bs

theorem State.sinkPut_eq {s : State} {die len : Nat} {bs : List Byte} {t : State} (h : s.sinkPut die len bs = some t) :
    ∃ m x, t = { s with mems := m, trace := x } := by
  unfold State.sinkPut at h
  split at h
  · cases h
  next off pad _ =>
    extract_lets base u v at h
    obtain ⟨m, hu⟩ : ∃ m, u = { s with mems := m } := s.ite_hostWrite_eq ..
    obtain ⟨m', hv⟩ : ∃ m, v = { u with mems := m } := u.hostWrite_eq ..
    rw [← Option.some.inj h, hv, hu]
    exact ⟨m', _, rfl⟩

theorem State.lostMarker_eq (s : State) (die : Nat) : ∃ m x, s.lostMarker die = { s with mems := m, trace := x } := by
  unfold State.lostMarker
  split
  · split
    · exact ⟨_, _, rfl⟩
    next hput =>
      obtain ⟨m, x, rfl⟩ := State.sinkPut_eq hput
      exact ⟨_, _, rfl⟩
  · exact ⟨_, _, rfl⟩

theorem State.sinkOrLose_eq (s : State) (typ die len : Nat) (body : List Byte) :
    ∃ m x, s.sinkOrLose typ die len body = { s with mems := m, trace := x } := by
  obtain ⟨m, x, hlost⟩ := State.lostMarker_eq s die
  simp only [State.sinkOrLose, hlost]
  split
  · exact ⟨_, _, rfl⟩
  · split
    · exact ⟨_, _, rfl⟩
    next hput =>
      obtain ⟨m', x', rfl⟩ := State.sinkPut_eq hput
      exact ⟨_, _, rfl⟩

theorem State.latchDie_pcc (s : State) (die : Nat) : (s.latchDie die).pcc = s.pcc := by
  obtain ⟨m, x, h⟩ := State.sinkOrLose_eq (s.modDie die (fun d => { d with counters := [], latchedAt := some s.pcc })) 1 die 768
    (seriesBody s.trace.k.toNat (s.die die))
  rw [State.latchDie, h, State.modDie_pcc]

theorem State.countCycle_pcc (s : State) : s.countCycle.pcc = s.pcc := by
  refine (State.foldl_pcc (fun u c => ?_) _ _).trans (State.foldl_pcc (fun u x => State.tally_pcc ..) _ s)
  dsimp only
  split <;> split <;> split <;> simp only [State.tally_pcc]

theorem State.timeTick_pcc (s : State) : s.timeTick.pcc = s.pcc := by
  unfold State.timeTick
  split
  · exact (State.foldl_pcc State.latchDie_pcc _ _).trans (State.countCycle_pcc s)
  · rfl

theorem State.kSwitch_pcc (s : State) : s.kSwitch.pcc = s.pcc := by
  unfold State.kSwitch
  split
  · split <;> rfl
  · rfl

theorem State.histSample_pcc (s : State) (die : Nat) : (s.histSample die).pcc = s.pcc := by
  unfold State.histSample
  split <;> rfl

theorem State.traceCycle_pcc (s : State) : s.traceCycle.pcc = s.pcc := by
  unfold State.traceCycle
  extract_lets u v
  have hu : u.pcc = s.pcc := State.kSwitch_pcc s
  have hv : v.pcc = u.pcc := by
    simp only [v]
    split
    · exact State.timeTick_pcc u
    · split
      · rfl
      · exact State.countCycle_pcc u
  split
  · exact (State.foldl_pcc State.histSample_pcc _ v).trans (hv.trans hu)
  · exact hv.trans hu

theorem State.loopBeat_pcc (s : State) (core : Nat) : (s.loopBeat core).pcc = s.pcc := by
  unfold State.loopBeat
  split
  · split <;> rfl
  · rfl

/-! The banks. -/

theorem State.servePart_pcc (s : State) (core : Nat) (o : MemOp) (x : Part) : (s.servePart core o x).1.pcc = s.pcc := by
  unfold State.servePart
  dsimp only
  split
  · rfl
  · split <;> rfl
  · rfl

theorem State.serveParts_pcc (s : State) (core n arr : Nat) (o : MemOp) (t : List RowUse) (xs : List Part) :
    (s.serveParts core n arr o t xs).1.pcc = s.pcc := by
  induction xs generalizing s t with
  | nil => rfl
  | cons x xs ih =>
    rw [State.serveParts]
    split
    · exact ih _ _
    dsimp only
    split
    · exact (ih _ _).trans (State.servePart_pcc s core o x)
    · exact ih _ _

theorem State.opServe_pcc (s : State) (n arr : Nat) (t : List RowUse) : (s.opServe n arr t).1.pcc = s.pcc := by
  unfold State.opServe
  split
  · rfl
  · split
    · rfl
    · exact State.serveParts_pcc ..

theorem State.servePiece_pcc (s : State) (core owner part : Nat) (t : List RowUse) (x : Piece) : (s.servePiece core owner part t x).1.pcc = s.pcc := by
  unfold State.servePiece
  dsimp only
  split
  · rfl
  · split <;> rfl

theorem State.servePieces_pcc (s : State) (core owner arr : Nat) (t : List RowUse) (xs : List Piece) :
    (s.servePieces core owner arr t xs).1.pcc = s.pcc := by
  induction xs generalizing s t with
  | nil => rfl
  | cons x xs ih =>
    simp only [State.servePieces]
    split
    · exact (ih _ _).trans (State.servePiece_pcc s core owner 0 t x)
    · exact ih _ _

theorem State.seqServe_pcc (s : State) (cl arr : Nat) (t : List RowUse) : (s.seqServe cl arr t).1.pcc = s.pcc := by
  refine State.foldl_fst_pcc (fun p a => ?_) _ (s, t)
  dsimp only
  split
  · exact (State.modSeq_pcc ..).trans (State.servePiece_pcc ..)
  · rfl

theorem State.sldServe_pcc (s : State) (core arr : Nat) (t : List RowUse) : (s.sldServe core arr t).1.pcc = s.pcc := by
  refine State.foldl_fst_pcc (fun p x => ?_) _ (s, t)
  exact State.servePieces_pcc p.1 core _ arr p.2 x.pieces

theorem State.aopServe_pcc (s : State) (n arr : Nat) (t : List RowUse) : (s.aopServe n arr t).1.pcc = s.pcc := by
  unfold State.aopServe
  split
  · rfl
  · exact State.servePieces_pcc ..

theorem State.pxServe_pcc (s : State) (cl arr : Nat) (t : List RowUse) : (s.pxServe cl arr t).1.pcc = s.pcc := by
  refine State.foldl_fst_pcc (fun p i => ?_) _ (s, t)
  dsimp only
  split
  · rfl
  · split
    · rfl
    · exact ((State.modSeq_pcc ..).trans (State.servePieces_pcc ..)).trans (State.servePieces_pcc ..)

theorem State.loopPiece_pcc (s : State) (core owner part : Nat) (t : List RowUse) (seq : Nat) (x : Piece) (seen : Nat) (go : Bool) :
    (s.loopPiece core owner part t seq x seen go).1.pcc = s.pcc := by
  unfold State.loopPiece
  dsimp only
  split
  · rfl
  · split <;> exact State.servePiece_pcc ..

theorem State.loopSrcs_pcc (s : State) (core owner arr part : Nat) (t : List RowUse) (seq : Nat) (xs : List (Piece × Nat)) :
    (s.loopSrcs core owner arr part t seq xs).1.pcc = s.pcc := by
  induction xs generalizing s part t seq with
  | nil => rfl
  | cons x xs ih => exact (ih ..).trans (State.loopPiece_pcc ..)

theorem State.loopElems_pcc (s : State) (core owner arr : Nat) (t : List RowUse) (seq : Nat) (xs : List LoopElem) :
    (s.loopElems core owner arr t seq xs).1.pcc = s.pcc := by
  induction xs generalizing s t seq with
  | nil => rfl
  | cons x xs ih => exact (ih ..).trans (State.loopSrcs_pcc ..)

theorem State.loopOuts_pcc (s : State) (core owner arr : Nat) (t : List RowUse) (seq : Nat) (xs : List LoopOut) :
    (s.loopOuts core owner arr t seq xs).1.pcc = s.pcc := by
  induction xs generalizing s t seq with
  | nil => rfl
  | cons x xs ih => exact (ih ..).trans (State.loopPiece_pcc ..)

theorem State.loopServe_pcc (s : State) (core arr : Nat) (t : List RowUse) : (s.loopServe core arr t).1.pcc = s.pcc := by
  unfold State.loopServe
  split
  · rfl
  · exact ((State.modCore_pcc ..).trans (State.loopOuts_pcc ..)).trans (State.loopElems_pcc ..)

theorem State.serveUser_pcc (s : State) (r : Nat × BankUser) (t : List RowUse) : (s.serveUser r t).1.pcc = s.pcc := by
  unfold State.serveUser
  split
  · exact State.opServe_pcc ..
  · exact State.seqServe_pcc ..
  · exact State.loopServe_pcc ..
  · exact State.sldServe_pcc ..
  · exact State.pxServe_pcc ..
  · exact State.aopServe_pcc ..

theorem State.serveBanks_pcc (s : State) : s.serveBanks.pcc = s.pcc :=
  State.foldl_fst_pcc (fun p r => State.serveUser_pcc p.1 r p.2) _ (({ s with free := s.free + s.bankRequests.length } : State), ([] : List RowUse))

/-- A cycle advances PCC by one. -/
theorem State.clock_pcc (s : State) : s.clock.pcc = s.pcc + 1 := by
  have hcycle := (State.foldl_pcc State.loopBeat_pcc (FMap.keys s.cores) s.traceCycle).trans (State.traceCycle_pcc s)
  exact congrArg (· + 1) ((State.serveBanks_pcc _).trans hcycle)

end Sys2Proof.Machine
end

section
/-! SUPPORT of O4. The turn of each agent, and the kinds of instruction. -/

namespace Sys2Proof.Machine

variable {s : State} {i : Instr}

theorem State.groupTurn_of_word {gid n : Nat} {g : Group} {second : Bool} {r : Run} (hg : s.grp gid = some g) (hp : g.nextPort = some (second, r))
    (hd : decodeWords false (r.words.drop r.idx) = .ok (i, n)) : s.groupTurn gid =
      exec i { s.setGrp gid { g.setRun second (some { r with wait := .none }) with issuedAt := some s.pcc } with issuer := .group gid second } := by
  have hhere : r.here = some i := by rw [Run.here, hd]
  simp only [State.groupTurn, hg, hp, hhere]

theorem State.groupTurn_of_error {gid : Nat} {g : Group} {second : Bool} {r : Run} {e : DecErr} (hg : s.grp gid = some g)
    (hp : g.nextPort = some (second, r)) (hd : decodeWords false (r.words.drop r.idx) = .error e) :
    s.groupTurn gid = .next (s.trapPlain gid r .illop) := by
  have hhere : r.here = none := by rw [Run.here, hd]
  simp only [State.groupTurn, hg, hp, hhere]

theorem State.seqTurn_of_word {cl n : Nat} {w : IWord} (hl : s.seqLive cl = true) (hf : s.seqFetch cl (s.seqOf cl).ctx (s.seqOf cl).spc.toNat = .ok w)
    (hd : decodeWords true [w] = .ok (i, n)) : s.seqTurn cl = exec i { s with issuer := .seq cl } := by
  have hnext : s.seqNext cl = some (.ok i) := by simp [State.seqNext, hl, hf, hd]
  simp only [State.seqTurn, hnext]

theorem State.seqTurn_of_error {cl : Nat} {w : IWord} {e : DecErr} (hl : s.seqLive cl = true)
    (hf : s.seqFetch cl (s.seqOf cl).ctx (s.seqOf cl).spc.toNat = .ok w) (hd : decodeWords true [w] = .error e) :
    s.seqTurn cl = .next (s.seqTrapAt cl .illop false (s.seqOf cl).spc 0) := by
  have hnext : s.seqNext cl = some (.error .illop) := by simp [State.seqNext, hl, hf, hd]
  simp only [State.seqTurn, hnext]

theorem State.slotTurn_of_op {core : Nat} (hr : (s.slot core).st = .running) (hb : (s.slot core).begun = true)
    (hd : decodeUop ((s.slot core).active.getD 0 (s.slot core).upc) = .ok i) : s.slotTurn core = exec i { s with issuer := .slot core } := by
  simp only [State.slotTurn, hr, hb, hd, beq_self_eq_true, Bool.and_self, if_true]

theorem State.slotTurn_of_error {core : Nat} {e : DecErr} (hr : (s.slot core).st = .running) (hb : (s.slot core).begun = true)
    (hd : decodeUop ((s.slot core).active.getD 0 (s.slot core).upc) = .error e) : s.slotTurn core = .next (s.failSlot core .illop) := by
  simp only [State.slotTurn, hr, hb, hd, beq_self_eq_true, Bool.and_self, if_true]

theorem State.queueTurn_of_packet {q : Nat} {b : BitVec 512} (hc : (s.cq q).cur = some b) (hd : decodePacket b = .ok i) :
    s.queueTurn q = exec i { s with issuer := .queue q } := by
  simp only [State.queueTurn, hc, hd]

theorem State.queueTurn_of_error {q : Nat} {b : BitVec 512} {e : DecErr} (hc : (s.cq q).cur = some b) (hd : decodePacket b = .error e) :
    s.queueTurn q = .next (s.queueErr q .illop (packetSeq b)) := by
  simp only [State.queueTurn, hc, hd]

theorem step_of_turn {t : Turn} {rest : List Turn} (h : s.agenda = t :: rest) : step s = ({ s with agenda := rest } : State).turn t := by
  simp only [step, h]

/-- What is no word of a stream, no micro-op and no packet is a step of an engine or of the outside. -/
theorem isEvent_of_no_code (hu : encodeUop i = none) (hp : encodePacket 0 i = none) (hs : bodyOf i = .step) : isEvent i = true := by
  rw [isEvent, hs, hu, hp]
  rfl

theorem encode_eq_nil (h : encode i = []) : bodyOf i = .step := by
  unfold encode at h
  split at h
  case h_5 hs => exact hs
  all_goals cases h

/-- Every instruction is a word of a stream, a micro-op, a packet or a step. -/
theorem instr_kind (i : Instr) : encode i ≠ [] ∨ encodeUop i ≠ none ∨ encodePacket 0 i ≠ none ∨ isEvent i = true := by
  by_contra hno
  simp only [not_or, not_not] at hno
  obtain ⟨hword, huop, hpacket, hevent⟩ := hno
  exact hevent (isEvent_of_no_code huop hpacket (encode_eq_nil hword))

/-- Settles O4: by the turn of each kind of agent. -/
theorem stepRunsDecoded : Obligations.StepRunsDecoded := by
  intro s rest u
  refine ⟨fun gid g second r i n ha hg hp hd => ?_, fun gid g second r e ha hg hp hd => ?_, fun cl w i n ha hl hf hd => ?_, fun cl w e ha hl hf hd => ?_,
    fun core i ha hr hb hd => ?_, fun core e ha hr hb hd => ?_, fun q b i ha hc hd => ?_, fun q b e ha hc hd => ?_, fun i ha he => ?_, fun ha => ?_, fun ha => ?_,
    instr_kind⟩
  · exact (step_of_turn ha).trans (State.groupTurn_of_word (s := u) hg hp hd)
  · exact (step_of_turn ha).trans (State.groupTurn_of_error (s := u) hg hp hd)
  · exact (step_of_turn ha).trans (State.seqTurn_of_word (s := u) hl hf hd)
  · exact (step_of_turn ha).trans (State.seqTurn_of_error (s := u) hl hf hd)
  · exact (step_of_turn ha).trans (State.slotTurn_of_op (s := u) hr hb hd)
  · exact (step_of_turn ha).trans (State.slotTurn_of_error (s := u) hr hb hd)
  · exact (step_of_turn ha).trans (State.queueTurn_of_packet (s := u) hc hd)
  · exact (step_of_turn ha).trans (State.queueTurn_of_error (s := u) hc hd)
  · exact (step_of_turn ha).trans (if_pos he)
  · exact ⟨u.clock, step_of_turn ha, State.clock_pcc u⟩
  · simp only [step, ha]

end Sys2Proof.Machine
end

section
/-! SUPPORT of O41. Bytes of a record; clusters, requests, futures and blocks after the steps that a stream takes. -/

namespace Sys2Proof.Machine

/-! Bytes of little-endian numbers. -/

@[simp] theorem length_le (n v : Nat) : (le n v).length = n := by simp [le]

theorem take_drop_le {n i k : Nat} (v : Nat) (h : i + k ≤ n) : ((le n v).drop i).take k = le k (v / 256 ^ i) := by
  apply List.ext_getElem
  · simp only [List.length_take, List.length_drop, length_le]
    omega
  · intro j _ _
    simp [le, Nat.div_div_eq_div_mul, pow_add]

theorem le_succ (n v : Nat) : le (n + 1) v = BitVec.ofNat 8 v :: le n (v / 256) := by
  simp [le, List.range_succ_eq_map, Nat.div_div_eq_div_mul, pow_succ, Nat.mul_comm]

theorem natOfBytes_le (n v : Nat) : natOfBytes (le n v) = v % 256 ^ n := by
  induction n generalizing v with
  | zero => simp [le, natOfBytes, Nat.mod_one]
  | succ n ih =>
    have hcons (b : Byte) (bs : List Byte) : natOfBytes (b :: bs) = b.toNat + 256 * natOfBytes bs := rfl
    rw [le_succ, hcons, ih, BitVec.toNat_ofNat, pow_succ' 256, Nat.mod_mul]

/-- A field inside the first number of some bytes. -/
theorem natOfBytes_field {n i k : Nat} (v : Nat) (bs : List Byte) (h : i + k ≤ n) :
    natOfBytes (((le n v ++ bs).drop i).take k) = v / 256 ^ i % 256 ^ k := by
  rw [List.drop_append_of_le_length (by rw [length_le]; omega), List.take_append_of_le_length (by rw [List.length_drop, length_le]; omega),
    take_drop_le v h, natOfBytes_le]

theorem drop_le_append {n i : Nat} (v : Nat) (bs : List Byte) (h : n ≤ i) : (le n v ++ bs).drop i = bs.drop (i - n) := by
  rw [List.drop_append, List.drop_of_length_le (by rw [length_le]; exact h), length_le, List.nil_append]

/-! Clusters and requests. -/

variable {s : State} {cl : Nat}

@[simp] theorem State.seqOf_modSeq_self (s : State) (cl : Nat) (f : Seq → Seq) : (s.modSeq cl f).seqOf cl = f (s.seqOf cl) := by
  simp [State.seqOf, State.modSeq]

@[simp] theorem State.cl_setCl_self (s : State) (cl : Nat) (x : Cluster) : (s.setCl cl x).cl cl = x := FMap.getD_put_self ..

theorem State.cl_seqAcquire (s : State) (cl ctx : Nat) : ∃ lib, (s.seqAcquire cl ctx).cl cl = { s.cl cl with lib := lib } :=
  ⟨_, State.cl_modCl_self ..⟩

theorem State.lodge_request (s : State) (log ctx : Nat) (gid : Option Nat) (kind : ReqKind) (lines : List PLine) (rkind : BitVec 2) :
    (s.lodge log ctx gid kind lines rkind).2.store.reqs.get? s.fresh =
      some { log := log, ctx := ctx, gid := gid, kind := kind, lines := lines, rkind := rkind, since := s.pcc, starved := none, upto := 0, st := .waiting } :=
  FMap.get?_set_self ..

theorem State.lodge_queue (s : State) (log ctx : Nat) (gid : Option Nat) (kind : ReqKind) (lines : List PLine) (rkind : BitVec 2) :
    s.fresh ∈ ((s.lodge log ctx gid kind lines rkind).2.log log).queue := by
  have hlog : ((s.lodge log ctx gid kind lines rkind).2.log log).queue = (s.log log).queue ++ [s.fresh] := congrArg Log.queue (FMap.getD_put_self ..)
  rw [hlog]
  exact List.mem_append_right _ (List.mem_singleton_self _)

theorem State.lodgeBytes_lodged (s : State) (log ctx : Nat) (gid : Option Nat) (addr : Nat) (bs : List Byte) :
    lodged (s.lodgeBytes log ctx gid addr bs).2 s.fresh log ctx addr bs :=
  ⟨_, State.lodge_request .., rfl, rfl, rfl, rfl, State.lodge_queue ..⟩

/-! Futures (R16 to R18). -/

theorem State.ctx?_modCtx {c : Nat} {x : Ctx} (f : Ctx → Ctx) (h : s.ctx? c = some x) : (s.modCtx c f).ctx? c = some (f x) :=
  (FMap.get?_modify_self ..).trans (congrArg (Option.map f) h)

theorem Ctx.fut_set_self (x : Ctx) (tag : Nat) (e : Fut) (next : Nat) : ({ x with futs := x.futs.set tag e, nextTag := next } : Ctx).fut tag = e := by
  simp [Ctx.fut, FMap.getD]

/-- The state in which an operation has the next entry of a context's future table, which stood as e. -/
def State.takeFut (s : State) (c : Nat) (e : Fut) (cls : BitVec 4) (gid : Option Nat) (launch op : Nat) : State :=
  s.modCtx c (fun x => { x with
    futs := x.futs.set x.nextTag { cls := cls, gen := e.gen + 1, st := .pending, gid := gid, launch := launch, op := op }, nextTag := (x.nextTag + 1) % 4096 })

/-- A free entry is taken: its handle is the context's next. -/
theorem State.allocFut_of_free {c : Nat} {x : Ctx} (cls : BitVec 4) (gid : Option Nat) (launch op : Nat) (hc : s.ctx? c = some x)
    (hf : (x.fut x.nextTag).st ≠ .pending) :
    s.allocFut c cls gid launch op = some (s.takeFut c (x.fut x.nextTag) cls gid launch op, nextHandle x cls) := by
  simp only [State.allocFut, hc, hf, if_false]
  rfl

theorem State.takeFut_pending {c : Nat} {x : Ctx} (cls : BitVec 4) (gid : Option Nat) (launch op : Nat) (hc : s.ctx? c = some x) :
    ∃ x', (s.takeFut c (x.fut x.nextTag) cls gid launch op).ctx? c = some x' ∧ (x'.fut x.nextTag).st = .pending :=
  ⟨_, State.ctx?_modCtx _ hc, congrArg Fut.st (Ctx.fut_set_self x x.nextTag _ _)⟩

theorem State.allocFut_of_pending {c : Nat} {x : Ctx} (cls : BitVec 4) (gid : Option Nat) (launch op : Nat) (hc : s.ctx? c = some x)
    (hf : (x.fut x.nextTag).st = .pending) : s.allocFut c cls gid launch op = none := by
  simp only [State.allocFut, hc, hf, if_true]

/-- A context an entry of whose future table takes a state. -/
def Ctx.settle (x : Ctx) (tag : Nat) (st : FutSt) : Ctx := { x with futs := x.futs.set tag { x.fut tag with st := st } }

theorem Ctx.fut_settle (x : Ctx) (tag : Nat) (st : FutSt) : ((x.settle tag st).fut tag).st = st := congrArg Fut.st (Ctx.fut_set_self x tag _ x.nextTag)

theorem State.resolve_of_pending {c tag : Nat} {x : Ctx} (st : FutSt) (hc : s.ctx? c = some x) (hp : (x.fut tag).st = .pending) (hg : (x.fut tag).gid = none) :
    s.resolve c tag st = s.modCtx c (fun x => x.settle tag st) := by
  have hc' : s.ctxs.get? c = some x := hc
  have hdec (u : State) : u.decCopies (x.fut tag).gid = u := by
    rw [hg]
    rfl
  simp only [State.resolve, hc, hp, if_true, hdec]
  simp only [State.modCtx, FMap.modify, hc', Ctx.settle]

/-- The state in which an operation has left its engine. -/
def State.dropAop (s : State) (n : Nat) : State :=
  { s with aops := s.aops.erase n, waiters := s.waiters.filter (fun p => p.2.who != WaiterWho.aop n) }

/-- An operation whose entry is PENDING ends: it leaves the engine, and its entry takes the state. -/
theorem State.endAop_of_pending {n : Nat} {o : AOp} {c : Ctx} {st : FutSt} (h : pendingOp s n o c) (hu : st = .ok ∨ ∀ u : State, u.undoAop o = u) :
    s.endAop n st = (s.dropAop n).modCtx o.ctx (fun x => x.settle o.tag st) := by
  obtain ⟨ho, hc, hop, hpending, hgid⟩ := h
  have hmine : ((c.fut o.tag).op == n) = true := beq_iff_eq.2 hop
  have hend : s.endAop n st = if st = .ok then (s.dropAop n).resolve o.ctx o.tag st else ((s.dropAop n).resolve o.ctx o.tag st).undoAop o := by
    simp only [State.endAop, ho, hc, hmine, if_true]
    rfl
  rw [hend, State.resolve_of_pending (s := s.dropAop n) st hc hpending hgid]
  split
  · rfl
  next hne => exact hu.resolve_left hne _

theorem State.endAop_ended {n : Nat} {o : AOp} {c : Ctx} {st : FutSt} (h : pendingOp s n o c) (hu : st = .ok ∨ ∀ u : State, u.undoAop o = u) :
    ended (s.endAop n st) n o st := by
  rw [State.endAop_of_pending h hu]
  obtain ⟨-, hc, -⟩ := h
  exact ⟨(FMap.get?_erase ..).trans (if_pos rfl), _, State.ctx?_modCtx (s := s.dropAop n) _ hc, Ctx.fut_settle ..⟩

theorem State.endAop_groups_of_pending {n : Nat} {o : AOp} {c : Ctx} {st : FutSt} (h : pendingOp s n o c) (hu : st = .ok ∨ ∀ u : State, u.undoAop o = u) :
    (s.endAop n st).groups = s.groups := by
  rw [State.endAop_of_pending h hu]
  rfl

/-! The end of a block. -/

/-- The groups, the engines' operations and the contexts. -/
def State.besideBlocks (s : State) : FMap Group × FMap AOp × FMap Ctx := (s.groups, s.aops, s.ctxs)

theorem State.dropLock_besideBlocks (s : State) (bk base len : Nat) : (s.dropLock bk base len).besideBlocks = s.besideBlocks := by
  unfold State.dropLock
  split
  · rfl
  · split
    · rfl
    · exact List.foldlRecOn _ _ (motive := fun t : State => t.besideBlocks = s.besideBlocks) rfl (fun t ht _ _ => ht)

theorem State.dropLocks_besideBlocks (s : State) (bk : Nat) : (s.dropLocks bk).besideBlocks = s.besideBlocks := by
  unfold State.dropLocks
  split
  · rfl
  · exact List.foldlRecOn _ _ (motive := fun t : State => t.besideBlocks = s.besideBlocks) rfl
      (fun t ht x _ => (State.dropLock_besideBlocks ..).trans ht)

theorem State.endBlock_besideBlocks (s : State) (bk : Nat) : (s.endBlock bk).besideBlocks = s.besideBlocks := by
  unfold State.endBlock
  split
  · rfl
  · dsimp only
    split
    · rfl
    · split <;> exact State.dropLocks_besideBlocks s bk

end Sys2Proof.Machine
end

section
/-! SUPPORT of O41. The steps of a sequencer stream: start, stall, trap, save, restore, end (R275, R276, R289, R290). -/

namespace Sys2Proof.Machine

variable {s : State} {cl : Nat} {q : Seq}

/-! Start. -/

theorem execStreamStart_of_not_ready (h : (s.seqOf cl).st ≠ .ready) : execStreamStart cl s = .next s := by
  simp [execStreamStart, h]

theorem execStreamStart_of_pending {c : Ctx} (hc : s.ctx? (s.seqOf cl).ctx = some c) (hf : (c.fut c.nextTag).st = .pending) :
    execStreamStart cl s = .next s := by
  simp [execStreamStart, State.allocFut_of_pending _ _ _ _ hc hf]

/-- The stream of an operation n that has the handle h starts. -/
def State.startStream (s : State) (cl n : Nat) (h : Word) : State :=
  let q := s.seqOf cl
  let s := { s with aops := s.aops.set n (AOp.new q.ctx none q.launch cl (hTag h) .stream .running s.pcc) }
  let s := s.modCl cl (fun c => { c with mail := [], mailOpen := true, parts := Parts.reset })
  (s.modSeq cl (fun q => { q.setReg 17 (h.setWidth 64) with st := .running, handle := some n })).seqAcquire cl q.ctx

theorem State.cl_startStream (s : State) (cl n : Nat) (h : Word) : ∃ lib, (s.startStream cl n h).cl cl = { s.cl cl with
    mail := [], mailOpen := true, parts := Parts.reset, lib := lib,
    seq := { (s.seqOf cl).setReg 17 (h.setWidth 64) with st := .running, handle := some n } } := by
  obtain ⟨lib, hlib⟩ := State.cl_seqAcquire ((({ s with aops := s.aops.set n (AOp.new (s.seqOf cl).ctx none (s.seqOf cl).launch cl (hTag h) .stream .running s.pcc) }
    : State).modCl cl (fun c => { c with mail := [], mailOpen := true, parts := Parts.reset })).modSeq cl
      (fun q => { q.setReg 17 (h.setWidth 64) with st := .running, handle := some n })) cl (s.seqOf cl).ctx
  refine ⟨lib, hlib.trans ?_⟩
  rw [State.modSeq, State.cl_modCl_self, State.cl_modCl_self]
  rfl

theorem execStreamStart_of_free {c : Ctx} (hr : (s.seqOf cl).st = .ready) (hs : (s.seqOf cl).stopReq = false) (hv : (s.seqOf cl).saveReq = false)
    (hc : s.ctx? (s.seqOf cl).ctx = some c) (hf : (c.fut c.nextTag).st ≠ .pending) : execStreamStart cl s =
      .next ((s.takeFut (s.seqOf cl).ctx (c.fut c.nextTag) 6 none (s.seqOf cl).launch s.fresh).newNum.2.startStream cl s.fresh (nextHandle c 6)) := by
  simp only [execStreamStart, hr, hs, hv, State.allocFut_of_free _ _ _ _ hc hf]
  rfl

/-- A stream that has started: it runs, its mailboxes are open and empty, its Parts engine is reset, and s17 holds its handle. -/
theorem State.startStream_started (s : State) (cl n : Nat) (h : Word) :
    let t := s.startStream cl n h
    (t.seqOf cl).st = .running ∧ (t.cl cl).mailOpen = true ∧ (∀ m, (t.cl cl).box m = []) ∧ (t.cl cl).parts = Parts.reset ∧
      (t.seqOf cl).spc = (s.seqOf cl).spc ∧ (t.seqOf cl).stallFrom = (s.seqOf cl).stallFrom ∧
      ∀ m : Nat, (t.seqOf cl).reg m = if m = 17 then h.setWidth 64 else (s.seqOf cl).reg m := by
  obtain ⟨lib, hcl⟩ := s.cl_startStream cl n h
  have hseq : (s.startStream cl n h).seqOf cl = { (s.seqOf cl).setReg 17 (h.setWidth 64) with st := .running, handle := some n } := congrArg Cluster.seq hcl
  refine ⟨(congrArg Seq.st hseq :), congrArg Cluster.mailOpen hcl, fun m => congrArg (fun c => c.box m) hcl, congrArg Cluster.parts hcl, (congrArg Seq.spc hseq :),
    (congrArg Seq.stallFrom hseq :), fun m => ?_⟩
  exact (congrArg (fun q => q.reg m) hseq).trans (FMap.getD_put ..)

theorem streamStarts {c : Ctx} (hr : (s.seqOf cl).st = .ready) (hs : (s.seqOf cl).stopReq = false) (hv : (s.seqOf cl).saveReq = false)
    (hc : s.ctx? (s.seqOf cl).ctx = some c) (hf : (c.fut c.nextTag).st ≠ .pending) :
    ∃ t c', execStreamStart cl s = .next t ∧ (t.seqOf cl).st = .running ∧ (t.cl cl).mailOpen = true ∧ (∀ m, (t.cl cl).box m = []) ∧
      (t.cl cl).parts = Parts.reset ∧ (t.seqOf cl).spc = (s.seqOf cl).spc ∧ (t.seqOf cl).stallFrom = (s.seqOf cl).stallFrom ∧
      (∀ m : Nat, (t.seqOf cl).reg m = if m = 17 then (nextHandle c 6).setWidth 64 else (s.seqOf cl).reg m) ∧
      t.ctx? (s.seqOf cl).ctx = some c' ∧ (c'.fut c.nextTag).st = .pending ∧ t.mems = s.mems ∧ t.groups = s.groups := by
  obtain ⟨c', hc', hpending⟩ := State.takeFut_pending 6 none (s.seqOf cl).launch s.fresh hc
  obtain ⟨hst, hopen, hbox, hparts, hspc, hstall, hreg⟩ :=
    (s.takeFut (s.seqOf cl).ctx (c.fut c.nextTag) 6 none (s.seqOf cl).launch s.fresh).newNum.2.startStream_started cl s.fresh (nextHandle c 6)
  exact ⟨_, c', execStreamStart_of_free hr hs hv hc hf, hst, hopen, hbox, hparts, hspc, hstall, hreg, hc', hpending, rfl, rfl⟩

/-! Stall and traps. -/

/-- What the cluster of a stream that ends keeps. -/
theorem State.cl_seqEnd (s : State) (cl : Nat) (c : Cause) (t : Option Trap) : ∃ mail accs, (s.seqEnd cl c t).cl cl = { s.cl cl with
    mailOpen := false, mail := mail,
    seq := { s.seqOf cl with
      st := .ended, cause := c, trap := t, accs := accs,
      pxq := if c = .none then (s.seqOf cl).pxq else (s.seqOf cl).pxq.filter (·.started) } } := by
  refine ⟨(s.cl cl).mail.map (fun b => (b.1, losePlaces (if c = .none then [] else (s.seqOf cl).pxq.filter (fun o => !o.started)) b.2)),
    if c = .none then (s.seqOf cl).accs else (s.seqOf cl).accs.filter (fun a => a.2.acc.write), ?_⟩
  exact FMap.getD_put_self s.clusters Cluster.reset cl _

theorem State.seqOf_seqEnd (s : State) (cl : Nat) (c : Cause) (t : Option Trap) : ∃ accs, (s.seqEnd cl c t).seqOf cl = { s.seqOf cl with
    st := .ended, cause := c, trap := t, accs := accs, pxq := if c = .none then (s.seqOf cl).pxq else (s.seqOf cl).pxq.filter (·.started) } := by
  obtain ⟨mail, accs, hcl⟩ := s.cl_seqEnd cl c t
  exact ⟨accs, congrArg Cluster.seq hcl⟩

theorem State.mailOpen_seqEnd (s : State) (cl : Nat) (c : Cause) (t : Option Trap) : ((s.seqEnd cl c t).cl cl).mailOpen = false := by
  obtain ⟨mail, accs, hcl⟩ := s.cl_seqEnd cl c t
  exact congrArg Cluster.mailOpen hcl

theorem seqStops_of_seqEnd {tr : Trap} {c : Cause} {deferred : Bool} {wpc : Pc} {d0 : Dword} (hc : c ≠ .none)
    (htr : tr.cause = c ∧ tr.deferred = deferred ∧ tr.wpc = wpc ∧ tr.detail0 = d0 ∧ tr.lanes = 0 ∧ tr.ofs = 0) :
    seqStops (s.seqEnd cl c (some tr)) s cl (s.seqOf cl) c deferred wpc d0 := by
  obtain ⟨accs, hseq⟩ := s.seqOf_seqEnd cl c (some tr)
  rw [if_neg hc] at hseq
  exact ⟨⟨tr, (congrArg Seq.trap hseq :), htr⟩, (congrArg Seq.st hseq :), (congrArg Seq.cause hseq :), (congrArg Seq.s hseq :), (congrArg Seq.spc hseq :), (congrArg Seq.pxq hseq :),
    State.mailOpen_seqEnd .., rfl, rfl⟩

theorem State.seqTrapAt_of_live (c : Cause) (deferred : Bool) (wpc : Pc) (d0 : Dword) (ht : (s.seqOf cl).trap = none) (he : (s.seqOf cl).st ≠ .ended) :
    s.seqTrapAt cl c deferred wpc d0 = s.seqEnd cl c (some { cause := c, deferred := deferred, ofs := 0, wpc := wpc, mask := 0, lanes := 0, detail0 := d0, detail1 := 0, detail2 := 0, req := none }) := by
  simp [State.seqTrapAt, ht, he]

/-- A stream that waits or runs: its start or its next word is awaited. -/
theorem execSeqStall_of_live (hl : (s.seqOf cl).st = .running ∨ (s.seqOf cl).st = .ready) (ht : (s.seqOf cl).trap = none) : execSeqStall cl s =
    .next (if (s.seqOf cl).saveOp.isNone && s.due ((s.seqOf cl).stallFrom + 0x100000000) then s.seqTrapAt cl .stall false (s.seqOf cl).spc 0 else s) := by
  have hst : ((s.seqOf cl).st == .running || (s.seqOf cl).st == .ready) = true := by simpa using hl
  simp only [execSeqStall, hst, ht, Option.isNone_none, Bool.true_and]
  split <;> rfl

theorem streamStalls (hl : (s.seqOf cl).st = .running ∨ (s.seqOf cl).st = .ready) (ht : (s.seqOf cl).trap = none) (hv : (s.seqOf cl).saveOp = none)
    (hd : s.due ((s.seqOf cl).stallFrom + 0x100000000) = true) :
    ∃ t, execSeqStall cl s = .next t ∧ seqStops t s cl (s.seqOf cl) .stall false (s.seqOf cl).spc 0 := by
  have hlive : (s.seqOf cl).st ≠ .ended := by rcases hl with h | h <;> simp [h]
  refine ⟨_, execSeqStall_of_live hl ht, ?_⟩
  rw [if_pos (by rw [hv, hd]; rfl), State.seqTrapAt_of_live _ _ _ _ ht hlive]
  exact seqStops_of_seqEnd (by decide) ⟨rfl, rfl, rfl, rfl, rfl, rfl⟩

theorem seqTrapLodges {tr : Trap} (ht : (s.seqOf cl).trap = some tr) (hr : tr.req = none) : ∃ t, execSeqTrap cl s = .next t ∧
    t.seqOf cl = { s.seqOf cl with trap := some { tr with req := some s.fresh, stamp := s.pcc } } ∧
    lodged t s.fresh cl (s.seqOf cl).ctx (s.seqOf cl).trec (seqTrapRecord (s.seqOf cl) tr s.pcc) ∧ t.mems = s.mems ∧ t.groups = s.groups := by
  have hstep : execSeqTrap cl s = .next ((s.lodgeBytes cl (s.seqOf cl).ctx none (s.seqOf cl).trec (seqTrapRecord (s.seqOf cl) tr s.pcc)).2.modSeq cl
      (fun q => { q with trap := some { tr with req := some s.fresh, stamp := s.pcc } })) := by
    simp only [execSeqTrap, ht, hr]
    rfl
  exact ⟨_, hstep, State.seqOf_modSeq_self .., State.lodgeBytes_lodged .., rfl, rfl⟩

theorem execSeqTrap_waits {tr : Trap} {k : Nat} (ht : (s.seqOf cl).trap = some tr) (hr : tr.req = some k) (hk : s.reqSt k ≠ .complete) :
    execSeqTrap cl s = .next s := by
  simp [execSeqTrap, ht, hr, hk]

/-- The fields of a stream's trap record. -/
theorem seqTrapRecord_fields (q : Seq) (tr : Trap) (now : BitVec 64) :
    let at_ (o n : Nat) : Nat := natOfBytes (((seqTrapRecord q tr now).drop o).take n)
    (seqTrapRecord q tr now).length = 128 ∧ at_ 0 1 = tr.cause.code.toNat ∧ at_ 1 1 = (if tr.deferred then 1 else 0) ∧ at_ 6 2 = 0xFFFF ∧
      at_ 0x10 8 = tr.wpc.toNat ∧ at_ 0x18 8 = tr.wpc.toNat ∧ at_ 0x20 8 = 0 ∧ at_ 0x28 8 = now.toNat := by
  have hcode := tr.cause.code.isLt
  have hwpc := tr.wpc.isLt
  have hnow := now.isLt
  simp only [seqTrapRecord, List.append_assoc]
  refine ⟨by simp, ?_, ?_, ?_, ?_, ?_, ?_, ?_⟩
  all_goals simp (disch := omega) only [drop_le_append, natOfBytes_field]
  all_goals norm_num
  case refine_1 => split <;> omega
  case refine_2 => split <;> omega
  case refine_3 => split <;> omega
  all_goals omega

/-! Save and restore. -/

/-- A group of the stream's block is on a core. -/
def State.blockHere (s : State) (q : Seq) : Bool := s.groups.any (fun p => p.2.blockKey == blockKey q.launch q.block && match p.2.place with
  | .resident _ _ => true
  | _ => false)

theorem State.blockHere_iff (s : State) (q : Seq) :
    s.blockHere q = true ↔ ∃ g ∈ s.groups, g.2.blockKey = blockKey q.launch q.block ∧ ∃ c k, g.2.place = .resident c k := by
  have hplace (p : Place) : (match p with
      | .resident _ _ => true
      | _ => false) = true ↔ ∃ c k, p = .resident c k := by
    cases p <;> simp
  simp only [State.blockHere, List.any_eq_true, Bool.and_eq_true, beq_iff_eq, hplace]

theorem seqSave_asked (hv : (s.seqOf cl).saveReq = true) (ht : (s.seqOf cl).trap = none) (hf : (s.seqOf cl).st ≠ .free) :
    (!(s.cl cl).seq.saveReq || (s.cl cl).seq.trap.isSome || (s.cl cl).seq.st == .free) = false := by
  have hv' : (s.cl cl).seq.saveReq = true := hv
  have ht' : (s.cl cl).seq.trap = none := ht
  have hf' : (s.cl cl).seq.st ≠ .free := hf
  simp [hv', ht', hf']

/-- A stream that is to be saved, of which nothing is under way, lodges its image; another waits. -/
theorem execSeqSave_of_asked (hv : (s.seqOf cl).saveReq = true) (ht : (s.seqOf cl).trap = none) (hf : (s.seqOf cl).st ≠ .free)
    (hop : (s.seqOf cl).saveOp = none) : execSeqSave cl s =
      if (s.seqOf cl).accs.isEmpty && (s.seqOf cl).pxq.isEmpty && !s.blockHere (s.seqOf cl) then
        .next (({ (s.lodgeBytes cl (s.seqOf cl).ctx none ((s.seqOf cl).trec + 0x80) (s.seqImage cl)).2 with
          waiters := s.waiters.filter (fun p => p.2.who != WaiterWho.seq cl) } : State).modSeq cl
            (fun q => { q with saveOp := some s.fresh, stallFrom := s.pcc - q.stallFrom }))
      else .next s := by
  have hasked := seqSave_asked hv ht hf
  have hop' : (s.cl cl).seq.saveOp = none := hop
  simp only [execSeqSave, hasked, hop', Bool.false_eq_true, if_false]
  rfl

theorem seqSaveWaits (hv : (s.seqOf cl).saveReq = true) (ht : (s.seqOf cl).trap = none) (hf : (s.seqOf cl).st ≠ .free) (hop : (s.seqOf cl).saveOp = none)
    (hw : (s.seqOf cl).accs ≠ [] ∨ (s.seqOf cl).pxq ≠ [] ∨
      ∃ g ∈ s.groups, g.2.blockKey = blockKey (s.seqOf cl).launch (s.seqOf cl).block ∧ ∃ c k, g.2.place = .resident c k) :
    execSeqSave cl s = .next s := by
  rw [← State.blockHere_iff] at hw
  rw [execSeqSave_of_asked hv ht hf hop, if_neg]
  simp only [Bool.and_eq_true, Bool.not_eq_true', List.isEmpty_iff]
  rintro ⟨⟨haccs, hpxq⟩, hhere⟩
  rcases hw with h | h | h
  · exact h haccs
  · exact h hpxq
  · rw [hhere] at h
    cases h

theorem seqSaveLodges (hv : (s.seqOf cl).saveReq = true) (ht : (s.seqOf cl).trap = none) (hf : (s.seqOf cl).st ≠ .free) (hop : (s.seqOf cl).saveOp = none)
    (haccs : (s.seqOf cl).accs = []) (hpxq : (s.seqOf cl).pxq = [])
    (hw : ¬ ∃ g ∈ s.groups, g.2.blockKey = blockKey (s.seqOf cl).launch (s.seqOf cl).block ∧ ∃ c k, g.2.place = .resident c k) :
    ∃ t, execSeqSave cl s = .next t ∧ (t.seqOf cl).saveOp = some s.fresh ∧ (t.seqOf cl).s = (s.seqOf cl).s ∧ (t.seqOf cl).spc = (s.seqOf cl).spc ∧
      lodged t s.fresh cl (s.seqOf cl).ctx ((s.seqOf cl).trec + 0x80) (s.seqImage cl) ∧ t.mems = s.mems := by
  rw [← State.blockHere_iff, Bool.not_eq_true] at hw
  have hstep := execSeqSave_of_asked hv ht hf hop
  rw [haccs, hpxq, hw] at hstep
  replace hstep := hstep.trans (if_pos rfl)
  have hseq := State.seqOf_modSeq_self (({ (s.lodgeBytes cl (s.seqOf cl).ctx none ((s.seqOf cl).trec + 0x80) (s.seqImage cl)).2 with
    waiters := s.waiters.filter (fun p => p.2.who != WaiterWho.seq cl) } : State)) cl (fun q => { q with saveOp := some s.fresh, stallFrom := s.pcc - q.stallFrom })
  exact ⟨_, hstep, (congrArg Seq.saveOp hseq :), (congrArg Seq.s hseq :), (congrArg Seq.spc hseq :), State.lodgeBytes_lodged s cl _ none _ _, rfl⟩

theorem execSeqSave_waits {k : Nat} (hop : (s.seqOf cl).saveOp = some k) (hk : s.reqSt k ≠ .complete) : execSeqSave cl s = .next s := by
  have hop' : (s.cl cl).seq.saveOp = some k := hop
  simp [execSeqSave, hop', hk]

/-- What is kept of a stream whose image has been published. -/
def Cluster.savedStream (c : Cluster) : SeqSave := { seq := { c.seq with saveReq := false, saveOp := none }, parts := c.parts, mail := c.mail, isOpen := c.mailOpen }

theorem State.clusters_blockSaved (s : State) (bk : Nat) : (s.blockSaved bk).clusters = s.clusters := by
  unfold State.blockSaved
  split
  · rfl
  · dsimp only
    split <;> rfl

theorem execSeqSave_of_published {k : Nat} (hv : (s.seqOf cl).saveReq = true) (ht : (s.seqOf cl).trap = none) (hf : (s.seqOf cl).st ≠ .free)
    (hop : (s.seqOf cl).saveOp = some k) (hk : s.reqSt k = .complete) : execSeqSave cl s =
      .next ((s.setCl cl { s.cl cl with
        seq := Seq.reset, parts := Parts.reset, mail := [], mailOpen := false,
        saves := (s.cl cl).saves.set (blockKey (s.seqOf cl).launch (s.seqOf cl).block) (s.cl cl).savedStream }).blockSaved
          (blockKey (s.seqOf cl).launch (s.seqOf cl).block)) := by
  have hasked := seqSave_asked hv ht hf
  have hop' : (s.cl cl).seq.saveOp = some k := hop
  simp only [execSeqSave, hasked, hop', hk, Bool.false_eq_true, if_false, beq_self_eq_true, if_true]
  rfl

theorem seqSaveFrees {k : Nat} (hv : (s.seqOf cl).saveReq = true) (ht : (s.seqOf cl).trap = none) (hf : (s.seqOf cl).st ≠ .free)
    (hop : (s.seqOf cl).saveOp = some k) (hk : s.reqSt k = .complete) : ∃ t kept, execSeqSave cl s = .next t ∧
      (t.cl cl).saves.get? (blockKey (s.seqOf cl).launch (s.seqOf cl).block) = some kept ∧ kept.seq.s = (s.seqOf cl).s ∧ kept.seq.spc = (s.seqOf cl).spc ∧
      kept.parts = (s.cl cl).parts ∧ kept.mail = (s.cl cl).mail ∧ (t.cl cl).mailOpen = false ∧ t.mems = s.mems := by
  have hcl (x : Cluster) (bk : Nat) : ((s.setCl cl x).blockSaved bk).cl cl = x :=
    (congrArg (fun m : FMap Cluster => m.getD Cluster.reset cl) (State.clusters_blockSaved ..)).trans (State.cl_setCl_self ..)
  refine ⟨_, (s.cl cl).savedStream, execSeqSave_of_published hv ht hf hop hk, ?_, rfl, rfl, rfl, rfl, ?_, ?_⟩
  · rw [hcl]
    exact FMap.get?_set_self ..
  · rw [hcl]
  · rw [State.blockSaved_mems, State.setCl_mems]

theorem seqRestores {blk : Nat} {k : SeqSave} {b : Block} {c : Ctx} (hk : (s.cl cl).saves.get? blk = some k) (hb : s.blocks.get? blk = some b)
    (hc : s.ctx? k.seq.ctx = some c) (hf : (s.seqOf cl).st = .free) (hbc : b.cluster = cl) (hheld : b.held = false) (hask : b.ask = false)
    (hq : c.quiet = .running) (hr : b.resident = true ∨ restoreFirst s b (((s.launchOf b.launch).map (·.prio)).getD 0) = true) :
    ∃ t, execSeqRestore cl blk s = .next t ∧ t.seqOf cl = { k.seq with stallFrom := s.pcc - k.seq.stallFrom } ∧ (t.cl cl).parts = k.parts ∧
      (t.cl cl).mail = k.mail ∧ (t.cl cl).mailOpen = k.isOpen ∧ t.mems = s.mems ∧ t.groups = s.groups := by
  have hf' : (s.cl cl).seq.st = .free := hf
  have hr' : (b.resident || restoreFirst s b (((s.launchOf b.launch).map (·.prio)).getD 0)) = true := by simpa using hr
  have hstep : execSeqRestore cl blk s = .next (((s.setCl cl { s.cl cl with
      seq := { k.seq with stallFrom := s.pcc - k.seq.stallFrom }, parts := k.parts, mail := k.mail, mailOpen := k.isOpen
      saves := (s.cl cl).saves.erase blk }).modBlock blk (fun b => { b with resident := true })).seqAcquire cl k.seq.ctx) := by
    simp only [execSeqRestore, hk, hb, hc, hf', hbc, hheld, hask, hq, hr', beq_self_eq_true, Bool.not_false, Bool.and_true, if_true]
  obtain ⟨lib, hcl⟩ := State.cl_seqAcquire ((s.setCl cl { s.cl cl with
      seq := { k.seq with stallFrom := s.pcc - k.seq.stallFrom }, parts := k.parts, mail := k.mail, mailOpen := k.isOpen
      saves := (s.cl cl).saves.erase blk }).modBlock blk (fun b => { b with resident := true })) cl k.seq.ctx
  have hset := s.cl_setCl_self cl { s.cl cl with
      seq := { k.seq with stallFrom := s.pcc - k.seq.stallFrom }, parts := k.parts, mail := k.mail, mailOpen := k.isOpen
      saves := (s.cl cl).saves.erase blk }
  exact ⟨_, hstep, (congrArg Cluster.seq hcl).trans (congrArg Cluster.seq hset), (congrArg Cluster.parts hcl).trans (congrArg Cluster.parts hset),
    (congrArg Cluster.mail hcl).trans (congrArg Cluster.mail hset), (congrArg Cluster.mailOpen hcl).trans (congrArg Cluster.mailOpen hset), rfl, rfl⟩

/-! The end of a stream. -/

theorem execStreamHandleResolve_of_ended (hs : (s.cl cl).saves = []) (he : (s.seqOf cl).st = .ended) :
    execStreamHandleResolve cl s = .next (s.streamResolve cl) := by
  simp [execStreamHandleResolve, hs, he]

/-- An ended stream with nothing under way resolves its handle. -/
theorem streamResolves {n : Nat} {o : AOp} {c : Ctx} (he : (s.seqOf cl).st = .ended) (ht : (s.seqOf cl).trap = none) (hh : (s.seqOf cl).handle = some n)
    (ho : pendingOp s n o c) (hk : o.kind = .stream) (hp : (s.seqOf cl).pxq = []) (ha : ∀ a ∈ (s.seqOf cl).accs, a.2.acc.write = false) :
    ended (s.streamResolve cl) n o (if (s.seqOf cl).cause = .none then .ok else .failed (s.seqOf cl).cause) ∧ (s.streamResolve cl).mems = s.mems ∧
      (s.streamResolve cl).groups = s.groups := by
  have hundo (u : State) : u.undoAop o = u := by simp only [State.undoAop, hk]
  have hacc : (s.seqOf cl).accs.any (fun a => a.2.acc.write) = false := List.any_eq_false.2 (fun a h => by simp [ha a h])
  have hstep : s.streamResolve cl = ((s.endAop n (if (s.seqOf cl).cause = .none then .ok else .failed (s.seqOf cl).cause)).modSeq cl
      (fun q => { q with handle := none })).endBlock (blockKey (s.seqOf cl).launch (s.seqOf cl).block) := by
    simp only [State.streamResolve, he, ht, hh, hp, hacc, beq_iff_eq]
    rfl
  generalize (if (s.seqOf cl).cause = .none then FutSt.ok else .failed (s.seqOf cl).cause) = st at *
  have hkeep := State.endBlock_besideBlocks ((s.endAop n st).modSeq cl (fun q => { q with handle := none })) (blockKey (s.seqOf cl).launch (s.seqOf cl).block)
  simp only [State.besideBlocks, Prod.mk.injEq] at hkeep
  obtain ⟨hgroups, haops, hctxs⟩ := hkeep
  rw [hstep]
  obtain ⟨hgone, c', hc', hfut⟩ := State.endAop_ended ho (st := st) (.inr hundo)
  refine ⟨⟨?_, c', ?_, hfut⟩, ?_, hgroups.trans (State.endAop_groups_of_pending ho (.inr hundo))⟩
  · rw [haops]
    exact hgone
  · exact (congrArg (fun m : FMap Ctx => m.get? o.ctx) hctxs).trans hc'
  · rw [State.endBlock_mems, State.modSeq_mems, State.endAop_mems]

theorem streamResolve_waits (hw : (s.seqOf cl).pxq ≠ [] ∨ ∃ a ∈ (s.seqOf cl).accs, a.2.acc.write = true) : s.streamResolve cl = s := by
  refine if_neg ?_
  simp only [Bool.and_eq_true, List.isEmpty_iff, Bool.not_eq_true', List.any_eq_false]
  rintro ⟨⟨-, hp⟩, ha⟩
  rcases hw with h | ⟨a, hmem, h⟩
  · exact h hp
  · exact ha a hmem h

theorem streamStopped (hs : (s.cl cl).saves = []) (hstop : (s.seqOf cl).stopReq = true) (hr : (s.seqOf cl).st = .running) (ht : (s.seqOf cl).trap = none) :
    ∃ t, execStreamHandleResolve cl s = .next t ∧ (t.seqOf cl).st = .ended ∧ (t.seqOf cl).cause = .cancelled ∧ (t.seqOf cl).s = (s.seqOf cl).s ∧
      (t.cl cl).mailOpen = false ∧ t.mems = s.mems ∧ t.groups = s.groups := by
  obtain ⟨accs, hseq⟩ := s.seqOf_seqEnd cl .cancelled none
  exact ⟨s.seqEnd cl .cancelled none, by simp [execStreamHandleResolve, hs, hstop, hr, ht], (congrArg Seq.st hseq :), (congrArg Seq.cause hseq :), (congrArg Seq.s hseq :),
    State.mailOpen_seqEnd .., rfl, rfl⟩

/-- Settles O41: the steps of a stream one after another. -/
theorem sequencerStream : Obligations.SequencerStream := by
  rintro s cl _ rfl
  refine ⟨fun c hr hstop hv hc hf _ => streamStarts hr hstop hv hc hf, execStreamStart_of_not_ready, fun c => execStreamStart_of_pending, fun hl ht hv => ?_,
    fun hl ht hv => ⟨streamStalls hl ht hv, fun hd => ?_⟩, fun tr => seqTrapLodges, fun tr k => execSeqTrap_waits, fun tr now => seqTrapRecord_fields _ tr now,
    fun hv ht hf hop => ⟨seqSaveWaits hv ht hf hop, seqSaveLodges hv ht hf hop⟩, fun k hv ht hf hop => ⟨execSeqSave_waits hop, seqSaveFrees hv ht hf hop⟩,
    fun k b c blk => seqRestores, fun hs he ht => ⟨fun n o c hh ho hk hp ha => ?_, fun hw => ?_⟩, streamStopped⟩
  · refine (execSeqStall_of_live hl ht).trans (congrArg _ (if_neg ?_))
    simp [hv]
  · refine (execSeqStall_of_live hl ht).trans (congrArg _ (if_neg ?_))
    rw [hd, Bool.and_false]
    exact Bool.false_ne_true
  · exact ⟨_, execStreamHandleResolve_of_ended hs he, streamResolves he ht hh ho hk hp ha⟩
  · exact (execStreamHandleResolve_of_ended hs he).trans (congrArg _ (streamResolve_waits hw))

end Sys2Proof.Machine
end

section
/-! SUPPORT of O57. What forming a group's table of entries keeps (R160, R161), and the frames of the steps of a core. -/

namespace Sys2Proof.Machine

/-! Tables of entries. -/

/-- A lane stands at a PC in a table. -/
def laneAt (es : List Entry) (pc : Pc) (l : Nat) : Prop := ∃ x ∈ es, x.pc = pc ∧ x.mask.getLsbD l = true

theorem laneAt_cons_of {x : Entry} {es : List Entry} {pc : Pc} {l : Nat} (h : laneAt es pc l) : laneAt (x :: es) pc l := by
  obtain ⟨y, hy, hyp⟩ := h
  exact ⟨y, List.mem_cons_of_mem _ hy, hyp⟩

theorem sameEntry_pc {a b : Entry} (h : sameEntry a b = true) : a.pc = b.pc := by
  simp only [sameEntry, Bool.and_eq_true, beq_iff_eq] at h
  obtain ⟨⟨hpc, -⟩, -⟩ := h
  exact hpc

theorem laneAt_insertEntry_self (e : Entry) (es : List Entry) {l : Nat} (h : e.mask.getLsbD l = true) : laneAt (insertEntry e es) e.pc l := by
  induction es with
  | nil => exact ⟨e, List.mem_singleton_self e, rfl, h⟩
  | cons x xs ih =>
    unfold insertEntry
    split
    next hs => exact ⟨_, List.mem_cons_self .., (sameEntry_pc hs).symm, by simp [mergeEntry, h]⟩
    · split
      · split
        · exact laneAt_cons_of ih
        · exact ⟨e, List.mem_cons_self .., rfl, h⟩
      · exact laneAt_cons_of ih

theorem laneAt_insertEntry_of (e : Entry) {es : List Entry} {pc : Pc} {l : Nat} (h : laneAt es pc l) : laneAt (insertEntry e es) pc l := by
  induction es with
  | nil =>
    obtain ⟨y, hy, -⟩ := h
    cases hy
  | cons x xs ih =>
    obtain ⟨y, hy, hpc, hm⟩ := h
    have htail (hys : y ∈ xs) : laneAt (x :: insertEntry e xs) pc l := laneAt_cons_of (ih ⟨y, hys, hpc, hm⟩)
    unfold insertEntry
    rcases List.mem_cons.1 hy with rfl | hys
    · split
      · exact ⟨_, List.mem_cons_self .., hpc, by simp [mergeEntry, hm]⟩
      · split
        · split
          · exact ⟨y, List.mem_cons_self .., hpc, hm⟩
          · exact ⟨y, List.mem_cons_of_mem _ (List.mem_cons_self ..), hpc, hm⟩
        · exact ⟨y, List.mem_cons_self .., hpc, hm⟩
    · split
      · exact ⟨y, List.mem_cons_of_mem _ hys, hpc, hm⟩
      · split
        · split
          · exact htail hys
          · exact ⟨y, List.mem_cons_of_mem _ (List.mem_cons_of_mem _ hys), hpc, hm⟩
        · exact htail hys

theorem laneAt_foldl_insertEntry (es : List Entry) {t : List Entry} {pc : Pc} {l : Nat} (h : laneAt t pc l ∨ laneAt es pc l) :
    laneAt (es.foldl (fun t e => insertEntry e t) t) pc l := by
  induction es generalizing t with
  | nil => exact h.resolve_right (fun ⟨_, hy, _⟩ => by cases hy)
  | cons e es ih =>
    refine ih ?_
    rcases h with h | ⟨y, hy, rfl, hm⟩
    · exact .inl (laneAt_insertEntry_of e h)
    · rcases List.mem_cons.1 hy with rfl | hys
      · exact .inl (laneAt_insertEntry_self y t hm)
      · exact .inr ⟨y, hys, rfl, hm⟩

/-- Every lane of the entries stands in the table that they form, at its PC. -/
theorem laneAt_formTable {es : List Entry} {e : Entry} {l : Nat} (he : e ∈ es) (h : e.mask.getLsbD l = true) : laneAt (formTable es) e.pc l := by
  have hmask : (e.mask != 0) = true := by
    simp only [bne_iff_ne, ne_eq]
    rintro h0
    simp [h0] at h
  exact laneAt_foldl_insertEntry _ (.inr ⟨e, List.mem_filter.2 ⟨he, hmask⟩, rfl, h⟩)

/-! Parked lanes. -/

theorem returnMask_of_parked_nil {g : Group} (j : BitVec 3) (h : g.parked = []) : returnMask j g = g := by simp [returnMask, h]

theorem returnAll_of_parked_nil {g : Group} (h : g.parked = []) : returnAll g = g :=
  List.foldlRecOn _ _ (motive := fun x => x = g) rfl (fun x hx j _ => by rw [hx, returnMask_of_parked_nil _ h])

/-! Groups as they are. -/

theorem FMap.mem_of_get? {α : Type} {m : FMap α} {k : Nat} {a : α} (h : m.get? k = some a) : (k, a) ∈ m := by
  induction m with
  | nil => cases h
  | cons c m ih =>
    obtain ⟨k', a'⟩ := c
    rw [FMap.get?_cons] at h
    split at h
    next hk =>
      cases h
      exact hk ▸ List.mem_cons_self ..
    · exact List.mem_cons_of_mem _ (ih h)

/-- Setting a key of a sorted map to what it has changes nothing. -/
theorem FMap.set_get? {α : Type} {m : FMap α} {k : Nat} {a : α} (hs : FMap.sorted m = true) (h : m.get? k = some a) : FMap.set m k a = m := by
  rw [FMap.sorted_iff] at hs
  induction m with
  | nil => cases h
  | cons c m ih =>
    obtain ⟨k', a'⟩ := c
    obtain ⟨hhead, htail⟩ := List.pairwise_cons.1 hs
    rw [FMap.get?_cons] at h
    unfold FMap.set
    split at h
    next hk =>
      cases h
      rw [if_pos hk, hk]
    next hk =>
      have hlt : k' < k := hhead _ (FMap.mem_of_get? h)
      rw [if_neg hk, if_neg (by omega), ih htail h]

theorem State.setGrp_of_grp {s : State} {gid : Nat} {g : Group} (hs : FMap.sorted s.groups = true) (h : s.grp gid = some g) : s.setGrp gid g = s := by
  rw [State.setGrp, FMap.set_get? hs h]

theorem State.modGrp_of_same {s : State} {gid : Nat} {g : Group} {f : Group → Group} (hs : FMap.sorted s.groups = true) (h : s.grp gid = some g) (hf : f g = g) :
    s.modGrp gid f = s := by
  rw [State.modGrp_eq _ _ _ _ h, hf, State.setGrp_of_grp hs h]

/-! Frames. -/

theorem State.holdCode_groups (s : State) (core ctx addr n : Nat) : (s.holdCode core ctx addr n).groups = s.groups := by
  refine List.foldlRecOn _ _ (motive := fun t : State => t.groups = s.groups) rfl (fun t ht a _ => ?_)
  split
  · split <;> exact ht
  · exact ht

end Sys2Proof.Machine
end

section
/-! SUPPORT of O57. The runs of a core: arbitration, resumption, yields, watchdogs (R162 to R172, R182 to R185, R234). -/

namespace Sys2Proof.Machine

variable {s : State} {core gid : Nat} {g : Group} {e : Entry} {ws : List IWord} {is : Words}

theorem State.settleQueues_of_flush (h : (s.slot core).flush = 0) : s.settleQueues core = s := by simp [State.settleQueues, h]

theorem State.startRuns_grp (hg : s.grp gid = some g) : ∃ g' r, (s.startRuns core gid g e ws is).grp gid = some g' ∧ g'.run = some r ∧ r.words = ws ∧
    r.idx = 0 ∧ r.mask = e.mask := by
  have hkeep (u : State) (hu : u.groups = s.groups) (f : Group → Group) : (u.modGrp gid f).grp gid = some (f g) :=
    State.grp_modGrp f ((congrArg (fun m : FMap Group => m.get? gid) hu).trans hg)
  unfold State.startRuns
  refine ⟨_, _, hkeep _ ?_ _, rfl, rfl, rfl, rfl⟩
  have hacq : (if (blockers g is).isEmpty then s.newNum.2 else s.newNum.2.acquire core g.ctx).groups = s.groups := by split <;> rfl
  split
  · exact (State.holdCode_groups ..).trans ((State.holdCode_groups ..).trans hacq)
  · exact (State.holdCode_groups ..).trans hacq

/-- A run that is ready and has no trap at its start is what its entry would do. -/
theorem State.planOf_of_ready (hm : g.mayRun = true) (hw : s.streamWaits g = false) (hc : candidate s.pcc g.pcs = some e)
    (hd : s.decodeRun core g.ctx g.nregs g.priv e.pc.toNat = .ok ws is) (hr : s.runReady core gid g e is = true) (ht : s.startTrap core g e is = none) :
    s.planOf core gid g = some (e, .start ws is) := by
  simp [State.planOf, State.plan, hm, hw, hc, hd, hr, ht]

theorem Group.runs_of_mayRun (h : g.mayRun = true) : g.run = none ∧ g.run2 = none := by
  simp only [Group.mayRun, Bool.and_eq_true, Option.isNone_iff_eq_none] at h
  obtain ⟨⟨⟨-, hrun⟩, hrun2⟩, -⟩ := h
  exact ⟨hrun, hrun2⟩

/-- The only group of a core starts its run where it is ready. -/
theorem State.arbitrate_of_ready (hb : s.portsBusy core = false) (hone : s.coreGroups core = [(gid, g)]) (hg : s.grp gid = some g) (hm : g.mayRun = true)
    (hp : g.parked = []) (hf : (s.slot core).flush = 0) (hs : FMap.sorted s.groups = true) (hplan : s.planOf core gid g = some (e, .start ws is)) :
    s.arbitrate core = s.startRuns core gid g e ws is := by
  obtain ⟨hrun, hrun2⟩ := Group.runs_of_mayRun hm
  have hreturn : s.modGrp gid returnAll = s := State.modGrp_of_same hs hg (returnAll_of_parked_nil hp)
  have hcontend : s.contenders core = [(gid, g, e, .start ws is)] := by simp [State.contenders, hone, hplan]
  have hresume : s.resumers core = [] := by simp [State.resumers, hone, hrun]
  simp [State.arbitrate, hb, State.settleQueues_of_flush hf, hone, hrun, hrun2, hreturn, hplan, hcontend, bestOf, hresume]

theorem runStarts (hb : s.portsBusy core = false) (hone : s.coreGroups core = [(gid, g)]) (hg : s.grp gid = some g) (hm : g.mayRun = true)
    (hp : g.parked = []) (hf : (s.slot core).flush = 0) (hs : FMap.sorted s.groups = true) (hw : s.streamWaits g = false) (hc : candidate s.pcc g.pcs = some e)
    (hd : s.decodeRun core g.ctx g.nregs g.priv e.pc.toNat = .ok ws is) (hr : s.runReady core gid g e is = true) (ht : s.startTrap core g e is = none) :
    ∃ t g' r, exec (.runArbitration core) s = .next t ∧ t.grp gid = some g' ∧ g'.run = some r ∧ r.words = ws ∧ r.idx = 0 ∧ r.mask = e.mask := by
  obtain ⟨g', r, hgrp⟩ := State.startRuns_grp (core := core) (e := e) (ws := ws) (is := is) hg
  exact ⟨_, g', r, congrArg Host.Outcome.next (State.arbitrate_of_ready hb hone hg hm hp hf hs (State.planOf_of_ready hm hw hc hd hr ht)), hgrp⟩

theorem State.grp_modRun {second : Bool} (f : Run → Run) (hg : s.grp gid = some g) :
    (s.modRun gid second f).grp gid = some (g.setRun second ((g.runOn second).map f)) := State.grp_modGrp _ hg

theorem runResumes {r : Run} {op : Nat} (hg : s.grp gid = some g) (hr : g.run = some r) (hw : r.wait = .release op) (hok : s.resumeOk gid g r = true)
    (hb : s.portsBusy (s.grpCore g) = false) (hres : ∀ p ∈ s.resumers (s.grpCore g), p.2.prio.toNat ≤ g.prio.toNat)
    (hcon : ∀ p ∈ s.contenders (s.grpCore g), p.2.1.prio.toNat ≤ g.prio.toNat) :
    ∃ t g' r', exec (.runResume gid) s = .next t ∧ t.grp gid = some g' ∧ g'.run = some r' ∧ r'.wait = .none ∧ r'.idx = r.idx + 1 := by
  have hnores : (s.resumers (s.grpCore g)).any (fun p => decide (g.prio.toNat < p.2.prio.toNat)) = false :=
    List.any_eq_false.2 (fun p hp => by simpa using hres p hp)
  have hnocon : (s.contenders (s.grpCore g)).any (fun p => decide (g.prio.toNat < p.2.1.prio.toNat)) = false :=
    List.any_eq_false.2 (fun p hp => by simpa using hcon p hp)
  have hstep : execRunResume gid s = .next (s.modRun gid false (fun r => bumpRun 1 { r with wait := .none })) := by
    simp only [execRunResume, hg, hr, hnores, hnocon, hok, hb, hw, State.resumeRun]
    rfl
  refine ⟨_, _, bumpRun 1 { r with wait := .none }, hstep, State.grp_modRun _ hg, ?_, rfl, rfl⟩
  simp only [Group.setRun, Group.runOn, hr]
  rfl

theorem modify_eq_set_of_getElem? {α : Type} {xs : List α} {i : Nat} {a b : α} {f : α → α} (h : xs[i]? = some a) (hf : f a = b) :
    xs.modify i f = xs.set i b := by
  rw [List.modify_eq_set_getElem?, h, ← hf]
  rfl

theorem yieldExpires {idx : Nat} (hg : s.grp gid = some g) (hr : g.run = none) (hr2 : g.run2 = none) (he : g.pcs[idx]? = some e)
    (hy : e.yielded s.pcc = false) : exec (.yieldExpire gid idx) s = .next (s.setGrp gid { g with pcs := g.pcs.set idx { e with yield := none } }) := by
  have hpcs : g.pcs.modify idx (fun e => if e.yielded s.pcc then e else { e with yield := none }) = g.pcs.set idx { e with yield := none } :=
    modify_eq_set_of_getElem? he (by simp [hy])
  simp only [exec, execYieldExpire, hg, hr, hr2, Option.isSome_none, Bool.or_self, Bool.false_eq_true, if_false, hpcs]

theorem barrierReleases {bar : Nat} {b : Bar} (hb : s.bars.get? bar = some b) (hc : b.complete ≠ []) :
    ∃ t, exec (.barrierRelease bar) s = .next t ∧ t.bars.get? bar = some { b with complete := [] } ∧ t.mems = s.mems := by
  have hstep : ∃ t, execBarrierRelease bar s = .next t ∧ t.bars.get? bar = some { b with complete := [] } := by
    simp only [execBarrierRelease, hb, List.isEmpty_iff, hc, if_false]
    exact ⟨_, rfl, FMap.get?_set_self ..⟩
  obtain ⟨t, ht, hbar⟩ := hstep
  exact ⟨t, ht, hbar, execBarrierRelease_mems ht⟩

theorem stallTraps {c k : Nat} (hg : s.grp gid = some g) (hp : g.place = .resident c k) (hr : g.run = none) (hr2 : g.run2 = none) (ht : g.trap = none)
    (hst : g.stopped = false) (hpcs : g.pcs ≠ []) (hd : s.due (g.stallFrom + g.stallwd.setWidth 64) = true) :
    ∃ t g' tr, exec (.stall gid) s = .next t ∧ t.grp gid = some g' ∧ g'.trap = some tr ∧ tr.cause = .stall ∧ g'.regs = g.regs := by
  have hstep : execStall gid s = .next ((s.setGrp gid { g with run := none, trap := some { cause := .stall, deferred := false, ofs := 0, wpc := 0, mask := 0, lanes := 0, detail0 := 0, detail1 := 0, detail2 := 0, req := none } }).dropWaiter gid) := by
    simp [execStall, hg, hp, hr, hr2, ht, hst, hpcs, hd]
  exact ⟨_, _, _, hstep, State.grp_setGrp_self .., rfl, rfl, rfl⟩

/-! Waits for log space. -/

theorem State.starvedHosts_of_none (h : ∀ p ∈ s.store.reqs, p.2.log < 320) : s.starvedHosts = s := by
  have hno : s.store.reqs.filter (fun p => decide (320 ≤ p.2.log) && s.reqDue p.2) = [] :=
    List.filter_eq_nil_iff.2 (fun p hp => by simp [Nat.not_le.2 (h p hp)])
  rw [State.starvedHosts, hno]
  rfl

theorem State.starvedAops_of_none (h : ∀ p ∈ s.aops, p.2.gid ≠ some gid) : s.starvedAops gid = s := by
  have hno : s.aops.filter (fun p => p.2.gid == some gid && p.2.starved.any s.due) = [] := List.filter_eq_nil_iff.2 (fun p hp => by simp [h p hp])
  rw [State.starvedAops, hno]
  rfl

theorem State.starvedReq_of_none (hreq : ∀ p ∈ s.store.reqs, p.2.gid ≠ some gid) (haop : ∀ p ∈ s.aops, p.2.gid ≠ some gid) : s.starvedReq gid = s := by
  have hmine (q : Nat) : s.aops.any (fun o => o.2.gid == some gid && (o.2.stage == .publishing q || o.2.stage == .prePub q || o.2.stage == .flagging q)) = false :=
    List.any_eq_false.2 (fun p hp => by simp [haop p hp])
  refine (congrArg (fun l : List (Nat × Req) => l.foldl (fun (s : State) p => (s.withdraw p.1).failPubr p.1) s) (List.filter_eq_nil_iff.2 (fun p hp => ?_))).trans rfl
  simp [hreq p hp, hmine]

theorem logstallExpires {r : Run} {till : BitVec 64} (hg : s.grp gid = some g) (hr : g.run = some r) (hw : r.wait = .logSpace till)
    (hreq : ∀ p ∈ s.store.reqs, p.2.log < 320 ∧ p.2.gid ≠ some gid) (haop : ∀ p ∈ s.aops, p.2.gid ≠ some gid) (hd : s.due till = true) :
    ∃ t g' tr, exec (.logstallExpire gid) s = .next t ∧ t.grp gid = some g' ∧ g'.trap = some tr ∧ tr.cause = .logfull := by
  have htrap : s.starvedRun gid g r = s.trapRun gid r .logfull (s.logLines g r).2.1 (BitVec.ofNat 64 (s.logLines g r).2.2) 0 0 := by
    simp only [State.starvedRun, hw, hd, if_true]
  have hstep : execLogstallExpire gid s = .next (s.trapRun gid r .logfull (s.logLines g r).2.1 (BitVec.ofNat 64 (s.logLines g r).2.2) 0 0) := by
    simp only [execLogstallExpire, State.starvedHosts_of_none (fun p hp => (hreq p hp).1), State.starvedAops_of_none haop, hg, hr, htrap]
    rw [State.starvedReq_of_none (s := s.trapRun ..) (fun p hp => (hreq p hp).2) haop]
  exact ⟨_, _, _, hstep, State.grp_modGrp _ hg, rfl, rfl⟩

end Sys2Proof.Machine
end

section
/-! SUPPORT of O57. The accesses, traps, saves, restores and ends of groups (R24, R104, R113 to R129, R177, R187 to R191, R325, R367, R394). -/

namespace Sys2Proof.Machine

variable {s : State} {gid op : Nat} {g : Group} {o : MemOp}

/-! Accesses. -/

theorem wordLoadReturns (ho : s.ops.get? op = some o) (hg : s.grp o.gid = some g) (hs : o.space ≠ .gl) (hr : o.order = .rlx) (hq : o.queued = false)
    (hk : o.kind = .ld false) (hw : o.width = 4)
    (hp : ∀ x ∈ o.parts, x.served = true ∧ x.put = false ∧ x.lane < 64 ∧ x.servedAt.toNat + padFixed o.space ≤ s.now) (hnd : (o.parts.map (·.lane)).Nodup) :
    ∃ t g', exec (.loadReturn op) s = .next t ∧ t.grp o.gid = some g' ∧ g'.loads = g.loads - 1 ∧
      ∀ x ∈ o.parts, g'.regs.vreg o.dest x.lane = x.val.setWidth 32 := by
  have hnarrow : o.kind ≠ .lds := by simp [hk]
  obtain ⟨t, g', hstep, -, hgrp, hloads, -, -, -, -, hwide, -⟩ := scratchpadReturn s op o g ho hg hs hr hq
    (fun x hx => let ⟨hserved, hput, _, hdue⟩ := hp x hx; ⟨hserved, hput, hdue⟩) hnd (fun x hx => let ⟨_, _, hlane, _⟩ := hp x hx; .inl hlane)
    (.inl ⟨⟨false, hk⟩, by simp [hw]⟩)
  refine ⟨t, g', hstep, hgrp, hloads, fun x hx => BitVec.eq_of_toNat_eq ?_⟩
  have hval := hwide hnarrow (by omega) x hx 0 (by omega)
  simpa using hval

theorem sendLeaves {x : Part} {t : BitVec 64} (ho : s.ops.get? op = some o) (hg : s.grp o.gid = some g) (hk : o.kind = .send t) (hp : o.parts = [x])
    (hx : x.served = false) (hq : o.queued = false) (hb : t.getLsbD 15 = false) (hm : t.extractLsb' 0 12 ≠ Config.moduleIndex) :
    ∃ u m, exec (.sendArrive op x.lane) s = .next u ∧ u.outbox.get? s.fresh = some m ∧ m.peer = t.extractLsb' 0 12 ∧ u.mems = s.mems := by
  have hfind : o.parts.find? (fun y => y.lane == x.lane) = some x := by simp [hp]
  have hlast : o.parts.any (fun y => decide (x.lane < y.lane) && y.addr == x.addr) = false := by simp [hp]
  have hmod : (t.getLsbD 15 || t.extractLsb' 0 12 == Config.moduleIndex) = false := by rw [hb, beq_eq_false_iff_ne.2 hm, Bool.or_self]
  have hstep : execSendArrive op x.lane s = .next ((s.modOp op (fun o => { o with
      parts := o.parts.map (fun y => if y.lane == x.lane then { y with served := true, asked := true } else y) })).sendMsg (t.extractLsb' 0 12) 0 op
        (.send op x.lane o.space (t.extractLsb' 21 3).toNat (t.extractLsb' 16 5).toNat x.addr o.width (BitVec.ofNat 128 x.data.toNat) g.launch)) := by
    simp only [execSendArrive, ho, hg, hk, hfind, State.leaveQueue_of_left ho hq, hx, hlast, hmod, Option.map_some, Option.getD_some, hq, Bool.or_self,
      Bool.false_eq_true, if_false]
  exact ⟨_, _, hstep, FMap.get?_set_self .., rfl, rfl⟩

theorem tlockLands (ho : s.ops.get? op = some o) (hk : o.kind = .tlock) (hg : s.grp o.gid = some g)
    (hl : ∀ p ∈ o.parts, ∀ lf, (s.cl (s.grpCluster g)).lib.get? (leafKey g.ctx p.addr) = some lf → lf.landed = true) :
    exec (.tlockFillLand op) s = .next ({ s with ops := s.ops.erase op }.setGrp o.gid { g with loads := g.loads - 1 }) := by
  have hall : o.parts.all (fun p => match (s.cl (s.grpCluster g)).lib.get? (leafKey g.ctx p.addr) with
      | some lf => lf.landed
      | none => true) = true := by
    refine List.all_eq_true.2 (fun p hp => ?_)
    split
    next lf hlf => exact hl p hp lf hlf
    · rfl
  have hstep : execTlockFillLand op s = .next (({ s with ops := s.ops.erase op } : State).modGrp o.gid (fun g => { g with loads := g.loads - 1 })) := by
    simp only [execTlockFillLand, ho, hk, hg]
    exact if_pos hall
  exact hstep.trans (congrArg Host.Outcome.next (State.modGrp_eq { s with ops := s.ops.erase op } o.gid g _ hg))

/-! Traps. -/

theorem nextDeferred_of_trap {t : Trap} (h : g.trap = some t) : nextDeferred g = g := by simp [nextDeferred, h]

theorem trapEntry_of_mask {now : BitVec 64} {t : Trap} (h : t.mask ≠ 0) : trapEntry now g t = t := if_pos (bne_iff_ne.2 h)

/-- The record of a trap outside the handler is lodged. -/
theorem trapLodges {t : Trap} (hg : s.grp gid = some g) (hr : g.run = none) (hr2 : g.run2 = none) (hst : g.stopped = false) (ht : g.trap = some t)
    (hreq : t.req = none) (hd : s.drained gid g = true) (hp : g.parked = []) (hm : t.mask ≠ 0) (hh : g.handler = false) :
    ∃ u g' tr, exec (.trapTake gid) s = .next u ∧ u.grp gid = some g' ∧ g'.trap = some tr ∧ tr.req = some s.fresh ∧ tr.cause = t.cause ∧
      lodged u s.fresh (s.grpCluster g) g.ctx g.trec.toNat (trapRecord g t s.pcc) := by
  have hout : s.trapRecordOut gid g t = ((s.lodgeBytes (s.grpCluster g) g.ctx none g.trec.toNat (trapRecord g t s.pcc)).2).setGrp gid
      { g with trap := some { t with req := some s.fresh, stamp := s.pcc } } := by
    simp only [State.trapRecordOut, returnAll_of_parked_nil hp, trapEntry_of_mask hm, hh]
    rfl
  have hstep : execTrapTake gid s = .next (s.trapRecordOut gid g t) := by
    simp [execTrapTake, hg, hr, hr2, hst, nextDeferred_of_trap ht, ht, hreq, hd]
  rw [hout] at hstep
  exact ⟨_, _, _, hstep, State.grp_setGrp_self .., rfl, rfl, rfl, State.lodgeBytes_lodged s _ _ none _ _⟩

/-- Once the record is published, the trapping lanes stand at the handler. -/
theorem trapEnters {t : Trap} {q : Nat} {h : Pc} (hg : s.grp gid = some g) (hr : g.run = none) (hr2 : g.run2 = none) (hst : g.stopped = false)
    (ht : g.trap = some t) (hreq : t.req = some q) (hq : s.reqSt q = .complete) (hh : s.handlerPc g = some h) :
    ∃ u g', exec (.trapTake gid) s = .next u ∧ u.grp gid = some g' ∧ g'.handler = true ∧ g'.trap = none ∧ g'.tpc = t.wpc ∧ g'.tlmask = t.lanes ∧
      ∀ l < 64, t.mask.getLsbD l = true → ∃ e ∈ g'.pcs, e.mask.getLsbD l = true ∧ e.pc = h := by
  have hstep : execTrapTake gid s = .next (s.setGrp gid (enterHandler (setTrapCsrs g t) t h s.pcc)) := by
    simp [execTrapTake, hg, hr, hr2, hst, nextDeferred_of_trap ht, ht, hreq, hq, hh]
  refine ⟨_, _, hstep, State.grp_setGrp_self .., rfl, rfl, rfl, rfl, fun l _ hl => ?_⟩
  obtain ⟨x, hx, hpc, hmask⟩ := laneAt_formTable
    (e := { pc := h, mask := t.mask, age := 0, yield := none, held := [], noAge := false, frozen := false, fresh := false })
    (es := _ :: (dropLanes t.mask g.pcs).map (fun e => { e with frozen := true })) (List.mem_cons_self ..) hl
  exact ⟨x, hx, hmask, hpc⟩

theorem lanesReturnTogether {j : BitVec 3} {p : Parked} (hg : s.grp gid = some g) (hr : g.run = none) (hr2 : g.run2 = none) (hp : g.parked = [p]) (hj : p.j = j)
    (hl : p.lane < 64) (hb : (g.regs.jreg j.toNat).getLsbD p.lane = true) :
    ∃ t g', exec (.lanesReturn gid j) s = .next t ∧ t.grp gid = some g' ∧ g'.parked = [] ∧ ∃ x ∈ g'.pcs, x.pc = p.pc ∧ x.mask.getLsbD p.lane = true := by
  have hstep : execLanesReturn gid j s = .next (s.setGrp gid (returnMask j g)) := by simp [execLanesReturn, hg, hr, hr2]
  have hlane : (laneBit p.lane).getLsbD p.lane = true := by simp [laneBit, hl]
  refine ⟨_, _, hstep, State.grp_setGrp_self .., ?_⟩
  simp only [returnMask, hp, List.filter_cons, List.filter_nil, hj, beq_self_eq_true, if_true, List.isEmpty_cons, Bool.not_false, List.all_cons, List.all_nil, hb,
    Bool.and_self, bne_self_eq_false, Bool.false_eq_true, if_false, List.map_cons, List.map_nil]
  exact ⟨trivial, laneAt_formTable (List.mem_append_right _ (List.mem_singleton_self _)) hlane⟩

/-! Saves, restores, ends. -/

theorem preemptAsked {b : Block} {c k : Nat} (hg : s.grp gid = some g) (hb : s.blocks.get? g.blockKey = some b) (hp : g.place = .resident c k)
    (ha : b.ask = true) : exec (.preemptRequest gid) s = .next (s.setGrp gid { g with saveReq := true }) := by
  simp [exec, execPreemptRequest, hg, hb, hp, ha]

theorem groupSaves {c k : Nat} (hg : s.grp gid = some g) (hp : g.place = .resident c k) (hv : g.saveReq = true) (hr : g.run = none) (hr2 : g.run2 = none)
    (ht : g.trap = none) (hdef : g.deferred = []) (hst : g.stopped = false) (hpark : g.parked = []) (hd : s.drained gid g = true) :
    ∃ t g', exec (.groupSave gid) s = .next t ∧ t.grp gid = some g' ∧ g'.place = .saving c k ∧ g'.regs = g.regs ∧ g'.pcs = g.pcs := by
  have hstep : execGroupSave gid s = .next (((s.lodgeBytes (s.grpCluster g) g.ctx none (g.trec.toNat + 0x80) (saveImage s g)).2).setGrp gid
      { g with place := .saving c k, saveOp := some s.fresh, stallFrom := s.pcc - g.stallFrom }) := by
    simp only [execGroupSave, hg, hp, hv, hr, hr2, ht, hdef, hst, returnAll_of_parked_nil hpark, hd]
    rfl
  exact ⟨_, _, hstep, State.grp_setGrp_self .., rfl, rfl, rfl⟩

theorem groupRestores {b : Block} {core k : Nat} {c : Ctx} (hg : s.grp gid = some g) (hb : s.blocks.get? g.blockKey = some b) (hp : g.place = .saved)
    (hk : s.freeSlot core = some k) (hc : s.ctx? g.ctx = some c) (hq : c.quiet = .running) (hm : g.moveTo = none) (hcl : b.cluster = coreCluster core)
    (hheld : b.held = false) (hask : b.ask = false) (hres : b.resident = true) (hregs : s.regsUsed core + g.nregs ≤ 1024) (hcore : restoreCore s g core = true)
    (hsave : (s.cl b.cluster).saves.get? g.blockKey = none) :
    ∃ t g', exec (.groupRestore gid core) s = .next t ∧ t.grp gid = some g' ∧ g'.place = .resident core k ∧ g'.regs = g.regs := by
  have hstep : execGroupRestore gid core s = .next (((s.setGrp gid { g with
      place := .resident core k, pcs := formTable (g.pcs.map (fun e => { e with yield := none })), served := 0, joined := s.now, lastCore := core, moveTo := none
      stallFrom := s.pcc - g.stallFrom, movedAt := g.movedAt }).modBlock g.blockKey (fun b => { b with resident := true })).acquire core g.ctx) := by
    rw [hcl] at hsave
    simp [execGroupRestore, hg, hb, hp, hk, hc, hq, hm, hcl, hheld, hask, hres, hregs, hcore, hsave]
  exact ⟨_, _, hstep, State.grp_setGrp_self .., rfl, rfl⟩

theorem State.endBlock_groups (s : State) (bk : Nat) : (s.endBlock bk).groups = s.groups := congrArg Prod.fst (State.endBlock_besideBlocks s bk)

theorem groupEnds (hg : s.grp gid = some g) (hr : g.run = none) (hr2 : g.run2 = none) (ht : g.trap = none) (hv : g.saveOp = none) (hpcs : g.pcs = [])
    (hp : g.parked = []) (hdef : g.deferred = []) (hpkt : ∀ p ∈ s.pkts, p.2.gid ≠ gid) (hn : g.loads + g.stores + g.copies + g.tiles = 0) :
    ∃ t, exec (.groupEnd gid) s = .next t ∧ t.grp gid = none ∧ t.mems = s.mems := by
  have hno : s.pkts.any (fun p => p.2.gid == gid) = false := List.any_eq_false.2 (fun p h => by simpa using hpkt p h)
  have hzero : g.loads = 0 ∧ g.stores = 0 ∧ g.copies = 0 ∧ g.tiles = 0 := by omega
  have hstep : execGroupEnd gid s = .next (({ s with groups := s.groups.erase gid } : State).endBlock g.blockKey) := by
    simp only [execGroupEnd, hg, hr, hr2, ht, hv, hpcs, hp, hdef, hzero, hno]
    rfl
  refine ⟨_, hstep, ?_, execGroupEnd_mems hstep⟩
  rw [State.grp, State.endBlock_groups]
  exact (FMap.get?_erase ..).trans (if_pos rfl)

/-- Settles O57: each step by its own lemma. -/
theorem groupStepsComplete : Obligations.GroupStepsComplete := by
  refine ⟨fun s core gid g e ws is => runStarts, fun s gid g r op => runResumes, fun s op o g => wordLoadReturns, fun s op o g x ho hg hk hs hr hp hq hx hd => ?_,
    fun s op o g x fn sgn ret ho hg hk hr hp hw hq hs hf he => ?_, fun s op o g x t => sendLeaves, fun s bar b => barrierReleases, fun s gid g idx e => yieldExpires,
    fun s gid g c k => stallTraps, fun s gid g t => trapLodges, fun s gid g t q h => trapEnters, fun s gid g b c k hg hb hp => ⟨preemptAsked hg hb hp, groupSaves hg hp⟩,
    fun s gid g b core k c => groupRestores, fun s gid g => groupEnds, fun s gid g r till => logstallExpires, fun s op o g => tlockLands,
    fun s gid g j p => lanesReturnTogether⟩
  · obtain ⟨-, -, hends⟩ := scratchpadStore s op o g x ho hg hk hs hr hp
    obtain ⟨t, g', hstep, -, hops, hgrp, hstores, -⟩ := hends hq hx hd
    exact ⟨t, g', hstep, hops, hgrp, hstores⟩
  · obtain ⟨hleaves, -⟩ := scratchpadAtomic s op o g x fn sgn ret ho hg hk hr hp hw
    obtain ⟨t, hstep, hops, -, hmems, -⟩ := hleaves hq hs hf he
    exact ⟨t, _, hstep, hops, rfl, hmems⟩

end Sys2Proof.Machine
end

section
/-! SUPPORT of O60. The controllers and the command processor: segments, contexts, queues, launches, blocks (R349 to R359, R382 to R400). -/

namespace Sys2Proof.Machine

variable {s : State}

/-! Segments. -/

theorem segmentCleans {stack seg : Nat} (ht : (s.stack stack).target = some seg) (hr : s.segResolved seg = true)
    (hf : fragBatch [] 4096 (s.liveFrags seg) = []) (hroot : s.rootsIn seg = []) :
    ∃ t, exec (.cleanSegment stack seg) s = .next t ∧ t.store.segs.get? seg = none ∧ (t.stack stack).target = none := by
  have hstep : execCleanSegment stack seg s = .next ((s.freeSeg stack seg).modStack stack (fun k => { k with target := none })) := by
    simp [execCleanSegment, ht, hr, hf, hroot]
  refine ⟨_, hstep, (FMap.get?_erase ..).trans (if_pos rfl), ?_⟩
  exact congrArg Stack.target (FMap.getD_put_self (s.freeSeg stack seg).stks Stack.reset stack _)

/-- A segment is shipped to every peer it has still to go to. -/
def State.shipAll (s : State) (seg : Nat) (g : Seg) : State :=
  s.ctxs.foldl (fun (s : State) c => if shipsFor s.store.recs g.logid seg c.1 then
    (c.2.peers.filter (fun m => !decide (shipKey c.1 m ∈ g.shipped) && s.shipsNext g c.1 m)).foldl (fun (s : State) m => s.shipTo seg c.1 m g) s
    else s) s

theorem segmentShips {seg : Nat} {g : Seg} (hg : s.store.segs.get? seg = some g) (hs : g.isSealed = true) (hr : s.segResolved seg = true) :
    ∃ t, exec (.segmentShip seg) s = .next t ∧ t.store.recs = s.store.recs := by
  have hstep : execSegmentShip seg s = .next (s.shipAll seg g) := by
    simp only [execSegmentShip, hg, hs, hr, Bool.and_self, if_true]
    rfl
  refine ⟨_, hstep, ?_⟩
  refine List.foldlRecOn _ _ (motive := fun t : State => t.store.recs = s.store.recs) rfl (fun t ht c _ => ?_)
  split
  · exact List.foldlRecOn _ _ (motive := fun u : State => u.store.recs = s.store.recs) ht (fun u hu m _ => hu)
  · exact ht

theorem segmentRefused {msg seg c : Nat} {m : QfMsg} {rs : List (Nat × Rec)} {cm : List Nat} {digest : BitVec 512} {more : List (Nat × Nat)} {x : Ctx}
    (hm : s.inbox.get? msg = some m) (hb : m.body = .segment seg c rs cm digest more) (hx : s.ctx? c = some x) (hr : x.replStopped = false)
    (hd : Config.sha512 (recArea (rs.map (fun p => (p.1, p.2.repack)))) ≠ digest) :
    ∃ t, exec (.replicaSegmentReceive msg) s = .next t ∧ t.inbox = s.inbox.erase msg ∧ t.ctx? c = some { x with replStopped := true } := by
  have hstep : execReplicaSegmentReceive msg s = .next (s.refuseSeg msg seg c) := by
    simp only [execReplicaSegmentReceive, hm, hb, hx, hr, bne_iff_ne.2 hd, if_true]
    rfl
  exact ⟨_, hstep, rfl, State.ctx?_modCtx _ hx⟩

/-! Contexts. -/

theorem contextQuiet {c by_ : Nat} {flag : BitVec 64} {x : Ctx} (hx : s.ctx? c = some x) (hq : x.quiet = .quiescing by_ flag) (hr : s.residentOf c = false)
    (hl : s.quietLogs c = []) (ho : s.openOf c = false) (hp : x.anyPending = false) :
    ∃ t, exec (.quiesceComplete c) s = .next t ∧ t.ctx? c = some { x with quiet := .quiesced } := by
  have hstep : execQuiesceComplete c s = .next (if flag = 0 then s.modCtx c (fun x => { x with quiet := .quiesced })
      else ((s.modCtx c (fun x => { x with quiet := .quiesced })).lodgeBytes 0 by_ none flag.toNat (le 8 1)).2) := by
    simp [execQuiesceComplete, hx, hq, hr, hl, ho, hp]
  refine ⟨_, hstep, ?_⟩
  split <;> exact State.ctx?_modCtx _ hx

/-! Queues. -/

@[simp] theorem State.cq_modCq_self (s : State) (q : Nat) (f : CQueue → CQueue) : (s.modCq q f).cq q = f (s.cq q) := FMap.getD_put_self ..

theorem queueKicks (q : BitVec 6) (tail : BitVec 32) :
    ∃ t, exec (.queueKick .prog q tail) s = .next t ∧ (t.cq q.toNat).tail = tail ∧ (t.cq q.toNat).head = (s.cq q.toNat).head := by
  have hq := s.cq_modCq_self q.toNat (fun k => { k with tail := tail })
  exact ⟨_, rfl, congrArg CQueue.tail hq, (congrArg CQueue.head hq :)⟩

theorem queueResets (q : BitVec 6) : ∃ t, exec (.queueReset .prog q) s = .next t ∧ (t.cq q.toNat).head = 0 ∧ (t.cq q.toNat).tail = 0 ∧
    (t.cq q.toNat).st = 0 ∧ (t.cq q.toNat).en = (s.cq q.toNat).en := by
  have hq := s.cq_modCq_self q.toNat CQueue.rst
  exact ⟨_, rfl, congrArg CQueue.head hq, congrArg CQueue.tail hq, congrArg CQueue.st hq, (congrArg CQueue.en hq :)⟩

/-- The packet that stands in a queue's slot in `.gl` memory. -/
def State.slotPacket (s : State) (q : Nat) : BitVec 512 :=
  BitVec.ofNat 512 (natOfBytes (s.glBytes (s.cq q).ctx.toNat (s.cq q).slotAddr 64))

theorem State.readSlot_of_gl {q : Nat} (h : (s.cq q).loc = true) : s.readSlot q = (s.slotPacket q, s) := by
  simp only [State.readSlot, h, if_true]
  rfl

theorem State.cq_acceptPacket (s : State) (q : Nat) (b : BitVec 512) :
    (s.acceptPacket q b).cq q = { s.cq q with cur := some b, head := (s.cq q).head + 1, wait := .none } := State.cq_modCq_self ..

theorem State.glBytes_of_store {t : State} (h : t.store = s.store) (c a n : Nat) : t.glBytes c a n = s.glBytes c a n := by
  simp only [State.glBytes, State.homeLine, State.homeEntry, h]

/-- With no signal to be sent and no barrier, a queue stands as it is. -/
theorem State.queueStep_of_idle {q : Nat} (hs : (s.cq q).sigs = []) (hw : (s.cq q).wait = .none) :
    s.queueStep q = { s with cqs := s.cqs.put CQueue.reset q (s.cq q) } := by
  have hk : (fun k : CQueue => { k with
      sigs := [], wait := if k.wait = .barrier ∧ !s.queueLaunches q s.fresh then .none else k.wait }) (s.cq q) = s.cq q := by
    simp only [hw]
    rw [if_neg (by simp), ← hs, ← hw]
  simp only [State.queueStep, hs, State.runSignals]
  exact congrArg (fun k => { s with cqs := s.cqs.put CQueue.reset q k }) hk

theorem packetIsRead {q : BitVec 6} (hloc : (s.cq q.toNat).loc = true) (hseq : packetSeq (s.slotPacket q.toNat) = (s.cq q.toNat).head)
    (hslot : s.slotWaits q.toNat = false) (hsig : (s.cq q.toNat).sigs = []) (hboot : s.sys.bootSt = 2) (hen : (s.cq q.toNat).en = true)
    (hst : (s.cq q.toNat).st ≠ 2) (hcur : (s.cq q.toNat).cur = none) (hw : (s.cq q.toNat).wait = .none) (hne : (s.cq q.toNat).head ≠ (s.cq q.toNat).tail)
    (hc : s.ctx? (s.cq q.toNat).ctx.toNat ≠ none) (hlen : ((s.cq q.toNat).tail - (s.cq q.toNat).head).toNat ≤ 2 ^ (s.cq q.toNat).log2n.toNat) :
    ∃ t, exec (.packetRead q) s = .next t ∧
      t.cq q.toNat = { s.cq q.toNat with cur := some (s.slotPacket q.toNat), head := (s.cq q.toNat).head + 1, wait := .none } := by
  have hidle := State.queueStep_of_idle hsig hw
  have hcq : (s.queueStep q.toNat).cq q.toNat = s.cq q.toNat := by
    rw [hidle]
    exact FMap.getD_put_self ..
  have hpacket : (s.queueStep q.toNat).slotPacket q.toNat = s.slotPacket q.toNat := by
    simp only [State.slotPacket, hcq]
    rw [State.glBytes_of_store (s := s) (by rw [hidle])]
  have hslot' : (s.queueStep q.toNat).slotWaits q.toNat = false := by
    rw [State.slotWaits, hcq, hidle]
    exact hslot
  have hread : (s.queueStep q.toNat).readSlot q.toNat = (s.slotPacket q.toNat, s.queueStep q.toNat) := by
    rw [State.readSlot_of_gl (by rw [hcq]; exact hloc), hpacket]
  have hboot' : (s.queueStep q.toNat).sys.bootSt = 2 := by
    rw [hidle]
    exact hboot
  have hctx' : ((s.queueStep q.toNat).ctx? (s.cq q.toNat).ctx.toNat).isSome = true := by
    rw [hidle]
    exact Option.isSome_iff_ne_none.2 hc
  have hstep : execPacketRead q s = .next ((s.queueStep q.toNat).acceptPacket q.toNat (s.slotPacket q.toNat)) := by
    simp only [execPacketRead]
    rw [hcq, if_pos ⟨hboot', hen, hst, hcur, hw, hne, hctx', hslot'⟩, if_neg (by omega), hread]
    exact if_pos hseq
  exact ⟨_, hstep, by rw [State.cq_acceptPacket, hcq]⟩

theorem packetIsReread {q : BitVec 6} {j : Nat} {at_ : BitVec 64} (hloc : (s.cq q.toNat).loc = true)
    (hseq : packetSeq (s.slotPacket q.toNat) = (s.cq q.toNat).head) (hslot : s.slotWaits q.toNat = false) (hw : (s.cq q.toNat).wait = .torn j at_)
    (hd : s.due (at_ + BitVec.ofNat 64 (64 * 2 ^ j)) = true) : ∃ t, exec (.packetReread q) s = .next t ∧
      t.cq q.toNat = { s.cq q.toNat with cur := some (s.slotPacket q.toNat), head := (s.cq q.toNat).head + 1, wait := .none } := by
  have hstep : execPacketReread q s = .next (s.acceptPacket q.toNat (s.slotPacket q.toNat)) := by
    simp only [execPacketReread, hw, hd, hslot, Bool.not_false, Bool.and_self, if_true, State.readSlot_of_gl hloc, hseq]
  exact ⟨_, hstep, State.cq_acceptPacket ..⟩

/-! Launches and blocks. -/

theorem State.fits_parts {l : Launch} {cl : Nat} (h : s.fits l cl = true) : ∃ as_, s.assign l cl = some as_ := by
  simp only [State.fits, Bool.and_eq_true] at h
  obtain ⟨⟨-, has⟩, -⟩ := h
  exact Option.isSome_iff_exists.1 has

theorem State.mapSave_blocks (s : State) (ctx addr n die : Nat) : (s.mapSave ctx addr n die).blocks = s.blocks := by
  refine List.foldlRecOn _ _ (motive := fun t : State => t.blocks = s.blocks) rfl (fun t ht p _ => ?_)
  dsimp only
  split <;> exact ht

theorem State.saveArea_blocks (s : State) (ctx n die : Nat) : (s.saveArea ctx n die).2.blocks = s.blocks := by
  unfold State.saveArea
  split
  · rfl
  · exact State.mapSave_blocks ..

theorem State.invRange_blocks (s : State) (core ctx base len : Nat) : (s.invRange core ctx base len).blocks = s.blocks := by
  simp only [State.invRange]
  split
  · rfl
  · split <;> rfl

theorem State.placeGroup_blocks (s : State) (id blk : Nat) (l : Launch) (priv : Bool) (i : Nat) (at_ : Nat × Nat) :
    (s.placeGroup id blk l priv i at_).blocks = s.blocks := by
  refine List.foldlRecOn _ _ (motive := fun t : State => t.blocks = s.blocks) (State.saveArea_blocks ..) (fun t ht e _ => ?_)
  split
  · split
    · exact (State.invRange_blocks ..).trans ht
    · exact ht
  · exact ht

theorem State.placeStream_blocks (s : State) (cl id blk : Nat) (l : Launch) : (s.placeStream cl id blk l).blocks = s.blocks := by
  unfold State.placeStream
  split
  · rfl
  · exact State.saveArea_blocks ..

theorem State.placeBlock_blocks (s : State) (id : Nat) (l : Launch) (cl : Nat) (at_ : List (Nat × Nat)) : (s.placeBlock id l cl at_).blocks =
    s.blocks.set (blockKey id l.nextBlk) { launch := id, index := l.nextBlk, cluster := cl, resident := true, ask := false, held := false, ended := false, placedAt := s.fresh, locks := [] } := by
  refine (State.placeStream_blocks ..).trans ?_
  exact List.foldlRecOn _ _ (motive := fun t : State => t.blocks = _) rfl (fun t ht p _ => (State.placeGroup_blocks ..).trans ht)

theorem blockIsPlaced {id cl : Nat} {l : Launch} (hl : s.launchOf id = some l) (hone : ∀ x ∈ s.launches, x.1 = id) (hp : s.placeable l = true)
    (hf : s.fits l cl = true) : ∃ t b, exec (.blockPlace id cl) s = .next t ∧ t.blocks.get? (blockKey id l.nextBlk) = some b ∧ b.cluster = cl ∧ b.resident = true := by
  obtain ⟨as_, has⟩ := State.fits_parts hf
  have hfirst : s.launches.any (fun k => k.1 != id && launchBefore k.2 l && s.placeable k.2 && s.fits k.2 cl) = false :=
    List.any_eq_false.2 (fun k hk => by simp [hone k hk])
  have hstep : execBlockPlace id cl s = .next (s.placeBlock id l cl as_) := by simp [execBlockPlace, hl, hfirst, hp, hf, has]
  have hblk := congrArg (FMap.get? · (blockKey id l.nextBlk)) (State.placeBlock_blocks s id l cl as_)
  exact ⟨_, _, hstep, hblk.trans (FMap.get?_set_self ..), rfl, rfl⟩

theorem State.askBlock_blocks {k : Nat} {b : Block} (hb : s.blocks.get? k = some b) (hr : b.resident = true) :
    (s.askBlock k).blocks.get? k = some { b with ask := true } := by
  have hask : ((s.modBlock k (fun b => { b with ask := true })).blocks).get? k = some { b with ask := true } :=
    (FMap.get?_modify_self ..).trans (congrArg _ hb)
  have hres : ¬ (!b.resident) = true := by simp [hr]
  simp only [State.askBlock, hb]
  rw [if_neg hres]
  split <;> exact hask

theorem blockIsAsked {id cl k : Nat} {l : Launch} {b : Block} (hl : s.launchOf id = some l) (hp : s.placeable l = true) (hask : ∀ x ∈ s.blocks, x.2.ask = false)
    (hfit : ∀ c < 256, s.fits l c = false) (hv : s.victim l cl = some k) (hb : s.blocks.get? k = some b) (hr : b.resident = true) :
    ∃ t, exec (.priorityPreempt id cl) s = .next t ∧ t.blocks.get? k = some { b with ask := true } := by
  have hleave : s.blocks.any (fun b => b.2.ask && b.2.resident && b.2.cluster == cl) = false := List.any_eq_false.2 (fun x hx => by simp [hask x hx])
  have hno : (List.range 256).all (fun c => !s.fits l c) = true := List.all_eq_true.2 (fun c hc => by rw [hfit c (List.mem_range.1 hc)]; rfl)
  have hstep : execPriorityPreempt id cl s = .next (s.askBlock k) := by
    simp only [execPriorityPreempt, hl, hp, hleave, hno, hv, Bool.not_false, Bool.and_self, if_true]
  exact ⟨_, hstep, State.askBlock_blocks hb hr⟩

theorem launchEnds {id : Nat} {l : Launch} (hl : s.launchOf id = some l) (hd : s.blocksDone id l = true) (hst : l.slotsStopped = true) (hreq : l.doneReq = none)
    (hb : s.launchBusy id l = false) (ha : l.doneAt ≠ 0) :
    ∃ t, exec (.launchComplete id) s = .next t ∧ t.launchOf id = some { l with doneReq := some s.fresh } := by
  have hstep : execLaunchComplete id s = .next ((s.lodgeBytes 0 l.ctx none l.doneAt (doneRecord id l)).2.modLaunch id (fun l => { l with doneReq := some s.fresh })) := by
    simp only [execLaunchComplete, hl, hd, hst, hreq, hb, ha, Bool.not_true, Bool.false_eq_true, if_false]
    rfl
  exact ⟨_, hstep, (FMap.get?_modify_self ..).trans (congrArg _ hl)⟩

theorem groupIsMoved {gid core c k : Nat} {g : Group} {x : Nat × Launch} (hg : s.grp gid = some g) (hp : g.place = .resident c k)
    (hx : x ∈ s.launches ∧ s.placeable x.2 = true ∧ s.fits x.2 (c / 24) = false) (hcr : ∀ l, s.launchOf g.launch = some l → l.cr = false)
    (hl : ∃ l, s.launchOf g.launch = some l) (hbound : ∀ y ∈ s.cores, y.2.slot.bound ≠ some g.launch) (hm : g.movedAt = 0) (hn : s.nearArrival g = false)
    (hne : core ≠ c) (hcl : core / 24 = c / 24) (hfree : s.freeSlot core ≠ none) (hregs : s.regsUsed core + g.nregs ≤ 1024) (hto : g.moveTo = none) :
    exec (.groupMove gid core) s = .next (s.setGrp gid { g with moveTo := some core }) := by
  obtain ⟨l, hlaunch⟩ := hl
  obtain ⟨hmem, hplace, hfit⟩ := hx
  have hneed : s.launches.any (fun l => s.placeable l.2 && !s.fits l.2 (coreCluster c)) = true :=
    List.any_eq_true.2 ⟨x, hmem, by rw [hplace, show s.fits x.2 (coreCluster c) = false from hfit]; rfl⟩
  have hunbound : s.cores.any (fun k => k.2.slot.bound == some g.launch) = false := List.any_eq_false.2 (fun y hy => by simpa using hbound y hy)
  have hcluster : coreCluster core = coreCluster c := hcl
  simp [exec, execGroupMove, hg, hp, hneed, hlaunch, hcr l hlaunch, hunbound, hm, hn, hne, hcluster, Option.isSome_iff_ne_none.2 hfree, hregs, hto]

end Sys2Proof.Machine
end

section
/-! SUPPORT of O60. The host port and the registers of hosts (R399 to R401, R425, R426, R433). -/

namespace Sys2Proof.Machine

variable {s : State}

theorem hostIsAdmitted {r : BitVec 16} (hr : ∀ h ∈ s.hosts, h.2.requester ≠ r) (hn : s.hosts.length < 8) :
    ∃ t h, exec (.hostAdmit r) s = .next t ∧ t.hosts.get? s.hosts.length = some h ∧ h.requester = r ∧ h.frozen = false := by
  have hnew : s.hosts.any (fun h => h.2.requester == r) = false := List.any_eq_false.2 (fun h hh => by simpa using hr h hh)
  have hstep : execHostAdmit r s = .next { s with
      hosts := s.hosts.set s.hosts.length (HostMaster.new r (Config.hdmBase s.hosts.length) (s.sys.hostMaps.get? s.hosts.length)) } := by
    simp only [execHostAdmit, hnew, decide_eq_false (Nat.not_le.2 hn), Bool.or_false, Bool.false_eq_true, if_false]
  exact ⟨_, _, hstep, FMap.get?_set_self .., rfl, rfl⟩

/-! Ownership. -/

theorem ownerIsSwapped {v : BitVec 64} (hcur : v.extractLsb' 32 32 = s.sys.epoch ++ s.sys.owner) (he : v.extractLsb' 8 24 = s.sys.epoch + 1)
    (ho : v.extractLsb' 0 8 = 255) :
    ∃ t, exec (.ownershipSwap .prog v) s = .next t ∧ t.sys.epoch = s.sys.epoch + 1 ∧ t.sys.owner = 255 ∧ t.sys.msix = s.sys.msix ++ [1] := by
  have he' : (v.extractLsb' 0 32).extractLsb' 8 24 = s.sys.epoch + 1 := by
    rw [BitVec.extractLsb'_extractLsb'_of_le (by decide)]
    exact he
  have ho' : (v.extractLsb' 0 32).extractLsb' 0 8 = 255 := by
    rw [BitVec.extractLsb'_extractLsb'_of_le (by decide)]
    exact ho
  have hok : v.extractLsb' 32 32 = s.sys.epoch ++ s.sys.owner ∧ (v.extractLsb' 0 32).extractLsb' 8 24 = s.sys.epoch + 1 ∧
      ((s.hosts.get? ((v.extractLsb' 0 32).extractLsb' 0 8).toNat).isSome ∨ ((v.extractLsb' 0 32).extractLsb' 0 8).toNat = 255) :=
    ⟨hcur, he', .inr (by rw [ho']; rfl)⟩
  refine ⟨s.swapOwner v, rfl, ?_⟩
  simp only [State.swapOwner]
  rw [if_pos hok]
  refine ⟨he', ho', ?_⟩
  simp only [State.raise]
  split <;> rfl

/-- A change of the entries of a map that keeps their keys and leaves one entry as it is. -/
theorem FMap.get?_map_of_fixed {α : Type} {m : FMap α} {k : Nat} {a : α} {f : Nat × α → Nat × α} (hkey : ∀ c, (f c).1 = c.1) (hfix : f (k, a) = (k, a))
    (h : m.get? k = some a) : FMap.get? (List.map f m) k = some a := by
  induction m with
  | nil => exact h
  | cons c m ih =>
    obtain ⟨k', b⟩ := c
    rw [FMap.get?_cons] at h
    have hc : List.map f ((k', b) :: m) = ((f (k', b)).1, (f (k', b)).2) :: List.map f m := rfl
    rw [hc, FMap.get?_cons, hkey]
    split at h
    next heq =>
      cases heq
      cases h
      rw [if_pos rfl, hfix]
    next hne => rw [if_neg hne, ih h]

theorem frozenIsCleared {k : BitVec 3} {bits : BitVec 8} {h : HostMaster} (hk : s.hosts.get? k.toNat = some h) (hf : h.frozen = false)
    (ho : s.sys.owner.toNat = k.toNat) : ∃ t, exec (.frozenClear (.host k) bits) s = .next t ∧ t.mems = s.mems ∧ t.hosts.get? k.toNat = some h := by
  have hstep : execFrozenClear (.host k) bits s = .next (s.clearFrozen (.host k) bits) := windowWrite_owner hk hf ho
  refine ⟨_, hstep, rfl, FMap.get?_map_of_fixed (fun c => ?_) ?_ hk⟩
  · split <;> rfl
  · split
    · exact congrArg (Prod.mk _) (by rw [← hf])
    · rfl

/-! Host reads and writes. -/

theorem State.hostMap_of_none {m : Nat} {h : HostMaster} (hm : s.hosts.get? m = some h) (hn : h.mapNext = none) : s.hostMap m = s := by
  simp only [State.hostMap, hm, hn]

theorem State.hostAddr_in_window {h : HostMaster} {a : BitVec 64} {c : Ctx} (he : h.mapEn = true) (hc : s.ctx? h.mapCtx.toNat = some c)
    (hlo : h.hbase.toNat ≤ a.toNat) (hhi : a.toNat < h.hbase.toNat + 2 ^ 40) :
    s.hostAddr h a = some (h.mapCtx.toNat, h.mapOfs.toNat * 256 + (a.toNat - h.hbase.toNat)) := by
  have hin : inRange a.toNat 1 h.hbase.toNat (2 ^ 40) = true := by
    simp only [inRange, Bool.and_eq_true, decide_eq_true_eq]
    exact ⟨hlo, hhi⟩
  simp only [State.hostAddr, he, hc, hin, Option.isSome_some, Bool.and_self, if_true]

/-- An access that stays in one line touches that line. -/
theorem linesIn_of_one {x n : Nat} (h1 : 1 ≤ n) (h2 : x % 256 + n ≤ 256) : linesIn x n = [x / 256 * 256] := by
  have hcount : (x % 256 + n + 255) / 256 = 1 := by omega
  rw [linesIn, if_neg (by omega), hcount]
  rfl

theorem natOfBytes_cons (b : Byte) (bs : List Byte) : natOfBytes (b :: bs) = b.toNat + 256 * natOfBytes bs := rfl

theorem natOfBytes_lt (bs : List Byte) : natOfBytes bs < 256 ^ bs.length := by
  induction bs with
  | nil => exact Nat.one_pos
  | cons b bs ih =>
    have hb : b.toNat < 256 := b.isLt
    rw [natOfBytes_cons, List.length_cons, Nat.pow_succ]
    omega

/-- At most eight bytes, as the number that a read returns. -/
theorem readData_of_bytes {bs : List Byte} (h : bs.length ≤ 8) : (BitVec.ofNat 64 (natOfBytes (bs.take 8))).toNat = natOfBytes bs := by
  rw [List.take_of_length_le h, BitVec.toNat_ofNat]
  exact Nat.mod_eq_of_lt (lt_of_lt_of_le (natOfBytes_lt bs) (Nat.pow_le_pow_right (by decide : 0 < 256) h))

section HostWindow

variable {k : BitVec 3} {a : BitVec 64} {h : HostMaster} {c : Ctx}

theorem hostReadIsServed {n x : Nat} {u : PageHdr} {d : Line} (hk : s.hosts.get? k.toNat = some h) (hf : h.frozen = false) (hn : h.mapNext = none)
    (ha : s.hostAddr h a = some (h.mapCtx.toNat, x)) (h1 : 1 ≤ n) (h8 : n ≤ 8) (hx : x % 256 + n ≤ 256)
    (hp : s.hostPages h.mapCtx.toNat x n false = .ok u) (hd : s.hostLine k.toNat h.mapCtx.toNat (x / 256 * 256) (accMask x n (x / 256 * 256)) = some d) :
    ∃ t, exec (.hostRead k a n) s = .next t ∧ t.sys.readBad = false ∧ t.sys.readData.toNat = natOfBytes (((Line.bytes d).drop (x % 256)).take n) := by
  have hlen : (((Line.bytes d).drop (x % 256)).take n).length ≤ 8 := (List.length_take_le ..).trans h8
  have hstep : ∃ u : State, execHostRead k a n s = .next (u.hostGives (BitVec.ofNat 64 (natOfBytes ((((Line.bytes d).drop (x % 256)).take n).take 8)))) := by
    simp only [execHostRead, State.hostMap_of_none hk hn, hk, hf, ha, hp, linesIn_of_one h1 hx, List.map_cons, List.map_nil, hd, List.all_cons, List.all_nil,
      Option.isSome_some, Bool.and_self, if_true, Bool.false_eq_true, if_false, List.flatMap_cons, List.flatMap_nil, List.append_nil, Option.getD_some]
    exact ⟨_, rfl⟩
  obtain ⟨u, hstep⟩ := hstep
  exact ⟨_, hstep, rfl, readData_of_bytes hlen⟩

theorem hostWriteIsTaken {x : Nat} {bytes : List Byte} {u : PageHdr} {t : State} (hk : s.hosts.get? k.toNat = some h) (hf : h.frozen = false)
    (hn : h.mapNext = none) (ha : s.hostAddr h a = some (h.mapCtx.toNat, x)) (ho : s.sys.owner.toNat = k.toNat)
    (hp : s.hostPages h.mapCtx.toNat x bytes.length true = .ok u)
    (hroom : s.canAccept (320 + k.toNat) ((linesIn x bytes.length).map (lineKey h.mapCtx.toNat)) [] = true)
    (hst : s.hostStore (320 + k.toNat) h.mapCtx.toNat x bytes = some t) : exec (.hostWrite k a bytes) s = .next t := by
  have howner : s.isOwner k.toNat = true := beq_iff_eq.2 ho
  simp only [exec, execHostWrite, State.hostMap_of_none hk hn, hk, hf, howner, ha, hp, hostLog, hroom, hst, Bool.not_true, Bool.false_eq_true, if_false, if_true,
    Option.getD_some]

end HostWindow

theorem hostEntryLeaves {m : BitVec 3} {line : Nat} {b : BufLine} {t : State} (hb : (s.bufOf (320 + m.toNat)).get? line = some b)
    (hd : s.due (b.first + b.win.setWidth 64) = true) (hf : s.flushLine (320 + m.toNat) line = some t) :
    exec (.hostWcbWindowExpire m line) s = .next t := by
  simp only [exec, execHostWcbWindowExpire, hostLog, hb, hd, hf, if_true, Option.getD_some]

theorem hostReleases {m : BitVec 3} {h : HostMaster} (hm : s.hosts.get? m.toNat = some h) :
    ∃ t rq, exec (.hostRelease .prog m) s = .next t ∧ t.store.reqs.get? s.fresh = some rq ∧ rq.kind = .batch ∧ rq.log = 320 + m.toNat := by
  have hstep : execHostRelease .prog m s = .next (s.lodge (hostLog m.toNat) h.mapCtx.toNat none .batch [] 0).2 := by
    simp only [execHostRelease, windowWrite_prog, State.hostGo, hm]
  exact ⟨_, _, hstep, State.lodge_request .., rfl, rfl⟩

theorem hostWindowIsMapped {m : BitVec 3} {v : BitVec 64} {h : HostMaster} (hm : s.hosts.get? m.toNat = some h) :
    ∃ t, exec (.hostmapWrite .prog m v) s = .next t ∧ t.hosts.get? m.toNat = some { h with mapNext := some v } := by
  have hstep : execHostmapWrite .prog m v s = .next { s with hosts := s.hosts.set m.toNat { h with mapNext := some v } } := by
    simp only [execHostmapWrite, windowWrite_prog, State.writeMap, hm]
  exact ⟨_, hstep, FMap.get?_set_self ..⟩

end Sys2Proof.Machine
end

section
/-! SUPPORT of O60. Checkpoints (R402 to R411). -/

namespace Sys2Proof.Machine

variable {s : State}

/-! What ends an operation of the checkpoint engine. -/

theorem FMap.key_ne_of_get?_none {α : Type} {m : FMap α} {k : Nat} (h : m.get? k = none) : ∀ p ∈ m, p.1 ≠ k := by
  induction m with
  | nil => simp
  | cons c m ih =>
    obtain ⟨k', a⟩ := c
    rw [FMap.get?_cons] at h
    split at h
    next => cases h
    next hne =>
      intro p hp
      cases hp with
      | head => exact fun h' => hne h'.symm
      | tail _ hp => exact ih h p hp

theorem pendingOp_of_same {t : State} {n : Nat} {o : AOp} {c : Ctx} (ha : t.aops = s.aops) (hc : t.ctxs = s.ctxs) (h : pendingOp s n o c) :
    pendingOp t n o c := by
  simpa only [pendingOp, State.ctx?, ha, hc] using h

/-- An operation n has left its engine, and the entry it had is still its own, in a state. -/
def State.left (s : State) (n : Nat) (o : AOp) (st : FutSt) : Prop :=
  s.aops.get? n = none ∧ ∃ c, s.ctx? o.ctx = some c ∧ (c.fut o.tag).st = st ∧ (c.fut o.tag).op = n

theorem State.endAop_left {n : Nat} {o : AOp} {c : Ctx} {st : FutSt} (h : pendingOp s n o c) (hu : ∀ u : State, u.undoAop o = u) :
    (s.endAop n st).left n o st := by
  rw [State.endAop_of_pending h (.inr hu)]
  obtain ⟨-, hc, hop, -⟩ := h
  refine ⟨(FMap.get?_erase ..).trans (if_pos rfl), _, State.ctx?_modCtx (s := s.dropAop n) _ hc, Ctx.fut_settle .., ?_⟩
  exact (congrArg Fut.op (Ctx.fut_set_self c o.tag _ c.nextTag)).trans hop

/-- A change of a context that keeps an entry keeps what has left with that entry. -/
theorem State.left_modCtx {n : Nat} {o : AOp} {st : FutSt} {x : Nat} {f : Ctx → Ctx} (h : s.left n o st)
    (hf : ∀ c, s.ctx? x = some c → x = o.ctx → (f c).fut o.tag = c.fut o.tag) : (s.modCtx x f).left n o st := by
  obtain ⟨ha, c, hc, hst, hop⟩ := h
  by_cases hx : x = o.ctx
  · subst hx
    exact ⟨ha, _, State.ctx?_modCtx f hc, by rw [hf c hc rfl]; exact hst, by rw [hf c hc rfl]; exact hop⟩
  · exact ⟨ha, c, (FMap.get?_modify ..).trans ((if_neg (Ne.symm hx)).trans hc), hst, hop⟩

theorem Ctx.fut_set_ne (x : Ctx) {tag j : Nat} (e : Fut) (h : j ≠ tag) : ({ x with futs := x.futs.set tag e } : Ctx).fut j = x.fut j := by
  simp [Ctx.fut, FMap.getD, FMap.get?_set_ne _ _ h]

theorem State.left_decCopies {n : Nat} {o : AOp} {st : FutSt} (gid : Option Nat) (h : s.left n o st) : (s.decCopies gid).left n o st := by
  cases gid <;> exact h

/-- An entry that is not the one's own takes a state. -/
theorem State.left_resolve {n : Nat} {o : AOp} {st : FutSt} {x tag : Nat} (q : FutSt) (h : s.left n o st)
    (hne : ∀ c, s.ctx? x = some c → (c.fut tag).op ≠ n) : (s.resolve x tag q).left n o st := by
  have hleft := h
  obtain ⟨-, c, hc, -, hop⟩ := h
  unfold State.resolve
  split
  · exact hleft
  next c' hc' =>
    dsimp only
    split
    · have hmod : (s.modCtx x (fun y => { y with futs := y.futs.set tag { c'.fut tag with st := q } })).left n o st := by
        refine State.left_modCtx hleft (fun y hy hx => Ctx.fut_set_ne y _ (fun ht => hne y hy ?_))
        rw [hx, hc] at hy
        cases hy
        rw [← ht]
        exact hop
      exact State.left_decCopies _ hmod
    · exact hleft

/-- What an operation that ends well does: nothing, or it leaves, and its own entry takes the state. -/
theorem State.endAop_ok_cases (s : State) (k : Nat) : s.endAop k .ok = s ∨ s.endAop k .ok = s.dropAop k ∨
    ∃ (o : AOp) (c : Ctx), s.ctx? o.ctx = some c ∧ (c.fut o.tag).op = k ∧ s.endAop k .ok = (s.dropAop k).resolve o.ctx o.tag .ok := by
  unfold State.endAop
  split
  · exact .inl rfl
  next o ho =>
    right
    cases hc : s.ctx? o.ctx with
    | none => exact .inl rfl
    | some c =>
      by_cases hop : (c.fut o.tag).op = k
      · refine .inr ⟨o, c, hc, hop, ?_⟩
        simp only [beq_iff_eq.2 hop, if_true]
        rfl
      · refine .inl ?_
        simp only [beq_eq_false_iff_ne.2 hop, Bool.false_eq_true, if_false, if_true]
        rfl

/-- Another operation that ends leaves the entry of the one that has left. -/
theorem State.left_endAop_ok {n k : Nat} {o : AOp} {st : FutSt} (h : s.left n o st) (hk : k ≠ n) : (s.endAop k .ok).left n o st := by
  have hdrop : (s.dropAop k).left n o st := ⟨by rw [State.dropAop, FMap.get?_erase]; split <;> simp [h.1], h.2⟩
  obtain heq | heq | ⟨o', c, hc, hop, heq⟩ := s.endAop_ok_cases k <;> rw [heq]
  · exact h
  · exact hdrop
  · refine State.left_resolve .ok hdrop (fun c' hc' => ?_)
    have hcc : some c = some c' := hc.symm.trans hc'
    cases hcc
    rw [hop]
    exact hk

theorem State.left_dropSlot {n k c i : Nat} {o : AOp} {st : FutSt} (h : s.left n o st) (hk : k ≠ n) : (s.dropSlot c i k).left n o st := by
  unfold State.dropSlot
  split
  · exact State.left_endAop_ok (State.left_modCtx h (fun _ _ _ => rfl)) hk
  · exact h

theorem State.left_dropSlots {n c : Nat} {o : AOp} {st : FutSt} (h : s.left n o st) : (s.dropSlots c).left n o st := by
  refine List.foldlRecOn _ _ (motive := fun t : State => t.left n o st) h (fun t ht p hp => ?_)
  have hne : p.1 ≠ n := FMap.key_ne_of_get?_none h.1 p hp
  split
  · split
    · exact State.left_dropSlot ht hne
    · exact ht
  · exact ht

/-- The state in which a checkpoint operation has given its units back. -/
def State.ckGiveBack (s : State) (n : Nat) (o : AOp) (seq : BitVec 64) (older : Bool) : State :=
  (s.toMembers o (.ckFree n o.ctx seq older)).ckFreeIn Config.moduleIndex n o.ctx seq older

theorem State.toMembers_keeps (s : State) (o : AOp) (body : QfBody) : (s.toMembers o body).aops = s.aops ∧ (s.toMembers o body).ctxs = s.ctxs := by
  refine List.foldlRecOn _ _ (motive := fun t : State => t.aops = s.aops ∧ t.ctxs = s.ctxs) ⟨rfl, rfl⟩ (fun t ht m _ => ?_)
  split
  · exact ht
  · exact ht

theorem State.ckEnd_ended {n a : Nat} {b : CkBlk} {o : AOp} {c : Ctx} (st : FutSt) (h : pendingOp s n o c) (hk : o.kind = .ckpt a b) :
    ended (s.ckEnd n st) n o st := by
  have hu (u : State) : u.undoAop o = u := by simp only [State.undoAop, hk]
  have hend (t : State) (ha : t.aops = s.aops) (hc : t.ctxs = s.ctxs) : ended ((t.endAop n st).dropSlots o.ctx) n o st := by
    obtain ⟨hgone, c, hc, hst, -⟩ := State.left_dropSlots (c := o.ctx) (State.endAop_left (pendingOp_of_same ha hc h) hu)
    exact ⟨hgone, c, hc, hst⟩
  obtain ⟨ho, -⟩ := h
  simp only [State.ckEnd, ho, hk]
  refine hend _ ?_ ?_
  · dsimp only
    split
    · exact (s.toMembers_keeps ..).1
    · rfl
  · dsimp only
    split
    · exact (s.toMembers_keeps ..).2
    · rfl

/-! The steps of an operation. -/

section Operation

variable {n a : Nat} {b : CkBlk} {o : AOp} {c : Ctx}

theorem State.ckAccept_of_none (h : s.ckpt.accepting = none) : s.ckAccept = s := by simp only [State.ckAccept, h]

theorem State.ckCheck_of_few {es : List Nat} (hg : b.g < 2) : s.ckCheck n o b es = some .illop := by
  simp [State.ckCheck, hg]

theorem checkpointIsRefused {q : Nat} (hp : pendingOp s n o c) (hk : o.kind = .ckpt a b) (ha : s.ckpt.accepting = none) (hcan : o.cancelled = false)
    (hst : o.stage = .prePub q) (hhead : s.ckpt.waiting.head? = some n) (hroom : s.ckpt.active.length < 4) (hq : s.reqSt q = .complete) (hg : b.g < 2) :
    ∃ t, exec (.ckOpStart n) s = .next t ∧ ended t n o (.failed .illop) := by
  have ho := hp.1
  have hstep : ∃ u : State, execCkOpStart n s = .next (u.ckEnd n (.failed .illop)) ∧ u.aops = s.aops ∧ u.ctxs = s.ctxs := by
    simp only [execCkOpStart, State.ckAccept_of_none ha, ho, hk, hcan, hst, hhead, hroom, hq, and_self, if_true, Bool.false_eq_true, if_false,
      State.ckStart, State.ckCheck_of_few hg, hg, true_or]
    exact ⟨_, rfl, rfl, rfl⟩
  obtain ⟨u, hstep, hu⟩ := hstep
  exact ⟨_, hstep, State.ckEnd_ended _ (pendingOp_of_same hu.1 hu.2 hp) hk⟩

/-- A shard for another module only goes on its way. -/
theorem State.putShard_aops_of_peer {idx : Nat} {m : BitVec 12} {bs : List Byte} (hm : m ≠ Config.moduleIndex) : (s.putShard n idx m bs).aops = s.aops := by
  simp only [State.putShard, hm, if_false]
  rfl

theorem manifestIsWritten (hp : pendingOp s n o c) (hk : o.kind = .ckpt a b) (hcan : o.cancelled = false) (hst : o.stage = .running) (hop : b.op = 1)
    (hans : o.allAnswered = true) (hin : o.shardsIn (shardPlaces (s.streamFor o b).length b.g).length = true) (hself : Config.moduleIndex ∉ o.members)
    (hlen : o.members.length = b.g) : ∃ t, exec (.manifestWrite n) s = .next t ∧ t.aops.get? n = some { o with stage := .holding } := by
  obtain ⟨ho, -⟩ := hp
  have hstep : ∃ bs, execManifestWrite n s = .next ((List.range b.g).foldl (fun (s : State) i => s.putShard n (ckManIdx i) (o.members.getD i 0) bs)
      (s.modAop n (fun o => { o with stage := .holding }))) := by
    simp only [execManifestWrite, ho, hk, hst, hcan, hop, hans, hin, and_self, if_true, Bool.false_eq_true, if_false]
    exact ⟨_, rfl⟩
  obtain ⟨bs, hstep⟩ := hstep
  refine ⟨_, hstep, ?_⟩
  refine List.foldlRecOn _ _ (motive := fun t : State => t.aops.get? n = some { o with stage := .holding })
    ((FMap.get?_modify_self ..).trans (congrArg _ ho)) (fun t ht i hi => ?_)
  have hmem : o.members.getD i 0 ∈ o.members := by
    rw [List.getD_eq_getElem _ _ (by rw [hlen]; exact List.mem_range.1 hi)]
    exact List.getElem_mem _
  rw [State.putShard_aops_of_peer (fun h => hself (h ▸ hmem))]
  exact ht

theorem checkpointCommits (hp : pendingOp s n o c) (hk : o.kind = .ckpt a b) (hst : o.stage = .holding) (hop : b.op = 1) (hcopy : 0 < o.copies)
    (hpage : s.cpPage o.ctx (a + 0x20) false = none) : ∃ t, exec (.ckCommit n) s = .next t ∧ t.aops.get? n = some { o with stage := .flagging s.fresh } := by
  obtain ⟨ho, -⟩ := hp
  have hstep : execCkCommit n s = .next ((s.lodgeBytes 0 o.ctx none (a + 0x20) (ckStatus (o.handle s) true 0)).2.modAop n
      (fun o => { o with stage := .flagging s.fresh })) := by
    simp only [execCkCommit, ho, hk, hst, hop, bne_self_eq_false, Bool.false_eq_true, if_false, hcopy, if_true, State.ckTell, hpage, Option.isNone_none]
    rfl
  exact ⟨_, hstep, (FMap.get?_modify_self ..).trans (congrArg _ ho)⟩

theorem restoreIsDone {q : Nat} (hp : pendingOp s n o c) (hk : o.kind = .ckpt a b) (hst : o.stage = .flagging q) (hop : b.op = 2)
    (hq : s.reqSt q = .complete) : ∃ t, exec (.ckRestore n) s = .next t ∧ ended t n o .ok := by
  have ho := hp.1
  have hstep : execCkRestore n s = .next (s.ckEnd n .ok) := by
    simp only [execCkRestore, ho, hk, hst, hop, hq, bne_self_eq_false, Bool.or_self, Bool.false_eq_true, if_false]
  exact ⟨_, hstep, State.ckEnd_ended _ hp hk⟩

end Operation

/-! A request for a checkpoint, and a shard from a peer. -/

/-- A read of the command processor that is served depends only on the store and the lines held. -/
theorem State.cpRead_of_same {t : State} {c a n : Nat} {bs : List Byte} (hs : t.store = s.store) (hh : t.held = s.held) (h : s.cpRead c a n = .ok bs) :
    t.cpRead c a n = .ok bs := by
  have hpage : t.cpPage = s.cpPage := by
    funext c a wr
    simp only [State.cpPage, State.pageHdr, hs]
  have hline : t.cpLine = s.cpLine := by
    funext c a
    have hentry : t.homeEntry = s.homeEntry := by
      funext lk
      simp only [State.homeEntry, hs]
    have hremote : t.isRemote = s.isRemote := by
      funext lk
      simp only [State.isRemote, State.pageHdr, hs]
    have hprep : t.prepAt = s.prepAt := by
      funext lk
      rw [State.prepAt, State.prepAt, hentry]
    have hhome : t.homeLine = s.homeLine := by
      funext lk
      rw [State.homeLine, State.homeLine, hentry, hs]
    rw [State.cpLine, State.cpLine, hremote, hprep, hhome, hh]
  simp only [State.cpRead, hpage, hline] at h ⊢
  split at h
  · cases h
  · split at h
    next hall =>
      rw [if_pos hall]
      exact h
    · cases h

/-- With the block read and a free entry, an acceptance ends: the operation waits. -/
theorem State.ckAccept_of_block {c a : Nat} {bs : List Byte} {x : Ctx} (ha : s.ckpt.accepting = some (c, a)) (hx : s.ctx? c = some x)
    (hbs : s.cpRead c a 64 = .ok bs) (hf : (x.fut x.nextTag).st ≠ .pending) :
    ∃ t, s.ckAccept = t ∧ t.ckpt.waiting = s.ckpt.waiting ++ [s.fresh] ∧ t.ckpt.refused = s.ckpt.refused := by
  simp only [State.ckAccept, ha, hbs, State.allocFut_of_free _ _ _ _ hx hf]
  exact ⟨_, rfl, rfl, rfl⟩

theorem checkpointIsAsked {v : BitVec 64} {bs : List Byte} {x : Ctx} (ha : s.ckpt.accepting = none) (hw : s.ckpt.waiting.length < 64)
    (hx : s.ctx? (v.toNat % 2 ^ 16) = some x) (hbs : s.cpRead (v.toNat % 2 ^ 16) (v.toNat / 2 ^ 16 % 2 ^ 42 * 64) 64 = .ok bs)
    (hf : (x.fut x.nextTag).st ≠ .pending) : ∃ t, exec (.ckreq .prog v) s = .next t ∧ t.ckpt.waiting = s.ckpt.waiting ++ [s.fresh] ∧
      t.ckpt.refused = s.ckpt.refused := by
  have hc : (v.extractLsb' 0 16).toNat = v.toNat % 2 ^ 16 := by simp
  have hat : (v.extractLsb' 16 42).toNat * 64 = v.toNat / 2 ^ 16 % 2 ^ 42 * 64 := by simp [Nat.shiftRight_eq_div_pow]
  have hfree : ¬ (s.ckpt.accepting.isSome || decide (64 ≤ s.ckpt.waiting.length) || (s.ctx? (v.toNat % 2 ^ 16)).isNone) = true := by
    rw [ha, hx]
    simp [hw]
  obtain ⟨t, ht, hwait, href⟩ := State.ckAccept_of_block (bs := bs)
    (s := { s with ckpt := { s.ckpt with accepting := some (v.toNat % 2 ^ 16, v.toNat / 2 ^ 16 % 2 ^ 42 * 64) } }) rfl hx
    (State.cpRead_of_same (s := s) rfl rfl hbs) hf
  have hstep : execCkreq .prog v s = .next t := by
    simp only [execCkreq, windowWrite_prog, State.writeCkreq, hc, hat, State.ckRequest]
    rw [if_neg hfree, ht]
  exact ⟨t, hstep, hwait, href⟩

theorem shardIsTaken {n op idx u : Nat} {m : QfMsg} {bs : List Byte} (hm : s.inbox.get? n = some m) (hb : m.body = .shard op idx bs)
    (hu : (List.range s.ckpt.units.toNat).find? (fun u => !decide (u ∈ s.ckpt.used)) = some u)
    (hr : 0 < s.ckpt.resv.getD 0 (m.peer.toNat * 2 ^ 64 + op)) :
    ∃ t, exec (.shardReceive n) s = .next t ∧ t.ckpt.used = s.ckpt.used ++ [u] ∧ t.inbox.get? n = none := by
  have hleft : s.ckpt.resv.getD 0 (resvKey m.peer op) ≠ 0 := Nat.ne_of_gt hr
  have hstep : ∃ t, execShardReceive n s = .next t ∧ t.ckpt.used = s.ckpt.used ++ [u] ∧ t.inbox = s.inbox.erase n := by
    simp only [execShardReceive, hm, hb, State.takeUnit, hu, hleft, if_false]
    exact ⟨_, rfl, rfl, rfl⟩
  obtain ⟨t, hstep, hused, hin⟩ := hstep
  exact ⟨t, hstep, hused, hin ▸ (FMap.get?_erase ..).trans (if_pos rfl)⟩

end Sys2Proof.Machine
end

section
/-! SUPPORT of O60. Traces, registers, reset and boot (R412 to R422, R439 to R444). -/

namespace Sys2Proof.Machine

variable {s : State}

/-! Histograms and the time series. -/

@[simp] theorem State.die_modDie_self (s : State) (d : Nat) (f : Die → Die) : (s.modDie d f).die d = f (s.die d) := FMap.getD_put_self ..

theorem State.die_modDie_ne (s : State) {d e : Nat} (f : Die → Die) (h : e ≠ d) : (s.modDie d f).die e = s.die e := FMap.getD_put_ne _ _ _ h

theorem histogramSamples {d : Nat} (ht : s.now % 2 ^ s.trace.sp.toNat = 0) (hd : (s.die d).sampledAt ≠ some s.pcc) :
    ∃ t, exec (.histSample d) s = .next t ∧ (t.die d).sampledAt = some s.pcc ∧ t.groups = s.groups := by
  have hstep : execHistSample d s = .next (s.sampleDie d) := by
    simp [execHistSample, State.histSample, State.onTick, ht, hd]
  exact ⟨_, hstep, congrArg Die.sampledAt (State.die_modDie_self ..), rfl⟩

/-- A latch clears a die's counters and leaves those of the others. -/
theorem State.counters_latchDie (s : State) (e d : Nat) : ((s.latchDie e).die d).counters = if d = e then [] else (s.die d).counters := by
  obtain ⟨m, x, h⟩ := State.sinkOrLose_eq (s.modDie e (fun d => { d with counters := [], latchedAt := some s.pcc })) 1 e 768
    (seriesBody s.trace.k.toNat (s.die e))
  have hdie : (s.latchDie e).die d = (s.modDie e (fun d => { d with counters := [], latchedAt := some s.pcc })).die d := by
    rw [State.latchDie, h]
    rfl
  rw [hdie]
  split
  next heq => rw [heq, State.die_modDie_self]
  next hne => rw [State.die_modDie_ne s _ hne]

theorem State.counters_latchDies (l : List Nat) (d : Nat) :
    ∀ s : State, (d ∈ l ∨ (s.die d).counters = []) → ((l.foldl (fun (s : State) d => s.latchDie d) s).die d).counters = [] := by
  induction l with
  | nil => exact fun s h => h.resolve_left (by simp)
  | cons e l ih =>
    intro s h
    refine ih (s.latchDie e) ?_
    rw [State.counters_latchDie]
    by_cases hd : d = e
    · exact .inr (if_pos hd)
    · rw [if_neg hd]
      exact h.imp_left (fun hm => (List.mem_cons.1 hm).resolve_left hd)

theorem State.latchDie_keeps (s : State) (d : Nat) : (s.latchDie d).groups = s.groups ∧ (s.latchDie d).store = s.store := by
  obtain ⟨m, x, h⟩ := State.sinkOrLose_eq (s.modDie d (fun d => { d with counters := [], latchedAt := some s.pcc })) 1 d 768
    (seriesBody s.trace.k.toNat (s.die d))
  rw [State.latchDie, h]
  exact ⟨rfl, rfl⟩

theorem State.countCycle_keeps (s : State) : s.countCycle.groups = s.groups ∧ s.countCycle.store = s.store := by
  refine List.foldlRecOn _ _ (motive := fun t : State => t.groups = s.groups ∧ t.store = s.store) ?_ (fun t ht c _ => ?_)
  · exact List.foldlRecOn _ _ (motive := fun t : State => t.groups = s.groups ∧ t.store = s.store) ⟨rfl, rfl⟩ (fun t ht x _ => ht)
  · dsimp only
    split <;> split <;> split <;> simpa only [State.tally_groups, State.tally_store] using ht

theorem timeSeriesTicks (s : State) : ∃ t, exec .timeseriesTick s = .next t ∧ t.groups = s.groups ∧ t.store = s.store ∧
    (s.trace.tsen = true → s.now % 2 ^ s.trace.k.toNat = 0 → (s.die 0).latchedAt ≠ some s.pcc → ∀ d < 32, (t.die d).counters = []) := by
  refine ⟨s.timeTick, rfl, ?_⟩
  unfold State.timeTick
  split
  · have hkeeps := List.foldlRecOn (List.range 32) (fun (s : State) d => s.latchDie d)
      (motive := fun t : State => t.groups = s.groups ∧ t.store = s.store) s.countCycle_keeps
      (fun t ht d _ => ⟨(t.latchDie_keeps d).1.trans ht.1, (t.latchDie_keeps d).2.trans ht.2⟩)
    exact ⟨hkeeps.1, hkeeps.2, fun _ _ _ d hd => State.counters_latchDies _ d _ (.inl (List.mem_range.2 hd))⟩
  next hdue => exact ⟨rfl, rfl, fun hen htick hlatch => absurd (by simp [State.latchDue, State.onTick, hen, htick, hlatch]) hdue⟩

theorem kSwitches {k : BitVec 5} (hk : s.trace.kNext = some k) (ht : s.now % 2 ^ 24 = 0) :
    ∃ t, exec .kSwitch s = .next t ∧ t.trace = { s.trace with k := k, kNext := none } := by
  have htick : s.onTick 24 = true := beq_iff_eq.2 ht
  have hstep : execKSwitch s = .next { s with trace := { s.trace with k := k, kNext := none } } := by
    simp only [execKSwitch, State.kSwitch, hk, htick, if_true]
  exact ⟨_, hstep, rfl⟩

/-! Bins leave the die. -/

theorem State.sinkOrKeep_eq {typ die len : Nat} {body : List Byte} {t : State} (h : s.sinkOrKeep typ die len body = some t) :
    ∃ m x, t = { s with mems := m, trace := x } := by
  obtain ⟨m, x, hlost⟩ := State.lostMarker_eq s die
  simp only [State.sinkOrKeep, hlost] at h
  split at h
  · cases h
  · obtain ⟨m', x', rfl⟩ := State.sinkPut_eq h
    exact ⟨_, _, rfl⟩

/-- What bins that leave keep: the groups, the store, and no bin is new. -/
def State.dumpedTo (s t : State) : Prop :=
  t.groups = s.groups ∧ t.store = s.store ∧ ∀ d k, (t.die d).bins.get? k ≠ none → (s.die d).bins.get? k ≠ none

theorem State.writeBin_dumps (s : State) (die k : Nat) : s.dumpedTo (s.writeBin die k) := by
  unfold State.writeBin
  split
  · exact ⟨rfl, rfl, fun _ _ h => h⟩
  · split
    · exact ⟨rfl, rfl, fun _ _ h => h⟩
    next t ht =>
      obtain ⟨m, x, rfl⟩ := State.sinkOrKeep_eq ht
      refine ⟨rfl, rfl, fun d j h => ?_⟩
      by_cases hd : d = die
      · subst hd
        rw [State.die_modDie_self, FMap.get?_erase] at h
        split at h
        · exact absurd rfl h
        · exact h
      · rw [State.die_modDie_ne _ _ hd] at h
        exact h

theorem State.dumpedTo_trans {t u : State} (h : s.dumpedTo t) (h' : t.dumpedTo u) : s.dumpedTo u :=
  ⟨h'.1.trans h.1, h'.2.1.trans h.2.1, fun d k hk => h.2.2 d k (h'.2.2 d k hk)⟩

theorem State.dumpBins_dumps (s : State) : s.dumpedTo s.dumpBins := by
  refine List.foldlRecOn _ _ (motive := fun t : State => s.dumpedTo t) ⟨rfl, rfl, fun _ _ h => h⟩ (fun t ht d _ => ?_)
  exact List.foldlRecOn _ _ (motive := fun t : State => s.dumpedTo t) ht (fun u hu b _ => State.dumpedTo_trans hu (u.writeBin_dumps ..))

/-! Heartbeats. -/

theorem heartBeats (h : s.sys.beatAt.toNat + 800000 ≤ s.now) : ∃ t, exec .heartbeat s = .next t ∧ t.sys.beatAt = s.pcc ∧ t.groups = s.groups := by
  have hdue : decide (s.sys.beatAt.toNat + cyclesMs ≤ s.now) = true := decide_eq_true h
  have hstep : ∃ t, execHeartbeat s = .next t ∧ t.sys.beatAt = s.pcc ∧ t.groups = s.groups := by
    simp only [execHeartbeat, hdue, if_true]
    exact ⟨_, rfl, List.foldlRecOn _ _ (motive := fun t : State => t.sys.beatAt = s.pcc ∧ t.groups = s.groups) ⟨rfl, rfl⟩ (fun t ht n _ => ht)⟩
  exact hstep

theorem peerIsLost {p : BitVec 12} (h : (s.heard.getD 0 p.toNat : BitVec 64).toNat + 160000000 ≤ s.now) :
    ∃ t, exec (.peerFailure p) s = .next t ∧ p.toNat ∈ t.lost := by
  by_cases hl : p.toNat ∈ s.lost
  · have hstep : execPeerFailure p s = .next s := if_neg (fun hc => hc.2 hl)
    exact ⟨_, hstep, hl⟩
  · have hstep : execPeerFailure p s = .next { s with lost := s.lost ++ [p.toNat] } := if_pos ⟨h, hl⟩
    exact ⟨_, hstep, List.mem_append_right _ (List.mem_singleton_self _)⟩

/-! Reset, boot, attestation. -/

theorem warmResets {m : BitVec 3} {h : HostMaster} (hm : s.hosts.get? m.toNat = some h) (hf : h.frozen = false) (ho : s.sys.owner.toNat = m.toNat) :
    ∃ t, exec (.warmReset (.host m)) s = .next t ∧ t.pcc = s.pcc ∧ t.groups = [] ∧ t.mems.ckstore = s.mems.ckstore := by
  have hstep : execWarmReset (.host m) s = .next s.warmReset := windowWrite_owner hm hf ho
  exact ⟨_, hstep, rfl, rfl, rfl⟩

theorem State.takeImage_of_good {image : List Byte} {sig : BitVec 512} {ver : BitVec 16} (h : bootCheck image sig ver = 0) :
    (s.takeImage image sig ver).sys.bootSt = 2 ∧ (s.takeImage image sig ver).sys.fwver = ver := by
  unfold State.takeImage
  rw [h]
  exact ⟨rfl, rfl⟩

theorem imageBoots {image : List Byte} {sig : BitVec 512} {ver : BitVec 16} (h : bootCheck image sig ver = 0) :
    (s.sys.bootSt = 0 → ∃ t, exec (.boot image sig ver) s = .next t ∧ t.sys.bootSt = 2 ∧ t.sys.fwver = ver) ∧
      (s.sys.bootSt = 3 → ∃ t, exec (.newImage image sig ver) s = .next t ∧ t.sys.bootSt = 2 ∧ t.sys.fwver = ver) := by
  constructor
  · intro hst
    have hstep : execBoot image sig ver s = .next (s.takeImage image sig ver) := if_pos hst
    exact ⟨_, hstep, State.takeImage_of_good h⟩
  · intro hst
    have hstep : execNewImage image sig ver s = .next (s.takeImage image sig ver) := if_pos hst
    exact ⟨_, hstep, State.takeImage_of_good h⟩

theorem hostPut_get?_out (bs : List Byte) : ∀ (m : FMap Byte) (a x : Nat), x < a ∨ a + bs.length ≤ x → (hostPut m a bs).get? x = m.get? x := by
  induction bs with
  | nil => exact fun _ _ _ _ => rfl
  | cons b bs ih =>
    intro m a x h
    rw [List.length_cons] at h
    rw [hostPut, ih _ _ _ (by omega), FMap.get?_set_ne _ _ (by omega)]

theorem State.hostWrite_get?_out (s : State) {a x : Nat} {bs : List Byte} (h : x < a ∨ a + bs.length ≤ x) :
    (s.hostWrite a bs).mems.host.get? x = s.mems.host.get? x := hostPut_get?_out bs _ _ _ h

theorem State.length_report (s : State) {nonce : List Byte} (h : nonce.length = 32) : (s.report nonce).length = 200 := by
  simp only [State.report, List.length_append, length_le, h]

theorem attestationIsWritten (s : State) (v : BitVec 64) : ∃ t, exec (.attreq .prog v) s = .next t ∧ t.groups = s.groups ∧ t.store = s.store ∧
    ∀ x, (x < (v.extractLsb' 6 42).toNat * 64 ∨ (v.extractLsb' 6 42).toNat * 64 + 264 ≤ x) → t.mems.host.get? x = s.mems.host.get? x := by
  refine ⟨s.attest v, rfl, rfl, rfl, fun x hx => ?_⟩
  generalize ha : (v.extractLsb' 6 42).toNat * 64 = a at hx
  have hnonce : (s.hostRead a 32).1.length = 32 := by simp [State.hostRead]
  have hreport := State.length_report (s.hostRead a 32).2 hnonce
  have hsig (n : Nat) : (le 64 n).length = 64 := length_le 64 n
  simp only [State.attest, ha]
  rw [State.hostWrite_get?_out _ (by rw [hsig]; omega), State.hostWrite_get?_out _ (by rw [hreport]; omega)]
  rfl

theorem State.regRead_trclost (s : State) : s.regRead 0x4028 = s.trace.recs.setWidth 64 := by simp [State.regRead, State.traceReg]

theorem State.regClear_trclost (s : State) : s.regClear 0x4028 = { s with trace := { s.trace with recs := 0 } } := if_pos rfl

theorem lostCountIsRead (s : State) : ∃ t, exec (.trclostRead .prog) s = .next t ∧ t.sys.readData = s.trace.recs.setWidth 64 ∧ t.trace.recs = 0 := by
  have hstep : execTrclostRead .prog s = .next ((s.hostGives (s.regRead 0x4028)).regClear 0x4028) := rfl
  rw [State.regRead_trclost, State.regClear_trclost] at hstep
  exact ⟨_, hstep, rfl, rfl⟩

theorem State.regClear_hostErrors (s : State) : s.regClear 0x5108 = { s with sys := { s.sys with lnkHost := 0 } } :=
  (if_neg (by decide)).trans (if_pos rfl)

theorem execHostErrcountRead_prog (s : State) : ∃ v, execHostErrcountRead .prog s = .next ((s.hostGives v).regClear 0x5108) := ⟨_, rfl⟩

theorem hostErrorsAreRead (s : State) : ∃ t, exec (.hostErrcountRead .prog) s = .next t ∧ t.sys.lnkHost = 0 ∧ t.mems = s.mems := by
  obtain ⟨v, hstep⟩ := execHostErrcountRead_prog s
  rw [State.regClear_hostErrors] at hstep
  exact ⟨_, hstep, rfl, rfl⟩

theorem hostWindowIsTimed (s : State) (v : BitVec 64) : ∃ t, exec (.registerWrite .prog 0x5080 v) s = .next t ∧ t.sys.hwcwin.toNat = v.toNat % 2 ^ 12 := by
  have hstep : execRegisterWrite .prog 0x5080 v s = .next { s with sys := { s.sys with hwcwin := v.extractLsb' 0 12 } } := by
    simp [execRegisterWrite, windowWrite_prog, State.regWrite]
  exact ⟨_, hstep, by simp⟩

end Sys2Proof.Machine
end

section
/-! SUPPORT of O60. Links and power (R428 to R437). -/

namespace Sys2Proof.Machine

variable {s : State}

/-! Links. -/

@[simp] theorem State.link_modLink_self (s : State) (n : Nat) (f : Link → Link) : (s.modLink n f).link n = f (s.link n) := FMap.getD_put_self ..

theorem flitReplays (s : State) (n : BitVec 6) : ∃ t, exec (.flitReplay n) s = .next t ∧ (t.link n.toNat).retry = (s.link n.toNat).retry + 1 :=
  ⟨_, rfl, congrArg Link.retry (State.link_modLink_self ..)⟩

theorem linkGoesDown (s : State) (n : BitVec 6) : ∃ t, exec (.linkDown n) s = .next t ∧ (t.link n.toNat).up = false :=
  ⟨_, rfl, congrArg Link.up (s.link_modLink_self n.toNat (fun k => { k with up := false }))⟩

theorem linkRetrains (s : State) (n : BitVec 6) : ∃ t, exec (.retrain .prog n) s = .next t ∧ (t.link n.toNat).up = false :=
  ⟨_, rfl, congrArg Link.up (s.link_modLink_self n.toNat Link.retrain)⟩

theorem linkTrains {n : BitVec 6} {padv : BitVec 4} (he : (s.link n.toNat).en = true) (hu : (s.link n.toNat).up = false) :
    ∃ t, exec (.linkTrain n padv) s = .next t ∧ (t.link n.toNat).up = true ∧ (t.link n.toNat).padv = padv := by
  have hstep : execLinkTrain n padv s = .next (s.modLink n.toNat (fun k => { k with
      up := true, padv := padv, adv := (s.link n.toNat).nextAdv.getD (s.link n.toNat).adv, nextAdv := none })) := by
    simp only [execLinkTrain, he, hu, Bool.not_false, Bool.and_self, if_true]
    rfl
  exact ⟨_, hstep, congrArg Link.up (State.link_modLink_self ..), congrArg Link.padv (State.link_modLink_self ..)⟩

theorem heartbeatIsHeard {n : BitVec 6} {c : BitVec 2} {m : QfMsg} (hu : (s.link n.toNat).up = true) (hm : Config.peerMessage s.free = some m)
    (hb : m.body = .heartbeat) : ∃ t, exec (.qfMessageReceive n c) s = .next t ∧ t.heard.get? m.peer.toNat = some s.pcc ∧ t.groups = s.groups := by
  have hstep : ∃ t, execQfMessageReceive n c s = .next t ∧ t.heard = s.heard.set m.peer.toNat s.pcc ∧ t.groups = s.groups := by
    simp only [execQfMessageReceive, hu, hm, if_true, State.deliver, hb]
    exact ⟨_, rfl, rfl, rfl⟩
  obtain ⟨t, hstep, hheard, hgroups⟩ := hstep
  exact ⟨t, hstep, hheard ▸ FMap.get?_set_self .., hgroups⟩

theorem messageTakesRoute {i : Nat} {m : QfMsg} {l : BitVec 6} (hm : s.outbox.get? i = some m) (hl : m.link = none) (hr : s.routeOf m.peer i = some l) :
    ∃ t, exec (.noRoute i) s = .next t ∧ t.outbox.get? i = some { m with link := some l } := by
  have hstep : execNoRoute i s = .next { s with outbox := s.outbox.set i { m with link := some l } } := by
    simp only [execNoRoute, hm, hl, hr, Option.isSome_none, Bool.false_eq_true, if_false]
  exact ⟨_, hstep, FMap.get?_set_self ..⟩

/-! Channels. -/

@[simp] theorem State.chan_modChan_self (s : State) (k : Nat) (f : Chan → Chan) : (s.modChan k f).chan k = f (s.chan k) := FMap.getD_put_self ..

theorem channelPowersDown {ch : Nat} (hst : (s.chan ch).st = .active) (hn : (s.stack (ch / 64)).pdIdle ≠ 0)
    (hidle : (s.chan ch).idleFrom.toNat + (s.stack (ch / 64)).pdIdle.toNat ≤ s.now) (hb : s.chanBusy ch = false) :
    ∃ t, exec (.powerDownEntry ch) s = .next t ∧ (t.chan ch).st = .powerDown ∧ t.mems = s.mems := by
  have hne : (s.stack (ch / 64)).pdIdle.toNat ≠ 0 := fun h => hn (BitVec.eq_of_toNat_eq h)
  have hstep : execPowerDownEntry ch s = .next (s.enterChan ch .powerDown) := if_pos ⟨hst, hne, decide_eq_true hidle, hb⟩
  exact ⟨_, hstep, congrArg Chan.st (State.chan_modChan_self ..), rfl⟩

theorem channelRefreshesItself {ch : Nat} (hst : (s.chan ch).st = .powerDown) (hw : (s.chan ch).wakeAt = none) (hn : (s.stack (ch / 64)).srIdle ≠ 0)
    (hidle : (s.chan ch).idleFrom.toNat + 64 * (s.stack (ch / 64)).srIdle.toNat ≤ s.now) (hb : s.chanBusy ch = false) :
    ∃ t, exec (.selfRefreshEntry ch) s = .next t ∧ (t.chan ch).st = .selfRefresh ∧ t.mems = s.mems := by
  have hfor : s.idleFor ch (64 * (s.stack (ch / 64)).srIdle.toNat) = true := decide_eq_true hidle
  have hstep : execSelfRefreshEntry ch s = .next (s.enterChan ch .selfRefresh) := by
    simp only [execSelfRefreshEntry, hst, hw, bne_iff_ne.2 hn, hfor, hb, beq_self_eq_true, Option.isNone_none, Bool.and_self, Bool.true_or, Bool.not_false,
      if_true]
  exact ⟨_, hstep, congrArg Chan.st (State.chan_modChan_self ..), rfl⟩

theorem channelWakes {ch : Nat} {w : BitVec 64} (hw : (s.chan ch).wakeAt = some w) (hd : s.due w = true) :
    ∃ t, exec (.channelWake ch) s = .next t ∧ (t.chan ch).st = .active ∧ t.mems = s.mems := by
  have hstep : execChannelWake ch s = .next (s.modChan ch (fun c => { c with st := .active, idleFrom := s.pcc, wakeAt := none })) := by
    simp only [execChannelWake, hw, hd, if_true]
  exact ⟨_, hstep, congrArg Chan.st (State.chan_modChan_self ..), rfl⟩

theorem refreshIsForced (s : State) (st : BitVec 4) (v : BitVec 64) :
    ∃ t, exec (.forcesr .prog st v) s = .next t ∧ (t.stack st.toNat).pdIdle = v.extractLsb' 8 16 ∧ t.mems = s.mems := by
  have hkeeps : ((s.writePccfg st.toNat v).stack st.toNat).pdIdle = v.extractLsb' 8 16 ∧ (s.writePccfg st.toNat v).mems = s.mems := by
    refine List.foldlRecOn _ _ (motive := fun t : State => (t.stack st.toNat).pdIdle = v.extractLsb' 8 16 ∧ t.mems = s.mems)
      ⟨congrArg Stack.pdIdle (FMap.getD_put_self ..), rfl⟩ (fun t ht i _ => ?_)
    dsimp only
    split
    · exact ht
    · split
      · exact ht
      · split <;> exact ht
  exact ⟨_, rfl, hkeeps⟩

/-! Gated SRAM. -/

theorem State.gateHits_of_no_block {d : Nat} (sph : BitVec 8) (hb : ∀ b ∈ s.blocks, clusterDie b.2.cluster ≠ d) : s.gateHits d sph = false :=
  List.any_eq_false.2 (fun b h => by simp [hb b h])

theorem gatesAreWritten {d : BitVec 5} {v : BitVec 64} (hb : ∀ b ∈ s.blocks, clusterDie b.2.cluster ≠ d.toNat)
    (hw : v.extractLsb' 0 16 &&& ~~~(1 : BitVec 16) = 0) :
    ∃ t, exec (.gatectlWrite .prog d v) s = .next t ∧ (t.die d.toNat).sph = v.extractLsb' 16 8 ∧ (t.die d.toNat).ways = 0 := by
  have hgate : ∃ wake : Die → Option (BitVec 64), s.writeGate d.toNat v = (s.clearHalves d.toNat (v.extractLsb' 16 8 &&& ~~~(s.die d.toNat).sph)).modDie d.toNat (fun k =>
      { k with sph := v.extractLsb' 16 8, ways := 0, gateWant := none, gateWakeAt := wake k }) := by
    have hnone : (0 : BitVec 16) &&& ~~~(s.die d.toNat).ways = 0 := BitVec.zero_and
    simp only [State.writeGate, hw, State.gateHits_of_no_block _ hb, Bool.false_eq_true, if_false]
    rw [if_pos hnone]
    exact ⟨_, rfl⟩
  obtain ⟨wake, hgate⟩ := hgate
  have hstep : execGatectlWrite .prog d v s = .next (s.writeGate d.toNat v) := rfl
  rw [hgate] at hstep
  exact ⟨_, hstep, congrArg Die.sph (State.die_modDie_self ..), congrArg Die.ways (State.die_modDie_self ..)⟩

theorem gatesWake {d : BitVec 5} {w : BitVec 64} (hn : (s.die d.toNat).gateWant = none) (hw : (s.die d.toNat).gateWakeAt = some w) (hd : s.due w = true) :
    ∃ t, exec (.gateWake d) s = .next t ∧ (t.die d.toNat).gateWakeAt = none ∧ t.mems = s.mems := by
  have hstep : execGateWake d s = .next (s.modDie d.toNat (fun k => { k with gateWakeAt := none })) := by
    simp only [execGateWake, hn, hw, hd, if_true]
  exact ⟨_, hstep, congrArg Die.gateWakeAt (State.die_modDie_self ..), rfl⟩

end Sys2Proof.Machine
end

section
/-! SUPPORT of O60. Every step of the module completes. -/

namespace Sys2Proof.Machine

/-- Settles O60, step by step: segments, contexts, queues, launches, the host port, checkpoints, traces, reset and boot, links, power. -/
theorem moduleStepsComplete : Obligations.ModuleStepsComplete := by
  unfold Obligations.ModuleStepsComplete
  refine ⟨?_, ?_, ?_, ?_, ?_, ?_, ?_, ?_, ?_, ?_, ?_, ?_, ?_, ?_, ?_, ?_, ?_, ?_, ?_, ?_, ?_, ?_, ?_, ?_⟩
  · exact fun s stack seg g _ ht hr hf hroot _ => segmentCleans ht hr hf hroot
  · exact fun s seg g hg hs hr => segmentShips hg hs hr
  · exact fun s msg m seg c rs cm digest more x hm hb hx hr hd => segmentRefused hm hb hx hr hd
  · exact fun s c x by_ flag hx hq hr hl ho hp => contextQuiet hx hq hr hl ho hp
  · exact fun s q tail => ⟨queueKicks q tail, queueResets q⟩
  · intro s q k slot hloc hseq hslot
    exact ⟨packetIsRead hloc hseq hslot, fun j at_ hw hd => packetIsReread hloc hseq hslot hw hd⟩
  · exact fun s id l cl hl hone => ⟨blockIsPlaced hl hone, fun k b => blockIsAsked hl, launchEnds hl⟩
  · exact fun s gid g core c k x => groupIsMoved
  · exact fun r s => hostIsAdmitted
  · exact fun v s => ownerIsSwapped
  · exact fun k bits s h => frozenIsCleared
  · intro k a n s h c hk hf hn he hc hlo hhi x
    have ha := State.hostAddr_in_window he hc hlo hhi
    exact ⟨fun u d h1 h8 hx hp hd => hostReadIsServed hk hf hn ha h1 h8 hx hp hd,
      fun bytes u t' ho hp hroom hst => hostWriteIsTaken hk hf hn ha ho hp hroom hst⟩
  · exact fun m line s b t => hostEntryLeaves
  · exact fun m v s h hm => ⟨hostReleases hm, hostWindowIsMapped hm⟩
  · exact fun v s bs x ha hw hx hbs hf _ => checkpointIsAsked ha hw hx hbs hf
  · intro s n o a b c hp hk ha hcan
    exact ⟨fun q hst => checkpointIsRefused hp hk ha hcan hst, manifestIsWritten hp hk hcan, checkpointCommits hp hk, fun q => restoreIsDone hp hk⟩
  · exact fun s n m op idx bs u => shardIsTaken
  · intro s
    refine ⟨rfl, rfl, fun d gid g core c ht hd _ _ => histogramSamples ht hd, timeSeriesTicks s, fun k => kSwitches, ⟨_, rfl, s.dumpBins_dumps⟩,
      fun v => ⟨_, rfl, rfl⟩, lostCountIsRead s, hostErrorsAreRead s, heartBeats, fun p => peerIsLost, ⟨_, rfl, rfl, rfl, rfl, rfl⟩, fun m h => warmResets,
      fun image sig ver => imageBoots, attestationIsWritten s, fun victim id => rfl, hostWindowIsTimed s⟩
  · intro n s _
    exact ⟨flitReplays s n, linkGoesDown s n, linkRetrains s n, fun padv => linkTrains, fun c m => heartbeatIsHeard⟩
  · exact fun s i m l => messageTakesRoute
  · exact fun ch s => ⟨channelPowersDown, channelRefreshesItself, fun w => channelWakes⟩
  · exact refreshIsForced
  · exact fun s d v => gatesAreWritten
  · exact fun s d w => gatesWake

end Sys2Proof.Machine
end

section
/-! SUPPORT of O1, O2 and O3. The fields of words, micro-ops and packets, written and read back; the opcode map both ways; what the decoders accept and reject. -/

namespace Sys2Proof.Laws.Rows

/-- The row of every instruction names it. -/
theorem statement (i : Instr) : Statement i :=
  i.casesOn (motive := Statement)
    iadd isub iadds isubs imul imulhi imad ineg iabs imin imax ishl ishr isar irol ibfx ibfi popc clz brev andB orB xorB notB andn bfn3 icmp fcmp sel
    clop mov movi movc fadd fsub fmul ffma fmin fmax fabs fneg fclass frnd pkadd pksub pkmul pkfma pkmin pkmax pkdot cvt pack2 unpk2 shfl shflx shflup
    shfldn bcast vall vany vbal vfirst rsqs rcps ex2s lg2s sins coss gadd gsub gmul gand gor gxor gshl gshr gmov gmovi gcmp klop v2g g2v loopn ld ldx
    lds st send pref fence aadd amin amax aand aor axor axchg acas afadd runend wait nop br bru jmpi call ret spawn pause bar sstep ftest fcancel
    fmovg gmovf rjoin exit trapOp bkpt csrr csrw traceFlush tret sqpostGroup sqwaitGroup pub pubr invr zline tlock tunlock tprobe migr snap snapdrop
    rootsw libsd xcopy xconv xqa8 xwht tprep pload pstart pstop qpop qpeek qstat cntset agset piccoloSld dq trn push nextOp endOp sadd ssub smul sand
    sor sxor sshl sshr smov smovi scmp sbr sjmp sld sst sqpostSeq sqwaitSeq swaitpx sexit scsrr pxldw pxga pxlda pxmm pxdm pxzero pxdrn pxbyp pxsave
    pxrest pxstat tload tq tq2 tmap tfree landr landcArm landcPut quiesce resume ctxld ctxsv halt launch barrier signal cancel preempt buffer
    loopnStart loopnComplete atomicPerform loadReturn storePerform sendArrive barrierRelease traceFlushDone runArbitration runResume yieldExpire stall
    trapTake preemptRequest groupSave groupRestore groupEnd wcbWindowExpire publicationStart homePrepare prepareAck revokeRequest holdTimerExpire
    homeCommit homeRelease publicationCommit libFill loadServeHome translationWalk leafWriteback logstallExpire tlockFillLand pageRequest pagePromote
    migrationCommitNotice pageDemote faultCancel forwardedAccess counterEpochTick pageTransfer snapshotCut rollback cleanSegment shootdown segmentShip
    replicaSegmentReceive copyOpStart copyOpComplete ploadDataReturn piccoloRunBegin piccoloSldReturn bindingEnd streamStart streamHandleResolve
    seqSldReturn seqStall seqTrap seqSave seqRestore pxOpStart pxOpComplete tloadComplete tqPacketServe tqReply lanesReturn tmapComplete tfreeComplete
    landOpStart armReserve chunkAccept putRetry landPublish quiesceComplete queueKick queueReset packetRead packetReread blockPlace groupMove
    priorityPreempt launchComplete hostAdmit ownershipSwap frozenClear hostRead hostWrite hostWcbWindowExpire hostRelease hostmapWrite ckreq ckOpStart
    shardReceive manifestWrite ckCommit ckRestore refusedClear histSample timeseriesTick kSwitch dump trctailWrite trclostRead flitReplay linkDown
    noRoute linkTrain retrain heartbeat peerFailure qfMessageReceive hostErrcountRead powerDownEntry selfRefreshEntry channelWake forcesr gatectlWrite
    gateWake gateErrorClear coldReset warmReset boot attreq softError registerWrite seqSstPerform tprobeResult newImage

end Sys2Proof.Laws.Rows

namespace Sys2Proof.Machine

/-! Fields of a word, both ways. -/

theorem Raw.ofWord_toWord (r : Raw) : Raw.ofWord r.toWord = r := by
  simp (disch := decide) only [Raw.ofWord, Raw.toWord, BitVec.extractLsb'_append_eq_of_add_le, BitVec.extractLsb'_append_eq_of_le, Nat.reduceSub,
    BitVec.extractLsb'_eq_self]

theorem Raw.toWord_ofWord (w : IWord) : (Raw.ofWord w).toWord = w := by
  simp (disch := decide) only [Raw.ofWord, Raw.toWord, BitVec.extractLsb'_append_extractLsb'_eq_extractLsb']
  exact BitVec.extractLsb'_eq_self

theorem opndOf_opndBits : ∀ o : Opnd, opndOf (opndBits o) = some o
  | .v n => by revert n; decide +kernel
  | .x n => by revert n; decide +kernel
  | .g n => by revert n; decide +kernel
  | .sp n => by revert n; decide +kernel
  | .imm n => by revert n; decide +kernel

theorem opndBits_of_opndOf : ∀ b : BitVec 10, ∀ o ∈ opndOf b, opndBits o = b := by decide +kernel

theorem tyOf_tyCode (t : Ty) : tyOf (tyCode t) = some t := by cases t <;> rfl
theorem tyCode_of_tyOf : ∀ b : BitVec 4, ∀ t ∈ tyOf b, tyCode t = b := by decide
theorem rndOf_rndCode (r : Rnd) : rndOf (rndCode r) = r := by cases r <;> rfl
theorem rndCode_rndOf : ∀ b : BitVec 2, rndCode (rndOf b) = b := by decide
theorem spaceOf_spaceCode (x : Space) : spaceOf (spaceCode x) = some x := by cases x <;> rfl
theorem spaceCode_of_spaceOf : ∀ b : BitVec 3, ∀ x ∈ spaceOf b, spaceCode x = b := by decide
theorem widthOf_widthCode (x : Width) : widthOf (widthCode x) = some x := by cases x <;> rfl
theorem widthCode_of_widthOf : ∀ b : BitVec 3, ∀ x ∈ widthOf b, widthCode x = b := by decide
theorem orderOf_orderCode (x : Order) : orderOf (orderCode x) = some x := by cases x <;> rfl
theorem orderCode_of_orderOf : ∀ b : BitVec 3, ∀ x ∈ orderOf b, orderCode x = b := by decide
theorem scopeOf_scopeCode (x : Scope) : scopeOf (scopeCode x) = some x := by cases x <;> rfl
theorem scopeCode_of_scopeOf : ∀ b : BitVec 3, ∀ x ∈ scopeOf b, scopeCode x = b := by decide
theorem padOf_padCode (x : PadSpace) : padOf (padCode x) = some x := by cases x <;> rfl
theorem padCode_of_padOf : ∀ b : BitVec 2, ∀ x ∈ padOf b, padCode x = b := by decide
theorem picOf_picCode (x : PicSpace) : picOf (picCode x) = some x := by cases x <;> rfl
theorem picCode_of_picOf : ∀ b : BitVec 2, ∀ x ∈ picOf b, picCode x = b := by decide
theorem loopOpOf_loopOpCode (x : LoopOp) : loopOpOf (loopOpCode x) = some x := by cases x <;> rfl
theorem loopOpCode_of_loopOpOf : ∀ b : BitVec 6, ∀ x ∈ loopOpOf b, loopOpCode x = b := by decide
theorem bit1_beq : ∀ b : BitVec 1, bit1 (b == 1) = b := by decide
theorem beq_bit1 : ∀ b : Bool, (bit1 b == 1) = b := by decide

theorem bit1_getLsbD {n : Nat} (x : BitVec n) (i : Nat) : bit1 (x.getLsbD i) = x.extractLsb' i 1 := by
  ext j hj
  obtain rfl : j = 0 := by omega
  cases h : x.getLsbD i <;> simp [bit1, h]

theorem getLsbD_eq_extractLsb' {n : Nat} (x : BitVec n) (i : Nat) : x.getLsbD i = (x.extractLsb' i 1 == 1) := by
  rw [← bit1_getLsbD, beq_bit1]

/-- The opcode and the header of fields with no reserved bit set are those that made them. -/
theorem rawOf_eq {r : Raw} {d a b : BitVec 10} {m : BitVec 12} {imm : BitVec 32} (hres : r.res = 0) (hd : d = r.d) (ha : a = r.a) (hb : b = r.b)
    (hm : m = r.mod) (hi : imm = r.imm) : rawOf r.opc.toNat r.hdr d a b m imm = r := by
  subst hd ha hb hm hi
  simp only [rawOf, Raw.hdr, bit1_beq, BitVec.ofNat_toNat, BitVec.setWidth_eq, ← hres]

theorem hdr_rawOf (o : Nat) (h : Hdr) (d a b : BitVec 10) (m : BitVec 12) (imm : BitVec 32) : (rawOf o h d a b m imm).hdr = h := by
  simp only [Raw.hdr, rawOf, beq_bit1]

theorem aluOfRaw_aluToRaw (o : Nat) (w : Alu) : aluOfRaw (aluToRaw o w) = some w := by
  simp (disch := decide) only [aluOfRaw, aluToRaw, hdr_rawOf]
  simp (disch := decide) only [rawOf, BitVec.extractLsb'_append_eq_of_add_le, BitVec.extractLsb'_append_eq_of_le, Nat.reduceSub,
    BitVec.extractLsb'_eq_self, opndOf_opndBits, tyOf_tyCode, rndOf_rndCode, beq_bit1, getLsbD_eq_extractLsb', Option.bind_eq_bind, Option.bind_some, Option.pure_def]

theorem aluToRaw_of_aluOfRaw {r : Raw} {w : Alu} (h : aluOfRaw r = some w) (hres : r.res = 0) : aluToRaw r.opc.toNat w = r := by
  simp only [aluOfRaw, Option.bind_eq_bind, Option.bind_eq_some_iff, Option.pure_def, Option.some.injEq] at h
  obtain ⟨ty, hty, d, hd, a, ha, b, hb, rfl⟩ := h
  refine rawOf_eq hres (opndBits_of_opndOf _ _ hd) (opndBits_of_opndOf _ _ ha) (opndBits_of_opndOf _ _ hb) ?_ rfl
  simp (disch := decide) only [tyCode_of_tyOf _ _ hty, rndCode_rndOf, bit1_getLsbD, BitVec.extractLsb'_append_extractLsb'_eq_extractLsb']
  exact BitVec.extractLsb'_eq_self

theorem memOfRaw_memToRaw (o : Nat) (w : Mem) : memOfRaw (memToRaw o w) = some w := by
  simp (disch := decide) only [memOfRaw, memToRaw, hdr_rawOf]
  simp (disch := decide) only [rawOf, BitVec.extractLsb'_append_eq_of_add_le, BitVec.extractLsb'_append_eq_of_le, Nat.reduceSub,
    BitVec.extractLsb'_eq_self, opndOf_opndBits, spaceOf_spaceCode, widthOf_widthCode, orderOf_orderCode, scopeOf_scopeCode, Option.bind_eq_bind,
    Option.bind_some, Option.pure_def]

theorem memToRaw_of_memOfRaw {r : Raw} {w : Mem} (h : memOfRaw r = some w) (hres : r.res = 0) : memToRaw r.opc.toNat w = r := by
  simp only [memOfRaw, Option.bind_eq_bind, Option.bind_eq_some_iff, Option.pure_def, Option.some.injEq] at h
  obtain ⟨sp, hsp, wd, hwd, od, hod, sc, hsc, d, hd, a, ha, b, hb, rfl⟩ := h
  refine rawOf_eq hres (opndBits_of_opndOf _ _ hd) (opndBits_of_opndOf _ _ ha) (opndBits_of_opndOf _ _ hb) ?_ rfl
  simp (disch := decide) only [spaceCode_of_spaceOf _ _ hsp, widthCode_of_widthOf _ _ hwd, orderCode_of_orderOf _ _ hod, scopeCode_of_scopeOf _ _ hsc,
    BitVec.extractLsb'_append_extractLsb'_eq_extractLsb']
  exact BitVec.extractLsb'_eq_self

theorem ctlOfRaw_ctlToRaw (o : Nat) (w : Ctl) : ctlOfRaw (ctlToRaw o w) = some w := by
  simp only [ctlOfRaw, ctlToRaw, hdr_rawOf]
  simp only [rawOf, opndOf_opndBits, Option.bind_eq_bind, Option.bind_some, Option.pure_def]

theorem ctlToRaw_of_ctlOfRaw {r : Raw} {w : Ctl} (h : ctlOfRaw r = some w) (hres : r.res = 0) : ctlToRaw r.opc.toNat w = r := by
  simp only [ctlOfRaw, Option.bind_eq_bind, Option.bind_eq_some_iff, Option.pure_def, Option.some.injEq] at h
  obtain ⟨d, hd, a, ha, b, hb, rfl⟩ := h
  exact rawOf_eq hres (opndBits_of_opndOf _ _ hd) (opndBits_of_opndOf _ _ ha) (opndBits_of_opndOf _ _ hb) rfl rfl

theorem loopOfRaw_loopToRaw (w : Loop) : loopOfRaw (loopToRaw w) (loopWord2 w) (loopWord3 w) = some w := by
  simp only [loopOfRaw, loopToRaw, hdr_rawOf]
  simp (disch := decide) only [rawOf, loopWord2, loopWord3, BitVec.extractLsb'_append_eq_of_add_le, BitVec.extractLsb'_append_eq_of_le, Nat.reduceSub,
    BitVec.extractLsb'_eq_self, opndOf_opndBits, loopOpOf_loopOpCode, tyOf_tyCode, rndOf_rndCode, padOf_padCode, Option.bind_eq_bind, Option.bind_some,
    Option.pure_def, BitVec.ofNat_eq_ofNat, and_self, if_true]

theorem isExt_loopWord2 (w : Loop) : isExt (loopWord2 w) = true := by
  simp (disch := decide) only [isExt, loopWord2, BitVec.extractLsb'_append_eq_of_le, Nat.reduceSub, BitVec.extractLsb'_eq_self, beq_self_eq_true]

theorem isExt_loopWord3 (w : Loop) : isExt (loopWord3 w) = true := by
  simp (disch := decide) only [isExt, loopWord3, BitVec.extractLsb'_append_eq_of_le, Nat.reduceSub, BitVec.extractLsb'_eq_self, beq_self_eq_true]

theorem loopToRaw_of_loopOfRaw {r : Raw} {w2 w3 : IWord} {w : Loop} (h : loopOfRaw r w2 w3 = some w) (hopc : r.opc.toNat = 0x0C0) (hres : r.res = 0) :
    loopToRaw w = r := by
  simp only [loopOfRaw, Option.bind_eq_bind, Option.bind_eq_some_iff, Option.pure_def] at h
  obtain ⟨d, hd, a, ha, b, hb, op, hop, ty, hty, dsp, hdsp, asp, hasp, bsp, hbsp, h⟩ := h
  split at h
  next hz =>
    obtain ⟨hz, -, -⟩ := hz
    obtain rfl := Option.some.inj h
    rw [loopToRaw, ← hopc]
    refine rawOf_eq hres (opndBits_of_opndOf _ _ hd) (opndBits_of_opndOf _ _ ha) (opndBits_of_opndOf _ _ hb) ?_ ?_
    · simp (disch := decide) only [loopOpCode_of_loopOpOf _ _ hop, tyCode_of_tyOf _ _ hty, rndCode_rndOf, BitVec.extractLsb'_append_extractLsb'_eq_extractLsb']
      exact BitVec.extractLsb'_eq_self
    · simp (disch := decide) only [padCode_of_padOf _ _ hdsp, padCode_of_padOf _ _ hasp, padCode_of_padOf _ _ hbsp, ← BitVec.ofNat_eq_ofNat, ← hz,
        BitVec.extractLsb'_append_extractLsb'_eq_extractLsb']
      exact BitVec.extractLsb'_eq_self
  next => cases h

theorem loopWords_of_loopOfRaw {r : Raw} {w2 w3 : IWord} {w : Loop} (h : loopOfRaw r w2 w3 = some w) (h2 : isExt w2 = true) (h3 : isExt w3 = true) :
    loopWord2 w = w2 ∧ loopWord3 w = w3 := by
  simp only [loopOfRaw, Option.bind_eq_bind, Option.bind_eq_some_iff, Option.pure_def] at h
  obtain ⟨d, hd, a, ha, b, hb, op, hop, ty, hty, dsp, hdsp, asp, hasp, bsp, hbsp, h⟩ := h
  rw [isExt, beq_iff_eq] at h2 h3
  split at h
  next hz =>
    obtain ⟨-, hz2, hz3⟩ : _ ∧ w2.extractLsb' 0 2 = 0#2 ∧ w3.extractLsb' 0 5 = 0#5 := hz
    obtain rfl := Option.some.inj h
    constructor
    · rw [loopWord2, ← h2, ← hz2]
      simp (disch := decide) only [BitVec.extractLsb'_append_extractLsb'_eq_extractLsb']
      exact BitVec.extractLsb'_eq_self
    · rw [loopWord3, ← h3, ← hz3]
      simp (disch := decide) only [BitVec.extractLsb'_append_extractLsb'_eq_extractLsb']
      exact BitVec.extractLsb'_eq_self
  next => cases h

/-! The opcode map, both ways. -/

theorem alu_row {i : Instr} {o : Nat} {w : Alu} (h : bodyOf i = .alu o w) : ∃ mk, lookupOpc aluTable o = some mk ∧ mk w = i := by
  simpa only [Laws.Rows.Statement, h] using Laws.Rows.statement i

theorem mem_row {i : Instr} {o : Nat} {w : Mem} (h : bodyOf i = .mem o w) : ∃ mk, lookupOpc memTable o = some mk ∧ mk w = i := by
  simpa only [Laws.Rows.Statement, h] using Laws.Rows.statement i

theorem ctl_row {i : Instr} {o : Nat} {w : Ctl} (h : bodyOf i = .ctl o w) :
    ∃ mk, lookupOpc ctlTable o = some mk ∧ bodyOf (mk w) = .ctl o w ∧ (Laws.Rows.shared o = false → mk w = i) := by
  simpa only [Laws.Rows.Statement, h] using Laws.Rows.statement i

theorem loop_row {i : Instr} {w : Loop} (h : bodyOf i = .loop w) : i = .loopn w := by
  have hrow : i = .loopn w ∧ (encode i).length = 3 := by simpa only [Laws.Rows.Statement, h] using Laws.Rows.statement i
  exact hrow.1

theorem mem_of_lookupOpc {α : Type} {t : List (Nat × α)} {o : Nat} {x : α} (h : lookupOpc t o = some x) : (o, x) ∈ t := by
  obtain ⟨p, hp, rfl⟩ := Option.map_eq_some_iff.mp h
  obtain rfl : p.1 = o := beq_iff_eq.mp (List.find?_some (p := fun r : Nat × α => r.1 == o) hp)
  exact List.mem_of_find?_eq_some hp

theorem bodyOf_of_mem_aluTable {p : Nat × (Alu → Instr)} (hp : p ∈ aluTable) (w : Alu) : bodyOf (p.2 w) = .alu p.1 w := by
  have hmap : aluTable.map (fun p w => bodyOf (p.2 w)) = aluTable.map (fun p w => .alu p.1 w) := rfl
  exact congrFun (List.map_inj_left.mp hmap p hp) w

theorem bodyOf_of_mem_memTable {p : Nat × (Mem → Instr)} (hp : p ∈ memTable) (w : Mem) : bodyOf (p.2 w) = .mem p.1 w := by
  have hmap : memTable.map (fun p w => bodyOf (p.2 w)) = memTable.map (fun p w => .mem p.1 w) := rfl
  exact congrFun (List.map_inj_left.mp hmap p hp) w

theorem bodyOf_of_mem_ctlTable {p : Nat × (Ctl → Instr)} (hp : p ∈ ctlTable) (w : Ctl) : bodyOf (p.2 w) = .ctl p.1 w := by
  have hmap : ctlTable.map (fun p w => bodyOf (p.2 w)) = ctlTable.map (fun p w => .ctl p.1 w) := rfl
  exact congrFun (List.map_inj_left.mp hmap p hp) w

/-- The opcodes of the ALU and memory rows are no sequencer's, no LOOPN's and no extension word's. -/
theorem aluTable_opcodes : ∀ p ∈ aluTable, p.1 < 1024 ∧ p.1 ≠ 0x3FF ∧ p.1 ≠ 0x0C0 ∧ seqOpc p.1 = false := by decide
theorem memTable_opcodes : ∀ p ∈ memTable, p.1 < 1024 ∧ p.1 ≠ 0x3FF ∧ p.1 ≠ 0x0C0 ∧ seqOpc p.1 = false ∧ lookupOpc aluTable p.1 = none := by decide +kernel
theorem ctlTable_opcodes : ∀ p ∈ ctlTable, p.1 < 1024 ∧ p.1 ≠ 0x3FF ∧ p.1 ≠ 0x0C0 ∧ lookupOpc aluTable p.1 = none ∧ lookupOpc memTable p.1 = none := by
  decide +kernel
/-! The decoder of one word. -/

theorem lookupOpc_some_any {α : Type} {t : List (Nat × α)} {o : Nat} {x : α} (h : lookupOpc t o = some x) : t.any (fun r => r.1 == o) = true :=
  List.any_eq_true.mpr ⟨_, mem_of_lookupOpc h, beq_self_eq_true o⟩

theorem lookupOpc_none_any {α : Type} {t : List (Nat × α)} {o : Nat} (h : lookupOpc t o = none) : t.any (fun r => r.1 == o) = false := by
  rw [lookupOpc, Option.map_eq_none_iff, List.find?_eq_none] at h
  exact List.any_eq_false.mpr h

theorem accept_eq_ok {j : Option Instr} {i : Instr} : accept j = .ok i ↔ j = some i ∧ i.wf = true := by
  cases j with
  | none => simp [accept]
  | some k => by_cases hk : k.wf = true <;> grind [accept]

theorem decodeWords_cons {sq : Bool} {w : IWord} {o : Nat} (ws : List IWord) (ho : (Raw.ofWord w).opc.toNat = o) (hext : o ≠ 0x3FF)
    (hall : allocated o = true) (hseq : seqOpc o = sq) (hloop : o ≠ 0x0C0) :
    decodeWords sq (w :: ws) = (decodeRaw (Raw.ofWord w)).map (fun i => (i, 1)) := by
  simp only [decodeWords, ho, hext, if_false, hall, Bool.not_true, Bool.false_eq_true, hseq, bne_self_eq_false, hloop]

theorem decodeRaw_alu {r : Raw} {o : Nat} {mk : Alu → Instr} (ho : r.opc.toNat = o) (hres : r.res = 0) (h : lookupOpc aluTable o = some mk) :
    decodeRaw r = accept ((aluOfRaw r).map mk) := by
  simp only [decodeRaw, hres, ne_eq, not_true_eq_false, if_false, ho, h]

theorem decodeRaw_mem {r : Raw} {o : Nat} {mk : Mem → Instr} (ho : r.opc.toNat = o) (hres : r.res = 0) (h : lookupOpc memTable o = some mk) :
    decodeRaw r = accept ((memOfRaw r).map mk) := by
  obtain ⟨-, -, -, -, halu⟩ := memTable_opcodes _ (mem_of_lookupOpc h)
  simp only [decodeRaw, hres, ne_eq, not_true_eq_false, if_false, ho, h, halu]

/-- The constructor of a CTL word: LANDC is told apart by its ROLE bit (Table 13-4). -/
def ctlOf (o : Nat) (mk : Ctl → Instr) : Ctl → Instr := if o = 0x271 then landcOf else mk

theorem decodeRaw_ctl {r : Raw} {o : Nat} {mk : Ctl → Instr} (ho : r.opc.toNat = o) (hres : r.res = 0) (h : lookupOpc ctlTable o = some mk) :
    decodeRaw r = accept ((ctlOfRaw r).map (ctlOf o mk)) := by
  obtain ⟨-, -, -, halu, hmem⟩ := ctlTable_opcodes _ (mem_of_lookupOpc h)
  simp only [decodeRaw, hres, ne_eq, not_true_eq_false, if_false, ho, h, halu, hmem, ctlOf]
  split <;> rfl

theorem opc_rawOf {o : Nat} {h : Hdr} {d a b : BitVec 10} {m : BitVec 12} {imm : BitVec 32} (ho : o < 1024) : (rawOf o h d a b m imm).opc.toNat = o := by
  rw [rawOf, BitVec.toNat_ofNat, Nat.mod_eq_of_lt ho]

theorem allocated_of_alu {o : Nat} {mk : Alu → Instr} (h : lookupOpc aluTable o = some mk) : allocated o = true := by
  simp only [allocated, lookupOpc_some_any h, Bool.or_true, Bool.true_or]

theorem allocated_of_mem {o : Nat} {mk : Mem → Instr} (h : lookupOpc memTable o = some mk) : allocated o = true := by
  simp only [allocated, lookupOpc_some_any h, Bool.or_true, Bool.true_or]

theorem allocated_of_ctl {o : Nat} {mk : Ctl → Instr} (h : lookupOpc ctlTable o = some mk) : allocated o = true := by
  simp only [allocated, lookupOpc_some_any h, Bool.or_true]

theorem encode_of_alu {i : Instr} {o : Nat} {w : Alu} (h : bodyOf i = .alu o w) : encode i = [(aluToRaw o w).toWord] := by rw [encode, h]

theorem encode_of_mem {i : Instr} {o : Nat} {w : Mem} (h : bodyOf i = .mem o w) : encode i = [(memToRaw o w).toWord] := by rw [encode, h]

theorem encode_of_ctl {i : Instr} {o : Nat} {w : Ctl} (h : bodyOf i = .ctl o w) : encode i = [(ctlToRaw o w).toWord] := by rw [encode, h]

theorem inSeq_of_alu {i : Instr} {o : Nat} {w : Alu} (h : bodyOf i = .alu o w) : inSeq i = false := by rw [inSeq, h]

theorem inSeq_of_mem {i : Instr} {o : Nat} {w : Mem} (h : bodyOf i = .mem o w) : inSeq i = false := by rw [inSeq, h]

theorem inSeq_of_ctl {i : Instr} {o : Nat} {w : Ctl} (h : bodyOf i = .ctl o w) : inSeq i = seqOpc o := by rw [inSeq, h]

theorem decodeWords_alu {i : Instr} {o : Nat} {w : Alu} (rest : List IWord) (h : bodyOf i = .alu o w) (hwf : i.wf = true) :
    decodeWords false ((aluToRaw o w).toWord :: rest) = .ok (i, 1) := by
  obtain ⟨mk, hmk, hi⟩ := alu_row h
  obtain ⟨hlt, hext, hloop, hseq⟩ := aluTable_opcodes _ (mem_of_lookupOpc hmk)
  have ho : (aluToRaw o w).opc.toNat = o := opc_rawOf hlt
  rw [decodeWords_cons rest ((congrArg (·.opc.toNat) (Raw.ofWord_toWord _)).trans ho) hext (allocated_of_alu hmk) hseq hloop, Raw.ofWord_toWord,
    decodeRaw_alu ho rfl hmk, aluOfRaw_aluToRaw, Option.map_some, hi, accept_eq_ok.mpr ⟨rfl, hwf⟩]
  rfl

theorem decodeWords_mem {i : Instr} {o : Nat} {w : Mem} (rest : List IWord) (h : bodyOf i = .mem o w) (hwf : i.wf = true) :
    decodeWords false ((memToRaw o w).toWord :: rest) = .ok (i, 1) := by
  obtain ⟨mk, hmk, hi⟩ := mem_row h
  obtain ⟨hlt, hext, hloop, hseq, -⟩ := memTable_opcodes _ (mem_of_lookupOpc hmk)
  have ho : (memToRaw o w).opc.toNat = o := opc_rawOf hlt
  rw [decodeWords_cons rest ((congrArg (·.opc.toNat) (Raw.ofWord_toWord _)).trans ho) hext (allocated_of_mem hmk) hseq hloop, Raw.ofWord_toWord,
    decodeRaw_mem ho rfl hmk, memOfRaw_memToRaw, Option.map_some, hi, accept_eq_ok.mpr ⟨rfl, hwf⟩]
  rfl

/-- The instruction that the word of i decodes to: i, but for TRACE_FLUSH, which is a CSRW (R418). -/
def wordOf (i : Instr) : Instr :=
  match i with
  | .traceFlush w => .csrw w
  | j => j

theorem roleOk_of_wf {i : Instr} (h : i.wf = true) : roleOk i = true := (Bool.and_eq_true_iff.mp h).2

theorem wordOf_of_ne {i : Instr} (h : ∀ w, i ≠ .traceFlush w) : wordOf i = i := by
  cases i with
  | traceFlush v => exact absurd rfl (h v)
  | _ => rfl

theorem wordOf_of_not_shared {i : Instr} {o : Nat} {w : Ctl} (h : bodyOf i = .ctl o w) (hs : Laws.Rows.shared o = false) : wordOf i = i :=
  wordOf_of_ne (by rintro v rfl; cases h; cases hs)

theorem landc_of_body {i : Instr} {w : Ctl} (h : bodyOf i = .ctl 0x271 w) : i = .landcArm w ∨ i = .landcPut w := by
  cases i with
  | landcArm v => cases h; exact .inl rfl
  | landcPut v => cases h; exact .inr rfl
  | _ => cases h

theorem csrw_of_body {i : Instr} {w : Ctl} (h : bodyOf i = .ctl 0x194 w) : i = .csrw w ∨ i = .traceFlush w := by
  cases i with
  | csrw v => cases h; exact .inl rfl
  | traceFlush v => cases h; exact .inr rfl
  | _ => cases h

theorem landcOf_eq {i : Instr} {w : Ctl} (h : bodyOf i = .ctl 0x271 w) (hrole : roleOk i = true) : landcOf w = i := by
  rcases landc_of_body h with rfl | rfl
  · exact if_neg (ne_true_of_eq_false (by simpa only [roleOk, Bool.not_eq_true'] using hrole))
  · exact if_pos hrole

/-- The opcodes that two instructions share name the instruction by the word. -/
theorem ctlOf_eq_wordOf {i : Instr} {o : Nat} {w : Ctl} {mk : Ctl → Instr} (h : bodyOf i = .ctl o w) (hrole : roleOk i = true)
    (hmk : lookupOpc ctlTable o = some mk) (hi : Laws.Rows.shared o = false → mk w = i) : ctlOf o mk w = wordOf i := by
  cases hs : Laws.Rows.shared o with
  | false =>
    have ho : o ≠ 0x271 := by rintro rfl; cases hs
    rw [wordOf_of_not_shared h hs, ctlOf, if_neg ho, hi hs]
  | true =>
    simp only [Laws.Rows.shared, Bool.or_eq_true, beq_iff_eq] at hs
    rcases hs with rfl | rfl
    · rw [ctlOf, if_pos rfl, landcOf_eq h hrole]
      rcases landc_of_body h with rfl | rfl <;> rfl
    · cases hmk
      rcases csrw_of_body h with rfl | rfl <;> rfl

theorem wordOf_wf {i : Instr} (h : i.wf = true) : (wordOf i).wf = true := by
  cases i with
  | traceFlush v =>
    obtain ⟨hgood, -⟩ := Bool.and_eq_true_iff.mp h
    exact Bool.and_eq_true_iff.mpr ⟨hgood, rfl⟩
  | _ => exact h

theorem decodeWords_ctl {i : Instr} {o : Nat} {w : Ctl} (rest : List IWord) (h : bodyOf i = .ctl o w) (hwf : i.wf = true) :
    decodeWords (seqOpc o) ((ctlToRaw o w).toWord :: rest) = .ok (wordOf i, 1) := by
  obtain ⟨mk, hmk, -, hi⟩ := ctl_row h
  obtain ⟨hlt, hext, hloop, -⟩ := ctlTable_opcodes _ (mem_of_lookupOpc hmk)
  have ho : (ctlToRaw o w).opc.toNat = o := opc_rawOf hlt
  rw [decodeWords_cons rest ((congrArg (·.opc.toNat) (Raw.ofWord_toWord _)).trans ho) hext (allocated_of_ctl hmk) rfl hloop, Raw.ofWord_toWord,
    decodeRaw_ctl ho rfl hmk, ctlOfRaw_ctlToRaw, Option.map_some, ctlOf_eq_wordOf h (roleOk_of_wf hwf) hmk hi, accept_eq_ok.mpr ⟨rfl, wordOf_wf hwf⟩]
  rfl

theorem decodeWords_loop {w : Loop} (rest : List IWord) (hwf : (Instr.loopn w).wf = true) :
    decodeWords false ((loopToRaw w).toWord :: loopWord2 w :: loopWord3 w :: rest) = .ok (.loopn w, 3) := by
  have ho : (loopToRaw w).opc.toNat = 0x0C0 := opc_rawOf (by decide)
  have hres : (loopToRaw w).res = 0 := rfl
  have hseq : seqOpc 0x0C0 = false := by decide
  have hall : allocated 0x0C0 = true := by decide
  simp only [decodeWords, Raw.ofWord_toWord, ho, hres, hall, hseq, isExt_loopWord2, isExt_loopWord3, loopOfRaw_loopToRaw, Option.map_some,
    accept_eq_ok.mpr ⟨rfl, hwf⟩]
  rfl

/-- Every well-formed word of a stream decodes to its instruction, whatever words follow it. -/
theorem decodeWords_encode (i : Instr) (rest : List IWord) (hwf : i.wf = true) (hne : encode i ≠ []) :
    decodeWords (inSeq i) (encode i ++ rest) = .ok (wordOf i, (encode i).length) := by
  cases h : bodyOf i with
  | alu o w =>
    have hi : wordOf i = i := wordOf_of_ne (by rintro v rfl; cases h)
    rw [encode_of_alu h, inSeq_of_alu h, hi]
    exact decodeWords_alu rest h hwf
  | mem o w =>
    have hi : wordOf i = i := wordOf_of_ne (by rintro v rfl; cases h)
    rw [encode_of_mem h, inSeq_of_mem h, hi]
    exact decodeWords_mem rest h hwf
  | ctl o w =>
    rw [encode_of_ctl h, inSeq_of_ctl h]
    exact decodeWords_ctl rest h hwf
  | loop w =>
    obtain rfl := loop_row h
    exact decodeWords_loop rest hwf
  | step => exact absurd (by rw [encode, h]) hne

/-! The decoder's answers encode back. -/

theorem decodeRaw_ok {r : Raw} {i : Instr} (h : decodeRaw r = .ok i) : i.wf = true ∧ inSeq i = seqOpc r.opc.toNat ∧ encode i = [r.toWord] := by
  have hres : r.res = 0 := by
    by_contra hne
    simp only [decodeRaw, hne, ne_eq, not_false_eq_true, if_true, reduceCtorEq] at h
  cases halu : lookupOpc aluTable r.opc.toNat with
  | some mk =>
    rw [decodeRaw_alu rfl hres halu, accept_eq_ok] at h
    obtain ⟨hmap, hwf⟩ := h
    obtain ⟨w, hw, rfl⟩ := Option.map_eq_some_iff.mp hmap
    have hbody := bodyOf_of_mem_aluTable (mem_of_lookupOpc halu) w
    obtain ⟨-, -, -, hseq⟩ := aluTable_opcodes _ (mem_of_lookupOpc halu)
    exact ⟨hwf, (inSeq_of_alu hbody).trans hseq.symm, by rw [encode_of_alu hbody, aluToRaw_of_aluOfRaw hw hres]⟩
  | none => cases hmem : lookupOpc memTable r.opc.toNat with
    | some mk =>
      rw [decodeRaw_mem rfl hres hmem, accept_eq_ok] at h
      obtain ⟨hmap, hwf⟩ := h
      obtain ⟨w, hw, rfl⟩ := Option.map_eq_some_iff.mp hmap
      have hbody := bodyOf_of_mem_memTable (mem_of_lookupOpc hmem) w
      obtain ⟨-, -, -, hseq, -⟩ := memTable_opcodes _ (mem_of_lookupOpc hmem)
      exact ⟨hwf, (inSeq_of_mem hbody).trans hseq.symm, by rw [encode_of_mem hbody, memToRaw_of_memOfRaw hw hres]⟩
    | none => cases hctl : lookupOpc ctlTable r.opc.toNat with
      | some mk =>
        rw [decodeRaw_ctl rfl hres hctl, accept_eq_ok] at h
        obtain ⟨hmap, hwf⟩ := h
        obtain ⟨w, hw, rfl⟩ := Option.map_eq_some_iff.mp hmap
        have hbody : bodyOf (ctlOf r.opc.toNat mk w) = .ctl r.opc.toNat w := by
          rw [ctlOf]
          split
          next ho => rw [ho, landcOf]; split <;> rfl
          next => exact bodyOf_of_mem_ctlTable (mem_of_lookupOpc hctl) w
        exact ⟨hwf, inSeq_of_ctl hbody, by rw [encode_of_ctl hbody, ctlToRaw_of_ctlOfRaw hw hres]⟩
      | none =>
        have ho : r.opc.toNat ≠ 0x271 := by intro ho; rw [ho] at hctl; cases hctl
        simp only [decodeRaw, hres, halu, hmem, hctl, ho, ne_eq, not_true_eq_false, if_false, reduceCtorEq] at h

theorem except_map_eq_ok {ε α β : Type} {f : α → β} {x : Except ε α} {y : β} : x.map f = .ok y ↔ ∃ a, x = .ok a ∧ f a = y := by
  cases x <;> simp [Except.map]

theorem decodeWords_ok {sq : Bool} {ws : List IWord} {i : Instr} {n : Nat} (h : decodeWords sq ws = .ok (i, n)) :
    i.wf = true ∧ inSeq i = sq ∧ encode i = ws.take n ∧ 0 < n ∧ n ≤ ws.length := by
  cases ws with
  | nil => cases h
  | cons w rest =>
    simp only [decodeWords] at h
    split at h
    · cases h
    split at h
    · cases h
    split at h
    · cases h
    next hseq =>
    have hsq : seqOpc (Raw.ofWord w).opc.toNat = sq := by simpa using hseq
    split at h
    next hloop =>
      split at h
      next w2 w3 ws =>
        split at h
        · cases h
        next hext =>
        split at h
        · cases h
        next hres =>
        obtain ⟨j, hj, hjn⟩ := except_map_eq_ok.mp h
        obtain ⟨rfl, rfl⟩ := Prod.mk.inj hjn
        obtain ⟨hmap, hwf⟩ := accept_eq_ok.mp hj
        obtain ⟨v, hv, rfl⟩ := Option.map_eq_some_iff.mp hmap
        obtain ⟨hx2, hx3⟩ : isExt w2 = true ∧ isExt w3 = true := by simpa using hext
        have hw := loopToRaw_of_loopOfRaw hv hloop (not_not.mp hres)
        obtain ⟨hw2, hw3⟩ := loopWords_of_loopOfRaw hv hx2 hx3
        refine ⟨hwf, ?_, ?_, by decide, by simp⟩
        · rw [← hsq, hloop]; rfl
        · simp only [encode, bodyOf, hw, hw2, hw3, Raw.toWord_ofWord, List.take]
      next => cases h
    next =>
      obtain ⟨j, hj, hjn⟩ := except_map_eq_ok.mp h
      obtain ⟨rfl, rfl⟩ := Prod.mk.inj hjn
      obtain ⟨hwf, hin, henc⟩ := decodeRaw_ok hj
      exact ⟨hwf, hin.trans hsq, by rw [henc, Raw.toWord_ofWord]; rfl, by decide, by simp⟩

/-! Micro-ops and packets. -/

theorem eq_of_toNat {n : Nat} {x : BitVec n} {k : Nat} (h : x.toNat = k) : x = BitVec.ofNat n k := by
  rw [← h, BitVec.ofNat_toNat, BitVec.setWidth_eq]

theorem wf_of_step {i : Instr} (h : bodyOf i = .step) (hrole : roleOk i = true) : i.wf = true := by
  rw [Instr.wf, h, hrole]
  decide

/-- A well-formed micro-op decodes to itself. -/
theorem decodeUop_encodeUop {u : BitVec 64} {i : Instr} (hwf : i.wf = true) (h : encodeUop i = some u) : decodeUop u = .ok i := by
  cases i with
  | cntset | agset | piccoloSld | dq | trn | push | nextOp | endOp =>
    obtain rfl := Option.some.inj h
    simp (disch := decide) only [decodeUop, BitVec.extractLsb'_append_eq_of_add_le, BitVec.extractLsb'_append_eq_of_le, Nat.reduceSub,
      BitVec.extractLsb'_eq_self, ↓reduceIte, BitVec.reduceToNat, Nat.reduceEqDiff, picOf_picCode, accept_eq_ok.mpr ⟨rfl, hwf⟩, BitVec.ofNat_eq_ofNat,
      and_self]
  | _ => cases h

/-- What a micro-op decodes to is well formed and encodes back to its bits: the fields that it does not use are zero. -/
theorem decodeUop_ok {u : BitVec 64} {i : Instr} (h : decodeUop u = .ok i) : i.wf = true ∧ encodeUop i = some u := by
  simp only [decodeUop, BitVec.ofNat_eq_ofNat] at h
  split at h
  next hop =>
    split at h
    next hz =>
      cases h
      refine ⟨rfl, congrArg some ?_⟩
      simp (disch := decide) only [← eq_of_toNat hop, ← hz, BitVec.extractLsb'_append_extractLsb'_eq_extractLsb', BitVec.extractLsb'_eq_self]
    next => cases h
  next =>
  split at h
  next hop =>
    split at h
    next hz =>
      cases h
      refine ⟨rfl, congrArg some ?_⟩
      simp (disch := decide) only [← eq_of_toNat hop, ← hz, BitVec.extractLsb'_append_extractLsb'_eq_extractLsb', BitVec.extractLsb'_eq_self]
    next => cases h
  next =>
  split at h
  next hop =>
    split at h
    next => cases h
    next sp hsp =>
    split at h
    next hz =>
      cases h
      refine ⟨rfl, congrArg some ?_⟩
      simp (disch := decide) only [← eq_of_toNat hop, ← hz, picCode_of_picOf _ _ hsp, BitVec.extractLsb'_append_extractLsb'_eq_extractLsb', BitVec.extractLsb'_eq_self]
    next => cases h
  next =>
  split at h
  next hop =>
    split at h
    next hz =>
      obtain ⟨hz, hz48⟩ := hz
      cases h
      refine ⟨rfl, congrArg some ?_⟩
      simp (disch := decide) only [← eq_of_toNat hop, ← hz, ← hz48, BitVec.extractLsb'_append_extractLsb'_eq_extractLsb', BitVec.extractLsb'_eq_self]
    next => cases h
  next =>
  split at h
  next hop =>
    split at h
    next hz =>
      cases h
      refine ⟨rfl, congrArg some ?_⟩
      simp (disch := decide) only [← eq_of_toNat hop, ← hz, BitVec.extractLsb'_append_extractLsb'_eq_extractLsb', BitVec.extractLsb'_eq_self]
    next => cases h
  next =>
  split at h
  next hop =>
    split at h
    next hz =>
      cases h
      refine ⟨rfl, congrArg some ?_⟩
      simp (disch := decide) only [← eq_of_toNat hop, ← hz, BitVec.extractLsb'_append_extractLsb'_eq_extractLsb', BitVec.extractLsb'_eq_self]
    next => cases h
  next =>
  split at h
  next hop =>
    split at h
    next hz =>
      obtain ⟨hi, hwf⟩ := accept_eq_ok.mp h
      cases hi
      refine ⟨hwf, congrArg some ?_⟩
      simp (disch := decide) only [← eq_of_toNat hop, ← hz, BitVec.extractLsb'_append_extractLsb'_eq_extractLsb', BitVec.extractLsb'_eq_self]
    next => cases h
  next =>
  split at h
  next hop =>
    split at h
    next hz =>
      cases h
      refine ⟨rfl, congrArg some ?_⟩
      simp (disch := decide) only [← eq_of_toNat hop, ← hz, BitVec.extractLsb'_append_extractLsb'_eq_extractLsb', BitVec.extractLsb'_eq_self]
    next => cases h
  next =>
  cases h

/-- A well-formed packet decodes to itself, with its SEQ. -/
theorem decodePacket_encodePacket {b : BitVec 512} {q : BitVec 32} {i : Instr} (hwf : i.wf = true) (h : encodePacket q i = some b) :
    decodePacket b = .ok i ∧ packetSeq b = q := by
  cases i with
  | launch | barrier | signal | cancel | preempt | buffer =>
    obtain rfl := Option.some.inj h
    simp (disch := decide) only [decodePacket, packetSeq, getLsbD_eq_extractLsb', BitVec.extractLsb'_append_eq_of_add_le,
      BitVec.extractLsb'_append_eq_of_le, Nat.reduceSub, BitVec.extractLsb'_eq_self, ↓reduceIte, BitVec.reduceToNat, Nat.reduceEqDiff,
      accept_eq_ok.mpr ⟨rfl, hwf⟩, BitVec.ofNat_eq_ofNat, beq_self_eq_true, Bool.and_self, show ∀ c : Bool, (bit1 c == 1#1) = c from beq_bit1, and_self]
  | _ => cases h

/-- What a packet decodes to is well formed and encodes back to its bytes: the bytes that its type does not use are zero. -/
theorem decodePacket_ok {b : BitVec 512} {i : Instr} (h : decodePacket b = .ok i) : i.wf = true ∧ encodePacket (packetSeq b) i = some b := by
  simp only [decodePacket, BitVec.ofNat_eq_ofNat, Bool.and_eq_true, beq_iff_eq] at h
  split at h
  next hop =>
    split at h
    next hz =>
      obtain ⟨⟨hz8, hz32⟩, hz160⟩ := hz
      obtain ⟨hi, hwf⟩ := accept_eq_ok.mp h
      cases hi
      refine ⟨hwf, congrArg some ?_⟩
      nth_rewrite 1 [← hz160]
      simp (disch := decide) only [packetSeq, ← eq_of_toNat hop, ← hz8, ← hz32, BitVec.extractLsb'_append_extractLsb'_eq_extractLsb', BitVec.extractLsb'_eq_self]
    next => cases h
  next =>
  split at h
  next hop =>
    split at h
    next hz =>
      cases h
      refine ⟨rfl, congrArg some ?_⟩
      simp (disch := decide) only [packetSeq, ← eq_of_toNat hop, ← hz, BitVec.extractLsb'_append_extractLsb'_eq_extractLsb', BitVec.extractLsb'_eq_self]
    next => cases h
  next =>
  split at h
  next hop =>
    split at h
    next hz =>
      obtain ⟨hz8, hz192⟩ := hz
      cases h
      refine ⟨rfl, congrArg some ?_⟩
      simp (disch := decide) only [packetSeq, ← eq_of_toNat hop, ← hz8, ← hz192, BitVec.extractLsb'_append_extractLsb'_eq_extractLsb', BitVec.extractLsb'_eq_self]
    next => cases h
  next =>
  split at h
  next hop =>
    split at h
    next hz =>
      obtain ⟨⟨hz10, hz80⟩, hz256⟩ := hz
      cases h
      refine ⟨rfl, congrArg some ?_⟩
      simp (disch := decide) only [packetSeq, ← eq_of_toNat hop, ← hz10, ← hz80, ← hz256, bit1_getLsbD, BitVec.extractLsb'_append_extractLsb'_eq_extractLsb', BitVec.extractLsb'_eq_self]
    next => cases h
  next =>
  split at h
  next hop =>
    split at h
    next hz =>
      obtain ⟨hz9, hz80⟩ := hz
      cases h
      refine ⟨rfl, congrArg some ?_⟩
      simp (disch := decide) only [packetSeq, ← eq_of_toNat hop, ← hz9, ← hz80, bit1_getLsbD, BitVec.extractLsb'_append_extractLsb'_eq_extractLsb', BitVec.extractLsb'_eq_self]
    next => cases h
  next =>
  split at h
  next hop =>
    split at h
    next hz =>
      obtain ⟨⟨hz8, hz78⟩, hz256⟩ := hz
      cases h
      refine ⟨rfl, congrArg some ?_⟩
      simp (disch := decide) only [packetSeq, ← eq_of_toNat hop, ← hz8, ← hz78, ← hz256, bit1_getLsbD, BitVec.extractLsb'_append_extractLsb'_eq_extractLsb', BitVec.extractLsb'_eq_self]
    next => cases h
  next =>
  cases h

/-- Settles O1: the words of a stream by the opcode map and the fields' round trips, micro-ops and packets by their layouts. -/
theorem encodeDecodeRoundTrip : Obligations.EncodeDecodeRoundTrip :=
  ⟨decodeWords_encode, fun _ _ _ _ => decodeWords_ok, fun _ _ => decodeUop_ok, fun _ _ => decodeUop_encodeUop, fun _ _ => decodePacket_ok,
    fun _ _ _ => decodePacket_encodePacket⟩

/-! What the decoder rejects. -/

theorem decodeWords_extension {sq : Bool} {w : IWord} {ws : List IWord} (h : (Raw.ofWord w).opc.toNat = 0x3FF) :
    decodeWords sq (w :: ws) = .error .extension := by
  simp only [decodeWords, h, if_true]

theorem decodeWords_unallocated {sq : Bool} {w : IWord} {ws : List IWord} (hext : (Raw.ofWord w).opc.toNat ≠ 0x3FF)
    (hall : allocated (Raw.ofWord w).opc.toNat = false) : decodeWords sq (w :: ws) = .error .opcode := by
  simp only [decodeWords, hext, hall, if_false, Bool.not_false, if_true]

theorem decodeWords_stream {sq : Bool} {w : IWord} {ws : List IWord} (hext : (Raw.ofWord w).opc.toNat ≠ 0x3FF)
    (hall : allocated (Raw.ofWord w).opc.toNat = true) (hseq : seqOpc (Raw.ofWord w).opc.toNat ≠ sq) : decodeWords sq (w :: ws) = .error .stream := by
  simp only [decodeWords, hext, hall, if_false, Bool.not_true, Bool.false_eq_true, bne_iff_ne.mpr hseq, if_true]

theorem decodeWords_incomplete {w : IWord} {ws : List IWord} (ho : (Raw.ofWord w).opc.toNat = 0x0C0)
    (h : ws.length < 2 ∨ ∃ a b r, ws = a :: b :: r ∧ (isExt a && isExt b) = false) : decodeWords false (w :: ws) = .error .incomplete := by
  have hall : allocated 0x0C0 = true := by decide
  have hseq : seqOpc 0x0C0 = false := by decide
  have hne : (0x0C0 : Nat) ≠ 0x3FF := by decide
  simp only [decodeWords, ho, hne, hall, hseq, if_false, Bool.not_true, Bool.false_eq_true, bne_self_eq_false, if_true]
  rcases h with hlen | ⟨a, b, r, rfl, hab⟩
  · match ws, hlen with
    | [], _ => rfl
    | [_], _ => rfl
  · simp only [hab, Bool.not_false, if_true]

theorem decodeRaw_header {r : Raw} (h : r.res ≠ 0) : decodeRaw r = .error .header := by
  simp only [decodeRaw, h, ne_eq, not_false_eq_true, if_true]

theorem spaceOf_eq_none : ∀ b : BitVec 3, 5 ≤ b.toNat → spaceOf b = none := by decide
theorem widthOf_eq_none : ∀ b : BitVec 3, 5 ≤ b.toNat → widthOf b = none := by decide
theorem orderOf_eq_none : ∀ b : BitVec 3, 5 ≤ b.toNat → orderOf b = none := by decide
theorem scopeOf_eq_none : ∀ b : BitVec 3, 7 ≤ b.toNat → scopeOf b = none := by decide

/-- A field of a word's MOD, as a field of the word. -/
theorem extractLsb'_mod (w : IWord) {i n : Nat} (h : i + n ≤ 12) : (Raw.ofWord w).mod.extractLsb' i n = w.extractLsb' (32 + i) n := by
  ext j hj
  simp only [Raw.ofWord, BitVec.getElem_extractLsb', BitVec.getLsbD_extractLsb', decide_eq_true (show i + j < 12 by omega), Bool.true_and, Nat.add_assoc]

/-- Operand numbers that Table 2-2 leaves out. -/
theorem opndOf_eq_none : ∀ f : BitVec 10, opndOf f = none ↔ (144 ≤ f.toNat ∧ f.toNat < 256) ∨ (320 ≤ f.toNat ∧ f.toNat < 512) := by
  decide +kernel

theorem memOfRaw_eq_none {w : IWord} (h : 5 ≤ (w.extractLsb' 41 3).toNat ∨ 5 ≤ (w.extractLsb' 38 3).toNat ∨ 5 ≤ (w.extractLsb' 35 3).toNat ∨
    7 ≤ (w.extractLsb' 32 3).toNat) : memOfRaw (Raw.ofWord w) = none := by
  simp (disch := decide) only [memOfRaw, extractLsb'_mod, Option.bind_eq_bind, Option.pure_def, Nat.reduceAdd]
  rcases h with h | h | h | h
  · simp only [spaceOf_eq_none _ h, Option.bind_none]
  · simp only [widthOf_eq_none _ h, Option.bind_none, Option.bind_fun_none]
  · simp only [orderOf_eq_none _ h, Option.bind_none, Option.bind_fun_none]
  · simp only [scopeOf_eq_none _ h, Option.bind_none, Option.bind_fun_none]

theorem aluOfRaw_eq_none {w : IWord} (h : tyOf (w.extractLsb' 40 4) = none ∨ opndOf (w.extractLsb' 64 10) = none ∨ opndOf (w.extractLsb' 54 10) = none ∨
    opndOf (w.extractLsb' 44 10) = none) : aluOfRaw (Raw.ofWord w) = none := by
  simp (disch := decide) only [aluOfRaw, extractLsb'_mod, Option.bind_eq_bind, Option.pure_def, Nat.reduceAdd]
  rcases h with h | h | h | h <;> simp only [Raw.ofWord, h, Option.bind_none, Option.bind_fun_none]

/-- Settles O2: the decoder's checks in their order. -/
theorem rejectedWords : Obligations.RejectedWords := by
  refine ⟨fun sq => rfl, ?_⟩
  intro sq w ws o
  refine ⟨decodeWords_extension, decodeWords_unallocated, fun hall hext hseq => decodeWords_stream hext hall hseq, ?_, ?_, ?_, ?_, opndOf_eq_none⟩
  · rintro ho rfl h
    exact decodeWords_incomplete ho h
  · intro hall hseq hloop hext hres
    rw [decodeWords_cons ws rfl hext hall hseq hloop, decodeRaw_header hres]
    rfl
  · rintro mk hmk rfl hres hfield
    obtain ⟨-, hext, hloop, hseq, -⟩ := memTable_opcodes _ (mem_of_lookupOpc hmk)
    rw [decodeWords_cons ws rfl hext (allocated_of_mem hmk) hseq hloop, decodeRaw_mem rfl hres hmk, memOfRaw_eq_none hfield]
    rfl
  · rintro mk hmk rfl hres hfield
    obtain ⟨-, hext, hloop, hseq⟩ := aluTable_opcodes _ (mem_of_lookupOpc hmk)
    rw [decodeWords_cons ws rfl hext (allocated_of_alu hmk) hseq hloop, decodeRaw_alu rfl hres hmk, aluOfRaw_eq_none hfield]
    rfl

set_option maxRecDepth 4000 in
/-- Settles O3: the decoder runs on each word. -/
theorem writtenWordsDecode : Obligations.WrittenWordsDecode := by
  refine ⟨?_, ?_, ?_, ?_, ?_⟩ <;> decide +kernel

end Sys2Proof.Machine
end

section
/-! SUPPORT of O7. What becomes of a group word before its effect. -/

namespace Sys2Proof.Machine

variable {b : Body} {n : Nat} {s : State} {eff : Nat → Bool → Group → Run → State → State} {gid : Nat} {second : Bool} {g : Group} {r : Run}

theorem State.advance_eq (h : s.grp gid = some g) : s.advance gid second n = s.setGrp gid (g.moved second n) := State.modGrp_eq s gid g _ h

/-- A word whose fields its row does not accept, in a context that may run it, traps ILLOP (R41). -/
theorem groupWord_bad (h : Asked s gid second g r) (hp : privBody b = true → g.priv = true) (hb : b.good = false) :
    groupWord b n s eff = .next (s.trapPlain gid r .illop) := by
  have hp : (privBody b && !g.priv) = false := by
    cases hb : privBody b with
    | false => rfl
    | true => rw [hp hb]; rfl
  simp only [groupWord, h.issuer, h.here, h.run, hp, hb, Bool.false_eq_true, if_false]

theorem guardTrue_iff {h : Hdr} : guardTrue h g = true ↔ g.regs.kreg h.k.toNat ≠ h.neg := by
  rw [guardTrue, Bool.xor_comm, Bool.xor_iff_ne]

/-- Settles O7: the checks of a group word in their order. -/
theorem wordFates : Obligations.WordFates := by
  intro b n s eff gid second g r h
  refine ⟨fun hb hp hg => ?_, groupWord_priv h, groupWord_bad h, fun g' r' hruns hg' hr' hw => ?_, guardTrue_iff, fun hk => ?_, fun _ => ?_⟩
  · rw [groupWord_guard_false h hb hp hg, State.advance_eq h.here]
  · rw [groupWord_runs hruns eff g' r' hg' hr' hw, State.advance_eq hg']
  · rw [hk]; exact Regs.kreg_seven _
  · exact ⟨_, rfl, _, by rw [State.trapPlain_eq s gid g r _ h.here]; exact State.grp_setGrp_self .., rfl, rfl, rfl⟩

end Sys2Proof.Machine
end

section
/-! SUPPORT of O13. Words that write a c-bit, and what a narrow result holds. -/

namespace Sys2Proof.Machine

variable {s : State} {gid : Nat} {second : Bool} {g : Group} {r : Run} {w : Alu}

/-- A word that writes a c-bit in the lanes of the mask: the c-bit it leaves (R42, R144). -/
theorem condWord_runs {o : Nat} {f : Group → Run → State → Group} (h : Runs (.alu o w) s gid second g r) {p q : Nat → Bool} {fl : Flags}
    (hf : f g r s = setCond g r.mask w.d p fl) (hpq : ∀ l, p l = q l) :
    ∃ g', groupOnly (.alu o w) 1 s f = .next (s.afterWord gid second g') ∧ ∀ l < 64, (g'.regs.creg (cNum w.d)).getLsbD l =
      if cNum w.d = 7 then true else if r.mask.getLsbD l then q l else (g.regs.creg (cNum w.d)).getLsbD l := by
  refine ⟨f g r s, groupOnly_runs h f (by rw [hf]; rfl), fun l hl => ?_⟩
  rw [hf, ← hpq l]
  exact creg_writeC g.regs r.mask (cNum w.d) p l hl

/-- The relations of ICMP as propositions. -/
theorem relInt_eq (n : Nat) (a b : Int) : relInt n a b = match n with
    | 0 => decide (a = b)
    | 1 => decide (a ≠ b)
    | 2 => decide (a < b)
    | 3 => decide (a ≤ b)
    | 4 => decide (b < a)
    | _ => decide (b ≤ a) := by
  unfold relInt
  split <;> simp [bne, beq_eq_decide]

theorem setWidth_bne_zero (x : BitVec 64) : (x.setWidth 32 != 0#32) = decide (x.toNat % 2 ^ 32 ≠ 0) := by
  rw [bne, beq_eq_decide, ← decide_not, decide_eq_decide, BitVec.toNat_eq, BitVec.toNat_setWidth]
  rfl

theorem conditionWords : conditionWordsRules := by
  intro w s gid second g r put
  refine ⟨fun h => ?_, fun h => ?_, fun h => ?_, fun h hd => ?_⟩
  · change ∃ g', execIcmp w s = _ ∧ _
    exact condWord_runs h (by rfl) fun l => relInt_eq ..
  · change ∃ g', execFcmp w s = _ ∧ _
    exact condWord_runs h (by rfl) fun l => rfl
  · change ∃ g', execClop w s = _ ∧ _
    exact condWord_runs h (by rfl) fun l => rfl
  · change ∃ g', execMovc w s = _ ∧ _
    exact condWord_runs h (by exact if_pos hd) fun l => setWidth_bne_zero _

/-- A value of a move's type, as the lane reads it back (R72, R144): its bits, unchanged. -/
theorem toNat_narrow {t : Ty} (ht : t ∈ tyM5) (x : BitVec 64) :
    (if is64 t then narrow t x else ((narrow t x).setWidth 32).setWidth 64).toNat = x.toNat % 2 ^ tyBits t := by
  have hx := x.isLt
  simp only [tyM5, List.mem_cons, List.not_mem_nil, or_false] at ht
  rcases ht with rfl | rfl | rfl | rfl | rfl <;> simp [narrow, extRes, is64, tyBits, isS] <;> omega

/-- A per-lane word without flags: what every lane of the mask reads back. -/
theorem laneWord_quiet {o : Nat} {row : AluRow} (hr : aluRow o = some row) (hd : row.d = kD) (h : Runs (.alu o w) s gid second g r)
    {f : Group → Nat → LaneRes} (hfl : ∀ l, (f g l).2 = 0) {p : Nat → Nat}
    (hp : ∀ l, (if is64 w.ty then (f g l).1 else ((f g l).1.setWidth 32).setWidth 64).toNat = p l) :
    ∃ g', laneWord o w s f = .next (s.afterWord gid second g') ∧ g'.fpstat = g.fpstat ∧
      ∀ l < 64, r.mask.getLsbD l = true → (readLane g'.regs w.ty w.d l).toNat = p l := by
  obtain ⟨g', hs, hfp, hread⟩ := laneWord_runs hr hd h f
  refine ⟨g', hs, by simpa only [laneFlags_zero _ _ hfl, BitVec.ofNat_eq_ofNat, BitVec.or_zero] using hfp, fun l hl hm => ?_⟩
  rw [hread l hl hm, hp l]

/-- The immediate of MOVI as the lane reads it back: s64 alone extends its sign. -/
theorem toNat_moviVal (w : Alu) :
    (if is64 w.ty then moviVal w else ((moviVal w).setWidth 32).setWidth 64).toNat = if w.ty = .s64 then (w.imm.toInt % 2 ^ 64).toNat else w.imm.toNat := by
  have hx := w.imm.isLt
  by_cases hs : w.ty = .s64
  · rw [if_pos hs, moviVal, if_pos hs, if_pos (by rw [hs]; rfl), BitVec.signExtend, BitVec.toNat_ofInt]
    rfl
  · have hm : ((w.imm.setWidth 64).setWidth 32).setWidth 64 = w.imm.setWidth 64 := by
      simp
    rw [if_neg hs, moviVal, if_neg hs, hm, ite_self, BitVec.toNat_setWidth, Nat.mod_eq_of_lt (by omega)]

/-- MOVC into a register writes the c-bit as 0 or 1. -/
theorem movc_register (h : Runs (.alu 0x036 w) s gid second g r) (hd : spIn 0 7 w.d = false) :
    ∃ g', execMovc w s = .next (s.afterWord gid second g') ∧ g'.fpstat = g.fpstat ∧
      ∀ l < 64, r.mask.getLsbD l = true → (readLane g'.regs .b32 w.d l).toNat = if (g.regs.creg (cNum w.a)).getLsbD l then 1 else 0 := by
  obtain ⟨-, -, -, -, -, -, hkind, -⟩ := alu_good (o := 0x036) rfl h.good
  have hvx : vxOk 1 w.d = true := by
    have hor : (vxOk 1 w.d || spIn 0 7 w.d) = true := hkind
    rwa [hd, Bool.or_false] at hor
  let f := fun l => ((if readC g.regs w.a l then 1 else 0, 0) : LaneRes)
  have hf : (if spIn 0 7 w.d then setCond g r.mask w.d (fun l => (readLane g.regs .b32 w.a l).setWidth 32 != 0#32) 0
      else setLanes g r.mask w.d false f) = setLanes g r.mask w.d false f := if_neg (by rw [hd]; exact Bool.false_ne_true)
  refine ⟨setLanes g r.mask w.d false f, ?_, ?_, fun l hl hm => ?_⟩
  · rw [execMovc, groupOnly_runs h _ (by rw [hf]; rfl), hf]; rfl
  · rw [setLanes_fpstat, laneFlags_zero _ _ (fun _ => rfl)]; exact BitVec.or_zero
  · rw [setLanes_regs, show false = is64 .b32 from rfl, readLane_writeLanes _ _ _ _ _ l hl hm hvx]
    rw [if_neg (by decide)]
    simp only [f, readC]
    by_cases hc : (g.regs.creg (cNum w.a)).getLsbD l = true <;> simp only [hc] <;> rfl

theorem moveWords : moveWordsRules := by
  intro w s gid second g r put
  exact ⟨fun h => laneWord_quiet rfl rfl h (fun l => rfl) fun l => toNat_narrow (alu_good rfl h.good).1 _,
    fun h => laneWord_quiet rfl rfl h (fun l => rfl) fun l => toNat_narrow (alu_good rfl h.good).1 _,
    fun h => laneWord_quiet rfl rfl h (fun l => rfl) fun l => toNat_moviVal w,
    movc_register⟩

/-- Settles O13: the words that write a c-bit, and the moves. -/
theorem conditionAndMoveWords : Obligations.ConditionAndMoveWords := ⟨conditionWords, moveWords⟩

end Sys2Proof.Machine
end

section
/-! SUPPORT of O17. What a uniform word writes: a k-bit, a g-register; the first lane of a vote; shifts and signs at 64 bits. -/

namespace Sys2Proof.Machine

variable {s : State} {gid : Nat} {second : Bool} {g : Group} {r : Run} {w : Alu}

theorem kNum_lt {o : Opnd} (h : spIn 8 15 o = true) : kNum o < 8 := by
  cases o with
  | sp n =>
    simp only [spIn, Bool.and_eq_true, decide_eq_true_eq] at h
    show n.toNat - 8 < 8
    omega
  | _ => cases h

/-- A k-bit read after its write: k7 reads 1 (R42). -/
theorem Regs.kreg_setK_self (x : Regs) {n : Nat} (b : Bool) (h : n < 8) : (x.setK n b).kreg n = (n == 7 || b) := by
  rw [Regs.kreg_setK x n n b h h]
  by_cases h7 : n = 7
  · subst h7; rfl
  · rw [if_pos ⟨rfl, h7⟩, beq_eq_false_iff_ne.mpr h7, Bool.false_or]

theorem Regs.greg_setG_self (x : Regs) (n : Nat) (v : Dword) : (x.setG n v).greg n = v := by rw [Regs.greg_setG, if_pos rfl]

/-- A uniform word: the registers it leaves. -/
theorem uniWord_runs {o : Nat} (h : Runs (.alu o w) s gid second g r) (f : Group → Lanes → Regs) :
    uniWord o w s f = .next (s.afterWord gid second { g with regs := f g r.mask }) := groupOnly_runs h _ rfl

/-- A uniform word that writes a k-bit. -/
theorem uniWord_setK {o : Nat} {row : AluRow} (hr : aluRow o = some row) (hd : row.d = kK) (h : Runs (.alu o w) s gid second g r)
    (f : Group → Lanes → Bool) :
    ∃ g', uniWord o w s (fun g m => g.regs.setK (kNum w.d) (f g m)) = .next (s.afterWord gid second g') ∧
      g'.regs.kreg (kNum w.d) = (kNum w.d == 7 || f g r.mask) := by
  obtain ⟨-, -, -, -, -, -, hkind, -⟩ := alu_good hr h.good
  rw [hd] at hkind
  exact ⟨_, uniWord_runs h _, Regs.kreg_setK_self _ _ (kNum_lt hkind)⟩

/-- A uniform word that writes a g-register. -/
theorem uniWord_setG {o : Nat} (h : Runs (.alu o w) s gid second g r) (f : Group → Lanes → Dword) :
    ∃ g', uniWord o w s (fun g m => g.regs.setG (gReg w.d) (f g m)) = .next (s.afterWord gid second g') ∧ g'.regs.greg (gReg w.d) = f g r.mask :=
  ⟨_, uniWord_runs h _, Regs.greg_setG_self ..⟩

/-- The first lane of a mask that meets p, or 64. -/
theorem find_lanesOf (m : Lanes) (p : Nat → Bool) :
    let x := ((lanesOf m).find? p).getD 64
    x ≤ 64 ∧ (x < 64 → m.getLsbD x = true ∧ p x = true) ∧ ∀ l < x, ¬ (m.getLsbD l = true ∧ p l = true) := by
  rw [lanesOf, List.find?_filter]
  cases h : (List.range 64).find? (fun l => decide (m.getLsbD l = true ∧ p l = true)) with
  | none =>
    rw [List.find?_range_eq_none] at h
    exact ⟨le_refl _, fun hlt => absurd hlt (lt_irrefl _), fun l hl hp => by simpa only [hp, and_self, decide_true, Bool.not_true, Bool.false_eq_true] using h l hl⟩
  | some x =>
    obtain ⟨hx, hmem, hmin⟩ := List.find?_range_eq_some.mp h
    have hlt : x < 64 := List.mem_range.mp hmem
    exact ⟨le_of_lt hlt, fun _ => of_decide_eq_true hx, fun l hl hp => by simpa only [hp, and_self, decide_true, Bool.not_true, Bool.false_eq_true] using hmin l hl⟩

theorem votesAndTransfers : votesAndTransfersRules := by
  intro w s gid second g r bit
  refine ⟨fun h => ?_, fun h => ?_, fun h => ?_, fun h => ?_, fun h => ?_, fun h => ?_⟩
  · obtain ⟨g', hs, hk⟩ := uniWord_setK rfl rfl h (fun g m => (lanesOf m).all (fun l => readC g.regs w.a l))
    refine ⟨g', hs, ?_⟩
    rw [hk, Bool.or_eq_true, beq_iff_eq, List.all_eq_true]
    simp only [mem_lanesOf, and_imp]
    rfl
  · obtain ⟨g', hs, hk⟩ := uniWord_setK rfl rfl h (fun g m => (lanesOf m).any (fun l => readC g.regs w.a l))
    refine ⟨g', hs, ?_⟩
    rw [hk, Bool.or_eq_true, beq_iff_eq, List.any_eq_true]
    simp only [mem_lanesOf, and_assoc]
    rfl
  · obtain ⟨g', hs, hg⟩ := uniWord_setG h (fun g m => g.regs.creg (cNum w.a) &&& m)
    exact ⟨g', hs, fun l _ => by rw [hg, BitVec.getLsbD_and, Bool.and_comm]⟩
  · obtain ⟨g', hs, hg⟩ := uniWord_setG h (fun g m => BitVec.ofNat 64 (((lanesOf m).find? (fun l => readC g.regs w.a l)).getD 64))
    refine ⟨g', hs, ?_⟩
    have hfirst := find_lanesOf r.mask (fun l => readC g.regs w.a l)
    rw [hg, BitVec.toNat_ofNat, Nat.mod_eq_of_lt (lt_of_le_of_lt hfirst.1 (by decide))]
    exact hfirst
  · exact uniWord_setG h (fun g m => if (readGz g.regs w.b).toNat < 64 ∧ m.getLsbD (readGz g.regs w.b).toNat = true then srcA w g (readGz g.regs w.b).toNat else 0)
  · obtain ⟨g', hs, -, hread⟩ := laneWord32_runs (o := 0x0BD) rfl rfl h (fun g l => (if (readGr g.regs w.a).getLsbD l then 1 else 0, 0))
    refine ⟨g', hs, fun l hl hm => ?_⟩
    rw [hread l hl hm]
    by_cases hb : (readGr g.regs w.a).getLsbD l = true
    · simp only [hb, if_true]; exact (if_pos hb).symm
    · simp only [hb]; exact (if_neg hb).symm

/-- A 64-bit shift left or right by a count that stops at 64 (R142, R151). -/
theorem shiftLeft_min (a : Dword) (c : Nat) : a <<< min 64 c = if c < 64 then a <<< c else 0 := by
  split
  next h => rw [Nat.min_eq_right (le_of_lt h)]
  next h => rw [Nat.min_eq_left (not_lt.mp h)]; exact BitVec.shiftLeft_eq_zero (le_refl _)

theorem ushiftRight_min (a : Dword) (c : Nat) : a >>> min 64 c = if c < 64 then a >>> c else 0 := by
  split
  next h => rw [Nat.min_eq_right (le_of_lt h)]
  next h => rw [Nat.min_eq_left (not_lt.mp h)]; exact BitVec.ushiftRight_eq_zero (le_refl _)

/-- The only signed type of a uniform word is s64. -/
theorem isS_iff_s64 {t : Ty} (h : t ∈ [Ty.b64, .s64]) : isS t = true ↔ t = .s64 := by
  simp only [List.mem_cons, List.not_mem_nil, or_false] at h
  rcases h with rfl | rfl <;> decide

theorem intOf_64 (sgn : Bool) (x : Dword) : intOf 64 sgn x = if sgn then x.toInt else x.toNat := by
  have hx := x.isLt
  cases sgn with
  | false => simp [intOf, Nat.mod_eq_of_lt hx]
  | true =>
    rw [intOf, Nat.mod_eq_of_lt hx, BitVec.toInt_eq_toNat_cond]
    simp only [Bool.true_and, decide_eq_true_eq, if_true]
    split <;> split <;> omega

theorem uniformWords : uniformWordsRules := by
  refine ⟨?_, fun w s gid second g r h => ?_, fun w s gid second g r h => uniWord_setK rfl rfl h (fun g _ => lop w.fn.toNat (readK g.regs w.a) (readK g.regs w.b))⟩
  · simp only [List.forall_mem_cons]
    refine ⟨fun w s gid second g r h => uniWord_setG h (fun g _ => gA w g + gB w g), fun w s gid second g r h => uniWord_setG h (fun g _ => gA w g - gB w g),
      fun w s gid second g r h => uniWord_setG h (fun g _ => gA w g * gB w g), fun w s gid second g r h => uniWord_setG h (fun g _ => gA w g &&& gB w g),
      fun w s gid second g r h => uniWord_setG h (fun g _ => gA w g ||| gB w g), fun w s gid second g r h => uniWord_setG h (fun g _ => gA w g ^^^ gB w g),
      fun w s gid second g r h => ?_, fun w s gid second g r h => ?_, fun w s gid second g r h => uniWord_setG h (fun g _ => gA w g),
      fun w s gid second g r h => ?_, by simp only [List.not_mem_nil, false_imp_iff, implies_true]⟩
    · simp only [← shiftLeft_min]
      exact uniWord_setG h (fun g _ => gA w g <<< gCount w g)
    · simp only [← ushiftRight_min, ← isS_iff_s64 (alu_good (o := 0x0B7) rfl h.good).1]
      exact uniWord_setG h (fun g _ => if isS w.ty then (gA w g).sshiftRight (gCount w g) else gA w g >>> gCount w g)
    · simp only [← isS_iff_s64 (alu_good (o := 0x0B9) rfl h.good).1]
      exact uniWord_setG h (fun _ _ => if isS w.ty then w.imm.signExtend 64 else w.imm.setWidth 64)
  · simp only [← isS_iff_s64 (alu_good (o := 0x0BA) rfl h.good).1, ← intOf_64]
    exact uniWord_setK rfl rfl h (fun g _ => relInt w.fn.toNat (intOf 64 (isS w.ty) (gA w g)) (intOf 64 (isS w.ty) (gB w g)))

/-- Settles O17: votes and transfers, and the group-uniform words. -/
theorem votesAndUniformWords : Obligations.VotesAndUniformWords := ⟨votesAndTransfers, uniformWords⟩

end Sys2Proof.Machine
end

section
/-! SUPPORT of O52. What the registers of a group are after an ALU word, by the kind of its destination: lanes of a class 00 register, a c-bit, a k-bit, a g-register. -/

namespace Sys2Proof.Machine

variable {s : State} {gid : Nat} {second : Bool} {g : Group} {r : Run} {w : Alu} {o : Nat} {row : AluRow}

/-- Registers rs differ from rg only in registers that the row of the word writes, in the lanes of mask m. -/
structure AluFrame (o : Nat) (w : Alu) (m : Lanes) (rg rs : Regs) : Prop where
  f : rs.f = rg.f
  j : rs.j = rg.j
  v : ∀ n < 128, ∀ l < 64, n ∉ (aluShape o w).writes ∨ m.getLsbD l = false → rs.vreg n l = rg.vreg n l
  x : ∀ n < 16, ∀ l < 64, 128 + n ∉ (aluShape o w).writes ∨ m.getLsbD l = false → rs.xreg n l = rg.xreg n l
  g : ∀ n < 64, 144 + n ∉ (aluShape o w).writes → rs.greg n = rg.greg n
  c : ∀ n < 8, ∀ l < 64, m.getLsbD l = false → (rs.creg n).getLsbD l = (rg.creg n).getLsbD l
  k : ∀ n < 8, n ≠ kNum w.d ∨ spIn 8 15 w.d = false → rs.kreg n = rg.kreg n

/-- The registers that the row of an ALU word writes: those of its destination. -/
theorem aluShape_writes (hr : aluRow o = some row) :
    (aluShape o w).writes = Use.regs ⟨row.d.1, typedN w row.d.2, false, true, some w.d⟩ := by
  simp only [aluShape, hr, Shape.writes, aluUses]
  cases row.imm <;> simp [List.flatMap_cons]

/-- A class 00 destination that the write touches is one of the row's registers. -/
theorem touches_mem_writes {wide : Bool} (hr : aluRow o = some row) (hk : row.d.1 = .vx ∨ row.d.1 = .vxc) (hn : (if wide then 2 else 1) ≤ typedN w row.d.2)
    {isX : Bool} {n : Nat} (h : touches w.d wide isX n) : (if isX then 128 else 0) + n ∈ (aluShape o w).writes := by
  have hkind : ¬(row.d.1 = .zero ∨ row.d.1 = .fz ∨ row.d.1 = .any) := by rcases hk with hk | hk <;> simp [hk]
  rw [aluShape_writes hr, Use.regs, if_neg hkind]
  have hi : ∀ k, n = k ∨ wide = true ∧ n = k + 1 → ∃ i < typedN w row.d.2, k + i = n := by
    rintro k (rfl | ⟨rfl, rfl⟩)
    · exact ⟨0, by split at hn <;> omega, rfl⟩
    · exact ⟨1, by rw [if_pos rfl] at hn; omega, rfl⟩
  cases hd : w.d with
  | v k =>
    simp only [touches, hd] at h
    obtain ⟨rfl, h⟩ := h
    obtain ⟨i, hlt, rfl⟩ := hi _ h
    simpa using hlt
  | x k =>
    simp only [touches, hd] at h
    obtain ⟨rfl, h⟩ := h
    obtain ⟨i, hlt, rfl⟩ := hi _ h
    simpa [Nat.add_assoc] using hlt
  | _ => simp only [touches, hd] at h

theorem typedN_wide (hd : row.d = kD) : (if is64 w.ty then 2 else 1) ≤ typedN w row.d.2 := by rw [hd]; exact le_refl _

/-- A write in the lanes of the mask to a class 00 destination. -/
theorem aluFrame_writeLanes {m : Lanes} {wide : Bool} {rg : Regs} (hr : aluRow o = some row) (hk : row.d.1 = .vx ∨ row.d.1 = .vxc)
    (hn : (if wide then 2 else 1) ≤ typedN w row.d.2) (f : Nat → BitVec 64) : AluFrame o w m rg (writeLanes rg m wide w.d f) where
  f := writeLanes_f ..
  j := writeLanes_j ..
  v n _ l hl h := writeLanes_vreg_ne rg m wide w.d f n l hl
    (h.symm.imp_right fun hw ht => hw (by simpa using touches_mem_writes hr hk hn ht))
  x n _ l hl h := writeLanes_xreg_ne rg m wide w.d f n l hl
    (h.symm.imp_right fun hw ht => hw (touches_mem_writes hr hk hn ht))
  g n _ _ := by rw [Regs.greg, Regs.greg, writeLanes_g]
  c n _ l _ _ := by rw [Regs.creg, Regs.creg, writeLanes_c]
  k n _ _ := by rw [Regs.kreg, Regs.kreg, writeLanes_k]

/-- A c-bit of a lane outside the mask. -/
theorem creg_writeC_of_out {rg : Regs} {m : Lanes} {n : Nat} {p : Nat → Bool} {n' l : Nat} (hl : l < 64) (hm : m.getLsbD l = false) :
    ((writeC rg m n p).creg n').getLsbD l = (rg.creg n').getLsbD l := by
  by_cases hn : n' = n
  · subst hn
    rw [creg_writeC rg m n' p l hl, hm]
    split
    next h => rw [h, Regs.creg_seven, BitVec.getLsbD_allOnes]; exact (decide_eq_true hl).symm
    next => rfl
  · rw [writeC, Regs.creg_setC, if_neg (fun h => hn h.1)]

theorem setC_eq_or (rg : Regs) (n : Nat) (m : Lanes) : rg.setC n m = rg ∨ rg.setC n m = { rg with c := rg.c.put 0 n m } := by
  rw [Regs.setC]
  split
  · exact .inl rfl
  · exact .inr rfl

/-- A write of a c-bit on top of a frame. -/
theorem AluFrame.writeC {m : Lanes} {rg rs : Regs} (h : AluFrame o w m rg rs) (n : Nat) (p : Nat → Bool) :
    AluFrame o w m rg (Machine.writeC rs m n p) := by
  have hc : ∀ n' < 8, ∀ l < 64, m.getLsbD l = false → ((Machine.writeC rs m n p).creg n').getLsbD l = (rg.creg n').getLsbD l :=
    fun n' hn' l hl hm => (creg_writeC_of_out hl hm).trans (h.c n' hn' l hl hm)
  rcases setC_eq_or rs n ((rs.creg n &&& ~~~m) ||| maskOf ((lanesOf m).filter p)) with he | he
  · rwa [Machine.writeC, he]
  · rw [Machine.writeC, he] at hc ⊢
    exact ⟨h.f, h.j, h.v, h.x, h.g, hc, h.k⟩

theorem AluFrame.refl (o : Nat) (w : Alu) (m : Lanes) (rg : Regs) : AluFrame o w m rg rg :=
  ⟨rfl, rfl, fun _ _ _ _ _ => rfl, fun _ _ _ _ _ => rfl, fun _ _ _ => rfl, fun _ _ _ _ _ => rfl, fun _ _ _ => rfl⟩

theorem aluFrame_setK {m : Lanes} {rg : Regs} (hd : spIn 8 15 w.d = true) (b : Bool) : AluFrame o w m rg (rg.setK (kNum w.d) b) := by
  have hk : ∀ n < 8, n ≠ kNum w.d ∨ spIn 8 15 w.d = false → (rg.setK (kNum w.d) b).kreg n = rg.kreg n := by
    intro n hn h
    have hne : n ≠ kNum w.d := h.resolve_right (by rw [hd]; exact Bool.noConfusion)
    rw [Regs.kreg_setK rg _ _ _ (kNum_lt hd) hn, if_neg (fun e => hne e.1)]
  by_cases h7 : kNum w.d = 7
  · rw [h7, Regs.setK_seven]; exact AluFrame.refl ..
  · rw [Regs.setK, if_neg h7] at hk ⊢
    exact ⟨rfl, rfl, fun _ _ _ _ _ => rfl, fun _ _ _ _ _ => rfl, fun _ _ _ => rfl, fun _ _ _ _ _ => rfl, hk⟩

theorem aluFrame_setG {m : Lanes} {rg : Regs} (hr : aluRow o = some row) (hd : row.d = kG) (hg : gNum w.d ≤ 63) (x : Dword) :
    AluFrame o w m rg (rg.setG (gReg w.d) x) where
  f := rfl
  j := rfl
  v _ _ _ _ _ := rfl
  x _ _ _ _ _ := rfl
  g n _ h := by
    rw [Regs.greg_setG, if_neg]
    rintro rfl
    refine h ?_
    rw [aluShape_writes hr, hd]
    cases hd : w.d with
    | g k => simp [Use.regs, kG, gReg]
    | _ => rw [hd] at hg; exact absurd hg (Nat.not_succ_le_self 63)
  c _ _ _ _ _ := rfl
  k _ _ _ := rfl

/-- Word mk, wherever it has its effect, completes with registers and flags alone changed, as its row says. -/
def WordCompletes (mk : Alu → Instr) : Prop :=
  ∀ w s gid second g r o, bodyOf (mk w) = .alu o w → Runs (bodyOf (mk w)) s gid second g r →
    ∃ (rs : Regs) (fl : Flags), exec (mk w) s = .next (s.afterWord gid second { g with regs := rs, fpstat := g.fpstat ||| fl }) ∧
      AluFrame o w r.mask g.regs rs

/-- A word of opcode o that changes its group's registers and flags. -/
theorem wordCompletes_of {mk : Alu → Instr} {f : Alu → Group → Run → State → Group} (hb : ∀ w, bodyOf (mk w) = .alu o w)
    (he : ∀ w s, exec (mk w) s = groupOnly (.alu o w) 1 s (f w))
    (hf : ∀ w g (r : Run) s, (Body.alu o w).good = true → ∃ rs fl, f w g r s = { g with regs := rs, fpstat := g.fpstat ||| fl } ∧ AluFrame o w r.mask g.regs rs) :
    WordCompletes mk := by
  intro w s gid second g r o' ho h
  rw [hb] at ho h
  cases ho
  obtain ⟨rs, fl, hg, hframe⟩ := hf w g r s h.good
  refine ⟨rs, fl, ?_, hframe⟩
  rw [he, groupOnly_runs h (f w) (by rw [hg]; rfl), hg]
  rfl

theorem setLanes_frame {m : Lanes} {wide : Bool} (hr : aluRow o = some row) (hk : row.d.1 = .vx ∨ row.d.1 = .vxc)
    (hn : (if wide then 2 else 1) ≤ typedN w row.d.2) (g : Group) (f : Nat → LaneRes) :
    ∃ rs fl, setLanes g m w.d wide f = { g with regs := rs, fpstat := g.fpstat ||| fl } ∧ AluFrame o w m g.regs rs :=
  ⟨_, _, setLanes_eq .., aluFrame_writeLanes hr hk hn _⟩

theorem setCond_frame {m : Lanes} (g : Group) (d : Opnd) (p : Nat → Bool) (fl : Flags) :
    ∃ rs fl', setCond g m d p fl = { g with regs := rs, fpstat := g.fpstat ||| fl' } ∧ AluFrame o w m g.regs rs :=
  ⟨_, _, setCond_eq .., (AluFrame.refl ..).writeC _ _⟩

theorem regs_frame {rg rs : Regs} {m : Lanes} {g : Group} (h : AluFrame o w m rg rs) :
    ∃ rs' fl, ({ g with regs := rs } : Group) = { g with regs := rs', fpstat := g.fpstat ||| fl } ∧ AluFrame o w m rg rs' :=
  ⟨rs, 0, by rw [show g.fpstat ||| 0 = g.fpstat from BitVec.or_zero], h⟩

/-! The families of words. -/

theorem laneWord_completes {mk : Alu → Instr} {f : Alu → Group → Nat → LaneRes} (hb : ∀ w, bodyOf (mk w) = .alu o w := by exact fun _ => rfl)
    (he : ∀ w s, exec (mk w) s = laneWord o w s (f w) := by exact fun _ _ => rfl) (hr : aluRow o = some row := by rfl) (hd : row.d = kD := by rfl) :
    WordCompletes mk :=
  wordCompletes_of hb he fun w g r _ _ => setLanes_frame hr (.inl (by rw [hd]; rfl)) (typedN_wide hd) g _

theorem laneWord32_completes {mk : Alu → Instr} {f : Alu → Group → Nat → LaneRes} (hb : ∀ w, bodyOf (mk w) = .alu o w := by exact fun _ => rfl)
    (he : ∀ w s, exec (mk w) s = laneWord32 o w s (f w) := by exact fun _ _ => rfl) (hr : aluRow o = some row := by rfl)
    (hd : row.d = (.vx, 1) := by rfl) : WordCompletes mk :=
  wordCompletes_of hb he fun w g r _ _ => setLanes_frame hr (.inl (by rw [hd])) (by rw [hd]; exact le_refl _) g _

theorem unpk2_completes : WordCompletes .unpk2 :=
  wordCompletes_of (fun _ => rfl) (fun _ _ => rfl) fun _ g _ _ _ => setLanes_frame (o := 0x072) rfl (.inl rfl) (le_refl _) g _

theorem exchange_completes {mk : Alu → Instr} {f : Alu → Group → Nat → Int} (hb : ∀ w, bodyOf (mk w) = .alu o w := by exact fun _ => rfl)
    (he : ∀ w s, exec (mk w) s = exchange o w s (f w) := by exact fun _ _ => rfl) (hr : aluRow o = some row := by rfl) (hd : row.d = kD := by rfl) :
    WordCompletes mk :=
  wordCompletes_of hb he fun w g r _ _ => setLanes_frame hr (.inl (by rw [hd]; rfl)) (typedN_wide hd) g _

theorem carryWord_completes {mk : Alu → Instr} {sub : Bool} (hb : ∀ w, bodyOf (mk w) = .alu o w := by exact fun _ => rfl)
    (he : ∀ w s, exec (mk w) s = carryWord o sub w s := by exact fun _ _ => rfl) (hr : aluRow o = some row := by rfl) (hd : row.d = kD := by rfl) :
    WordCompletes mk := by
  refine wordCompletes_of hb he fun w g r _ _ => ?_
  obtain ⟨rs, fl, hg, hframe⟩ := setLanes_frame (m := r.mask) hr (.inl (by rw [hd]; rfl)) (typedN_wide hd) g
    (fun l => intRes (tyN w) (isS w.ty) false (carryExact sub w g l))
  refine ⟨_, fl ||| 0, ?_, hframe.writeC (cNum (cOp w)) (carryOut sub w g)⟩
  rw [hg, setCond_eq, ← BitVec.or_assoc]

theorem condWord_completes {mk : Alu → Instr} {p : Alu → Group → Run → Nat → Bool} {fl : Alu → Group → Run → Flags}
    (hb : ∀ w, bodyOf (mk w) = .alu o w := by exact fun _ => rfl)
    (he : ∀ w s, exec (mk w) s = groupOnly (.alu o w) 1 s (fun g r _ => setCond g r.mask w.d (p w g r) (fl w g r)) := by exact fun _ _ => rfl) :
    WordCompletes mk := wordCompletes_of hb he fun _ g _ _ _ => setCond_frame g _ _ _

theorem movc_completes : WordCompletes .movc := by
  refine wordCompletes_of (fun _ => rfl) (fun _ _ => rfl) fun w g r _ _ => ?_
  by_cases hd : spIn 0 7 w.d = true
  · simp only [hd, if_true]
    exact setCond_frame g _ _ _
  · simp only [hd]
    exact setLanes_frame (o := 0x036) rfl (.inr rfl) (le_refl _) g _

theorem kWord_completes {mk : Alu → Instr} {f : Alu → Group → Lanes → Bool} (hb : ∀ w, bodyOf (mk w) = .alu o w := by exact fun _ => rfl)
    (he : ∀ w s, exec (mk w) s = uniWord o w s (fun g m => g.regs.setK (kNum w.d) (f w g m)) := by exact fun _ _ => rfl)
    (hr : aluRow o = some row := by rfl) (hd : row.d = kK := by rfl) : WordCompletes mk := by
  refine wordCompletes_of hb he fun w g r _ hgood => regs_frame (aluFrame_setK ?_ _)
  obtain ⟨-, -, -, -, -, -, hkind, -⟩ := alu_good hr hgood
  rwa [hd] at hkind

theorem gRegWord_completes {mk : Alu → Instr} {f : Alu → Group → Lanes → Dword} (hb : ∀ w, bodyOf (mk w) = .alu o w := by exact fun _ => rfl)
    (he : ∀ w s, exec (mk w) s = uniWord o w s (fun g m => g.regs.setG (gReg w.d) (f w g m)) := by exact fun _ _ => rfl)
    (hr : aluRow o = some row := by rfl) (hd : row.d = kG := by rfl) : WordCompletes mk := by
  refine wordCompletes_of hb he fun w g r _ hgood => regs_frame (aluFrame_setG hr hd ?_ _)
  obtain ⟨-, -, -, -, -, -, hkind, -⟩ := alu_good hr hgood
  rw [hd] at hkind
  exact of_decide_eq_true hkind

theorem gWord_completes {mk : Alu → Instr} {f : Alu → Group → Dword} (hb : ∀ w, bodyOf (mk w) = .alu o w := by exact fun _ => rfl)
    (he : ∀ w s, exec (mk w) s = gWord o w s (f w) := by exact fun _ _ => rfl) (hr : aluRow o = some row := by rfl) (hd : row.d = kG := by rfl) :
    WordCompletes mk := gRegWord_completes hb he hr hd

/-- Tables 5-1 and 5-2. -/
def integerWords : List (Alu → Instr) :=
  [.iadd, .isub, .iadds, .isubs, .imul, .imulhi, .imad, .ineg, .iabs, .imin, .imax, .ishl, .ishr, .isar, .irol, .ibfx, .ibfi, .popc, .clz, .brev, .andB, .orB,
   .xorB, .notB, .andn, .bfn3]

theorem integerWords_complete : ∀ mk ∈ integerWords, WordCompletes mk := by
  simp only [integerWords, List.forall_mem_cons]
  exact ⟨laneWord_completes, laneWord_completes, carryWord_completes, carryWord_completes, laneWord_completes, laneWord_completes, laneWord_completes,
    laneWord_completes, laneWord_completes, laneWord_completes, laneWord_completes, laneWord_completes, laneWord_completes, laneWord_completes, laneWord_completes,
    laneWord_completes, laneWord_completes, laneWord32_completes, laneWord32_completes, laneWord_completes, laneWord_completes, laneWord_completes,
    laneWord_completes, laneWord_completes, laneWord_completes, laneWord_completes, fun _ hmem => absurd hmem List.not_mem_nil⟩

/-- Tables 5-3 and 5-4. -/
def compareAndFloatWords : List (Alu → Instr) :=
  [.icmp, .fcmp, .sel, .clop, .mov, .movi, .movc, .fadd, .fsub, .fmul, .ffma, .fmin, .fmax, .fabs, .fneg, .fclass, .frnd]

theorem compareAndFloatWords_complete : ∀ mk ∈ compareAndFloatWords, WordCompletes mk := by
  simp only [compareAndFloatWords, List.forall_mem_cons]
  exact ⟨condWord_completes, condWord_completes, laneWord_completes, condWord_completes, laneWord_completes, laneWord_completes, movc_completes, laneWord_completes,
    laneWord_completes, laneWord_completes, laneWord_completes, laneWord_completes, laneWord_completes, laneWord_completes, laneWord_completes, laneWord_completes,
    laneWord_completes, fun _ hmem => absurd hmem List.not_mem_nil⟩

/-- Tables 5-5 and 5-6. -/
def packedAndExchangeWords : List (Alu → Instr) :=
  [.pkadd, .pksub, .pkmul, .pkfma, .pkmin, .pkmax, .pkdot, .cvt, .pack2, .unpk2, .shfl, .shflx, .shflup, .shfldn, .bcast]

theorem packedAndExchangeWords_complete : ∀ mk ∈ packedAndExchangeWords, WordCompletes mk := by
  simp only [packedAndExchangeWords, List.forall_mem_cons]
  exact ⟨laneWord_completes, laneWord_completes, laneWord_completes, laneWord_completes, laneWord_completes, laneWord_completes, laneWord_completes, laneWord_completes,
    laneWord_completes, unpk2_completes, exchange_completes, exchange_completes, exchange_completes, exchange_completes, exchange_completes,
    fun _ hmem => absurd hmem List.not_mem_nil⟩

/-- R150, R152. -/
def voteAndSeedWords : List (Alu → Instr) :=
  [.vall, .vany, .vbal, .vfirst, .rsqs, .rcps, .ex2s, .lg2s, .sins, .coss]

theorem voteAndSeedWords_complete : ∀ mk ∈ voteAndSeedWords, WordCompletes mk := by
  simp only [voteAndSeedWords, List.forall_mem_cons]
  exact ⟨kWord_completes (f := fun w g m => (lanesOf m).all (fun l => readC g.regs w.a l)),
    kWord_completes (f := fun w g m => (lanesOf m).any (fun l => readC g.regs w.a l)), gRegWord_completes (f := fun w g m => g.regs.creg (cNum w.a) &&& m),
    gRegWord_completes (f := fun w g m => BitVec.ofNat 64 (((lanesOf m).find? (fun l => readC g.regs w.a l)).getD 64)), laneWord_completes, laneWord_completes,
    laneWord_completes, laneWord_completes, laneWord_completes, laneWord_completes, fun _ hmem => absurd hmem List.not_mem_nil⟩

/-- Table 5-7. -/
def uniformWordList : List (Alu → Instr) :=
  [.gadd, .gsub, .gmul, .gand, .gor, .gxor, .gshl, .gshr, .gmov, .gmovi, .gcmp, .klop, .v2g, .g2v]

theorem uniformWordList_complete : ∀ mk ∈ uniformWordList, WordCompletes mk := by
  simp only [uniformWordList, List.forall_mem_cons]
  exact ⟨gWord_completes, gWord_completes, gWord_completes, gWord_completes, gWord_completes, gWord_completes, gWord_completes, gWord_completes, gWord_completes,
    gWord_completes, kWord_completes (f := fun w g _ => relInt w.fn.toNat (intOf 64 (isS w.ty) (gA w g)) (intOf 64 (isS w.ty) (gB w g))),
    kWord_completes (f := fun w g _ => lop w.fn.toNat (readK g.regs w.a) (readK g.regs w.b)),
    gRegWord_completes (f := fun w g m => if (readGz g.regs w.b).toNat < 64 ∧ m.getLsbD (readGz g.regs w.b).toNat = true then srcA w g (readGz g.regs w.b).toNat else 0),
    laneWord32_completes, fun _ hmem => absurd hmem List.not_mem_nil⟩

/-- Settles O52: every word by its family. -/
theorem aluWordsComplete : Obligations.AluWordsComplete := by
  have hall : ∀ mk ∈ integerWords ++ compareAndFloatWords ++ packedAndExchangeWords ++ voteAndSeedWords ++ uniformWordList, WordCompletes mk := by
    simp only [List.forall_mem_append]
    exact ⟨⟨⟨⟨integerWords_complete, compareAndFloatWords_complete⟩, packedAndExchangeWords_complete⟩, voteAndSeedWords_complete⟩, uniformWordList_complete⟩
  intro mk hmk w s gid second g r o ho h
  obtain ⟨rs, fl, hs, hf⟩ := hall mk hmk w s gid second g r o ho h
  exact ⟨rs, fl, hs, hf.f, hf.j, hf.v, hf.x, hf.g, hf.c, hf.k⟩

end Sys2Proof.Machine
end

section
/-! SUPPORT of O5. Every meaning ends in a next state: a word of a group, a sequencer, a slot or a queue while its agent is there, a step of an engine always. -/

namespace Sys2Proof.Machine

variable {s : State}

/-- A read of the register window gives a next state. -/
theorem windowRead_next (b : Writer) (off : Nat) (s : State) : ∃ t, windowRead b off s = .next t := by
  simp only [windowRead]
  repeat' split
  all_goals exact ⟨_, rfl⟩

theorem execOwnershipSwap_next (b : Writer) (v : BitVec 64) (s : State) : ∃ t, execOwnershipSwap b v s = .next t := by
  simp only [execOwnershipSwap]
  repeat' split
  all_goals exact ⟨_, rfl⟩

/-- Every step of an engine or of the outside gives a next state: each branch of its meaning ends in one. -/
theorem exec_event_next {i : Instr} (s : State) (h : isEvent i = true) : ∃ t, exec i s = .next t := by
  cases i with
  | queueKick | queueReset | frozenClear | hostRelease | hostmapWrite | ckreq | refusedClear | dump | trctailWrite | retrain | forcesr | gatectlWrite |
    gateErrorClear | attreq =>
    simp only [exec, execQueueKick, execQueueReset, execFrozenClear, execHostRelease, execHostmapWrite, execCkreq, execRefusedClear, execDump, execTrctailWrite,
      execRetrain, execForcesr, execGatectlWrite, execGateErrorClear, execAttreq]
    exact windowWrite_next _ _ _
  | trclostRead by_ => exact windowRead_next _ _ _
  | hostErrcountRead by_ => exact windowRead_next _ _ _
  | warmReset by_ => cases by_ with
    | prog => exact ⟨_, rfl⟩
    | host m =>
      simp only [exec, execWarmReset]
      exact windowWrite_next _ _ _
  | registerWrite by_ off val =>
    simp only [exec, execRegisterWrite]
    split
    · exact execOwnershipSwap_next _ _ _
    · exact windowWrite_next _ _ _
  | loopnStart | loopnComplete | atomicPerform | loadReturn | storePerform | sendArrive | barrierRelease | traceFlushDone | runArbitration | runResume |
    yieldExpire | stall | trapTake | preemptRequest | groupSave | groupRestore | groupEnd | wcbWindowExpire | publicationStart | homePrepare | prepareAck |
    revokeRequest | holdTimerExpire | homeCommit | homeRelease | publicationCommit | libFill | loadServeHome | translationWalk | leafWriteback | logstallExpire
    | tlockFillLand | pageRequest | pagePromote | migrationCommitNotice | pageDemote | faultCancel | forwardedAccess | counterEpochTick | pageTransfer |
    snapshotCut | rollback | cleanSegment | shootdown | segmentShip | replicaSegmentReceive | copyOpStart | copyOpComplete | ploadDataReturn | piccoloRunBegin |
    piccoloSldReturn | bindingEnd | streamStart | streamHandleResolve | seqSldReturn | seqStall | seqTrap | seqSave | seqRestore | pxOpStart | pxOpComplete |
    tloadComplete | tqPacketServe | tqReply | lanesReturn | tmapComplete | tfreeComplete | landOpStart | armReserve | chunkAccept | putRetry | landPublish |
    quiesceComplete | packetRead | packetReread | blockPlace | groupMove | priorityPreempt | launchComplete | hostAdmit | ownershipSwap | hostRead | hostWrite |
    hostWcbWindowExpire | ckOpStart | shardReceive | manifestWrite | ckCommit | ckRestore | histSample | timeseriesTick | kSwitch | flitReplay | linkDown |
    noRoute | linkTrain | heartbeat | peerFailure | qfMessageReceive | powerDownEntry | selfRefreshEntry | channelWake | gateWake | coldReset | boot | softError
    | seqSstPerform | tprobeResult | newImage =>
    simp only [exec, execLoopnStart, execLoopnComplete, execAtomicPerform, execLoadReturn, execStorePerform, execSendArrive, execBarrierRelease, execTraceFlushDone,
      execRunArbitration, execRunResume, execYieldExpire, execStall, execTrapTake, execPreemptRequest, execGroupSave, execGroupRestore, execGroupEnd,
      execWcbWindowExpire, execPublicationStart, execHomePrepare, execPrepareAck, execRevokeRequest, execHoldTimerExpire, execHomeCommit, execHomeRelease,
      execPublicationCommit, execLibFill, execLoadServeHome, execTranslationWalk, execLeafWriteback, execLogstallExpire, execTlockFillLand, execPageRequest,
      execPagePromote, execMigrationCommitNotice, execPageDemote, execFaultCancel, execForwardedAccess, execCounterEpochTick, execPageTransfer,
      execSnapshotCut, execRollback, execCleanSegment, execShootdown, execSegmentShip, execReplicaSegmentReceive, execCopyOpStart, execCopyOpComplete,
      execPloadDataReturn, execPiccoloRunBegin, execPiccoloSldReturn, execBindingEnd, execStreamStart, execStreamHandleResolve, execSeqSldReturn,
      execSeqStall, execSeqTrap, execSeqSave, execSeqRestore, execPxOpStart, execPxOpComplete, execTloadComplete, execTqPacketServe, execTqReply,
      execLanesReturn, execTmapComplete, execTfreeComplete, execLandOpStart, execArmReserve, execChunkAccept, execPutRetry, execLandPublish,
      execQuiesceComplete, execPacketRead, execPacketReread, execBlockPlace, execGroupMove, execPriorityPreempt, execLaunchComplete, execHostAdmit,
      execOwnershipSwap, execHostRead, execHostWrite, execHostWcbWindowExpire, execCkOpStart, execShardReceive, execManifestWrite, execCkCommit,
      execCkRestore, execHistSample, execTimeseriesTick, execKSwitch, execFlitReplay, execLinkDown, execNoRoute, execLinkTrain, execHeartbeat,
      execPeerFailure, execQfMessageReceive, execPowerDownEntry, execSelfRefreshEntry, execChannelWake, execGateWake, execColdReset, execBoot,
      execSoftError, execSeqSstPerform, execTprobeResult, execNewImage]
    repeat' split
    all_goals exact ⟨_, rfl⟩
  | _ => cases h

/-- A group with a run on its port is asked for a word. -/
def State.GroupThere (s : State) : Prop := ∃ gid second g r, s.issuer = .group gid second ∧ s.grp gid = some g ∧ g.runOn second = some r

theorem State.GroupThere.groupWord (h : s.GroupThere) (b : Body) (n : Nat) (eff : Nat → Bool → Group → Run → State → State) :
    ∃ t, Machine.groupWord b n s eff = .next t := by
  obtain ⟨gid, second, g, r, hi, hg, hr⟩ := h
  exact groupWord_next hi hg hr

/-- Every word of a group gives a next state: each is a `groupWord`. -/
theorem exec_group_next {i : Instr} (h : s.GroupThere) (hin : inSeq i = false) (hne : encode i ≠ []) : ∃ t, exec i s = .next t := by
  cases i with
  | iadd | isub | iadds | isubs | imul | imulhi | imad | ineg | iabs | imin | imax | ishl | ishr | isar | irol | ibfx | ibfi | popc | clz | brev | andB | orB |
    xorB | notB | andn | bfn3 | icmp | fcmp | sel | clop | mov | movi | movc | fadd | fsub | fmul | ffma | fmin | fmax | fabs | fneg | fclass | frnd | pkadd |
    pksub | pkmul | pkfma | pkmin | pkmax | pkdot | cvt | pack2 | unpk2 | shfl | shflx | shflup | shfldn | bcast | vall | vany | vbal | vfirst | rsqs | rcps |
    ex2s | lg2s | sins | coss | gadd | gsub | gmul | gand | gor | gxor | gshl | gshr | gmov | gmovi | gcmp | klop | v2g | g2v | loopn | ld | ldx | lds | st |
    send | pref | fence | aadd | amin | amax | aand | aor | axor | axchg | acas | afadd | runend | wait | nop | br | bru | jmpi | call | ret | spawn | pause |
    bar | sstep | ftest | fcancel | fmovg | gmovf | rjoin | exit | trapOp | bkpt | csrr | csrw | traceFlush | tret | sqpostGroup | sqwaitGroup | pub | pubr |
    invr | zline | tlock | tunlock | tprobe | migr | snap | snapdrop | rootsw | libsd | xcopy | xconv | xqa8 | xwht | tprep | pload | pstart | pstop | qpop |
    qpeek | qstat | tload | tq | tq2 | tmap | tfree | landr | landcArm | landcPut | quiesce | resume | ctxld | ctxsv | halt =>
    simp only [exec, execIadd, execIsub, execIadds, execIsubs, execImul, execImulhi, execImad, execIneg, execIabs, execImin, execImax, execIshl, execIshr,
      execIsar, execIrol, execIbfx, execIbfi, execPopc, execClz, execBrev, execAndB, execOrB, execXorB, execNotB, execAndn, execBfn3, execIcmp, execFcmp,
      execSel, execClop, execMov, execMovi, execMovc, execFadd, execFsub, execFmul, execFfma, execFmin, execFmax, execFabs, execFneg, execFclass, execFrnd,
      execPkadd, execPksub, execPkmul, execPkfma, execPkmin, execPkmax, execPkdot, execCvt, execPack2, execUnpk2, execShfl, execShflx, execShflup, execShfldn,
      execBcast, execVall, execVany, execVbal, execVfirst, execRsqs, execRcps, execEx2s, execLg2s, execSins, execCoss, execGadd, execGsub, execGmul, execGand,
      execGor, execGxor, execGshl, execGshr, execGmov, execGmovi, execGcmp, execKlop, execV2g, execG2v, execLoopn, execLd, execLdx, execLds, execSt, execSend,
      execPref, execFence, execAadd, execAmin, execAmax, execAand, execAor, execAxor, execAxchg, execAcas, execAfadd, execRunend, execWait, execNop, execBr,
      execBru, execJmpi, execCall, execRet, execSpawn, execPause, execBar, execSstep, execFtest, execFcancel, execFmovg, execGmovf, execRjoin, execExit,
      execTrapOp, execBkpt, execCsrr, execCsrw, execTraceFlush, execTret, execSqpostGroup, execSqwaitGroup, execPub, execPubr, execInvr, execZline, execTlock,
      execTunlock, execTprobe, execMigr, execSnap, execSnapdrop, execRootsw, execLibsd, execXcopy, execXconv, execXqa8, execXwht, execTprep, execPload,
      execPstart, execPstop, execQpop, execQpeek, execQstat, execTload, execTq, execTq2, execTmap, execTfree, execLandr, execLandcArm, execLandcPut,
      execQuiesce, execResume, execCtxld, execCtxsv, execHalt, groupOnly, intWord, carryWord, laneWord, bitsWord, laneWord32, fltWord, pkWord, exchange,
      uniWord, seedWord, gWord, loadWord, atomWord, ctlOnly, ctlWord, jumpWord, barWord, copyWord, queueRead, tqWord, landWord]
    exact h.groupWord _ _ _
  | sadd | ssub | smul | sand | sor | sxor | sshl | sshr | smov | smovi | scmp | sbr | sjmp | sld | sst | sqpostSeq | sqwaitSeq | swaitpx | sexit | scsrr |
    pxldw | pxga | pxlda | pxmm | pxdm | pxzero | pxdrn | pxbyp | pxsave | pxrest | pxstat => cases hin
  | _ => exact absurd rfl hne

/-- Every word of a sequencer gives a next state: each is a `seqWord`. -/
theorem exec_seq_next {i : Instr} {cl : Nat} (h : s.issuer = .seq cl) (hin : inSeq i = true) : ∃ t, exec i s = .next t := by
  cases i with
  | sadd | ssub | smul | sand | sor | sxor | sshl | sshr | smov | smovi | scmp | sbr | sjmp | sld | sst | sqpostSeq | sqwaitSeq | swaitpx | sexit | scsrr |
    pxldw | pxga | pxlda | pxmm | pxdm | pxzero | pxdrn | pxbyp | pxsave | pxrest | pxstat =>
    simp only [exec, execSadd, execSsub, execSmul, execSand, execSor, execSxor, execSshl, execSshr, execSmov, execSmovi, execScmp, execSbr, execSjmp, execSld,
      execSst, execSqpostSeq, execSqwaitSeq, execSwaitpx, execSexit, execScsrr, execPxldw, execPxga, execPxlda, execPxmm, execPxdm, execPxzero, execPxdrn,
      execPxbyp, execPxsave, execPxrest, execPxstat, seqAlu, seqSet, seqMem, pxWord]
    exact seqWord_next _ _ _ _ h
  | _ => cases hin

/-- Every micro-op gives a next state. -/
theorem exec_uop_next {i : Instr} {core : Nat} (h : s.issuer = .slot core) {u : BitVec 64} (hu : encodeUop i = some u) : ∃ t, exec i s = .next t := by
  cases i with
  | cntset | agset | piccoloSld | dq | trn | push | nextOp | endOp =>
    simp only [exec, execCntset, execAgset, execPiccoloSld, execDq, execTrn, execPush, execNextOp, execEndOp]
    exact uop_next _ _ _ h
  | _ => cases hu

theorem queuePacket_next {q : Nat} (h : s.issuer = .queue q) (f : Nat → Nat → State → State) : ∃ t, queuePacket s f = .next t := ⟨_, queuePacket_of_queue h⟩

/-- Every packet gives a next state. -/
theorem exec_packet_next {i : Instr} {q : Nat} (h : s.issuer = .queue q) {n : BitVec 32} {b : BitVec 512} (hb : encodePacket n i = some b) :
    ∃ t, exec i s = .next t := by
  cases i with
  | launch | barrier | signal | cancel | preempt | buffer =>
    simp only [exec, execLaunch, execBarrier, execSignal, execCancel, execPreempt, execBuffer]
    exact queuePacket_next h _
  | _ => cases hb

/-! The turns. -/

theorem Group.runOn_of_nextPort {g : Group} {second : Bool} {r : Run} (h : g.nextPort = some (second, r)) : g.runOn second = some r := by
  unfold Group.nextPort at h
  split at h
  next => cases h
  next h1 _ => cases h; exact (Option.filter_eq_some_iff.mp h1).1
  next h2 => cases h; exact (Option.filter_eq_some_iff.mp h2).1
  next h1 h2 =>
    split at h
    · cases h; exact (Option.filter_eq_some_iff.mp h1).1
    · cases h; exact (Option.filter_eq_some_iff.mp h2).1

theorem Group.setRun_runOn (g : Group) (second : Bool) (r : Option Run) : (g.setRun second r).runOn second = r := by cases second <;> rfl

theorem groupTurn_next (s : State) (gid : Nat) : ∃ t, s.groupTurn gid = .next t := by
  unfold State.groupTurn
  split
  · exact ⟨_, rfl⟩
  next g hg =>
  split
  · split <;> exact ⟨_, rfl⟩
  next second r hp =>
  unfold Run.here
  split
  · exact ⟨_, rfl⟩
  next i hi =>
    split at hi
    next j n hd =>
      cases hi
      obtain ⟨-, hin, henc, hpos, hlen⟩ := decodeWords_ok hd
      refine exec_group_next ⟨gid, second, _, _, rfl, State.grp_setGrp_self .., Group.setRun_runOn g second _⟩ hin ?_
      rw [henc]
      exact List.ne_nil_of_length_pos (by rw [List.length_take]; omega)
    next => cases hi

theorem seqTurn_next (s : State) (cl : Nat) : ∃ t, s.seqTurn cl = .next t := by
  unfold State.seqTurn
  split
  · exact ⟨_, rfl⟩
  · exact ⟨_, rfl⟩
  next i hi =>
    unfold State.seqNext at hi
    dsimp only at hi
    split at hi
    · cases hi
    split at hi
    · cases hi
    · cases hi
    next w hw =>
    split at hi
    next j n hd =>
      cases hi
      obtain ⟨-, hin, -⟩ := decodeWords_ok hd
      exact exec_seq_next rfl hin
    next => cases hi

theorem slotTurn_next (s : State) (core : Nat) : ∃ t, s.slotTurn core = .next t := by
  simp only [State.slotTurn]
  split
  · split
    · exact ⟨_, rfl⟩
    next i hi => exact exec_uop_next rfl (decodeUop_ok hi).2
  · exact ⟨_, rfl⟩

theorem queueTurn_next (s : State) (q : Nat) : ∃ t, s.queueTurn q = .next t := by
  unfold State.queueTurn
  split
  · exact ⟨_, rfl⟩
  split
  · exact ⟨_, rfl⟩
  next b _ i hi => exact exec_packet_next rfl (decodePacket_ok hi).2

theorem turn_next (s : State) (n : Turn) : ∃ t, s.turn n = .next t := by
  cases n with
  | clock => exact ⟨_, rfl⟩
  | group gid => exact groupTurn_next s gid
  | seq cl => exact seqTurn_next s cl
  | slot core => exact slotTurn_next s core
  | queue q => exact queueTurn_next s q
  | event i =>
    simp only [State.turn]
    split
    next h => exact exec_event_next _ h
    next => exact ⟨_, rfl⟩

theorem step_next (s : State) : ∃ t, step s = .next t := by
  unfold step
  split
  · exact turn_next _ _
  · exact turn_next _ _

/-- Settles O5: a turn runs only what its agent's decoder accepts, with that agent there, and every meaning then ends in a next state. -/
theorem stepsNeverStop : Obligations.StepsNeverStop :=
  ⟨step_next, fun _ _ _ _ _ _ _ _ h => groupWord_next h.issuer h.here h.run⟩

end Sys2Proof.Machine
end

section
/-! SUPPORT of O40. What a word of the stream does to the stream, and the checks of a target and of an access of the sequencer. -/

namespace Sys2Proof.Machine

variable {i : Instr} {b : Body} {s u : State} {f : Nat → Seq → SeqRes} {cl : Nat} {q q' : Seq} {c : Cause} {d0 : Dword}

/-! The outcome of a word of the stream, by what its meaning answers (R277). -/

/-- Memory, the log store, the groups and the counter are as before. -/
def SeqFrame (u s : State) : Prop := u.mems = s.mems ∧ u.store = s.store ∧ u.groups = s.groups ∧ u.pcc = s.pcc

theorem SeqFrame.refl (s : State) : SeqFrame s s := ⟨rfl, rfl, rfl, rfl⟩

theorem seqAsked_live (h : seqAsked s cl q) : q.st = .running ∧ q.trap = none := by
  obtain ⟨-, rfl, hl⟩ := h
  simp only [State.seqLive, Bool.and_eq_true, beq_iff_eq, Option.isNone_iff_eq_none] at hl
  obtain ⟨⟨⟨⟨hr, ht⟩, -⟩, -⟩, -⟩ := hl
  exact ⟨hr, ht⟩

theorem seqRuns_asked (h : seqRuns b s cl q) : seqAsked s cl q := h.1
theorem seqRuns_seqOf (h : seqRuns b s cl q) : s.seqOf cl = q := h.1.2.1

theorem seqRuns_word (h : seqRuns b s cl q) (f : Nat → Seq → SeqRes) : seqWord b s f = match f cl q with
    | .wait => .next s
    | .go t => .next (t.seqStep cl (q.spc + 12))
    | .jump t pc => .next (t.seqStep cl pc)
    | .park t => .next t
    | .trap t c d0 => .next (t.seqTrapAt cl c false q.spc d0)
    | .stop => .next ((s.seqStep cl q.spc).seqEnd cl .none none) := by
  obtain ⟨⟨hi, rfl, hl⟩, hg, hp⟩ := h
  exact seqWord_of_live hi hl hg hp

theorem seqOf_seqStep (hu : u.seqOf cl = q') (hp : u.pcc = s.pcc) (pc : Pc) : (u.seqStep cl pc).seqOf cl = { q' with spc := pc, stallFrom := s.pcc } := by
  rw [State.seqStep, State.seqOf_modSeq_self, hu, hp]

theorem seqGoes_of_seqStep {pc : Pc} (he : exec i s = .next (u.seqStep cl pc)) (hu : u.seqOf cl = q') (hf : SeqFrame u s) : seqGoes i s cl q' pc := by
  obtain ⟨hm, hst, hg, hp⟩ := hf
  exact ⟨_, he, seqOf_seqStep hu hp pc, hm, hst, hg⟩

theorem seqRuns_next (h : seqRuns b s cl q) (he : exec i s = seqWord b s f) (hf : f cl q = .go u) : exec i s = .next (u.seqStep cl (q.spc + 12)) := by
  rw [he, seqRuns_word h, hf]

theorem seqRuns_goes (h : seqRuns b s cl q) (he : exec i s = seqWord b s f) (hf : f cl q = .go u) (hu : u.seqOf cl = q') (hs : SeqFrame u s) :
    seqGoes i s cl q' (q.spc + 12) :=
  seqGoes_of_seqStep (seqRuns_next h he hf) hu hs

theorem seqRuns_jumps {pc : Pc} (h : seqRuns b s cl q) (he : exec i s = seqWord b s f) (hf : f cl q = .jump u pc) (hu : u.seqOf cl = q') (hs : SeqFrame u s) :
    seqGoes i s cl q' pc :=
  seqGoes_of_seqStep (by rw [he, seqRuns_word h, hf]) hu hs

theorem seqRuns_waits (h : seqRuns b s cl q) (he : exec i s = seqWord b s f) (hf : f cl q = .wait) : exec i s = .next s := by rw [he, seqRuns_word h, hf]

/-- A live stream that traps: its end, with the record to be written. -/
theorem seqStops_of_seqTrapAt {wpc : Pc} (hu : u.seqOf cl = q') (hl : q'.st = .running ∧ q'.trap = none) (hc : c ≠ .none) (hs : SeqFrame u s) :
    seqStops (u.seqTrapAt cl c false wpc d0) s cl q' c false wpc d0 := by
  obtain ⟨hm, -, hg, -⟩ := hs
  subst hu
  obtain ⟨hr, ht⟩ := hl
  rw [State.seqTrapAt_of_live _ _ _ _ ht (by simp [hr]), seqStops, ← hm, ← hg]
  exact seqStops_of_seqEnd hc ⟨rfl, rfl, rfl, rfl, rfl, rfl⟩

theorem seqRuns_stops (h : seqRuns b s cl q) (he : exec i s = seqWord b s f) (hf : f cl q = .trap u c d0) (hu : u.seqOf cl = q')
    (hl : q'.st = .running ∧ q'.trap = none) (hc : c ≠ .none) (hs : SeqFrame u s) : ∃ t, exec i s = .next t ∧ seqStops t s cl q' c false q.spc d0 :=
  ⟨_, by rw [he, seqRuns_word h, hf], seqStops_of_seqTrapAt hu hl hc hs⟩

theorem seqRuns_traps (h : seqRuns b s cl q) (he : exec i s = seqWord b s f) (hf : f cl q = .trap s c d0) (hc : c ≠ .none) : seqTraps i s cl q c d0 :=
  seqRuns_stops h he hf (seqRuns_seqOf h) (seqAsked_live (seqRuns_asked h)) hc (.refl s)

theorem seqAsked_illop (h : seqAsked s cl q) (he : exec i s = seqWord b s f) (hb : b.good = false) : seqTraps i s cl q .illop 0 := by
  obtain ⟨hi, hq, hl⟩ := h
  refine ⟨s.seqTrapAt cl .illop false q.spc 0, ?_, seqStops_of_seqTrapAt hq (seqAsked_live ⟨hi, hq, hl⟩) (by decide) (.refl s)⟩
  subst hq
  simp [he, seqWord, hi, hl, hb]

theorem seqAsked_pends (h : seqAsked s cl q) (he : exec i s = seqWord b s f) (hb : b.good = true) (hp : ∃ r ∈ seqRegs b, r ∈ q.pending) :
    exec i s = .next s := by
  obtain ⟨hi, rfl, hl⟩ := h
  simp [he, seqWord, hi, hl, hb, hp]

/-! Words that write one register (R278, R279, R282). -/

theorem Seq.reg_setReg (q : Seq) (d m : Nat) (v : Dword) : (q.setReg d v).reg m = if m = d then v else q.reg m := FMap.getD_put ..

theorem seqRuns_sets {d : Nat} {v : Dword} (h : seqRuns b s cl q) (he : exec i s = seqWord b s f) (hf : f cl q = .go u) (hu : u.seqOf cl = q.setReg d v)
    (hs : SeqFrame u s) : seqSets i s cl q d v (q.spc + 12) :=
  ⟨_, seqRuns_goes h he hf hu hs, fun m => q.reg_setReg d m v⟩

theorem seqSet_rules {opc : Nat} {w : Ctl} {g : Seq → Dword} {v : Dword} (hb : bodyOf i = .ctl opc w) (he : exec i s = seqSet opc w s g) (hv : g q = v) :
    (seqRuns (bodyOf i) s cl q → seqSets i s cl q (vReg w.d) v (q.spc + 12)) ∧
    (seqAsked s cl q → (bodyOf i).good = false → seqTraps i s cl q .illop 0) ∧
    (seqAsked s cl q → (bodyOf i).good = true → (∃ r ∈ seqRegs (bodyOf i), r ∈ q.pending) → exec i s = .next s) := by
  rw [hb]
  refine ⟨fun h => seqRuns_sets h he rfl ?_ ⟨rfl, rfl, rfl, rfl⟩, fun h => seqAsked_illop h he, fun h => seqAsked_pends h he⟩
  rw [State.seqOf_modSeq_self, seqRuns_seqOf h, hv]

/-- An arithmetic shift by 63 leaves the sign alone, as a longer one would. -/
theorem sshiftRight_min (a : Dword) (n : Nat) :
    a.sshiftRight (min 63 n) = if 64 ≤ n then (if a.msb then BitVec.allOnes 64 else 0) else a.sshiftRight n := by
  split
  next h =>
    rw [Nat.min_eq_left (by omega)]
    ext k hk
    have hmsb : a[63] = a.msb := by rw [BitVec.msb_eq_getLsbD_last]; rfl
    have hsign : (a.sshiftRight 63)[k] = a.msb := by
      rw [BitVec.getElem_sshiftRight]
      split
      next h0 =>
        obtain rfl : k = 0 := by omega
        exact hmsb
      next => rfl
    rw [hsign]
    cases a.msb
    · exact (BitVec.getElem_zero hk).symm
    · exact (BitVec.getElem_allOnes k hk).symm
  next h => rw [Nat.min_eq_right (by omega)]

theorem seqAlu_rules {opc : Nat} {w : Ctl} {g : Dword → Dword → Dword} {v : Dword} (hb : bodyOf i = .ctl opc w) (he : exec i s = seqAlu opc w s g)
    (hv : g (q.val w.a) (q.val w.b) = v) :
    (seqRuns (bodyOf i) s cl q → seqSets i s cl q (vReg w.d) v (q.spc + 12)) ∧
    (seqAsked s cl q → (bodyOf i).good = false → seqTraps i s cl q .illop 0) ∧
    (seqAsked s cl q → (bodyOf i).good = true → (∃ r ∈ seqRegs (bodyOf i), r ∈ q.pending) → exec i s = .next s) :=
  seqSet_rules hb he hv

theorem sequencerArithmetic : sequencerArithmeticRules := by
  intro w s cl q
  refine ⟨?add, ?sub, ?mul, ?and, ?or, ?xor, ?shl, ?shr, ?mov, ?movi, ?cmp, ?csr⟩
  case add => exact seqAlu_rules (g := fun a b => a + b) rfl rfl rfl
  case sub => exact seqAlu_rules (g := fun a b => a - b) rfl rfl rfl
  case mul => exact seqAlu_rules (g := fun a b => a * b) rfl rfl rfl
  case and => exact seqAlu_rules (g := fun a b => a &&& b) rfl rfl rfl
  case or => exact seqAlu_rules (g := fun a b => a ||| b) rfl rfl rfl
  case xor => exact seqAlu_rules (g := fun a b => a ^^^ b) rfl rfl rfl
  case shl => exact seqAlu_rules (g := fun a b => if 64 ≤ b.toNat then 0 else a <<< b.toNat) rfl rfl rfl
  case shr =>
    exact seqAlu_rules (g := fun a b => if w.mod.getLsbD 0 then a.sshiftRight (min 63 b.toNat) else if 64 ≤ b.toNat then 0 else a >>> b.toNat) rfl rfl
      (by rw [sshiftRight_min])
  case mov => exact seqSet_rules (g := fun q => q.val w.a) rfl rfl rfl
  case movi =>
    exact seqSet_rules (g := fun q => if w.mod.getLsbD 0 then w.imm ++ (q.reg (vReg w.d)).setWidth 32 else w.imm.signExtend 64) rfl rfl
      (by rw [BitVec.setWidth_eq_extractLsb' (by omega)])
  case cmp =>
    have hrel : w.mod.toNat % 8 = (w.mod.extractLsb' 0 3).toNat := by simp [BitVec.extractLsb'_toNat]
    rw [hrel]
    exact seqAlu_rules (g := fun a b =>
      let i (x : Dword) : Int := if w.mod.getLsbD 3 then x.toInt else (x.toNat : Int)
      if relInt (w.mod.extractLsb' 0 3).toNat (i a) (i b) then 1 else 0) rfl rfl rfl
  case csr => exact seqSet_rules (g := fun _ => s.pcc) rfl rfl rfl

/-! Targets (R280). -/

theorem seqTarget_eq {l : Launch} (hl : s.launchOf q.launch = some l) (t : Int) :
    s.seqTarget cl q t = if t < 0 ∨ 2 ^ 48 ≤ t ∨ (t - (l.codeBase : Int)) % 12 ≠ 0 then some .illop
      else (s.fetchCheck cl q.ctx t.toNat).or (s.fetchCheck cl q.ctx (t.toNat + 11)) := by
  simp only [State.seqTarget, hl, Option.map_some, Option.getD_some, ge_iff_le]
  cases s.fetchCheck cl q.ctx t.toNat <;> rfl

theorem fetchCheck_ne_none (s : State) (cl ctx addr : Nat) : s.fetchCheck cl ctx addr ≠ some .none := by
  unfold State.fetchCheck
  repeat' split
  all_goals simp

theorem seqTarget_ne_none {t : Int} (h : s.seqTarget cl q t = some c) : c ≠ .none := by
  rintro rfl
  unfold State.seqTarget at h
  dsimp only at h
  split at h
  · cases h
  split at h
  next hc => exact fetchCheck_ne_none _ _ _ _ (hc.trans h)
  next => exact fetchCheck_ne_none _ _ _ _ h

/-- What holds of every cause that the checks of a target give, by the check that fails. -/
theorem seqTarget_checks {l : Launch} {t : Int} {P : Cause → Prop} (hl : s.launchOf q.launch = some l) (h : ∀ c, s.seqTarget cl q t = some c → P c) :
    ((t < 0 ∨ 2 ^ 48 ≤ t ∨ (t - (l.codeBase : Int)) % 12 ≠ 0) → P .illop) ∧
    (∀ c, ¬ (t < 0 ∨ 2 ^ 48 ≤ t ∨ (t - (l.codeBase : Int)) % 12 ≠ 0) → s.fetchCheck cl q.ctx t.toNat = some c → P c) ∧
    (∀ c, ¬ (t < 0 ∨ 2 ^ 48 ≤ t ∨ (t - (l.codeBase : Int)) % 12 ≠ 0) → s.fetchCheck cl q.ctx t.toNat = none →
      s.fetchCheck cl q.ctx (t.toNat + 11) = some c → P c) := by
  simp only [seqTarget_eq hl] at h
  exact ⟨fun ho => h _ (if_pos ho), fun c ho h1 => h c (by rw [if_neg ho, h1]; rfl), fun c ho h1 h2 => h c (by rw [if_neg ho, h1, h2]; rfl)⟩

theorem seqTarget_good {l : Launch} {t : Int} (hl : s.launchOf q.launch = some l) (ho : ¬ (t < 0 ∨ 2 ^ 48 ≤ t ∨ (t - (l.codeBase : Int)) % 12 ≠ 0))
    (h1 : s.fetchCheck cl q.ctx t.toNat = none) (h2 : s.fetchCheck cl q.ctx (t.toNat + 11) = none) : s.seqTarget cl q t = none := by
  rw [seqTarget_eq hl, if_neg ho, h1, h2]; rfl

theorem fetchCheck_modSeq (s : State) (cl ctx addr : Nat) (f : Seq → Seq) : (s.modSeq cl f).fetchCheck cl ctx addr = s.fetchCheck cl ctx addr := by
  have hlib : ((s.modSeq cl f).cl cl).lib = (s.cl cl).lib := by rw [State.modSeq, State.cl_modCl_self]
  have hhdr : (s.modSeq cl f).hdrFor cl ctx addr = s.hdrFor cl ctx addr := by unfold State.hdrFor; rw [hlib]; rfl
  unfold State.fetchCheck
  rw [hhdr]

theorem seqTarget_modSeq (s : State) (cl : Nat) (q : Seq) (t : Int) (f : Seq → Seq) : (s.modSeq cl f).seqTarget cl q t = s.seqTarget cl q t := by
  unfold State.seqTarget
  simp only [fetchCheck_modSeq]
  rfl

/-! Branches (R280). -/

/-- What SBR does. -/
def sbrRes (w : Ctl) (s : State) (cl : Nat) (q : Seq) : SeqRes :=
  match s.seqTarget cl q (targetOf q.spc.toNat w.imm) with
  | some c => .trap s c 0
  | none => if xor (q.val w.a != 0) (w.mod.getLsbD 0) then .jump s (BitVec.ofInt 48 (targetOf q.spc.toNat w.imm)) else .go s

theorem exec_sbr (w : Ctl) (s : State) : exec (.sbr w) s = seqWord (.ctl 0x28B w) s (sbrRes w s) := rfl

theorem sbr_traps {w : Ctl} (h : seqRuns (bodyOf (.sbr w)) s cl q) (ht : s.seqTarget cl q (targetOf q.spc.toNat w.imm) = some c) :
    seqTraps (.sbr w) s cl q c 0 :=
  seqRuns_traps h (exec_sbr w s) (by rw [sbrRes, ht]) (seqTarget_ne_none ht)

theorem sbr_goes {w : Ctl} (h : seqRuns (bodyOf (.sbr w)) s cl q) (ht : s.seqTarget cl q (targetOf q.spc.toNat w.imm) = none) :
    seqGoes (.sbr w) s cl q (if (q.val w.a = 0) = (w.mod.getLsbD 0 = true) then BitVec.ofInt 48 (targetOf q.spc.toNat w.imm) else q.spc + 12) := by
  have hres : sbrRes w s cl q = if (q.val w.a = 0) = (w.mod.getLsbD 0 = true) then .jump s (BitVec.ofInt 48 (targetOf q.spc.toNat w.imm)) else .go s := by
    rw [sbrRes, ht]
    by_cases ha : q.val w.a = 0 <;> cases w.mod.getLsbD 0 <;> simp [ha]
  by_cases hb : (q.val w.a = 0) = (w.mod.getLsbD 0 = true)
  · rw [if_pos hb] at hres ⊢
    exact seqRuns_jumps h (exec_sbr w s) hres (seqRuns_seqOf h) (.refl s)
  · rw [if_neg hb] at hres ⊢
    exact seqRuns_goes h (exec_sbr w s) hres (seqRuns_seqOf h) (.refl s)

/-- The stream with the link of a word in its register. -/
def Seq.linked (w : Ctl) (q : Seq) : Seq := if w.mod.getLsbD 1 then q.setReg (vReg w.d) ((q.spc + 12).setWidth 64) else q

/-- The target of an SJMP, read after the link is written. -/
def Seq.sjmpTarget (w : Ctl) (q : Seq) : Int :=
  if w.mod.getLsbD 0 then (((q.linked w).val w.a).toNat % 2 ^ 48 : Nat) else targetOf q.spc.toNat w.imm

/-- The state with the link written. -/
def State.seqLinked (s : State) (cl : Nat) (w : Ctl) (q : Seq) : State :=
  if w.mod.getLsbD 1 then s.modSeq cl (fun x => x.setReg (vReg w.d) ((q.spc + 12).setWidth 64)) else s

theorem seqOf_seqLinked (w : Ctl) (h : s.seqOf cl = q) : (s.seqLinked cl w q).seqOf cl = q.linked w := by
  unfold State.seqLinked Seq.linked
  split
  · rw [State.seqOf_modSeq_self, h]
  · exact h

theorem seqTarget_seqLinked (s : State) (cl : Nat) (w : Ctl) (q : Seq) (t : Int) : (s.seqLinked cl w q).seqTarget cl q t = s.seqTarget cl q t := by
  unfold State.seqLinked
  split
  · exact seqTarget_modSeq ..
  · rfl

theorem seqLinked_frame (s : State) (cl : Nat) (w : Ctl) (q : Seq) : SeqFrame (s.seqLinked cl w q) s := by
  unfold State.seqLinked
  split
  · exact ⟨rfl, rfl, rfl, rfl⟩
  · exact .refl s

theorem Seq.linked_live (w : Ctl) (h : q.st = .running ∧ q.trap = none) : (q.linked w).st = .running ∧ (q.linked w).trap = none := by
  unfold Seq.linked
  split
  · exact h
  · exact h

/-- What SJMP does. -/
def sjmpRes (w : Ctl) (s : State) (cl : Nat) (q : Seq) : SeqRes :=
  let t : Int := if w.mod.getLsbD 0 then (((((s.seqLinked cl w q).seqOf cl).val w.a).extractLsb' 0 48).toNat : Int) else targetOf q.spc.toNat w.imm
  match (s.seqLinked cl w q).seqTarget cl q t with
  | some c => .trap (s.seqLinked cl w q) c 0
  | none => .jump (s.seqLinked cl w q) (BitVec.ofInt 48 t)

theorem exec_sjmp (w : Ctl) (s : State) : exec (.sjmp w) s = seqWord (.ctl 0x28C w) s (sjmpRes w s) := rfl

theorem sjmpRes_eq (w : Ctl) (h : s.seqOf cl = q) : sjmpRes w s cl q = match s.seqTarget cl q (q.sjmpTarget w) with
    | some c => .trap (s.seqLinked cl w q) c 0
    | none => .jump (s.seqLinked cl w q) (BitVec.ofInt 48 (q.sjmpTarget w)) := by
  have ht : (if w.mod.getLsbD 0 then (((((s.seqLinked cl w q).seqOf cl).val w.a).extractLsb' 0 48).toNat : Int) else targetOf q.spc.toNat w.imm) = q.sjmpTarget w := by
    rw [seqOf_seqLinked w h, Seq.sjmpTarget, BitVec.extractLsb'_toNat, Nat.shiftRight_zero]
  unfold sjmpRes
  rw [ht]
  dsimp only
  rw [seqTarget_seqLinked]

theorem sjmp_stops {w : Ctl} (h : seqRuns (bodyOf (.sjmp w)) s cl q) (ht : s.seqTarget cl q (q.sjmpTarget w) = some c) :
    ∃ t, exec (.sjmp w) s = .next t ∧ seqStops t s cl (q.linked w) c false q.spc 0 :=
  seqRuns_stops h (exec_sjmp w s) (by rw [sjmpRes_eq w (seqRuns_seqOf h), ht]) (seqOf_seqLinked w (seqRuns_seqOf h))
    (Seq.linked_live w (seqAsked_live (seqRuns_asked h))) (seqTarget_ne_none ht) (seqLinked_frame ..)

theorem sjmp_goes {w : Ctl} (h : seqRuns (bodyOf (.sjmp w)) s cl q) (ht : s.seqTarget cl q (q.sjmpTarget w) = none) :
    seqGoes (.sjmp w) s cl (q.linked w) (BitVec.ofInt 48 (q.sjmpTarget w)) :=
  seqRuns_jumps h (exec_sjmp w s) (by rw [sjmpRes_eq w (seqRuns_seqOf h), ht]) (seqOf_seqLinked w (seqRuns_seqOf h)) (seqLinked_frame ..)

/-! Mailboxes, waits and the end (R282, R284, R288). -/

theorem Cluster.box_setBox (c : Cluster) (m : Nat) (ps : List MailPlace) (j : Nat) : (c.setBox m ps).box j = if j = m then ps else c.box j :=
  FMap.getD_put ..

/-- The place that a stream's SQPOST reserves. -/
def seqPlace (w : Ctl) (s : State) (q : Seq) : MailPlace := { msg := q.val w.a, ready := false, lost := false, byGroup := none, upto := s.fresh }

/-- What SQPOST of a stream does. -/
def sqpostRes (w : Ctl) (s : State) (cl : Nat) (q : Seq) : SeqRes :=
  if (s.heldM cl).getLsbD (mailBox w) || decide (4 ≤ ((s.cl cl).box (mailBox w)).length) then .wait
  else .go (s.modCl cl (fun c => c.setBox (mailBox w)
    ((s.cl cl).box (mailBox w) ++ [seqPlace w s q])))

theorem exec_sqpostSeq (w : Ctl) (s : State) : exec (.sqpostSeq w) s = seqWord (.ctl 0x28F w) s (sqpostRes w s) := rfl

theorem mailBox_eq (w : Ctl) : mailBox w = w.imm.toNat % 16 := by simp [mailBox, BitVec.extractLsb'_toNat]

theorem box_seqStep (u : State) (cl : Nat) (pc : Pc) (j : Nat) : ((u.seqStep cl pc).cl cl).box j = (u.cl cl).box j := by
  rw [State.seqStep, State.modSeq, State.cl_modCl_self]; rfl

theorem seqOf_setBox (h : s.seqOf cl = q) (m : Nat) (ps : List MailPlace) : (s.modCl cl (fun c => c.setBox m ps)).seqOf cl = q := by
  rw [State.seqOf, State.cl_modCl_self]; exact h

theorem sqpostSeq_waits {w : Ctl} (h : seqRuns (bodyOf (.sqpostSeq w)) s cl q)
    (hw : (s.heldM cl).getLsbD (mailBox w) = true ∨ 4 ≤ ((s.cl cl).box (mailBox w)).length) : exec (.sqpostSeq w) s = .next s :=
  seqRuns_waits h (exec_sqpostSeq w s) (if_pos (by simpa using hw))

theorem sqpostSeq_posts {w : Ctl} (h : seqRuns (bodyOf (.sqpostSeq w)) s cl q)
    (hw : ¬ ((s.heldM cl).getLsbD (mailBox w) = true ∨ 4 ≤ ((s.cl cl).box (mailBox w)).length)) :
    seqGoes (.sqpostSeq w) s cl q (q.spc + 12) ∧ ∀ t, exec (.sqpostSeq w) s = .next t → ∀ j, (t.cl cl).box j = if j = mailBox w then
      (s.cl cl).box (mailBox w) ++ [seqPlace w s q] else (s.cl cl).box j := by
  have hres : sqpostRes w s cl q = .go (s.modCl cl (fun c => c.setBox (mailBox w) ((s.cl cl).box (mailBox w) ++ [seqPlace w s q]))) :=
    if_neg (by simpa using hw)
  refine ⟨seqRuns_goes h (exec_sqpostSeq w s) hres (seqOf_setBox (seqRuns_seqOf h) ..) ⟨rfl, rfl, rfl, rfl⟩, fun t ht j => ?_⟩
  rw [seqRuns_next h (exec_sqpostSeq w s) hres] at ht
  cases ht
  rw [box_seqStep, State.cl_modCl_self, Cluster.box_setBox]

/-- What SQWAIT of a stream does. -/
def sqwaitRes (w : Ctl) (s : State) (cl : Nat) (q : Seq) : SeqRes :=
  match (s.cl cl).box (mailBox w) with
  | [] => if s.groups.any (fun p => p.2.launch == q.launch && p.2.block == q.block) then .wait else .trap s .seqerr 0
  | p :: ps =>
    if (s.heldM cl).getLsbD (mailBox w) || !s.takeable cl p then .wait
    else .go ((s.modCl cl (fun c => c.setBox (mailBox w) ps)).modSeq cl (fun x => x.setReg (vReg w.d) p.msg))

theorem exec_sqwaitSeq (w : Ctl) (s : State) : exec (.sqwaitSeq w) s = seqWord (.ctl 0x290 w) s (sqwaitRes w s) := rfl

theorem blockGroups_any (s : State) (q : Seq) :
    (s.groups.any (fun p => p.2.launch == q.launch && p.2.block == q.block)) = true ↔ ∃ p ∈ s.groups, p.2.launch = q.launch ∧ p.2.block = q.block := by
  simp only [List.any_eq_true, Bool.and_eq_true, beq_iff_eq]

theorem sqwaitSeq_empty_waits {w : Ctl} (h : seqRuns (bodyOf (.sqwaitSeq w)) s cl q) (hb : (s.cl cl).box (mailBox w) = [])
    (hg : ∃ p ∈ s.groups, p.2.launch = q.launch ∧ p.2.block = q.block) : exec (.sqwaitSeq w) s = .next s :=
  seqRuns_waits h (exec_sqwaitSeq w s) (by rw [sqwaitRes, hb]; exact if_pos ((blockGroups_any s q).mpr hg))

theorem sqwaitSeq_empty_traps {w : Ctl} (h : seqRuns (bodyOf (.sqwaitSeq w)) s cl q) (hb : (s.cl cl).box (mailBox w) = [])
    (hg : ¬ ∃ p ∈ s.groups, p.2.launch = q.launch ∧ p.2.block = q.block) : seqTraps (.sqwaitSeq w) s cl q .seqerr 0 :=
  seqRuns_traps h (exec_sqwaitSeq w s) (by rw [sqwaitRes, hb]; exact if_neg (mt (blockGroups_any s q).mp hg)) (by decide)

theorem sqwaitSeq_held_waits {w : Ctl} {p : MailPlace} {ps : List MailPlace} (h : seqRuns (bodyOf (.sqwaitSeq w)) s cl q)
    (hb : (s.cl cl).box (mailBox w) = p :: ps) (hw : (s.heldM cl).getLsbD (mailBox w) = true ∨ s.takeable cl p = false) : exec (.sqwaitSeq w) s = .next s :=
  seqRuns_waits h (exec_sqwaitSeq w s) (by rw [sqwaitRes, hb]; exact if_pos (by simpa using hw))

theorem sqwaitSeq_takes {w : Ctl} {p : MailPlace} {ps : List MailPlace} (h : seqRuns (bodyOf (.sqwaitSeq w)) s cl q)
    (hb : (s.cl cl).box (mailBox w) = p :: ps) (hm : (s.heldM cl).getLsbD (mailBox w) = false) (ht : s.takeable cl p = true) :
    seqSets (.sqwaitSeq w) s cl q (vReg w.d) p.msg (q.spc + 12) ∧ ∀ t, exec (.sqwaitSeq w) s = .next t → (t.cl cl).box (mailBox w) = ps := by
  have hres : sqwaitRes w s cl q = .go ((s.modCl cl (fun c => c.setBox (mailBox w) ps)).modSeq cl (fun x => x.setReg (vReg w.d) p.msg)) := by
    rw [sqwaitRes, hb]; exact if_neg (by simp [hm, ht])
  refine ⟨seqRuns_sets h (exec_sqwaitSeq w s) hres ?_ ⟨rfl, rfl, rfl, rfl⟩, fun t ht => ?_⟩
  · rw [State.seqOf_modSeq_self, seqOf_setBox (seqRuns_seqOf h)]
  · rw [seqRuns_next h (exec_sqwaitSeq w s) hres] at ht
    cases ht
    rw [box_seqStep, State.modSeq, State.cl_modCl_self, State.cl_modCl_self]
    exact (Cluster.box_setBox ..).trans (if_pos rfl)

theorem exec_swaitpx (w : Ctl) (s : State) :
    exec (.swaitpx w) s = seqWord (.ctl 0x291 w) s (fun _ q => if q.pxq.length ≤ (w.imm.extractLsb' 0 5).toNat then .go s else .wait) := rfl

theorem swaitpx_bound (w : Ctl) : (w.imm.extractLsb' 0 5).toNat = w.imm.toNat % 32 := by simp [BitVec.extractLsb'_toNat]

theorem sexit_ends {w : Ctl} (h : seqRuns (bodyOf (.sexit w)) s cl q) : ∃ t, exec (.sexit w) s = .next t ∧
    t.seqOf cl = { q with st := .ended, cause := .none, trap := none, stallFrom := s.pcc } ∧ (t.cl cl).mailOpen = false ∧ t.mems = s.mems ∧
    t.store = s.store ∧ t.groups = s.groups := by
  have he : exec (.sexit w) s = seqWord (.ctl 0x292 w) s (fun _ _ => .stop) := rfl
  refine ⟨_, he.trans (seqRuns_word h _), ?_, State.mailOpen_seqEnd .., rfl, rfl, rfl⟩
  have hcl : ((s.seqStep cl q.spc).seqEnd cl .none none).seqOf cl = { (s.seqStep cl q.spc).seqOf cl with st := .ended, cause := .none, trap := none } := by
    rw [State.seqOf]; exact congrArg Cluster.seq (FMap.getD_put_self ..)
  rw [hcl, seqOf_seqStep (seqRuns_seqOf h) rfl]

theorem sequencerControl : sequencerControlRules := by
  intro w s cl q l hl
  dsimp only
  refine ⟨fun h => ?sbr, fun h => ?sjmp, fun h => ?sqpost, fun h => ?sqwait, fun h => ?swaitpx, sexit_ends⟩
  case sbr =>
    exact ⟨seqTarget_checks hl (fun c => sbr_traps h), fun ⟨ho, h1, h2⟩ => sbr_goes h (seqTarget_good hl ho h1 h2)⟩
  case sjmp =>
    obtain ⟨hoff, hfirst, hlast⟩ := seqTarget_checks hl (fun c => sjmp_stops (c := c) h)
    refine ⟨fun hm m => ?_, hoff, hfirst, hlast, fun ⟨ho, h1, h2⟩ => sjmp_goes h (seqTarget_good hl ho h1 h2)⟩
    rw [if_pos hm, Seq.reg_setReg]
  case sqpost =>
    rw [← mailBox_eq]
    refine ⟨sqpostSeq_waits h, fun hw => ?_⟩
    obtain ⟨hgo, hbox⟩ := sqpostSeq_posts h hw
    exact ⟨hgo, fun t ht => ⟨⟨_, (hbox t ht _).trans (if_pos rfl), rfl, rfl, rfl, rfl, rfl⟩, fun j hj => (hbox t ht j).trans (if_neg hj)⟩⟩
  case sqwait =>
    rw [← mailBox_eq]
    exact ⟨sqwaitSeq_empty_waits h, sqwaitSeq_empty_traps h, fun p ps hb => ⟨sqwaitSeq_held_waits h hb, sqwaitSeq_takes h hb⟩⟩
  case swaitpx =>
    rw [← swaitpx_bound]
    exact ⟨fun hn => seqRuns_goes h (exec_swaitpx w s) (if_pos hn) (seqRuns_seqOf h) (.refl s),
      fun hn => seqRuns_waits h (exec_swaitpx w s) (if_neg (by omega))⟩

/-! Accesses (R130, R281). -/

/-- The address of an SLD or SST in its space. -/
def seqMemAddr (w : Ctl) (q : Seq) : Nat := if seqSpace w = .gl then (seqAddr q w).toNat else ((seqAddr q w).setWidth 32).toNat

/-- What an SLD or an SST does. -/
def seqMemRes (load : Bool) (w : Ctl) (s : State) (cl : Nat) (q : Seq) : SeqRes :=
  match s.seqChk cl q (seqSpace w) (seqMemAddr w q) (seqWidth w) with
  | .bad c => .trap s c (BitVec.ofNat 64 (seqMemAddr w q))
  | .park pg => .park (s.addWaiter (clusterDie cl) pg (.seq cl) q.launch q.ctx)
  | .ok _ _ => .go (s.seqAccess cl w load (seqSpace w) (seqMemAddr w q) (q.reg (vReg w.d)))

theorem seqMem_eq (opc : Nat) (load : Bool) (w : Ctl) (s : State) : seqMem opc load w s = seqWord (.ctl opc w) s (seqMemRes load w s) := rfl

theorem translate_bad_ne_none {ctx addr : Nat} {n : Need} (h : s.translate cl ctx addr n = .bad c) : c ≠ .none := by
  rintro rfl
  revert h
  unfold State.translate
  repeat' split
  all_goals grind

section
variable {load : Bool} {w : Ctl} {opc : Nat}

theorem seqMem_traps (h : seqRuns (.ctl opc w) s cl q) (he : exec i s = seqMem opc load w s)
    (hk : s.seqChk cl q (seqSpace w) (seqMemAddr w q) (seqWidth w) = .bad c) (hc : c ≠ .none) :
    seqTraps i s cl q c (BitVec.ofNat 64 (seqMemAddr w q)) :=
  seqRuns_traps h (he.trans (seqMem_eq ..)) (by rw [seqMemRes, hk]) hc

theorem seqMem_parks {pg : Nat} (h : seqRuns (.ctl opc w) s cl q) (he : exec i s = seqMem opc load w s)
    (hk : s.seqChk cl q (seqSpace w) (seqMemAddr w q) (seqWidth w) = .park pg) :
    ∃ t, exec i s = .next t ∧ t.seqOf cl = q ∧ (∃ x ∈ t.waiters, x.2.who = .seq cl) ∧ t.mems = s.mems ∧ t.groups = s.groups :=
  ⟨s.addWaiter (clusterDie cl) pg (.seq cl) q.launch q.ctx, by rw [he, seqMem_eq, seqRuns_word h, seqMemRes, hk], (seqRuns_seqOf h :),
    ⟨_, FMap.mem_of_get? (FMap.get?_set_self s.waiters s.fresh _), rfl⟩, rfl, rfl⟩

/-- The access that an SLD or SST sends. -/
def seqAccOf (s : State) (cl : Nat) (w : Ctl) (load : Bool) (q : Seq) : SeqAcc :=
  { reg := vReg w.d, sgn := w.mod.getLsbD 5, acc := Piece.of (seqCore cl) (seqSpace w) s.pcc (!load) (seqMemAddr w q) (seqWidth w) (q.reg (vReg w.d)).toNat
    asked := false, ownMask := 0, own := 0 }

theorem seqMem_issues {mt : BitVec 2} {rm : Bool} (h : seqRuns (.ctl opc w) s cl q) (he : exec i s = seqMem opc load w s)
    (hk : s.seqChk cl q (seqSpace w) (seqMemAddr w q) (seqWidth w) = .ok mt rm) : ∃ x : SeqAcc, seqGoes i s cl { q with accs := q.accs.set s.fresh x } (q.spc + 12) ∧
      x.reg = vReg w.d ∧ x.sgn = w.mod.getLsbD 5 ∧ x.asked = false ∧ x.acc.space = seqSpace w ∧ x.acc.addr = seqMemAddr w q ∧ x.acc.width = seqWidth w ∧
      x.acc.write = !load ∧ x.acc.data = (q.reg (vReg w.d)).toNat ∧ x.acc.servedAt = none ∧
      x.acc.arriveAt = s.pcc + BitVec.ofNat 64 (padDist (24 * cl) (seqSpace w) (seqMemAddr w q)) := by
  refine ⟨seqAccOf s cl w load q, seqRuns_goes (u := s.seqAccess cl w load (seqSpace w) (seqMemAddr w q) (q.reg (vReg w.d))) h (he.trans (seqMem_eq ..))
    (by rw [seqMemRes, hk]) ?_ ⟨rfl, rfl, rfl, rfl⟩, rfl, rfl, rfl, rfl, rfl, rfl, rfl, rfl, rfl, rfl⟩
  exact (State.seqOf_modSeq_self ..).trans (congrArg (fun q' : Seq => { q' with accs := q'.accs.set s.fresh (seqAccOf s cl w load q) }) (seqRuns_seqOf h))

end

/-- An access that translation answers. -/
theorem seqChk_gl {a n : Nat} (ha : a % n = 0) : s.seqChk cl q .gl a n = match s.translate cl q.ctx a (needLoad n) with
    | .ok h => if h.mtype.toNat ≥ 2 then .bad .access else .ok h.mtype h.remote
    | .bad c => .bad c
    | .park p => .park p := by
  unfold State.seqChk
  refine (if_neg (by simpa using ha)).trans ((if_pos rfl).trans ?_)
  cases s.translate cl q.ctx a (needLoad n) <;> rfl

theorem seqChk_pad {a n : Nat} {sp : Space} (ha : a % n = 0) (hsp : sp ≠ .gl) :
    s.seqChk cl q sp a n = if s.padOk q.launch (24 * cl) sp a n then .ok 0 false else .bad .space := by
  rw [State.seqChk, if_neg (by simpa using ha), if_neg hsp]; rfl

theorem seqMem_rules {opc : Nat} {load : Bool} {w : Ctl} {sp : Space} {n a : Nat} (h : seqRuns (.ctl opc w) s cl q) (he : exec i s = seqMem opc load w s)
    (hsp : seqSpace w = sp) (hn : seqWidth w = n) (ha : seqMemAddr w q = a) :
    (a % n ≠ 0 → seqTraps i s cl q .align (BitVec.ofNat 64 a)) ∧
    (a % n = 0 → sp ≠ .gl → s.padOk q.launch (24 * cl) sp a n = false → seqTraps i s cl q .space (BitVec.ofNat 64 a)) ∧
    (∀ c, a % n = 0 → sp = .gl → s.translate cl q.ctx a (needLoad n) = .bad c → seqTraps i s cl q c (BitVec.ofNat 64 a)) ∧
    (∀ h, a % n = 0 → sp = .gl → s.translate cl q.ctx a (needLoad n) = .ok h → 2 ≤ h.mtype.toNat → seqTraps i s cl q .access (BitVec.ofNat 64 a)) ∧
    (∀ pg, a % n = 0 → sp = .gl → s.translate cl q.ctx a (needLoad n) = .park pg → ∃ t, exec i s = .next t ∧
      t.seqOf cl = q ∧ (∃ x ∈ t.waiters, x.2.who = .seq cl) ∧ t.mems = s.mems ∧ t.groups = s.groups) ∧
    (a % n = 0 → (sp ≠ .gl ∧ s.padOk q.launch (24 * cl) sp a n = true ∨
        sp = .gl ∧ ∃ h, s.translate cl q.ctx a (needLoad n) = .ok h ∧ h.mtype.toNat < 2) →
      ∃ x : SeqAcc, seqGoes i s cl { q with accs := q.accs.set s.fresh x } (q.spc + 12) ∧ x.reg = vReg w.d ∧ x.sgn = w.mod.getLsbD 5 ∧ x.asked = false ∧
        x.acc.space = sp ∧ x.acc.addr = a ∧ x.acc.width = n ∧ x.acc.write = !load ∧ x.acc.data = (q.reg (vReg w.d)).toNat ∧ x.acc.servedAt = none ∧
        x.acc.arriveAt = s.pcc + BitVec.ofNat 64 (padDist (24 * cl) sp a)) := by
  subst hsp hn ha
  refine ⟨fun hal => ?align, fun hal hgl hp => ?space, fun c hal hgl ht => ?bad, fun g hal hgl ht hm => ?access, fun pg hal hgl ht => ?park, fun hal hok => ?ok⟩
  case align => exact seqMem_traps h he (if_pos hal) (by decide)
  case space => exact seqMem_traps h he (by rw [seqChk_pad hal hgl, hp]; rfl) (by decide)
  case bad => exact seqMem_traps h he (by rw [hgl, seqChk_gl hal, ht]) (translate_bad_ne_none ht)
  case access => exact seqMem_traps h he (by rw [hgl, seqChk_gl hal, ht]; exact if_pos hm) (by decide)
  case park => exact seqMem_parks h he (by rw [hgl, seqChk_gl hal, ht])
  case ok =>
    rcases hok with ⟨hgl, hp⟩ | ⟨hgl, g, ht, hm⟩
    · exact seqMem_issues h he (mt := 0) (rm := false) (by rw [seqChk_pad hal hgl, hp]; rfl)
    · exact seqMem_issues h he (mt := g.mtype) (rm := g.remote) (by rw [hgl, seqChk_gl hal, ht]; exact if_neg (by omega))

theorem sequencerAccesses : sequencerAccessesRules := by
  intro w s cl q p hp h sp hsp
  have hspace : seqSpace w = sp := by rw [seqSpace, hsp]; rfl
  have hwidth : seqWidth w = 2 ^ (w.mod.toNat / 64 % 8) := by
    rw [seqWidth, BitVec.extractLsb'_toNat, Nat.shiftRight_eq_div_pow]
  have haddr : seqMemAddr w q = if sp = .gl then (q.val w.a + w.imm.signExtend 64).toNat else (q.val w.a + w.imm.signExtend 64).toNat % 2 ^ 32 := by
    rw [seqMemAddr, hspace, seqAddr, BitVec.toNat_setWidth]
  rcases List.mem_pair.mp hp with rfl | rfl
  · exact seqMem_rules (load := true) h rfl hspace hwidth haddr
  · exact seqMem_rules (load := false) h rfl hspace hwidth haddr

/-! Returns (R104, R281). -/

theorem intOf_eq_toInt {n v : Nat} (h0 : 0 < n) (hn : n ≤ 64) : intOf n true (BitVec.ofNat 64 v) = (BitVec.ofNat n v).toInt := by
  have hdvd : (2 : Nat) ^ n ∣ 2 ^ 64 := Nat.pow_dvd_pow 2 hn
  have hpow : 2 ^ n = 2 * 2 ^ (n - 1) := by rw [← Nat.pow_succ']; congr 1; omega
  simp only [intOf, BitVec.toInt_eq_toNat_cond, BitVec.toNat_ofNat, Nat.mod_mod_of_dvd _ hdvd, Bool.true_and, decide_eq_true_eq]
  by_cases hs : 2 ^ (n - 1) ≤ v % 2 ^ n
  · rw [if_pos hs, if_neg (by omega)]; push_cast; rfl
  · rw [if_neg hs, if_pos (by omega)]

/-- The value that lands, in the words of R281. -/
theorem landed_value {n v : Nat} (sgn : Bool) (h0 : 0 < n) (hn : n ≤ 64) :
    (if sgn then BitVec.ofInt 64 (intOf n true (BitVec.ofNat 64 v)) else BitVec.ofNat 64 (v % 2 ^ n)) =
      if sgn then (BitVec.ofNat n v).signExtend 64 else BitVec.ofNat 64 (v % 2 ^ n) := by
  rw [intOf_eq_toInt h0 hn]; rfl

theorem seqLand_lands {x : SeqAcc} {k v : Nat} (h0 : 0 < x.acc.width) (h8 : x.acc.width ≤ 8) (hu : u.seqOf cl = q) :
    ∃ rs, (u.seqLand cl k x v).seqOf cl = { q with s := rs, accs := q.accs.erase k } ∧ ∀ m : Nat, rs.getD 0 m = if m ≠ x.reg then q.reg m
      else if x.sgn then (BitVec.ofNat (8 * x.acc.width) v).signExtend 64 else BitVec.ofNat 64 (v % 2 ^ (8 * x.acc.width)) := by
  rw [← landed_value x.sgn (by omega) (by omega)]
  refine ⟨_, (State.seqOf_modSeq_self ..).trans (by rw [hu]; rfl), fun m => ?_⟩
  rw [ite_not]
  exact Seq.reg_setReg ..

section
variable {k : Nat} {x : SeqAcc}

theorem execSeqSstPerform_of_store (hx : (s.seqOf cl).accs.get? k = some x) (hw : x.acc.write = true) : execSeqSstPerform cl k s =
    .next (if s.piecesDone [x.acc] 0 then s.modSeq cl (fun q => { q with accs := q.accs.erase k }) else s) := by
  simp only [execSeqSstPerform, hx, hw, Bool.true_and]
  split <;> rfl

theorem execSeqSldReturn_of_first (hf : (s.seqOf cl).accs.find? (fun a => !a.2.acc.write && a.2.reg == x.reg) = some (k, x)) : execSeqSldReturn cl x.reg s =
    .next (if x.acc.space = .gl then s.seqGl cl k (s.seqOf cl) x else if s.piecesDone [x.acc] 0 then s.seqLand cl k x x.acc.data else s) := by
  simp only [execSeqSldReturn, hf]
  repeat' split
  all_goals rfl

theorem seqGl_waits (h : s.leafWaits cl (leafOfLine (lineKey q.ctx x.acc.addr)) = true ∨ x.asked = true) : s.seqGl cl k q x = s :=
  if_pos (by simpa using h)

theorem seqGl_takes {v : Nat} (hw : s.leafWaits cl (leafOfLine (lineKey q.ctx x.acc.addr)) = false) (ha : x.asked = false)
    (hr : s.isRemote (lineKey q.ctx x.acc.addr) = false) (hl : s.clusterLoad cl q.ctx x.acc.addr x.acc.width (.seq cl) = (some v, u)) :
    s.seqGl cl k q x = u.seqLand cl k x v := by
  simp [State.seqGl, hw, ha, hr, hl]

theorem sequencerReturns : sequencerReturnsRules := by
  intro s cl k x hx h0 h8
  dsimp only
  refine ⟨fun hw => ⟨fun hd => ?_, fun hd => ?_⟩, fun hw hf hsp => ⟨fun hd => ?_, fun hd => ?_⟩, fun hw hf hsp => ⟨fun hb => ?_, fun v u hl ha hr hv hu => ?_⟩⟩
  · exact (execSeqSstPerform_of_store hx hw).trans (by rw [if_neg (by simp [hd])])
  · exact ⟨_, execSeqSstPerform_of_store hx hw, by rw [if_pos hd, State.seqOf_modSeq_self], by rw [if_pos hd]; rfl, by rw [if_pos hd]; rfl, by rw [if_pos hd]; rfl⟩
  · exact (execSeqSldReturn_of_first hf).trans (by rw [if_neg hsp, if_neg (by simp [hd])])
  · exact ⟨_, (execSeqSldReturn_of_first hf).trans (by rw [if_neg hsp, if_pos hd]), seqLand_lands h0 h8 rfl, rfl, rfl, rfl⟩
  · exact (execSeqSldReturn_of_first hf).trans (by rw [if_pos hsp, seqGl_waits hb])
  · exact ⟨_, (execSeqSldReturn_of_first hf).trans (by rw [if_pos hsp, seqGl_takes hl ha hr hv]), seqLand_lands h0 h8 hu, rfl, rfl, rfl⟩

end

/-- Settles O40: the outcome of each word is read off what its meaning answers to `seqWord`. -/
theorem sequencerWords : Obligations.SequencerWords := ⟨sequencerArithmetic, sequencerControl, sequencerAccesses, sequencerReturns⟩

end Sys2Proof.Machine
end

section
/-! SUPPORT of O29 and O54. What a word of a group does to its run, what a run's end makes of the table, and what SPAWN's registers hold. -/

namespace Sys2Proof.Machine

variable {b : Body} {s : State} {eff : Nat → Bool → Group → Run → State → State} {gid : Nat} {second : Bool} {g : Group} {r : Run}

/-! The outcome of a group word, by what its effect leaves of its group (R41, R48). -/

theorem State.modRun_eq (f : Run → Run) (hg : s.grp gid = some g) (hr : g.runOn second = some r) :
    s.modRun gid second f = s.setGrp gid (g.setRun second (some (f r))) := by
  rw [State.modRun, State.modGrp_eq s gid g _ hg, hr]; rfl

theorem Group.moved_setRun (g : Group) (second : Bool) (r : Run) (n : Nat) : (g.setRun second (some r)).moved second n = g.setRun second (some (bumpRun n r)) := by
  cases second <;> rfl

/-- A word that changes only its run. -/
theorem groupWord_modRun (h : Runs b s gid second g r) (f : Run → Run) (he : eff gid second g r s = s.modRun gid second f)
    (hw : (f r).wait = .none) : groupWord b 1 s eff = .next (s.afterRun gid second g (f r)) := by
  rw [State.modRun_eq f h.here h.run] at he
  rw [groupWord_runs h eff (g.setRun second (some (f r))) (f r) (by rw [he]; exact State.grp_setGrp_self ..) (Group.setRun_runOn ..) hw, he, State.advance_setGrp,
    Group.moved_setRun]
  rfl

/-- A word that changes only its group, its run aside. -/
theorem groupWord_modGrp {n : Nat} (h : Runs b s gid second g r) (f : Group → Group)
    (he : eff gid second g r s = s.modGrp gid f) (hf : (f g).runOn second = g.runOn second) : groupWord b n s eff = .next (s.setGrp gid ((f g).moved second n)) := by
  rw [State.modGrp_eq s gid g f h.here] at he
  rw [groupWord_runs h eff (f g) r (by rw [he]; exact State.grp_setGrp_self ..) (hf.trans h.run) h.free, he, State.advance_setGrp]

/-- A word after whose effect its run is gone, or waits. -/
theorem groupWord_stops {n : Nat} (h : Runs b s gid second g r) {g' : Group} (hg : (eff gid second g r s).grp gid = some g')
    (hr : ∀ r', g'.runOn second = some r' → r'.wait ≠ .none) : groupWord b n s eff = .next (eff gid second g r s) := by
  have hp : (privBody b && !g.priv) = false := by
    cases hb : privBody b
    · rfl
    · simp [h.allowed hb]
  cases hg' : g'.runOn second with
  | none => simp [groupWord, h.issuer, h.here, h.run, hp, h.good, h.guard, hg, hg']
  | some r' => simp [groupWord, h.issuer, h.here, h.run, hp, h.good, h.guard, hg, hg', hr r' hg']

/-- A word of the primary run that traps in every lane of the run. -/
theorem groupWord_trapPlain {n : Nat} {c : Cause} (h : Runs b s gid false g r)
    (he : eff gid false g r s = s.trapPlain gid r c) : groupWord b n s eff = .next (s.afterTrap gid g (trapOf r c r.mask 0 0 0)) := by
  rw [State.trapPlain_eq s gid g r c h.here] at he
  rw [groupWord_stops h (g' := { g with trap := some (trapOf r c r.mask 0 0 0), run := none }) (by rw [he]; exact State.grp_setGrp_self ..) (fun _ h => by cases h), he]

/-! Waits, pauses and arrivals (R57 to R59, R171, R182). -/

theorem ctlOnly_runs {opc : Nat} {w : Ctl} (h : Runs (.ctl opc w) s gid second g r) (f : Group → Run → State → Group) (hf : (f g r s).runOn second = g.runOn second) :
    ctlOnly opc w s f = .next (s.afterWord gid second (f g r s)) := groupOnly_runs h f hf

/-- The arrival that a BAR or an SSTEP makes at the end of its run. -/
def barArrive (sends : Bool) (w : Ctl) (n : Nat) : Arrive := { scope := scopeOfMod w, id := (w.imm.extractLsb' 0 4).toNat, count := n, sends := sends }

theorem barWord_arrives {opc : Nat} {sends : Bool} {w : Ctl} (h : Runs (.ctl opc w) s gid second g r) (h1 : 1 ≤ (readGz g.regs w.a).toNat)
    (h2 : (readGz g.regs w.a).toNat ≤ 2 ^ 24) : barWord opc sends w s =
      .next (s.afterRun gid second g { r with arrive := r.arrive ++ [barArrive sends w (readGz g.regs w.a).toNat] }) := by
  unfold barWord ctlWord
  exact groupWord_modRun h (fun x => { x with arrive := x.arrive ++ [barArrive sends w (readGz g.regs w.a).toNat] }) (if_neg (by omega)) h.free

theorem barWord_traps {opc : Nat} {sends : Bool} {w : Ctl} (h : Runs (.ctl opc w) s gid false g r)
    (hn : (readGz g.regs w.a).toNat = 0 ∨ 2 ^ 24 < (readGz g.regs w.a).toNat) : barWord opc sends w s = .next (s.afterTrap gid g (trapOf r .illop r.mask 0 0 0)) := by
  unfold barWord ctlWord
  exact groupWord_trapPlain h (if_pos hn)

theorem runWords : runWordsRules := by
  intro w s gid second g r
  refine ⟨?_, fun h => ?_, ?_⟩
  · simp only [List.forall_mem_cons]
    exact ⟨fun h => ctlOnly_runs h (fun g _ _ => g) rfl, fun h => ctlOnly_runs h (fun g _ _ => g) rfl, fun h => ctlOnly_runs h (fun g _ _ => g) rfl, by simp only [List.not_mem_nil, false_imp_iff, implies_true]⟩
  · have hreq : (w.imm.extractLsb' 0 16).toNat = w.imm.toNat % 2 ^ 16 := by rw [BitVec.extractLsb'_toNat, Nat.shiftRight_zero]
    rw [← hreq]
    change execPause w s = _
    unfold execPause ctlWord
    exact groupWord_modRun h (fun x => { x with yieldReq := max x.yieldReq (w.imm.extractLsb' 0 16).toNat }) rfl h.free
  · have harr (sends : Bool) (n : Nat) : barArrive sends w n = { scope := (scopeOf (w.mod.setWidth 3)).getD .ln, id := w.imm.toNat % 16, count := n, sends := sends } := by
      rw [barArrive, scopeOfMod, BitVec.setWidth_eq_extractLsb' (by omega), BitVec.extractLsb'_toNat, Nat.shiftRight_zero]
    simp only [List.forall_mem_cons, ← harr]
    refine ⟨fun h => ⟨barWord_arrives h, fun hn h2 => ?_⟩, fun h => ⟨barWord_arrives h, fun hn h2 => ?_⟩, by simp only [List.not_mem_nil, false_imp_iff, implies_true]⟩
    all_goals
      subst h2
      exact ⟨_, barWord_traps h hn, rfl, rfl, rfl⟩


/-! Tables: what merging keeps (R160). -/

/-- What one entry has, and merging with an entry that agrees keeps, some entry of the table has. -/
theorem exists_insertEntry {P : Entry → Prop} {e : Entry} {es : List Entry} (hm : ∀ x, sameEntry e x = true → P x ∨ P e → P (mergeEntry x e))
    (h : P e ∨ ∃ x ∈ es, P x) : ∃ x ∈ insertEntry e es, P x := by
  induction es with
  | nil => exact ⟨e, List.mem_singleton_self e, h.resolve_right (fun ⟨_, hx, _⟩ => by cases hx)⟩
  | cons y ys ih =>
    have hrest (h : P e ∨ ∃ x ∈ ys, P x) : ∃ x ∈ y :: insertEntry e ys, P x := by
      obtain ⟨x, hx, hP⟩ := ih h
      exact ⟨x, List.mem_cons_of_mem _ hx, hP⟩
    have hskip : ∃ x ∈ y :: insertEntry e ys, P x := by
      rcases h with he | ⟨x, hx, hP⟩
      · exact hrest (.inl he)
      · rcases List.mem_cons.1 hx with rfl | hxs
        · exact ⟨x, List.mem_cons_self .., hP⟩
        · exact hrest (.inr ⟨x, hxs, hP⟩)
    unfold insertEntry
    split
    next hs =>
      rcases h with he | ⟨x, hx, hP⟩
      · exact ⟨_, List.mem_cons_self .., hm y hs (.inr he)⟩
      · rcases List.mem_cons.1 hx with rfl | hxs
        · exact ⟨_, List.mem_cons_self .., hm x hs (.inl hP)⟩
        · exact ⟨x, List.mem_cons_of_mem _ hxs, hP⟩
    · split
      · split
        · exact hskip
        · rcases h with he | ⟨x, hx, hP⟩
          · exact ⟨e, List.mem_cons_self .., he⟩
          · exact ⟨x, List.mem_cons_of_mem _ hx, hP⟩
      · exact hskip

theorem exists_formTable {P : Entry → Prop} {es : List Entry} (hm : ∀ e x, sameEntry e x = true → P x ∨ P e → P (mergeEntry x e))
    (hmask : ∀ e, P e → e.mask ≠ 0) (h : ∃ e ∈ es, P e) : ∃ x ∈ formTable es, P x := by
  have hfold (ls t : List Entry) (h : (∃ x ∈ t, P x) ∨ ∃ x ∈ ls, P x) : ∃ x ∈ ls.foldl (fun t e => insertEntry e t) t, P x := by
    induction ls generalizing t with
    | nil => exact h.resolve_right (fun ⟨_, hx, _⟩ => by cases hx)
    | cons e ls ih =>
      refine ih _ ?_
      rcases h with h | ⟨x, hx, hP⟩
      · exact .inl (exists_insertEntry (hm e) (.inr h))
      · rcases List.mem_cons.1 hx with rfl | hxs
        · exact .inl (exists_insertEntry (hm x) (.inl hP))
        · exact .inr ⟨x, hxs, hP⟩
  obtain ⟨e, he, hP⟩ := h
  exact hfold _ _ (.inr ⟨e, List.mem_filter.2 ⟨he, by simpa using hmask e hP⟩, hP⟩)

/-- What every entry has, and merging keeps, every entry of the table has. -/
theorem forall_insertEntry {P : Entry → Prop} {e : Entry} {es : List Entry} (hm : ∀ x, P x → P e → P (mergeEntry x e)) (he : P e) (h : ∀ x ∈ es, P x) :
    ∀ x ∈ insertEntry e es, P x := by
  induction es with
  | nil => exact List.forall_mem_singleton.2 he
  | cons y ys ih =>
    obtain ⟨hy, hys⟩ := List.forall_mem_cons.1 h
    have hskip : ∀ x ∈ y :: insertEntry e ys, P x := List.forall_mem_cons.2 ⟨hy, ih hys⟩
    unfold insertEntry
    split
    · exact List.forall_mem_cons.2 ⟨hm y hy he, hys⟩
    · split
      · split
        · exact hskip
        · exact List.forall_mem_cons.2 ⟨he, h⟩
      · exact hskip

theorem forall_formTable {P : Entry → Prop} {es : List Entry} (hm : ∀ e x, P x → P e → P (mergeEntry x e)) (h : ∀ e ∈ es, P e) : ∀ x ∈ formTable es, P x :=
  List.foldlRecOn _ _ (motive := fun t : List Entry => ∀ x ∈ t, P x) (fun x hx => by cases hx)
    (fun _ ht e he => forall_insertEntry (hm e) (h e (List.mem_filter.1 he).1) ht)

/-! Arrivals (R182): what they leave unchanged. -/

/-- Memory, the log store, the operations, the groups and the counter are as before. -/
def RunFrame (t s : State) : Prop := t.mems = s.mems ∧ t.store = s.store ∧ t.ops = s.ops ∧ t.groups = s.groups ∧ t.pcc = s.pcc

theorem RunFrame.trans {u t s : State} (h : RunFrame u t) (h' : RunFrame t s) : RunFrame u s := by
  obtain ⟨hm, hst, ho, hg, hp⟩ := h
  obtain ⟨hm', hst', ho', hg', hp'⟩ := h'
  exact ⟨hm.trans hm', hst.trans hst', ho.trans ho', hg.trans hg', hp.trans hp'⟩

theorem RunFrame.refl (s : State) : RunFrame s s := ⟨rfl, rfl, rfl, rfl, rfl⟩

theorem State.arriveAt_frame (s : State) (key : Nat) (sc : Scope) (count : Nat) : RunFrame (s.arriveAt key sc count).2 s := by
  simp only [State.arriveAt]
  repeat' split
  all_goals exact ⟨rfl, rfl, rfl, rfl, rfl⟩

theorem State.tellPeers_frame (s : State) (key count : Nat) : RunFrame (s.tellPeers key count) s := by
  refine List.foldlRecOn _ _ (motive := fun t : State => RunFrame t s) (.refl s) (fun t ht m _ => ?_)
  split
  · exact ht
  · exact RunFrame.trans ⟨rfl, rfl, rfl, rfl, rfl⟩ ht

theorem State.arriveAll_frame (s : State) (core : Nat) (as_ : List Arrive) : RunFrame (s.arriveAll core as_).2 s := by
  refine List.foldlRecOn as_ _ (motive := fun p : List Nat × State => RunFrame p.2 s) (.refl s) (fun p hp a _ => ?_)
  have hat := (State.arriveAt_frame p.2 (barKey a.scope (scopeInst a.scope core) a.id) a.scope a.count).trans hp
  dsimp only
  split
  · exact (State.tellPeers_frame ..).trans hat
  · exact hat

theorem State.arriveAll_tokens (s : State) (core : Nat) {as_ : List Arrive} (h : as_ ≠ []) : (s.arriveAll core as_).1 ≠ [] := by
  obtain ⟨init, a, rfl⟩ := List.eq_nil_or_concat as_ |>.resolve_left h
  rw [State.arriveAll, List.concat_eq_append, List.foldl_append]
  exact List.append_ne_nil_of_right_ne_nil _ (List.cons_ne_nil _ _)

/-! The boundary of a group with one run (R161, R176, R177, R182, R323). -/

/-- The group as its one run leaves it, before a deferred trap is taken. -/
def Group.crossed (g : Group) (r : Run) (toks : List Nat) (s : State) : Group :=
  let g1 : Group := { g with
    pcs := formTable (dropLanes r.mask (g.pcs.map (ageEntry r.mask r.startAt)) ++ r.entries s.pcc toks), regs := r.writeLink g.regs
    parked := g.parked ++ r.parks, run := none, run2 := none, stallFrom := s.pcc, escapes := g.escapes.filter (fun e => (s.ops.get? (e / 256)).isSome) }
  if r.tret then leaveHandler g1 s.pcc else g1

/-- The arrivals that a run makes at its end: sends are left out where a put was refused. -/
def Group.arrivals (g : Group) (r : Run) : List Arrive := r.arrive.filter (fun a => !(a.sends && g.deferred.any (fun t => t.cause == .space)))

theorem State.boundary_of_one (hg : s.grp gid = some g) (hr : g.run = some r) (h2 : g.run2 = none) : s.boundary gid =
    (s.arriveAll (s.grpCore g) (g.arrivals r)).2.setGrp gid
      (nextDeferred (g.crossed r (s.arriveAll (s.grpCore g) (g.arrivals r)).1 (s.arriveAll (s.grpCore g) (g.arrivals r)).2)) := by
  have hmask : (0 : Lanes) ||| r.mask = r.mask := BitVec.zero_or
  unfold State.boundary Group.crossed Group.arrivals
  simp only [hg, hr, h2, Option.toList_some, Option.toList_none, List.append_nil, Option.map_some, Option.getD_some, List.foldl_cons, List.foldl_nil, hmask,
    List.head?_cons, List.flatMap_cons, List.flatMap_nil, List.any_cons, List.any_nil, Bool.or_false]

theorem nextDeferred_keeps (g : Group) : (nextDeferred g).pcs = g.pcs ∧ (nextDeferred g).run = g.run ∧ (nextDeferred g).wmask = g.wmask ∧
    (nextDeferred g).regs = g.regs ∧ (nextDeferred g).parked = g.parked := by
  unfold nextDeferred
  split
  all_goals exact ⟨rfl, rfl, rfl, rfl, rfl⟩

theorem crossed_keeps (g : Group) (r : Run) (toks : List Nat) (s : State) : (g.crossed r toks s).run = none ∧ (g.crossed r toks s).wmask = g.wmask ∧
    (g.crossed r toks s).regs = r.writeLink g.regs ∧ (g.crossed r toks s).parked = g.parked ++ r.parks := by
  unfold Group.crossed
  dsimp only
  split
  all_goals exact ⟨rfl, rfl, rfl, rfl⟩

/-- What an entry of the run has, and merging and thawing keep, some entry of the table has after the boundary. -/
theorem exists_crossed {P : Entry → Prop} {toks : List Nat} (hm : ∀ e x, sameEntry e x = true → P x ∨ P e → P (mergeEntry x e))
    (hmask : ∀ e, P e → e.mask ≠ 0) (hthaw : ∀ e : Entry, P e → P { e with frozen := false }) (h : ∃ e ∈ r.entries s.pcc toks, P e) :
    ∃ x ∈ (g.crossed r toks s).pcs, P x := by
  obtain ⟨e, he, hP⟩ := h
  have hform := exists_formTable hm hmask ⟨e, List.mem_append_right (dropLanes r.mask (g.pcs.map (ageEntry r.mask r.startAt))) he, hP⟩
  unfold Group.crossed
  dsimp only
  split
  · obtain ⟨x, hx, hPx⟩ := hform
    exact exists_formTable hm hmask ⟨_, List.mem_map_of_mem hx, hthaw x hPx⟩
  · exact hform

theorem forall_crossed {P : Entry → Prop} {toks : List Nat} (hm : ∀ e x, P x → P e → P (mergeEntry x e)) (hthaw : ∀ e : Entry, P e → P { e with frozen := false })
    (hold : ∀ e ∈ dropLanes r.mask (g.pcs.map (ageEntry r.mask r.startAt)), P e) (hnew : ∀ e ∈ r.entries s.pcc toks, P e) :
    ∀ x ∈ (g.crossed r toks s).pcs, P x := by
  have hform := forall_formTable hm (List.forall_mem_append.2 ⟨hold, hnew⟩)
  unfold Group.crossed
  dsimp only
  split
  · exact forall_formTable hm (List.forall_mem_map.2 (fun x hx => hthaw x (hform x hx)))
  · exact hform

theorem getLsbD_laneBit {l m : Nat} (hm : m < 64) : (laneBit l).getLsbD m = decide (m = l) := by
  rw [laneBit, BitVec.getLsbD_shiftLeft, BitVec.getLsbD_one]
  by_cases h : m = l
  · simp [h]; omega
  · simp [h, hm]; omega

theorem mask_ne_zero {e : Entry} {l : Nat} (h : e.mask.getLsbD l = true) : e.mask ≠ 0 := by
  intro h0
  rw [h0, BitVec.ofNat_eq_ofNat, BitVec.getLsbD_zero] at h
  cases h

theorem mergeEntry_mask (x e : Entry) (l : Nat) : (mergeEntry x e).mask.getLsbD l = (x.mask.getLsbD l || e.mask.getLsbD l) := BitVec.getLsbD_or ..

section
variable {toks : List Nat} {l : Nat}

/-- A lane that goes on has its entry. -/
theorem mem_entries (now : BitVec 64) (hl : l < 64) (hm : r.mask.getLsbD l = true) (he : r.exits.getLsbD l = false) (hc : r.caller.getLsbD l = false) :
    ∃ e ∈ r.entries now toks, e.mask.getLsbD l = true ∧ e.pc = r.nextPc l ∧ e.held = toks.map (fun t => (t, laneBit l)) :=
  ⟨_, List.mem_map_of_mem ((mem_lanesOf _ _).2 ⟨hl, by simp only [BitVec.getLsbD_and, BitVec.getLsbD_not, hl, hm, he, hc]; rfl⟩), by rw [getLsbD_laneBit hl]; simp, rfl, rfl⟩

theorem crossed_lane (hl : l < 64) (hm : r.mask.getLsbD l = true) (he : r.exits.getLsbD l = false) (hc : r.caller.getLsbD l = false) :
    ∃ e ∈ (g.crossed r toks s).pcs, e.mask.getLsbD l = true ∧ e.pc = r.nextPc l := by
  obtain ⟨e, hmem, hmask, hpc, -⟩ := mem_entries (toks := toks) s.pcc hl hm he hc
  refine exists_crossed (P := fun e => e.mask.getLsbD l = true ∧ e.pc = r.nextPc l) (fun e x hs h => ?_) (fun e h => mask_ne_zero h.1) (fun _ h => h) ⟨e, hmem, hmask, hpc⟩
  rw [mergeEntry_mask, show (mergeEntry x e).pc = x.pc from rfl]
  rcases h with ⟨hx, hp⟩ | ⟨hx, hp⟩
  · exact ⟨by rw [hx]; rfl, hp⟩
  · exact ⟨by rw [hx, Bool.or_true], (sameEntry_pc hs).symm.trans hp⟩

theorem crossed_held (ht : toks ≠ []) (hl : l < 64) (hm : r.mask.getLsbD l = true) (he : r.exits.getLsbD l = false) (hc : r.caller.getLsbD l = false) :
    ∃ e ∈ (g.crossed r toks s).pcs, e.mask.getLsbD l = true ∧ e.isHeld = true := by
  obtain ⟨e, hmem, hmask, -, hheld⟩ := mem_entries (toks := toks) s.pcc hl hm he hc
  have hne : e.isHeld = true := by simpa [Entry.isHeld, hheld] using ht
  refine exists_crossed (P := fun e => e.mask.getLsbD l = true ∧ e.isHeld = true) (fun e x hs h => ?_) (fun e h => mask_ne_zero h.1) (fun _ h => h) ⟨e, hmem, hmask, hne⟩
  rw [mergeEntry_mask]
  rcases h with ⟨hx, hp⟩ | ⟨hx, hp⟩
  · exact ⟨by rw [hx]; rfl, by simp_all [Entry.isHeld, mergeEntry]⟩
  · exact ⟨by rw [hx, Bool.or_true], by simp_all [Entry.isHeld, mergeEntry]⟩

theorem crossed_exit (hl : l < 64) (hm : r.mask.getLsbD l = true) (he : r.exits.getLsbD l = true) : ∀ e ∈ (g.crossed r toks s).pcs, e.mask.getLsbD l = false := by
  refine forall_crossed (fun e x hx he => by rw [mergeEntry_mask, hx, he]; rfl) (fun _ h => h) (List.forall_mem_map.2 (fun x _ => ?_)) (List.forall_mem_map.2 (fun m hmem => ?_))
  · simp [hm]
  · have hml : l ≠ m := by
      rintro rfl
      have hin := ((mem_lanesOf _ _).1 hmem).2
      simp only [BitVec.getLsbD_and, BitVec.getLsbD_not, hl, he, Bool.not_true, Bool.and_false, Bool.false_and, Bool.false_eq_true] at hin
    rw [getLsbD_laneBit hl, decide_eq_false hml]

theorem mem_parks (hl : l < 64) (hc : r.caller.getLsbD l = true) (he : r.exits.getLsbD l = false) :
    ({ lane := l, j := r.callMask, pc := r.nextPc l } : Parked) ∈ r.parks :=
  List.mem_map_of_mem (f := fun l => ({ lane := l, j := r.callMask, pc := r.nextPc l } : Parked)) ((mem_lanesOf _ _).2 ⟨hl, by simp only [BitVec.getLsbD_and, BitVec.getLsbD_not, hl, hc, he]; rfl⟩)

/-- The link that a CALL leaves in a lane (R176). -/
theorem vreg_writeLink {d : Nat} (rg : Regs) (hd : r.link = some d) (hl : l < 64) (hm : r.mask.getLsbD l = true) :
    (r.writeLink rg).vreg d l = r.after.setWidth 32 ∧ (r.writeLink rg).vreg (d + 1) l = (r.after.extractLsb' 32 16).setWidth 32 := by
  have hstep (rg : Regs) {m : Nat} (hm : m < 64) (n : Nat) : ((rg.setV d m (r.after.setWidth 32)).setV (d + 1) m ((r.after.extractLsb' 32 16).setWidth 32)).vreg n l =
      if n = d + 1 ∧ l = m then (r.after.extractLsb' 32 16).setWidth 32 else if n = d ∧ l = m then r.after.setWidth 32 else rg.vreg n l := by
    rw [Regs.vreg_setV _ _ _ _ _ _ hm hl, Regs.vreg_setV _ _ _ _ _ _ hm hl]
  have hfold (ls : List Nat) (hlt : ∀ m ∈ ls, m < 64) (rg : Regs) (h : l ∈ ls ∨ rg.vreg d l = r.after.setWidth 32 ∧ rg.vreg (d + 1) l = (r.after.extractLsb' 32 16).setWidth 32) :
      let rg' := ls.foldl (fun rg l => (rg.setV d l (r.after.setWidth 32)).setV (d + 1) l ((r.after.extractLsb' 32 16).setWidth 32)) rg
      rg'.vreg d l = r.after.setWidth 32 ∧ rg'.vreg (d + 1) l = (r.after.extractLsb' 32 16).setWidth 32 := by
    induction ls generalizing rg with
    | nil => exact h.resolve_left (by simp)
    | cons m ms ih =>
      obtain ⟨hm, hms⟩ := List.forall_mem_cons.1 hlt
      refine ih hms _ ?_
      rw [hstep rg hm, hstep rg hm, if_neg (fun h => absurd h.1 (by omega))]
      by_cases hlm : l = m
      · exact .inr ⟨if_pos ⟨rfl, hlm⟩, if_pos ⟨rfl, hlm⟩⟩
      · rw [if_neg (fun h => hlm h.2), if_neg (fun h => hlm h.2), if_neg (fun h => hlm h.2)]
        exact h.imp_left (fun h => (List.mem_cons.1 h).resolve_left hlm)
  rw [Run.writeLink, hd]
  exact hfold _ (fun m hm => ((mem_lanesOf _ _).1 hm).1) rg (.inl ((mem_lanesOf _ _).2 ⟨hl, hm⟩))

end

theorem append_halves (x : Pc) : ((x.extractLsb' 32 16).setWidth 32 ++ x.setWidth 32 : BitVec 64) = x.setWidth 64 := by
  ext i hi
  simp only [BitVec.getElem_append, BitVec.getElem_setWidth, BitVec.getLsbD_extractLsb']
  split
  next => rfl
  next h =>
    by_cases h16 : i - 32 < 16
    · simp [h16, show 32 + (i - 32) = i by omega]
    · rw [decide_eq_false h16, Bool.false_and, BitVec.getLsbD_of_ge _ _ (by omega)]

/-! RUNEND (R55, R161, R182). -/

/-- The group with a RUNEND's escapes and wait mask recorded. -/
def Group.ending (g : Group) (holds : List Nat) (w : Ctl) : Group := { g with escapes := (g.escapes ++ holds).dedup, wmask := g.wmask ||| w.mod.extractLsb' 8 4 }

/-- What a RUNEND does once its run's arrivals are released. -/
def runendEff (w : Ctl) (gid : Nat) (second : Bool) (g : Group) (r : Run) (s : State) : State :=
  if !r.arrive.isEmpty && !r.released then s.modRun gid second (fun r => { r with wait := .fence r.relScope s.fresh none false 0 })
  else
    match g.runOn (!second) with
    | some x => if x.finished then (s.modGrp gid (fun g => g.ending (s.escHolds gid w) w)).boundary gid else s.modGrp gid (fun g => g.ending (s.escHolds gid w) w)
    | none => (s.modGrp gid (fun g => g.ending (s.escHolds gid w) w)).boundary gid

theorem exec_runend (w : Ctl) (s : State) : exec (.runend w) s = groupWord (.ctl 0x180 w) 1 s (runendEff w) := rfl

theorem released_cond (h : r.arrive = [] ∨ r.released = true) : ¬ (!r.arrive.isEmpty && !r.released) = true := by
  rcases h with h | h <;> simp [h]

/-- A RUNEND beside a run of the other port that goes on. -/
theorem runend_records {w : Ctl} {x : Run} (h : Runs (bodyOf (.runend w)) s gid second g r) (hrel : r.arrive = [] ∨ r.released = true)
    (hx : g.runOn (!second) = some x) (hf : x.finished = false) :
    exec (.runend w) s = .next (s.setGrp gid ((g.ending (s.escHolds gid w) w).moved second 1)) := by
  have heff : runendEff w gid second g r s = s.modGrp gid (fun g => g.ending (s.escHolds gid w) w) := by
    rw [runendEff, if_neg (released_cond hrel), hx]
    simp only [hf, Bool.false_eq_true, if_false]
  rw [exec_runend]
  exact groupWord_modGrp h _ heff rfl

theorem runend_waits {w : Ctl} (h : Runs (bodyOf (.runend w)) s gid false g r) (ha : r.arrive ≠ []) (hrel : r.released = false) :
    exec (.runend w) s = .next (s.setGrp gid { g with run := some { r with wait := .fence r.relScope s.fresh none false 0 } }) := by
  have heff : runendEff w gid false g r s = s.setGrp gid { g with run := some { r with wait := .fence r.relScope s.fresh none false 0 } } :=
    (if_pos (by simp [hrel, ha])).trans (State.modRun_eq (second := false) _ h.here h.run)
  have hstop := groupWord_stops (n := 1) (eff := runendEff w) h (by rw [heff]; exact State.grp_setGrp_self ..) (fun r' hr' => by cases hr'; simp)
  exact (exec_runend w s).trans (hstop.trans (congrArg _ heff))

theorem moved_none {n : Nat} (g : Group) (h : g.run = none) : g.moved false n = g := by
  simp [Group.moved, Group.runOn, Group.setRun, h]
  rw [← h]

/-- A RUNEND that ends the only run of its group. -/
theorem runend_ends {w : Ctl} (h : Runs (bodyOf (.runend w)) s gid false g r) (hrel : r.arrive = [] ∨ r.released = true) (h2 : g.run2 = none) :
    ∃ t toks u, exec (.runend w) s = .next t ∧ t.grp gid = some (nextDeferred ((g.ending (s.escHolds gid w) w).crossed r toks u)) ∧
      ((g.arrivals r) ≠ [] → toks ≠ []) ∧ t.mems = s.mems ∧ t.store = s.store ∧ t.ops = s.ops := by
  have hgrp : (s.modGrp gid (fun g => g.ending (s.escHolds gid w) w)).grp gid = some (g.ending (s.escHolds gid w) w) := State.grp_modGrp _ h.here
  have heff : runendEff w gid false g r s = (s.modGrp gid (fun g => g.ending (s.escHolds gid w) w)).boundary gid := by
    rw [runendEff, if_neg (released_cond hrel), show g.runOn (!false) = none from h2]
  rw [State.boundary_of_one hgrp h.run h2] at heff
  obtain ⟨-, hrun, -⟩ := nextDeferred_keeps ((g.ending (s.escHolds gid w) w).crossed r _ _)
  have hstop := groupWord_stops (n := 1) (eff := runendEff w) h (by rw [heff]; exact State.grp_setGrp_self ..)
    (fun r' hr' => by rw [Group.runOn, if_neg (by decide), hrun, (crossed_keeps ..).1] at hr'; cases hr')
  obtain ⟨hm, hst, ho, -⟩ := State.arriveAll_frame (s.modGrp gid (fun g => g.ending (s.escHolds gid w) w))
    ((s.modGrp gid (fun g => g.ending (s.escHolds gid w) w)).grpCore (g.ending (s.escHolds gid w) w)) ((g.ending (s.escHolds gid w) w).arrivals r)
  exact ⟨_, _, _, (exec_runend w s).trans (hstop.trans (congrArg _ heff)), State.grp_setGrp_self .., State.arriveAll_tokens _ _, hm, hst, ho⟩

theorem runBoundary : runBoundaryRules := by
  refine ⟨fun w s gid second g r x h hrel hx hf => ?_, fun w s gid g r h => ⟨fun ha hrel => ⟨_, runend_waits h ha hrel⟩, fun hrel h2 => ?_⟩⟩
  · exact ⟨_, _, runend_records h hrel hx hf, State.grp_setGrp_self .., rfl, rfl, rfl, rfl⟩
  · obtain ⟨t, toks, u, ht, hgrp, htoks, hm, hst, ho⟩ := runend_ends h hrel h2
    obtain ⟨hpcs, hrun, hwm, hregs, hpark⟩ := nextDeferred_keeps ((g.ending (s.escHolds gid w) w).crossed r toks u)
    obtain ⟨crun, cwm, cregs, cpark⟩ := crossed_keeps (g.ending (s.escHolds gid w) w) r toks u
    refine ⟨t, _, ht, hgrp, hrun.trans crun, hwm.trans cwm, hm, hst, ho, fun l hl hm he hc => ?lane, fun ha l hl hm he hc hs => ?held, fun l hl hm he => ?exit,
      fun l hl hc he => ?park, fun hlink => ?nolink, fun d hd l hl hm => ?link⟩
    case lane => rw [hpcs]; exact crossed_lane hl hm he hc
    case held =>
      have harr : g.arrivals r = r.arrive := List.filter_eq_self.2 (fun a ha => by simp [hs a ha])
      rw [hpcs]
      exact crossed_held (htoks (harr.symm ▸ ha)) hl hm he hc
    case exit => rw [hpcs]; exact crossed_exit hl hm he
    case park => rw [hpark, cpark]; exact List.mem_append_right _ (mem_parks hl hc he)
    case nolink => rw [hregs, cregs, Run.writeLink, hlink]; rfl
    case link =>
      obtain ⟨hlo, hhi⟩ := vreg_writeLink (g.ending (s.escHolds gid w) w).regs hd hl hm
      rw [hregs, cregs, hlo, hhi]
      exact append_halves _

/-! SPAWN (R179). -/

theorem Regs.foldl_setV_keeps {α : Type} (f : Regs → α) (hf : ∀ (rg : Regs) n l x, f (rg.setV n l x) = f rg) (ls : List Nat) (k : Nat) (v : Nat → Nat → Word) (rg : Regs) :
    f (ls.foldl (fun rg l => (List.range k).foldl (fun rg i => rg.setV i l (v i l)) rg) rg) = f rg :=
  List.foldlRecOn ls _ (motive := fun x => f x = f rg) rfl (fun _ hx _ _ =>
    List.foldlRecOn (List.range k) _ (motive := fun x => f x = f rg) hx (fun _ hy _ _ => (hf ..).trans hy))

/-- v0 to v7 of the lanes that a SPAWN starts. -/
theorem spawnRegs_vreg (g : Group) (m : Lanes) {n l : Nat} (hl : l < 64) :
    (spawnRegs g m).vreg n l = if n < 8 ∧ m.getLsbD l = true then g.regs.vreg n l else 0 := by
  have hfold (ls : List Nat) (hlt : ∀ x ∈ ls, x < 64) (rg : Regs) :
      (ls.foldl (fun rg l => (List.range 8).foldl (fun rg i => rg.setV i l (g.regs.vreg i l)) rg) rg).vreg n l =
        if n < 8 ∧ l ∈ ls then g.regs.vreg n l else rg.vreg n l := by
    induction ls generalizing rg with
    | nil => simp
    | cons x xs ih =>
      obtain ⟨hx, hxs⟩ := List.forall_mem_cons.1 hlt
      have hrow := Regs.vreg_foldl_setV rg 0 x (fun i => g.regs.vreg i x) n l hx hl 8
      simp only [Nat.zero_add, Nat.zero_le, true_and, Nat.sub_zero] at hrow
      rw [List.foldl_cons, ih hxs, hrow]
      by_cases hlx : l = x
      · subst hlx
        by_cases hn : n < 8 <;> simp [hn]
      · simp [hlx]
  rw [spawnRegs, hfold _ (fun x hx => ((mem_lanesOf _ _).1 hx).1)]
  simp only [mem_lanesOf, hl, true_and]
  rfl

theorem spawnRegs_keeps (g : Group) (m : Lanes) : (spawnRegs g m).g = g.regs.g ∧ (spawnRegs g m).f = [] ∧ (spawnRegs g m).j = [] :=
  ⟨Regs.foldl_setV_keeps Regs.g (fun _ _ _ _ => rfl) .., Regs.foldl_setV_keeps Regs.f (fun _ _ _ _ => rfl) .., Regs.foldl_setV_keeps Regs.j (fun _ _ _ _ => rfl) ..⟩

theorem State.mapSave_frame (s : State) (ctx addr len die : Nat) : (s.mapSave ctx addr len die).groups = s.groups ∧ (s.mapSave ctx addr len die).ops = s.ops := by
  refine List.foldlRecOn _ _ (motive := fun t : State => t.groups = s.groups ∧ t.ops = s.ops) ⟨rfl, rfl⟩ (fun t ht p _ => ?_)
  dsimp only
  split <;> exact ht

theorem State.saveArea_frame (s : State) (ctx n die : Nat) : (s.saveArea ctx n die).2.groups = s.groups ∧ (s.saveArea ctx n die).2.ops = s.ops := by
  unfold State.saveArea
  split
  · exact ⟨rfl, rfl⟩
  · exact State.mapSave_frame ..

/-- The group that a SPAWN starts in context k of its core, with index i and a trap record at a. -/
def spawned (w : Ctl) (g : Group) (r : Run) (core k i a : Nat) (now : BitVec 64) : Group :=
  Group.start g.launch g.block i g.ctx g.priv g.prio g.lanes g.nregs (.resident core k) (brTarget r w) r.mask (spawnRegs g r.mask) (BitVec.ofNat 64 a) now

/-- What a SPAWN does. -/
def spawnEff (w : Ctl) (gid : Nat) (g : Group) (r : Run) (s : State) : State :=
  match s.freeSlot (s.grpCore g), s.freeIndex g.launch g.block (((s.launchOf g.launch).map (·.ngroups)).getD 0) with
  | some k, some i =>
    if s.regsUsed (s.grpCore g) + g.nregs ≤ 1024 then
      let x := s.saveArea g.ctx groupArea (clusterDie (coreCluster (s.grpCore g)))
      (x.2.addGroup (gidOf g.launch g.block i) (spawned w g r (s.grpCore g) k i x.1 x.2.pcc)).modGrp gid (fun g => { g with regs := g.regs.setK (kNum w.d) true })
    else s.modGrp gid (fun g => { g with regs := g.regs.setK (kNum w.d) false })
  | _, _ => s.modGrp gid (fun g => { g with regs := g.regs.setK (kNum w.d) false })

theorem exec_spawn (w : Ctl) (s : State) : exec (.spawn w) s = groupWord (.ctl 0x187 w) 1 s (fun gid _ g r s => spawnEff w gid g r s) := rfl

theorem spawn_fails {w : Ctl} (h : Runs (bodyOf (.spawn w)) s gid second g r)
    (hno : s.freeSlot (s.grpCore g) = none ∨ s.freeIndex g.launch g.block (((s.launches.get? g.launch).map (·.ngroups)).getD 0) = none ∨
      ¬ s.regsUsed (s.grpCore g) + g.nregs ≤ 1024) :
    exec (.spawn w) s = .next (s.afterWord gid second { g with regs := g.regs.setK (kNum w.d) false }) := by
  have heff : spawnEff w gid g r s = s.modGrp gid (fun g => { g with regs := g.regs.setK (kNum w.d) false }) := by
    unfold spawnEff State.launchOf
    split
    next hk hi =>
      rw [if_neg]
      rcases hno with hn | hn | hn
      · rw [hn] at hk; cases hk
      · rw [hn] at hi; cases hi
      · exact hn
    next => rfl
  rw [exec_spawn]
  exact groupWord_modGrp h (fun g => { g with regs := g.regs.setK (kNum w.d) false }) heff rfl

theorem freeIndex_free {launch block lo i : Nat} (h : s.freeIndex launch block lo = some i) : s.grp (gidOf launch block i) = none := by
  simpa using List.find?_some h

theorem spawn_starts {w : Ctl} {k i : Nat} (h : Runs (bodyOf (.spawn w)) s gid second g r) (hk : s.freeSlot (s.grpCore g) = some k)
    (hi : s.freeIndex g.launch g.block (((s.launches.get? g.launch).map (·.ngroups)).getD 0) = some i) (hfit : s.regsUsed (s.grpCore g) + g.nregs ≤ 1024) :
    ∃ (t : State) (a : Nat) (now : BitVec 64) (joined : Nat), exec (.spawn w) s = .next t ∧
      t.grp (gidOf g.launch g.block i) = some { spawned w g r (s.grpCore g) k i a now with joined := joined, lastCore := s.grpCore g } ∧
      t.grp gid = some ({ g with regs := g.regs.setK (kNum w.d) true }.moved second 1) ∧ t.ops = s.ops := by
  have hne : gidOf g.launch g.block i ≠ gid := by
    rintro rfl
    exact absurd h.here (by rw [freeIndex_free hi]; simp)
  have hsave := s.saveArea_frame g.ctx groupArea (clusterDie (coreCluster (s.grpCore g)))
  have hcond : spawnEff w gid g r s = ((s.saveArea g.ctx groupArea (clusterDie (coreCluster (s.grpCore g)))).2.addGroup (gidOf g.launch g.block i)
      (spawned w g r (s.grpCore g) k i (s.saveArea g.ctx groupArea (clusterDie (coreCluster (s.grpCore g)))).1
        (s.saveArea g.ctx groupArea (clusterDie (coreCluster (s.grpCore g)))).2.pcc)).modGrp gid (fun g => { g with regs := g.regs.setK (kNum w.d) true }) := by
    unfold spawnEff State.launchOf
    rw [hk, hi]
    exact if_pos hfit
  generalize s.saveArea g.ctx groupArea (clusterDie (coreCluster (s.grpCore g))) = x at hsave hcond
  obtain ⟨hgrps, hops⟩ := hsave
  have hhere : (x.2.addGroup (gidOf g.launch g.block i) (spawned w g r (s.grpCore g) k i x.1 x.2.pcc)).grp gid = some g :=
    (State.grp_setGrp_ne _ _ hne.symm).trans ((congrArg (FMap.get? · gid) hgrps).trans h.here)
  rw [State.modGrp_eq _ gid g _ hhere] at hcond
  have hword := groupWord_runs (n := 1) h (fun gid _ g r s => spawnEff w gid g r s) { g with regs := g.regs.setK (kNum w.d) true } r
    (by rw [hcond]; exact State.grp_setGrp_self ..) h.run h.free
  rw [hcond, State.advance_setGrp] at hword
  refine ⟨_, x.1, x.2.pcc, x.2.now, (exec_spawn w s).trans hword, ?_, State.grp_setGrp_self .., hops⟩
  rw [State.grp_setGrp_ne _ _ hne]
  exact State.grp_setGrp_self ..

theorem formTable_singleton {e : Entry} (h : e.mask ≠ 0) : formTable [e] = [e] := by
  rw [formTable, List.filter_singleton, bne_iff_ne.2 h]; rfl

theorem spawnWords : spawnWordsRules := by
  intro w s gid second g r h
  refine ⟨fun k i hk hi hfit hm => ?_, spawn_fails h⟩
  obtain ⟨t, a, now, joined, ht, hnew, hgrp, hops⟩ := spawn_starts h hk hi hfit
  obtain ⟨hg, hf, hj⟩ := spawnRegs_keeps g r.mask
  refine ⟨t, _, ht, hnew, rfl, rfl, rfl, rfl, rfl, rfl, rfl, ⟨_, formTable_singleton hm, rfl, rfl, rfl⟩, fun n => ?_, fun n _ l hl => spawnRegs_vreg g r.mask hl,
    fun n _ => ?_, fun n _ => ?_, hgrp, hops⟩
  · exact congrArg (fun m => FMap.getD m 0 n) hg
  · exact congrArg (fun m => FMap.getD m (BitVec.allOnes 64) n) hj
  · exact congrArg (fun m => FMap.getD m 0 n) hf

/-- Settles O29: the words of a run, SPAWN, and the boundary at a RUNEND. -/
theorem runsAndSpawns : Obligations.RunsAndSpawns := ⟨runWords, spawnWords, runBoundary⟩

end Sys2Proof.Machine
end

section
/-! SUPPORT of O54. What the words of the issue engine leave of their group and its run. -/

namespace Sys2Proof.Machine

variable {i : Instr} {b : Body} {s u : State} {eff : Nat → Bool → Group → Run → State → State} {gid : Nat} {second : Bool} {g g' : Group} {r r' : Run}
  {P : State → Group → Prop} {w : Ctl}

/-! How a word moves on. -/

theorem movesOn_afterRun (ht : exec i s = .next (s.afterRun gid second g r')) (hr : r'.idx = r.idx ∧ r'.pc = r.pc ∧ r'.mask = r.mask)
    (hP : P (s.afterRun gid second g r') (g.setRun second (some (bumpRun 1 r')))) : movesOn i s gid second r P := by
  obtain ⟨hidx, hpc, hmask⟩ := hr
  exact ⟨_, _, bumpRun 1 r', ht, State.grp_setGrp_self .., Group.setRun_runOn .., by rw [bumpRun, hidx], hpc, hmask, hP⟩

theorem movesOn_setGrp (ht : exec i s = .next (u.setGrp gid (g'.moved second 1))) (hr : g'.runOn second = some r)
    (hP : P (u.setGrp gid (g'.moved second 1)) (g'.moved second 1)) : movesOn i s gid second r P :=
  ⟨_, _, bumpRun 1 r, ht, State.grp_setGrp_self .., by rw [Group.moved, hr]; exact Group.setRun_runOn .., rfl, rfl, rfl, hP⟩

/-- A word whose effect leaves its run as it was. -/
theorem groupWord_moves {n : Nat} (h : Runs b s gid second g r) (he : eff gid second g r s = u) (hg : u.grp gid = some g')
    (hr : g'.runOn second = g.runOn second) : groupWord b n s eff = .next (u.setGrp gid (g'.moved second n)) := by
  subst he
  rw [groupWord_runs h eff g' r hg (hr.trans h.run) h.free, State.advance_eq hg]

/-! Next PCs (R161). -/

theorem getD_foldl_set {α : Type} (f : Nat → α) (ls : List Nat) (m : FMap α) (d : α) (l : Nat) :
    (ls.foldl (fun m l => m.set l (f l)) m).getD d l = if l ∈ ls then f l else m.getD d l := by
  induction ls generalizing m with
  | nil => simp
  | cons x xs ih =>
    rw [List.foldl_cons, ih, FMap.getD, FMap.getD, FMap.get?_set]
    by_cases hx : l = x
    · subst hx; simp
    · simp [hx]

theorem setGoto_nextPc {t : Pc} {ls : List Nat} {l : Nat} (r : Run) (h : l ∈ ls) : (setGoto t ls r).nextPc l = t :=
  (getD_foldl_set (fun _ => t) ls r.goto _ l).trans (if_pos h)

/-- Each lane of a run to a PC of its own. -/
theorem foldl_setGoto (f : Nat → Pc) (ls : List Nat) (r : Run) :
    ls.foldl (fun x l => setGoto (f l) [l] x) r = { r with goto := ls.foldl (fun m l => m.set l (f l)) r.goto } := by
  induction ls generalizing r with
  | nil => rfl
  | cons x xs ih => rw [List.foldl_cons, ih]; rfl

/-- The next PC of a lane of a port's run. -/
def Group.nextOn (g : Group) (second : Bool) (l : Nat) : Pc := ((g.runOn second).map (·.nextPc l)).getD 0

theorem nextOn_setRun (g : Group) (second : Bool) (r : Run) (l : Nat) : (g.setRun second (some (bumpRun 1 r))).nextOn second l = r.nextPc l := by
  rw [Group.nextOn, Group.setRun_runOn]; rfl

theorem br_moves (h : Runs (bodyOf (.br w)) s gid second g r) : exec (.br w) s = .next (s.afterRun gid second g (setGoto (brTarget r w)
    ((lanesOf r.mask).filter (fun l => xor (readC g.regs w.a l) (w.mod.getLsbD 0))) r)) := by
  change execBr w s = _
  unfold execBr ctlWord
  exact groupWord_modRun h (fun x => setGoto (brTarget r w) ((lanesOf r.mask).filter (fun l => xor (readC g.regs w.a l) (w.mod.getLsbD 0))) x) rfl h.free

theorem bru_moves (h : Runs (bodyOf (.bru w)) s gid second g r) : exec (.bru w) s = .next (s.afterRun gid second g (setGoto (brTarget r w)
    (if xor (readK g.regs w.a) (w.mod.getLsbD 0) then lanesOf r.mask else []) r)) := by
  change execBru w s = _
  unfold execBru ctlWord
  exact groupWord_modRun h (fun x => setGoto (brTarget r w) (if xor (readK g.regs w.a) (w.mod.getLsbD 0) then lanesOf r.mask else []) x) rfl h.free

theorem call_moves (h : Runs (bodyOf (.call w)) s gid second g r) :
    exec (.call w) s = .next (s.afterRun gid second g { setGoto (brTarget r w) (lanesOf r.mask) r with link := some (vReg w.d) }) := by
  change execCall w s = _
  unfold execCall ctlWord
  exact groupWord_modRun h (fun x => { setGoto (brTarget r w) (lanesOf r.mask) x with link := some (vReg w.d) }) rfl h.free

/-- A jump all of whose targets pass their checks (R175). -/
theorem jumpWord_moves {opc : Nat} (h : Runs (.ctl opc w) s gid second g r)
    (hk : ∀ l < 64, r.mask.getLsbD l = true → s.landCheck (s.grpCore g) g.ctx (s.codeBase g) (readLane g.regs .b64 w.a l) = some 0) :
    jumpWord opc w s = .next (s.afterRun gid second g ((lanesOf r.mask).foldl (fun x l => setGoto ((readLane g.regs .b64 w.a l).setWidth 48) [l] x) r)) := by
  have hchk : ∀ l ∈ lanesOf r.mask, s.landCheck (s.grpCore g) g.ctx (s.codeBase g) (readLane g.regs .b64 w.a l) = some 0 :=
    fun l hl => hk l ((mem_lanesOf _ _).1 hl).1 ((mem_lanesOf _ _).1 hl).2
  have hlate : (lanesOf r.mask).filter (fun l => (s.landCheck (s.grpCore g) g.ctx (s.codeBase g) (readLane g.regs .b64 w.a l)).isNone) = [] :=
    List.filter_eq_nil_iff.2 (fun l hl => by rw [hchk l hl]; simp)
  have hall : (lanesOf r.mask).all (fun l => (s.landCheck (s.grpCore g) g.ctx (s.codeBase g) (readLane g.regs .b64 w.a l)).getD 0 == 0) = true :=
    List.all_eq_true.2 (fun l hl => by rw [hchk l hl]; rfl)
  unfold jumpWord ctlWord
  refine groupWord_modRun h (fun x => (lanesOf r.mask).foldl (fun x l => setGoto ((readLane g.regs .b64 w.a l).setWidth 48) [l] x) x) ?_ ?_
  · dsimp only
    rw [hlate, hall]
    rfl
  · rw [foldl_setGoto]; exact h.free

theorem jumpWord_goes {opc : Nat} (hx : exec i s = jumpWord opc w s) (h : Runs (.ctl opc w) s gid second g r)
    (hk : ∀ l < 64, r.mask.getLsbD l = true → s.landCheck (s.grpCore g) g.ctx (s.codeBase g) (readLane g.regs .b64 w.a l) = some 0) :
    movesOn i s gid second r (fun t g' => t.mems = s.mems ∧ ∀ l < 64, r.mask.getLsbD l = true → g'.nextOn second l = (readLane g.regs .b64 w.a l).setWidth 48) := by
  have ht := hx.trans (jumpWord_moves h hk)
  rw [foldl_setGoto] at ht
  refine movesOn_afterRun ht ⟨rfl, rfl, rfl⟩ ⟨rfl, fun l hl hm => ?_⟩
  rw [nextOn_setRun]
  exact (getD_foldl_set (fun l => (readLane g.regs .b64 w.a l).setWidth 48) (lanesOf r.mask) r.goto _ l).trans (if_pos ((mem_lanesOf _ _).2 ⟨hl, hm⟩))

theorem tret_moves (h : Runs (bodyOf (.tret w)) s gid second g r) (hh : g.handler = true)
    (hk : s.landCheck (s.grpCore g) g.ctx (s.codeBase g) (readGr g.regs w.a) = some 0) :
    exec (.tret w) s = .next (s.afterRun gid second g { setGoto ((readGr g.regs w.a).setWidth 48) (lanesOf r.mask) r with tret := true }) := by
  change execTret w s = _
  unfold execTret ctlWord
  refine groupWord_modRun h (fun x => { setGoto ((readGr g.regs w.a).setWidth 48) (lanesOf r.mask) x with tret := true }) ?_ h.free
  simp only [hh, hk, Bool.not_true, Bool.false_eq_true, if_false]

theorem exit_moves (h : Runs (bodyOf (.exit w)) s gid second g r) : exec (.exit w) s = .next (s.afterRun gid second g { r with exits := r.mask }) := by
  change execExit w s = _
  unfold execExit ctlWord
  exact groupWord_modRun h (fun x => { x with exits := r.mask }) rfl h.free

/-! Spawns, handles and CSRs (R179 to R181, R192, R418). -/

theorem kreg_setK_ne (x : Regs) {n m : Nat} (v : Bool) (hm : m < 8) (h : m ≠ n) : (x.setK n v).kreg m = x.kreg m := by
  by_cases hn : n < 8
  · rw [Regs.kreg_setK x n m v hn hm, if_neg (fun hc => h hc.1)]
  · have hbit : (1#8) <<< n = 0#8 := BitVec.shiftLeft_eq_zero (by omega)
    have h7 : n ≠ 7 := by omega
    have hall : (255#8).getLsbD m = true := by interval_cases m <;> rfl
    simp [Regs.setK, Regs.kreg, h7, hbit, hall]

theorem moved_regs (g : Group) (second : Bool) (n : Nat) : (g.moved second n).regs = g.regs := by cases second <;> rfl

theorem spawn_moves (h : Runs (bodyOf (.spawn w)) s gid second g r) : ∃ t v, exec (.spawn w) s = .next t ∧
    t.grp gid = some ({ g with regs := g.regs.setK (kNum w.d) v }.moved second 1) ∧ t.ops = s.ops := by
  by_cases hno : s.freeSlot (s.grpCore g) = none ∨ s.freeIndex g.launch g.block (((s.launches.get? g.launch).map (·.ngroups)).getD 0) = none ∨
      ¬ s.regsUsed (s.grpCore g) + g.nregs ≤ 1024
  · exact ⟨_, false, spawn_fails h hno, State.grp_setGrp_self .., rfl⟩
  · simp only [not_or, not_not, ← ne_eq, Option.ne_none_iff_exists'] at hno
    obtain ⟨⟨k, hk⟩, ⟨j, hj⟩, hfit⟩ := hno
    obtain ⟨t, -, -, -, ht, -, hgrp, hops⟩ := spawn_starts h hk hj hfit
    exact ⟨t, true, ht, hgrp, hops⟩

theorem spawn_completes (h : Runs (bodyOf (.spawn w)) s gid second g r) :
    movesOn (.spawn w) s gid second r (fun t g' => t.ops = s.ops ∧ ∀ n < 8, n ≠ kNum w.d → g'.regs.kreg n = g.regs.kreg n) := by
  obtain ⟨t, v, ht, hgrp, hops⟩ := spawn_moves h
  refine ⟨t, _, bumpRun 1 r, ht, hgrp, ?_, rfl, rfl, rfl, hops, fun n hn hne => ?_⟩
  · rw [Group.moved, show Group.runOn { g with regs := g.regs.setK (kNum w.d) v } second = some r from h.run]; exact Group.setRun_runOn ..
  · rw [moved_regs]; exact kreg_setK_ne _ v hn hne

theorem ctlOnly_moves {opc : Nat} {f : Group → Run → State → Group} (hx : exec i s = ctlOnly opc w s f) (h : Runs (.ctl opc w) s gid second g r)
    (hf : (f g r s).runOn second = g.runOn second) (hP : P (s.afterWord gid second (f g r s)) ((f g r s).moved second 1)) : movesOn i s gid second r P :=
  movesOn_setGrp (hx.trans (ctlOnly_runs h f hf)) (hf.trans h.run) hP

theorem ctlWord_moves {opc : Nat} (hx : exec i s = ctlWord opc w s eff) (h : Runs (.ctl opc w) s gid second g r) (he : eff gid second g r s = u)
    (hg : u.grp gid = some g') (hr : g'.runOn second = g.runOn second) (hP : P (u.setGrp gid (g'.moved second 1)) (g'.moved second 1)) :
    movesOn i s gid second r P :=
  movesOn_setGrp (hx.trans (groupWord_moves h he hg hr)) (hr.trans h.run) hP

/-- A CSR write that takes no handle leaves the registers, the run and memory. -/
theorem csrWrite_keeps {n : Nat} {x : Dword} (hg : s.grp gid = some g) (hn : n = 0x83 → x.getLsbD 40 = false) :
    ∃ g', (s.csrWrite gid second g n x).grp gid = some g' ∧ g'.regs = g.regs ∧ g'.runOn second = g.runOn second := by
  unfold State.csrWrite
  split
  · exact ⟨_, State.grp_modGrp _ hg, rfl, rfl⟩
  · exact ⟨_, State.grp_modGrp _ hg, rfl, rfl⟩
  · exact ⟨g, hg, rfl, rfl⟩
  · exact ⟨g, hg, rfl, rfl⟩
  · dsimp only
    rw [if_neg (by rw [hn rfl]; simp)]
    exact ⟨g, hg, rfl, rfl⟩
  · exact ⟨g, hg, rfl, rfl⟩

theorem csrw_completes (h : Runs (bodyOf (.csrw w)) s gid second g r) (hn : spNum 0 w.d = 0x83 → (readG g.regs .b64 w.a).getLsbD 40 = false) :
    movesOn (.csrw w) s gid second r (fun t g' => t.mems = s.mems ∧ g'.regs = g.regs) := by
  obtain ⟨g', hg, hregs, hr⟩ := csrWrite_keeps (second := second) (x := readGz g.regs w.a) h.here hn
  exact ctlWord_moves (i := .csrw w) (eff := fun gid second g _ s => s.csrWrite gid second g (spNum 0 w.d) (readGz g.regs w.a)) rfl h rfl hg hr
    ⟨State.csrWrite_mems .., (moved_regs ..).trans hregs⟩

/-- The state after a flush of a context whose next entry is free. -/
def State.flushed (s : State) (g : Group) (c : Ctx) : State :=
  { ((s.takeFut g.ctx (c.fut c.nextTag) 0xA none g.launch s.fresh).newNum.2.modCtx g.ctx (fun c' => { c' with fh := nextHandle c 0xA })) with
    aops := s.aops.set s.fresh (AOp.new g.ctx none g.launch (s.grpCluster g) (hTag (nextHandle c 0xA)) .flush .running s.pcc) }

theorem startFlush_of_free {c : Ctx} (hc : s.ctx? g.ctx = some c) (hf : (c.fut c.nextTag).st ≠ .pending) : s.startFlush g = some (s.flushed g c) := by
  unfold State.startFlush
  dsimp only
  rw [State.allocFut_of_free 0xA none g.launch s.fresh hc hf]
  rfl

theorem flushed_ctx {c : Ctx} (hc : s.ctx? g.ctx = some c) : ∃ c', (s.flushed g c).ctx? g.ctx = some c' ∧ (c'.fut c.nextTag).st = .pending ∧
    c'.fh = nextHandle c 0xA := by
  obtain ⟨c', hc', hpend⟩ := State.takeFut_pending (s := s) 0xA none g.launch s.fresh hc
  exact ⟨{ c' with fh := nextHandle c 0xA },
    State.ctx?_modCtx (s := (s.takeFut g.ctx (c.fut c.nextTag) 0xA none g.launch s.fresh).newNum.2) (fun c' => { c' with fh := nextHandle c 0xA }) hc', hpend, rfl⟩

theorem csrWrite_flush {x : Dword} (hbit : x.getLsbD 40 = true)
    (hs : (s.modCtx g.ctx (fun c => { c with hen := x.getLsbD 32, ben := x.getLsbD 33 })).startFlush g = some u) : s.csrWrite gid second g 0x83 x = u := by
  simp only [State.csrWrite, hbit, if_true, hs]

theorem traceFlush_completes {c : Ctx} (h : Runs (bodyOf (.traceFlush w)) s gid second g r) (hc : s.ctx? g.ctx = some c)
    (hbit : (readGr g.regs w.a).getLsbD 40 = true) (hf : (c.fut c.nextTag).st ≠ .pending) :
    movesOn (.traceFlush w) s gid second r (fun t _ => t.mems = s.mems ∧
      ∃ c', t.ctx? g.ctx = some c' ∧ (c'.fut c.nextTag).st = .pending ∧ c'.fh = mkHandle 0xA c.nextTag ((c.fut c.nextTag).gen + 1)) := by
  have hset := State.ctx?_modCtx (fun c => { c with hen := (readGr g.regs w.a).getLsbD 32, ben := (readGr g.regs w.a).getLsbD 33 }) hc
  have heff := csrWrite_flush (gid := gid) (second := second) hbit (startFlush_of_free hset hf)
  exact ctlWord_moves (i := .traceFlush w) (eff := fun gid second g _ s => s.csrWrite gid second g 0x83 (readGr g.regs w.a)) rfl h heff h.here rfl ⟨rfl, flushed_ctx hset⟩

theorem fcancel_completes {c : Ctx} (h : Runs (bodyOf (.fcancel w)) s gid second g r) (hc : s.ctx? g.ctx = some c) (hl : c.live? (g.regs.freg (fNum w.a)) = none) :
    movesOn (.fcancel w) s gid second r (fun t g' => t.mems = s.mems ∧ g'.regs = g.regs) := by
  refine ctlWord_moves (i := .fcancel w) (eff := fun _ _ g _ s => match s.ctx? g.ctx with
    | none => s
    | some c => match c.live? (g.regs.freg (fNum w.a)) with
      | some e => if e.st = .pending then s.cancelAop e.op else s
      | none => s) rfl h (u := s) ?_ h.here rfl ⟨rfl, moved_regs ..⟩
  simp only [hc, hl]

/-! Mailboxes (R286, R287). -/

/-- The place that a group's SQPOST takes. -/
def groupPlace (w : Ctl) (gid : Nat) (g : Group) (s : State) : MailPlace :=
  { msg := readGz g.regs w.a, ready := false, lost := false, byGroup := some gid, upto := s.fresh }

theorem sqpostGroup_completes (h : Runs (bodyOf (.sqpostGroup w)) s gid second g r) : movesOn (.sqpostGroup w) s gid second r (fun t _ => t.mems = s.mems ∧
    ∃ p, (t.cl (s.grpCluster g)).box (mailBox w) = (s.cl (s.grpCluster g)).box (mailBox w) ++ [p] ∧ p.msg = readG g.regs .b64 w.a) := by
  refine ctlWord_moves (i := .sqpostGroup w) (eff := fun gid _ g _ s =>
    s.modCl (s.grpCluster g) (fun c => c.setBox (mailBox w) (c.box (mailBox w) ++ [groupPlace w gid g s]))) rfl h rfl h.here rfl ⟨rfl, groupPlace w gid g s, ?_, rfl⟩
  have hcl := State.cl_modCl_self s (s.grpCluster g) (fun c => c.setBox (mailBox w) (c.box (mailBox w) ++ [groupPlace w gid g s]))
  exact (congrArg (fun c => Cluster.box c (mailBox w)) hcl).trans ((Cluster.box_setBox ..).trans (if_pos rfl))

/-- The registers that take a message. -/
def takenRegs (w : Ctl) (p : MailPlace) (rg : Regs) : Regs :=
  if w.mod.getLsbD 0 then (rg.setG (gReg w.d) p.msg).setK (kNum w.b) true else rg.setG (gReg w.d) p.msg

theorem takenRegs_greg (w : Ctl) (p : MailPlace) (rg : Regs) : (takenRegs w p rg).greg (gReg w.d) = p.msg := by
  have hk : ∀ (x : Regs) n v, (x.setK n v).greg (gReg w.d) = x.greg (gReg w.d) := fun x n v => by
    unfold Regs.setK
    split <;> rfl
  unfold takenRegs
  split
  · rw [hk, Regs.greg_setG_self]
  · rw [Regs.greg_setG_self]

/-- What SQWAIT of a group does. -/
def sqwaitEff (w : Ctl) (gid : Nat) (_ : Bool) (g : Group) (_ : Run) (s : State) : State :=
  match (s.cl (s.grpCluster g)).box (mailBox w) with
  | p :: ps =>
    if s.takeable (s.grpCluster g) p then
      (s.modCl (s.grpCluster g) (fun c => c.setBox (mailBox w) ps)).modGrp gid (fun g => { g with regs := takenRegs w p g.regs })
    else s.modGrp gid (fun g => { g with regs := if w.mod.getLsbD 0 then g.regs.setK (kNum w.b) false else g.regs })
  | [] => s.modGrp gid (fun g => { g with regs := if w.mod.getLsbD 0 then g.regs.setK (kNum w.b) false else g.regs })

theorem sqwaitEff_takes {p : MailPlace} {ps : List MailPlace} (hb : (s.cl (s.grpCluster g)).box (mailBox w) = p :: ps)
    (ht : s.takeable (s.grpCluster g) p = true) : sqwaitEff w gid second g r s =
      (s.modCl (s.grpCluster g) (fun c => c.setBox (mailBox w) ps)).modGrp gid (fun g => { g with regs := takenRegs w p g.regs }) := by
  rw [sqwaitEff, hb]
  exact if_pos ht

theorem sqwaitGroup_completes {p : MailPlace} {ps : List MailPlace} (h : Runs (bodyOf (.sqwaitGroup w)) s gid second g r)
    (hb : (s.cl (s.grpCluster g)).box (mailBox w) = p :: ps) (ht : s.takeable (s.grpCluster g) p = true) :
    movesOn (.sqwaitGroup w) s gid second r (fun t g' => t.mems = s.mems ∧ (t.cl (s.grpCluster g)).box (mailBox w) = ps ∧ g'.regs.greg (gReg w.d) = p.msg) := by
  have hcl := State.cl_modCl_self s (s.grpCluster g) (fun c => c.setBox (mailBox w) ps)
  have hgrp : ((s.modCl (s.grpCluster g) (fun c => c.setBox (mailBox w) ps)).modGrp gid (fun g => { g with regs := takenRegs w p g.regs })).grp gid =
      some { g with regs := takenRegs w p g.regs } := State.grp_modGrp _ h.here
  refine movesOn_setGrp ((?_ : execSqwaitGroup w s = _).trans (groupWord_moves (n := 1) h (sqwaitEff_takes hb ht) hgrp rfl)) h.run
    ⟨rfl, (congrArg (fun c => Cluster.box c (mailBox w)) hcl).trans ((Cluster.box_setBox ..).trans (if_pos rfl)), by rw [moved_regs]; exact takenRegs_greg ..⟩
  rfl

theorem trapsAll_of_trapPlain {c : Cause} (h : exec i s = .next (s.afterTrap gid g (trapOf r c r.mask 0 0 0))) : trapsAll i s gid g r c :=
  ⟨_, h, rfl, rfl, rfl, rfl, rfl⟩

theorem trapOp_traps (h : Runs (bodyOf (.trapOp w)) s gid false g r) : trapsAll (.trapOp w) s gid g r (.prog (w.imm.setWidth 8)) := by
  refine trapsAll_of_trapPlain ?_
  rw [BitVec.setWidth_eq_extractLsb' (by omega)]
  change execTrapOp w s = _
  unfold execTrapOp ctlWord
  exact groupWord_trapPlain h rfl

theorem bkpt_traps (h : Runs (bodyOf (.bkpt w)) s gid false g r) : trapsAll (.bkpt w) s gid g r .bkpt := by
  refine trapsAll_of_trapPlain ?_
  change execBkpt w s = _
  unfold execBkpt ctlWord
  exact groupWord_trapPlain h rfl

/-! Each word. -/

theorem afterRun_runOn {x : Run} (hx : (g.setRun second (some (bumpRun 1 r'))).runOn second = some x) : x = bumpRun 1 r' := by
  rw [Group.setRun_runOn] at hx
  exact (Option.some.inj hx).symm

/-- A word that leaves its group alone. -/
theorem afterWord_completes (ht : exec i s = .next (s.afterWord gid second g)) (hr : g.runOn second = some r) :
    movesOn i s gid second r (fun t g' => t.mems = s.mems ∧ g'.regs = g.regs) := movesOn_setGrp ht hr ⟨rfl, moved_regs ..⟩

theorem br_completes (h : Runs (bodyOf (.br w)) s gid second g r) : movesOn (.br w) s gid second r (fun t g' => t.mems = s.mems ∧
    ∀ l < 64, r.mask.getLsbD l = true → xor (readC g.regs w.a l) (w.mod.getLsbD 0) = true → g'.nextOn second l = brTarget r w) :=
  movesOn_afterRun (br_moves h) ⟨rfl, rfl, rfl⟩ ⟨rfl, fun _ hl hm hx => (nextOn_setRun ..).trans
    (setGoto_nextPc r (List.mem_filter.2 ⟨(mem_lanesOf _ _).2 ⟨hl, hm⟩, hx⟩))⟩

theorem bru_completes (h : Runs (bodyOf (.bru w)) s gid second g r) : movesOn (.bru w) s gid second r (fun t g' => t.mems = s.mems ∧
    ∀ l < 64, r.mask.getLsbD l = true → xor (readK g.regs w.a) (w.mod.getLsbD 0) = true → g'.nextOn second l = brTarget r w) :=
  movesOn_afterRun (bru_moves h) ⟨rfl, rfl, rfl⟩ ⟨rfl, fun _ hl hm hx => (nextOn_setRun ..).trans
    (setGoto_nextPc r (by rw [if_pos hx]; exact (mem_lanesOf _ _).2 ⟨hl, hm⟩))⟩

theorem call_completes (h : Runs (bodyOf (.call w)) s gid second g r) : movesOn (.call w) s gid second r (fun t g' => t.mems = s.mems ∧
    ∀ l < 64, r.mask.getLsbD l = true → g'.nextOn second l = brTarget r w) :=
  movesOn_afterRun (call_moves h) ⟨rfl, rfl, rfl⟩ ⟨rfl, fun _ hl hm => (nextOn_setRun ..).trans (setGoto_nextPc r ((mem_lanesOf _ _).2 ⟨hl, hm⟩))⟩

theorem tret_completes (h : Runs (bodyOf (.tret w)) s gid second g r) (hh : g.handler = true)
    (hk : s.landCheck (s.grpCore g) g.ctx (s.codeBase g) (readGr g.regs w.a) = some 0) : movesOn (.tret w) s gid second r (fun t g' => t.mems = s.mems ∧
    ∀ l < 64, r.mask.getLsbD l = true → g'.nextOn second l = (readGr g.regs w.a).setWidth 48) :=
  movesOn_afterRun (tret_moves h hh hk) ⟨rfl, rfl, rfl⟩ ⟨rfl, fun _ hl hm => (nextOn_setRun ..).trans (setGoto_nextPc r ((mem_lanesOf _ _).2 ⟨hl, hm⟩))⟩

theorem exit_completes (h : Runs (bodyOf (.exit w)) s gid second g r) : movesOn (.exit w) s gid second r (fun t g' => t.mems = s.mems ∧
    ∀ x, g'.runOn second = some x → x.exits = r.mask) :=
  movesOn_afterRun (exit_moves h) ⟨rfl, rfl, rfl⟩ ⟨rfl, fun x hx => by rw [afterRun_runOn hx]; rfl⟩

theorem bar_completes {opc : Nat} {sends : Bool} (hx : exec i s = barWord opc sends w s) (h : Runs (.ctl opc w) s gid second g r)
    (h1 : 1 ≤ (readGz g.regs w.a).toNat) (h2 : (readGz g.regs w.a).toNat ≤ 2 ^ 24) : movesOn i s gid second r (fun t g' => t.mems = s.mems ∧
    ∀ x, g'.runOn second = some x → x.arrive.length = r.arrive.length + 1) :=
  movesOn_afterRun (hx.trans (barWord_arrives h h1 h2)) ⟨rfl, rfl, rfl⟩ ⟨rfl, fun x hx => by rw [afterRun_runOn hx]; exact List.length_append ..⟩

theorem runend_completes (h : Runs (bodyOf (.runend w)) s gid false g r) (ha : r.arrive = []) (h2 : g.run2 = none) :
    ∃ t g', exec (.runend w) s = .next t ∧ t.grp gid = some g' ∧ g'.run = none ∧ t.mems = s.mems := by
  obtain ⟨t, toks, u, ht, hgrp, -, hm, -⟩ := runend_ends h (.inl ha) h2
  obtain ⟨-, hrun, -⟩ := nextDeferred_keeps ((g.ending (s.escHolds gid w) w).crossed r toks u)
  exact ⟨t, _, ht, hgrp, hrun.trans (crossed_keeps ..).1, hm⟩

/-- The registers that an FTEST of a context's handle leaves. -/
def ftestRegs (w : Ctl) (c : Ctx) (rg : Regs) : Regs :=
  if isG w.d then rg.setG (gReg w.d) (futCode c (rg.freg (fNum w.a))) else rg.setK (kNum w.d) (notPending c (rg.freg (fNum w.a)))

/-- What an FTEST makes of its group. -/
def ftestGroup (w : Ctl) (g : Group) (_ : Run) (s : State) : Group :=
  match s.ctx? g.ctx with
  | none => g
  | some c => if isG w.d then { g with regs := g.regs.setG (gReg w.d) (futCode c (g.regs.freg (fNum w.a))) }
    else { g with regs := g.regs.setK (kNum w.d) (notPending c (g.regs.freg (fNum w.a))) }

theorem ftestGroup_eq {c : Ctx} (hc : s.ctx? g.ctx = some c) : ftestGroup w g r s = { g with regs := ftestRegs w c g.regs } := by
  rw [ftestGroup, hc, ftestRegs]
  dsimp only
  split <;> rfl

theorem ftest_completes {c : Ctx} (h : Runs (bodyOf (.ftest w)) s gid second g r) (hc : s.ctx? g.ctx = some c) :
    movesOn (.ftest w) s gid second r (fun t _ => t.mems = s.mems ∧ t.ctxs = s.ctxs) :=
  ctlOnly_moves (i := .ftest w) (f := ftestGroup w) rfl h (by rw [ftestGroup_eq hc]; rfl) ⟨rfl, rfl⟩

/-- What a CSRR makes of its group. -/
def csrrGroup (w : Ctl) (g : Group) (r : Run) (s : State) : Group :=
  if isG w.d then { g with regs := g.regs.setG (gReg w.d) (s.csrValue g (spNum 0 w.a) 0) }
  else { g with regs := writeLanes g.regs r.mask false w.d (fun l => s.csrValue g (spNum 0 w.a) l) }

theorem csrr_completes (h : Runs (bodyOf (.csrr w)) s gid second g r) : movesOn (.csrr w) s gid second r (fun t _ => t.mems = s.mems ∧ t.ctxs = s.ctxs) :=
  ctlOnly_moves (i := .csrr w) (f := csrrGroup w) rfl h (by unfold csrrGroup; split <;> rfl) ⟨rfl, rfl⟩

/-- Settles O54: each word by the state that its effect leaves; a SPAWN in both its outcomes, RUNEND at the boundary of a group with one run. -/
theorem controlWordsComplete : Obligations.ControlWordsComplete := by
  intro w s gid second g r
  have hmail (c : Cluster) : c.mail.getD [] (w.imm.toNat % 16) = c.box (mailBox w) := by rw [mailBox_eq]; rfl
  obtain ⟨hplain, hpause, -⟩ := runWords w s gid second g r
  dsimp only
  simp only [hmail]
  refine ⟨fun h => ?nop, fun h => ?wait, fun h => ?rjoin, br_completes, bru_completes, call_completes, ?jump, fun hh hk h => tret_completes h hh hk, exit_completes,
    fun h => ?pause, fun h1 h2 => ⟨fun h => ?bar, fun h => ?sstep⟩, fun _ => spawn_completes, fun h => ?fmovg, fun h => ?gmovf,
    fun c hc => ⟨fun h => ftest_completes h hc, csrr_completes, fun hl h => fcancel_completes h hc hl, fun hn h => csrw_completes h (fun he => absurd he hn),
      fun _ hbit h => csrw_completes h (fun _ => hbit), fun hbit hf _ h => traceFlush_completes h hc hbit hf⟩, sqpostGroup_completes,
    fun p ps hb ht h => sqwaitGroup_completes h hb ht, fun h2 => ?traps, runend_completes⟩
  case nop => exact afterWord_completes (hplain (.nop w) (by simp) h) h.run
  case wait => exact afterWord_completes (hplain (.wait w) (by simp) h) h.run
  case rjoin => exact afterWord_completes (hplain (.rjoin w) (by simp) h) h.run
  case jump =>
    simp only [List.forall_mem_cons]
    exact ⟨fun hk h => jumpWord_goes (i := .jmpi w) (opc := 0x184) rfl h hk, fun hk h => jumpWord_goes (i := .ret w) (opc := 0x186) rfl h hk, by simp⟩
  case pause => exact movesOn_afterRun (hpause h) ⟨rfl, rfl, rfl⟩ ⟨rfl, by cases second <;> rfl⟩
  case bar => exact bar_completes (i := .bar w) (opc := 0x189) (sends := false) rfl h h1 h2
  case sstep => exact bar_completes (i := .sstep w) (opc := 0x18A) (sends := true) rfl h h1 h2
  case fmovg =>
    exact ctlOnly_moves (i := .fmovg w) (f := fun g _ _ => { g with regs := g.regs.setG (gReg w.d) ((g.regs.freg (fNum w.a)).setWidth 64) }) rfl h rfl
      ⟨rfl, by rw [moved_regs]; exact Regs.greg_setG_self ..⟩
  case gmovf =>
    exact ctlOnly_moves (i := .gmovf w) (f := fun g _ _ => { g with regs := g.regs.setF (fNum w.d) ((readGr g.regs w.a).setWidth 32) }) rfl h rfl
      ⟨rfl, by rw [moved_regs, Regs.freg_setF, if_pos rfl]; rfl⟩
  case traps =>
    subst h2
    exact ⟨trapOp_traps, bkpt_traps⟩

end Sys2Proof.Machine
end

section
/-! SUPPORT of O56. The words of a stream that go on, the words of the Parts engine that join its queue, micro-ops that go on and packets that are done with. -/

namespace Sys2Proof.Machine

variable {i : Instr} {s : State} {cl : Nat} {q q' : Seq} {w : Ctl}

/-! Words of the stream (R277 to R282, R287, R288). -/

/-- The stream goes on to its next word, with an effect. -/
def StreamGoes (i : Instr) (s : State) (cl : Nat) (q : Seq) (eff : State → Prop) : Prop :=
  ∃ t, exec i s = .next t ∧ (t.seqOf cl).spc = q.spc + 12 ∧ (t.seqOf cl).st = q.st ∧ (t.seqOf cl).trap = q.trap ∧ t.mems = s.mems ∧ t.groups = s.groups ∧ eff t

theorem streamGoes_of_seqGoes {eff : State → Prop} (h : seqGoes i s cl q' (q.spc + 12)) (hst : q'.st = q.st) (htr : q'.trap = q.trap)
    (heff : ∀ t, exec i s = .next t → t.seqOf cl = { q' with spc := q.spc + 12, stallFrom := s.pcc } → eff t) : StreamGoes i s cl q eff := by
  obtain ⟨t, ht, hq, hm, -, hg⟩ := h
  exact ⟨t, ht, (congrArg Seq.spc hq :), (congrArg Seq.st hq).trans hst, (congrArg Seq.trap hq).trans htr, hm, hg, heff t ht hq⟩

theorem streamGoes_of_seqSets {d : Nat} {v : Dword} (h : seqSets i s cl q d v (q.spc + 12)) :
    StreamGoes i s cl q (fun t => (∀ m : Nat, m ≠ d → (t.seqOf cl).reg m = q.reg m) ∧ (t.seqOf cl).pxq = q.pxq) := by
  obtain ⟨rs, hgo, hrs⟩ := h
  refine streamGoes_of_seqGoes hgo rfl rfl (fun t _ hq => ⟨fun m hm => ?_, (congrArg Seq.pxq hq :)⟩)
  rw [hq]
  exact (hrs m).trans (if_neg hm)

/-- The arithmetic words of the stream. -/
theorem seqArithmetic_complete (w : Ctl) (s : State) (cl : Nat) (q : Seq) :
    ∀ i ∈ ([.sadd w, .ssub w, .smul w, .sand w, .sor w, .sxor w, .sshl w, .sshr w, .smov w, .smovi w, .scmp w, .scsrr w] : List Instr), seqRuns (bodyOf i) s cl q →
      StreamGoes i s cl q (fun t => (∀ m : Nat, m ≠ vReg w.d → (t.seqOf cl).reg m = q.reg m) ∧ (t.seqOf cl).pxq = q.pxq) := by
  obtain ⟨hadd, hsub, hmul, hand, hor, hxor, hshl, hshr, hmov, hmovi, hcmp, hcsr⟩ := sequencerArithmetic w s cl q
  simp only [List.forall_mem_cons]
  exact ⟨fun h => streamGoes_of_seqSets (hadd.1 h), fun h => streamGoes_of_seqSets (hsub.1 h), fun h => streamGoes_of_seqSets (hmul.1 h),
    fun h => streamGoes_of_seqSets (hand.1 h), fun h => streamGoes_of_seqSets (hor.1 h), fun h => streamGoes_of_seqSets (hxor.1 h),
    fun h => streamGoes_of_seqSets (hshl.1 h), fun h => streamGoes_of_seqSets (hshr.1 h), fun h => streamGoes_of_seqSets (hmov.1 h),
    fun h => streamGoes_of_seqSets (hmovi.1 h), fun h => streamGoes_of_seqSets (hcmp.1 h), fun h => streamGoes_of_seqSets (hcsr.1 h), by simp⟩

theorem seqAccess_completes {p : Instr × Bool} {x : Space} (hp : p ∈ ([(.sld w, true), (.sst w, false)] : List (Instr × Bool))) (h : seqRuns (bodyOf p.1) s cl q)
    (hx : spaceOf (w.mod.extractLsb' 9 3) = some x) (hgl : x ≠ .gl)
    (hal : (q.val w.a + w.imm.signExtend 64).toNat % 2 ^ 32 % 2 ^ (w.mod.toNat / 64 % 8) = 0)
    (hok : s.padOk q.launch (24 * cl) x ((q.val w.a + w.imm.signExtend 64).toNat % 2 ^ 32 : Nat) (2 ^ (w.mod.toNat / 64 % 8)) = true) :
    StreamGoes p.1 s cl q (fun t => (t.seqOf cl).accs.get? s.fresh ≠ none ∧ (t.seqOf cl).s = q.s) := by
  obtain ⟨-, -, -, -, -, hgo⟩ := sequencerAccesses w s cl q p hp h x hx
  rw [if_neg hgl] at hgo
  obtain ⟨y, hy, -⟩ := hgo hal (.inl ⟨hgl, hok⟩)
  refine streamGoes_of_seqGoes hy rfl rfl (fun t _ hq => ⟨?_, (congrArg Seq.s hq :)⟩)
  rw [hq]
  simp

/-! Words of the Parts engine (R283, R299, R300, R308). -/

theorem pxChk_none {opc : Nat} (ha : ∀ p ∈ pxAligns opc q w, p.1 % p.2 = 0) (hr : ∀ x ∈ pxRanges opc q w, s.padOk q.launch (24 * cl) x.1 x.2.1 x.2.2 = true) :
    s.pxChk cl opc q w = none := by
  have halign : (pxAligns opc q w).find? (fun p => p.1 % p.2 != 0) = none := List.find?_eq_none.2 (fun p hp => by simpa using ha p hp)
  have hrange : (pxRanges opc q w).find? (fun x => !s.padOk q.launch (seqCore cl) x.1 x.2.1 x.2.2) = none :=
    List.find?_eq_none.2 (fun x hx => by simpa [seqCore] using hr x hx)
  rw [State.pxChk, halign, hrange]
  rfl

/-- What a word of the Parts engine leaves in the queue. -/
def pxQueued (opc : Nat) (w : Ctl) (s : State) (q : Seq) : PxOp :=
  { word := (ctlToRaw opc w).toWord, pc := q.spc, addr := if opc = 0x2A6 then q.addr w.b else q.addr w.a, addr2 := q.addr w.b
    started := false, startAt := 0, freeAt := 0, due := 0, idx := [], accs := [], gone := false, outside := false, after := s.fresh }

/-- What a word of the Parts engine does. -/
def pxRes (opc : Nat) (w : Ctl) (s : State) (cl : Nat) (q : Seq) : SeqRes :=
  match s.pxChk cl opc q w with
  | some (c, a) => .trap s c (BitVec.ofNat 64 a)
  | none => if 32 ≤ (q.pxq.filter (fun o => !o.started)).length then .wait
    else .go (s.newNum.2.modSeq cl (fun x => { x with pxq := x.pxq ++ [pxQueued opc w s q] }))

theorem pxWord_eq (opc : Nat) (w : Ctl) (s : State) : pxWord opc w s = seqWord (.ctl opc w) s (pxRes opc w s) := rfl

theorem pxWord_queues {opc : Nat} (he : exec i s = pxWord opc w s) (h : seqRuns (.ctl opc w) s cl q) (hroom : (q.pxq.filter (fun o => !o.started)).length < 32)
    (ha : ∀ p ∈ pxAligns opc q w, p.1 % p.2 = 0) (hr : ∀ x ∈ pxRanges opc q w, s.padOk q.launch (24 * cl) x.1 x.2.1 x.2.2 = true) :
    StreamGoes i s cl q (fun t => (t.seqOf cl).pxq.length = q.pxq.length + 1 ∧ (t.seqOf cl).s = q.s) := by
  have hres : pxRes opc w s cl q = .go (s.newNum.2.modSeq cl (fun x => { x with pxq := x.pxq ++ [pxQueued opc w s q] })) := by
    rw [pxRes, pxChk_none ha hr]
    exact if_neg (by omega)
  have hgo := seqRuns_goes (q' := { q with pxq := q.pxq ++ [pxQueued opc w s q] }) h (he.trans (pxWord_eq ..)) hres
    ((State.seqOf_modSeq_self ..).trans (congrArg (fun x : Seq => { x with pxq := x.pxq ++ [pxQueued opc w s q] }) (seqRuns_seqOf h))) ⟨rfl, rfl, rfl, rfl⟩
  refine streamGoes_of_seqGoes hgo rfl rfl (fun t _ hq => ⟨?_, (congrArg Seq.s hq :)⟩)
  rw [hq]
  exact List.length_append ..

theorem Seq.addr_eq (q : Seq) (o : Opnd) : q.addr o = (q.val o).toNat % 2 ^ 32 := BitVec.toNat_setWidth ..

theorem ldwBytes_eq (w : Ctl) : ldwBytes w = if w.imm.toNat % 4 = 0 then 3072 else if w.imm.toNat % 4 = 3 then 4096 else 2048 := by
  have hmod : (w.imm.extractLsb' 0 2).toNat = w.imm.toNat % 4 := by rw [BitVec.extractLsb'_toNat, Nat.shiftRight_zero]
  have hlt : w.imm.toNat % 4 < 4 := Nat.mod_lt _ (by omega)
  rw [ldwBytes, hmod]
  generalize w.imm.toNat % 4 = n at hlt
  interval_cases n <;> rfl

theorem pxNb_eq (w : Ctl) : pxNb w = w.imm.toNat % 8 + 1 := by rw [pxNb, BitVec.extractLsb'_toNat, Nat.shiftRight_zero]

theorem gaTs_eq (w : Ctl) : gaTs w = 32 * (w.imm.toNat / 2 ^ 20) := by
  have := w.imm.isLt
  rw [gaTs, BitVec.extractLsb'_toNat, Nat.shiftRight_eq_div_pow, Nat.mod_eq_of_lt (by omega)]

theorem gaKb_eq (w : Ctl) : gaKb w = w.imm.toNat / 2 ^ 12 % 256 + 1 := by rw [gaKb, BitVec.extractLsb'_toNat, Nat.shiftRight_eq_div_pow]

theorem drnStr_eq (w : Ctl) : drnStr w = w.imm.toNat / 256 := by
  have := w.imm.isLt
  rw [drnStr, BitVec.extractLsb'_toNat, Nat.shiftRight_eq_div_pow, Nat.mod_eq_of_lt (by omega)]

theorem drnSize_eq (w : Ctl) : drnSize w = if w.imm.toNat % 2 = 1 then 2 else 4 := by
  rw [drnSize]
  simp only [BitVec.getLsbD, Nat.testBit_zero, decide_eq_true_eq]

theorem imageBytes_eq : imageBytes = 227072 := by decide

/-- The words of the Parts engine: those without addresses, and those whose addresses pass their checks. -/
theorem pxWords_complete (w : Ctl) (s : State) (cl : Nat) (q : Seq) (hroom : (q.pxq.filter (fun o => !o.started)).length < 32) :
    let queued (i : Instr) : Prop := seqRuns (bodyOf i) s cl q → StreamGoes i s cl q (fun t => (t.seqOf cl).pxq.length = q.pxq.length + 1 ∧ (t.seqOf cl).s = q.s)
    (∀ i ∈ ([.pxmm w, .pxdm w, .pxzero w, .pxbyp w] : List Instr), queued i) ∧
    (q.addr w.a % 16 = 0 → s.padOk q.launch (24 * cl) (pxSpace w) (q.addr w.a) (ldwBytes w) = true → queued (.pxldw w)) ∧
    (q.addr w.a % 2 = 0 → q.addr w.b % 32 = 0 → s.padOk q.launch (24 * cl) .cm (q.addr w.a) (64 * pxNb w) = true → queued (.pxga w)) ∧
    (q.addr w.a % 32 = 0 → s.padOk q.launch (24 * cl) .cm (q.addr w.a) ((32 * pxNb w - 1) * gaTs w + a8Row (gaKb w)) = true → queued (.pxlda w)) ∧
    (q.addr w.b % 16 = 0 → s.padOk q.launch (24 * cl) (pxSpace w) (q.addr w.b) (31 * drnStr w + 64 * drnSize w) = true → queued (.pxdrn w)) ∧
    (∀ i ∈ ([.pxsave w, .pxrest w] : List Instr), q.addr w.a % 256 = 0 → s.padOk q.launch (24 * cl) (pxSpace w) (q.addr w.a) imageBytes = true → queued i) := by
  have hone {α : Type} {P : α → Prop} {a : α} (h : P a) : ∀ x ∈ [a], P x := List.forall_mem_singleton.2 h
  have hnone {α : Type} {P : α → Prop} : ∀ x ∈ ([] : List α), P x := List.forall_mem_nil _
  simp only [List.forall_mem_cons]
  refine ⟨⟨fun h => ?_, fun h => ?_, fun h => ?_, fun h => ?_, by simp⟩, fun ha hok h => ?_, fun ha hb hok h => ?_, fun ha hok h => ?_, fun hb hok h => ?_,
    fun ha hok h => ?_, fun ha hok h => ?_, by simp⟩
  · exact pxWord_queues (i := .pxmm w) (opc := 0x2A3) rfl h hroom hnone hnone
  · exact pxWord_queues (i := .pxdm w) (opc := 0x2A4) rfl h hroom hnone hnone
  · exact pxWord_queues (i := .pxzero w) (opc := 0x2A5) rfl h hroom hnone hnone
  · exact pxWord_queues (i := .pxbyp w) (opc := 0x2A7) rfl h hroom hnone hnone
  · exact pxWord_queues (i := .pxldw w) (opc := 0x2A0) rfl h hroom (hone ha) (hone hok)
  · exact pxWord_queues (i := .pxga w) (opc := 0x2A1) rfl h hroom (List.forall_mem_cons.2 ⟨ha, hone hb⟩) (hone hok)
  · exact pxWord_queues (i := .pxlda w) (opc := 0x2A2) rfl h hroom (hone ha) (hone hok)
  · exact pxWord_queues (i := .pxdrn w) (opc := 0x2A6) rfl h hroom (hone hb) (hone hok)
  · exact pxWord_queues (i := .pxsave w) (opc := 0x2A8) rfl h hroom (hone ha) (hone hok)
  · exact pxWord_queues (i := .pxrest w) (opc := 0x2A9) rfl h hroom (hone ha) (hone hok)

/-- What a PXSTAT of an idle engine does. -/
def pxstatRes (w : Ctl) (s : State) (cl : Nat) (q : Seq) : SeqRes :=
  if !q.pxq.isEmpty then .wait
  else .go ((if w.imm.getLsbD 0 then s.modCl cl (fun c => { c with parts := { c.parts with dflags := 0 } }) else s).modSeq cl
    (fun x => x.setReg (vReg w.d) (pxStat (s.cl cl).parts (zNo w.a))))

theorem pxstat_completes (h : seqRuns (bodyOf (.pxstat w)) s cl q) (hq : q.pxq = []) :
    StreamGoes (.pxstat w) s cl q (fun t => ∀ m : Nat, m ≠ vReg w.d → (t.seqOf cl).reg m = q.reg m) := by
  have he : exec (.pxstat w) s = seqWord (.ctl 0x2AA w) s (pxstatRes w s) := rfl
  have hres : pxstatRes w s cl q = .go ((if w.imm.getLsbD 0 then s.modCl cl (fun c => { c with parts := { c.parts with dflags := 0 } }) else s).modSeq cl
      (fun x => x.setReg (vReg w.d) (pxStat (s.cl cl).parts (zNo w.a)))) := if_neg (by simp [hq])
  have hseq : (if w.imm.getLsbD 0 then s.modCl cl (fun c => { c with parts := { c.parts with dflags := 0 } }) else s).seqOf cl = q := by
    split
    · exact (congrArg Cluster.seq (State.cl_modCl_self ..)).trans (seqRuns_seqOf h)
    · exact seqRuns_seqOf h
  have hset := seqRuns_sets h he hres ((State.seqOf_modSeq_self ..).trans (by rw [hseq])) (by split <;> exact ⟨rfl, rfl, rfl, rfl⟩)
  obtain ⟨t, ht, hspc, hst, htr, hm, hg, hregs, -⟩ := streamGoes_of_seqSets hset
  exact ⟨t, ht, hspc, hst, htr, hm, hg, hregs⟩

theorem streamWordsComplete : streamWordsCompleteRules := by
  intro w s cl q
  have ha := Seq.addr_eq q w.a
  have hb := Seq.addr_eq q w.b
  dsimp only
  refine ⟨seqArithmetic_complete w s cl q, fun l hl h0 h48 h12 h1 h2 => ⟨fun h => ?sbr, fun h hind hlink => ?sjmp⟩, ?mem, fun hm hbox h => ?sqpost,
    fun p ps hb hm ht h => ?sqwait, fun hn h => ?swaitpx, fun h => ?sexit, fun hq h => pxstat_completes h hq, fun hroom => ?px⟩
  case sbr =>
    obtain ⟨t, ht, hq, hm, -, hg⟩ := sbr_goes h (seqTarget_good hl (not_or.2 ⟨not_lt.2 h0, not_or.2 ⟨not_le.2 h48, not_not.2 h12⟩⟩) h1 h2)
    exact ⟨t, ht, (congrArg Seq.s hq :), (congrArg Seq.spc hq :), hm, hg⟩
  case sjmp =>
    have htgt : q.sjmpTarget w = targetOf q.spc.toNat w.imm := by rw [Seq.sjmpTarget, hind]; rfl
    have hlinked : q.linked w = q := by rw [Seq.linked, hlink]; rfl
    obtain ⟨t, ht, hq, hm, -, hg⟩ := sjmp_goes h (by rw [htgt]; exact seqTarget_good hl (not_or.2 ⟨not_lt.2 h0, not_or.2 ⟨not_le.2 h48, not_not.2 h12⟩⟩) h1 h2)
    rw [hlinked, htgt] at hq
    exact ⟨t, ht, (congrArg Seq.s hq :), (congrArg Seq.spc hq :), hm, hg⟩
  case mem =>
    simp only [List.forall_mem_cons]
    exact ⟨fun x hx hgl hal hok h => seqAccess_completes (p := (.sld w, true)) (by simp) h hx hgl hal hok,
      fun x hx hgl hal hok h => seqAccess_completes (p := (.sst w, false)) (by simp) h hx hgl hal hok, by simp⟩
  case sqpost =>
    rw [← mailBox_eq] at hm hbox ⊢
    obtain ⟨hgo, hposts⟩ := sqpostSeq_posts h (by simp [hm, hbox])
    refine streamGoes_of_seqGoes hgo rfl rfl (fun t ht _ => ?_)
    rw [hposts t ht, if_pos rfl]
    exact List.length_append ..
  case sqwait =>
    rw [← mailBox_eq] at hm hb ⊢
    obtain ⟨⟨rs, hgo, hrs⟩, htakes⟩ := sqwaitSeq_takes h hb hm ht
    refine streamGoes_of_seqGoes hgo rfl rfl (fun t ht hq => ⟨htakes t ht, ?_⟩)
    rw [hq]
    exact (hrs _).trans (if_pos rfl)
  case swaitpx =>
    rw [← swaitpx_bound] at hn
    exact streamGoes_of_seqGoes (seqRuns_goes h (exec_swaitpx w s) (if_pos hn) (seqRuns_seqOf h) (.refl s)) rfl rfl (fun t _ hq => (congrArg Seq.s hq :))
  case sexit =>
    obtain ⟨t, ht, hq, -, hm, -⟩ := sexit_ends h
    exact ⟨t, ht, (congrArg Seq.st hq :), (congrArg Seq.trap hq :), (congrArg Seq.s hq :), hm⟩
  case px =>
    rw [← ha, ← hb, ← ldwBytes_eq, ← pxNb_eq, ← gaTs_eq, ← gaKb_eq, ← drnStr_eq, ← drnSize_eq, ← imageBytes_eq]
    exact pxWords_complete w s cl q hroom

end Sys2Proof.Machine
end

section
/-! SUPPORT of O56. Micro-ops that go on, and packets that are done with. -/

namespace Sys2Proof.Machine

variable {i : Instr} {s : State} {core : Nat} {k k' : Slot}

/-! Micro-ops (R239 to R245). -/

theorem State.slot_setSlot_self (s : State) (core : Nat) (k : Slot) : (s.setSlot core k).slot core = k := congrArg Core.slot (FMap.getD_put_self ..)

/-- The slot goes on to its next micro-op, with an effect. -/
def SlotGoes (i : Instr) (s : State) (core : Nat) (k : Slot) (eff : Slot → Prop) : Prop :=
  ∃ t, exec i s = .next t ∧ (t.slot core).upc = k.upc + 1 ∧ (t.slot core).st = .running ∧ t.mems = s.mems ∧ t.groups = s.groups ∧ eff (t.slot core)

theorem uop_of_slotRuns (h : slotRuns s core k) (f : Nat → Slot → State → State) : uop s f = .next (f core k s) := by
  obtain ⟨hi, rfl, hr, hb⟩ := h
  exact uop_of_running hi hr hb

/-- A micro-op that leaves the slot as k' goes on. -/
theorem slotGoes_of_nextUop {f : Nat → Slot → State → State} {eff : Slot → Prop} (h : slotRuns s core k) (hx : exec i s = uop s f)
    (hf : f core k s = s.nextUop core k') (hu : k'.upc = k.upc) (hlt : k.upc < 127) (hst : k'.st = k.st) (heff : eff { k' with upc := k.upc + 1 }) :
    SlotGoes i s core k eff := by
  have hnext : s.nextUop core k' = s.setSlot core { k' with upc := k.upc + 1 } := by rw [State.nextUop, hu]; exact if_neg (by omega)
  have hslot := s.slot_setSlot_self core { k' with upc := k.upc + 1 }
  obtain ⟨-, -, hr, -⟩ := id h
  refine ⟨s.setSlot core { k' with upc := k.upc + 1 }, by rw [hx, uop_of_slotRuns h, hf, hnext], by rw [hslot], by rw [hslot]; exact hst.trans hr, rfl, rfl, by rw [hslot]; exact heff⟩

theorem setRow_other (m : FMap Word) {r n j : Nat} (f : Nat → Word) (hn : n ≠ r) (hj : j < 64) : (setRow m r f).getD 0 (64 * n + j) = m.getD 0 (64 * n + j) := by
  refine List.foldlRecOn (List.range 64) _ (motive := fun x : FMap Word => x.getD 0 (64 * n + j) = m.getD 0 (64 * n + j)) rfl (fun x hx l hl => ?_)
  have := List.mem_range.1 hl
  rw [FMap.getD_put_ne _ _ _ (by omega), hx]

theorem setRow_read (m : FMap Word) {r j : Nat} (f : Nat → Word) (hj : j < 64) : (setRow m r f).getD 0 (64 * r + j) = f j := by
  have hfold (ls : List Nat) (m : FMap Word) : (ls.foldl (fun m i => m.put 0 (64 * r + i) (f i)) m).getD 0 (64 * r + j) = if j ∈ ls then f j else m.getD 0 (64 * r + j) := by
    induction ls generalizing m with
    | nil => simp
    | cons x xs ih =>
      rw [List.foldl_cons, ih, FMap.getD_put]
      by_cases hx : j = x
      · subst hx; simp
      · simp [hx]
  exact (hfold _ m).trans (if_pos (List.mem_range.2 hj))

/-- A transposition leaves the corner. -/
theorem trn_corner (k : Slot) : ((List.range 8).foldl (fun m r => setRow m r (fun i => k.row (i % 8) (8 * (i / 8) + r))) k.rows).getD 0 0 = k.rows.getD 0 0 := by
  have hrows : List.range 8 = 0 :: (List.range 7).map Nat.succ := rfl
  rw [hrows, List.foldl_cons]
  refine List.foldlRecOn ((List.range 7).map Nat.succ) _ (motive := fun x : FMap Word => x.getD 0 0 = k.rows.getD 0 0) (setRow_read k.rows (r := 0) (j := 0) _ (by omega))
    (fun x hx r hr => ?_)
  obtain ⟨n, -, rfl⟩ := List.mem_map.1 hr
  exact (setRow_other x (r := n + 1) (n := 0) (j := 0) _ (by omega) (by omega)).trans hx

/-- A generator whose base and steps are 0. -/
theorem agAddr_zero {n : Nat} (hp : k.params.getD 0 (k.agP.getD 0 n).toNat = 0) (hs : ∀ j < 4, k.agS.getD 0 (4 * n + j) = 0) : k.agAddr n = 0 := by
  have hsum : ((List.range 4).map (fun j => (k.agS.getD 0 (4 * n + j)).toInt * (k.cidx.getD 0 j : Nat))).sum = 0 :=
    List.sum_eq_zero (List.forall_mem_map.2 (fun j hj => by rw [hs j (List.mem_range.1 hj)]; simp))
  simp only [Slot.agAddr, hp, hsum]
  rfl

/-- The access of an SLD of a core scratchpad whose generator is 0. -/
def sldFlight (s : State) (core : Nat) (r : BitVec 3) (sz : BitVec 2) : SlotLoad :=
  { row := r.toNat, addr := 0, size := sldBytes sz, sp := .cr, pieces := readPieces core (picSpace .cr) s.pcc 0 (sldBytes sz), asked := false, ownMask := 0, own := 0 }

theorem sldChk_flight {r : BitVec 3} {sz : BitVec 2} (hb : s.blocks.get? (blockKey (k.bound.getD 0) k.block) ≠ none)
    (hok : s.padOk (k.bound.getD 0) core .cr 0 (256 / 2 ^ sz.toNat) = true) : s.sldChk core k (sldFlight s core r sz) = .ok 0 false := by
  have hblock : (s.blocks.get? (blockKey (k.bound.getD 0) k.block)).isSome = true := Option.isSome_iff_ne_none.2 hb
  have hpad : s.padOk (k.bound.getD 0) core (picSpace .cr) ((0 : Nat) : Int) (sldBytes sz) = true := hok
  rw [State.sldChk, if_neg (by simp [sldFlight]), if_neg (by simp [sldFlight])]
  exact if_pos (by simp only [hblock, Bool.true_and]; exact hpad)

theorem sld_goes {r : BitVec 3} {n sz : BitVec 2} (h : slotRuns s core k) (hlt : k.upc < 127) (hl : k.loads = []) (hp : k.params.getD 0 (k.agP.getD 0 n.toNat).toNat = 0)
    (hs : ∀ j < 4, k.agS.getD 0 (4 * n.toNat + j) = 0) (hb : s.blocks.get? (blockKey (k.bound.getD 0) k.block) ≠ none)
    (hok : s.padOk (k.bound.getD 0) core .cr 0 (256 / 2 ^ sz.toNat) = true) : SlotGoes (.piccoloSld r n .cr sz) s core k (fun x => x.loads.length = 1 ∧ x.rows = k.rows) := by
  have haddr : ((k.agAddr n.toNat).setWidth 32).toNat = 0 := by rw [agAddr_zero hp hs]; rfl
  have hchk := sldChk_flight (core := core) (r := r) hb hok
  rw [sldFlight] at hchk
  have hx : exec (.piccoloSld r n .cr sz) s = execPiccoloSld r n .cr sz s := rfl
  unfold execPiccoloSld at hx
  refine slotGoes_of_nextUop (k' := { k with loads := [sldFlight s core r sz] }) h hx ?_ rfl hlt rfl ⟨rfl, rfl⟩
  simp only [hl, Slot.rowBusy, List.any_nil, List.length_nil, Bool.false_or, reduceCtorEq, if_false, haddr, hchk]
  rfl

/-- The entry that a PUSH of a row makes. -/
def Slot.entry (k : Slot) (r : Nat) : FMap Word := (List.range 64).foldl (fun m i => m.put 0 i (k.row r i)) []

/-- PUSH of a queue with room, where nothing waits to be emptied. -/
theorem push_goes {q r : BitVec 3} (h : slotRuns s core k) (hlt : k.upc < 127) (hl : k.loads = []) (hf : k.flush = 0) (hq : (k.queues.getD [] q.toNat).length < 16) :
    SlotGoes (.push q r) s core k (fun x => x.rows = k.rows ∧ (x.queues.getD [] q.toNat).length = (k.queues.getD [] q.toNat).length + 1) := by
  obtain ⟨-, hk, -⟩ := id h
  have hsettle : s.settleQueues core = s := State.settleQueues_of_flush (by rw [hk, hf])
  have hx : exec (.push q r) s = execPush q r s := rfl
  unfold execPush at hx
  refine slotGoes_of_nextUop
    (k' := { k with queues := k.queues.put [] q.toNat (k.queues.getD [] q.toNat ++ [k.entry r.toNat]) }) h hx ?_ rfl hlt rfl
    ⟨rfl, by rw [FMap.getD_put_self]; exact List.length_append ..⟩
  simp only [hsettle, hk, hl, Slot.rowBusy, List.any_nil, Bool.false_or, decide_eq_true_eq]
  exact if_neg (by omega)

theorem next_branches {lo : BitVec 2} {target : BitVec 7} (h : slotRuns s core k) (hi : k.cidx.getD 0 lo.toNat + 1 < k.cext.getD 1 lo.toNat) :
    ∃ t, exec (.nextOp lo lo target) s = .next t ∧ (t.slot core).upc = target.toNat ∧ (t.slot core).cidx.getD 0 lo.toNat = k.cidx.getD 0 lo.toNat + 1 ∧ t.mems = s.mems := by
  have hodo : odometer k lo.toNat 4 lo.toNat k.cidx = (k.cidx.put 0 lo.toNat (k.cidx.getD 0 lo.toNat + 1), true) := if_pos hi
  have hslot := s.slot_setSlot_self core { k with cidx := k.cidx.put 0 lo.toNat (k.cidx.getD 0 lo.toNat + 1), upc := target.toNat }
  refine ⟨s.setSlot core { k with cidx := k.cidx.put 0 lo.toNat (k.cidx.getD 0 lo.toNat + 1), upc := target.toNat }, (?_ : execNextOp lo lo target s = _),
    by rw [hslot], ?_, rfl⟩
  · unfold execNextOp
    rw [uop_of_slotRuns h]
    simp only [lt_irrefl, if_false, hodo, if_true]
  · rw [hslot]
    simp only [FMap.getD_put_self]

/-- END: the slot stands idle, its handle is done. -/
theorem end_finishes {n : Nat} {o : AOp} {c : Ctx} (h : slotRuns s core k) (hn : k.handle = some n) (hp : pendingOp s n o c) :
    ∃ t, exec .endOp s = .next t ∧ (t.slot core).st = .idle ∧ ended t n o .ok := by
  obtain ⟨-, hk, -⟩ := id h
  refine ⟨s.stopSlot core .ok, uop_of_slotRuns h (fun core _ s => s.stopSlot core .ok), ?_⟩
  have hended := State.endAop_ended hp (.inl rfl : FutSt.ok = .ok ∨ _)
  simp only [State.stopSlot, hk, hn]
  exact ⟨congrArg Slot.st (State.slot_setSlot_self ..), hended⟩

/-- The extents that a CNTSET sets. -/
def cntExtents (e3 e2 e1 e0 : BitVec 14) : FMap Nat :=
  FMap.put (FMap.put (FMap.put (FMap.put [] 1 0 (e0.toNat + 1)) 1 1 (e1.toNat + 1)) 1 2 (e2.toNat + 1)) 1 3 (e3.toNat + 1)

/-- The strides after an AGSET of generator n. -/
def Slot.strides (k : Slot) (n : Nat) (s3 s2 s1 s0 : BitVec 13) : FMap (BitVec 13) :=
  (((k.agS.put 0 (4 * n) s0).put 0 (4 * n + 1) s1).put 0 (4 * n + 2) s2).put 0 (4 * n + 3) s3

theorem microOpsComplete {s : State} {core : Nat} {k : Slot} (h : slotRuns s core k) (hlt : k.upc < 127) (hl : k.loads = []) :
    (∀ e3 e2 e1 e0, SlotGoes (.cntset e3 e2 e1 e0) s core k (fun x => x.cidx = [] ∧ x.rows = k.rows ∧ x.queues = k.queues)) ∧
    (∀ (n p : BitVec 2) (s3 s2 s1 s0 : BitVec 13), SlotGoes (.agset n p s3 s2 s1 s0) s core k (fun x => x.agP.getD 0 n.toNat = p ∧ x.rows = k.rows)) ∧
    (∀ d r fmt : BitVec 3, SlotGoes (.dq d r fmt) s core k (fun x => x.queues = k.queues ∧
      ∀ m : Nat, m ≠ d.toNat → ∀ i < 64, x.rows.getD 0 (64 * m + i) = k.rows.getD 0 (64 * m + i))) ∧
    SlotGoes .trn s core k (fun x => x.queues = k.queues ∧ x.rows.getD 0 0 = k.rows.getD 0 0) := by
  refine ⟨fun e3 e2 e1 e0 => ?cntset,
    fun n p s3 s2 s1 s0 => ?agset, fun d r fmt => ?dq, ?trn⟩
  case cntset =>
    have hx : exec (.cntset e3 e2 e1 e0) s = execCntset e3 e2 e1 e0 s := rfl
    unfold execCntset at hx
    exact slotGoes_of_nextUop (k' := { k with cext := cntExtents e3 e2 e1 e0, cidx := [] }) h hx rfl rfl hlt rfl ⟨rfl, rfl, rfl⟩
  case agset =>
    have hx : exec (.agset n p s3 s2 s1 s0) s = execAgset n p s3 s2 s1 s0 s := rfl
    unfold execAgset at hx
    exact slotGoes_of_nextUop (k' := { k with agP := k.agP.put 0 n.toNat p, agS := k.strides n.toNat s3 s2 s1 s0 }) h hx rfl rfl hlt rfl ⟨by simp only [FMap.getD_put_self], rfl⟩
  case dq =>
    have hx : exec (.dq d r fmt) s = execDq d r fmt s := rfl
    unfold execDq at hx
    refine slotGoes_of_nextUop (k' := { k with rows := setRow k.rows d.toNat (dqWord k r.toNat fmt.toNat) }) h hx ?_ rfl hlt rfl
      ⟨rfl, fun m hm i hi => setRow_other k.rows _ hm hi⟩
    simp only [Slot.rowBusy, hl]
    rfl
  case trn =>
    have hx : exec .trn s = execTrn s := rfl
    unfold execTrn at hx
    refine slotGoes_of_nextUop
      (k' := { k with rows := (List.range 8).foldl (fun m r => setRow m r (fun i => k.row (i % 8) (8 * (i / 8) + r))) k.rows }) h hx ?_ rfl hlt rfl ⟨rfl, trn_corner k⟩
    simp only [hl]
    rfl

/-! Packets (R385 to R390). -/

section
variable {q : Nat}

/-- The packet is done with: its queue's hand is empty, and it has had an effect. -/
def PacketDone (i : Instr) (s : State) (q : Nat) (eff : State → Prop) : Prop :=
  ∃ t, exec i s = .next t ∧ (t.cq q).cur = none ∧ (t.cq q).st = (s.cq q).st ∧ (t.cq q).head = (s.cq q).head ∧ eff t

theorem cq_packetDone (s : State) (q : Nat) : (s.packetDone q).cq q = { s.cq q with cur := none } := State.cq_modCq_self s q (fun k => { k with cur := none })

/-- A packet whose effect leaves the hand of its queue empty. -/
theorem packetDone_of {t : State} {f : Nat → Nat → State → State} {c : CQueue} {eff : State → Prop} (hi : s.issuer = .queue q) (hx : exec i s = queuePacket s f)
    (hf : f q (s.cq q).ctx.toNat s = t) (hc : t.cq q = c) (hcur : c.cur = none) (hst : c.st = (s.cq q).st) (hh : c.head = (s.cq q).head) (heff : eff t) :
    PacketDone i s q eff := by
  subst hc
  exact ⟨t, by rw [hx, queuePacket_of_queue hi, hf], hcur, hst, hh, heff⟩

theorem barrier_done (hi : s.issuer = .queue q) : PacketDone .barrier s q (fun t => (t.cq q).wait = .barrier) := by
  have hx : exec .barrier s = execBarrier s := rfl
  unfold execBarrier at hx
  have hc : ((s.packetDone q).modCq q (fun k => { k with wait := .barrier })).cq q = { s.cq q with cur := none, wait := .barrier } := by
    rw [State.cq_modCq_self, cq_packetDone]
  exact packetDone_of hi hx rfl hc rfl rfl rfl (congrArg CQueue.wait hc)

theorem signal_done (hi : s.issuer = .queue q) (val addr : BitVec 64) : PacketDone (.signal val addr) s q (fun t => (t.cq q).sigs.length = (s.cq q).sigs.length + 1) := by
  have hx : exec (.signal val addr) s = execSignal val addr s := rfl
  unfold execSignal at hx
  have hc := State.cq_modCq_self (s.packetDone q) q (fun k => { k with sigs := k.sigs ++ [{ after := s.fresh, val := val, addr := addr, req := none }] })
  rw [cq_packetDone] at hc
  exact packetDone_of hi hx rfl hc rfl rfl rfl ((congrArg (fun c : CQueue => c.sigs.length) hc).trans (List.length_append ..))

theorem cancel_done (hi : s.issuer = .queue q) (byL byR : Bool) (l : BitVec 16) (base len : BitVec 64) :
    PacketDone (.cancel byL byR l base len) s q (fun t => t.mems = s.mems ∧ t.groups = s.groups) := by
  have hx : exec (.cancel byL byR l base len) s = execCancel byL byR l base len s := rfl
  unfold execCancel at hx
  exact packetDone_of hi hx rfl (cq_packetDone _ q) rfl rfl rfl ⟨rfl, rfl⟩

/-- The command queues, memory and the log store. -/
def State.besideAsks (s : State) : FMap CQueue × Mems × Store := (s.cqs, s.mems, s.store)

theorem State.askBlock_besideAsks (s : State) (bk : Nat) : (s.askBlock bk).besideAsks = s.besideAsks := by
  unfold State.askBlock
  split
  · rfl
  · split
    · rfl
    · dsimp only
      split <;> rfl

theorem preempt_done (hi : s.issuer = .queue q) (l : BitVec 16) (hold : Bool) : PacketDone (.preempt l hold) s q (fun t => t.mems = s.mems ∧ t.store = s.store) := by
  have hx : exec (.preempt l hold) s = execPreempt l hold s := rfl
  unfold execPreempt at hx
  obtain ⟨t, ht, hbeside⟩ : ∃ t, exec (.preempt l hold) s = .next t ∧ t.besideAsks = (s.packetDone q).besideAsks := by
    rw [hx, queuePacket_of_queue hi]
    refine ⟨_, rfl, ?_⟩
    dsimp only
    split
    · rfl
    · refine List.foldlRecOn _ _ (motive := fun t : State => t.besideAsks = (s.packetDone q).besideAsks) rfl (fun t ht b _ => ?_)
      refine (State.askBlock_besideAsks _ _).trans ?_
      cases hold <;> cases b.2.resident <;> exact ht
  obtain ⟨hcqs, hm, hst⟩ : t.cqs = (s.packetDone q).cqs ∧ t.mems = (s.packetDone q).mems ∧ t.store = (s.packetDone q).store := by
    simpa only [State.besideAsks, Prod.mk.injEq] using hbeside
  have hc : t.cq q = { s.cq q with cur := none } := (congrArg (fun m : FMap CQueue => m.getD CQueue.reset q) hcqs).trans (cq_packetDone s q)
  exact ⟨t, ht, by rw [hc], by rw [hc], by rw [hc], hm, hst⟩

theorem buffer_done {x : Ctx} (hi : s.issuer = .queue q) (h : BitVec 12) (hostw : Bool) (base len : BitVec 64) (hctx : s.ctx? (s.cq q).ctx.toNat = some x) :
    PacketDone (.buffer h false hostw base len) s q (fun t => ∃ y b, t.ctx? (s.cq q).ctx.toNat = some y ∧ y.bufs.get? h.toNat = some b ∧ b.base = base ∧ b.len = len) := by
  have hx : exec (.buffer h false hostw base len) s = execBuffer h false hostw base len s := rfl
  unfold execBuffer at hx
  refine packetDone_of hi hx rfl (cq_packetDone s q) rfl rfl rfl ⟨_, _, State.ctx?_modCtx (s := s.packetDone q) _ hctx, FMap.get?_set_self .., rfl, rfl⟩

/-! LAUNCH (R386, R445). -/

theorem natOfBytes_eq_zero {bs : List Byte} (h : natOfBytes bs = 0) : ∀ b ∈ bs, b = 0 := by
  induction bs with
  | nil => simp
  | cons b bs ih =>
    rw [natOfBytes_cons] at h
    exact List.forall_mem_cons.2 ⟨BitVec.eq_of_toNat_eq (by simpa using Nat.eq_zero_of_add_eq_zero_right h), ih (by omega)⟩

theorem natOfBytes_of_zero {bs : List Byte} (h : ∀ b ∈ bs, b = 0) : natOfBytes bs = 0 := by
  induction bs with
  | nil => rfl
  | cons b bs ih =>
    obtain ⟨hb, hbs⟩ := List.forall_mem_cons.1 h
    rw [natOfBytes_cons, ih hbs, hb]; rfl

/-- A field of zero bytes: every field inside it is zero. -/
theorem kField_zero_sub {d : List Byte} {o n o' n' : Nat} (h : kField d o n = 0) (h1 : o ≤ o') (h2 : o' + n' ≤ o + n) : kField d o' n' = 0 := by
  refine natOfBytes_of_zero (fun b hb => natOfBytes_eq_zero h b ?_)
  have hsub : (d.drop o').take n' = (((d.drop o).take n).drop (o' - o)).take n' := by
    rw [List.drop_take, List.drop_drop, List.take_take, Nat.add_sub_cancel' h1, Nat.min_eq_left (by omega)]
  rw [hsub] at hb
  exact List.mem_of_mem_drop (List.mem_of_mem_take hb)

theorem nextLaunch_of_free {live : List Nat} {last n : Nat} (h : last % 65535 + 1 ∉ live) : nextLaunch live last (n + 1) = last % 65535 + 1 := if_neg h

theorem FMap.not_mem_keys {α : Type} {m : FMap α} {n : Nat} (h : m.get? n = none) : n ∉ FMap.keys m := by
  intro hmem
  obtain ⟨p, hp, rfl⟩ := List.mem_map.1 hmem
  exact FMap.key_ne_of_get?_none h p hp rfl

/-- The packet and the descriptor of a launch of one group that takes no argument, no handle and no window. -/
structure PlainLaunch (p : LaunchPkt) (d : List Byte) : Prop where
  nbuf : p.nbuf = 0
  kdesc : p.kdesc.toNat % 32 = 0
  cmbase : p.cmbase = 0
  dsbase : p.dsbase = 0
  base : kField d 0 8 = 0
  entry : kField d 8 4 % 12 = 0
  trap : kField d 12 4 = 2 ^ 32 - 1
  seq : kField d 16 4 = 2 ^ 32 - 1
  nregs : kField d 20 1 = 8
  nargs : kField d 21 1 = 0
  groups : kField d 22 2 = 1
  cm : kField d 24 4 = 0
  ds : kField d 28 4 = 0

variable {p : LaunchPkt} {d : List Byte} {ctx : Nat}

theorem PlainLaunch.descOk (h : PlainLaunch p d) (n : Nat) : descOk d (launchOfDesc s q ctx n p d) = true := by
  have hbase : kField d 6 2 = 0 := kField_zero_sub h.base (by omega) (by omega)
  have hds : kField d 28 3 = 0 := kField_zero_sub h.ds (by omega) (by omega)
  have hcr : kField d 31 1 = 0 := kField_zero_sub h.ds (by omega) (by omega)
  simp [Machine.descOk, launchOfDesc, kGroups, kOffset, hbase, hds, hcr, h.entry, h.trap, h.seq, h.nregs, h.nargs, h.groups, h.cm, h.cmbase, h.dsbase, cmBytes]

theorem PlainLaunch.readLaunch (h : PlainLaunch p d) (n : Nat) (hd : s.cpRead ctx p.kdesc.toNat 32 = .ok d) (hb : s.cpRead ctx p.bufl.toNat 0 = .ok []) :
    s.readLaunch ctx p (launchOfDesc s q ctx n p) = .ok (launchOfDesc s q ctx n p d) s := by
  have hnargs : (launchOfDesc s q ctx n p d).nargs = 0 := h.nargs
  have hnbuf : p.nbuf.toNat = 0 := by rw [h.nbuf]; rfl
  have hbufs : bufEntries [] 0 = [] := rfl
  have hargs : s.readArgs ctx p.argp.toNat 0 = .ok [] s := rfl
  simp only [State.readLaunch, h.kdesc, hd, h.descOk, hnbuf, hb, hnargs, hbufs, hargs, List.all_nil, ne_eq, not_true_eq_false, Bool.not_true, Bool.false_eq_true, false_and, if_false]
  exact congrArg (fun m => LaunchRes.ok { launchOfDesc s q ctx n p d with nargs := m } s) hnargs.symm

/-- LAUNCH: the launch is among the live ones under the next id. -/
theorem PlainLaunch.launched (h : PlainLaunch p d) (hi : s.issuer = .queue q) (hdone : p.doneAt.toNat % 16 = 0) (hnblk : p.nblk ≠ 0) (hroom : s.launches.length < 65535)
    (hfree : s.launchOf (s.lastLaunch % 65535 + 1) = none) (hd : s.cpRead (s.cq q).ctx.toNat p.kdesc.toNat 32 = .ok d)
    (hb : s.cpRead (s.cq q).ctx.toNat p.bufl.toNat 0 = .ok []) :
    PacketDone (.launch p) s q (fun t => ∃ l, t.launchOf (s.lastLaunch % 65535 + 1) = some l ∧ l.failure = none ∧ l.nblk = p.nblk.toNat ∧ l.entry = kField d 8 4 ∧ l.ngroups = 1) := by
  have hid : nextLaunch (FMap.keys s.launches) s.lastLaunch 65536 = s.lastLaunch % 65535 + 1 := nextLaunch_of_free (FMap.not_mem_keys hfree)
  have hok : ¬ (p.doneAt.toNat % 16 ≠ 0 ∨ p.nblk = 0 ∨ p.nbuf.toNat > 4095) := by
    rintro (hne | hz | hgt)
    · exact hne hdone
    · exact hnblk hz
    · rw [h.nbuf] at hgt; exact absurd hgt (by decide)
  let l := launchOfDesc s q (s.cq q).ctx.toNat s.fresh p d
  have hgroups : l.ngroups = 1 := by simp [l, launchOfDesc, kGroups, h.groups]
  have hx : exec (.launch p) s = execLaunch p s := rfl
  unfold execLaunch at hx
  refine packetDone_of (t := ((s.packetDone q).newNum.2).addLaunch (s.lastLaunch % 65535 + 1) { l with deps := [] }) hi hx ?_ (cq_packetDone s q) rfl rfl rfl
    ⟨{ l with deps := [] }, FMap.get?_set_self .., rfl, rfl, rfl, hgroups⟩
  simp only [if_neg hok, if_neg (Nat.not_le.2 hroom), hid, h.readLaunch s.fresh hd hb]
  rfl

/-- Every micro-op and every packet completes. -/
theorem microOpsAndPacketsComplete : microOpsAndPacketsCompleteRules := by
  refine ⟨fun s core k h hlt hl hf => ?_, fun s q hi => ?_⟩
  · obtain ⟨hcnt, hag, hdq, htrn⟩ := microOpsComplete h hlt hl
    exact ⟨hcnt, hag, hdq, htrn, fun q r => push_goes h hlt hl hf, fun r n sz => sld_goes h hlt hl, fun lo target => next_branches h, fun n o c => end_finishes h⟩
  · refine ⟨barrier_done hi, signal_done hi, cancel_done hi, preempt_done hi, fun h hostw base len x => buffer_done hi h hostw base len,
      fun p d hdone hnblk hnbuf hroom hfree hkdesc hcmb hdsb hd hb => ?_⟩
    intro f hbase hentry htrap hseq hnregs hnargs hgroups hcm hds
    exact PlainLaunch.launched ⟨hnbuf, hkdesc, hcmb, hdsb, hbase, hentry, htrap, hseq, hnregs, hnargs, hgroups, hcm, hds⟩ hi hdone hnblk hroom hfree hd hb

end

/-- Settles O56: the words of the streams, those of the Parts engine, the micro-ops and the packets, each kind by its own lemma. -/
theorem agentWordsComplete : Obligations.AgentWordsComplete := ⟨streamWordsComplete, microOpsAndPacketsComplete⟩

end Sys2Proof.Machine
end

section
/-! SUPPORT of O9. What an integer result of n bits holds, read as an integer again: the exact value wrapped, or clamped; and the flags of lanes that raise one flag alone. -/

namespace Sys2Proof.Machine

variable {s : State} {gid : Nat} {second : Bool} {g : Group} {r : Run} {w : Alu}

theorem getLsbD_flagIf (c : Bool) (F : Flags) (k : Nat) : (flagIf c F).getLsbD k = (c && F.getLsbD k) := by
  cases c
  · exact BitVec.getLsbD_zero
  · rfl

/-- Lanes that raise flag F alone, where c holds of them. -/
theorem laneFlags_flagIf (m : Lanes) {f : Nat → LaneRes} {c : Nat → Bool} {F : Flags} (h : ∀ l, (f l).2 = flagIf (c l) F) :
    laneFlags m f = flagIf ((lanesOf m).any c) F := by
  apply BitVec.eq_of_getLsbD_eq
  intro k _
  rw [Bool.eq_iff_iff, getLsbD_laneFlags, getLsbD_flagIf, Bool.and_eq_true, List.any_eq_true]
  simp only [h, getLsbD_flagIf, Bool.and_eq_true, mem_lanesOf]
  constructor
  · rintro ⟨l, hl, hm, hc, hk⟩
    exact ⟨⟨l, ⟨hl, hm⟩, hc⟩, hk⟩
  · rintro ⟨⟨l, ⟨hl, hm⟩, hc⟩, hk⟩
    exact ⟨l, hl, hm, hc, hk⟩

/-- An integer of n bits is its bits but for a multiple of 2^n. -/
theorem intOf_wraps (n : Nat) (sgn : Bool) (b : BitVec 64) : ∃ k : Int, intOf n sgn b = b.toNat + k * 2 ^ n := by
  have hmod := Int.emod_add_ediv_mul (b.toNat : Int) (2 ^ n)
  rw [intOf]
  push_cast
  split
  · exact ⟨-((b.toNat : Int) / 2 ^ n) - 1, by linarith⟩
  · exact ⟨-((b.toNat : Int) / 2 ^ n), by linarith⟩

theorem intOf_range {n : Nat} (hn : 0 < n) (sgn : Bool) (b : BitVec 64) : intMin n sgn ≤ intOf n sgn b ∧ intOf n sgn b ≤ intMax n sgn := by
  obtain ⟨k, rfl⟩ : ∃ k, n = k + 1 := ⟨n - 1, by omega⟩
  have hlt : b.toNat % 2 ^ (k + 1) < 2 ^ (k + 1) := Nat.mod_lt _ (by positivity)
  have hpow : (2 : Nat) ^ (k + 1) = 2 * 2 ^ k := by ring
  have hcast : ((2 ^ k : Nat) : Int) = 2 ^ k := by push_cast; rfl
  have hcast' : (2 : Int) ^ (k + 1) = 2 * 2 ^ k := by ring
  simp only [intOf, intMin, intMax, Nat.add_sub_cancel, Bool.and_eq_true, decide_eq_true_eq, hcast']
  cases sgn with
  | false =>
    simp only [Bool.false_eq_true, false_and, if_false]
    omega
  | true =>
    simp only [true_and, if_true]
    split <;> omega

/-- Two integers of n bits that differ by a multiple of 2^n are equal. -/
theorem eq_of_wraps {n : Nat} (hn : 0 < n) {sgn : Bool} {x y k : Int} (hx : intMin n sgn ≤ x ∧ x ≤ intMax n sgn)
    (hy : intMin n sgn ≤ y ∧ y ≤ intMax n sgn) (h : x = y + k * 2 ^ n) : x = y := by
  have hspan : intMax n sgn - intMin n sgn = 2 ^ n - 1 := by
    obtain ⟨j, rfl⟩ : ∃ j, n = j + 1 := ⟨n - 1, by omega⟩
    cases sgn <;> simp only [intMin, intMax, Nat.add_sub_cancel, Bool.false_eq_true, if_false, if_true] <;> ring
  have hpos : (0 : Int) < 2 ^ n := by positivity
  have hk : k = 0 := by
    have h1 : k < 1 := by by_contra hc; nlinarith
    have h2 : -1 < k := by by_contra hc; nlinarith
    omega
  rw [h, hk, zero_mul, add_zero]

theorem intMin_le_intMax {n : Nat} (hn : 0 < n) (sgn : Bool) : intMin n sgn ≤ intMax n sgn :=
  (intOf_range hn sgn 0).1.trans (intOf_range hn sgn 0).2

theorem clampInt_range {n : Nat} (hn : 0 < n) (sgn : Bool) (v : Int) : intMin n sgn ≤ clampInt n sgn v ∧ clampInt n sgn v ≤ intMax n sgn :=
  ⟨le_max_left .., max_le (intMin_le_intMax hn sgn) (min_le_right ..)⟩

/-- Clamping changes exactly what lies out of range (R71). -/
theorem clampInt_ne {n : Nat} (hn : 0 < n) {sgn : Bool} {v : Int} : clampInt n sgn v ≠ v ↔ v < intMin n sgn ∨ intMax n sgn < v := by
  have h := intMin_le_intMax hn sgn
  simp only [clampInt]
  omega

/-- The bits of v, read as an integer of n bits. -/
theorem intOf_ofInt_wraps {n : Nat} (hn : n ≤ 64) (sgn : Bool) (v : Int) :
    ∃ k : Int, intOf n sgn (BitVec.ofNat 64 (v % 2 ^ n).toNat) = v + k * 2 ^ n := by
  have hpos : (0 : Int) < 2 ^ n := by positivity
  have h0 := Int.emod_nonneg v hpos.ne'
  have hlt : (v % 2 ^ n).toNat < 2 ^ 64 := by
    have h1 := Int.emod_lt_of_pos v hpos
    have h2 : (2 : Int) ^ n ≤ 2 ^ 64 := by exact_mod_cast Nat.pow_le_pow_right (by omega) hn
    omega
  obtain ⟨k, hk⟩ := intOf_wraps n sgn (BitVec.ofNat 64 (v % 2 ^ n).toNat)
  rw [BitVec.toNat_ofNat, Nat.mod_eq_of_lt hlt, Int.toNat_of_nonneg h0] at hk
  have hmod := Int.emod_add_ediv_mul v (2 ^ n)
  exact ⟨k - v / 2 ^ n, by rw [hk]; linarith⟩

/-- The exact result without SAT: wrapped (R71). -/
theorem intOf_intRes_wrap {n : Nat} (hn : n ≤ 64) (sgn : Bool) (v : Int) : ∃ k : Int, intOf n sgn (intRes n sgn false v).1 = v + k * 2 ^ n :=
  intOf_ofInt_wraps hn sgn v

/-- The exact result with SAT: clamped (R71). -/
theorem intOf_intRes_sat {n : Nat} (h0 : 0 < n) (hn : n ≤ 64) (sgn : Bool) (v : Int) : intOf n sgn (intRes n sgn true v).1 = clampInt n sgn v := by
  obtain ⟨k, hk⟩ := intOf_ofInt_wraps hn sgn (clampInt n sgn v)
  exact eq_of_wraps h0 (intOf_range h0 ..) (clampInt_range h0 ..) hk

theorem intRes_flags (n : Nat) (sgn sat : Bool) (v : Int) : (intRes n sgn sat v).2 = flagIf (sat && clampInt n sgn v != v) fSAT := by
  cases sat <;> rfl

/-- A 32-bit or 64-bit result as its lane reads it back (R43). -/
theorem intOf_readBack {t : Ty} (ht : t ∈ tyI4) (sgn : Bool) (x : BitVec 64) :
    intOf (tyBits t) sgn (if is64 t then x else (x.setWidth 32).setWidth 64) = intOf (tyBits t) sgn x := by
  rcases mem_tyI4 ht with ⟨hn, h64⟩ | ⟨-, h64⟩
  · have hx : ((x.setWidth 32).setWidth 64).toNat % 2 ^ 32 = x.toNat % 2 ^ 32 := by
      simp only [BitVec.toNat_setWidth]
      omega
    simp only [h64, Bool.false_eq_true, if_false, hn, intOf, hx]
  · rw [h64, if_pos rfl]

/-- An integer word whose exact result in lane l is x l: clamped with SAT, wrapped without it, and SAT set by a clamp that changes a value alone (R71, R140). -/
theorem intWord_exact {o : Nat} {row : AluRow} (hr : aluRow o = some row) (hd : row.d = kD) (htys : row.tys ⊆ tyI4)
    (h : Runs (.alu o w) s gid second g r) {f : Group → Nat → LaneRes} {x : Nat → Int}
    (hf : ∀ l, f g l = intRes (tyBits w.ty) (isS w.ty) w.sat (x l)) :
    let n := tyBits w.ty
    let sgn := isS w.ty
    ∃ g', laneWord o w s f = .next (s.afterWord gid second g') ∧
      (∀ l < 64, r.mask.getLsbD l = true → let y := intOf n sgn (readLane g'.regs w.ty w.d l)
        (w.sat = true → y = max (intMin n sgn) (min (x l) (intMax n sgn))) ∧ (w.sat = false → ∃ k : Int, y = x l + k * 2 ^ n)) ∧
      (g'.fpstat = g.fpstat ||| fSAT ∨ g'.fpstat = g.fpstat) ∧
      (g'.fpstat.getLsbD 5 = true ↔ g.fpstat.getLsbD 5 = true ∨
        (w.sat = true ∧ ∃ l < 64, r.mask.getLsbD l = true ∧ (x l < intMin n sgn ∨ intMax n sgn < x l))) := by
  intro n sgn
  have hty : w.ty ∈ tyI4 := htys (alu_good hr h.good).1
  have hn : 0 < n ∧ n ≤ 64 := by rcases mem_tyI4 hty with ⟨hn, -⟩ | ⟨hn, -⟩ <;> simp only [n, hn] <;> decide
  obtain ⟨g', hs, hfl, hread⟩ := laneWord_runs hr hd h f
  have hlane := laneFlags_flagIf r.mask (f := f g) (F := fSAT) fun l => by rw [hf l]; exact intRes_flags ..
  refine ⟨g', hs, fun l hl hm => ?_, ?_, ?_⟩
  · have hy : intOf n sgn (readLane g'.regs w.ty w.d l) = intOf n sgn (intRes n sgn w.sat (x l)).1 := by
      rw [hread l hl hm, intOf_readBack hty, hf l]
    refine ⟨fun hsat => ?_, fun hsat => ?_⟩
    · rw [hy, hsat]
      exact intOf_intRes_sat hn.1 hn.2 ..
    · rw [hy, hsat]
      exact intOf_intRes_wrap hn.2 ..
  · rw [hfl, hlane]
    cases (lanesOf r.mask).any fun l => w.sat && clampInt (tyBits w.ty) (isS w.ty) (x l) != x l
    · exact .inr BitVec.or_zero
    · exact .inl rfl
  · rw [hfl, hlane, BitVec.getLsbD_or, getLsbD_flagIf, show fSAT.getLsbD 5 = true from rfl, Bool.and_true, Bool.or_eq_true, List.any_eq_true]
    simp only [Bool.and_eq_true, bne_iff_ne, mem_lanesOf]
    refine or_congr_right ⟨?_, ?_⟩
    · rintro ⟨l, ⟨hl, hm⟩, hsat, hx⟩
      exact ⟨hsat, l, hl, hm, (clampInt_ne hn.1).1 hx⟩
    · rintro ⟨hsat, l, hl, hm, hx⟩
      exact ⟨l, ⟨hl, hm⟩, hsat, (clampInt_ne hn.1).2 hx⟩

/-- SAT is 0 in the words of a row that does not accept it, IMULHI's among them. -/
theorem sat_eq_false {o : Nat} {row : AluRow} (hr : aluRow o = some row) (hs : row.sat = false) (h : Runs (.alu o w) s gid second g r) : w.sat = false := by
  obtain ⟨-, -, hsat, -⟩ := alu_good hr h.good
  exact hsat hs

/-- IABS: the absolute value, as R140 gives it. -/
theorem natAbs_eq_ite (a : Int) : (a.natAbs : Int) = if a < 0 then -a else a := by
  split <;> omega

/-- Settles O9: each word of Table 5-1 that has an exact result, by its row and that result. -/
theorem integerArithmetic : Obligations.IntegerArithmetic := by
  simp only [Obligations.IntegerArithmetic, List.forall_mem_cons]
  refine ⟨fun w s gid second g r h => intWord_exact rfl rfl (List.Subset.refl _) h fun l => rfl,
    fun w s gid second g r h => intWord_exact rfl rfl (List.Subset.refl _) h fun l => rfl,
    fun w s gid second g r h => intWord_exact rfl rfl (List.Subset.refl _) h fun l => rfl,
    fun w s gid second g r h => intWord_exact rfl rfl (List.Subset.refl _) h fun l => by rw [sat_eq_false (o := 0x005) rfl rfl h]; rfl,
    fun w s gid second g r h => intWord_exact rfl rfl (List.Subset.refl _) h fun l => rfl,
    fun w s gid second g r h => intWord_exact rfl rfl (by decide) h fun l => rfl,
    fun w s gid second g r h => intWord_exact rfl rfl (by decide) h fun l => ?_,
    fun w s gid second g r h => intWord_exact rfl rfl (List.Subset.refl _) h fun l => ?_,
    fun w s gid second g r h => intWord_exact rfl rfl (List.Subset.refl _) h fun l => ?_, by simp only [List.not_mem_nil, false_imp_iff, implies_true]⟩
  · exact congrArg (intRes _ _ _) (natAbs_eq_ite _)
  · exact congrArg (intRes _ _ _) (min_def ..)
  · exact congrArg (intRes _ _ _) (max_def ..)

end Sys2Proof.Machine
end

section
/-! SUPPORT of O14 and O15. The rounding of a number: the encoding of a rounded number and what it decodes to, how far rounding moves, and when it overflows (R73, R86). -/

namespace Sys2Proof.Machine

/-- What FP32, FP16 and BF16 share (Tables 3-2 and 3-3): the top exponent code is that of infinity and NaN, and the greatest finite number fills the binade below. -/
structure Fmt.Ieee (F : Fmt) : Prop where
  inf : F.hasInf = true
  sig : F.maxSig + 1 = 2 ^ (F.mbits + 1)
  exps : F.maxExp = F.qmin + 2 ^ F.ebits - 3
  mpos : 0 < F.mbits
  epos : 1 < F.ebits

theorem fmtF32_ieee : fmtF32.Ieee := ⟨rfl, by decide, by decide, by decide, by decide⟩
theorem fmtF16_ieee : fmtF16.Ieee := ⟨rfl, by decide, by decide, by decide, by decide⟩
theorem fmtBf16_ieee : fmtBf16.Ieee := ⟨rfl, by decide, by decide, by decide, by decide⟩

/-- A significand k and the exponent q of its unit that an encoding can hold, or k just beyond the binade of q. -/
structure Fmt.Fits (F : Fmt) (k : Nat) (q : Int) : Prop where
  low : F.qmin ≤ q
  high : q ≤ F.maxExp
  sig : k ≤ 2 ^ (F.mbits + 1)
  normal : 2 ^ F.mbits ≤ k ∨ q = F.qmin
  carry : k = 2 ^ (F.mbits + 1) → q < F.maxExp

variable {F : Fmt} {md : Rnd} {sat neg : Bool} {k m : Nat} {e q : Int}

/-- The value of an encoding, from its three fields. -/
theorem fDec_fields (F : Fmt) (neg : Bool) {ex m : Nat} (hex : ex < 2 ^ F.ebits) (hm : m < 2 ^ F.mbits) :
    fDec F (signBit F neg + ex * 2 ^ F.mbits + m) =
      if ex = 0 then .fin neg m F.qmin
      else if F.hasInf && ex == 2 ^ F.ebits - 1 then
        if m = 0 then .inf neg else .nan (decide (m < 2 ^ (F.mbits - 1)))
      else if F.hasNan && !F.hasInf && ex == 2 ^ F.ebits - 1 && m == 2 ^ F.mbits - 1 then .nan false
      else .fin neg (2 ^ F.mbits + m) (F.qmin + (ex - 1)) := by
  let sg : Nat := if neg then 1 else 0
  have hsg : signBit F neg = 2 ^ F.mbits * (2 ^ F.ebits * sg) := by
    cases neg <;> simp [sg, signBit, pow_add]
  have hb : signBit F neg + ex * 2 ^ F.mbits + m = 2 ^ F.mbits * (2 ^ F.ebits * sg + ex) + m := by rw [hsg]; ring
  have hmant : (2 ^ F.mbits * (2 ^ F.ebits * sg + ex) + m) % 2 ^ F.mbits = m := by rw [Nat.mul_add_mod, Nat.mod_eq_of_lt hm]
  have hrest : (2 ^ F.mbits * (2 ^ F.ebits * sg + ex) + m) / 2 ^ F.mbits = 2 ^ F.ebits * sg + ex := by
    rw [Nat.mul_add_div (by positivity), Nat.div_eq_of_lt hm, add_zero]
  have hexp : (2 ^ F.ebits * sg + ex) % 2 ^ F.ebits = ex := by rw [Nat.mul_add_mod, Nat.mod_eq_of_lt hex]
  have hsign : (2 ^ F.mbits * (2 ^ F.ebits * sg + ex) + m) / 2 ^ (F.mbits + F.ebits) % 2 = sg := by
    rw [pow_add, ← Nat.div_div_eq_div_mul, hrest, Nat.mul_add_div (by positivity), Nat.div_eq_of_lt hex, add_zero]
    cases neg <;> rfl
  have hneg : (sg == 1) = neg := by cases neg <;> rfl
  rw [hb, fDec]
  simp only [hmant, hrest, hexp, hsign, hneg]

/-- Where the mantissa and exponent fields of a packed number lie: a subnormal keeps its significand, a normal one loses its leading bit, one beyond its binade is
the first of the next. -/
theorem fDec_fPack (hF : F.Ieee) (neg : Bool) (h : F.Fits k q) :
    fDec F (fPack F neg k q) = if k = 2 ^ (F.mbits + 1) then .fin neg (2 ^ F.mbits) (q + 1) else .fin neg k q := by
  obtain ⟨hlow, hhigh, hsig, hnormal, hcarry⟩ := h
  obtain ⟨j, rfl⟩ : ∃ j : Nat, q = F.qmin + j := ⟨(q - F.qmin).toNat, by omega⟩
  have hexps := hF.exps
  have hp : (2 : Nat) ^ (F.mbits + 1) = 2 * 2 ^ F.mbits := by ring
  have hmpos : 0 < 2 ^ F.mbits := by positivity
  have hcast : ((2 ^ F.ebits : Nat) : Int) = 2 ^ F.ebits := by push_cast; rfl
  have hj : (F.qmin + j - F.qmin).toNat = j := by omega
  have key : ∀ ex mm, ex < 2 ^ F.ebits - 1 → mm < 2 ^ F.mbits → fPack F neg k (F.qmin + j) = signBit F neg + ex * 2 ^ F.mbits + mm →
      fDec F (fPack F neg k (F.qmin + j)) = if ex = 0 then .fin neg mm F.qmin else .fin neg (2 ^ F.mbits + mm) (F.qmin + (ex - 1)) := by
    intro ex mm hex hmm heq
    have htop : (ex == 2 ^ F.ebits - 1) = false := beq_eq_false_iff_ne.mpr hex.ne
    rw [heq, fDec_fields F neg (by omega) hmm]
    simp only [htop, Bool.and_false, Bool.false_and, Bool.false_eq_true, if_false]
  have hpack : 0 < k → fPack F neg k (F.qmin + j) = signBit F neg + (j * 2 ^ F.mbits + k) := fun h0 => by rw [fPack, if_neg h0.ne', hj]
  rcases lt_or_ge k (2 ^ F.mbits) with hlt | hge
  · obtain rfl : j = 0 := by omega
    have henc : fPack F neg k (F.qmin + (0 : Nat)) = signBit F neg + 0 * 2 ^ F.mbits + k := by
      rcases Nat.eq_zero_or_pos k with rfl | h0
      · simp [fPack]
      · rw [hpack h0]; ring
    rw [key 0 k (by omega) hlt henc, if_pos rfl, if_neg (by omega)]
    simp
  · rcases hsig.lt_or_eq with hlt | rfl
    · rw [key (j + 1) (k - 2 ^ F.mbits) (by omega) (by omega) (by rw [hpack (by omega)]; zify [hge]; ring), if_neg (by omega), if_neg (by omega)]
      congr 1
      · omega
      · push_cast; ring
    · have hlt := hcarry rfl
      rw [key (j + 2) 0 (by omega) hmpos (by rw [hpack (by omega), hp]; ring), if_neg (by omega), if_pos rfl]
      congr 1
      push_cast; ring

theorem fPack_lt (hF : F.Ieee) (neg : Bool) (h : F.Fits k q) : fPack F neg k q < 2 ^ F.width := by
  obtain ⟨hlow, hhigh, hsig, hnormal, hcarry⟩ := h
  have hexps := hF.exps
  have hcast : ((2 ^ F.ebits : Nat) : Int) = 2 ^ F.ebits := by push_cast; rfl
  have hp : (2 : Nat) ^ (F.mbits + 1) = 2 * 2 ^ F.mbits := by ring
  have hw : (2 : Nat) ^ F.width = 2 ^ (F.mbits + F.ebits) + 2 ^ F.ebits * 2 ^ F.mbits := by rw [Fmt.width]; ring
  have hmpos : 0 < 2 ^ F.mbits := by positivity
  have hsign : signBit F neg ≤ 2 ^ (F.mbits + F.ebits) := by cases neg <;> simp [signBit]
  have hfields : (q - F.qmin).toNat * 2 ^ F.mbits + k < 2 ^ F.ebits * 2 ^ F.mbits := by
    have hj : (q - F.qmin).toNat + 3 ≤ 2 ^ F.ebits := by omega
    have hmul := Nat.mul_le_mul_right (2 ^ F.mbits) hj
    rw [add_mul] at hmul
    omega
  rw [fPack, hw]
  split <;> omega

/-- The greatest finite number fits. -/
theorem fits_max (hF : F.Ieee) : F.Fits F.maxSig F.maxExp := by
  have hsig := hF.sig
  have hexps := hF.exps
  have hp : (2 : Nat) ^ (F.mbits + 1) = 2 * 2 ^ F.mbits := by ring
  have hmpos : 0 < 2 ^ F.mbits := by positivity
  have he : (2 : Int) ^ 2 ≤ 2 ^ F.ebits := by exact_mod_cast Nat.pow_le_pow_right (by decide) hF.epos
  exact ⟨by omega, le_refl _, by omega, .inl (by omega), fun hc => by omega⟩

theorem fDec_fMax (hF : F.Ieee) (neg : Bool) : fDec F (fMax F neg) = .fin neg F.maxSig F.maxExp := by
  rw [fMax, fDec_fPack hF neg (fits_max hF), if_neg]
  have := hF.sig
  omega

theorem fInf_eq_fields (F : Fmt) (neg : Bool) : fInf F neg = signBit F neg + (2 ^ F.ebits - 1) * 2 ^ F.mbits + 0 := rfl

theorem fDec_fInf (hF : F.Ieee) (neg : Bool) : fDec F (fInf F neg) = .inf neg := by
  have he : 2 ^ 2 ≤ 2 ^ F.ebits := Nat.pow_le_pow_right (by decide) hF.epos
  rw [fInf_eq_fields, fDec_fields F neg (by omega) (by positivity), if_neg (by omega), hF.inf]
  simp

/-- How the integer k, in units u, lies to the number x that a mode rounds to it (R86). -/
structure Nearby (md : Rnd) (neg : Bool) (x k u : Nat) : Prop where
  nearest : md = .rne → 2 * x ≤ 2 * (k * u) + u ∧ 2 * (k * u) ≤ 2 * x + u ∧ (2 * x = 2 * (k * u) + u ∨ 2 * (k * u) = 2 * x + u → k % 2 = 0)
  away : (md = .rup ∧ neg = false) ∨ (md = .rdn ∧ neg = true) → x ≤ k * u ∧ k * u < x + u
  toward : md ≠ .rne → ¬ ((md = .rup ∧ neg = false) ∨ (md = .rdn ∧ neg = true)) → k * u ≤ x ∧ x < k * u + u

theorem Nearby.refl (md : Rnd) (neg : Bool) (k : Nat) : Nearby md neg k k 1 :=
  ⟨fun _ => by omega, fun _ => by omega, fun _ _ => by omega⟩

/-- A number that rounds up to the next binade is as near in the units of that binade. -/
theorem Nearby.carry {x p u : Nat} (hp : 0 < p) (h : Nearby md neg x (2 ^ (p + 1)) u) : Nearby md neg x (2 ^ p) (2 * u) := by
  obtain ⟨hnearest, haway, htoward⟩ := h
  have heq : 2 ^ (p + 1) * u = 2 ^ p * (2 * u) := by ring
  have heven : 2 ^ p % 2 = 0 := by
    obtain ⟨j, rfl⟩ : ∃ j, p = j + 1 := ⟨p - 1, by omega⟩
    rw [pow_succ, Nat.mul_mod_left]
  rw [heq] at hnearest haway htoward
  refine ⟨fun hm => ?_, fun ha => ?_, fun hm ha => ?_⟩
  · have := hnearest hm
    exact ⟨by omega, by omega, fun _ => heven⟩
  · have := haway ha
    omega
  · have := htoward hm ha
    omega

/-- The mode rounds away from zero. -/
def Away (md : Rnd) (neg : Bool) : Prop := (md = .rup ∧ neg = false) ∨ (md = .rdn ∧ neg = true)

/-- m is k units of 2^sh and a rest r, and rounds to k or, where the mode says so, to k + 1: never with r = 0 (R86). -/
theorem roundShift_spec (md : Rnd) (neg : Bool) (m sh : Nat) :
    ∃ (k r : Nat) (up : Bool), k = m / 2 ^ sh ∧ m = k * 2 ^ sh + r ∧ r < 2 ^ sh ∧ roundShift md neg m sh = (if up then k + 1 else k, r == 0) ∧
      (up = true → 0 < r) ∧ (md = .rne → (up = true ↔ 2 * r > 2 ^ sh ∨ 2 * r = 2 ^ sh ∧ k % 2 = 1)) ∧ (Away md neg → (up = true ↔ 0 < r)) ∧
      (md ≠ .rne → ¬ Away md neg → up = false) := by
  refine ⟨_, _, _, rfl, (Nat.div_add_mod' m _).symm, Nat.mod_lt _ (by positivity), rfl, ?_, ?_, ?_, ?_⟩
  · have := Nat.two_pow_pos sh
    cases md <;> simp only [Bool.or_eq_true, Bool.and_eq_true, decide_eq_true_eq, bne_iff_ne, Bool.false_eq_true, false_imp_iff] <;> omega
  · rintro rfl
    simp only [Bool.or_eq_true, Bool.and_eq_true, decide_eq_true_eq, beq_iff_eq]
  · rintro (⟨rfl, rfl⟩ | ⟨rfl, rfl⟩) <;> simp only [Bool.not_false, Bool.true_and, bne_iff_ne, Nat.pos_iff_ne_zero]
  · intro hne hna
    cases md with
    | rne => exact absurd rfl hne
    | rtz => rfl
    | rdn => cases neg <;> simp_all [Away]
    | rup => cases neg <;> simp_all [Away]

theorem roundShift_nearby (md : Rnd) (neg : Bool) (m sh : Nat) : Nearby md neg m (roundShift md neg m sh).1 (2 ^ sh) := by
  obtain ⟨k, r, up, -, hm, hr, heq, hpos, hrne, haway, htoward⟩ := roundShift_spec md neg m sh
  have hnext : (k + 1) * 2 ^ sh = k * 2 ^ sh + 2 ^ sh := by ring
  rw [heq]
  cases up with
  | false =>
    simp only [Bool.false_eq_true, if_false, false_iff] at *
    exact ⟨fun hmd => by have := hrne hmd; omega, fun ha => by have := haway ha; omega, fun _ _ => by omega⟩
  | true =>
    simp only [if_true, true_iff, forall_const] at *
    exact ⟨fun hmd => by have := hrne hmd; omega, fun _ => by omega, fun hmd ha => absurd (htoward hmd ha) Bool.noConfusion⟩

theorem roundShift_exact (md : Rnd) (neg : Bool) (m sh : Nat) :
    (roundShift md neg m sh).2 = true ↔ m = (roundShift md neg m sh).1 * 2 ^ sh := by
  obtain ⟨k, r, up, -, hm, hr, heq, hpos, -⟩ := roundShift_spec md neg m sh
  have hnext : (k + 1) * 2 ^ sh = k * 2 ^ sh + 2 ^ sh := by ring
  rw [heq, beq_iff_eq]
  cases up with
  | false => simp only [Bool.false_eq_true, if_false]; omega
  | true => have := hpos rfl; simp only [if_true]; omega

/-- A rounded number in units of the mode's q, seen in units of the lesser exponent. -/
theorem roundTo_nearby (md : Rnd) (neg : Bool) (m : Nat) (e q : Int) :
    Nearby md neg (m * 2 ^ (e - min e q).toNat) (roundTo md neg m e q).1 (2 ^ (q - min e q).toNat) := by
  rw [roundTo]
  split
  next h => rw [min_eq_right h, sub_self]; exact Nearby.refl ..
  next h => rw [min_eq_left (by omega), sub_self]; simpa using roundShift_nearby md neg m (q - e).toNat

theorem roundTo_exact (md : Rnd) (neg : Bool) (m : Nat) (e q : Int) :
    (roundTo md neg m e q).2 = true ↔ m * 2 ^ (e - min e q).toNat = (roundTo md neg m e q).1 * 2 ^ (q - min e q).toNat := by
  rw [roundTo]
  split
  next h => rw [min_eq_right h, sub_self]; simp
  next h => rw [min_eq_left (by omega), sub_self]; simpa using roundShift_exact md neg m (q - e).toNat

/-- A number whose leading bit lies p binades above the unit q, or below: the rounded significand's bounds. -/
theorem roundTo_le (md : Rnd) (neg : Bool) {m p : Nat} {e q : Int} (h : (Nat.log2 m : Int) + e - q ≤ p) :
    (roundTo md neg m e q).1 ≤ 2 ^ (p + 1) ∧ (q ≤ e → (roundTo md neg m e q).1 < 2 ^ (p + 1)) := by
  have hm : m < 2 ^ (Nat.log2 m + 1) := Nat.lt_log2_self
  rw [roundTo]
  split
  next hq =>
    have hlt : m * 2 ^ (e - q).toNat < 2 ^ (p + 1) := by
      calc m * 2 ^ (e - q).toNat < 2 ^ (Nat.log2 m + 1) * 2 ^ (e - q).toNat := Nat.mul_lt_mul_of_pos_right hm (by positivity)
        _ = 2 ^ (Nat.log2 m + 1 + (e - q).toNat) := (pow_add ..).symm
        _ ≤ 2 ^ (p + 1) := Nat.pow_le_pow_right (by decide) (by omega)
    exact ⟨hlt.le, fun _ => hlt⟩
  next hq =>
    obtain ⟨k, r, up, hk, hm', hr, heq, -⟩ := roundShift_spec md neg m (q - e).toNat
    have hlt : k < 2 ^ (p + 1) := by
      rw [hk, Nat.div_lt_iff_lt_mul (by positivity), ← pow_add]
      exact hm.trans_le (Nat.pow_le_pow_right (by decide) (by omega))
    rw [heq]
    refine ⟨?_, fun h => absurd h hq⟩
    cases up <;> simp only [Bool.false_eq_true, if_false, if_true] <;> omega

theorem le_roundTo (md : Rnd) (neg : Bool) {m p : Nat} {e q : Int} (hm : 0 < m) (h : (Nat.log2 m : Int) + e - q = p) :
    2 ^ p ≤ (roundTo md neg m e q).1 := by
  have hm : 2 ^ Nat.log2 m ≤ m := Nat.log2_self_le hm.ne'
  rw [roundTo]
  split
  next hq =>
    calc 2 ^ p = 2 ^ (Nat.log2 m + (e - q).toNat) := by congr 1; omega
      _ = 2 ^ Nat.log2 m * 2 ^ (e - q).toNat := pow_add ..
      _ ≤ m * 2 ^ (e - q).toNat := Nat.mul_le_mul_right _ hm
  next hq =>
    obtain ⟨k, r, up, hk, hm', hr, heq, -⟩ := roundShift_spec md neg m (q - e).toNat
    have hle : 2 ^ p ≤ k := by
      rw [hk, Nat.le_div_iff_mul_le (by positivity), ← pow_add]
      exact (Nat.pow_le_pow_right (by decide) (by omega)).trans hm
    rw [heq]
    cases up <;> simp only [Bool.false_eq_true, if_false, if_true] <;> omega

/-- The exponent of the unit to which a format rounds m × 2^e (R86): that of its binade, or of the subnormals. -/
def Fmt.unit (F : Fmt) (m : Nat) (e : Int) : Int := max ((Nat.log2 m : Int) + e) F.emin - F.mbits

/-- The flags of a rounding whose number moved or did not (R86). -/
def movedFlags (F : Fmt) (m : Nat) (e : Int) (exact : Bool) : Flags :=
  flagIf (!exact) fNX ||| flagIf (decide ((Nat.log2 m : Int) + e < F.emin) && !exact) fUF

/-- The significand k in units 2^q is beyond the greatest finite number. -/
def Fmt.Overflows (F : Fmt) (k : Nat) (q : Int) : Prop := F.maxExp ≤ q ∧ F.maxSig < k * 2 ^ (q - F.maxExp).toNat

/-- round_fp of a number that is not zero (R86): the encoding of the rounded significand, or an overflow. -/
theorem roundFp_pos (F : Fmt) (md : Rnd) (sat neg : Bool) {m : Nat} (e : Int) (hm : 0 < m) :
    let q := F.unit m e
    let k := (roundTo md neg m e q).1
    let fl := movedFlags F m e (roundTo md neg m e q).2
    (¬ F.Overflows k q ∧ roundFp F md sat neg m e = (fPack F neg k q, fl)) ∨
    (F.Overflows k q ∧ roundFp F md sat neg m e =
      (if F.hasInf && !sat && (md == .rne || (md == .rup && !neg) || (md == .rdn && neg)) then fInf F neg else fMax F neg, fl ||| fOF ||| fNX)) := by
  intro q k fl
  have hq : max ((Nat.log2 m : Int) + e) F.emin - F.mbits = q := rfl
  by_cases hov : F.Overflows k q
  · refine .inr ⟨hov, ?_⟩
    simp only [roundFp, if_neg hm.ne', hq, ge_iff_le, if_pos hov.1, gt_iff_lt]
    exact if_pos (decide_eq_true hov.2)
  · refine .inl ⟨hov, ?_⟩
    simp only [roundFp, if_neg hm.ne', hq, ge_iff_le, gt_iff_lt]
    refine if_neg ?_
    split
    next hle => rw [decide_eq_true_eq]; exact fun hlt => hov ⟨hle, hlt⟩
    next => exact Bool.false_ne_true

/-- What rounding a number that is not zero gives in a format of the IEEE kind: a significand that fits its unit, or an overflow to infinity or the greatest number (R86). -/
theorem roundFp_cases (hF : F.Ieee) (md : Rnd) (sat neg : Bool) {m : Nat} (e : Int) (hm : 0 < m) :
    let q := F.unit m e
    let k := (roundTo md neg m e q).1
    let fl := movedFlags F m e (roundTo md neg m e q).2
    (F.Fits k q ∧ (k = 2 ^ (F.mbits + 1) → e < q) ∧ roundFp F md sat neg m e = (fPack F neg k q, fl)) ∨
    (F.Overflows k q ∧ ∃ inf : Bool, (inf = true ↔ sat = false ∧ (md = .rne ∨ Away md neg)) ∧
      roundFp F md sat neg m e = (if inf then fInf F neg else fMax F neg, fl ||| fOF ||| fNX)) := by
  intro q k fl
  have hq : q = max ((Nat.log2 m : Int) + e) F.emin - F.mbits := rfl
  have hqmin : F.qmin = F.emin - F.mbits := rfl
  obtain ⟨hle, hlt⟩ : k ≤ 2 ^ (F.mbits + 1) ∧ (q ≤ e → k < 2 ^ (F.mbits + 1)) := roundTo_le md neg (by omega)
  have hnormal : 2 ^ F.mbits ≤ k ∨ q = F.qmin := by
    rcases le_total F.emin ((Nat.log2 m : Int) + e) with hn | hs
    · exact .inl (le_roundTo md neg hm (by omega))
    · exact .inr (by omega)
  have hsig := hF.sig
  rcases roundFp_pos F md sat neg e hm with ⟨hov, heq⟩ | ⟨hov, heq⟩
  · have hhigh : q ≤ F.maxExp := by
      by_contra hc
      refine hov ⟨by omega, ?_⟩
      have hge : 2 ^ F.mbits ≤ k := hnormal.resolve_right (by have := (fits_max hF).low; omega)
      calc F.maxSig < 2 ^ F.mbits * 2 ^ 1 := by rw [← pow_add]; omega
        _ ≤ k * 2 ^ (q - F.maxExp).toNat := Nat.mul_le_mul hge (Nat.pow_le_pow_right (by decide) (by omega))
    refine .inl ⟨⟨by omega, hhigh, hle, hnormal, fun hk => ?_⟩, fun hk => ?_, heq⟩
    · by_contra hc
      have hzero : (q - F.maxExp).toNat = 0 := by omega
      refine hov ⟨by omega, ?_⟩
      change F.maxSig < k * 2 ^ (q - F.maxExp).toNat
      rw [hzero]
      omega
    · by_contra hc
      exact absurd (hlt (by omega)) (by omega)
  · exact .inr ⟨hov, _, by simp [hF.inf, Away, or_assoc], heq⟩

end Sys2Proof.Machine
end

section
/-! SUPPORT of O14. The rounding rules themselves, and exact sums (R86, R87). -/

namespace Sys2Proof.Machine

variable {F : Fmt} {md : Rnd} {sat neg : Bool} {m : Nat} {e q : Int}

/-- What the encoding of a rounded significand decodes to: a number as near, in units of its own exponent, and equal where the rounding was exact. -/
theorem fDec_fPack_roundTo (hF : F.Ieee) (h : F.Fits (roundTo md neg m e q).1 q) (hcarry : (roundTo md neg m e q).1 = 2 ^ (F.mbits + 1) → e < q) :
    ∃ k' q', fDec F (fPack F neg (roundTo md neg m e q).1 q) = .fin neg k' q' ∧ F.qmin ≤ q' ∧
      Nearby md neg (m * 2 ^ (e - min e q').toNat) k' (2 ^ (q' - min e q').toNat) ∧
      ((roundTo md neg m e q).2 = true ↔ m * 2 ^ (e - min e q').toNat = k' * 2 ^ (q' - min e q').toNat) := by
  have hnear := roundTo_nearby md neg m e q
  have hexact := roundTo_exact md neg m e q
  rw [fDec_fPack hF neg h]
  by_cases hk : (roundTo md neg m e q).1 = 2 ^ (F.mbits + 1)
  · have hlt := hcarry hk
    have hpow : 2 ^ (q + 1 - e).toNat = 2 * 2 ^ (q - e).toNat := by rw [← pow_succ']; congr 1; omega
    rw [min_eq_left hlt.le, hk] at hnear hexact
    refine ⟨2 ^ F.mbits, q + 1, if_pos hk, by have := h.low; omega, ?_, ?_⟩
    · rw [min_eq_left (by omega), hpow]
      exact hnear.carry hF.mpos
    · rw [min_eq_left (by omega), hpow, hexact, pow_succ, mul_assoc]
  · exact ⟨_, q, if_neg hk, h.low, hnear, hexact⟩

theorem movedFlags_eq (F : Fmt) (m : Nat) (e : Int) {exact : Bool} {x y : Nat} (h : exact = true ↔ x = y) :
    movedFlags F m e exact = (if x = y then 0 else fNX) ||| (if x ≠ y ∧ (Nat.log2 m : Int) + e < 1 - F.bias then fUF else 0) := by
  cases exact with
  | true => simp [movedFlags, flagIf, h.1 rfl]
  | false =>
    have hne : x ≠ y := fun heq => absurd (h.2 heq) Bool.false_ne_true
    by_cases htiny : (Nat.log2 m : Int) + e < 1 - F.bias <;> simp [movedFlags, flagIf, hne, Fmt.emin, htiny]

theorem movedFlags_fOF (F : Fmt) (m : Nat) (e : Int) (exact : Bool) : movedFlags F m e exact &&& fOF = 0 := by
  rw [movedFlags]
  cases exact <;> cases decide ((Nat.log2 m : Int) + e < F.emin) <;> rfl

theorem overflowFlags (fl : Flags) : (fl ||| fOF ||| fNX) &&& fOF ≠ 0 ∧ (fl ||| fOF ||| fNX) &&& fNX = fNX := by
  revert fl; decide

/-- The sum of two numbers of like signs, or the difference of those of unlike ones, signed as the greater. -/
theorem addEx_eq (md : Rnd) (n1 n2 : Bool) (m1 m2 : Nat) (e1 e2 : Int) :
    let d := min e1 e2
    let a := m1 * 2 ^ (e1 - d).toNat
    let b := m2 * 2 ^ (e2 - d).toNat
    (n1 = n2 ∧ addEx md n1 m1 e1 n2 m2 e2 = (n1, a + b, d)) ∨ (n2 = !n1 ∧ a = b ∧ addEx md n1 m1 e1 n2 m2 e2 = (decide (md = .rdn), 0, d)) ∨
    (n2 = !n1 ∧ b < a ∧ addEx md n1 m1 e1 n2 m2 e2 = (n1, a - b, d)) ∨ (n2 = !n1 ∧ a < b ∧ addEx md n1 m1 e1 n2 m2 e2 = (n2, b - a, d)) := by
  intro d a b
  by_cases hn : n1 = n2
  · exact .inl ⟨hn, if_pos hn⟩
  · have hn2 : n2 = !n1 := by cases n1 <;> cases n2 <;> simp_all
    refine .inr ?_
    rcases lt_trichotomy a b with hab | hab | hab
    · exact .inr (.inr ⟨hn2, hab, (if_neg hn).trans ((if_neg hab.ne).trans (if_neg hab.not_gt))⟩)
    · refine .inl ⟨hn2, hab, (if_neg hn).trans ((if_pos hab).trans ?_)⟩
      rw [beq_eq_decide]
    · exact .inr (.inl ⟨hn2, hab, (if_neg hn).trans ((if_neg hab.ne').trans (if_pos hab))⟩)

/-- A sum is exact, and an exact zero sum of unlike signs is +0 but for RDN (R87). -/
theorem addEx_exact (md : Rnd) (n1 n2 : Bool) (m1 m2 : Nat) (e1 e2 : Int) :
    let d := min e1 e2
    let s := addEx md n1 m1 e1 n2 m2 e2
    let sg (n : Bool) : Int := if n then -1 else 1
    s.2.2 = d ∧ sg s.1 * (s.2.1 : Int) = sg n1 * m1 * 2 ^ (e1 - d).toNat + sg n2 * m2 * 2 ^ (e2 - d).toNat ∧
    (s.2.1 = 0 → s.1 = if n1 = n2 then n1 else decide (md = .rdn)) := by
  intro d s sg
  have hsg : sg (!n1) = -sg n1 := by cases n1 <;> rfl
  rcases addEx_eq md n1 n2 m1 m2 e1 e2 with ⟨rfl, h⟩ | ⟨rfl, hab, h⟩ | ⟨rfl, hab, h⟩ | ⟨rfl, hab, h⟩
  · refine ⟨congrArg (·.2.2) h, ?_, fun _ => ?_⟩
    · rw [show s = _ from h]; push_cast; ring
    · rw [show s = _ from h, if_pos rfl]
  · refine ⟨congrArg (·.2.2) h, ?_, fun _ => ?_⟩
    · rw [show s = _ from h, hsg]
      have hz : (m1 * 2 ^ (e1 - d).toNat : Int) = m2 * 2 ^ (e2 - d).toNat := by exact_mod_cast hab
      push_cast
      linear_combination (-sg n1) * hz
    · rw [show s = _ from h, if_neg (by cases n1 <;> decide)]
  all_goals
    refine ⟨congrArg (·.2.2) h, ?_, fun h0 => ?_⟩
    · rw [show s = _ from h, hsg, Nat.cast_sub hab.le]
      push_cast
      ring
    · rw [show s = _ from h] at h0
      exact absurd h0 (Nat.sub_pos_of_lt hab).ne'

theorem roundingRules_hold : roundingRules := by
  refine ⟨fun F hmem md sat neg m e hm => ?_, addEx_exact⟩
  have hF : F.Ieee := by
    simp only [List.mem_cons, List.not_mem_nil, or_false] at hmem
    rcases hmem with rfl | rfl | rfl
    · exact fmtF32_ieee
    · exact fmtF16_ieee
    · exact fmtBf16_ieee
  intro r away
  rcases roundFp_cases hF md sat neg e hm with ⟨hfits, hcarry, heq⟩ | ⟨-, inf, hinf, heq⟩
  · obtain ⟨k, q, hdec, hq, ⟨hnearest, haway, htoward⟩, hexact⟩ := fDec_fPack_roundTo hF hfits hcarry
    refine ⟨fun _ => ⟨k, q, ?_, hq, hnearest, haway, htoward, ?_⟩, fun hof => absurd ?_ hof⟩
    · rw [← hdec]; exact congrArg (fun x => fDec F x.1) heq
    · rw [← movedFlags_eq F m e hexact]; exact congrArg Prod.snd heq
    · exact (congrArg (fun x => x.2 &&& fOF) heq).trans (movedFlags_fOF ..)
  · have hr : r = _ := heq
    rw [hr]
    refine ⟨fun hof => absurd hof (overflowFlags _).1, fun _ => ⟨(overflowFlags _).2, ?_⟩⟩
    cases inf with
    | true => exact (fDec_fInf hF neg).trans (if_pos (hinf.1 rfl)).symm
    | false => exact (fDec_fMax hF neg).trans (if_neg fun h => absurd (hinf.2 h) Bool.false_ne_true).symm

end Sys2Proof.Machine
end

section
/-! SUPPORT of O14 and O15. The flags of floating-point results: none raises DN of itself, and a word adds DN where a source value is subnormal (R93, R139). -/

namespace Sys2Proof.Machine

variable {s : State} {gid : Nat} {second : Bool} {g : Group} {r : Run} {w : Alu}

theorem fSub_iff (F : Fmt) (b : Nat) : fSub F b = true ↔ subnormal F b := by
  simp only [fSub, subnormal, Bool.and_eq_true, beq_iff_eq, bne_iff_ne]

/-- Flags fl are those of fl0 but for DN, which is set where dn holds. -/
structure RaisesDn (fl fl0 : Flags) (dn : Prop) : Prop where
  others : ∀ k < 6, fl.getLsbD k = fl0.getLsbD k
  dn : fl.getLsbD 6 = true ↔ dn

theorem RaisesDn.or {fl fl' fl0 fl0' : Flags} {dn dn' : Prop} (h : RaisesDn fl fl0 dn) (h' : RaisesDn fl' fl0' dn') :
    RaisesDn (fl ||| fl') (fl0 ||| fl0') (dn ∨ dn') :=
  ⟨fun k hk => by rw [BitVec.getLsbD_or, BitVec.getLsbD_or, h.others k hk, h'.others k hk],
    by rw [BitVec.getLsbD_or, Bool.or_eq_true, h.dn, h'.dn]⟩

theorem RaisesDn.congr {fl fl0 : Flags} {dn dn' : Prop} (h : RaisesDn fl fl0 dn) (hdn : dn ↔ dn') : RaisesDn fl fl0 dn' := ⟨h.others, h.dn.trans hdn⟩

theorem raisesDn_self {fl : Flags} (h : fl.getLsbD 6 = false) : RaisesDn fl fl False :=
  ⟨fun _ _ => rfl, by rw [h]; exact iff_of_false Bool.false_ne_true id⟩

theorem raisesDn_dnFlag (F : Fmt) (b : Nat) : RaisesDn (dnFlag F b) 0 (subnormal F b) := by
  refine ⟨fun k hk => ?_, ?_⟩
  · have hbit : fDN.getLsbD k = false := by revert k; decide
    rw [dnFlag, getLsbD_flagIf, hbit, Bool.and_false]
    exact BitVec.getLsbD_zero.symm
  · rw [dnFlag, getLsbD_flagIf, show fDN.getLsbD 6 = true from rfl, Bool.and_true, fSub_iff]

/-- A result that does not raise DN, and the flags that a word adds for its source values. -/
theorem raisesDn_withFl {x : FRes} (hx : x.2.getLsbD 6 = false) {fl : Flags} {dn : Prop} (h : RaisesDn fl 0 dn) : RaisesDn (withFl x fl).2 x.2 dn := by
  have hor := (raisesDn_self hx).or h
  rw [show x.2 ||| 0 = x.2 from BitVec.or_zero] at hor
  exact hor.congr (iff_of_eq (false_or _))

theorem raisesDn_or_zero {fl fl' : Flags} {dn dn' : Prop} (h : RaisesDn fl 0 dn) (h' : RaisesDn fl' 0 dn') : RaisesDn (fl ||| fl') 0 (dn ∨ dn') := h.or h'

/-- The flags that a word leaves in FPSTAT where every lane's flags are those of fl0 with DN (R93). -/
theorem fpstat_merged {m : Lanes} {f : Nat → LaneRes} {fl0 : Nat → Flags} {dn : Nat → Prop} (hf : ∀ l, RaisesDn (f l).2 (fl0 l) (dn l)) (fp : Flags) :
    (∀ k < 6, (fp ||| laneFlags m f).getLsbD k = true ↔ fp.getLsbD k = true ∨ ∃ l < 64, m.getLsbD l = true ∧ (fl0 l).getLsbD k = true) ∧
    ((fp ||| laneFlags m f).getLsbD 6 = true ↔ fp.getLsbD 6 = true ∨ ∃ l < 64, m.getLsbD l = true ∧ dn l) := by
  refine ⟨fun k hk => ?_, ?_⟩
  · rw [BitVec.getLsbD_or, Bool.or_eq_true, getLsbD_laneFlags]
    simp only [(hf _).others k hk]
  · rw [BitVec.getLsbD_or, Bool.or_eq_true, getLsbD_laneFlags]
    simp only [(hf _).dn]

/-- What a register reads depends on the width of its type alone (R43). -/
theorem readLane_width {t t' : Ty} (rg : Regs) {d : Opnd} (l : Nat) (hd : vxOk 1 d = true) (h : is64 t = is64 t') : readLane rg t d l = readLane rg t' d l := by
  cases d with
  | v _ | x _ => simp only [readLane, h]
  | g _ | sp _ | imm _ => cases hd

/-- A per-lane word whose lanes hold the values val and raise the flags fl0, with DN where dn holds. -/
theorem laneWord_merges {o : Nat} {row : AluRow} (hr : aluRow o = some row) (hd : row.d = kD) (h : Runs (.alu o w) s gid second g r)
    {f : Group → Nat → LaneRes} {val : Nat → Nat} {fl0 : Nat → Flags} {dn : Nat → Prop}
    (hval : ∀ l, (f g l).1.toNat % 2 ^ (if is64 w.ty then 64 else 32) = val l % 2 ^ (if is64 w.ty then 64 else 32))
    (hfl : ∀ l, RaisesDn (f g l).2 (fl0 l) (dn l)) :
    ∃ g', laneWord o w s f = .next (s.afterWord gid second g') ∧
      (∀ l < 64, r.mask.getLsbD l = true →
        (readLane g'.regs (if is64 w.ty then .b64 else .b32) w.d l).toNat = val l % 2 ^ (if is64 w.ty then 64 else 32)) ∧
      (∀ k < 6, g'.fpstat.getLsbD k = true ↔ g.fpstat.getLsbD k = true ∨ ∃ l < 64, r.mask.getLsbD l = true ∧ (fl0 l).getLsbD k = true) ∧
      (g'.fpstat.getLsbD 6 = true ↔ g.fpstat.getLsbD 6 = true ∨ ∃ l < 64, r.mask.getLsbD l = true ∧ dn l) := by
  obtain ⟨-, -, -, -, -, -, hkind, -⟩ := alu_good hr h.good
  rw [hd] at hkind
  obtain ⟨g', hs, hfp, hread⟩ := laneWord_runs hr hd h f
  refine ⟨g', hs, fun l hl hm => ?_, by rw [hfp]; exact fpstat_merged hfl g.fpstat⟩
  rw [readLane_width g'.regs l (vxOk_one hkind) (show is64 (if is64 w.ty then .b64 else .b32) = is64 w.ty by cases is64 w.ty <;> rfl),
    hread l hl hm, ← hval l]
  have hx := (f g l).1.isLt
  cases is64 w.ty
  · simp only [Bool.false_eq_true, if_false, BitVec.toNat_setWidth]
    omega
  · exact (Nat.mod_eq_of_lt hx).symm

/-! No result raises DN of itself. -/

theorem flagIf_dn (c : Bool) {fl : Flags} (h : fl.getLsbD 6 = false) : (flagIf c fl).getLsbD 6 = false := by rw [getLsbD_flagIf, h, Bool.and_false]

theorem or_dn {fl fl' : Flags} (h : fl.getLsbD 6 = false) (h' : fl'.getLsbD 6 = false) : (fl ||| fl').getLsbD 6 = false := by
  rw [BitVec.getLsbD_or, h, h', Bool.or_false]

theorem movedFlags_dn (F : Fmt) (m : Nat) (e : Int) (exact : Bool) : (movedFlags F m e exact).getLsbD 6 = false :=
  or_dn (flagIf_dn _ rfl) (flagIf_dn _ rfl)

theorem roundFp_dn (F : Fmt) (md : Rnd) (sat neg : Bool) (m : Nat) (e : Int) : (roundFp F md sat neg m e).2.getLsbD 6 = false := by
  rcases Nat.eq_zero_or_pos m with rfl | hm
  · exact BitVec.getLsbD_zero
  · rcases roundFp_pos F md sat neg e hm with ⟨-, h⟩ | ⟨-, h⟩ <;> rw [h]
    · exact movedFlags_dn ..
    · exact or_dn (or_dn (movedFlags_dn ..) rfl) rfl

theorem canon_dn (F : Fmt) (nv : Bool) : (canon F nv).2.getLsbD 6 = false := flagIf_dn nv rfl

theorem packV_dn (F : Fmt) (md : Rnd) (sat : Bool) (v : FVal) : (packV F md sat v).2.getLsbD 6 = false := by
  cases v with
  | nan sg => exact canon_dn F sg
  | inf n => exact BitVec.getLsbD_zero
  | fin n m e => exact roundFp_dn ..

theorem fAdd_dn (F : Fmt) (md : Rnd) (sat : Bool) (x y : FVal) : (fAdd F md sat x y).2.getLsbD 6 = false := by
  rw [fAdd]
  split
  · exact canon_dn ..
  · exact packV_dn ..

theorem fMul_dn (F : Fmt) (md : Rnd) (sat : Bool) (x y : FVal) : (fMul F md sat x y).2.getLsbD 6 = false := by
  rw [fMul]
  split
  · exact canon_dn ..
  · exact packV_dn ..

theorem fFma_dn (F : Fmt) (md : Rnd) (sat np na : Bool) (x y z : FVal) : (fFma F md sat np na x y z).2.getLsbD 6 = false := by
  rw [fFma]
  dsimp only
  split
  · exact canon_dn ..
  · split
    · exact canon_dn ..
    · split
      · exact canon_dn ..
      · exact packV_dn ..

/-- A minimum or maximum is the canonical NaN or one of its operands, and raises NV alone (R90). -/
theorem fMinMax_eq (F : Fmt) (mx : Bool) (x y : Nat) :
    ∃ c, (fMinMax F mx x y).2 = flagIf c fNV ∧ ((fMinMax F mx x y).1 = fNaN F ∨ (fMinMax F mx x y).1 = x ∨ (fMinMax F mx x y).1 = y) := by
  refine ⟨isSNaN (fDec F x) || isSNaN (fDec F y), ?_⟩
  simp only [fMinMax]
  split
  · exact ⟨rfl, .inl rfl⟩
  · split
    · exact ⟨rfl, .inr (.inr rfl)⟩
    · split
      · exact ⟨rfl, .inr (.inl rfl)⟩
      · exact ⟨rfl, .inr (ite_eq_or_eq ..)⟩

theorem fMinMax_dn (F : Fmt) (mx : Bool) (x y : Nat) : (fMinMax F mx x y).2.getLsbD 6 = false := by
  obtain ⟨c, h, -⟩ := fMinMax_eq F mx x y
  rw [h]
  exact flagIf_dn c rfl

/-- FRND gives the canonical NaN, its operand, or an integer that the format holds, and raises NV or NX alone (R145). -/
theorem fRnd_eq (F : Fmt) (md : Rnd) (b : Nat) :
    (∃ sg, fRnd F md b = canon F sg) ∨ fRnd F md b = (b, 0) ∨ ∃ n k c, fRnd F md b = ((roundFp F .rne false n k 0).1, flagIf c fNX) := by
  rw [fRnd]
  cases fDec F b with
  | nan sg => exact .inl ⟨sg, rfl⟩
  | inf n => exact .inr (.inl rfl)
  | fin n m e =>
    dsimp only
    split
    · exact .inr (.inl rfl)
    · exact .inr (.inr ⟨_, _, _, rfl⟩)

theorem fRnd_dn (F : Fmt) (md : Rnd) (b : Nat) : (fRnd F md b).2.getLsbD 6 = false := by
  rcases fRnd_eq F md b with ⟨sg, h⟩ | h | ⟨n, k, c, h⟩ <;> rw [h]
  · exact canon_dn ..
  · exact BitVec.getLsbD_zero
  · exact flagIf_dn c rfl

end Sys2Proof.Machine
end

section
/-! SUPPORT of O14. The encodings that scalar floating-point words write fit the width of their format, and the words themselves (R76, R145). -/

namespace Sys2Proof.Machine

variable {F : Fmt} {s : State} {gid : Nat} {second : Bool} {g : Group} {r : Run} {w : Alu}

theorem signBit_lt (F : Fmt) (neg : Bool) : signBit F neg < 2 ^ F.width := by
  have hlt : 2 ^ (F.mbits + F.ebits) < 2 ^ F.width := Nat.pow_lt_pow_right (by decide) (by rw [Fmt.width]; omega)
  cases neg
  · exact Nat.two_pow_pos _
  · exact hlt

/-- An encoding from its three fields fits. -/
theorem fields_lt (F : Fmt) (neg : Bool) {ex m : Nat} (hex : ex < 2 ^ F.ebits) (hm : m < 2 ^ F.mbits) : signBit F neg + ex * 2 ^ F.mbits + m < 2 ^ F.width := by
  have hw : (2 : Nat) ^ F.width = 2 ^ (F.mbits + F.ebits) + 2 ^ F.ebits * 2 ^ F.mbits := by rw [Fmt.width]; ring
  have hsign : signBit F neg ≤ 2 ^ (F.mbits + F.ebits) := by cases neg <;> simp [signBit]
  have hmul : ex * 2 ^ F.mbits + 2 ^ F.mbits ≤ 2 ^ F.ebits * 2 ^ F.mbits := by
    rw [← Nat.succ_mul]
    exact Nat.mul_le_mul_right _ hex
  omega

theorem fInf_lt (F : Fmt) (neg : Bool) : fInf F neg < 2 ^ F.width :=
  fields_lt F neg (Nat.sub_lt (by positivity) one_pos) (by positivity)

theorem fNaN_lt (hF : F.Ieee) : fNaN F < 2 ^ F.width := by
  have h := fields_lt F false (Nat.sub_lt (by positivity) one_pos) (Nat.pow_lt_pow_right one_lt_two (Nat.sub_lt hF.mpos one_pos))
  rw [fNaN, hF.inf, if_pos rfl]
  simpa [signBit] using h

theorem roundFp_lt (hF : F.Ieee) (md : Rnd) (sat neg : Bool) (m : Nat) (e : Int) : (roundFp F md sat neg m e).1 < 2 ^ F.width := by
  rcases Nat.eq_zero_or_pos m with rfl | hm
  · exact signBit_lt F neg
  · rcases roundFp_cases hF md sat neg e hm with ⟨hfits, -, h⟩ | ⟨-, inf, -, h⟩ <;> rw [h]
    · exact fPack_lt hF neg hfits
    · cases inf
      · exact fPack_lt hF neg (fits_max hF)
      · exact fInf_lt F neg

theorem packV_lt (hF : F.Ieee) (md : Rnd) (sat : Bool) (v : FVal) : (packV F md sat v).1 < 2 ^ F.width := by
  cases v with
  | nan sg => exact fNaN_lt hF
  | inf n => exact fInf_lt F n
  | fin n m e => exact roundFp_lt hF ..

theorem fAdd_lt (hF : F.Ieee) (md : Rnd) (sat : Bool) (x y : FVal) : (fAdd F md sat x y).1 < 2 ^ F.width := by
  rw [fAdd]
  split
  · exact fNaN_lt hF
  · exact packV_lt hF ..

theorem fMul_lt (hF : F.Ieee) (md : Rnd) (sat : Bool) (x y : FVal) : (fMul F md sat x y).1 < 2 ^ F.width := by
  rw [fMul]
  split
  · exact fNaN_lt hF
  · exact packV_lt hF ..

theorem fFma_lt (hF : F.Ieee) (md : Rnd) (sat np na : Bool) (x y z : FVal) : (fFma F md sat np na x y z).1 < 2 ^ F.width := by
  rw [fFma]
  dsimp only
  split
  · exact fNaN_lt hF
  · split
    · exact fNaN_lt hF
    · split
      · exact fNaN_lt hF
      · exact packV_lt hF ..

theorem fMinMax_lt (hF : F.Ieee) (mx : Bool) {x y : Nat} (hx : x < 2 ^ F.width) (hy : y < 2 ^ F.width) : (fMinMax F mx x y).1 < 2 ^ F.width := by
  obtain ⟨-, -, h | h | h⟩ := fMinMax_eq F mx x y <;> rw [h]
  · exact fNaN_lt hF
  · exact hx
  · exact hy

theorem fRnd_lt (hF : F.Ieee) (md : Rnd) {b : Nat} (hb : b < 2 ^ F.width) : (fRnd F md b).1 < 2 ^ F.width := by
  rcases fRnd_eq F md b with ⟨sg, h⟩ | h | ⟨n, k, c, h⟩ <;> rw [h]
  · exact fNaN_lt hF
  · exact hb
  · exact roundFp_lt hF ..

theorem fClass_lt (F : Fmt) (b : Nat) : fClass F b < 2 ^ 10 := by
  rw [fClass]
  split
  next => decide
  next => decide
  next => decide
  next => decide
  next n m e hdec =>
    split
    · cases n <;> decide
    · split <;> cases n <;> decide

/-- Inverting the top bit of k + 1 (R76). -/
theorem xor_two_pow {x k : Nat} (hx : x < 2 ^ (k + 1)) : x ^^^ 2 ^ k = if x < 2 ^ k then x + 2 ^ k else x - 2 ^ k := by
  have hdiv : (x ^^^ 2 ^ k) / 2 ^ k = x / 2 ^ k ^^^ 1 := by rw [Nat.xor_div_two_pow, Nat.div_self (by positivity)]
  have hmod : (x ^^^ 2 ^ k) % 2 ^ k = x % 2 ^ k := by rw [Nat.xor_mod_two_pow, Nat.mod_self, Nat.xor_zero]
  have hxor := Nat.div_add_mod (x ^^^ 2 ^ k) (2 ^ k)
  have hself := Nat.div_add_mod x (2 ^ k)
  rw [pow_succ] at hx
  rw [hdiv, hmod] at hxor
  split
  next hlt =>
    rw [Nat.div_eq_of_lt hlt] at hxor hself
    change 2 ^ k * 1 + _ = _ at hxor
    omega
  next hge =>
    rw [Nat.div_eq_of_lt_le (k := 1) (by omega) (by omega)] at hxor hself
    change 2 ^ k * 0 + _ = _ at hxor
    omega

/-- A type of the scalar floating-point words, by its format. -/
structure ScalarFloat (t : Ty) : Prop where
  type : t = .f32 ∨ t = .f16 ∨ t = .bf16
  narrow : is64 t = false
  ieee : (fmtOf t).Ieee
  bits : tyBits t = (fmtOf t).width
  ten_le : 10 ≤ (fmtOf t).width
  le_word : (fmtOf t).width ≤ 32

/-- The types of Table 5-4. -/
theorem scalarFloat_of_mem {t : Ty} (ht : t ∈ tyF3) : ScalarFloat t := by
  simp only [tyF3, List.mem_cons, List.not_mem_nil, or_false] at ht
  rcases ht with rfl | rfl | rfl
  · exact ⟨.inl rfl, rfl, fmtF32_ieee, rfl, by decide, by decide⟩
  · exact ⟨.inr (.inl rfl), rfl, fmtF16_ieee, rfl, by decide, by decide⟩
  · exact ⟨.inr (.inr rfl), rfl, fmtBf16_ieee, rfl, by decide, by decide⟩

theorem encA_lt (w : Alu) (g : Group) (l : Nat) : encA w g l < 2 ^ (wF w).width := Nat.mod_lt _ (by positivity)

/-- A scalar floating-point word p.1, of opcode o: in lane l it gives the result p.2.1 of the encodings of its operands, and raises DN for those that p.2.2 lists. -/
theorem floatWord_holds {p : (Alu → Instr) × (Alu → Nat → Nat → Nat → FRes) × (Nat → Nat → Nat → List Nat)} {o : Nat} {row : AluRow}
    {f : Alu → Group → Nat → FRes}
    (hlt : ∀ w, ScalarFloat w.ty → ∀ x < 2 ^ (wF w).width, ∀ y < 2 ^ (wF w).width, ∀ z, (p.2.1 w x y z).1 < 2 ^ (wF w).width)
    (hfl : ∀ w g l, RaisesDn (f w g l).2 (p.2.1 w (encA w g l) (encB w g l) (encC w g l)).2
      (∃ v ∈ p.2.2 (encA w g l) (encB w g l) (encC w g l), subnormal (fmtOf w.ty) v))
    (hval : ∀ w g l, ScalarFloat w.ty → (f w g l).1 = (p.2.1 w (encA w g l) (encB w g l) (encC w g l)).1 := by exact fun _ _ _ _ => rfl)
    (hb : ∀ w, bodyOf (p.1 w) = .alu o w := by exact fun _ => rfl) (hexec : ∀ w s, exec (p.1 w) s = fltWord o w s (f w) := by exact fun _ _ => rfl)
    (hr : aluRow o = some row := by rfl) (hd : row.d = kD := by rfl) (htys : row.tys = tyF3 := by rfl) :
    ∀ w s gid second g r, Runs (bodyOf (p.1 w)) s gid second g r →
    let n := tyBits w.ty
    let a := fun l => (srcA w g l).toNat % 2 ^ n
    let b := fun l => (srcB w g l).toNat % 2 ^ n
    let c := fun l => (srcC w g l).toNat % 2 ^ n
    (w.ty = .f32 ∨ w.ty = .f16 ∨ w.ty = .bf16) ∧
    ∃ g', exec (p.1 w) s = .next (s.afterWord gid second g') ∧
      (∀ l < 64, r.mask.getLsbD l = true → (readLane g'.regs .b32 w.d l).toNat = (p.2.1 w (a l) (b l) (c l)).1) ∧
      (∀ k < 6, g'.fpstat.getLsbD k = true ↔ g.fpstat.getLsbD k = true ∨
        ∃ l < 64, r.mask.getLsbD l = true ∧ (p.2.1 w (a l) (b l) (c l)).2.getLsbD k = true) ∧
      (g'.fpstat.getLsbD 6 = true ↔ g.fpstat.getLsbD 6 = true ∨
        ∃ l < 64, r.mask.getLsbD l = true ∧ ∃ v ∈ p.2.2 (a l) (b l) (c l), subnormal (fmtOf w.ty) v) := by
  intro w s gid second g r h
  rw [hb] at h
  have hty : ScalarFloat w.ty := scalarFloat_of_mem (htys ▸ (alu_good hr h.good).1)
  rw [hty.bits, hexec]
  intro n a b c
  have hbound : ∀ l, (p.2.1 w (a l) (b l) (c l)).1 < 2 ^ 32 := fun l =>
    (hlt w hty _ (Nat.mod_lt _ (by positivity)) _ (Nat.mod_lt _ (by positivity)) _).trans_le (Nat.pow_le_pow_right (by decide) hty.le_word)
  obtain ⟨g', hs, hread, hflags⟩ := laneWord_merges hr hd h (f := fun g l => (BitVec.ofNat 64 (f w g l).1, (f w g l).2))
    (val := fun l => (p.2.1 w (a l) (b l) (c l)).1) (fun l => by
      rw [hty.narrow, if_neg Bool.false_ne_true, BitVec.toNat_ofNat, Nat.mod_mod_of_dvd _ (Nat.pow_dvd_pow 2 (by decide)), hval w g l hty]; rfl) (hfl w g)
  refine ⟨hty.type, g', hs, fun l hl hm => ?_, hflags⟩
  have hreads := hread l hl hm
  rwa [hty.narrow, if_neg Bool.false_ne_true, if_neg Bool.false_ne_true, Nat.mod_eq_of_lt (hbound l)] at hreads

/-! The flags of a word with one, two or three source values, or none that counts. -/

variable {x : FRes} {a b c : Nat}

theorem raisesDn_none (p : Nat → Prop) (hx : x.2.getLsbD 6 = false) : RaisesDn x.2 x.2 (∃ v ∈ ([] : List Nat), p v) :=
  (raisesDn_self hx).congr (by simp only [List.not_mem_nil, false_and, exists_false])

theorem raisesDn_one (hx : x.2.getLsbD 6 = false) : RaisesDn (withFl x (dnFlag F a)).2 x.2 (∃ v ∈ [a], subnormal F v) :=
  (raisesDn_withFl hx (raisesDn_dnFlag F a)).congr (by simp only [List.mem_singleton, exists_eq_left])

theorem raisesDn_two (hx : x.2.getLsbD 6 = false) : RaisesDn (withFl x (dnFlag F a ||| dnFlag F b)).2 x.2 (∃ v ∈ [a, b], subnormal F v) :=
  (raisesDn_withFl hx (raisesDn_or_zero (raisesDn_dnFlag F a) (raisesDn_dnFlag F b))).congr
    (by simp only [List.exists_mem_cons_iff, List.not_mem_nil, false_and, exists_false, or_false])

theorem raisesDn_three (hx : x.2.getLsbD 6 = false) :
    RaisesDn (withFl x (dnFlag F a ||| dnFlag F b ||| dnFlag F c)).2 x.2 (∃ v ∈ [a, b, c], subnormal F v) :=
  (raisesDn_withFl hx (raisesDn_or_zero (raisesDn_or_zero (raisesDn_dnFlag F a) (raisesDn_dnFlag F b)) (raisesDn_dnFlag F c))).congr
    (by simp only [List.exists_mem_cons_iff, List.not_mem_nil, false_and, exists_false, or_false, or_assoc])

/-- FNEG's bits: the sign inverted (R76). -/
theorem xor_sign (F : Fmt) {x : Nat} (hx : x < 2 ^ F.width) :
    x ^^^ 2 ^ (F.width - 1) = if x < 2 ^ (F.width - 1) then x + 2 ^ (F.width - 1) else x - 2 ^ (F.width - 1) :=
  xor_two_pow (by rwa [Nat.sub_add_cancel (by rw [Fmt.width]; omega)])

/-- An encoding with its sign inverted fits. -/
theorem invert_lt {x k n : Nat} (hn : 0 < n) (hk : k = n - 1) (hx : x < 2 ^ n) : (if x < 2 ^ k then x + 2 ^ k else x - 2 ^ k) < 2 ^ n := by
  have hp : 2 ^ n = 2 * 2 ^ k := by rw [← pow_succ']; congr 1; omega
  split <;> omega

/-- Each scalar floating-point word by the bound of its results and by its flags. -/
theorem floatWordsRules_hold : floatWordsRules := by
  refine List.forall_mem_cons.2 ⟨floatWord_holds (fun _ hty _ _ _ _ _ => fAdd_lt hty.ieee ..) (fun _ _ _ => raisesDn_two (fAdd_dn ..)), ?_⟩
  refine List.forall_mem_cons.2 ⟨floatWord_holds (fun _ hty _ _ _ _ _ => fAdd_lt hty.ieee ..) (fun _ _ _ => raisesDn_two (fAdd_dn ..)), ?_⟩
  refine List.forall_mem_cons.2 ⟨floatWord_holds (fun _ hty _ _ _ _ _ => fMul_lt hty.ieee ..) (fun _ _ _ => raisesDn_two (fMul_dn ..)), ?_⟩
  refine List.forall_mem_cons.2 ⟨floatWord_holds (fun _ hty _ _ _ _ _ => fFma_lt hty.ieee ..) (fun _ _ _ => raisesDn_three (fFma_dn ..)), ?_⟩
  refine List.forall_mem_cons.2 ⟨floatWord_holds (fun _ hty _ hx _ hy _ => fMinMax_lt hty.ieee false hx hy) (fun _ _ _ => raisesDn_two (fMinMax_dn ..)), ?_⟩
  refine List.forall_mem_cons.2 ⟨floatWord_holds (fun _ hty _ hx _ hy _ => fMinMax_lt hty.ieee true hx hy) (fun _ _ _ => raisesDn_two (fMinMax_dn ..)), ?_⟩
  refine List.forall_mem_cons.2 ⟨floatWord_holds (f := fun w g l => (encA w g l % 2 ^ ((wF w).width - 1), 0)) (fun _ _ _ hx _ _ _ => (Nat.mod_le ..).trans_lt hx)
    (fun _ _ _ => raisesDn_none _ BitVec.getLsbD_zero) (fun w g l hty => congrArg (fun n => encA w g l % 2 ^ (n - 1)) hty.bits.symm), ?_⟩
  refine List.forall_mem_cons.2 ⟨floatWord_holds (f := fun w g l => (encA w g l ^^^ 2 ^ ((wF w).width - 1), 0))
    (fun w hty _ hx _ _ _ => invert_lt (by rw [Fmt.width]; omega) (congrArg (· - 1) hty.bits) hx) (fun _ _ _ => raisesDn_none _ BitVec.getLsbD_zero)
    (fun w g l hty => (xor_sign (wF w) (encA_lt w g l)).trans (by rw [wF, ← hty.bits])), ?_⟩
  refine List.forall_mem_cons.2 ⟨floatWord_holds (fun _ hty x _ _ _ _ => (fClass_lt _ x).trans_le (Nat.pow_le_pow_right (by decide) hty.ten_le))
    (fun _ _ _ => raisesDn_none _ BitVec.getLsbD_zero), ?_⟩
  refine List.forall_mem_cons.2 ⟨floatWord_holds (fun w hty _ hx _ _ _ => fRnd_lt hty.ieee w.rnd hx) (fun _ _ _ => raisesDn_one (fRnd_dn ..)), ?_⟩
  exact fun _ hnil => absurd hnil List.not_mem_nil

/-- Settles O14: the rounding, and the words that give one rounded result. -/
theorem floatWords : Obligations.FloatWords := ⟨roundingRules_hold, floatWordsRules_hold⟩

end Sys2Proof.Machine
end

section
/-! SUPPORT of O15. The flags of packed words, conversions and seeds, and the widening of an element, which is exact (R139, R146 to R148, R152). -/

namespace Sys2Proof.Machine

variable {F D : Fmt} {s : State} {gid : Nat} {second : Bool} {g : Group} {r : Run} {w : Alu}

/-- The low bits of a result that a lane keeps. -/
theorem toNat_ofNat_mod (x : Nat) (wide : Bool) : (BitVec.ofNat 64 x).toNat % 2 ^ (if wide then 64 else 32) = x % 2 ^ (if wide then 64 else 32) := by
  rw [BitVec.toNat_ofNat]
  exact Nat.mod_mod_of_dvd _ (Nat.pow_dvd_pow 2 (by cases wide <;> decide))

/-- A word p.1 runs: lane l gets the result p.2.1, and FPSTAT its flags, with DN for the source values that p.2.2 lists (R93, R139). -/
def LaneWordHolds (p : (Alu → Instr) × (Alu → Group → Nat → Nat × Flags) × (Alu → Group → Nat → List (Fmt × Nat))) : Prop :=
  ∀ w s gid second g r, Runs (bodyOf (p.1 w)) s gid second g r →
    ∃ g', exec (p.1 w) s = .next (s.afterWord gid second g') ∧
      (∀ l < 64, r.mask.getLsbD l = true →
        (readLane g'.regs (if is64 w.ty then .b64 else .b32) w.d l).toNat = (p.2.1 w g l).1 % 2 ^ (if is64 w.ty then 64 else 32)) ∧
      (∀ k < 6, g'.fpstat.getLsbD k = true ↔ g.fpstat.getLsbD k = true ∨
        ∃ l < 64, r.mask.getLsbD l = true ∧ (p.2.1 w g l).2.getLsbD k = true) ∧
      (g'.fpstat.getLsbD 6 = true ↔ g.fpstat.getLsbD 6 = true ∨
        ∃ l < 64, r.mask.getLsbD l = true ∧ ∃ v ∈ p.2.2 w g l, subnormal v.1 v.2)

/-- A word of opcode o, by what its lanes hold and the flags they raise. -/
theorem laneWord_holds {p : (Alu → Instr) × (Alu → Group → Nat → Nat × Flags) × (Alu → Group → Nat → List (Fmt × Nat))} {o : Nat} {row : AluRow}
    {f : Alu → Group → Nat → LaneRes} (hexec : ∀ w s, exec (p.1 w) s = laneWord o w s (f w)) (hr : aluRow o = some row)
    (hval : ∀ w g l, w.ty ∈ row.tys → (f w g l).1.toNat % 2 ^ (if is64 w.ty then 64 else 32) = (p.2.1 w g l).1 % 2 ^ (if is64 w.ty then 64 else 32))
    (hfl : ∀ w g l, w.ty ∈ row.tys → RaisesDn (f w g l).2 (p.2.1 w g l).2 (∃ v ∈ p.2.2 w g l, subnormal v.1 v.2))
    (hb : ∀ w, bodyOf (p.1 w) = .alu o w := by exact fun _ => rfl) (hd : row.d = kD := by rfl) : LaneWordHolds p := by
  intro w s gid second g r h
  rw [hb] at h
  have hty := (alu_good hr h.good).1
  rw [hexec]
  exact laneWord_merges hr hd h (fun l => hval w g l hty) (fun l => hfl w g l hty)

/-! The flags of packed words. -/

/-- The elements of some operands of a packed word in lane l. -/
def pkSources (w : Alu) (g : Group) (l : Nat) (os : List Opnd) : List (Fmt × Nat) :=
  os.flatMap (fun o => [(fmtOf w.ty, pkEl w g o l 0), (fmtOf w.ty, pkEl w g o l 1)])

theorem exists_mem_pkSources_cons (w : Alu) (g : Group) (l : Nat) (o : Opnd) (os : List Opnd) (q : Fmt × Nat → Prop) :
    (∃ v ∈ pkSources w g l (o :: os), q v) ↔ (q (fmtOf w.ty, pkEl w g o l 0) ∨ q (fmtOf w.ty, pkEl w g o l 1)) ∨ ∃ v ∈ pkSources w g l os, q v := by
  simp only [pkSources, List.flatMap_cons, List.cons_append, List.nil_append, List.exists_mem_cons_iff, or_assoc]

theorem not_exists_mem_pkSources_nil (w : Alu) (g : Group) (l : Nat) (q : Fmt × Nat → Prop) : ¬ ∃ v ∈ pkSources w g l [], q v :=
  fun ⟨_, hv, _⟩ => absurd hv List.not_mem_nil

theorem raisesDn_pkDn (w : Alu) (g : Group) (l e : Nat) :
    RaisesDn (pkDn w g l e) 0 (subnormal (wF w) (pkEl w g w.a l e) ∨ subnormal (wF w) (pkEl w g w.b l e)) :=
  raisesDn_or_zero (raisesDn_dnFlag ..) (raisesDn_dnFlag ..)

/-- A packed word of two operands. -/
theorem raisesDn_pk {x : Nat → FRes} (hx : ∀ e, (x e).2.getLsbD 6 = false) (w : Alu) (g : Group) (l : Nat) :
    RaisesDn ((withFl (x 0) (pkDn w g l 0)).2 ||| (withFl (x 1) (pkDn w g l 1)).2) ((x 0).2 ||| (x 1).2) (∃ v ∈ pkSources w g l [w.a, w.b], subnormal v.1 v.2) := by
  refine ((raisesDn_withFl (hx 0) (raisesDn_pkDn w g l 0)).or (raisesDn_withFl (hx 1) (raisesDn_pkDn w g l 1))).congr ?_
  simp only [exists_mem_pkSources_cons, not_exists_mem_pkSources_nil, or_false]
  exact or_or_or_comm

/-- A packed word of three operands. -/
theorem raisesDn_pk3 {x : Nat → FRes} (hx : ∀ e, (x e).2.getLsbD 6 = false) (w : Alu) (g : Group) (l : Nat) :
    RaisesDn ((withFl (x 0) (pkDn w g l 0 ||| dnFlag (wF w) (pkEl w g (cOp w) l 0))).2 ||| (withFl (x 1) (pkDn w g l 1 ||| dnFlag (wF w) (pkEl w g (cOp w) l 1))).2)
      ((x 0).2 ||| (x 1).2) (∃ v ∈ pkSources w g l [w.a, w.b, cOp w], subnormal v.1 v.2) := by
  have hel (e : Nat) := raisesDn_withFl (hx e) (raisesDn_or_zero (raisesDn_pkDn w g l e) (raisesDn_dnFlag (wF w) (pkEl w g (cOp w) l e)))
  refine ((hel 0).or (hel 1)).congr ?_
  simp only [exists_mem_pkSources_cons, not_exists_mem_pkSources_nil, or_false]
  rw [or_or_or_comm, or_or_or_comm (a := subnormal (wF w) (pkEl w g w.a l 0)), or_assoc]
  rfl

theorem pkDot_dn (md : Rnd) (sat : Bool) (x0 y0 x1 y1 z : FVal) : (pkDot md sat x0 y0 x1 y1 z).2.getLsbD 6 = false := by
  simp only [pkDot]
  split
  · exact canon_dn ..
  · exact packV_dn ..

theorem raisesDn_pkDot {x : FRes} (hx : x.2.getLsbD 6 = false) (w : Alu) (g : Group) (l c : Nat) :
    RaisesDn (withFl x (pkDn w g l 0 ||| pkDn w g l 1 ||| dnFlag fmtF32 c)).2 x.2
      (∃ v ∈ (fmtF32, c) :: pkSources w g l [w.a, w.b], subnormal v.1 v.2) := by
  refine (raisesDn_withFl hx (raisesDn_or_zero (raisesDn_or_zero (raisesDn_pkDn w g l 0) (raisesDn_pkDn w g l 1)) (raisesDn_dnFlag fmtF32 c))).congr ?_
  simp only [List.exists_mem_cons_iff, exists_mem_pkSources_cons, not_exists_mem_pkSources_nil, or_false]
  rw [or_comm, or_or_or_comm]
  rfl

/-! The flags of conversions. -/

theorem getLsbD_zeroFlags (k : Nat) : (0 : Flags).getLsbD k = false := BitVec.getLsbD_zero

theorem or_zeroFlags (fl : Flags) : fl ||| 0 = fl := BitVec.or_zero

theorem fNV_dn : fNV.getLsbD 6 = false := rfl

theorem fOF_dn : fOF.getLsbD 6 = false := rfl

theorem fDZ_dn : fDZ.getLsbD 6 = false := rfl

theorem fDN_dn : fDN.getLsbD 6 = true := rfl

theorem ite_dn {c : Prop} [Decidable c] {fl fl' : Flags} (h : fl.getLsbD 6 = false) (h' : fl'.getLsbD 6 = false) :
    (if c then fl else fl').getLsbD 6 = false := by
  split
  · exact h
  · exact h'

theorem cvtFF_dn (D : Fmt) (wide : Bool) (md : Rnd) (sat : Bool) (v : FVal) : (cvtFF D wide md sat v).2.getLsbD 6 = false := by
  cases v with
  | nan sg =>
    rw [cvtFF]
    split
    · exact canon_dn ..
    · exact fNV_dn
  | inf n =>
    rw [cvtFF]
    split
    · exact BitVec.getLsbD_zero
    · split
      · exact BitVec.getLsbD_zero
      · exact fOF_dn
  | fin n m e => exact roundFp_dn ..

theorem cvtFI_dn (n : Nat) (sgn : Bool) (md : Rnd) (v : FVal) : (cvtFI n sgn md v).2.getLsbD 6 = false := by
  cases v with
  | nan sg => exact fNV_dn
  | inf neg => exact fNV_dn
  | fin neg m e => exact ite_dn fNV_dn (flagIf_dn _ rfl)

theorem intRes_dn (n : Nat) (sgn sat : Bool) (v : Int) : (intRes n sgn sat v).2.getLsbD 6 = false := by
  rw [intRes_flags]
  exact flagIf_dn _ rfl

theorem cvtII_dn (t d : Ty) (sat : Bool) (z : Int) : (cvtII t d sat z).2.getLsbD 6 = false := by
  rw [cvtII]
  split <;> exact intRes_dn ..

theorem width_fmtOf {t : Ty} (h : isFloat t = true) : (fmtOf t).width = tyBits t := by
  revert h
  cases t <;> decide

/-- A conversion raises DN for a subnormal source value of a floating-point type. -/
theorem cvt_raisesDn (t d : Ty) (md : Rnd) (sat : Bool) (b : BitVec 64) :
    RaisesDn (cvt t d md sat b).2 (cvt t d md sat b).2 (∃ v ∈ if isFloat t then [(fmtOf t, b.toNat % 2 ^ tyBits t)] else [], subnormal v.1 v.2) := by
  refine ⟨fun _ _ => rfl, ?_⟩
  cases ht : isFloat t with
  | true =>
    have hdn := raisesDn_dnFlag (fmtOf t) (b.toNat % 2 ^ tyBits t)
    simp only [cvt, ht, if_true, width_fmtOf ht, List.mem_singleton, exists_eq_left]
    split
    · exact (raisesDn_withFl (cvtFF_dn ..) hdn).dn
    · exact (raisesDn_withFl (x := (0, (cvtFI (tyBits d) (isS d) md (fDec (fmtOf t) (b.toNat % 2 ^ tyBits t))).2)) (cvtFI_dn ..) hdn).dn
  | false =>
    simp only [cvt, ht, Bool.false_eq_true, if_false, List.not_mem_nil, false_and, exists_false, iff_false, Bool.not_eq_true]
    split
    · exact roundFp_dn ..
    · exact cvtII_dn ..

/-! The flags of seeds. -/

/-- A subnormal encoding is a finite number that is not zero. -/
theorem fDec_of_subnormal {b : Nat} (h : subnormal F b) : ∃ n m, m ≠ 0 ∧ fDec F b = .fin n m F.qmin :=
  ⟨_, _, h.2, if_pos h.1⟩

/-- The flags of a seed: DN where its operand is subnormal, which only a finite operand that is not zero is (R152). -/
theorem seed_raisesDn (k : Seed) (b : Nat) : RaisesDn (seed k b).2 (seed k b).2 (subnormal fmtF32 b) := by
  refine ⟨fun _ _ => rfl, ?_⟩
  by_cases hs : subnormal fmtF32 b
  · obtain ⟨n, m, hm, hdec⟩ := fDec_of_subnormal hs
    have hdn : flagIf (fSub fmtF32 b) fDN = fDN := by rw [(fSub_iff ..).2 hs]; rfl
    refine iff_of_true ?_ hs
    simp only [seed, hdec, if_neg hm, hdn]
    cases k <;> cases n <;> simp only [if_true, Bool.false_eq_true, if_false, BitVec.getLsbD_or, fDN_dn, Bool.or_true]
  · have hdn : flagIf (fSub fmtF32 b) fDN = 0 := by rw [Bool.eq_false_iff.2 (mt (fSub_iff ..).1 hs)]; rfl
    refine iff_of_false (Bool.eq_false_iff.1 ?_) hs
    simp only [seed, hdn]
    cases fDec fmtF32 b with
    | nan sg => exact canon_dn ..
    | inf n => cases k <;> cases n <;> simp only [if_true, Bool.false_eq_true, if_false, canon_dn, getLsbD_zeroFlags]
    | fin n m e =>
      dsimp only
      split <;> cases k <;> cases n <;> simp only [if_true, Bool.false_eq_true, if_false, or_zeroFlags, fDZ_dn, fNV_dn, getLsbD_zeroFlags]

end Sys2Proof.Machine
end

section
/-! SUPPORT of O15. A widened element is exact; UNPK2; and the words of Table 5-5, CVT, PACK2 and the seeds (R146 to R148, R152). -/

namespace Sys2Proof.Machine

variable {F D : Fmt} {s : State} {gid : Nat} {second : Bool} {g : Group} {r : Run} {w : Alu}

/-- A finite number of a format: its significand and exponent. -/
theorem fDec_fin_bounds (hF : F.Ieee) {b m : Nat} {n : Bool} {q : Int} (h : fDec F b = .fin n m q) :
    F.qmin ≤ q ∧ q ≤ F.maxExp ∧ m < 2 ^ (F.mbits + 1) := by
  have hm : b % 2 ^ F.mbits < 2 ^ F.mbits := Nat.mod_lt _ (by positivity)
  have hex : b / 2 ^ F.mbits % 2 ^ F.ebits < 2 ^ F.ebits := Nat.mod_lt _ (by positivity)
  have hp : (2 : Nat) ^ (F.mbits + 1) = 2 * 2 ^ F.mbits := by ring
  have hcast : ((2 ^ F.ebits : Nat) : Int) = 2 ^ F.ebits := by push_cast; rfl
  have hmax := (fits_max hF).low
  have hexps := hF.exps
  simp only [fDec, hF.inf, Bool.true_and, Bool.not_true, Bool.and_false, Bool.false_and, Bool.false_eq_true, if_false, beq_iff_eq] at h
  split at h
  next =>
    cases h
    exact ⟨le_refl _, hmax, by omega⟩
  next hne =>
    split at h
    next => split at h <;> cases h
    next htop =>
      cases h
      exact ⟨by omega, by omega, by omega⟩

/-- A number that a format holds rounds to itself, in every mode, without a flag. -/
theorem roundFp_exact (hD : D.Ieee) (md : Rnd) (sat neg : Bool) {m : Nat} {e : Int} (hlow : D.qmin ≤ e) (hbits : Nat.log2 m ≤ D.mbits)
    (hhigh : (Nat.log2 m : Int) + e ≤ D.maxExp + D.mbits) :
    (roundFp D md sat neg m e).2 = 0 ∧ ∃ m' q', fDec D (roundFp D md sat neg m e).1 = .fin neg m' q' ∧
      m * 2 ^ (e - min e q').toNat = m' * 2 ^ (q' - min e q').toNat := by
  rcases Nat.eq_zero_or_pos m with rfl | hm
  · refine ⟨rfl, 0, D.qmin, ?_, by rw [zero_mul, zero_mul]⟩
    have h := fDec_fields D neg (ex := 0) (m := 0) (by positivity) (by positivity)
    rwa [if_pos rfl, zero_mul, add_zero, add_zero] at h
  · have hunit : D.unit m e ≤ e := by
      have hq : D.unit m e = max ((Nat.log2 m : Int) + e) D.emin - D.mbits := rfl
      have hqmin : D.qmin = D.emin - D.mbits := rfl
      omega
    have hexact : (roundTo md neg m e (D.unit m e)).2 = true := by rw [roundTo, if_pos hunit]
    rcases roundFp_cases hD md sat neg e hm with ⟨hfits, hcarry, heq⟩ | ⟨⟨hq, hk⟩, -⟩
    · obtain ⟨m', q', hdec, -, -, hval⟩ := fDec_fPack_roundTo hD hfits hcarry
      refine ⟨?_, m', q', ?_, hval.1 hexact⟩
      · rw [heq, hexact]; simp [movedFlags, flagIf]
      · rw [heq]; exact hdec
    · have hle : D.unit m e ≤ D.maxExp := by
        have hu : D.unit m e = max ((Nat.log2 m : Int) + e) D.emin - D.mbits := rfl
        have hmax : D.emin - D.mbits ≤ D.maxExp := (fits_max hD).low
        omega
      have hlt := (roundTo_le md neg (p := D.mbits) (m := m) (e := e) (q := D.unit m e) (by rw [Fmt.unit]; omega)).2 hunit
      have hsig := hD.sig
      rw [show (D.unit m e - D.maxExp).toNat = 0 by omega, pow_zero, mul_one] at hk
      omega

theorem log2_le_of_lt {m p : Nat} (h : m < 2 ^ (p + 1)) : Nat.log2 m ≤ p := by
  rcases Nat.eq_zero_or_pos m with rfl | hm
  · exact Nat.zero_le p
  · exact Nat.lt_succ_iff.1 ((Nat.log2_lt hm.ne').2 h)

/-- An FP16 or BF16 element widened to FP32: exact, and no flag but NV for a signalling NaN (R91, R148). -/
theorem widen_exact {t : Ty} (ht : t ∈ tyH2) (b : Nat) :
    (cvtFF fmtF32 true .rne false (fDec (fmtOf t) b)).2 = flagIf (isSNaN (fDec (fmtOf t) b)) fNV ∧
    ∀ n m q, fDec (fmtOf t) b = .fin n m q → ∃ m' q', fDec fmtF32 (cvtFF fmtF32 true .rne false (fDec (fmtOf t) b)).1 = .fin n m' q' ∧
      m * 2 ^ (q - min q q').toNat = m' * 2 ^ (q' - min q q').toNat := by
  obtain ⟨hF, hlow, hbits, hhigh⟩ : (fmtOf t).Ieee ∧ fmtF32.qmin ≤ (fmtOf t).qmin ∧ (fmtOf t).mbits ≤ fmtF32.mbits ∧
      (fmtOf t).maxExp + (fmtOf t).mbits ≤ fmtF32.maxExp + fmtF32.mbits := by
    simp only [tyH2, List.mem_cons, List.not_mem_nil, or_false] at ht
    rcases ht with rfl | rfl
    · exact ⟨fmtF16_ieee, by decide, by decide, by decide⟩
    · exact ⟨fmtBf16_ieee, by decide, by decide, by decide⟩
  cases hdec : fDec (fmtOf t) b with
  | nan sg => exact ⟨rfl, fun _ _ _ h => by cases h⟩
  | inf n => exact ⟨rfl, fun _ _ _ h => by cases h⟩
  | fin n m q =>
    obtain ⟨hq, hq', hm⟩ := fDec_fin_bounds hF hdec
    have hlog := log2_le_of_lt hm
    obtain ⟨hfl, hval⟩ := roundFp_exact fmtF32_ieee .rne false n (m := m) (e := q) (by omega) (by omega) (by omega)
    refine ⟨hfl, fun n' m' q' h => ?_⟩
    cases h
    exact hval

theorem isSNaN_iff (v : FVal) : isSNaN v = true ↔ v = .nan true := by
  cases v with
  | nan sg => simp [isSNaN]
  | inf n => simp [isSNaN]
  | fin n m e => simp [isSNaN]

theorem fNV_getLsbD (k : Nat) : fNV.getLsbD k = true ↔ k = 4 := by
  by_cases hk : k < 7
  · revert k; decide
  · rw [BitVec.getLsbD_of_ge _ _ (by omega)]
    exact iff_of_false Bool.false_ne_true (by omega)

/-- What UNPK2 makes of element e of A in a lane, with its flags. -/
def unpkEl (w : Alu) (g : Group) (l e : Nat) : FRes :=
  withFl (cvtFF fmtF32 true .rne false (pkV w g w.a l e)) (dnFlag (wF w) (pkEl w g w.a l e))

theorem unpkEl_raisesDn {w : Alu} (hty : w.ty ∈ tyH2) (g : Group) (l e : Nat) :
    RaisesDn (unpkEl w g l e).2 (flagIf (isSNaN (pkV w g w.a l e)) fNV) (subnormal (wF w) (pkEl w g w.a l e)) := by
  have hfl : (cvtFF fmtF32 true .rne false (pkV w g w.a l e)).2 = flagIf (isSNaN (pkV w g w.a l e)) fNV := (widen_exact hty _).1
  rw [← hfl]
  exact raisesDn_withFl (cvtFF_dn ..) (raisesDn_dnFlag ..)

/-- What UNPK2 writes in a lane. -/
def unpkLane (w : Alu) (g : Group) (l : Nat) : LaneRes :=
  (BitVec.ofNat 64 ((unpkEl w g l 0).1 + 2 ^ 32 * (unpkEl w g l 1).1), (unpkEl w g l 0).2 ||| (unpkEl w g l 1).2)

theorem unpk2_runs (h : Runs (.alu 0x072 w) s gid second g r) :
    exec (.unpk2 w) s = .next (s.afterWord gid second (setLanes g r.mask w.d true (unpkLane w g))) :=
  groupOnly_runs h (fun g r _ => setLanes g r.mask w.d true (unpkLane w g)) rfl

/-- NV of a pair of elements: a signalling NaN in either (R139). -/
theorem unpkNv_iff (w : Alu) (g : Group) (l k : Nat) :
    (flagIf (isSNaN (pkV w g w.a l 0)) fNV ||| flagIf (isSNaN (pkV w g w.a l 1)) fNV).getLsbD k = true ↔
      k = 4 ∧ ∃ e < 2, pkV w g w.a l e = .nan true := by
  rw [BitVec.getLsbD_or, getLsbD_flagIf, getLsbD_flagIf, ← Bool.and_or_distrib_right, Bool.and_eq_true, Bool.or_eq_true, isSNaN_iff, isSNaN_iff, fNV_getLsbD, and_comm]
  simp only [Nat.exists_lt_succ_right, Nat.not_lt_zero, false_and, exists_false, false_or]

theorem unpk2PairRules_hold : unpk2PairRules := by
  intro w s gid second g r h
  obtain ⟨hty, -, -, -, -, -, hkind, -⟩ := alu_good (o := 0x072) rfl h.good
  obtain ⟨hbits, hdn⟩ := fpstat_merged (m := r.mask) (f := unpkLane w g) (fun l => (unpkEl_raisesDn hty g l 0).or (unpkEl_raisesDn hty g l 1)) g.fpstat
  refine ⟨_, unpk2_runs h, fun l hl hm => ?_, fun k hk => ?_, ?_⟩
  · refine ⟨?_, fun e _ n m q hfin => (widen_exact hty _).2 n m q hfin⟩
    rw [setLanes_regs, show true = is64 .b64 from rfl, readLane_writeLanes _ _ _ _ _ l hl hm (vxOk_one hkind), if_pos (by rfl)]
    exact BitVec.toNat_ofNat ..
  · rw [setLanes_fpstat, hbits k hk]
    simp only [unpkNv_iff]
    refine or_congr_right ⟨?_, ?_⟩
    · rintro ⟨l, hl, hm, hk4, hnan⟩
      exact ⟨hk4, l, hl, hm, hnan⟩
    · rintro ⟨hk4, l, hl, hm, hnan⟩
      exact ⟨l, hl, hm, hk4, hnan⟩
  · rw [setLanes_fpstat, hdn]
    simp only [Nat.exists_lt_succ_right, Nat.not_lt_zero, false_and, exists_false, false_or]
    rfl

/-! The conversions to a pair, and the seeds. -/

/-- PACK2: DN for either FP32 operand. -/
theorem raisesDn_pack2 (w : Alu) (g : Group) (l : Nat) :
    RaisesDn ((cvt32 w (f32At g w.a l)).2 ||| (cvt32 w (f32At g w.b l)).2)
      ((cvtFF (fmtOf w.ty) false w.rnd w.sat (fDec fmtF32 (f32At g w.a l))).2 ||| (cvtFF (fmtOf w.ty) false w.rnd w.sat (fDec fmtF32 (f32At g w.b l))).2)
      (∃ v ∈ [(fmtF32, f32At g w.a l), (fmtF32, f32At g w.b l)], subnormal v.1 v.2) :=
  ((raisesDn_withFl (cvtFF_dn ..) (raisesDn_dnFlag fmtF32 (f32At g w.a l))).or (raisesDn_withFl (cvtFF_dn ..) (raisesDn_dnFlag fmtF32 (f32At g w.b l)))).congr
    (by simp only [List.exists_mem_cons_iff, List.not_mem_nil, false_and, exists_false, or_false])

/-- A seed of the FP32 operand A. -/
theorem raisesDn_seed (k : Seed) {w : Alu} (hty : w.ty = .f32) (g : Group) (l : Nat) :
    RaisesDn (seed k (encA w g l)).2 (seed k ((srcA w g l).toNat % 2 ^ 32)).2 (∃ v ∈ [(fmtF32, (readLane g.regs .f32 w.a l).toNat % 2 ^ 32)], subnormal v.1 v.2) := by
  have hsrc : srcA w g l = readLane g.regs .f32 w.a l := by rw [srcA, hty]
  have henc : encA w g l = (readLane g.regs .f32 w.a l).toNat % 2 ^ 32 := by rw [encA, hsrc, wF, hty]; rfl
  rw [henc, hsrc]
  exact (seed_raisesDn k _).congr (by simp only [List.mem_singleton, exists_eq_left])

theorem seed_encA (k : Seed) {w : Alu} (hty : w.ty = .f32) (g : Group) (l : Nat) : (seed k (encA w g l)).1 = (seed k ((srcA w g l).toNat % 2 ^ 32)).1 := by
  rw [encA, wF, hty]; rfl

/-- A seed word, of opcode o. -/
theorem seedWord_holds {mk : Alu → Instr} (k : Seed) {o : Nat} {row : AluRow} (hb : ∀ w, bodyOf (mk w) = .alu o w := by exact fun _ => rfl)
    (hexec : ∀ w s, exec (mk w) s = seedWord o k w s := by exact fun _ _ => rfl) (hr : aluRow o = some row := by rfl)
    (htys : row.tys = [.f32] := by rfl) (hd : row.d = kD := by rfl) :
    LaneWordHolds (mk, fun w g l => seed k ((srcA w g l).toNat % 2 ^ 32), fun w g l => [(fmtF32, (readLane g.regs .f32 w.a l).toNat % 2 ^ 32)]) := by
  have hty {w : Alu} (h : w.ty ∈ row.tys) : w.ty = .f32 := List.mem_singleton.1 (htys ▸ h)
  exact laneWord_holds hexec hr (fun w g l h => (toNat_ofNat_mod ..).trans (by rw [seed_encA k (hty h)])) (fun w g l h => raisesDn_seed k (hty h) g l) hb hd

/-- Each word by its flags. -/
theorem packedAndConversionsRules_hold : packedAndConversionsRules := by
  refine List.forall_mem_cons.2 ⟨laneWord_holds (fun _ _ => rfl) rfl (fun _ _ _ _ => toNat_ofNat_mod ..) (fun w g l _ => raisesDn_pk (fun _ => fAdd_dn ..) w g l), ?_⟩
  refine List.forall_mem_cons.2 ⟨laneWord_holds (fun _ _ => rfl) rfl (fun _ _ _ _ => toNat_ofNat_mod ..) (fun w g l _ =>
    raisesDn_pk (x := fun e => fAdd (wF w) w.rnd w.sat (pkV w g w.a l e) (negV (pkV w g w.b l e))) (fun _ => fAdd_dn ..) w g l), ?_⟩
  refine List.forall_mem_cons.2 ⟨laneWord_holds (fun _ _ => rfl) rfl (fun _ _ _ _ => toNat_ofNat_mod ..) (fun w g l _ => raisesDn_pk (fun _ => fMul_dn ..) w g l), ?_⟩
  refine List.forall_mem_cons.2 ⟨laneWord_holds (fun _ _ => rfl) rfl (fun _ _ _ _ => toNat_ofNat_mod ..) (fun w g l _ => raisesDn_pk3 (fun _ => fFma_dn ..) w g l), ?_⟩
  refine List.forall_mem_cons.2 ⟨laneWord_holds (fun _ _ => rfl) rfl (fun _ _ _ _ => toNat_ofNat_mod ..) (fun w g l _ => raisesDn_pk (fun _ => fMinMax_dn ..) w g l), ?_⟩
  refine List.forall_mem_cons.2 ⟨laneWord_holds (fun _ _ => rfl) rfl (fun _ _ _ _ => toNat_ofNat_mod ..) (fun w g l _ => raisesDn_pk (fun _ => fMinMax_dn ..) w g l), ?_⟩
  refine List.forall_mem_cons.2 ⟨laneWord_holds (fun _ _ => rfl) rfl (fun _ _ _ _ => toNat_ofNat_mod ..) (fun w g l _ => raisesDn_pkDot (pkDot_dn ..) w g l _), ?_⟩
  refine List.forall_mem_cons.2 ⟨laneWord_holds (fun _ _ => rfl) rfl (fun _ _ _ _ => rfl) (fun w g l _ => cvt_raisesDn ..), ?_⟩
  refine List.forall_mem_cons.2 ⟨laneWord_holds (fun _ _ => rfl) rfl (fun _ _ _ _ => toNat_ofNat_mod ..) (fun w g l _ => raisesDn_pack2 w g l), ?_⟩
  refine List.forall_mem_cons.2 ⟨seedWord_holds .rsq, ?_⟩
  refine List.forall_mem_cons.2 ⟨seedWord_holds .rcp, ?_⟩
  refine List.forall_mem_cons.2 ⟨seedWord_holds .ex2, ?_⟩
  refine List.forall_mem_cons.2 ⟨seedWord_holds .lg2, ?_⟩
  refine List.forall_mem_cons.2 ⟨seedWord_holds .sin, ?_⟩
  refine List.forall_mem_cons.2 ⟨seedWord_holds .cos, ?_⟩
  exact fun _ hnil => absurd hnil List.not_mem_nil

/-- Settles O15: the words of one result a lane, and UNPK2. -/
theorem packedAndConversions : Obligations.PackedAndConversions := ⟨packedAndConversionsRules_hold, unpk2PairRules_hold⟩

end Sys2Proof.Machine
end


section
/-! SUPPORT of O19 to O22 and O53. Memory words at issue: the lanes that access memory and their addresses, the outcome of their checks, and the operation that
enters the engine (R100, R109 to R111, R129 to R131, R134). -/

namespace Sys2Proof.Machine

variable {s t u : State} {gid : Nat} {second : Bool} {g : Group} {r : Run} {w : Mem} {sp : Space} {ofs : BitVec 32} {n : Need}

/-! Lanes and addresses (R100, R109, R111). -/

theorem mem_effLanes {b : Opnd} {l : Nat} : l ∈ effLanes g r b ↔ effective g r b l := by
  simp [effLanes, mem_lanesOf, effective]

theorem length_effLanes_le (g : Group) (r : Run) (b : Opnd) : (effLanes g r b).length ≤ 64 :=
  (List.length_filter_le ..).trans (List.length_range (n := 64)).le

/-- R100: the sum in `.gl` wraps at 2^64, elsewhere it is exact. -/
theorem formAddr_eq (sp : Space) (base : BitVec 64) (ofs : BitVec 32) : formAddr sp base ofs =
    if sp = .gl then (base.toInt + ofs.toInt) % 2 ^ 64 else (base.toNat % 2 ^ 32 : Nat) + ofs.toInt := by
  unfold formAddr
  split
  · have hwrap : base + ofs.signExtend 64 = BitVec.ofInt 64 (base.toInt + ofs.toInt) := by
      apply BitVec.eq_of_toInt_eq
      rw [BitVec.toInt_add, BitVec.toInt_ofInt, BitVec.toInt_signExtend_of_le (by omega)]
    rw [hwrap, BitVec.toNat_ofInt, Int.toNat_of_nonneg (Int.emod_nonneg _ (by norm_num))]
    norm_num
  · simp [sum33]

theorem laneAddr_eq (g : Group) (sp : Space) (a : Opnd) (ofs : BitVec 32) (l : Nat) : laneAddr g.regs sp a ofs l = addressOf g sp a ofs l := by
  rw [laneAddr, formAddr_eq, addressOf, laneBase]
  split <;> rfl

/-- R99: an address outside `.gl` that passes its checks lies in its space. -/
theorem nonneg_of_checkLane {launch core ctx : Nat} {a : Int} {mt : BitVec 2} {rm : Bool} (h : s.checkLane launch core ctx sp n a = .ok mt rm) (hs : sp ≠ .gl) :
    0 ≤ a := by
  simp only [State.checkLane, hs, if_false] at h
  split at h
  · cases h
  · split at h
    next hpad =>
      unfold State.padOk at hpad
      split at hpad
      · cases hpad
      · omega
    · cases h

theorem formAddr_nonneg_of_checkLane {launch core ctx : Nat} {base : BitVec 64} {mt : BitVec 2} {rm : Bool}
    (h : s.checkLane launch core ctx sp n (formAddr sp base ofs) = .ok mt rm) : 0 ≤ formAddr sp base ofs := by
  by_cases hs : sp = .gl
  · simp only [formAddr, hs, if_true]
    exact Int.natCast_nonneg _
  · exact nonneg_of_checkLane h hs

/-! Probes (R111, R130). -/

/-- What the checks of a lane of a word find. -/
def State.laneChk (s : State) (g : Group) (w : Mem) (ofs : BitVec 32) (n : Need) (l : Nat) : Chk :=
  s.checkLane g.launch (s.grpCore g) g.ctx w.space n (addressOf g w.space w.a ofs l)

/-- The probes of the effective lanes of a word whose checks find `chk`. -/
def laneProbe (g : Group) (w : Mem) (ofs : BitVec 32) (chk : Nat → Chk) (l : Nat) : Probe := { lane := l, addr := addressOf g w.space w.a ofs l, chk := chk l }
def laneProbes (g : Group) (r : Run) (w : Mem) (ofs : BitVec 32) (chk : Nat → Chk) : List Probe := (effLanes g r w.b).map (laneProbe g w ofs chk)

variable {chk : Nat → Chk}

theorem probes_eq (s : State) (g : Group) (r : Run) (w : Mem) (ofs : BitVec 32) (n : Need) :
    s.probes g r w ofs n = laneProbes g r w ofs (s.laneChk g w ofs n) := by
  simp only [State.probes, laneAddr_eq]
  rfl

theorem mem_laneProbes {p : Probe} : p ∈ laneProbes g r w ofs chk ↔ ∃ l, effective g r w.b l ∧ laneProbe g w ofs chk l = p := by
  simp only [laneProbes, List.mem_map, mem_effLanes]

theorem laneProbes_isEmpty_of_effective (h : ∃ l, effective g r w.b l) : (laneProbes g r w ofs chk).isEmpty = false := by
  obtain ⟨l, hl⟩ := h
  rw [List.isEmpty_eq_false_iff]
  exact List.ne_nil_of_mem (mem_laneProbes.2 ⟨l, hl, rfl⟩)

theorem laneProbes_of_no_effective (h : ∀ l, ¬ effective g r w.b l) : laneProbes g r w ofs chk = [] := by
  rw [laneProbes, List.map_eq_nil_iff, List.eq_nil_iff_forall_not_mem]
  exact fun l hl => h l (mem_effLanes.1 hl)

/-! The outcome of the checks (R130, R131, R133). -/

theorem firstFailure_of_ok {ps : List Probe} (h : ∀ p ∈ ps, ∃ mt rm, p.chk = .ok mt rm) : firstFailure ps = none := by
  have hnone : memCauses.find? (fun c => ps.any (fun p => p.chk == .bad c)) = none := by
    refine List.find?_eq_none.2 (fun c _ => ?_)
    rw [List.any_eq_true]
    rintro ⟨p, hp, hbad⟩
    obtain ⟨mt, rm, hok⟩ := h p hp
    rw [hok] at hbad
    cases hbad
  simp only [firstFailure, hnone]

theorem firstPark_of_ok {ps : List Probe} (h : ∀ p ∈ ps, ∃ mt rm, p.chk = .ok mt rm) : firstPark ps = none := by
  refine List.findSome?_eq_none_iff.2 (fun p hp => ?_)
  obtain ⟨mt, rm, hok⟩ := h p hp
  rw [hok]

/-- A word whose lanes all pass their checks goes on. -/
theorem guardMem_of_ok {ps : List Probe} (h : ∀ p ∈ ps, ∃ mt rm, p.chk = .ok mt rm) (go : State → State) : s.guardMem gid second g r ps go = go s := by
  rw [State.guardMem, firstFailure_of_ok h, firstPark_of_ok h]

/-- The earliest cause at which some lane failed, with the lanes that failed at it. -/
theorem firstFailure_of_earliest {ps : List Probe} {k : Nat} {c : Cause} (hk : memCauses[k]? = some c) (hbad : ∃ p ∈ ps, p.chk = .bad c)
    (hearly : ∀ j < k, ∀ d, memCauses[j]? = some d → ∀ p ∈ ps, p.chk ≠ .bad d) :
    ∃ a, firstFailure ps = some (c, maskOf ((ps.filter (fun p => p.chk == .bad c)).map (·.lane)), a) := by
  obtain ⟨hlt, hget⟩ := List.getElem?_eq_some_iff.1 hk
  have hfind : memCauses.find? (fun c => ps.any (fun p => p.chk == .bad c)) = some c := by
    refine List.find?_eq_some_iff_getElem.2 ⟨?_, k, hlt, hget, fun j hj => ?_⟩
    · obtain ⟨p, hp, hpc⟩ := hbad
      exact List.any_eq_true.2 ⟨p, hp, beq_iff_eq.2 hpc⟩
    · have hnot := hearly j hj _ (List.getElem?_eq_getElem (hj.trans hlt))
      simpa using hnot
  exact ⟨_, by simp only [firstFailure, hfind]; rfl⟩

/-- R130, R131: where some lane fails its checks, the outcome of a word of the primary run is the trap of the earliest cause, in exactly the lanes that failed at it. -/
def trapsEarliest (out : Out) (s : State) (gid : Nat) (g : Group) (r : Run) (w : Mem) (ofs : BitVec 32) (n : Need) : Prop :=
  ∀ (k : Nat) (c : Cause), memCauses[k]? = some c → (∃ l, effective g r w.b l ∧ s.laneChk g w ofs n l = .bad c) →
    (∀ j < k, ∀ d, memCauses[j]? = some d → ∀ l, effective g r w.b l → s.laneChk g w ofs n l ≠ .bad d) →
    ∃ tr, out = .next (s.afterTrap gid g tr) ∧ tr.cause = c ∧ tr.deferred = false ∧ tr.wpc = r.pc + BitVec.ofNat 48 (12 * r.idx) ∧ tr.mask = r.mask ∧
      ∀ l < 64, tr.lanes.getLsbD l = true ↔ effective g r w.b l ∧ s.laneChk g w ofs n l = .bad c

theorem groupWord_trapsEarliest {b : Body} {m : Nat} {eff : Nat → Bool → Group → Run → State → State} {x : State} {go : State → State}
    (h : Runs b s gid false g r)
    (he : eff gid false g r s = if (s.probes g r w ofs n).isEmpty then x else s.guardMem gid false g r (s.probes g r w ofs n) go) :
    trapsEarliest (groupWord b m s eff) s gid g r w ofs n := by
  intro k c hk hbad hearly
  obtain ⟨l, hl, hlc⟩ := hbad
  rw [probes_eq, laneProbes_isEmpty_of_effective ⟨l, hl⟩, if_neg Bool.false_ne_true] at he
  obtain ⟨a, hfirst⟩ := firstFailure_of_earliest (ps := laneProbes g r w ofs (s.laneChk g w ofs n)) hk ⟨_, mem_laneProbes.2 ⟨l, hl, rfl⟩, hlc⟩ (fun j hj d hd p hp => by
    obtain ⟨l, hl, rfl⟩ := mem_laneProbes.1 hp
    exact hearly j hj d hd l hl)
  simp only [State.guardMem, hfirst] at he
  rw [State.trapRun_eq s gid g r c _ _ _ _ h.here] at he
  refine ⟨_, (groupWord_stops h (by rw [he]; exact State.grp_setGrp_self ..) (fun _ hr => by cases hr)).trans (congrArg Host.Outcome.next he), rfl, rfl, rfl, rfl,
    fun l hl => ?_⟩
  refine (Bool.eq_iff_iff.1 (getLsbD_maskOf _ l hl)).trans ?_
  simp only [decide_eq_true_eq, List.mem_map, List.mem_filter, beq_iff_eq]
  constructor
  · rintro ⟨p, ⟨hp, hpc⟩, rfl⟩
    obtain ⟨l', hl', rfl⟩ := mem_laneProbes.1 hp
    exact ⟨hl', hpc⟩
  · rintro ⟨hl', hlc'⟩
    exact ⟨_, ⟨mem_laneProbes.2 ⟨l, hl', rfl⟩, hlc'⟩, rfl⟩

end Sys2Proof.Machine
end

section
/-! SUPPORT of O22. The checks of an address outside `.gl`, and the traps of memory words (R99, R100, R111, R130, R131). -/

namespace Sys2Proof.Machine

variable {s : State} {sp : Space} {n : Need} {launch core ctx : Nat} {a : Int}

theorem inRange_iff (a n lo len : Nat) : inRange a n lo len = true ↔ lo ≤ a ∧ a + n ≤ lo + len := by simp [inRange]

/-- The windows that a launch grants hold the bytes of an access (R99, R391). -/
def inWindows (sp : Space) (core : Nat) (l : Launch) (a : Int) (n : Nat) : Prop :=
  (sp = .cr → l.cmbase ≤ core % 24 * 262144 + a ∧ core % 24 * 262144 + a + n ≤ l.cmbase + l.cm) ∧
  (sp = .cm → l.cmbase ≤ a ∧ a + n ≤ l.cmbase + l.cm) ∧ (sp = .ds → l.dsbase ≤ a ∧ a + n ≤ l.dsbase + l.ds)

theorem padOk_iff (hs : sp ≠ .gl) (m : Nat) : s.padOk launch core sp a m = true ↔
    0 ≤ a ∧ a + m ≤ spaceSize sp ∧ (sp = .ln ∨ ∃ l, s.launches.get? launch = some l ∧ inWindows sp core l a m) := by
  by_cases ha : a < 0
  · simp only [State.padOk, ha, if_true, Bool.false_eq_true, false_iff]
    omega
  · obtain ⟨x, rfl⟩ := Int.eq_ofNat_of_zero_le (not_lt.1 ha)
    simp only [State.padOk, ha, if_false, State.launchOf, Bool.and_eq_true, decide_eq_true_eq, Int.toNat_natCast]
    cases sp with
    | gl => exact absurd rfl hs
    | ln => simp; omega
    | cr =>
      cases s.launches.get? launch <;> simp [inWindows, inRange_iff, crBytes]; omega
    | cm => cases s.launches.get? launch <;> simp [inWindows, inRange_iff]; omega
    | ds => cases s.launches.get? launch <;> simp [inWindows, inRange_iff]; omega

theorem scratchpadChecks : scratchpadChecksRules := by
  intro s launch core ctx sp n a hs _
  have hdvd : a % (n.width : Int) ≠ 0 ↔ ¬ (n.width : Int) ∣ a := not_congr Int.dvd_iff_emod_eq_zero.symm
  by_cases hal : (n.width : Int) ∣ a
  · have hchk : s.checkLane launch core ctx sp n a = if s.padOk launch core sp a n.width then .ok 0 false else .bad .space := by
      rw [State.checkLane, if_neg (fun h => hdvd.1 h hal), if_neg hs]
    rw [hchk]
    refine ⟨⟨fun h => ?_, fun h => absurd hal h⟩, fun mt rm => ?_⟩
    · split at h <;> cases h
    · have hpad := padOk_iff (s := s) (launch := launch) (core := core) (a := a) hs n.width
      split
      next hp =>
        obtain ⟨h0, hfits, hwin⟩ := hpad.1 hp
        refine ⟨fun h => ?_, fun ⟨hmt, hrm, _⟩ => by rw [hmt, hrm]⟩
        cases h
        exact ⟨rfl, rfl, hal, h0, hfits, hwin⟩
      next hp => exact ⟨nofun, fun ⟨_, _, _, h0, hfits, hwin⟩ => absurd (hpad.2 ⟨h0, hfits, hwin⟩) hp⟩
  · have hchk : s.checkLane launch core ctx sp n a = .bad .align := by rw [State.checkLane, if_pos (hdvd.2 hal)]
    rw [hchk]
    exact ⟨⟨fun _ => hal, fun _ => rfl⟩, fun mt rm => ⟨nofun, fun h => absurd h.2.2.1 hal⟩⟩

theorem loadWord_traps {opc : Nat} {sx : Bool} {w : Mem} {gid : Nat} {g : Group} {r : Run} (h : Runs (.mem opc w) s gid false g r) :
    trapsEarliest (loadWord opc sx w s) s gid g r w w.imm (needLoad (widthBytes w.width)) := groupWord_trapsEarliest h rfl

theorem execSt_traps {w : Mem} {gid : Nat} {g : Group} {r : Run} (h : Runs (bodyOf (.st w)) s gid false g r) :
    trapsEarliest (execSt w s) s gid g r w w.imm (needStore (widthBytes w.width)) := groupWord_trapsEarliest h rfl

theorem atomWord_traps {opc : Nat} {fn : AtomOp} {w : Mem} {gid : Nat} {g : Group} {r : Run} (h : Runs (.mem opc w) s gid false g r) :
    trapsEarliest (atomWord opc fn w s) s gid g r w (atomOfs w) (needAtom (widthBytes w.width)) := groupWord_trapsEarliest h rfl

theorem memoryWordsTrap : memoryTrapsRules := by
  unfold memoryTrapsRules
  simp only [List.forall_mem_cons]
  exact ⟨fun w s gid g r h => loadWord_traps h, fun w s gid g r h => loadWord_traps h, fun w s gid g r h => execSt_traps h,
    fun w s gid g r h => atomWord_traps h, fun w s gid g r h => atomWord_traps h, fun w s gid g r h => atomWord_traps h,
    fun w s gid g r h => atomWord_traps h, fun w s gid g r h => atomWord_traps h, fun w s gid g r h => atomWord_traps h,
    fun w s gid g r h => atomWord_traps h, fun w s gid g r h => atomWord_traps h, fun w s gid g r h => atomWord_traps h, nofun⟩

/-- Settles O22: the checks of an address outside `.gl`, and the words whose effective lanes fail theirs. -/
theorem memoryTraps : Obligations.MemoryTraps := ⟨scratchpadChecks, memoryWordsTrap⟩

end Sys2Proof.Machine
end

section
/-! SUPPORT of O19 to O21 and O53. The operation of a memory word enters the engine (R24, R110, R111, R129, R134). -/

namespace Sys2Proof.Machine

variable {b : Body} {m : Nat} {s t u : State} {eff : Nat → Bool → Group → Run → State → State} {gid : Nat} {second : Bool} {g : Group} {r : Run} {w : Mem}
  {op : MemOp}

/-! Operations (R24, R129). -/

/-- A group one of whose operations has been issued: its class counts one more. -/
def MemOp.issued (o : MemOp) (g : Group) : Group :=
  { g with loads := g.loads + (if isLoadKind o.kind then 1 else 0), stores := g.stores + (if isStoreKind o.kind then 1 else 0) }

theorem State.pushOp_frame (s : State) (gid : Nat) (op : MemOp) : (s.pushOp gid op).ops = s.ops.set s.fresh op ∧
    (s.pushOp gid op).groups = s.groups.modify gid op.issued ∧ (s.pushOp gid op).mems = s.mems ∧ (s.pushOp gid op).store = s.store := by
  unfold State.pushOp
  dsimp only
  split
  · split <;> exact ⟨rfl, rfl, rfl, rfl⟩
  · exact ⟨rfl, rfl, rfl, rfl⟩

/-- Operation `op`, under the next number of `u`, is in the engine and counts in its class; the run stands at the next word, or, where the operation releases
at `.di` or wider, waits for
its publication's log space. -/
structure Entered (t u : State) (gid : Nat) (second : Bool) (g : Group) (r : Run) (op : MemOp) : Prop where
  ops : t.ops = u.ops.set u.fresh op
  grp : t.grp gid = some (if relWide op then (op.issued g).setRun second (some { r with wait := .release u.fresh }) else (op.issued g).moved second 1)
  mems : t.mems = u.mems
  store : t.store = u.store

theorem groupWord_enters (h : Runs b s gid second g r) (hu : u.grp gid = some g) (he : eff gid second g r s = u.pushWord gid second op) :
    ∃ t, groupWord b 1 s eff = .next t ∧ Entered t u gid second g r op := by
  obtain ⟨hops, hgroups, hmems, hstore⟩ := u.pushOp_frame gid op
  have hpush : (u.pushOp gid op).grp gid = some (op.issued g) :=
    (congrArg (fun m : FMap Group => m.get? gid) hgroups).trans (State.grp_modGrp op.issued hu)
  have hrun : (op.issued g).runOn second = some r := by cases second <;> exact h.run
  cases hrel : relWide op with
  | true =>
    have hwait : u.pushWord gid second op = (u.pushOp gid op).setGrp gid ((op.issued g).setRun second (some { r with wait := .release u.fresh })) := by
      rw [State.pushWord, hrel, if_pos rfl, State.modRun_eq _ hpush hrun]
    rw [hwait] at he
    refine ⟨_, groupWord_stops h (by rw [he]; exact State.grp_setGrp_self ..) (fun r' hr => ?_), ?_⟩
    · rw [Group.setRun_runOn] at hr
      cases hr
      exact nofun
    · rw [he]
      exact ⟨hops, (State.grp_setGrp_self ..).trans (by rw [hrel, if_pos rfl]), hmems, hstore⟩
  | false =>
    have hgo : u.pushWord gid second op = u.pushOp gid op := by rw [State.pushWord, hrel, if_neg Bool.false_ne_true]
    rw [hgo] at he
    refine ⟨_, groupWord_runs h eff (op.issued g) r (by rw [he]; exact hpush) hrun h.free, ?_⟩
    rw [he, State.advance_eq hpush]
    exact ⟨hops, (State.grp_setGrp_self ..).trans (by rw [hrel, if_neg Bool.false_ne_true]), hmems, hstore⟩

/-- The operation of a word that releases nothing at `.di` or wider: the run has moved on. -/
theorem Entered.grp_moved (h : Entered t u gid second g r op) (hrel : relWide op = false) : t.grp gid = some ((op.issued g).moved second 1) := by
  rw [h.grp, hrel, if_neg Bool.false_ne_true]

theorem relWide_of_isRel (h : isRel op.order = false) : relWide op = false := by simp [relWide, h]

/-! The parts of an operation (R110, R111). -/

variable {ofs : BitVec 32} {n : Need} {chk : Nat → Chk} {data : Nat → Nat}

/-- The parts of a word whose effective lanes' checks find `chk` and whose data in a lane is `data`. -/
def laneParts (g : Group) (r : Run) (w : Mem) (ofs : BitVec 32) (chk : Nat → Chk) (data : Nat → Nat) : List Part :=
  (laneProbes g r w ofs chk).map (fun p => partOf p (data p.lane))

theorem mem_laneParts {x : Part} : x ∈ laneParts g r w ofs chk data ↔ ∃ l, effective g r w.b l ∧ partOf (laneProbe g w ofs chk l) (data l) = x := by
  simp only [laneParts, laneProbes, List.map_map, List.mem_map, mem_effLanes]
  rfl

theorem length_laneParts_le (g : Group) (r : Run) (w : Mem) (ofs : BitVec 32) (chk : Nat → Chk) (data : Nat → Nat) :
    (laneParts g r w ofs chk data).length ≤ 64 := by
  rw [laneParts, laneProbes, List.length_map, List.length_map]
  exact length_effLanes_le ..

theorem partOf_fields (p : Probe) (d : Nat) : (partOf p d).lane = p.lane ∧ (partOf p d).addr = p.addr.toNat ∧ (partOf p d).data = BitVec.ofNat 256 d ∧
    (partOf p d).served = false := by
  unfold partOf
  split
  all_goals exact ⟨rfl, rfl, rfl, rfl⟩

theorem partOf_mt {p : Probe} {mt : BitVec 2} {rm : Bool} (h : p.chk = .ok mt rm) (d : Nat) : (partOf p d).mt = mt := by rw [partOf, h]

/-- One part for each effective lane, with its address and its data. -/
theorem parts_of_word (hp : op.parts = laneParts g r w ofs chk data) (hnonneg : ∀ l, effective g r w.b l → 0 ≤ addressOf g w.space w.a ofs l) :
    (∀ l, (∃ x ∈ op.parts, x.lane = l) ↔ effective g r w.b l) ∧
      ∀ x ∈ op.parts, (x.addr : Int) = addressOf g w.space w.a ofs x.lane ∧ x.served = false ∧ x.data = BitVec.ofNat 256 (data x.lane) := by
  simp only [hp, mem_laneParts]
  refine ⟨fun l => ⟨?_, fun hl => ?_⟩, ?_⟩
  · rintro ⟨x, ⟨l', hl', rfl⟩, hx⟩
    obtain ⟨hlane, -⟩ := partOf_fields (laneProbe g w ofs chk l') (data l')
    rw [hlane] at hx
    exact hx ▸ hl'
  · obtain ⟨hlane, -⟩ := partOf_fields (laneProbe g w ofs chk l) (data l)
    exact ⟨_, ⟨l, hl, rfl⟩, hlane⟩
  · rintro x ⟨l, hl, rfl⟩
    obtain ⟨hlane, haddr, hdata, hserved⟩ := partOf_fields (laneProbe g w ofs chk l) (data l)
    rw [hlane, haddr, hdata, hserved]
    exact ⟨Int.toNat_of_nonneg (hnonneg l hl), rfl, rfl⟩

theorem addressOf_nonneg {l : Nat} (h : ∃ mt rm, s.laneChk g w ofs n l = .ok mt rm) : 0 ≤ addressOf g w.space w.a ofs l := by
  obtain ⟨mt, rm, hchk⟩ := h
  rw [State.laneChk, ← laneAddr_eq] at hchk
  rw [← laneAddr_eq]
  exact formAddr_nonneg_of_checkLane hchk

/-- Lanes that pass their checks, none of them on an SO page. -/
theorem ok_of_soft (h : ∀ l, effective g r w.b l → ∃ mt rm, chk l = .ok mt rm ∧ mt ≠ 3) : ∀ l, effective g r w.b l → ∃ mt rm, chk l = .ok mt rm := fun l hl =>
  let ⟨mt, rm, hchk, _⟩ := h l hl
  ⟨mt, rm, hchk⟩

/-- A per-lane word whose lanes pass their checks goes on. -/
theorem laneProbes_go {x : State} {go : State → State} (hl : ∃ l, effective g r w.b l) (hok : ∀ l, effective g r w.b l → ∃ mt rm, chk l = .ok mt rm) :
    (if (laneProbes g r w ofs chk).isEmpty then x else s.guardMem gid second g r (laneProbes g r w ofs chk) go) = go s := by
  rw [laneProbes_isEmpty_of_effective hl, if_neg Bool.false_ne_true, guardMem_of_ok]
  intro p hp
  obtain ⟨l, hl, rfl⟩ := mem_laneProbes.1 hp
  exact hok l hl

/-! SO pages (Table 4-3). -/

theorem hasSo_laneParts (hok : ∀ l, effective g r w.b l → ∃ mt rm, chk l = .ok mt rm) : hasSo (laneParts g r w ofs chk data) = true ↔
    ∃ l rm, effective g r w.b l ∧ chk l = .ok 3 rm := by
  simp only [hasSo, List.any_eq_true, mem_laneParts, beq_iff_eq]
  constructor
  · rintro ⟨x, ⟨l, hl, rfl⟩, hx⟩
    obtain ⟨mt, rm, hchk⟩ := hok l hl
    rw [partOf_mt (p := laneProbe g w ofs chk l) hchk] at hx
    exact ⟨l, rm, hl, hx ▸ hchk⟩
  · rintro ⟨l, rm, hl, hchk⟩
    exact ⟨_, ⟨l, hl, rfl⟩, partOf_mt (p := laneProbe g w ofs chk l) hchk _⟩

theorem hasSo_laneParts_of_soft (hok : ∀ l, effective g r w.b l → ∃ mt rm, chk l = .ok mt rm ∧ mt ≠ 3) : hasSo (laneParts g r w ofs chk data) = false := by
  refine Bool.eq_false_iff.2 (fun h => ?_)
  obtain ⟨l, rm, hl, hchk⟩ := (hasSo_laneParts (ok_of_soft hok)).1 h
  obtain ⟨mt, rm', hchk', hmt⟩ := hok l hl
  rw [hchk] at hchk'
  cases hchk'
  exact hmt rfl

theorem soWord_of_no {ps : List Part} {go : State → State} (h : hasSo ps = false) : s.soWord gid second r ps go = go s := by
  simp only [State.soWord, h]
  rfl

/-- A word that only has its run wait. -/
theorem groupWord_holds {f : Run → Run} (h : Runs b s gid second g r) (he : eff gid second g r s = s.modRun gid second f) (hf : (f r).wait ≠ .none) :
    groupWord b 1 s eff = .next (s.setGrp gid (g.setRun second (some (f r)))) := by
  have hrun : eff gid second g r s = s.setGrp gid (g.setRun second (some (f r))) := he.trans (State.modRun_eq f h.here h.run)
  rw [groupWord_stops h (by rw [hrun]; exact State.grp_setGrp_self ..) (fun r' hr => ?_), hrun]
  rw [Group.setRun_runOn] at hr
  cases hr
  exact hf

/-- R127, Table 4-3: the run first waits for a FENCE.sc.pk. -/
def Run.beforeSo (n : Nat) (r : Run) : Run := { r with wait := .fence .pk n none true 1 }

theorem groupWord_beforeSo {ps : List Part} {go : State → State} (h : Runs b s gid second g r) (hso : hasSo ps = true) (hdone : r.soDone = false)
    (he : eff gid second g r s = s.soWord gid second r ps go) : groupWord b 1 s eff = .next (s.setGrp gid (g.setRun second (some (r.beforeSo s.fresh)))) := by
  refine groupWord_holds (f := Run.beforeSo s.fresh) h (he.trans ?_) nofun
  simp only [State.soWord, hso, hdone]
  rfl

end Sys2Proof.Machine
end

section
/-! SUPPORT of O19. Loads at issue (R110 to R114, R129). -/

namespace Sys2Proof.Machine

variable {s : State} {gid opc : Nat} {second sx : Bool} {g : Group} {r : Run} {w : Mem}

theorem isRel_of_mem {os : List Order} (h : orderOk os w = true) (hos : ∀ o ∈ os, isRel o = false) : isRel w.order = false := by
  simp only [orderOk, Bool.and_eq_true, decide_eq_true_eq] at h
  exact hos _ h.1

/-- R112: no load is a release. -/
theorem load_order (ho : opc = 0x100 ∨ opc = 0x101 ∨ opc = 0x106) (h : (Body.mem opc w).good = true) : isRel w.order = false := by
  have hos : orderOk [.rlx, .acq] w = true := by
    rcases ho with rfl | rfl | rfl
    all_goals
      simp [Body.good, Body.shape, memShape, memShapeLs, Shape.good] at h
      tauto
  exact isRel_of_mem hos (by decide)

/-- The parts, and the operation, of a per-lane load. -/
def State.loadParts (s : State) (g : Group) (r : Run) (w : Mem) : List Part :=
  laneParts g r w w.imm (s.laneChk g w w.imm (needLoad (widthBytes w.width))) (fun _ => 0)
def State.loadOp (s : State) (gid : Nat) (g : Group) (r : Run) (sx : Bool) (w : Mem) : MemOp := s.newOp gid r (.ld sx) w (vReg w.d) (s.loadParts g r w)

theorem loadWord_goes (hl : ∃ l, effective g r w.b l)
    (hok : ∀ l, effective g r w.b l → ∃ mt rm, s.laneChk g w w.imm (needLoad (widthBytes w.width)) l = .ok mt rm) :
    ∃ eff, loadWord opc sx w s = groupWord (.mem opc w) 1 s eff ∧ eff gid second g r s =
      s.soWord gid second r (s.loadParts g r w) (fun u => u.pushWord gid second (u.newOp gid r (.ld sx) w (vReg w.d) (s.loadParts g r w))) := by
  refine ⟨_, rfl, ?_⟩
  dsimp only
  rw [probes_eq]
  exact laneProbes_go hl hok

theorem loadWord_enters (h : Runs (.mem opc w) s gid second g r) (hl : ∃ l, effective g r w.b l)
    (hok : ∀ l, effective g r w.b l → ∃ mt rm, s.laneChk g w w.imm (needLoad (widthBytes w.width)) l = .ok mt rm ∧ mt ≠ 3) :
    ∃ t, loadWord opc sx w s = .next t ∧ Entered t s gid second g r (s.loadOp gid g r sx w) := by
  obtain ⟨eff, hx, he⟩ := loadWord_goes (opc := opc) (sx := sx) (gid := gid) (second := second) hl (ok_of_soft hok)
  rw [hx]
  exact groupWord_enters h h.here (he.trans (soWord_of_no (hasSo_laneParts_of_soft hok)))

/-- A load of an SO page. -/
theorem loadWord_beforeSo (h : Runs (.mem opc w) s gid second g r)
    (hok : ∀ l, effective g r w.b l → ∃ mt rm, s.laneChk g w w.imm (needLoad (widthBytes w.width)) l = .ok mt rm)
    (hso : ∃ l rm, effective g r w.b l ∧ s.laneChk g w w.imm (needLoad (widthBytes w.width)) l = .ok 3 rm) (hdone : r.soDone = false) :
    loadWord opc sx w s = .next (s.setGrp gid (g.setRun second (some (r.beforeSo s.fresh)))) := by
  have hl : ∃ l, effective g r w.b l := hso.imp (fun _ h => let ⟨_, hl, _⟩ := h; hl)
  obtain ⟨eff, hx, he⟩ := loadWord_goes (opc := opc) (sx := sx) (gid := gid) (second := second) hl hok
  rw [hx]
  exact groupWord_beforeSo h ((hasSo_laneParts hok).2 hso) hdone he

/-! LDS (R114). -/

/-- What the checks of an LDS find. -/
def State.ldsChk (s : State) (g : Group) (w : Mem) : Chk :=
  s.checkLane g.launch (s.grpCore g) g.ctx w.space (needLoad (widthBytes w.width)) (formAddr w.space (readGr g.regs w.a) w.imm)

/-- The part, and the operation, of an LDS. -/
def State.ldsPart (s : State) (g : Group) (w : Mem) : Part :=
  partOf { lane := 64, addr := formAddr w.space (readGr g.regs w.a) w.imm, chk := s.ldsChk g w } 0
def State.ldsOp (s : State) (gid : Nat) (g : Group) (r : Run) (w : Mem) : MemOp := s.newOp gid r .lds w (gReg w.d) [s.ldsPart g w]

/-- The effect of an LDS that passes its checks. -/
theorem execLds_goes {mt : BitVec 2} {rm : Bool} (hchk : s.ldsChk g w = .ok mt rm) : ∃ eff, execLds w s = groupWord (.mem 0x101 w) 1 s eff ∧
    eff gid second g r s = s.soWord gid second r [s.ldsPart g w] (fun u => u.pushWord gid second (u.newOp gid r .lds w (gReg w.d) [s.ldsPart g w])) := by
  refine ⟨_, rfl, ?_⟩
  have hpart : s.ldsPart g w = partOf { lane := 64, addr := formAddr w.space (readGr g.regs w.a) w.imm, chk := .ok mt rm } 0 := by rw [State.ldsPart, hchk]
  rw [hpart]
  rw [State.ldsChk] at hchk
  simp only [hchk]

theorem ldsPart_mt {mt : BitVec 2} {rm : Bool} (hchk : s.ldsChk g w = .ok mt rm) : hasSo [s.ldsPart g w] = decide (mt = 3) := by
  simp only [hasSo, List.any_cons, List.any_nil, Bool.or_false, State.ldsPart, partOf, hchk]
  rfl

theorem execLds_enters {mt : BitVec 2} {rm : Bool} (h : Runs (bodyOf (.lds w)) s gid second g r) (hchk : s.ldsChk g w = .ok mt rm) (hmt : mt ≠ 3) :
    ∃ t, execLds w s = .next t ∧ Entered t s gid second g r (s.ldsOp gid g r w) := by
  obtain ⟨eff, hx, he⟩ := execLds_goes (gid := gid) (second := second) (r := r) hchk
  have hso : hasSo [s.ldsPart g w] = false := by rw [ldsPart_mt hchk, decide_eq_false hmt]
  rw [hx]
  exact groupWord_enters h h.here (he.trans (soWord_of_no hso))

theorem execLds_beforeSo {rm : Bool} (h : Runs (bodyOf (.lds w)) s gid second g r) (hchk : s.ldsChk g w = .ok 3 rm) (hdone : r.soDone = false) :
    execLds w s = .next (s.setGrp gid (g.setRun second (some (r.beforeSo s.fresh)))) := by
  obtain ⟨eff, hx, he⟩ := execLds_goes (gid := gid) (second := second) (r := r) hchk
  rw [hx]
  exact groupWord_beforeSo h (ldsPart_mt hchk) hdone he

theorem ldsPart_addr {mt : BitVec 2} {rm : Bool} (hchk : s.ldsChk g w = .ok mt rm) : ((s.ldsPart g w).addr : Int) = formAddr w.space (readGr g.regs w.a) w.imm := by
  obtain ⟨-, haddr, -⟩ := partOf_fields { lane := 64, addr := formAddr w.space (readGr g.regs w.a) w.imm, chk := s.ldsChk g w } 0
  rw [State.ldsPart, haddr]
  exact Int.toNat_of_nonneg (formAddr_nonneg_of_checkLane hchk)

/-- Settles O19: the per-lane loads by one lemma for both opcodes, and LDS. -/
theorem loadWords : Obligations.LoadWords := by
  have lanes {opc : Nat} {sx : Bool} (ho : opc = 0x100 ∨ opc = 0x106) {w : Mem} {s : State} {gid : Nat} {second : Bool} {g : Group} {r : Run}
      (h : Runs (.mem opc w) s gid second g r) (hl : ∃ l, effective g r w.b l)
      (hok : ∀ l, effective g r w.b l → ∃ mt rm, s.laneChk g w w.imm (needLoad (widthBytes w.width)) l = .ok mt rm ∧ mt ≠ 3) :
      ∃ t o, loadWord opc sx w s = .next t ∧ t.ops = s.ops.set s.fresh o ∧ o.gid = gid ∧ o.kind = .ld sx ∧ o.space = w.space ∧
        o.width = widthBytes w.width ∧ o.dest = vReg w.d ∧ (∀ l, (∃ x ∈ o.parts, x.lane = l) ↔ effective g r w.b l) ∧
        (∀ x ∈ o.parts, (x.addr : Int) = addressOf g w.space w.a w.imm x.lane ∧ x.served = false) ∧
        t.grp gid = some ({ g with loads := g.loads + 1 }.moved second 1) ∧ t.mems = s.mems ∧ t.store = s.store := by
    obtain ⟨t, ht, hin⟩ := loadWord_enters (sx := sx) h hl hok
    have hrel : isRel w.order = false := load_order (ho.imp_right .inr) h.good
    obtain ⟨hlanes, hparts⟩ := parts_of_word (op := s.loadOp gid g r sx w) (data := fun _ => 0) rfl (fun l hl => addressOf_nonneg (ok_of_soft hok l hl))
    refine ⟨t, _, ht, hin.ops, rfl, rfl, rfl, rfl, rfl, hlanes, fun x hx => ?_, hin.grp_moved (relWide_of_isRel hrel), hin.mems, hin.store⟩
    obtain ⟨haddr, hserved, -⟩ := hparts x hx
    exact ⟨haddr, hserved⟩
  refine ⟨?_, fun w s gid second g r mt rm h hchk => ?_⟩
  · simp only [List.forall_mem_cons]
    exact ⟨fun w s gid second g r h hl => ⟨lanes (.inl rfl) h hl, loadWord_beforeSo h⟩, fun w s gid second g r h hl => ⟨lanes (.inr rfl) h hl, loadWord_beforeSo h⟩,
      nofun⟩
  · have haddr : formAddr w.space (readGr g.regs w.a) w.imm = if w.space = .gl then ((g.regs.greg (gReg w.a)).toInt + w.imm.toInt) % 2 ^ 64
      else ((g.regs.greg (gReg w.a)).toNat % 2 ^ 32 : Nat) + w.imm.toInt := formAddr_eq ..
    have hchk' : s.ldsChk g w = .ok mt rm := by rw [State.ldsChk, haddr]; exact hchk
    refine ⟨fun hmt => ?_, fun hmt hdone => ?_⟩
    · obtain ⟨t, ht, hin⟩ := execLds_enters h hchk' hmt
      have hrel : isRel w.order = false := load_order (.inr (.inl rfl)) h.good
      exact ⟨t, _, s.ldsPart g w, ht, hin.ops, rfl, rfl, rfl, rfl, rfl, (ldsPart_addr hchk').trans haddr, hin.grp_moved (relWide_of_isRel hrel), hin.mems, hin.store⟩
    · exact execLds_beforeSo h (hmt ▸ hchk') hdone

end Sys2Proof.Machine
end

section
/-! SUPPORT of O20 and O53. Atomics at issue (R120, R121, R129, R134). -/

namespace Sys2Proof.Machine

variable {s u : State} {gid opc n : Nat} {second : Bool} {g : Group} {r : Run} {w : Mem} {fn : AtomOp}

/-! A promise of log space (R134) touches the logs and the stacks' pools alone. -/

/-- What a promise keeps. -/
structure KeptByPromise (s u : State) : Prop where
  fresh : u.fresh = s.fresh
  ops : u.ops = s.ops
  groups : u.groups = s.groups
  mems : u.mems = s.mems
  leaves : u.store.leaves = s.store.leaves
  recs : u.store.recs = s.store.recs

theorem State.promise_keeps {log : Nat} (h : s.promise log n = some u) : KeptByPromise s u := by
  unfold State.promise at h
  dsimp only at h
  split at h
  · cases h
    exact ⟨rfl, rfl, rfl, rfl, rfl, rfl⟩
  · split at h
    · cases h
      exact ⟨rfl, rfl, rfl, rfl, rfl, rfl⟩
    · split at h
      · cases h
      · cases h
        exact ⟨rfl, rfl, rfl, rfl, rfl, rfl⟩

theorem length_bufKeys_le (ctx : Nat) (ps : List Part) : (bufKeys ctx ps).length ≤ ps.length := by
  rw [bufKeys]
  refine (List.dedup_sublist _).length_le.trans ?_
  rw [List.length_map]
  exact List.length_filter_le ..

/-- The open batch takes every line of a word, and the log can promise a record for each of its lanes. -/
def State.atomRoom (s : State) (cl : Nat) : Prop :=
  (∀ ks : List Nat, ks.length ≤ 64 → s.batchRoom cl ks (s.pendingLines cl) = true) ∧ ∀ n ≤ 576, (s.promise cl n).isSome = true

theorem atomGuard_of_room {ps : List Part} {go : State → State} (hps : ps.length ≤ 64) (hroom : s.atomRoom (s.grpCluster g)) :
    ∃ u, KeptByPromise s u ∧ s.atomGuard gid second g ps go = go u := by
  obtain ⟨hbatch, hpromise⟩ := hroom
  have hremote := List.length_filter_le (fun x : Part => !x.remote) ps
  obtain ⟨u, hu⟩ := Option.isSome_iff_exists.1 (hpromise (9 * (ps.filter (fun x => !x.remote)).length) (by omega))
  refine ⟨u, State.promise_keeps hu, ?_⟩
  simp only [State.atomGuard, hbatch _ ((length_bufKeys_le ..).trans hps), hu, if_true]

/-! The operation of an atomic. -/

/-- The parts of an atomic, checked in `s`, and its operation, numbered in `u`, where its log space has been promised. -/
def State.atomParts (s : State) (g : Group) (r : Run) (w : Mem) : List Part :=
  laneParts g r w (atomOfs w) (s.laneChk g w (atomOfs w) (needAtom (widthBytes w.width))) (atomData g w (widthBytes w.width))
def State.atomOp (u s : State) (gid : Nat) (g : Group) (r : Run) (fn : AtomOp) (w : Mem) : MemOp :=
  u.newOp gid r (.atom fn (atomSgn w) (!isC7 w.d)) w (vReg w.d) (s.atomParts g r w)

theorem atomWord_enters (h : Runs (.mem opc w) s gid second g r) (hl : ∃ l, effective g r w.b l)
    (hok : ∀ l, effective g r w.b l → ∃ mt rm, s.laneChk g w (atomOfs w) (needAtom (widthBytes w.width)) l = .ok mt rm)
    (hroom : w.space = .gl → s.atomRoom (s.grpCluster g)) : ∃ t u, atomWord opc fn w s = .next t ∧ KeptByPromise s u ∧ (w.space ≠ .gl → u = s) ∧
      Entered t u gid second g r (u.atomOp s gid g r fn w) := by
  let go (u : State) : State := u.pushWord gid second (u.atomOp s gid g r fn w)
  have heff : ∃ eff, atomWord opc fn w s = groupWord (.mem opc w) 1 s eff ∧
      eff gid second g r s = if w.space = .gl then s.atomGuard gid second g (s.atomParts g r w) go else go s := by
    refine ⟨_, rfl, ?_⟩
    dsimp only
    rw [probes_eq]
    exact laneProbes_go hl hok
  obtain ⟨eff, hx, he⟩ := heff
  have hgo : ∃ u, KeptByPromise s u ∧ (w.space ≠ .gl → u = s) ∧ eff gid second g r s = go u := by
    by_cases hs : w.space = .gl
    · obtain ⟨u, hkept, hguard⟩ := atomGuard_of_room (gid := gid) (second := second) (go := go) (length_laneParts_le ..) (hroom hs)
      exact ⟨u, hkept, fun hn => absurd hs hn, by rw [he, if_pos hs]; exact hguard⟩
    · exact ⟨s, ⟨rfl, rfl, rfl, rfl, rfl, rfl⟩, fun _ => rfl, by rw [he, if_neg hs]⟩
  obtain ⟨u, hkept, hsame, he⟩ := hgo
  have hu : u.grp gid = some g := (congrArg (fun m : FMap Group => m.get? gid) hkept.groups).trans h.here
  obtain ⟨t, ht, hin⟩ := groupWord_enters h hu he
  exact ⟨t, u, hx.trans ht, hkept, hsame, hin⟩

theorem issued_of_atom {o : MemOp} {sgn ret : Bool} (hk : o.kind = .atom fn sgn ret) (g : Group) :
    o.issued g = if ret then { g with loads := g.loads + 1 } else { g with stores := g.stores + 1 } := by
  cases ret
  · simp [MemOp.issued, hk, isLoadKind, isStoreKind]
  · simp [MemOp.issued, hk, isLoadKind, isStoreKind]

/-- R120: an atomic whose D is c7 returns nothing, and counts as a store. -/
theorem issued_atomOp (u s : State) (gid : Nat) (g : Group) (r : Run) (fn : AtomOp) (w : Mem) :
    (u.atomOp s gid g r fn w).issued g = if w.d = Opnd.sp 7 then { g with stores := g.stores + 1 } else { g with loads := g.loads + 1 } := by
  have hret : (!isC7 w.d) = true ↔ ¬ w.d = Opnd.sp 7 := by simp [isC7]
  rw [issued_of_atom (o := u.atomOp s gid g r fn w) rfl, if_congr hret rfl rfl, ite_not]

/-- Settles O20: one lemma for the nine opcodes. -/
theorem atomicWords : Obligations.AtomicWords := by
  have word {opc : Nat} {fn : AtomOp} {w : Mem} {s : State} {gid : Nat} {second : Bool} {g : Group} {r : Run} (h : Runs (.mem opc w) s gid second g r)
      (hl : ∃ l, effective g r w.b l) (hok : ∀ l, effective g r w.b l → ∃ mt rm, s.laneChk g w (atomOfs w) (needAtom (widthBytes w.width)) l = .ok mt rm)
      (hroom : w.space = .gl → s.atomRoom (s.grpCluster g)) : ∃ t o, atomWord opc fn w s = .next t ∧ t.ops = s.ops.set s.fresh o ∧ o.gid = gid ∧
        o.kind = .atom fn (w.imm.getLsbD 10) (decide (w.d ≠ Opnd.sp 7)) ∧ o.space = w.space ∧ o.width = widthBytes w.width ∧ o.dest = vReg w.d ∧
        (∀ l, (∃ x ∈ o.parts, x.lane = l) ↔ effective g r w.b l) ∧ (∀ x ∈ o.parts, (x.addr : Int) = addressOf g w.space w.a (atomOfs w) x.lane) ∧
        t.grp gid = some (entered s (if w.d = Opnd.sp 7 then { g with stores := g.stores + 1 } else { g with loads := g.loads + 1 }) second r w) ∧
        t.mems = s.mems ∧ t.store.leaves = s.store.leaves ∧ t.store.recs = s.store.recs ∧ (w.space ≠ .gl → t.store = s.store) := by
    obtain ⟨t, u, ht, hkept, hsame, hin⟩ := atomWord_enters (fn := fn) h hl hok hroom
    obtain ⟨hlanes, hparts⟩ := parts_of_word (op := u.atomOp s gid g r fn w) (data := atomData g w (widthBytes w.width)) rfl
      (fun l hl => addressOf_nonneg (hok l hl))
    have hret : (!isC7 w.d) = decide (w.d ≠ Opnd.sp 7) := (decide_not ..).symm
    have hgrp := hin.grp
    rw [issued_atomOp, hkept.fresh] at hgrp
    refine ⟨t, _, ht, by rw [hin.ops, hkept.ops, hkept.fresh], rfl, by rw [← hret]; rfl, rfl, rfl, rfl, hlanes, fun x hx => ?_, hgrp,
      hin.mems.trans hkept.mems, by rw [hin.store, hkept.leaves], by rw [hin.store, hkept.recs], fun hs => by rw [hin.store, hsame hs]⟩
    obtain ⟨haddr, -, -⟩ := hparts x hx
    exact haddr
  unfold Obligations.AtomicWords
  simp only [List.forall_mem_cons]
  exact ⟨fun w s gid second g r h => word h, fun w s gid second g r h => word h, fun w s gid second g r h => word h, fun w s gid second g r h => word h,
    fun w s gid second g r h => word h, fun w s gid second g r h => word h, fun w s gid second g r h => word h, fun w s gid second g r h => word h,
    fun w s gid second g r h => word h, nofun⟩

end Sys2Proof.Machine
end

section
/-! SUPPORT of O21 and O53. Stores, SEND, PREF and FENCE at issue (R111, R115, R117, R119, R127, R129). -/

namespace Sys2Proof.Machine

variable {b : Body} {s : State} {eff : Nat → Bool → Group → Run → State → State} {gid opc : Nat} {second : Bool} {g : Group} {r : Run} {w : Mem}

/-! Data registers (R110). -/

theorem widthBytes_le (wd : Width) : widthBytes wd ≤ 16 := by cases wd <;> decide

theorem readData_lt (rg : Regs) (d : Opnd) (n l : Nat) : readData rg d n l < 2 ^ (8 * n) := Nat.mod_lt _ (Nat.two_pow_pos _)

/-- A part holds all of a lane's data. -/
theorem toNat_ofNat_readData (rg : Regs) (d : Opnd) (wd : Width) (l : Nat) :
    (BitVec.ofNat 256 (readData rg d (widthBytes wd) l)).toNat = readData rg d (widthBytes wd) l := by
  rw [BitVec.toNat_ofNat]
  refine Nat.mod_eq_of_lt ((readData_lt ..).trans_le (Nat.pow_le_pow_right (by omega) ?_))
  have := widthBytes_le wd
  omega

/-! ST (R115). -/

/-- The parts, and the operation, of a store. -/
def State.storeParts (s : State) (g : Group) (r : Run) (w : Mem) : List Part :=
  laneParts g r w w.imm (s.laneChk g w w.imm (needStore (widthBytes w.width))) (readData g.regs w.d (widthBytes w.width))
def State.storeOp (s : State) (gid : Nat) (g : Group) (r : Run) (w : Mem) : MemOp := s.newOp gid r .st w 0 (s.storeParts g r w)

/-- A cluster's log has room for the lines of a store (R134). -/
def State.storeRoom (s : State) (cl : Nat) : Prop := ∀ ks : List Nat, ks.length ≤ 64 → s.canAccept cl ks (s.pendingLines cl) = true

theorem logGuard_of_room {ks : List Nat} {go : State → State} (h : s.canAccept (s.grpCluster g) ks (s.pendingLines (s.grpCluster g)) = true) :
    s.logGuard gid second g ks go = go s := by
  simp only [State.logGuard, h, if_true]

theorem execSt_enters (h : Runs (bodyOf (.st w)) s gid second g r) (hl : ∃ l, effective g r w.b l)
    (hok : ∀ l, effective g r w.b l → ∃ mt rm, s.laneChk g w w.imm (needStore (widthBytes w.width)) l = .ok mt rm ∧ mt ≠ 3)
    (hroom : w.space = .gl → s.storeRoom (s.grpCluster g)) : ∃ t, execSt w s = .next t ∧ Entered t s gid second g r (s.storeOp gid g r w) := by
  let go (u : State) : State := u.pushWord gid second (u.newOp gid r .st w 0 (s.storeParts g r w))
  have heff : ∃ eff, execSt w s = groupWord (.mem 0x102 w) 1 s eff ∧ eff gid second g r s =
      if w.space = .gl then s.logGuard gid second g (bufKeys g.ctx (s.storeParts g r w)) (fun s' => s'.soWord gid second r (s.storeParts g r w) go) else go s := by
    refine ⟨_, rfl, ?_⟩
    dsimp only
    rw [probes_eq]
    exact laneProbes_go hl (ok_of_soft hok)
  obtain ⟨eff, hx, he⟩ := heff
  rw [hx]
  have hlines : (bufKeys g.ctx (s.storeParts g r w)).length ≤ 64 := (length_bufKeys_le ..).trans (length_laneParts_le ..)
  refine groupWord_enters h h.here (he.trans ?_)
  split
  next hs =>
    rw [logGuard_of_room (hroom hs _ hlines)]
    exact soWord_of_no (hasSo_laneParts_of_soft hok)
  next => rfl

/-! SEND (R117). -/

/-- What the checks of a lane of a SEND to target `t` find. -/
def sendLaneChk (g : Group) (w : Mem) (t : Dword) (l : Nat) : Chk := sendChk w.space (widthBytes w.width) t (addressOf g w.space w.a 0 l)

/-- The parts, and the operation, of a SEND. -/
def sendParts (g : Group) (r : Run) (w : Mem) (t : Dword) : List Part := laneParts g r w 0 (sendLaneChk g w t) (readData g.regs w.d (widthBytes w.width))
def State.sendOp (s : State) (gid : Nat) (g : Group) (r : Run) (w : Mem) (t : Dword) : MemOp := s.newOp gid r (.send t) w 0 (sendParts g r w t)

theorem addressOf_zero_nonneg (g : Group) (sp : Space) (a : Opnd) (l : Nat) : 0 ≤ addressOf g sp a 0 l := by
  unfold addressOf
  split
  · exact Int.emod_nonneg _ (by norm_num)
  · exact Int.natCast_nonneg _

theorem sendLaneChk_ok {t : Dword} {l : Nat} (ht : sendOk w.space t = true) (hal : (widthBytes w.width : Int) ∣ addressOf g w.space w.a 0 l)
    (hfits : addressOf g w.space w.a 0 l + widthBytes w.width ≤ spaceSize w.space) : sendLaneChk g w t l = .ok 0 false := by
  have hnonneg := addressOf_zero_nonneg g w.space w.a l
  rw [sendLaneChk, sendChk, if_neg (not_not.2 (Int.emod_eq_zero_of_dvd hal)), if_neg]
  simp only [ht, Bool.not_true, Bool.false_eq_true, or_false]
  omega

theorem pushWord_of_not_rel {op : MemOp} (h : relWide op = false) : s.pushWord gid second op = s.pushOp gid op := by
  rw [State.pushWord, h, if_neg Bool.false_ne_true]

/-- R117: a SEND carries no order. -/
theorem send_order (h : (bodyOf (.send w)).good = true) : w.order = .rlx := by
  have hos : orderOk [.rlx] w = true := by
    simp only [bodyOf, Body.good, Body.shape, memShape, memShapeLs, Shape.good] at h
    simp at h
    tauto
  simp only [orderOk, Bool.and_eq_true, decide_eq_true_eq] at hos
  exact List.mem_singleton.1 hos.1

theorem execSend_enters {c : Opnd} (h : Runs (bodyOf (.send w)) s gid second g r) (hc : immC w.imm = some c) (hl : ∃ l, effective g r w.b l)
    (hok : ∀ l, effective g r w.b l → sendLaneChk g w (readGr g.regs c) l = .ok 0 false) :
    ∃ t, execSend w s = .next t ∧ Entered t s gid second g r (s.sendOp gid g r w (readGr g.regs c)) := by
  have hrlx : relWide (s.sendOp gid g r w (readGr g.regs c)) = false := relWide_of_isRel (congrArg isRel (send_order h.good))
  have heff : ∃ eff, execSend w s = groupWord (.mem 0x103 w) 1 s eff ∧ eff gid second g r s = s.pushOp gid (s.sendOp gid g r w (readGr g.regs c)) := by
    refine ⟨_, rfl, ?_⟩
    simp only [hc, laneAddr_eq]
    exact laneProbes_go hl (fun l hl => ⟨0, false, hok l hl⟩)
  obtain ⟨eff, hx, he⟩ := heff
  rw [hx]
  exact groupWord_enters h h.here (he.trans (pushWord_of_not_rel hrlx).symm)

/-- R115, R117: the parts of a word that writes hold its data registers' low bytes. -/
theorem parts_of_store {op : MemOp} {ofs : BitVec 32} {chk : Nat → Chk} (hp : op.parts = laneParts g r w ofs chk (readData g.regs w.d (widthBytes w.width)))
    (hnonneg : ∀ l, effective g r w.b l → 0 ≤ addressOf g w.space w.a ofs l) : (∀ l, (∃ x ∈ op.parts, x.lane = l) ↔ effective g r w.b l) ∧
      ∀ x ∈ op.parts, (x.addr : Int) = addressOf g w.space w.a ofs x.lane ∧ x.data.toNat = readData g.regs w.d (widthBytes w.width) x.lane := by
  obtain ⟨hlanes, hparts⟩ := parts_of_word hp hnonneg
  refine ⟨hlanes, fun x hx => ?_⟩
  obtain ⟨haddr, -, hdata⟩ := hparts x hx
  exact ⟨haddr, by rw [hdata, toNat_ofNat_readData]⟩

theorem storeAndSendWords : storeAndSendWordsRules := by
  refine ⟨fun w s gid second g r h hl hok hroom => ?_, fun w s gid second g r c h hc hl ht hfits => ?_⟩
  · obtain ⟨t, ht, hin⟩ := execSt_enters h hl hok hroom
    obtain ⟨hlanes, hparts⟩ := parts_of_store (op := s.storeOp gid g r w) rfl (fun l hl => addressOf_nonneg (ok_of_soft hok l hl))
    exact ⟨t, _, ht, hin.ops, rfl, rfl, rfl, rfl, hlanes, hparts, hin.grp, hin.mems, hin.store⟩
  · obtain ⟨t, ht, hin⟩ := execSend_enters h hc hl (fun l hl => let ⟨hal, hin⟩ := hfits l hl; sendLaneChk_ok ht hal hin)
    obtain ⟨hlanes, hparts⟩ := parts_of_store (op := s.sendOp gid g r w (readGr g.regs c)) rfl (fun l _ => addressOf_zero_nonneg g w.space w.a l)
    exact ⟨t, _, ht, hin.ops, rfl, rfl, rfl, rfl, hlanes, hparts, hin.grp_moved (relWide_of_isRel (congrArg isRel (send_order h.good))), hin.mems, hin.store⟩

/-! PREF, FENCE and words that access nothing (R111, R119, R127). -/

/-- A word without an effect only moves its run on. -/
theorem groupWord_idle (h : Runs b s gid second g r) (he : eff gid second g r s = s) : groupWord b 1 s eff = .next (s.afterWord gid second g) := by
  have hrun : g.runOn second = some r := by cases second <;> exact h.run
  rw [groupWord_runs h eff g r (by rw [he]; exact h.here) hrun h.free, he, State.advance_eq h.here]
  rfl

/-- A per-lane word without an order that has no effective lane. -/
theorem groupWord_no_lane {ofs : BitVec 32} {n : Need} {go : State → State} (h : Runs b s gid second g r) (hl : ∀ l, ¬ effective g r w.b l) (ho : w.order = .rlx)
    (he : eff gid second g r s = if (s.probes g r w ofs n).isEmpty then s.fence gid second r w.order w.scope else s.guardMem gid second g r (s.probes g r w ofs n) go) :
    groupWord b 1 s eff = .next (s.afterWord gid second g) := by
  refine groupWord_idle h (he.trans ?_)
  rw [probes_eq, laneProbes_of_no_effective hl, ho]
  rfl

theorem loadWord_no_lane {sx : Bool} (h : Runs (.mem opc w) s gid second g r) (hl : ∀ l, ¬ effective g r w.b l) (ho : w.order = .rlx) :
    loadWord opc sx w s = .next (s.afterWord gid second g) := groupWord_no_lane h hl ho rfl

theorem execSt_no_lane (h : Runs (.mem 0x102 w) s gid second g r) (hl : ∀ l, ¬ effective g r w.b l) (ho : w.order = .rlx) :
    execSt w s = .next (s.afterWord gid second g) := groupWord_no_lane h hl ho rfl

theorem atomWord_no_lane {fn : AtomOp} (h : Runs (.mem opc w) s gid second g r) (hl : ∀ l, ¬ effective g r w.b l) (ho : w.order = .rlx) :
    atomWord opc fn w s = .next (s.afterWord gid second g) := groupWord_no_lane h hl ho rfl

/-- R127: the run of a releasing FENCE waits at the fence. -/
def Run.atFence (w : Mem) (n : Nat) (r : Run) : Run := { r with wait := .fence w.scope n none (isAcq w.order) 0 }

theorem execFence_waits (h : Runs (.mem 0x105 w) s gid second g r) (hrel : isRel w.order = true) :
    execFence w s = .next (s.setGrp gid (g.setRun second (some (r.atFence w s.fresh)))) :=
  groupWord_holds (f := Run.atFence w s.fresh) h (by simp only [State.fence, hrel]; rfl) nofun

/-- The operation of a FENCE.acq, which counts in no class. -/
def State.acquireOp (s : State) (gid : Nat) (r : Run) (sc : Scope) : MemOp :=
  { gid := gid, pc := wordPc r.pc r.idx, ofs := r.idx, kind := .fence, space := .ln, width := 1, order := .acq, scope := sc, parts := [], dest := 0,
    arriveAt := s.pcc, req := none, sync := false, queued := false }

theorem execFence_enters (h : Runs (.mem 0x105 w) s gid second g r) (hacq : w.order = .acq) :
    ∃ t, execFence w s = .next t ∧ Entered t s gid second g r (s.acquireOp gid r w.scope) :=
  groupWord_enters h h.here (by simp only [State.fence, hacq]; rfl)

theorem fence_order (h : (bodyOf (.fence w)).good = true) (hacq : w.order ≠ .acq) : isRel w.order = true ∧ isAcq w.order = decide (w.order ≠ .rel) := by
  have hos : w.order ∈ [Order.acq, .rel, .ar, .sc] := by
    simp only [bodyOf, Body.good, Body.shape, memShape, memShapeLs, Shape.good] at h
    simp at h
    simp
    tauto
  revert hos hacq
  cases w.order <;> decide

theorem execPref_idle (h : Runs (.mem 0x104 w) s gid second g r) : execPref w s = .next (s.afterWord gid second g) := groupWord_idle h rfl

theorem prefAndFence : prefAndFenceRules := by
  intro w s gid second g r
  refine ⟨execPref_idle, fun h hacq => ?_, fun h hacq => ?_, ?_⟩
  · obtain ⟨hrel, hisAcq⟩ := fence_order h.good hacq
    rw [← hisAcq]
    exact execFence_waits h hrel
  · obtain ⟨t, ht, hin⟩ := execFence_enters h hacq
    exact ⟨t, _, ht, hin.ops, rfl, rfl, rfl, rfl, hin.grp_moved rfl, hin.mems, hin.store⟩
  · simp only [List.forall_mem_cons]
    exact ⟨fun h => loadWord_no_lane h, fun h => loadWord_no_lane h, fun h => execSt_no_lane h, fun h => atomWord_no_lane h, fun h => atomWord_no_lane h,
      fun h => atomWord_no_lane h, fun h => atomWord_no_lane h, fun h => atomWord_no_lane h, fun h => atomWord_no_lane h, fun h => atomWord_no_lane h,
      fun h => atomWord_no_lane h, fun h => atomWord_no_lane h, fun _ hnil => absurd hnil List.not_mem_nil⟩

/-- Settles O21: stores and SEND, then PREF, FENCE and words without an effective lane. -/
theorem storesSendsAndFences : Obligations.StoresSendsAndFences := ⟨storeAndSendWords, prefAndFence⟩

end Sys2Proof.Machine
end

section
/-! SUPPORT of O53. Where memory words, the log-memory words and LOOPN stand once they have issued (R127, R129, R154, R229 to R232). -/

namespace Sys2Proof.Machine

variable {i : Instr} {s t u : State} {gid opc : Nat} {second : Bool} {g : Group} {r : Run} {w : Mem} {op : MemOp} {P : State → Group → Prop}

theorem setRun_keeps (g : Group) (second : Bool) (r : Option Run) : (g.setRun second r).regs = g.regs ∧ (g.setRun second r).trap = g.trap ∧
    (g.setRun second r).loads = g.loads ∧ (g.setRun second r).stores = g.stores := by
  cases second <;> exact ⟨rfl, rfl, rfl, rfl⟩

theorem moved_keeps (g : Group) (second : Bool) (n : Nat) : (g.moved second n).regs = g.regs ∧ (g.moved second n).trap = g.trap ∧
    (g.moved second n).loads = g.loads ∧ (g.moved second n).stores = g.stores := by
  cases second <;> exact ⟨rfl, rfl, rfl, rfl⟩

/-- What a group keeps where an operation of it enters the engine. -/
theorem Entered.keeps (h : Entered t u gid second g r op) : ∃ g', t.grp gid = some g' ∧ g'.regs = g.regs ∧ g'.trap = g.trap ∧
    g'.loads = (op.issued g).loads ∧ g'.stores = (op.issued g).stores := by
  refine ⟨_, h.grp, ?_⟩
  split
  · exact setRun_keeps ..
  · exact moved_keeps ..

/-- The outcome of a word one operation of which is in the engine. -/
def wordIssued (i : Instr) (w : Mem) (s : State) (gid : Nat) (g : Group) (p : Group → Prop) : Prop :=
  ∃ t g' o, exec i s = .next t ∧ t.grp gid = some g' ∧ p g' ∧ g'.regs = g.regs ∧ g'.trap = g.trap ∧ t.ops.get? s.fresh = some o ∧ o.gid = gid ∧
    o.order = w.order ∧ o.width = widthBytes w.width ∧ t.mems = s.mems

theorem Entered.wordIssued {p : Group → Prop} (h : Entered t u gid second g r op) (hx : exec i s = .next t) (hfresh : u.fresh = s.fresh) (hmems : u.mems = s.mems)
    (hop : op.gid = gid ∧ op.order = w.order ∧ op.width = widthBytes w.width)
    (hp : ∀ g' : Group, g'.loads = (op.issued g).loads → g'.stores = (op.issued g).stores → p g') : wordIssued i w s gid g p := by
  obtain ⟨g', hg', hregs, htrap, hloads, hstores⟩ := h.keeps
  obtain ⟨hgid, horder, hwidth⟩ := hop
  exact ⟨t, g', op, hx, hg', hp g' hloads hstores, hregs, htrap, by rw [h.ops, hfresh]; exact FMap.get?_set_self .., hgid, horder, hwidth, h.mems.trans hmems⟩

/-- An operation that does not hold its run. -/
theorem Entered.movesOn (h : Entered t u gid second g r op) (hx : exec i s = .next t) (hrel : relWide op = false) (hr : g.runOn second = some r)
    (hP : P t ((op.issued g).moved second 1)) : movesOn i s gid second r P :=
  ⟨t, _, bumpRun 1 r, hx, h.grp_moved hrel, by rw [Group.moved, show (op.issued g).runOn second = some r by cases second <;> exact hr]; exact Group.setRun_runOn ..,
    rfl, rfl, rfl, hP⟩

/-! Requests (R210, R229, R230). -/

/-- Lodging the requests that are ready changes the store alone. -/
theorem State.lodgeReady_eq (s : State) : ∃ st, s.lodgeReady = s.setStore st := by
  refine List.foldlRecOn _ _ (motive := fun t : State => ∃ st, t = s.setStore st) ⟨s.store, rfl⟩ (fun t ht p _ => ?_)
  obtain ⟨st, rfl⟩ := ht
  exact ⟨_, rfl⟩

/-- The request that a group asks for next. -/
def State.nextReq (s : State) (log ctx gid : Nat) (kind : ReqKind) : Req :=
  { log := log, ctx := ctx, gid := some gid, kind := kind, lines := [], rkind := 0, since := s.pcc, starved := none, upto := s.fresh, st := .asked }

/-- The state that has asked for it. -/
def State.asks (s : State) (log ctx gid : Nat) (kind : ReqKind) : State :=
  s.newNum.2.setStore { s.store with reqs := s.store.reqs.set s.fresh (s.nextReq log ctx gid kind) }

theorem State.lodgeAfter_eq (s : State) (log ctx gid : Nat) (kind : ReqKind) :
    s.lodgeAfter log ctx gid kind = (s.fresh, (s.asks log ctx gid kind).lodgeReady) := rfl

/-- Asking for a request changes the store and the numbers alone. -/
theorem State.lodgeAfter_store (s : State) (log ctx gid : Nat) (kind : ReqKind) :
    ∃ st, s.lodgeAfter log ctx gid kind = (s.fresh, s.newNum.2.setStore st) := by
  obtain ⟨st, hst⟩ := (s.asks log ctx gid kind).lodgeReady_eq
  exact ⟨st, by rw [State.lodgeAfter_eq, hst]; rfl⟩

theorem execPub_moves (h : Runs (.mem 0x200 w) s gid second g r) : ∃ u : State, execPub w s = .next (u.setGrp gid (g.moved second 1)) ∧ u.mems = s.mems := by
  obtain ⟨st, hst⟩ := s.lodgeAfter_store (s.grpCluster g) g.ctx gid .batch
  exact ⟨_, groupWord_moves h (congrArg Prod.snd hst) h.here rfl, rfl⟩

/-- The state in which an operation of a group has the next entry of its context and its handle stands in an f-register. -/
def State.opened (s : State) (gid : Nat) (g : Group) (c : Ctx) (f : Nat) (cls : BitVec 4) (kind : AKind) (stage : AStage) : State :=
  let u := (s.takeFut g.ctx (c.fut c.nextTag) cls (some gid) g.launch s.fresh).newNum.2
  { u.setHandle gid f (nextHandle c cls) true with
    aops := u.aops.set s.fresh (AOp.new g.ctx (some gid) g.launch (u.grpCluster g) (hTag (nextHandle c cls)) kind stage u.pcc) }

theorem startAop_of_free {c : Ctx} (f : Nat) (cls : BitVec 4) (kind : AKind) (stage : AStage) (hc : s.ctx? g.ctx = some c)
    (hf : (c.fut c.nextTag).st ≠ .pending) :
    s.startAop gid g f cls true kind stage = some (s.opened gid g c f cls kind stage, s.fresh, hTag (nextHandle c cls)) := by
  simp only [State.startAop, State.allocFut_of_free _ _ _ _ hc hf]
  rfl

theorem opened_grp (c : Ctx) (f : Nat) (cls : BitVec 4) (kind : AKind) (stage : AStage) (h : s.grp gid = some g) :
    (s.opened gid g c f cls kind stage).grp gid = some { g with regs := g.regs.setF f (nextHandle c cls), copies := g.copies + 1 } :=
  State.grp_modGrp (s := (s.takeFut g.ctx (c.fut c.nextTag) cls (some gid) g.launch s.fresh).newNum.2) _ h

/-- The state in which a PUBR waits for its publication, `st` the store that holds its request. -/
def State.pubrAsked (s : State) (gid : Nat) (g : Group) (c : Ctx) (w : Mem) (st : Store) : State :=
  let v := s.opened gid g c (fNum w.d) 4 .pubr .queued
  (v.newNum.2.setStore st).modAop s.fresh (fun o => { o with stage := .publishing v.fresh })

theorem execPubr_asks {c : Ctx} (hb : (readGr g.regs w.b).toNat ≠ 0) (hend : (readGr g.regs w.a).toNat + (readGr g.regs w.b).toNat ≤ 2 ^ 48)
    (hc : s.ctx? g.ctx = some c) (hf : (c.fut c.nextTag).st ≠ .pending) :
    ∃ eff st, execPubr w s = groupWord (.mem 0x201 w) 1 s eff ∧ eff gid second g r s = s.pubrAsked gid g c w st := by
  let v := s.opened gid g c (fNum w.d) 4 .pubr .queued
  obtain ⟨st, hst⟩ := v.lodgeAfter_store (v.grpCluster g) g.ctx gid (.range (readGr g.regs w.a).toNat (readGr g.regs w.b).toNat)
  have hb0 : readGr g.regs w.b ≠ 0 := fun h0 => hb (by rw [h0]; rfl)
  have hend' : ¬ rangeEnd (readGr g.regs w.a) (readGr g.regs w.b) > 2 ^ 48 := not_lt.2 hend
  refine ⟨_, st, rfl, ?_⟩
  dsimp only
  rw [if_neg hb0, if_neg hend', startAop_of_free _ _ _ _ hc hf]
  exact congrArg (fun p : Nat × State => p.2.modAop s.fresh (fun o => { o with stage := .publishing p.1 })) hst

theorem State.opened_keeps (s : State) (gid : Nat) (g : Group) (c : Ctx) (f : Nat) (cls : BitVec 4) (kind : AKind) (stage : AStage) :
    (s.opened gid g c f cls kind stage).ctxs = (s.takeFut g.ctx (c.fut c.nextTag) cls (some gid) g.launch s.fresh).ctxs ∧
      (s.opened gid g c f cls kind stage).mems = s.mems := ⟨rfl, rfl⟩

theorem State.pubrAsked_keeps (s : State) (gid : Nat) (g : Group) (c : Ctx) (w : Mem) (st : Store) :
    (s.pubrAsked gid g c w st).groups = (s.opened gid g c (fNum w.d) 4 .pubr .queued).groups ∧
    (s.pubrAsked gid g c w st).ctxs = (s.opened gid g c (fNum w.d) 4 .pubr .queued).ctxs ∧
    (s.pubrAsked gid g c w st).mems = (s.opened gid g c (fNum w.d) 4 .pubr .queued).mems := ⟨rfl, rfl, rfl⟩

theorem execPubr_opens (h : Runs (.mem 0x201 w) s gid second g r) (hb : (readGr g.regs w.b).toNat ≠ 0)
    (hend : (readGr g.regs w.a).toNat + (readGr g.regs w.b).toNat ≤ 2 ^ 48) : opens (.pubr w) s gid second g r w.d 4 := by
  intro c hc hf _
  obtain ⟨c', hc', hpending⟩ := State.takeFut_pending 4 (some gid) g.launch s.fresh hc
  obtain ⟨eff, st, hx, he⟩ := execPubr_asks (gid := gid) (second := second) (r := r) hb hend hc hf
  obtain ⟨hctxs, hmems⟩ := s.opened_keeps gid g c (fNum w.d) 4 .pubr .queued
  obtain ⟨hgroups', hctxs', hmems'⟩ := s.pubrAsked_keeps gid g c w st
  have hgrp := (congrArg (fun m : FMap Group => m.get? gid) hgroups').trans (opened_grp c (fNum w.d) 4 .pubr .queued h.here)
  refine movesOn_setGrp (hx.trans (groupWord_moves h he hgrp ?_)) ?_ ⟨hmems'.trans hmems, moved_regs .., c', ?_, hpending⟩
  · cases second <;> rfl
  · cases second <;> exact h.run
  · exact (congrArg (fun m : FMap Ctx => m.get? g.ctx) (hctxs'.trans hctxs)).trans hc'

/-! INVR and ZLINE (R231, R232). -/

/-- R231: a range is discarded from a core's L1 and from its cluster's LIB. -/
theorem State.invRange_keeps (s : State) (core ctx base len : Nat) : (s.invRange core ctx base len).groups = s.groups ∧
    (s.invRange core ctx base len).store = s.store ∧ (s.invRange core ctx base len).mems = s.mems := by
  unfold State.invRange
  split
  · exact ⟨rfl, rfl, rfl⟩
  · split
    · exact ⟨rfl, rfl, rfl⟩
    · exact ⟨rfl, rfl, rfl⟩

/-- The operation of an INVR that waits for its group's earlier acquires. -/
def State.invOp (s : State) (gid : Nat) (r : Run) (a n : Nat) : MemOp :=
  { gid := gid, pc := wordPc r.pc r.idx, ofs := r.idx, kind := .inv a n, space := .ln, width := 1, order := .rlx, scope := .co, parts := [], dest := 0,
    arriveAt := s.pcc, req := none, sync := false, queued := false }

theorem execInvr_completes (h : Runs (.mem 0x202 w) s gid second g r) :
    movesOn (.invr w) s gid second r (fun t g' => t.mems = s.mems ∧ g'.regs = g.regs ∧ t.store = s.store) := by
  let a := (readGr g.regs w.a).toNat
  let n := (readGr g.regs w.b).toNat
  have heff : ∃ eff, execInvr w s = groupWord (.mem 0x202 w) 1 s eff ∧
      eff gid second g r s = if s.acquires gid s.fresh then s.pushOp gid (s.invOp gid r a n) else s.invRange (s.grpCore g) g.ctx a n := ⟨_, rfl, rfl⟩
  obtain ⟨eff, hx, he⟩ := heff
  by_cases hacq : s.acquires gid s.fresh = true
  · rw [if_pos hacq] at he
    obtain ⟨t, ht, hin⟩ := groupWord_enters h h.here (he.trans (pushWord_of_not_rel rfl).symm)
    exact hin.movesOn (hx.trans ht) rfl h.run ⟨hin.mems, (moved_regs ..), hin.store⟩
  · rw [if_neg hacq] at he
    obtain ⟨hgroups, hstore, hmems⟩ := s.invRange_keeps (s.grpCore g) g.ctx a n
    have hgrp : (s.invRange (s.grpCore g) g.ctx a n).grp gid = some g := (congrArg (fun m : FMap Group => m.get? gid) hgroups).trans h.here
    exact movesOn_setGrp (hx.trans (groupWord_moves h he hgrp rfl)) h.run ⟨hmems, moved_regs .., hstore⟩

/-- R228: a ZLINE carries no order. -/
theorem zline_order (h : (bodyOf (.zline w)).good = true) : w.order = .rlx := by
  simp only [bodyOf, Body.good, Body.shape, memShape, memShapeLog, Shape.good] at h
  simp at h
  tauto

/-- R232: one part, whose data is the number of lines. -/
def State.zlineOp (s : State) (gid : Nat) (g : Group) (r : Run) (w : Mem) : MemOp :=
  { s.newOp gid r .zline w 0 [partOf { lane := 64, addr := (readGr g.regs w.a).toNat, chk := .ok 0 false } w.imm.toNat] with width := 256 }

theorem execZline_completes {mt : BitVec 2} {rm : Bool} (h : Runs (.mem 0x203 w) s gid second g r)
    (hchk : s.zlineChk (s.grpCore g) g.ctx (readGr g.regs w.a).toNat w.imm.toNat = .ok mt rm)
    (hroom : s.canAccept (s.grpCluster g) (zeroLines g.ctx (readGr g.regs w.a).toNat w.imm.toNat) (s.pendingLines (s.grpCluster g)) = true) :
    movesOn (.zline w) s gid second r (fun t g' => t.mems = s.mems ∧ g'.stores = g.stores + 1) := by
  have heff : ∃ eff, execZline w s = groupWord (.mem 0x203 w) 1 s eff ∧ eff gid second g r s = s.pushWord gid second (s.zlineOp gid g r w) := by
    refine ⟨_, rfl, ?_⟩
    dsimp only
    rw [hchk]
    exact logGuard_of_room hroom
  obtain ⟨eff, hx, he⟩ := heff
  obtain ⟨t, ht, hin⟩ := groupWord_enters h h.here he
  have hrel : relWide (s.zlineOp gid g r w) = false := relWide_of_isRel (congrArg isRel (zline_order h.good))
  obtain ⟨-, -, -, hstores⟩ := moved_keeps ((s.zlineOp gid g r w).issued g) second 1
  exact hin.movesOn (hx.trans ht) hrel h.run ⟨hin.mems, hstores⟩

/-! LOOPN (R154). -/

/-- The state in which a LOOPN stands last in its core's queue. -/
def State.queueLoop (s : State) (gid : Nat) (g : Group) (x : Loop) : State :=
  (s.newNum.2.modCore (s.grpCore g) (fun c => { c with
    loops := c.loops ++ [{ gid := gid, op := s.fresh, w := x, d := loopBase g.regs x.d, a := loopBase g.regs x.a, b := loopBase g.regs x.b, started := false
                           beat := 0, leaveAt := 0, elems := [], outs := [], next := 0, acc := 0, seq := 0, late := 0, putAt := 0, fl := 0 }] })).modGrp
    gid (fun g => { g with tiles := g.tiles + 1 })

theorem State.queueLoop_length (s : State) (gid : Nat) (g : Group) (x : Loop) :
    ((s.queueLoop gid g x).core (s.grpCore g)).loops.length = (s.core (s.grpCore g)).loops.length + 1 :=
  (congrArg (fun c : Core => c.loops.length) (FMap.getD_put_self ..)).trans (List.length_append (bs := [_]))

theorem execLoopn_queues {x : Loop} (h : Runs (.loop x) s gid second g r) (hchk : s.loopCheck g.launch (s.grpCore g) x g.regs = none) :
    execLoopn x s = .next ((s.queueLoop gid g x).setGrp gid ({ g with tiles := g.tiles + 1 }.moved second 3)) := by
  have heff : ∃ eff, execLoopn x s = groupWord (.loop x) 3 s eff ∧ eff gid second g r s = s.queueLoop gid g x := by
    refine ⟨_, rfl, ?_⟩
    dsimp only
    rw [hchk]
    rfl
  obtain ⟨eff, hx, he⟩ := heff
  exact hx.trans (groupWord_moves h he (State.grp_modGrp _ h.here) (by cases second <;> rfl))

/-! The words of one lane each, and the fences. -/

/-- The checks of O53: some lane is effective, and every effective lane passes its checks, none of them on an SO page. -/
def lanesGood (s : State) (g : Group) (r : Run) (w : Mem) (ofs : BitVec 32) (n : Need) : Prop :=
  (∃ l, effective g r w.b l) ∧ ∀ l, effective g r w.b l → ∃ mt rm, s.laneChk g w ofs n l = .ok mt rm ∧ mt ≠ 3

theorem loadWord_issued {sx : Bool} (hx : exec i s = loadWord opc sx w s) (h : Runs (.mem opc w) s gid second g r)
    (hgood : lanesGood s g r w w.imm (needLoad (widthBytes w.width))) : wordIssued i w s gid g (fun g' => g'.loads = g.loads + 1) := by
  obtain ⟨hl, hok⟩ := hgood
  obtain ⟨t, ht, hin⟩ := loadWord_enters (sx := sx) h hl hok
  exact hin.wordIssued (hx.trans ht) rfl rfl ⟨rfl, rfl, rfl⟩ (fun g' hloads _ => hloads)

theorem execLds_issued {mt : BitVec 2} {rm : Bool} (h : Runs (bodyOf (.lds w)) s gid second g r) (hchk : s.ldsChk g w = .ok mt rm) (hmt : mt ≠ 3) :
    wordIssued (.lds w) w s gid g (fun g' => g'.loads = g.loads + 1) := by
  obtain ⟨t, ht, hin⟩ := execLds_enters h hchk hmt
  exact hin.wordIssued (i := .lds w) ht rfl rfl ⟨rfl, rfl, rfl⟩ (fun g' hloads _ => hloads)

theorem execSt_issued (h : Runs (bodyOf (.st w)) s gid second g r) (hgood : lanesGood s g r w w.imm (needStore (widthBytes w.width)))
    (hroom : w.space = .gl → s.storeRoom (s.grpCluster g)) : wordIssued (.st w) w s gid g (fun g' => g'.stores = g.stores + 1) := by
  obtain ⟨hl, hok⟩ := hgood
  obtain ⟨t, ht, hin⟩ := execSt_enters h hl hok hroom
  exact hin.wordIssued (i := .st w) ht rfl rfl ⟨rfl, rfl, rfl⟩ (fun g' _ hstores => hstores)

theorem execSend_issued {c : Opnd} (h : Runs (bodyOf (.send w)) s gid second g r) (hc : immC w.imm = some c) (hl : ∃ l, effective g r w.b l)
    (hok : ∀ l, effective g r w.b l → sendLaneChk g w (readGr g.regs c) l = .ok 0 false) :
    wordIssued (.send w) w s gid g (fun g' => g'.stores = g.stores + 1) := by
  obtain ⟨t, ht, hin⟩ := execSend_enters h hc hl hok
  exact hin.wordIssued (i := .send w) ht rfl rfl ⟨rfl, rfl, rfl⟩ (fun g' _ hstores => hstores)

theorem atomWord_issued {fn : AtomOp} (hx : exec i s = atomWord opc fn w s) (h : Runs (.mem opc w) s gid second g r)
    (hgood : lanesGood s g r w (atomOfs w) (needAtom (widthBytes w.width))) (hroom : w.space = .gl → s.atomRoom (s.grpCluster g)) :
    wordIssued i w s gid g (fun g' => g'.loads + g'.stores = g.loads + g.stores + 1) := by
  obtain ⟨hl, hok⟩ := hgood
  obtain ⟨t, u, ht, hkept, -, hin⟩ := atomWord_enters (fn := fn) h hl (ok_of_soft hok) hroom
  refine hin.wordIssued (hx.trans ht) hkept.fresh hkept.mems ⟨rfl, rfl, rfl⟩ (fun g' hloads hstores => ?_)
  rw [issued_atomOp] at hloads hstores
  rw [hloads, hstores]
  by_cases hd : w.d = Opnd.sp 7
  · simp only [hd, if_true]
    omega
  · simp only [hd, if_false]
    omega

theorem execFence_stays (h : Runs (.mem 0x105 w) s gid second g r) (hacq : w.order ≠ .acq) : ∃ t g' r', execFence w s = .next t ∧ t.grp gid = some g' ∧
    g'.runOn second = some r' ∧ r'.idx = r.idx ∧ r'.wait ≠ .none ∧ g'.regs = g.regs ∧ t.mems = s.mems := by
  obtain ⟨hrel, -⟩ := fence_order h.good hacq
  obtain ⟨hregs, -⟩ := setRun_keeps g second (some (r.atFence w s.fresh))
  exact ⟨_, _, r.atFence w s.fresh, execFence_waits h hrel, State.grp_setGrp_self .., Group.setRun_runOn .., rfl, nofun, hregs, rfl⟩

/-- Settles O53: each word by what it leaves of its group and its run. -/
theorem memoryWordsComplete : Obligations.MemoryWordsComplete := by
  intro w s gid second g r
  refine ⟨?loads, ?lds, execSt_issued, ?send, ?atomics, fun h => ?pref, fun h => ⟨fun hacq => ?acquire, execFence_stays h⟩, ?log, ?loopn⟩
  case loads =>
    simp only [List.forall_mem_cons]
    exact ⟨loadWord_issued (i := .ld w) rfl, loadWord_issued (i := .ldx w) rfl, fun _ hnil => absurd hnil List.not_mem_nil⟩
  case lds =>
    intro mt rm h hchk
    refine execLds_issued h (mt := mt) (rm := rm) ?_
    rw [State.ldsChk, formAddr_eq]
    exact hchk
  case send =>
    exact fun c h hc hl ht hfits => execSend_issued h hc hl (fun l hl => let ⟨hal, hin⟩ := hfits l hl; sendLaneChk_ok ht hal hin)
  case atomics =>
    simp only [List.forall_mem_cons]
    exact ⟨atomWord_issued (i := .aadd w) rfl, atomWord_issued (i := .amin w) rfl, atomWord_issued (i := .amax w) rfl, atomWord_issued (i := .aand w) rfl,
      atomWord_issued (i := .aor w) rfl, atomWord_issued (i := .axor w) rfl, atomWord_issued (i := .axchg w) rfl, atomWord_issued (i := .acas w) rfl,
      atomWord_issued (i := .afadd w) rfl, fun _ hnil => absurd hnil List.not_mem_nil⟩
  case pref => exact movesOn_setGrp (i := .pref w) (execPref_idle h) h.run ⟨moved_regs .., rfl, rfl⟩
  case acquire =>
    obtain ⟨t, ht, hin⟩ := execFence_enters h hacq
    exact hin.movesOn (i := .fence w) ht rfl h.run ⟨moved_regs .., hin.mems⟩
  case log =>
    refine ⟨fun h => ?_, execInvr_completes, fun hb hend h => execPubr_opens h hb hend, fun mt rm hchk hroom h => execZline_completes h hchk hroom⟩
    obtain ⟨u, ht, hmems⟩ := execPub_moves h
    exact movesOn_setGrp (i := .pub w) ht h.run ⟨hmems, moved_regs ..⟩
  case loopn =>
    intro x h hchk
    have hrun : ({ g with tiles := g.tiles + 1 } : Group).runOn second = some r := by cases second <;> exact h.run
    refine ⟨_, _, bumpRun 3 r, execLoopn_queues h hchk, State.grp_setGrp_self .., ?_, moved_regs .., ?_, rfl, s.queueLoop_length gid g x, rfl⟩
    · cases second <;> rfl
    · rw [Group.moved, hrun]
      exact Group.setRun_runOn ..

end Sys2Proof.Machine
end

section
/-! SUPPORT of O24. SEND: the write at its target, the message to another module, the end of the operation (R117, R118, R434). -/

namespace Sys2Proof.Machine

variable {s : State} {op : Nat} {o : MemOp} {g : Group} {x : Part} {t : Dword}

/-- Where the write of a SEND lands: its byte at cluster `cl` of die `die`, or at that die's scratchpad. -/
def sendKey (sp : Space) (cl die a : Nat) : Nat := if sp = .cm then (8 * die + cl) * cmBytes + a else die * dsBytes + a

/-- R118: a window granted at the target to a block of the launch covers the write. -/
def State.sendCovered (s : State) (launch : Nat) (sp : Space) (cl die a n : Nat) : Prop :=
  ∃ l, s.launches.get? launch = some l ∧ (∃ b ∈ s.blocks, b.2.launch = launch ∧ b.2.ended = false ∧
      if sp = .cm then b.2.cluster = 8 * die + cl else clusterDie b.2.cluster = die) ∧
    if sp = .cm then l.cmbase ≤ a ∧ a + n ≤ l.cmbase + l.cm else l.dsbase ≤ a ∧ a + n ≤ l.dsbase + l.ds

/-- What the target's checks of a write find, as the model computes it. -/
def State.sendLands (s : State) (launch : Nat) (sp : Space) (cl die a n : Nat) (l : Launch) : Bool :=
  s.blocks.any (fun b => b.2.launch == launch && !b.2.ended && (if sp = .cm then b.2.cluster == 8 * die + cl else clusterDie b.2.cluster == die)) &&
    (if sp = .cm then inRange a n l.cmbase l.cm else inRange a n l.dsbase l.ds)

theorem State.sendCovered_iff {launch : Nat} {sp : Space} {cl die a n : Nat} :
    s.sendCovered launch sp cl die a n ↔ ∃ l, s.launches.get? launch = some l ∧ s.sendLands launch sp cl die a n l = true := by
  unfold State.sendCovered State.sendLands
  by_cases hs : sp = .cm
  · simp only [hs, if_true, Bool.and_eq_true, List.any_eq_true, beq_iff_eq, Bool.not_eq_true', inRange_iff, and_assoc]
  · simp only [hs, if_false, Bool.and_eq_true, List.any_eq_true, beq_iff_eq, Bool.not_eq_true', inRange_iff, and_assoc]

theorem State.sendWrite_of_covered {launch : Nat} {sp : Space} {cl die a n : Nat} (v : Nat) (h : s.sendCovered launch sp cl die a n) :
    s.sendWrite launch sp cl die a n v = some (s.padWrite sp (sendKey sp cl die a) n v) := by
  obtain ⟨l, hl, hlands⟩ := State.sendCovered_iff.1 h
  simp only [State.sendWrite, State.launchOf, hl]
  exact if_pos hlands

theorem State.sendWrite_of_not_covered {launch : Nat} {sp : Space} {cl die a n : Nat} (v : Nat) (h : ¬ s.sendCovered launch sp cl die a n) :
    s.sendWrite launch sp cl die a n v = none := by
  simp only [State.sendWrite, State.launchOf]
  split
  · rfl
  next l hl => exact if_neg (fun hlands => h (State.sendCovered_iff.2 ⟨l, hl, hlands⟩))

/-! SEND_ARRIVE. -/

/-- A SEND of one part that has not arrived, out of its queue. -/
structure Arriving (s : State) (op : Nat) (o : MemOp) (g : Group) (x : Part) (t : Dword) : Prop where
  op : s.ops.get? op = some o
  grp : s.grp o.gid = some g
  kind : o.kind = .send t
  parts : o.parts = [x]
  unserved : x.served = false
  left : o.queued = false

/-- The update of the part of one lane. -/
def MemOp.setLane (lane : Nat) (f : Part → Part) (o : MemOp) : MemOp := { o with parts := o.parts.map (fun y => if y.lane == lane then f y else y) }

theorem setLane_singleton (f : Part → Part) (h : o.parts = [x]) : o.setLane x.lane f = { o with parts := [f x] } := by
  simp only [MemOp.setLane, h, List.map_cons, List.map_nil, beq_self_eq_true, if_true]

/-- A SEND of one part: it is the part that arrives, and no write of a higher lane replaces it. -/
theorem Arriving.finds (h : Arriving s op o g x t) : o.parts.find? (fun y => y.lane == x.lane) = some x ∧
    o.parts.any (fun y => decide (x.lane < y.lane) && y.addr == x.addr) = false := by
  simp [h.parts]

/-- A write to this module that lands. -/
theorem Arriving.lands {u : State} (h : Arriving s op o g x t) (hb : t.getLsbD 15 = true)
    (hu : s.sendWrite g.launch o.space (t.extractLsb' 21 3).toNat (t.extractLsb' 16 5).toNat x.addr o.width x.data.toNat = some u) :
    execSendArrive op x.lane s = .next (u.modOp op (MemOp.setLane x.lane (fun x => { x with served := true, fin := true }))) := by
  obtain ⟨hfind, hlast⟩ := h.finds
  simp only [execSendArrive, h.op, h.grp, h.kind, hfind, State.leaveQueue_of_left h.op h.left, h.unserved, hlast, hb, Option.map_some, Option.getD_some, h.left,
    Bool.or_self, Bool.true_or, Bool.false_eq_true, if_false, if_true, hu]
  rfl

/-- A write to this module that is refused. -/
theorem Arriving.isRefused (h : Arriving s op o g x t) (hb : t.getLsbD 15 = true)
    (hu : s.sendWrite g.launch o.space (t.extractLsb' 21 3).toNat (t.extractLsb' 16 5).toNat x.addr o.width x.data.toNat = none) :
    execSendArrive op x.lane s = .next (s.modOp op (MemOp.setLane x.lane (fun x => { x with served := true, fin := true, refused := true }))) := by
  obtain ⟨hfind, hlast⟩ := h.finds
  simp only [execSendArrive, h.op, h.grp, h.kind, hfind, State.leaveQueue_of_left h.op h.left, h.unserved, hlast, hb, Option.map_some, Option.getD_some, h.left,
    Bool.or_self, Bool.true_or, Bool.false_eq_true, if_false, if_true, hu]
  rfl

/-- A write to another module: a message takes it. -/
theorem Arriving.goesAway (h : Arriving s op o g x t) (hb : t.getLsbD 15 = false) (hm : t.extractLsb' 0 12 ≠ Config.moduleIndex) :
    execSendArrive op x.lane s = .next ((s.modOp op (MemOp.setLane x.lane (fun x => { x with served := true, asked := true }))).sendMsg (t.extractLsb' 0 12) 0 op
      (.send op x.lane o.space (t.extractLsb' 21 3).toNat (t.extractLsb' 16 5).toNat x.addr o.width (BitVec.ofNat 128 x.data.toNat) g.launch)) := by
  obtain ⟨hfind, hlast⟩ := h.finds
  have hmod : (t.getLsbD 15 || t.extractLsb' 0 12 == Config.moduleIndex) = false := by rw [hb, beq_eq_false_iff_ne.2 hm, Bool.or_self]
  simp only [execSendArrive, h.op, h.grp, h.kind, hfind, State.leaveQueue_of_left h.op h.left, h.unserved, hlast, hmod, Option.map_some, Option.getD_some, h.left,
    Bool.or_self, Bool.false_eq_true, if_false]
  rfl

/-- R118: a covered write. -/
theorem sendArrive_lands (h : Arriving s op o g x t) (hb : t.getLsbD 15 = true) (hs : o.space ≠ .gl)
    (hcov : s.sendCovered g.launch o.space (t.extractLsb' 21 3).toNat (t.extractLsb' 16 5).toNat x.addr o.width) :
    ∃ u, execSendArrive op x.lane s = .next u ∧ u.ops.get? op = some { o with parts := [{ x with served := true, fin := true }] } ∧
      ∀ a, (u.mems.of o.space).read a =
        let key := sendKey o.space (t.extractLsb' 21 3).toNat (t.extractLsb' 16 5).toNat x.addr
        if key ≤ a ∧ a < key + o.width then BitVec.ofNat 8 (x.data.toNat / 2 ^ (8 * (a - key))) else (s.mems.of o.space).read a := by
  refine ⟨_, h.lands hb (State.sendWrite_of_covered x.data.toNat hcov), ?_, fun a => State.read_padWrite hs s _ _ _ a⟩
  rw [State.get?_modOp (o := o) _ (by rw [State.padWrite_ops]; exact h.op), setLane_singleton _ h.parts]

/-- R118: a write that nothing covers. -/
theorem sendArrive_refused (h : Arriving s op o g x t) (hb : t.getLsbD 15 = true)
    (hcov : ¬ s.sendCovered g.launch o.space (t.extractLsb' 21 3).toNat (t.extractLsb' 16 5).toNat x.addr o.width) :
    ∃ u, execSendArrive op x.lane s = .next u ∧ u.ops.get? op = some { o with parts := [{ x with served := true, fin := true, refused := true }] } ∧
      u.mems = s.mems := by
  refine ⟨_, h.isRefused hb (State.sendWrite_of_not_covered x.data.toNat hcov), ?_, rfl⟩
  rw [State.get?_modOp _ h.op, setLane_singleton _ h.parts]

/-! STORE_PERFORM of a SEND. -/

theorem sendTrap_of_unrefused (hp : o.parts = [x]) (hx : x.refused = false) : sendTrap o = none := by
  simp [sendTrap, hp, hx]

theorem sendTrap_of_refused (hp : o.parts = [x]) (hx : x.refused = true) :
    ∃ tr, sendTrap o = some tr ∧ tr.cause = .space ∧ tr.lanes = maskOf [x.lane] := by
  simp [sendTrap, hp, hx]

/-- A deferred trap takes its lanes into one of the list. -/
theorem exists_addTrap (tr : Trap) (ts : List Trap) : ∃ d ∈ addTrap tr ts, d.cause = tr.cause ∧ ∀ l, tr.lanes.getLsbD l = true → d.lanes.getLsbD l = true := by
  induction ts with
  | nil => exact ⟨tr, List.mem_singleton_self _, rfl, fun _ hl => hl⟩
  | cons y ys ih =>
    rw [addTrap]
    split
    next hsame =>
      rw [Bool.and_eq_true, beq_iff_eq] at hsame
      obtain ⟨hcause, -⟩ := hsame
      exact ⟨_, List.mem_cons_self .., hcause, fun l hl => by simp [BitVec.getLsbD_or, hl]⟩
    next =>
      obtain ⟨d, hd, hdt⟩ := ih
      exact ⟨d, List.mem_cons_of_mem _ hd, hdt⟩

theorem ended_of_refused (hp : o.parts = [x]) (hx : x.refused = true) (hl : x.lane < 64) :
    ∃ d ∈ (o.ended g).deferred, d.cause = .space ∧ d.lanes.getLsbD x.lane = true := by
  obtain ⟨tr, htr, hcause, hlanes⟩ := sendTrap_of_refused hp hx
  obtain ⟨d, hd, hdc, hdl⟩ := exists_addTrap tr g.deferred
  have hdef : (o.ended g).deferred = addTrap tr g.deferred := by simp only [MemOp.ended, htr]
  refine ⟨d, hdef ▸ hd, hdc.trans hcause, hdl _ ?_⟩
  rw [hlanes, getLsbD_maskOf _ _ hl]
  simp

theorem sendPerform_ends (ho : s.ops.get? op = some o) (hg : s.grp o.gid = some g) (hk : o.kind = .send t) (hp : o.parts = [x]) (hfin : x.fin = true)
    (hr : o.order = .rlx) : ∃ u, execStorePerform op s = .next u ∧ u.ops = s.ops.erase op ∧ u.grp o.gid = some (o.ended g) ∧ u.mems = s.mems := by
  have hall : o.parts.all (·.fin) = true := by simp [hp, hfin]
  have hstep : execStorePerform op s = .next (({ s with ops := s.ops.erase op } : State).modGrp o.gid o.ended) := by
    simp only [execStorePerform, ho, hg, hk, hall, if_true, State.finishOp_of_rlx hg hr]
  exact ⟨_, hstep, rfl, State.grp_modGrp (s := { s with ops := s.ops.erase op }) _ hg, rfl⟩

theorem sendArrives : sendArrivesRules := by
  intro s op o g x t ho hg hk hp
  refine ⟨fun hx hq hb hs => ⟨fun hcov => ?_, fun hcov => ?_⟩, fun hx hq hb hm => ?_, fun hfin hr => ?_⟩
  · have hpad : o.space ≠ .gl := by rcases hs with hs | hs <;> simp [hs]
    exact sendArrive_lands ⟨ho, hg, hk, hp, hx, hq⟩ hb hpad hcov
  · exact sendArrive_refused ⟨ho, hg, hk, hp, hx, hq⟩ hb hcov
  · exact ⟨_, _, Arriving.goesAway ⟨ho, hg, hk, hp, hx, hq⟩ hb hm, FMap.get?_set_self .., rfl, rfl, rfl⟩
  · obtain ⟨u, hstep, hops, hgrp, hmems⟩ := sendPerform_ends ho hg hk hp hfin hr
    refine ⟨u, _, hstep, hops, hgrp, ?_, rfl, hmems, fun hx => ?_, ended_of_refused hp⟩
    · simp [MemOp.ended, hk, isStoreKind]
    · simp only [MemOp.ended, sendTrap_of_unrefused hp hx]

end Sys2Proof.Machine
end

section
/-! SUPPORT of O24. `.gl` loads: served at the home, sent to a peer, or taken from the cluster's own bytes (R101, R113, R126, R217, R378). -/

namespace Sys2Proof.Machine

variable {s t : State} {op : Nat} {o : MemOp} {g : Group} {x : Part}

/-! What the end of a read leaves alone (R213). -/

/-- A step that changes the store only. -/
def StoreOnly (s t : State) : Prop := ∃ st, t = s.setStore st

theorem StoreOnly.refl (s : State) : StoreOnly s s := ⟨s.store, rfl⟩

theorem StoreOnly.trans {u : State} (h : StoreOnly s t) (h' : StoreOnly t u) : StoreOnly s u := by
  obtain ⟨st, rfl⟩ := h
  obtain ⟨st', rfl⟩ := h'
  exact ⟨st', rfl⟩

theorem State.setPrep_storeOnly (s : State) (lk : Nat) (h : Prep) : StoreOnly s (s.setPrep lk h) := ⟨_, rfl⟩

theorem State.modPub_storeOnly (s : State) (p : Nat) (f : Pub → Pub) : StoreOnly s (s.modPub p f) := ⟨_, rfl⟩

theorem State.setHomeEntry_storeOnly (s : State) (lk : Nat) (e : IxEntry) : StoreOnly s (s.setHomeEntry lk e) := ⟨_, rfl⟩

theorem State.grantLine_storeOnly (s : State) (p i : Nat) (x : PLine) : StoreOnly s (s.grantLine p i x) :=
  (s.setHomeEntry_storeOnly ..).trans ((State.setPrep_storeOnly ..).trans ((State.modPub_storeOnly ..).trans (State.modPub_storeOnly ..)))

theorem State.grantFirst_storeOnly (s : State) (lk : Nat) (ps : List Nat) : StoreOnly s (s.grantFirst lk ps) := by
  induction ps with
  | nil => exact ⟨_, rfl⟩
  | cons p ps ih =>
    rw [State.grantFirst]
    split
    · exact ih
    · dsimp only
      split
      · exact (s.setPrep_storeOnly ..).trans (State.grantLine_storeOnly ..)
      · exact s.setPrep_storeOnly ..

theorem State.serveQueue_storeOnly (s : State) (lk : Nat) : StoreOnly s (s.serveQueue lk) := by
  unfold State.serveQueue
  split
  · exact .refl s
  · split
    · exact .refl s
    · exact s.grantFirst_storeOnly ..

theorem State.doneRead_storeOnly (s : State) (lk : Nat) (r : Reader) : StoreOnly s (s.doneRead lk r) := by
  unfold State.doneRead
  split
  · exact .refl s
  · exact (s.setPrep_storeOnly ..).trans (State.serveQueue_storeOnly ..)

theorem State.waitRead_storeOnly (s : State) (lk : Nat) (r : Reader) : StoreOnly s (s.waitRead lk r) := by
  unfold State.waitRead
  split
  · exact .refl s
  · split
    · exact .refl s
    · exact s.setPrep_storeOnly ..

/-! Lines and leaves. -/

theorem leafKey_eq (ctx a : Nat) : leafKey ctx a = leafOfLine (lineKey ctx a) := by
  simp only [leafKey, leafOfLine, lineKey]
  omega

/-- An access within a line lies in one leaf. -/
theorem leafSteps_of_line {a n : Nat} (hn : 0 < n) (h : a % 256 + n ≤ 256) : leafSteps a n = [a] := by
  have h1 : (a % 4096 + n + 4095) / 4096 = 1 := by omega
  simp [leafSteps, h1]

/-! A load of one part. -/

/-- A `.gl` load of relaxed order with one part in one line, the first of its group and out of its queue, whose leaf is in the LIB. -/
structure LineLoad (s : State) (op : Nat) (o : MemOp) (g : Group) (x : Part) : Prop where
  here : s.ops.get? op = some o
  grp : s.grp o.gid = some g
  kind : o.kind = .lds ∨ ∃ sx, o.kind = .ld sx
  space : o.space = .gl
  order : o.order = .rlx
  parts : o.parts = [x]
  left : o.queued = false
  unserved : x.served = false
  mtype : x.mt.toNat < 2
  first : firstOf s op o.gid
  cluster : coreCluster (s.grpCore g) = s.grpCluster g
  pos : 0 < o.width
  line : x.addr % 256 + o.width ≤ 256
  leaf : ∃ lf, (s.cl (s.grpCluster g)).lib.get? (leafOfLine (lineKey g.ctx x.addr)) = some lf ∧ lf.landed = true

theorem LineLoad.not_dev (h : LineLoad s op o g x) : isDev x = false := by
  have := h.mtype
  simp only [isDev, decide_eq_false_iff_not]
  omega

theorem LineLoad.lineParts (h : LineLoad s op o g x) : o.lineParts g.ctx (lineKey g.ctx x.addr) = [x] := by
  simp [MemOp.lineParts, h.parts, h.unserved, h.not_dev]

theorem LineLoad.readsLines (h : LineLoad s op o g x) : readsLines o = true := by
  rcases h.kind with hk | ⟨sx, hk⟩
  · simp [Machine.readsLines, h.space, hk]
  · simp [Machine.readsLines, h.space, hk]

theorem LineLoad.span (h : LineLoad s op o g x) : o.span x = o.width := by
  rcases h.kind with hk | ⟨sx, hk⟩
  · simp only [MemOp.span, hk]
  · simp only [MemOp.span, hk]

/-- R367: it waits for no fill. -/
theorem LineLoad.partWaits (h : LineLoad s op o g x) : s.partWaits o x = false := by
  obtain ⟨lf, hlf, hlanded⟩ := h.leaf
  simp [State.partWaits, h.grp, h.span, leafSteps_of_line h.pos h.line, State.leafWaits, leafKey_eq, hlf, hlanded]

theorem LineLoad.mayPerform (h : LineLoad s op o g x) : s.mayPerform op o x = true :=
  State.mayPerform_of_firstOf h.left h.order h.partWaits h.first

/-- The cluster's own stores hold the part's bytes. -/
def State.ownsPart (s : State) (o : MemOp) (g : Group) (x : Part) : Prop :=
  maskBytes (x.addr % 256) o.width &&& ~~~(s.ownBytes (s.grpCluster g) (lineKey g.ctx x.addr)).1 = 0

theorem coversParts_singleton {m : LineMask} {n : Nat} : coversParts m n [x] = true ↔ maskBytes (x.addr % 256) n &&& ~~~m = 0 := by
  simp only [coversParts, List.all_cons, List.all_nil, Bool.and_true, beq_iff_eq]

/-- LOAD_SERVE_HOME of a part whose bytes the cluster does not hold: a peer is asked, or the home serves it. -/
theorem LineLoad.goesHome (h : LineLoad s op o g x) (hown : ¬ s.ownsPart o g x) : execLoadServeHome op x.lane s =
    if s.isRemote (lineKey g.ctx x.addr) then
      .next (s.askLine op (lineLane o g.ctx (lineKey g.ctx x.addr)) (s.grpCluster g) g.ctx (lineKey g.ctx x.addr) [x])
    else .next (s.serveHome op g (lineKey g.ctx x.addr) x) := by
  have hfind : o.parts.find? (fun y => y.lane == x.lane && !y.served && !isDev y) = some x := by simp [h.parts, h.unserved, h.not_dev]
  have hcovers : coversParts (s.ownBytes (s.grpCluster g) (lineKey g.ctx x.addr)).1 o.width [x] = false :=
    Bool.eq_false_iff.2 (fun hc => hown (coversParts_singleton.1 hc))
  simp only [execLoadServeHome, h.here, h.grp, hfind, h.lineParts, h.readsLines, List.all_cons, List.all_nil, h.mayPerform, hcovers, Bool.not_true, Bool.and_true,
    Bool.or_self, Bool.false_eq_true, if_false]

/-- The part of a load that a line serves. -/
def Part.fromLine (x : Part) (now : BitVec 64) (d : Line) (n : Nat) : Part :=
  { x with served := true, servedAt := now, val := BitVec.ofNat 128 (Line.field d (x.addr % 256) n) }

theorem LineLoad.takeLine {u : State} (h : LineLoad s op o g x) (d : Line) (hu : u.ops = s.ops) :
    (u.takeLine op g.ctx (lineKey g.ctx x.addr) d).ops.get? op = some { o with parts := [x.fromLine u.pcc d o.width] } := by
  rw [State.takeLine, State.get?_modOp (o := o) _ (by rw [hu]; exact h.here)]
  simp [h.parts, h.unserved, h.not_dev, Part.fromLine]

/-- R217: a PREP entry makes the load wait. -/
theorem LineLoad.waits (h : LineLoad s op o g x) (hown : ¬ s.ownsPart o g x) (hhome : s.isRemote (lineKey g.ctx x.addr) = false)
    (hcached : s.cachedLine (s.grpCore g) g.ctx x.addr = none) (hprep : (s.homeEntry (lineKey g.ctx x.addr)).prep = true) :
    ∃ st, execLoadServeHome op x.lane s = .next (s.setStore st) := by
  obtain ⟨lf, hlf, hlanded⟩ := h.leaf
  obtain ⟨st, hst⟩ := s.waitRead_storeOnly (lineKey g.ctx x.addr) (.op op)
  refine ⟨st, ?_⟩
  rw [h.goesHome hown, hhome, if_neg Bool.false_ne_true, ← hst]
  simp only [State.serveHome, h.cluster, hlf, hlanded, hcached, State.prepAt, hprep, Option.isSome_none, Bool.not_true, Bool.or_self, Bool.false_eq_true, if_false,
    if_true]

/-- R126: the home's bytes, under the cluster's own. -/
theorem LineLoad.served (h : LineLoad s op o g x) (hown : ¬ s.ownsPart o g x) (hhome : s.isRemote (lineKey g.ctx x.addr) = false)
    (hcached : s.cachedLine (s.grpCore g) g.ctx x.addr = none) (hprep : (s.homeEntry (lineKey g.ctx x.addr)).prep = false) :
    ∃ t, execLoadServeHome op x.lane s = .next t ∧ (∃ y, t.ops.get? op = some { o with parts := [y] } ∧ y.served = true ∧
      y.val = BitVec.ofNat 128 (s.loadHome (s.grpCluster g) g.ctx x.addr o.width)) ∧ t.mems = s.mems := by
  let lk := lineKey g.ctx x.addr
  let own := s.ownBytes (s.grpCluster g) lk
  let u := (s.countLocal (pageOfLine lk)).fillL1 (s.grpCore g) g.ctx x.addr x (s.homeLine lk)
  obtain ⟨lf, hlf, hlanded⟩ := h.leaf
  obtain ⟨st, hst⟩ := (u.takeLine op g.ctx lk (mergeLine own.1 own.2 (s.homeLine lk))).doneRead_storeOnly lk (.op op)
  have hops : u.ops = s.ops := by
    dsimp only [u]
    unfold State.fillL1
    split <;> rfl
  have hmems : u.mems = s.mems := by simp [u]
  have hstep : execLoadServeHome op x.lane s = .next ((u.takeLine op g.ctx lk (mergeLine own.1 own.2 (s.homeLine lk))).setStore st) := by
    rw [h.goesHome hown, hhome, if_neg Bool.false_ne_true, ← hst]
    simp only [State.serveHome, h.cluster, hlf, hlanded, hcached, State.prepAt, hprep, Option.isSome_none, Bool.not_true, Bool.or_self, Bool.false_eq_true, if_false]
    rfl
  exact ⟨_, hstep, ⟨_, h.takeLine _ hops, rfl, rfl⟩, hmems⟩

/-- The part of a load whose line's owner has been asked, with the bytes that the cluster holds. -/
def Part.ask (x : Part) (own : LineMask × Line) (n : Nat) : Part :=
  { x with asked := true, val := BitVec.ofNat 128 (Line.field own.2 (x.addr % 256) n), data := BitVec.ofNat 256 (own.1.toNat / 2 ^ (x.addr % 256) % 2 ^ n) }

/-- R378: the owner of the line is asked for it. -/
theorem LineLoad.asks (h : LineLoad s op o g x) (hown : ¬ s.ownsPart o g x) (hhome : s.isRemote (lineKey g.ctx x.addr) = true) (hasked : x.asked = false) :
    ∃ t m n, execLoadServeHome op x.lane s = .next t ∧
      t.ops.get? op = some { o with parts := [x.ask (s.ownBytes (s.grpCluster g) (lineKey g.ctx x.addr)) o.width] } ∧
      t.outbox.get? s.fresh = some m ∧ m.peer = s.ownerOf (lineKey g.ctx x.addr) ∧
      m.body = .load op n g.ctx (lineAddr (lineKey g.ctx x.addr)) 256 ∧ t.mems = s.mems := by
  have hstep := h.goesHome hown
  have hnone : [x].any (·.asked) = false := by simp [hasked]
  rw [hhome, if_pos rfl, State.askLine, hnone, if_neg Bool.false_ne_true] at hstep
  refine ⟨_, _, _, hstep, ?_, FMap.get?_set_self .., rfl, rfl, rfl⟩
  refine (State.get?_modOp (o := o) _ h.here).trans ?_
  simp only [h.parts, List.map_cons, List.map_nil, h.unserved, h.not_dev, beq_self_eq_true, Bool.not_false, Bool.and_self, if_true, Part.ask]

/-! LOAD_RETURN of a part whose bytes the cluster's own stores hold (R126). -/

theorem State.maybeDrop_eq (s : State) (core : Nat) (lks : List Nat) : ∃ f cs, s.maybeDrop core lks = { s with free := f, cores := cs } := by
  unfold State.maybeDrop
  dsimp only
  split
  · exact ⟨_, _, rfl⟩
  · exact ⟨_, _, rfl⟩

theorem LineLoad.dropped (h : LineLoad s op o g x) (lks : List Nat) : LineLoad (s.maybeDrop (s.grpCore g) lks) op o g x ∧
    (∀ cl lk, (s.maybeDrop (s.grpCore g) lks).ownBytes cl lk = s.ownBytes cl lk) ∧ (s.maybeDrop (s.grpCore g) lks).grpCore g = s.grpCore g ∧
    (s.maybeDrop (s.grpCore g) lks).grpCluster g = s.grpCluster g := by
  obtain ⟨f, cs, heq⟩ := s.maybeDrop_eq (s.grpCore g) lks
  rw [heq]
  exact ⟨⟨h.here, h.grp, h.kind, h.space, h.order, h.parts, h.left, h.unserved, h.mtype, h.first, h.cluster, h.pos, h.line, h.leaf⟩, fun _ _ => rfl, rfl, rfl⟩

theorem LineLoad.loadLine_owned (h : LineLoad s op o g x) (hown : s.ownsPart o g x) :
    s.loadLine op (s.grpCore g) g.ctx o (lineKey g.ctx x.addr) =
      (s.takeLine op g.ctx (lineKey g.ctx x.addr) (s.ownBytes (s.grpCluster g) (lineKey g.ctx x.addr)).2).doneRead (lineKey g.ctx x.addr) (.op op) := by
  have hcovers : coversParts (s.ownBytes (s.grpCluster g) (lineKey g.ctx x.addr)).1 o.width [x] = true := coversParts_singleton.2 hown
  simp only [State.loadLine, h.lineParts, h.cluster, List.all_cons, List.all_nil, h.mayPerform, hcovers, Bool.and_true, Bool.not_true, Bool.false_eq_true, if_false,
    if_true]

theorem LineLoad.stepLoad_owned (h : LineLoad s op o g x) (hown : s.ownsPart o g x) : ∃ u, s.stepLoad op g = u ∧
    u.ops.get? op = some { o with parts := [x.fromLine u.pcc (s.ownBytes (s.grpCluster g) (lineKey g.ctx x.addr)).2 o.width] } ∧
    u.grp o.gid = some g := by
  let lk := lineKey g.ctx x.addr
  obtain ⟨hu, hbytes, hcore, hcl⟩ := h.dropped [lk]
  let u := s.maybeDrop (s.grpCore g) [lk]
  have hownu : u.ownsPart o g x := by
    rw [State.ownsPart, hcl, hbytes]
    exact hown
  have hkeys : ((o.parts.filter (fun x => !x.served && !isDev x)).map (fun x => lineKey g.ctx x.addr)).dedup = [lk] := by
    simp [h.parts, h.unserved, h.not_dev, lk]
  have hdevs : o.parts.any isDev = false := by simp [h.parts, h.not_dev]
  have hline := hu.loadLine_owned hownu
  rw [hcore, hcl, hbytes] at hline
  have hstep : s.stepLoad op g = (u.takeLine op g.ctx lk (s.ownBytes (s.grpCluster g) lk).2).doneRead lk (.op op) := by
    simp only [State.stepLoad, h.here, hkeys, hdevs, List.foldl_cons, List.foldl_nil, Bool.false_eq_true, if_false]
    exact hline
  obtain ⟨st, hst⟩ := (u.takeLine op g.ctx lk (s.ownBytes (s.grpCluster g) lk).2).doneRead_storeOnly lk (.op op)
  refine ⟨_, hstep, ?_, ?_⟩
  · rw [hst]
    exact hu.takeLine _ rfl
  · rw [hst]
    exact hu.grp

/-- The end of an operation of one part that has performed. -/
theorem State.putDone_singleton {y : Part} (ho : s.ops.get? op = some o) (hg : s.grp o.gid = some g) (hr : o.order = .rlx) (hp : o.parts = [y])
    (hput : y.put = false) (hdone : s.partDone o 0 y = true) : ∃ g', (s.putDone op).grp o.gid = some g' ∧ (s.putDone op).ops = s.ops.erase op ∧
      g'.regs = putPart o g.regs y ∧ g'.loads = g.loads - (if isLoadKind o.kind then 1 else 0) := by
  let u := (s.modGrp o.gid (fun g => { g with regs := putPart o g.regs y })).modOp op (fun _ => o.allPut)
  have hgrp : u.grp o.gid = some { g with regs := putPart o g.regs y } := State.grp_modGrp (fun g => { g with regs := putPart o g.regs y }) hg
  have hends : s.putDone op = u.finishOp op o.allPut := by
    simp only [State.putDone, ho, hp, List.filter_cons, List.filter_nil, hput, hdone, List.map_cons, List.map_nil, List.foldl_cons, List.foldl_nil, List.all_cons,
      List.all_nil, Bool.not_false, Bool.and_self, if_true]
    simp only [u, MemOp.allPut, hp, List.map_cons, List.map_nil]
  rw [hends, State.finishOp_of_rlx (o := o.allPut) hgrp hr]
  exact ⟨_, State.grp_modGrp (s := { u with ops := u.ops.erase op }) _ hgrp, FMap.erase_modify _ _ _, rfl, rfl⟩

theorem State.partDone_fromLine {y : Part} (hs : o.space = .gl) (hk : o.kind = .lds ∨ ∃ sx, o.kind = .ld sx) (hy : y.served = true) (hat : y.servedAt = s.pcc) :
    s.partDone o 0 y = true := by
  rcases hk with hk | ⟨sx, hk⟩
  · simp [State.partDone, hs, hk, hy, hat, State.now]
  · simp [State.partDone, hs, hk, hy, hat, State.now]

/-- The bytes of a line that a value holds. -/
theorem field_toNat (d : Line) (a n : Nat) (hn : n ≤ 16) : (BitVec.ofNat 128 (Line.field d a n)).toNat = Line.field d a n := by
  rw [BitVec.toNat_ofNat]
  refine Nat.mod_eq_of_lt ((Nat.mod_lt _ (Nat.two_pow_pos _)).trans_le (Nat.pow_le_pow_right (by omega) (by omega)))

theorem execLoadReturn_line (h : LineLoad s op o g x) : execLoadReturn op s = .next ((s.stepLoad op g).putDone op) := by
  rcases h.kind with hk | ⟨sx, hk⟩
  · simp only [execLoadReturn, h.here, h.grp, hk, h.space, if_true, State.begin_of_left h.here h.grp h.order h.left]
  · simp only [execLoadReturn, h.here, h.grp, hk, h.space, if_true, State.begin_of_left h.here h.grp h.order h.left]

theorem LineLoad.returns (h : LineLoad s op o g x) (hown : s.ownsPart o g x) (hput : x.put = false) (hw : o.width ≤ 16) :
    ∃ t g', execLoadReturn op s = .next t ∧ t.ops.get? op = none ∧ t.grp o.gid = some g' ∧ g'.loads = g.loads - 1 ∧
      (o.kind = .lds → g'.regs.greg o.dest = BitVec.ofNat 64
        (Line.field (s.ownBytes (s.grpCluster g) (lineKey g.ctx x.addr)).2 (x.addr % 256) o.width % 2 ^ (8 * o.width))) ∧ t.mems = s.mems := by
  obtain ⟨u, hu, hops, hgrp⟩ := h.stepLoad_owned hown
  obtain ⟨g', hg', hend, hregs, hloads⟩ := State.putDone_singleton hops hgrp h.order rfl hput (State.partDone_fromLine h.space h.kind rfl rfl)
  have hstep := execLoadReturn_line h
  rw [hu] at hstep
  refine ⟨_, g', hstep, by rw [hend]; exact (FMap.get?_erase ..).trans (if_pos rfl), hg', ?_, fun hk => ?_, execLoadReturn_mems hstep⟩
  · rw [hloads]
    rcases h.kind with hk | ⟨sx, hk⟩
    · simp [hk, isLoadKind]
    · simp [hk, isLoadKind]
  · rw [hregs]
    refine (putPart_greg _ _ hk).trans ?_
    exact congrArg (fun v => BitVec.ofNat 64 (v % 2 ^ (8 * o.width))) (field_toNat _ _ _ hw)

theorem homeServesLoads : homeServesLoadsRules := by
  intro s op o g x ho hg hk hs hr hp hq hx hmt hfirst hcl hw hle hline
  have load (hleaf) : LineLoad s op o g x := ⟨ho, hg, hk, hs, hr, hp, hq, hx, hmt, hfirst, hcl, hw, hline, hleaf⟩
  refine ⟨fun hleaf hown hhome hcached => ⟨fun hprep => ?_, fun hprep => ?_⟩, fun hleaf hown hhome hasked => ?_, fun hleaf hown hput => ?_⟩
  · obtain ⟨st, hstep⟩ := (load hleaf).waits hown hhome hcached hprep
    exact ⟨_, hstep, rfl, rfl, rfl⟩
  · obtain ⟨t, hstep, ⟨y, hops, hserved, hval⟩, hmems⟩ := (load hleaf).served hown hhome hcached hprep
    exact ⟨t, _, y, hstep, hops, rfl, hserved, hval, hmems⟩
  · obtain ⟨t, m, n, hstep, hops, hout, hpeer, hbody, hmems⟩ := (load hleaf).asks hown hhome hasked
    exact ⟨t, _, _, m, n, hstep, hops, rfl, rfl, hx, hout, hpeer, hbody, hmems⟩
  · exact (load hleaf).returns hown hput hle

end Sys2Proof.Machine
end

section
/-! SUPPORT of O24. What the sectors of a line read after a commit (R202, R215). -/

namespace Sys2Proof.Machine

variable {recs : FMap Rec} {e : IxEntry} {p : BitVec 44} {m : BitVec 8} {r : Rec} {j : Nat}

/-- Sector j of the record at a position. -/
def sectorAt (recs : FMap Rec) (p : BitVec 44) (j : Nat) : BitVec 256 := match recs.get? p.toNat with
  | some r => r.sector j
  | none => 0

theorem sectorAt_of_get? (h : recs.get? p.toNat = some r) : sectorAt recs p j = r.sector j := by rw [sectorAt, h]

/-- R202: the second fragment stands over the first; an entry with Z has neither. -/
theorem readSector_eq (hz : e.z = true → e.f0msk = 0 ∧ e.f1msk = 0) : readSector recs e j =
    if e.f1msk.getLsbD j then sectorAt recs e.f1pos j else if e.f0msk.getLsbD j then sectorAt recs e.f0pos j else 0 := by
  unfold readSector
  split
  next h =>
    obtain ⟨h0, h1⟩ := hz h
    simp [h0, h1]
  next => rfl

/-- A whole-line record: of an all-zero line the entry keeps Z alone. -/
theorem readSector_commit_whole (h : recs.get? p.toNat = some r) (hj : j < 8) : readSector recs (commitEntry e p 0xFF r.fmt) j = r.sector j := by
  by_cases h5 : r.fmt = 5
  · have hzero : r.sector j = 0 := by simp [Rec.sector, h5, fmtFrag, expandLine, Line.sector]
    simp [commitEntry, h5, readSector, hzero]
  · have hall : (0xFF : BitVec 8).getLsbD j = true := by
      have : ∀ j < 8, (0xFF : BitVec 8).getLsbD j = true := by decide
      exact this j hj
    rw [readSector_eq (by simp [commitEntry])]
    simp only [commitEntry, if_true, h5, if_false, hall, sectorAt_of_get? h]
    simp

/-- The sectors of a mask that a commit of mask m leaves with their fragment. -/
theorem getLsbD_kept (k m : BitVec 8) (hj : j < 8) : (k &&& ~~~m).getLsbD j = (k.getLsbD j && !m.getLsbD j) := by simp [hj]

theorem kept_of_zero {k : BitVec 8} (h : k &&& ~~~m = 0) (hj : j < 8) (hm : m.getLsbD j = false) : k.getLsbD j = false := by
  have hbit := getLsbD_kept k m hj
  rw [h, hm] at hbit
  simpa using hbit.symm

/-- A commit of some sectors makes them a fragment of their own over what the entry keeps. -/
theorem readSector_commit_some (h : recs.get? p.toNat = some r) (himg : needsImage e m = false) (hm : m ≠ 0xFF)
    (hz : e.z = true → e.f0msk = 0 ∧ e.f1msk = 0) (hj : j < 8) :
    readSector recs (commitEntry e p m r.fmt) j = if m.getLsbD j then r.sector j else readSector recs e j := by
  rw [readSector_eq hz, commitEntry, if_neg hm]
  dsimp only
  by_cases h0 : e.f0msk &&& ~~~m = 0
  · by_cases h1 : e.f1msk &&& ~~~m = 0
    · rw [if_pos ⟨h0, h1⟩, readSector_eq (by simp), sectorAt_of_get? h]
      cases hmj : m.getLsbD j
      · simp [kept_of_zero h0 hj hmj, kept_of_zero h1 hj hmj]
      · simp
    · rw [if_neg (fun h => h1 h.2), if_pos h0, readSector_eq (by simp), sectorAt_of_get? h, getLsbD_kept _ _ hj]
      cases hmj : m.getLsbD j
      · simp [kept_of_zero h0 hj hmj]
      · simp
  · have h1 : e.f1msk &&& ~~~m = 0 := by
      by_contra h1
      have hboth : needsImage e m = true := by simp only [needsImage, bne_iff_ne.2 hm, bne_iff_ne.2 h0, bne_iff_ne.2 h1, Bool.and_self]
      rw [himg] at hboth
      cases hboth
    rw [if_neg (fun h => h0 h.1), if_neg h0, readSector_eq (by simp), sectorAt_of_get? h, getLsbD_kept _ _ hj]
    cases hmj : m.getLsbD j
    · simp [kept_of_zero h1 hj hmj]
    · simp

theorem commitReadsBack : commitReadsBackRules := by
  intro recs e p m r j h himg hj _ hz
  by_cases hm : m = 0xFF
  · subst hm
    have hall : ∀ j < 8, (0xFF : BitVec 8).getLsbD j = true := by decide
    rw [readSector_commit_whole h hj, if_pos (hall j hj)]
  · exact readSector_commit_some h himg hm hz hj

/-- Settles O24: SEND's writes and end, loads at the home, and the sectors after a commit. -/
theorem sendsAndHomeLoads : Obligations.SendsAndHomeLoads := ⟨sendArrives, homeServesLoads, commitReadsBack⟩

end Sys2Proof.Machine
end

section
/-! SUPPORT of O33. RUN_RESUME: a waiting run goes on at its word or after it, or first asks for a publication (R127, R131, R133, R134, R166). -/

namespace Sys2Proof.Machine

variable {s : State} {gid : Nat} {g : Group} {r : Run}

/-! The request of a release (R127, R210). -/

/-- Lodging ready requests leaves what they ask for as it was. -/
theorem State.lodgeReady_req {n : Nat} {q : Req} (h : s.store.reqs.get? n = some q) :
    ∃ q', s.lodgeReady.store.reqs.get? n = some q' ∧ q'.kind = q.kind ∧ q'.log = q.log ∧ q'.upto = q.upto := by
  refine List.foldlRecOn _ _ (motive := fun t : State => ∃ q', t.store.reqs.get? n = some q' ∧ q'.kind = q.kind ∧ q'.log = q.log ∧ q'.upto = q.upto)
    ⟨q, h, rfl, rfl, rfl⟩ (fun t ht p _ => ?_)
  obtain ⟨q', hq', hkind, hlog, hupto⟩ := ht
  by_cases hn : p.1 = n
  · subst hn
    exact ⟨{ q' with st := .waiting, since := t.pcc }, (FMap.get?_modify_self ..).trans (congrArg (Option.map _) hq'), hkind, hlog, hupto⟩
  · exact ⟨q', (FMap.get?_modify ..).trans ((if_neg (Ne.symm hn)).trans hq'), hkind, hlog, hupto⟩

theorem State.lodgeAfter_req (s : State) (log ctx gid : Nat) (kind : ReqKind) : ∃ q, (s.lodgeAfter log ctx gid kind).2.store.reqs.get? s.fresh = some q ∧
    q.kind = kind ∧ q.log = log ∧ q.upto = s.fresh :=
  State.lodgeReady_req (s := s.asks log ctx gid kind) (FMap.get?_set_self ..)

/-! RUN_RESUME. -/

/-- A waiting run or a ready group of higher priority stands on the core. -/
def State.higherOn (s : State) (g : Group) : Prop :=
  (∃ p ∈ s.resumers (s.grpCore g), g.prio.toNat < p.2.prio.toNat) ∨ ∃ p ∈ s.contenders (s.grpCore g), g.prio.toNat < p.2.1.prio.toNat

/-- A waiting run may go on now (R166). -/
def State.mayResume (s : State) (gid : Nat) (g : Group) (r : Run) : Prop :=
  s.resumeOk gid g r = true ∧ s.portsBusy (s.grpCore g) = false ∧ ¬ s.higherOn g

/-- The same, as RUN_RESUME computes it. -/
def State.resumesNow (s : State) (gid : Nat) (g : Group) (r : Run) : Bool :=
  s.resumeOk gid g r && !s.portsBusy (s.grpCore g) && !((s.resumers (s.grpCore g)).any (fun p => decide (g.prio.toNat < p.2.prio.toNat)) ||
    (s.contenders (s.grpCore g)).any (fun p => decide (g.prio.toNat < p.2.1.prio.toNat)))

theorem State.resumesNow_iff : s.resumesNow gid g r = true ↔ s.mayResume gid g r := by
  simp only [State.resumesNow, State.mayResume, State.higherOn, Bool.and_eq_true, Bool.not_eq_true', Bool.or_eq_false_iff, List.any_eq_false, decide_eq_true_eq,
    not_or, not_exists, not_and, and_assoc]

/-- Whether a run's fence has still to ask for its publication. -/
def Run.unasked (r : Run) : Prop := ∃ sc upto acq so, r.wait = .fence sc upto none acq so ∧ scopeWide sc = true

theorem execRunResume_of_asked (hg : s.grp gid = some g) (hr : g.run = some r) (hw : ¬ r.unasked) :
    execRunResume gid s = .next (if s.resumesNow gid g r then s.resumeRun gid r else s) := by
  simp only [execRunResume, hg, hr]
  split
  next sc upto acq so hwait =>
    have hnarrow : scopeWide sc = false := Bool.eq_false_iff.2 (fun hsc => hw ⟨sc, upto, acq, so, hwait, hsc⟩)
    rw [hnarrow, if_neg Bool.false_ne_true]
    rfl
  next => rfl

theorem execRunResume_goes (hg : s.grp gid = some g) (hr : g.run = some r) (hw : ¬ r.unasked) (hok : s.mayResume gid g r) :
    execRunResume gid s = .next (s.resumeRun gid r) := by
  rw [execRunResume_of_asked hg hr hw, if_pos (State.resumesNow_iff.2 hok)]

theorem execRunResume_stays (hg : s.grp gid = some g) (hr : g.run = some r) (hw : ¬ r.unasked) (hok : ¬ s.mayResume gid g r) : execRunResume gid s = .next s := by
  rw [execRunResume_of_asked hg hr hw, if_neg (fun h => hok (State.resumesNow_iff.1 h))]

/-- R127: a release whose group's earlier accesses have performed asks for its publication. -/
theorem execRunResume_asks {sc : Scope} {upto so : Nat} {acq : Bool} (hg : s.grp gid = some g) (hr : g.run = some r)
    (hw : r.wait = .fence sc upto none acq so) (hsc : scopeWide sc = true) (hheld : s.relHeld gid upto = false) : ∃ t q, execRunResume gid s = .next t ∧
      t.grp gid = some { g with run := some { r with wait := .fence sc upto (some s.fresh) acq so } } ∧ t.store.reqs.get? s.fresh = some q ∧
      q.kind = .batch ∧ q.log = s.grpCluster g ∧ q.upto = s.fresh ∧ t.mems = s.mems := by
  let u := (s.lodgeAfter (s.grpCluster g) g.ctx gid .batch).2
  obtain ⟨st, hst⟩ := s.lodgeAfter_store (s.grpCluster g) g.ctx gid .batch
  obtain ⟨q, hq, hkind, hlog, hupto⟩ := s.lodgeAfter_req (s.grpCluster g) g.ctx gid .batch
  have hu : u = s.newNum.2.setStore st := congrArg Prod.snd hst
  have hgu : u.grp gid = some g := by rw [hu]; exact hg
  have hmems : u.mems = s.mems := by rw [hu]; rfl
  have hstep : execRunResume gid s = .next (u.modRun gid false (fun r => { r with wait := .fence sc upto (some s.fresh) acq so })) := by
    simp only [execRunResume, hg, hr, hw, hsc, hheld, if_true, Bool.false_eq_true, if_false]
    rfl
  rw [State.modRun_eq _ hgu (show g.runOn false = some r from hr)] at hstep
  exact ⟨_, q, hstep, State.grp_setGrp_self .., hq, hkind, hlog, hupto, hmems⟩

/-- The run of a fence that has been asked for, or needs no publication. -/
theorem Run.not_unasked {sc : Scope} {upto so : Nat} {req : Option Nat} {acq : Bool} (hw : r.wait = .fence sc upto req acq so)
    (h : scopeWide sc = false ∨ req ≠ none) : ¬ r.unasked := by
  rintro ⟨sc', upto', acq', so', hw', hsc⟩
  rw [hw] at hw'
  cases hw'
  rcases h with h | h
  · rw [h] at hsc
    cases hsc
  · exact h rfl

/-- The run of any other wait. -/
theorem Run.not_unasked_of (h : ∀ sc upto acq so, r.wait ≠ .fence sc upto none acq so) : ¬ r.unasked := fun ⟨sc, upto, acq, so, hw, _⟩ => h sc upto acq so hw

/-- The acquire of a fence counts in no class: the group is as it was. -/
theorem State.pushAcquire_keeps (s : State) (gid : Nat) (r : Run) (sc : Scope) (hg : s.grp gid = some g) : (s.pushAcquire gid r sc).grp gid = some g ∧
    (s.pushAcquire gid r sc).mems = s.mems ∧ (s.pushAcquire gid r sc).store = s.store := by
  obtain ⟨-, hgroups, hmems, hstore⟩ := s.pushOp_frame gid (s.acquireOp gid r sc)
  exact ⟨(congrArg (fun m : FMap Group => m.get? gid) hgroups).trans (State.grp_modGrp _ hg), hmems, hstore⟩

theorem runResumesRules_hold : runResumesRules := by
  intro s gid g r hg hr
  have hrun : g.runOn false = some r := hr
  refine ⟨fun sc upto acq so hw hsc hheld => ?_, fun sc upto acq so hw hsc hheld => execRunResume_asks hg hr hw hsc hheld,
    fun sc upto req acq so hw hsc hok => ?_, fun op hw hok => ?_, fun k hw hok => ?_, fun hok hw => ?_, fun k hw => ?_⟩
  · simp [exec, execRunResume, hg, hr, hw, hsc, hheld]
  · have hgo : exec (.runResume gid) s = .next (s.resumeRun gid r) := execRunResume_goes hg hr (Run.not_unasked hw hsc) hok
    refine ⟨fun hso hacq => ?_, fun hso hacq => ?_, fun hso hend => ?_, fun hso hend hacq => ?_, fun hso hend hacq => ?_⟩
    · simp only [hgo, State.resumeRun, hw, hso, hacq, if_true, Bool.false_eq_true, if_false, State.modRun_eq _ hg hrun]
      rfl
    · simp only [hgo, State.resumeRun, hw, hso, hacq, Nat.reduceEqDiff, if_true, Bool.false_eq_true, if_false, State.modRun_eq _ hg hrun]
      rfl
    · simp only [hgo, State.resumeRun, hw, hso, hend, Nat.reduceEqDiff, if_true, if_false, State.modRun_eq _ hg hrun]
      rfl
    · simp only [hgo, State.resumeRun, hw, hso, hend, hacq, Nat.reduceEqDiff, if_false, Bool.false_eq_true, State.modRun_eq _ hg hrun]
      rfl
    · obtain ⟨hgu, hmems, hstore⟩ := s.pushAcquire_keeps gid r sc hg
      have hstep : exec (.runResume gid) s =
          .next ((s.pushAcquire gid r sc).modRun gid false (fun r => bumpRun 1 { r with wait := .none })) := by
        simp only [hgo, State.resumeRun, hw, hso, hend, hacq, Nat.reduceEqDiff, if_true, if_false, Bool.false_eq_true]
      rw [State.modRun_eq _ hgu hrun] at hstep
      exact ⟨_, hstep, State.grp_setGrp_self .., hmems, hstore⟩
  · rw [show exec (.runResume gid) s = .next (s.resumeRun gid r) from execRunResume_goes hg hr (Run.not_unasked_of (by simp [hw])) hok]
    simp only [State.resumeRun, hw, State.modRun_eq _ hg hrun]
    rfl
  · rw [show exec (.runResume gid) s = .next (s.resumeRun gid r) from execRunResume_goes hg hr (Run.not_unasked_of (by rcases hw with hw | ⟨till, hw⟩ <;> simp [hw])) hok]
    rcases hw with hw | ⟨till, hw⟩
    all_goals
      simp only [State.resumeRun, hw, State.modRun_eq _ hg hrun]
      rfl
  · refine execRunResume_stays hg hr ?_ hok
    rintro ⟨sc, upto, acq, so, hwait, hsc⟩
    rw [hw sc upto acq so hwait] at hsc
    cases hsc
  · refine execRunResume_stays hg hr (Run.not_unasked_of (by simp [hw])) (fun hok => ?_)
    obtain ⟨hyes, -⟩ := hok
    simp [State.resumeOk, hw] at hyes

end Sys2Proof.Machine
end

section
/-! SUPPORT of O33. Yields, barriers and the STALL watchdog (R171, R182, R183, R185). -/

namespace Sys2Proof.Machine

variable {s : State} {gid : Nat} {g : Group} {e : Entry} {toks : List Nat}

/-! YIELD_EXPIRE. -/

theorem yieldStands {idx : Nat} (hg : s.grp gid = some g) (hr : g.run = none) (hr2 : g.run2 = none) (he : g.pcs[idx]? = some e) (hy : e.yielded s.pcc = true) :
    exec (.yieldExpire gid idx) s = .next (s.setGrp gid g) := by
  have hpcs : g.pcs.modify idx (fun e => if e.yielded s.pcc then e else { e with yield := none }) = g.pcs := by
    rw [modify_eq_set_of_getElem? (b := e) he (by simp [hy])]
    obtain ⟨hlt, hget⟩ := List.getElem?_eq_some_iff.1 he
    rw [← hget, List.set_getElem_self]
  have hidle : ¬ (g.run.isSome || g.run2.isSome) = true := by simp [hr, hr2]
  simp only [exec, execYieldExpire, hg]
  rw [if_neg hidle, hpcs]

/-! What a release does to an entry (R182). -/

theorem getLsbD_heldLanes (h : List (Nat × Lanes)) (l : Nat) : (heldLanes h).getLsbD l = h.any (fun p => p.2.getLsbD l) := by
  have hfold (h : List (Nat × Lanes)) (m : Lanes) : (h.foldl (fun m p => m ||| p.2) m).getLsbD l = (m.getLsbD l || h.any (fun p => p.2.getLsbD l)) := by
    induction h generalizing m with
    | nil => simp
    | cons p ps ih => simp [ih, Bool.or_assoc]
  rw [heldLanes, hfold h 0]
  simp

/-- The holds of an entry by phases that are not complete. -/
def Entry.stillHeld (e : Entry) (toks : List Nat) : List (Nat × Lanes) := e.held.filter (fun p => !decide (p.1 ∈ toks))

theorem mem_stillHeld {p : Nat × Lanes} : p ∈ e.stillHeld toks ↔ p ∈ e.held ∧ p.1 ∉ toks := by simp [Entry.stillHeld]

/-- An entry that no complete phase holds stands as it was; any other comes apart. -/
theorem releaseEntry_eq (toks : List Nat) (running : Bool) (e : Entry) : releaseEntry toks running e =
    if e.stillHeld toks = e.held then [e]
    else [{ e with mask := e.mask &&& ~~~heldLanes (e.stillHeld toks), held := [], noAge := running },
      { e with mask := e.mask &&& heldLanes (e.stillHeld toks), held := e.stillHeld toks }] := by
  have hlen : (e.stillHeld toks).length = e.held.length ↔ e.stillHeld toks = e.held :=
    ⟨fun h => List.filter_eq_self.2 (List.length_filter_eq_length_iff.1 h), fun h => congrArg List.length h⟩
  simp only [releaseEntry, ← hlen]
  rfl

/-- A complete phase holds none of the entries that it leaves. -/
theorem releaseEntry_held {running : Bool} {x : Entry} (h : x ∈ releaseEntry toks running e) : ∀ p ∈ x.held, p.1 ∉ toks := by
  rw [releaseEntry_eq] at h
  split at h
  next hsame =>
    rw [List.mem_singleton] at h
    subst h
    rw [← hsame]
    exact fun p hp => (mem_stillHeld.1 hp).2
  next =>
    rcases List.mem_cons.1 h with rfl | h
    · exact fun p hp => absurd hp List.not_mem_nil
    · rw [List.mem_singleton] at h
      subst h
      exact fun p hp => (mem_stillHeld.1 hp).2

/-- Each lane of an entry stands in one of what it comes apart into, at its PC. -/
theorem releaseEntry_lane (toks : List Nat) (running : Bool) {l : Nat} (hl : e.mask.getLsbD l = true) :
    ∃ x ∈ releaseEntry toks running e, x.pc = e.pc ∧ x.mask.getLsbD l = true := by
  have hlt : l < 64 := BitVec.lt_of_getLsbD hl
  rw [releaseEntry_eq]
  split
  · exact ⟨e, List.mem_singleton_self e, rfl, hl⟩
  · cases hs : (heldLanes (e.stillHeld toks)).getLsbD l
    · exact ⟨_, List.mem_cons_self .., rfl, by simp only [BitVec.getLsbD_and, BitVec.getLsbD_not, hl, hs, hlt]; rfl⟩
    · exact ⟨_, List.mem_cons_of_mem _ (List.mem_singleton_self _), rfl, by simp [hl, hs]⟩

/-- A lane that only complete phases held is free. -/
theorem releaseEntry_free (running : Bool) {l : Nat} (hl : e.mask.getLsbD l = true) (hheld : ∃ p ∈ e.held, p.1 ∈ toks)
    (hfree : ∀ p ∈ e.held, p.1 ∉ toks → p.2.getLsbD l = false) :
    ∃ x ∈ releaseEntry toks running e, x.pc = e.pc ∧ x.mask.getLsbD l = true ∧ x.isHeld = false := by
  have hlt : l < 64 := BitVec.lt_of_getLsbD hl
  have hne : e.stillHeld toks ≠ e.held := fun h => by
    obtain ⟨p, hp, hpt⟩ := hheld
    exact (mem_stillHeld.1 (h ▸ hp)).2 hpt
  have hstill : (heldLanes (e.stillHeld toks)).getLsbD l = false := by
    rw [getLsbD_heldLanes, List.any_eq_false]
    intro p hp
    obtain ⟨hph, hpt⟩ := mem_stillHeld.1 hp
    rw [hfree p hph hpt]
    exact Bool.false_ne_true
  rw [releaseEntry_eq, if_neg hne]
  exact ⟨_, List.mem_cons_self .., rfl, by simp only [BitVec.getLsbD_and, BitVec.getLsbD_not, hl, hstill, hlt]; rfl, rfl⟩

/-! What a release does to a group. -/

theorem groupHeld_iff : groupHeld toks g = true ↔ ∃ e ∈ g.pcs, ∃ p ∈ e.held, p.1 ∈ toks := by simp [groupHeld]

/-- The entries of a group from which complete phases have gone. -/
def Group.freed (g : Group) (toks : List Nat) : List Entry := g.pcs.flatMap (releaseEntry toks (g.run.isSome || g.run2.isSome))

theorem releaseEntries_held : ∀ e ∈ (releaseEntries toks g).pcs, ∀ p ∈ e.held, p.1 ∉ toks := by
  refine forall_formTable (P := fun e => ∀ p ∈ e.held, p.1 ∉ toks) (fun e x hx he p hp => ?_) (fun e he => ?_)
  · rcases List.mem_append.1 hp with hp | hp
    · exact hx p hp
    · exact he p hp
  · obtain ⟨y, -, hy⟩ := List.mem_flatMap.1 he
    exact releaseEntry_held hy

theorem releaseEntries_lane {l : Nat} (he : e ∈ g.pcs) (hl : e.mask.getLsbD l = true) :
    ∃ e' ∈ (releaseEntries toks g).pcs, e'.mask.getLsbD l = true ∧ e'.pc = e.pc := by
  obtain ⟨x, hx, hpc, hmask⟩ := releaseEntry_lane toks (g.run.isSome || g.run2.isSome) hl
  obtain ⟨e', he', hpc', hmask'⟩ := laneAt_formTable (es := g.freed toks) (List.mem_flatMap.2 ⟨e, he, hx⟩) hmask
  exact ⟨e', he', hmask', hpc'.trans hpc⟩

/-- A lane stands free at a PC. -/
def Entry.freeAt (pc : Pc) (l : Nat) (e : Entry) : Prop := e.pc = pc ∧ e.mask.getLsbD l = true ∧ e.isHeld = false

theorem freeAt_mergeEntry {pc : Pc} {l : Nat} (e x : Entry) (hs : sameEntry e x = true) (h : x.freeAt pc l ∨ e.freeAt pc l) : (mergeEntry x e).freeAt pc l := by
  simp only [sameEntry, Bool.and_eq_true, beq_iff_eq] at hs
  obtain ⟨⟨hpc, hheld⟩, -⟩ := hs
  have hboth : x.pc = pc ∧ x.isHeld = false ∧ e.isHeld = false := by
    rcases h with ⟨hx, -, hf⟩ | ⟨he, -, hf⟩
    · exact ⟨hx, hf, hheld.trans hf⟩
    · exact ⟨hpc.symm.trans he, hheld.symm.trans hf, hf⟩
  obtain ⟨hx, hxf, hef⟩ := hboth
  refine ⟨hx, ?_, ?_⟩
  · rcases h with ⟨-, hl, -⟩ | ⟨-, hl, -⟩
    · simp [mergeEntry, hl]
    · simp [mergeEntry, hl]
  · simp only [Entry.isHeld, Bool.not_eq_false', List.isEmpty_iff] at hxf hef
    simp [Entry.isHeld, mergeEntry, hxf, hef]

theorem releaseEntries_free {l : Nat} (he : e ∈ g.pcs) (hl : e.mask.getLsbD l = true) (hheld : ∃ p ∈ e.held, p.1 ∈ toks)
    (hfree : ∀ p ∈ e.held, p.1 ∉ toks → p.2.getLsbD l = false) :
    ∃ e' ∈ (releaseEntries toks g).pcs, e'.mask.getLsbD l = true ∧ e'.pc = e.pc ∧ e'.isHeld = false := by
  obtain ⟨x, hx, hpc, hmask, hxf⟩ := releaseEntry_free (g.run.isSome || g.run2.isSome) hl hheld hfree
  have hin : x ∈ g.freed toks := List.mem_flatMap.2 ⟨e, he, hx⟩
  have hne (y : Entry) (hy : y.freeAt e.pc l) : y.mask ≠ 0 := fun h0 => by
    obtain ⟨-, hyl, -⟩ := hy
    simp [h0] at hyl
  obtain ⟨e', he', hpc', hmask', hheld'⟩ := exists_formTable (P := Entry.freeAt e.pc l) freeAt_mergeEntry hne ⟨x, hin, hpc, hmask, hxf⟩
  exact ⟨e', he', hmask', hpc', hheld'⟩

/-! BARRIER_RELEASE. -/

/-- The release of one group's entries, with the acquire of its core. -/
def State.releaseGroup (toks : List Nat) (sc : Scope) (s : State) (p : Nat × Group) : State :=
  let s := s.modGrp p.1 (releaseEntries toks)
  match p.2.place with
  | .resident c _ => s.acquireAt c p.2.ctx sc
  | _ => s

theorem State.releaseGroup_groups (sc : Scope) (p : Nat × Group) : (s.releaseGroup toks sc p).groups = s.groups.modify p.1 (releaseEntries toks) := by
  unfold State.releaseGroup State.acquireAt
  dsimp only
  split
  · split <;> rfl
  · rfl

/-- Groups of different numbers are released one by one. -/
theorem State.grp_foldl_releaseGroup (sc : Scope) (ps : List (Nat × Group)) (hnd : (ps.map (·.1)).Nodup) (s : State) (gid : Nat) :
    (ps.foldl (State.releaseGroup toks sc) s).grp gid = if gid ∈ ps.map (·.1) then (s.grp gid).map (releaseEntries toks) else s.grp gid := by
  induction ps generalizing s with
  | nil => simp
  | cons p ps ih =>
    obtain ⟨hp, hps⟩ := List.nodup_cons.1 hnd
    have hone : (s.releaseGroup toks sc p).grp gid = if gid = p.1 then (s.grp gid).map (releaseEntries toks) else s.grp gid := by
      rw [State.grp, State.releaseGroup_groups, FMap.get?_modify]
      split
      next h => rw [h]; rfl
      next => rfl
    rw [List.foldl_cons, ih hps, hone]
    by_cases h : gid = p.1
    · subst h
      rw [if_neg hp, if_pos rfl, List.map_cons, if_pos (List.mem_cons_self ..)]
    · simp only [List.map_cons, List.mem_cons, h, if_false, false_or]

theorem FMap.get?_of_mem {α : Type} {m : FMap α} {k : Nat} {a : α} (hs : FMap.sorted m = true) (h : (k, a) ∈ m) : m.get? k = some a := by
  rw [FMap.sorted_iff] at hs
  induction m with
  | nil => cases h
  | cons c m ih =>
    obtain ⟨hhead, htail⟩ := List.pairwise_cons.1 hs
    obtain ⟨k', a'⟩ := c
    rw [FMap.get?_cons]
    rcases List.mem_cons.1 h with h | h
    · cases h
      exact if_pos rfl
    · have hlt : k' < k := hhead _ h
      rw [if_neg (by omega)]
      exact ih htail h

/-- The groups that some complete phase holds. -/
def State.heldBy (s : State) (toks : List Nat) : List (Nat × Group) := s.groups.filter (fun p => groupHeld toks p.2)

theorem State.nodup_heldBy (hs : FMap.sorted s.groups = true) : ((s.heldBy toks).map (·.1)).Nodup := by
  have hpw : (s.heldBy toks).Pairwise (fun a b => a.1 < b.1) := ((FMap.sorted_iff _).1 hs).sublist List.filter_sublist
  exact (List.pairwise_map.2 (hpw.imp (fun h => Nat.ne_of_lt h)))

theorem State.mem_heldBy (hs : FMap.sorted s.groups = true) (hg : s.grp gid = some g) : gid ∈ (s.heldBy toks).map (·.1) ↔ groupHeld toks g = true := by
  constructor
  · intro h
    obtain ⟨p, hp, rfl⟩ := List.mem_map.1 h
    obtain ⟨hmem, hheld⟩ := List.mem_filter.1 hp
    have hget : s.grp p.1 = some p.2 := FMap.get?_of_mem hs hmem
    rw [hget] at hg
    cases hg
    exact hheld
  · exact fun h => List.mem_map.2 ⟨(gid, g), List.mem_filter.2 ⟨FMap.mem_of_get? hg, h⟩, rfl⟩

/-- R182: a barrier with complete phases releases the groups that they hold. -/
theorem execBarrierRelease_grp {bar : Nat} {b : Bar} (hb : s.bars.get? bar = some b) (hc : b.complete ≠ []) (hs : FMap.sorted s.groups = true) :
    ∃ t, execBarrierRelease bar s = .next t ∧ t.bars.get? bar = some { b with complete := [] } ∧
      ∀ gid g, s.grp gid = some g → t.grp gid = some (if groupHeld b.complete g then releaseEntries b.complete g else g) := by
  let u := (s.heldBy b.complete).foldl (State.releaseGroup b.complete b.scope) s
  have hstep : execBarrierRelease bar s = .next { u with bars := u.bars.set bar { b with complete := [] } } := by
    simp only [execBarrierRelease, hb, List.isEmpty_iff, hc, if_false]
    rfl
  refine ⟨_, hstep, FMap.get?_set_self .., fun gid g hg => ?_⟩
  refine (State.grp_foldl_releaseGroup b.scope _ (State.nodup_heldBy hs) s gid).trans ?_
  by_cases h : groupHeld b.complete g = true
  · rw [if_pos ((State.mem_heldBy hs hg).2 h), if_pos h, hg]
    rfl
  · rw [if_neg (fun hm => h ((State.mem_heldBy hs hg).1 hm)), if_neg h, hg]

/-- R182: what a release leaves of a group. -/
def releasedFrom (toks : List Nat) (g g' : Group) : Prop := g'.regs = g.regs ∧ g'.run = g.run ∧
  ((∀ e ∈ g.pcs, ∀ p ∈ e.held, p.1 ∉ toks) → g' = g) ∧
  (∀ e ∈ g'.pcs, ∀ p ∈ e.held, p.1 ∉ toks) ∧
  (∀ e ∈ g.pcs, (∃ p ∈ e.held, p.1 ∈ toks) → ∀ l < 64, e.mask.getLsbD l = true → (∀ p ∈ e.held, p.1 ∉ toks → p.2.getLsbD l = false) →
    ∃ e' ∈ g'.pcs, e'.mask.getLsbD l = true ∧ e'.pc = e.pc ∧ e'.isHeld = false) ∧
  (∀ e ∈ g.pcs, ∀ l < 64, e.mask.getLsbD l = true → ∃ e' ∈ g'.pcs, e'.mask.getLsbD l = true ∧ e'.pc = e.pc)

theorem releasedFrom_released (toks : List Nat) (g : Group) : releasedFrom toks g (if groupHeld toks g then releaseEntries toks g else g) := by
  split
  next h =>
    obtain ⟨e, he, p, hp, hpt⟩ := groupHeld_iff.1 h
    exact ⟨rfl, rfl, fun hno => absurd hpt (hno e he p hp), releaseEntries_held, fun e he hheld l _ hl hfree => releaseEntries_free he hl hheld hfree,
      fun e he l _ hl => releaseEntries_lane he hl⟩
  next h =>
    have hno : ∀ e ∈ g.pcs, ∀ p ∈ e.held, p.1 ∉ toks := fun e he p hp hpt => h (groupHeld_iff.2 ⟨e, he, p, hp, hpt⟩)
    exact ⟨rfl, rfl, fun _ => rfl, hno, fun e he ⟨p, hp, hpt⟩ => absurd hpt (hno e he p hp), fun e he l _ hl => ⟨e, he, hl, rfl⟩⟩

/-! STALL (R185). -/

/-- The trap of a group that has waited STALLWD cycles: the entry it names is chosen as it is taken. -/
def stallTrap : Trap :=
  { cause := .stall, deferred := false, ofs := 0, wpc := 0, mask := 0, lanes := 0, detail0 := 0, detail1 := 0, detail2 := 0, req := none }

theorem execStall_early (hg : s.grp gid = some g) (hd : s.due (g.stallFrom + g.stallwd.setWidth 64) = false) : execStall gid s = .next s := by
  simp only [execStall, hg, hd, Bool.and_false, Bool.false_eq_true, if_false]

theorem execStall_issuing {r : Run} (hg : s.grp gid = some g) (hr : g.run = some r) (hw : r.wait = .none) : execStall gid s = .next s := by
  simp [execStall, hg, hr, hw]

theorem execStall_traps {c k : Nat} (hg : s.grp gid = some g) (hp : g.place = .resident c k) (hwait : g.run = none ∨ ∃ r, g.run = some r ∧ r.wait ≠ .none)
    (hr2 : ∀ x, g.run2 = some x → x.finished = true) (ht : g.trap = none) (hst : g.stopped = false) (hpcs : g.pcs ≠ [])
    (hd : s.due (g.stallFrom + g.stallwd.setWidth 64) = true) :
    execStall gid s = .next ((s.setGrp gid { g with run := none, trap := some stallTrap }).dropWaiter gid) := by
  have hsecond : g.run2.all (·.finished) = true := by
    cases h2 : g.run2 with
    | none => rfl
    | some x => exact hr2 x h2
  rcases hwait with hr | ⟨r, hr, hw⟩
  · simp [execStall, hg, hp, hr, hsecond, ht, hst, hpcs, hd, stallTrap]
  · simp [execStall, hg, hp, hr, hw, hsecond, ht, hst, hpcs, hd, stallTrap]

theorem yieldBarrierStall : yieldBarrierStallRules := by
  refine ⟨fun s gid g idx e hg hr hr2 he => ⟨yieldExpires hg hr hr2 he, yieldStands hg hr hr2 he⟩, fun s bar b hb => ⟨fun hc => ?_, fun hc hs => ?_⟩,
    fun s gid g c k hg hp => ⟨execStall_early hg, fun r hr hw => execStall_issuing hg hr hw, fun hwait hr2 ht hst hpcs hd => ?_⟩⟩
  · simp [exec, execBarrierRelease, hb, hc]
  · obtain ⟨t, hstep, hbar, hgrp⟩ := execBarrierRelease_grp hb hc hs
    exact ⟨t, hstep, hbar, execBarrierRelease_mems hstep, fun gid g hg => ⟨_, hgrp gid g hg, releasedFrom_released b.complete g⟩⟩
  · exact ⟨_, stallTrap, execStall_traps hg hp hwait hr2 ht hst hpcs hd, State.grp_setGrp_self .., rfl, rfl, rfl, rfl⟩

end Sys2Proof.Machine
end

section
/-! SUPPORT of O33. The end of a group, and the LOGSTALL watchdog (R177, R234, R386, R387). -/

namespace Sys2Proof.Machine

variable {s : State} {gid : Nat} {g : Group}

/-! The end of a block changes no record of the log store (R368). -/

theorem State.dropLock_store (s : State) (bk base len : Nat) : (s.dropLock bk base len).store = s.store := by
  unfold State.dropLock
  split
  · rfl
  · split
    · rfl
    · exact List.foldlRecOn _ _ (motive := fun t : State => t.store = s.store) rfl (fun t ht _ _ => ht)

theorem State.dropLocks_store (s : State) (bk : Nat) : (s.dropLocks bk).store = s.store := by
  unfold State.dropLocks
  split
  · rfl
  · exact List.foldlRecOn _ _ (motive := fun t : State => t.store = s.store) rfl (fun t ht x _ => (State.dropLock_store ..).trans ht)

theorem State.endBlock_store (s : State) (bk : Nat) : (s.endBlock bk).store = s.store := by
  unfold State.endBlock
  split
  · rfl
  · dsimp only
    split
    · rfl
    · split
      · exact State.dropLocks_store s bk
      · exact State.dropLocks_store s bk

/-! GROUP_END. -/

/-- A group between runs that no packet, trap or save keeps. -/
structure Idle (s : State) (gid : Nat) (g : Group) : Prop where
  grp : s.grp gid = some g
  run : g.run = none
  run2 : g.run2 = none
  trap : g.trap = none
  saveOp : g.saveOp = none
  pcs : g.pcs = []
  parked : g.parked = []
  deferred : g.deferred = []
  pkts : ∀ p ∈ s.pkts, p.2.gid ≠ gid

theorem Idle.no_pkt (h : Idle s gid g) : s.pkts.any (fun p => p.2.gid == gid) = false := List.any_eq_false.2 (fun p hp => by simpa using h.pkts p hp)

theorem Idle.stays (h : Idle s gid g) (hn : g.loads + g.stores + g.copies + g.tiles ≠ 0) : execGroupEnd gid s = .next s := by
  have hcount : (g.loads == 0 && g.stores == 0 && g.copies == 0 && g.tiles == 0) = false := by
    rw [Bool.eq_false_iff]
    intro hz
    simp only [Bool.and_eq_true, beq_iff_eq] at hz
    omega
  simp only [execGroupEnd, h.grp]
  refine if_neg (fun hz => ?_)
  simp only [Bool.and_eq_true] at hz hcount
  obtain ⟨⟨⟨⟨⟨-, hl⟩, hs⟩, hc⟩, ht⟩, -⟩ := hz
  simp [hl, hs, hc, ht] at hcount

theorem Idle.ends (h : Idle s gid g) (hn : g.loads + g.stores + g.copies + g.tiles = 0) : ∃ t, execGroupEnd gid s = .next t ∧ t.grp gid = none ∧
    (∀ k, k ≠ gid → t.grp k = s.grp k) ∧ t.mems = s.mems ∧ t.store = s.store := by
  have hzero : g.loads = 0 ∧ g.stores = 0 ∧ g.copies = 0 ∧ g.tiles = 0 := by omega
  have hstep : execGroupEnd gid s = .next (({ s with groups := s.groups.erase gid } : State).endBlock g.blockKey) := by
    simp only [execGroupEnd, h.grp, h.run, h.run2, h.trap, h.saveOp, h.pcs, h.parked, h.deferred, hzero, h.no_pkt]
    rfl
  have hgrp (k : Nat) : (({ s with groups := s.groups.erase gid } : State).endBlock g.blockKey).grp k = if k = gid then none else s.grp k := by
    rw [State.grp, State.endBlock_groups]
    exact FMap.get?_erase ..
  exact ⟨_, hstep, (hgrp gid).trans (if_pos rfl), fun k hk => (hgrp k).trans (if_neg hk), execGroupEnd_mems hstep, State.endBlock_store ..⟩

/-! LOGSTALL (R234). -/

theorem execLogstallExpire_run {r : Run} (hg : s.grp gid = some g) (hr : g.run = some r) (hreq : ∀ p ∈ s.store.reqs, p.2.log < 320 ∧ p.2.gid ≠ some gid)
    (haop : ∀ p ∈ s.aops, p.2.gid ≠ some gid) : execLogstallExpire gid s = .next ((s.starvedRun gid g r).starvedReq gid) := by
  simp only [execLogstallExpire, State.starvedHosts_of_none (fun p hp => (hreq p hp).1), State.starvedAops_of_none haop, hg, hr]

theorem groupEndAndLogstall : groupEndAndLogstallRules := by
  refine ⟨fun s gid g hg hr hr2 ht hv hpcs hp hdef hpkt => ?_, fun s gid g r till hg hr hw hreq haop => ⟨fun hd => ?_, fun hd => ?_⟩⟩
  · have hidle : Idle s gid g := ⟨hg, hr, hr2, ht, hv, hpcs, hp, hdef, hpkt⟩
    exact ⟨hidle.stays, hidle.ends⟩
  · have hstay : s.starvedRun gid g r = s := by simp only [State.starvedRun, hw, hd, Bool.false_eq_true, if_false]
    refine (execLogstallExpire_run hg hr hreq haop).trans ?_
    rw [hstay, State.starvedReq_of_none (fun p hp => (hreq p hp).2) haop]
  · have htrap : s.starvedRun gid g r = s.trapRun gid r .logfull (s.logLines g r).2.1 (BitVec.ofNat 64 (s.logLines g r).2.2) 0 0 := by
      simp only [State.starvedRun, hw, hd, if_true]
    have hstep : exec (.logstallExpire gid) s = .next (s.trapRun gid r .logfull (s.logLines g r).2.1 (BitVec.ofNat 64 (s.logLines g r).2.2) 0 0) := by
      refine (execLogstallExpire_run hg hr hreq haop).trans ?_
      rw [htrap, State.starvedReq_of_none (s := s.trapRun ..) (fun p hp => (hreq p hp).2) haop]
    rw [State.trapRun_eq s gid g r _ _ _ _ _ hg] at hstep
    exact ⟨_, hstep, rfl, rfl, rfl, rfl⟩

/-- Settles O33: waits and resumption, then yields, barriers and STALL, then the end of a group and LOGSTALL. -/
theorem runWaits : Obligations.RunWaits := ⟨runResumesRules_hold, yieldBarrierStall, groupEndAndLogstall⟩

end Sys2Proof.Machine
end
